-- ==== Sys2Proof/Word.lean ====
section
/-! DEFINITION. The word types of the KZ-880 and their plainest arithmetic. -/

namespace Sys2Proof

abbrev Byte := BitVec 8
abbrev Word32 := BitVec 32
abbrev Word64 := BitVec 64

/-- The program counter: a 57-bit virtual address (R43). -/
abbrev Pc := BitVec 57

/-- One element for each of a warp's 32 lanes. -/
abbrev Lanes (α : Type) := Vector α 32

/-- The 32-bit elements of one vector register. -/
abbrev VReg := Lanes Word32

/-- The lanes whose element satisfies a test, as a mask. -/
def maskOf (f : Fin 32 → Bool) : Word32 := BitVec.ofBoolListLE (List.ofFn f) |>.setWidth 32

/-- Whether lane `l` is in a mask. -/
def inMask (m : Word32) (l : Fin 32) : Bool := m.getLsbD l.val

/-- The lanes of a mask, ascending. -/
def lanesOf (m : Word32) : List (Fin 32) := (List.finRange 32).filter (inMask m)

end Sys2Proof
end

