-- ==== Sys2Proof/Config.lean ====
section
/-! DEFINITION. What an implementation fixes, and the values the manual leaves open. A constant with no body is a free
value: nothing in Lean can evaluate it or prove a value of it (log 1). -/

namespace Sys2Proof.Config

/-- The home slice of a line among its die's 32 slices: implementation-defined (R152). -/
opaque sliceOf : Nat → Fin 32

/-- Which of the 16 entries of an inconsistent 64 KiB group an access translates through (R347): the argument is the
counter of free values. -/
opaque pickEntry : Nat → BitVec 4

/-- The memory die whose slices serve a line of CXL memory, among those in the interleave: implementation-defined (R152). -/
opaque memoryDie : Nat → Nat

/-- The SHA-256 measurement of Ifelon (R358). -/
opaque measurement : BitVec 256

/-- A byte of the LMS signature of an attestation report: the report, the one-time index, the number of the byte (R358). -/
opaque signature : List (BitVec 8) → Nat → Nat → BitVec 8

/-- One 64-bit value that the manual leaves open. -/
opaque freeWord : Nat → BitVec 64

/-- Entries of a core's TLB, a die's TLB and a tensor engine's walk-ahead TLB (R160, R180). -/
def coreTlb : Nat := 64
def dieTlb : Nat := 4096
def walkTlb : Nat := 256

/-- Entries of a slice's lock table and monitor table (R243, R253). -/
def lockEntries : Nat := 512
def monitorEntries : Nat := 1024

/-- Entries of a cluster's matrix reservation table (R192). -/
def reservationEntries : Nat := 32

/-- Outstanding commands of one class that a warp may have (R178). -/
def classLimit : Nat := 255

/-- Lines of L1 that leases may use (R291). -/
def leaseLines : Nat := 1920

end Sys2Proof.Config
end

