-- ==== Sys2Proof/Syntax.lean ====
section
/-! DEFINITION. The syntax of the KZ-880: one constructor for every row of spec/opcode_table.json. The first 333
are Melyon words with the fields that 02 R46 and each chapter give them (a register number is a Fin, a flag a Bool,
an immediate or an offset a BitVec). The last 70 are the table's operations and events without an encoding: what the
hardware, the supervisor, the host or a fabric peer does. Their arguments name the object they act on and carry what
the outside world decides. -/

namespace Sys2Proof

/-- What the spare row found in a pass (R219): a match, one mismatch followed by a matching second run, or a confirmed
mismatch with its lowest column. -/
inductive SpareCheck where
  | matched
  | rerun
  | confirmed (column : Nat)
deriving DecidableEq, Repr

/-- What a site reports at enumeration (R27). -/
structure SiteReport where
  gen : Nat               -- 1 Dawn, 2 Noon (R24)
  revision : Nat
  level : Nat             -- capability level (R24)
  harvest : BitVec 16     -- one bit per cluster (R17)
  firmware : BitVec 256   -- measurement
  verified : Bool         -- the LMS verification of the measurement succeeded
deriving DecidableEq, Repr

/-- What one fabric transaction asks of its target (R312): a window access or a page of a PUT or GET. -/
inductive FabricOp where
  | store (va : Nat) (bytes : List (BitVec 8))
  | load (va n : Nat)
  | amo (op ty va : Nat) (value : BitVec 128)
deriving DecidableEq, Repr

/-- A transaction that reaches this device: its sender, its identity, the context it addresses. -/
structure Inbound where
  sender : Nat
  ident : Nat
  ctx : Nat
  op : FabricOp
deriving DecidableEq, Repr

/-- A PUSH that reaches this device (R316): target fields, origin, source format and rank, box and element codes. -/
structure PushArrival where
  sender : Nat
  ident : Nat
  ctx : Nat
  entry : Nat
  origin : BitVec 64
  fmt : Nat
  rank : Nat
  box : List Nat
  codes : List Nat
deriving DecidableEq, Repr

/-- A collective step that reaches this device (R320). -/
structure StepArrival where
  sender : Nat
  ctx : Nat
  collid : Nat
  seq : Nat
  op : Nat
  ty : Nat
  rdst : Nat
  rflag : Nat
  data : List (BitVec 8)
deriving DecidableEq, Repr

/-- A CXL.mem access of the host to the HDM range (R310): a context's package scratchpad. -/
inductive HostAccess where
  | read (ctx off n : Nat)
  | write (ctx off : Nat) (bytes : List (BitVec 8))
  | hostRead (loc n : Nat)              -- the host reads its own memory
  | hostWrite (loc : Nat) (bytes : List (BitVec 8))
  | deviceWrite (loc : Nat) (bytes : List (BitVec 8))  -- a CXL device that shares a region writes it (R311)
  | register (off size : Nat)           -- the host reads BAR 0
deriving DecidableEq, Repr

/-- Where an uncorrectable error strikes (R341, R349). -/
inductive ErrorSite where
  | granule (loc : Nat)                 -- a location of memory or of a scratchpad
  | vector (w : Nat) (r : Fin 64) (l : Fin 32)
  | scalar (w : Nat) (r : Fin 64)
  | mask (w : Nat) (r : Fin 8)
  | slot (w : Nat) (t k : Fin 16)       -- a doubleword of a TSR slot
  | csr (w : Nat) (c : Fin 256)         -- a control and status register, as the warp reads it
  | accumulator (g : Nat) (tile row col : Nat)
  | site (s : Nat)                      -- cannot be pinned to a unit of work: a VS or MX die
  | memoryDie (d : Nat)
  | ioDie (d : Nat)
  | codeCache                           -- inside the translated-code or instruction cache (R343)
deriving DecidableEq, Repr

/-- Every instruction, operation and event of the opcode table. -/
inductive Instr where
  | himm (p : BitVec 22)  -- HIMM (R51)
  | hblk (p : BitVec 22)  -- HBLK (R52)
  | hmod (p : BitVec 22)  -- HMOD (R53)
  | hsch (p : BitVec 22)  -- HSCH (R54)
  | sadd (d a b : Fin 64) (x y : Bool)  -- SADD (R70)
  | ssub (d a b : Fin 64) (x y : Bool)  -- SSUB (R70)
  | smul (d a b : Fin 64) (x y : Bool)  -- SMUL (R70)
  | smulh (d a b : Fin 64) (x y : Bool)  -- SMULH (R70)
  | smulhz (d a b : Fin 64) (x y : Bool)  -- SMULHZ (R70)
  | sdiv (d a b : Fin 64) (x y : Bool)  -- SDIV (R70)
  | sdivz (d a b : Fin 64) (x y : Bool)  -- SDIVZ (R70)
  | srem (d a b : Fin 64) (x y : Bool)  -- SREM (R70)
  | sremz (d a b : Fin 64) (x y : Bool)  -- SREMZ (R70)
  | sand (d a b : Fin 64) (x y : Bool)  -- SAND (R70)
  | sor (d a b : Fin 64) (x y : Bool)  -- SOR (R70)
  | sxor (d a b : Fin 64) (x y : Bool)  -- SXOR (R70)
  | sandn (d a b : Fin 64) (x y : Bool)  -- SANDN (R70)
  | sshl (d a b : Fin 64) (x y : Bool)  -- SSHL (R70)
  | sshr (d a b : Fin 64) (x y : Bool)  -- SSHR (R70)
  | ssra (d a b : Fin 64) (x y : Bool)  -- SSRA (R70)
  | smin (d a b : Fin 64) (x y : Bool)  -- SMIN (R70)
  | smax (d a b : Fin 64) (x y : Bool)  -- SMAX (R70)
  | sminz (d a b : Fin 64) (x y : Bool)  -- SMINZ (R70)
  | smaxz (d a b : Fin 64) (x y : Bool)  -- SMAXZ (R70)
  | sceq (d a b : Fin 64) (x y : Bool)  -- SCEQ (R70)
  | sclt (d a b : Fin 64) (x y : Bool)  -- SCLT (R70)
  | scltz (d a b : Fin 64) (x y : Bool)  -- SCLTZ (R70)
  | sclz (d a : Fin 64) (x : Bool)  -- SCLZ (R70)
  | spopc (d a : Fin 64) (x : Bool)  -- SPOPC (R70)
  | sbrev (d a : Fin 64) (x : Bool)  -- SBREV (R70)
  | saddi (d a : Fin 64) (i : BitVec 10) (x : Bool)  -- SADDI (R72)
  | sandi (d a : Fin 64) (i : BitVec 10) (x : Bool)  -- SANDI (R72)
  | sori (d a : Fin 64) (i : BitVec 10) (x : Bool)  -- SORI (R72)
  | sxori (d a : Fin 64) (i : BitVec 10) (x : Bool)  -- SXORI (R72)
  | sshli (d a : Fin 64) (i : BitVec 10) (x : Bool)  -- SSHLI (R72)
  | sshri (d a : Fin 64) (i : BitVec 10) (x : Bool)  -- SSHRI (R72)
  | ssrai (d a : Fin 64) (i : BitVec 10) (x : Bool)  -- SSRAI (R72)
  | sclti (d a : Fin 64) (i : BitVec 10) (x : Bool)  -- SCLTI (R72)
  | sli (d : Fin 64) (i : BitVec 10)  -- SLI (R73)
  | slih (d a : Fin 64) (i : BitVec 10) (x : Bool)  -- SLIH (R73)
  | saddpc (d : Fin 64) (i : BitVec 10)  -- SADDPC (R74)
  | enter (d : Fin 64) (i : BitVec 10)  -- ENTER (R75)
  | leave (i : BitVec 10)  -- LEAVE (R76)
  | beqz (a : Fin 64) (o : BitVec 17)  -- BEQZ (R78)
  | bnez (a : Fin 64) (o : BitVec 17)  -- BNEZ (R78)
  | bltz (a : Fin 64) (o : BitVec 17)  -- BLTZ (R78)
  | bgez (a : Fin 64) (o : BitVec 17)  -- BGEZ (R78)
  | blez (a : Fin 64) (o : BitVec 17)  -- BLEZ (R78)
  | bgtz (a : Fin 64) (o : BitVec 17)  -- BGTZ (R78)
  | bra (o : BitVec 17)  -- BRA (R78)
  | call (o : BitVec 26)  -- CALL (R79)
  | jmp (o : BitVec 26)  -- JMP (R79)
  | nop  -- NOP (R80)
  | jr (a : Fin 64) (x : Bool)  -- JR (R80)
  | callr (a : Fin 64) (x : Bool)  -- CALLR (R80)
  | ret  -- RET (R80)
  | exit  -- EXIT (R81)
  | brk  -- BRK (R83)
  | trap (c : Fin 64)  -- TRAP (R83)
  | yield  -- YIELD (R82)
  | brvt (m : Fin 8) (o : BitVec 17)  -- BRVT (R86)
  | brvf (m : Fin 8) (o : BitVec 17)  -- BRVF (R86)
  | fuse (n : Fin 64)  -- FUSE (R87)
  | mset (d : Fin 8) (a : Fin 64) (x : Bool)  -- MSET (R90)
  | mget (d : Fin 64) (a : Fin 8)  -- MGET (R90)
  | mand (d a b : Fin 8)  -- MAND (R90)
  | mor (d a b : Fin 8)  -- MOR (R90)
  | mxor (d a b : Fin 8)  -- MXOR (R90)
  | mandn (d a b : Fin 8)  -- MANDN (R90)
  | mnot (d a : Fin 8)  -- MNOT (R90)
  | mpopc (d : Fin 64) (a : Fin 8)  -- MPOPC (R90)
  | mffs (d : Fin 64) (a : Fin 8)  -- MFFS (R90)
  | mlive (d a : Fin 8)  -- MLIVE (R90)
  | vadd (d a b : Fin 64) (x y : Bool)  -- VADD (R97)
  | vsub (d a b : Fin 64) (x y : Bool)  -- VSUB (R97)
  | vmul (d a b : Fin 64) (x y : Bool)  -- VMUL (R97)
  | vmulh (d a b : Fin 64) (x y : Bool)  -- VMULH (R97)
  | vmulhz (d a b : Fin 64) (x y : Bool)  -- VMULHZ (R97)
  | vmin (d a b : Fin 64) (x y : Bool)  -- VMIN (R97)
  | vmax (d a b : Fin 64) (x y : Bool)  -- VMAX (R97)
  | vminz (d a b : Fin 64) (x y : Bool)  -- VMINZ (R97)
  | vmaxz (d a b : Fin 64) (x y : Bool)  -- VMAXZ (R97)
  | vand (d a b : Fin 64) (x y : Bool)  -- VAND (R97)
  | vor (d a b : Fin 64) (x y : Bool)  -- VOR (R97)
  | vxor (d a b : Fin 64) (x y : Bool)  -- VXOR (R97)
  | vandn (d a b : Fin 64) (x y : Bool)  -- VANDN (R97)
  | vshl (d a b : Fin 64) (x y : Bool)  -- VSHL (R97)
  | vshr (d a b : Fin 64) (x y : Bool)  -- VSHR (R97)
  | vsra (d a b : Fin 64) (x y : Bool)  -- VSRA (R97)
  | vabsd (d a b : Fin 64) (x y : Bool)  -- VABSD (R97)
  | vsadd (d a b : Fin 64) (x y : Bool)  -- VSADD (R97)
  | vssub (d a b : Fin 64) (x y : Bool)  -- VSSUB (R97)
  | vsaddz (d a b : Fin 64) (x y : Bool)  -- VSADDZ (R97)
  | vssubz (d a b : Fin 64) (x y : Bool)  -- VSSUBZ (R97)
  | vclz (d a : Fin 64) (x : Bool)  -- VCLZ (R97)
  | vpopc (d a : Fin 64) (x : Bool)  -- VPOPC (R97)
  | vbrev (d a : Fin 64) (x : Bool)  -- VBREV (R97)
  | vbfe (d a b : Fin 64) (x y : Bool)  -- VBFE (R97)
  | vbfi (d a b : Fin 64) (x y : Bool)  -- VBFI (R97)
  | vaddw (d a b : Fin 64) (x y : Bool)  -- VADDW (R97)
  | vsubw (d a b : Fin 64) (x y : Bool)  -- VSUBW (R97)
  | vmulw (d a b : Fin 64) (x y : Bool)  -- VMULW (R97)
  | vmulwz (d a b : Fin 64) (x y : Bool)  -- VMULWZ (R97)
  | vdiv (d a b : Fin 64) (x y : Bool)  -- VDIV (R97)
  | vdivz (d a b : Fin 64) (x y : Bool)  -- VDIVZ (R97)
  | vrem (d a b : Fin 64) (x y : Bool)  -- VREM (R97)
  | vremz (d a b : Fin 64) (x y : Bool)  -- VREMZ (R97)
  | vmov (d a : Fin 64) (x : Bool)  -- VMOV (R98)
  | vdot4 (d a b : Fin 64) (x y : Bool)  -- VDOT4 (R99)
  | vdot4z (d a b : Fin 64) (x y : Bool)  -- VDOT4Z (R99)
  | vaddScalar (d a b : Fin 64) (x y : Bool)  -- VADD_SCALAR (R96)
  | vsubScalar (d a b : Fin 64) (x y : Bool)  -- VSUB_SCALAR (R96)
  | vmulScalar (d a b : Fin 64) (x y : Bool)  -- VMUL_SCALAR (R96)
  | vmulhScalar (d a b : Fin 64) (x y : Bool)  -- VMULH_SCALAR (R96)
  | vmulhzScalar (d a b : Fin 64) (x y : Bool)  -- VMULHZ_SCALAR (R96)
  | vminScalar (d a b : Fin 64) (x y : Bool)  -- VMIN_SCALAR (R96)
  | vmaxScalar (d a b : Fin 64) (x y : Bool)  -- VMAX_SCALAR (R96)
  | vminzScalar (d a b : Fin 64) (x y : Bool)  -- VMINZ_SCALAR (R96)
  | vmaxzScalar (d a b : Fin 64) (x y : Bool)  -- VMAXZ_SCALAR (R96)
  | vandScalar (d a b : Fin 64) (x y : Bool)  -- VAND_SCALAR (R96)
  | vorScalar (d a b : Fin 64) (x y : Bool)  -- VOR_SCALAR (R96)
  | vxorScalar (d a b : Fin 64) (x y : Bool)  -- VXOR_SCALAR (R96)
  | vandnScalar (d a b : Fin 64) (x y : Bool)  -- VANDN_SCALAR (R96)
  | vshlScalar (d a b : Fin 64) (x y : Bool)  -- VSHL_SCALAR (R96)
  | vshrScalar (d a b : Fin 64) (x y : Bool)  -- VSHR_SCALAR (R96)
  | vsraScalar (d a b : Fin 64) (x y : Bool)  -- VSRA_SCALAR (R96)
  | vabsdScalar (d a b : Fin 64) (x y : Bool)  -- VABSD_SCALAR (R96)
  | vsaddScalar (d a b : Fin 64) (x y : Bool)  -- VSADD_SCALAR (R96)
  | vssubScalar (d a b : Fin 64) (x y : Bool)  -- VSSUB_SCALAR (R96)
  | vsaddzScalar (d a b : Fin 64) (x y : Bool)  -- VSADDZ_SCALAR (R96)
  | vssubzScalar (d a b : Fin 64) (x y : Bool)  -- VSSUBZ_SCALAR (R96)
  | vbfeScalar (d a b : Fin 64) (x y : Bool)  -- VBFE_SCALAR (R96)
  | vbfiScalar (d a b : Fin 64) (x y : Bool)  -- VBFI_SCALAR (R96)
  | vaddwScalar (d a b : Fin 64) (x y : Bool)  -- VADDW_SCALAR (R96)
  | vsubwScalar (d a b : Fin 64) (x y : Bool)  -- VSUBW_SCALAR (R96)
  | vmulwScalar (d a b : Fin 64) (x y : Bool)  -- VMULW_SCALAR (R96)
  | vmulwzScalar (d a b : Fin 64) (x y : Bool)  -- VMULWZ_SCALAR (R96)
  | vdivScalar (d a b : Fin 64) (x y : Bool)  -- VDIV_SCALAR (R96)
  | vdivzScalar (d a b : Fin 64) (x y : Bool)  -- VDIVZ_SCALAR (R96)
  | vremScalar (d a b : Fin 64) (x y : Bool)  -- VREM_SCALAR (R96)
  | vremzScalar (d a b : Fin 64) (x y : Bool)  -- VREMZ_SCALAR (R96)
  | vmovScalar (d b : Fin 64) (y : Bool)  -- VMOV_SCALAR (R98)
  | vaddr (d a b : Fin 64) (x y : Bool)  -- VADDR (R97)
  | vdot4Scalar (d a b : Fin 64) (x y : Bool)  -- VDOT4_SCALAR (R99)
  | vdot4zScalar (d a b : Fin 64) (x y : Bool)  -- VDOT4Z_SCALAR (R99)
  | vaddi (d a : Fin 64) (i : BitVec 10) (x : Bool)  -- VADDI (R100)
  | vandi (d a : Fin 64) (i : BitVec 10) (x : Bool)  -- VANDI (R100)
  | vori (d a : Fin 64) (i : BitVec 10) (x : Bool)  -- VORI (R100)
  | vxori (d a : Fin 64) (i : BitVec 10) (x : Bool)  -- VXORI (R100)
  | vshli (d a : Fin 64) (i : BitVec 10) (x : Bool)  -- VSHLI (R100)
  | vshri (d a : Fin 64) (i : BitVec 10) (x : Bool)  -- VSHRI (R100)
  | vsrai (d a : Fin 64) (i : BitVec 10) (x : Bool)  -- VSRAI (R100)
  | vmovi (d : Fin 64) (i : BitVec 10)  -- VMOVI (R100)
  | vceq (m : Fin 8) (a b : Fin 64) (x y : Bool)  -- VCEQ (R101)
  | vcne (m : Fin 8) (a b : Fin 64) (x y : Bool)  -- VCNE (R101)
  | vclt (m : Fin 8) (a b : Fin 64) (x y : Bool)  -- VCLT (R101)
  | vcle (m : Fin 8) (a b : Fin 64) (x y : Bool)  -- VCLE (R101)
  | vcltz (m : Fin 8) (a b : Fin 64) (x y : Bool)  -- VCLTZ (R101)
  | vclez (m : Fin 8) (a b : Fin 64) (x y : Bool)  -- VCLEZ (R101)
  | fceq (m : Fin 8) (a b : Fin 64) (x y : Bool)  -- FCEQ (R101)
  | fcne (m : Fin 8) (a b : Fin 64) (x y : Bool)  -- FCNE (R101)
  | fclt (m : Fin 8) (a b : Fin 64) (x y : Bool)  -- FCLT (R101)
  | fcle (m : Fin 8) (a b : Fin 64) (x y : Bool)  -- FCLE (R101)
  | fcun (m : Fin 8) (a b : Fin 64) (x y : Bool)  -- FCUN (R101)
  | shfl (d a b : Fin 64) (x y : Bool)  -- SHFL (R105)
  | shflup (d a b : Fin 64) (x y : Bool)  -- SHFLUP (R105)
  | shfldn (d a b : Fin 64) (x y : Bool)  -- SHFLDN (R105)
  | shflx (d a b : Fin 64) (x y : Bool)  -- SHFLX (R105)
  | qswz (d a b : Fin 64) (x y : Bool)  -- QSWZ (R105)
  | bcast (d a b : Fin 64) (x y : Bool)  -- BCAST (R105)
  | vrdlane (d a b : Fin 64) (x y : Bool)  -- VRDLANE (R106)
  | vwrlane (d a b : Fin 64) (x y : Bool)  -- VWRLANE (R106)
  | ballot (d a : Fin 64) (x : Bool)  -- BALLOT (R107)
  | wradd (d a : Fin 64) (x : Bool)  -- WRADD (R107)
  | wrmin (d a : Fin 64) (x : Bool)  -- WRMIN (R107)
  | wrmax (d a : Fin 64) (x : Bool)  -- WRMAX (R107)
  | wrminz (d a : Fin 64) (x : Bool)  -- WRMINZ (R107)
  | wrmaxz (d a : Fin 64) (x : Bool)  -- WRMAXZ (R107)
  | wrfadd (d a : Fin 64) (x : Bool)  -- WRFADD (R107)
  | wrand (d a : Fin 64) (x : Bool)  -- WRAND (R107)
  | wror (d a : Fin 64) (x : Bool)  -- WROR (R107)
  | wrxor (d a : Fin 64) (x : Bool)  -- WRXOR (R107)
  | fadd (d a b : Fin 64) (x y : Bool)  -- FADD (R134)
  | fsub (d a b : Fin 64) (x y : Bool)  -- FSUB (R134)
  | fmul (d a b : Fin 64) (x y : Bool)  -- FMUL (R134)
  | fmin (d a b : Fin 64) (x y : Bool)  -- FMIN (R134)
  | fmax (d a b : Fin 64) (x y : Bool)  -- FMAX (R134)
  | fabs (d a : Fin 64) (x : Bool)  -- FABS (R134)
  | fneg (d a : Fin 64) (x : Bool)  -- FNEG (R134)
  | fsgnj (d a b : Fin 64) (x y : Bool)  -- FSGNJ (R134)
  | frnd (d a : Fin 64) (x : Bool)  -- FRND (R134)
  | fscaleb (d a b : Fin 64) (x y : Bool)  -- FSCALEB (R134)
  | hadd2 (d a b : Fin 64) (x y : Bool)  -- HADD2 (R134)
  | hsub2 (d a b : Fin 64) (x y : Bool)  -- HSUB2 (R134)
  | hmul2 (d a b : Fin 64) (x y : Bool)  -- HMUL2 (R134)
  | badd2 (d a b : Fin 64) (x y : Bool)  -- BADD2 (R134)
  | bsub2 (d a b : Fin 64) (x y : Bool)  -- BSUB2 (R134)
  | bmul2 (d a b : Fin 64) (x y : Bool)  -- BMUL2 (R134)
  | dadd (d a b : Fin 64) (x y : Bool)  -- DADD (R134)
  | dsub (d a b : Fin 64) (x y : Bool)  -- DSUB (R134)
  | dmul (d a b : Fin 64) (x y : Bool)  -- DMUL (R134)
  | faddScalar (d a b : Fin 64) (x y : Bool)  -- FADD_SCALAR (R133)
  | fsubScalar (d a b : Fin 64) (x y : Bool)  -- FSUB_SCALAR (R133)
  | fmulScalar (d a b : Fin 64) (x y : Bool)  -- FMUL_SCALAR (R133)
  | fminScalar (d a b : Fin 64) (x y : Bool)  -- FMIN_SCALAR (R133)
  | fmaxScalar (d a b : Fin 64) (x y : Bool)  -- FMAX_SCALAR (R133)
  | fsgnjScalar (d a b : Fin 64) (x y : Bool)  -- FSGNJ_SCALAR (R133)
  | fscalebScalar (d a b : Fin 64) (x y : Bool)  -- FSCALEB_SCALAR (R133)
  | hadd2Scalar (d a b : Fin 64) (x y : Bool)  -- HADD2_SCALAR (R133)
  | hsub2Scalar (d a b : Fin 64) (x y : Bool)  -- HSUB2_SCALAR (R133)
  | hmul2Scalar (d a b : Fin 64) (x y : Bool)  -- HMUL2_SCALAR (R133)
  | badd2Scalar (d a b : Fin 64) (x y : Bool)  -- BADD2_SCALAR (R133)
  | bsub2Scalar (d a b : Fin 64) (x y : Bool)  -- BSUB2_SCALAR (R133)
  | bmul2Scalar (d a b : Fin 64) (x y : Bool)  -- BMUL2_SCALAR (R133)
  | daddScalar (d a b : Fin 64) (x y : Bool)  -- DADD_SCALAR (R133)
  | dsubScalar (d a b : Fin 64) (x y : Bool)  -- DSUB_SCALAR (R133)
  | dmulScalar (d a b : Fin 64) (x y : Bool)  -- DMUL_SCALAR (R133)
  | rcp (d a : Fin 64) (x : Bool)  -- RCP (R136)
  | rsq (d a : Fin 64) (x : Bool)  -- RSQ (R136)
  | sqrtF (d a : Fin 64) (x : Bool)  -- SQRT (R136)
  | log2F (d a : Fin 64) (x : Bool)  -- LOG2 (R136)
  | exp2F (d a : Fin 64) (x : Bool)  -- EXP2 (R136)
  | fdiv (d a b : Fin 64) (x y : Bool)  -- FDIV (R136)
  | dsqrt (d a : Fin 64) (x : Bool)  -- DSQRT (R136)
  | ddiv (d a b : Fin 64) (x y : Bool)  -- DDIV (R136)
  | ffma (d a b c : Fin 64) (x : Bool)  -- FFMA (R138)
  | hfma2 (d a b c : Fin 64) (x : Bool)  -- HFMA2 (R138)
  | bfma2 (d a b c : Fin 64) (x : Bool)  -- BFMA2 (R138)
  | dfma (d a b c : Fin 64) (x : Bool)  -- DFMA (R138)
  | exp2x (d a b c : Fin 64) (x : Bool)  -- EXP2X (R139)
  | vmad (d a b c : Fin 64) (x : Bool)  -- VMAD (R104)
  | vsel (d a b : Fin 64) (k : Fin 8) (x y : Bool)  -- VSEL (R103)
  | ld (t a b : Fin 64) (z : Fin 8) (p : Fin 4) (x : Bool)  -- LD (R144)
  | ldNt (t a b : Fin 64) (z : Fin 8) (p : Fin 4) (x : Bool)  -- LD_NT (R145)
  | ldAcq (t a b : Fin 64) (z : Fin 8) (p : Fin 4) (x : Bool)  -- LD_ACQ (R145)
  | st (t a b : Fin 64) (z : Fin 8) (p : Fin 4) (x : Bool)  -- ST (R144)
  | stNt (t a b : Fin 64) (z : Fin 8) (p : Fin 4) (x : Bool)  -- ST_NT (R145)
  | stRel (t a b : Fin 64) (z : Fin 8) (p : Fin 4) (x : Bool)  -- ST_REL (R145)
  | ldp32 (t : Fin 64) (i : BitVec 10) (x : Bool)  -- LDP32 (R149)
  | ldp64 (t : Fin 64) (i : BitVec 10) (x : Bool)  -- LDP64 (R149)
  | ldp128 (t : Fin 64) (i : BitVec 10) (x : Bool)  -- LDP128 (R149)
  | stp32 (t : Fin 64) (i : BitVec 10) (x : Bool)  -- STP32 (R149)
  | stp64 (t : Fin 64) (i : BitVec 10) (x : Bool)  -- STP64 (R149)
  | stp128 (t : Fin 64) (i : BitVec 10) (x : Bool)  -- STP128 (R149)
  | pref (a b : Fin 64) (x : Bool)  -- PREF (R151)
  | invl (a b : Fin 64) (x : Bool)  -- INVL (R151)
  | wbk (a b : Fin 64) (x : Bool)  -- WBK (R151)
  | zero (a b : Fin 64) (p : Fin 4) (x : Bool)  -- ZERO (R151)
  | cvt (d a : Fin 64) (s g : Fin 32) (r : Fin 4) (u x : Bool)  -- CVT (R125)
  | tsrld (t : Fin 16) (c : Fin 64) (p : Fin 4)  -- TSRLD (R171)
  | tsrst (t : Fin 16) (c : Fin 64) (p : Fin 4)  -- TSRST (R171)
  | tsrset (t : Fin 16) (c x : Fin 64)  -- TSRSET (R171)
  | tsrget (t : Fin 16) (c x : Fin 64)  -- TSRGET (R171)
  | tload (t : Fin 16) (c : Fin 64) (n : Fin 8) (x : Fin 64) (p : Fin 4) (g : Bool)  -- TLOAD (R178)
  | tstore (t : Fin 16) (c : Fin 64) (n : Fin 8) (x : Fin 64) (p : Fin 4) (g : Bool)  -- TSTORE (R178)
  | tgather (t : Fin 16) (c : Fin 64) (n : Fin 8) (x : Fin 64) (p : Fin 4) (g : Bool)  -- TGATHER (R178)
  | tscatter (t : Fin 16) (c : Fin 64) (n : Fin 8) (x : Fin 64) (p : Fin 4) (g : Bool)  -- TSCATTER (R178)
  | tzero (t : Fin 16) (c : Fin 64) (n : Fin 8) (g : Bool)  -- TZERO (R178)
  | tcopy (t : Fin 16) (c : Fin 64) (n : Fin 8) (m : Fin 16) (g : Bool)  -- TCOPY (R178)
  | gedge (c x : Fin 64)  -- GEDGE (R188)
  | grel (c : Fin 64)  -- GREL (R188)
  | greset (c : Fin 64)  -- GRESET (R188)
  | gbin (c : Fin 64) (p : Fin 4) (g : Bool)  -- GBIN (R189)
  | gstat (c x : Fin 64)  -- GSTAT (R188)
  | waitc (a : Fin 64) (c : Fin 4)  -- WAITC (R184)
  | rdcnt (d : Fin 64) (c : Fin 4)  -- RDCNT (R184)
  | mlds (t : Fin 16) (c : Fin 64) (g : Bool)  -- MLDS (R201)
  | mswap (g : Bool)  -- MSWAP (R205)
  | mshape (c : Fin 64) (g : Bool)  -- MSHAPE (R200)
  | mcfg (c : Fin 64) (g : Bool)  -- MCFG (R206)
  | mmul (k : Fin 8) (c x : Fin 64) (p : Fin 4) (g : Bool)  -- MMUL (R209)
  | mmulz (k : Fin 8) (c x : Fin 64) (p : Fin 4) (g : Bool)  -- MMULZ (R209)
  | mmult (k : Fin 8) (c x : Fin 64) (p : Fin 4) (g : Bool)  -- MMULT (R209)
  | mdrain (k : Fin 8) (t : Fin 16) (c : Fin 64) (m g : Bool)  -- MDRAIN (R212)
  | mzero (k : Fin 8) (g : Bool)  -- MZERO (R213)
  | mrdrow (k j : Fin 8) (c b : Fin 64) (m : Fin 4)  -- MRDROW (R214)
  | mstat (c : Fin 64)  -- MSTAT (R215)
  | aadd (d a b : Fin 64) (y : Fin 8) (x l : Bool)  -- AADD (R225)
  | amin (d a b : Fin 64) (y : Fin 8) (x l : Bool)  -- AMIN (R225)
  | amax (d a b : Fin 64) (y : Fin 8) (x l : Bool)  -- AMAX (R225)
  | aand (d a b : Fin 64) (y : Fin 8) (x l : Bool)  -- AAND (R225)
  | aor (d a b : Fin 64) (y : Fin 8) (x l : Bool)  -- AOR (R225)
  | axor (d a b : Fin 64) (y : Fin 8) (x l : Bool)  -- AXOR (R225)
  | aexch (d a b : Fin 64) (y : Fin 8) (x l : Bool)  -- AEXCH (R225)
  | aincw (d a b : Fin 64) (y : Fin 8) (x l : Bool)  -- AINCW (R225)
  | acas (d a b : Fin 64) (y : Fin 8) (x l : Bool)  -- ACAS (R225)
  | adecw (d a b : Fin 64) (y : Fin 8) (x l : Bool)  -- ADECW (R225)
  | radd (a b : Fin 64) (y : Fin 8) (x l : Bool)  -- RADD (R233)
  | rmin (a b : Fin 64) (y : Fin 8) (x l : Bool)  -- RMIN (R233)
  | rmax (a b : Fin 64) (y : Fin 8) (x l : Bool)  -- RMAX (R233)
  | rand (a b : Fin 64) (y : Fin 8) (x l : Bool)  -- RAND (R233)
  | ror (a b : Fin 64) (y : Fin 8) (x l : Bool)  -- ROR (R233)
  | rxor (a b : Fin 64) (y : Fin 8) (x l : Bool)  -- RXOR (R233)
  | llock (a b d : Fin 64)  -- LLOCK (R244)
  | ltry (a d : Fin 64)  -- LTRY (R244)
  | lunlock (a : Fin 64)  -- LUNLOCK (R244)
  | lstat (a d : Fin 64)  -- LSTAT (R248)
  | lyield (a b d : Fin 64)  -- LYIELD (R244)
  | waitcmp (a b d : Fin 64) (q : Fin 16)  -- WAITCMP (R251)
  | barw (a d : Fin 64) (q : Fin 16)  -- BARW (R256)
  | barg (a d : Fin 64) (q : Fin 16)  -- BARG (R256)
  | pbarv (a b d : Fin 64) (s : Fin 8)  -- PBARV (R260)
  | pbarw (a b : Fin 64) (s : Fin 8)  -- PBARW (R261)
  | pbarinit (a b : Fin 64)  -- PBARINIT (R262)
  | fence (s : Fin 64) (o : BitVec 2)  -- FENCE (R263)
  | bindR (a b : Fin 64)  -- BIND (R265)
  | unbind (a b : Fin 64)  -- UNBIND (R265)
  | acq (a : Fin 64) (q : Fin 16)  -- ACQ (R264)
  | rel (a : Fin 64) (q : Fin 16)  -- REL (R264)
  | push (t : Fin 16) (c : Fin 64) (n : Fin 8) (x : Fin 64) (g : Bool)  -- PUSH (R316)
  | put (c x : Fin 64) (p : Fin 4) (g : Bool)  -- PUT (R318)
  | get (c x : Fin 64) (p : Fin 4) (g : Bool)  -- GET (R318)
  | cstep (c : Fin 64) (p : Fin 4) (g : Bool)  -- CSTEP (R320)
  | cstat (c x : Fin 64)  -- CSTAT (R322)
  | launch (a b d : Fin 64)  -- LAUNCH (R280)
  | lease (a : Fin 64) (q : Fin 4)  -- LEASE (R292)
  | setpl (a : Fin 64)  -- SETPL (R296)
  | csrr (d : Fin 64) (c : Fin 256)  -- CSRR (R327)
  | csrw (d a : Fin 64) (c : Fin 256)  -- CSRW (R327)
  | csrset (d a : Fin 64) (c : Fin 256)  -- CSRSET (R327)
  | csrclr (d a : Fin 64) (c : Fin 256)  -- CSRCLR (R327)
  | tret (a : Fin 64)  -- TRET (R335)
  | frec (d a : Fin 64)  -- FREC (R333)
  | replay (d a : Fin 64)  -- REPLAY (R334)
  | lkill (a : Fin 64)  -- LKILL (R344)
  | ctxkill (a k : Fin 64)  -- CTXKILL (R340)
  | tlbinv (b a : Fin 64) (m : Fin 4)  -- TLBINV (R348)
  | pglock (a : Fin 64) (z : Fin 4) (l : Bool)  -- PGLOCK (R348)
  | pgswap (b a : Fin 64)  -- PGSWAP (R348)
  | homemv (b a : Fin 64)  -- HOMEMV (R348)
  | halt (d a : Fin 64) (g : Bool)  -- HALT (R353)
  | stepW (d a : Fin 64) (g : Bool)  -- STEP (R354)
  | watch (a : Fin 64) (k : Fin 4) (l : Fin 8) (w : Fin 4)  -- WATCH (R355)
  -- operations and events without an encoding
  | waitcSatisfied (w p : Nat)  -- WAITC_SATISFIED (R185): warp uid, pending instruction
  | matrixArbiterGrant (g : Nat) (chk : SpareCheck)  -- MATRIX_ARBITER_GRANT (R194): gang; outcome of the spare-row check
  | matrixAgeStep (g : Nat)  -- MATRIX_AGE_STEP (R194)
  | bandWake (site cl band : Nat)  -- BAND_WAKE (R200)
  | bandRampStep (site : Nat)  -- BAND_RAMP_STEP (R298)
  | lockTimerExpiry (line w : Nat)  -- LOCK_TIMER_EXPIRY (R244): line, waiting warp
  | deadlockScan (ctx : Nat)  -- DEADLOCK_SCAN (R249)
  | monitorTimeout (m : Nat)  -- MONITOR_TIMEOUT (R251): monitor
  | overflowMonitorRecheck (m : Nat)  -- OVERFLOW_MONITOR_RECHECK (R253)
  | instructionCompletion (w p : Nat)  -- INSTRUCTION_COMPLETION (R37)
  | operandLogReplay (w k : Nat)  -- OPERAND_LOG_REPLAY (R161): warp, entry tag
  | logEntryConversion (w k : Nat)  -- LOG_ENTRY_CONVERSION (R163)
  | shootdownAcknowledgement (k unit : Nat)  -- SHOOTDOWN_ACKNOWLEDGEMENT (R164): shoot-down, translation unit
  | l1Eviction (core line w : Nat)  -- L1_EVICTION (R153): core, line, warp that evicts it
  | stackCacheSpill (w line : Nat)  -- STACK_CACHE_SPILL (R150)
  | homeWriteWindowEnd (page : Nat)  -- HOME_WRITE_WINDOW_END (R156): byte address of the page
  | pageHomeMoveEnd (page : Nat)  -- PAGE_HOME_MOVE_END (R156): byte address of the page
  | regionMerge (base : Nat)  -- REGION_MERGE (R155)
  | pageCopy (page frame : Nat)  -- PAGE_COPY (R165): locked page, new frame
  | engineCommandRun (g k : Nat)  -- ENGINE_COMMAND_RUN (R178): gang, command
  | enginePageFaultResume (g k : Nat)  -- ENGINE_PAGE_FAULT_RESUME (R180)
  | engineCommandRetire (w k : Nat)  -- ENGINE_COMMAND_RETIRE (R183): warp, command
  | nodeLaunch (g n : Nat)  -- NODE_LAUNCH (R186): gang, node
  | launchQueueTail (q : Nat) (v : BitVec 32)  -- LAUNCH_QUEUE_TAIL (R275)
  | launchQueueErrorClear (q : Nat) (v : BitVec 64)  -- LAUNCH_QUEUE_ERROR_CLEAR (R274)
  | launchRecordRead (q : Nat)  -- LAUNCH_RECORD_READ (R281)
  | gangPlacement (grid ix stack : Nat)  -- GANG_PLACEMENT (R285): grid, GANGID, stack region allotted by the supervisor
  | affinityPatienceExpiry (grid ix : Nat)  -- AFFINITY_PATIENCE_EXPIRY (R286)
  | warpRetire (w : Nat)  -- WARP_RETIRE (R81)
  | preemption (g : Nat)  -- PREEMPTION (R345)
  | quantumExpiry (g : Nat)  -- QUANTUM_EXPIRY (R288)
  | gangSwapOut (g : Nat)  -- GANG_SWAP_OUT (R273)
  | clusterGating (site cl : Nat)  -- CLUSTER_GATING (R289): the next step of the gating sequence
  | clusterWake (site : Nat)  -- CLUSTER_WAKE (R290)
  | clusterWakeDone (site cl : Nat)  -- CLUSTER_WAKE_DONE (R289)
  | leaseWindowEnd (w : Nat)  -- LEASE_WINDOW_END (R293)
  | leaseHeadWait (core : Nat)  -- LEASE_HEAD_WAIT (R294)
  | leaseStarvation (w : Nat)  -- LEASE_STARVATION (R295)
  | powerEvaluation (excess : Bool)  -- POWER_EVALUATION (R300): power or current exceeds its limit
  | performanceLevelChange (site cl : Nat)  -- PERFORMANCE_LEVEL_CHANGE (R297)
  | tokenRefill (ctx : Nat) (k : Fin 4)  -- TOKEN_REFILL (R302)
  | fabricTransactionArrival (t : Inbound)  -- FABRIC_TRANSACTION_ARRIVAL (R312)
  | pushReceipt (t : PushArrival)  -- PUSH_RECEIPT (R317)
  | cstepReceipt (t : StepArrival)  -- CSTEP_RECEIPT (R320)
  | fabricAcknowledgement (k : Nat) (res : Nat)  -- FABRIC_ACKNOWLEDGEMENT (R312): transaction; 0 or the cause the target gave
  | fabricRetransmission (k : Nat)  -- FABRIC_RETRANSMISSION (R312)
  | collfailNotice (sender ctx collid rflag : Nat)  -- COLLFAIL_NOTICE (R321)
  | linkFlitResend (port : Nat)  -- LINK_FLIT_RESEND (R312)
  | portFailure (port : Nat)  -- PORT_FAILURE (R312)
  | hostSnoop (sector : Nat)  -- HOST_SNOOP (R307)
  | backInvalidateSnoop (line : Nat)  -- BACK_INVALIDATE_SNOOP (R311)
  | hostMemAccess (a : HostAccess)  -- HOST_MEM_ACCESS (R310)
  | ctxnew  -- CTXNEW (R357): the command at the head of the command ring
  | ctxend  -- CTXEND (R357)
  | qinit  -- QINIT (R357)
  | psgrant  -- PSGRANT (R357)
  | debugMark  -- DEBUG (R357)
  | tlbflush  -- TLBFLUSH (R357)
  | faultdone  -- FAULTDONE (R357)
  | attest  -- ATTEST (R358)
  | evlostClear (v : BitVec 64)  -- EVLOST_CLEAR (R357)
  | registerWrite (off size : Nat) (v : BitVec 64)  -- REGISTER_WRITE (R357): mailbox offset, size in bytes, value
  | uncorrectableError (e : ErrorSite)  -- UNCORRECTABLE_ERROR (R341)
  | fencedMessageDrop (site : Nat) (admission : BitVec 32)  -- FENCED_MESSAGE_DROP (R350): receiving site, number the message bears
  | packageReset (bootOk : Bool) (reports : List SiteReport)  -- PACKAGE_RESET (R358)
  | siteReadmission (site : Nat) (r : SiteReport)  -- SITE_READMISSION (R29)
  | engineReturnToService (site cl : Nat)  -- ENGINE_RETURN_TO_SERVICE (R220)
  | stalledPageFaultMapped (tag : Nat)  -- STALLED_PAGE_FAULT_MAPPED (R171): tag of the stalled access
  | activity1024Cycles (w : Nat)  -- ACTIVITY_1024_CYCLES (R294)
  | gatingPowerRemoved (site cl : Nat)  -- GATING_POWER_REMOVED (R289)
deriving DecidableEq, Repr

end Sys2Proof
end

