-- ==== Sys2Proof/Machine/State.lean ====
section
/-! DEFINITION. The state of the package as plain data, and the state right after reset. INVENTORY.md lists every piece
with the rule that names it. Warps, gangs, grids and commands carry a number of the model's own (`uid`), by which the
other records name them; the numbers are never reused. -/

namespace Sys2Proof.Machine

/-- Why the machine stops. -/
inductive Fault where
  /-- The boot ROM's verification of the supervisor failed and the package is held in reset (R358). Raised by `step`
  alone; the hardware stops there too, so this is safe. -/
  | heldInReset
deriving DecidableEq, Repr

/-- Why an instruction has no meaning. -/
inductive Refusal where
  /-- An instruction that the model gives no meaning yet; raised only by an arm of `exec`. Safe. -/
  | notModelled (mnemonic : String)
deriving DecidableEq, Repr

/-- The cause codes of R67. -/
inductive Cause where
  | illenc | priv | emptyread | align | range | prot | pagefault | stkovf | illconv | atomtype | lockerr
  | dsmem | brkpt | trapinsn | poison | lanedead | mxfault | deadlock | collfail | diefence | watch | hostend
deriving DecidableEq, Repr

/-- Memory: the bytes that differ from what an unlisted address reads as, by rising address (log 3). -/
abbrev Memory := List Host.Cell

/-- A sparse table of values, by rising key. -/
abbrev Table (α : Type) := List (Nat × α)

/-- The hints gathered for the unit being fetched (R48): the payload of each kind, and whether a kind came twice. -/
structure Hints where
  himm : Option (BitVec 22) := none
  hblk : Option (BitVec 22) := none
  hmod : Option (BitVec 22) := none
  hsch : Option (BitVec 22) := none
  dup : Bool := false
deriving DecidableEq, Repr

/-- A fragment is ready, or waits at a fuse point (R84). -/
inductive FragState where
  | ready
  | waiting (point : Nat)
deriving DecidableEq, Repr

/-- One entry of the fragment table (R84). -/
structure Fragment where
  entry : Nat               -- its table entry, 0–15
  pc : Pc                   -- first word of the unit
  fetch : Pc                -- the word of the unit that is fetched next
  hints : Hints             -- hints of the unit fetched so far
  mask : Word32             -- m0
  state : FragState
  block : Option Nat        -- the pending instruction that stops it (R242, R251, R256, R184)
  passed : Nat              -- consecutive issues of the warp that passed it over (R85)
  yielded : Bool            -- it has given up its issue turn, until another fragment issues (R82)
  held : Bool               -- its unit was tried last and waits where it stands (R38)
  dry : List Nat            -- token classes that its unit is held for (R302)
  drySince : Nat            -- since when
deriving DecidableEq, Repr

/-- A park record (R84). -/
structure Parked where
  pc : Pc
  mask : Word32
deriving DecidableEq, Repr

/-- A register that an instruction names: scalar and vector registers have a full/empty bit, mask registers and slots do
not. -/
inductive Reg where
  | s (r : Fin 64)
  | v (r : Fin 64)
  | m (r : Fin 8)
  | t (r : Fin 16)
deriving DecidableEq, Repr

/-- A value on its way to a register: lanes in `lanes` receive `vals`. -/
inductive RegWrite where
  | s (r : Fin 64) (val : Word64)
  | v (r : Fin 64) (lanes : Word32) (vals : VReg)
deriving DecidableEq, Repr

/-- What a pending instruction waits for. -/
inductive PendKind where
  | result                             -- its results are captured; only time is missing (R37)
  | lock (line : Nat)                  -- LLOCK, LYIELD (R242)
  | ltry (line : Nat)                  -- LTRY (R242)
  | monitor (k : Nat)                  -- WAITCMP, PBARW (R251)
  | barrier                            -- BARW, BARG (R256)
  | waitc (cls : Fin 4) (limit upto : Nat)  -- WAITC (R184): until CNT is at most limit; it covers the first `upto`
  | lanes                              -- lanes that are logged, trapped, held or under way (R161, R163, R165, R312)
  | command (k : Nat)                  -- a matrix command that writes registers (R214, R215)
  | node (n : Nat)                     -- GRESET of a running node (R188)
  | page                               -- TLBINV, PGLOCK, HOMEMV (R348)
  | step (w : Nat)                     -- STEP of warp w (R354)
  | replay (sel : Word32)              -- a REPLAY of these lanes, some of them at a fabric peer (R334)
deriving DecidableEq, Repr

/-- Atomic and reduction operations (R225). -/
inductive AtomOp where
  | add | min | max | and | or | xor | exch | incw | decw | cas
deriving DecidableEq, Repr

/-- What a logged or replayed unit does (R161). -/
inductive JobKind where
  | load (sz : Nat)
  | store (sz : Nat)
  | zero
  | touch                                        -- INVL, WBK
  | atomic (op : AtomOp) (ty : Nat) (returns : Bool)
  | llock (timeout : Nat) (d : Fin 64)
  | ltry (d : Fin 64)
  | lunlock
  | lstat (d : Fin 64)
  | lyield (timeout : Nat) (d : Fin 64)
  | waitcmp (q : Nat) (c : Word64) (timeout : Nat) (d : Fin 64)
deriving DecidableEq, Repr

/-- One memory unit with its captured sources (R161). `bits` is the bit position of a sub-byte element. -/
structure Job where
  kind : JobKind
  space : Nat
  base : Nat                           -- first destination register of a load or atomic
  ea : Lanes Word64
  bits : Lanes (BitVec 3)
  data : Lanes (BitVec 128)
  stack : Bool                         -- an LDP or STP: word k lies at ea + 128 k (R149)
  l1 : Bool := true                    -- it touches lines of L1, where those are cached (R146, R53)
deriving DecidableEq, Repr

/-- A logged memory instruction with its register fields (R161). -/
inductive MemOp where
  | move (store nt : Bool) (t a b : Fin 64) (z : Fin 8) (p : Fin 4)
  | stack (store : Bool) (t : Fin 64) (n : Nat) (i : BitVec 10)
  | line (clear : Bool) (a b : Fin 64) (p : Fin 4)
  | atom (op : AtomOp) (d a b : Fin 64) (ty : Fin 8) (loc returns : Bool)
  | llock (a b d : Fin 64)
  | ltry (a d : Fin 64)
  | lunlock (a : Fin 64)
  | lstat (a d : Fin 64)
  | lyield (a b d : Fin 64)
  | waitcmp (a b d : Fin 64) (q : Fin 16)
deriving DecidableEq, Repr

/-- A unit: the instruction and the hints bound to it (R49). -/
structure MemUnit where
  op : MemOp
  hints : Hints
deriving DecidableEq, Repr

/-- An instruction issued and not yet completed (R37). -/
structure Pending where
  id : Nat
  pc : Pc
  gen : Nat                            -- how often its warp had entered trap mode when it issued (R336)
  mask : Word32                        -- the lanes of its fragment (R94)
  kind : PendKind
  dests : List Reg                     -- registers that stay empty until it completes
  writes : List RegWrite               -- results captured so far
  flags : BitVec 5                     -- floating-point conditions to accumulate (R132)
  floats : Bool                        -- it may still accumulate some (R132)
  killed : Word32                      -- lanes that it has killed, not yet reported (R338)
  killedAt : Word64                    -- the address of the first of them
  ready : Bool                         -- it may complete
  fault : Option Cause                 -- a fault raised in place of the result (R256 POISON)
  faults : List (Nat × Cause × Word64) -- lanes that failed at a fabric peer, with their addresses (R306)
  unit : Option MemUnit                -- the memory unit that its lanes belong to
  acq : Bool                           -- it is an acquire (R269)
  stepped : Bool                       -- a STEP let it issue (R354)
deriving DecidableEq, Repr

/-- An entry of the operand log (R161). -/
structure LogEntry where
  tag : Nat                            -- TAG of its PAGEFAULT record
  pc : Pc
  unit : MemUnit
  entry : Nat                          -- its fragment
  lanes : Word32                       -- lanes not yet performed
  eas : List (Nat × Word64)            -- the addresses at which they faulted
  job : Job
  pend : Nat                           -- the pending instruction that holds its destination
  answer : Option Bool                 -- what the supervisor has found: mapped, or no mapping
deriving DecidableEq, Repr

/-- A lock slot of a warp (R241). -/
structure LockSlot where
  va : Nat
  line : Nat
  held : Bool
  saved : Option Nat                   -- the pending request that a pre-emption has saved here (R246)
  left : Option Nat                    -- what remains of its timeout; none without one
deriving DecidableEq, Repr

/-- A fault record (R331), with its fields named. -/
structure FaultRecord where
  cause : Option Cause                 -- none: a command response or no record
  kind : Nat                           -- 0 fault, 1 event, 2 kill reason, 3 command response
  causeCode : Nat                      -- CAUSE of a command response
  code : Nat
  frag : Nat
  engine : Bool
  nested : Bool
  nextra : Nat
  logged : Bool
  tag : Nat
  pc : Pc
  warpid : Nat
  ctx : Nat
  gangid : Nat
  lanes : Word32
  dead : Word32
  addr : Word64
  cmdpc : Pc
  rpc : Pc
  frags : List Fragment                -- the fragment table as it stood
  park : List Parked                   -- oldest first
  ea : List (Nat × Word64)             -- faulting address by lane
  causes : List (Nat × Cause)          -- cause by lane
  cycle : List (Word64 × Nat × Nat)    -- DEADLOCK members: lock address, WARPID, context
deriving DecidableEq, Repr

/-- A fault raised by an instruction or a command, not yet a record. -/
structure Raised where
  cause : Cause
  code : Nat := 0
  pc : Pc
  entry : Nat                          -- the trapping fragment
  lanes : Word32
  addr : Word64 := 0
  rpc : Pc
  engine : Bool := false
  nextra : Nat := 0
  cmdpc : Pc := 0
  logged : Bool := false
  ea : List (Nat × Word64) := []
  causes : List (Nat × Cause) := []
  unit : Option MemUnit := none        -- the unit that REPLAY re-executes
  pend : Option Nat := none            -- the pending instruction that holds its destination
  stepped : Bool := false              -- a STEP let its unit issue (R354)
deriving DecidableEq, Repr

/-- Trap mode (R329): the record, the pending lanes P, the unit they belong to. -/
structure TrapMode where
  record : FaultRecord
  lanes : Word32                       -- P of R334
  unit : Option MemUnit
  pend : Option Nat
deriving DecidableEq, Repr

/-- A command outstanding in a counter class (R183). -/
structure Outstanding where
  cmd : Nat
  cls : Fin 4
  finished : Bool
deriving DecidableEq, Repr

/-- A held engine fault (R181). `seq` is how many commands of its class its warp had issued with it. -/
structure HeldFault where
  cls : Fin 4
  seq : Nat
  pc : Pc
  cause : Cause
  addr : Word64
deriving DecidableEq, Repr

/-- A warp's lease and activity (R291–R295). -/
structure Lease where
  mode : Nat                           -- 0 declared, 1 measured, 2 floor
  n : Nat
  m : Nat
  active : Bool
  queued : Bool                        -- waits in the core's queue
  since : Nat                          -- when it was activated or queued
  headSince : Option Nat               -- when it became the head of the queue
  forced : Bool                        -- activated under R295
  lines : List Nat                     -- distinct lines of the present window
  window : Nat                         -- cycles of the present window in which the warp has issued
  issuedAt : Nat                       -- the last of them
deriving DecidableEq, Repr

/-- A warp (R18, R34, R64). -/
structure Warp where
  uid : Nat
  ctx : Nat
  gang : Nat
  wg : Nat                             -- workgroup index
  index : Nat                          -- warp index within the workgroup
  site : Nat
  cluster : Nat
  core : Nat
  slot : Nat
  live : Bool                          -- exists and has not retired
  resident : Bool
  s : Vector Word64 64
  v : Vector VReg 64
  m : Vector Word32 8                  -- m1–m7; m0 is the fragment's mask
  tsr : Vector (BitVec 1024) 16
  sFull : Vector Bool 64
  vFull : Vector Bool 64
  sPoison : Vector Bool 64
  vPoison : Vector Word32 64           -- poisoned lanes of each vector register
  mPoison : BitVec 8                   -- poisoned mask registers; an even one shares its granule with the next
  tsrPoison : Vector (BitVec 16) 16    -- poisoned doublewords of each slot
  csrPoison : BitVec 256               -- poisoned control and status registers
  dead : Word32
  dsrc : Word32
  exited : Word32
  fpflags : BitVec 5
  frag : Fragment                      -- the issuing fragment
  frags : List Fragment                -- the table's other entries, ascending
  park : List Parked                   -- newest first
  pend : List Pending
  nextPend : Nat
  log : List LogEntry
  locks : List LockSlot
  stklim : Word64
  stktop : Word64
  lease : Lease
  plreq : BitVec 3
  out : List Outstanding               -- in issue order
  issued : Vector Nat 4                -- commands issued, by class
  heldFaults : List HeldFault          -- oldest first
  barw : Nat                           -- barriers joined
  barg : Nat
  trapvec : Word64
  trapcause : Option Cause
  trappc : Pc
  traplanes : Word32
  trap : Option TrapMode
  heldTraps : List Raised              -- R336, in order
  traps : Nat                          -- how often it has entered trap mode
  raising : Option Raised              -- a fault that waits for issued instructions (R329 step 1)
  stall : Option Nat                   -- TAG of the page fault that stalls it (R171, R280)
  unmapped : Bool                      -- the supervisor found no mapping for the stalled access
  debugStop : Bool
  stepping : Bool
deriving DecidableEq, Repr

/-- A stationary weight plane (R190). Weights are listed by 256 x row + column; an unlisted one is absent. -/
structure Plane where
  fmt : Nat
  sparse : Bool
  mask : BitVec 4
  weights : Table Nat
  poison : List Nat                    -- poisoned weights
  rowScale : List (Nat × Bool)         -- SC8 code and poison mark; empty: not present
  colScale : List (Nat × Bool)
  zero : List (Nat × Bool)             -- zero points; empty: 2^(n-1)
  scaled : Bool                        -- a scale vector is present
  badGroups : List Nat                 -- 256 x group + column whose metadata code is poisoned
deriving DecidableEq, Repr

/-- The matrix context of a gang (R190, R215). Accumulators are listed by 16384 x tile + 256 x row + column. -/
structure Matrix where
  acc : Table Word64
  accPoison : List Nat
  active : Plane
  shadow : Plane
  cfg : BitVec 25
  ashape : BitVec 4
  mxstat : Word64
  npass : Nat
  reloc : Nat
  stopped : Bool
  rerun : Bool
  chkok : Bool
  chkv : Bool
  chkrow : Nat
  stream : List Nat                    -- commands entered and not completed, in order
  shaped : Bool                        -- MSHAPE's bands have not all been lit yet (R200)
  headSince : Nat                      -- when the head came to the head
  age : Nat                            -- priority steps that the head has gained by waiting (R194)
deriving DecidableEq, Repr

/-- State of a graph node (R186). -/
inductive NodeState where
  | free | held | released | running
deriving DecidableEq, Repr

structure Node where
  state : NodeState
  count : Nat
  succ : List Nat
  under : Bool
  cmd : Option Nat
  order : Option Nat                   -- its place among launched nodes that wait for a reservation entry (R192)
deriving DecidableEq, Repr

/-- One arrival at a barrier (R256). -/
structure Arrival where
  wg : Nat
  index : Nat
  warp : Nat
  pend : Nat
  op : Nat
  payload : Word64
  poisoned : Bool
deriving DecidableEq, Repr

/-- A barrier generation in progress: of one workgroup, or of the gang (none). -/
structure Barrier where
  wg : Option Nat
  gen : Nat
  arrivals : List Arrival
deriving DecidableEq, Repr

inductive GangPhase where
  | resident
  | preempted                          -- requeued for placement
  | swapped                            -- out until a monitor completes (R273)
  | retired
deriving DecidableEq, Repr

/-- A gang that has been placed (R18, R285). -/
structure Gang where
  uid : Nat
  grid : Nat                           -- ticket of its grid
  index : Nat                          -- GANGID
  phase : GangPhase
  site : Nat
  cluster : Nat
  cores : List Nat                     -- core of each workgroup
  placedAt : Nat
  scratch : Nat                        -- scratchpad bytes of each workgroup
  wgs : Nat
  acc : Nat                            -- accumulator tiles allotted
  mx : Matrix
  nodes : List Node
  barriers : List Barrier
  parkedSince : Option Nat
  leaving : Option GangPhase           -- a pre-emption that waits for issued instructions (R345 step 1)
  moved : Bool                         -- its engine was taken offline, and it waits for an online one (R220)
deriving DecidableEq, Repr

/-- The fields of a launch record (R276). -/
structure LaunchRecord where
  entry : Nat
  gx : Nat
  gy : Nat
  gz : Nat
  gang : Nat
  wgsize : Nat
  level : Nat
  prio : Nat
  vregs : Nat
  acc : Nat
  nodes : Nat
  scratch : Nat
  stack : Nat
  affmask : Nat
  tbclass : Nat
  flags : Nat
  ndep : Nat
  affbase : Nat
  affsx : Int
  affsy : Int
  affsz : Int
  leasehint : Nat
  deps : List Nat
  args : Nat
  stataddr : Nat
  reserved : Bool                      -- some byte or bit marked zero is not zero
deriving DecidableEq, Repr

/-- A gang offered and not placed, waiting for its target (R286). -/
structure Offer where
  index : Nat
  since : Nat
  patience : Bool                      -- its patience has run out
deriving DecidableEq, Repr

/-- A grid that the front end has read (R276–R283). -/
structure Grid where
  ticket : Nat
  queue : Nat
  ctx : Nat
  gridid : Nat
  record : LaunchRecord
  prio : Nat
  mask : Nat                           -- the restricted mask
  next : Nat                           -- GANGIDs below it have been offered
  offers : List Offer
  placed : Nat
  retired : Nat
  ready : Bool                         -- its dependences are satisfied
  status : Option Nat                  -- CODE once it has ended
  wait : Option Nat                    -- TAG of a page fault of its status word
deriving DecidableEq, Repr

/-- A launch queue (R274). -/
structure Queue where
  base : Word64
  size : Nat
  head : BitVec 32
  tail : BitVec 32
  ctx : Nat
  device : Bool
  quant : BitVec 32
  err : Bool
deriving DecidableEq, Repr

/-- A token bucket (R301). -/
structure Bucket where
  rate : Nat
  depth : Nat
  fill : Int
  frac : Nat                           -- 256ths of a token that have come in since
  since : Nat                          -- when fill and frac were brought up to date
deriving DecidableEq, Repr

structure Bind where
  obj : Nat
  base : Nat
  len : Nat
deriving DecidableEq, Repr

/-- A watchpoint (R355): kind 0 off, 1 write, 2 read, 3 either. -/
structure Watchpoint where
  kind : Nat
  addr : Word64
  len : Nat                            -- log2
deriving DecidableEq, Repr

/-- What a context counts of a fabric peer (R322). -/
structure PeerCount where
  peer : Nat
  fails : Nat
  retries : Nat
deriving DecidableEq, Repr

/-- A context (R326). -/
structure Context where
  num : Nat
  debug : Bool
  plcap : BitVec 3
  buckets : Vector Bucket 4
  retrymax : BitVec 4
  affpat : BitVec 32
  dlkperiod : BitVec 32
  parkthr : BitVec 32
  asid : BitVec 16
  ptbase : Word64
  landtbl : Word64
  binds : List Bind
  watch : Vector Watchpoint 4
  psBytes : Nat                        -- package scratchpad partition
  psHost : Bool                        -- granted to the host as HDM (R310)
  failed : List Nat                    -- marked COLLIDs, oldest first (R321)
  peers : List PeerCount
  scanned : Nat                        -- when its locks were last scanned (R249)
  llcGated : Nat                       -- LLC ways of its share that are gated (R167)
  llcSince : Nat                       -- when the present miss-rate window began (R300)
  llcReads : Nat                       -- accesses that reached the LLC in it
  llcMisses : Nat
deriving DecidableEq, Repr

/-- A line of CXL memory in the LLC (R23, R167). -/
structure LlcLine where
  line : Nat
  ctx : Nat                            -- the context whose ways hold it
  way : Nat
  dirty : Bool
  owned : Bool                         -- held with write permission (R311)
deriving DecidableEq, Repr

/-- A victim tag of a core (R293): a line that a warp's own fill has evicted. -/
structure Victim where
  core : Nat
  line : Nat
  warp : Nat
deriving DecidableEq, Repr

/-- Progress of a cluster's gating (R289): the four steps, then power off, then waking. -/
inductive Gate where
  | awake | clockStopped | spilled | isolated | off | waking
deriving DecidableEq, Repr

structure Cluster where
  gate : Gate
  gateAt : Nat                         -- when the gate came to stand so
  online : Bool                        -- its matrix engine is in service
  rho : Nat                            -- the next row that the spare row checks
  lit : BitVec 4                       -- bands lit
  wanted : BitVec 4                    -- bands being woken
  bandAt : Vector Nat 4                -- when each was enabled
  granted : Nat                        -- performance level
  lowered : Nat                        -- levels taken off by the power controller
deriving DecidableEq, Repr

/-- A compute site (R13, R17, R24, R27). -/
structure Site where
  gen : Nat
  revision : Nat
  level : Nat
  harvest : BitVec 16
  firmware : BitVec 256
  admitted : Bool
  admission : BitVec 32
  restricted : Bool
  fenced : Bool
  dropped : BitVec 32                  -- FENCEDROP
  halted : Bool
  rampAt : Option Nat                  -- when the last band was enabled
  clusters : Vector Cluster 16
deriving DecidableEq, Repr

/-- The mailbox registers of R357. -/
structure Mailbox where
  cmdbase : Word64
  cmdsize : Word64
  cmdhead : Word64
  cmdtail : Word64
  evbase : Word64
  evsize : Word64
  evhead : Word64
  evtail : Word64
  evlost : Word64
deriving DecidableEq, Repr

/-- A waiter of a line lock (R243). -/
structure Waiter where
  warp : Nat
  pend : Nat
  deadline : Option Nat
deriving DecidableEq, Repr

/-- A line lock in its table (R243). -/
structure Lock where
  line : Nat
  va : Nat
  holder : Option Nat
  queue : List Waiter
  mark : Bool
deriving DecidableEq, Repr

/-- A lock request that waits at a slice for a free table entry (R243). -/
structure LockRequest where
  line : Nat
  va : Nat
  warp : Nat
  pend : Nat
  try_ : Bool
  deadline : Option Nat
deriving DecidableEq, Repr

/-- An armed monitor (R251, R253). -/
structure Monitor where
  id : Nat
  warp : Nat
  pend : Nat
  loc : Nat
  q : Nat                              -- condition of R250
  comparand : Word64
  deadline : Option Nat
  table : Bool                         -- in the slice's table, not its overflow list
  checked : Nat                        -- when the slice last re-checked an overflow monitor (R253)
  fired : Bool
deriving DecidableEq, Repr

/-- A translation unit. -/
inductive TlbUnit where
  | core (site cluster core : Nat)
  | die (site : Nat)
  | walk (site cluster : Nat)
deriving DecidableEq, Repr

/-- A translation (R160, R347): page number at its size, frame, permissions, window kind. -/
structure Mapping where
  size : Nat                           -- log2 of the page size
  vpage : Nat
  frame : Nat                          -- byte address of the frame
  r : Bool
  w : Bool
  x : Bool
  kind : Nat
  peer : Nat
deriving DecidableEq, Repr

structure TlbEntry where
  unit : TlbUnit
  asid : BitVec 16
  map : Mapping
deriving DecidableEq, Repr

/-- A shoot-down that translation units have still to acknowledge (R164). -/
structure Shootdown where
  id : Nat
  units : List TlbUnit                 -- those that have not acknowledged
  asid : Option (BitVec 16)            -- none: every address space
  va : Option Nat                      -- none: every address
  warp : Nat                           -- the TLBINV that waits
  pend : Nat
  tag : Option Nat                     -- the tag of a TLBFLUSH
  ctx : Nat
deriving DecidableEq, Repr

/-- Who makes an access: something outside the package, a pending instruction of a warp, an engine command, or an arrival
from a fabric peer. -/
inductive Origin where
  | outside
  | warp (uid pend : Nat)
  | command (id : Nat)
  | arrival (id : Nat)
deriving DecidableEq, Repr

/-- A write held by a page lock (R165): bytes, a bit field of one byte, or a reduction, at an offset in the page. -/
inductive HeldKind where
  | bytes (val : List Byte)
  | bits (o n v : Nat)
  | reduce (op : AtomOp) (ty : Nat) (val : Word64)
  | amo (op : AtomOp) (ty : Nat) (val new : Word64) (pend base lane : Nat) (ea : Word64)
deriving DecidableEq, Repr

structure HeldWrite where
  origin : Origin
  off : Nat
  kind : HeldKind
  bad : Bool                           -- what it writes is poisoned (R179)
deriving DecidableEq, Repr

/-- A page whose migration has been requested or has started (R165, R166). -/
structure PageLock where
  page : Nat
  size : Nat                           -- log2
  started : Bool                       -- the lock bit is set
  warp : Nat                           -- the PGLOCK that requested it
  pend : Nat
  copied : Option Nat                  -- the new frame, once copied
  held : List HeldWrite
deriving DecidableEq, Repr

/-- A registration pair of a line (R153). -/
structure Registration where
  line : Nat
  core : Nat                           -- 64 x site + 4 x cluster + core
  words : Word32
deriving DecidableEq, Repr

/-- A directory region (R155). -/
structure Region where
  base : Nat
  size : Nat                           -- log2, 7–16
  dies : List Nat
  written : Nat                        -- time of the last write
deriving DecidableEq, Repr

/-- A partial value of a word held in update-only state by a core (R234). -/
structure Partial where
  core : Nat
  loc : Nat
  op : AtomOp
  ty : Nat
  val : Word64
deriving DecidableEq, Repr

/-- Page homes, moves in progress, write counts of the present window (R156). -/
structure PageHome where
  page : Nat                           -- byte address
  size : Nat                           -- log2
  site : Nat
  moving : Option Nat
  asker : Option (Nat × Nat)           -- warp and pending instruction of the HOMEMV
  writes : List (Nat × Nat)
  since : Nat                          -- when the present window began
deriving DecidableEq, Repr

/-- A page that a walk has found: of local memory, with the contexts that it has been mapped for since it was last cleared
(R356), or of the host coherent window. A context that has ended, or maps the page no more, stands there as 64. -/
structure Owned where
  page : Nat                           -- byte address
  size : Nat                           -- log2
  ctxs : List Nat
deriving DecidableEq, Repr

/-- A collective step's descriptor (R319). -/
structure StepDesc where
  src : Nat
  rdst : Nat
  len : Nat
  op : Nat
  ty : Nat
  collid : Nat
  seq : Nat
  rflag : Nat
deriving DecidableEq, Repr

/-- An engine command with its captured operands (R178, R192, R316–R320). -/
inductive CmdKind where
  | tload (t : BitVec 1024) (c : List Int) (space : Nat) (dense : Word64)
  | tstore (t : BitVec 1024) (c : List Int) (space : Nat) (dense : Word64)
  | tgather (t : BitVec 1024) (c : List Int) (space : Nat) (dense idx : Word64)
  | tscatter (t : BitVec 1024) (c : List Int) (space : Nat) (dense idx : Word64)
  | tzero (t : BitVec 1024) (c : List Int)
  | tcopy (dst src : BitVec 1024) (c : List Int)
  | gbin (space : Nat) (addr : Word64)
  | mlds (t : BitVec 1024) (c : List Int)
  | mswap
  | mshape (mask : BitVec 4)
  | mcfg (cfg : BitVec 25)
  | mmul (mode : Nat) (tile : Nat) (rows : Nat) (space : Nat) (addr : Word64)   -- 0 MMUL, 1 MMULZ, 2 MMULT
  | mdrain (tile : Nat) (t : BitVec 1024) (c : List Int) (int : Bool) (rm : Nat) (sat : Bool)
  | mzero (tile : Nat)
  | mrdrow (tile row chunk mode : Nat) (regs : List (Fin 64)) (lanes : Word32)
  | mstat (d : Fin 64)
  | push (t : BitVec 1024) (c : List Int) (target origin : Word64)
  | put (rva len : Nat) (space : Nat) (lva : Word64)
  | get (rva len : Nat) (space : Nat) (lva : Word64)
  | cstep (space : Nat) (addr : Word64)
  | step (d : StepDesc)                -- a CSTEP whose descriptor has been read
deriving DecidableEq, Repr

/-- Where a command stands. -/
inductive CmdPhase where
  | node                               -- a graph node, not launched
  | queued                             -- in the engine queue or the matrix stream
  | paused (tag : Nat) (va : Word64) (mapped : Bool)  -- at a page fault (R180), mapped by now or not
  | sent                               -- its transactions are under way (R312)
  | draining                           -- done, but for writes that a page lock holds (R165)
  | failing (c : Cause) (addr : Word64) -- stopped by a fault, but for such writes
deriving DecidableEq, Repr

structure Command where
  id : Nat
  warp : Nat
  gang : Nat
  ctx : Nat
  cls : Fin 4
  seq : Nat                            -- its number among the warp's commands of its class
  pc : Pc
  node : Option Nat
  kind : CmdKind
  phase : CmdPhase
  entered : Nat                        -- its place among the entries of the reservation tables (R194)
  done : Nat                           -- elements finished (restartable point)
  patched : Bool                       -- GBIN has changed its box (R189)
  pend : Option Nat                    -- the pending instruction that holds its registers
deriving DecidableEq, Repr

/-- What a fabric transaction that this device sent carries. -/
inductive TxKind where
  | lane (warp pend lane part loc : Nat) (job : Job)  -- a part of at most 8 bytes of a lane's access (R305)
  | command (cmd part : Nat)           -- a page of a PUT or GET; part 0 of any other command
deriving DecidableEq, Repr

structure Transaction where
  id : Nat
  ctx : Nat
  peer : Nat
  kind : TxKind
  retries : Nat
  sentAt : Nat
deriving DecidableEq, Repr

/-- The identity of a transaction performed here, with what was answered (R312, log 58). -/
structure Served where
  sender : Nat
  ident : Nat
  result : Nat
deriving DecidableEq, Repr

/-- The identity of a collective step applied here (R320). -/
structure AppliedStep where
  sender : Nat
  collid : Nat
  seq : Nat
deriving DecidableEq, Repr

/-- What a peer, or a push of this device to itself, asks of this device. -/
inductive FabricArrival where
  | access (t : Inbound)
  | push (t : PushArrival)
  | selfPush (t : PushArrival) (bad : List Nat) (cmd : Nat)
  | step (t : StepArrival)
  | notice (ctx flag : Nat)            -- the ROR of a failure notice (R321)
deriving DecidableEq, Repr

/-- An arrival that waits until the supervisor has answered for a page it needs (R306, R317). -/
structure HeldArrival where
  tag : Nat
  arrival : FabricArrival
deriving DecidableEq, Repr

/-- What is done once an arrival's writes have been performed: a flag counts it, and it is answered (R312, R316, R320). -/
inductive Finish where
  | access (sender ident result : Nat)
  | push (sender ident : Nat)
  | selfPush (cmd : Nat)
  | step (id : AppliedStep)
deriving DecidableEq, Repr

/-- An arrival some of whose writes are held by a page lock. -/
structure Finishing where
  id : Nat
  ctx : Nat
  flag : Option (Nat × Nat)            -- the kind and the place of a flag still to be counted
  finish : Finish
deriving DecidableEq, Repr

/-- The Crest fabric as this device sees it. -/
structure Fabric where
  fabid : BitVec 12
  tx : List Transaction
  served : List Served
  steps : List AppliedStep
  failedPorts : List Nat
  resent : List (Nat × Nat)            -- flits resent, by port
  held : List HeldArrival
  finishing : List Finishing
deriving DecidableEq, Repr

/-- A step that the power controller has taken: the clusters it lowered, as (site, cluster), 8 bands less for each
site, idle flits. -/
inductive PowerStep where
  | lower (cs : List (Nat × Nat))
  | bands
  | idle
deriving DecidableEq, Repr

/-- The power controller (R300). -/
structure Power where
  bandCut : Nat                        -- bands taken from each site's budget
  idle : Nat                           -- steps of idle flits inserted
  steps : List PowerStep               -- newest first
  since : Nat                          -- when it last evaluated
deriving DecidableEq, Repr

/-- What the world has chosen to happen next (log 2). -/
inductive Move where
  | event (i : Instr)
  | issue (warp entry : Nat)
  | tick (n : Nat)
deriving DecidableEq, Repr

/-- The package. -/
structure State where
  warp : Warp                          -- the issuing warp
  others : List Warp
  gangs : List Gang
  grids : List Grid
  contexts : List Context
  queues : Vector Queue 64
  sites : Vector Site 8
  pkglvl : Nat
  admissions : BitVec 32
  mem : Memory
  poison : List Nat                    -- poisoned granules, rising
  tlb : List TlbEntry                  -- newest first
  shootdowns : List Shootdown
  pageLocks : List PageLock
  homes : List PageHome
  regs : List Registration             -- oldest first
  regions : List Region
  partials : List Partial              -- oldest first
  locks : List Lock
  lockWaits : List LockRequest
  monitors : List Monitor
  cycles : List (List (Nat × Nat))     -- lock cycles reported: the waiting warps and instructions (R249)
  cmds : List Command                  -- oldest first
  owners : List Owned
  llc : List LlcLine                   -- newest first
  victims : List Victim                -- newest first
  sectors : List Nat                   -- sectors of host memory that the package owns for writing (R157)
  hostValue : List Byte                -- what the host's last read returned (R309, R310)
  memFenced : BitVec 8                 -- memory dies that are fenced (R349)
  ioFenced : Bool                      -- I/O die 1 is fenced
  fabric : Fabric
  mailbox : Mailbox
  attests : Nat                        -- one-time signature index (R358)
  power : Power
  serving : Nat                        -- where the round-robin of each priority level stands
  nextUid : Nat
  nextTag : Nat
  clock : Word64
  inReset : Bool                       -- the boot verification failed
  agenda : List Move
  delays : List Bool
  free : Nat
deriving DecidableEq, Repr

/-! ## Initial values -/

def Fragment.start (pc : Pc) : Fragment :=
  { entry := 0, pc := pc, fetch := pc, hints := {}, mask := 0xFFFFFFFF, state := .ready, block := none, passed := 0,
    yielded := false, held := false, dry := [], drySince := 0 }

def FaultRecord.empty : FaultRecord :=
  { cause := none, kind := 0, causeCode := 0, code := 0, frag := 0, engine := false, nested := false, nextra := 0,
    logged := false, tag := 0, pc := 0, warpid := 0, ctx := 0, gangid := 0, lanes := 0, dead := 0, addr := 0,
    cmdpc := 0, rpc := 0, frags := [], park := [], ea := [], causes := [], cycle := [] }

def Lease.start : Lease :=
  { mode := 1, n := 64, m := 64, active := false, queued := false, since := 0, headSince := none, forced := false, lines := [],
    window := 0, issuedAt := 0 }

/-- A warp with every register at the value of R21, before the entry values that placement gives it. -/
def Warp.blank : Warp :=
  { uid := 0, ctx := 0, gang := 0, wg := 0, index := 0, site := 0, cluster := 0, core := 0, slot := 0,
    live := false, resident := false,
    s := Vector.replicate 64 0, v := Vector.replicate 64 (Vector.replicate 32 0), m := Vector.replicate 8 0,
    tsr := Vector.replicate 16 0, sFull := Vector.replicate 64 true, vFull := Vector.replicate 64 true,
    sPoison := Vector.replicate 64 false, vPoison := Vector.replicate 64 0, mPoison := 0, tsrPoison := Vector.replicate 16 0,
    csrPoison := 0,
    dead := 0, dsrc := 0, exited := 0, fpflags := 0, frag := { Fragment.start 0 with mask := 0 }, frags := [],
    park := [], pend := [], nextPend := 0, log := [], locks := [], stklim := 0, stktop := 0, lease := Lease.start,
    plreq := 7, out := [], issued := Vector.replicate 4 0, heldFaults := [], barw := 0, barg := 0,
    trapvec := 0, trapcause := none, trappc := 0, traplanes := 0, trap := none, heldTraps := [], traps := 0, raising := none, stall := none,
    unmapped := false, debugStop := false, stepping := false }

/-- An empty plane, with band mask 0 (R190). -/
def Plane.empty : Plane :=
  { fmt := 0, sparse := false, mask := 0, weights := [], poison := [], rowScale := [], colScale := [], zero := [],
    scaled := false, badGroups := [] }

/-- The matrix context at placement (R190). -/
def Matrix.start : Matrix :=
  { acc := [], accPoison := [], active := Plane.empty, shadow := Plane.empty, cfg := 0, ashape := 0xF, mxstat := 0,
    npass := 0, reloc := 0, stopped := false, rerun := false, chkok := false, chkv := false, chkrow := 0,
    stream := [], shaped := false, headSince := 0, age := 0 }

def Node.free : Node := { state := .free, count := 0, succ := [], under := false, cmd := none, order := none }

/-- No gang: what a warp without one names. -/
def Gang.none : Gang :=
  { uid := 0, grid := 0, index := 0, phase := .retired, site := 0, cluster := 0, cores := [], placedAt := 0,
    scratch := 0, wgs := 0, acc := 0, mx := Matrix.start, nodes := [], barriers := [], parkedSince := Option.none,
    leaving := Option.none, moved := false }

def LaunchRecord.blank : LaunchRecord :=
  { entry := 0, gx := 1, gy := 1, gz := 1, gang := 1, wgsize := 1, level := 1, prio := 0, vregs := 64, acc := 0,
    nodes := 0, scratch := 0, stack := 0, affmask := 0xFF, tbclass := 0, flags := 0, ndep := 0, affbase := 0,
    affsx := 0, affsy := 0, affsz := 0, leasehint := 0, deps := [], args := 0, stataddr := 0, reserved := false }

/-- No grid. -/
def Grid.none : Grid :=
  { ticket := 0, queue := 0, ctx := 0, gridid := 0, record := LaunchRecord.blank, prio := 0, mask := 0, next := 0,
    offers := [], placed := 0, retired := 0, ready := false, status := Option.none, wait := Option.none }

def Bucket.start : Bucket := { rate := 0, depth := 0, fill := 0, frac := 0, since := 0 }

/-- A context as it is created: the CSR resets of R64, no tokens, no bindings, no watchpoints. -/
def Context.start (num : Nat) : Context :=
  { num := num, debug := false, plcap := 7, buckets := Vector.replicate 4 Bucket.start,
    retrymax := 3, affpat := 16384, dlkperiod := 0x100000, parkthr := 262144, asid := 0, ptbase := 0, landtbl := 0,
    binds := [], watch := Vector.replicate 4 { kind := 0, addr := 0, len := 0 }, psBytes := 0, psHost := false,
    failed := [], peers := [], scanned := 0, llcGated := 0, llcSince := 0, llcReads := 0, llcMisses := 0 }

def Queue.start : Queue :=
  { base := 0, size := 0, head := 0, tail := 0, ctx := 0, device := false, quant := 0, err := false }

def Cluster.start : Cluster :=
  { gate := .awake, gateAt := 0, online := true, rho := 0, lit := 0, wanted := 0, bandAt := Vector.replicate 4 0, granted := 0, lowered := 0 }

/-- A site that may be admitted: its measurement has been verified, and it is of a generation of R24 with that generation's
level (log 7). -/
def admissible (r : SiteReport) : Bool :=
  r.verified && ((r.gen == 1 && r.level == 1) || (r.gen == 2 && r.level == 2))

/-- A site as enumeration leaves it (R27). -/
def Site.enumerate (r : SiteReport) (admission : BitVec 32) : Site :=
  { gen := r.gen, revision := r.revision, level := r.level, harvest := r.harvest, firmware := r.firmware,
    admitted := admissible r, admission := admission, restricted := false, fenced := false, dropped := 0,
    halted := false, rampAt := none, clusters := Vector.replicate 16 Cluster.start }

/-- What the eight sites of the package report at reset (log 7): four Dawn, four Noon, nothing harvested. -/
def resetReport (s : Nat) : SiteReport :=
  { gen := if s < 4 then 1 else 2, revision := 0, level := if s < 4 then 1 else 2, harvest := 0, firmware := 0,
    verified := true }

def Mailbox.start : Mailbox :=
  { cmdbase := 0, cmdsize := 0, cmdhead := 0, cmdtail := 0, evbase := 0, evsize := 0, evhead := 0, evtail := 0,
    evlost := 0 }

def Fabric.start : Fabric :=
  { fabid := 0, tx := [], served := [], steps := [], failedPorts := [], resent := [], held := [],
    finishing := [] }

/-- The package right after reset and enumeration: no warp, no gang, context 0 alone, memory with nothing listed. -/
def State.reset : State :=
  { warp := Warp.blank, others := [], gangs := [], grids := [], contexts := [Context.start 0],
    queues := Vector.replicate 64 Queue.start,
    sites := Vector.ofFn fun i : Fin 8 => Site.enumerate (resetReport i.val) (BitVec.ofNat 32 (i.val + 1)),
    pkglvl := 1, admissions := 8, mem := [], poison := [], tlb := [], shootdowns := [], pageLocks := [], homes := [], regs := [],
    regions := [], partials := [], locks := [], lockWaits := [], monitors := [], cycles := [], cmds := [], owners := [], llc := [], victims := [], sectors := [],
    hostValue := [], memFenced := 0, ioFenced := false, fabric := Fabric.start,
    mailbox := Mailbox.start, attests := 0, power := { bandCut := 0, idle := 0, steps := [], since := 0 }, serving := 0,
    nextUid := 1, nextTag := 1, clock := 0, inReset := false, agenda := [], delays := [], free := 0 }

end Sys2Proof.Machine
end

