-- ==== Sys2Proof/Machine/Memory.lean ====
section
/-! DEFINITION. Bytes, memory and the places an access can reach. One memory holds every space: a place is a number,
and the constants below say which space it lies in. -/

namespace Sys2Proof.Machine

/-! ## Bytes -/

/-- The number whose little-endian bytes these are (00 R4). -/
def bytesToNat : List Byte → Nat
  | [] => 0
  | b :: t => b.toNat + 256 * bytesToNat t

/-- The low `n` bytes of a number, little-endian. -/
def natToBytes : Nat → Nat → List Byte
  | 0, _ => []
  | n + 1, v => BitVec.ofNat 8 v :: natToBytes n (v / 256)

/-- Sign extension of the low `w` bits of a number, as an integer. -/
def sext (w : Nat) (v : Nat) : Int := (BitVec.ofNat w v).toInt

/-- An integer modulo 2^64, as a word. -/
def word64 (i : Int) : Word64 := BitVec.ofInt 64 i

/-- An integer modulo 2^32, as a word. -/
def word32 (i : Int) : Word32 := BitVec.ofInt 32 i

/-- The quotient rounded up. -/
def ceilDiv (a b : Nat) : Nat := (a + b - 1) / b

/-! ## Tables in canonical form -/

/-- The value listed for a key. -/
def tableFind? {α : Type} : Table α → Nat → Option α
  | [], _ => none
  | (b, v) :: t, a => if b = a then some v else tableFind? t a

/-- The table with a key set. -/
def tableSet {α : Type} : Table α → Nat → α → Table α
  | [], a, v => [(a, v)]
  | (b, w) :: t, a, v => if a < b then (a, v) :: (b, w) :: t else if a = b then (a, v) :: t else (b, w) :: tableSet t a v

/-- The table with a key absent. -/
def tableErase {α : Type} : Table α → Nat → Table α
  | [], _ => []
  | (b, w) :: t, a => if a = b then t else (b, w) :: tableErase t a

/-- A rising list of numbers with one more. -/
def insertRising : List Nat → Nat → List Nat
  | [], a => [a]
  | b :: t, a => if a < b then a :: b :: t else if a = b then b :: t else b :: insertRising t a

/-! ## Memory -/

/-- What an unlisted address reads as (log 3). -/
def unlisted : Byte := 0

/-- The byte at a place. -/
def Memory.read : Memory → Nat → Byte
  | [], _ => unlisted
  | (b, v) :: t, a => if b = a then v else Memory.read t a

/-- Memory with a byte written; writing what an unlisted address reads as removes the entry. -/
def Memory.write : Memory → Nat → Byte → Memory
  | [], a, v => if v = unlisted then [] else [(a, v)]
  | (b, w) :: t, a, v =>
    if a < b then (if v = unlisted then (b, w) :: t else (a, v) :: (b, w) :: t)
    else if a = b then (if v = unlisted then t else (a, v) :: t)
    else (b, w) :: Memory.write t a v

/-- The canonical form: addresses strictly rising, no entry equal to what an unlisted address reads as. -/
abbrev Memory.wf (m : Memory) : Prop := m.Pairwise (fun x y => x.1 < y.1) ∧ ∀ c ∈ m, c.2 ≠ unlisted

/-- The `n` bytes at a place, lowest first. -/
def Memory.readBytes (m : Memory) (a : Nat) : Nat → List Byte
  | 0 => []
  | n + 1 => m.read a :: m.readBytes (a + 1) n

/-- Memory with bytes written from a place upwards. -/
def Memory.writeBytes (m : Memory) (a : Nat) : List Byte → Memory
  | [] => m
  | b :: t => (m.write a b).writeBytes (a + 1) t

/-- The unsigned value of `n` bytes. -/
def Memory.nat (m : Memory) (a n : Nat) : Nat := bytesToNat (m.readBytes a n)

/-! ## Places -/

/-- Local physical memory lies below 2^52 (R347); the package scratchpad partition of context `c` is the model's part
of it from 2^51 (log 12). -/
def localLimit : Nat := 2 ^ 52
def psBase (c : Nat) : Nat := 2 ^ 51 + c * 2 ^ 40

/-- Host memory, seen through either host window. -/
def hostBase : Nat := 2 ^ 64

/-- The memory that peer `d` exports. -/
def peerBase (d : Nat) : Nat := 2 ^ 65 + d * 2 ^ 52

/-- The core scratchpads of a gang: member m's bytes start at m x 2^19, as an EA of space 2 numbers them (R142). -/
def scratchBase (gang : Nat) : Nat := 2 ^ 70 + gang * 2 ^ 21

/-- What kind of place an access reaches (R152, R305). -/
inductive Place where
  | scratch | package | cxl | hostCoherent | hostPlain | peer
deriving DecidableEq, Repr

/-- The kind of place behind a translation. -/
def placeOf (kind loc : Nat) : Place :=
  if kind = 1 then .hostCoherent else if kind = 2 then .hostPlain else if kind = 3 then .peer
  else if 2 ^ 70 ≤ loc then .scratch else if 2 ^ 51 ≤ loc then .package else .cxl

/-- The 128-byte line of a place. -/
def lineOf (loc : Nat) : Nat := loc / 128 * 128

/-! ## Poison (R341) -/

/-- A read of these bytes consumes poison. -/
def State.poisoned (s : State) (loc n : Nat) : Bool :=
  s.poison.any fun g => decide (8 * g < loc + n) && decide (loc < 8 * g + 8)

/-- Granules that a write of these bytes covers whole lose their mark. -/
def clearPoison (p : List Nat) (loc n : Nat) : List Nat :=
  p.filter fun g => !(decide (loc ≤ 8 * g) && decide (8 * g + 8 ≤ loc + n))

/-! ## Monitors (R250, R251) -/

/-- The width in bytes of a monitor condition. -/
def condBytes (q : Nat) : Nat := if q = 4 then 2 else if q = 5 ∨ q = 6 then 8 else 4

/-- The condition `q` on the value V at the location and the comparand C (R250). -/
def condHolds (q : Nat) (v : Nat) (c : Word64) : Bool :=
  match q with
  | 0 => v == c.toNat % 2 ^ 32
  | 1 => v != c.toNat % 2 ^ 32
  | 2 => decide (sext 32 c.toNat ≤ sext 32 v)
  | 3 => decide (sext 32 v < sext 32 c.toNat)
  | 4 => decide (0 ≤ sext 16 (v + 2 ^ 16 - c.toNat % 2 ^ 16))
  | 5 => decide (c.toInt ≤ sext 64 v)
  | 6 => v != c.toNat
  | _ => decide (c.toNat % 2 ^ 32 ≤ v)

/-- A timer has run out by `now`: what comes in its last cycle comes before it (R244, R251). -/
def expired (now : Nat) : Option Nat → Bool
  | some d => decide (d < now)
  | none => false

def State.expired (s : State) (d : Option Nat) : Bool := Machine.expired s.clock.toNat d

/-- A table monitor that the write of `n` bytes at `loc` reaches is evaluated on the value that the write leaves, unless its
timeout has expired before. The bytes are compared whether or not they are poisoned (log 36). -/
def Monitor.afterWrite (now : Nat) (m : Memory) (loc n : Nat) (k : Monitor) : Monitor :=
  if k.table && !expired now k.deadline && decide (k.loc < loc + n) && decide (loc < k.loc + condBytes k.q)
      && condHolds k.q (m.nat k.loc (condBytes k.q)) k.comparand
  then { k with fired := true } else k

/-! ## One write at its point of performance -/

/-- The bytes are written, the marks of granules covered whole clear, and monitors see the value left (R341, R251). -/
def State.poke (s : State) (loc : Nat) (bs : List Byte) : State :=
  let mem := s.mem.writeBytes loc bs
  { s with mem := mem, poison := clearPoison s.poison loc bs.length,
           monitors := s.monitors.map (Monitor.afterWrite s.clock.toNat mem loc bs.length) }

/-- The bit field of `n` bits at bit `o` of the byte at `loc` is written (R154). -/
def State.pokeBits (s : State) (loc o n v : Nat) : State :=
  let old := (s.mem.read loc).toNat
  let new := old - old / 2 ^ o % 2 ^ n * 2 ^ o + v % 2 ^ n * 2 ^ o
  s.poke loc [BitVec.ofNat 8 new]

/-- A granule is marked poisoned. -/
def State.markPoison (s : State) (loc : Nat) : State := { s with poison := insertRising s.poison (loc / 8) }

/-- The unsigned value of `n` bytes of memory. -/
def State.peek (s : State) (loc n : Nat) : Nat := s.mem.nat loc n

end Sys2Proof.Machine
end

