-- ==== Sys2Proof/Machine/Number.lean ====
section
/-! DEFINITION. Exact values, the formats of chapter 05, Decode and RoundTo (R8, R9, R109–R119). -/

namespace Sys2Proof.Machine

/-! ## Exact values -/

/-- An exact value: NaN, an infinity, or a signed magnitude m x 2^e. With `more`, the magnitude lies strictly between
m x 2^e and (m + 1) x 2^e: what a quotient, a root or a special function leaves below its last bit. -/
inductive Exact where
  | nan
  | inf (neg : Bool)
  | fin (neg : Bool) (m : Nat) (e : Int) (more : Bool)
deriving DecidableEq, Repr

/-- The conditions of R131, as bits of FPFLAGS. -/
def fNV : BitVec 5 := 0x01
def fDZ : BitVec 5 := 0x02
def fOF : BitVec 5 := 0x04
def fUF : BitVec 5 := 0x08
def fNX : BitVec 5 := 0x10

def flagIf (b : Bool) (f : BitVec 5) : BitVec 5 := if b then f else 0

/-- An integer as an exact value. -/
def Exact.ofInt (i : Int) : Exact := .fin (decide (i < 0)) i.natAbs 0 false

/-- Zero of a sign. -/
def Exact.zero (neg : Bool) : Exact := .fin neg 0 0 false

def Exact.neg : Exact → Exact
  | .nan => .nan
  | .inf n => .inf !n
  | .fin n m e k => .fin (!n) m e k

/-- m x 2^e brought to a lower exponent. -/
def scaleTo (m : Nat) (e low : Int) : Nat := m * 2 ^ (e - low).toNat

/-- The sum (R128, R129): ∞ − ∞ is invalid; a zero sum is −0 when both addends are, or under RDN unless both are +0. -/
def Exact.add (rdn : Bool) : Exact → Exact → Exact × BitVec 5
  | .nan, _ => (.nan, 0)
  | _, .nan => (.nan, 0)
  | .inf a, .inf b => if a = b then (.inf a, 0) else (.nan, fNV)
  | .inf a, _ => (.inf a, 0)
  | _, .inf b => (.inf b, 0)
  | .fin a m e k, .fin b n f j =>
    let low := min e f
    let x : Int := (if a then -1 else 1) * (scaleTo m e low : Int)
    let y : Int := (if b then -1 else 1) * (scaleTo n f low : Int)
    let t := x + y
    if t = 0 then (.zero ((a && b) || (rdn && !(m == 0 && n == 0 && !a && !b))), 0)
    else (.fin (decide (t < 0)) t.natAbs low (k || j), 0)

/-- The product (R128, R129): 0 x ∞ is invalid. -/
def Exact.mul : Exact → Exact → Exact × BitVec 5
  | .nan, _ => (.nan, 0)
  | _, .nan => (.nan, 0)
  | .inf a, .inf b => (.inf (a != b), 0)
  | .inf a, .fin b n _ _ => if n = 0 then (.nan, fNV) else (.inf (a != b), 0)
  | .fin a m _ _, .inf b => if m = 0 then (.nan, fNV) else (.inf (a != b), 0)
  | .fin a m e k, .fin b n f j => (.fin (a != b) (m * n) (e + f) (k || j), 0)

/-- The quotient (R128, R129, R136). -/
def Exact.div : Exact → Exact → Exact × BitVec 5
  | .nan, _ => (.nan, 0)
  | _, .nan => (.nan, 0)
  | .inf _, .inf _ => (.nan, fNV)
  | .inf a, .fin b _ _ _ => (.inf (a != b), 0)
  | .fin a _ _ _, .inf b => (.zero (a != b), 0)
  | .fin a m e _, .fin b n f _ =>
    if n = 0 then (if m = 0 then (.nan, fNV) else (.inf (a != b), fDZ))
    else if m = 0 then (.zero (a != b), 0)
    else
      let k := 200 + Nat.log2 n
      let x := m * 2 ^ k
      (.fin (a != b) (x / n) (e - f - k) (x % n != 0), 0)

/-- The integer square root, by Newton's steps from above; the first argument bounds their number. -/
def isqrtFrom : Nat → Nat → Nat → Nat
  | 0, _, x => x
  | k + 1, n, x =>
    let y := (x + n / x) / 2
    if y < x then isqrtFrom k n y else x

def isqrt (n : Nat) : Nat := if n = 0 then 0 else isqrtFrom 64 n (2 ^ (Nat.log2 n / 2 + 1))

/-- The square root (R128, R136). -/
def Exact.sqrt : Exact → Exact × BitVec 5
  | .nan => (.nan, 0)
  | .inf a => if a then (.nan, fNV) else (.inf false, 0)
  | .fin a m e _ =>
    if m = 0 then (.zero a, 0)
    else if a then (.nan, fNV)
    else
      let odd := (e % 2).toNat
      let x := m * 2 ^ odd * 2 ^ 240
      let r := isqrt x
      (.fin false r ((e - odd) / 2 - 120) (r * r != x), 0)

/-- The reciprocal square root (R136). -/
def Exact.rsqrt : Exact → Exact × BitVec 5
  | .nan => (.nan, 0)
  | .inf a => if a then (.nan, fNV) else (.zero false, 0)
  | .fin a m e _ =>
    if m = 0 then (.inf a, fDZ)
    else if a then (.nan, fNV)
    else
      let odd := (e % 2).toNat
      let n := m * 2 ^ odd
      let q := 2 ^ 400 / n
      let r := isqrt q
      (.fin false r (-((e - odd) / 2) - 200) (r * r != q || 2 ^ 400 % n != 0), 0)

/-- Whether a magnitude is below another. -/
def magLt (m : Nat) (e : Int) (n : Nat) (f : Int) : Bool :=
  let low := min e f
  decide (scaleTo m e low < scaleTo n f low)

/-- Less than, on values that are not NaN. −0 is below +0 when `zeros` says so. -/
def Exact.lt (zeros : Bool) : Exact → Exact → Bool
  | .inf a, .inf b => a && !b
  | .inf a, .fin _ _ _ _ => a
  | .fin _ _ _ _, .inf b => !b
  | .fin a m e _, .fin b n f _ =>
    if m = 0 && n = 0 then zeros && a && !b
    else match a, b with
      | false, false => magLt m e n f
      | true, true => magLt n f m e
      | true, false => true
      | false, true => false
  | _, _ => false

/-! ## The binary formats (R110, R111) -/

/-- Exponent bits, fraction bits and bias of a format of R111. -/
def fpParams (f : Nat) : Nat × Nat × Nat :=
  match f with
  | 0 => (8, 23, 127)
  | 1 => (8, 10, 127)
  | 2 => (5, 10, 15)
  | 3 => (8, 7, 127)
  | 4 => (4, 3, 7)
  | 5 => (5, 2, 15)
  | 6 => (2, 3, 1)
  | 7 => (3, 2, 3)
  | 8 => (2, 1, 1)
  | _ => (11, 52, 1023)

def isFp (f : Nat) : Bool := f ≤ 8 || f == 20

/-- The formats with infinities, and those with no NaN. -/
def hasInf (f : Nat) : Bool := f ≤ 3 || f == 5 || f == 20
def noNan (f : Nat) : Bool := f == 6 || f == 7 || f == 8

/-- The magnitude code of the largest finite value. -/
def maxFinite (f : Nat) : Nat :=
  let (eb, fb, _) := fpParams f
  if hasInf f then (2 ^ eb - 1) * 2 ^ fb - 1 else if f = 4 then 0x7E else 2 ^ (eb + fb) - 1

def canonicalNan (f : Nat) : Nat :=
  let (eb, fb, _) := fpParams f
  if f = 4 then 0x7F else (2 ^ eb - 1) * 2 ^ fb + 2 ^ (fb - 1)

/-- Width in bits of an element's code (19 for FP19). -/
def codeBits (f : Nat) : Nat :=
  [32, 19, 16, 16, 8, 8, 6, 6, 4, 8, 8, 8, 6, 6, 8, 6, 4, 3, 2, 16, 64, 32, 32, 8, 8].getD f 0

/-- The value of a finite magnitude code. -/
def fpMagnitude (f mag : Nat) : Nat × Int :=
  let (_, fb, bias) := fpParams f
  let ex := mag / 2 ^ fb
  let fr := mag % 2 ^ fb
  if ex = 0 then (fr, 1 - (bias : Int) - fb) else (2 ^ fb + fr, (ex : Int) - bias - fb)

/-- A code of a binary format: its value, and invalid where it is a signalling NaN (R111, R112). -/
def decodeFp (f code : Nat) : Exact × BitVec 5 :=
  let (eb, fb, _) := fpParams f
  let neg := code / 2 ^ (eb + fb) % 2 == 1
  let mag := code % 2 ^ (eb + fb)
  let top := (2 ^ eb - 1) * 2 ^ fb
  if hasInf f && mag == top then (.inf neg, 0)
  else if (hasInf f && top < mag) || (f == 4 && mag == 0x7F) then
    (.nan, flagIf (f != 5 && f != 4 && mag % 2 ^ fb < 2 ^ (fb - 1)) fNV)
  else
    let (m, e) := fpMagnitude f mag
    (.fin neg m e false, 0)

/-- An integer quotient m x 2^e ÷ 2^q rounded under rm (0 RNE, 1 RTZ, 2 RUP, 3 RDN), and whether it is inexact. -/
def roundAt (rm : Nat) (neg : Bool) (m : Nat) (e : Int) (more : Bool) (q : Int) : Nat × Bool :=
  if q ≤ e then
    let n := m * 2 ^ (e - q).toNat
    (if more && ((rm == 2 && !neg) || (rm == 3 && neg)) then n + 1 else n, more)
  else
    let d := 2 ^ (q - e).toNat
    let n := m / d
    let r := m % d
    let inexact := r != 0 || more
    let up := match rm with
      | 0 => decide (d < 2 * r) || (2 * r == d && (more || n % 2 == 1))
      | 1 => false
      | 2 => inexact && !neg
      | _ => inexact && neg
    (if up then n + 1 else n, inexact)

/-- What RoundTo delivers where IEEE 754 would give an infinity, or a directed mode the largest finite value (R113). -/
def overflowCode (f rm : Nat) (sat neg : Bool) : Nat :=
  let (eb, fb, _) := fpParams f
  let sign := if neg then 2 ^ (eb + fb) else 0
  let toInf := match rm with
    | 0 => true
    | 1 => false
    | 2 => !neg
    | _ => neg
  if noNan f || sat || !toInf then sign + maxFinite f
  else if f = 4 then canonicalNan 4
  else sign + (2 ^ eb - 1) * 2 ^ fb

/-- RoundTo for a binary format (R113). Underflow is detected after rounding (R9). -/
def roundFp (y : Exact) (f rm : Nat) (sat : Bool) : Nat × BitVec 5 :=
  let (eb, fb, bias) := fpParams f
  let sign := fun neg : Bool => if neg then 2 ^ (eb + fb) else 0
  match y with
  | .nan => if noNan f then (0, fNV) else (canonicalNan f, 0)
  | .inf neg =>
    let code := overflowCode f 0 sat neg
    (code, flagIf (code != sign neg + (2 ^ eb - 1) * 2 ^ fb || !hasInf f) fNV)
  | .fin neg m e more =>
    if m = 0 then (sign neg, 0)
    else
      let top : Int := Nat.log2 m + e
      let emin : Int := 1 - bias
      let at_ := max top emin
      let (n, inexact) := roundAt rm neg m e more (at_ - fb)
      let code := n + (at_ + bias - 1).toNat * 2 ^ fb
      if maxFinite f < code then (overflowCode f rm sat neg, fOF ||| fNX)
      else
        let free := (roundAt rm neg m e more (top - fb)).1
        let tiny := decide (top < emin) && !(top == emin - 1 && free == 2 ^ (fb + 1))
        (sign neg + code, flagIf inexact fNX ||| flagIf (inexact && tiny) fUF)

/-! ## Tapered formats (R114–R116) -/

/-- Bits and es of a tapered format. -/
def tapParams (f : Nat) : Nat × Nat := [(8, 0), (8, 1), (8, 2), (6, 0), (6, 1)].getD (f - 9) (8, 0)

/-- The length of the run of bits equal to `b` from bit `i - 1` of `v` downwards. -/
def runLength (b : Bool) (v : Nat) : Nat → Nat
  | 0 => 0
  | i + 1 => if (v / 2 ^ i % 2 == 1) == b then 1 + runLength b v i else 0

/-- The value of a nonzero magnitude field (TapDecode of R114). -/
def tapMagnitude (f mag : Nat) : Nat × Int :=
  let (n, es) := tapParams f
  let w := n - 1
  let b := mag / 2 ^ (w - 1) % 2 == 1
  let m := runLength b mag w
  let k : Int := if b then (m : Int) - 1 else -(m : Int)
  let rest := w - m - 1
  let eb := min es rest
  let fb := rest - eb
  let e := mag / 2 ^ fb % 2 ^ eb * 2 ^ (es - eb)
  (2 ^ fb + mag % 2 ^ fb, k * 2 ^ es + e - fb)

def decodeTap (f code : Nat) : Exact :=
  let (n, _) := tapParams f
  let s := code / 2 ^ (n - 1) % 2 == 1
  let mag := code % 2 ^ (n - 1)
  if mag = 0 then (if s then .nan else .zero false)
  else
    let (m, e) := tapMagnitude f mag
    .fin s m e false

/-- The largest magnitude code, up to `c`, whose value is at most a magnitude; 1 when there is none. -/
def tapFloor (f m : Nat) (e : Int) : Nat → Nat
  | 0 => 1
  | c + 1 =>
    let (a, k) := tapMagnitude f (c + 1)
    if magLt m e a k then tapFloor f m e c else c + 1

/-- RoundTo for a tapered format (R116). -/
def roundTap (y : Exact) (f rm : Nat) : Nat × BitVec 5 :=
  let (n, _) := tapParams f
  let top := 2 ^ (n - 1) - 1
  let sign := fun neg : Bool => if neg then 2 ^ (n - 1) else 0
  match y with
  | .nan => (2 ^ (n - 1), 0)
  | .inf neg => (sign neg + top, fNV)
  | .fin neg m e more =>
    if m = 0 then (0, 0)
    else
      let (a, k) := tapMagnitude f top
      let (b, j) := tapMagnitude f 1
      if !magLt m e a k then (sign neg + top, flagIf (magLt a k m e || more) (fOF ||| fNX))
      else if magLt m e b j then (sign neg + 1, fUF ||| fNX)
      else
        let c := tapFloor f m e top
        let (v, q) := tapMagnitude f c
        let (u, r) := tapMagnitude f (c + 1)
        let exact := !magLt v q m e && !more
        if exact then (sign neg + c, 0)
        else
          -- twice the value against the sum of its neighbours
          let low := min (min q r) e
          let mid := scaleTo v q low + scaleTo u r low
          let twice := 2 * scaleTo m e low
          let up := match rm with
            | 0 => decide (mid < twice) || (mid == twice && (more || c % 2 == 1))
            | 1 => false
            | 2 => !neg
            | _ => neg
          (sign neg + (if up then c + 1 else c), fNX)

/-! ## Integer and offset-binary formats (R117, R118) -/

def isOb (f : Nat) : Bool := 14 ≤ f && f ≤ 18
def isTap (f : Nat) : Bool := 9 ≤ f && f ≤ 13
def isSigned (f : Nat) : Bool := f == 19 || f == 21 || f == 23

/-- The zero point an offset-binary format takes where none is given (R117). -/
def defaultZero (f : Nat) : Nat := 2 ^ (codeBits f - 1)

/-- RoundTo for an integer or offset-binary format with zero point z (R118). -/
def roundInt (y : Exact) (f rm z : Nat) : Nat × BitVec 5 :=
  let n := codeBits f
  let lo : Int := if isSigned f then -(2 ^ (n - 1) : Int) else 0
  let hi : Int := if isSigned f then 2 ^ (n - 1) - 1 else 2 ^ n - 1
  let z : Int := if isOb f then z else 0
  let code := fun i : Int => (i % 2 ^ n).toNat
  match y with
  | .nan => (code z, fNV)
  | .inf neg => (code (if neg then lo else hi), fNV)
  | .fin neg m e more =>
    let (q, inexact) := roundAt rm neg m e more 0
    let q : Int := (if neg then -(q : Int) else q) + z
    if q < lo then (code lo, fNV)
    else if hi < q then (code hi, fNV)
    else (code q, flagIf inexact fNX)

/-! ## Decode and RoundTo over every format (R8) -/

/-- Decode(e, f, z), with invalid for a signalling NaN. -/
def decodeElem (f code z : Nat) : Exact × BitVec 5 :=
  if isFp f then decodeFp f code
  else if isTap f then (decodeTap f code, 0)
  else if isOb f then (.ofInt ((code : Int) - z), 0)
  else if isSigned f then (.ofInt (sext (codeBits f) code), 0)
  else (.ofInt code, 0)

/-- RoundTo(y, f, rm, sat), with zero point z for an offset-binary format. -/
def roundElem (y : Exact) (f rm : Nat) (sat : Bool) (z : Nat) : Nat × BitVec 5 :=
  if isFp f then roundFp y f rm sat
  else if isTap f then roundTap y f rm
  else roundInt y f rm z

/-- The scale a code of SC8 stands for: a power of two, or NaN (R119). -/
def decodeScale (code : Nat) : Exact := if code = 255 then .nan else .fin false 1 ((code : Int) - 127) false

def decode32 (x : Word32) : Exact × BitVec 5 := decodeFp 0 x.toNat

/-- RNE32 and RNE64 (R8). -/
def rne32 (y : Exact) : Word32 × BitVec 5 :=
  let (c, f) := roundFp y 0 0 false
  (BitVec.ofNat 32 c, f)

def rne64 (y : Exact) : Word64 × BitVec 5 :=
  let (c, f) := roundFp y 20 0 false
  (BitVec.ofNat 64 c, f)

/-! ## Elements in memory and in registers (R110, R120, R121) -/

/-- Width of an element in memory: an FP19 element takes its 32-bit container. -/
def memBits (f : Nat) : Nat := if f = 1 then 32 else codeBits f

/-- The code in a stored element: an FP19 container's low 13 bits are ignored. -/
def codeOfStored (f v : Nat) : Nat := if f = 1 then v / 2 ^ 13 % 2 ^ 19 else v % 2 ^ codeBits f
def storedOfCode (f c : Nat) : Nat := if f = 1 then c * 2 ^ 13 else c

end Sys2Proof.Machine
end

