-- ==== Sys2Proof/Machine/Atom.lean ====
section
/-! DEFINITION. What an atomic operation writes (R225, R226), and the partial values that cores keep in update-only
state until a reader of the line appears (R234). -/

namespace Sys2Proof.Machine

/-! ## Types and values (R221, R225, R226) -/

/-- The width of an atomic type in bytes. -/
def typeBytes (ty : Nat) : Nat := if ty = 2 ∨ ty = 3 ∨ ty = 7 then 8 else 4

/-- The number format of a floating-point type. -/
def typeFormat (ty : Nat) : Nat := if ty = 4 then 0 else if ty = 5 then 2 else if ty = 6 then 3 else 20

/-- minimumNumber and maximumNumber on codes of a format (R134): `least` says which. -/
def numberPick (f : Nat) (least : Bool) (a b : Nat) : Nat × BitVec 5 :=
  let (x, k) := decodeFp f a
  let (z, g) := decodeFp f b
  let pick := if least then x.lt true z else z.lt true x
  (match x, z with
   | .nan, .nan => canonicalNan f
   | .nan, _ => b
   | _, .nan => a
   | _, _ => if pick then a else b, k ||| g)

/-- The rounded sum of two codes of a format; the conditions are discarded (R226). -/
def sumCodes (f a b : Nat) : Nat :=
  (roundFp ((decodeFp f a).1.add false (decodeFp f b).1).1 f 0 false).1

/-- One floating-point element: an addition, a minimum or a maximum. -/
def atomFp (op : AtomOp) (f old b : Nat) : Nat :=
  match op with
  | .min => (numberPick f true old b).1
  | .max => (numberPick f false old b).1
  | _ => sumCodes f old b

/-- The operations that treat the operand as bits, at a width of `n` bits. -/
def atomInt (op : AtomOp) (signed : Bool) (n old b new : Nat) : Nat :=
  let less := if signed then decide (sext n old < sext n b) else decide (old < b)
  match op with
  | .add => (old + b) % 2 ^ n
  | .min => if less then old else b
  | .max => if less then b else old
  | .and => old &&& b
  | .or => old ||| b
  | .xor => old ^^^ b
  | .exch => b
  | .incw => if b ≤ old then 0 else old + 1
  | .decw => if old = 0 ∨ b < old then b else old - 1
  | .cas => if old = b then new else old

/-- The operation computes on numbers of a floating-point type. -/
def isArith : AtomOp → Bool
  | .add | .min | .max => true
  | _ => false

/-- The value that an operation leaves (R225): `b` the operand or comparand, `new` the new value of a swap. -/
def atomVal (op : AtomOp) (ty old b new : Nat) : Nat :=
  let n := 8 * typeBytes ty
  if 4 ≤ ty && isArith op then
    if ty = 5 ∨ ty = 6 then
      let f := typeFormat ty
      atomFp op f (old % 2 ^ 16) (b % 2 ^ 16) + 2 ^ 16 * atomFp op f (old / 2 ^ 16 % 2 ^ 16) (b / 2 ^ 16 % 2 ^ 16)
    else atomFp op (typeFormat ty) (old % 2 ^ n) (b % 2 ^ n)
  else atomInt op (ty % 2 == 1) n (old % 2 ^ n) (b % 2 ^ n) (new % 2 ^ n)

/-! ## At the point of execution (R224, R229) -/

/-- The old value at a place and the state after the operation; a compare and swap that fails writes nothing. -/
def State.atom (s : State) (loc : Nat) (op : AtomOp) (ty b new : Nat) : State × Nat :=
  let n := typeBytes ty
  let old := s.peek loc n
  if op = .cas ∧ old ≠ b % 2 ^ (8 * n) then (s, old)
  else (s.poke loc (natToBytes n (atomVal op ty old b new)), old)

/-- A reduction performed at its point; one that meets poison is discarded (R229). -/
def State.reduceAt (s : State) (loc : Nat) (op : AtomOp) (ty b : Nat) : State :=
  if s.poisoned loc (typeBytes ty) then s else (s.atom loc op ty b 0).1

/-! ## Update-only state (R234) -/

/-- A partial value is combined into memory. -/
def State.combine (s : State) (p : Partial) : State := s.reduceAt p.loc p.op p.ty p.val.toNat

/-- A reader of a line appears: every partial of the line is combined, oldest first. -/
def State.recall (s : State) (line : Nat) : State :=
  (s.partials.filter fun p => lineOf p.loc == line).foldl State.combine
    { s with partials := s.partials.filter fun p => lineOf p.loc != line }

/-- A reader of some lines appears. -/
def State.recallLines (s : State) (lines : List Nat) : State := lines.foldl State.recall s

/-- The lines that `n` bytes at a place touch. -/
def linesOf (loc n : Nat) : List Nat :=
  (List.range ((loc % 128 + n + 127) / 128)).map fun i => lineOf loc + 128 * i

/-- The partials of a core are pushed home. -/
def State.pushPartials (s : State) (core : Nat) : State :=
  (s.partials.filter (·.core == core)).foldl State.combine
    { s with partials := s.partials.filter (·.core != core) }

/-- The partial overlaps a word of `n` bytes. -/
def Partial.meets (p : Partial) (core loc n : Nat) : Bool :=
  p.core == core && decide (p.loc < loc + n) && decide (loc < p.loc + typeBytes p.ty)

/-- A core's reduction to a CXL word combines with the partial of the same word, operation and type; any other partial
that it meets is pushed first. -/
def State.partialReduce (s : State) (core loc : Nat) (op : AtomOp) (ty b : Nat) : State :=
  let met := s.partials.filter fun p => p.meets core loc (typeBytes ty)
  match met with
  | [p] =>
    if p.loc = loc ∧ p.op = op ∧ p.ty = ty then
      { s with partials := s.partials.map fun q =>
          if q = p then { q with val := BitVec.ofNat 64 (atomVal op ty p.val.toNat b 0) } else q }
    else
      let s := s.combine p
      { s with partials := s.partials.filter (· != p) ++
          [{ core := core, loc := loc, op := op, ty := ty, val := BitVec.ofNat 64 b }] }
  | _ =>
    let s := met.foldl State.combine s
    { s with partials := s.partials.filter (fun p => !met.contains p) ++
        [{ core := core, loc := loc, op := op, ty := ty, val := BitVec.ofNat 64 b }] }

end Sys2Proof.Machine
end

