-- ==== Sys2Proof/Machine/Llc.lean ====
section
/-! DEFINITION. Contexts, token buckets (R301) and the lines that the LLC holds (R23, R167, R300, R311). The LLC's ways and
what leaves it are choices of the model (log 17). -/

namespace Sys2Proof.Machine

/-! ## Contexts -/

/-- The context of a number, if it exists. -/
def State.context? (s : State) (c : Nat) : Option Context := s.contexts.find? (·.num == c)

/-- The context of a number; a context that does not exist reads as one just created. -/
def State.context (s : State) (c : Nat) : Context := (s.context? c).getD (Context.start c)

/-- A context replaced. -/
def State.setContext (s : State) (c : Context) : State :=
  { s with contexts := s.contexts.map fun d => if d.num == c.num then c else d }

/-! ## Buckets -/

/-- A bucket with the tokens that have come in by `now`: RATE in every 256 cycles. -/
def Bucket.settle (b : Bucket) (now : Nat) : Bucket :=
  if b.depth = 0 then { b with frac := 0, since := now }
  else
    let t := b.frac + (now - b.since) * b.rate
    let fill := min (b.depth : Int) (b.fill + (t / 256 : Nat))
    { b with fill := fill, frac := if fill = b.depth then 0 else t % 256, since := now }

/-- Tokens taken from a bucket: the fill never falls below −DEPTH. -/
def Bucket.take (b : Bucket) (n : Nat) : Bucket :=
  if b.depth = 0 then b else { b with fill := max (-(b.depth : Int)) (b.fill - n) }

def State.charge (s : State) (ctx cls n : Nat) : State :=
  let c := s.context ctx
  s.setContext { c with buckets := Vector.ofFn fun i =>
    if i.val = cls then (c.buckets[i].settle s.clock.toNat).take n else c.buckets[i] }

/-! ## The LLC -/

/-- The SRAM of the memory dies (R13). -/
def packageSram : Nat := 12 * 2 ^ 30

/-- The memory dies in service, and the one that holds a line (log 17). -/
def State.memoryDies (s : State) : List Nat := (List.range 8).filter fun d => !s.memFenced.getLsbD d
def State.dieOf (s : State) (line : Nat) : Option Nat :=
  s.memoryDies[Config.memoryDie line % s.memoryDies.length]?

/-- Ways that a context's share of a slice has (log 17). -/
def llcWays : Nat := 16

/-- The way that a line is brought into, among those that are not gated. -/
def Context.llcWay (c : Context) (line : Nat) : Nat := line / 2 ^ 16 % (llcWays - c.llcGated)

/-- The lines that a context's ways hold at most: its part of what package scratchpad leaves of the memory dies in
service. -/
def State.llcLines (s : State) : Nat :=
  (packageSram / 8 * s.memoryDies.length - (s.contexts.map (·.psBytes)).sum) / s.contexts.length / 128

def State.llcHolds (s : State) (line : Nat) : Bool := s.llc.any (·.line == line)

/-- A dirty line is written back: the context that brought it pays for its 128 bytes (R302). -/
def State.writeBack (s : State) (l : LlcLine) : State := if l.dirty then s.charge l.ctx 3 2 else s

/-- The lines that satisfy a test are flushed and leave. -/
def State.llcFlush (s : State) (p : LlcLine → Bool) : State :=
  (s.llc.filter p).foldl State.writeBack { s with llc := s.llc.filter fun l => !p l }

/-- The oldest lines of a context leave where its ways are over-full. -/
def State.llcTrim (s : State) (ctx : Nat) : State :=
  let out := (s.llc.filter (·.ctx == ctx)).drop s.llcLines
  if out.isEmpty then s else s.llcFlush fun l => out.contains l

/-- Ways that pass to another context, or to package scratchpad, are flushed and invalidated (R167, R356). -/
def State.llcResplit (s : State) : State := (s.contexts.map (·.num)).foldl State.llcTrim s

/-- An access of a context reaches the LLC slice of a line; a miss brings the line in, and a write gets write
permission. -/
def State.llcAccess (s : State) (ctx line : Nat) (write : Bool) : State :=
  let hit := s.llcHolds line
  let c := s.context ctx
  let s := s.setContext { c with llcReads := c.llcReads + 1, llcMisses := c.llcMisses + (!hit).toNat }
  if hit then
    { s with llc := s.llc.map fun (l : LlcLine) =>
        if l.line == line then { l with dirty := l.dirty || write, owned := l.owned || write } else l }
  else
    { s with llc := { line := line, ctx := ctx, way := c.llcWay line, dirty := write, owned := write } :: s.llc }.llcTrim ctx

/-- A read that is charged for the line that a miss fetches (R302). -/
def State.llcRead (s : State) (ctx line : Nat) : State :=
  (if s.llcHolds line then s else s.charge ctx 3 2).llcAccess ctx line false

end Sys2Proof.Machine
end

