-- ==== Sys2Proof/Machine/Translate.lean ====
section
/-! DEFINITION. Page tables, translation buffers, page homes, word registrations and the region directory
(R347, R160, R152–R156). -/

namespace Sys2Proof.Machine

/-! ## The page table (R347) -/

/-- Bits hi:lo of a number. -/
def bitsOf (v lo n : Nat) : Nat := v / 2 ^ lo % 2 ^ n

/-- The page size that a leaf maps at a level, as log2; 0 where no leaf may stand. -/
def leafSize (level : Nat) : Nat := if level = 0 then 12 else if level = 1 then 21 else if level = 2 then 30 else 0

/-- The mapping that a leaf entry gives a VA, at a page of 2^size bytes. -/
def leafMapping (pte va size : Nat) : Mapping :=
  { size := size, vpage := va / 2 ^ size, frame := bitsOf pte 12 40 * 4096, r := bitsOf pte 1 1 == 1,
    w := bitsOf pte 2 1 == 1, x := bitsOf pte 3 1 == 1, kind := bitsOf pte 6 2, peer := bitsOf pte 52 12 }

/-- A valid leaf at a level keeps to the table of R347. -/
def leafValid (pte level size : Nat) : Bool :=
  bitsOf pte 0 1 == 1 && bitsOf pte 4 1 == 1 && leafSize level != 0 && bitsOf pte 8 4 == 0
  && (bitsOf pte 6 2 == 3 || bitsOf pte 52 12 == 0) && (level == 0 || bitsOf pte 5 1 == 0)
  && bitsOf pte 12 40 * 4096 % 2 ^ size == 0

/-- A valid pointer keeps to the table of R347: it stands above level 0, and its permissions, SZ64, KIND and PEER are
zero (log 13). -/
def pointerValid (pte level : Nat) : Bool :=
  bitsOf pte 0 1 == 1 && bitsOf pte 4 1 == 0 && level != 0 && bitsOf pte 1 3 == 0 && bitsOf pte 5 7 == 0
  && bitsOf pte 52 12 == 0

/-- The address of the entry of a level in a table. -/
def pteAddr (table va level : Nat) : Nat := table + 8 * bitsOf va (12 + 9 * level) 9

/-- The level-0 entry that an access to a 64 KiB group translates through: its own where the 16 agree, else one of the
16, a free value (log 1). -/
def groupEntry (s : State) (at_ : Nat) : Nat :=
  let base := at_ / 128 * 128
  let es := (List.range 16).map fun i => s.peek (base + 8 * i) 8
  let own := s.peek at_ 8
  if es.all (· == own) then own else es.getD (Config.pickEntry s.free).toNat own

/-- The walk from a table at a level down (R347). -/
def walkFrom (s : State) (va : Nat) : Nat → Nat → Option Mapping
  | 0, table =>
    let at_ := pteAddr table va 0
    let own := s.peek at_ 8
    if bitsOf own 5 1 = 1 then
      let e := groupEntry s at_
      if leafValid e 0 (if bitsOf e 5 1 = 1 then 16 else 12) then
        some (leafMapping e va (if bitsOf e 5 1 = 1 then 16 else 12))
      else none
    else if leafValid own 0 12 then some (leafMapping own va 12) else none
  | level + 1, table =>
    let pte := s.peek (pteAddr table va (level + 1)) 8
    if bitsOf pte 4 1 = 1 then
      if leafValid pte (level + 1) (leafSize (level + 1)) then some (leafMapping pte va (leafSize (level + 1)))
      else none
    else if pointerValid pte (level + 1) then walkFrom s va level (bitsOf pte 12 40 * 4096) else none

/-- The walk of a context reads an entry: what cores hold of its line in update-only state is combined first (R234), and the
line's LLC slice is passed (R152). -/
def State.readEntry (s : State) (ctx at_ : Nat) : State :=
  let s := s.recall (lineOf at_)
  if at_ < 2 ^ 51 then s.llcRead ctx (lineOf at_) else s

/-- The walk reads every entry that it meets. -/
def State.recallWalk (s : State) (ctx va : Nat) : Nat → Nat → State
  | 0, table => s.readEntry ctx (pteAddr table va 0)
  | level + 1, table =>
    let s := s.readEntry ctx (pteAddr table va (level + 1))
    let pte := s.peek (pteAddr table va (level + 1)) 8
    if bitsOf pte 4 1 = 0 && pointerValid pte (level + 1) then
      State.recallWalk s ctx va level (bitsOf pte 12 40 * 4096)
    else s

/-- Where a context's page table starts. -/
def Context.root (c : Context) : Nat := bitsOf c.ptbase.toNat 12 40 * 4096

/-- The walk of a context's page table for a VA. -/
def State.walk (s : State) (c : Context) (va : Nat) : Option Mapping :=
  walkFrom (s.recallWalk c.num va 4 c.root) va 4 c.root

/-! ## Pages that pass to another context (R356) -/

/-- Where a leaf's frame lies: local memory, or the host coherent window. -/
def leafPlace (e : Nat) : Option Nat :=
  if bitsOf e 6 2 = 0 then some (bitsOf e 12 40 * 4096)
  else if bitsOf e 6 2 = 1 then some (hostBase + bitsOf e 12 40 * 4096) else none

/-- A table that a page-table walk can reach from `table` has a leaf that `p` accepts: place and size. -/
def State.anyLeaf (s : State) (p : Nat → Nat → Bool) : Nat → Nat → Bool
  | 0, table => (List.range 512).any fun i =>
      let e := s.peek (table + 8 * i) 8
      e % 2 == 1 && (leafPlace e).any fun a => p a (if e / 2 ^ 5 % 2 = 1 then 16 else 12)
  | n + 1, table => (List.range 512).any fun i =>
      let e := s.peek (table + 8 * i) 8
      if e % 2 = 0 then false
      else if e / 2 ^ 4 % 2 = 1 then (leafPlace e).any fun a => p a (leafSize (n + 1))
      else s.anyLeaf p n (bitsOf e 12 40 * 4096)

/-- Two pages have a byte in common. -/
def pagesMeet (page size page' size' : Nat) : Bool :=
  decide (page < page' + 2 ^ size') && decide (page' < page + 2 ^ size)

/-- A context maps some of a page. -/
def State.maps (s : State) (ctx page size : Nat) : Bool :=
  match s.context? ctx with
  | some c => s.anyLeaf (pagesMeet page size) 4 c.root
  | none => false

/-- A place lies in the page. -/
def inPage (page size loc : Nat) : Bool := loc / 2 ^ size == page / 2 ^ size

/-- The owners of what meets a page, those that map theirs no more forgotten. -/
def State.ownersNow (s : State) (ctx page size : Nat) : List Owned :=
  s.owners.map fun o =>
    if pagesMeet o.page o.size page size then
      { o with ctxs := o.ctxs.map fun n => if n == ctx || s.maps n o.page o.size then n else 64 }
    else o

/-- A byte has been mapped, and not for the context. -/
def ownedByOthers (os : List Owned) (ctx a : Nat) : Bool :=
  os.any (fun o => inPage o.page o.size a) && !os.any fun o => inPage o.page o.size a && o.ctxs.contains ctx

/-- The context maps a page: what of it has last been mapped for another context is cleared first. A page is given when a
walk finds it, since nothing reads through a mapping before (log 85). -/
def State.ownPage (s : State) (c : Context) (m : Mapping) : State :=
  let page := if m.kind = 0 then m.frame else hostBase + m.frame
  let mine := fun o : Owned => o.page == page && o.size == m.size
  if 2 ≤ m.kind ∨ (m.kind = 0 ∧ 2 ^ 51 ≤ m.frame) ∨ s.owners.any (fun o => mine o && o.ctxs.contains c.num) then s
  else
    let os := s.ownersNow c.num page m.size
    let cleared := fun a : Nat => m.kind == 0 && inPage page m.size a && ownedByOthers os c.num a
    { s with
      mem := s.mem.filter fun x => !cleared x.1
      poison := s.poison.filter fun g => !cleared (8 * g)
      partials := s.partials.filter fun p => !cleared p.loc
      owners :=
        if os.any mine then os.map fun (o : Owned) => if mine o then { o with ctxs := o.ctxs ++ [c.num] } else o
        else os ++ [{ page := page, size := m.size, ctxs := [c.num] }] }

/-! ## Translation buffers (R160) -/

def TlbUnit.capacity : TlbUnit → Nat
  | .core _ _ _ => Config.coreTlb
  | .die _ => Config.dieTlb
  | .walk _ _ => Config.walkTlb

/-- The first `n` entries of a unit and all entries of the others: the oldest entry of a full unit leaves (log 14). -/
def keepNewest (u : TlbUnit) : Nat → List TlbEntry → List TlbEntry
  | _, [] => []
  | 0, e :: t => if e.unit = u then keepNewest u 0 t else e :: keepNewest u 0 t
  | n + 1, e :: t => if e.unit = u then e :: keepNewest u n t else e :: keepNewest u (n + 1) t

def State.tlbFill (s : State) (u : TlbUnit) (asid : BitVec 16) (m : Mapping) : State :=
  { s with tlb := keepNewest u u.capacity ({ unit := u, asid := asid, map := m } :: s.tlb) }

/-- An entry is one that the shoot-down names. -/
def Shootdown.names (k : Shootdown) (e : TlbEntry) : Bool :=
  (match k.asid with | some a => e.asid == a | none => true)
  && match k.va with | some v => v / 2 ^ e.map.size == e.map.vpage | none => true

/-- The unit that asks may use an entry: no shoot-down names it that the asker has acknowledged and the entry's unit has
still to acknowledge (R164). -/
def State.usable (s : State) (asker : TlbUnit) (e : TlbEntry) : Bool :=
  s.shootdowns.all fun k => !k.names e || !k.units.contains e.unit || k.units.contains asker

/-- What a unit holds for a VA of an address space, as another may use it. -/
def State.tlbFind (s : State) (asker u : TlbUnit) (asid : BitVec 16) (va : Nat) : Option Mapping :=
  (s.tlb.find? fun e => e.unit == u && e.asid == asid && va / 2 ^ e.map.size == e.map.vpage && s.usable asker e).map
    (·.map)

/-- The walk as a translation makes it. A free value is consumed, which an inconsistent group may have asked for. -/
def State.walkFor (s : State) (c : Context) (va : Nat) : State × Option Mapping :=
  let t := s.recallWalk c.num va 4 c.root
  match s.walk c va with
  | some m => ({ t.ownPage c m with free := s.free + 1 }, some m)
  | none => ({ t with free := s.free + 1 }, none)

/-- Translation of a VA through a chain of buffers and then the walk; what is found fills the buffers passed. -/
def State.translateVia (s : State) (c : Context) (va : Nat) (asker : TlbUnit) : List TlbUnit → State × Option Mapping
  | [] => s.walkFor c va
  | u :: us =>
    match s.tlbFind asker u c.asid va with
    | some m => (s, some m)
    | none =>
      match s.translateVia c va asker us with
      | (s', some m) => (s'.tlbFill u c.asid m, some m)
      | (s', none) => (s', none)

/-- The place of a VA under its mapping. -/
def Mapping.place (m : Mapping) (va : Nat) : Nat :=
  let off := va % 2 ^ m.size
  if m.kind = 0 then m.frame + off
  else if m.kind = 3 then peerBase m.peer + m.frame + off
  else hostBase + m.frame + off

/-- What translation gives an access. -/
inductive Translated where
  | at_ (loc kind peer : Nat)
  | fails (c : Cause)
deriving DecidableEq, Repr

/-- Translation with its permission check: PAGEFAULT for an unmapped page, PROT without a permission needed (R158). -/
def State.translate (s : State) (units : List TlbUnit) (ctx va : Nat) (r w x : Bool) : State × Translated :=
  match s.translateVia (s.context ctx) va (units.headD (.die 8)) units with
  | (s', none) => (s', .fails .pagefault)
  | (s', some m) =>
    if (r && !m.r) || (w && !m.w) || (x && !m.x) then (s', .fails .prot)
    else (s', .at_ (m.place va) m.kind m.peer)

/-- The buffers that an access of a core passes, and those of a cluster's tensor engine. -/
def coreUnits (site cluster core : Nat) : List TlbUnit := [.core site cluster core, .die site]
def engineUnits (site cluster : Nat) : List TlbUnit := [.walk site cluster]

/-! ## Page homes (R156, R348) -/

/-- The 4 KiB page of a place. -/
def pageOf (loc : Nat) : Nat := loc / 4096

/-- log2 of the size of the page that holds a place: that of a mapping which a walk has found, else 4 KiB (log 96). -/
def State.pageSize (s : State) (loc : Nat) : Nat :=
  ((s.owners.find? fun o => inPage o.page o.size loc).map (·.size)).getD 12

def PageHome.holds (h : PageHome) (loc : Nat) : Bool := inPage h.page h.size loc

/-- The home of the page that holds a place; a page nothing has accessed has none yet. -/
def State.homeAt (s : State) (loc : Nat) : Option PageHome := s.homes.find? (·.holds loc)

/-- Its site. -/
def State.homeOf (s : State) (loc : Nat) : Option Nat := (s.homeAt loc).map (·.site)

/-- The page has a home, on a site that is not fenced. -/
def State.housed (s : State) (loc : Nat) : Bool :=
  match s.homeOf loc with
  | some h => !(s.sites[h]?.any (·.fenced))
  | none => false

/-- Pages of local memory and of the host coherent window have homes (R152, R305). -/
def homed (loc : Nat) : Bool := decide (loc < 2 ^ 51) || (decide (hostBase ≤ loc) && decide (loc < 2 ^ 65))

/-- The first site that accesses a page becomes its home (R348); homes of smaller pages within it are no more, unless one
is moving. -/
def State.touchHome (s : State) (loc site : Nat) : State :=
  let size := s.pageSize loc
  let page := loc / 2 ^ size * 2 ^ size
  let meets := fun h : PageHome => pagesMeet h.page h.size page size
  if !homed loc || s.housed loc || s.homes.any (fun h => meets h && h.moving.isSome) then s
  else
    { s with homes := s.homes.filter (fun h => !meets h) ++
        [{ page := page, size := size, site := site, moving := none, asker := none, writes := [], since := s.clock.toNat }] }

/-- One more write of a die to a page in the present window (R156). -/
def countWrite (site : Nat) : List (Nat × Nat) → List (Nat × Nat)
  | [] => [(site, 1)]
  | (d, n) :: t => if d = site then (d, n + 1) :: t else (d, n) :: countWrite site t

def State.countWrite (s : State) (loc site : Nat) : State :=
  { s with homes := s.homes.map fun h =>
      if h.holds loc then { h with writes := Machine.countWrite site h.writes } else h }

/-! ## Registrations and regions (R153, R155) -/

/-- The words of its line that `n` bytes at `loc` touch. -/
def wordMask (loc n : Nat) : Word32 :=
  maskOf fun l => decide (loc % 128 < 4 * l.val + 4) && decide (4 * l.val < loc % 128 + n)

/-- The registrations of a line after `core` registers `words`: they pass from any other core, and a fifth registrant
pushes out the oldest. -/
def register (rs : List Registration) (line core : Nat) (words : Word32) : List Registration :=
  let took := rs.map fun r => if r.line == line && r.core != core then { r with words := r.words &&& ~~~words } else r
  let held := took.filter fun r => r.words != 0
  if held.any fun r => r.line == line && r.core == core then
    held.map fun r => if r.line == line && r.core == core then { r with words := r.words ||| words } else r
  else
    let kept := if 4 ≤ (held.filter (·.line == line)).length then held.eraseP (·.line == line) else held
    kept ++ [{ line := line, core := core, words := words }]

/-- The words of a line that `n` bytes at `loc` touch, wherever the line lies. -/
def wordsIn (line loc n : Nat) : Word32 :=
  maskOf fun l => decide (loc < line + 4 * l.val + 4) && decide (line + 4 * l.val < loc + n)

/-- The words that some bytes touch are pushed to their home slices: their registrations end. -/
def State.pushWords (s : State) (loc n : Nat) : State :=
  { s with regs := (s.regs.map fun r => { r with words := r.words &&& ~~~wordsIn r.line loc n }).filter (·.words != 0) }

/-- A core's words of a line are pushed. -/
def State.pushCore (s : State) (line core : Nat) : State :=
  { s with regs := s.regs.filter fun r => !(r.line == line && r.core == core) }

/-- The smallest tracked region that holds a place. -/
def State.regionOf (s : State) (loc : Nat) : Option Region :=
  s.regions.find? fun r => r.base == loc / 2 ^ r.size * 2 ^ r.size

/-- A die's L2 may now hold lines of the place's region (R155). -/
def State.noteRead (s : State) (loc site : Nat) : State :=
  match s.regionOf loc with
  | none =>
    { s with regions := s.regions ++ [{ base := loc / 2 ^ 16 * 2 ^ 16, size := 16, dies := [site], written := 0 }] }
  | some r =>
    { s with regions := s.regions.map fun q =>
        if q.base == r.base && q.size == r.size then { q with dies := insertRising q.dies site } else q }

/-- A die stores to a line: where other dies are listed the region splits once, and the half that holds the line keeps
the storing die alone; the other half keeps the list (R155, log 95). -/
def State.noteWrite (s : State) (loc site : Nat) : State :=
  match s.regionOf loc with
  | none =>
    { s with regions := s.regions ++
        [{ base := loc / 2 ^ 16 * 2 ^ 16, size := 16, dies := [site], written := s.clock.toNat }] }
  | some r =>
    if r.dies.all (· == site) || r.size ≤ 7 then
      { s with regions := s.regions.map fun q =>
          if q.base == r.base && q.size == r.size then { q with dies := [site], written := s.clock.toNat } else q }
    else
      let half := 2 ^ (r.size - 1)
      let lo : Region := { r with size := r.size - 1 }
      let hi : Region := { r with base := r.base + half, size := r.size - 1 }
      let hit := fun q : Region => if loc / half * half == q.base then
        { q with dies := [site], written := s.clock.toNat } else q
      { s with regions := s.regions.filter (fun q => !(q.base == r.base && q.size == r.size)) ++ [hit lo, hit hi] }

end Sys2Proof.Machine
end

