-- ==== Sys2Proof/Machine/Ops.lean ====
section
/-! DEFINITION. The named operations on warps, registers, fragments, pending instructions, locks, the event ring and
contexts, and taking an exception and returning from one. A meaning is written from these. -/

namespace Sys2Proof.Machine

/-! ## Lists in order -/

/-- An element placed before the first one that it does not follow. -/
def insertBy {α : Type} (le : α → α → Bool) (a : α) : List α → List α
  | [] => [a]
  | b :: t => if le a b then a :: b :: t else b :: insertBy le a t

/-- A list in order; equal elements keep their places. -/
def sortBy {α : Type} (le : α → α → Bool) (l : List α) : List α := l.foldr (insertBy le) []

/-! ## Warps, gangs, grids -/

def State.warps (s : State) : List Warp := s.warp :: s.others

def State.findWarp (s : State) (uid : Nat) : Option Warp := s.warps.find? fun w => w.uid == uid && w.live

/-- A change of one warp, wherever it stands. -/
def State.mapWarp (s : State) (uid : Nat) (f : Warp → Warp) : State :=
  if s.warp.uid = uid then { s with warp := f s.warp }
  else { s with others := s.others.map fun w => if w.uid == uid then f w else w }

/-- A change of the issuing warp. -/
def State.onWarp (s : State) (f : Warp → Warp) : State := { s with warp := f s.warp }

/-- The warp of a number comes into focus; the one in focus joins the others. -/
def State.focus (s : State) (uid : Nat) : State :=
  if s.warp.uid = uid then s
  else match s.others.find? (·.uid == uid) with
    | some w => { s with warp := w, others := s.others.filter (·.uid != uid) ++ [s.warp] }
    | none => s

def State.gang (s : State) (uid : Nat) : Gang := (s.gangs.find? (·.uid == uid)).getD Gang.none

def State.setGang (s : State) (g : Gang) : State :=
  { s with gangs := s.gangs.map fun h => if h.uid == g.uid then g else h }

def State.mapGang (s : State) (uid : Nat) (f : Gang → Gang) : State :=
  { s with gangs := s.gangs.map fun h => if h.uid == uid then f h else h }

def State.grid (s : State) (ticket : Nat) : Grid := (s.grids.find? (·.ticket == ticket)).getD Grid.none

def State.mapGrid (s : State) (ticket : Nat) (f : Grid → Grid) : State :=
  { s with grids := s.grids.map fun g => if g.ticket == ticket then f g else g }

def State.myGang (s : State) : Gang := s.gang s.warp.gang
def State.myGrid (s : State) : Grid := s.grid s.myGang.grid
def State.myContext (s : State) : Context := s.context s.warp.ctx

/-- GRIDLVL (R26). -/
def State.gridLevel (s : State) : Nat := s.myGrid.record.level

/-- Warps of context 0 are privileged (R326). -/
def State.privileged (s : State) : Bool := s.warp.ctx == 0

def State.site (s : State) (i : Nat) : Site := s.sites[i]?.getD (Site.enumerate (resetReport 0) 0)

def State.mapSite (s : State) (i : Nat) (f : Site → Site) : State :=
  { s with sites := Vector.ofFn fun k => if k.val = i then f s.sites[k] else s.sites[k] }

def Site.cluster (t : Site) (c : Nat) : Cluster := t.clusters[c]?.getD Cluster.start

def State.mapCluster (s : State) (i c : Nat) (f : Cluster → Cluster) : State :=
  s.mapSite i fun t => { t with clusters := Vector.ofFn fun k => if k.val = c then f t.clusters[k] else t.clusters[k] }

/-- WARPID (R65). -/
def Warp.warpid (w : Warp) : Nat := w.site * 4096 + w.cluster * 256 + w.core * 64 + w.slot

/-- The translation buffers of the warp's core. -/
def Warp.units (w : Warp) : List TlbUnit := coreUnits w.site w.cluster w.core

/-- The core of a warp, numbered within the package. -/
def Warp.coreNo (w : Warp) : Nat := w.site * 64 + w.cluster * 4 + w.core

/-! ## Registers -/

/-- A scalar register; s0 reads as zero (R35). -/
def Warp.readS (w : Warp) (r : Fin 64) : Word64 := if r = 0 then 0 else w.s[r]

/-- A scalar register written, full and free of poison; a write to s0 is discarded (R35, R69). -/
def Warp.writeS (w : Warp) (r : Fin 64) (x : Word64) : Warp :=
  if r = 0 then w else
    { w with s := w.s.set r x, sFull := w.sFull.set r true, sPoison := w.sPoison.set r false }

def Warp.readV (w : Warp) (r : Fin 64) : VReg := w.v[r]

/-- The lanes whose 8-byte granule a write of `lanes` covers whole (R341). -/
def wholeGranules (lanes : Word32) : Word32 :=
  let p := lanes &&& (lanes >>> 1) &&& 0x55555555
  p ||| (p <<< 1)

/-- The lanes of a vector register in `lanes` written; the register goes full (R37). -/
def Warp.writeV (w : Warp) (r : Fin 64) (lanes : Word32) (x : VReg) : Warp :=
  { w with
    v := w.v.set r (Vector.ofFn fun l => if inMask lanes l then x[l] else w.v[r][l])
    vFull := w.vFull.set r true
    vPoison := w.vPoison.set r (w.vPoison[r] &&& ~~~(wholeGranules lanes)) }

/-- A mask register; m0 is the issuing fragment's active mask (R35). -/
def Warp.readM (w : Warp) (r : Fin 8) : Word32 := if r = 0 then w.frag.mask else w.m[r]

/-- A mask register's poison mark. -/
def Warp.maskPoison (w : Warp) (r : Fin 8) : Bool := w.mPoison.getLsbD r.val

/-- The mask registers that share the granule of one: an error marks both (R341). -/
def maskGranule (r : Fin 8) : BitVec 8 := (3 : BitVec 8) <<< (r.val / 2 * 2)

/-- A mask register written. It is half a granule, so its mark stays (R341, log 86). -/
def Warp.writeM (w : Warp) (r : Fin 8) (x : Word32) : Warp := if r = 0 then w else { w with m := w.m.set r x }

/-- Some bits of a mask register written. -/
def Warp.mergeM (w : Warp) (r : Fin 8) (lanes x : Word32) : Warp :=
  w.writeM r ((w.m[r] &&& ~~~lanes) ||| (x &&& lanes))

def Warp.apply (w : Warp) : RegWrite → Warp
  | .s r x => w.writeS r x
  | .v r lanes x => w.writeV r lanes x

def Warp.applyAll (w : Warp) (ws : List RegWrite) : Warp := ws.foldl Warp.apply w

def RegWrite.reg : RegWrite → Reg
  | .s r _ => .s r
  | .v r _ _ => .v r

/-- A register is full; s0 is always full (R35), and so are mask registers and slots, whose writes complete at once. -/
def Warp.full (w : Warp) : Reg → Bool
  | .s r => r == 0 || w.sFull[r]
  | .v r => w.vFull[r]
  | .m _ | .t _ => true

/-- A register goes empty; s0 never does. -/
def Warp.setEmpty (w : Warp) : Reg → Warp
  | .s r => if r = 0 then w else { w with sFull := w.sFull.set r false }
  | .v r => { w with vFull := w.vFull.set r false }
  | .m _ | .t _ => w

/-- A register goes full with the value it holds. -/
def Warp.setFull (w : Warp) : Reg → Warp
  | .s r => { w with sFull := w.sFull.set r true }
  | .v r => { w with vFull := w.vFull.set r true }
  | .m _ | .t _ => w

def Warp.emptyAll (w : Warp) (rs : List Reg) : Warp := rs.foldl Warp.setEmpty w
def Warp.fillAll (w : Warp) (rs : List Reg) : Warp := rs.foldl Warp.setFull w

/-- A scalar register, mask register or slot that holds poison (R341). -/
def Warp.scalarPoison (w : Warp) : Reg → Bool
  | .s r => r != 0 && w.sPoison[r]
  | .v _ => false
  | .m r => w.maskPoison r
  | .t r => w.tsrPoison[r] != 0

/-- The live lanes (R342, R93). -/
def Warp.live32 (w : Warp) : Word32 := ~~~w.dead &&& ~~~w.exited

/-- The live active lanes of the issuing fragment. -/
def Warp.active (w : Warp) : Word32 := w.frag.mask &&& ~~~w.dead

/-! ## Fragments (R84–R89) -/

/-- The warp's fragments, the issuing one first. -/
def Warp.allFrags (w : Warp) : List Fragment := w.frag :: w.frags

/-- A fragment that still has a live lane (R84). -/
def Warp.holds (w : Warp) (f : Fragment) : Bool := f.mask &&& w.live32 != 0

/-- The table's entries in use. -/
def Warp.usedFrags (w : Warp) : List Fragment := w.allFrags.filter w.holds

/-- The lowest table entry that is free. -/
def Warp.freeEntry (w : Warp) : Option Nat :=
  (List.range 16).find? fun e => !(w.usedFrags.any (·.entry == e))

/-- The warp is fused (R89). -/
def Warp.fused (w : Warp) : Bool :=
  w.usedFrags.length == 1 && w.park.isEmpty && w.holds w.frag && (w.live32 &&& ~~~w.frag.mask == 0)

/-- A fragment that is neither waiting at a fuse point nor gone. -/
def Fragment.isReady (f : Fragment) : Bool := f.state == .ready

/-- The fragments that have a place in the table, the issuing one kept in focus. -/
def Warp.dropDead (w : Warp) : Warp :=
  { w with
    frags := w.frags.filter w.holds
    park := w.park.filter fun p => p.mask &&& w.live32 != 0 }

/-- Rule 1 of R88: parked records move into free entries, the newest first. -/
def Warp.unpark : Nat → Warp → Warp
  | 0, w => w
  | n + 1, w =>
    match w.park, w.freeEntry with
    | p :: ps, some e =>
      Warp.unpark n { w with park := ps,
                             frags := w.frags ++ [{ Fragment.start p.pc with entry := e, mask := p.mask }] }
    | _, _ => w

/-- The waiting fragment with the lowest PC. -/
def lowestWaiting : List Fragment → Option Fragment
  | [] => none
  | f :: t =>
    match f.state, lowestWaiting t with
    | .ready, r => r
    | .waiting _, none => some f
    | .waiting _, some g => if f.pc.toNat ≤ g.pc.toNat then some f else some g

/-- A fragment released from its fuse point, at the word after its FUSE (R88). -/
def Fragment.release (f : Fragment) : Fragment :=
  { f with state := .ready, pc := f.pc + 4, fetch := f.pc + 4, hints := {} }

/-- Rule 2 of R88: where no fragment is ready, the waiting one with the lowest PC is released. -/
def Warp.releaseOne (w : Warp) : Warp :=
  if w.usedFrags.any Fragment.isReady then w
  else match lowestWaiting w.usedFrags with
    | none => w
    | some g =>
      { w with frag := if w.holds w.frag && w.frag.entry == g.entry then w.frag.release else w.frag,
               frags := w.frags.map fun f => if f.entry == g.entry then f.release else f }

/-- R84 and R88 applied after a change of fragments or of live lanes. -/
def Warp.settleFrags (w : Warp) : Warp := (Warp.unpark 16 w.dropDead).releaseOne

/-- The fragment of an entry comes into focus. -/
def Warp.refocus (w : Warp) (entry : Nat) : Warp :=
  if w.holds w.frag && w.frag.entry == entry then w
  else match w.frags.find? (·.entry == entry) with
    | some f => { w with frag := f, frags := (if w.holds w.frag then [w.frag] else []) ++
                                              w.frags.filter (·.entry != entry) }
    | none => w

/-- The issuing fragment goes on at an address, with no hints gathered (R49). A unit whose HSCH says so gives up the
next issue turn (R54). -/
def Warp.goto (w : Warp) (pc : Pc) : Warp :=
  { w with frag := { w.frag with
      pc := pc, fetch := pc, hints := {}, dry := [], yielded := (w.frag.hints.hsch.getD 0).getLsbD 21 } }

/-- The issuing fragment goes on at the next unit. -/
def Warp.advance (w : Warp) : Warp := w.goto (w.frag.fetch + 4)

def State.advance (s : State) : State := s.onWarp Warp.advance

/-- A fragment stands before its unit's first word: a trap, a pre-emption or a step never separates a unit (R49). -/
def Fragment.rewind (f : Fragment) : Fragment := { f with fetch := f.pc, hints := {}, dry := [] }

/-- A fragment of a warp changes, wherever it stands. -/
def Warp.mapFrags (w : Warp) (f : Fragment → Fragment) : Warp := { w with frag := f w.frag, frags := w.frags.map f }

/-! ## Completion (R37) -/

/-- A pending instruction leaves the warp: its writes are made, its remaining destinations go full with what they
hold, its flags accumulate, and the fragment it stopped goes on. -/
def Warp.unblock (w : Warp) (k : Nat) : Warp :=
  let free := fun f : Fragment => { f with block := if f.block = some k then none else f.block, held := false }
  { w with
    frag := free w.frag
    frags := w.frags.map free
    trap := w.trap.map fun t => { t with record := { t.record with frags := t.record.frags.map free } } }

def Warp.complete (w : Warp) (p : Pending) : Warp :=
  let w := ((w.fillAll p.dests).applyAll p.writes).unblock p.id
  { w with pend := w.pend.filter (·.id != p.id), fpflags := w.fpflags ||| p.flags }

/-- A new pending instruction of the issuing fragment, with its destinations empty. -/
def Warp.addPend (w : Warp) (kind : PendKind) (dests : List Reg) (writes : List RegWrite) (flags : BitVec 5)
    (blocks : Bool) : Warp :=
  let p : Pending := { id := w.nextPend, pc := w.frag.pc, gen := w.traps, mask := w.frag.mask, kind := kind,
                       dests := dests, writes := writes, flags := flags, floats := kind == .result, killed := 0,
                       killedAt := 0, ready := false, fault := none, faults := [], unit := none, acq := false
                       stepped := w.stepping }
  let w := w.emptyAll dests
  { w with pend := w.pend ++ [p], nextPend := w.nextPend + 1,
           frag := if blocks then { w.frag with block := some p.id } else w.frag }

/-- The memory unit of a pending instruction. -/
def Warp.setUnit (w : Warp) (k : Nat) (u : MemUnit) : Warp :=
  { w with pend := w.pend.map fun p => if p.id == k then { p with unit := some u } else p }

/-- A pending instruction may accumulate floating-point conditions when it completes (R132). -/
def Warp.setFloats (w : Warp) (k : Nat) (b : Bool) : Warp :=
  { w with pend := w.pend.map fun p => if p.id == k then { p with floats := b } else p }

/-- A pending instruction is an acquire, or not. -/
def Warp.setAcq (w : Warp) (k : Nat) (b : Bool) : Warp :=
  { w with pend := w.pend.map fun p => if p.id == k then { p with acq := b } else p }

/-- Values on their way to the registers of a pending instruction, written when it completes. -/
def Warp.addWrites (w : Warp) (k : Nat) (ws : List RegWrite) : Warp :=
  { w with pend := w.pend.map fun p => if p.id == k then { p with writes := p.writes ++ ws } else p }

/-- A STEP let a pending instruction issue (R354). -/
def Warp.steppedBy (w : Warp) (k : Nat) : Bool := w.pend.any fun p => p.id == k && p.stepped

/-- How often the warp had entered trap mode when a pending instruction issued. -/
def Warp.genOf (w : Warp) (k : Nat) : Nat := ((w.pend.find? (·.id == k)).map (·.gen)).getD w.traps

/-- The fragment that a pending instruction stops, in the table or in the record of trap mode. -/
def Warp.blocked (w : Warp) (k : Nat) : Option Fragment :=
  (w.allFrags ++ ((w.trap.map (·.record.frags)).getD [])).find? (·.block == some k)

/-- An instruction's results: written at once, or pending where the next completion is late (log 2). -/
def State.finish (s : State) (writes : List RegWrite) (flags : BitVec 5 := 0) : State :=
  match s.delays with
  | true :: t =>
    { s with delays := t, warp := s.warp.addPend .result (writes.map RegWrite.reg) writes flags false }
  | ds =>
    { s with delays := ds.tail,
             warp := { s.warp.applyAll writes with fpflags := s.warp.fpflags ||| flags } }

/-- A scalar result is written to its destination and the fragment goes on. -/
def State.scalarResult (s : State) (d : Fin 64) (x : Word64) : State := (s.finish [.s d x]).advance

/-- Pending instruction `k` of a warp may now complete with these values. -/
def State.answer (s : State) (uid k : Nat) (val : Word64) : State :=
  s.mapWarp uid fun w => { w with pend := w.pend.map fun p =>
    if p.id == k then
      { p with ready := true, writes := p.dests.map fun d => match d with
          | .s r => RegWrite.s r val
          | .v r => RegWrite.v r 0 (Vector.replicate 32 0)
          | .m _ | .t _ => RegWrite.s 0 0 }
    else p }

/-- The instructions whose results are captured complete (R329 step 1). -/
def Warp.settle (w : Warp) : Warp :=
  (w.pend.filter (·.kind == .result)).foldl Warp.complete w

/-! ## The event ring (R357) -/

/-- CAUSE of R67. -/
def Cause.code : Cause → Nat
  | .illenc => 0x01 | .priv => 0x02 | .emptyread => 0x03 | .align => 0x04 | .range => 0x05 | .prot => 0x06
  | .pagefault => 0x07 | .stkovf => 0x08 | .illconv => 0x09 | .atomtype => 0x0A | .lockerr => 0x0B | .dsmem => 0x0C
  | .brkpt => 0x0D | .trapinsn => 0x0E | .poison => 0x0F | .lanedead => 0x10 | .mxfault => 0x11 | .deadlock => 0x12
  | .collfail => 0x13 | .diefence => 0x14 | .watch => 0x15 | .hostend => 0x16

def FaultRecord.isSet (r : FaultRecord) : Bool := r.cause.isSome

/-- The two doublewords of table entry `e` (R331). -/
def fragDwords (fs : List Fragment) (e : Nat) : Word64 × Word64 :=
  match fs.find? (·.entry == e) with
  | none => (0, 0)
  | some f =>
    let st := match f.state with
      | .ready => 0
      | .waiting n => 2 ^ 32 + n * 2 ^ 33
    (f.pc.setWidth 64, BitVec.ofNat 64 (f.mask.toNat + st))

/-- Doubleword `i` of a record, as R331 lays it out. -/
def FaultRecord.dword (r : FaultRecord) (i : Nat) : Word64 :=
  if i = 0 then
    BitVec.ofNat 64 ((match r.cause with | some c => c.code | none => r.causeCode) + r.kind * 2 ^ 8 + r.code * 2 ^ 10
      + r.frag * 2 ^ 16 + r.engine.toNat * 2 ^ 20 + r.nested.toNat * 2 ^ 21 + r.nextra * 2 ^ 22
      + r.logged.toNat * 2 ^ 28 + r.tag % 2 ^ 32 * 2 ^ 32)
  else if i = 1 then r.pc.setWidth 64
  else if i = 2 then BitVec.ofNat 64 (r.warpid + r.ctx * 2 ^ 16 + r.gangid * 2 ^ 32)
  else if i = 3 then BitVec.ofNat 64 (r.lanes.toNat + r.dead.toNat * 2 ^ 32)
  else if i = 4 then r.addr
  else if i = 5 then r.cmdpc.setWidth 64
  else if i = 6 then r.rpc.setWidth 64
  else if i = 7 then
    BitVec.ofNat 64 ((r.frags.map fun f => 2 ^ f.entry).sum + r.park.length * 2 ^ 16)
  else if i < 40 then
    let d := fragDwords r.frags ((i - 8) / 2)
    if i % 2 = 0 then d.1 else d.2
  else if i < 72 then
    match r.park[(i - 40) / 2]? with
    | none => 0
    | some p => if i % 2 = 0 then p.pc.setWidth 64 else p.mask.setWidth 64
  else if r.cycle ≠ [] ∧ i < 88 then
    match r.cycle[(i - 72) / 2]? with
    | none => 0
    | some (a, id, c) => if i % 2 = 0 then a else BitVec.ofNat 64 (id + c * 2 ^ 16)
  else if i < 104 then ((r.ea.find? (·.1 == i - 72)).map (·.2)).getD 0
  else if i < 108 then
    BitVec.ofNat 64 ((r.causes.map fun x =>
      if x.1 / 8 == i - 104 then x.2.code * 2 ^ (8 * (x.1 % 8)) else 0).sum)
  else 0

/-- The 1,024 bytes of a record (R331, R357). -/
def FaultRecord.bytes (r : FaultRecord) : List Byte :=
  (List.range 128).flatMap fun i => natToBytes 8 (r.dword i).toNat

/-- A record is posted to the event ring in host memory; a full ring loses it and counts it, a disabled ring takes
none (R357). -/
def State.post (s : State) (r : FaultRecord) : State :=
  let b := s.mailbox
  if b.evsize = 0 then s
  else if b.evtail - b.evhead = BitVec.ofNat 64 (2 ^ b.evsize.toNat) then
    { s with mailbox := { b with evlost := if b.evlost = BitVec.allOnes 64 then b.evlost else b.evlost + 1 } }
  else
    let at_ := hostBase + b.evbase.toNat + 1024 * (b.evtail.toNat % 2 ^ b.evsize.toNat)
    { s.poke at_ r.bytes with mailbox := { b with evtail := b.evtail + 1 } }

/-- A record is posted with an identifier of its own (R331). -/
def State.postTagged (s : State) (r : FaultRecord) : State :=
  { s.post { r with tag := s.nextTag } with nextTag := s.nextTag + 1 }

/-- The record of a warp, with the fields that say where it stands. -/
def State.recordAt (s : State) (w : Warp) : FaultRecord :=
  { FaultRecord.empty with warpid := w.warpid, ctx := w.ctx, gangid := (s.gang w.gang).index, dead := w.dead }

/-! ## Line locks (R243, R244) -/

/-- A lease of a warp that becomes active now (R294). -/
def Lease.activated (l : Lease) (now : Nat) (forced : Bool) : Lease :=
  { l with active := true, queued := false, since := now, headSince := none, forced := forced }

/-- A warp's request for a line becomes a held lock in its slot, its instruction gets a status, and a warp that was not
active is from now on (R247, R294). -/
def State.grantLock (s : State) (line uid k : Nat) (status : Word64) : State :=
  let s := (s.recall line).answer uid k status
  s.mapWarp uid fun w => { w with
    locks := w.locks.map fun l => if l.line == line then { l with held := true } else l
    lease := if w.lease.active then w.lease else w.lease.activated s.clock.toNat false }

def State.lockOf (s : State) (line : Nat) : Option Lock := s.locks.find? (·.line == line)

def State.setLock (s : State) (l : Lock) : State :=
  { s with locks := s.locks.map fun m => if m.line == l.line then l else m }

def State.dropLock (s : State) (line : Nat) : State := { s with locks := s.locks.filter (·.line != line) }

/-- A page under migration, or whose home moves, makes new lock requests wait (R156, R166). So does an LTRY that finds the
lock free, which acts as LLOCK (R244, log 68). -/
def State.lockHeldUp (s : State) (line : Nat) : Bool :=
  s.pageLocks.any (fun p => inPage p.page p.size line) || s.homes.any fun h => h.holds line && h.moving.isSome

/-- A waiter's timer expires: it leaves the queue with TIMEOUT and its slot is free (R244). -/
def State.expireWaiter (s : State) (line uid pend : Nat) : State :=
  let s : State := { s with
    locks := s.locks.map fun l => if l.line == line then { l with queue := l.queue.filter (·.warp != uid) } else l
    lockWaits := s.lockWaits.filter fun q => !(q.warp == uid && q.line == line) }
  (s.answer uid pend 2).mapWarp uid fun w => { w with locks := w.locks.filter (·.line != line) }

/-- The timers of a lock's waiters that have run out come before whatever reaches the lock now (R244). -/
def State.expireLine (s : State) (line : Nat) : State :=
  let late := (s.lockOf line).map fun l => l.queue.filter fun q => s.expired q.deadline
  (late.getD []).foldl (fun s q => s.expireWaiter line q.warp q.pend) s

/-- So do those of requests that wait at a slice. -/
def State.expireWaits (s : State) : State :=
  (s.lockWaits.filter fun q => s.expired q.deadline).foldl (fun s q => s.expireWaiter q.line q.warp q.pend) s

/-- Two lines have one home slice: of one die, by one hash (R152). -/
def State.sameSlice (s : State) (a b : Nat) : Bool := s.homeOf a == s.homeOf b && Config.sliceOf a == Config.sliceOf b

/-- The slice's table has an entry for the line, or room for one. -/
def State.lockRoom (s : State) (line : Nat) : Bool :=
  (s.lockOf line).isSome || s.locks.length < Config.lockEntries
  || (s.locks.filter fun l => s.sameSlice l.line line).length < Config.lockEntries

/-- LLOCK or LTRY arrives at the line's slice (R244). -/
def State.lockArrive (s : State) (q : LockRequest) : State :=
  let held := (s.lockOf q.line).any (·.holder.isSome)
  if (s.lockHeldUp q.line && !(q.try_ && held)) || !s.lockRoom q.line then { s with lockWaits := s.lockWaits ++ [q] }
  else match s.lockOf q.line with
    | none =>
      let l : Lock := { line := q.line, va := q.va, holder := some q.warp, queue := [], mark := false }
      { s with locks := s.locks ++ [l] }.grantLock q.line q.warp q.pend 0
    | some l =>
      match l.holder with
      | none => (s.setLock { l with holder := some q.warp, mark := false }).grantLock q.line q.warp q.pend
                  (if l.mark then 1 else 0)
      | some _ =>
        if q.try_ then
          (s.answer q.warp q.pend 3).mapWarp q.warp fun w => { w with locks := w.locks.filter (·.line != q.line) }
        else s.setLock { l with queue := l.queue ++ [{ warp := q.warp, pend := q.pend, deadline := q.deadline }] }

/-- Requests that waited for a table entry or a page arrive, in their order, where they now can. -/
def State.admitLocks (s : State) : State :=
  let s := s.expireWaits
  s.lockWaits.foldl State.lockArrive { s with lockWaits := [] }

/-- The holder gives a lock up: the head of the queue is granted it with the status, or it goes free with the mark.
Waiters whose timers expired in an earlier cycle have left. -/
def State.passLock (s : State) (line : Nat) (status : Word64) (mark : Bool) : State :=
  let s := s.expireLine line
  match s.lockOf line with
  | none => s
  | some l =>
    match l.queue with
    | [] => if mark then s.setLock { l with holder := none, mark := true } else (s.dropLock line).admitLocks
    | w :: q => (s.setLock { l with holder := some w.warp, queue := q }).grantLock line w.warp w.pend status

/-- A waiter leaves every queue with no status (R244). -/
def State.dropWaiter (s : State) (uid : Nat) : State :=
  { s with locks := s.locks.map fun l => { l with queue := l.queue.filter (·.warp != uid) }
           lockWaits := s.lockWaits.filter (·.warp != uid) }

/-! ## Monitor tables (R253) -/

/-- The slice's monitor table has room for a location. -/
def State.monitorRoom (s : State) (loc : Nat) : Bool :=
  let armed := s.monitors.filter (·.table)
  decide (armed.length < Config.monitorEntries)
  || decide ((armed.filter fun m => s.sameSlice (lineOf m.loc) (lineOf loc)).length
      < Config.monitorEntries)

/-- A monitor is evaluated on the value at its location, unless its timeout has expired before (R251). -/
def State.checkMonitor (s : State) (m : Monitor) : Monitor :=
  if !s.expired m.deadline && condHolds m.q (s.peek m.loc (condBytes m.q)) m.comparand then { m with fired := true } else m

/-- A monitor changes. -/
def State.mapMonitor (s : State) (id : Nat) (f : Monitor → Monitor) : State :=
  { s with monitors := s.monitors.map fun m => if m.id == id then f m else m }

/-- Overflow monitors move into the table while it has room; each is evaluated on the value present as it moves. -/
def State.fillTable (s : State) : State :=
  s.monitors.foldl (fun s m =>
    if m.table || !s.monitorRoom m.loc then s
    else
      let s := s.recall (lineOf m.loc)
      s.mapMonitor m.id fun n => s.checkMonitor { n with table := true }) s

/-- The monitors of a warp disarm. -/
def State.dropMonitors (s : State) (uid : Nat) : State :=
  { s with monitors := s.monitors.filter (·.warp != uid) }.fillTable

/-- A warp's held locks pass on with ABANDONED, its requests and monitors go (R244, R81, R337). -/
def State.abandon (s : State) (uid : Nat) : State :=
  let s := (s.dropWaiter uid).dropMonitors uid
  (s.locks.filter (·.holder == some uid)).foldl (fun s l => s.passLock l.line 1 true) s

/-! ## Lanes killed (R342) -/

/-- Lanes of the issuing warp are killed. A logged or trapped lane that is killed performs nothing more, and an entry
without lanes leaves the log (R161, R334). -/
def Warp.kill (w : Warp) (lanes : Word32) : Warp :=
  let w : Warp := { w with
    dead := w.dead ||| lanes
    log := (w.log.map fun e => { e with lanes := e.lanes &&& ~~~lanes }).filter (·.lanes != 0)
    trap := w.trap.map fun t => { t with lanes := t.lanes &&& ~~~lanes } }
  w.settleFrags

/-- The lanes of the instruction at `pc` that read poison are killed, with one LANEDEAD event (R341, R342). -/
def State.killAt (s : State) (pc : Pc) (lanes : Word32) (addr : Word64) : State :=
  if lanes = 0 then s
  else
    (s.onWarp fun w => w.kill lanes).postTagged { s.recordAt s.warp with
      cause := some .lanedead, kind := 1, pc := pc, lanes := lanes, addr := addr, dead := s.warp.dead ||| lanes }

/-- A write without some lanes: a killed lane's elements keep their old values (R342). -/
def RegWrite.without (lanes : Word32) : RegWrite → RegWrite
  | .s r x => .s r x
  | .v r m x => .v r (m &&& ~~~lanes) x

/-- Lanes that pending instruction `k` kills: its one event is posted when it completes (R338). -/
def State.killLate (s : State) (k : Nat) (lanes : Word32) (addr : Word64) : State :=
  let note := fun p : Pending => if p.id == k then
    { p with killed := p.killed ||| lanes, killedAt := if p.killed = 0 then addr else p.killedAt
             writes := p.writes.map fun x => x.without lanes } else p
  if lanes = 0 then s
  else if s.warp.pend.any (·.id == k) then s.onWarp fun w => { w with pend := w.pend.map note }.kill lanes
  else s.killAt s.warp.frag.pc lanes addr

/-- The lanes that a pending instruction of a warp has killed are reported (R338). -/
def State.reportKilled (w : Warp) (s : State) (p : Pending) : State :=
  if p.killed = 0 then s
  else s.postTagged { s.recordAt w with
    cause := some .lanedead, kind := 1, pc := p.pc, lanes := p.killed, addr := p.killedAt }

/-- A pending instruction completes; the lanes that it has killed are reported. -/
def State.completeNow (s : State) (p : Pending) : State :=
  let s := s.onWarp fun w => w.complete p
  s.reportKilled s.warp p

/-- The instructions of a warp that are dropped uncompleted are reported as far as they have killed lanes. -/
def State.reportAll (s : State) (w : Warp) : State := w.pend.foldl (State.reportKilled w) s

def State.killLanes (s : State) (lanes : Word32) (addr : Word64) : State := s.killAt s.warp.frag.pc lanes addr

/-! ## Ending a context (R339) -/

/-- PKGLVL over the admitted sites (R27). -/
def packageLevel (sites : List Site) : Nat :=
  match (sites.filter fun t => t.admitted && !t.fenced && !t.restricted).map (·.level) with
  | [] => 0
  | l :: ls => ls.foldl min l

/-- When the last context goes, PKGLVL is computed again over every admitted site and restrictions end (R29). -/
def State.relevel (s : State) : State :=
  if s.contexts.any (·.num != 0) then s
  else
    let sites := s.sites.map fun t => { t with restricted := false }
    { s with sites := sites, pkglvl := packageLevel sites.toList }

/-- A context ends: its warps retire, its locks pass on, its commands, gangs, queued records and tables go, and a kill
record is posted. -/
def State.endContext (s : State) (ctx : Nat) (cause : Cause) (code : Nat) : State :=
  let mine := s.warps.filter fun w => w.ctx == ctx && w.live
  let s := (mine.map (·.uid)).foldl State.abandon (mine.foldl State.reportAll s)
  let stop := fun w : Warp => if w.ctx == ctx then { w with live := false, resident := false } else w
  let gone := (s.grids.filter (·.ctx == ctx)).map (·.ticket)
  let s : State := { s with
    warp := stop s.warp
    others := (s.others.map stop).filter (·.live)
    cmds := s.cmds.filter (·.ctx != ctx)
    fabric := { s.fabric with tx := s.fabric.tx.filter (·.ctx != ctx) }
    gangs := s.gangs.map fun g => if gone.contains g.grid then { g with phase := .retired } else g
    grids := s.grids.filter (·.ctx != ctx)
    queues := s.queues.map fun q => if q.ctx == ctx then { q with head := q.tail } else q
    owners := s.owners.map fun o => { o with ctxs := o.ctxs.map fun n => if n = ctx then 64 else n }
    llc := s.llc.filter (·.ctx != ctx)
    contexts := s.contexts.filter (·.num != ctx) }
  (s.relevel).postTagged { FaultRecord.empty with cause := some cause, kind := 2, code := code, ctx := ctx }

/-! ## Taking an exception (R83, R329–R331) and returning from one (R335–R337) -/

/-- The record of a raised fault. -/
def State.recordOf (s : State) (r : Raised) : FaultRecord :=
  let w := s.warp
  { s.recordAt w with
    cause := some r.cause, kind := 0, code := r.code, frag := if r.logged then 0 else r.entry, engine := r.engine,
    nested := w.trap.isSome, nextra := min r.nextra 63, logged := r.logged, pc := r.pc, lanes := r.lanes,
    addr := r.addr, cmdpc := r.cmdpc, rpc := if r.logged then 0 else r.rpc,
    frags := w.usedFrags.map Fragment.rewind, park := w.park.reverse, ea := r.ea, causes := r.causes }

/-- The handler's fragment: at TRAPVEC, with every lane that is live and has not exited (R329 step 3). -/
def Warp.handler (w : Warp) : Fragment :=
  let pc : Pc := BitVec.ofNat 57 (w.trapvec.toNat / 4 * 4)
  { Fragment.start pc with mask := w.live32 }

/-- A fault is given to the supervisor (R330): its record is posted, and the warp enters debug stop where its context
is marked for debugging or a STEP let the unit issue (R354), else the context ends. -/
def State.toSupervisor (s : State) (r : Raised) : State :=
  let s := s.onWarp fun w => { w with trapcause := some r.cause, trappc := r.pc, traplanes := r.lanes }
  let s := s.postTagged (s.recordOf r)
  if s.myContext.debug || r.stepped then s.onWarp fun w => { w with debugStop := true }
  else s.endContext s.warp.ctx r.cause r.code

/-- The fragment that a fault names stands at its resume address; a converted entry names none (R163, R331). -/
def Warp.resumeAt (w : Warp) (r : Raised) : Warp :=
  let f := fun (f : Fragment) =>
    if !r.logged && f.entry == r.entry then { f with pc := r.rpc, fetch := r.rpc, hints := {} } else f
  { w with frag := f w.frag, frags := w.frags.map f }

/-- The warp enters trap mode (R329). -/
def Warp.enterTrap (w : Warp) (rec_ : FaultRecord) (r : Raised) : Warp :=
  { w with
    trap := some { record := rec_, lanes := (r.causes.foldl (fun (m : Word32) x => m ||| ((1 : Word32) <<< x.1)) 0) &&& ~~~w.dead,
                   unit := r.unit, pend := r.pend }
    traps := w.traps + 1
    frag := w.handler, frags := [], park := [] }

/-- A lane of a pending instruction is on its way to a fabric peer. -/
def State.laneSent (s : State) (uid k : Nat) : Bool :=
  s.fabric.tx.any fun t => match t.kind with | .lane u q _ _ _ _ => u == uid && q == k | .command _ _ => false

/-- A returning atomic of a pending instruction is held at a page under migration. -/
def State.heldAmo (s : State) (uid k : Nat) : Bool :=
  s.pageLocks.any fun p => p.held.any fun h => h.origin == .warp uid k &&
    match h.kind with | .amo _ _ _ _ _ _ _ _ => true | _ => false

/-- A lane of a pending instruction is at a fabric peer, or held at a page under migration. -/
def State.laneAway (s : State) (uid k : Nat) : Bool := s.laneSent uid k || s.heldAmo uid k

/-- An issued instruction that a trap or a pre-emption waits for: any but those that wait for a lock, a monitor, a
barrier or a counter, and logged lanes (R329 step 1, R345). -/
def State.mustEnd (s : State) (w : Warp) (p : Pending) : Bool :=
  match p.kind with
  | .result | .command _ | .node _ | .page | .step _ | .replay _ | .ltry _ => true
  | .lanes => s.laneAway w.uid p.id
  | .lock _ | .monitor _ | .barrier | .waitc _ _ _ => false

/-- Nothing that the warp has issued keeps it from stopping. -/
def State.quiet (s : State) (w : Warp) : Bool := w.pend.all fun p => !s.mustEnd w p

/-- Faults held behind one that has stopped the warp outside trap mode go to the supervisor as well, in order (R330). -/
def State.flushHeld (s : State) : State :=
  if s.warp.trap.isSome || !s.warp.debugStop then s
  else
    s.warp.heldTraps.foldl (fun s r => if s.warp.live then s.toSupervisor r else s)
      (s.onWarp fun w => { w with heldTraps := [] })

/-- The warp enters debug stop, or its context ends. In debug stop every fragment stands before its unit's first word, the
faulting one at its resume address (R49). -/
def State.stopWith (s : State) (r : Raised) : State :=
  if s.myContext.debug || r.stepped then
    ((s.toSupervisor r).onWarp fun w => (w.mapFrags Fragment.rewind).resumeAt r).flushHeld
  else s.toSupervisor r

/-- TRAPCAUSE, TRAPPC and TRAPLANES are set, and the handler or the supervisor gets the fault (R83, R329, R330). -/
def State.takeTrap (s : State) (r : Raised) : State :=
  let s := s.onWarp fun w => { w with trapcause := some r.cause, trappc := r.pc, traplanes := r.lanes }
  if s.warp.trapvec.toNat / 4 % 2 ^ 55 = 0 || s.warp.trap.isSome then s.stopWith r
  else s.onWarp fun w => w.enterTrap (s.recordOf r) r

/-- Takes the exception that a fault of the issuing warp raises, once its issued instructions have completed. -/
def State.raise (s : State) (r : Raised) : State :=
  let r := { r with stepped := r.stepped || s.warp.stepping }
  let s := s.onWarp Warp.settle
  if s.quiet s.warp then s.takeTrap r else s.onWarp fun w => { w with raising := some r }

/-- The lanes of a list. -/
def lanesMask (ls : List Nat) : Word32 := maskOf fun l => ls.contains l.val

/-- The fault of some lanes, ascending: the cause of the lowest lane whose fault is not PAGEFAULT, every lane reported
(R163). -/
def Raised.ofLanes (r : Raised) (bad : List (Nat × Cause × Word64)) : Raised :=
  { r with
    cause := ((bad.find? fun b => b.2.1 != .pagefault).map (·.2.1)).getD .pagefault
    lanes := lanesMask (bad.map (·.1)), ea := bad.map fun b => (b.1, b.2.2), causes := bad.map fun b => (b.1, b.2.1) }

/-- The live lanes of a pending instruction that a fabric peer has refused. -/
def Warp.refused (w : Warp) (p : Pending) : List (Nat × Cause × Word64) :=
  p.faults.filter fun b => !w.dead.getLsbD b.1

/-- The refused lanes of a pending instruction are no longer noted there. -/
def Warp.clearFaults (w : Warp) (k : Nat) : Warp :=
  { w with pend := w.pend.map fun q => if q.id == k then { q with faults := [] } else q }

/-- Lanes that a fabric peer has refused join the fault of their unit (R163, R306). -/
def Warp.joinFaults (w : Warp) (r : Raised) : Raised :=
  match r.pend.bind fun k => w.pend.find? (·.id == k) with
  | none => r
  | some p =>
    if (w.refused p).isEmpty then r
    else
      let own := r.causes.map fun c => (c.1, c.2, ((r.ea.find? (·.1 == c.1)).map (·.2)).getD 0)
      r.ofLanes (sortBy (fun a b => decide (a.1 ≤ b.1)) (own ++ w.refused p))

/-- A fault that waited is taken once the instructions that it waited for have completed. -/
def State.takeRaised (s : State) : State :=
  match s.warp.raising with
  | none => s
  | some r =>
    if s.quiet s.warp then
      let r := s.warp.joinFaults r
      (s.onWarp fun w => match r.pend with
        | some k => { w with raising := none }.clearFaults k
        | none => { w with raising := none }).takeTrap r
    else s

/-- A fault of the unit that the issuing fragment is at, which leaves the unit without effect (R57, R83). -/
def State.raised (s : State) (c : Cause) (addr : Word64 := 0) : Raised :=
  { cause := c, pc := s.warp.frag.pc, entry := s.warp.frag.entry, lanes := s.warp.active, addr := addr,
    rpc := s.warp.frag.pc }

def State.trap (s : State) (c : Cause) (addr : Word64 := 0) : State := s.raise (s.raised c addr)

/-- A fault raised in execution by an instruction issued before, in generation `gen`: held while the warp is in trap mode
that it has entered since, or stops for another fault (R336). One that the handler has issued is a nested fault (R330,
R337). -/
def State.raiseLate (s : State) (gen : Nat) (r : Raised) : State :=
  if s.warp.raising.isSome || (s.warp.trap.isSome && gen < s.warp.traps) then
    s.onWarp fun w => { w with heldTraps := w.heldTraps ++ [r] }
  else s.raise r

/-- The fragments that TRET restores: as the record holds them, the trapping one at its resume address (R335). -/
def restoreFrags (rec_ : FaultRecord) (resume : Pc) : List Fragment :=
  rec_.frags.map fun f =>
    if !rec_.logged && f.entry == rec_.frag then { f with pc := resume, fetch := resume, hints := {}, state := .ready }
    else f

/-- Leaves trap mode with the record's fragments and park list; lanes left in P are skipped (R335). A held fault is
delivered before any fragment issues (R336). -/
def State.returnFromTrap (s : State) (t : TrapMode) (resume : Pc) : State :=
  let s := (s.warp.pend.filter fun p => t.pend == some p.id).foldl State.completeNow s
  let s := s.onWarp fun w =>
    let fs := restoreFrags t.record resume
    let w := { w with trap := none, park := t.record.park.reverse }
    match fs with
    | [] => { w with frag := { w.frag with mask := 0 }, frags := [] }.settleFrags
    | f :: rest => { w with frag := f, frags := rest }.settleFrags
  match s.warp.heldTraps with
  | [] => s
  | r :: rest => (s.onWarp fun w => { w with heldTraps := rest }).raise r

/-! ## Page faults that stall the warp (R171, R280) -/

/-- The warp stalls until the supervisor answers the PAGEFAULT record that is posted. -/
def State.stallOn (s : State) (va : Word64) : State :=
  (s.postTagged (s.recordOf (s.raised .pagefault va))).onWarp fun w => { w with stall := some s.nextTag }

/-- A page fault of a unit that cannot be logged: the warp stalls, or traps where no mapping has been found. -/
def State.pageFaulted (s : State) (va : Word64) : State :=
  if s.warp.unmapped then (s.onWarp fun w => { w with unmapped := false }).trap .pagefault else s.stallOn va

/-! ## Issue (R58, R38, R39) -/

/-- What a unit needs to issue. -/
structure Need where
  himm : Bool := false                 -- the hints it accepts (R50)
  hblk : Bool := false
  hmod : Option (BitVec 22) := none    -- the HMOD fields it accepts, as a mask
  node : Bool := false                 -- HSCH may carry node fields (R54)
  legal : Bool := true                 -- its further conditions of R57
  level2 : Bool := false               -- a level-2 instruction (R26)
  denied : Bool := false               -- R58 step 2 finds it privileged and refuses it
  csrDenied : Bool := false            -- R58 step 4 does
  cond : Option Cause := none          -- R58 step 5: a condition of issue fails
  dests : List Reg := []
  srcs : List (Reg × Bool) := []       -- sources with the x bit that covers each
  poisonOk : Bool := false             -- a poisoned source is captured as it is (R256)
deriving DecidableEq, Repr

/-- What becomes of a unit at issue. -/
inductive Gated where
  | go
  | wait
  | trap (c : Cause)
deriving DecidableEq, Repr

/-- An HMOD payload has no reserved value and only fields of the mask (R53). -/
def hmodLegal (p mask : BitVec 22) : Bool :=
  p &&& ~~~mask == 0 && !p.getLsbD 21 && bitsOf p.toNat 16 3 ≤ 4 && bitsOf p.toNat 8 2 ≤ 1
  && (p.getLsbD 13 || bitsOf p.toNat 14 2 == 0)

/-- An HBLK payload lays out at most 16 registers and has its zero field zero (R52). -/
def hblkLegal (p : BitVec 22) : Bool :=
  bitsOf p.toNat 0 16 == 0 && (bitsOf p.toNat 19 3 + 1) * (bitsOf p.toNat 16 3 + 1) ≤ 16

/-- The hints of the unit are ones that it accepts, once each and well laid out (R48, R50, R52–R54). -/
def hintsLegal (h : Hints) (n : Need) : Bool :=
  !h.dup && (n.himm || h.himm.isNone)
  && (match h.hblk with | none => true | some p => n.hblk && hblkLegal p)
  && (match h.hmod with
      | none => true
      | some p => match n.hmod with | none => false | some mask => hmodLegal p mask)
  && (match h.hsch with | none => true | some p => bitsOf p.toNat 16 5 == 0 && (n.node || bitsOf p.toNat 0 16 == 0))

/-- The checks of R58 in order. -/
def State.gate (s : State) (n : Need) : Gated :=
  let w := s.warp
  if n.denied then .trap .priv
  else if !hintsLegal w.frag.hints n || !n.legal || (n.level2 && s.gridLevel < 2) then .trap .illenc
  else if n.csrDenied then .trap .priv
  else match n.cond with
    | some c => .trap c
    | none =>
      if n.dests.any fun d => !w.full d then .wait
      else if n.srcs.any fun q => !q.2 && !w.full q.1 then .wait
      else if n.srcs.any fun q => !w.full q.1 then .trap .emptyread
      else if !n.poisonOk && n.srcs.any (fun q => w.scalarPoison q.1) then .trap .poison
      else .go

/-- The unit waits: nothing changes but that this is noted. -/
def State.hold (s : State) : State := s.onWarp fun w => { w with frag := { w.frag with held := true } }

/-- The unit waits for tokens of some classes; the order in which units began to wait is kept (R302). -/
def State.holdDry (s : State) (classes : List Nat) : State :=
  s.onWarp fun w => { w with frag := { w.frag with
    held := true, dry := classes, drySince := if w.frag.dry.isEmpty then s.clock.toNat else w.frag.drySince } }

/-- A unit issues, waits where it stands, or traps. -/
def State.issue (s : State) (n : Need) (effect : State → State) : Host.Outcome State Fault Refusal :=
  match s.gate n with
  | .go => .next (effect s)
  | .wait => .next s.hold
  | .trap c => .next (s.trap c)

end Sys2Proof.Machine
end

