-- ==== Sys2Proof/Machine/Lease.lean ====
section
/-! DEFINITION. The lease scheduler (R291–R295): which resident warps of a core are active. -/

namespace Sys2Proof.Machine

/-- λ (R291). -/
def Lease.lambda (l : Lease) : Nat := if l.mode = 0 then l.n else if l.mode = 1 then l.m else max l.n l.m

/-- The fragment waits in WAITCMP or PBARW. -/
def Warp.inMonitor (w : Warp) (f : Fragment) : Bool :=
  match f.block with
  | none => false
  | some k => w.pend.any fun p => p.id == k && match p.kind with | .monitor _ => true | _ => false

/-- Every fragment waits in WAITCMP or PBARW or at a fuse point (R294). -/
def Warp.exempt (w : Warp) : Bool := w.usedFrags.all fun f => w.inMonitor f || !f.isReady

/-- The fragment cannot issue: it waits for an instruction, at a fuse point, or where it stands (R38). -/
def Fragment.stopped (f : Fragment) : Bool := f.block.isSome || !f.isReady || f.held

/-- The warp is parked (R273): no fragment can issue, and one waits in WAITCMP or PBARW. -/
def Warp.parked (w : Warp) : Bool :=
  (w.stall.isSome || w.raising.isSome || w.usedFrags.all Fragment.stopped) && w.usedFrags.any w.inMonitor

/-- Every fragment of the warp has exited (R81). -/
def Warp.exitedWhole (w : Warp) : Bool := w.usedFrags.isEmpty && w.park.isEmpty

/-- Some warps of a gang are parked, and every one that has not exited (R273). -/
def allParked (ws : List Warp) : Bool := ws.any Warp.parked && ws.all fun w => w.parked || w.exitedWhole

def Warp.holdsLock (w : Warp) : Bool := w.locks.any (·.held)

/-- The resident warps of a core that the scheduler rotates: those in debug stop are left out (R351). -/
def State.rotated (s : State) (core : Nat) : List Warp :=
  s.warps.filter fun w => w.live && w.resident && w.coreNo == core && !w.debugStop && !(s.site w.site).halted

/-- The active warps of a core and the sum of their leases. -/
def State.activeOn (s : State) (core : Nat) : List Warp :=
  s.warps.filter fun w => w.live && w.resident && w.coreNo == core && w.lease.active

def State.activeSum (s : State) (core : Nat) : Nat := ((s.activeOn core).map (·.lease.lambda)).sum

/-- The warp's lease fits beside the active ones, those of `gone` taken away (R294). -/
def State.leaseFits (s : State) (w : Warp) (gone : List Nat) : Bool :=
  let act := (s.activeOn w.coreNo).filter fun x => !gone.contains x.uid
  if Config.leaseLines < w.lease.lambda then act.all Warp.holdsLock
  else (act.map (·.lease.lambda)).sum + w.lease.lambda ≤ Config.leaseLines

def State.mapLease (s : State) (uid : Nat) (f : Lease → Lease) : State :=
  s.mapWarp uid fun w => { w with lease := f w.lease }

def State.activate (s : State) (uid : Nat) (forced : Bool) : State :=
  s.mapLease uid fun l => l.activated s.clock.toNat forced

/-- The warp joins the tail of its core's queue. -/
def State.deactivate (s : State) (uid : Nat) : State :=
  s.mapLease uid fun l =>
    { l with active := false, queued := true, since := s.clock.toNat, headSince := none, forced := false }

/-- Warps by the time noted in their leases, earliest first, the lower slot first on a tie. -/
def bySince (ws : List Warp) : List Warp :=
  sortBy (fun a b =>
    decide (a.lease.since < b.lease.since) || (a.lease.since == b.lease.since && decide (a.slot ≤ b.slot))) ws

/-- The core's queue. -/
def State.leaseQueue (s : State) (core : Nat) : List Warp := bySince ((s.rotated core).filter (·.lease.queued))

/-- A warp that cannot issue leaves the queue or is deactivated; one that can issue again joins the tail. -/
def State.refreshLease (s : State) (w : Warp) : State :=
  if w.exempt then
    if w.lease.active && w.holdsLock then s
    else s.mapLease w.uid fun l => { l with active := false, queued := false, headSince := none, forced := false }
  else if w.lease.active || w.lease.queued then s
  else s.deactivate w.uid

/-- The fewest of a list, from its front, that make room for a warp. -/
def State.makeRoom (s : State) (w : Warp) : List Nat → List Nat → Option (List Nat)
  | taken, [] => if s.leaseFits w taken then some taken else none
  | taken, u :: us => if s.leaseFits w taken then some taken else s.makeRoom w (taken ++ [u]) us

/-- One activation, where the rules of R294 give one. -/
def State.activateOne (s : State) (core : Nat) : Option State :=
  match s.leaseQueue core with
  | [] => none
  | h :: rest =>
    let since := h.lease.headSince.getD s.clock.toNat
    let s := s.mapLease h.uid fun l => { l with headSince := some since }
    let late := decide (1024 ≤ s.clock.toNat - since)
    if s.leaseFits h [] then some (s.activate h.uid false)
    else if !late then
      (rest.find? fun w => s.leaseFits w []).map fun w => s.activate w.uid false
    else
      let old := bySince ((s.rotated core).filter fun w =>
        w.lease.active && !w.holdsLock && decide (1024 ≤ s.clock.toNat - w.lease.since))
      (s.makeRoom h [] (old.map (·.uid))).map fun us => (us.foldl State.deactivate s).activate h.uid false

def State.activateAll (core : Nat) : Nat → State → State
  | 0, s => s
  | n + 1, s =>
    match s.activateOne core with
    | some s' => State.activateAll core n s'
    | none =>
      match s.leaseQueue core with
      | [] => s
      | h :: _ => s.mapLease h.uid fun l => { l with headSince := some (l.headSince.getD s.clock.toNat) }

/-- The scheduler of a core decides again. -/
def State.schedule (s : State) (core : Nat) : State :=
  State.activateAll core 128 ((s.rotated core).foldl State.refreshLease s)

/-- The warp was activated under R295 less than 1,024 cycles ago. -/
def Lease.forcedNow (l : Lease) (now : Nat) : Bool := l.forced && decide (now - l.since < 1024)

/-- A lost-locality event of the issuing warp raises its M by 64; where that makes the active sum exceed the capacity, the
most recently activated other warp is deactivated (R293, R294). -/
def State.lostLocality (s : State) : State :=
  let core := s.warp.coreNo
  let t := s.onWarp fun w => { w with lease := { w.lease with m := min 4095 (w.lease.m + 64) } }
  if t.activeSum core ≤ Config.leaseLines || decide (Config.leaseLines < s.activeSum core) then t
  else
    match (bySince ((t.rotated core).filter fun w =>
        w.lease.active && !w.holdsLock && w.uid != t.warp.uid && !w.lease.forcedNow t.clock.toNat)).getLast? with
    | some w => (t.deactivate w.uid).schedule core
    | none => t

/-- The warp loads lines into L1: a miss on a line that its own fill has evicted is a lost-locality event, and the lines'
victim tags go (R293). -/
def State.noteMisses (s : State) (lines : List Nat) : State :=
  let hit := fun v : Victim => v.core == s.warp.coreNo && lines.contains v.line
  let lost := s.victims.filter fun v => hit v && v.warp == s.warp.uid
  lost.foldl (fun s _ => s.lostLocality) { s with victims := s.victims.filter fun v => !hit v }

/-- The first `n` tags of a core and all tags of the others. -/
def keepVictims (core : Nat) : Nat → List Victim → List Victim
  | _, [] => []
  | 0, v :: t => if v.core = core then keepVictims core 0 t else v :: keepVictims core 0 t
  | n + 1, v :: t => if v.core = core then v :: keepVictims core n t else v :: keepVictims core (n + 1) t

/-- An eviction enters the core's array of 4,096 victim tags; the oldest leaves. -/
def State.noteVictim (s : State) (v : Victim) : State :=
  { s with victims := keepVictims v.core 4096 (v :: s.victims.filter fun x => !(x.core == v.core && x.line == v.line)) }

end Sys2Proof.Machine
end

