-- ==== Sys2Proof/Machine/Operands.lean ====
section
/-! DEFINITION. The operand forms: immediates and offsets with their hints (R51), branch targets (R44), register blocks
(R52), vector and scalar sources, pairs, and the effective addresses of R141 and R149. -/

namespace Sys2Proof.Machine

/-! ## Immediates and targets -/

/-- The 32-bit immediate of format I: imm10 sign-extended, or HIMM's payload above it (R51). -/
def Hints.imm (h : Hints) (i : BitVec 10) : Word32 :=
  match h.himm with
  | none => i.signExtend 32
  | some p => BitVec.ofNat 32 (p.toNat * 1024 + i.toNat)

/-- The immediate of a unit, sign-extended to 64 bits for a scalar destination (R51). -/
def Warp.imm64 (w : Warp) (i : BitVec 10) : Word64 := (w.frag.hints.imm i).signExtend 64

/-- The byte offset that HIMM adds to an M-format or A-format address (R51). -/
def Hints.offset (h : Hints) : Int := (h.himm.getD 0).toInt

/-- The target of a branch: words counted from the branch word itself (R44). -/
def branchTarget {n : Nat} (from_ : Pc) (o : BitVec n) : Pc := from_ + BitVec.ofInt 57 (4 * o.toInt)

/-! ## Blocks (R52) -/

/-- Rows and columns of the unit's block; without HBLK the payload is all zero, which is one register. -/
def Hints.rows (h : Hints) : Nat := bitsOf (h.hblk.getD 0).toNat 19 3 + 1
def Hints.cols (h : Hints) : Nat := bitsOf (h.hblk.getD 0).toNat 16 3 + 1

/-- The offsets 8i + j of a block's registers, row by row; `step` is 2 where elements are pairs. -/
def Hints.blockOffsets (h : Hints) (step : Nat) : List Nat :=
  (List.range h.rows).flatMap fun i => (List.range (h.cols / step)).map fun j => 8 * i + step * j

/-- The block at a base lies in the grid of 8 by 8 registers; a block of pairs has an even base and even columns. -/
def Hints.blockFits (h : Hints) (step : Nat) (base : Fin 64) : Bool :=
  h.hblk.isNone || (base.val % 8 + h.cols ≤ 8 && base.val / 8 + h.rows ≤ 8
    && (step == 1 || (base.val % 2 == 0 && h.cols % 2 == 0)))

/-- Offsets of the elements of a unit: one at 0 without HBLK. -/
def Hints.elems (h : Hints) (step : Nat) : List Nat := if h.hblk.isNone then [0] else h.blockOffsets step

/-- A register at an offset from a base. -/
def regAt (base : Fin 64) (k : Nat) : Fin 64 := Fin.ofNat 64 (base.val + k)

/-- The registers of an operand over all elements, each element `width` registers wide. -/
def blockRegs (base : Fin 64) (offs : List Nat) (width : Nat) : List Reg :=
  offs.flatMap fun o => (List.range width).map fun k => Reg.v (regAt base (o + k))

/-! ## Vector values -/

/-- The 64-bit value of a pair in a lane, low half in the even register (R35). -/
def Warp.pair (w : Warp) (r : Fin 64) (l : Fin 32) : Word64 := (w.v[regAt r 1][l] ++ w.v[r][l] : BitVec 64)

/-- A vector of one value. -/
def splat (x : Word32) : VReg := Vector.replicate 32 x

def lanes32 (f : Fin 32 → Word32) : VReg := Vector.ofFn f

/-- The writes of a 64-bit result to a pair. -/
def pairWrites (d : Fin 64) (lanes : Word32) (x : Fin 32 → Word64) : List RegWrite :=
  [.v d lanes (lanes32 fun l => (x l).setWidth 32), .v (regAt d 1) lanes (lanes32 fun l => (x l >>> 32).setWidth 32)]

/-- The lanes in which any of the registers holds poison. -/
def Warp.poisonIn (w : Warp) (rs : List Reg) : Word32 :=
  rs.foldl (fun m r => match r with | .v r => m ||| w.vPoison[r] | .s _ | .m _ | .t _ => m) 0

/-! ## Effective addresses -/

/-- The access size in bytes of sz (R141); a sub-byte access touches one byte. -/
def sizeBytes (sz : Nat) : Nat := if sz = 0 then 1 else if sz ≤ 4 then 2 ^ sz else 1

/-- The width in bits of a sub-byte size, 0 for the others. -/
def subBits (sz : Nat) : Nat := if sz = 5 then 4 else if sz = 6 then 2 else 0

/-- The effective address and bit position of a lane of an M-format access (R141). -/
def effective (base : Word64) (v : Word32) (off : Int) (sz : Nat) : Word64 × BitVec 3 :=
  if subBits sz = 0 then (word64 (base.toNat + v.toInt + off), 0)
  else
    let b : Int := 8 * (base.toNat + off) + subBits sz * v.toInt
    (word64 (b / 8), BitVec.ofInt 3 (b % 8))

/-- The address of word `k` of lane `l` of a private access (R149). -/
def privateEa (base off : Word64) (k l : Nat) : Word64 := base + off + BitVec.ofNat 64 (128 * k + 4 * l)

end Sys2Proof.Machine
end

