-- ==== Sys2Proof/Machine/Turn.lean ====
section
/-! DEFINITION. Which units may issue (R82, R85, R294, R351, R354) and what an issue leaves for the next choice. -/

namespace Sys2Proof.Machine

/-- The warp may issue: it is resident, its cluster runs, nothing stops it as a whole, and it is active and in no debug
stop, or STEP lets it issue one unit (R329, R345, R351, R354). -/
def State.mayIssue (s : State) (w : Warp) : Bool :=
  w.live && w.resident && w.stall.isNone && w.raising.isNone && (s.gang w.gang).leaving.isNone
  && ((s.site w.site).cluster w.cluster).gate == .awake
  && (w.stepping || (w.lease.active && !w.debugStop && !(s.site w.site).halted))

/-- A fragment that nothing but an empty register or a full queue can hold. -/
def Warp.eligible (w : Warp) (f : Fragment) : Bool := f.isReady && f.block.isNone && w.holds f

/-- One fragment comes before another of its warp: passed over 64 times, else the lower PC (R85). -/
def Fragment.before (f g : Fragment) : Bool :=
  if decide (64 ≤ f.passed) != decide (64 ≤ g.passed) then decide (64 ≤ f.passed) else decide (f.pc.toNat ≤ g.pc.toNat)

/-- Fragments in the order in which the warp tries them; one that has given up its turn comes last. -/
def Warp.tries (w : Warp) : List Fragment :=
  let es := sortBy Fragment.before (w.allFrags.filter w.eligible)
  es.filter (fun f => !f.yielded) ++ es.filter (·.yielded)

/-- The warps in the order in which they take turns. -/
def State.queueOfWarps (s : State) : List Warp := s.others ++ [s.warp]

/-- The fragments that may be tried, as (warp, table entry): those that have given up their turns after all others. -/
def State.tries (s : State) : List (Nat × Nat) :=
  let all := (s.queueOfWarps.filter s.mayIssue).flatMap fun w => w.tries.map fun f => (w.uid, f)
  ((all.filter fun x => !x.2.yielded) ++ all.filter fun x => x.2.yielded).map fun x => (x.1, x.2.entry)

/-- The warp and fragment come into focus. -/
def State.choose (s : State) (uid entry : Nat) : State :=
  (s.focus uid).onWarp fun w =>
    let w := w.refocus entry
    { w with frag := { w.frag with passed := 0, yielded := false, held := false } }

/-- The other fragments of the core that had given up their turns have now let one issue (R82). -/
def State.endYields (s : State) : State :=
  let clear := fun f : Fragment => { f with yielded := false }
  let here := fun w : Warp => w.coreNo == s.warp.coreNo
  if (s.warp.frags.any (·.yielded)) || s.others.any fun w => here w && w.allFrags.any (·.yielded) then
    { s with
      warp := { s.warp with frags := s.warp.frags.map clear }
      others := s.others.map fun w => if here w then w.mapFrags clear else w }
  else s

/-- The cycle counts as one in which the warp issues (R293). -/
def Lease.count (l : Lease) (clock : Nat) : Lease :=
  if l.issuedAt = clock + 1 then l else { l with window := l.window + 1, issuedAt := clock + 1 }

/-- A unit of the warp in focus has been tried: unless it waits where it stands, a turn is over. -/
def State.turnOver (s : State) : State :=
  if s.warp.frag.held then s
  else s.endYields.onWarp fun w => { w with lease := w.lease.count s.clock.toNat }

/-! ## Token classes that hold a unit (R302) -/

/-- A class that is metered and has no positive fill. -/
def State.dry (s : State) (ctx cls : Nat) : Bool :=
  match (s.context ctx).buckets[cls]? with
  | some b => b.depth != 0 && decide ((b.settle s.clock.toNat).fill ≤ 0)
  | none => false

/-- TBCLASS of a warp's grid. -/
def State.tbclass (s : State) (w : Warp) : Nat := (s.grid (s.gang w.gang).grid).record.tbclass

/-- Another unit of the context is held for the class and is served first: a grid of higher TBCLASS, or one of the same
that has been held for longer (R302). -/
def State.outranked (s : State) (cls : Nat) : Bool :=
  let me := s.warp
  let since := if me.frag.dry.isEmpty then s.clock.toNat else me.frag.drySince
  s.others.any fun w => w.ctx == me.ctx && s.mayIssue w && w.allFrags.any fun f =>
    w.eligible f && f.dry.contains cls
    && (decide (s.tbclass me < s.tbclass w) || (s.tbclass me == s.tbclass w && decide (f.drySince < since)))

/-- The classes that hold the issuing unit, among those that it can inject into. -/
def State.heldBy (s : State) (classes : List Nat) : List Nat :=
  classes.filter fun c => (s.context s.warp.ctx).buckets[c]?.any (·.depth != 0) && (s.dry s.warp.ctx c || s.outranked c)

end Sys2Proof.Machine
end

