-- ==== Sys2Proof/Machine/Reach.lean ====
section
/-! DEFINITION. How an agent reaches memory: the checks of R142, R143 and R158, the point where an access is performed
(R152), the books that coherence keeps (R153–R156), writes held by a page under migration (R165), and token charges
(R302, R323). -/

namespace Sys2Proof.Machine

/-- Who accesses memory: a warp, or the engine of a gang's cluster (no core). -/
structure Agent where
  ctx : Nat
  gang : Nat
  wg : Nat
  site : Nat
  units : List TlbUnit
  core : Option Nat
  origin : Origin
deriving DecidableEq, Repr

def Warp.agent (w : Warp) : Agent :=
  { ctx := w.ctx, gang := w.gang, wg := w.wg, site := w.site, units := w.units, core := some w.coreNo,
    origin := .warp w.uid w.nextPend }

/-- The agent of a pending instruction. -/
def Agent.pend (a : Agent) (uid k : Nat) : Agent := { a with origin := .warp uid k }

/-! ## Checks (R142, R143, R158) -/

/-- The space check of R142: the cause it raises, the place of a local access, or none for a global VA. -/
def State.spaceCheck (s : State) (a : Agent) (space ea n : Nat) : Except Cause (Option Nat) :=
  let g := s.gang a.gang
  match space with
  | 0 => if 2 ^ 57 < ea + n then .error .range else .ok none
  | 1 => if ea + n ≤ g.scratch then .ok (some (scratchBase a.gang + a.wg * 2 ^ 19 + ea)) else .error .range
  | 2 =>
    if 2 ^ 21 ≤ ea then .error .range
    else if g.wgs ≤ ea / 2 ^ 19 then .error .dsmem
    else if g.scratch < ea % 2 ^ 19 + n then .error .range
    else .ok (some (scratchBase a.gang + ea))
  | _ => if ea + n ≤ (s.context a.ctx).psBytes then .ok (some (psBase a.ctx + ea)) else .error .range

/-- The first failure of an access of `n` bytes, or its place (R158). -/
def State.reach (s : State) (a : Agent) (space ea n align : Nat) (r w : Bool) : State × Translated :=
  match s.spaceCheck a space ea n with
  | .error c => (s, .fails c)
  | .ok p =>
    if ea % align ≠ 0 then (s, .fails .align)
    else match p with
      | some loc => (s, .at_ loc 0 0)
      | none => s.translate a.units a.ctx ea r w false

/-! ## The books of coherence (R153–R156) -/

/-- Lines of this place are cached in L1 and L2, with registration (R152, R305). -/
def cached (kind loc : Nat) : Bool := placeOf kind loc == .cxl || placeOf kind loc == .hostCoherent

/-- An agent outside the sites: the host, a fabric peer. Its accesses give a page no home and are listed nowhere. -/
def Agent.outside (a : Agent) : Bool := decide (8 ≤ a.site)

/-- An access of the package to a line of CXL memory passes through its LLC slice (R152). -/
def State.passLlc (s : State) (a : Agent) (kind loc : Nat) (write : Bool) : State :=
  if placeOf kind loc == .cxl then s.llcAccess a.ctx (lineOf loc) write else s

/-- The home slice owns a sector of host memory before it performs a write to it (R157). -/
def State.ownSectors (s : State) (kind loc n : Nat) : State :=
  if placeOf kind loc == .hostCoherent then
    { s with sectors := ((List.range ((loc % 64 + n + 63) / 64)).map fun i => loc / 64 + i).foldl insertRising s.sectors }
  else s

/-- A read: the page gets its first home, and the die may now hold the line. -/
def State.noteReadBy (s : State) (a : Agent) (kind loc : Nat) : State :=
  let s := s.passLlc a kind loc false
  if cached kind loc && !a.outside then (s.touchHome loc a.site).noteRead loc a.site else s

/-- A write of `n` bytes: 32 bits and more by a core register words, everything else is performed at the home slice. -/
def State.noteWriteBy (s : State) (a : Agent) (kind loc n : Nat) : State :=
  if cached kind loc then
    let s := (s.passLlc a kind loc true).ownSectors kind loc n
    let s := if a.outside then s else ((s.touchHome loc a.site).countWrite loc a.site).noteWrite loc a.site
    match a.core with
    | some c => if 4 ≤ n then { s with regs := register s.regs (lineOf loc) c (wordMask loc n) } else s.pushWords loc n
    | none => s.pushWords loc n
  else s

/-! ## Pages under migration (R165) -/

/-- The lock of the page that holds a place. -/
def State.pageLockOf (s : State) (loc : Nat) : Option PageLock :=
  s.pageLocks.find? fun p => p.started && loc / 2 ^ p.size == p.page / 2 ^ p.size

/-- A write is held at the home until the migration ends. -/
def State.holdWrite (s : State) (p : PageLock) (loc : Nat) (o : Origin) (k : HeldKind) (bad : Bool := false) : State :=
  { s with pageLocks := s.pageLocks.map fun q =>
      if q.page == p.page && q.size == p.size then
        { q with held := q.held ++ [{ origin := o, off := loc % 2 ^ p.size, kind := k, bad := bad }] }
      else q }

/-- A write of a warp. -/
def Origin.ofWarp (o : Origin) (uid : Nat) : Bool := match o with | .warp u _ => u == uid | _ => false

/-- Some write of an origin is held. -/
def State.holdsFor (s : State) (o : Origin) : Bool := s.pageLocks.any fun p => p.held.any (·.origin == o)

/-- Some write of a warp is held. -/
def State.holdsForWarp (s : State) (uid : Nat) : Bool := s.pageLocks.any fun p => p.held.any (·.origin.ofWarp uid)

/-- The bytes that a held write reaches. -/
def HeldKind.size : HeldKind → Nat
  | .bytes v => v.length
  | .bits _ _ _ => 1
  | .reduce _ ty _ => typeBytes ty
  | .amo _ ty _ _ _ _ _ _ => typeBytes ty

/-- A read of `n` bytes would pass a held write of the same warp (R159). -/
def State.passesHeld (s : State) (warp loc n : Nat) : Bool :=
  match s.pageLockOf loc with
  | none => false
  | some p => p.held.any fun h => h.origin.ofWarp warp && decide (h.off < loc % 2 ^ p.size + n)
                && decide (loc % 2 ^ p.size < h.off + h.kind.size)

/-! ## Performing one access (R152, R154, R230) -/

/-- The bytes at a place. What is held of their lines in update-only state is combined first (R234). -/
def State.readAt (s : State) (a : Agent) (kind loc n : Nat) : State × List Byte :=
  let s := (s.recallLines (linesOf loc n)).noteReadBy a kind loc
  (s, s.mem.readBytes loc n)

/-- Bytes written, or held; `bad` says that what is written is poisoned, which leaves its mark (R179). -/
def State.writeAt (s : State) (a : Agent) (kind loc : Nat) (bs : List Byte) (bad : Bool := false) : State :=
  match s.pageLockOf loc with
  | some p => s.holdWrite p loc a.origin (.bytes bs) bad
  | none =>
    let s := ((s.recallLines (linesOf loc bs.length)).noteWriteBy a kind loc bs.length).poke loc bs
    if bad then s.markPoison loc else s

/-- A write of `n` bits at bit `o` of one byte. -/
def State.writeBitsAt (s : State) (a : Agent) (kind loc o n v : Nat) (bad : Bool := false) : State :=
  match s.pageLockOf loc with
  | some p => s.holdWrite p loc a.origin (.bits o n v) bad
  | none =>
    let s := ((s.recall (lineOf loc)).noteWriteBy a kind loc 1).pokeBits loc o n v
    if bad then s.markPoison loc else s

/-- The books of an operation at the home slice, which has recalled every registered word of the line (R230). -/
def State.noteAtomic (s : State) (a : Agent) (kind loc n : Nat) : State :=
  if cached kind loc then
    let s := (s.passLlc a kind loc true).ownSectors kind loc n
    (if a.outside then s else ((s.touchHome loc a.site).countWrite loc a.site).noteWrite loc a.site).pushWords
      (lineOf loc) 128
  else s

/-- A returning atomic executes. -/
def State.atomAt (s : State) (a : Agent) (kind loc : Nat) (op : AtomOp) (ty b new : Nat) : State × Nat :=
  ((s.recall (lineOf loc)).noteAtomic a kind loc (typeBytes ty)).atom loc op ty b new

/-- A reduction executes at its point, or joins a partial value of the core for a CXL page (R233, R234). -/
def State.reduceBy (s : State) (a : Agent) (kind loc : Nat) (op : AtomOp) (ty : Nat) (b : Nat) : State :=
  match s.pageLockOf loc with
  | some p => s.holdWrite p loc a.origin (.reduce op ty (BitVec.ofNat 64 b))
  | none =>
    match placeOf kind loc, a.core with
    | .cxl, some c =>
      ((((s.passLlc a kind loc true).touchHome loc a.site).countWrite loc a.site).pushWords (lineOf loc) 128).partialReduce
        c loc op ty b
    | _, _ => if s.poisoned loc (typeBytes ty) then s else (s.atomAt a kind loc op ty b 0).1

/-! ## Tokens (R301, R302, R323) -/

/-- The classes that an access to a place is charged to: 0 die-remote, 1 fabric, 2 host, 3 CXL where the LLC misses. -/
def State.tokenClasses (s : State) (site kind loc : Nat) : List Nat :=
  match placeOf kind loc with
  | .peer => [1]
  | .hostCoherent | .hostPlain => [2]
  | .package => [0]
  | .cxl =>
    (match s.homeOf loc with
     | some h => if h = site then [] else [0]
     | none => [])
    ++ if s.llcHolds (lineOf loc) then [] else [3]
  | .scratch => []

/-- One more (class, 64-byte block) pair, once. -/
def addBlock (b : Nat × Nat) (bs : List (Nat × Nat)) : List (Nat × Nat) := if bs.contains b then bs else b :: bs

/-- The 64-byte blocks that an access costs in a class: those of its bytes, or of the whole line that the LLC fetches. -/
def blocksOf (cls loc n : Nat) : List (Nat × Nat) :=
  if cls = 3 then [(3, lineOf loc / 64), (3, lineOf loc / 64 + 1)]
  else (List.range (ceilDiv (loc % 64 + n) 64)).map fun i => (cls, loc / 64 + i)

/-- The distinct (class, 64-byte block) pairs of some accesses. -/
def State.blocks (s : State) (site : Nat) : List (Nat × Nat × Nat) → List (Nat × Nat)
  | [] => []
  | (kind, loc, n) :: t =>
    ((s.tokenClasses site kind loc).flatMap fun c => blocksOf c loc n).foldl (fun bs b => addBlock b bs) (s.blocks site t)

/-- The classes, dry or owed to others first, that hold the issuing unit with these accesses. -/
def State.heldByTokens (s : State) (site : Nat) (ts : List (Nat × Nat × Nat)) : List Nat :=
  s.heldBy ((s.blocks site ts).map (·.1)).eraseDups

/-- The accesses are charged, one token for each block. -/
def State.chargeAll (s : State) (ctx site : Nat) (ts : List (Nat × Nat × Nat)) : State :=
  let bs := s.blocks site ts
  [0, 1, 2, 3].foldl (fun s c => if bs.any (·.1 == c) then s.charge ctx c (bs.filter (·.1 == c)).length else s) s

/-- The accesses of a unit's lanes are charged: one to a fabric peer travels in parts of at most 8 bytes, each a request of its
own (R302, R305). -/
def State.chargeLanes (s : State) (ctx site : Nat) (ts : List (Nat × Nat × Nat)) : State :=
  let far := (ts.filter fun t => t.1 == 3).map fun t => max 1 (t.2.2 / 8)
  let s := s.chargeAll ctx site (ts.filter fun t => t.1 != 3)
  if far.isEmpty then s else s.charge ctx 1 far.sum

/-! ## What a release waits for (R153, R162, R308) -/

/-- No write of a warp's lanes is held at a page, and none of its lanes is on its way to a fabric peer. -/
def State.lanesLanded (s : State) (uid : Nat) : Bool :=
  !s.holdsForWarp uid
  && s.fabric.tx.all fun t => match t.kind with | .lane w _ _ _ _ _ => w != uid | .command _ _ => true

/-- Every store of the warp that a release covers has been performed. -/
def State.releaseReady (s : State) : Bool := s.warp.log.isEmpty && s.lanesLanded s.warp.uid

/-! ## What an acquire waits for, and what waits for it (R263, R269–R271) -/

/-- An acquire of the issuing warp has lanes in the operand log, at a page under migration or at a fabric peer. -/
def State.acquiring (s : State) : Bool :=
  s.warp.pend.any fun p => p.acq && (s.warp.log.any (·.pend == p.id) || s.laneAway s.warp.uid p.id)

/-- A kind that reads what another agent may have released. -/
def JobKind.reads : JobKind → Bool
  | .store _ | .zero | .touch => false
  | .load _ | .atomic _ _ _ | .llock _ _ | .ltry _ | .lunlock | .lstat _ | .lyield _ _ | .waitcmp _ _ _ _ => true

/-- Every read of the warp that an acquire pairs with has been performed. -/
def State.readsDone (s : State) : Bool :=
  let uid := s.warp.uid
  s.warp.log.all (fun e => !e.job.kind.reads)
  && (s.fabric.tx.all fun t => match t.kind with
      | .lane w _ _ _ _ j => w != uid || !j.kind.reads
      | .command _ _ => true)
  && s.warp.pend.all fun p => !s.heldAmo uid p.id

end Sys2Proof.Machine
end

