-- ==== Sys2Proof/Machine/Jobs.lean ====
section
/-! DEFINITION. One lane-by-lane memory unit, from its captured sources to its end: checks, performing, the operand
log, traps, lanes that are held or travel to a fabric peer (R144, R158–R163, R224, R228, R305). -/

namespace Sys2Proof.Machine

/-! ## Accesses of a lane -/

/-- The access size of a job's kind in bytes, the whole of a stack access. -/
def JobKind.bytes : JobKind → Nat
  | .load sz | .store sz => sizeBytes sz
  | .zero | .touch => 128
  | .atomic _ ty _ => typeBytes ty
  | _ => 0

/-- The accesses of a lane: addresses and sizes. A stack access takes 4 bytes of each line (R149), ZERO, INVL and WBK
the line that holds EA (R151). -/
def Job.accesses (j : Job) (l : Fin 32) : List (Word64 × Nat) :=
  if j.stack then (List.range (j.kind.bytes / 4)).map fun k => (j.ea[l] + BitVec.ofNat 64 (128 * k), 4)
  else match j.kind with
    | .zero | .touch => [(j.ea[l] &&& ~~~(127#64), 128)]
    | k => [(j.ea[l], k.bytes)]

/-- The alignment that R143 and R228 ask of a lane's address. -/
def Job.align (j : Job) : Nat :=
  match j.kind with
  | .load sz | .store sz => if j.stack then 4 else sizeBytes sz
  | .atomic _ ty _ => typeBytes ty
  | _ => 1

/-- Read and write permission needed (R158, R151). -/
def JobKind.perms : JobKind → Bool × Bool
  | .load _ | .touch => (true, false)
  | .store _ | .zero => (false, true)
  | _ => (true, true)

/-- Where an access lands. -/
structure Target where
  loc : Nat
  n : Nat
  kind : Nat
  peer : Nat
deriving DecidableEq, Repr

/-! ## Checks of a lane (R158, R228, R231, R355) -/

/-- The combinations that travel to the host as PCIe AtomicOps (R231). -/
def carried (op : AtomOp) (ty : Nat) (returns : Bool) : Bool :=
  decide (ty < 4) && (op == .add || (returns && (op == .exch || op == .cas)))

/-- A watchpoint of the context matches an access in space 0 (R355). -/
def Context.watched (c : Context) (r w : Bool) (ea n : Nat) : Bool :=
  c.watch.toList.any fun p =>
    let low := p.addr.toNat / 2 ^ p.len * 2 ^ p.len
    ((p.kind == 1 && w) || (p.kind == 2 && r) || (p.kind == 3 && (r || w)))
    && decide (low < ea + n) && decide (ea < low + 2 ^ p.len)

/-- The kinds of access that a watchpoint sees: those that read or write data. -/
def JobKind.watchable : JobKind → Bool
  | .touch => false
  | _ => true

/-- A lane's check: its targets, or the first failure with its address. -/
abbrev LaneCheck := Except (Cause × Word64) (List Target)

/-- The failure of an access that translation has let through. -/
def State.laneFault (s : State) (ctx : Nat) (j : Job) (watch : Bool) (ea : Word64) (n kind : Nat) : Option Cause :=
  let (r, w) := j.kind.perms
  let plain := match j.kind with
    | .atomic op ty returns => kind == 2 && !carried op ty returns
    | _ => false
  if plain then some .atomtype
  else if watch && j.space == 0 && j.kind.watchable && (s.context ctx).watched r w ea.toNat n then some .watch
  else none

/-- The accesses of a lane checked in order. -/
def State.checkAccesses (s : State) (a : Agent) (j : Job) (watch : Bool) : List (Word64 × Nat) → State × LaneCheck
  | [] => (s, .ok [])
  | (ea, n) :: rest =>
    let (r, w) := j.kind.perms
    match s.reach a j.space ea.toNat n j.align r w with
    | (s', .fails c) => (s', .error (c, ea))
    | (s', .at_ loc kind peer) =>
      match s'.laneFault a.ctx j watch ea n kind with
      | some c => (s', .error (c, ea))
      | none =>
        match s'.checkAccesses a j watch rest with
        | (s'', .error e) => (s'', .error e)
        | (s'', .ok ts) => (s'', .ok ({ loc := loc, n := n, kind := kind, peer := peer } :: ts))

/-- A lane's failure names its EA; that of a stack access, the word (R331). -/
def Job.reported (j : Job) (l : Fin 32) (e : Cause × Word64) : Cause × Word64 := (e.1, if j.stack then e.2 else j.ea[l])

/-- The lanes of a unit checked in ascending order. -/
def State.checkLanes (s : State) (a : Agent) (j : Job) (watch : Bool) : List (Fin 32) →
    State × List (Fin 32 × LaneCheck)
  | [] => (s, [])
  | l :: rest =>
    let (s', c) := s.checkAccesses a j watch (j.accesses l)
    let (s'', cs) := s'.checkLanes a j watch rest
    (s'', (l, c.mapError (j.reported l)) :: cs)

/-- All targets of the lanes that passed. -/
def passed (cs : List (Fin 32 × LaneCheck)) : List Target :=
  cs.flatMap fun c => match c.2 with | .ok ts => ts | .error _ => []

/-! ## Performing a lane -/

/-- What became of a lane. -/
inductive LaneDone where
  | ok (vals : List Word32)
  | killed (ea : Word64)
  | away (ws : List RegWrite)          -- held at a page, or on its way to a peer; what it has read here so far
deriving DecidableEq, Repr

/-- The 32-bit words of `n` bytes of a value; a narrow value takes one. -/
def wordsOf (n v : Nat) : List Word32 :=
  (List.range (max 1 (n / 4))).map fun k => BitVec.ofNat 32 (v / 2 ^ (32 * k))

/-- The values of a lane's load: the element of a sub-byte size, else the bytes zero-extended. -/
def Job.loaded (j : Job) (l : Fin 32) (sz : Nat) (bs : List Byte) : List Word32 :=
  if subBits sz ≠ 0 then [BitVec.ofNat 32 (bytesToNat bs / 2 ^ (j.bits[l]).toNat % 2 ^ subBits sz)]
  else wordsOf (sizeBytes sz) (bytesToNat bs)

/-- The data of the `i`-th access of a store. -/
def Job.stored (j : Job) (l : Fin 32) (i n : Nat) : List Byte := natToBytes n ((j.data[l]).toNat / 2 ^ (32 * i))

/-- The bytes of several places, in order, with the state that reading leaves. -/
def State.readTargets (s : State) (a : Agent) : List Target → State × List Byte
  | [] => (s, [])
  | t :: ts =>
    let (s', bs) := s.readAt a t.kind t.loc t.n
    let (s'', cs) := s'.readTargets a ts
    (s'', bs ++ cs)

def State.storeTargets (s : State) (a : Agent) (j : Job) (l : Fin 32) : Nat → List Target → State
  | _, [] => s
  | i, t :: ts => (s.writeAt a t.kind t.loc (j.stored l i t.n)).storeTargets a j l (i + 1) ts

/-- The words of an operand or comparand, and of the new value of a swap. -/
def Job.operand (j : Job) (l : Fin 32) (ty : Nat) : Nat × Nat :=
  let n := 8 * typeBytes ty
  ((j.data[l]).toNat % 2 ^ n, (j.data[l]).toNat / 2 ^ n % 2 ^ n)

/-- One lane performed at its point. -/
def State.performLane (s : State) (a : Agent) (j : Job) (k : Nat) (l : Fin 32) (ts : List Target) :
    State × LaneDone :=
  match j.kind with
  | .load sz =>
    if ts.any fun t => s.poisoned t.loc t.n then (s, .killed j.ea[l])
    else
      let (s', bs) := s.readTargets a ts
      (s', .ok (j.loaded l sz bs))
  | .store sz =>
    match ts with
    | [t] =>
      if subBits sz ≠ 0 then
        (s.writeBitsAt a t.kind t.loc (j.bits[l]).toNat (subBits sz) ((j.data[l]).toNat % 2 ^ subBits sz), .ok [])
      else (s.storeTargets a j l 0 ts, .ok [])
    | _ => (s.storeTargets a j l 0 ts, .ok [])
  | .zero => (ts.foldl (fun s t => s.writeAt a t.kind t.loc (List.replicate t.n 0)) s, .ok [])
  | .touch =>
    (ts.foldl (fun s t => if t.kind ≤ 1 then s.pushCore (lineOf t.loc) (a.core.getD 0) else s) s, .ok [])
  | .atomic op ty returns =>
    let (b, new) := j.operand l ty
    match ts with
    | t :: _ =>
      if returns then
        match s.pageLockOf t.loc with
        | some p =>
          (s.holdWrite p t.loc a.origin (.amo op ty (BitVec.ofNat 64 b) (BitVec.ofNat 64 new) k j.base l.val j.ea[l]), .away [])
        | none =>
          if s.poisoned t.loc t.n then (s, .killed j.ea[l])
          else
            let (s', old) := s.atomAt a t.kind t.loc op ty b new
            (s', .ok (wordsOf t.n old))
      else (s.reduceBy a t.kind t.loc op ty b, .ok [])
    | [] => (s, .ok [])
  | _ => (s, .ok [])

/-- The parts in which a lane's access travels: at most 8 bytes, and one word of a stack access (R305). -/
def Job.parts (j : Job) : Nat :=
  match j.kind with
  | .load sz | .store sz => if j.stack then j.kind.bytes / 4 else max 1 (sizeBytes sz / 8)
  | .zero => 16
  | _ => 1

/-- The job with the `i`-th part of its lanes' accesses: `n` bytes on for each part, of `words` words. -/
def Job.narrow (j : Job) (kind : JobKind) (n words i : Nat) : Job :=
  { j with kind := kind, base := j.base + words * i, ea := j.ea.map (· + BitVec.ofNat 64 (n * i))
           data := j.data.map (fun x : BitVec 128 => x >>> (32 * words * i)), stack := false }

/-- One part of a job. -/
def Job.part (j : Job) (i : Nat) : Job :=
  match j.kind with
  | .load sz => if j.stack then j.narrow (.load 2) 128 1 i else if sizeBytes sz = 16 then j.narrow (.load 3) 8 2 i else j
  | .store sz => if j.stack then j.narrow (.store 2) 128 1 i else if sizeBytes sz = 16 then j.narrow (.store 3) 8 2 i else j
  | .zero => { j with ea := j.ea.map (· &&& ~~~(127#64)) }.narrow (.store 3) 8 2 i
  | _ => j

/-- Where a part lands. -/
def Job.partTarget (j : Job) (ts : List Target) (i : Nat) : Target :=
  let t := ts.headD { loc := 0, n := 0, kind := 0, peer := 0 }
  if j.stack then ts.getD i t else { t with loc := t.loc + 8 * i, n := t.n / j.parts }

/-- A transaction leaves for a peer. -/
def State.send (s : State) (ctx peer : Nat) (kind : TxKind) : State :=
  { s with
    nextUid := s.nextUid + 1
    fabric := { s.fabric with tx := s.fabric.tx ++
      [{ id := s.nextUid, ctx := ctx, peer := peer, kind := kind, retries := 0, sentAt := s.clock.toNat }] } }

/-- The registers that a job writes. -/
def Job.width (j : Job) : Nat :=
  match j.kind with
  | .load sz => max 1 (sizeBytes sz / 4)
  | .atomic _ ty returns => if returns then typeBytes ty / 4 else 0
  | _ => 0

def doneVal (ds : List (Fin 32 × LaneDone)) (i : Nat) (l : Fin 32) : Word32 :=
  match ds.find? (·.1 == l) with
  | some (_, .ok vs) => vs.getD i 0
  | _ => 0

def doneLanes (ds : List (Fin 32 × LaneDone)) : Word32 :=
  maskOf fun l => ds.any fun d => d.1 == l && match d.2 with | .ok _ => true | _ => false

/-- The writes of the lanes that are done. -/
def Job.writes (j : Job) (ds : List (Fin 32 × LaneDone)) : List RegWrite :=
  (List.range j.width).map fun i =>
    RegWrite.v (Fin.ofNat 64 (j.base + i)) (doneLanes ds) (lanes32 (doneVal ds i))

/-- Elements written into a register that stays empty (R161). -/
def Warp.pokeV (w : Warp) (r : Fin 64) (lanes : Word32) (x : VReg) : Warp :=
  { w with
    v := w.v.set r (Vector.ofFn fun l => if inMask lanes l then x[l] else w.v[r][l])
    vPoison := w.vPoison.set r (w.vPoison[r] &&& ~~~(wholeGranules lanes)) }

def Warp.pokeAll (w : Warp) (ws : List RegWrite) : Warp :=
  ws.foldl (fun w x => match x with | .v r lanes v => w.pokeV r lanes v | .s _ _ => w) w

/-- A part of a lane's access performed: what it reads is written once every part has been answered (R313). -/
def State.performPart (s : State) (a : Agent) (j : Job) (k : Nat) (l : Fin 32) (i : Nat) (t : Target) :
    State × LaneDone × List RegWrite :=
  let (s', d) := s.performLane a (j.part i) k l [t]
  (s', d, (j.part i).writes [(l, d)])

/-- Some parts performed in order, with what they read. -/
def State.performParts (s : State) (a : Agent) (j : Job) (k : Nat) (l : Fin 32) : List (Nat × Target) → State × List RegWrite
  | [] => (s, [])
  | p :: ps =>
    let (s', _, ws) := s.performPart a j k l p.1 p.2
    let (s'', us) := s'.performParts a j k l ps
    (s'', ws ++ us)

/-- One lane of the warp in focus performed; the parts that lie at a fabric peer are sent there, one transaction each
(R305, R312). -/
def State.startLane (s : State) (a : Agent) (j : Job) (k : Nat) (l : Fin 32) (ts : List Target) : State × LaneDone :=
  if ts.all fun t => t.kind != 3 then s.performLane a j k l ts
  else if j.kind = .touch then (s, .ok [])
  else
    let ps := (List.range j.parts).map fun i => (i, j.partTarget ts i)
    let near := ps.filter fun p => p.2.kind != 3
    if j.kind.perms.1 && near.any fun p => s.poisoned p.2.loc p.2.n then (s, .killed j.ea[l])
    else
      let (s, ws) := s.performParts a j k l near
      ((ps.filter fun p => p.2.kind == 3).foldl (fun s p =>
        s.send a.ctx p.2.peer (.lane s.warp.uid k l.val p.1 p.2.loc j)) s, .away ws)

/-- The lanes that passed are performed in ascending order (R147, R227). -/
def State.runLanes (s : State) (a : Agent) (j : Job) (k : Nat) :
    List (Fin 32 × LaneCheck) → State × List (Fin 32 × LaneDone)
  | [] => (s, [])
  | (_, .error _) :: rest => s.runLanes a j k rest
  | (l, .ok ts) :: rest =>
    let (s', d) := s.startLane a j k l ts
    let (s'', ds) := s'.runLanes a j k rest
    (s'', (l, d) :: ds)

/-! ## Results -/

def killedLanes (ds : List (Fin 32 × LaneDone)) : Word32 :=
  maskOf fun l => ds.any fun d => d.1 == l && match d.2 with | .killed _ => true | _ => false

/-- The address of the first lane that met poison in memory. -/
def killedAddr (ds : List (Fin 32 × LaneDone)) : Word64 :=
  (ds.findSome? fun d => match d.2 with | .killed ea => some ea | _ => none).getD 0

/-- A lane that is away, with what it has read here so far. -/
def LaneDone.sofar : LaneDone → Option (List RegWrite)
  | .away ws => some ws
  | .ok _ | .killed _ => none

def isAway (ds : List (Fin 32 × LaneDone)) : Bool := ds.any fun d => d.2.sofar.isSome

/-- What the lanes that are away have read here so far. -/
def awayWrites (ds : List (Fin 32 × LaneDone)) : List RegWrite := ds.flatMap fun d => d.2.sofar.getD []

/-- The lanes that failed, with cause and address, ascending. -/
def failures (cs : List (Fin 32 × LaneCheck)) : List (Nat × Cause × Word64) :=
  cs.filterMap fun c => match c.2 with | .error e => some (c.1.val, e) | .ok _ => none

/-! ## Faulting lanes (R161, R163) -/

/-- The fault of some lanes of the unit that the issuing fragment is at. -/
def State.laneRaised (s : State) (bad : List (Nat × Cause × Word64)) (u : MemUnit) (k : Nat) : Raised :=
  Raised.ofLanes { cause := .pagefault, pc := s.warp.frag.pc, entry := s.warp.frag.entry, lanes := 0
                   rpc := s.warp.frag.fetch + 4, unit := some u, pend := some k } bad

/-- The faulting lanes enter the operand log, and a PAGEFAULT record asks the supervisor for the pages. -/
def State.logLanes (s : State) (j : Job) (bad : List (Nat × Cause × Word64)) (u : MemUnit) (k : Nat) : State :=
  let w := s.warp
  let e : LogEntry := { tag := s.nextTag, pc := w.frag.pc, unit := u, entry := w.frag.entry,
                        lanes := lanesMask (bad.map (·.1)), eas := bad.map fun b => (b.1, b.2.2), job := j, pend := k,
                        answer := none }
  (s.postTagged (s.recordOf (s.laneRaised bad u k))).onWarp fun w => { w with log := w.log ++ [e] }

/-- The 4 KiB pages of the global addresses of some lanes. -/
def Job.pages (j : Job) (lanes : Word32) : List Nat :=
  if j.space = 0 then (lanesOf lanes).flatMap fun l => (j.accesses l).map fun x => x.1.toNat / 4096 else []

/-- A lane lies in a page that a log entry names, or the log is full (R162). -/
def Warp.logHolds (w : Warp) (pages : List Nat) : Bool :=
  decide (4 ≤ w.log.length) || w.log.any fun e => (e.job.pages e.lanes).any fun p => pages.contains p

/-- An access to a place touches a line of L1: an atomic is executed at the home slice, and so is a reduction, unless it is
kept in update-only state (R230, R234). -/
def JobKind.touchesL1 (k : JobKind) (kind loc : Nat) : Bool :=
  match k with
  | .atomic _ _ returns => !returns && placeOf kind loc == .cxl
  | _ => cached kind loc

/-- The lines of L1 that a unit touches count towards the lease's measure, those of the stack cache apart (R150, R293). -/
def State.noteLines (s : State) (j : Job) (ts : List Target) : State :=
  if j.stack || j.space != 0 || !j.l1 then s
  else
    let ls := (ts.filter fun t => j.kind.touchesL1 t.kind t.loc).map fun t => lineOf t.loc
    (s.onWarp fun w => { w with lease := { w.lease with lines := ls.foldl insertRising w.lease.lines } }).noteMisses ls

def Target.triple (t : Target) : Nat × Nat × Nat := (t.kind, t.loc, t.n)

/-- The unit injects traffic that tokens meter. -/
def JobKind.metered : JobKind → Bool
  | .touch => false
  | _ => true

/-! ## A unit issues -/

/-- The unit after its lanes have been performed: results, kills, the log or a trap. It stops its fragment while lanes are
at a fabric peer, unless others have entered the log (R161). -/
def State.endUnit (s : State) (j : Job) (dests : List Reg) (u : MemUnit) (dead : Word32)
    (bad : List (Nat × Cause × Word64)) (ds : List (Fin 32 × LaneDone)) (k : Nat) (acq : Bool) : State :=
  let killed := dead ||| killedLanes ds
  if bad.isEmpty && !isAway ds then ((s.finish (j.writes ds)).killLanes killed (killedAddr ds)).advance
  else
    let remote := bad.isEmpty && s.laneSent s.warp.uid k
    let s := s.onWarp fun w =>
      ((((w.addPend .lanes dests (awayWrites ds) 0 remote).pokeAll (j.writes ds)).setUnit k u).setAcq k acq)
    let s := s.killLate k killed (killedAddr ds)
    if bad.isEmpty then s.advance
    else if bad.all fun b => b.2.1 == .pagefault then (s.logLanes j bad u k).advance
    else s.raise (s.laneRaised bad u k)

/-- A memory unit issues: `poison` are the lanes whose own sources, addresses among them, hold poison (log 34), `release` and
`acquire` say what it is besides. It waits for an acquire of its warp that has not been performed whole (R269–R271). -/
def State.memUnit (s : State) (j : Job) (dests : List Reg) (op : MemOp) (poison : Word32) (release acquire : Bool) :
    State :=
  let w := s.warp
  let dead := poison &&& w.active
  let lanes := w.active &&& ~~~poison
  if w.logHolds (j.pages lanes) || s.acquiring || (release && !s.releaseReady) then s.hold
  else
    let (s', cs) := s.checkLanes w.agent j true (lanesOf lanes)
    let ts := passed cs
    let dry := if j.kind.metered then s'.heldByTokens w.site (ts.map Target.triple) else []
    if !dry.isEmpty then s.holdDry dry
    else if j.kind.perms.1 && ts.any (fun t => s'.passesHeld w.uid t.loc t.n) then s.hold
    else
      let s' := if j.kind.metered then s'.chargeLanes w.ctx w.site (ts.map Target.triple) else s'
      let (s'', ds) := (s'.noteLines j ts).runLanes w.agent j w.nextPend cs
      s''.endUnit j dests { op := op, hints := w.frag.hints } dead (failures cs) ds w.nextPend acquire

/-! ## Lanes performed later (R161, R334) -/

/-- Lanes of a job performed for pending instruction `k` of the warp in focus: the lanes that fail, or the token classes
that hold them all (R323), none of them where a write of the warp is held before them (R159). -/
def State.redoLanes (s : State) (j : Job) (lanes : Word32) (k : Nat) (watch : Bool) :
    State × Except (List Nat) (List (Nat × Cause × Word64)) :=
  let a := s.warp.agent.pend s.warp.uid k
  let (s', cs) := s.checkLanes a j watch (lanesOf lanes)
  let ts := passed cs
  let dry := if j.kind.metered then s'.heldByTokens a.site (ts.map Target.triple) else []
  if !dry.isEmpty || (j.kind.perms.1 && ts.any fun t => s'.passesHeld s.warp.uid t.loc t.n) then (s, .error dry)
  else
    let s' := if j.kind.metered then s'.chargeLanes a.ctx a.site (ts.map Target.triple) else s'
    let (s', ds) := (s'.noteLines j ts).runLanes a j k cs
    ((s'.onWarp fun w => (w.pokeAll (j.writes ds)).addWrites k (awayWrites ds)).killLate k (killedLanes ds) (killedAddr ds), .ok (failures cs))

/-! ## Pending lanes -/

/-- Nothing that the pending instruction waits for is left: no log entry, trap, held write or transaction names it. -/
def State.lanesDone (s : State) (w : Warp) (k : Nat) : Bool :=
  w.log.all (·.pend != k)
  && (match w.trap with | some t => t.pend != some k || t.lanes == 0 | none => true)
  && w.heldTraps.all (·.pend != some k) && w.raising.all (·.pend != some k) && !s.laneAway w.uid k

end Sys2Proof.Machine
end

