-- ==== Sys2Proof/WellFormed.lean ====
section
/-! DEFINITION. The conditions of R57 that the instruction's own fields decide, whatever the state: type and operation
combinations, pairs and quads, m0 as a destination, reserved values of a field. The conditions that depend on the
hints, the grid's level or a slot are checked when the unit issues. -/

namespace Sys2Proof

/-- A register that can hold the low half of a pair (R35). -/
def pairBase (r : Fin 64) : Bool := r.val % 2 == 0

/-- A register that can start a group of four (R35). -/
def quadBase (r : Fin 64) : Bool := r.val % 4 == 0

/-- Elements of a format per 32-bit register, doubled so that FP64 is 1 (R109); 0 for a reserved code. -/
def elemsPerReg2 (f : Nat) : Nat :=
  [2, 2, 4, 4, 8, 8, 10, 10, 16, 8, 8, 8, 10, 10, 8, 10, 16, 20, 32, 4, 1, 2, 2, 8, 8].getD f 0

/-- G of R124, doubled: the largest of E(sf), E(df) and 1. -/
def cvtGroup2 (sf df : Nat) : Nat := max (max (elemsPerReg2 sf) (elemsPerReg2 df)) 2

/-- The registers that a CVT group takes in a format: G ÷ E (R124). -/
def cvtRegs (sf df f : Nat) : Nat := cvtGroup2 sf df / elemsPerReg2 f

/-- The operands of CVT are legal (R124), the hints apart. -/
def cvtLegal (d a : Fin 64) (sf df : Fin 32) : Bool :=
  sf.val ≤ 24 && df.val ≤ 24
  && cvtGroup2 sf df % elemsPerReg2 sf == 0 && cvtGroup2 sf df % elemsPerReg2 df == 0
  && cvtRegs sf df sf ≤ 16 && cvtRegs sf df df ≤ 16
  && a.val + cvtRegs sf df sf ≤ 64 && d.val + cvtRegs sf df df ≤ 64
  && (sf.val != 20 || pairBase a) && (df.val != 20 || pairBase d)

/-- The group of a load or store fits its size (R146). -/
def groupLegal (t : Fin 64) (z : Fin 8) : Bool :=
  z.val != 7 && (z.val != 3 || pairBase t) && (z.val != 4 || quadBase t)

/-- The type of an atomic takes 64 bits (R221). -/
def wideType (ty : Fin 8) : Bool := ty.val == 2 || ty.val == 3 || ty.val == 7

/-- The type of an atomic is an integer type (R222). -/
def intType (ty : Fin 8) : Bool := ty.val ≤ 3

/-- The type is z32 or z64, the types of AINCW and ADECW (R222). -/
def countType (ty : Fin 8) : Bool := ty.val == 0 || ty.val == 2

/-- The registers of a returning atomic (R223). -/
def atomicRegs (d a b : Fin 64) (ty : Fin 8) (loc : Bool) : Bool :=
  (loc || pairBase a) && (!wideType ty || (pairBase d && pairBase b && d.val < 62))

/-- The registers of a compare and swap, whose operand group holds two values (R221, R223). -/
def casRegs (d a b : Fin 64) (ty : Fin 8) (loc : Bool) : Bool :=
  atomicRegs d a b ty loc && (if wideType ty then quadBase b else pairBase b)

/-- The registers of a reduction (R223). -/
def reduceRegs (a b : Fin 64) (ty : Fin 8) (loc : Bool) : Bool :=
  (loc || pairBase a) && (!wideType ty || pairBase b)

/-- A coordinate group of format T: nc 1–7, and its registers exist (R46, R175). -/
def coordsLegal (c : Fin 64) (n : Fin 8) : Bool := n.val != 0 && c.val + n.val ≤ 64

/-- The CSR map assigns the number (R64, R66). -/
def csrAssigned (c : Fin 256) : Bool :=
  (0x01 ≤ c.val && c.val ≤ 0x0E) || (0x10 ≤ c.val && c.val ≤ 0x18) || c.val == 0x20 || c.val == 0x21
  || (0x40 ≤ c.val && c.val ≤ 0x44) || (0x48 ≤ c.val && c.val ≤ 0x4B) || (0x50 ≤ c.val && c.val ≤ 0x52)
  || (0x60 ≤ c.val && c.val ≤ 0x62)

/-- The word is an instruction under R57 as far as its own fields tell. -/
def Instr.wellFormed : Instr → Bool
  | .mset d _ _ => d != 0
  | .mand d _ _ | .mor d _ _ | .mxor d _ _ | .mandn d _ _ => d != 0
  | .mnot d _ | .mlive d _ => d != 0
  | .vaddw d a _ _ _ | .vsubw d a _ _ _ | .vaddwScalar d a _ _ _ | .vsubwScalar d a _ _ _ => pairBase d && pairBase a
  | .vmulw d _ _ _ _ | .vmulwz d _ _ _ _ | .vmulwScalar d _ _ _ _ | .vmulwzScalar d _ _ _ _ => pairBase d
  | .vaddr d _ _ _ _ => pairBase d
  | .vceq m _ _ _ _ | .vcne m _ _ _ _ | .vclt m _ _ _ _ | .vcle m _ _ _ _ => m != 0
  | .vcltz m _ _ _ _ | .vclez m _ _ _ _ => m != 0
  | .fceq m _ _ _ _ | .fcne m _ _ _ _ | .fclt m _ _ _ _ | .fcle m _ _ _ _ | .fcun m _ _ _ _ => m != 0
  | .dadd d a b _ _ | .dsub d a b _ _ | .dmul d a b _ _ => pairBase d && pairBase a && pairBase b
  | .daddScalar d a _ _ _ | .dsubScalar d a _ _ _ | .dmulScalar d a _ _ _ => pairBase d && pairBase a
  | .dsqrt d a _ => pairBase d && pairBase a
  | .ddiv d a b _ _ => pairBase d && pairBase a && pairBase b
  | .dfma d a b c _ => pairBase d && pairBase a && pairBase b && pairBase c
  | .ld t _ _ z _ _ | .ldNt t _ _ z _ _ | .ldAcq t _ _ z _ _ => groupLegal t z
  | .st t _ _ z _ _ | .stNt t _ _ z _ _ | .stRel t _ _ z _ _ => groupLegal t z
  | .ldp64 t _ _ | .stp64 t _ _ => pairBase t
  | .ldp128 t _ _ | .stp128 t _ _ => quadBase t
  | .cvt d a s g _ _ _ => cvtLegal d a s g
  | .tload _ c n _ _ _ | .tstore _ c n _ _ _ => coordsLegal c n
  | .tgather _ c n x _ _ | .tscatter _ c n x _ _ => coordsLegal c n && x.val ≤ 62
  | .tzero _ c n _ | .tcopy _ c n _ _ => coordsLegal c n
  | .mmul _ _ _ p _ | .mmulz _ _ _ p _ | .mmult _ _ _ p _ => p != 0
  | .mrdrow _ _ _ _ m => m.val != 3
  | .aadd d a b y _ l | .amin d a b y _ l | .amax d a b y _ l | .aexch d a b y _ l => atomicRegs d a b y l
  | .aand d a b y _ l | .aor d a b y _ l | .axor d a b y _ l => intType y && atomicRegs d a b y l
  | .aincw d a b y _ l | .adecw d a b y _ l => countType y && atomicRegs d a b y l
  | .acas d a b y _ l => casRegs d a b y l
  | .radd a b y _ l | .rmin a b y _ l | .rmax a b y _ l => reduceRegs a b y l
  | .rand a b y _ l | .ror a b y _ l | .rxor a b y _ l => intType y && reduceRegs a b y l
  | .waitcmp _ b _ q => b.val != 63 && q.val ≤ 7
  | .barw _ _ q | .barg _ _ q => q.val ≤ 6
  | .pbarv _ _ _ s => s.val ≤ 4
  | .pbarw _ _ s => s.val ≤ 4
  | .fence s o => o != 0 && s.val ≤ 4
  | .bindR _ b | .unbind _ b => b.val != 0 && b.val != 63
  | .acq _ q | .rel _ q => q.val ≤ 4
  | .push _ c n x _ => coordsLegal c n && x.val ≤ 62
  | .put c _ _ _ | .get c _ _ _ => c.val ≤ 62
  | .lease a q => q.val ≤ 2 && (q.val != 1 || a == 0)
  | .csrr _ c => csrAssigned c
  | .csrw _ _ c | .csrset _ _ c | .csrclr _ _ c => csrAssigned c
  | .tlbinv _ _ m => m.val ≤ 2
  | .stepW d _ g => !g || d == 0
  | _ => true

end Sys2Proof
end

