-- ==== Sys2Proof/Machine/Access.lean ====
section
/-! DEFINITION. Loads, stores, stack accesses and the cache operations, majors 0x1C to 0x1F (R141–R151). -/

namespace Sys2Proof.Machine

/-! ## Jobs from registers -/

/-- The low words of a group of registers in a lane, the lowest register lowest. -/
def Warp.groupData (w : Warp) (t : Fin 64) (n : Nat) (l : Fin 32) : BitVec 128 :=
  BitVec.ofNat 128 (((List.range n).map fun k => (w.v[regAt t k][l]).toNat * 2 ^ (32 * k)).sum)

/-- Registers of the group of a size (R144). -/
def groupSize (sz : Nat) : Nat := max 1 (sizeBytes sz / 4)

/-- HMOD's cache policy lets the access allocate a line of L1 (R53). -/
def Hints.cachesL1 (h : Hints) : Bool := bitsOf (h.hmod.getD 0).toNat 10 2 != 3

/-- A load or store of format M (R141). -/
def mJob (store nt : Bool) (t a b : Fin 64) (z : Fin 8) (p : Fin 4) (w : Warp) (h : Hints) : Job :=
  let at_ := fun l : Fin 32 => effective (w.readS b) (w.v[a][l]) h.offset z.val
  { kind := if store then .store z.val else .load z.val
    space := p.val, base := t.val
    ea := Vector.ofFn fun l => (at_ l).1
    bits := Vector.ofFn fun l => (at_ l).2
    data := Vector.ofFn fun l => if store then w.groupData t (groupSize z.val) l else 0
    stack := false, l1 := !nt && h.cachesL1 }

/-- An access of the stack of `n` words a lane (R149). -/
def stackJob (store : Bool) (t : Fin 64) (n : Nat) (i : BitVec 10) (w : Warp) (h : Hints) : Job :=
  let sz := if n = 1 then 2 else if n = 2 then 3 else 4
  { kind := if store then .store sz else .load sz
    space := 0, base := t.val
    ea := Vector.ofFn fun l => word64 ((w.readS 62).toNat + 32 * (h.imm i).toInt + 4 * l.val)
    bits := Vector.replicate 32 0
    data := Vector.ofFn fun l => if store then w.groupData t n l else 0
    stack := true }

/-- A cache operation on the line that holds EA (R151). -/
def lineJob (k : JobKind) (a b : Fin 64) (p : Nat) (w : Warp) (h : Hints) : Job :=
  { kind := k, space := p, base := 0
    ea := Vector.ofFn fun l => (effective (w.readS b) (w.v[a][l]) h.offset 0).1
    bits := Vector.replicate 32 0
    data := Vector.replicate 32 0
    stack := false, l1 := h.cachesL1 }

/-- The registers of a group. -/
def group (t : Fin 64) (n : Nat) : List Reg := (List.range n).map fun k => .v (regAt t k)

/-! ## Issue -/

/-- HMOD's ordering makes the access a release, or an acquire (R53). -/
def Hints.releasesOrder (h : Hints) : Bool := (h.hmod.getD 0).getLsbD 20
def Hints.acquiresOrder (h : Hints) : Bool := (h.hmod.getD 0).getLsbD 19

/-- A lane-by-lane unit: what it needs, its job, its vector sources, whether it is a release or an acquire. -/
def accessUnit (n : Need) (j : Warp → Hints → Job) (vs : List Reg) (op : MemOp) (rel acq : Bool) (s : State) :
    Host.Outcome State Fault Refusal :=
  s.issue n fun s =>
    s.memUnit (j s.warp s.warp.frag.hints) n.dests op (s.warp.poisonIn vs) (rel || s.warp.frag.hints.releasesOrder)
      (acq || s.warp.frag.hints.acquiresOrder)

/-- The HMOD fields of R53: ordering and scope, cache policy, local space; the orderings that LD.ACQ, and that ST.REL
and the reductions, accept. -/
def orderFields : BitVec 22 := 0x3F0000
def policyFields : BitVec 22 := 0xC00
def localFields : BitVec 22 := 0x300
def acquireFields : BitVec 22 := 0x0F0000
def releaseFields : BitVec 22 := 0x170000

def load (fields : BitVec 22) (nt acq : Bool) (t a b : Fin 64) (z : Fin 8) (p : Fin 4) (x : Bool) (s : State) :
    Host.Outcome State Fault Refusal :=
  accessUnit { himm := true, hmod := some fields, legal := groupLegal t z, dests := group t (groupSize z.val),
               srcs := [(.s b, x), (.v a, x)] } (mJob false nt t a b z p) [.v a] (.move false nt t a b z p) false acq s

def store (fields : BitVec 22) (nt rel : Bool) (t a b : Fin 64) (z : Fin 8) (p : Fin 4) (x : Bool)
    (s : State) : Host.Outcome State Fault Refusal :=
  let vs := .v a :: group t (groupSize z.val)
  accessUnit { himm := true, hmod := some fields, legal := groupLegal t z,
               srcs := (.s b, x) :: vs.map fun q => (q, x) } (mJob true nt t a b z p) vs (.move true nt t a b z p) rel
    false s

/-- The unit-wide checks of R149 on a base, for an access of `n` words a lane. -/
def Warp.stackCheck (w : Warp) (base : Word64) (imm : Int) (n : Nat) : Option Cause :=
  if base.toNat % 128 ≠ 0 then some .align
  else if (base.toNat : Int) + 32 * imm < w.stklim.toNat ∨ (w.stktop.toNat : Int) < base.toNat + 32 * (imm + 4 * n) then
    some .stkovf
  else none

/-- A private access of `n` words a lane (R149). -/
def stackUnit (st : Bool) (n : Nat) (op : MemOp) (t : Fin 64) (i : BitVec 10) (x : Bool) (s : State) :
    Host.Outcome State Fault Refusal :=
  let imm := (s.warp.frag.hints.imm i).toInt
  let vs := if st then group t n else []
  s.issue { himm := true, legal := imm % (4 * n) == 0 && t.val % n == 0, dests := if st then [] else group t n,
            srcs := (.s 62, x) :: vs.map fun q => (q, x) } fun s =>
    match s.warp.stackCheck (s.warp.readS 62) imm n with
    | some c => s.trap c
    | none =>
      s.memUnit (stackJob st t n i s.warp s.warp.frag.hints) (if st then [] else group t n) op
        (s.warp.poisonIn vs) false false

/-- What the cache operations need: no destination, sp and sz apart. -/
def lineNeed (a b : Fin 64) (x : Bool) : Need :=
  { himm := true, hmod := some policyFields, srcs := [(.s b, x), (.v a, x)] }

/-- PREF: the lines of the lanes that would not fault are brought nearer, which changes no value (R151). -/
def execPref (a b : Fin 64) (x : Bool) (s : State) : Host.Outcome State Fault Refusal :=
  s.issue (lineNeed a b x) fun s =>
    let w := s.warp
    let j := lineJob .touch a b 0 w w.frag.hints
    let dead := w.poisonIn [.v a] &&& w.active
    let lanes := w.active &&& ~~~dead
    if w.logHolds (j.pages lanes) then s.hold
    else
      let (s', cs) := s.checkLanes w.agent j false (lanesOf lanes)
      (((passed cs).foldl (fun s t => s.noteReadBy w.agent t.kind t.loc) s').killLanes dead 0).advance


def execLd (t a b : Fin 64) (z : Fin 8) (p : Fin 4) (x : Bool) (s : State) : Host.Outcome State Fault Refusal :=
  load (orderFields ||| policyFields) false false t a b z p x s
def execLdNt (t a b : Fin 64) (z : Fin 8) (p : Fin 4) (x : Bool) (s : State) : Host.Outcome State Fault Refusal :=
  load orderFields true false t a b z p x s
def execLdAcq (t a b : Fin 64) (z : Fin 8) (p : Fin 4) (x : Bool) (s : State) : Host.Outcome State Fault Refusal :=
  load (acquireFields ||| policyFields) false true t a b z p x s
def execSt (t a b : Fin 64) (z : Fin 8) (p : Fin 4) (x : Bool) (s : State) : Host.Outcome State Fault Refusal :=
  store (orderFields ||| policyFields) false false t a b z p x s
def execStNt (t a b : Fin 64) (z : Fin 8) (p : Fin 4) (x : Bool) (s : State) : Host.Outcome State Fault Refusal :=
  store orderFields true false t a b z p x s
def execStRel (t a b : Fin 64) (z : Fin 8) (p : Fin 4) (x : Bool) (s : State) : Host.Outcome State Fault Refusal :=
  store (releaseFields ||| policyFields) false true t a b z p x s
def execLdp32 (t : Fin 64) (i : BitVec 10) (x : Bool) (s : State) : Host.Outcome State Fault Refusal :=
  stackUnit false 1 (.stack false t 1 i) t i x s
def execLdp64 (t : Fin 64) (i : BitVec 10) (x : Bool) (s : State) : Host.Outcome State Fault Refusal :=
  stackUnit false 2 (.stack false t 2 i) t i x s
def execLdp128 (t : Fin 64) (i : BitVec 10) (x : Bool) (s : State) : Host.Outcome State Fault Refusal :=
  stackUnit false 4 (.stack false t 4 i) t i x s
def execStp32 (t : Fin 64) (i : BitVec 10) (x : Bool) (s : State) : Host.Outcome State Fault Refusal :=
  stackUnit true 1 (.stack true t 1 i) t i x s
def execStp64 (t : Fin 64) (i : BitVec 10) (x : Bool) (s : State) : Host.Outcome State Fault Refusal :=
  stackUnit true 2 (.stack true t 2 i) t i x s
def execStp128 (t : Fin 64) (i : BitVec 10) (x : Bool) (s : State) : Host.Outcome State Fault Refusal :=
  stackUnit true 4 (.stack true t 4 i) t i x s
def execInvl (a b : Fin 64) (x : Bool) (s : State) : Host.Outcome State Fault Refusal :=
  accessUnit (lineNeed a b x) (lineJob .touch a b 0) [.v a] (.line false a b 0) false false s
def execWbk (a b : Fin 64) (x : Bool) (s : State) : Host.Outcome State Fault Refusal :=
  accessUnit (lineNeed a b x) (lineJob .touch a b 0) [.v a] (.line false a b 0) false false s
def execZero (a b : Fin 64) (p : Fin 4) (x : Bool) (s : State) : Host.Outcome State Fault Refusal :=
  accessUnit (lineNeed a b x) (lineJob .zero a b p.val) [.v a] (.line true a b p) false false s

end Sys2Proof.Machine
end

