-- ==== Sys2Proof/Machine/Atomics.lean ====
section
/-! DEFINITION. Atomics and reductions, majors 0x29 to 0x2B (R221–R236). -/

namespace Sys2Proof.Machine

/-- Registers of an operand group: a compare and swap names a comparand and a new value (R221). -/
def operandSize (op : AtomOp) (ty : Nat) : Nat := typeBytes ty / 4 * (if op = .cas then 2 else 1)

/-- The space of an atomic: global, or the one that HMOD selects (R221). -/
def atomSpace (loc : Bool) (h : Hints) : Nat := if loc then 1 + bitsOf (h.hmod.getD 0).toNat 8 2 else 0

/-- The effective address of a lane (R221). -/
def atomEa (w : Warp) (a : Fin 64) (loc : Bool) (h : Hints) (l : Fin 32) : Word64 :=
  word64 ((if loc then (w.v[a][l]).toNat else (w.pair a l).toNat) + h.offset)

def atomJob (op : AtomOp) (d a b : Fin 64) (ty : Fin 8) (loc returns : Bool) (w : Warp) (h : Hints) : Job :=
  { kind := .atomic op ty.val returns
    space := atomSpace loc h, base := d.val
    ea := Vector.ofFn fun l => atomEa w a loc h l
    bits := Vector.replicate 32 0
    data := Vector.ofFn fun l => w.groupData b (operandSize op ty.val) l
    stack := false }

/-- The vector sources: the address registers and the operand group, all under the one x bit. -/
def atomSources (op : AtomOp) (a b : Fin 64) (ty : Fin 8) (loc : Bool) : List Reg :=
  group a (if loc then 1 else 2) ++ group b (operandSize op ty.val)

/-- An atomic (R224) or a reduction (R233). -/
def atomic (op : AtomOp) (legal returns : Bool) (d a b : Fin 64) (ty : Fin 8) (x loc : Bool) (s : State) :
    Host.Outcome State Fault Refusal :=
  let vs := atomSources op a b ty loc
  accessUnit
    { himm := true
      hmod := some ((if returns then orderFields else releaseFields) ||| (if loc then localFields else 0))
      legal := legal
      dests := if returns then group d (typeBytes ty.val / 4) else []
      srcs := vs.map fun q => (q, x) }
    (atomJob op d a b ty loc returns) vs (.atom op d a b ty loc returns) false false s


def execAadd (d a b : Fin 64) (y : Fin 8) (x l : Bool) (s : State) : Host.Outcome State Fault Refusal :=
  atomic .add (atomicRegs d a b y l) true d a b y x l s
def execAmin (d a b : Fin 64) (y : Fin 8) (x l : Bool) (s : State) : Host.Outcome State Fault Refusal :=
  atomic .min (atomicRegs d a b y l) true d a b y x l s
def execAmax (d a b : Fin 64) (y : Fin 8) (x l : Bool) (s : State) : Host.Outcome State Fault Refusal :=
  atomic .max (atomicRegs d a b y l) true d a b y x l s
def execAand (d a b : Fin 64) (y : Fin 8) (x l : Bool) (s : State) : Host.Outcome State Fault Refusal :=
  atomic .and (intType y && atomicRegs d a b y l) true d a b y x l s
def execAor (d a b : Fin 64) (y : Fin 8) (x l : Bool) (s : State) : Host.Outcome State Fault Refusal :=
  atomic .or (intType y && atomicRegs d a b y l) true d a b y x l s
def execAxor (d a b : Fin 64) (y : Fin 8) (x l : Bool) (s : State) : Host.Outcome State Fault Refusal :=
  atomic .xor (intType y && atomicRegs d a b y l) true d a b y x l s
def execAexch (d a b : Fin 64) (y : Fin 8) (x l : Bool) (s : State) : Host.Outcome State Fault Refusal :=
  atomic .exch (atomicRegs d a b y l) true d a b y x l s
def execAincw (d a b : Fin 64) (y : Fin 8) (x l : Bool) (s : State) : Host.Outcome State Fault Refusal :=
  atomic .incw (countType y && atomicRegs d a b y l) true d a b y x l s
def execAcas (d a b : Fin 64) (y : Fin 8) (x l : Bool) (s : State) : Host.Outcome State Fault Refusal :=
  atomic .cas (casRegs d a b y l) true d a b y x l s
def execAdecw (d a b : Fin 64) (y : Fin 8) (x l : Bool) (s : State) : Host.Outcome State Fault Refusal :=
  atomic .decw (countType y && atomicRegs d a b y l) true d a b y x l s
def execRadd (a b : Fin 64) (y : Fin 8) (x l : Bool) (s : State) : Host.Outcome State Fault Refusal :=
  atomic .add (reduceRegs a b y l) false 0 a b y x l s
def execRmin (a b : Fin 64) (y : Fin 8) (x l : Bool) (s : State) : Host.Outcome State Fault Refusal :=
  atomic .min (reduceRegs a b y l) false 0 a b y x l s
def execRmax (a b : Fin 64) (y : Fin 8) (x l : Bool) (s : State) : Host.Outcome State Fault Refusal :=
  atomic .max (reduceRegs a b y l) false 0 a b y x l s
def execRand (a b : Fin 64) (y : Fin 8) (x l : Bool) (s : State) : Host.Outcome State Fault Refusal :=
  atomic .and (intType y && reduceRegs a b y l) false 0 a b y x l s
def execRor (a b : Fin 64) (y : Fin 8) (x l : Bool) (s : State) : Host.Outcome State Fault Refusal :=
  atomic .or (intType y && reduceRegs a b y l) false 0 a b y x l s
def execRxor (a b : Fin 64) (y : Fin 8) (x l : Bool) (s : State) : Host.Outcome State Fault Refusal :=
  atomic .xor (intType y && reduceRegs a b y l) false 0 a b y x l s

end Sys2Proof.Machine
end

