-- ==== Sys2Proof/Machine/Scalar.lean ====
section
/-! DEFINITION. Hint words (R48) and the scalar instructions of majors 0x04–0x06 (R69–R76). -/

namespace Sys2Proof.Machine

/-! ## Hint words -/

/-- A hint word joins the unit being fetched; a second one of its kind marks the unit (R48, R49). -/
def State.hint (s : State) (set : Hints → Hints) (present : Hints → Bool) : State :=
  s.onWarp fun w =>
    let h := w.frag.hints
    let h' := if present h then { h with dup := true } else set h
    { w with frag := { w.frag with hints := h', fetch := w.frag.fetch + 4 } }

def execHimm (p : BitVec 22) (s : State) : Host.Outcome State Fault Refusal :=
  .next (s.hint (fun h => { h with himm := some p }) (·.himm.isSome))

def execHblk (p : BitVec 22) (s : State) : Host.Outcome State Fault Refusal :=
  .next (s.hint (fun h => { h with hblk := some p }) (·.hblk.isSome))

def execHmod (p : BitVec 22) (s : State) : Host.Outcome State Fault Refusal :=
  .next (s.hint (fun h => { h with hmod := some p }) (·.hmod.isSome))

def execHsch (p : BitVec 22) (s : State) : Host.Outcome State Fault Refusal :=
  .next (s.hint (fun h => { h with hsch := some p }) (·.hsch.isSome))

/-! ## Major 0x04 (R70, R71) -/

/-- What a scalar instruction of two sources needs. -/
def scalarNeed (d a b : Fin 64) (x y : Bool) : Need := { dests := [.s d], srcs := [(.s a, x), (.s b, y)] }

def scalar2 (f : Word64 → Word64 → Word64) (d a b : Fin 64) (x y : Bool) (s : State) :
    Host.Outcome State Fault Refusal :=
  s.issue (scalarNeed d a b x y) fun s => s.scalarResult d (f (s.warp.readS a) (s.warp.readS b))

/-- What a scalar instruction of one source needs. -/
def scalarNeed1 (d a : Fin 64) (x : Bool) : Need := { dests := [.s d], srcs := [(.s a, x)] }

def scalar1 (f : Word64 → Word64) (d a : Fin 64) (x : Bool) (s : State) : Host.Outcome State Fault Refusal :=
  s.issue (scalarNeed1 d a x) fun s => s.scalarResult d (f (s.warp.readS a))

def boolWord (b : Bool) : Word64 := if b then 1 else 0

/-- The number of leading zero bits. -/
def leadingZeros {w : Nat} (a : BitVec w) : Nat := if a = 0 then w else w - 1 - Nat.log2 a.toNat

/-- The number of one bits. -/
def popCount {w : Nat} (a : BitVec w) : Nat := ((List.range w).filter fun i => a.getLsbD i).length

/-- Bit i of the result is bit w - 1 - i. -/
def bitReverse {w : Nat} (a : BitVec w) : BitVec w :=
  BitVec.ofNat w (((List.range w).map fun i => if a.getLsbD i then 2 ^ (w - 1 - i) else 0).sum)

/-- Quotients and remainders of R70 at any width: by zero, all ones and the dividend. -/
def sdivQ {w : Nat} (a b : BitVec w) : BitVec w :=
  if b = 0 then BitVec.allOnes w else BitVec.ofInt w (a.toInt.tdiv b.toInt)
def udivQ {w : Nat} (a b : BitVec w) : BitVec w :=
  if b = 0 then BitVec.allOnes w else BitVec.ofNat w (a.toNat / b.toNat)
def sremQ {w : Nat} (a b : BitVec w) : BitVec w := if b = 0 then a else BitVec.ofInt w (a.toInt.tmod b.toInt)
def uremQ {w : Nat} (a b : BitVec w) : BitVec w := if b = 0 then a else BitVec.ofNat w (a.toNat % b.toNat)

/-- The high halves of the products. -/
def mulHigh {w : Nat} (a b : BitVec w) : BitVec w := BitVec.ofInt w (a.toInt * b.toInt / 2 ^ w)
def mulHighU {w : Nat} (a b : BitVec w) : BitVec w := BitVec.ofNat w (a.toNat * b.toNat / 2 ^ w)

/-- Minimum and maximum, signed and unsigned. -/
def sminQ {w : Nat} (a b : BitVec w) : BitVec w := if a.toInt ≤ b.toInt then a else b
def smaxQ {w : Nat} (a b : BitVec w) : BitVec w := if a.toInt ≤ b.toInt then b else a
def uminQ {w : Nat} (a b : BitVec w) : BitVec w := if a.toNat ≤ b.toNat then a else b
def umaxQ {w : Nat} (a b : BitVec w) : BitVec w := if a.toNat ≤ b.toNat then b else a

def execSadd (d a b : Fin 64) (x y : Bool) (s : State) : Host.Outcome State Fault Refusal :=
  scalar2 (fun p q => p + q) d a b x y s
def execSsub (d a b : Fin 64) (x y : Bool) (s : State) : Host.Outcome State Fault Refusal :=
  scalar2 (fun p q => p - q) d a b x y s
def execSmul (d a b : Fin 64) (x y : Bool) (s : State) : Host.Outcome State Fault Refusal :=
  scalar2 (fun p q => p * q) d a b x y s
def execSmulh (d a b : Fin 64) (x y : Bool) (s : State) : Host.Outcome State Fault Refusal :=
  scalar2 mulHigh d a b x y s
def execSmulhz (d a b : Fin 64) (x y : Bool) (s : State) : Host.Outcome State Fault Refusal :=
  scalar2 mulHighU d a b x y s
def execSdiv (d a b : Fin 64) (x y : Bool) (s : State) : Host.Outcome State Fault Refusal :=
  scalar2 sdivQ d a b x y s
def execSdivz (d a b : Fin 64) (x y : Bool) (s : State) : Host.Outcome State Fault Refusal :=
  scalar2 udivQ d a b x y s
def execSrem (d a b : Fin 64) (x y : Bool) (s : State) : Host.Outcome State Fault Refusal :=
  scalar2 sremQ d a b x y s
def execSremz (d a b : Fin 64) (x y : Bool) (s : State) : Host.Outcome State Fault Refusal :=
  scalar2 uremQ d a b x y s
def execSand (d a b : Fin 64) (x y : Bool) (s : State) : Host.Outcome State Fault Refusal :=
  scalar2 (fun p q => p &&& q) d a b x y s
def execSor (d a b : Fin 64) (x y : Bool) (s : State) : Host.Outcome State Fault Refusal :=
  scalar2 (fun p q => p ||| q) d a b x y s
def execSxor (d a b : Fin 64) (x y : Bool) (s : State) : Host.Outcome State Fault Refusal :=
  scalar2 (fun p q => p ^^^ q) d a b x y s
def execSandn (d a b : Fin 64) (x y : Bool) (s : State) : Host.Outcome State Fault Refusal :=
  scalar2 (fun p q => p &&& ~~~q) d a b x y s
def execSshl (d a b : Fin 64) (x y : Bool) (s : State) : Host.Outcome State Fault Refusal :=
  scalar2 (fun p q => p <<< (q.toNat % 64)) d a b x y s
def execSshr (d a b : Fin 64) (x y : Bool) (s : State) : Host.Outcome State Fault Refusal :=
  scalar2 (fun p q => p >>> (q.toNat % 64)) d a b x y s
def execSsra (d a b : Fin 64) (x y : Bool) (s : State) : Host.Outcome State Fault Refusal :=
  scalar2 (fun p q => p.sshiftRight (q.toNat % 64)) d a b x y s
def execSmin (d a b : Fin 64) (x y : Bool) (s : State) : Host.Outcome State Fault Refusal :=
  scalar2 sminQ d a b x y s
def execSmax (d a b : Fin 64) (x y : Bool) (s : State) : Host.Outcome State Fault Refusal :=
  scalar2 smaxQ d a b x y s
def execSminz (d a b : Fin 64) (x y : Bool) (s : State) : Host.Outcome State Fault Refusal :=
  scalar2 uminQ d a b x y s
def execSmaxz (d a b : Fin 64) (x y : Bool) (s : State) : Host.Outcome State Fault Refusal :=
  scalar2 umaxQ d a b x y s
def execSceq (d a b : Fin 64) (x y : Bool) (s : State) : Host.Outcome State Fault Refusal :=
  scalar2 (fun p q => boolWord (p == q)) d a b x y s
def execSclt (d a b : Fin 64) (x y : Bool) (s : State) : Host.Outcome State Fault Refusal :=
  scalar2 (fun p q => boolWord (decide (p.toInt < q.toInt))) d a b x y s
def execScltz (d a b : Fin 64) (x y : Bool) (s : State) : Host.Outcome State Fault Refusal :=
  scalar2 (fun p q => boolWord (decide (p.toNat < q.toNat))) d a b x y s
def execSclz (d a : Fin 64) (x : Bool) (s : State) : Host.Outcome State Fault Refusal :=
  scalar1 (fun p => BitVec.ofNat 64 (leadingZeros p)) d a x s
def execSpopc (d a : Fin 64) (x : Bool) (s : State) : Host.Outcome State Fault Refusal :=
  scalar1 (fun p => BitVec.ofNat 64 (popCount p)) d a x s
def execSbrev (d a : Fin 64) (x : Bool) (s : State) : Host.Outcome State Fault Refusal :=
  scalar1 bitReverse d a x s

/-! ## Major 0x05 (R72) -/

/-- A scalar instruction of one source and an immediate. -/
def scalarImm (legal : Word64 → Bool) (f : Word64 → Word64 → Word64) (d a : Fin 64) (i : BitVec 10) (x : Bool)
    (s : State) : Host.Outcome State Fault Refusal :=
  s.issue { scalarNeed1 d a x with himm := true, legal := legal (s.warp.imm64 i) } fun s =>
    s.scalarResult d (f (s.warp.readS a) (s.warp.imm64 i))

/-- A shift count that R72 allows. -/
def shiftLegal (i : Word64) : Bool := decide (i.toNat < 64)

def execSaddi (d a : Fin 64) (i : BitVec 10) (x : Bool) (s : State) : Host.Outcome State Fault Refusal :=
  scalarImm (fun _ => true) (fun p q => p + q) d a i x s
def execSandi (d a : Fin 64) (i : BitVec 10) (x : Bool) (s : State) : Host.Outcome State Fault Refusal :=
  scalarImm (fun _ => true) (fun p q => p &&& q) d a i x s
def execSori (d a : Fin 64) (i : BitVec 10) (x : Bool) (s : State) : Host.Outcome State Fault Refusal :=
  scalarImm (fun _ => true) (fun p q => p ||| q) d a i x s
def execSxori (d a : Fin 64) (i : BitVec 10) (x : Bool) (s : State) : Host.Outcome State Fault Refusal :=
  scalarImm (fun _ => true) (fun p q => p ^^^ q) d a i x s
def execSshli (d a : Fin 64) (i : BitVec 10) (x : Bool) (s : State) : Host.Outcome State Fault Refusal :=
  scalarImm shiftLegal (fun p q => p <<< q.toNat) d a i x s
def execSshri (d a : Fin 64) (i : BitVec 10) (x : Bool) (s : State) : Host.Outcome State Fault Refusal :=
  scalarImm shiftLegal (fun p q => p >>> q.toNat) d a i x s
def execSsrai (d a : Fin 64) (i : BitVec 10) (x : Bool) (s : State) : Host.Outcome State Fault Refusal :=
  scalarImm shiftLegal (fun p q => p.sshiftRight q.toNat) d a i x s
def execSclti (d a : Fin 64) (i : BitVec 10) (x : Bool) (s : State) : Host.Outcome State Fault Refusal :=
  scalarImm (fun _ => true) (fun p q => boolWord (decide (p.toInt < q.toInt))) d a i x s

/-! ## Major 0x06 (R73–R76) -/

/-- SLI: s[d] is the immediate, sign-extended (R73). -/
def execSli (d : Fin 64) (i : BitVec 10) (s : State) : Host.Outcome State Fault Refusal :=
  s.issue { himm := true, dests := [.s d] } fun s => s.scalarResult d (s.warp.imm64 i)

/-- SLIH: the immediate above the low word of s[a] (R73). -/
def execSlih (d a : Fin 64) (i : BitVec 10) (x : Bool) (s : State) : Host.Outcome State Fault Refusal :=
  scalarImm (fun _ => true) (fun p q => q <<< 32 ||| p &&& 0xFFFFFFFF) d a i x s

/-- SADDPC: the address of its own word plus the immediate (R74). -/
def execSaddpc (d : Fin 64) (i : BitVec 10) (s : State) : Host.Outcome State Fault Refusal :=
  s.issue { himm := true, dests := [.s d] } fun s =>
    s.scalarResult d (s.warp.frag.fetch.setWidth 64 + s.warp.imm64 i)

/-- A frame size is a positive multiple of 16 (R75). -/
def frameLegal (i : Word64) : Bool := decide (0 < i.toInt) && i.toNat % 16 == 0

/-- ENTER: the stack pointer drops by a frame, unless that crosses STKLIM (R75). -/
def execEnter (d : Fin 64) (i : BitVec 10) (s : State) : Host.Outcome State Fault Refusal :=
  s.issue { himm := true, legal := frameLegal (s.warp.imm64 i), dests := [.s 62, .s d], srcs := [(.s 62, false)] }
    fun s =>
      let old := s.warp.readS 62
      let new : Int := old.toNat - 32 * (s.warp.imm64 i).toInt
      if new < s.warp.stklim.toNat then s.trap .stkovf
      else (s.finish [.s 62 (word64 new), .s d old]).advance

/-- LEAVE: the stack pointer rises by a frame, unless that passes its value at entry (R76). -/
def execLeave (i : BitVec 10) (s : State) : Host.Outcome State Fault Refusal :=
  s.issue { himm := true, legal := frameLegal (s.warp.imm64 i), dests := [.s 62], srcs := [(.s 62, false)] }
    fun s =>
      let new : Int := (s.warp.readS 62).toNat + 32 * (s.warp.imm64 i).toInt
      if (s.warp.stktop.toNat : Int) < new then s.trap .stkovf
      else (s.finish [.s 62 (word64 new)]).advance

end Sys2Proof.Machine
end

