-- ==== Sys2Proof/Machine/Control.lean ====
section
/-! DEFINITION. Branches, calls, EXIT, traps raised by instructions, divergent branches, FUSE and the mask registers
(R78–R90). -/

namespace Sys2Proof.Machine

/-! ## Majors 0x08–0x0A (R78, R79) -/

def State.goto (s : State) (pc : Pc) : State := s.onWarp fun w => w.goto pc

/-- A branch of the whole fragment on a scalar (R78). -/
def branchOn (test : Int → Bool) (a : Fin 64) (o : BitVec 17) (s : State) : Host.Outcome State Fault Refusal :=
  s.issue { srcs := [(.s a, false)] } fun s =>
    if test (s.warp.readS a).toInt then s.goto (branchTarget s.warp.frag.fetch o) else s.advance

def execBeqz (a : Fin 64) (o : BitVec 17) (s : State) : Host.Outcome State Fault Refusal :=
  branchOn (fun v => v == 0) a o s
def execBnez (a : Fin 64) (o : BitVec 17) (s : State) : Host.Outcome State Fault Refusal :=
  branchOn (fun v => v != 0) a o s
def execBltz (a : Fin 64) (o : BitVec 17) (s : State) : Host.Outcome State Fault Refusal :=
  branchOn (fun v => decide (v < 0)) a o s
def execBgez (a : Fin 64) (o : BitVec 17) (s : State) : Host.Outcome State Fault Refusal :=
  branchOn (fun v => decide (0 ≤ v)) a o s
def execBlez (a : Fin 64) (o : BitVec 17) (s : State) : Host.Outcome State Fault Refusal :=
  branchOn (fun v => decide (v ≤ 0)) a o s
def execBgtz (a : Fin 64) (o : BitVec 17) (s : State) : Host.Outcome State Fault Refusal :=
  branchOn (fun v => decide (0 < v)) a o s

def execBra (o : BitVec 17) (s : State) : Host.Outcome State Fault Refusal :=
  s.issue {} fun s => s.goto (branchTarget s.warp.frag.fetch o)

def execJmp (o : BitVec 26) (s : State) : Host.Outcome State Fault Refusal :=
  s.issue {} fun s => s.goto (branchTarget s.warp.frag.fetch o)

/-- The return address of a call (R79). The sum is exact: after the last word of the address space it is 2^57 (R7). -/
def Warp.returnAddress (w : Warp) : Word64 := BitVec.ofNat 64 (w.frag.fetch.toNat + 4)

def execCall (o : BitVec 26) (s : State) : Host.Outcome State Fault Refusal :=
  s.issue { dests := [.s 63] } fun s =>
    (s.finish [.s 63 s.warp.returnAddress]).goto (branchTarget s.warp.frag.fetch o)

/-! ## Major 0x0B (R80–R83) -/

def execNop (s : State) : Host.Outcome State Fault Refusal := s.issue {} State.advance

/-- A jump to a register's value, after the checks that JR, CALLR and RET make of it (R80). -/
def State.jumpTo (s : State) (t : Word64) (effect : State → State) : State :=
  if t.toNat % 4 ≠ 0 then s.trap .align t
  else if 2 ^ 57 ≤ t.toNat then s.trap .range t
  else (effect s).goto (t.setWidth 57)

def execJr (a : Fin 64) (x : Bool) (s : State) : Host.Outcome State Fault Refusal :=
  s.issue { srcs := [(.s a, x)] } fun s => s.jumpTo (s.warp.readS a) id

def execCallr (a : Fin 64) (x : Bool) (s : State) : Host.Outcome State Fault Refusal :=
  s.issue { dests := [.s 63], srcs := [(.s a, x)] } fun s =>
    s.jumpTo (s.warp.readS a) fun s => s.finish [.s 63 s.warp.returnAddress]

/-- The fault that a WAITC or a last EXIT delivers: the oldest, with the number of the others (R181). -/
def engineRaised (pc : Pc) (entry : Nat) (lanes : Word32) (rpc : Pc) (f : HeldFault) (more : Nat) : Raised :=
  { cause := f.cause, pc := pc, entry := entry, lanes := lanes, addr := f.addr, rpc := rpc, engine := true,
    nextra := more, cmdpc := f.pc }

/-- Delivered class-2 faults end the STOPPED state of the gang (R216). -/
def State.unstop (s : State) (fs : List HeldFault) : State :=
  if fs.any (·.cls == 2) then s.mapGang s.warp.gang fun g => { g with mx := { g.mx with stopped := false } } else s

/-- Every held engine fault of the issuing warp is given to the supervisor at the warp's last EXIT (R181, R330). -/
def State.deliverAtExit (s : State) (f : HeldFault) (more : Nat) : State :=
  let w := s.warp
  ((s.unstop w.heldFaults).onWarp fun w => { w with heldFaults := [] }).toSupervisor
    (engineRaised w.frag.pc w.frag.entry (w.frag.mask &&& ~~~w.dead) w.frag.pc f more)

/-- What the record of trap mode saved is discarded with the warp's pending instructions. The mark of trap mode stays
while commands are outstanding: a fault of theirs is still a nested one (R337). -/
def Warp.discardTrap (w : Warp) : Warp :=
  { w with
    exited := w.exited ||| ~~~w.dead
    frags := []
    park := []
    trap := if w.out.isEmpty then none
            else w.trap.map fun (t : TrapMode) =>
              { t with record := { t.record with frags := [], park := [] }, lanes := 0, unit := none, pend := none }
    pend := []
    log := []
    locks := w.locks.filter (·.held) }

/-- The handler ends the warp, and a fault still held goes to the supervisor (R337). -/
def State.handlerExit (s : State) : State :=
  match s.warp.heldTraps, s.warp.out, s.warp.heldFaults with
  | r :: rest, _, _ => (s.onWarp fun w => { w with heldTraps := rest }).toSupervisor r
  | [], [], f :: more => s.deliverAtExit f more.length
  | [], _, _ =>
    (((s.reportAll s.warp).dropWaiter s.warp.uid).dropMonitors s.warp.uid).onWarp Warp.discardTrap

/-- An instruction that the issuing fragment has issued and that has not completed, logged lanes among them: one that was
issued with some of its lanes, in trap mode by the handler. -/
def Warp.exitWaits (w : Warp) (p : Pending) : Bool :=
  (w.trap.isNone || p.gen == w.traps) && p.mask &&& w.frag.mask != 0
  && match p.kind with | .result | .lanes | .command _ => true | _ => false

/-- EXIT ends the issuing fragment once its issued instructions have completed (R81). -/
def State.exitFragment (s : State) : State :=
  if s.warp.pend.any s.warp.exitWaits then s.hold
  else if s.warp.trap.isSome then s.handlerExit
  else s.onWarp fun w => { w with exited := w.exited ||| w.frag.mask }.settleFrags

def execRet (s : State) : Host.Outcome State Fault Refusal :=
  s.issue { srcs := [(.s 63, false)] } fun s =>
    if s.warp.readS 63 = 0 then s.exitFragment else s.jumpTo (s.warp.readS 63) id

def execExit (s : State) : Host.Outcome State Fault Refusal := s.issue {} State.exitFragment

/-- BRK and TRAP raise their fault as completed units: the warp resumes at the next one (R83). -/
def State.softTrap (s : State) (c : Cause) (code : Nat) : State :=
  s.raise { s.raised c with code := code, rpc := s.warp.frag.fetch + 4 }

def execBrk (s : State) : Host.Outcome State Fault Refusal := s.issue {} fun s => s.softTrap .brkpt 0

def execTrap (c : Fin 64) (s : State) : Host.Outcome State Fault Refusal :=
  s.issue {} fun s => s.softTrap .trapinsn c.val

/-- YIELD gives up the fragment's issue turn (R82). -/
def execYield (s : State) : Host.Outcome State Fault Refusal :=
  s.issue {} fun s => s.advance.onWarp fun w => { w with frag := { w.frag with yielded := true } }

/-! ## Divergence (R86, R87) -/

/-- The live active lanes split on a condition: whole, or into two fragments, or with the fall-through side parked. -/
def Warp.split (w : Warp) (c : Word32) (target : Pc) : Warp :=
  let live := w.active
  let t := live &&& c
  let n := live &&& ~~~c
  let next := w.frag.fetch + 4
  let stay := fun (mask : Word32) (pc : Pc) => { w with frag := { w.frag with mask := mask } }.goto pc
  if n = 0 then stay t target
  else if t = 0 then stay n next
  else match w.freeEntry with
    | some e =>
      let w' := stay n next
      { w' with frags := w'.frags ++ [{ Fragment.start target with entry := e, mask := t }] }
    | none =>
      let w' := stay t target
      { w' with park := { pc := next, mask := n } :: w'.park }

def execBrvt (m : Fin 8) (o : BitVec 17) (s : State) : Host.Outcome State Fault Refusal :=
  s.issue { srcs := [(.m m, false)] } fun s => s.onWarp fun w => w.split (w.readM m) (branchTarget w.frag.fetch o)

def execBrvf (m : Fin 8) (o : BitVec 17) (s : State) : Host.Outcome State Fault Refusal :=
  s.issue { srcs := [(.m m, false)] } fun s => s.onWarp fun w => w.split (~~~(w.readM m)) (branchTarget w.frag.fetch o)

/-- The fragment waits at a fuse point, its PC at the FUSE word, or merges with the one that waits there (R87). -/
def Warp.fuseAt (w : Warp) (n : Nat) : Warp :=
  let pc := w.frag.fetch
  let me : Fragment := { w.frag with
    pc := pc, fetch := pc, hints := {}, state := .waiting n, yielded := (w.frag.hints.hsch.getD 0).getLsbD 21 }
  match w.frags.find? fun f => f.state == .waiting n && w.holds f with
  | none => { w with frag := me }.settleFrags
  | some g =>
    let low := if g.pc.toNat < pc.toNat then g.pc else pc
    { w with
      frag := { me with entry := min me.entry g.entry, mask := me.mask ||| g.mask, pc := low, fetch := low }
      frags := w.frags.filter (·.entry != g.entry) }.settleFrags

def execFuse (n : Fin 64) (s : State) : Host.Outcome State Fault Refusal :=
  s.issue {} fun s => s.onWarp fun w => w.fuseAt n.val

/-! ## Mask registers (R90) -/

/-- A mask register is written and the fragment goes on; the write completes at once (R41). -/
def State.maskResult (s : State) (d : Fin 8) (x : Word32) : State := (s.onWarp fun w => w.writeM d x).advance

def mask2 (f : Word32 → Word32 → Word32) (d a b : Fin 8) (s : State) : Host.Outcome State Fault Refusal :=
  s.issue { legal := d != 0, srcs := [(.m a, false), (.m b, false)] } fun s =>
    s.maskResult d (f (s.warp.readM a) (s.warp.readM b))

def maskToScalar (f : Word32 → Word64) (d : Fin 64) (a : Fin 8) (s : State) : Host.Outcome State Fault Refusal :=
  s.issue { dests := [.s d], srcs := [(.m a, false)] } fun s => s.scalarResult d (f (s.warp.readM a))

def execMset (d : Fin 8) (a : Fin 64) (x : Bool) (s : State) : Host.Outcome State Fault Refusal :=
  s.issue { legal := d != 0, srcs := [(.s a, x)] } fun s => s.maskResult d ((s.warp.readS a).setWidth 32)
def execMget (d : Fin 64) (a : Fin 8) (s : State) : Host.Outcome State Fault Refusal :=
  maskToScalar (fun m => m.setWidth 64) d a s
def execMand (d a b : Fin 8) (s : State) : Host.Outcome State Fault Refusal := mask2 (fun p q => p &&& q) d a b s
def execMor (d a b : Fin 8) (s : State) : Host.Outcome State Fault Refusal := mask2 (fun p q => p ||| q) d a b s
def execMxor (d a b : Fin 8) (s : State) : Host.Outcome State Fault Refusal := mask2 (fun p q => p ^^^ q) d a b s
def execMandn (d a b : Fin 8) (s : State) : Host.Outcome State Fault Refusal := mask2 (fun p q => p &&& ~~~q) d a b s
def execMnot (d a : Fin 8) (s : State) : Host.Outcome State Fault Refusal := mask2 (fun p _ => ~~~p) d a a s
def execMpopc (d : Fin 64) (a : Fin 8) (s : State) : Host.Outcome State Fault Refusal :=
  maskToScalar (fun m => BitVec.ofNat 64 (popCount m)) d a s
/-- The index of the lowest one bit of a mask, 32 when there is none. -/
def firstSet (m : Word32) : Nat := ((List.range 32).find? fun i => m.getLsbD i).getD 32
def execMffs (d : Fin 64) (a : Fin 8) (s : State) : Host.Outcome State Fault Refusal :=
  maskToScalar (fun m => BitVec.ofNat 64 (firstSet m)) d a s
def execMlive (d a : Fin 8) (s : State) : Host.Outcome State Fault Refusal :=
  s.issue { legal := d != 0, srcs := [(.m a, false)] } fun s => s.maskResult d (s.warp.readM a &&& ~~~s.warp.dead)

end Sys2Proof.Machine
end

