-- ==== Sys2Proof/Machine/Real.lean ====
section
/-! DEFINITION. The base-2 logarithm and exponential as exact values (R136, R139). A result that is no dyadic number is
computed in fixed point with 320 fraction bits and handed on with 256, which is more than its rounding to any format of
chapter 05 is taken to need (log 15, UNVERIFIED). -/

namespace Sys2Proof.Machine

/-- Fraction bits of the fixed-point work. -/
def fixBits : Nat := 320

/-- The sum of z^(2k+1) ÷ (2k+1), in fixed point, from a power of z and its square: the series of artanh. -/
def artanhFrom : Nat → Nat → Nat → Nat → Nat
  | 0, _, _, _ => 0
  | n + 1, k, p, sq => p / (2 * k + 1) + artanhFrom n (k + 1) (p * sq / 2 ^ fixBits) sq

def artanh (z : Nat) : Nat := artanhFrom 110 0 z (z * z / 2 ^ fixBits)

/-- ln 2 = 2 artanh(1/3). -/
def ln2 : Nat := 2 * artanh (2 ^ fixBits / 3)

/-- The sum of y^k ÷ k!, in fixed point, from a term onwards: the series of the exponential. -/
def expFrom : Nat → Nat → Nat → Nat → Nat
  | 0, _, _, _ => 0
  | n + 1, k, t, y => t + expFrom n (k + 1) (t * y / (2 ^ fixBits * (k + 1))) y

/-- e^y for 0 ≤ y < 1. -/
def expFix (y : Nat) : Nat := expFrom 80 0 (2 ^ fixBits) y

/-- 2^t for a finite t: exact for an integer t. -/
def exp2Fin (neg : Bool) (m : Nat) (e : Int) : Exact :=
  if m = 0 then .fin false 1 0 false
  else
    let top : Int := Nat.log2 m + e
    if 12 ≤ top then .fin false 1 (if neg then -5000 else 5000) true
    else if top < -200 then (if neg then .fin false (2 ^ 200 - 1) (-200) true else .fin false (2 ^ 200) (-200) true)
    else
      let fine := (fixBits : Int) + e
      let mag := if 0 ≤ fine then m * 2 ^ fine.toNat else m / 2 ^ (-fine).toNat
      let t : Int := if neg then -(mag : Int) else mag
      let i := t / 2 ^ fixBits
      let f := (t % 2 ^ fixBits).toNat
      if f = 0 then .fin false 1 i false
      else .fin false (expFix (f * ln2 / 2 ^ fixBits) / 2 ^ 64) (i - 256) true

/-- 2^t, with the special values of R136 and R139. -/
def Exact.exp2 : Exact → Exact
  | .nan => .nan
  | .inf a => if a then .zero false else .inf false
  | .fin a m e _ => exp2Fin a m e

/-- log2 of a finite positive value: exact for a power of two. -/
def log2Fin (m : Nat) (e : Int) : Exact :=
  let l := Nat.log2 m
  if m = 2 ^ l then .ofInt (l + e)
  else
    let z := (m - 2 ^ l) * 2 ^ fixBits / (m + 2 ^ l)
    let lg := 2 * artanh z * 2 ^ fixBits / ln2
    let v : Int := (l + e) * 2 ^ fixBits + lg
    .fin (decide (v < 0)) (v.natAbs / 2 ^ 64) (-256) true

/-- log2 with the special values of R136. -/
def Exact.log2 : Exact → Exact × BitVec 5
  | .nan => (.nan, 0)
  | .inf a => if a then (.nan, fNV) else (.inf false, 0)
  | .fin a m e _ => if m = 0 then (.inf true, fDZ) else if a then (.nan, fNV) else (log2Fin m e, 0)

end Sys2Proof.Machine
end

