-- ==== Sys2Proof/Machine/Flags.lean ====
section
/-! DEFINITION. Rounding mode and saturation of a unit, and the flags that its lanes raise (R127, R131, R132, R94). -/

namespace Sys2Proof.Machine

/-- The rounding mode of HMOD, RNE without the override (R127): 0 RNE, 1 RTZ, 2 RUP, 3 RDN. -/
def Hints.rm (h : Hints) : Nat :=
  let p := h.hmod.getD 0
  if p.getLsbD 13 then bitsOf p.toNat 14 2 else 0

/-- Saturation (R127). -/
def Hints.sat (h : Hints) : Bool := (h.hmod.getD 0).getLsbD 12

/-- The HMOD fields that the floating-point majors accept (R53). -/
def roundFields : BitVec 22 := 0xF000

/-- The conditions raised over a list of elements, each once (R132). -/
def orFlags (fs : List (BitVec 5)) : BitVec 5 := fs.foldl (fun a b => a ||| b) 0

/-- Lanes that read a dead or inactive lane, noted at issue (R94). -/
def State.noteDeadSource (s : State) (lanes : Word32) : State :=
  s.onWarp fun w => { w with dsrc := w.dsrc ||| lanes }

end Sys2Proof.Machine
end

