-- ==== Sys2Proof/Machine/Vector.lean ====
section
/-! DEFINITION. The one shape of a vector instruction: lanes that take part, blocks, poison, writes and flags (R93,
R52, R108, R132). -/

namespace Sys2Proof.Machine

/-- A vector source: its base register, its width in registers, and the x bit that covers it. -/
structure VSrc where
  base : Fin 64
  width : Nat := 1
  x : Bool := false
deriving DecidableEq, Repr

/-- The shape of a vector instruction. -/
structure VOp where
  step : Nat := 1                      -- 2 where a block's elements are pairs
  dw : Nat := 1                        -- registers of a destination element
  d : Fin 64
  vs : List VSrc
  ss : List (Fin 64 × Bool) := []      -- scalar sources with their x bits
  ms : List (Fin 8) := []              -- mask sources
  readsD : Bool := false               -- the old destination is a source (R98)
deriving DecidableEq, Repr

/-- All source registers of one element. -/
def VOp.sourceRegs (v : VOp) (o : Nat) : List Reg :=
  (v.vs.flatMap fun q => blockRegs q.base [o] q.width) ++ (if v.readsD then blockRegs v.d [o] v.dw else [])

/-- What the instruction needs to issue. -/
def VOp.need (v : VOp) (n : Need) (h : Hints) : Need :=
  let offs := h.elems v.step
  { n with
    legal := n.legal && h.blockFits v.step v.d && v.vs.all fun q => h.blockFits v.step q.base
    dests := blockRegs v.d offs v.dw
    srcs := (v.vs.flatMap fun q => (blockRegs q.base offs q.width).map fun r => (r, q.x))
            ++ (v.ss.map fun q => (Reg.s q.1, q.2)) ++ v.ms.map fun m => (Reg.m m, false) }

/-- The result of one element in one lane, with the conditions it raises. -/
abbrev LaneFn := Warp → Nat → Fin 32 → Word64 × BitVec 5

/-- The writes of one element to the lanes. -/
def VOp.writes (v : VOp) (f : LaneFn) (w : Warp) (lanes : Word32) (o : Nat) : List RegWrite :=
  let val := fun l => if inMask lanes l then (f w o l).1 else 0
  if v.dw = 1 then [.v (regAt v.d o) lanes (lanes32 fun l => (val l).setWidth 32)]
  else pairWrites (regAt v.d o) lanes val

/-- The lanes that an element's sources kill: those whose own source elements hold poison. -/
def VOp.ownPoison (v : VOp) (w : Warp) (o : Nat) : Word32 := w.poisonIn (v.sourceRegs o)

/-- A vector instruction takes effect: lanes that read poison are killed and keep their elements, the others are
written, and the conditions accumulate. -/
def State.vecResult (s : State) (v : VOp) (poison : Warp → Nat → Word32) (f : LaneFn) : State :=
  let w := s.warp
  let offs := w.frag.hints.elems v.step
  let killed := offs.foldl (fun m o => m ||| poison w o) 0 &&& w.active
  let lanes := w.active &&& ~~~killed
  let flags := orFlags (offs.flatMap fun o => (lanesOf lanes).map fun l => (f w o l).2)
  ((s.finish (offs.flatMap (v.writes f w lanes)) flags).killLanes killed 0).advance

/-- A vector instruction whose lanes read only their own elements. -/
def vecUnit (v : VOp) (n : Need) (f : LaneFn) (s : State) : Host.Outcome State Fault Refusal :=
  s.issue (v.need n s.warp.frag.hints) fun s => s.vecResult v v.ownPoison f

/-- A 32-bit result that raises nothing. -/
def word (x : Word32) : Word64 × BitVec 5 := (x.setWidth 64, 0)

end Sys2Proof.Machine
end

