-- ==== Sys2Proof/Machine/Lanes.lean ====
section
/-! DEFINITION. Lane exchange and warp reductions, major 0x14 (R105–R108). -/

namespace Sys2Proof.Machine

/-! ## Exchange (R105) -/

/-- Where a lane takes its element from: its own source element, or another lane's. -/
inductive Source where
  | own
  | lane (j : Nat)
deriving DecidableEq, Repr

/-- The element that lane `l` receives: 0 from a lane that does not take part (R94). -/
def shuffled (w : Warp) (a : Fin 64) (src : Fin 32 → Source) (l : Fin 32) : Word32 :=
  match src l with
  | .own => w.v[a][l]
  | .lane j => if w.active.getLsbD j then w.v[a][j]?.getD 0 else 0

/-- The lanes whose source does not take part: they are noted in DSRCMASK (R94). -/
def deadReaders (w : Warp) (src : Fin 32 → Source) : Word32 :=
  maskOf fun l => inMask w.active l && match src l with
    | .own => false
    | .lane j => !w.active.getLsbD j

/-- The lanes that receive a poisoned element (R108). -/
def poisonReaders (w : Warp) (a : Fin 64) (src : Fin 32 → Source) : Word32 :=
  maskOf fun l => match src l with
    | .own => w.vPoison[a].getLsbD l
    | .lane j => w.active.getLsbD j && w.vPoison[a].getLsbD j

/-- What holds a register empty is pending for lanes of other fragments alone. A shuffle of the issuing fragment does not
wait on them: it gets 0 from every one (R94). -/
def Warp.foreign (w : Warp) (r : Fin 64) : Bool :=
  !w.vFull[r] && w.pend.any (fun p => p.dests.contains (.v r))
  && w.pend.all fun p => !p.dests.contains (.v r) || p.mask &&& w.active == 0

/-- The need of an instruction that reads other lanes of register `a`, its first source. -/
def Need.shuffles (n : Need) (w : Warp) (a : Fin 64) : Need :=
  if w.foreign a then { n with srcs := n.srcs.eraseP fun q => q.1 == .v a } else n

/-- An exchange with a source lane for each lane; `more` are the other sources that it reads. -/
def exchange (d a : Fin 64) (x : Bool) (vs : List VSrc) (ss : List (Fin 64 × Bool)) (src : Warp → Fin 32 → Source)
    (s : State) : Host.Outcome State Fault Refusal :=
  let v : VOp := { d := d, vs := { base := a, x := x } :: vs, ss := ss }
  s.issue ((v.need {} s.warp.frag.hints).shuffles s.warp a) fun s =>
    (s.noteDeadSource (deadReaders s.warp (src s.warp))).vecResult v
      (fun w _ => poisonReaders w a (src w) ||| (vs.foldl (fun m q => m ||| w.vPoison[q.base]) 0))
      (fun w _ l => word (shuffled w a (src w) l))

/-- The source lane given by a per-lane index. -/
def indexed (b : Fin 64) (f : Nat → Nat → Source) (w : Warp) (l : Fin 32) : Source := f l.val (w.v[b][l].toNat)

def execShfl (d a b : Fin 64) (x y : Bool) (s : State) : Host.Outcome State Fault Refusal :=
  exchange d a x [{ base := b, x := y }] [] (indexed b fun _ i => .lane (i % 32)) s
def execShflup (d a b : Fin 64) (x y : Bool) (s : State) : Host.Outcome State Fault Refusal :=
  exchange d a x [{ base := b, x := y }] [] (indexed b fun l i => if l < i % 32 then .own else .lane (l - i % 32)) s
def execShfldn (d a b : Fin 64) (x y : Bool) (s : State) : Host.Outcome State Fault Refusal :=
  exchange d a x [{ base := b, x := y }] []
    (indexed b fun l i => if 31 < l + i % 32 then .own else .lane (l + i % 32)) s
def execShflx (d a b : Fin 64) (x y : Bool) (s : State) : Host.Outcome State Fault Refusal :=
  exchange d a x [{ base := b, x := y }] [] (indexed b fun l i => .lane (l ^^^ (i % 32))) s
def execQswz (d a b : Fin 64) (x y : Bool) (s : State) : Host.Outcome State Fault Refusal :=
  exchange d a x [{ base := b, x := y }] [] (indexed b fun l i => .lane (l / 4 * 4 + i % 4)) s
def execBcast (d a b : Fin 64) (x y : Bool) (s : State) : Host.Outcome State Fault Refusal :=
  exchange d a x [] [(b, y)] (fun w _ => .lane ((w.readS b).toNat % 32)) s

/-! ## One lane (R106) -/

/-- The lane index in a scalar. -/
def laneIndex (w : Warp) (b : Fin 64) : Fin 32 := Fin.ofNat 32 (w.readS b).toNat

/-- VRDLANE: the element of a lane, or 0 and every live active lane noted where that lane does not take part. -/
def execVrdlane (d a b : Fin 64) (x y : Bool) (s : State) : Host.Outcome State Fault Refusal :=
  s.issue (({ dests := [.s d], srcs := [(.v a, x), (.s b, y)] } : Need).shuffles s.warp a) fun s =>
    let w := s.warp
    let k := laneIndex w b
    if inMask w.active k then
      if inMask w.vPoison[a] k then s.trap .poison else s.scalarResult d ((w.v[a][k]).setWidth 64)
    else (s.noteDeadSource w.active).scalarResult d 0

/-- VWRLANE: a scalar's low word into one lane, where that lane takes part. -/
def execVwrlane (d a b : Fin 64) (x y : Bool) (s : State) : Host.Outcome State Fault Refusal :=
  s.issue { dests := [.v d], srcs := [(.s a, x), (.s b, y)] } fun s =>
    let w := s.warp
    let lanes := (maskOf fun l => l == laneIndex w b) &&& w.active
    (s.finish [.v d lanes (splat ((w.readS a).setWidth 32))]).advance

/-! ## Ballot and reductions (R107) -/

/-- One scalar from the lanes that take part, ascending; poison in one of them raises POISON (R108). -/
def warpReduce (f : Word32 → List Word32 → Word64 × BitVec 5) (d a : Fin 64) (x : Bool) (s : State) :
    Host.Outcome State Fault Refusal :=
  s.issue { dests := [.s d], srcs := [(.v a, x)] } fun s =>
    let w := s.warp
    if w.vPoison[a] &&& w.active ≠ 0 then s.trap .poison
    else match (lanesOf w.active).map fun l => w.v[a][l] with
      | [] => s.scalarResult d 0
      | r :: rest =>
        let (val, flags) := f r rest
        (s.finish [.s d val] flags).advance

/-- A fold whose result raises nothing. -/
def reduceWith (op : Word32 → Word32 → Word32) (widen : Word32 → Word64) (r : Word32) (rest : List Word32) :
    Word64 × BitVec 5 := (widen (rest.foldl op r), 0)

def execBallot (d a : Fin 64) (x : Bool) (s : State) : Host.Outcome State Fault Refusal :=
  s.issue { dests := [.s d], srcs := [(.v a, x)] } fun s =>
    let w := s.warp
    if w.vPoison[a] &&& w.active ≠ 0 then s.trap .poison
    else s.scalarResult d ((maskOf fun l => inMask w.active l && w.v[a][l] != 0).setWidth 64)

def execWradd (d a : Fin 64) (x : Bool) (s : State) : Host.Outcome State Fault Refusal :=
  warpReduce (fun r rest => (rest.foldl (fun t q => t + q.signExtend 64) (r.signExtend 64), 0)) d a x s
def execWrmin (d a : Fin 64) (x : Bool) (s : State) : Host.Outcome State Fault Refusal :=
  warpReduce (reduceWith sminQ (·.signExtend 64)) d a x s
def execWrmax (d a : Fin 64) (x : Bool) (s : State) : Host.Outcome State Fault Refusal :=
  warpReduce (reduceWith smaxQ (·.signExtend 64)) d a x s
def execWrminz (d a : Fin 64) (x : Bool) (s : State) : Host.Outcome State Fault Refusal :=
  warpReduce (reduceWith uminQ (·.setWidth 64)) d a x s
def execWrmaxz (d a : Fin 64) (x : Bool) (s : State) : Host.Outcome State Fault Refusal :=
  warpReduce (reduceWith umaxQ (·.setWidth 64)) d a x s
def execWrand (d a : Fin 64) (x : Bool) (s : State) : Host.Outcome State Fault Refusal :=
  warpReduce (reduceWith (fun p q => p &&& q) (·.setWidth 64)) d a x s
def execWror (d a : Fin 64) (x : Bool) (s : State) : Host.Outcome State Fault Refusal :=
  warpReduce (reduceWith (fun p q => p ||| q) (·.setWidth 64)) d a x s
def execWrxor (d a : Fin 64) (x : Bool) (s : State) : Host.Outcome State Fault Refusal :=
  warpReduce (reduceWith (fun p q => p ^^^ q) (·.setWidth 64)) d a x s

/-- RNE32 of one FP32 element, with the conditions of decoding and rounding it. -/
def canonical32 (x : Word32) : Word32 × BitVec 5 :=
  let (y, f) := decode32 x
  let (r, g) := rne32 y
  (r, f ||| g)

/-- RNE32 of the sum of two FP32 elements. -/
def add32 (x y : Word32) : Word32 × BitVec 5 :=
  let (a, f) := decode32 x
  let (b, g) := decode32 y
  let (t, h) := a.add false b
  let (r, k) := rne32 t
  (r, f ||| g ||| h ||| k)

/-- A chain of rounded FP32 sums, and the conditions of all its roundings (R107). -/
def sumChain (r : Word32) (rest : List Word32) : Word32 × BitVec 5 :=
  rest.foldl (fun t q => let (u, f) := add32 t.1 q; (u, t.2 ||| f)) (canonical32 r)

def execWrfadd (d a : Fin 64) (x : Bool) (s : State) : Host.Outcome State Fault Refusal :=
  warpReduce (fun r rest => let (t, f) := sumChain r rest; (t.setWidth 64, f)) d a x s

end Sys2Proof.Machine
end

