-- ==== Sys2Proof/Machine/Tsr.lean ====
section
/-! DEFINITION. Tensor shape records (R168, R169), element addresses (R173, R174), and one element or one doubleword
read or written by an engine or by a unit that acts once (R171, R179). -/

namespace Sys2Proof.Machine

/-! ## The record (R168) -/

/-- A slot's contents. -/
abbrev Tsr := BitVec 1024

def Tsr.field (t : Tsr) (lo n : Nat) : Nat := bitsOf t.toNat lo n

def Tsr.base (t : Tsr) : Nat := Tsr.field t 0 64
def Tsr.fmt (t : Tsr) : Nat := Tsr.field t 64 5
def Tsr.rank (t : Tsr) : Nat := Tsr.field t 72 3
def Tsr.space (t : Tsr) : Nat := Tsr.field t 80 2
def Tsr.clip (t : Tsr) : Bool := Tsr.field t 88 1 == 1
def Tsr.bperm (t : Tsr) : Bool := Tsr.field t 89 1 == 1
def Tsr.sparse (t : Tsr) : Bool := Tsr.field t 90 1 == 1
def Tsr.scales (t : Tsr) : Bool := Tsr.field t 91 1 == 1
def Tsr.zpts (t : Tsr) : Bool := Tsr.field t 92 1 == 1
def Tsr.dim (t : Tsr) (i : Nat) : Nat := Tsr.field t (128 + 32 * i) 32
def Tsr.stride (t : Tsr) (i : Nat) : Int := sext 64 (Tsr.field t (384 + 64 * i) 64)
def Tsr.box (t : Tsr) (i : Nat) : Nat := Tsr.field t (832 + 16 * i) 16
def Tsr.pw (t : Tsr) : Nat := Tsr.field t 944 3
def Tsr.pdsh (t : Tsr) : Nat := Tsr.field t 947 5
def Tsr.pssh (t : Tsr) : Nat := Tsr.field t 952 5
def Tsr.szaddr (t : Tsr) : Nat := Tsr.field t 960 64

/-- Elements of the box. -/
def Tsr.total (t : Tsr) : Nat := ((List.range (Tsr.rank t)).map (Tsr.box t)).prod

/-- A format whose elements may straddle bytes. -/
def oddFormat (f : Nat) : Bool := codeBits f == 6 || codeBits f == 3

/-- The permutation fields are within the limits of R169 (R206). -/
def permLegal (pw pdsh pssh : Nat) : Bool := 1 ≤ pw && 4 ≤ pdsh && pdsh + pw ≤ pssh && pssh + pw ≤ 19

/-- The slot is well-formed (R169); `patched` allows a box extent that GBIN has reduced to 0. -/
def Tsr.wellFormed (t : Tsr) (patched : Bool) : Bool :=
  let f := Tsr.field t
  let r := Tsr.rank t
  Tsr.fmt t ≤ 24 && 1 ≤ r
  && f 69 3 == 0 && f 75 5 == 0 && f 82 6 == 0 && f 93 35 == 0 && f 352 32 == 0 && f 957 3 == 0
  && (List.range 7).all (fun i =>
      if i < r then Tsr.dim t i != 0 && (patched || Tsr.box t i != 0)
      else Tsr.dim t i == 0 && Tsr.stride t i == 0 && Tsr.box t i == 0)
  && Tsr.total t ≤ 2 ^ 24
  && (Tsr.space t != 0 || Tsr.base t < 2 ^ 57)
  && (if Tsr.bperm t then permLegal (Tsr.pw t) (Tsr.pdsh t) (Tsr.pssh t) && !oddFormat (Tsr.fmt t)
      else Tsr.pw t == 0 && Tsr.pdsh t == 0 && Tsr.pssh t == 0)

/-- BASE is a multiple of the element's size, for formats of 8 bits or more (R169). -/
def Tsr.aligned (t : Tsr) : Bool := memBits (Tsr.fmt t) < 8 || oddFormat (Tsr.fmt t)
  || Tsr.base t % (memBits (Tsr.fmt t) / 8) == 0

/-! ## Element addresses (R173, R174) -/

/-- The bank permutation of a byte address. -/
def permute (pw pdsh pssh a : Nat) : Nat := a ^^^ (a / 2 ^ pssh % 2 ^ pw * 2 ^ pdsh)

/-- The permutation of a slot where it applies: spaces 1 and 2 with BPERM. -/
def Tsr.perm (t : Tsr) (space a : Nat) : Nat :=
  if (space == 1 || space == 2) && Tsr.bperm t then permute (Tsr.pw t) (Tsr.pdsh t) (Tsr.pssh t) a else a

/-- Where an element's bits lie: space, first byte, bit within it, width. -/
structure Field where
  space : Nat
  addr : Nat
  bit : Nat
  width : Nat
deriving DecidableEq, Repr

/-- The field at a bit position. -/
def Tsr.fieldAt (t : Tsr) (space : Nat) (bitpos : Int) : Field :=
  { space := space, addr := Tsr.perm t space ((bitpos / 8) % 2 ^ 64).toNat, bit := (bitpos % 8).toNat,
    width := memBits (Tsr.fmt t) }

/-- The element at coordinates. -/
def Tsr.elem (t : Tsr) (x : List Int) : Field :=
  let e : Int := ((List.range (Tsr.rank t)).map fun i => x.getD i 0 * Tsr.stride t i).sum
  Tsr.fieldAt t (Tsr.space t) (8 * (Tsr.base t : Int) + memBits (Tsr.fmt t) * e)

/-- The dense element `k` from address `d` in a space. -/
def Tsr.dense (t : Tsr) (space d k : Nat) : Field :=
  Tsr.fieldAt t space (8 * (d : Int) + memBits (Tsr.fmt t) * k)

def Tsr.inside (t : Tsr) (x : List Int) : Bool :=
  (List.range (Tsr.rank t)).all fun i => decide (0 ≤ x.getD i 0) && decide (x.getD i 0 < Tsr.dim t i)

/-- The box index of a dense index, dimension 0 varying fastest. -/
def Tsr.boxIndex (t : Tsr) (k : Nat) : List Nat :=
  (List.range (Tsr.rank t)).map fun i =>
    k / ((List.range i).map (Tsr.box t)).prod % Tsr.box t i

/-- Coordinates of a box index, from the captured c. -/
def Tsr.coords (t : Tsr) (c : List Int) (b : List Nat) : List Int :=
  (List.range (Tsr.rank t)).map fun i => c.getD i 0 + b.getD i 0

/-! ## Fields in memory (R154, R179) -/

/-- Where the bytes of a field land: one target for whole bytes, else one for each byte. -/
def State.byteTargets (s : State) (a : Agent) (space : Nat) (w : Bool) : List Nat →
    State × Except (Cause × Word64) (List Target)
  | [] => (s, .ok [])
  | ea :: rest =>
    match s.reach a space ea 1 1 (!w) w with
    | (s', .fails c) => (s', .error (c, BitVec.ofNat 64 ea))
    | (s', .at_ loc kind peer) =>
      match s'.byteTargets a space w rest with
      | (s'', .error e) => (s'', .error e)
      | (s'', .ok ts) => (s'', .ok ({ loc := loc, n := 1, kind := kind, peer := peer } :: ts))

def Field.whole (f : Field) : Bool := f.bit == 0 && f.width % 8 == 0
def Field.bytes (f : Field) : Nat := ceilDiv (f.bit + f.width) 8

def State.fieldTargets (s : State) (a : Agent) (f : Field) (w : Bool) :
    State × Except (Cause × Word64) (List Target) :=
  if f.whole then
    match s.reach a f.space f.addr (f.width / 8) 1 (!w) w with
    | (s', .fails c) => (s', .error (c, BitVec.ofNat 64 f.addr))
    | (s', .at_ loc kind peer) => (s', .ok [{ loc := loc, n := f.width / 8, kind := kind, peer := peer }])
  else s.byteTargets a f.space w ((List.range f.bytes).map (f.addr + ·))

/-- The bits of a field that has been found, and whether it holds poison. -/
def State.readField (s : State) (a : Agent) (f : Field) (ts : List Target) : State × Nat × Bool :=
  let (s', bs) := s.readTargets a ts
  (s', bytesToNat bs / 2 ^ f.bit % 2 ^ f.width, ts.any fun t => s.poisoned t.loc t.n)

/-- The part of a field that byte `i` holds: first bit in the byte, width, value. -/
def Field.part (f : Field) (v i : Nat) : Nat × Nat × Nat :=
  let lo := max f.bit (8 * i)
  let hi := min (f.bit + f.width) (8 * i + 8)
  (lo - 8 * i, hi - lo, v / 2 ^ (lo - f.bit))

def State.writeParts (s : State) (a : Agent) (f : Field) (v : Nat) (bad : Bool) : Nat → List Target → State
  | _, [] => s
  | i, t :: ts =>
    let (o, n, x) := f.part v i
    (s.writeBitsAt a t.kind t.loc o n x bad).writeParts a f v bad (i + 1) ts

/-- A masked write of the field alone; a poisoned value leaves its mark. -/
def State.writeField (s : State) (a : Agent) (f : Field) (ts : List Target) (v : Nat) (bad : Bool) : State :=
  if f.whole then ts.foldl (fun s t => s.writeAt a t.kind t.loc (natToBytes t.n v) bad) s
  else s.writeParts a f v bad 0 ts

/-! ## Units that make one access (R171) -/

/-- An access of `n` bytes made once by the issuing unit: it waits, stalls, traps or goes on at the place found. -/
def State.onceAt (s : State) (space : Nat) (ea : Word64) (n align : Nat) (r w : Bool)
    (go : State → Nat → Nat → State) : State :=
  let p := s.warp
  let pages := if space = 0 then [ea.toNat / 4096] else []
  if p.logHolds pages || s.acquiring then s.hold
  else match s.reach p.agent space ea.toNat n align r w with
    | (s', .fails .pagefault) => s'.pageFaulted ea
    | (s', .fails c) => s'.trap c
    | (s', .at_ loc kind _) =>
      let dry := s'.heldByTokens p.site [(kind, loc, n)]
      if !dry.isEmpty then s.holdDry dry
      else if r && s'.passesHeld p.uid loc n then s.hold
      else go (s'.chargeAll p.ctx p.site [(kind, loc, n)]) loc kind

end Sys2Proof.Machine
end

