-- ==== Sys2Proof/Machine/Engine.lean ====
section
/-! DEFINITION. Engine commands: counters, the command graph, faults that wait for a WAITC, and the elements of the
copy commands (R175–R188). -/

namespace Sys2Proof.Machine

/-! ## Counters (R183) -/

/-- CNT of a class. -/
def Warp.cnt (w : Warp) (c : Fin 4) : Nat := (w.out.filter (·.cls == c)).length

def State.command? (s : State) (k : Nat) : Option Command := s.cmds.find? (·.id == k)

def State.mapCommand (s : State) (k : Nat) (f : Command → Command) : State :=
  { s with cmds := s.cmds.map fun c => if c.id == k then f c else c }

/-- The command leaves the engine and its gang's stream: it has finished. It leaves its counter when it retires. -/
def State.dropCommand (s : State) (c : Command) : State :=
  let s := s.mapWarp c.warp fun w => { w with out := w.out.map fun o => if o.cmd == c.id then { o with finished := true } else o }
  let s := s.mapGang c.gang fun g => { g with mx := { g.mx with
    stream := g.mx.stream.filter (· != c.id)
    headSince := if g.mx.stream.head? = some c.id then s.clock.toNat else g.mx.headSince
    age := if g.mx.stream.head? = some c.id then 0 else g.mx.age } }
  { s with cmds := s.cmds.filter (·.id != c.id)
           fabric := { s.fabric with tx := s.fabric.tx.filter fun t => match t.kind with
             | .command k _ => k != c.id
             | .lane _ _ _ _ _ _ => true } }

/-- The registers that a command holds empty go full as they are. -/
def State.releasePend (s : State) (c : Command) : State :=
  match c.pend with
  | none => s
  | some k => s.mapWarp c.warp fun w => { w with pend := w.pend.map fun p =>
      if p.id == k then { p with ready := true } else p }

/-! ## The graph (R186, R188) -/

def Gang.node (g : Gang) (n : Nat) : Node := g.nodes.getD n Node.free

def State.mapNode (s : State) (g n : Nat) (f : Node → Node) : State :=
  s.mapGang g fun h => { h with nodes := h.nodes.modify n f }

/-- A count decreases; at 0 the underflow bit is set instead. -/
def Node.decrease (n : Node) : Node := if n.count = 0 then { n with under := true } else { n with count := n.count - 1 }

/-- A free node; its underflow bit stays (log 20). -/
def Node.freed (n : Node) : Node := { Node.free with under := n.under }

/-- A node becomes free, and whoever waits in a GRESET for that goes on (R188). -/
def State.freeNode (s : State) (g n : Nat) : State :=
  let free := fun w : Warp => if w.gang == g then
    { w with pend := w.pend.map fun p => if p.kind == .node n then { p with ready := true } else p } else w
  let s := s.mapNode g n Node.freed
  { s with warp := free s.warp, others := s.others.map free }

/-- A finished node: each successor's count decreases and the node is free. -/
def State.completeNode (s : State) (g n : Nat) : State :=
  ((((s.gang g).node n).succ).foldl (fun s b => s.mapNode g b Node.decrease) s).freeNode g n

/-- Held and released nodes are cancelled along every edge: their commands retire with no effect and no fault. -/
def State.cancelNodes : Nat → State → Nat → List Nat → State
  | 0, s, _, _ => s
  | _, s, _, [] => s
  | fuel + 1, s, g, n :: rest =>
    let d := (s.gang g).node n
    match d.state with
    | .held | .released =>
      let s := match d.cmd.bind s.command? with
        | some c => (s.dropCommand c).releasePend c
        | none => s
      State.cancelNodes fuel (s.freeNode g n) g (rest ++ d.succ)
    | _ => State.cancelNodes fuel s g rest

/-- A node's successors are cancelled and it is free. -/
def State.failNode (s : State) (g n : Nat) : State :=
  State.cancelNodes 4096 (s.freeNode g n) g ((s.gang g).node n).succ

/-- A command has finished with its effect; one some of whose writes a page lock holds has not, until they are performed
(R165, R185, R187). -/
def State.endCommand (s : State) (c : Command) : State :=
  if s.holdsFor (.command c.id) then s.mapCommand c.id fun d => { d with phase := .draining }
  else
    let s := (s.dropCommand c).releasePend c
    match c.node with
    | some n => s.completeNode c.gang n
    | none => s

/-! ## Engine faults (R181, R216) -/

/-- A command stops: its fault is held for its warp, its successors are cancelled, and a gang's matrix stream stops. One some
of whose writes a page lock holds stops when they have been performed (R165, R185). -/
def State.engineFault (s : State) (c : Command) (cause : Cause) (addr : Word64) : State :=
  if s.holdsFor (.command c.id) then s.mapCommand c.id fun d => { d with phase := .failing cause addr }
  else
  let s := (s.dropCommand c).releasePend c
  let s := s.mapWarp c.warp fun w => { w with
    heldFaults := w.heldFaults ++ [{ cls := c.cls, seq := c.seq, pc := c.pc, cause := cause, addr := addr }] }
  let s := if c.cls = 2 then s.mapGang c.gang fun g => { g with mx := { g.mx with stopped := true } } else s
  match c.node with
  | some n => s.failNode c.gang n
  | none => s

/-- What stops a command. -/
inductive CmdStop where
  | fault (c : Cause) (addr : Word64)
  | page (va : Word64)
deriving DecidableEq, Repr

def stopOf (e : Cause × Word64) : CmdStop := if e.1 = .pagefault then .page e.2 else .fault e.1 e.2

/-- A page fault pauses the command until the supervisor answers its record (R180). -/
def State.pauseCommand (s : State) (c : Command) (va : Word64) : State :=
  let r := { FaultRecord.empty with cause := some .pagefault, engine := true, ctx := c.ctx,
                                    gangid := (s.gang c.gang).index, addr := va, cmdpc := c.pc, pc := c.pc }
  (s.postTagged r).mapCommand c.id fun d => { d with phase := .paused s.nextTag va false }

/-- The command is stopped by a fault, or paused by a page fault. -/
def State.stopCommand (s : State) (c : Command) : CmdStop → State
  | .fault cause addr => s.engineFault c cause addr
  | .page va => s.pauseCommand c va

/-- The engine's agent for a command: the issuing warp's gang and workgroup, at the gang's site. -/
def State.engineAgent (s : State) (c : Command) : Agent :=
  let g := s.gang c.gang
  { ctx := c.ctx, gang := c.gang, wg := ((s.findWarp c.warp).map (·.wg)).getD 0, site := g.site,
    units := engineUnits g.site g.cluster, core := none, origin := .command c.id }

/-! ## Issue of a command (R175, R178, R186) -/

/-- The node fields of a unit: none without the flag; node 0 with no predecessors without HSCH (R176). -/
def nodeOf (g : Bool) (h : Hints) : Option (Nat × Nat) :=
  if g then some (bitsOf (h.hsch.getD 0).toNat 0 8, bitsOf (h.hsch.getD 0).toNat 8 8) else none

/-- The node checks of R186. -/
def State.nodeFault (s : State) (node : Option (Nat × Nat)) : Option Cause :=
  match node with
  | none => none
  | some (n, _) =>
    let ns := s.myGang.nodes
    if ns.length ≤ n || (ns.getD n Node.free).state != .free then some .range else none

/-- A matrix command enters its gang's stream (R193). -/
def State.enterStream (s : State) (g k : Nat) : State :=
  s.mapGang g fun h => { h with mx := { h.mx with
    headSince := if h.mx.stream.isEmpty then s.clock.toNat else h.mx.headSince
    stream := h.mx.stream ++ [k] } }

/-- A command of the issuing warp joins its counter and the queue, its gang's stream or a graph node. -/
def State.newCommand (s : State) (cls : Fin 4) (kind : CmdKind) (node : Option (Nat × Nat)) (pend : Option Nat) :
    State :=
  let w := s.warp
  let c : Command :=
    { id := s.nextUid, warp := w.uid, gang := w.gang, ctx := w.ctx, cls := cls, seq := w.issued[cls], pc := w.frag.pc,
      node := node.map (·.1), kind := kind, phase := if node.isSome then .node else .queued, entered := s.nextUid, done := 0,
      patched := false, pend := pend }
  let s : State := { s with
    nextUid := s.nextUid + 1, cmds := s.cmds ++ [c]
    warp := { w with out := w.out ++ [{ cmd := c.id, cls := cls, finished := false }],
                     issued := w.issued.set cls (w.issued[cls] + 1) } }
  match node with
  | some (n, preds) =>
    s.mapNode w.gang n fun d => { d with state := .held, count := preds, succ := [], cmd := some c.id }
  | none => if cls = 2 then s.enterStream w.gang c.id else s

/-- The first cause of a list of checks. -/
def firstFault (cs : List (Option Cause)) : Option Cause := cs.findSome? id

/-- A command issues: its checks in order, then a wait while its class is full, a metered class is dry or an earlier
store of the warp is not performed (its issue is a release, R185), then it enters. -/
def State.issueCommand (s : State) (cls : Fin 4) (checks : List (Option Cause)) (meters : List Nat) (kind : CmdKind)
    (node : Option (Nat × Nat)) : State :=
  match firstFault (checks ++ [s.nodeFault node]) with
  | some c => s.trap c
  | none =>
    let dry := s.heldBy meters
    if !dry.isEmpty then s.holdDry dry
    else if Config.classLimit ≤ s.warp.cnt cls || !s.releaseReady then s.hold
    else (s.newCommand cls kind node none).advance

/-! ## Bounds (R175 step 5) -/

def State.fieldFault (s : State) (a : Agent) (f : Field) : Option Cause :=
  match s.spaceCheck a f.space f.addr f.bytes with
  | .error c => some c
  | .ok _ => none

/-- What is wrong with an access, and its address. -/
def State.fieldBreach (s : State) (a : Agent) (f : Field) : Option (Cause × Word64) :=
  (s.fieldFault a f).map fun c => (c, BitVec.ofNat 64 f.addr)

/-- One element of a slot: outside without CLIP, or at an address that its space rejects. -/
def State.elemBreach (s : State) (a : Agent) (t : Tsr) (x : List Int) : Option (Cause × Word64) :=
  if Tsr.inside t x then s.fieldBreach a (Tsr.elem t x)
  else if Tsr.clip t then none
  else some (.range, BitVec.ofNat 64 (Tsr.elem t x).addr)

/-- Every element of the box at coordinates c. -/
def State.boxBreach (s : State) (a : Agent) (t : Tsr) (c : List Int) : Option (Cause × Word64) :=
  (List.range (Tsr.total t)).findSome? fun k => s.elemBreach a t (Tsr.coords t c (Tsr.boxIndex t k))

def State.boxFault (s : State) (a : Agent) (t : Tsr) (c : List Int) : Option Cause :=
  (s.boxBreach a t c).map (·.1)

/-- For TGATHER and TSCATTER coordinate 1 is not known at issue: the other dimensions are checked. -/
def gatherBreach (t : Tsr) (c : List Int) : Option (Cause × Word64) :=
  if Tsr.clip t || (List.range (Tsr.rank t)).all fun i =>
      i == 1 || (decide (0 ≤ c.getD i 0) && decide (c.getD i 0 + Tsr.box t i ≤ Tsr.dim t i)) then none
  else some (.range, BitVec.ofNat 64 (Tsr.elem t c).addr)

/-- Every element of a dense buffer. -/
def State.denseBreach (s : State) (a : Agent) (t : Tsr) (space d : Nat) : Option (Cause × Word64) :=
  (List.range (Tsr.total t)).findSome? fun k => s.fieldBreach a (Tsr.dense t space d k)

/-- A word of an index list. -/
def indexField (space idx i : Nat) : Field := { space := space, addr := (idx + 4 * i) % 2 ^ 64, bit := 0, width := 32 }

def State.indexBreach (s : State) (a : Agent) (t : Tsr) (space idx : Nat) : Option (Cause × Word64) :=
  (List.range (Tsr.box t 1)).findSome? fun i => s.fieldBreach a (indexField space idx i)

def faultUnless (b : Bool) (c : Cause) : Option Cause := if b then none else some c

/-- A slot is well-formed, and its BASE aligned (R169). -/
def slotChecks (t : Tsr) : List (Option Cause) :=
  [faultUnless (Tsr.wellFormed t false) .range, faultUnless (Tsr.aligned t) .align]

/-- The checks of step 5 for a captured command, each over all of its elements (log 87). -/
def State.copyBreaches (s : State) (a : Agent) : CmdKind → List (Option (Cause × Word64))
  | .tload t c sp d | .tstore t c sp d => [s.boxBreach a t c, s.denseBreach a t sp d.toNat]
  | .tgather t c sp d i | .tscatter t c sp d i =>
    [gatherBreach t c, s.denseBreach a t sp d.toNat, s.indexBreach a t sp i.toNat]
  | .tzero t c => [s.boxBreach a t c]
  | .tcopy m n c => [s.boxBreach a n c, s.boxBreach a m c]
  | .push t c _ _ => [s.boxBreach a t c]
  | _ => []

def State.copyBounds (s : State) (a : Agent) (k : CmdKind) : List (Option Cause) :=
  (s.copyBreaches a k).map fun x => x.map (·.1)

/-! ## Elements of the copy commands (R178, R179) -/

/-- An element read, with its poison mark: all zero without a source. -/
def State.readElem (s : State) (a : Agent) (src : Option Field) :
    State × Except (Cause × Word64) (List Target × Nat × Bool) :=
  match src with
  | none => (s, .ok ([], 0, false))
  | some f =>
    match s.fieldTargets a f false with
    | (s', .error e) => (s', .error e)
    | (s', .ok ts) =>
      let (s'', v, bad) := s'.readField a f ts
      (s'', .ok (ts, v, bad))

/-- An element moved. One at a fabric peer is moved at once, as no transaction (log 97). -/
def State.moveElem (s : State) (a : Agent) (src : Option Field) (dst : Field) :
    State × List Target × Option CmdStop :=
  let (s, v) := s.readElem a src
  match v with
  | .error e => (s, [], some (stopOf e))
  | .ok (from_, v, bad) =>
    match s.fieldTargets a dst true with
    | (s', .error e) => (s', [], some (stopOf e))
    | (s', .ok ts) => (s'.writeField a dst ts v bad, from_ ++ ts, none)

/-- The coordinates of a gathered element: coordinate 1 comes from the index list, whose word is a target too. An element at an
address that its space rejects stops the command (log 87). -/
def State.gathered (s : State) (a : Agent) (t : Tsr) (c : List Int) (space idx k : Nat) :
    State × Except CmdStop (List Int × List Target) :=
  let b := Tsr.boxIndex t k
  let f := indexField space idx (b.getD 1 0)
  match s.fieldTargets a f false with
  | (s', .error e) => (s', .error (stopOf e))
  | (s', .ok ts) =>
    let (s'', v, bad) := s'.readField a f ts
    if bad then (s'', .error (.fault .poison (BitVec.ofNat 64 f.addr)))
    else
      let x := (Tsr.coords t c b).set 1 (sext 32 v)
      match s''.elemBreach a t x with
      | some (e, at_) => (s'', .error (.fault e at_))
      | none => (s'', .ok (x, ts))

/-- More targets of a move. -/
def alsoReads (ts : List Target) (r : State × List Target × Option CmdStop) : State × List Target × Option CmdStop :=
  (r.1, ts ++ r.2.1, r.2.2)

/-- Element `k` of a command: what it reads and writes, or what stops it. Elements in a fabric-remote page move at once (log
97). -/
def State.copyElem (s : State) (a : Agent) (kind : CmdKind) (k : Nat) : State × List Target × Option CmdStop :=
  match kind with
  | .tload t c sp d =>
    let x := Tsr.coords t c (Tsr.boxIndex t k)
    s.moveElem a (if Tsr.inside t x then some (Tsr.elem t x) else none) (Tsr.dense t sp d.toNat k)
  | .tstore t c sp d =>
    let x := Tsr.coords t c (Tsr.boxIndex t k)
    if Tsr.inside t x then s.moveElem a (some (Tsr.dense t sp d.toNat k)) (Tsr.elem t x) else (s, [], none)
  | .tgather t c sp d i =>
    match s.gathered a t c sp i.toNat k with
    | (s', .error e) => (s', [], some e)
    | (s', .ok (x, ts)) =>
      alsoReads ts (s'.moveElem a (if Tsr.inside t x then some (Tsr.elem t x) else none) (Tsr.dense t sp d.toNat k))
  | .tscatter t c sp d i =>
    match s.gathered a t c sp i.toNat k with
    | (s', .error e) => (s', [], some e)
    | (s', .ok (x, ts)) =>
      alsoReads ts
        (if Tsr.inside t x then s'.moveElem a (some (Tsr.dense t sp d.toNat k)) (Tsr.elem t x) else (s', [], none))
  | .tzero t c =>
    let x := Tsr.coords t c (Tsr.boxIndex t k)
    if Tsr.inside t x then s.moveElem a none (Tsr.elem t x) else (s, [], none)
  | .tcopy m n c =>
    let b := Tsr.boxIndex n k
    let x := Tsr.coords n c b
    let src := if Tsr.inside n x then some (Tsr.elem n x) else none
    if Tsr.inside m x then s.moveElem a src (Tsr.elem m x)
    else match s.readElem a src with
      | (s', .error e) => (s', [], some (stopOf e))
      | (s', .ok (ts, _, _)) => (s', ts, none)
  | _ => (s, [], none)

/-- `n` elements from `k` on; a block is charged when an element enters it (R302). -/
def State.runElems (s : State) (a : Agent) (kind : CmdKind) : Nat → Nat → List (Nat × Nat) → State × Option CmdStop
  | 0, _, _ => (s, none)
  | n + 1, k, last =>
    match s.copyElem a kind k with
    | (s', _, some e) => (s', some e)
    | (s', ts, none) =>
      let bs := s.blocks a.site (ts.map Target.triple)
      let s' := (bs.filter fun b => !last.contains b).foldl (fun s b => s.charge a.ctx b.1 1) s'
      s'.runElems a kind n (k + 1) bs

/-- The slot that a copy command steps through. -/
def CmdKind.slot : CmdKind → Option Tsr
  | .tload t _ _ _ | .tstore t _ _ _ | .tgather t _ _ _ _ | .tscatter t _ _ _ _ | .tzero t _ | .push t _ _ _ => some t
  | .tcopy _ n _ => some n
  | _ => none

/-- A copy command runs on for one run of dimension 0 (R182). A page fault leaves it at the start of the run. -/
def State.runCopy (s : State) (c : Command) (t : Tsr) : State :=
  let a := s.engineAgent c
  let row := Tsr.box t 0
  let total := Tsr.total t
  let n := min row (total - c.done)
  match s.runElems a c.kind n c.done [] with
  | (s', some (.fault cause addr)) => s'.engineFault c cause addr
  | (_, some (.page va)) => s.pauseCommand c va
  | (s', none) =>
    if total ≤ c.done + n then s'.endCommand c else s'.mapCommand c.id fun d => { d with done := c.done + n }

end Sys2Proof.Machine
end

