-- ==== Sys2Proof/Machine/Locks.lean ====
section
/-! DEFINITION. Line locks, major 0x2C (R238–R248), and the units that act once on a checked global address. -/

namespace Sys2Proof.Machine

/-! ## Units that act on one global address (R240, R250) -/

/-- The access that the check of R240 makes: alignment, and whether write permission is needed. -/
def JobKind.lineCheck : JobKind → Nat × Bool
  | .waitcmp q _ _ _ => (condBytes q, false)
  | _ => (128, true)

/-- The place of the address, or the first failure. -/
def State.linePlace (s : State) (align : Nat) (w : Bool) (ea : Word64) : State × Except Cause Nat :=
  match s.reach s.warp.agent 0 ea.toNat 1 align true w with
  | (s', .fails c) => (s', .error c)
  | (s', .at_ loc kind _) => if kind = 2 ∨ kind = 3 then (s', .error .atomtype) else (s', .ok loc)

/-- A logged request for a lock occupies one of the four slots as well. -/
def LogEntry.asksLock (e : LogEntry) : Bool :=
  match e.job.kind with
  | .llock _ _ | .ltry _ => true
  | _ => false

def Warp.hasSlot (w : Warp) (va : Nat) : Option Nat → Bool
  | some line => w.locks.any (·.line == line)
  | none => w.locks.any (·.va == va)

/-- The checks of R241. The line is not known while the page is not mapped. -/
def Warp.slotFault (w : Warp) (k : JobKind) (va : Nat) (line : Option Nat) : Option Cause :=
  match k with
  | .llock _ _ | .ltry _ =>
    let asked := w.log.filter LogEntry.asksLock
    faultUnless (!(decide (4 ≤ w.locks.length + asked.length) || w.hasSlot va line
      || asked.any fun e => (e.job.ea[(0 : Fin 32)]).toNat == va)) .lockerr
  | .lunlock | .lyield _ _ =>
    match line with
    | some l => faultUnless (w.locks.any fun x => x.held && x.line == l) .lockerr
    | none => none
  | _ => none

/-- A job whose lanes all name one address. -/
def lineJobAt (k : JobKind) (ea : Word64) : Job :=
  { kind := k, space := 0, base := 0, ea := Vector.replicate 32 ea, bits := Vector.replicate 32 0
    data := Vector.replicate 32 0, stack := false }

/-- How the unit ends at its place. -/
inductive LineAnswer where
  | done (v : Word64)
  | later
  | fails (c : Cause)
deriving DecidableEq, Repr

/-- What the unit does at its place for a pending instruction. -/
abbrev LineEffect := State → Nat → Nat → State × LineAnswer

/-- A unit that acts on one global address issues: `blocks` says that its fragment waits for the answer. -/
def State.lineUnit (s : State) (k : JobKind) (op : MemOp) (ea : Word64) (dests : List Reg) (blocks release : Bool)
    (go : LineEffect) : State :=
  let w := s.warp
  let unit : MemUnit := { op := op, hints := w.frag.hints }
  if w.logHolds [ea.toNat / 4096] || s.acquiring || (release && !s.releaseReady) then s.hold
  else match s.linePlace k.lineCheck.1 k.lineCheck.2 ea with
    | (s', .error .pagefault) =>
      match w.slotFault k ea.toNat none with
      | some c => s'.trap c
      | none =>
        ((s'.onWarp fun w => w.addPend .lanes dests [] 0 blocks).logLanes (lineJobAt k ea)
          ((lanesOf w.active).map fun l => (l.val, .pagefault, ea)) unit w.nextPend).advance
    | (s', .error c) => s'.trap c
    | (s', .ok loc) =>
      match w.slotFault k ea.toNat (some (lineOf loc)) with
      | some c => s'.trap c
      | none =>
        match go (s'.onWarp fun w => w.addPend .lanes dests [] 0 blocks) loc w.nextPend with
        | (s'', .done v) => (s''.answer w.uid w.nextPend v).advance
        | (s'', .later) => s''.advance
        | (_, .fails c) => s'.trap c

/-- What a pending instruction waits for changes. -/
def State.setPendKind (s : State) (uid k : Nat) (kind : PendKind) : State :=
  s.mapWarp uid fun w => { w with pend := w.pend.map fun p => if p.id == k then { p with kind := kind } else p }

/-! ## At the slice (R244) -/

/-- When a timeout that starts now runs out; 0 is none. -/
def State.deadlineOf (s : State) (timeout : Nat) : Option Nat :=
  if timeout = 0 then none else some (s.clock.toNat + timeout)

/-- LLOCK and LTRY take a slot and arrive at the line's slice. -/
def lockGo (va timeout : Nat) (try_ : Bool) : LineEffect := fun s loc k =>
  let line := lineOf loc
  let s := (s.setPendKind s.warp.uid k (if try_ then .ltry line else .lock line)).onWarp fun w =>
    { w with locks := w.locks ++ [{ va := va, line := line, held := false, saved := none, left := none }] }
  (s.lockArrive { line := line, va := va, warp := s.warp.uid, pend := k, try_ := try_,
                  deadline := s.deadlineOf timeout }, .later)

/-- LUNLOCK: the slot is free, and the lock passes on. -/
def unlockGo : LineEffect := fun s loc _ =>
  let line := lineOf loc
  ((s.onWarp fun w => { w with locks := w.locks.filter (·.line != line) }).passLock line 0 false, .done 0)

/-- LYIELD: without a queue the holder keeps the lock; else it joins the tail. -/
def yieldGo (timeout : Nat) : LineEffect := fun s loc k =>
  let line := lineOf loc
  let s := s.expireLine line
  match s.lockOf line with
  | none => (s, .done 0)
  | some l =>
    if l.queue.isEmpty then (s, .done 0)
    else
      let me : Waiter := { warp := s.warp.uid, pend := k, deadline := s.deadlineOf timeout }
      let s := (s.setPendKind s.warp.uid k (.lock line)).onWarp fun w =>
        { w with locks := w.locks.map fun x => if x.line == line then { x with held := false } else x }
      ((s.setLock { l with queue := l.queue ++ [me] }).passLock line 0 false, .later)

/-- The state of a lock as LSTAT returns it (R248). -/
def State.lockState (s : State) (line : Nat) : Word64 :=
  match s.lockOf line with
  | none => 0
  | some l =>
    let who := l.holder.bind s.findWarp
    let id := match who with
      | some h => if h.ctx = s.warp.ctx then h.warpid % 2 ^ 15 else 0
      | none => 0
    BitVec.ofNat 64 (id * 2 ^ 32 + min l.queue.length 255 * 2 ^ 8 + l.mark.toNat * 4
      + (l.holder == some s.warp.uid).toNat * 2 + l.holder.isSome.toNat)

def statGo : LineEffect := fun s loc _ =>
  let s := s.expireLine (lineOf loc)
  (s, .done (s.lockState (lineOf loc)))

/-! ## The instructions (R239) -/

/-- The timeout in a register: none for register 0. -/
def Warp.timeout (w : Warp) (b : Fin 64) : Nat := (w.readS b).toNat % 2 ^ 32

def execLlock (a b d : Fin 64) (s : State) : Host.Outcome State Fault Refusal :=
  s.issue { dests := [.s d], srcs := [(.s a, false), (.s b, false)] } fun s =>
    let ea := s.warp.readS a
    let t := s.warp.timeout b
    s.lineUnit (.llock t d) (.llock a b d) ea [.s d] true false (lockGo ea.toNat t false)

def execLtry (a d : Fin 64) (s : State) : Host.Outcome State Fault Refusal :=
  s.issue { dests := [.s d], srcs := [(.s a, false)] } fun s =>
    let ea := s.warp.readS a
    s.lineUnit (.ltry d) (.ltry a d) ea [.s d] true false (lockGo ea.toNat 0 true)

def execLunlock (a : Fin 64) (s : State) : Host.Outcome State Fault Refusal :=
  s.issue { srcs := [(.s a, false)] } fun s =>
    s.lineUnit .lunlock (.lunlock a) (s.warp.readS a) [] false true unlockGo

def execLstat (a d : Fin 64) (s : State) : Host.Outcome State Fault Refusal :=
  s.issue { dests := [.s d], srcs := [(.s a, false)] } fun s =>
    s.lineUnit (.lstat d) (.lstat a d) (s.warp.readS a) [.s d] false false statGo

def execLyield (a b d : Fin 64) (s : State) : Host.Outcome State Fault Refusal :=
  s.issue { dests := [.s d], srcs := [(.s a, false), (.s b, false)] } fun s =>
    let t := s.warp.timeout b
    s.lineUnit (.lyield t d) (.lyield a b d) (s.warp.readS a) [.s d] true true (yieldGo t)

/-! ## Pre-emption (R246) -/

/-- The requests of a warp that wait at a slice: line, address, pending instruction, deadline. -/
def State.lockRequests (s : State) (uid : Nat) : List (Nat × Nat × Option Nat) :=
  (s.locks.flatMap fun l => (l.queue.filter (·.warp == uid)).map fun w => (l.line, w.pend, w.deadline))
  ++ (s.lockWaits.filter fun q => q.warp == uid && !q.try_).map fun q => (q.line, q.pend, q.deadline)

/-- A pre-empted warp's requests leave their queues and are saved in its slots with what remains of their timeouts; those
whose timers have run out have got TIMEOUT before. -/
def State.suspendLocks (s : State) (uid : Nat) : State :=
  let s := ((s.lockRequests uid).map (·.1)).foldl State.expireLine s.expireWaits
  let rs := s.lockRequests uid
  let s : State := { s with
    locks := s.locks.map fun l => { l with queue := l.queue.filter (·.warp != uid) }
    lockWaits := s.lockWaits.filter fun q => !(q.warp == uid && !q.try_)
    cycles := s.cycles.filter fun c => c.all (·.1 != uid) }
  let save := fun x : LockSlot =>
    match rs.find? (·.1 == x.line) with
    | some (_, p, d) => { x with saved := some p, left := d.map (· - s.clock.toNat) }
    | none => x
  s.mapWarp uid fun w => { w with locks := w.locks.map save }

/-- The saved requests of a resumed warp arrive as new ones. -/
def State.resumeLocks (s : State) (w : Warp) : State :=
  (w.locks.filter (·.saved.isSome)).foldl (fun s x =>
    (s.mapWarp w.uid fun w => { w with locks := w.locks.map fun y =>
      if y.line == x.line then { y with saved := none, left := none } else y }).lockArrive
      { line := x.line, va := x.va, warp := w.uid, pend := x.saved.getD 0, try_ := false,
        deadline := x.left.map (s.clock.toNat + ·) }) s

end Sys2Proof.Machine
end

