-- ==== Sys2Proof/Machine/Monitors.lean ====
section
/-! DEFINITION. Condition monitors, major 0x2D (R250–R254). -/

namespace Sys2Proof.Machine

/-- A pending instruction of the issuing warp waits for a monitor, in the table or in the overflow list. -/
def State.arm (s : State) (k loc q : Nat) (c : Word64) (timeout : Nat) : State :=
  let m : Monitor := { id := s.nextUid, warp := s.warp.uid, pend := k, loc := loc, q := q, comparand := c
                       deadline := s.deadlineOf timeout, table := s.monitorRoom loc, checked := s.clock.toNat
                       fired := false }
  ({ s with nextUid := s.nextUid + 1, monitors := s.monitors ++ [m] }).setPendKind s.warp.uid k (.monitor m.id)

/-- The condition is evaluated on the value at the location; the monitor is armed where it does not hold (R251). -/
def waitGo (q : Nat) (c : Word64) (timeout : Nat) : LineEffect := fun s loc k =>
  let s := s.recall (lineOf loc)
  if s.poisoned loc (condBytes q) then (s, .fails .poison)
  else if condHolds q (s.peek loc (condBytes q)) c then (s, .done 0)
  else (s.arm k loc q c timeout, .later)

/-- A monitor disarms, and its instruction gets its status. -/
def State.disarm (s : State) (m : Monitor) (status : Word64) : State :=
  ({ s.answer m.warp m.pend status with monitors := s.monitors.filter (·.id != m.id) }).fillTable

/-- The comparand and the timeout: both zero for register 0 (R250). -/
def execWaitcmp (a b d : Fin 64) (q : Fin 16) (s : State) : Host.Outcome State Fault Refusal :=
  s.issue
    { dests := [.s d], legal := b.val != 63 && q.val ≤ 7
      srcs := (.s a, false) :: if b = 0 then [] else [(.s b, false), (.s (regAt b 1), false)] } fun s =>
    let w := s.warp
    let c := w.readS b
    let t := if b = 0 then 0 else w.timeout (regAt b 1)
    s.lineUnit (.waitcmp q.val c t d) (.waitcmp a b d q) (w.readS a) [.s d] true false (waitGo q.val c t)

end Sys2Proof.Machine
end

