-- ==== Sys2Proof/Machine/Barriers.lean ====
section
/-! DEFINITION. Payload barriers and phase barriers, major 0x2E (R255–R262). -/

namespace Sys2Proof.Machine

/-! ## Payload barriers (R255, R256) -/

/-- A warp takes part in a barrier of its gang, or of one workgroup. -/
def Warp.participates (w : Warp) (gang : Nat) (wg : Option Nat) : Bool :=
  w.live && w.gang == gang && w.live32 != 0 && (match wg with | none => true | some g => w.wg == g)

/-- Every participant has arrived. -/
def State.barrierFull (s : State) (gang : Nat) (b : Barrier) : Bool :=
  s.warps.all fun w => !w.participates gang b.wg || b.arrivals.any (·.warp == w.uid)

/-- The generation may turn out to be one of .fadd: that is the operation of its first warp in order so far, or a participant
before that one has still to arrive (R256). -/
def State.mayAdd (s : State) (gang : Nat) (b : Barrier) : Bool :=
  match b.arrivals with
  | [] => false
  | a :: _ => a.op == 6 || s.warps.any fun w => w.participates gang b.wg && b.arrivals.all (·.warp != w.uid)
      && (decide (w.wg < a.wg) || (w.wg == a.wg && decide (w.index < a.index)))

/-- A pending instruction of the issuing warp accumulates floating-point conditions when it completes, or may (R132). -/
def State.accumulates (s : State) (p : Pending) : Bool :=
  p.floats || (p.kind == .barrier && !p.ready && p.fault.isNone && s.myGang.barriers.any fun b =>
    b.arrivals.any (fun a => a.warp == s.warp.uid && a.pend == p.id) && s.mayAdd s.warp.gang b)

/-- An arrival takes its place by workgroup and warp index. -/
def insertArrival (a : Arrival) : List Arrival → List Arrival
  | [] => [a]
  | b :: t => if a.wg < b.wg || (a.wg == b.wg && a.index < b.index) then a :: b :: t else b :: insertArrival a t

/-- The integer combination of two payloads. -/
def combine64 (op : Nat) (x y : Word64) : Word64 :=
  match op with
  | 0 => x + y
  | 1 => if x.slt y then x else y
  | 2 => if x.slt y then y else x
  | 3 => x &&& y
  | 4 => x ||| y
  | _ => x ^^^ y

/-- The result of a generation and the conditions of its chain, from the payloads in order. -/
def barrierResult (op : Nat) : List Word64 → Word64 × BitVec 5
  | [] => (0, 0)
  | p :: ps =>
    if op = 6 then
      let (r, f) := sumChain (p.setWidth 32) (ps.map (·.setWidth 32))
      (r.setWidth 64, f)
    else (ps.foldl (combine64 op) p, 0)

/-- One arrived warp gets the result, or POISON where a payload was poisoned. -/
def State.answerArrival (s : State) (bad : Bool) (r : Word64) (f : BitVec 5) (a : Arrival) : State :=
  if bad then s.mapWarp a.warp fun w =>
    { w with pend := w.pend.map fun p => if p.id == a.pend then { p with ready := true, fault := some .poison } else p }
  else (s.answer a.warp a.pend r).mapWarp a.warp fun w =>
    { w with pend := w.pend.map fun p => if p.id == a.pend then { p with flags := f, floats := f != 0 } else p }

/-- A generation completes. -/
def State.completeBarrier (s : State) (gang : Nat) (b : Barrier) : State :=
  let (r, f) := barrierResult ((b.arrivals.headD { wg := 0, index := 0, warp := 0, pend := 0, op := 0, payload := 0,
                                                    poisoned := false }).op) (b.arrivals.map (·.payload))
  let bad := b.arrivals.any (·.poisoned)
  let s := s.mapGang gang fun g => { g with barriers := g.barriers.filter fun c => !(c.wg == b.wg && c.gen == b.gen) }
  b.arrivals.foldl (fun s a => s.answerArrival bad r f a) s

/-- The generations of a gang that are full complete. -/
def State.settleBarriers (s : State) (gang : Nat) : State :=
  ((s.gang gang).barriers.filter (s.barrierFull gang)).foldl (fun s b => s.completeBarrier gang b) s

/-- An arrival joins its generation. -/
def joinBarrier (wg : Option Nat) (gen : Nat) (a : Arrival) (bs : List Barrier) : List Barrier :=
  if bs.any fun b => b.wg == wg && b.gen == gen then
    bs.map fun b => if b.wg == wg && b.gen == gen then { b with arrivals := insertArrival a b.arrivals } else b
  else bs ++ [{ wg := wg, gen := gen, arrivals := [a] }]

/-- BARW and BARG: the warp arrives, and its fragment waits for the generation. The arrival is a release (R257). -/
def barrier (whole : Bool) (a d : Fin 64) (q : Fin 16) (s : State) : Host.Outcome State Fault Refusal :=
  s.issue
    { dests := [.s d], srcs := [(.s a, false)], poisonOk := true, legal := q.val ≤ 6
      cond := if s.warp.fused then none else some .illconv } fun s =>
    if !s.releaseReady then s.hold
    else
      let w := s.warp
      let arrival : Arrival := { wg := w.wg, index := w.index, warp := w.uid, pend := w.nextPend, op := q.val
                                 payload := w.readS a, poisoned := w.scalarPoison (.s a) }
      let wg := if whole then none else some w.wg
      let gen := if whole then w.barg else w.barw
      let s := (s.onWarp fun w => w.addPend .barrier [.s d] [] 0 true).onWarp fun w =>
        if whole then { w with barg := w.barg + 1 } else { w with barw := w.barw + 1 }
      ((s.mapGang w.gang fun g => { g with barriers := joinBarrier wg gen arrival g.barriers }).settleBarriers
        w.gang).advance

def execBarw (a d : Fin 64) (q : Fin 16) (s : State) : Host.Outcome State Fault Refusal := barrier false a d q s
def execBarg (a d : Fin 64) (q : Fin 16) (s : State) : Host.Outcome State Fault Refusal := barrier true a d q s

/-! ## Objects of the phase barriers and of the bind table (R258, R264) -/

/-- The window kind of a place that a lock address may name. -/
def kindOf (loc : Nat) : Nat := if loc < hostBase then 0 else 1

/-- A unit that acts on an object once its address is found; a page fault stalls the warp. -/
def State.objectUnit (s : State) (ea : Word64) (align : Nat) (w : Bool) (go : State → Nat → State) : State :=
  if s.warp.logHolds [ea.toNat / 4096] || s.acquiring then s.hold
  else match s.linePlace align w ea with
    | (s', .error .pagefault) => s'.pageFaulted ea
    | (s', .error c) => s'.trap c
    | (s', .ok loc) => go s' loc

/-! ## Phase barriers (R258–R262) -/

/-- The object's bytes written as one write at its point of performance, like an atomic's (R230, R260, R262). -/
def State.writeObject (s : State) (loc phase expect arrived : Nat) : State :=
  let a := s.warp.agent
  let bs := natToBytes 16 (phase + expect * 2 ^ 32 + arrived * 2 ^ 64)
  match s.pageLockOf loc with
  | some p => s.holdWrite p loc a.origin (.bytes bs)
  | none => ((s.recall (lineOf loc)).noteAtomic a (kindOf loc) loc 16).poke loc bs

/-- PBARV: the arrival, as one atomic step. -/
def execPbarv (a b d : Fin 64) (sc : Fin 8) (s : State) : Host.Outcome State Fault Refusal :=
  s.issue { dests := [.s d], srcs := [(.s a, false), (.s b, false)], legal := sc.val ≤ 4 } fun s =>
    let ea := s.warp.readS a
    let c := if b = 0 then 1 else (s.warp.readS b).toNat % 2 ^ 32
    if !s.releaseReady then s.hold
    else s.objectUnit ea 16 true fun s loc =>
      if (s.pageLockOf loc).isSome then s.hold
      else
        let s := s.recall (lineOf loc)
        let v := s.peek loc 16
        let phase := v % 2 ^ 16
        let expect := bitsOf v 32 32
        let arrived := bitsOf v 64 32 + c
        if s.poisoned loc 16 then s.trap .poison
        else if expect = 0 || 2 ^ 24 < expect || bitsOf v 16 16 != 0 || bitsOf v 96 32 != 0 then s.trap .range
        else
          let s := if c = 0 then s
            else s.writeObject loc ((phase + arrived / expect) % 2 ^ 16) expect (arrived % expect)
          s.scalarResult d (BitVec.ofNat 64 ((phase + 1) % 2 ^ 16))

/-- PBARW: a monitor on the phase, without a timeout. -/
def execPbarw (a b : Fin 64) (sc : Fin 8) (s : State) : Host.Outcome State Fault Refusal :=
  s.issue { srcs := [(.s a, false), (.s b, false)], legal := sc.val ≤ 4 } fun s =>
    let ea := s.warp.readS a
    let p := s.warp.readS b
    s.objectUnit ea 16 false fun s loc =>
      let k := s.warp.nextPend
      if s.poisoned loc 16 then s.trap .poison
      else match waitGo 4 p 0 (s.onWarp fun w => w.addPend .lanes [] [] 0 true) loc k with
        | (s', .done v) => (s'.answer s.warp.uid k v).advance
        | (s', _) => s'.advance

/-- PBARINIT: the count is checked at issue, before the address (R262, log 52). -/
def execPbarinit (a b : Fin 64) (s : State) : Host.Outcome State Fault Refusal :=
  s.issue { srcs := [(.s a, false), (.s b, false)] } fun s =>
    let ea := s.warp.readS a
    let n := (s.warp.readS b).toNat % 2 ^ 32
    if n = 0 || 2 ^ 24 < n then s.trap .range
    else s.objectUnit ea 16 true fun s loc =>
      if s.poisoned loc 16 then s.trap .poison else (s.writeObject loc 0 n 0).advance

end Sys2Proof.Machine
end

