-- ==== Sys2Proof/Machine/Convert.lean ====
section
/-! DEFINITION. CVT, major 0x20 (R124–R126). -/

namespace Sys2Proof.Machine

/-- G of R124. -/
def cvtG (sf df : Nat) : Nat := cvtGroup2 sf df / 2

/-- Width of an element in a register: an FP19 element takes its container (R110, R121). -/
def regBits (f : Nat) : Nat := memBits f

/-- Where element g of a group lies: its register and the bit it starts at (R121). -/
def elemSpot (f g : Nat) : Nat × Nat :=
  if f = 20 then (2 * g, 0)
  else
    let e := elemsPerReg2 f / 2
    (g / e, g % e * regBits f)

/-- Element g of the group of registers at `a` in a lane, as a stored value. -/
def groupElem (w : Warp) (a : Fin 64) (f g : Nat) (l : Fin 32) : Nat :=
  let (r, b) := elemSpot f g
  if f = 20 then (w.pair (regAt a r) l).toNat
  else (w.v[regAt a r][l]).toNat / 2 ^ b % 2 ^ regBits f

/-- Register k of a destination group, from the codes of the elements: unused bits are zero. -/
def packReg (f : Nat) (codes : List Nat) (k : Nat) : Word32 :=
  if f = 20 then BitVec.ofNat 32 (codes.getD (k / 2) 0 / 2 ^ (32 * (k % 2)))
  else
    let e := elemsPerReg2 f / 2
    BitVec.ofNat 32 (((List.range e).map fun j => storedOfCode f (codes.getD (k * e + j) 0) * 2 ^ (j * regBits f)).sum)

/-- The zero point of a format: HIMM's, or the default (R51, R124). -/
def zeroPoint (h : Hints) (f : Nat) : Nat :=
  match h.himm with
  | some p => bitsOf p.toNat 0 8
  | none => if isOb f then defaultZero f else 0

/-- HIMM is bound only where a format is offset binary, its other bits zero, and every zero point is below 2^n; HBLK
only where a register converts to a register (R124). -/
def cvtHints (h : Hints) (sf df : Nat) : Bool :=
  (match h.himm with
   | none => true
   | some p => (isOb sf || isOb df) && bitsOf p.toNat 8 14 == 0)
  && (!isOb sf || zeroPoint h sf < 2 ^ codeBits sf) && (!isOb df || zeroPoint h df < 2 ^ codeBits df)
  && (h.hblk.isNone || (cvtRegs sf df sf == 1 && cvtRegs sf df df == 1))

/-- The codes of a converted group, and the conditions of decoding and rounding its elements. -/
def cvtGroup (w : Warp) (a : Fin 64) (sf df rm : Nat) (sat : Bool) (l : Fin 32) : List Nat × BitVec 5 :=
  let zs := zeroPoint w.frag.hints sf
  let zd := zeroPoint w.frag.hints df
  let rs := (List.range (cvtG sf df)).map fun g =>
    let (y, f) := decodeElem sf (codeOfStored sf (groupElem w a sf g l)) zs
    let (c, k) := roundElem y df rm sat zd
    (c, f ||| k)
  (rs.map (·.1), orFlags (rs.map (·.2)))

def execCvt (d a : Fin 64) (sf g : Fin 32) (r : Fin 4) (u x : Bool) (s : State) :
    Host.Outcome State Fault Refusal :=
  let h := s.warp.frag.hints
  let ns := cvtRegs sf g sf
  let nd := cvtRegs sf g g
  let offs := h.elems 1
  s.issue
    { himm := true, hblk := true
      legal := cvtLegal d a sf g && cvtHints h sf g && h.blockFits 1 d && h.blockFits 1 a
      dests := blockRegs d offs nd, srcs := (blockRegs a offs ns).map fun q => (q, x) } fun s =>
    let w := s.warp
    let killed := w.poisonIn (blockRegs a offs ns) &&& w.active
    let lanes := w.active &&& ~~~killed
    let codes := fun o l => if inMask lanes l then cvtGroup w (regAt a o) sf g r u l else ([], 0)
    let flags := orFlags (offs.flatMap fun o => (lanesOf lanes).map fun l => (codes o l).2)
    let writes := offs.flatMap fun o => (List.range nd).map fun k =>
      RegWrite.v (regAt d (o + k)) lanes (lanes32 fun l => packReg g (codes o l).1 k)
    ((s.finish writes flags).killLanes killed 0).advance

end Sys2Proof.Machine
end

