-- ==== Sys2Proof/Machine/Tensor.lean ====
section
/-! DEFINITION. The slot instructions, major 0x22, the copy commands, major 0x23, and WAITC and RDCNT, major 0x25
(R170–R184). -/

namespace Sys2Proof.Machine

/-! ## Slots (R171) -/

/-- A slot written whole, free of poison. -/
def Warp.setSlot (w : Warp) (t : Fin 16) (x : Tsr) : Warp :=
  { w with tsr := w.tsr.set t x, tsrPoison := w.tsrPoison.set t 0 }

/-- The slot with a doubleword replaced. -/
def Tsr.setDword (t : Tsr) (k : Nat) (x : Word64) : Tsr :=
  BitVec.ofNat 1024 (t.toNat - Tsr.field t (64 * k) 64 * 2 ^ (64 * k) + x.toNat * 2 ^ (64 * k))

/-- A doubleword of a slot written; its mark alone clears (R341). -/
def Warp.setSlotDword (w : Warp) (t : Fin 16) (k : Nat) (x : Word64) : Warp :=
  { w with tsr := w.tsr.set t (Tsr.setDword w.tsr[t] k x)
           tsrPoison := w.tsrPoison.set t (w.tsrPoison[t] &&& ~~~((1 : BitVec 16) <<< k)) }

/-- A doubleword of a slot, or a scalar register, takes the mark of what has been copied into it (R341). -/
def Warp.markSlot (w : Warp) (t : Fin 16) (k : Nat) (bad : Bool) : Warp :=
  if bad then { w with tsrPoison := w.tsrPoison.set t (w.tsrPoison[t] ||| ((1 : BitVec 16) <<< k)) } else w

def Warp.markScalar (w : Warp) (r : Fin 64) : Warp :=
  if r = 0 then w else { w with sPoison := w.sPoison.set r true }

/-- TSRLD: the record at the address becomes the slot; a poisoned record leaves it as it is. -/
def execTsrld (t : Fin 16) (c : Fin 64) (p : Fin 4) (s : State) : Host.Outcome State Fault Refusal :=
  s.issue { srcs := [(.s c, false)] } fun s =>
    s.onceAt p.val (s.warp.readS c) 128 128 true false fun s loc kind =>
      if s.poisoned loc 128 then s.trap .poison
      else
        let (s, bs) := s.readAt s.warp.agent kind loc 128
        (s.onWarp fun w => w.setSlot t (BitVec.ofNat 1024 (bytesToNat bs))).advance

def execTsrst (t : Fin 16) (c : Fin 64) (p : Fin 4) (s : State) : Host.Outcome State Fault Refusal :=
  s.issue { srcs := [(.s c, false), (.t t, false)] } fun s =>
    s.onceAt p.val (s.warp.readS c) 128 128 false true fun s loc kind =>
      (s.writeAt s.warp.agent kind loc (natToBytes 128 (s.warp.tsr[t]).toNat)).advance

def execTsrset (t : Fin 16) (c x : Fin 64) (s : State) : Host.Outcome State Fault Refusal :=
  s.issue { srcs := [(.s c, false), (.s x, false)], poisonOk := true } fun s =>
    (s.onWarp fun w =>
      (w.setSlotDword t ((w.readS c).toNat % 16) (w.readS x)).markSlot t ((w.readS c).toNat % 16)
        (w.scalarPoison (.s x) || w.scalarPoison (.s c))).advance

/-- TSRGET never faults: the mark of the doubleword is copied with it (R171, log 86). -/
def execTsrget (t : Fin 16) (c x : Fin 64) (s : State) : Host.Outcome State Fault Refusal :=
  s.issue { dests := [.s x], srcs := [(.s c, false)], poisonOk := true } fun s =>
    let k := (s.warp.readS c).toNat % 16
    let v := BitVec.ofNat 64 (Tsr.field s.warp.tsr[t] (64 * k) 64)
    if (s.warp.tsrPoison[t]).getLsbD k || s.warp.scalarPoison (.s c) then
      (s.onWarp fun w => (w.writeS x v).markScalar x).advance
    else s.scalarResult x v

/-! ## Copy commands (R175–R178) -/

/-- The coordinates: sign-extended for the given registers, zero for the rest (R175). -/
def Warp.coordinates (w : Warp) (c : Fin 64) (n : Nat) : List Int :=
  (List.range n).map fun i => (w.readS (regAt c i)).toInt

/-- The scalar sources of a coordinate group. -/
def coordSources (c : Fin 64) (n : Nat) : List (Reg × Bool) := (List.range n).map fun i => (.s (regAt c i), false)

/-- The token classes that a command can inject into: all for global memory, die-remote for the package scratchpad. -/
def metersOf (spaces : List Nat) : List Nat :=
  if spaces.contains 0 then [0, 1, 2, 3] else if spaces.contains 3 then [0] else []

/-- The field rules of a copy command on slot `t` (R175 step 1). -/
def Warp.copyLegal (w : Warp) (t : Fin 16) (c : Fin 64) (n : Fin 8) : Bool :=
  coordsLegal c n && n.val ≤ Tsr.rank w.tsr[t]

/-- A copy command with a dense buffer; `lists` says that s[x + 1] is the address of an index list. -/
def copyCommand (cls : Fin 4) (lists policy : Bool) (make : Tsr → List Int → Nat → Word64 → Word64 → CmdKind)
    (t : Fin 16) (c : Fin 64) (n : Fin 8) (x : Fin 64) (p : Fin 4) (g : Bool) (s : State) :
    Host.Outcome State Fault Refusal :=
  s.issue
    { hmod := if policy then some policyFields else none
      node := g
      legal := s.warp.copyLegal t c n && (!lists || x.val ≤ 62)
      srcs := (.t t, false) :: coordSources c n.val ++ (.s x, false) :: (if lists then [(.s (regAt x 1), false)] else []) } fun s =>
    let w := s.warp
    let slot := w.tsr[t]
    let d := w.readS x
    let i := w.readS (regAt x 1)
    let kind := make slot (w.coordinates c n.val) p.val d i
    s.issueCommand cls
      (slotChecks slot
        ++ [faultUnless (!lists || 2 ≤ Tsr.rank slot) .range
          , faultUnless (d.toNat % 16 == 0) .align
          , faultUnless (!lists || i.toNat % 4 == 0) .align]
        ++ s.copyBounds w.agent kind)
      (metersOf [Tsr.space slot, p.val]) kind (nodeOf g w.frag.hints)

def execTload (t : Fin 16) (c : Fin 64) (n : Fin 8) (x : Fin 64) (p : Fin 4) (g : Bool) (s : State) :
    Host.Outcome State Fault Refusal :=
  copyCommand 0 false true (fun t c sp d _ => .tload t c sp d) t c n x p g s
def execTstore (t : Fin 16) (c : Fin 64) (n : Fin 8) (x : Fin 64) (p : Fin 4) (g : Bool) (s : State) :
    Host.Outcome State Fault Refusal :=
  copyCommand 0 false true (fun t c sp d _ => .tstore t c sp d) t c n x p g s
def execTgather (t : Fin 16) (c : Fin 64) (n : Fin 8) (x : Fin 64) (p : Fin 4) (g : Bool) (s : State) :
    Host.Outcome State Fault Refusal :=
  copyCommand 1 true false .tgather t c n x p g s
def execTscatter (t : Fin 16) (c : Fin 64) (n : Fin 8) (x : Fin 64) (p : Fin 4) (g : Bool) (s : State) :
    Host.Outcome State Fault Refusal :=
  copyCommand 1 true false .tscatter t c n x p g s

def execTzero (t : Fin 16) (c : Fin 64) (n : Fin 8) (g : Bool) (s : State) : Host.Outcome State Fault Refusal :=
  s.issue { node := g, legal := s.warp.copyLegal t c n, srcs := (.t t, false) :: coordSources c n.val } fun s =>
    let w := s.warp
    let slot := w.tsr[t]
    let kind := CmdKind.tzero slot (w.coordinates c n.val)
    s.issueCommand 0 (slotChecks slot ++ s.copyBounds w.agent kind) (metersOf [Tsr.space slot]) kind
      (nodeOf g w.frag.hints)

/-- Both slots of TCOPY have one format, rank and box (R178). -/
def sameShape (m n : Tsr) : Bool :=
  Tsr.fmt m == Tsr.fmt n && Tsr.rank m == Tsr.rank n && (List.range (Tsr.rank n)).all fun i => Tsr.box m i == Tsr.box n i

def execTcopy (t : Fin 16) (c : Fin 64) (n : Fin 8) (m : Fin 16) (g : Bool) (s : State) :
    Host.Outcome State Fault Refusal :=
  s.issue { node := g, legal := s.warp.copyLegal t c n
            srcs := (.t t, false) :: (.t m, false) :: coordSources c n.val } fun s =>
    let w := s.warp
    let src := w.tsr[t]
    let dst := w.tsr[m]
    let kind := CmdKind.tcopy dst src (w.coordinates c n.val)
    s.issueCommand 0
      (slotChecks src ++ slotChecks dst ++ [faultUnless (sameShape dst src) .range] ++ s.copyBounds w.agent kind)
      (metersOf [Tsr.space src, Tsr.space dst]) kind (nodeOf g w.frag.hints)

/-! ## WAITC and RDCNT (R184) -/

/-- The held faults that WAITC `k` over the first `upto` commands of a class delivers: those that it covers, but for what
an earlier WAITC that still waits covers (R181). -/
def Warp.deliverable (w : Warp) (cls : Fin 4) (upto k : Nat) : List HeldFault :=
  w.heldFaults.filter fun f => f.cls == cls && decide (f.seq < upto) && !w.pend.any fun p =>
    decide (p.id < k) && match p.kind with
      | .waitc c _ n => c == cls && decide (f.seq < n)
      | _ => false

/-- Held faults are delivered; a matrix fault among them ends the STOPPED state of the gang (R216). -/
def State.deliver (s : State) (fs : List HeldFault) : State :=
  let s := s.onWarp fun w => { w with heldFaults := w.heldFaults.filter fun f => !fs.contains f }
  if fs.any (·.cls == 2) then s.mapGang s.warp.gang fun g => { g with mx := { g.mx with stopped := false } } else s

/-- WAITC: satisfied at once, it delivers what it covers; else the fragment waits. -/
def execWaitc (a : Fin 64) (c : Fin 4) (s : State) : Host.Outcome State Fault Refusal :=
  s.issue { srcs := [(.s a, false)] } fun s =>
    let w := s.warp
    let n := (w.readS a).toNat
    let upto := w.issued[c] - n
    if w.cnt c ≤ n then
      match w.deliverable c upto w.nextPend with
      | [] => s.advance
      | f :: more =>
        (s.deliver (f :: more)).raise
          (engineRaised w.frag.pc w.frag.entry w.active (w.frag.fetch + 4) f more.length)
    else (s.onWarp fun w => w.addPend (.waitc c n upto) [] [] 0 true).advance

def execRdcnt (d : Fin 64) (c : Fin 4) (s : State) : Host.Outcome State Fault Refusal :=
  s.issue { dests := [.s d] } fun s => s.scalarResult d (BitVec.ofNat 64 (s.warp.cnt c))

end Sys2Proof.Machine
end

