-- ==== Sys2Proof/Machine/Fabric.lean ====
section
/-! DEFINITION. The fabric instructions at issue, major 0x30 (R314–R322). -/

namespace Sys2Proof.Machine

/-- The target of a PUSH is well-formed (R316). -/
def targetLegal (g : Word64) : Bool :=
  bitsOf g.toNat 12 4 == 0 && bitsOf g.toNat 34 30 == 0 && bitsOf g.toNat 0 12 != 0xFFF

def execPush (t : Fin 16) (c : Fin 64) (n : Fin 8) (x : Fin 64) (g : Bool) (s : State) :
    Host.Outcome State Fault Refusal :=
  s.issue
    { node := g, legal := s.warp.copyLegal t c n && x.val ≤ 62
      srcs := (.t t, false) :: coordSources c n.val ++ [(.s x, false), (.s (regAt x 1), false)] } fun s =>
    let w := s.warp
    let slot := w.tsr[t]
    let kind := CmdKind.push slot (w.coordinates c n.val) (w.readS x) (w.readS (regAt x 1))
    s.issueCommand 3 (slotChecks slot ++ [faultUnless (targetLegal (w.readS x)) .range] ++ s.copyBounds w.agent kind)
      (1 :: metersOf [Tsr.space slot]) kind (nodeOf g w.frag.hints)

/-- The local buffer lies in its space (R142, R318). -/
def State.bufferFault (s : State) (space lva len : Nat) : Option Cause :=
  if space = 0 then faultUnless (lva + len ≤ 2 ^ 57) .range
  else match s.spaceCheck s.warp.agent space lva len with
    | .error c => some c
    | .ok _ => none

/-- PUT and GET at issue (R318). -/
def rangeCopy (make : Nat → Nat → Nat → Word64 → CmdKind) (c x : Fin 64) (p : Fin 4) (g : Bool) (s : State) :
    Host.Outcome State Fault Refusal :=
  s.issue
    { node := g, legal := c.val ≤ 62
      srcs := [(.s c, false), (.s (regAt c 1), false), (.s x, false)] } fun s =>
    let w := s.warp
    let rva := (w.readS c).toNat
    let len := (w.readS (regAt c 1)).toNat
    let lva := w.readS x
    s.issueCommand 3
      [ faultUnless (16 ≤ len && len ≤ 2 ^ 24 && len % 16 == 0) .range
      , faultUnless (lva.toNat % 16 == 0 && rva % 16 == 0) .align
      , s.bufferFault p.val lva.toNat len
      , faultUnless (rva < 2 ^ 57) .range ]
      (1 :: metersOf [p.val]) (make rva len p.val lva) (nodeOf g w.frag.hints)

def execPut (c x : Fin 64) (p : Fin 4) (g : Bool) (s : State) : Host.Outcome State Fault Refusal :=
  rangeCopy .put c x p g s
def execGet (c x : Fin 64) (p : Fin 4) (g : Bool) (s : State) : Host.Outcome State Fault Refusal :=
  rangeCopy .get c x p g s

def execCstep (c : Fin 64) (p : Fin 4) (g : Bool) (s : State) : Host.Outcome State Fault Refusal :=
  s.issue { node := g, srcs := [(.s c, false)] } fun s =>
    let a := s.warp.readS c
    s.issueCommand 3 [faultUnless (a.toNat % 64 == 0) .align] [0, 1, 2, 3] (.cstep p.val a) (nodeOf g s.warp.frag.hints)

/-! ## CSTAT (R322) -/

/-- What a context counts of a peer. -/
def Context.peer (c : Context) (p : Nat) : PeerCount :=
  (c.peers.find? (·.peer == p)).getD { peer := p, fails := 0, retries := 0 }

def Context.setPeer (c : Context) (q : PeerCount) : Context :=
  { c with peers := c.peers.filter (·.peer != q.peer) ++ [q] }

/-- The status word of a peer. The path, and whether there is one, are open: free values (R303, log 58); no path avoids a
failed port while none has failed. -/
def State.peerStatus (s : State) (p : Nat) : Word64 :=
  let q := s.myContext.peer p
  let x := Config.freeWord s.free
  let reach := x.getLsbD 0
  BitVec.ofNat 64 (min q.fails 65535 * 2 ^ 32 + q.retries % 2 ^ 16 * 2 ^ 16 + bitsOf x.toNat 8 8 * 2 ^ 8
    + (reach && x.getLsbD 1 && !s.fabric.failedPorts.isEmpty).toNat * 2 + reach.toNat)

def execCstat (c x : Fin 64) (s : State) : Host.Outcome State Fault Refusal :=
  s.issue { dests := [.s x], srcs := [(.s c, false)] } fun s =>
    let p := (s.warp.readS c).toNat
    if 0xFFF ≤ p then s.trap .range else ({ s with free := s.free + 1 }).scalarResult x (s.peerStatus p)

end Sys2Proof.Machine
end

