-- ==== Sys2Proof/Machine/Graph.lean ====
section
/-! DEFINITION. The command graph, major 0x24, and what GBIN does when it runs (R186–R189). -/

namespace Sys2Proof.Machine

/-- The node that a register names: none where bits [63:8] are not zero or the id is not below N (R186). -/
def State.nodeId (s : State) (x : Word64) : Option Nat :=
  if x.toNat < min 256 s.myGang.nodes.length then some x.toNat else none

/-- GEDGE: an edge from a to b, taken at once where a has completed (R188). -/
def execGedge (c x : Fin 64) (s : State) : Host.Outcome State Fault Refusal :=
  s.issue { srcs := [(.s c, false), (.s x, false)] } fun s =>
    match s.nodeId (s.warp.readS c), s.nodeId (s.warp.readS x) with
    | some a, some b =>
      let na := s.myGang.node a
      let nb := s.myGang.node b
      if a = b ∨ nb.state = .running ∨ nb.state = .free ∨ (na.state ≠ .free ∧ 8 ≤ na.succ.length) then s.trap .range
      else if na.state = .free then (s.mapNode s.warp.gang b Node.decrease).advance
      else (s.mapNode s.warp.gang a fun d => { d with succ := d.succ ++ [b] }).advance
    | _, _ => s.trap .range

def execGrel (c : Fin 64) (s : State) : Host.Outcome State Fault Refusal :=
  s.issue { srcs := [(.s c, false)] } fun s =>
    match s.nodeId (s.warp.readS c) with
    | some a =>
      if (s.myGang.node a).state = .held then
        (s.mapNode s.warp.gang a fun d => { d with state := .released }).advance
      else s.trap .range
    | none => s.trap .range

/-- GRESET: a held or released node is cancelled; a running one is waited for. -/
def execGreset (c : Fin 64) (s : State) : Host.Outcome State Fault Refusal :=
  s.issue { srcs := [(.s c, false)] } fun s =>
    match s.nodeId (s.warp.readS c) with
    | some a =>
      match (s.myGang.node a).state with
      | .held | .released => (State.cancelNodes 4096 s s.warp.gang [a]).advance
      | .free => s.advance
      | .running => (s.onWarp fun w => w.addPend (.node a) [] [] 0 true).advance
    | none => s.trap .range

/-- GBIN enters as a command of class 1; its descriptor is read when it runs (R189). -/
def execGbin (c : Fin 64) (p : Fin 4) (g : Bool) (s : State) : Host.Outcome State Fault Refusal :=
  s.issue { node := g, srcs := [(.s c, false)] } fun s =>
    let a := s.warp.readS c
    s.issueCommand 1
      [faultUnless (a.toNat % 16 == 0) .align]
      (metersOf [p.val]) (.gbin p.val a) (nodeOf g s.warp.frag.hints)

def Node.code (n : Node) : Nat :=
  match n.state with
  | .free => 0
  | .held => 1
  | .released => 2
  | .running => 3

def execGstat (c x : Fin 64) (s : State) : Host.Outcome State Fault Refusal :=
  s.issue { dests := [.s x], srcs := [(.s c, false)] } fun s =>
    match s.nodeId (s.warp.readS c) with
    | some a =>
      let n := s.myGang.node a
      s.scalarResult x (BitVec.ofNat 64 (n.code + n.count * 2 ^ 8 + n.succ.length * 2 ^ 16 + n.under.toNat * 2 ^ 20))
    | none => s.trap .range

/-! ## GBIN running (R189) -/

/-- Bytes read for an engine command and charged, or what stops it; poison is reported at the first byte (log 42). `last` are
the blocks that the byte before lay in. -/
def State.engineBytes (s : State) (a : Agent) (space addr : Nat) : Nat → List (Nat × Nat) → State × Except CmdStop (List Byte)
  | 0, _ => (s, .ok [])
  | n + 1, last =>
    match s.fieldTargets a { space := space, addr := addr % 2 ^ 64, bit := 0, width := 8 } false with
    | (s', .error e) => (s', .error (stopOf e))
    | (s', .ok ts) =>
      if ts.any fun t => s'.poisoned t.loc t.n then (s', .error (.fault .poison (BitVec.ofNat 64 addr)))
      else
        let bk := s'.blocks a.site (ts.map Target.triple)
        let s' := (bk.filter fun b => !last.contains b).foldl (fun s b => s.charge a.ctx b.1 1) s'
        let (s'', bs) := s'.readTargets a ts
        match s''.engineBytes a space (addr + 1) n bk with
        | (s3, .error e) => (s3, .error e)
        | (s3, .ok rest) => (s3, .ok (bs ++ rest))

/-- The node may be patched in dimension `d`: held, a command of major 0x23 or PUSH, d below its rank. -/
def State.patchable (s : State) (g n d : Nat) : Bool :=
  let x := (s.gang g).node n
  decide (n < (s.gang g).nodes.length) && x.state == .held
  && match (x.cmd.bind s.command?).bind fun c => c.kind.slot with
     | some t => d < Tsr.rank t
     | none => false

/-- A box extent replaced. -/
def Tsr.setBox (t : Tsr) (i n : Nat) : Tsr :=
  BitVec.ofNat 1024 (t.toNat - Tsr.box t i * 2 ^ (832 + 16 * i) + n % 2 ^ 16 * 2 ^ (832 + 16 * i))

/-- The slot whose box GBIN patches: the captured slot N, for both slots of a TCOPY. -/
def CmdKind.patch (i n : Nat) : CmdKind → CmdKind
  | .tload t c sp d => .tload (Tsr.setBox t i n) c sp d
  | .tstore t c sp d => .tstore (Tsr.setBox t i n) c sp d
  | .tgather t c sp d x => .tgather (Tsr.setBox t i n) c sp d x
  | .tscatter t c sp d x => .tscatter (Tsr.setBox t i n) c sp d x
  | .tzero t c => .tzero (Tsr.setBox t i n) c
  | .tcopy m t c => .tcopy (Tsr.setBox m i n) (Tsr.setBox t i n) c
  | .push t c g o => .push (Tsr.setBox t i n) c g o
  | k => k

/-- One node patched, and released where asked. -/
def State.patchNode (s : State) (g d : Nat) (release : Bool) (n count : Nat) : State :=
  let s := match ((s.gang g).node n).cmd with
    | some k => s.mapCommand k fun c => { c with kind := c.kind.patch d count, patched := true }
    | none => s
  if release then s.mapNode g n fun x => { x with state := .released } else s

/-- The keys of the array: `kw` bytes each. -/
def keysOf (kw : Nat) : Nat → List Byte → List Nat
  | 0, _ => []
  | n + 1, bs => bytesToNat (bs.take kw) :: keysOf kw n (bs.drop kw)

/-- GBIN runs: descriptor, checks, keys, then every patch and release in one step. What the record of a failed check names is
the model's choice (log 42). -/
def State.runGbin (s : State) (c : Command) (space : Nat) (addr : Word64) : State :=
  let a := s.engineAgent c
  match s.engineBytes a space addr.toNat 16 [] with
  | (s', .error e) => s'.stopCommand c e
  | (s', .ok d) =>
    let keys := bytesToNat (d.take 8)
    let kcount := bytesToNat ((d.drop 8).take 4)
    let b := bytesToNat ((d.drop 12).take 2)
    let f := bytesToNat ((d.drop 14).take 1)
    let dsel := bytesToNat ((d.drop 15).take 1)
    let kw := 2 ^ (f % 4)
    if 65535 < kcount ∨ b = 0 ∨ 256 < b ∨ f % 4 = 3 ∨ f / 4 % 32 ≠ 0 ∨ 8 ≤ dsel then s'.engineFault c .range addr
    else if keys % kw ≠ 0 then s'.engineFault c .align (BitVec.ofNat 64 keys)
    else match s'.engineBytes a space (addr.toNat + 16) b [] with
      | (s'', .error e) => s''.stopCommand c e
      | (s'', .ok ns) =>
        let ids := ns.map BitVec.toNat
        if !(ids.all fun n => s''.patchable c.gang n dsel) || !ids.Nodup then s''.engineFault c .range addr
        else match s''.engineBytes a space keys (kw * kcount) [] with
          | (s3, .error e) => s3.stopCommand c e
          | (s3, .ok ks) =>
            let vals := keysOf kw kcount ks
            let s4 := (List.range b).foldl (fun s j =>
              s.patchNode c.gang dsel (f / 128 == 1) (ids.getD j 0) (vals.count j)) s3
            s4.endCommand c

end Sys2Proof.Machine
end

