-- ==== Sys2Proof/Machine/Matrix.lean ====
section
/-! DEFINITION. The matrix commands at issue, majors 0x26 to 0x28 (R190–R208, R212–R215). -/

namespace Sys2Proof.Machine

/-! ## Issue (R191, R192) -/

/-- The commands that hold an entry of the reservation table of the gang's cluster. -/
def State.reserved (s : State) (g : Gang) : Nat :=
  (s.cmds.filter fun c => c.cls == 2 && c.phase != .node &&
    (let h := s.gang c.gang; h.phase == .resident && h.site == g.site && h.cluster == g.cluster)).length

/-- What a matrix command needs to issue: a fused warp (R192). -/
def matrixNeed (s : State) (g : Bool) (srcs : List (Reg × Bool)) : Need :=
  { node := g, cond := if s.warp.fused then none else some .illconv, srcs := srcs }

/-- The gang has a matrix context, and the tile lies in its allotment (R191, R36). -/
def State.tileFault (s : State) (tile : Nat) : Option Cause := faultUnless (decide (tile < s.myGang.acc)) .range

/-- A matrix command that has passed its checks enters, or waits while its class or the table is full. -/
def State.issueMatrix (s : State) (checks : List (Option Cause)) (meters : List Nat) (kind : CmdKind) (g : Bool) :
    State :=
  if (firstFault checks).isNone && Config.reservationEntries ≤ s.reserved s.myGang then s.hold
  else s.issueCommand 2 checks meters kind (nodeOf g s.warp.frag.hints)

/-! ## MLDS, MSWAP, MSHAPE, MCFG (R200, R201, R205, R206) -/

/-- The coordinates of MLDS and MDRAIN: zero for register 0, else one for each dimension (R201). -/
def Warp.matrixCoords (w : Warp) (t : Tsr) (c : Fin 64) : List Int :=
  if c = 0 then [] else w.coordinates c (Tsr.rank t)

/-- The registers that hold them. -/
def matrixSources (t : Tsr) (c : Fin 64) : List (Reg × Bool) :=
  if c = 0 then [] else coordSources c (min (Tsr.rank t) (64 - c.val))

/-- The coordinate registers exist (R201). -/
def coordsExist (t : Tsr) (c : Fin 64) : Bool := c == 0 || c.val + Tsr.rank t ≤ 64

/-- Every box extent from dimension 2 on is 1. -/
def flatBox (t : Tsr) : Bool := (List.range (Tsr.rank t)).all fun i => decide (i < 2) || Tsr.box t i == 1

def execMlds (t : Fin 16) (c : Fin 64) (g : Bool) (s : State) : Host.Outcome State Fault Refusal :=
  let slot := s.warp.tsr[t]
  s.issue (matrixNeed s g ((.t t, false) :: matrixSources slot c)) fun s =>
    let x := s.warp.matrixCoords slot c
    s.issueMatrix
      [ s.tileFault 0
      , faultUnless (Tsr.wellFormed slot false && 2 ≤ Tsr.rank slot && Tsr.fmt slot ≤ 19) .range
      , faultUnless (Tsr.box slot 0 ≤ 256) .range
      , faultUnless (flatBox slot) .range
      , faultUnless (!Tsr.sparse slot || Tsr.box slot 1 % 2 == 0) .range
      , faultUnless (coordsExist slot c) .range
      , faultUnless (!Tsr.zpts slot || isOb (Tsr.fmt slot)) .range
      , faultUnless (Tsr.aligned slot) .align
      , faultUnless (!(Tsr.scales slot || Tsr.zpts slot || Tsr.sparse slot) || Tsr.szaddr slot % 128 == 0) .align
      , s.boxFault s.warp.agent slot x ]
      (metersOf [Tsr.space slot]) (.mlds slot x) g

def execMswap (g : Bool) (s : State) : Host.Outcome State Fault Refusal :=
  s.issue (matrixNeed s g []) fun s => s.issueMatrix [s.tileFault 0] [] .mswap g

/-- The masks that MSHAPE accepts (R200). -/
def shapeLegal (x : Word64) : Bool := [1, 2, 4, 8, 3, 12, 15].contains x.toNat

def execMshape (c : Fin 64) (g : Bool) (s : State) : Host.Outcome State Fault Refusal :=
  s.issue (matrixNeed s g [(.s c, false)]) fun s =>
    let x := s.warp.readS c
    s.issueMatrix [s.tileFault 0, faultUnless (shapeLegal x) .range] [] (.mshape (x.setWidth 4)) g

/-- The configuration is legal (R206). -/
def configLegal (x : Nat) : Bool :=
  let f := bitsOf x 0 5
  x < 2 ^ 25 && f ≤ 19 && bitsOf x 5 3 == 0 && (bitsOf x 10 1 == 0 || isOb f)
  && (if bitsOf x 11 1 = 1 then permLegal (bitsOf x 12 3) (bitsOf x 15 5) (bitsOf x 20 5) && !oddFormat f
      else bitsOf x 12 13 == 0)

def execMcfg (c : Fin 64) (g : Bool) (s : State) : Host.Outcome State Fault Refusal :=
  s.issue (matrixNeed s g [(.s c, false)]) fun s =>
    let x := s.warp.readS c
    s.issueMatrix [s.tileFault 0, faultUnless (configLegal x.toNat) .range] [] (.mcfg (x.setWidth 25)) g

/-! ## Passes (R208) -/

/-- A pass at issue: mode 0 MMUL, 1 MMULZ, 2 MMULT. -/
def pass (mode : Nat) (k : Fin 8) (c x : Fin 64) (p : Fin 4) (g : Bool) (s : State) :
    Host.Outcome State Fault Refusal :=
  s.issue { matrixNeed s g [(.s c, false), (.s x, false)] with legal := p != 0, level2 := mode == 2 } fun s =>
    let rows := (s.warp.readS c).toNat
    let d := s.warp.readS x
    s.issueMatrix
      [ s.tileFault k.val
      , faultUnless (1 ≤ rows && rows ≤ 64) .range
      , faultUnless (d.toNat % 16 == 0) .align
      , s.fieldFault s.warp.agent { space := p.val, addr := d.toNat, bit := 0, width := 8 } ]
      (metersOf [p.val]) (.mmul mode k.val rows p.val d) g

def execMmul (k : Fin 8) (c x : Fin 64) (p : Fin 4) (g : Bool) (s : State) : Host.Outcome State Fault Refusal :=
  pass 0 k c x p g s
def execMmulz (k : Fin 8) (c x : Fin 64) (p : Fin 4) (g : Bool) (s : State) : Host.Outcome State Fault Refusal :=
  pass 1 k c x p g s
def execMmult (k : Fin 8) (c x : Fin 64) (p : Fin 4) (g : Bool) (s : State) : Host.Outcome State Fault Refusal :=
  pass 2 k c x p g s

/-! ## Results (R212–R215) -/

def execMdrain (k : Fin 8) (t : Fin 16) (c : Fin 64) (m g : Bool) (s : State) : Host.Outcome State Fault Refusal :=
  let slot := s.warp.tsr[t]
  s.issue { matrixNeed s g ((.t t, false) :: matrixSources slot c) with hmod := some roundFields } fun s =>
    let x := s.warp.matrixCoords slot c
    let h := s.warp.frag.hints
    s.issueMatrix
      [ s.tileFault k.val
      , faultUnless (Tsr.wellFormed slot false && 2 ≤ Tsr.rank slot) .range
      , faultUnless (Tsr.box slot 0 ≤ 256 && Tsr.box slot 1 ≤ 64 && flatBox slot) .range
      , faultUnless (coordsExist slot c) .range
      , faultUnless (!Tsr.zpts slot || isOb (Tsr.fmt slot)) .range
      , faultUnless (Tsr.aligned slot) .align
      , faultUnless (!Tsr.zpts slot || Tsr.szaddr slot % 128 == 0) .align
      , s.boxFault s.warp.agent slot x ]
      (metersOf [Tsr.space slot]) (.mdrain k.val slot x m h.rm h.sat) g

def execMzero (k : Fin 8) (g : Bool) (s : State) : Host.Outcome State Fault Refusal :=
  s.issue (matrixNeed s g []) fun s => s.issueMatrix [s.tileFault k.val] [] (.mzero k.val) g

/-- A matrix command that writes registers: they go empty until it takes effect; `floats` says that conditions come with
them. -/
def State.issueReader (s : State) (checks : List (Option Cause)) (kind : CmdKind) (dests : List Reg) (floats : Bool) :
    State :=
  match firstFault checks with
  | some c => s.trap c
  | none =>
    if !s.releaseReady || Config.classLimit ≤ s.warp.cnt 2 || Config.reservationEntries ≤ s.reserved s.myGang then s.hold
    else
      let k := s.warp.nextPend
      let s := s.onWarp fun w => (w.addPend (.command s.nextUid) dests [] 0 false).setFloats k floats
      (s.newCommand 2 kind none (some k)).advance

/-- MRDROW: a row's chunks into the registers of a block, pairs in mode 0 (R214). -/
def execMrdrow (k j : Fin 8) (c b : Fin 64) (m : Fin 4) (s : State) : Host.Outcome State Fault Refusal :=
  let h := s.warp.frag.hints
  let step := if m = 0 then 2 else 1
  let offs := h.elems step
  s.issue
    { matrixNeed s false [(.s c, false)] with
      hblk := true
      legal := m != 3 && h.blockFits step b && (m != 0 || pairBase b) && decide (j.val + offs.length ≤ 8)
      dests := blockRegs b offs step } fun s =>
    let row := (s.warp.readS c).toNat
    s.issueReader [s.tileFault k.val, faultUnless (row < 64) .range]
      (.mrdrow k.val row j.val m.val (offs.map (regAt b)) s.warp.active) (blockRegs b offs step) (m != 0)

def execMstat (c : Fin 64) (s : State) : Host.Outcome State Fault Refusal :=
  s.issue { matrixNeed s false [] with dests := [.s c] } fun s => s.issueReader [s.tileFault 0] (.mstat c) [.s c] false

end Sys2Proof.Machine
end

