-- ==== Sys2Proof/Machine/MatrixRun.lean ====
section
/-! DEFINITION. The effects of matrix commands when the arbiter grants them (R198, R200–R219). -/

namespace Sys2Proof.Machine

/-! ## Reading for the engine -/

/-- The fields read in order, each with its poison mark; a metered block is charged when a field enters it (R302). -/
def State.readMany (s : State) (a : Agent) : List Field → List (Nat × Nat) → State × Except CmdStop (List (Nat × Bool))
  | [], _ => (s, .ok [])
  | f :: fs, last =>
    match s.fieldTargets a f false with
    | (s', .error e) => (s', .error (stopOf e))
    | (s', .ok ts) =>
      let bs := s'.blocks a.site (ts.map Target.triple)
      let s' := (bs.filter fun b => !last.contains b).foldl (fun s b => s.charge a.ctx b.1 1) s'
      let (s'', v, bad) := s'.readField a f ts
      match s''.readMany a fs bs with
      | (s3, .error e) => (s3, .error e)
      | (s3, .ok vs) => (s3, .ok ((v, bad) :: vs))

/-- `n` bytes of a vector. -/
def byteFields (space addr n : Nat) : List Field :=
  (List.range n).map fun i => { space := space, addr := (addr + i) % 2 ^ 64, bit := 0, width := 8 }

/-- The vector, where it is present. -/
def State.readVector (s : State) (a : Agent) (present : Bool) (space addr n : Nat) :
    State × Except CmdStop (List (Nat × Bool)) :=
  if present then s.readMany a (byteFields space addr n) [] else (s, .ok [])

/-! ## The scale and zero-point record (R203) -/

structure SzRecord where
  rsc : Nat
  csc : Nat
  zp : Nat
  meta_ : Nat
  vsel : Nat
  zero : Bool                          -- bytes 33–127 are zero
deriving DecidableEq, Repr

def SzRecord.ofBytes (bs : List Byte) : SzRecord :=
  let d := fun i => bytesToNat ((bs.drop (8 * i)).take 8)
  { rsc := d 0, csc := d 1, zp := d 2, meta_ := d 3, vsel := bytesToNat ((bs.drop 32).take 1)
    zero := (bs.drop 33).all (· == 0) }

/-- The record of a slot, read in space 0. -/
def State.readRecord (s : State) (a : Agent) (t : Tsr) : State × Except CmdStop SzRecord :=
  match s.engineBytes a 0 (Tsr.szaddr t) 128 [] with
  | (s', .error e) => (s', .error e)
  | (s', .ok bs) => (s', .ok (SzRecord.ofBytes bs))

/-- A zero point is not below 2^n. -/
def zeroTooLarge (f : Nat) (zs : List (Nat × Bool)) : Bool := zs.any fun z => decide (2 ^ codeBits f ≤ z.1)

/-! ## MLDS (R198, R201–R204) -/

/-- Weight formats whose bands hold twice the depth. -/
def narrowWeight (f : Nat) : Bool := [6, 7, 8, 12, 13, 15, 16, 17, 18].contains f

/-- The depth of one band, which is the K-segment of a pass. -/
def bandDepth (f : Nat) (sparse : Bool) : Nat := (if narrowWeight f then 128 else 64) * (if sparse then 2 else 1)

/-- The number of bands in a mask. -/
def bandCount (m : BitVec 4) : Nat := (List.range 4).countP fun b => m.getLsbD b

def Plane.depth (p : Plane) : Nat := bandDepth p.fmt p.sparse
def Plane.kd (p : Plane) : Nat := p.depth * bandCount p.mask

/-- The logical row of compressed row `j` under a metadata code. -/
def sparseRow (code j : Nat) : Nat := 4 * (j / 2) + (if j % 2 = 0 then code % 4 else code / 4 % 4)

/-- The metadata codes of every group and column, keyed 256 x group + column, with poison marks. -/
def metaCodes (cols : Nat) (bytes : List (Nat × Bool)) : List (Nat × Nat × Bool) :=
  (List.range bytes.length).flatMap fun i =>
    let per := ceilDiv cols 2
    let (b, bad) := bytes.getD i (0, false)
    let g := i / per
    let n := 2 * (i % per)
    (n, b % 16) :: (if n + 1 < cols then [(n + 1, b / 16)] else []) |>.map fun x => (256 * g + x.1, x.2, bad)

/-- The fields of the metadata bytes that the loaded columns read. -/
def metaFields (space addr groups cols : Nat) : List Field :=
  (List.range groups).flatMap fun g => byteFields space (addr + 128 * g) (ceilDiv cols 2)

def codeOf (codes : List (Nat × Nat × Bool)) (key : Nat) : Nat := ((codes.find? (·.1 == key)).map (·.2.1)).getD 0

/-- The box positions that lie in the tensor, (n, j). -/
def loadedCells (t : Tsr) (c : List Int) : List (Nat × Nat) :=
  (List.range (Tsr.box t 1)).flatMap fun j => ((List.range (Tsr.box t 0)).filter fun n =>
    Tsr.inside t (Tsr.coords t c [n, j])).map fun n => (n, j)

/-- The shadow plane that a load leaves. -/
def loadedPlane (t : Tsr) (mask : BitVec 4) (r : SzRecord) (rows cols zeros : List (Nat × Bool))
    (codes : List (Nat × Nat × Bool)) (cells : List (Nat × Nat)) (vals : List (Nat × Bool)) : Plane :=
  let key := fun x : Nat × Nat =>
    256 * (if Tsr.sparse t then sparseRow (codeOf codes (256 * (x.2 / 2) + x.1)) x.2 else x.2) + x.1
  let placed := (cells.zip vals).map fun y => (key y.1, y.2)
  { fmt := Tsr.fmt t, sparse := Tsr.sparse t, mask := mask
    weights := placed.foldl (fun w y => tableSet w y.1 (codeOfStored (Tsr.fmt t) y.2.1)) []
    poison := (placed.filter (·.2.2)).map (·.1)
    rowScale := rows, colScale := cols, zero := zeros
    scaled := Tsr.scales t && r.vsel % 4 != 0
    badGroups := (codes.filter (·.2.2)).map (·.1) }

def State.setMatrix (s : State) (g : Nat) (f : Matrix → Matrix) : State := s.mapGang g fun h => { h with mx := f h.mx }

/-- The vectors, metadata and weights are read, and the shadow plane is replaced. A zero point or metadata code that is not
legal stops the command, poisoned or not (log 88). -/
def State.loadPlane (s : State) (c : Command) (t : Tsr) (x : List Int) (r : SzRecord) : State :=
  let a := s.engineAgent c
  let sp := Tsr.space t
  let b0 := Tsr.box t 0
  let b1 := Tsr.box t 1
  let mask := (s.gang c.gang).mx.ashape
  let rows := if Tsr.sparse t then 2 * b1 else b1
  let cells := loadedCells t x
  match s.readVector a (Tsr.scales t && r.vsel % 2 == 1) sp r.rsc rows with
  | (s', .error e) => s'.stopCommand c e
  | (s', .ok rsc) =>
  match s'.readVector a (Tsr.scales t && r.vsel / 2 % 2 == 1) sp r.csc b0 with
  | (s', .error e) => s'.stopCommand c e
  | (s', .ok csc) =>
  match s'.readVector a (Tsr.zpts t) sp r.zp b0 with
  | (s', .error e) => s'.stopCommand c e
  | (s', .ok zp) =>
  match s'.readMany a (if Tsr.sparse t then metaFields sp r.meta_ (b1 / 2) b0 else []) [] with
  | (s', .error e) => s'.stopCommand c e
  | (s', .ok bytes) =>
    let codes := metaCodes b0 bytes
    if zeroTooLarge (Tsr.fmt t) zp then s'.engineFault c .range (BitVec.ofNat 64 r.zp)
    else if codes.any (fun y => decide (y.2.1 / 4 % 4 ≤ y.2.1 % 4)) then
      s'.engineFault c .range (BitVec.ofNat 64 r.meta_)
    else match s'.readMany a (cells.map fun y => Tsr.elem t (Tsr.coords t x [y.1, y.2])) [] with
      | (s'', .error e) => s''.stopCommand c e
      | (s'', .ok vals) =>
        (s''.setMatrix c.gang fun m =>
          { m with shadow := loadedPlane t mask r rsc csc zp codes cells vals }).endCommand c

/-- MLDS takes effect. -/
def State.runMlds (s : State) (c : Command) (t : Tsr) (x : List Int) : State :=
  let kd := bandDepth (Tsr.fmt t) (Tsr.sparse t) * bandCount (s.gang c.gang).mx.ashape
  if (if Tsr.sparse t then kd / 2 else kd) < Tsr.box t 1 then s.engineFault c .range 0
  else if Tsr.scales t || Tsr.zpts t || Tsr.sparse t then
    match s.readRecord (s.engineAgent c) t with
    | (s', .error e) => s'.stopCommand c e
    | (s', .ok r) =>
      if !r.zero || (Tsr.scales t && 4 ≤ r.vsel) then s'.engineFault c .range (BitVec.ofNat 64 (Tsr.szaddr t))
      else s'.loadPlane c t x r
  else s.loadPlane c t x { rsc := 0, csc := 0, zp := 0, meta_ := 0, vsel := 0, zero := true }

/-! ## Passes (R206–R211) -/

/-- The fields of the activation configuration. -/
def xfmt (cfg : BitVec 25) : Nat := bitsOf cfg.toNat 0 5
def xrsc (cfg : BitVec 25) : Bool := cfg.getLsbD 8
def xcsc (cfg : BitVec 25) : Bool := cfg.getLsbD 9
def xzp (cfg : BitVec 25) : Bool := cfg.getLsbD 10

/-- A byte address of the block, through the bank permutation where it applies (R207). -/
def blockAddr (cfg : BitVec 25) (space a : Nat) : Nat :=
  if cfg.getLsbD 11 && (space == 1 || space == 2) then
    permute (bitsOf cfg.toNat 12 3) (bitsOf cfg.toNat 15 5) (bitsOf cfg.toNat 20 5) a
  else a

def up16 (n : Nat) : Nat := ceilDiv n 16 * 16

/-- Where the parts of an activation block start, from D, and its size (R207). -/
structure BlockShape where
  pitch : Nat
  rowScale : Nat
  colScale : Nat
  zero : Nat
  size : Nat
deriving DecidableEq, Repr

def blockShape (cfg : BitVec 25) (transposed : Bool) (m kd : Nat) : BlockShape :=
  let n := memBits (xfmt cfg)
  let pitch := up16 (ceilDiv ((if transposed then m else kd) * n) 8)
  let tile := (if transposed then kd else m) * pitch
  let ends := fun start (present : Bool) len => if present then start + len else start
  let r := tile
  let c := up16 (ends r (xrsc cfg) m)
  let z := up16 (ends c (xcsc cfg) kd)
  { pitch := pitch, rowScale := r, colScale := c, zero := z
    size := if xzp cfg then z + m else if xcsc cfg then c + kd else ends r (xrsc cfg) m }

/-- The whole block lies in its space, its groups of 16 bytes through the permutation (R208). -/
def State.blockInside (s : State) (a : Agent) (cfg : BitVec 25) (space d size : Nat) : Bool :=
  (space != 2 || d % 2 ^ 19 + size ≤ (s.gang a.gang).scratch)
  && (List.range (ceilDiv size 16)).all fun i =>
    match s.spaceCheck a space (blockAddr cfg space (d + 16 * i)) (min 16 (size - 16 * i)) with
    | .ok _ => true
    | .error _ => false

/-- The field of the element at a bit position of the block. -/
def blockField (cfg : BitVec 25) (space d bitpos width : Nat) : Field :=
  { space := space, addr := blockAddr cfg space (d + bitpos / 8), bit := bitpos % 8, width := width }

/-- A[m][k] for every m and k, row by row. -/
def tileFields (cfg : BitVec 25) (b : BlockShape) (transposed : Bool) (space d m kd : Nat) : List Field :=
  let n := memBits (xfmt cfg)
  (List.range m).flatMap fun i => (List.range kd).map fun k =>
    blockField cfg space d (if transposed then 8 * k * b.pitch + n * i else 8 * i * b.pitch + n * k) n

/-- What a pass has read. -/
structure PassIn where
  m : Nat
  kd : Nat
  acts : List (Nat × Bool)
  rowScale : List (Nat × Bool)
  colScale : List (Nat × Bool)
  zero : List (Nat × Bool)
deriving DecidableEq, Repr

def PassIn.act (p : PassIn) (m k : Nat) : Nat × Bool := p.acts.getD (m * p.kd + k) (0, false)

/-- An entry of a scale vector; one that is not present is 2^0. -/
def scaleAt (v : List (Nat × Bool)) (i : Nat) : Exact := decodeScale (v.getD i (127, false)).1

/-- An entry of a zero-point vector, or the default of the format. -/
def zeroAt (f : Nat) (v : List (Nat × Bool)) (i : Nat) : Nat := (v.getD i (defaultZero f, false)).1

def badAt (v : List (Nat × Bool)) (i : Nat) : Bool := (v.getD i (0, false)).2

/-- The present weights of a column, by rising k. -/
def Plane.column (p : Plane) (n : Nat) : List (Nat × Nat) :=
  (p.weights.filter fun w => w.1 % 256 == n).map fun w => (w.1 / 256, w.2)

/-- The decoded activation and weight of a term. -/
def actValue (cfg : BitVec 25) (p : PassIn) (m k : Nat) : Exact :=
  (decodeElem (xfmt cfg) (codeOfStored (xfmt cfg) (p.act m k).1) (zeroAt (xfmt cfg) p.zero m)).1
def weightValue (w : Plane) (n code : Nat) : Exact := (decodeElem w.fmt code (zeroAt w.fmt w.zero n)).1

/-- One exact term (R209, R210). -/
def passTerm (cfg : BitVec 25) (p : PassIn) (w : Plane) (m n : Nat) (x : Nat × Nat) : Exact :=
  let mul := fun a b : Exact => (a.mul b).1
  mul (mul (mul (mul (mul (actValue cfg p m x.1) (weightValue w n x.2)) (scaleAt p.rowScale m))
    (scaleAt p.colScale x.1)) (scaleAt w.rowScale x.1)) (scaleAt w.colScale n)

/-- An integer-valued element as an integer. -/
def Exact.toInt : Exact → Int
  | .fin neg m e _ => (if neg then -1 else 1) * (scaleTo m e 0 : Int)
  | _ => 0

/-- The exact sum of a segment's terms (R210). -/
def segmentSum : Exact → List Exact → Exact
  | t, [] => t
  | t, u :: us => segmentSum (t.add false u).1 us

/-- RNE64 of the accumulator and the rounded sum (R209). -/
def accumulate (acc : Word64) (y : Exact) : Word64 :=
  (rne64 ((decodeFp 20 acc.toNat).1.add false (decodeFp 20 (rne64 y).1.toNat).1).1).1

/-- A pass is integer (R211). -/
def integerPass (cfg : BitVec 25) (w : Plane) : Bool :=
  decide (14 ≤ xfmt cfg) && decide (xfmt cfg ≤ 19) && decide (14 ≤ w.fmt) && decide (w.fmt ≤ 19)
  && !xrsc cfg && !xcsc cfg && !w.scaled

/-- One element of the tile after a pass. -/
def passElem (cfg : BitVec 25) (p : PassIn) (w : Plane) (m n : Nat) (acc : Word64) : Word64 :=
  let ks := w.column n
  if integerPass cfg w then
    word64 (acc.toInt + (ks.map fun x => (actValue cfg p m x.1).toInt * (weightValue w n x.2).toInt).sum)
  else
    (List.range 4).foldl (fun acc σ =>
      match (ks.filter fun x => x.1 / w.depth == σ).map (passTerm cfg p w m n) with
      | [] => acc
      | t :: ts => accumulate acc (segmentSum t ts)) acc

/-- Row m reads poison: an activation, its row scale or its zero point (R217, log 88). -/
def PassIn.rowBad (p : PassIn) (m : Nat) : Bool :=
  (List.range p.kd).any (fun k => (p.act m k).2) || badAt p.rowScale m || badAt p.zero m

/-- Column n reads poison: a weight, a scale or zero point of a term, or a metadata code (R217). -/
def Plane.colBad (w : Plane) (p : PassIn) (n : Nat) : Bool :=
  (w.column n).any (fun x => w.poison.contains (256 * x.1 + n) || badAt w.rowScale x.1 || badAt p.colScale x.1
    || badAt w.colScale n || badAt w.zero n)
  || w.badGroups.any fun g => g % 256 == n

/-! ## Accumulators (R190, R213) -/

def accKey (tile row col : Nat) : Nat := 16384 * tile + 256 * row + col

def Matrix.accAt (x : Matrix) (key : Nat) : Word64 := (tableFind? x.acc key).getD 0

def Matrix.setAcc (x : Matrix) (key : Nat) (v : Word64) : Matrix :=
  { x with acc := if v = 0 then x.acc.filter (·.1 != key) else tableSet x.acc key v }

/-- A tile is zeroed and its marks clear. -/
def Matrix.clearTile (x : Matrix) (tile : Nat) : Matrix :=
  { x with acc := x.acc.filter fun c => c.1 / 16384 != tile
           accPoison := x.accPoison.filter fun k => k / 16384 != tile }

/-- The elements (m, n) of a pass. -/
def passCells (m : Nat) : List (Nat × Nat) := (List.range m).flatMap fun i => (List.range 256).map fun n => (i, n)

/-- The matrix context after a pass's accumulator updates. -/
def Matrix.afterPass (x : Matrix) (tile : Nat) (p : PassIn) : Matrix :=
  (passCells p.m).foldl (fun y c =>
    let key := accKey tile c.1 c.2
    let y := y.setAcc key (passElem y.cfg p y.active c.1 c.2 (y.accAt key))
    if p.rowBad c.1 || y.active.colBad p c.2 then { y with accPoison := insertRising y.accPoison key } else y) x

/-! ## The spare row (R219) -/

/-- The working rows of the bands in a mask, ascending. -/
def activeRows (mask : BitVec 4) : List Nat := (List.range 256).filter fun r => mask.getLsbD (r / 64)

/-- The row that the next pass checks: the first active one from rho on, else the lowest. -/
def spareRow (mask : BitVec 4) (rho : Nat) : Nat :=
  ((activeRows mask).find? (fun r => decide (rho ≤ r))).getD ((activeRows mask).headD 0)

/-! ## A pass runs -/

/-- What a pass reads, or why it stops (R207–R209). -/
def State.passInputs (s : State) (c : Command) (mode rows space d : Nat) : State × Except CmdStop PassIn :=
  let x := (s.gang c.gang).mx
  let a := s.engineAgent c
  let cfg := x.cfg
  let kd := x.active.kd
  let b := blockShape cfg (mode == 2) rows kd
  let vec := fun (s : State) (present : Bool) off n =>
    if present then s.readMany a ((List.range n).map fun i => blockField cfg space d (8 * (off + i)) 8) [] else (s, .ok [])
  if x.active.mask ≠ x.ashape then (s, .error (.fault .range 0))
  else if !s.blockInside a cfg space d b.size then (s, .error (.fault .range (BitVec.ofNat 64 d)))
  else match s.readMany a (tileFields cfg b (mode == 2) space d rows kd) [] with
  | (s', .error e) => (s', .error e)
  | (s', .ok acts) =>
  match vec s' (xrsc cfg) b.rowScale rows with
  | (s', .error e) => (s', .error e)
  | (s', .ok rsc) =>
  match vec s' (xcsc cfg) b.colScale kd with
  | (s', .error e) => (s', .error e)
  | (s', .ok csc) =>
  match vec s' (xzp cfg) b.zero rows with
  | (s', .error e) => (s', .error e)
  | (s', .ok zp) =>
    if zeroTooLarge (xfmt cfg) zp then (s', .error (.fault .range (BitVec.ofNat 64 (d + b.zero))))
    else (s', .ok { m := rows, kd := kd, acts := acts, rowScale := rsc, colScale := csc, zero := zp })

/-- A pass commits after its check; `again` says that it matched only at its second run. -/
def State.commitPass (s : State) (c : Command) (mode tile : Nat) (p : PassIn) (again : Bool) : State :=
  let g := s.gang c.gang
  let row := spareRow g.mx.ashape ((s.site g.site).cluster g.cluster).rho
  let s := s.mapCluster g.site g.cluster fun k => { k with rho := row + 1 }
  (s.setMatrix c.gang fun x =>
    let x := if mode = 1 then x.clearTile tile else x
    { x.afterPass tile p with npass := (x.npass + 1) % 65536, rerun := again, chkok := !again, chkv := true, chkrow := row }).endCommand c

def State.runPass (s : State) (c : Command) (mode tile rows space d : Nat) (again : Bool) : State :=
  match s.passInputs c mode rows space d with
  | (s', .error e) => s'.stopCommand c e
  | (s', .ok p) => s'.commitPass c mode tile p again

/-! ## MDRAIN (R212) -/

/-- The value of an accumulator element: binary64, or a signed integer. -/
def accValue (int : Bool) (v : Word64) : Exact := if int then .ofInt v.toInt else (decodeFp 20 v.toNat).1

/-- The elements (i, j) of the box are written in order, those in the tensor. -/
def State.drainElems (s : State) (a : Agent) (x : Matrix) (tile : Nat) (t : Tsr) (c : List Int) (int : Bool) (rm : Nat)
    (sat : Bool) (zs : List (Nat × Bool)) : List (Nat × Nat) → List (Nat × Nat) → State × Option CmdStop
  | [], _ => (s, none)
  | (j, i) :: rest, last =>
    let key := accKey tile i j
    let f := Tsr.fmt t
    let code := (roundElem (accValue int (x.accAt key)) f rm sat (zeroAt f zs j)).1
    let dst := Tsr.elem t (Tsr.coords t c [j, i])
    match s.fieldTargets a dst true with
    | (s', .error e) => (s', some (stopOf e))
    | (s', .ok ts) =>
      let bs := s'.blocks a.site (ts.map Target.triple)
      let s' := (bs.filter fun b => !last.contains b).foldl (fun s b => s.charge a.ctx b.1 1) s'
      (s'.writeField a dst ts (storedOfCode f code) (x.accPoison.contains key || badAt zs j)).drainElems
        a x tile t c int rm sat zs rest bs

def State.drainAll (s : State) (c : Command) (tile : Nat) (t : Tsr) (x : List Int) (int : Bool) (rm : Nat) (sat : Bool)
    (zs : List (Nat × Bool)) : State :=
  match s.drainElems (s.engineAgent c) (s.gang c.gang).mx tile t x int rm sat zs (loadedCells t x) [] with
  | (s', some (.fault cause addr)) => s'.engineFault c cause addr
  | (_, some (.page va)) => s.pauseCommand c va
  | (s', none) => s'.endCommand c

def State.runMdrain (s : State) (c : Command) (tile : Nat) (t : Tsr) (x : List Int) (int : Bool) (rm : Nat) (sat : Bool) :
    State :=
  let a := s.engineAgent c
  if Tsr.zpts t then
    match s.readRecord a t with
    | (s', .error e) => s'.stopCommand c e
    | (s', .ok r) =>
      if !r.zero then s'.engineFault c .range (BitVec.ofNat 64 (Tsr.szaddr t))
      else match s'.readVector a true (Tsr.space t) r.zp (Tsr.box t 0) with
        | (s'', .error e) => s''.stopCommand c e
        | (s'', .ok zs) =>
          if zeroTooLarge (Tsr.fmt t) zs then s''.engineFault c .range (BitVec.ofNat 64 r.zp)
          else s''.drainAll c tile t x int rm sat zs
  else s.drainAll c tile t x int rm sat []

/-! ## MRDROW and MSTAT (R214, R215) -/

/-- One element as MRDROW hands it over: value and conditions. -/
def rowElem (mode : Nat) (v : Word64) : Word64 × BitVec 5 :=
  if mode = 0 then (v, 0)
  else if mode = 1 then
    let (y, f) := decodeFp 20 v.toNat
    let (r, g) := rne32 y
    (r.setWidth 64, f ||| g)
  else
    let (r, g) := roundInt (.ofInt v.toInt) 21 0 0
    (BitVec.ofNat 64 r, g)

def State.runMrdrow (s : State) (c : Command) (tile row chunk mode : Nat) (regs : List (Fin 64)) (lanes : Word32) :
    State :=
  let x := (s.gang c.gang).mx
  let s := s.focus c.warp
  let key := fun (i : Nat) (l : Fin 32) => accKey tile row (32 * (chunk + i) + l.val)
  let is := List.range regs.length
  let bad := maskOf fun l => inMask lanes l && is.any fun i => x.accPoison.contains (key i l)
  let val := fun i l => rowElem mode (x.accAt (key i l))
  let into := lanes &&& ~~~bad
  let writes := is.flatMap fun i =>
    let r := regs.getD i 0
    if mode = 0 then pairWrites r into fun l => (val i l).1
    else [.v r into (lanes32 fun l => ((val i l).1).setWidth 32)]
  let flags := orFlags (is.flatMap fun i => (lanesOf into).map fun l => (val i l).2)
  let s := s.onWarp fun w => { w with pend := w.pend.map fun p =>
    if c.pend == (some p.id) then { p with writes := writes, flags := flags } else p }
  (s.killLate (c.pend.getD 0) bad 0).endCommand c

/-- The status value (R215). -/
def Matrix.status (x : Matrix) : Word64 :=
  let b := fun (v : Bool) n => v.toNat * 2 ^ n
  BitVec.ofNat 64
    (x.npass % 2 ^ 16 * 2 ^ 48 + min x.reloc 15 * 2 ^ 44 + b x.stopped 43 + b x.rerun 42 + b x.chkok 41 + b x.chkv 40
      + x.chkrow % 2 ^ 8 * 2 ^ 32 + b (xzp x.cfg) 31 + b (xcsc x.cfg) 30 + b (xrsc x.cfg) 29 + xfmt x.cfg * 2 ^ 24
      + b x.shadow.sparse 19 + x.shadow.fmt * 2 ^ 14 + b x.active.sparse 13 + x.active.fmt * 2 ^ 8
      + x.shadow.mask.toNat * 2 ^ 4 + x.active.mask.toNat)

def State.runMstat (s : State) (c : Command) : State :=
  let v := (s.gang c.gang).mx.status
  let s := s.setMatrix c.gang fun x => { x with mxstat := v }
  (match c.pend with
   | some k => s.answer c.warp k v
   | none => s).endCommand c

/-! ## A granted command (R193, R216) -/

def CmdKind.isMstat : CmdKind → Bool
  | .mstat _ => true
  | _ => false

/-- The head of a gang's stream runs; while the stream is stopped only MSTAT has an effect. -/
def State.runMatrix (s : State) (c : Command) (again : Bool) : State :=
  if (s.gang c.gang).mx.stopped && !c.kind.isMstat then s.endCommand c
  else match c.kind with
  | .mlds t x => s.runMlds c t x
  | .mswap => (s.setMatrix c.gang fun x => { x with active := x.shadow, shadow := x.active }).endCommand c
  | .mshape m => (s.setMatrix c.gang fun x => { x with ashape := m, shaped := true }).endCommand c
  | .mcfg g => (s.setMatrix c.gang fun x => { x with cfg := g }).endCommand c
  | .mmul mode tile rows sp d => s.runPass c mode tile rows sp d.toNat again
  | .mdrain tile t x int rm sat => s.runMdrain c tile t x int rm sat
  | .mzero tile => (s.setMatrix c.gang fun x => x.clearTile tile).endCommand c
  | .mrdrow tile row ch mode regs lanes => s.runMrdrow c tile row ch mode regs lanes
  | .mstat _ => s.runMstat c
  | _ => s.endCommand c

end Sys2Proof.Machine
end

