-- ==== Sys2Proof/Machine/FabricRun.lean ====
section
/-! DEFINITION. What fabric commands do when they run, when a peer answers, and when a push arrives (R316–R325). -/

namespace Sys2Proof.Machine

/-- The cause of a code (R67). -/
def causeOf (n : Nat) : Option Cause :=
  [Cause.illenc, .priv, .emptyread, .align, .range, .prot, .pagefault, .stkovf, .illconv, .atomtype, .lockerr, .dsmem,
   .brkpt, .trapinsn, .poison, .lanedead, .mxfault, .deadlock, .collfail, .diefence, .watch, .hostend].find? (·.code == n)

/-! ## Sending -/

/-- The targets of fields, without access. -/
def State.findMany (s : State) (a : Agent) (w : Bool) : List Field → State × Except CmdStop (List Target)
  | [] => (s, .ok [])
  | f :: fs =>
    match s.fieldTargets a f w with
    | (s', .error e) => (s', .error (stopOf e))
    | (s', .ok ts) =>
      match s'.findMany a w fs with
      | (s'', .error e) => (s'', .error e)
      | (s'', .ok us) => (s'', .ok (ts ++ us))

/-- The parts of a remote range, one for each 4 KiB page: offset from the start and length. -/
def pieces (rva len : Nat) : List (Nat × Nat) :=
  (List.range (ceilDiv (rva % 4096 + len) 4096)).map fun i =>
    let lo := max rva ((rva / 4096 + i) * 4096)
    let hi := min (rva + len) ((rva / 4096 + i + 1) * 4096)
    (lo - rva, hi - lo)

/-- The peers of the pages at some addresses, each of which must be a fabric-remote page (R318, R319). -/
def State.remotePeers (s : State) (a : Agent) (w : Bool) : List Nat → State × Except CmdStop (List Nat)
  | [] => (s, .ok [])
  | va :: vas =>
    match s.reach a 0 va 1 1 (!w) w with
    | (s', .fails c) => (s', .error (stopOf (c, BitVec.ofNat 64 va)))
    | (s', .at_ _ kind peer) =>
      if kind ≠ 3 then (s', .error (.fault .range (BitVec.ofNat 64 va)))
      else match s'.remotePeers a w vas with
        | (s'', .error e) => (s'', .error e)
        | (s'', .ok ps) => (s'', .ok (peer :: ps))

/-- The doublewords of a range. -/
def dwordFields (space addr n : Nat) : List Field :=
  (List.range (n / 8)).map fun i => { space := space, addr := addr + 8 * i, bit := 0, width := 64 }

/-- PUT and GET start: every page is found, tokens are taken, and a transaction goes to the peer of each remote page. -/
def State.startRange (s : State) (c : Command) (put : Bool) (rva len space : Nat) (lva : Word64) : State :=
  let a := s.engineAgent c
  match s.remotePeers a put ((pieces rva len).map fun x => rva + x.1) with
  | (s', .error e) => s'.stopCommand c e
  | (s', .ok peers) =>
    match s'.findMany a (!put) (dwordFields space lva.toNat len) with
    | (s'', .error e) => s''.stopCommand c e
    | (s'', .ok ts) =>
      let s := ((s''.chargeAll c.ctx a.site (ts.map Target.triple)).charge c.ctx 1 (ceilDiv len 64)).mapCommand c.id
        fun d => { d with phase := .sent }
      (List.range peers.length).foldl (fun s i => s.send c.ctx (peers.getD i 0) (.command c.id i)) s

/-! ## CSTEP (R319, R320) -/

def StepDesc.ofBytes (bs : List Byte) : StepDesc :=
  let f := fun lo n => bytesToNat ((bs.drop lo).take n)
  { src := f 0 8, rdst := f 8 8, len := f 16 4, op := f 20 1, ty := f 21 1, collid := f 24 4, seq := f 28 4
    rflag := f 32 8 }

/-- The bytes of the descriptor that must be zero. -/
def descZero (bs : List Byte) : Bool := ((bs.drop 22).take 2 ++ bs.drop 40).all (· == 0)

/-- Every field is in range. -/
def StepDesc.legal (d : StepDesc) : Bool :=
  d.src % 16 == 0 && d.src + d.len ≤ 2 ^ 57 && d.rdst % 16 == 0 && d.rdst + d.len ≤ 2 ^ 57
  && 16 ≤ d.len && d.len ≤ 2 ^ 24 && d.len % 16 == 0 && d.op ≤ 3 && d.ty ≤ 7 && (d.op != 0 || d.ty == 0)
  && d.rflag % 4 == 0 && d.rflag < 2 ^ 57

/-- CSTEP starts: descriptor, checks, tokens, one transaction. -/
def State.startStep (s : State) (c : Command) (space : Nat) (addr : Word64) : State :=
  let a := s.engineAgent c
  match s.engineBytes a space addr.toNat 64 [] with
  | (s', .error e) => s'.stopCommand c e
  | (s', .ok bs) =>
    let d := StepDesc.ofBytes bs
    if !descZero bs || !d.legal then s'.engineFault c .range addr
    else if (s'.context c.ctx).failed.contains d.collid then s'.engineFault c .collfail 0
    else match s'.remotePeers a true ((pieces d.rdst d.len).map (d.rdst + ·.1) ++ if d.rflag = 0 then [] else [d.rflag]) with
    | (s'', .error e) => s''.stopCommand c e
    | (s'', .ok peers) =>
      if peers.any fun p => p != peers.headD 0 then s''.engineFault c .range (BitVec.ofNat 64 d.rdst)
      else match s''.findMany a false (dwordFields 0 d.src d.len) with
        | (s3, .error e) => s3.stopCommand c e
        | (s3, .ok ts) =>
          ((((s3.chargeAll c.ctx a.site (ts.map Target.triple)).charge c.ctx 1 (ceilDiv d.len 64)).mapCommand c.id
            fun k => { k with phase := .sent, kind := .step d }).send c.ctx (peers.headD 0) (.command c.id 0))

/-- The operation of a step: OP 0 exchanges, and what it finds is dropped. -/
def stepOp (op : Nat) : AtomOp := if op = 0 then .exch else if op = 1 then .add else if op = 2 then .min else .max

/-- The type of its elements: OP 0 moves aligned doublewords. -/
def stepType (op ty : Nat) : Nat := if op = 0 then 2 else ty

/-- Bytes of an element of a step. -/
def stepWidth (op ty : Nat) : Nat := typeBytes (stepType op ty)

/-- One element of a step with operand `v` performed at a place, as a reduction, which a poisoned destination discards (R229,
R320): a poisoned operand leaves its mark. -/
def State.stepElem (s : State) (a : Agent) (kind loc op ty : Nat) (v : Nat) (bad : Bool) : State :=
  let s := s.reduceBy a kind loc (stepOp op) (stepType op ty) v
  if bad then s.markPoison loc else s

/-- The elements of a step performed at the peer, in order. -/
def State.stepElems (s : State) (a : Agent) (d : StepDesc) : List Nat → State × Option CmdStop
  | [] => (s, none)
  | i :: rest =>
    let w := stepWidth d.op d.ty
    let src : Field := { space := 0, addr := d.src + w * i, bit := 0, width := 8 * w }
    let dst : Field := { space := 0, addr := d.rdst + w * i, bit := 0, width := 8 * w }
    match s.fieldTargets a src false with
      | (s', .error e) => (s', some (stopOf e))
      | (s', .ok ts) =>
        let (s', v, bad) := s'.readField a src ts
        match s'.fieldTargets a dst true with
        | (s'', .error e) => (s'', some (stopOf e))
        | (s'', .ok us) => (us.foldl (fun s t => s.stepElem a t.kind t.loc d.op d.ty v bad) s'').stepElems a d rest

/-- The kind and the place of a flag, which its operation needs write permission for (R317); none for VA 0. -/
def State.flagPlace (s : State) (a : Agent) (va : Nat) : State × Except CmdStop (Option (Nat × Nat)) :=
  if va = 0 then (s, .ok none)
  else match s.reach a 0 va 4 4 false true with
    | (s', .at_ loc kind _) => (s', .ok (some (kind, loc)))
    | (s', .fails c) => (s', .error (stopOf (c, BitVec.ofNat 64 va)))

/-- A flag's word is operated on. -/
def State.atFlag (s : State) (a : Agent) (f : Option (Nat × Nat)) (op : AtomOp) (v : Nat) : State :=
  match f with
  | none => s
  | some (kind, loc) => s.reduceBy a kind loc op 0 v

/-- A step performed at the peer, or what stops it before its flag has counted it. -/
def State.stepWhole (s : State) (a : Agent) (d : StepDesc) : State × Option CmdStop :=
  match s.flagPlace a d.rflag with
  | (s', .error e) => (s', some e)
  | (s', .ok f) =>
    match s'.stepElems a d (List.range (d.len / stepWidth d.op d.ty)) with
    | (s'', some e) => (s'', some e)
    | (s'', none) => (s''.atFlag a f .add 1, none)

def State.dropTx (s : State) (id : Nat) : State :=
  { s with fabric := { s.fabric with tx := s.fabric.tx.filter (·.id != id) } }

/-- Transaction `k` of a step is answered: the step is performed at the peer, its flag counts the arrival, and the command
ends. -/
def State.applyStep (s : State) (k : Nat) (c : Command) (d : StepDesc) : State :=
  let t := s.dropTx k
  match t.stepWhole (t.engineAgent c) d with
  | (s', some (.fault cause addr)) => s'.engineFault c cause addr
  | (_, some (.page va)) => s.pauseCommand c va
  | (s', none) => s'.endCommand c

/-! ## Arrivals that a page lock delays (R165, R325) -/

/-- The agent of what comes from outside the package's sites. -/
def remoteAgent (ctx : Nat) (o : Origin := .outside) : Agent :=
  { ctx := ctx, gang := 0, wg := 0, site := 8, units := [], core := none, origin := o }

/-- The page of a place is homed on a fenced die, where a message is dropped (R325). -/
def State.onFenced (s : State) (loc : Nat) : Bool :=
  match s.homeOf loc with
  | some h => (s.site h).fenced
  | none => false

/-- The result of a transaction is kept for a copy of it (R312). -/
def State.serveTx (s : State) (sender ident result : Nat) : State :=
  { s with fabric := { s.fabric with
      served := s.fabric.served ++ [{ sender := sender, ident := ident, result := result }] } }

/-- An arrival that has been performed is answered. -/
def State.conclude (s : State) : Finish → State
  | .access sender ident result => s.serveTx sender ident result
  | .push sender ident => s.serveTx sender ident 0
  | .selfPush cmd =>
    match s.command? cmd with
    | some c => s.endCommand c
    | none => s
  | .step id => { s with fabric := { s.fabric with steps := s.fabric.steps ++ [id] } }

def State.addFinishing (s : State) (x : Finishing) : State :=
  { s with fabric := { s.fabric with finishing := s.fabric.finishing ++ [x] } }

/-- Once every write of an arrival has been performed its flag counts it, and once that has been it is answered. -/
def State.finishArrival (s : State) (x : Finishing) : State :=
  if s.holdsFor (.arrival x.id) then s.addFinishing x
  else
    let s := s.atFlag (remoteAgent x.ctx (.arrival x.id)) x.flag .add 1
    if s.holdsFor (.arrival x.id) then s.addFinishing { x with flag := none } else s.conclude x.finish

/-- Arrivals and commands whose held writes have all been performed go on. -/
def State.settleHeld (s : State) : State :=
  let done := s.fabric.finishing.filter fun x => !s.holdsFor (.arrival x.id)
  let s := done.foldl State.finishArrival
    { s with fabric := { s.fabric with finishing := s.fabric.finishing.filter fun x => !done.contains x } }
  s.cmds.foldl (fun s c => match c.phase with
    | .draining => s.endCommand c
    | .failing cause addr => s.engineFault c cause addr
    | _ => s) s

/-! ## Landing (R315, R317) -/

/-- A landing entry's fields. -/
structure Landing where
  dtsr : Tsr
  flag : Nat
  srcdev : Nat
  valid : Nat
  perm : Nat
  zero : Bool                          -- byte 139 and bytes 144–255
deriving DecidableEq, Repr

def Landing.ofBytes (bs : List Byte) : Landing :=
  let f := fun lo n => bytesToNat ((bs.drop lo).take n)
  { dtsr := BitVec.ofNat 1024 (f 0 128), flag := f 128 8, srcdev := f 136 2, valid := f 138 1, perm := f 140 4
    zero := ((bs.drop 139).take 1 ++ bs.drop 144).all (· == 0) }

def Landing.permAt (e : Landing) (j : Nat) : Nat := bitsOf e.perm (3 * j) 3

/-- The PERM fields below the rank are a permutation. -/
def Landing.permutes (e : Landing) (r : Nat) : Bool :=
  (List.range r).all fun j => e.permAt j < r && (List.range r).all fun i => i == j || e.permAt i != e.permAt j

/-- Every field of the entry that must be zero is. -/
def Landing.clean (e : Landing) (r : Nat) : Bool :=
  bitsOf e.srcdev 12 3 == 0 && e.valid / 2 == 0 && e.zero && bitsOf e.perm 21 11 == 0
  && (List.range 7).all fun j => j < r || e.permAt j == 0

/-- Where box index `b` lands. -/
def Landing.coords (e : Landing) (r : Nat) (origin : Word64) (b : List Nat) : List Int :=
  (List.range r).map fun j =>
    ((if j < 4 then bitsOf origin.toNat (16 * j) 16 else 0) + b.getD (e.permAt j) 0 : Nat)

/-- A page that is not mapped is asked of the supervisor; any other failure of an address is PROT (R317). -/
def landingStop (c : Cause) (va : Nat) : CmdStop :=
  if c = .pagefault then .page (BitVec.ofNat 64 va) else .fault .prot 0

/-- The checks of R317 that precede the coordinates: the entry, or what stops the push. -/
def State.landingOf (s : State) (a : Agent) (p : PushArrival) : State × Except CmdStop Landing :=
  match s.context? p.ctx with
  | none => (s, .error (.fault .range 0))
  | some c =>
    if c.landtbl.toNat % 4096 ≤ p.entry then (s, .error (.fault .range 0))
    else
      let at_ := bitsOf c.landtbl.toNat 12 45 * 4096 + 256 * p.entry
      match s.reach a 0 at_ 256 1 true false with
      | (s', .fails c) => (s', .error (landingStop c at_))
      | (s', .at_ loc kind _) =>
        if s'.poisoned loc 256 then (s', .error (.fault .poison 0))
        else
          let (s', bs) := s'.readAt a kind loc 256
          let e := Landing.ofBytes bs
          let ok := fun (b : Bool) (c : Cause) => faultUnless b c
          match firstFault
            [ ok (e.valid % 2 == 1) .range
            , ok (e.srcdev / 2 ^ 15 == 1 || e.srcdev % 2 ^ 12 == p.sender) .prot
            , ok (Tsr.wellFormed e.dtsr false && (Tsr.space e.dtsr == 0 || Tsr.space e.dtsr == 3) && !Tsr.bperm e.dtsr) .range
            , ok (Tsr.fmt e.dtsr == p.fmt && Tsr.rank e.dtsr == p.rank && e.permutes p.rank) .range
            , ok (e.clean p.rank) .range
            , ok (e.flag % 4 == 0 && e.flag < 2 ^ 57) .range ] with
          | some c => (s', .error (.fault c 0))
          | none => (s', .ok e)

/-- The box indices of an arrival, dimension 0 fastest. -/
def arrivalIndex (p : PushArrival) (k : Nat) : List Nat :=
  (List.range p.rank).map fun i => k / (p.box.take i).prod % p.box.getD i 1

def arrivalCount (p : PushArrival) : Nat := (p.box.take p.rank).prod

/-- What becomes of a push at its receiver: received, with the place of its flag, refused, waiting for a page, or dropped at a
fenced die (R325). -/
inductive Landed where
  | done (flag : Option (Nat × Nat))
  | stopped (e : CmdStop)
  | dropped
deriving DecidableEq, Repr

/-- Every field that the push writes, and its flag, can be written; or what stops the push (R317). -/
def State.landable (s : State) (a : Agent) (fs : List Field) (flag : Nat) : State × Landed :=
  match s.findMany a true fs with
  | (s', .error (.page va)) => (s', .stopped (.page va))
  | (s', .error (.fault _ _)) => (s', .stopped (.fault .prot 0))
  | (s', .ok ts) =>
    if ts.any fun t => s'.onFenced t.loc then (s', .dropped)
    else match s'.flagPlace a flag with
      | (s'', .error (.page va)) => (s'', .stopped (.page va))
      | (s'', .error (.fault _ _)) => (s'', .stopped (.fault .prot 0))
      | (s'', .ok f) => (s'', if f.any fun x => s''.onFenced x.2 then .dropped else .done f)

/-- The elements of a push written, in order; `bad` are the poisoned ones. -/
def State.landElems (s : State) (a : Agent) (p : PushArrival) (bad : List Nat) : List (Nat × Field) → State
  | [] => s
  | (k, f) :: rest =>
    match s.fieldTargets a f true with
    | (s', .ok ts) => (s'.writeField a f ts (p.codes.getD k 0) (bad.contains k)).landElems a p bad rest
    | (s', .error _) => s'.landElems a p bad rest

/-- A push is received: nothing is written where a check fails; else elements, then the flag. `bad` are the poisoned
elements, `fin` says how it is answered. -/
def State.receivePush (s : State) (p : PushArrival) (bad : List Nat) (fin : Finish) : State × Landed :=
  let id := s.nextUid
  let a := remoteAgent p.ctx (.arrival id)
  match { s with nextUid := s.nextUid + 1 }.landingOf a p with
  | (s', .error e) => (s', .stopped e)
  | (s', .ok e) =>
    let ys := (List.range (arrivalCount p)).map fun k => (k, e.coords p.rank p.origin (arrivalIndex p k))
    if !Tsr.clip e.dtsr && !(ys.all fun y => Tsr.inside e.dtsr y.2) then (s', .stopped (.fault .range 0))
    else
      let into := (ys.filter fun y => Tsr.inside e.dtsr y.2).map fun y => (y.1, Tsr.elem e.dtsr y.2)
      match s'.landable a (into.map (·.2)) e.flag with
      | (s'', .done f) =>
        ((s''.landElems a p bad into).finishArrival { id := id, ctx := p.ctx, flag := f, finish := fin }, .done f)
      | (s'', r) => (s'', r)

/-- An arrival waits for the supervisor's answer to a PAGEFAULT record about a page of its context (R306, R317). -/
def State.holdArrival (s : State) (ctx : Nat) (va : Word64) (x : FabricArrival) : State :=
  let s' := s.postTagged { FaultRecord.empty with cause := some .pagefault, ctx := ctx, addr := va }
  { s' with fabric := { s'.fabric with held := s'.fabric.held ++ [{ tag := s.nextTag, arrival := x }] } }

/-- A push of this device to itself is received, its command ends or takes the fault. `last` says that the supervisor
has no mapping for the page asked for. -/
def State.landSelf (s : State) (p : PushArrival) (bad : List Nat) (cmd : Nat) (last : Bool) : State :=
  let fault := fun (s : State) (cause : Cause) => match s.command? cmd with
    | none => s
    | some c => s.engineFault c cause 0
  match s.receivePush p bad (.selfPush cmd) with
  | (s', .done _) => s'
  | (s', .dropped) => fault s' .collfail
  | (s', .stopped (.fault c _)) => fault s' c
  | (s', .stopped (.page va)) => if last then fault s' .prot else s'.holdArrival p.ctx va (.selfPush p bad cmd)

/-! ## PUSH (R316) -/

/-- The push as it leaves. -/
def pushArrival (s : State) (id : Nat) (t : Tsr) (g o : Word64) (vals : List (Nat × Bool)) : PushArrival :=
  { sender := s.fabric.fabid.toNat, ident := id, ctx := bitsOf g.toNat 28 6, entry := bitsOf g.toNat 16 12, origin := o
    fmt := Tsr.fmt t, rank := Tsr.rank t, box := (List.range (Tsr.rank t)).map (Tsr.box t), codes := vals.map (·.1) }

/-- The elements of a push, zero outside the tensor. -/
def State.pushValues (s : State) (a : Agent) (t : Tsr) (x : List Int) : State × Except CmdStop (List (Nat × Bool)) :=
  let xs := (List.range (Tsr.total t)).map fun k => Tsr.coords t x (Tsr.boxIndex t k)
  match s.readMany a ((xs.filter fun y => Tsr.inside t y).map (Tsr.elem t)) [] with
  | (s', .error e) => (s', .error e)
  | (s', .ok vs) =>
    (s', .ok (xs.foldl (fun (acc : List (Nat × Bool) × List (Nat × Bool)) y =>
      if Tsr.inside t y then (acc.1 ++ acc.2.take 1, acc.2.drop 1) else (acc.1 ++ [(0, false)], acc.2)) ([], vs)).1)

/-- PUSH starts: a push to this device arrives at once, any other leaves for its peer (log 18). -/
def State.startPush (s : State) (c : Command) (t : Tsr) (x : List Int) (g o : Word64) : State :=
  match s.pushValues (s.engineAgent c) t x with
  | (s', .error e) => s'.stopCommand c e
  | (s', .ok vals) =>
    let s := s'.charge c.ctx 1 (ceilDiv (Tsr.total t * memBits (Tsr.fmt t)) 512)
    if bitsOf g.toNat 0 12 = s.fabric.fabid.toNat then
      let bad := (List.range vals.length).filter fun k => (vals.getD k (0, false)).2
      (s.mapCommand c.id fun d => { d with phase := .sent }).landSelf (pushArrival s c.id t g o vals) bad c.id false
    else (s.mapCommand c.id fun d => { d with phase := .sent }).send c.ctx (bitsOf g.toNat 0 12) (.command c.id 0)

/-! ## A peer answers (R312, R313) -/

/-- The doublewords of one page of a PUT or GET are moved. -/
def State.moveRange (s : State) (a : Agent) (put : Bool) (rva space lva : Nat) : List Nat → State × Option CmdStop
  | [] => (s, none)
  | i :: rest =>
    let far : Field := { space := 0, addr := rva + 8 * i, bit := 0, width := 64 }
    let near : Field := { space := space, addr := lva + 8 * i, bit := 0, width := 64 }
    match s.moveElem a (some (if put then near else far)) (if put then far else near) with
    | (s', _, some e) => (s', some e)
    | (s', _, none) => s'.moveRange a put rva space lva rest

/-- Some transaction of a command is under way. -/
def State.commandSent (s : State) (k : Nat) : Bool :=
  s.fabric.tx.any fun t => match t.kind with | .command c _ => c == k | .lane _ _ _ _ _ _ => false

/-- Transaction `k` for one page of a PUT or GET is performed, where that is still a fabric-remote page (R318); the command
ends with its last page. At a page fault the command pauses, and the transaction is answered again later. -/
def State.finishRange (s : State) (k : Nat) (c : Command) (put : Bool) (rva len space : Nat) (lva : Word64)
    (part : Nat) : State :=
  let (off, n) := (pieces rva len).getD part (0, 0)
  let t := s.dropTx k
  let a := t.engineAgent c
  match t.remotePeers a put [rva + off] with
  | (_, .error (.page va)) => s.pauseCommand c va
  | (t', .error (.fault cause addr)) => t'.engineFault c cause addr
  | (t', .ok _) =>
    match t'.moveRange a put rva space lva.toNat ((List.range (n / 8)).map (off / 8 + ·)) with
    | (s', some (.fault cause addr)) => s'.engineFault c cause addr
    | (_, some (.page va)) => s.pauseCommand c va
    | (s', none) => if s'.commandSent c.id then s' else s'.endCommand c

/-- Transaction `k` of a command is acknowledged, or refused with a cause. -/
def State.ackCommand (s : State) (k : Nat) (c : Command) (part : Nat) (refused : Option Cause) : State :=
  match refused with
  | some cause => (s.dropTx k).engineFault c cause 0
  | none =>
    match c.kind with
    | .put rva len sp lva => s.finishRange k c true rva len sp lva part
    | .get rva len sp lva => s.finishRange k c false rva len sp lva part
    | .step d => s.applyStep k c d
    | _ => (s.dropTx k).endCommand c

/-! ## A command runs -/

/-- A command of the engine queue runs on: a copy command for one run of dimension 0. -/
def State.runCommand (s : State) (c : Command) : State :=
  match c.kind with
  | .gbin sp addr => s.runGbin c sp addr
  | .push t x g o => s.startPush c t x g o
  | .put rva len sp lva => s.startRange c true rva len sp lva
  | .get rva len sp lva => s.startRange c false rva len sp lva
  | .cstep sp addr => s.startStep c sp addr
  | k => match k.slot with
    | some t => s.runCopy c t
    | none => s

end Sys2Proof.Machine
end

