-- ==== Sys2Proof/Machine/Fences.lean ====
section
/-! DEFINITION. Fences and the bind table, major 0x2F (R263–R265). The model performs every access at one moment in one
order (log 9), so an acquire waits for the reads that it pairs with, and a release for the writes that it covers. -/

namespace Sys2Proof.Machine

/-- A release waits until the warp's earlier stores are performed (R153, R162). -/
def State.release (s : State) (go : State → State) : State := if s.releaseReady then go s else s.hold

/-- An acquire waits until the warp's earlier reads are performed, whose writes it pairs with (R263). -/
def State.acquire (s : State) (go : State → State) : State := if s.readsDone then go s else s.hold

def execFence (sc : Fin 64) (o : BitVec 2) (s : State) : Host.Outcome State Fault Refusal :=
  s.issue { legal := o != 0 && sc.val ≤ 4 } fun s =>
    let go := fun s : State => if o.getLsbD 0 then s.acquire State.advance else s.advance
    if o.getLsbD 1 then s.release go else go s

/-! ## The bind table (R265) -/

def State.setBinds (s : State) (bs : List Bind) : State := s.setContext { s.myContext with binds := bs }

/-- The checks of BIND on the region, in order. -/
def bindFault (bs : List Bind) (obj base len : Nat) : Option Cause :=
  firstFault
    [ faultUnless (base % 128 == 0) .align
    , faultUnless (len != 0 && len % 128 == 0 && len ≤ 2 ^ 32) .range
    , faultUnless (base + len ≤ 2 ^ 57) .range
    , faultUnless (bs.any (fun b => b.obj == obj && b.base == base) || bs.length < 256) .range ]

/-- An (object, base) pair gets a length. -/
def bind (bs : List Bind) (obj base len : Nat) : List Bind :=
  if bs.any fun b => b.obj == obj && b.base == base then
    bs.map fun b => if b.obj == obj && b.base == base then { b with len := len } else b
  else bs ++ [{ obj := obj, base := base, len := len }]

def execBindR (a b : Fin 64) (s : State) : Host.Outcome State Fault Refusal :=
  s.issue
    { legal := b.val != 0 && b.val != 63
      srcs := [(.s a, false), (.s b, false), (.s (regAt b 1), false)] } fun s =>
    let obj := s.warp.readS a
    let base := (s.warp.readS b).toNat
    let len := (s.warp.readS (regAt b 1)).toNat
    s.objectUnit obj 128 true fun s _ =>
      match bindFault s.myContext.binds obj.toNat base len with
      | some c => s.trap c
      | none => (s.setBinds (bind s.myContext.binds obj.toNat base len)).advance

def execUnbind (a b : Fin 64) (s : State) : Host.Outcome State Fault Refusal :=
  s.issue { legal := b.val != 0 && b.val != 63, srcs := [(.s a, false), (.s b, false)] } fun s =>
    let obj := s.warp.readS a
    let base := (s.warp.readS b).toNat
    s.objectUnit obj 128 true fun s _ =>
      if base % 128 ≠ 0 then s.trap .align
      else if 2 ^ 57 ≤ base then s.trap .range
      else (s.setBinds (s.myContext.binds.filter fun x => !(x.obj == obj.toNat && x.base == base))).advance

/-! ## ACQ and REL (R264) -/

def execAcq (a : Fin 64) (q : Fin 16) (s : State) : Host.Outcome State Fault Refusal :=
  s.issue { legal := q.val ≤ 4, srcs := [(.s a, false)] } fun s =>
    s.acquire fun s => s.objectUnit (s.warp.readS a) 128 true fun s _ => s.advance

def execRel (a : Fin 64) (q : Fin 16) (s : State) : Host.Outcome State Fault Refusal :=
  s.issue { legal := q.val ≤ 4, srcs := [(.s a, false)] } fun s =>
    s.release fun s => s.objectUnit (s.warp.readS a) 128 true fun s _ => s.advance

end Sys2Proof.Machine
end

