-- ==== Sys2Proof/Machine/Launch.lean ====
section
/-! DEFINITION. Launch queues, LAUNCH, LEASE and SETPL, major 0x34 (R274–R278, R280, R291–R296). -/

namespace Sys2Proof.Machine

/-! ## Queues (R274, R278) -/

def State.queue (s : State) (q : Nat) : Queue := s.queues[q]?.getD Queue.start

def State.mapQueue (s : State) (q : Nat) (f : Queue → Queue) : State :=
  { s with queues := Vector.ofFn fun k => if k.val = q then f s.queues[k] else s.queues[k] }

/-- Records enqueued and not read, and whether the ring is full. -/
def Queue.waiting (q : Queue) : Nat := (q.tail - q.head).toNat
def Queue.full (q : Queue) : Bool := q.waiting == 2 ^ q.size

/-- The ticket of record `n` of a queue. -/
def ticketOf (q : Nat) (n : BitVec 32) : Nat := 2 ^ 63 + q * 2 ^ 32 + n.toNat

/-- The place of a slot, through the owning context's page table. -/
def State.slotPlace (s : State) (q : Nat) (i : BitVec 32) (w : Bool) : State × Option (Nat × Nat) :=
  let u := s.queue q
  match s.reach (remoteAgent u.ctx) 0 (u.base.toNat + 128 * (i.toNat % 2 ^ u.size)) 128 1 (!w) w with
  | (s', .at_ loc kind _) => (s', some (loc, kind))
  | (s', .fails _) => (s', none)

/-! ## LAUNCH (R280) -/

/-- The checks on the operands, in order. -/
def State.launchFault (s : State) (a q : Word64) : Option Cause :=
  let u := s.queue q.toNat
  firstFault
    [ faultUnless (q.toNat ≤ 63) .range
    , faultUnless (a.toNat % 128 == 0) .align
    , faultUnless (u.size != 0 && u.ctx == s.warp.ctx && u.device) .range ]

/-- The record is appended, or the full queue answers 0. -/
def State.enqueue (s : State) (q : Nat) (bs : List Byte) (d : Fin 64) : State :=
  let u := s.queue q
  if u.full then s.scalarResult d 0
  else match s.slotPlace q u.tail true with
    | (s', none) => s'.hold
    | (s', some (loc, kind)) =>
      ((s'.writeAt (remoteAgent u.ctx) kind loc bs).mapQueue q fun v => { v with tail := v.tail + 1 }).scalarResult d
        (BitVec.ofNat 64 (ticketOf q u.tail))

def execLaunch (a b d : Fin 64) (s : State) : Host.Outcome State Fault Refusal :=
  s.issue { dests := [.s d], srcs := [(.s a, false), (.s b, false)] } fun s =>
    let ea := s.warp.readS a
    let q := s.warp.readS b
    match s.launchFault ea q with
    | some c => s.trap c
    | none =>
      s.release fun s => s.onceAt 0 ea 128 128 true false fun s loc kind =>
        if s.poisoned loc 128 then s.trap .poison
        else
          let (s', bs) := s.readAt s.warp.agent kind loc 128
          s'.enqueue q.toNat bs d

/-! ## LEASE and SETPL (R291, R292, R296) -/

def execLease (a : Fin 64) (q : Fin 4) (s : State) : Host.Outcome State Fault Refusal :=
  s.issue { legal := q.val ≤ 2 && (q.val != 1 || a == 0), srcs := [(.s a, false)] } fun s =>
    let n := (s.warp.readS a).toNat
    if q.val = 1 then (s.onWarp fun w => { w with lease := { w.lease with mode := 1 } }).advance
    else if n = 0 ∨ 4095 < n then s.trap .range
    else (s.onWarp fun w => { w with lease := { w.lease with mode := q.val, n := n } }).advance

def execSetpl (a : Fin 64) (s : State) : Host.Outcome State Fault Refusal :=
  s.issue { srcs := [(.s a, false)] } fun s =>
    let x := s.warp.readS a
    if 7 < x.toNat then s.trap .range else (s.onWarp fun w => { w with plreq := x.setWidth 3 }).advance

end Sys2Proof.Machine
end

