-- ==== Sys2Proof/Machine/Csr.lean ====
section
/-! DEFINITION. The control and status registers, major 0x38 (R64–R66, R327, R328). -/

namespace Sys2Proof.Machine

/-- The instructions that have issued on a site have completed, those that wait on another agent apart (R353). -/
def State.drained (s : State) (i : Nat) : Bool :=
  (s.site i).halted && s.warps.all fun w => !(w.live && w.resident && w.site == i) || s.quiet w

/-- A mask of sites. -/
def siteBits (f : Nat → Bool) : Nat := ((List.range 8).map fun i => (f i).toNat * 2 ^ i).sum

/-- A token bucket as its CSR shows it (R301). -/
def Bucket.word (b : Bucket) : Word64 :=
  BitVec.ofNat 64 (b.rate + b.depth * 2 ^ 16 + (b.fill % 2 ^ 17).toNat * 2 ^ 32)

/-- A bucket of the issuing warp's context, brought up to date. -/
def State.bucket (s : State) (k : Nat) : Bucket := ((s.myContext.buckets[k]?).getD Bucket.start).settle s.clock.toNat

/-- The value of a CSR as the issuing warp reads it. -/
def State.csrVal (s : State) (c : Nat) : Word64 :=
  let w := s.warp
  let x := s.myContext
  let n := BitVec.ofNat 64
  match c with
  | 0x01 => n w.warpid
  | 0x02 => n s.myGang.index
  | 0x03 => n s.myGrid.gridid
  | 0x04 => n w.site
  | 0x05 => n (s.site w.site).gen
  | 0x06 => n s.pkglvl
  | 0x07 => n s.gridLevel
  | 0x08 => s.clock
  | 0x09 => w.dead.setWidth 64
  | 0x0A => w.dsrc.setWidth 64
  | 0x0B => w.fpflags.setWidth 64
  | 0x0C => w.stklim
  | 0x0D => n (w.lease.lambda + w.lease.mode * 2 ^ 32)
  | 0x0E => w.plreq.setWidth 64
  | 0x10 => n (w.cnt 0)
  | 0x11 => n (w.cnt 1)
  | 0x12 => n (w.cnt 2)
  | 0x13 => n (w.cnt 3)
  | 0x14 => w.trapvec
  | 0x15 => n ((w.trapcause.map Cause.code).getD 0)
  | 0x16 => w.trappc.setWidth 64
  | 0x17 => w.traplanes.setWidth 64
  | 0x18 => s.fabric.fabid.setWidth 64
  | 0x20 => if s.myGang.acc = 0 then 0 else s.myGang.mx.ashape.setWidth 64
  | 0x21 => if s.myGang.acc = 0 then 0 else s.myGang.mx.mxstat
  | 0x40 => x.plcap.setWidth 64
  | 0x41 => (s.bucket 0).word
  | 0x42 => (s.bucket 1).word
  | 0x43 => (s.bucket 2).word
  | 0x44 => (s.bucket 3).word
  | 0x48 => x.retrymax.setWidth 64
  | 0x49 => x.affpat.setWidth 64
  | 0x4A => x.dlkperiod.setWidth 64
  | 0x4B => x.parkthr.setWidth 64
  | 0x50 => x.asid.setWidth 64
  | 0x51 => x.ptbase
  | 0x52 => x.landtbl
  | 0x60 => (s.site w.site).admission.setWidth 64
  | 0x61 => n (siteBits (fun i => (s.site i).halted) + siteBits s.drained * 2 ^ 8)
  | 0x62 => (s.site w.site).dropped.setWidth 64
  | _ => 0

/-- A write of RATE and DEPTH: a new DEPTH sets FILL (R301). -/
def Bucket.write (b : Bucket) (v : Nat) : Bucket :=
  let depth := bitsOf v 16 16
  let b := { b with rate := bitsOf v 0 16, depth := depth, fill := if depth = b.depth then b.fill else depth }
  { b with frac := if b.fill = depth then 0 else b.frac }

/-- The writable fields of a CSR take the bits of V; DSRCMASK loses the bits that are 1 in the source (R327). PTBASE keeps
all 64 bits (log 89). -/
def State.csrWrite (s : State) (c : Nat) (v src : Word64) : State :=
  let x := s.myContext
  match c with
  | 0x0A => s.onWarp fun w => { w with dsrc := w.dsrc &&& ~~~(src.setWidth 32) }
  | 0x0B => s.onWarp fun w => { w with fpflags := v.setWidth 5 }
  | 0x14 => s.onWarp fun w => { w with trapvec := BitVec.ofNat 64 (bitsOf v.toNat 2 55 * 4) }
  | 0x40 => s.setContext { x with plcap := v.setWidth 3 }
  | 0x41 | 0x42 | 0x43 | 0x44 =>
    s.setContext { x with buckets := Vector.ofFn fun i =>
      if i.val + 0x41 = c then (x.buckets[i].settle s.clock.toNat).write v.toNat else x.buckets[i] }
  | 0x48 => s.setContext { x with retrymax := v.setWidth 4 }
  | 0x49 => s.setContext { x with affpat := v.setWidth 32 }
  | 0x4A => s.setContext { x with dlkperiod := v.setWidth 32 }
  | 0x4B => s.setContext { x with parkthr := v.setWidth 32 }
  | 0x50 => s.setContext { x with asid := v.setWidth 16 }
  | 0x51 => s.setContext { x with ptbase := v }
  | 0x52 => s.setContext { x with landtbl := BitVec.ofNat 64 (bitsOf v.toNat 0 57) }
  | _ => s

/-- The number is reached from privileged warps alone (R64). -/
def csrPrivileged (c : Nat) : Bool := 0x40 ≤ c

/-- A CSR instruction: one step that reads, writes and delivers the old value. A register whose check is uncorrectable raises
POISON (R341, R342). -/
def csrUnit (write : Option (Word64 → Word64 → Word64)) (d a : Fin 64) (c : Fin 256) (s : State) :
    Host.Outcome State Fault Refusal :=
  s.issue
    { dests := [.s d], srcs := if write.isSome then [(.s a, false)] else []
      legal := csrAssigned c, csrDenied := csrPrivileged c.val && !s.privileged } fun s =>
    if c.val = 0x0B ∧ s.warp.pend.any s.accumulates then s.hold
    else if s.warp.csrPoison.getLsbD c.val then s.trap .poison
    else
      let old := s.csrVal c.val
      let src := s.warp.readS a
      let s := match write with
        | some f => s.csrWrite c.val (f old src) src
        | none => s
      (s.onWarp fun w => w.writeS d old).advance

def execCsrr (d : Fin 64) (c : Fin 256) (s : State) : Host.Outcome State Fault Refusal := csrUnit none d 0 c s
def execCsrw (d a : Fin 64) (c : Fin 256) (s : State) : Host.Outcome State Fault Refusal :=
  csrUnit (some fun _ x => x) d a c s
def execCsrset (d a : Fin 64) (c : Fin 256) (s : State) : Host.Outcome State Fault Refusal :=
  csrUnit (some fun old x => old ||| x) d a c s
def execCsrclr (d a : Fin 64) (c : Fin 256) (s : State) : Host.Outcome State Fault Refusal :=
  csrUnit (some fun old x => old &&& ~~~x) d a c s

end Sys2Proof.Machine
end

