-- ==== Sys2Proof/Machine/Trap.lean ====
section
/-! DEFINITION. Trap handling by the warp itself, major 0x39 (R332–R337, R340, R344). -/

namespace Sys2Proof.Machine

/-! ## A logged or trapped unit performed again (R161, R334) -/

/-- What a unit on one global address does at its place. -/
def JobKind.lineEffect (k : JobKind) (ea : Nat) : Option LineEffect :=
  match k with
  | .llock t _ => some (lockGo ea t false)
  | .ltry _ => some (lockGo ea 0 true)
  | .lunlock => some unlockGo
  | .lstat _ => some statGo
  | .lyield t _ => some (yieldGo t)
  | .waitcmp q c t _ => some (waitGo q c t)
  | .load _ | .store _ | .zero | .touch | .atomic _ _ _ => none

/-- A unit on one global address acts for its pending instruction, or fails. -/
def State.lineAgain (s : State) (k : JobKind) (ea : Word64) (pend : Nat) (go : LineEffect) : State × Option Cause :=
  match s.linePlace k.lineCheck.1 k.lineCheck.2 ea with
  | (s', .error c) => (s', some c)
  | (s', .ok loc) =>
    match s'.warp.slotFault k ea.toNat (some (lineOf loc)) with
    | some c => (s', some c)
    | none =>
      match go s' loc pend with
      | (s'', .done v) => (s''.answer s.warp.uid pend v, none)
      | (s'', .later) => (s'', none)
      | (_, .fails c) => (s', some c)

/-- The lanes of a unit performed: those that fail, or the token classes that hold them. A unit on one global address acts
once for all of them. -/
def State.again (s : State) (j : Job) (lanes : Word32) (k : Nat) (watch : Bool) :
    State × Except (List Nat) (List (Nat × Cause × Word64)) :=
  let ea := j.ea[(0 : Fin 32)]
  match j.kind.lineEffect ea.toNat with
  | none => s.redoLanes j lanes k watch
  | some go =>
    match s.lineAgain j.kind ea k go with
    | (s', none) => (s', .ok [])
    | (s', some c) => (s', .ok ((lanesOf lanes).map fun l => (l.val, c, ea)))

/-- The job of a unit with its sources read from the registers as they stand. -/
def MemUnit.job (u : MemUnit) (w : Warp) : Job :=
  match u.op with
  | .move store nt t a b z p => mJob store nt t a b z p w u.hints
  | .stack store t n i => stackJob store t n i w u.hints
  | .line clear a b p => lineJob (if clear then .zero else .touch) a b p.val w u.hints
  | .atom op d a b ty loc returns => atomJob op d a b ty loc returns w u.hints
  | .llock a b d => lineJobAt (.llock (w.timeout b) d) (w.readS a)
  | .ltry a d => lineJobAt (.ltry d) (w.readS a)
  | .lunlock a => lineJobAt .lunlock (w.readS a)
  | .lstat a d => lineJobAt (.lstat d) (w.readS a)
  | .lyield a b d => lineJobAt (.lyield (w.timeout b) d) (w.readS a)
  | .waitcmp a b d q =>
    lineJobAt (.waitcmp q.val (w.readS b) (if b = 0 then 0 else w.timeout (regAt b 1)) d) (w.readS a)

/-- The source registers of a unit. -/
def MemUnit.sources (u : MemUnit) : List Reg :=
  match u.op with
  | .move store _ t a b z _ => .s b :: .v a :: if store then group t (groupSize z.val) else []
  | .stack store t n _ => .s 62 :: if store then group t n else []
  | .line _ a b _ => [.s b, .v a]
  | .atom op _ a b ty loc _ => atomSources op a b ty loc
  | .llock a b _ | .lyield a b _ => [.s a, .s b]
  | .ltry a _ | .lunlock a | .lstat a _ => [.s a]
  | .waitcmp a b _ _ => .s a :: if b = 0 then [] else [.s b, .s (regAt b 1)]

/-- The unit-wide check of R149 that REPLAY makes on s62 as it stands. -/
def MemUnit.stackFails (u : MemUnit) (w : Warp) : Option Cause :=
  match u.op with
  | .stack _ _ n i => w.stackCheck (w.readS 62) (u.hints.imm i).toInt n
  | _ => none

/-! ## REPLAY (R334) -/

/-- The lanes of F and their causes and addresses replace theirs in the record, and P follows. -/
def TrapMode.replayed (t : TrapMode) (sel : Word32) (bad : List (Nat × Cause × Word64)) : TrapMode :=
  let hit := fun l : Nat => bad.any (·.1 == l)
  { t with
    lanes := (t.lanes &&& ~~~sel) ||| lanesMask (bad.map (·.1))
    record := { t.record with
      ea := t.record.ea.filter (fun x => !hit x.1) ++ bad.map fun b => (b.1, b.2.2)
      causes := t.record.causes.filter (fun x => !hit x.1) ++ bad.map fun b => (b.1, b.2.1) } }

/-- The warp stalls on the pages of some lanes of a REPLAY: the record stays as it is, the lanes that are done leave P
(R359). -/
def State.stallLanes (s : State) (sel : Word32) (bad : List (Nat × Cause × Word64)) (u : MemUnit) (k : Nat) : State :=
  let left := fun t : TrapMode => { t with lanes := (t.lanes &&& ~~~sel) ||| lanesMask (bad.map (·.1)) }
  (s.postTagged (s.recordOf (s.laneRaised bad u k))).onWarp fun w =>
    { w with stall := some s.nextTag, trap := w.trap.map left }

/-- The destination group goes full once P is empty. -/
def State.fillReplayed (s : State) : State :=
  match s.warp.trap with
  | none => s
  | some t =>
    if t.lanes ≠ 0 then s
    else
      let s := (s.warp.pend.filter fun p => t.pend == some p.id && p.kind == .lanes).foldl State.completeNow s
      s.onWarp fun w => { w with trap := w.trap.map fun t => { t with pend := none } }

/-- A REPLAY of the lanes `sel` ends: the record and P follow from the lanes that failed, here and at fabric peers. -/
def State.endReplay (s : State) (sel : Word32) (bad : List (Nat × Cause × Word64)) : State × Word64 :=
  let k := (s.warp.trap.bind (·.pend)).getD 0
  let far := ((s.warp.pend.find? (·.id == k)).map s.warp.refused).getD []
  let bad := sortBy (fun a b => decide (a.1 ≤ b.1)) (bad ++ far)
  (((s.onWarp fun w => { w.clearFaults k with trap := w.trap.map fun t => t.replayed sel bad }).fillReplayed),
    (lanesMask (bad.map (·.1))).setWidth 64)

/-- The lanes that failed here are noted with the unit, until those at fabric peers have been answered. -/
def Warp.noteFaults (w : Warp) (k : Nat) (bad : List (Nat × Cause × Word64)) : Warp :=
  { w with pend := w.pend.map fun p => if p.id == k then { p with faults := p.faults ++ bad } else p }

/-- REPLAY of the lanes `sel` of P. -/
def State.replayLanes (s : State) (t : TrapMode) (u : MemUnit) (sel : Word32) (d : Fin 64) : State :=
  let j := u.job s.warp
  let k := t.pend.getD 0
  let finish := fun (s : State) (bad : List (Nat × Cause × Word64)) =>
    let (s, f) := s.endReplay sel bad
    s.scalarResult d f
  match u.stackFails s.warp with
  | some c => finish s ((lanesOf sel).map fun l => (l.val, c, j.ea[l]))
  | none =>
    let poison := s.warp.poisonIn u.sources &&& sel
    match s.again j (sel &&& ~~~poison) k false with
    | (_, .error dry) => if dry.isEmpty then s.hold else s.holdDry dry
    | (s', .ok bad) =>
      let s := s'.killLate k poison 0
      if bad.any (fun b => b.2.1 == .pagefault) && !s.warp.unmapped then s.stallLanes sel bad u k
      else
        let once := (j.kind.lineEffect 0).isSome && bad.isEmpty
        let s := s.onWarp fun w => { w with
          unmapped := false
          trap := w.trap.map fun t => if once then { t with lanes := 0 } else t }
        if s.laneAway s.warp.uid k then
          (s.onWarp fun w => (w.noteFaults k bad).addPend (.replay sel) [.s d] [] 0 true).advance
        else finish s bad

def execReplay (d a : Fin 64) (s : State) : Host.Outcome State Fault Refusal :=
  s.issue { dests := [.s d], srcs := [(.s a, false)] } fun s =>
    match s.warp.trap with
    | none => s.trap .range
    | some t =>
      let sel := (s.warp.readS a).setWidth 32 &&& t.lanes
      match t.unit with
      | none => s.scalarResult d 0
      | some u =>
        let held := ((s.warp.pend.find? fun p => t.pend == some p.id).map (·.dests)).getD []
        if sel = 0 then s.fillReplayed.scalarResult d 0
        else if u.sources.any fun r => !s.warp.full r && !held.contains r then s.hold
        else if u.sources.any s.warp.scalarPoison then s.trap .poison
        else s.replayLanes t u sel d

/-! ## FREC and TRET (R333, R335) -/

def execFrec (d a : Fin 64) (s : State) : Host.Outcome State Fault Refusal :=
  s.issue { dests := [.s d], srcs := [(.s a, false)] } fun s =>
    match s.warp.trap with
    | none => s.trap .range
    | some t =>
      let i := (s.warp.readS a).toNat
      s.scalarResult d (if i < 128 then t.record.dword i else 0)

def execTret (a : Fin 64) (s : State) : Host.Outcome State Fault Refusal :=
  s.issue { srcs := [(.s a, false)], cond := if s.warp.fused then none else some .illconv } fun s =>
    match s.warp.trap with
    | none => s.trap .range
    | some t =>
      let target := s.warp.readS a
      if a = 0 then s.returnFromTrap t t.record.rpc
      else if t.record.logged then s.trap .range target
      else if target.toNat % 4 ≠ 0 then s.trap .align target
      else if 2 ^ 57 ≤ target.toNat then s.trap .range target
      else s.returnFromTrap t (target.setWidth 57)

/-! ## LKILL and CTXKILL (R344, R340) -/

def execLkill (a : Fin 64) (s : State) : Host.Outcome State Fault Refusal :=
  s.issue { srcs := [(.s a, false)] } fun s =>
    s.advance.onWarp fun w => w.kill ((s.warp.readS a).setWidth 32 &&& ~~~w.dead)

def execCtxkill (a k : Fin 64) (s : State) : Host.Outcome State Fault Refusal :=
  s.issue { srcs := [(.s a, false)] } fun s =>
    let c := (s.warp.readS a).toNat
    if 64 ≤ c then s.trap .range
    else if !s.privileged && c != s.warp.ctx then s.trap .priv
    else if (s.context? c).isNone then s.advance
    else
      let s' := s.endContext c .trapinsn k.val
      if c = s.warp.ctx then s' else s'.advance

end Sys2Proof.Machine
end

