-- ==== Sys2Proof/Machine/Pages.lean ====
section
/-! DEFINITION. Shoot-downs, page migration and page homes, major 0x3A (R156, R164–R166, R348). -/

namespace Sys2Proof.Machine

/-- An instruction of major 0x3A issues, in a privileged warp alone (R58 step 2). -/
def pageIssue (srcs : List (Fin 64)) (effect : State → State) (s : State) : Host.Outcome State Fault Refusal :=
  s.issue { denied := !s.privileged, srcs := srcs.map fun r => (.s r, false) } effect

/-- The fragment stops until the pending instruction completes. -/
def State.blockOnPage (s : State) : State := (s.onWarp fun w => w.addPend .page [] [] 0 true).advance

/-- Pending instruction `k` of a warp may complete; it writes nothing. -/
def State.unwait (s : State) (uid k : Nat) : State := s.answer uid k 0

/-- A change made as another warp, whose place in focus it takes for it. -/
def State.as (s : State) (uid : Nat) (f : State → State) : State :=
  match s.findWarp uid with
  | none => s
  | some _ => (f (s.focus uid)).focus s.warp.uid

/-! ## TLBINV and TLBFLUSH (R164, R348) -/

/-- The translation units of the package, by number: the cores, the dies, the clusters' walk-ahead buffers. -/
def tlbUnitAt (i : Nat) : TlbUnit :=
  if i < 512 then .core (i / 64) (i / 4 % 16) (i % 4)
  else if i < 520 then .die (i - 512)
  else .walk ((i - 520) / 16) ((i - 520) % 16)

/-- Accesses that a unit has translated travel to a fabric peer: those of a core's warps, or of a cluster's commands. -/
def State.unitBusy (s : State) (u : TlbUnit) : Bool :=
  match u with
  | .core a b c => s.fabric.tx.any fun t => match t.kind with
      | .lane w _ _ _ _ _ => s.warps.any fun x => x.uid == w && x.coreNo == 64 * a + 4 * b + c
      | .command _ _ => false
  | .die _ => false
  | .walk a b => s.cmds.any fun c => c.phase == .sent && (s.gang c.gang).site == a && (s.gang c.gang).cluster == b

/-- A shoot-down starts: the units that hold an entry it names, or have accesses under way that may have used one, have
to acknowledge it (R164). -/
def State.startShootdown (s : State) (asid : Option (BitVec 16)) (va : Option Nat) (warp pend : Nat)
    (tag : Option Nat) (ctx : Nat) : State :=
  let k : Shootdown := { id := s.nextUid, units := [], asid := asid, va := va, warp := warp, pend := pend, tag := tag,
                         ctx := ctx }
  let busy := ((List.range 648).map tlbUnitAt).filter s.unitBusy
  let k : Shootdown := { k with units := ((s.tlb.filter k.names).map (·.unit) ++ busy).eraseDups }
  { s with nextUid := s.nextUid + 1, shootdowns := s.shootdowns ++ [k] }

/-- A shoot-down that every unit has acknowledged ends: its instruction, or its mailbox command, is done. -/
def State.endShootdown (s : State) (k : Shootdown) : State :=
  let s := { s with shootdowns := s.shootdowns.filter (·.id != k.id) }
  match k.tag with
  | some t => s.post { FaultRecord.empty with kind := 3, tag := t, ctx := k.ctx }
  | none => s.unwait k.warp k.pend

def State.endShootdowns (s : State) : State :=
  (s.shootdowns.filter (·.units.isEmpty)).foldl State.endShootdown s

/-- A unit drops the entries that a shoot-down names and acknowledges it. -/
def State.acknowledge (s : State) (k : Shootdown) (u : TlbUnit) : State :=
  if !k.units.contains u || s.unitBusy u then s
  else
    { s with
      tlb := s.tlb.filter fun e => !(e.unit == u && k.names e)
      shootdowns := s.shootdowns.map fun (j : Shootdown) => if j.id == k.id then { j with units := j.units.erase u } else j
    }.endShootdowns

def execTlbinv (b a : Fin 64) (m : Fin 4) (s : State) : Host.Outcome State Fault Refusal :=
  s.issue { denied := !s.privileged, legal := m.val ≤ 2, srcs := [(.s a, false), (.s b, false)] } fun s =>
    let asid := (s.warp.readS b).setWidth 16
    (s.blockOnPage.startShootdown (if m.val = 2 then none else some asid)
      (if m.val = 0 then some (s.warp.readS a).toNat else none) s.warp.uid s.warp.nextPend none 0).endShootdowns

/-! ## PGLOCK (R165, R166) -/

/-- A line lock of the page is held or queued. -/
def State.locksIn (s : State) (page size : Nat) : Bool :=
  s.locks.any fun l => inPage page size l.line && (l.holder.isSome || !l.queue.isEmpty)

/-- Every registered word and partial value of a page is recalled to its home (R153, R234). -/
def State.recallPage (s : State) (page size : Nat) : State :=
  let s := (s.partials.filter fun p => inPage page size p.loc).foldl State.combine
    { s with partials := s.partials.filter fun p => !inPage page size p.loc }
  { s with regs := s.regs.filter fun r => !inPage page size r.line }

/-- A requested migration starts once no line lock of its page is held or queued: steps 1 and 2 of R165. -/
def State.startLock (s : State) (p : PageLock) : State :=
  if p.started || s.locksIn p.page p.size then s
  else
    ({ s.recallPage p.page p.size with pageLocks := s.pageLocks.map fun (q : PageLock) =>
        if q.page == p.page && q.size == p.size then { q with started := true } else q }).unwait p.warp p.pend

/-- log2 of a page size code (R348). -/
def pageCode (z : Fin 4) : Nat := [12, 16, 21, 30].getD z.val 12

/-- The number names no place of local memory, or one off its page's alignment (R348). -/
def badPage (loc size : Nat) : Bool := localLimit ≤ loc || loc % 2 ^ size != 0

/-- The page of a lock has a byte in common with another. -/
def PageLock.meets (p : PageLock) (page size : Nat) : Bool := pagesMeet p.page p.size page size

def State.pgLock (s : State) (page size : Nat) : State :=
  if s.pageLocks.any fun p => p.page == page && p.size == size && p.started then s.advance
  else if s.pageLocks.any fun p => p.meets page size then s.hold
  else
    let p : PageLock := { page := page, size := size, started := false, warp := s.warp.uid, pend := s.warp.nextPend
                          copied := none, held := [] }
    let s := s.blockOnPage
    { s with pageLocks := s.pageLocks ++ [p] }.startLock p

/-! ## Held writes replay (R165 step 6) -/

/-- A transaction held here is answered POISON. -/
def State.poisonArrival (s : State) (id : Nat) : State :=
  let mark := fun x : Finishing => match x.finish with
    | .access d i _ => if x.id == id then { x with finish := .access d i Cause.poison.code } else x
    | _ => x
  { s with fabric := { s.fabric with finishing := s.fabric.finishing.map mark } }

/-- A returning atomic that was held executes; its lane, killed meanwhile or not, gets the old value, or is killed by
poison (R229, R342). One that came from a fabric peer has no lane here. -/
def State.heldAtomic (s : State) (h : HeldWrite) (loc : Nat) (op : AtomOp) (ty : Nat) (val new : Word64)
    (pend base lane : Nat) (ea : Word64) : State :=
  let l := Fin.ofNat 32 lane
  let mask := maskOf fun k => k == l
  if s.poisoned loc (typeBytes ty) then
    match h.origin with
    | .warp uid _ => s.as uid fun s => s.killLate pend mask ea
    | .arrival id => s.poisonArrival id
    | _ => s
  else
    let (s, old) := s.atom loc op ty val.toNat new.toNat
    match h.origin with
    | .warp uid _ => s.mapWarp uid fun w => w.pokeAll ((List.range (typeBytes ty / 4)).map fun i =>
        RegWrite.v (Fin.ofNat 64 (base + i)) mask (Vector.replicate 32 (BitVec.ofNat 32 (old / 2 ^ (32 * i)))))
    | _ => s

/-- The context of an agent. -/
def State.originCtx (s : State) : Origin → Nat
  | .outside => 0
  | .warp uid _ => ((s.findWarp uid).map (·.ctx)).getD 0
  | .command id => ((s.cmds.find? (·.id == id)).map (·.ctx)).getD 0
  | .arrival id => ((s.fabric.finishing.find? (·.id == id)).map (·.ctx)).getD 0

/-- What is done to some bytes of local memory passes their LLC slices (R152). -/
def State.passLines (s : State) (ctx loc n : Nat) (write : Bool) : State :=
  if 2 ^ 51 ≤ loc then s else (linesOf loc n).foldl (fun s l => s.llcAccess ctx l write) s

/-- A held write is performed in the frame `page`; a poisoned one leaves its mark (R179). -/
def State.replayHeld (page : Nat) (s : State) (h : HeldWrite) : State :=
  let loc := page + h.off
  let s := ((s.recallLines (linesOf loc h.kind.size)).passLines (s.originCtx h.origin) loc h.kind.size true).pushWords loc
    h.kind.size
  let mark := fun s : State => if h.bad then s.markPoison loc else s
  match h.kind with
  | .bytes bs => mark (s.poke loc bs)
  | .bits o n v => mark (s.pokeBits loc o n v)
  | .reduce op ty val => mark (s.reduceAt loc op ty val.toNat)
  | .amo op ty val new pend base lane ea => s.heldAtomic h loc op ty val new pend base lane ea

/-- A migration ends: its lock bit clears, the held writes are performed on `page`, and lock requests, commands and
arrivals that waited go on. -/
def State.endLock (s : State) (p : PageLock) (page : Nat) : State :=
  let s := { s with pageLocks := s.pageLocks.filter fun q => !(q.page == p.page && q.size == p.size) }
  (p.held.foldl (State.replayHeld page) s).admitLocks.settleHeld

def State.pgAbort (s : State) (page size : Nat) : State :=
  match s.pageLocks.find? fun p => p.page == page && p.size == size with
  | none => s.advance
  | some p => ((s.endLock p p.page).unwait p.warp p.pend).advance

def execPglock (a : Fin 64) (z : Fin 4) (l : Bool) (s : State) : Host.Outcome State Fault Refusal :=
  pageIssue [a] (fun s =>
    let page := (s.warp.readS a).toNat
    if badPage page (pageCode z) then s.trap .range
    else if l then s.pgLock page (pageCode z)
    else s.pgAbort page (pageCode z)) s

/-! ## PGSWAP (R165 steps 5 and 6) -/

/-- A place of the old frame as the same place of the new one. -/
def moved (p : PageLock) (page loc : Nat) : Nat :=
  if inPage p.page p.size loc then page + loc % 2 ^ p.size else loc

/-- What waits on the page waits at its new frame: monitors, lock requests and the slots and instructions that name
them, lock entries that are marked free (R166). -/
def State.follow (s : State) (p : PageLock) (page : Nat) : State :=
  let mv := moved p page
  let pend := fun q : Pending => match q.kind with
    | .lock line => { q with kind := .lock (mv line) }
    | .ltry line => { q with kind := .ltry (mv line) }
    | _ => q
  let warp := fun w : Warp => { w with
    locks := w.locks.map fun l => { l with line := mv l.line }
    pend := w.pend.map pend }
  { s with
    monitors := s.monitors.map fun m => { m with loc := mv m.loc }
    locks := s.locks.map fun l => { l with line := mv l.line }
    lockWaits := s.lockWaits.map fun q => { q with line := mv q.line }
    warp := warp s.warp
    fabric := { s.fabric with finishing := s.fabric.finishing.map fun (x : Finishing) =>
      { x with flag := x.flag.map fun f => (f.1, mv f.2) } }
    others := s.others.map warp }

/-- The new frame belongs to the owners of the page that has moved there, and to no one before (R165, R356). -/
def State.handOver (s : State) (p : PageLock) (page : Nat) : State :=
  let os := s.owners.filter fun o => p.meets o.page o.size
  let kept := s.owners.filter fun o => !(inPage page p.size o.page && decide (o.size ≤ p.size))
  if os.isEmpty then { s with owners := kept }
  else { s with owners := kept ++ [{ page := page, size := p.size, ctxs := os.flatMap (·.ctxs) }] }

def execPgswap (b a : Fin 64) (s : State) : Host.Outcome State Fault Refusal :=
  pageIssue [a, b] (fun s =>
    let at_ := (s.warp.readS a).toNat
    let new := s.warp.readS b
    if localLimit ≤ at_ ∨ at_ % 8 ≠ 0 then s.trap .range
    else
      let (s, old) := s.readAt s.warp.agent 0 at_ 8
      let frame := bitsOf (bytesToNat old) 12 40 * 4096
      match s.pageLocks.find? fun p => p.started && p.page == frame with
      | none => s.trap .range
      | some p =>
        let page := bitsOf new.toNat 12 40 * 4096
        let s := s.writeAt s.warp.agent 0 at_ (natToBytes 8 new.toNat)
        let s := { s with tlb := s.tlb.filter fun e => !(e.map.kind == 0 && p.meets e.map.frame e.map.size) }
        ((((s.follow p page).handOver p page).endLock ((s.pageLocks.find? fun q => q.page == p.page && q.size == p.size).getD p)
          page)).advance) s

/-! ## HOMEMV (R156) -/

/-- The site is there for placement and page homes: admitted, not fenced, not harvested whole (R17, R27, R349). -/
def Site.inService (t : Site) : Bool := t.admitted && !t.fenced && t.harvest != BitVec.allOnes 16

/-- A home move ends once no line lock of the page is held or queued: its words are recalled, the new home serves it,
and lock requests that waited arrive. -/
def State.endMove (s : State) (h : PageHome) : State :=
  match h.moving with
  | none => s
  | some site =>
    if s.locksIn h.page h.size then s
    else
      let s := s.recallPage h.page h.size
      let s := { s with homes := s.homes.map fun (g : PageHome) =>
        if g.page == h.page then { g with site := site, moving := none, asker := none } else g }
      let s := match h.asker with
        | some (w, k) => s.unwait w k
        | none => s
      s.admitLocks

def execHomemv (b a : Fin 64) (s : State) : Host.Outcome State Fault Refusal :=
  pageIssue [a, b] (fun s =>
    let loc := (s.warp.readS a).toNat
    let site := (s.warp.readS b).toNat % 8
    let size := ((s.homeAt loc).map (·.size)).getD (s.pageSize loc)
    if badPage loc size || !(s.site site).inService then s.trap .range
    else
      let s := s.touchHome loc site
      match s.homeAt loc with
      | none => s.advance
      | some h =>
        if h.moving.isSome then s.hold
        else
          let ask := some (s.warp.uid, s.warp.nextPend)
          { s.blockOnPage with homes := s.homes.map fun (g : PageHome) =>
            if g.page == h.page then { g with moving := some site, asker := ask } else g }) s

end Sys2Proof.Machine
end

