-- ==== Sys2Proof/Machine/Debug.lean ====
section
/-! DEFINITION. Debugging, major 0x3B (R351–R355). -/

namespace Sys2Proof.Machine

/-! ## HALT (R353) -/

/-- HALTSTAT (R66). -/
def State.haltstat (s : State) : Word64 := s.csrVal 0x61

def execHalt (d a : Fin 64) (g : Bool) (s : State) : Host.Outcome State Fault Refusal :=
  s.issue { denied := !s.privileged, dests := [.s d], srcs := [(.s a, false)] } fun s =>
    let mask := (s.warp.readS a).toNat
    let old := s.haltstat
    let f := fun i : Fin 8 => if mask.testBit i.val then { s.sites[i] with halted := !g } else s.sites[i]
    { s with sites := Vector.ofFn f }.scalarResult d old

/-! ## STEP (R354) -/

/-- A warp in debug stop (R351). -/
def State.inDebugStop (s : State) (w : Warp) : Bool := w.debugStop || (s.site w.site).halted

/-- The warp that a STEP names, where it is in debug stop and the issuing warp may reach it (R326). -/
def State.stepTarget (s : State) (v : Word64) : Option Warp :=
  let id := bitsOf v.toNat 0 15
  let ctx := bitsOf v.toNat 16 6
  if !s.privileged && ctx != s.warp.ctx then none
  else s.warps.find? fun w => w.live && w.resident && w.warpid == id && w.ctx == ctx && s.inDebugStop w

/-- STEP and WATCH are refused to a warp that is neither privileged nor of a context marked for debugging (R58). -/
def State.debugDenied (s : State) : Bool := !s.privileged && !s.myContext.debug

def execStepW (d a : Fin 64) (g : Bool) (s : State) : Host.Outcome State Fault Refusal :=
  s.issue { denied := s.debugDenied, legal := !g || d == 0, dests := [.s d], srcs := [(.s a, false)] } fun s =>
    match s.stepTarget (s.warp.readS a) with
    | none => s.trap .range
    | some t =>
      if g then
        if (s.site t.site).halted then s.advance
        else (s.mapWarp t.uid fun w => { w with debugStop := false }).advance
      else if !t.allFrags.any t.eligible then s.scalarResult d 0
      else
        let s := (s.onWarp fun w => w.addPend (.step t.uid) [.s d] [] 0 true).advance
        s.mapWarp t.uid fun w => { w with stepping := true }

/-- A unit of a warp being stepped has been let issue: it waits still, it was a hint word, or the step is over and
STEP gets how many units have issued (R354). No fragment is left between its hints and their instruction (R49). -/
def State.stepped (before : Warp) (s : State) : State :=
  let answer := fun (s : State) (n : Word64) =>
    let s := s.mapWarp before.uid fun w => { w with stepping := false }.mapFrags Fragment.rewind
    s.warps.foldl (fun s x =>
      (x.pend.filter (·.kind == .step before.uid)).foldl (fun s p => s.answer x.uid p.id n) s) s
  if !before.stepping then s
  else
    match s.findWarp before.uid with
    | none => answer s 1
    | some w =>
      let same := w.frag.entry == before.frag.entry && w.frag.pc == before.frag.pc
      let held := same && w.frag.fetch == before.frag.fetch && w.frag.held
      if w.stall.isNone && (held || (same && w.frag.hints != {})) then s
      else answer s (if w.stall.isSome then 0 else 1)

/-! ## WATCH (R355) -/

def execWatch (a : Fin 64) (k : Fin 4) (l : Fin 8) (w : Fin 4) (s : State) : Host.Outcome State Fault Refusal :=
  s.issue { denied := s.debugDenied, srcs := [(.s a, false)] } fun s =>
    let x := s.myContext
    (s.setContext { x with watch := x.watch.set k { kind := w.val, addr := s.warp.readS a, len := l.val } }).advance

end Sys2Proof.Machine
end

