-- ==== Sys2Proof/Machine/EventCore.lean ====
section
/-! DEFINITION. Events of the cores, caches, slices and the directory: completions, the operand log, shoot-downs, home
moves, timers and scans. An event that is not due changes nothing. -/

namespace Sys2Proof.Machine

/-! ## Completion (R37, R185, R242, R251, R256) -/

/-- The warp is on a core that runs: what it waits for reaches it (R254, R289, R345, R353). -/
def State.reachable (s : State) (w : Warp) : Bool :=
  w.resident && !(s.site w.site).halted && ((s.site w.site).cluster w.cluster).gate == .awake

/-- A change of a cluster's gate, at the present cycle. -/
def State.setGate (s : State) (site cl : Nat) (g : Gate) : State :=
  s.mapCluster site cl fun c => { c with gate := g, gateAt := s.clock.toNat }

/-- Gating has begun and gives way to an arrival: it has not committed, or commits in this very cycle (R289). -/
def Cluster.givesWay (c : Cluster) (now : Nat) : Bool :=
  c.gate == .clockStopped || c.gate == .spilled || (c.gate == .isolated && c.gateAt == now)

/-- A match or a timeout of a monitor aborts the gating of its cluster at once, where it still can (R289). -/
def State.abortGating (s : State) (w : Warp) (p : Pending) : State :=
  match p.kind with
  | .monitor _ =>
    if w.resident && !(s.site w.site).halted && ((s.site w.site).cluster w.cluster).givesWay s.clock.toNat then s.setGate w.site w.cluster .awake
    else s
  | _ => s

/-- A fault raised in execution by a pending instruction, which leaves the warp; it resumes at the next unit. -/
def State.raisePending (s : State) (p : Pending) (cause : Cause) : State :=
  let f := (s.warp.blocked p.id).getD s.warp.frag
  let r : Raised := { cause := cause, pc := p.pc, entry := f.entry, lanes := f.mask &&& ~~~s.warp.dead, rpc := f.pc
                      stepped := p.stepped }
  (s.completeNow { p with writes := [], flags := 0 }).raiseLate p.gen r

/-- Lanes that failed at a peer trap as R163 gives; their instruction stays pending for REPLAY and TRET (R306). One whose
fragment has gone on traps as a logged unit does. -/
def State.raiseRemote (s : State) (p : Pending) : State :=
  let r : Raised := { cause := .pagefault, pc := p.pc, entry := 0, lanes := 0, rpc := 0, unit := p.unit, pend := some p.id
                      stepped := p.stepped }
  let r := match s.warp.blocked p.id with
    | some f => { r with entry := f.entry, rpc := f.pc }
    | none => { r with logged := true }
  (s.onWarp fun w => (w.clearFaults p.id).unblock p.id).raiseLate p.gen
    (r.ofLanes (sortBy (fun a b => decide (a.1 ≤ b.1)) (s.warp.refused p)))

/-- What a pending instruction of a warp waits for has come. -/
def State.completes (s : State) (w : Warp) (p : Pending) : Bool :=
  match p.kind with
  | .result => true
  | .lock _ | .ltry _ | .command _ | .page => p.ready
  | .monitor k => p.ready || s.monitors.any fun m => m.id == k && m.fired
  | .barrier => p.ready || p.fault.isSome
  | .waitc _ _ _ => false
  | .lanes => s.lanesDone w p.id
  | .node _ => p.ready
  | .replay _ => !s.laneAway w.uid ((w.trap.bind (·.pend)).getD 0)
  | .step t => p.ready && !(match s.findWarp t with
      | some x => x.stepping || x.raising.isSome || x.pend.any fun q => q.stepped && s.mustEnd x q
      | none => false)

/-- A pending instruction of the warp can complete now: where the site is halted or the cluster's clock stands, only one that
does not wait on another agent (R254, R289, R353). -/
def State.delivers (s : State) (w : Warp) (p : Pending) : Bool :=
  s.reachable w || p.kind == .result || (w.resident && (s.site w.site).halted && s.mustEnd w p)

/-- A monitor that has fired is disarmed with MATCHED, and its instruction completes. -/
def State.completeMonitor (s : State) (k : Nat) (p : Pending) : State :=
  match s.monitors.find? fun m => m.id == k && m.fired with
  | some m =>
    let s := s.disarm m 0
    match s.warp.pend.find? (·.id == p.id) with
    | some q => s.completeNow q
    | none => s
  | none => s.completeNow p

/-- A pending instruction of the warp in focus completes, or raises the fault that it has met. -/
def State.completion (s : State) (p : Pending) : State :=
  match p.kind with
  | .monitor k => s.completeMonitor k p
  | .barrier =>
    match p.fault with
    | some c => s.raisePending p c
    | none => s.completeNow p
  | .lanes => if (s.warp.refused p).isEmpty then s.completeNow p else s.raiseRemote p
  | .replay sel =>
    let (s, f) := s.endReplay sel []
    let s := s.answer s.warp.uid p.id f
    match s.warp.pend.find? (·.id == p.id) with
    | some q => s.completeNow q
    | none => s
  | _ => s.completeNow p

/-- A pending instruction of warp `w` completes where what it waits for has come; a fault that waited for it is taken, and
so it is where `p` names none. -/
def execInstructionCompletion (w p : Nat) (s : State) : Host.Outcome State Fault Refusal :=
  .next <|
    match s.findWarp w with
    | none => s
    | some x =>
      let s := s.settleBarriers x.gang
      let s := (s.pageLocks.filter fun q => q.warp == w && q.pend == p).foldl State.startLock s
      match s.findWarp w with
      | none => s
      | some y =>
        match y.pend.find? (·.id == p) with
        | none => if y.raising.isSome then (s.focus w).takeRaised else s
        | some q =>
          if !s.completes y q then s
          else
            let s := s.abortGating y q
            if s.delivers y q then ((s.focus w).completion q).takeRaised else s

def execWaitcSatisfied (w p : Nat) (s : State) : Host.Outcome State Fault Refusal :=
  .next <|
    match s.findWarp w with
    | none => s
    | some x =>
      match x.pend.find? (·.id == p) with
      | none => s
      | some q =>
        match q.kind with
        | .waitc cls limit upto =>
          if limit < x.cnt cls || !s.reachable x then s
          else
            let s := s.focus w
            let f := (x.blocked p).getD x.frag
            let s := s.completeNow q
            match x.deliverable cls upto p with
            | [] => s
            | h :: more =>
              (s.deliver (h :: more)).raiseLate q.gen
                { engineRaised q.pc f.entry (f.mask &&& ~~~x.dead) f.pc h more.length with stepped := q.stepped }
        | _ => s

/-! ## The operand log (R161–R163) -/

def Warp.dropEntry (w : Warp) (tag : Nat) : Warp := { w with log := w.log.filter (·.tag != tag) }

/-- A converted entry, or one whose replay meets another fault, traps at its unit with no trapping fragment. -/
def Warp.loggedRaised (w : Warp) (e : LogEntry) (bad : List (Nat × Cause × Word64)) : Raised :=
  Raised.ofLanes { stepped := w.steppedBy e.pend, cause := .pagefault, pc := e.pc, entry := e.entry, lanes := 0, rpc := 0, logged := true
                   unit := some e.unit, pend := some e.pend } bad

/-- The entry is the first of the log that names some page of its own (R162). -/
def Warp.firstOfPages (w : Warp) (e : LogEntry) : Bool :=
  let mine := e.job.pages e.lanes
  (w.log.takeWhile (·.tag != e.tag)).all fun f => (f.job.pages f.lanes).all fun p => !mine.contains p

/-- The lanes that failed again stay in the entry, and another PAGEFAULT record asks for their pages. -/
def State.logAgain (s : State) (e : LogEntry) (bad : List (Nat × Cause × Word64)) (before : List LogEntry) : State :=
  let r := { s.recordOf (s.warp.loggedRaised e bad) with logged := false, frag := e.entry }
  let e : LogEntry :=
    { e with tag := s.nextTag, lanes := lanesMask (bad.map (·.1)), eas := bad.map fun b => (b.1, b.2.2), answer := none }
  let n := before.length
  (s.postTagged r).onWarp fun w => { w with log := w.log.take n ++ [e] ++ w.log.drop n }

/-- Lanes of the entry's instruction are still to be performed before its own: those at a fabric peer or held at a page, the
lanes of a reduction among them (R227). -/
def State.laneBefore (s : State) (w : Nat) (e : LogEntry) : Bool :=
  s.laneAway w e.pend
  || match e.job.kind with
     | .atomic _ _ _ => s.holdsFor (.warp w e.pend)
     | _ => false

/-- The logged lanes are performed, after those of their instruction that were not logged (R227), unless tokens hold
them. -/
def execOperandLogReplay (w k : Nat) (s : State) : Host.Outcome State Fault Refusal :=
  .next <|
    match s.findWarp w with
    | none => s
    | some x =>
      match x.log.find? (·.tag == k) with
      | none => s
      | some e =>
        if e.answer != some true || !x.resident || !x.firstOfPages e || s.laneBefore w e then s
        else
          let before := x.log.takeWhile (·.tag != k)
          match ((s.focus w).onWarp (·.dropEntry k)).again e.job e.lanes e.pend true with
          | (_, .error _) => s
          | (s', .ok bad) =>
            if bad.isEmpty then s'
            else if bad.all fun b => b.2.1 == .pagefault then s'.logAgain e bad before
            else s'.raiseLate (s'.warp.genOf e.pend) (s'.warp.loggedRaised e bad)

def execLogEntryConversion (w k : Nat) (s : State) : Host.Outcome State Fault Refusal :=
  .next <|
    match s.findWarp w with
    | none => s
    | some x =>
      match x.log.find? (·.tag == k) with
      | none => s
      | some e =>
        if e.answer != some false || !x.resident then s
        else
          ((s.focus w).onWarp (·.dropEntry k)).raiseLate (x.genOf e.pend) (x.loggedRaised e ((lanesOf e.lanes).map fun l =>
            (l.val, .pagefault, ((e.eas.find? (·.1 == l.val)).map (·.2)).getD e.job.ea[l])))

/-! ## Shoot-downs, evictions (R150, R153, R164) -/

def execShootdownAcknowledgement (k unit : Nat) (s : State) : Host.Outcome State Fault Refusal :=
  .next <|
    match s.shootdowns.find? (·.id == k) with
    | none => s
    | some d => s.acknowledge d (tlbUnitAt unit)

/-- A core's words and partial values of a line go to the home slice. -/
def State.evict (s : State) (core line : Nat) : State :=
  let mine := fun p : Partial => p.core == core && lineOf p.loc == lineOf line
  let s := (s.partials.filter mine).foldl State.combine { s with partials := s.partials.filter fun p => !mine p }
  s.pushCore (lineOf line) core

/-- An L1 line leaves for another that a warp brings in, and the victim tags note it (R293). -/
def execL1Eviction (core line w : Nat) (s : State) : Host.Outcome State Fault Refusal :=
  .next <|
    match s.findWarp w with
    | none => s
    | some x =>
      if x.resident && x.coreNo == core then
        (s.evict core line).noteVictim { core := core, line := lineOf line, warp := w }
      else s

def execStackCacheSpill (w line : Nat) (s : State) : Host.Outcome State Fault Refusal :=
  .next <|
    match s.findWarp w with
    | none => s
    | some x => s.evict x.coreNo line

/-! ## Page homes and regions (R155, R156) -/

/-- The die that wrote a page most in the window, among those that may become its home. -/
def dominant (home : Nat) (ws : List (Nat × Nat)) : Option Nat :=
  let at_ := fun d => ((ws.find? (·.1 == d)).map (·.2)).getD 0
  let cand := ws.filter fun w => w.1 != home && 1024 ≤ w.2 && 2 * at_ home < w.2
  (cand.foldl (fun (b : Option (Nat × Nat)) w =>
    match b with
    | none => some w
    | some v => if v.2 < w.2 then some w else some v) none).map (·.1)

/-- A window of 2^20 cycles has ended for a page. -/
def State.windowOver (s : State) (h : PageHome) : Bool := decide (h.since + 2 ^ 20 ≤ s.clock.toNat)

def execHomeWriteWindowEnd (page : Nat) (s : State) : Host.Outcome State Fault Refusal :=
  .next <|
    { s with homes := s.homes.map fun h =>
      if h.page == page && s.windowOver h then
        { h with
          writes := []
          since := s.clock.toNat
          moving := match h.moving, dominant h.site h.writes with
            | some m, _ => some m
            | none, some d => if (s.site d).inService then some d else none
            | none, none => none }
      else h }

def execPageHomeMoveEnd (page : Nat) (s : State) : Host.Outcome State Fault Refusal :=
  .next <|
    match s.homes.find? (·.page == page) with
    | none => s
    | some h => s.endMove h

/-- Two sibling halves merge when their lists are equal and neither has been written for 65,536 cycles (R155). -/
def State.mergeRegions (s : State) (r q : Region) : State :=
  let idle := fun x : Region => decide (65536 ≤ s.clock.toNat - x.written)
  if r.size < 16 && r.size == q.size && r.dies == q.dies && idle r && idle q then
    { s with regions := s.regions.filter (fun x => x != r && x != q) ++
        [{ base := min r.base q.base, size := r.size + 1, dies := r.dies, written := max r.written q.written }] }
  else s

def execRegionMerge (base : Nat) (s : State) : Host.Outcome State Fault Refusal :=
  .next <|
    match s.regions.find? (·.base == base) with
    | none => s
    | some r =>
      let buddy := if r.base / 2 ^ r.size % 2 = 0 then r.base + 2 ^ r.size else r.base - 2 ^ r.size
      match s.regions.find? fun q => q.base == buddy && q.size == r.size with
      | none => s
      | some q => s.mergeRegions r q

/-! ## The copy of a page (R165 step 4) -/

/-- The bytes and poison marks of a page stand at the new frame as well (R341). What cores hold of the new frame's former
contents is gone (R234), and every line passes its LLC slice, as an access of the supervisor (R152). -/
def State.copyPage (s : State) (page size frame : Nat) : State :=
  let n := 2 ^ size
  let s := (s.passLines 0 page n false).passLines 0 frame n true
  let inside := fun (base a : Nat) => decide (base ≤ a) && decide (a < base + n)
  let cells := s.mem.filter fun c => inside page c.1
  let marks := s.poison.filter fun g => inside page (8 * g)
  { s with
    partials := s.partials.filter fun p => !inside frame p.loc
    regs := s.regs.filter fun r => !inside frame r.line
    mem := cells.foldl (fun m c => m.write (frame + (c.1 - page)) c.2) (s.mem.filter fun c => !inside frame c.1)
    poison := marks.foldl (fun ps g => insertRising ps ((frame + (8 * g - page)) / 8))
      (s.poison.filter fun g => !inside frame (8 * g)) }

def execPageCopy (page frame : Nat) (s : State) : Host.Outcome State Fault Refusal :=
  .next <|
    match s.pageLocks.find? fun p => p.page == page && p.started with
    | none => s
    | some p =>
      if badPage frame p.size || frame == page then s
      else
        { s.copyPage page p.size frame with pageLocks := s.pageLocks.map fun q =>
          if q.page == page && q.size == p.size then { q with copied := some frame } else q }

/-! ## Timers of locks and monitors (R244, R249, R251, R253) -/

def execLockTimerExpiry (line w : Nat) (s : State) : Host.Outcome State Fault Refusal :=
  .next <|
    let queued := (s.lockOf line).bind fun l => (l.queue.find? (·.warp == w)).map fun q => (q.pend, q.deadline)
    let waits := (s.lockWaits.find? fun q => q.warp == w && q.line == line).map fun q => (q.pend, q.deadline)
    match queued.or waits with
    | some (p, d) => if s.expired d then s.expireWaiter line w p else s
    | none => s

def execMonitorTimeout (m : Nat) (s : State) : Host.Outcome State Fault Refusal :=
  .next <|
    match s.monitors.find? (·.id == m) with
    | some k => if !k.fired && s.expired k.deadline then s.disarm k 1 else s
    | none => s

/-- The slice evaluates an overflow monitor every 4,096 cycles, as a reader of the line (R234, R253). -/
def execOverflowMonitorRecheck (m : Nat) (s : State) : Host.Outcome State Fault Refusal :=
  .next <|
    match s.monitors.find? fun k => k.id == m && !k.table with
    | none => s
    | some k =>
      if s.clock.toNat < k.checked + 4096 then s
      else
        let s := s.recall (lineOf k.loc)
        s.mapMonitor m fun k => s.checkMonitor { k with checked := s.clock.toNat }

/-! ## Deadlock scan (R249) -/

/-- A queued request as a link of a chain. -/
structure Link where
  warp : Nat
  pend : Nat
  line : Nat
  holder : Option Nat
deriving DecidableEq, Repr

/-- A lock whose home, holder or waiter lies on a halted site (R249, R353). -/
def State.frozen (s : State) (line : Nat) (ws : List Nat) : Bool :=
  (match s.homeOf line with | some h => (s.site h).halted | none => false)
  || ws.any fun u => match s.findWarp u with | some w => w.resident && (s.site w.site).halted | none => false

/-- The holder and the waiters of a lock. -/
def Lock.parties (l : Lock) : List Nat := l.holder.toList ++ l.queue.map (·.warp)

/-- The queued requests whose chains may be followed. -/
def State.links (s : State) : List Link :=
  s.locks.flatMap fun l =>
    ((l.queue.filter fun w => !s.expired w.deadline).map fun w => ({ warp := w.warp, pend := w.pend, line := l.line, holder := l.holder } : Link)).filter
      fun _ => !s.frozen l.line l.parties

/-- The cycles that extend a path back to its first warp, to a depth of 8 holders. -/
def chase (ls : List Link) (first : Nat) : Nat → List Link → Link → List (List Link)
  | 0, _, _ => []
  | n + 1, path, k =>
    match k.holder with
    | none => []
    | some h =>
      if h = first then [path ++ [k]]
      else if (path ++ [k]).any (·.warp == h) then []
      else (ls.filter (·.warp == h)).flatMap (chase ls first n (path ++ [k]))

/-- What tells one cycle from another: its waiting requests. -/
def cycleKey (c : List Link) : List (Nat × Nat) :=
  sortBy (fun a b => decide (a.1 < b.1) || (a.1 == b.1 && decide (a.2 ≤ b.2))) (c.map fun k => (k.warp, k.pend))

/-- The members of a cycle as its record gives them. -/
def State.members (s : State) (c : List Link) : List (Word64 × Nat × Nat) :=
  c.map fun k => match s.findWarp k.warp with
    | some w => (BitVec.ofNat 64 (((w.locks.find? (·.line == k.line)).map (·.va)).getD 0), w.warpid, w.ctx)
    | none => (0, 0, 0)

/-- A cycle not yet reported is reported to every context with a warp in it. -/
def State.reportCycle (s : State) (c : List Link) : State :=
  if s.cycles.contains (cycleKey c) then s
  else
    let ms := s.members c
    let s := { s with cycles := s.cycles ++ [cycleKey c] }
    ((ms.map (·.2.2)).eraseDups).foldl (fun s x =>
      s.postTagged { FaultRecord.empty with cause := some .deadlock, kind := 1, ctx := x, cycle := ms }) s

/-- The chains of a context's waiters are followed every DLKPERIOD cycles. -/
def execDeadlockScan (ctx : Nat) (s : State) : Host.Outcome State Fault Refusal :=
  .next <|
    let ls := s.links
    let standing := fun c : List (Nat × Nat) => c.all fun m =>
      s.locks.any fun l => l.queue.any fun q => q.warp == m.1 && q.pend == m.2
    let s := { s with cycles := s.cycles.filter standing }
    match s.context? ctx with
    | none => s
    | some x =>
      if x.dlkperiod = 0 ∨ s.clock.toNat < x.scanned + x.dlkperiod.toNat then s
      else
        let s := s.setContext { x with scanned := s.clock.toNat }
        let mine := ls.filter fun k => match s.findWarp k.warp with | some w => w.ctx == ctx | none => false
        (mine.flatMap fun k => chase ls k.warp 8 [] k).foldl State.reportCycle s

end Sys2Proof.Machine
end

