-- ==== Sys2Proof/Machine/Residence.lean ====
section
/-! DEFINITION. Placing, pre-empting, resuming and retiring gangs, and what becomes of their grids (R18–R21, R276–R287,
R345, R346). -/

namespace Sys2Proof.Machine

/-! ## Resources of a cluster (R15, R17, R285) -/

/-- The resident gangs of a cluster. -/
def State.gangsOn (s : State) (site cl : Nat) : List Gang :=
  s.gangs.filter fun g => g.phase == .resident && g.site == site && g.cluster == cl

def State.warpsOf (s : State) (g : Nat) : List Warp := s.warps.filter fun w => w.gang == g && w.live

/-- Free warp slots and scratchpad bytes of a core, where no gang of the list takes them. -/
def State.freeSlots (s : State) (core : Nat) : Nat :=
  64 - (s.warps.filter fun w => w.live && w.resident && w.coreNo == core).length

def freeScratch (gs : List Gang) (core : Nat) : Nat :=
  2 ^ 19 - (gs.map fun g => (g.cores.filter (· == core)).length * g.scratch).sum

/-- The cluster is in service: its site is, and it is not harvested. -/
def Site.hasCluster (t : Site) (cl : Nat) : Bool := t.inService && !t.harvest.getLsbD cl

/-- What a gang of a record takes. -/
structure Footprint where
  gang : Nat
  wgsize : Nat
  scratch : Nat
  acc : Nat
  nodes : Nat
  online : Bool                        -- it needs a matrix engine that is in service
deriving DecidableEq, Repr

def LaunchRecord.footprint (r : LaunchRecord) : Footprint :=
  { gang := r.gang, wgsize := r.wgsize, scratch := r.scratch, acc := r.acc, nodes := r.nodes, online := r.acc != 0 }

/-- A gang whose engine has failed goes to a cluster whose engine is in service, whatever it takes (R220). -/
def State.footprintOf (s : State) (g : Gang) : Footprint :=
  let f := (s.grid g.grid).record.footprint
  { f with online := f.online || g.moved }

/-- The cores that take the workgroups of a gang: those with most free slots, the lower number on a tie. -/
def State.coresFor (s : State) (site cl : Nat) (f : Footprint) : Option (List Nat) :=
  let gs := s.gangsOn site cl
  let ok := (List.range 4).filter fun k =>
    f.wgsize ≤ s.freeSlots (64 * site + 4 * cl + k) && f.scratch ≤ freeScratch gs k
  let best := sortBy (fun a b =>
    decide (s.freeSlots (64 * site + 4 * cl + b) ≤ s.freeSlots (64 * site + 4 * cl + a))) ok
  if f.gang ≤ ok.length && f.acc + (gs.map (·.acc)).sum ≤ 8 && f.nodes + (gs.map (·.nodes.length)).sum ≤ 256 then
    some (best.take f.gang)
  else none

/-- Gating that has not committed gives way to a dispatch (R289). -/
def Cluster.takesGangs (c : Cluster) (now : Nat) : Bool := c.gate == .awake || c.givesWay now

/-- The cores of a cluster for a gang, where it fits (R285). Gating that has begun on a halted site stays (R353). -/
def State.fitsAt (s : State) (f : Footprint) (site cl : Nat) : Option (List Nat) :=
  let t := s.site site
  let c := t.cluster cl
  if t.hasCluster cl && (c.gate == .awake || (!t.halted && c.takesGangs s.clock.toNat)) && (!f.online || c.online) then s.coresFor site cl f else none

/-- The free warp slots of a cluster. -/
def State.clusterSlots (s : State) (site cl : Nat) : Nat :=
  ((List.range 4).map fun k => s.freeSlots (64 * site + 4 * cl + k)).sum

/-- The cluster of a site for a gang: the fitting one with the fewest free slots, the lower number on a tie. A cluster whose
gating gives way ranks with the awake ones (log 79). -/
def State.clusterFor (s : State) (f : Footprint) (site : Nat) : Option (Nat × List Nat) :=
  ((List.range 16).filterMap fun cl => (s.fitsAt f site cl).map fun cs => (cl, cs)).foldl (fun b x =>
    match b with
    | none => some x
    | some y => if s.clusterSlots site x.1 < s.clusterSlots site y.1 then some x else some y) none

/-! ## Sites that a grid may use (R28, R29, R281, R286) -/

/-- The restricted mask: the sites of the mask that are in service and support the grid's level. -/
def State.sitesFor (s : State) (mask level : Nat) : List Nat :=
  (List.range 8).filter fun i =>
    let t := s.site i
    mask.testBit i && t.inService && (if level ≤ s.pkglvl then !t.restricted || level ≤ t.level else level ≤ t.level)

/-- Sites in the order in which a gang without room at its target tries them. -/
def siteOrder (target : Nat) (sites : List Nat) : List Nat :=
  let dist := fun i => if i < target then target - i else i - target
  sortBy (fun a b => decide (dist a < dist b) || (dist a == dist b && decide (a ≤ b))) sites

/-- Gang coordinates of a GANGID (R285). -/
def gangCoords (r : LaunchRecord) (ix : Nat) : Nat × Nat × Nat := (ix % r.gx, ix / r.gx % r.gy, ix / r.gx / r.gy)

/-- The target site of a gang: the home of the page of its affinity address, where the mask has it (R286). -/
def State.targetOf (s : State) (g : Grid) (ix : Nat) : Option Nat :=
  let r := g.record
  if r.affbase = 0 then none
  else
    let (x, y, z) := gangCoords r ix
    let va := (word64 (r.affbase + x * r.affsx + y * r.affsy + z * r.affsz)).toNat
    match if va < 2 ^ 57 then s.walk (s.context g.ctx) va else none with
    | none => none
    | some m =>
      if 2 ≤ m.kind then none
      else match s.homeOf (m.place va) with
        | some h => if (s.sitesFor g.mask r.level).contains h then some h else none
        | none => none

/-- Where a gang goes: its target while it has room or patience, else the first site that has room (R286). -/
def State.spotFor (s : State) (g : Grid) (f : Footprint) (ix : Nat) (patient : Bool) : Option (Nat × Nat × List Nat) :=
  let sites := s.sitesFor g.mask g.record.level
  let target := s.targetOf g ix
  let first := match target with
    | some t => (s.clusterFor f t).map fun (x : Nat × List Nat) => (t, x.1, x.2)
    | none => none
  if first.isSome then first
  else if target.isSome && patient then none
  else (siteOrder (target.getD 0) sites).findSome? fun i => (s.clusterFor f i).map fun (x : Nat × List Nat) => (i, x.1, x.2)

/-! ## Placement (R21, R285) -/

/-- The lowest warp slots of a core that are free. -/
def State.slotsOf (s : State) (core n : Nat) : List Nat :=
  ((List.range 64).filter fun k => !(s.warps.any fun w => w.live && w.resident && w.coreNo == core && w.slot == k)).take n

/-- A warp as it starts (R21). The stacks of a gang's warps lie one after another from `stack` up, by workgroup and then
by warp (R148, log 82). -/
def startWarp (g : Grid) (gang uid ix wg i site cl core slot stack clock : Nat) : Warp :=
  let r := g.record
  let (x, y, z) := gangCoords r ix
  let n := BitVec.ofNat 64
  let low := stack + (wg * r.wgsize + i) * 32 * r.stack
  { Warp.blank with
    uid := uid, ctx := g.ctx, gang := gang, wg := wg, index := i, site := site, cluster := cl, core := core, slot := slot
    live := true, resident := true
    s := (((((((Vector.replicate 64 0).set 1 (n r.args)).set 2 (n x)).set 3 (n y)).set 4 (n z)).set 5 (n wg)).set 6
      (n i)).set 62 (n (low + 32 * r.stack))
    v := ((Vector.replicate 64 (Vector.replicate 32 0)).set 0 (Vector.ofFn fun l => BitVec.ofNat 32 l.val)).set 1
      (Vector.ofFn fun l => BitVec.ofNat 32 (32 * i + l.val))
    frag := Fragment.start (BitVec.ofNat 57 r.entry)
    stklim := n low, stktop := n (low + 32 * r.stack)
    lease := { Lease.start with
      mode := if r.leasehint = 0 then 1 else 0
      n := if r.leasehint = 0 then 64 else r.leasehint
      queued := true, since := clock } }

/-- The warps of workgroup `wg` on its core. -/
def State.startWorkgroup (s : State) (g : Grid) (gang ix site cl stack : Nat) (wg core : Nat) : State :=
  let slots := s.slotsOf (64 * site + 4 * cl + core) g.record.wgsize
  let ws := (List.range g.record.wgsize).map fun i =>
    startWarp g gang (s.nextUid + i) ix wg i site cl core (slots.getD i 0) stack s.clock.toNat
  { s with others := s.others ++ ws, nextUid := s.nextUid + g.record.wgsize }

/-- The scheduler of every core of a cluster decides again. -/
def State.scheduleCluster (s : State) (site cl : Nat) : State :=
  (List.range 4).foldl (fun s k => s.schedule (64 * site + 4 * cl + k)) s

/-- The core scratchpads of a gang are zero, without poison (R21). -/
def State.clearScratch (s : State) (gang : Nat) : State :=
  let lo := scratchBase gang
  { s with
    mem := s.mem.filter fun c => !(decide (lo ≤ c.1) && decide (c.1 < lo + 2 ^ 21))
    poison := s.poison.filter fun p => !(decide (lo ≤ 8 * p) && decide (8 * p < lo + 2 ^ 21)) }

/-- A gang is placed for the first time, all at one moment. -/
def State.placeNew (s : State) (g : Grid) (ix stack site cl : Nat) (cores : List Nat) : State :=
  let r := g.record
  let h : Gang := { Gang.none with
    uid := s.nextUid, grid := g.ticket, index := ix, phase := .resident, site := site, cluster := cl, cores := cores
    placedAt := s.clock.toNat, scratch := r.scratch, wgs := r.gang, acc := r.acc
    nodes := List.replicate r.nodes Node.free }
  let s := ({ s with nextUid := s.nextUid + 1, gangs := s.gangs ++ [h] }.clearScratch h.uid).setGate site cl .awake
  let s := (List.range r.gang).foldl (fun s i => s.startWorkgroup g h.uid ix site cl stack i (cores.getD i 0)) s
  (s.mapGrid g.ticket fun g => { g with placed := g.placed + 1, offers := g.offers.filter (·.index != ix) }).scheduleCluster
    site cl

/-! ## Pre-emption and resumption (R345, R346) -/

/-- Vector registers from VREGS up read as zero, full, after a save (R277). -/
def Warp.saveRegs (w : Warp) (vregs : Nat) : Warp :=
  { w with
    v := Vector.ofFn fun r => if r.val < vregs then w.v[r] else Vector.replicate 32 0
    vFull := Vector.ofFn fun r => w.vFull[r] || decide (vregs ≤ r.val)
    vPoison := Vector.ofFn fun r => if r.val < vregs then w.vPoison[r] else 0 }

/-- The pages of local memory that hold a warp's stack. -/
def State.stackPages (s : State) (w : Warp) : List Nat :=
  let lo := w.stklim.toNat / 4096
  (List.range ((w.stktop.toNat + 4095) / 4096 - lo)).filterMap fun k =>
    (s.walk (s.context w.ctx) ((lo + k) * 4096)).map fun m => pageOf (m.place ((lo + k) * 4096))

/-- The stack cache pushes its written words home (R150). -/
def State.pushStack (s : State) (w : Warp) : State :=
  let ps := s.stackPages w
  { s with regs := s.regs.filter fun r => !(r.core == w.coreNo && ps.contains (pageOf r.line)) }

/-- A warp's state is saved, every fragment before the first word of its unit (R49, R345); its core pushes the partial
values that it holds (R234). -/
def State.suspendWarp (s : State) (vregs : Nat) (w : Warp) : State :=
  (((s.pushPartials w.coreNo).pushStack w).mapWarp w.uid fun w =>
    let w := (w.saveRegs vregs).mapFrags fun f => { f.rewind with held := false }
    { w with resident := false
             lease := { w.lease with active := false, queued := false, headSince := none, forced := false } }).suspendLocks
    w.uid

/-- A gang leaves its cluster with its state saved (R345 step 3). -/
def State.vacate (s : State) (gang : Nat) (out : GangPhase) : State :=
  let g := s.gang gang
  let vregs := (s.grid g.grid).record.vregs
  let s := (s.warpsOf gang).foldl (fun s w => s.suspendWarp vregs w) s
  (s.mapGang gang fun h =>
    { h with phase := out, placedAt := s.clock.toNat, parkedSince := none, leaving := none }).scheduleCluster
    g.site g.cluster

/-- An instruction whose command stands in the matrix stream: it is saved with the stream of an engine that has failed
(R218, R220). -/
def Pending.streamed (p : Pending) : Bool := match p.kind with | .command _ | .node _ => true | _ => false

/-- Nothing that the warps of a gang have issued keeps it from leaving. -/
def State.gangQuiet (s : State) (gang : Nat) : Bool :=
  (s.warpsOf gang).all fun w => w.pend.all fun p => !s.mustEnd w p || ((s.gang gang).moved && p.streamed)

/-- A gang stops at unit boundaries, and leaves once its issued instructions have completed (R345 steps 1 and 2); a halted
site is left alone (R353). -/
def State.preempt (s : State) (gang : Nat) (out : GangPhase) : State :=
  let g := s.gang gang
  if g.phase ≠ .resident ∨ (s.site g.site).halted then s
  else
    let out := g.leaving.getD out
    let s := (s.warpsOf gang).foldl (fun s w => s.mapWarp w.uid Warp.settle) s
    if s.gangQuiet gang then s.vacate gang out else s.mapGang gang fun h => { h with leaving := some out }

/-- A warp comes back on a core. -/
def State.resumeWarp (s : State) (site cl core slot : Nat) (w : Warp) : State :=
  let s := s.mapWarp w.uid fun w => { w with
    site := site, cluster := cl, core := core, slot := slot, resident := true
    lease := { w.lease with active := w.holdsLock, queued := !w.holdsLock, since := s.clock.toNat, window := 0
                            lines := [] } }
  match s.findWarp w.uid with
  | some w => s.resumeLocks w
  | none => s

/-- The saved commands of a gang's stream enter the reservation table again, in order, all at once (R194, R218, log 99). -/
def State.reenter (s : State) (gang : Nat) : State :=
  (s.gang gang).mx.stream.foldl (fun s k =>
    { s.mapCommand k fun c => { c with entered := s.nextUid } with nextUid := s.nextUid + 1 }) s

/-- A saved gang resumes on a cluster. -/
def State.placeAgain (s : State) (gang site cl : Nat) (cores : List Nat) : State :=
  let s := ((s.mapGang gang fun h => { h with
    phase := .resident, site := site, cluster := cl, cores := cores, placedAt := s.clock.toNat, moved := false
    mx := { h.mx with headSince := s.clock.toNat, age := 0 } }).reenter gang).setGate site cl .awake
  let s := (s.warpsOf gang).foldl (fun s w =>
    let core := cores.getD w.wg 0
    s.resumeWarp site cl core ((s.slotsOf (64 * site + 4 * cl + core) 1).headD 0) w) s
  s.scheduleCluster site cl

/-- A swapped gang is requeued by the first of its monitors to complete (R273). -/
def State.monitorDone (s : State) (gang : Nat) : Bool :=
  (s.warpsOf gang).any fun w => w.pend.any fun p => match p.kind with
    | .monitor k => p.ready || s.monitors.any fun m => m.id == k && m.fired
    | _ => false

/-- A gang that waits to be placed again. -/
def State.requeued (s : State) (g : Gang) : Bool :=
  g.phase == .preempted || (g.phase == .swapped && s.monitorDone g.uid)

def State.resume (s : State) (g : Gang) : Option State :=
  let r := s.grid g.grid
  (s.spotFor r (s.footprintOf g) g.index false).map fun x => s.placeAgain g.uid x.1 x.2.1 x.2.2

/-! ## The end of a grid (R278, R279, R283) -/

/-- The event that reports a status word which cannot be written. -/
def State.statusFails (s : State) (g : Grid) : State :=
  s.postTagged { FaultRecord.empty with cause := some .prot, kind := 1, addr := BitVec.ofNat 64 g.record.stataddr, ctx := g.ctx }

/-- The place of a grid's status word; a fabric-remote page counts as lacking write permission. -/
def State.statusPlace (s : State) (g : Grid) : State × Except Cause Target :=
  match s.reach (remoteAgent g.ctx) 0 g.record.stataddr 16 16 false true with
  | (s', .fails c) => (s', .error c)
  | (s', .at_ loc kind peer) =>
    if kind = 3 then (s', .error .prot) else (s', .ok { loc := loc, n := 16, kind := kind, peer := peer })

def State.writeStatus (s : State) (g : Grid) (t : Target) (low : Nat) : State :=
  s.writeAt (remoteAgent g.ctx) t.kind t.loc (natToBytes 16 (low + g.ticket * 2 ^ 64))

/-- A grid ends with a status: recorded for dependences, and written with DONE where it has a status word. -/
def State.endGrid (s : State) (g : Grid) (code : Nat) (written : Bool) : State :=
  let s := s.mapGrid g.ticket fun g => { g with status := some code, wait := none }
  if !written || g.record.stataddr = 0 then s
  else match s.statusPlace g with
    | (s', .error _) => s'.statusFails g
    | (s', .ok t) => s'.writeStatus g t (code + 2 ^ 8 + 2 ^ 9)

/-! ## Dependences (R281 check 6, R282) -/

inductive DepState where
  | met | waits | failed
deriving DecidableEq, Repr

/-- A grid that has gone with its context has no CODE: what depends on it waits until its record is too old to be tracked (log
98). -/
def State.depState (s : State) (ticket : Nat) : DepState :=
  let q := ticket / 2 ^ 32 % 64
  let n := BitVec.ofNat 32 ticket
  let d := ((s.queue q).tail - n).toNat
  if d = 0 ∨ 2 ^ 31 ≤ d then .waits
  else if 65536 ≤ d then .met
  else match s.grids.find? (·.ticket == ticket) with
    | none => .waits
    | some g => match g.status with
      | none => .waits
      | some 0 => .met
      | some _ => .failed

def State.depsOf (s : State) (g : Grid) : DepState :=
  let ds := (g.record.deps.take g.record.ndep).map s.depState
  if ds.contains .failed then .failed else if ds.contains .waits then .waits else .met

/-- Grids that wait for dependences are looked at again: those with a failed one end with DEPFAIL, in turn. -/
def State.checkDeps : Nat → State → State
  | 0, s => s
  | n + 1, s =>
    match s.grids.find? fun g => g.status.isNone && g.wait.isNone && !g.ready && s.depsOf g == .failed with
    | some g => State.checkDeps n (s.endGrid g 5 true)
    | none =>
      { s with grids := s.grids.map fun g =>
        if g.status.isNone && g.wait.isNone && s.depsOf g == .met then { g with ready := true } else g }

def State.settleDeps (s : State) : State := State.checkDeps (s.grids.length + 1) s

/-! ## Retirement (R81, R19, R283) -/

/-- The gangs of a grid. -/
def Grid.gangCount (g : Grid) : Nat := g.record.gx * g.record.gy * g.record.gz

/-- A gang whose warps have all retired is gone; with the last gang its grid completes with OK. -/
def State.retireGang (s : State) (gang : Nat) : State :=
  let g := s.gang gang
  if g.phase = .retired || !(s.warpsOf gang).isEmpty then s
  else
    let s := { s with gangs := s.gangs.filter (·.uid != gang) }.clearScratch gang
    let s := s.mapGrid g.grid fun r => { r with retired := r.retired + 1 }
    let r := s.grid g.grid
    if r.status.isNone && r.retired = r.gangCount then (s.endGrid r 0 true).settleDeps else s

/-- A warp retires: its locks pass on, barriers count it no more. -/
def State.retireWarp (s : State) (w : Warp) : State :=
  let s := (s.reportAll w).abandon w.uid
  let s := s.mapWarp w.uid fun x => { x with live := false, resident := false, locks := [], pend := [], log := [] }
  let s : State := { s with others := s.others.filter (·.live) }
  (((s.settleBarriers w.gang).schedule w.coreNo).retireGang w.gang)

end Sys2Proof.Machine
end

