-- ==== Sys2Proof/Machine/EventEngine.lean ====
section
/-! DEFINITION. Events of the tensor engine, the command graph and the matrix engine. An event that is not due changes
nothing. -/

namespace Sys2Proof.Machine

/-- The gang's engines run: it is resident, its cluster is awake and its site is not halted (R353). -/
def State.engineRuns (s : State) (g : Gang) : Bool :=
  g.phase == .resident && !(s.site g.site).halted && ((s.site g.site).cluster g.cluster).gate == .awake

/-- A command of the gang. -/
def State.commandOf (s : State) (gang k : Nat) : Option Command := s.cmds.find? fun c => c.id == k && c.gang == gang

/-! ## Copies, GBIN and fabric commands (R178–R183) -/

def execEngineCommandRun (g k : Nat) (s : State) : Host.Outcome State Fault Refusal :=
  .next <|
    match s.commandOf g k with
    | none => s
    | some c => if s.engineRuns (s.gang g) && c.cls != 2 && c.phase == .queued then s.runCommand c else s

/-- A paused command goes on once the supervisor has mapped its page (R180). -/
def execEnginePageFaultResume (g k : Nat) (s : State) : Host.Outcome State Fault Refusal :=
  .next <|
    match s.commandOf g k with
    | none => s
    | some c =>
      match c.phase with
      | .paused _ _ true => s.mapCommand k fun d => { d with phase := if s.commandSent k then .sent else .queued }
      | _ => s

/-- A finished command leaves its counter when every older one of its class has (R183). -/
def retireCommand (k : Nat) : List Outstanding → List Outstanding
  | [] => []
  | o :: t =>
    if o.cmd = k then (if o.finished then t else o :: t)
    else if ((o :: t).find? (·.cmd == k)).any (·.cls == o.cls) then o :: t
    else o :: retireCommand k t

def execEngineCommandRetire (w k : Nat) (s : State) : Host.Outcome State Fault Refusal :=
  .next (s.mapWarp w fun x => { x with out := retireCommand k x.out })

/-- A launched node rechecks its bounds after GBIN has patched it; a box extent of 0 completes it (R189). A matrix command
enters the stream and the reservation table (R192). -/
def State.startNode (s : State) (c : Command) : State :=
  let s := s.mapNode c.gang (c.node.getD 0) fun d => { d with state := .running, order := none }
  let s := { s.mapCommand c.id fun d => { d with phase := .queued, entered := s.nextUid } with nextUid := s.nextUid + 1 }
  if c.patched then
    match c.kind.slot with
    | none => s
    | some t =>
      if (List.range (Tsr.rank t)).any fun i => Tsr.box t i == 0 then s.endCommand c
      else match (s.copyBreaches (s.engineAgent c) c.kind).findSome? id with
        | some e => s.engineFault c e.1 e.2
        | none => s
  else if c.cls = 2 then s.enterStream c.gang c.id
  else s

/-- Some node of a cluster has launched before this one and waits for an entry of the reservation table (R192). -/
def State.launchedBefore (s : State) (h : Gang) (d : Node) : Bool :=
  (s.gangsOn h.site h.cluster).any fun g => g.nodes.any fun m => match m.order, d.order with
    | some a, some b => decide (a < b)
    | some _, none => true
    | none, _ => false

/-- A released node without predecessors launches. A matrix command that finds the reservation table full, or others
waiting for it, waits to enter, in launch order. -/
def execNodeLaunch (g n : Nat) (s : State) : Host.Outcome State Fault Refusal :=
  .next <|
    let h := s.gang g
    let d := h.node n
    match d.cmd.bind s.command? with
    | none => s
    | some c =>
      if !(s.engineRuns h && d.state == .released && d.count == 0) then s
      else if c.cls != 2 || (decide (s.reserved h < Config.reservationEntries) && !s.launchedBefore h d) then s.startNode c
      else if d.order.isSome then s
      else { s.mapNode g n fun d => { d with order := some s.nextUid } with nextUid := s.nextUid + 1 }

/-! ## Bands (R200, R297, R298) -/

/-- The gang needs its bands: it has accumulator tiles, or commands in its stream. -/
def Gang.needsBands (g : Gang) : Bool := g.acc != 0 || !g.mx.stream.isEmpty

/-- The bands that the gangs of a cluster need. -/
def State.bandsNeeded (s : State) (site cl : Nat) : BitVec 4 :=
  ((s.gangsOn site cl).filter Gang.needsBands).foldl (fun m g => m ||| g.mx.ashape) 0

/-- The lit-band budget of a level (R297). -/
def bandBudget (gen level : Nat) : Nat :=
  (if gen = 1 then [16, 16, 24, 32, 40, 48, 56, 64] else [16, 32, 32, 40, 48, 56, 64, 64]).getD level 64

/-- The site's budget: that of the highest level granted to a cluster, less what the power controller takes (R300). -/
def State.siteBudget (s : State) (i : Nat) : Nat :=
  let t := s.site i
  bandBudget t.gen (t.clusters.toList.foldl (fun m c => max m c.granted) 0) - s.power.bandCut

def litCount (t : Site) : Nat := (t.clusters.toList.map fun c => bandCount (c.lit ||| c.wanted)).sum

/-- A band is lit 200 cycles after the ramp has enabled it. -/
def execBandWake (site cl band : Nat) (s : State) : Host.Outcome State Fault Refusal :=
  .next (s.mapCluster site cl fun c =>
    if c.wanted.getLsbD band && decide ((c.bandAt[band]?).getD 0 + 200 ≤ s.clock.toNat) then
      { c with lit := c.lit ||| (1 <<< band : BitVec 4), wanted := c.wanted &&& ~~~(1 <<< band : BitVec 4) }
    else c)

/-- Bands that no gang needs go dark, and the highest cluster's while the site is over its budget. -/
def State.gateBands (s : State) (i : Nat) : State :=
  let s := (List.range 16).foldl (fun s cl =>
    let need := s.bandsNeeded i cl
    s.mapCluster i cl fun c => { c with lit := c.lit &&& need, wanted := c.wanted &&& need }) s
  (List.range 16).reverse.foldl (fun s cl =>
    if s.siteBudget i < litCount (s.site i) then s.mapCluster i cl fun c => { c with lit := 0, wanted := 0 } else s) s

/-- The next band to wake: the lowest needed one of the lowest cluster that lacks one. -/
def State.nextBand (s : State) (i : Nat) : Option (Nat × Nat) :=
  (List.range 16).findSome? fun cl =>
    let c := (s.site i).cluster cl
    let lack := s.bandsNeeded i cl &&& ~~~(c.lit ||| c.wanted)
    ((List.range 4).find? fun b => lack.getLsbD b).map fun b => (cl, b)

/-- The ramp enables at most one band of the site's MX die per 64 cycles, within the budget. -/
def execBandRampStep (site : Nat) (s : State) : Host.Outcome State Fault Refusal :=
  .next <|
    let s := s.gateBands site
    let t := s.site site
    if (t.rampAt.any fun a => decide (s.clock.toNat < a + 64)) || decide (s.siteBudget site ≤ litCount t) then s
    else match s.nextBand site with
      | none => s
      | some (cl, b) =>
        (s.mapSite site fun t => { t with rampAt := some s.clock.toNat }).mapCluster site cl fun c =>
          { c with wanted := c.wanted ||| (1 <<< b : BitVec 4)
                   bandAt := Vector.ofFn fun i => if i.val = b then s.clock.toNat else c.bandAt[i] }

/-! ## The arbiter (R194) -/

/-- The priority of a gang's head command. -/
def State.effectivePrio (s : State) (g : Gang) : Nat := min 7 ((s.grid g.grid).prio + g.mx.age)

/-- Every band of the gang's ASHAPE is lit. -/
def State.bandsLit (s : State) (g : Gang) : Bool := g.mx.ashape &&& ~~~((s.site g.site).cluster g.cluster).lit == 0

/-- The head of a gang's stream that may run: not paused, and the bands of its ASHAPE are lit where it is a pass (R298)
or follows an MSHAPE whose bands have not been lit yet (R200). -/
def State.readyHead (s : State) (g : Gang) : Option Command :=
  match g.mx.stream.head?.bind s.command? with
  | none => none
  | some c =>
    let pass := match c.kind with | .mmul _ _ _ _ _ => true | _ => false
    if s.engineRuns g && ((s.site g.site).cluster g.cluster).online && c.phase == .queued
        && (!(g.mx.shaped || (pass && !g.mx.stopped)) || s.bandsLit g) then some c
    else none

/-- The head that the arbiter of a cluster grants: the highest effective priority, the earliest to enter on a tie. -/
def State.granted (s : State) (site cl : Nat) : Option Command :=
  ((s.gangsOn site cl).filterMap fun g => (s.readyHead g).map fun c => (s.effectivePrio g, c)).foldl
    (fun (b : Option (Nat × Command)) x => match b with
      | none => some x
      | some y => if y.1 < x.1 || (y.1 == x.1 && x.2.entered < y.2.entered) then some x else some y) none |>.map (·.2)

/-- A confirmed mismatch: the engine is offline, every gang of its cluster moves, and MXFAULT reports each (R219,
R220). -/
def State.mxFault (s : State) (c : Command) (column : Nat) : State :=
  let g := s.gang c.gang
  let k := (s.site g.site).cluster g.cluster
  let row := spareRow g.mx.ashape k.rho
  let at_ := g.site + g.cluster * 2 ^ 8 + row * 2 ^ 16 + column % 256 * 2 ^ 24
  let moved := s.gangsOn g.site g.cluster
  let s := s.mapCluster g.site g.cluster fun k => { k with online := false }
  moved.foldl (fun s h =>
    let s := (s.mapGang h.uid fun h => { h with moved := true }).preempt h.uid .preempted
    let s := s.setMatrix h.uid fun x => { x with reloc := x.reloc + 1 }
    s.postTagged { FaultRecord.empty with
      cause := some .mxfault, kind := 1, addr := BitVec.ofNat 64 at_, ctx := (s.grid h.grid).ctx, gangid := h.index }) s

/-- A pass whose inputs can be read is checked by the spare row; any other command takes effect. -/
def State.grantHead (s : State) (c : Command) (chk : SpareCheck) : State :=
  match c.kind, chk with
  | .mmul mode _ rows sp d, .confirmed col =>
    if (s.gang c.gang).mx.stopped then s.runMatrix c false
    else match (s.passInputs c mode rows sp d.toNat).2 with
      | .ok _ => s.mxFault c col
      | .error _ => s.runMatrix c false
  | .mmul _ _ _ _ _, .rerun => s.runMatrix c true
  | _, _ => s.runMatrix c false

def execMatrixArbiterGrant (g : Nat) (chk : SpareCheck) (s : State) : Host.Outcome State Fault Refusal :=
  .next <|
    let h := s.gang g
    match s.granted h.site h.cluster with
    | some c =>
      if c.gang = g && s.engineRuns h then (s.setMatrix g fun x => { x with shaped := false }).grantHead c chk else s
    | none => s

/-- A head's effective priority rises one step for every full 256 cycles that it has waited. -/
def execMatrixAgeStep (g : Nat) (s : State) : Host.Outcome State Fault Refusal :=
  .next (s.setMatrix g fun x =>
    if !x.stream.isEmpty && x.headSince + 256 * (x.age + 1) ≤ s.clock.toNat then { x with age := min 7 (x.age + 1) }
    else x)

def execEngineReturnToService (site cl : Nat) (s : State) : Host.Outcome State Fault Refusal :=
  .next (s.mapCluster site cl fun c => { c with online := true })

end Sys2Proof.Machine
end

