-- ==== Sys2Proof/Machine/EventLaunch.lean ====
section
/-! DEFINITION. Events of the front end, the dispatchers, the gating sequencer, the lease scheduler, the power controller
and the token buckets. An event that is not due changes nothing. -/

namespace Sys2Proof.Machine

/-! ## Queues (R274, R275) -/

/-- A write of QTAIL by the host appends records, or is ignored and sets QERR. -/
def execLaunchQueueTail (q : Nat) (v : BitVec 32) (s : State) : Host.Outcome State Fault Refusal :=
  .next <|
    let u := s.queue q
    let n := 2 ^ u.size
    if u.size = 0 ∨ n < (v - u.head).toNat ∨ 2 ^ 31 ≤ (v - u.tail).toNat ∨ n < (v - u.tail).toNat then
      s.mapQueue q fun u => { u with err := true }
    else s.mapQueue q fun u => { u with tail := v }

def execLaunchQueueErrorClear (q : Nat) (v : BitVec 64) (s : State) : Host.Outcome State Fault Refusal :=
  .next (s.mapQueue q fun u => if v.getLsbD 0 then { u with err := false } else u)

/-! ## Reading a record (R276, R281) -/

/-- The fields of a record's 128 bytes, and whether a byte or bit marked zero is not. -/
def LaunchRecord.ofBytes (bs : List Byte) : LaunchRecord :=
  let f := fun lo n => bytesToNat ((bs.drop lo).take n)
  { entry := f 0 8, gx := f 8 4, gy := f 12 4, gz := f 16 4, gang := f 20 1, wgsize := f 21 1, level := f 22 1
    prio := f 23 1, vregs := f 24 1, acc := f 25 1, nodes := f 26 2, scratch := f 28 4, stack := f 32 4
    affmask := f 36 1, tbclass := f 37 1, flags := f 38 1, ndep := f 39 1, affbase := f 40 8
    affsx := sext 32 (f 48 4), affsy := sext 32 (f 52 4), affsz := sext 32 (f 56 4), leasehint := f 60 2
    deps := (List.range 4).map fun i => f (64 + 8 * i) 8, args := f 96 8, stataddr := f 104 8
    reserved := f 62 2 != 0 || f 112 16 != 0 }

/-- A DEP field has the form of a ticket (R278). -/
def ticketForm (t : Nat) : Bool := t / 2 ^ 63 == 1 && bitsOf t 38 25 == 0

/-- STATADDR can name a status word (R279). -/
def LaunchRecord.statLegal (r : LaunchRecord) : Bool := r.stataddr % 16 == 0 && r.stataddr < 2 ^ 57

/-- Check 1 of R281. -/
def LaunchRecord.inRange (r : LaunchRecord) : Bool :=
  r.entry % 4 == 0 && r.entry < 2 ^ 57
  && 1 ≤ r.gx && 1 ≤ r.gy && 1 ≤ r.gz && r.gx * r.gy * r.gz ≤ 2 ^ 32
  && 1 ≤ r.gang && r.gang ≤ 4 && 1 ≤ r.wgsize && r.wgsize ≤ 16 && r.level < 4 && r.prio < 8
  && 1 ≤ r.vregs && r.vregs ≤ 64 && r.acc ≤ 8 && r.nodes ≤ 256 && r.scratch ≤ 524288
  && r.stack % 16 == 0 && r.stack ≤ 65536 && r.tbclass < 4 && r.flags < 2 && r.ndep ≤ 4 && r.leasehint ≤ 4095
  && ((List.range 4).all fun i => let d := r.deps.getD i 0; if i < r.ndep then ticketForm d else d == 0)
  && r.statLegal && !r.reserved

def LaunchRecord.cores (r : LaunchRecord) : Bool := r.flags % 2 == 1

/-- How many gangs an empty cluster takes. -/
def Footprint.perCluster (f : Footprint) : Nat :=
  let core := min (64 / f.wgsize) (if f.scratch = 0 then 64 else 524288 / f.scratch)
  let byCore := 4 * core / f.gang
  let byAcc := if f.acc = 0 then byCore else min byCore (8 / f.acc)
  if f.nodes = 0 then byAcc else min byAcc (256 / f.nodes)

/-- The clusters of a site that can ever take the gang. -/
def State.usableClusters (s : State) (f : Footprint) (site : Nat) : Nat :=
  let t := s.site site
  ((List.range 16).filter fun cl => t.hasCluster cl && (!f.online || (t.cluster cl).online)).length

/-- Checks 1 to 5 of R281: the status of the first that fails. -/
def State.launchStatus (s : State) (r : LaunchRecord) : Option Nat :=
  let f := r.footprint
  let sites := s.sitesFor r.affmask r.level
  let room := (sites.map fun i => s.usableClusters f i * f.perCluster).sum
  if !r.inRange then some 3
  else if !((List.range 8).any fun i => r.affmask.testBit i && (s.site i).inService) then some 1
  else if r.level = 0 || 2 < r.level || sites.isEmpty then some 2
  else if room = 0 then some 3
  else if r.cores && room < r.gx * r.gy * r.gz then some 4
  else none

/-- The record's checks decide the grid, once its status word has been found (R279, R281). -/
def State.judge (s : State) (g : Grid) : State :=
  (match s.launchStatus g.record with
   | some code => s.endGrid g code true
   | none => s).settleDeps

/-- ACCEPTED is written, then the checks; a page fault waits for the supervisor, any other failure ends the grid with
RESOURCES (R279). -/
def State.acceptGrid (s : State) (g : Grid) : State :=
  if !g.record.statLegal || g.record.stataddr == 0 then
    (match s.launchStatus g.record with
     | some code => s.endGrid g code false
     | none => s).settleDeps
  else match s.statusPlace g with
    | (s', .ok t) => (s'.writeStatus g t (2 ^ 8)).judge g
    | (s', .error .pagefault) =>
      let r := { FaultRecord.empty with cause := some .pagefault, ctx := g.ctx, addr := BitVec.ofNat 64 g.record.stataddr }
      (s'.postTagged r).mapGrid g.ticket fun g => { g with wait := some s'.nextTag }
    | (s', .error _) => ((s'.endGrid g 3 false).statusFails g).settleDeps

/-- A queue whose head may be read: enabled, not empty, every gang of the grid before it placed or ended. -/
def State.readable (s : State) (q : Nat) : Bool :=
  let u := s.queue q
  u.size != 0 && u.waiting != 0
  && s.grids.all fun g => g.queue != q || g.status.isSome || g.placed == g.gangCount

/-- Where the round-robin of a level stands: the queue after the one served last. -/
def State.turn (s : State) (level : Nat) : Nat := s.serving / 8 ^ level % 8

/-- The queue that the front end serves next (R281). -/
def State.nextQueue (s : State) : Option Nat :=
  ((List.range 8).reverse).findSome? fun level =>
    ((List.range 8).map fun i => 8 * level + (s.turn level + i) % 8).find? s.readable

def State.serve (s : State) (q : Nat) : State :=
  let level := q / 8
  let old := s.turn level
  { s with serving := s.serving - old * 8 ^ level + (q % 8 + 1) % 8 * 8 ^ level }

/-- The front end reads the next record: QHEAD advances, the grid exists, its status word and checks follow. -/
def execLaunchRecordRead (q : Nat) (s : State) : Host.Outcome State Fault Refusal :=
  .next <|
    if s.nextQueue != some q then s
    else
      let u := s.queue q
      match s.slotPlace q u.head false with
      | (s', none) => s'
      | (s', some (loc, kind)) =>
        let (s, bs) := s'.readAt (remoteAgent u.ctx) kind loc 128
        let r := LaunchRecord.ofBytes bs
        let g : Grid :=
          { ticket := ticketOf q u.head, queue := q, ctx := u.ctx, gridid := s.nextUid % 2 ^ 32, record := r
            prio := min r.prio (q / 8), mask := r.affmask, next := 0, offers := [], placed := 0, retired := 0
            ready := false, status := none, wait := none }
        let gs : List Grid := s.grids.filter fun h => h.ticket != g.ticket
        let s := { s with nextUid := s.nextUid + 1, grids := gs ++ [g] }
        ((s.mapQueue q fun u => { u with head := u.head + 1 }).serve q).acceptGrid g

/-! ## Placement (R285–R287) -/

/-- A gang waits under its target's patience. -/
def State.patient (s : State) (g : Grid) (o : Offer) : Bool :=
  !o.patience && decide (s.clock.toNat < o.since + (s.context g.ctx).affpat.toNat)

/-- The offer of a gang of a grid, made now where it has not been before. -/
def State.offerOf (s : State) (g : Grid) (ix : Nat) : Offer :=
  (g.offers.find? (·.index == ix)).getD { index := ix, since := s.clock.toNat, patience := false }

/-- A gang that has been offered is placed where it finds room. -/
def State.tryOffer (s : State) (g : Grid) (o : Offer) (stack : Nat) : State :=
  match s.spotFor g g.record.footprint o.index (s.patient g o) with
  | some x => s.placeNew g o.index stack x.1 x.2.1 x.2.2
  | none => s

/-- Every gang of a CORES grid is placed in one step, or none (R287); `patient` says that each waits for its target. -/
def State.placeWhole (s : State) (g : Grid) (stack : Nat) (patient : Bool) : Option State :=
  let size := g.record.gang * g.record.wgsize * 32 * g.record.stack
  (List.range g.gangCount).foldl (fun (b : Option State) ix =>
    b.bind fun s => (s.spotFor g g.record.footprint ix patient).map fun x => s.placeNew g ix (stack + ix * size) x.1 x.2.1 x.2.2) (some s)

/-- The gangs of a CORES grid that were swapped out resume together (R287). -/
def State.resumeWhole (s : State) (g : Grid) : Option State :=
  (s.gangs.filter fun h => h.grid == g.ticket && h.phase == .swapped).foldl
    (fun (b : Option State) h => b.bind fun s => s.resume h) (some s)

/-- A gang comes back: with its grid where that is a CORES grid which has been swapped out. -/
def State.comeBack (s : State) (h : Gang) : Option State :=
  if (s.grid h.grid).record.cores && h.phase == .swapped then s.resumeWhole (s.grid h.grid) else s.resume h

/-- A grid of a priority has gangs to be placed. -/
def Grid.pending (g : Grid) (prio : Nat) : Bool :=
  g.prio == prio && g.status.isNone && g.ready && decide (g.placed < g.gangCount)

/-- Some gang of a priority could be placed, or come back: where it is, or, without patience, anywhere in its mask. -/
def State.placeable (s : State) (prio : Nat) (patience : Bool) : Bool :=
  let waits := fun (g : Grid) (ix : Nat) => patience && s.patient g (s.offerOf g ix)
  (s.grids.any fun g => g.pending prio &&
      if g.record.cores then g.placed == 0 && (s.placeWhole g 0 (waits g 0)).isSome
      else (decide (g.next < g.gangCount) && (s.spotFor g g.record.footprint g.next (waits g g.next)).isSome)
        || g.offers.any fun o => (s.spotFor g g.record.footprint o.index (waits g o.index)).isSome)
  || s.gangs.any fun h => s.requeued h && (s.grid h.grid).prio == prio && (s.comeBack h).isSome

/-- Resident gangs of a lower priority, in the order in which they are pre-empted (R288). -/
def State.lowerGangs (s : State) (prio : Nat) : List Gang :=
  let p := fun g : Gang => (s.grid g.grid).prio
  sortBy (fun a b => decide (p a < p b) || (p a == p b && decide (b.placedAt ≤ a.placedAt)))
    (s.gangs.filter fun g => g.phase == .resident && decide (p g < prio) && !(s.site g.site).halted)

/-- Pre-empting some of the gangs, from the front, makes room for a gang that waits. -/
def State.roomWithout (prio : Nat) : State → List Gang → Bool
  | _, [] => false
  | s, g :: gs =>
    let t := s.vacate g.uid .preempted
    { t with gangs := t.gangs.filter (·.uid != g.uid) }.placeable prio false || State.roomWithout prio t gs

/-- A gang of a priority waits. -/
def State.waitsAt (s : State) (prio : Nat) : Bool :=
  (s.grids.any (·.pending prio)) || s.gangs.any fun h => s.requeued h && (s.grid h.grid).prio == prio

/-- A gang of a priority waits that can be placed nowhere, and for which gangs of lower priorities give way, one after
another, until it fits (R288). -/
def State.owed (s : State) (prio : Nat) : Bool :=
  s.waitsAt prio && !s.placeable prio false && State.roomWithout prio s (s.lowerGangs prio)

/-- A gang of a higher priority could be placed, or is owed the room. -/
def State.beaten (s : State) (prio : Nat) : Bool :=
  (List.range 8).any fun p => decide (prio < p) && (s.placeable p true || s.owed p)

/-- A requeued gang comes first where it has room (R287, R288): before a new gang, if its priority is no lower. -/
def State.yieldsTo (s : State) (g : Grid) : Bool :=
  s.beaten g.prio || s.gangs.any fun h => s.requeued h && g.prio ≤ (s.grid h.grid).prio && (s.comeBack h).isSome

/-- Of two requeued gangs of one priority the first comes back first: one pre-empted out of a CORES grid (R287), else the one
that left its cluster earlier. -/
def State.goesBefore (s : State) (k h : Gang) : Bool :=
  let first := fun g : Gang => (s.grid g.grid).record.cores && g.phase == .preempted
  if first k != first h then first k
  else decide (k.placedAt < h.placedAt) || (k.placedAt == h.placedAt && decide (k.uid < h.uid))

/-- Another gang comes first. -/
def State.waitsFor (s : State) (h : Gang) : Bool :=
  let prio := (s.grid h.grid).prio
  s.beaten prio || s.gangs.any fun k => s.requeued k && (s.grid k.grid).prio == prio && s.goesBefore k h
    && (s.comeBack k).isSome

/-- A CORES grid is placed whole, or waits. -/
def State.offerWhole (s : State) (g : Grid) (stack : Nat) : State :=
  match s.placeWhole g stack (s.patient g (s.offerOf g 0)) with
  | some s' => s'.mapGrid g.ticket fun g => { g with next := g.gangCount, offers := [] }
  | none =>
    if g.offers.isEmpty then
      s.mapGrid g.ticket fun g => { g with offers := [{ index := 0, since := s.clock.toNat, patience := false }] }
    else s

/-- A gang is placed, offered for the first time, or comes back. `stack` is where the supervisor allots its stacks. -/
def execGangPlacement (grid ix stack : Nat) (s : State) : Host.Outcome State Fault Refusal :=
  .next <|
    let s := s.settleDeps
    let g := s.grid grid
    match s.gangs.find? fun h => h.grid == grid && h.index == ix && h.phase != .retired with
    | some h => if !s.requeued h || s.waitsFor h then s else (s.comeBack h).getD s
    | none =>
      if g.status.isSome || !g.ready || s.yieldsTo g then s
      else if g.record.cores then if ix = 0 && g.placed == 0 then s.offerWhole g stack else s
      else match g.offers.find? (·.index == ix) with
        | some o => s.tryOffer g o stack
        | none =>
          if ix = g.next && decide (ix < g.gangCount) then
            let o : Offer := { index := ix, since := s.clock.toNat, patience := false }
            (s.mapGrid grid fun g => { g with next := g.next + 1, offers := g.offers ++ [o] }).tryOffer g o stack
          else s

def execAffinityPatienceExpiry (grid ix : Nat) (s : State) : Host.Outcome State Fault Refusal :=
  .next (s.mapGrid grid fun g =>
    let due := fun o : Offer => o.index == ix && decide (o.since + (s.context g.ctx).affpat.toNat ≤ s.clock.toNat)
    { g with offers := g.offers.map fun o => if due o then { o with patience := true } else o })

/-! ## Retirement (R81, R181) -/

/-- A warp with no fragment and no outstanding command retires, once its writes that a page lock holds, or that travel to a
fabric peer, are performed (R165, R283). A handler that has lost its lanes ends the warp first,
and a fault still held goes to the supervisor (R181, R330, R337). -/
def execWarpRetire (w : Nat) (s : State) : Host.Outcome State Fault Refusal :=
  .next <|
    match s.findWarp w with
    | none => s
    | some x =>
      if !x.resident || !x.usedFrags.isEmpty || !x.park.isEmpty then s
      else if x.debugStop then s
      else if x.trap.isSome then (s.focus w).handlerExit
      else if !x.out.isEmpty || x.stall.isSome || x.raising.isSome || !s.lanesLanded w then s
      else match x.heldFaults with
        | f :: more => (s.focus w).deliverAtExit f more.length
        | [] => s.retireWarp x

/-! ## Pre-emption (R288, R345) -/

def execPreemption (g : Nat) (s : State) : Host.Outcome State Fault Refusal := .next (s.preempt g .preempted)

/-- A gang whose quantum has run out gives way to one of its priority that only it blocks; one with a warp in debug stop
has no quantum (R351). -/
def execQuantumExpiry (g : Nat) (s : State) : Host.Outcome State Fault Refusal :=
  .next <|
    let h := s.gang g
    let r := s.grid h.grid
    let q := (s.queue r.queue).quant.toNat
    if h.phase ≠ .resident ∨ q = 0 ∨ s.clock.toNat < h.placedAt + q * 1024 ∨ h.leaving.isSome
        ∨ (s.warpsOf g).any (·.debugStop) ∨ s.placeable r.prio false then s
    else
      let t := s.vacate g .preempted
      if { t with gangs := t.gangs.filter (·.uid != g) }.placeable r.prio false then s.preempt g .preempted else s

/-- The gang is parked, none of its monitors has completed, and it holds no line lock (R273). -/
def State.gangParked (s : State) (g : Gang) : Bool :=
  allParked (s.warpsOf g.uid) && !s.monitorDone g.uid && (s.warpsOf g.uid).all fun w => !w.holdsLock && !w.debugStop

/-- The gang has been parked for longer than PARKTHR. -/
def State.parkedOut (s : State) (g : Gang) : Bool :=
  (match g.parkedSince with
   | some t => decide (t + (s.context (s.grid g.grid).ctx).parkthr.toNat < s.clock.toNat)
   | none => false)
  && s.gangParked g

/-- A gang of a CORES grid lets the grid be swapped out (R287). -/
def State.swapsWith (s : State) (k : Gang) : Bool :=
  match k.phase with
  | .resident => s.parkedOut k
  | .preempted => s.gangParked k
  | .swapped | .retired => true

/-- A gang is swapped out; one that has been pre-empted waits for its monitors from now on. -/
def State.swapOut (s : State) (k : Gang) : State :=
  if k.phase = .preempted then s.mapGang k.uid fun h => { h with phase := .swapped } else s.preempt k.uid .swapped

def execGangSwapOut (g : Nat) (s : State) : Host.Outcome State Fault Refusal :=
  .next <|
    let h := s.gang g
    let mates := s.gangs.filter fun k => k.grid == h.grid
    if h.phase ≠ .resident ∨ !s.parkedOut h then s
    else if (s.grid h.grid).record.cores then if mates.all s.swapsWith then mates.foldl State.swapOut s else s
    else s.preempt g .swapped

/-! ## Cluster gating (R289, R290) -/

/-- A monitor of a gang on the cluster has matched or timed out. -/
def State.clusterCalled (s : State) (site cl : Nat) : Bool := (s.gangsOn site cl).any fun g => s.monitorDone g.uid

/-- A cluster without gangs, or whose gangs are all parked, may be gated. -/
def State.gateable (s : State) (site cl : Nat) : Bool :=
  !s.clusterCalled site cl && (s.gangsOn site cl).all fun g => allParked (s.warpsOf g.uid)

/-- Register files are spilled with the registers of R277. -/
def State.spillCluster (s : State) (site cl : Nat) : State :=
  (s.gangsOn site cl).foldl (fun s g =>
    let vregs := (s.grid g.grid).record.vregs
    (s.warpsOf g.uid).foldl (fun s w => s.mapWarp w.uid fun w => w.saveRegs vregs) s) s

/-- The next step of gating; an arrival before the commit step aborts it. A halted site is left alone (R353). -/
def execClusterGating (site cl : Nat) (s : State) : Host.Outcome State Fault Refusal :=
  .next <|
    if (s.site site).halted then s
    else match ((s.site site).cluster cl).gate with
      | .awake => if s.gateable site cl then s.setGate site cl .clockStopped else s
      | .clockStopped =>
        if s.gateable site cl then (s.spillCluster site cl).setGate site cl .spilled else s.setGate site cl .awake
      | .spilled => s.setGate site cl (if s.gateable site cl then .isolated else .awake)
      | .isolated | .off | .waking => s

/-- The gangs that wait for placement: what each takes, the sites that it may use, and since when it waits. One that was swapped
out counts from then (log 79). -/
def State.waiting (s : State) : List (Footprint × List Nat × Nat) :=
  (s.grids.flatMap fun g =>
    if g.status.isSome || !g.ready then []
    else g.offers.map fun o => (g.record.footprint, s.sitesFor g.mask g.record.level, o.since))
  ++ (s.gangs.filter s.requeued).map fun h =>
    (s.footprintOf h, s.sitesFor (s.grid h.grid).mask (s.grid h.grid).record.level, h.placedAt)

/-- What a gang takes fits a cluster, whatever its gate. -/
def State.fitsGated (s : State) (f : Footprint) (site cl : Nat) : Bool :=
  (s.site site).hasCluster cl && (!f.online || ((s.site site).cluster cl).online) && (s.coresFor site cl f).isSome

/-- A gang that fits the gated cluster, and none that is waking, has waited for some cycles. -/
def State.wanted (s : State) (site cycles cl : Nat) : Bool :=
  s.waiting.any fun (f, sites, since) =>
    sites.contains site && decide (since + cycles ≤ s.clock.toNat) && s.fitsGated f site cl
    && !(List.range 16).any fun k => ((s.site site).cluster k).gate == .waking && s.fitsGated f site k

/-- Power is off; a monitor match, or a gang that fits the cluster, which arrived after isolation starts the wake, one in the
cycle of isolation aborts. -/
def execGatingPowerRemoved (site cl : Nat) (s : State) : Host.Outcome State Fault Refusal :=
  .next <|
    let c := (s.site site).cluster cl
    if c.gate ≠ .isolated ∨ (s.site site).halted then s
    else if s.clusterCalled site cl && c.givesWay s.clock.toNat then s.setGate site cl .awake
    else
      (s.setGate site cl (if s.clusterCalled site cl || s.wanted site 0 cl then .waking else .off)).mapCluster site cl fun c =>
        { c with lit := 0, wanted := 0 }

/-- The gated cluster of a site to be woken: one that a monitor match calls, else the lowest that a gang fits which has
waited so long. -/
def State.toWake (s : State) (site cycles : Nat) : Option Nat :=
  if (s.site site).halted then none
  else
    let off := (List.range 16).filter fun cl => ((s.site site).cluster cl).gate == .off
    (off.find? (s.clusterCalled site)).or (off.find? (s.wanted site cycles))

/-- A dispatcher wakes a gated cluster of its site: for a monitor match, for a gang that has waited 2,400 cycles, or where
it estimates that one will wait for longer. The estimate is its own: a free value (log 79). -/
def execClusterWake (site : Nat) (s : State) : Host.Outcome State Fault Refusal :=
  .next <|
    match s.toWake site 2400 with
    | some cl => s.setGate site cl .waking
    | none =>
      match s.toWake site 0 with
      | some cl =>
        let t := { s with free := s.free + 1 }
        if 2400 < (Config.freeWord s.free).toNat then t.setGate site cl .waking else t
      | none => s

/-- Waking takes 2,400 cycles. -/
def execClusterWakeDone (site cl : Nat) (s : State) : Host.Outcome State Fault Refusal :=
  .next <|
    let c := (s.site site).cluster cl
    if c.gate = .waking ∧ !(s.site site).halted ∧ c.gateAt + 2400 ≤ s.clock.toNat then s.setGate site cl .awake else s

/-! ## Leases (R293–R295) -/

/-- A window of 4,096 cycles in which the warp issues ends: M is the count of distinct lines. -/
def execLeaseWindowEnd (w : Nat) (s : State) : Host.Outcome State Fault Refusal :=
  .next (s.mapLease w fun l =>
    if 4096 ≤ l.window then { l with m := max 1 (min 4095 l.lines.length), lines := [], window := 0 } else l)

def execLeaseHeadWait (core : Nat) (s : State) : Host.Outcome State Fault Refusal := .next (s.schedule core)

/-- A warp that the scheduler rotates. -/
def State.rotates (s : State) (x : Warp) : Bool := x.resident && !x.debugStop && !(s.site x.site).halted

def execLeaseStarvation (w : Nat) (s : State) : Host.Outcome State Fault Refusal :=
  .next <|
    match s.findWarp w with
    | none => s
    | some x =>
      if s.rotates x && x.lease.queued && decide (x.lease.since + 64512 ≤ s.clock.toNat) then s.activate w true else s

/-- A warp has been active for 1,024 cycles: a forced activation ends, and the head is tried again. -/
def execActivity1024Cycles (w : Nat) (s : State) : Host.Outcome State Fault Refusal :=
  .next <|
    match s.findWarp w with
    | none => s
    | some x =>
      if !s.rotates x || !x.lease.active || decide (s.clock.toNat < x.lease.since + 1024) then s
      else (if x.lease.forced && !x.holdsLock then s.deactivate w else s).schedule x.coreNo

/-! ## Power (R297, R300) -/

/-- The level that a cluster requests. -/
def State.requested (s : State) (site cl : Nat) : Nat :=
  (s.gangsOn site cl).foldl (fun m g => ((s.warpsOf g.uid).filter fun w => !w.parked).foldl
    (fun m w => max m (min w.plreq.toNat (s.context w.ctx).plcap.toNat)) m) 0

def execPerformanceLevelChange (site cl : Nat) (s : State) : Host.Outcome State Fault Refusal :=
  .next (s.mapCluster site cl fun c => { c with granted := s.requested site cl - c.lowered })

/-- The clusters of the package, higher numbers first. -/
def allClusters : List (Nat × Nat) :=
  (List.range 8).reverse.flatMap fun i => (List.range 16).reverse.map fun c => (i, c)

/-- A cluster loses a level. -/
def State.lowerCluster (s : State) (x : Nat × Nat) : State :=
  s.mapCluster x.1 x.2 fun c => { c with granted := c.granted - 1, lowered := c.lowered + 1 }

/-- A cluster gets a level back, never above what it requests (R297). -/
def State.raiseCluster (s : State) (x : Nat × Nat) : State :=
  s.mapCluster x.1 x.2 fun c =>
    { c with granted := min (c.granted + 1) (s.requested x.1 x.2 - (c.lowered - 1)), lowered := c.lowered - 1 }

/-- The next of the three actions in turn. -/
def State.powerDown (s : State) : State :=
  let p := s.power
  match p.steps.head? with
  | some (.lower _) => { s with power := { p with bandCut := p.bandCut + 8, steps := .bands :: p.steps } }
  | some .bands => { s with power := { p with idle := p.idle + 1, steps := .idle :: p.steps } }
  | _ =>
    let level := fun x : Nat × Nat => ((s.site x.1).cluster x.2).granted
    let top := allClusters.foldl (fun m x => max m (level x)) 0
    let cs := if top = 0 then [] else allClusters.filter fun x => level x == top
    let s := cs.foldl State.lowerCluster s
    { s with power := { p with steps := .lower cs :: p.steps } }

/-- The last action undone. -/
def State.powerUp (s : State) : State :=
  let p := s.power
  match p.steps with
  | [] => s
  | .lower cs :: rest => { cs.foldl State.raiseCluster s with power := { p with steps := rest } }
  | .bands :: rest => { s with power := { p with bandCut := p.bandCut - 8, steps := rest } }
  | .idle :: rest => { s with power := { p with idle := p.idle - 1, steps := rest } }

/-- The highest LLC way of a context that is not gated is flushed and gated (R167). -/
def State.gateWay (s : State) (c : Context) : State :=
  (s.setContext { c with llcGated := c.llcGated + 1 }).llcFlush fun l =>
    l.ctx == c.num && l.way == llcWays - 1 - c.llcGated

/-- After 65,536 cycles the misses of a context are judged: more than one in eight accesses bring a gated way back, empty.
Where the working-set estimator says so, another way is gated: its estimate is a free value (log 17). -/
def State.evalWays (estimate : Word64) (s : State) (c : Context) : State :=
  let ended := decide (c.llcSince + 65536 ≤ s.clock.toNat)
  let more := ended && decide (c.llcReads < 8 * c.llcMisses)
  let c := if ended then { c with llcSince := s.clock.toNat, llcReads := 0, llcMisses := 0 } else c
  if more then s.setContext { c with llcGated := c.llcGated - 1 }
  else if estimate.getLsbD c.num && decide (c.llcGated + 1 < llcWays) then (s.setContext c).gateWay c
  else s.setContext c

/-- The power controller evaluates every 8,192 cycles: power first, then the ways of the LLC. -/
def execPowerEvaluation (excess : Bool) (s : State) : Host.Outcome State Fault Refusal :=
  .next <|
    if s.clock.toNat < s.power.since + 8192 then s
    else
      let s := if excess then s.powerDown else s.powerUp
      let s := { s with power := { s.power with since := s.clock.toNat }, free := s.free + 1 }
      s.contexts.foldl (State.evalWays (Config.freeWord (s.free - 1))) s

/-! ## Tokens (R301, R302) -/

/-- The tokens that have come into a bucket by now are counted. -/
def execTokenRefill (ctx : Nat) (k : Fin 4) (s : State) : Host.Outcome State Fault Refusal :=
  .next <|
    match s.context? ctx with
    | none => s
    | some c => s.setContext { c with buckets := c.buckets.set k (c.buckets[k].settle s.clock.toNat) }

end Sys2Proof.Machine
end

