-- ==== Sys2Proof/Machine/EventFabric.lean ====
section
/-! DEFINITION. Events of the Crest fabric and of the host's windows: transactions that arrive here, answers to those sent
from here, losses, snoops and the host's accesses (R305–R325). An event that is not due changes nothing. -/

namespace Sys2Proof.Machine

/-! ## Identities (R312, R320) -/

/-- What was answered to a transaction, where it has been performed. -/
def State.servedResult (s : State) (sender ident : Nat) : Option Nat :=
  (s.fabric.served.find? fun v => v.sender == sender && v.ident == ident).map (·.result)

/-! ## Arrivals (R306, R312) -/

/-- The operations that a peer asks for, by number. -/
def atomOpOf (n : Nat) : AtomOp :=
  [AtomOp.add, .min, .max, .and, .or, .xor, .exch, .incw, .decw, .cas].getD n .add

/-- Bytes, permissions and alignment of an access that arrives. -/
def inboundAccess : FabricOp → Nat × Nat × Nat × Bool × Bool
  | .store va bs => (va, bs.length, 1, false, true)
  | .load va n => (va, n, 1, true, false)
  | .amo _ ty va _ => (va, typeBytes ty, typeBytes ty, true, true)

/-- An atomic of a peer executes at its point; one at a page under migration is held (R165, R229, R230). -/
def State.peerAtomic (s : State) (a : Agent) (kind loc op ty : Nat) (value : BitVec 128) : State × Option Cause :=
  let n := 8 * typeBytes ty
  let b := value.toNat % 2 ^ n
  let new := value.toNat / 2 ^ n % 2 ^ n
  match s.pageLockOf loc with
  | some p =>
    (s.holdWrite p loc a.origin (.amo (atomOpOf op) ty (BitVec.ofNat 64 b) (BitVec.ofNat 64 new) 0 0 0 0), none)
  | none =>
    if s.poisoned loc (typeBytes ty) then (s, some .poison)
    else ((s.atomAt a kind loc (atomOpOf op) ty b new).1, none)

/-- A window access of a peer, or a page of a PUT or GET, performed here. -/
def State.performInbound (s : State) (a : Agent) (op : FabricOp) (kind loc : Nat) : State × Option Cause :=
  match op with
  | .store _ bs => (s.writeAt a kind loc bs, none)
  | .load _ n => if s.poisoned loc n then (s, some .poison) else ((s.readAt a kind loc n).1, none)
  | .amo op ty _ v => s.peerAtomic a kind loc op ty v

/-- A copy of the transaction is being served, or has been. -/
def State.knowsTx (s : State) (sender ident : Nat) : Bool :=
  (s.servedResult sender ident).isSome
  || (s.fabric.held.any fun h => match h.arrival with
    | .access t => t.sender == sender && t.ident == ident
    | .push t => t.sender == sender && t.ident == ident
    | _ => false)
  || s.fabric.finishing.any fun x => match x.finish with
    | .access d i _ | .push d i => d == sender && i == ident
    | _ => false

/-- An access that arrived is served: a translation that no mapping satisfies, or that the permissions forbid, is PROT.
`last` says that the supervisor has no mapping for the page asked for. -/
def State.serveAccess (s : State) (t : Inbound) (last : Bool) : State :=
  let (va, n, align, r, w) := inboundAccess t.op
  let id := s.nextUid
  let s := { s with nextUid := s.nextUid + 1 }
  let a := remoteAgent t.ctx (.arrival id)
  if (s.context? t.ctx).isNone then s.serveTx t.sender t.ident Cause.prot.code
  else match s.reach a 0 va n align r w with
    | (s', .fails c) =>
      if c = .pagefault && !last then s'.holdArrival t.ctx (BitVec.ofNat 64 va) (.access t)
      else s'.serveTx t.sender t.ident Cause.prot.code
    | (s', .at_ loc kind _) =>
      if s'.onFenced loc then s'
      else
        let (s'', c) := s'.performInbound a t.op kind loc
        s''.finishArrival { id := id, ctx := t.ctx, flag := none,
                            finish := .access t.sender t.ident ((c.map Cause.code).getD 0) }

/-- A transaction arrives: it is performed once, and its result kept for a retransmitted copy. -/
def execFabricTransactionArrival (t : Inbound) (s : State) : Host.Outcome State Fault Refusal :=
  .next <| if s.knowsTx t.sender t.ident then s else s.serveAccess t false

/-- A push of a peer is received (R317). -/
def State.servePush (s : State) (t : PushArrival) (last : Bool) : State :=
  match s.receivePush t [] (.push t.sender t.ident) with
  | (s', .done _) => s'
  | (_, .dropped) => s
  | (s', .stopped (.fault c _)) => s'.serveTx t.sender t.ident c.code
  | (s', .stopped (.page va)) =>
    if last then s'.serveTx t.sender t.ident Cause.prot.code else s'.holdArrival t.ctx va (.push t)

/-- A PUSH arrives and is received once (R317). -/
def execPushReceipt (t : PushArrival) (s : State) : Host.Outcome State Fault Refusal :=
  .next <| if s.knowsTx t.sender t.ident then s else s.servePush t false

/-! ## Collective steps that arrive (R320) -/

/-- Element `i` of an arriving step: written, or combined with what stands there; a poisoned destination discards it. -/
def State.landElem (t : StepArrival) (a : Agent) (s : State) (i : Nat) : State :=
  let w := stepWidth t.op t.ty
  let bs := (t.data.drop (w * i)).take w
  match s.reach a 0 (t.rdst + w * i) w w (t.op != 0) true with
  | (s', .fails _) => s'
  | (s', .at_ loc kind _) => s'.stepElem a kind loc t.op t.ty (bytesToNat bs) false

/-- The places that a step writes, one for each page, its flag among them: address, bytes, read permission. -/
def stepPlaces (t : StepArrival) : List (Nat × Nat × Bool) :=
  (pieces t.rdst t.data.length).map (fun x => (t.rdst + x.1, 1, t.op != 0))
  ++ if t.rflag = 0 then [] else [(t.rflag, 4, false)]

/-- The first of the places that cannot be written, with its cause; a fenced die counts as PROT. -/
def State.stepStop (s : State) (a : Agent) : List (Nat × Nat × Bool) → Option (Cause × Nat)
  | [] => none
  | (va, n, r) :: rest =>
    match s.reach a 0 va n 1 r true with
    | (_, .fails c) => some (c, va)
    | (s', .at_ loc _ _) => if s'.onFenced loc then some (.prot, va) else s.stepStop a rest

def stepId (t : StepArrival) : AppliedStep := { sender := t.sender, collid := t.collid, seq := t.seq }

/-- A copy of the step is being served, or has been. -/
def State.knowsStep (s : State) (t : StepArrival) : Bool :=
  s.fabric.steps.contains (stepId t)
  || (s.fabric.held.any fun h => match h.arrival with
    | .step u => stepId u == stepId t
    | _ => false)
  || s.fabric.finishing.any fun x => x.finish == .step (stepId t)

/-- A step that arrived is applied: its elements, then its flag; one that cannot be written is dropped. -/
def State.serveStep (s : State) (t : StepArrival) (last : Bool) : State :=
  let id := s.nextUid
  let s := { s with nextUid := s.nextUid + 1 }
  let a := remoteAgent t.ctx (.arrival id)
  if (s.context? t.ctx).isNone then s
  else match s.stepStop a (stepPlaces t) with
    | some (c, va) =>
      if c = .pagefault && !last then s.holdArrival t.ctx (BitVec.ofNat 64 va) (.step t) else s
    | none =>
      let n := t.data.length / stepWidth t.op t.ty
      match s.flagPlace a t.rflag with
      | (s', .error _) => s'
      | (s', .ok f) =>
        ((List.range n).foldl (State.landElem t a) s').finishArrival
          { id := id, ctx := t.ctx, flag := f, finish := .step (stepId t) }

/-- A step arrives and is applied at most once. -/
def execCstepReceipt (t : StepArrival) (s : State) : Host.Outcome State Fault Refusal :=
  .next <| if s.knowsStep t then s else s.serveStep t false

/-- The ROR of a failure notice is performed, once the flag's page is mapped (R321). -/
def State.serveNotice (s : State) (ctx flag : Nat) (last : Bool) : State :=
  let a := remoteAgent ctx
  match s.flagPlace a flag with
  | (s', .ok f) => s'.atFlag a f .or 0x80000000
  | (s', .error (.page va)) => if last then s' else s'.holdArrival ctx va (.notice ctx flag)
  | (s', .error (.fault _ _)) => s'

/-- The supervisor has answered for the page that an arrival waits for. -/
def State.answerFabric (s : State) (tag : Nat) (mapped : Bool) : State :=
  let mine := s.fabric.held.filter (·.tag == tag)
  let s := { s with fabric := { s.fabric with held := s.fabric.held.filter (·.tag != tag) } }
  mine.foldl (fun s h => match h.arrival with
    | .access t => s.serveAccess t !mapped
    | .push t => s.servePush t !mapped
    | .selfPush t bad cmd => s.landSelf t bad cmd !mapped
    | .step t => s.serveStep t !mapped
    | .notice ctx flag => s.serveNotice ctx flag !mapped) s

/-! ## Answers (R306, R312) -/

/-- A lane of a warp fails at the peer: its instruction raises the cause once all of its lanes are answered, and poison
kills it (R163, R306, R342). -/
def State.failLane (s : State) (pend lane : Nat) (ea : Word64) (c : Cause) : State :=
  if c = .poison then s.killLate pend (lanesMask [lane]) ea
  else s.onWarp fun w => { w with pend := w.pend.map fun p =>
    if p.id == pend && !p.faults.any (·.1 == lane) then { p with faults := p.faults ++ [(lane, c, ea)] } else p }

/-- The address that a fault of a part of a lane's access names. -/
def Job.partEa (j : Job) (l : Fin 32) (part : Nat) : Word64 := if j.stack then ((j.part part).ea)[l] else j.ea[l]

/-- The place of a part at its peer. -/
def Job.farTarget (j : Job) (part loc peer : Nat) : Target :=
  { loc := loc, n := if j.stack then 4 else (j.part part).kind.bytes, kind := 3, peer := peer }

/-- The lanes that a pending instruction has killed itself. -/
def Warp.killedBy (w : Warp) (k : Nat) : Word32 := ((w.pend.find? (·.id == k)).map (·.killed)).getD 0

/-- The part of a lane's access is performed at the peer, and its values come back, to be written when the instruction
completes; a lane killed meanwhile by another still takes part (R342). -/
def State.laneAnswered (s : State) (peer pend lane part loc : Nat) (job : Job) (res : Nat) : State :=
  let l := Fin.ofNat 32 lane
  match causeOf res with
  | some c => s.failLane pend lane (job.partEa l part) c
  | none =>
    match s.performPart (s.warp.agent.pend s.warp.uid pend) job pend l part (job.farTarget part loc peer) with
    | (s', .killed _, _) => s'.failLane pend lane (job.partEa l part) .poison
    | (s', _, ws) => s'.onWarp (·.addWrites pend (ws.map (RegWrite.without (s.warp.killedBy pend))))

/-- An earlier transaction of the same warp to the same peer has not been answered. -/
def State.earlierLane (s : State) (t : Transaction) (w : Nat) : Bool :=
  (s.fabric.tx.takeWhile (·.id != t.id)).any fun u => u.peer == t.peer && match u.kind with
    | .lane x _ _ _ _ _ => x == w
    | .command _ _ => false

/-- No transaction of a command that is gone stays. -/
def State.dropStrays (s : State) (cmd : Nat) : State :=
  if (s.command? cmd).isSome then s
  else { s with fabric := { s.fabric with tx := s.fabric.tx.filter fun t => match t.kind with
      | .command k _ => k != cmd
      | .lane _ _ _ _ _ _ => true } }

/-- The target of a transaction answers: 0, or the cause that it found. -/
def execFabricAcknowledgement (k : Nat) (res : Nat) (s : State) : Host.Outcome State Fault Refusal :=
  .next <|
    match s.fabric.tx.find? (·.id == k) with
    | none => s
    | some t =>
      match t.kind with
      | .lane w pend lane part loc job =>
        if s.earlierLane t w then s
        else (s.dropTx k).as w fun s => s.laneAnswered t.peer pend lane part loc job res
      | .command cmd part =>
        match s.command? cmd with
        | none => s.dropTx k
        | some c => if c.phase = .sent then (s.ackCommand k c part (causeOf res)).dropStrays cmd else s

/-! ## Losses (R312, R313, R321) -/

/-- Whether an access whose answers were all lost has been performed is left open. -/
def State.lostBit (s : State) : State × Bool := ({ s with free := s.free + 1 }, (Config.freeWord s.free).getLsbD 0)

/-- A lane whose retries are exhausted: killed, a store or atomic performed or not. -/
def State.laneLost (s : State) (peer pend lane part loc : Nat) (job : Job) : State :=
  let l := Fin.ofNat 32 lane
  let done := match job.kind with
    | .load _ => s
    | _ =>
      match s.lostBit with
      | (s', true) =>
        (s'.performLane (s'.warp.agent.pend s'.warp.uid pend) (job.part part) pend l [job.farTarget part loc peer]).1
      | (s', false) => s'
  done.killLate pend (lanesMask [lane]) 0

/-- What of a command has reached its peer although no answer came. -/
def State.commandLost (s : State) (c : Command) (part : Nat) : State :=
  match s.lostBit with
  | (s', false) => s'
  | (s', true) =>
    let a := s'.engineAgent c
    match c.kind with
    | .put rva len sp lva =>
      let (off, n) := (pieces rva len).getD part (0, 0)
      (s'.moveRange a true rva sp lva.toNat ((List.range (n / 8)).map (off / 8 + ·))).1
    | .step d =>
      (s'.stepWhole a d).1
    | _ => s'

/-- The failure notice of a step, where its peer can be reached, which is left open: the flag's bit 31 is set (R321). -/
def State.sendNotice (s : State) (c : Command) : State :=
  match c.kind, s.lostBit with
  | .step d, (s', true) =>
    match s'.flagPlace (s'.engineAgent c) d.rflag with
    | (s'', .ok f) => s''.atFlag (s'.engineAgent c) f .or 0x80000000
    | (s'', .error _) => s''
  | .step _, (s', false) => s'
  | _, _ => s

/-- A transaction not answered within 2^20 cycles is sent again, or its retries are exhausted: a lane's then, once those before
it have come to their end (R227). -/
def execFabricRetransmission (k : Nat) (s : State) : Host.Outcome State Fault Refusal :=
  .next <|
    match s.fabric.tx.find? (·.id == k) with
    | none => s
    | some t =>
      let c := s.context t.ctx
      if s.clock.toNat < t.sentAt + 2 ^ 20 then s
      else if t.retries < c.retrymax.toNat then
        let q := c.peer t.peer
        let again := fun u : Transaction =>
          if u.id == k then { u with retries := u.retries + 1, sentAt := s.clock.toNat } else u
        { s with fabric := { s.fabric with tx := s.fabric.tx.map again } }.setContext
          (c.setPeer { q with retries := q.retries + 1 })
      else
        match t.kind with
        | .lane w pend lane part loc job =>
          if s.earlierLane t w then s else (s.dropTx k).as w fun s => s.laneLost t.peer pend lane part loc job
        | .command cmd part =>
          let s := s.dropTx k
          match s.command? cmd with
          | none => s
          | some c => (((s.commandLost c part).sendNotice c).engineFault c .collfail 0).dropStrays cmd

/-- The collective that a command steps is the one named, once its descriptor has been read. -/
def Command.steps (c : Command) (collid : Nat) : Bool :=
  match c.kind with
  | .step d => d.collid == collid
  | _ => false

/-- A failure notice arrives: the flag's bit 31, the mark, and the context's steps of that collective end. -/
def execCollfailNotice (sender ctx collid rflag : Nat) (s : State) : Host.Outcome State Fault Refusal :=
  .next <|
    match s.context? ctx with
    | none => s
    | some c =>
      let q := c.peer sender
      let marks := c.failed.filter (· != collid) ++ [collid]
      let c : Context := { c with failed := marks.drop (marks.length - 64) }
      let s := (s.setContext (c.setPeer { q with fails := q.fails + 1 })).serveNotice ctx rflag false
      (s.cmds.filter fun k => k.ctx == ctx && k.steps collid).foldl
        (fun s k => (s.engineFault k .collfail 0).dropStrays k.id) s

/-! ## The link layer (R312) -/

/-- The Crest ports of the package (R13). -/
def crestPorts : Nat := 24

/-- A flit is sent again: a count of the port, and time. -/
def execLinkFlitResend (port : Nat) (s : State) : Host.Outcome State Fault Refusal :=
  .next <|
    if crestPorts ≤ port then s
    else
    let n := ((s.fabric.resent.find? (·.1 == port)).map (·.2)).getD 0
    { s with fabric := { s.fabric with resent := s.fabric.resent.filter (·.1 != port) ++ [(port, n + 1)] } }

/-- A port has failed; paths avoid it. -/
def execPortFailure (port : Nat) (s : State) : Host.Outcome State Fault Refusal :=
  .next <|
    if crestPorts ≤ port then s
    else { s with fabric := { s.fabric with failedPorts := insertRising s.fabric.failedPorts port } }

/-! ## The host and the sharing devices (R307, R310, R311) -/

/-- The sector's registered words are pushed, its partial values combined and its ownership given up before the host is
answered (R157, R307). -/
def State.snoopSector (s : State) (lo : Nat) : State :=
  let s := (s.recall (lineOf lo)).pushWords lo 64
  { s with sectors := s.sectors.filter (· != lo / 64) }

def execHostSnoop (sector : Nat) (s : State) : Host.Outcome State Fault Refusal :=
  .next (s.snoopSector (sector / 64 * 64))

/-- The line's registered words are recalled, its partial values pushed and the LLC's copy dropped before the sharing
device is answered (R311). -/
def State.snoopLine (s : State) (line : Nat) : State :=
  ((s.recall line).pushWords line 128).llcFlush (·.line == line)

def execBackInvalidateSnoop (line : Nat) (s : State) : Host.Outcome State Fault Refusal := .next (s.snoopLine (lineOf line))

end Sys2Proof.Machine
end

