-- ==== Sys2Proof/Machine/EventSystem.lean ====
section
/-! DEFINITION. The mailbox and its commands, page faults answered, errors, fences, reset and re-admission (R27, R29, R171,
R341, R349, R350, R356–R358). An event that is not due changes nothing. -/

namespace Sys2Proof.Machine

/-! ## Answers to page faults (R163, R171, R180, R279, R357) -/

/-- A stalled warp tries its unit again; where no mapping exists, that attempt traps. -/
def State.answerStall (s : State) (tag : Nat) (mapped : Bool) : State :=
  (s.warps.filter fun w => w.stall == some tag).foldl (fun s w =>
    s.mapWarp w.uid fun w => { w with stall := none, unmapped := !mapped }) s

/-- A grid whose status word waited is judged, or ends with RESOURCES and the event of R279. -/
def State.answerGrid (s : State) (tag : Nat) (mapped : Bool) : State :=
  (s.grids.filter fun g => g.wait == some tag).foldl (fun s g =>
    let s := s.mapGrid g.ticket fun g => { g with wait := none }
    if mapped then s.acceptGrid { g with wait := none }
    else ((s.endGrid g 3 false).statusFails g).settleDeps) s

/-- The log entry of the fault may be replayed, or is converted. -/
def State.answerLog (s : State) (tag : Nat) (mapped : Bool) : State :=
  let mark := fun w : Warp => { w with log := w.log.map fun (e : LogEntry) =>
    if e.tag == tag then { e with answer := some mapped } else e }
  { s with warp := mark s.warp, others := s.others.map mark }

/-- A paused command may go on, or stops with PAGEFAULT. -/
def State.answerCommand (s : State) (tag : Nat) (mapped : Bool) : State :=
  s.cmds.foldl (fun s c =>
    match c.phase with
    | .paused t va _ =>
      if t ≠ tag then s
      else if mapped then s.mapCommand c.id fun d => { d with phase := .paused t va true }
      else s.engineFault c .pagefault va
    | _ => s) s

/-- Something waits for the answer to a PAGEFAULT record. -/
def State.awaits (s : State) (tag : Nat) : Bool :=
  (s.warps.any fun w => w.stall == some tag || w.log.any fun e => e.tag == tag && e.answer.isNone)
  || (s.grids.any fun g => g.wait == some tag)
  || s.fabric.held.any (·.tag == tag)
  || s.cmds.any fun c => match c.phase with | .paused t _ false => t == tag | _ => false

def State.answerFault (s : State) (tag : Nat) (mapped : Bool) : State :=
  ((((s.answerStall tag mapped).answerGrid tag mapped).answerLog tag mapped).answerCommand tag mapped).answerFabric tag
    mapped

/-- The supervisor has mapped the page that a stalled access waits for. -/
def execStalledPageFaultMapped (tag : Nat) (s : State) : Host.Outcome State Fault Refusal :=
  .next ((s.answerStall tag true).answerGrid tag true)

/-! ## Mailbox registers (R274, R310, R357) -/

/-- The register at an offset, as the host reads it. -/
def Mailbox.at (b : Mailbox) (off : Nat) : Word64 :=
  [b.cmdbase, b.cmdsize, b.cmdhead, b.cmdtail, b.evbase, b.evsize, b.evhead, b.evtail, b.evlost].getD (off / 8) 0

/-- A slot count that a ring may have: none, or 2^4 to 2^12. -/
def ringSize (v : Word64) : Bool := v == 0 || (4 ≤ v.toNat && v.toNat ≤ 12)

def ringBase (v : Word64) : Word64 := BitVec.ofNat 64 (v.toNat / 4096 * 4096)

/-- EVLOST loses the bits that are 1 in the value written. -/
def State.clearLost (s : State) (v : Word64) : State :=
  { s with mailbox := { s.mailbox with evlost := s.mailbox.evlost &&& ~~~v } }

/-- A mailbox register of R357 takes a value; CMDHEAD and EVTAIL ignore it. -/
def Mailbox.write (b : Mailbox) (off : Nat) (v : Word64) : Mailbox :=
  match off with
  | 0x00 => { b with cmdbase := ringBase v }
  | 0x08 => if ringSize v then { b with cmdsize := v } else b
  | 0x18 => { b with cmdtail := v }
  | 0x20 => { b with evbase := ringBase v }
  | 0x28 => if ringSize v then { b with evsize := v } else b
  | 0x30 => { b with evhead := v }
  | _ => b

/-- The value that a write of 4 or 8 bytes gives the 8-byte register it falls in. -/
def mergeWrite (old : Word64) (off size : Nat) (v : Word64) : Word64 :=
  if size = 8 then v
  else if off % 8 = 0 then BitVec.ofNat 64 (old.toNat / 2 ^ 32 * 2 ^ 32 + v.toNat % 2 ^ 32)
  else BitVec.ofNat 64 (old.toNat % 2 ^ 32 + v.toNat % 2 ^ 32 * 2 ^ 32)

/-- A register of a launch queue, as the host reads it (R274). -/
def Queue.at (u : Queue) (off : Nat) : Word64 :=
  [u.base, BitVec.ofNat 64 u.size, u.head.setWidth 64, u.tail.setWidth 64, BitVec.ofNat 64 (u.ctx + u.device.toNat * 2 ^ 8),
    u.quant.setWidth 64, BitVec.ofNat 64 u.err.toNat].getD (off / 8) 0

/-- The register at an offset of BAR 0, as the host reads it; what is reserved reads as zero (R310). -/
def State.registerAt (s : State) (reg : Nat) : Word64 :=
  if reg < 0x48 then s.mailbox.at reg
  else if 0x4000 ≤ reg ∧ reg < 0x5000 then (s.queue ((reg - 0x4000) / 64)).at (reg % 64)
  else 0

/-- What the host's read of BAR 0 returns: all ones for an access that is not 4 or 8 bytes and naturally aligned (R310). -/
def State.registerBytes (s : State) (off size : Nat) : List Byte :=
  if (size = 4 ∨ size = 8) ∧ off % size = 0 then
    natToBytes size ((s.registerAt (off / 8 * 8)).toNat / 2 ^ (8 * (off % 8)))
  else List.replicate size 0xFF

/-- The sectors, or lines, that `n` bytes at `lo` touch. -/
def unitsOf (size lo n : Nat) : List Nat := (List.range ((lo % size + n + size - 1) / size)).map fun i => (lo / size + i) * size

/-- The host has the bytes that its read gave. -/
def hostTakes (p : State × List Byte) : State := { p.1 with hostValue := p.2 }

/-- An access of the host to its own memory, to a partition granted to it, or to BAR 0, and a write of a CXL device that
shares a region; the snoop that it needs comes first (R307, R309–R311). Its place in the run is its place in the one order
of accesses, so that the host's releases and acquires hold (R309). -/
def execHostMemAccess (a : HostAccess) (s : State) : Host.Outcome State Fault Refusal :=
  .next <|
    let granted := fun ctx off n : Nat => match s.context? ctx with
      | some c => c.psHost && decide (off + n ≤ c.psBytes)
      | none => false
    match a with
    | .read ctx off n =>
      if granted ctx off n then
        hostTakes (s.readAt (remoteAgent ctx) 0 (psBase ctx + off) n)
      else s
    | .write ctx off bs =>
      if granted ctx off bs.length then s.writeAt (remoteAgent ctx) 0 (psBase ctx + off) bs else s
    | .hostRead loc n =>
      if 2 ^ 64 < loc + n then s
      else
        let s := (unitsOf 64 (hostBase + loc) n).foldl State.snoopSector s
        { s with hostValue := s.mem.readBytes (hostBase + loc) n }
    | .hostWrite loc bs =>
      if 2 ^ 64 < loc + bs.length then s
      else ((unitsOf 64 (hostBase + loc) bs.length).foldl State.snoopSector s).poke (hostBase + loc) bs
    | .deviceWrite loc bs =>
      if 2 ^ 51 < loc + bs.length then s
      else ((unitsOf 128 loc bs.length).foldl State.snoopLine s).poke loc bs
    | .register off size => if 0x10000 < off + size then s else { s with hostValue := s.registerBytes off size }

def execEvlostClear (v : BitVec 64) (s : State) : Host.Outcome State Fault Refusal := .next (s.clearLost v)

/-- A write of the host to BAR 0: an access that is not 4 or 8 bytes and naturally aligned is ignored. -/
def execRegisterWrite (off size : Nat) (v : BitVec 64) (s : State) : Host.Outcome State Fault Refusal :=
  let reg := off / 8 * 8
  if (size ≠ 4 ∧ size ≠ 8) ∨ off % size ≠ 0 then .next s
  else if reg = 0x40 then .next (s.clearLost (mergeWrite 0 off size v))
  else if reg < 0x48 then
    .next { s with mailbox := s.mailbox.write reg (mergeWrite (s.mailbox.at reg) off size v) }
  else if 0x4000 ≤ reg ∧ reg < 0x5000 ∧ reg % 64 = 0x18 then
    if off % 8 = 0 then execLaunchQueueTail ((reg - 0x4000) / 64) (v.setWidth 32) s else .next s
  else if 0x4000 ≤ reg ∧ reg < 0x5000 ∧ reg % 64 = 0x30 then
    execLaunchQueueErrorClear ((reg - 0x4000) / 64) (mergeWrite 0 off size v) s
  else .next s

/-! ## Mailbox commands (R357) -/

/-- A command's slot, as bytes. -/
structure MailCommand where
  opcode : Nat
  tag : Nat
  clean : Bool                         -- bytes 2 and 3 are zero
  args : List Byte                     -- from byte 8
deriving DecidableEq, Repr

def MailCommand.ofBytes (bs : List Byte) : MailCommand :=
  { opcode := bytesToNat (bs.take 2), tag := bytesToNat ((bs.drop 4).take 4), clean := bytesToNat ((bs.drop 2).take 2) == 0
    args := bs.drop 8 }

/-- The `n`-byte argument at byte `at_` of the slot. -/
def MailCommand.arg (c : MailCommand) (at_ n : Nat) : Nat := bytesToNat ((c.args.drop (at_ - 8)).take n)

/-- The command at the head of the ring, in host memory. -/
def State.headCommand (s : State) : Option MailCommand :=
  let b := s.mailbox
  if b.cmdsize = 0 ∨ b.cmdhead = b.cmdtail then none
  else
    some (MailCommand.ofBytes (s.mem.readBytes
      (hostBase + b.cmdbase.toNat + 128 * (b.cmdhead.toNat % 2 ^ b.cmdsize.toNat)) 128))

/-- The answer to a command: CAUSE 0 done, 1 refused. -/
def State.respond (s : State) (tag : Nat) (refused : Bool) (ctx : Nat) : State :=
  s.post { FaultRecord.empty with kind := 3, tag := tag, causeCode := refused.toNat, ctx := ctx }

/-- The command at the head of the ring, if its opcode is `op`, is read and done, or refused where `act` gives nothing;
`act` answers it. An opcode that the table does not name is refused. -/
def mailbox (op : Nat) (act : MailCommand → State → Option State) (s : State) : Host.Outcome State Fault Refusal :=
  .next <|
    match s.headCommand with
    | none => s
    | some c =>
      let t := { s with mailbox := { s.mailbox with cmdhead := s.mailbox.cmdhead + 1 } }
      if c.opcode = 0 ∨ 8 < c.opcode then t.respond c.tag true 0
      else if c.opcode ≠ op then s
      else if !c.clean then t.respond c.tag true 0
      else (act c t).getD (t.respond c.tag true 0)

/-- The lowest context number that none holds. -/
def State.freeContext (s : State) : Option Nat := ((List.range 64).drop 1).find? fun c => (s.context? c).isNone

/-- A context is created; its ASID is its number, and translations that the number once had are gone (R356, log 8). -/
def execCtxnew (s : State) : Host.Outcome State Fault Refusal :=
  mailbox 1 (fun c s =>
    if 7 < c.arg 16 1 ∨ 1 < c.arg 17 1 then none
    else s.freeContext.map fun n =>
      let x : Context := { Context.start n with
        ptbase := BitVec.ofNat 64 (c.arg 8 8), plcap := BitVec.ofNat 3 (c.arg 16 1), debug := c.arg 17 1 == 1
        asid := BitVec.ofNat 16 n }
      { s with
        contexts := s.contexts ++ [x]
        tlb := s.tlb.filter fun e => e.asid != x.asid }.llcResplit.respond c.tag false n) s

/-- A context ends with HOSTEND (R339). -/
def execCtxend (s : State) : Host.Outcome State Fault Refusal :=
  mailbox 2 (fun c s =>
    let n := c.arg 8 1
    (s.context? n).map fun _ => (s.endContext n .hostend 0).respond c.tag false n) s

/-- QINIT's arguments are legal, and the queue has no grid that has not ended. -/
def State.queueInitLegal (s : State) (c : MailCommand) : Bool :=
  decide (c.arg 8 1 < 64) && (s.context? (c.arg 9 1)).isSome && c.arg 10 1 ≤ 1
  && c.arg 16 8 % 4096 == 0 && decide (c.arg 16 8 < 2 ^ 57)
  && (c.arg 24 1 == 0 || (4 ≤ c.arg 24 1 && c.arg 24 1 ≤ 16))
  && s.grids.all fun g => g.queue != c.arg 8 1 || g.status.isSome

/-- A queue is set up, empty. -/
def execQinit (s : State) : Host.Outcome State Fault Refusal :=
  mailbox 3 (fun c s =>
    let q := c.arg 8 1
    if !s.queueInitLegal c then none
    else
      let u : Queue := { Queue.start with
        base := BitVec.ofNat 64 (c.arg 16 8), size := c.arg 24 1, ctx := c.arg 9 1, device := c.arg 10 1 == 1
        quant := BitVec.ofNat 32 (c.arg 28 4) }
      let s := { s with grids := s.grids.filter (·.queue != q) }.mapQueue q fun _ => u
      some (s.respond c.tag false (c.arg 9 1))) s

/-- The bytes of a partition are zero, and free of poison (R167, R356). -/
def State.clearPartition (s : State) (ctx : Nat) : State :=
  let lo := psBase ctx
  let inside := fun a : Nat => decide (lo ≤ a) && decide (a < lo + 2 ^ 40)
  { s with mem := s.mem.filter (fun c => !inside c.1), poison := s.poison.filter fun g => !inside (8 * g) }

/-- A context gets a partition of zeros, which the host may reach as HDM (R310). -/
def execPsgrant (s : State) : Host.Outcome State Fault Refusal :=
  mailbox 4 (fun c s =>
    let n := c.arg 8 1
    let bytes := c.arg 12 4 * 2 ^ 25
    let others := ((s.contexts.filter (·.num != n)).map (·.psBytes)).sum
    match s.context? n with
    | none => none
    | some x =>
      if packageSram / 8 * s.memoryDies.length < others + bytes then none
      else
        some (((s.clearPartition n).setContext { x with psBytes := bytes, psHost := true }).llcResplit.respond c.tag false n)) s

def execDebugMark (s : State) : Host.Outcome State Fault Refusal :=
  mailbox 5 (fun c s =>
    let n := c.arg 8 1
    match s.context? n with
    | none => none
    | some x =>
      if 1 < c.arg 9 1 then none
      else some ((s.setContext { x with debug := c.arg 9 1 == 1 }).respond c.tag false n)) s

/-- A shoot-down, answered once every translation unit has acknowledged it (R164). -/
def execTlbflush (s : State) : Host.Outcome State Fault Refusal :=
  mailbox 6 (fun c s =>
    let n := c.arg 8 1
    match s.context? n with
    | none => none
    | some x =>
      if 2 < c.arg 9 1 then none
      else
        some (s.startShootdown (if c.arg 9 1 = 2 then none else some x.asid)
          (if c.arg 9 1 = 0 then some (c.arg 16 8) else none) 0 0 (some c.tag) n).endShootdowns) s

/-- A PAGEFAULT record is answered. -/
def execFaultdone (s : State) : Host.Outcome State Fault Refusal :=
  mailbox 7 (fun c s =>
    if 1 < c.arg 12 1 ∨ !s.awaits (c.arg 8 4) then none
    else some ((s.answerFault (c.arg 8 4) (c.arg 12 1 == 0)).respond c.tag false 0)) s

/-- One-time signatures of the identity key (R358). -/
def signatures : Nat := 32768

/-- What a report says of an admitted site. -/
def Site.attested (t : Site) : List Byte :=
  natToBytes 4 t.gen ++ natToBytes 4 t.revision ++ natToBytes 4 t.level ++ natToBytes 4 t.harvest.toNat
  ++ natToBytes 4 t.admission.toNat ++ natToBytes 32 t.firmware.toNat

/-- The body of a report: the nonce, the measurement of Ifelon, PKGLVL, and the admitted sites in order. The manual gives
no layout: this one is the model's (log 77). -/
def State.report (s : State) (nonce : List Byte) : List Byte :=
  nonce ++ natToBytes 32 Config.measurement.toNat ++ natToBytes 4 s.pkglvl
  ++ (s.sites.toList.filter fun t => t.admitted && !t.fenced).flatMap Site.attested

/-- A report is written to its buffer, with its signature after it; the index of the signature is spent. -/
def execAttest (s : State) : Host.Outcome State Fault Refusal :=
  mailbox 8 (fun c s =>
    let va := c.arg 40 8
    if va % 4096 ≠ 0 ∨ 2 ^ 57 ≤ va ∨ signatures ≤ s.attests then none
    else
      let body := s.report (c.args.take 32)
      let bs := body ++ (List.range (4096 - body.length)).map (Config.signature body s.attests)
      some ({ (s.poke (hostBase + va) bs) with attests := s.attests + 1 }.respond c.tag false 0)) s

/-! ## Enumeration (R27, R29, R358) -/

/-- The sites as enumeration admits them, with numbers that follow those given before. -/
def enumerate : BitVec 32 → List SiteReport → List Site × BitVec 32
  | n, [] => ([], n)
  | n, r :: rest =>
    let m := if admissible r then n + 1 else n
    let (ts, k) := enumerate m rest
    (Site.enumerate r (if admissible r then m else 0) :: ts, k)

/-- The package is reset: a failed verification holds it there. What lies outside the package stays: host memory, CXL
memory, what peers hold; so do the numbers that are never used again. -/
def State.packageReset (s : State) (bootOk : Bool) (reports : List SiteReport) : State :=
  let (ts, k) := enumerate s.admissions (reports.take 8)
  let stays := fun a : Nat => decide (a < 2 ^ 51) || (decide (2 ^ 52 ≤ a) && decide (a < 2 ^ 70))
  { State.reset with
    sites := Vector.ofFn fun i => ts.getD i.val (Site.enumerate { resetReport i.val with verified := false } 0)
    pkglvl := packageLevel ts
    admissions := k
    mem := s.mem.filter fun c => stays c.1
    poison := s.poison.filter fun g => stays (8 * g)
    fabric := { Fabric.start with served := s.fabric.served, steps := s.fabric.steps }
    attests := s.attests
    nextUid := s.nextUid
    inReset := !bootOk
    agenda := s.agenda
    delays := s.delays
    free := s.free }

def execPackageReset (bootOk : Bool) (reports : List SiteReport) (s : State) : Host.Outcome State Fault Refusal :=
  .next (s.packageReset bootOk reports)

/-- A site that was fenced joins with a number never used before, and homes no page; it is restricted where its level is
below PKGLVL. So does one that has never been admitted, once its measurement has been verified (log 90). -/
def execSiteReadmission (site : Nat) (r : SiteReport) (s : State) : Host.Outcome State Fault Refusal :=
  .next <|
    let t := s.site site
    if 8 ≤ site ∨ (t.admitted ∧ !t.fenced) ∨ !admissible r then s
    else
      let n := s.admissions + 1
      { s with admissions := n, homes := s.homes.filter (·.site != site) }.mapSite site fun t =>
        { Site.enumerate r n with restricted := decide (r.level < s.pkglvl), dropped := t.dropped }

/-- A message that bears a retired number is dropped at the ingress of a site, and counted (R350). -/
def execFencedMessageDrop (site : Nat) (admission : BitVec 32) (s : State) : Host.Outcome State Fault Refusal :=
  .next <|
    let live := s.sites.toList.any fun t => t.admitted && !t.fenced && t.admission == admission
    if live || s.admissions.toNat < admission.toNat then s
    else s.mapSite site fun t => { t with dropped := t.dropped + 1 }

/-! ## Die fence (R349) -/

/-- A page of the context's is homed on the site. -/
def State.homedOn (s : State) (site : Nat) (c : Context) : Bool :=
  let hs := s.homes.filter (·.site == site)
  !hs.isEmpty && s.anyLeaf (fun page size => hs.any fun h => pagesMeet h.page h.size page size) 4 c.root

/-- A warp of the context holds or awaits a lock whose home slice lies on the site. -/
def State.lockedOn (s : State) (site ctx : Nat) : Bool :=
  let mine := fun u : Nat => match s.findWarp u with | some w => w.ctx == ctx | none => false
  s.locks.any fun l => s.homeOf l.line == some site
    && (l.holder.any mine || l.queue.any fun q => mine q.warp)

/-- The context loses something that it cannot do without when the site goes. -/
def State.dependsOn (s : State) (site : Nat) (c : Context) : Bool :=
  (s.gangs.any fun g => g.phase == .resident && g.site == site && (s.grid g.grid).ctx == c.num)
  || s.homedOn site c || s.lockedOn site c.num

/-- The words of a register pair as granules. -/
def Registration.granules (r : Registration) : List Nat :=
  ((List.range 32).filter fun k => r.words.getLsbD k).map fun k => r.line + 4 * k

/-- The lines of local memory that are homed on the site. -/
def State.linesHomed (s : State) (site : Nat) : List Nat :=
  ((s.mem.filter fun c => c.1 < 2 ^ 51 && s.homeOf c.1 == some site).map fun c => lineOf c.1).eraseDups

/-- Lines that stood only in the L2 of a fenced site are lost. Which of those homed there did is open: free values. -/
def State.loseLines (s : State) (site : Nat) : State :=
  let ls := s.linesHomed site
  let gone := (List.range ls.length).filter fun i => (Config.freeWord (s.free + i)).getLsbD 0
  (gone.flatMap fun i => (List.range 16).map fun k => ls.getD i 0 + 8 * k).foldl State.markPoison
    { s with free := s.free + ls.length }

/-- Words registered to cores of the site, partial values there and lines of its L2 are lost: their homes mark them
poisoned. -/
def State.loseWords (s : State) (site : Nat) : State :=
  let gone := s.regs.filter fun r => r.core / 64 == site
  let parts := s.partials.filter fun p => p.core / 64 == site
  let s : State := { s with
    regs := s.regs.filter fun r => r.core / 64 != site
    partials := s.partials.filter fun p => p.core / 64 != site }
  (((gone.flatMap Registration.granules) ++ parts.map (·.loc)).foldl State.markPoison s).loseLines site

def TlbUnit.site : TlbUnit → Nat
  | .core a _ _ => a
  | .die a => a
  | .walk a _ => a

/-- The units and locks of the site go, and moves to it end; pages stay homed on it until another site accesses them, and
what arrives for them is dropped (R325). -/
def State.dropSite (s : State) (site : Nat) : State :=
  let stop := s.homes.filter fun h => h.moving == some site
  let s : State := { s with
    tlb := s.tlb.filter fun e => e.unit.site != site
    shootdowns := s.shootdowns.map fun (k : Shootdown) => { k with units := k.units.filter fun u => u.site != site }
    locks := s.locks.filter fun l => s.homeOf l.line != some site
    homes := s.homes.map fun (h : PageHome) =>
      if h.moving == some site then { h with moving := none, asker := none } else h }
  let s := stop.foldl (fun s h => match h.asker with | some (w, k) => s.unwait w k | none => s) s
  s.admitLocks.endShootdowns

/-- Contexts are killed with DIEFENCE. -/
def State.fenceKill (s : State) (cs : List Nat) : State := cs.foldl (fun s c => s.endContext c .diefence 0) s

/-- A VS or MX die is fenced with its site: the site shows as harvested, words are lost, contexts are killed. -/
def State.fenceSite (s : State) (site : Nat) : State :=
  if 8 ≤ site ∨ (s.site site).fenced then s
  else
    let s := (s.mapSite site fun t => { t with fenced := true }).loseWords site
    (s.fenceKill ((s.contexts.filter (s.dependsOn site)).map (·.num))).dropSite site

/-- A memory die is fenced: every context with a package scratchpad partition or a dirty line on the die is killed, and
its slices leave the interleave. -/
def State.fenceMemoryDie (s : State) (d : Nat) : State :=
  if 8 ≤ d || s.memFenced.getLsbD d then s
  else
    let on := fun l : LlcLine => s.dieOf l.line == some d
    let hit := fun c : Context => c.psBytes != 0 || s.llc.any fun l => l.ctx == c.num && l.dirty && on l
    let t := s.fenceKill ((s.contexts.filter hit).map (·.num))
    { t with llc := t.llc.filter fun l => !on l, memFenced := t.memFenced ||| ((1 : BitVec 8) <<< d) }.llcResplit

/-- I/O die 1 is fenced: which contexts route through its ports is left open. -/
def State.fenceIoDie (s : State) : State :=
  if s.ioFenced then s
  else
    let bits := Config.freeWord s.free
    let cs := (s.contexts.filter fun (c : Context) => bits.getLsbD c.num).map (·.num)
    { s with free := s.free + 1, ioFenced := true }.fenceKill cs

/-- What a site reports when the package is reset under it. -/
def Site.report (t : Site) : SiteReport :=
  { gen := t.gen, revision := t.revision, level := t.level, harvest := t.harvest, firmware := t.firmware
    verified := t.admitted }

/-- An error that cannot be corrected: a granule of memory or of a register file is marked, or a die is fenced. -/
def execUncorrectableError (e : ErrorSite) (s : State) : Host.Outcome State Fault Refusal :=
  .next <|
    match e with
    | .granule loc => s.markPoison loc
    | .vector w r l =>
      s.mapWarp w fun x =>
        { x with vPoison := x.vPoison.set r (x.vPoison[r] ||| ((3 : Word32) <<< (l.val / 2 * 2))) }
    | .scalar w r => if r = 0 then s else s.mapWarp w fun x => { x with sPoison := x.sPoison.set r true }
    | .accumulator g tile row col =>
      s.setMatrix g fun x => { x with accPoison := insertRising x.accPoison (16384 * tile + 256 * row + col) }
    | .mask w r => s.mapWarp w fun x => { x with mPoison := x.mPoison ||| maskGranule r }
    | .slot w t k =>
      s.mapWarp w fun x =>
        { x with tsrPoison := x.tsrPoison.set t (x.tsrPoison[t] ||| ((1 : BitVec 16) <<< k.val)) }
    | .csr w c => s.mapWarp w fun x => { x with csrPoison := x.csrPoison ||| ((1 : BitVec 256) <<< c.val) }
    | .site i => s.fenceSite i
    | .memoryDie d => s.fenceMemoryDie d
    | .ioDie 0 => s.packageReset true (s.sites.toList.map Site.report)
    | .ioDie 1 => s.fenceIoDie
    | .ioDie _ => s
    | .codeCache => s

end Sys2Proof.Machine
end

