-- ==== Sys2Proof/Machine/VecFloat.lean ====
section
/-! DEFINITION. The vector floating-point instructions, majors 0x15 to 0x19, and EXP2X (R127–R140). -/

namespace Sys2Proof.Machine

/-! ## Elements of an operand (R133) -/

/-- The codes of a lane's elements: two halves for the 16-bit formats, else one. -/
def fpElems (f : Nat) (x : Word64) : List Nat :=
  if f = 20 then [x.toNat] else if f = 0 then [x.toNat % 2 ^ 32] else [x.toNat % 2 ^ 16, x.toNat / 2 ^ 16 % 2 ^ 16]

/-- The lane's value from the codes of its elements. -/
def fpPack (f : Nat) : List Nat → Word64
  | [] => 0
  | c :: cs => BitVec.ofNat 64 (c + 2 ^ codeBits f * (fpPack f cs).toNat)

/-- A lane's vector operand in a format: a pair for FP64. -/
def Warp.fpOperand (w : Warp) (f : Nat) (r : Fin 64) (l : Fin 32) : Word64 :=
  if f = 20 then w.pair r l else (w.v[r][l]).setWidth 64

/-- The operation on one element: rounding mode, saturation, the codes of its operands. -/
abbrev FpFn := Nat → Bool → List Nat → Nat × BitVec 5

/-- Element `j` of each operand. -/
def nthCodes (f : Nat) (xs : List Word64) (j : Nat) : List Nat := xs.map fun x => (fpElems f x).getD j 0

/-- The operation on every element of a lane. -/
def fpLane (f : Nat) (op : FpFn) (rm : Nat) (sat : Bool) (xs : List Word64) : Word64 × BitVec 5 :=
  let rs := (List.range (fpElems f 0).length).map fun j => op rm sat (nthCodes f xs j)
  (fpPack f (rs.map (·.1)), orFlags (rs.map (·.2)))

/-- A floating-point instruction of format `f`: its vector sources and at most one scalar source, in operand order. -/
def fpUnit (f : Nat) (op : FpFn) (d : Fin 64) (vs ss : List (Fin 64 × Bool)) (s : State) :
    Host.Outcome State Fault Refusal :=
  let n := if f = 20 then 2 else 1
  vecUnit { step := n, dw := n, d := d, vs := vs.map fun q => { base := q.1, width := n, x := q.2 }, ss := ss }
    { hblk := true, hmod := some roundFields
      legal := f != 20 || (pairBase d && vs.all fun q => pairBase q.1) }
    (fun w o l => fpLane f op w.frag.hints.rm w.frag.hints.sat
      (vs.map (fun q => w.fpOperand f (regAt q.1 o) l) ++ ss.map fun q => w.readS q.1)) s

def fp1 (f : Nat) (op : FpFn) (d a : Fin 64) (x : Bool) (s : State) : Host.Outcome State Fault Refusal :=
  fpUnit f op d [(a, x)] [] s
def fp2 (f : Nat) (op : FpFn) (d a b : Fin 64) (x y : Bool) (s : State) : Host.Outcome State Fault Refusal :=
  fpUnit f op d [(a, x), (b, y)] [] s
def fp2s (f : Nat) (op : FpFn) (d a b : Fin 64) (x y : Bool) (s : State) : Host.Outcome State Fault Refusal :=
  fpUnit f op d [(a, x)] [(b, y)] s
def fp3 (f : Nat) (op : FpFn) (d a b c : Fin 64) (x : Bool) (s : State) : Host.Outcome State Fault Refusal :=
  fpUnit f op d [(a, x), (b, x), (c, x)] [] s

/-! ## Rounded results (R128, R129, R134, R136, R138, R139) -/

/-- The exact result of the decoded operands, rounded to the format once. -/
def rounded (f : Nat) (y : Nat → List Exact → Exact × BitVec 5) : FpFn := fun rm sat codes =>
  let ds := codes.map (decodeFp f)
  let (v, g) := y rm (ds.map (·.1))
  let (c, k) := roundFp v f rm sat
  (c, orFlags (ds.map (·.2)) ||| g ||| k)

def argAt (xs : List Exact) (i : Nat) : Exact := xs.getD i .nan

/-- x + z, where RDN makes an exact zero sum negative (R129). -/
def addOp (f : Nat) : FpFn := rounded f fun rm xs => (argAt xs 0).add (rm == 3) (argAt xs 1)
/-- x − z is x + (−z). -/
def subOp (f : Nat) : FpFn := rounded f fun rm xs => (argAt xs 0).add (rm == 3) (argAt xs 1).neg
def mulOp (f : Nat) : FpFn := rounded f fun _ xs => (argAt xs 0).mul (argAt xs 1)
def divOp (f : Nat) : FpFn := rounded f fun _ xs => (argAt xs 0).div (argAt xs 1)
def sqrtOp (f : Nat) : FpFn := rounded f fun _ xs => (argAt xs 0).sqrt
/-- 1 ÷ x. -/
def rcpOp : FpFn := rounded 0 fun _ xs => (Exact.ofInt 1).div (argAt xs 0)
def rsqOp : FpFn := rounded 0 fun _ xs => (argAt xs 0).rsqrt
def log2Op : FpFn := rounded 0 fun _ xs => (argAt xs 0).log2
def exp2Op : FpFn := rounded 0 fun _ xs => ((argAt xs 0).exp2, 0)

/-- The product and the sum of a fused multiply-add: 0 x ∞ is invalid whatever the addend (R128). -/
def fmaOp (f : Nat) : FpFn := rounded f fun rm xs =>
  let (p, g) := (argAt xs 0).mul (argAt xs 1)
  let (t, k) := p.add (rm == 3) (argAt xs 2)
  (t, g ||| k)

/-- 2^((x − m) x k), with nothing rounded before the end (R139). -/
def exp2xOp : FpFn := rounded 0 fun _ xs =>
  let (t, g) := (argAt xs 0).add false (argAt xs 1).neg
  let (u, k) := t.mul (argAt xs 2)
  (u.exp2, g ||| k)

/-! ## Results that are not rounded (R134) -/

/-- minimumNumber and maximumNumber: `least` says which. -/
def minMax (least : Bool) : FpFn := fun _ _ codes => numberPick 0 least (codes.getD 0 0) (codes.getD 1 0)

/-- A new sign bit for an operand that is no NaN; a NaN gives the canonical one. -/
def withSign (sign : List Nat → Bool) : FpFn := fun _ _ codes =>
  let a := codes.getD 0 0
  let (x, f) := decodeFp 0 a
  (if x = .nan then canonicalNan 0 else a % 2 ^ 31 + (if sign codes then 2 ^ 31 else 0), f)

/-- Bit 31 of operand `i`. -/
def signOf (i : Nat) (codes : List Nat) : Bool := codes.getD i 0 / 2 ^ 31 % 2 == 1

/-- FRND: an integral value under rm, never inexact; an infinity and the sign of a zero stay (log 16). -/
def frndOp : FpFn := fun rm _ codes =>
  let a := codes.getD 0 0
  let (x, f) := decodeFp 0 a
  match x with
  | .nan => (canonicalNan 0, f)
  | .inf _ => (a, 0)
  | .fin neg m e _ => ((roundFp (.fin neg (roundAt rm neg m e false 0).1 0 false) 0 0 false).1, 0)

/-- x times a power of two. Beyond 1,000 places either way every finite result rounds alike. -/
def Exact.scale (k : Int) : Exact → Exact
  | .fin n m e more => .fin n m (e + max (-1000) (min 1000 k)) more
  | y => y

/-- FSCALEB: b is an integer and is not decoded. -/
def scalebOp : FpFn := fun rm sat codes =>
  let (x, f) := decodeFp 0 (codes.getD 0 0)
  let (c, k) := roundFp (x.scale (sext 32 (codes.getD 1 0 % 2 ^ 32))) 0 rm sat
  (c, f ||| k)


/-! ## Majors 0x15 and 0x16 (R133, R134) -/

def execFadd (d a b : Fin 64) (x y : Bool) (s : State) : Host.Outcome State Fault Refusal :=
  fp2 0 (addOp 0) d a b x y s
def execFaddScalar (d a b : Fin 64) (x y : Bool) (s : State) : Host.Outcome State Fault Refusal :=
  fp2s 0 (addOp 0) d a b x y s
def execFsub (d a b : Fin 64) (x y : Bool) (s : State) : Host.Outcome State Fault Refusal :=
  fp2 0 (subOp 0) d a b x y s
def execFsubScalar (d a b : Fin 64) (x y : Bool) (s : State) : Host.Outcome State Fault Refusal :=
  fp2s 0 (subOp 0) d a b x y s
def execFmul (d a b : Fin 64) (x y : Bool) (s : State) : Host.Outcome State Fault Refusal :=
  fp2 0 (mulOp 0) d a b x y s
def execFmulScalar (d a b : Fin 64) (x y : Bool) (s : State) : Host.Outcome State Fault Refusal :=
  fp2s 0 (mulOp 0) d a b x y s
def execFmin (d a b : Fin 64) (x y : Bool) (s : State) : Host.Outcome State Fault Refusal :=
  fp2 0 (minMax true) d a b x y s
def execFminScalar (d a b : Fin 64) (x y : Bool) (s : State) : Host.Outcome State Fault Refusal :=
  fp2s 0 (minMax true) d a b x y s
def execFmax (d a b : Fin 64) (x y : Bool) (s : State) : Host.Outcome State Fault Refusal :=
  fp2 0 (minMax false) d a b x y s
def execFmaxScalar (d a b : Fin 64) (x y : Bool) (s : State) : Host.Outcome State Fault Refusal :=
  fp2s 0 (minMax false) d a b x y s
def execFsgnj (d a b : Fin 64) (x y : Bool) (s : State) : Host.Outcome State Fault Refusal :=
  fp2 0 (withSign (signOf 1)) d a b x y s
def execFsgnjScalar (d a b : Fin 64) (x y : Bool) (s : State) : Host.Outcome State Fault Refusal :=
  fp2s 0 (withSign (signOf 1)) d a b x y s
def execFscaleb (d a b : Fin 64) (x y : Bool) (s : State) : Host.Outcome State Fault Refusal :=
  fp2 0 scalebOp d a b x y s
def execFscalebScalar (d a b : Fin 64) (x y : Bool) (s : State) : Host.Outcome State Fault Refusal :=
  fp2s 0 scalebOp d a b x y s
def execHadd2 (d a b : Fin 64) (x y : Bool) (s : State) : Host.Outcome State Fault Refusal :=
  fp2 2 (addOp 2) d a b x y s
def execHadd2Scalar (d a b : Fin 64) (x y : Bool) (s : State) : Host.Outcome State Fault Refusal :=
  fp2s 2 (addOp 2) d a b x y s
def execHsub2 (d a b : Fin 64) (x y : Bool) (s : State) : Host.Outcome State Fault Refusal :=
  fp2 2 (subOp 2) d a b x y s
def execHsub2Scalar (d a b : Fin 64) (x y : Bool) (s : State) : Host.Outcome State Fault Refusal :=
  fp2s 2 (subOp 2) d a b x y s
def execHmul2 (d a b : Fin 64) (x y : Bool) (s : State) : Host.Outcome State Fault Refusal :=
  fp2 2 (mulOp 2) d a b x y s
def execHmul2Scalar (d a b : Fin 64) (x y : Bool) (s : State) : Host.Outcome State Fault Refusal :=
  fp2s 2 (mulOp 2) d a b x y s
def execBadd2 (d a b : Fin 64) (x y : Bool) (s : State) : Host.Outcome State Fault Refusal :=
  fp2 3 (addOp 3) d a b x y s
def execBadd2Scalar (d a b : Fin 64) (x y : Bool) (s : State) : Host.Outcome State Fault Refusal :=
  fp2s 3 (addOp 3) d a b x y s
def execBsub2 (d a b : Fin 64) (x y : Bool) (s : State) : Host.Outcome State Fault Refusal :=
  fp2 3 (subOp 3) d a b x y s
def execBsub2Scalar (d a b : Fin 64) (x y : Bool) (s : State) : Host.Outcome State Fault Refusal :=
  fp2s 3 (subOp 3) d a b x y s
def execBmul2 (d a b : Fin 64) (x y : Bool) (s : State) : Host.Outcome State Fault Refusal :=
  fp2 3 (mulOp 3) d a b x y s
def execBmul2Scalar (d a b : Fin 64) (x y : Bool) (s : State) : Host.Outcome State Fault Refusal :=
  fp2s 3 (mulOp 3) d a b x y s
def execDadd (d a b : Fin 64) (x y : Bool) (s : State) : Host.Outcome State Fault Refusal :=
  fp2 20 (addOp 20) d a b x y s
def execDaddScalar (d a b : Fin 64) (x y : Bool) (s : State) : Host.Outcome State Fault Refusal :=
  fp2s 20 (addOp 20) d a b x y s
def execDsub (d a b : Fin 64) (x y : Bool) (s : State) : Host.Outcome State Fault Refusal :=
  fp2 20 (subOp 20) d a b x y s
def execDsubScalar (d a b : Fin 64) (x y : Bool) (s : State) : Host.Outcome State Fault Refusal :=
  fp2s 20 (subOp 20) d a b x y s
def execDmul (d a b : Fin 64) (x y : Bool) (s : State) : Host.Outcome State Fault Refusal :=
  fp2 20 (mulOp 20) d a b x y s
def execDmulScalar (d a b : Fin 64) (x y : Bool) (s : State) : Host.Outcome State Fault Refusal :=
  fp2s 20 (mulOp 20) d a b x y s
def execFabs (d a : Fin 64) (x : Bool) (s : State) : Host.Outcome State Fault Refusal :=
  fp1 0 (withSign fun _ => false) d a x s
def execFneg (d a : Fin 64) (x : Bool) (s : State) : Host.Outcome State Fault Refusal :=
  fp1 0 (withSign fun c => !signOf 0 c) d a x s
def execFrnd (d a : Fin 64) (x : Bool) (s : State) : Host.Outcome State Fault Refusal :=
  fp1 0 frndOp d a x s

/-! ## Major 0x17 (R136) -/

def execRcp (d a : Fin 64) (x : Bool) (s : State) : Host.Outcome State Fault Refusal :=
  fp1 0 rcpOp d a x s
def execRsq (d a : Fin 64) (x : Bool) (s : State) : Host.Outcome State Fault Refusal :=
  fp1 0 rsqOp d a x s
def execSqrtF (d a : Fin 64) (x : Bool) (s : State) : Host.Outcome State Fault Refusal :=
  fp1 0 (sqrtOp 0) d a x s
def execLog2F (d a : Fin 64) (x : Bool) (s : State) : Host.Outcome State Fault Refusal :=
  fp1 0 log2Op d a x s
def execExp2F (d a : Fin 64) (x : Bool) (s : State) : Host.Outcome State Fault Refusal :=
  fp1 0 exp2Op d a x s
def execDsqrt (d a : Fin 64) (x : Bool) (s : State) : Host.Outcome State Fault Refusal :=
  fp1 20 (sqrtOp 20) d a x s
def execFdiv (d a b : Fin 64) (x y : Bool) (s : State) : Host.Outcome State Fault Refusal :=
  fp2 0 (divOp 0) d a b x y s
def execDdiv (d a b : Fin 64) (x y : Bool) (s : State) : Host.Outcome State Fault Refusal :=
  fp2 20 (divOp 20) d a b x y s

/-! ## Majors 0x18, 0x19 and EXP2X (R138, R139) -/

def execFfma (d a b c : Fin 64) (x : Bool) (s : State) : Host.Outcome State Fault Refusal :=
  fp3 0 (fmaOp 0) d a b c x s
def execHfma2 (d a b c : Fin 64) (x : Bool) (s : State) : Host.Outcome State Fault Refusal :=
  fp3 2 (fmaOp 2) d a b c x s
def execBfma2 (d a b c : Fin 64) (x : Bool) (s : State) : Host.Outcome State Fault Refusal :=
  fp3 3 (fmaOp 3) d a b c x s
def execDfma (d a b c : Fin 64) (x : Bool) (s : State) : Host.Outcome State Fault Refusal :=
  fp3 20 (fmaOp 20) d a b c x s
def execExp2x (d a b c : Fin 64) (x : Bool) (s : State) : Host.Outcome State Fault Refusal :=
  fp3 0 exp2xOp d a b c x s

end Sys2Proof.Machine
end

