-- ==== Sys2Proof/Machine/VecInt.lean ====
section
/-! DEFINITION. The vector integer instructions: majors 0x10, 0x11, 0x12, the compares of 0x13, VSEL and VMAD
(R96–R104). -/

namespace Sys2Proof.Machine

/-! ## Shapes -/

/-- Both sources vectors (major 0x10). -/
def vec2 (f : Word32 → Word32 → Word32) (d a b : Fin 64) (x y : Bool) (s : State) :
    Host.Outcome State Fault Refusal :=
  vecUnit { d := d, vs := [{ base := a, x := x }, { base := b, x := y }] } { hblk := true }
    (fun w o l => word (f (w.v[regAt a o][l]) (w.v[regAt b o][l]))) s

/-- The b operand is a scalar's low word, for every lane (major 0x11, R96). -/
def vec2s (f : Word32 → Word32 → Word32) (d a b : Fin 64) (x y : Bool) (s : State) :
    Host.Outcome State Fault Refusal :=
  vecUnit { d := d, vs := [{ base := a, x := x }], ss := [(b, y)] } { hblk := true }
    (fun w o l => word (f (w.v[regAt a o][l]) ((w.readS b).setWidth 32))) s

def vec1 (f : Word32 → Word32) (d a : Fin 64) (x : Bool) (s : State) : Host.Outcome State Fault Refusal :=
  vecUnit { d := d, vs := [{ base := a, x := x }] } { hblk := true } (fun w o l => word (f (w.v[regAt a o][l]))) s

/-- The old destination is a third source (R98). -/
def vec3 (lvl : Bool) (f : Word32 → Word32 → Word32 → Word32) (d a b : Fin 64) (x y : Bool) (s : State) :
    Host.Outcome State Fault Refusal :=
  vecUnit { d := d, vs := [{ base := a, x := x }, { base := b, x := y }], readsD := true }
    { hblk := true, level2 := lvl }
    (fun w o l => word (f (w.v[regAt d o][l]) (w.v[regAt a o][l]) (w.v[regAt b o][l]))) s

def vec3s (lvl : Bool) (f : Word32 → Word32 → Word32 → Word32) (d a b : Fin 64) (x y : Bool) (s : State) :
    Host.Outcome State Fault Refusal :=
  vecUnit { d := d, vs := [{ base := a, x := x }], ss := [(b, y)], readsD := true } { hblk := true, level2 := lvl }
    (fun w o l => word (f (w.v[regAt d o][l]) (w.v[regAt a o][l]) ((w.readS b).setWidth 32))) s

/-- A pair and a 32-bit operand into a pair: no block (R95). -/
def wide (f : Word64 → Word32 → Word64) (d a b : Fin 64) (x y : Bool) (s : State) :
    Host.Outcome State Fault Refusal :=
  vecUnit { dw := 2, d := d, vs := [{ base := a, width := 2, x := x }, { base := b, x := y }] }
    { legal := pairBase d && pairBase a } (fun w _ l => (f (w.pair a l) (w.v[b][l]), 0)) s

def wides (f : Word64 → Word32 → Word64) (d a b : Fin 64) (x y : Bool) (s : State) :
    Host.Outcome State Fault Refusal :=
  vecUnit { dw := 2, d := d, vs := [{ base := a, width := 2, x := x }], ss := [(b, y)] }
    { legal := pairBase d && pairBase a } (fun w _ l => (f (w.pair a l) ((w.readS b).setWidth 32), 0)) s

/-- Two 32-bit operands into a pair. -/
def mulWide (f : Word32 → Word32 → Word64) (d a b : Fin 64) (x y : Bool) (s : State) :
    Host.Outcome State Fault Refusal :=
  vecUnit { dw := 2, d := d, vs := [{ base := a, x := x }, { base := b, x := y }] } { legal := pairBase d }
    (fun w _ l => (f (w.v[a][l]) (w.v[b][l]), 0)) s

def mulWides (f : Word32 → Word32 → Word64) (d a b : Fin 64) (x y : Bool) (s : State) :
    Host.Outcome State Fault Refusal :=
  vecUnit { dw := 2, d := d, vs := [{ base := a, x := x }], ss := [(b, y)] } { legal := pairBase d }
    (fun w _ l => (f (w.v[a][l]) ((w.readS b).setWidth 32), 0)) s

/-! ## Operations of R97 and R99 -/

def clampS (i : Int) : Word32 := word32 (max (-(2 ^ 31)) (min (2 ^ 31 - 1) i))
/-- Subtraction of naturals already stops at 0, so only the upper clamp is needed. -/
def clampZ (n : Nat) : Word32 := BitVec.ofNat 32 (min (2 ^ 32 - 1) n)

/-- pos and w of VBFE and VBFI. -/
def fieldOf (b : Word32) : Nat × Nat :=
  let pos := b.toNat % 32
  (pos, min (b.toNat / 256 % 64) (32 - pos))

def bitExtract (a b : Word32) : Word32 :=
  let (pos, w) := fieldOf b
  BitVec.ofNat 32 (a.toNat / 2 ^ pos % 2 ^ w)

def bitInsert (d a b : Word32) : Word32 :=
  let (pos, w) := fieldOf b
  BitVec.ofNat 32 (d.toNat - d.toNat / 2 ^ pos % 2 ^ w * 2 ^ pos + a.toNat % 2 ^ w * 2 ^ pos)

/-- Element k of four 8-bit elements. -/
def byteAt (a : Word32) (k : Nat) : BitVec 8 := BitVec.ofNat 8 (a.toNat / 2 ^ (8 * k))

def dot4 (d a b : Word32) : Word32 :=
  word32 (d.toInt + ((List.range 4).map fun k => (byteAt a k).toInt * (byteAt b k).toInt).sum)

def dot4z (d a b : Word32) : Word32 :=
  word32 (d.toInt + (((List.range 4).map fun k => (byteAt a k).toNat * (byteAt b k).toNat).sum : Nat))

/-! ## Majors 0x10 and 0x11 -/

def execVadd (d a b : Fin 64) (x y : Bool) (s : State) : Host.Outcome State Fault Refusal :=
  vec2 (fun p q => p + q) d a b x y s
def execVaddScalar (d a b : Fin 64) (x y : Bool) (s : State) : Host.Outcome State Fault Refusal :=
  vec2s (fun p q => p + q) d a b x y s
def execVsub (d a b : Fin 64) (x y : Bool) (s : State) : Host.Outcome State Fault Refusal :=
  vec2 (fun p q => p - q) d a b x y s
def execVsubScalar (d a b : Fin 64) (x y : Bool) (s : State) : Host.Outcome State Fault Refusal :=
  vec2s (fun p q => p - q) d a b x y s
def execVmul (d a b : Fin 64) (x y : Bool) (s : State) : Host.Outcome State Fault Refusal :=
  vec2 (fun p q => p * q) d a b x y s
def execVmulScalar (d a b : Fin 64) (x y : Bool) (s : State) : Host.Outcome State Fault Refusal :=
  vec2s (fun p q => p * q) d a b x y s
def execVmulh (d a b : Fin 64) (x y : Bool) (s : State) : Host.Outcome State Fault Refusal :=
  vec2 (mulHigh) d a b x y s
def execVmulhScalar (d a b : Fin 64) (x y : Bool) (s : State) : Host.Outcome State Fault Refusal :=
  vec2s (mulHigh) d a b x y s
def execVmulhz (d a b : Fin 64) (x y : Bool) (s : State) : Host.Outcome State Fault Refusal :=
  vec2 (mulHighU) d a b x y s
def execVmulhzScalar (d a b : Fin 64) (x y : Bool) (s : State) : Host.Outcome State Fault Refusal :=
  vec2s (mulHighU) d a b x y s
def execVmin (d a b : Fin 64) (x y : Bool) (s : State) : Host.Outcome State Fault Refusal :=
  vec2 (sminQ) d a b x y s
def execVminScalar (d a b : Fin 64) (x y : Bool) (s : State) : Host.Outcome State Fault Refusal :=
  vec2s (sminQ) d a b x y s
def execVmax (d a b : Fin 64) (x y : Bool) (s : State) : Host.Outcome State Fault Refusal :=
  vec2 (smaxQ) d a b x y s
def execVmaxScalar (d a b : Fin 64) (x y : Bool) (s : State) : Host.Outcome State Fault Refusal :=
  vec2s (smaxQ) d a b x y s
def execVminz (d a b : Fin 64) (x y : Bool) (s : State) : Host.Outcome State Fault Refusal :=
  vec2 (uminQ) d a b x y s
def execVminzScalar (d a b : Fin 64) (x y : Bool) (s : State) : Host.Outcome State Fault Refusal :=
  vec2s (uminQ) d a b x y s
def execVmaxz (d a b : Fin 64) (x y : Bool) (s : State) : Host.Outcome State Fault Refusal :=
  vec2 (umaxQ) d a b x y s
def execVmaxzScalar (d a b : Fin 64) (x y : Bool) (s : State) : Host.Outcome State Fault Refusal :=
  vec2s (umaxQ) d a b x y s
def execVand (d a b : Fin 64) (x y : Bool) (s : State) : Host.Outcome State Fault Refusal :=
  vec2 (fun p q => p &&& q) d a b x y s
def execVandScalar (d a b : Fin 64) (x y : Bool) (s : State) : Host.Outcome State Fault Refusal :=
  vec2s (fun p q => p &&& q) d a b x y s
def execVor (d a b : Fin 64) (x y : Bool) (s : State) : Host.Outcome State Fault Refusal :=
  vec2 (fun p q => p ||| q) d a b x y s
def execVorScalar (d a b : Fin 64) (x y : Bool) (s : State) : Host.Outcome State Fault Refusal :=
  vec2s (fun p q => p ||| q) d a b x y s
def execVxor (d a b : Fin 64) (x y : Bool) (s : State) : Host.Outcome State Fault Refusal :=
  vec2 (fun p q => p ^^^ q) d a b x y s
def execVxorScalar (d a b : Fin 64) (x y : Bool) (s : State) : Host.Outcome State Fault Refusal :=
  vec2s (fun p q => p ^^^ q) d a b x y s
def execVandn (d a b : Fin 64) (x y : Bool) (s : State) : Host.Outcome State Fault Refusal :=
  vec2 (fun p q => p &&& ~~~q) d a b x y s
def execVandnScalar (d a b : Fin 64) (x y : Bool) (s : State) : Host.Outcome State Fault Refusal :=
  vec2s (fun p q => p &&& ~~~q) d a b x y s
def execVshl (d a b : Fin 64) (x y : Bool) (s : State) : Host.Outcome State Fault Refusal :=
  vec2 (fun p q => p <<< (q.toNat % 32)) d a b x y s
def execVshlScalar (d a b : Fin 64) (x y : Bool) (s : State) : Host.Outcome State Fault Refusal :=
  vec2s (fun p q => p <<< (q.toNat % 32)) d a b x y s
def execVshr (d a b : Fin 64) (x y : Bool) (s : State) : Host.Outcome State Fault Refusal :=
  vec2 (fun p q => p >>> (q.toNat % 32)) d a b x y s
def execVshrScalar (d a b : Fin 64) (x y : Bool) (s : State) : Host.Outcome State Fault Refusal :=
  vec2s (fun p q => p >>> (q.toNat % 32)) d a b x y s
def execVsra (d a b : Fin 64) (x y : Bool) (s : State) : Host.Outcome State Fault Refusal :=
  vec2 (fun p q => p.sshiftRight (q.toNat % 32)) d a b x y s
def execVsraScalar (d a b : Fin 64) (x y : Bool) (s : State) : Host.Outcome State Fault Refusal :=
  vec2s (fun p q => p.sshiftRight (q.toNat % 32)) d a b x y s
def execVabsd (d a b : Fin 64) (x y : Bool) (s : State) : Host.Outcome State Fault Refusal :=
  vec2 (fun p q => word32 (p.toInt - q.toInt).natAbs) d a b x y s
def execVabsdScalar (d a b : Fin 64) (x y : Bool) (s : State) : Host.Outcome State Fault Refusal :=
  vec2s (fun p q => word32 (p.toInt - q.toInt).natAbs) d a b x y s
def execVsadd (d a b : Fin 64) (x y : Bool) (s : State) : Host.Outcome State Fault Refusal :=
  vec2 (fun p q => clampS (p.toInt + q.toInt)) d a b x y s
def execVsaddScalar (d a b : Fin 64) (x y : Bool) (s : State) : Host.Outcome State Fault Refusal :=
  vec2s (fun p q => clampS (p.toInt + q.toInt)) d a b x y s
def execVssub (d a b : Fin 64) (x y : Bool) (s : State) : Host.Outcome State Fault Refusal :=
  vec2 (fun p q => clampS (p.toInt - q.toInt)) d a b x y s
def execVssubScalar (d a b : Fin 64) (x y : Bool) (s : State) : Host.Outcome State Fault Refusal :=
  vec2s (fun p q => clampS (p.toInt - q.toInt)) d a b x y s
def execVsaddz (d a b : Fin 64) (x y : Bool) (s : State) : Host.Outcome State Fault Refusal :=
  vec2 (fun p q => clampZ (p.toNat + q.toNat)) d a b x y s
def execVsaddzScalar (d a b : Fin 64) (x y : Bool) (s : State) : Host.Outcome State Fault Refusal :=
  vec2s (fun p q => clampZ (p.toNat + q.toNat)) d a b x y s
def execVssubz (d a b : Fin 64) (x y : Bool) (s : State) : Host.Outcome State Fault Refusal :=
  vec2 (fun p q => clampZ (p.toNat - q.toNat)) d a b x y s
def execVssubzScalar (d a b : Fin 64) (x y : Bool) (s : State) : Host.Outcome State Fault Refusal :=
  vec2s (fun p q => clampZ (p.toNat - q.toNat)) d a b x y s
def execVbfe (d a b : Fin 64) (x y : Bool) (s : State) : Host.Outcome State Fault Refusal :=
  vec2 (bitExtract) d a b x y s
def execVbfeScalar (d a b : Fin 64) (x y : Bool) (s : State) : Host.Outcome State Fault Refusal :=
  vec2s (bitExtract) d a b x y s
def execVdiv (d a b : Fin 64) (x y : Bool) (s : State) : Host.Outcome State Fault Refusal :=
  vec2 (sdivQ) d a b x y s
def execVdivScalar (d a b : Fin 64) (x y : Bool) (s : State) : Host.Outcome State Fault Refusal :=
  vec2s (sdivQ) d a b x y s
def execVdivz (d a b : Fin 64) (x y : Bool) (s : State) : Host.Outcome State Fault Refusal :=
  vec2 (udivQ) d a b x y s
def execVdivzScalar (d a b : Fin 64) (x y : Bool) (s : State) : Host.Outcome State Fault Refusal :=
  vec2s (udivQ) d a b x y s
def execVrem (d a b : Fin 64) (x y : Bool) (s : State) : Host.Outcome State Fault Refusal :=
  vec2 (sremQ) d a b x y s
def execVremScalar (d a b : Fin 64) (x y : Bool) (s : State) : Host.Outcome State Fault Refusal :=
  vec2s (sremQ) d a b x y s
def execVremz (d a b : Fin 64) (x y : Bool) (s : State) : Host.Outcome State Fault Refusal :=
  vec2 (uremQ) d a b x y s
def execVremzScalar (d a b : Fin 64) (x y : Bool) (s : State) : Host.Outcome State Fault Refusal :=
  vec2s (uremQ) d a b x y s
def execVbfi (d a b : Fin 64) (x y : Bool) (s : State) : Host.Outcome State Fault Refusal :=
  vec3 false bitInsert d a b x y s
def execVbfiScalar (d a b : Fin 64) (x y : Bool) (s : State) : Host.Outcome State Fault Refusal :=
  vec3s false bitInsert d a b x y s
def execVdot4 (d a b : Fin 64) (x y : Bool) (s : State) : Host.Outcome State Fault Refusal :=
  vec3 true dot4 d a b x y s
def execVdot4Scalar (d a b : Fin 64) (x y : Bool) (s : State) : Host.Outcome State Fault Refusal :=
  vec3s true dot4 d a b x y s
def execVdot4z (d a b : Fin 64) (x y : Bool) (s : State) : Host.Outcome State Fault Refusal :=
  vec3 true dot4z d a b x y s
def execVdot4zScalar (d a b : Fin 64) (x y : Bool) (s : State) : Host.Outcome State Fault Refusal :=
  vec3s true dot4z d a b x y s
def execVaddw (d a b : Fin 64) (x y : Bool) (s : State) : Host.Outcome State Fault Refusal :=
  wide (fun p q => p + q.signExtend 64) d a b x y s
def execVaddwScalar (d a b : Fin 64) (x y : Bool) (s : State) : Host.Outcome State Fault Refusal :=
  wides (fun p q => p + q.signExtend 64) d a b x y s
def execVsubw (d a b : Fin 64) (x y : Bool) (s : State) : Host.Outcome State Fault Refusal :=
  wide (fun p q => p - q.signExtend 64) d a b x y s
def execVsubwScalar (d a b : Fin 64) (x y : Bool) (s : State) : Host.Outcome State Fault Refusal :=
  wides (fun p q => p - q.signExtend 64) d a b x y s
def execVmulw (d a b : Fin 64) (x y : Bool) (s : State) : Host.Outcome State Fault Refusal :=
  mulWide (fun p q => p.signExtend 64 * q.signExtend 64) d a b x y s
def execVmulwScalar (d a b : Fin 64) (x y : Bool) (s : State) : Host.Outcome State Fault Refusal :=
  mulWides (fun p q => p.signExtend 64 * q.signExtend 64) d a b x y s
def execVmulwz (d a b : Fin 64) (x y : Bool) (s : State) : Host.Outcome State Fault Refusal :=
  mulWide (fun p q => p.setWidth 64 * q.setWidth 64) d a b x y s
def execVmulwzScalar (d a b : Fin 64) (x y : Bool) (s : State) : Host.Outcome State Fault Refusal :=
  mulWides (fun p q => p.setWidth 64 * q.setWidth 64) d a b x y s
def execVclz (d a : Fin 64) (x : Bool) (s : State) : Host.Outcome State Fault Refusal :=
  vec1 (fun p => BitVec.ofNat 32 (leadingZeros p)) d a x s
def execVpopc (d a : Fin 64) (x : Bool) (s : State) : Host.Outcome State Fault Refusal :=
  vec1 (fun p => BitVec.ofNat 32 (popCount p)) d a x s
def execVbrev (d a : Fin 64) (x : Bool) (s : State) : Host.Outcome State Fault Refusal :=
  vec1 (bitReverse) d a x s
def execVmov (d a : Fin 64) (x : Bool) (s : State) : Host.Outcome State Fault Refusal :=
  vec1 (fun p => p) d a x s
/-- VMOV of major 0x11 broadcasts a scalar's low word (R98). -/
def execVmovScalar (d b : Fin 64) (y : Bool) (s : State) : Host.Outcome State Fault Refusal :=
  vecUnit { d := d, vs := [], ss := [(b, y)] } { hblk := true } (fun w _ _ => word ((w.readS b).setWidth 32)) s

/-- VADDR: a 64-bit base and a signed 32-bit offset, into a pair (R97). -/
def execVaddr (d a b : Fin 64) (x y : Bool) (s : State) : Host.Outcome State Fault Refusal :=
  vecUnit { dw := 2, d := d, vs := [{ base := a, x := x }], ss := [(b, y)] } { legal := pairBase d }
    (fun w _ l => (w.readS b + (w.v[a][l]).signExtend 64, 0)) s

/-! ## Major 0x12 (R100) -/

/-- A vector and an immediate. -/
def vecImm (legal : Word32 → Bool) (f : Word32 → Word32 → Word32) (d a : Fin 64) (i : BitVec 10) (x : Bool)
    (s : State) : Host.Outcome State Fault Refusal :=
  vecUnit { d := d, vs := [{ base := a, x := x }] }
    { himm := true, hblk := true, legal := legal (s.warp.frag.hints.imm i) }
    (fun w o l => word (f (w.v[regAt a o][l]) (w.frag.hints.imm i))) s

def shiftLegal32 (i : Word32) : Bool := decide (i.toNat < 32)

def execVaddi (d a : Fin 64) (i : BitVec 10) (x : Bool) (s : State) : Host.Outcome State Fault Refusal :=
  vecImm (fun _ => true) (fun p q => p + q) d a i x s
def execVandi (d a : Fin 64) (i : BitVec 10) (x : Bool) (s : State) : Host.Outcome State Fault Refusal :=
  vecImm (fun _ => true) (fun p q => p &&& q) d a i x s
def execVori (d a : Fin 64) (i : BitVec 10) (x : Bool) (s : State) : Host.Outcome State Fault Refusal :=
  vecImm (fun _ => true) (fun p q => p ||| q) d a i x s
def execVxori (d a : Fin 64) (i : BitVec 10) (x : Bool) (s : State) : Host.Outcome State Fault Refusal :=
  vecImm (fun _ => true) (fun p q => p ^^^ q) d a i x s
def execVshli (d a : Fin 64) (i : BitVec 10) (x : Bool) (s : State) : Host.Outcome State Fault Refusal :=
  vecImm shiftLegal32 (fun p q => p <<< q.toNat) d a i x s
def execVshri (d a : Fin 64) (i : BitVec 10) (x : Bool) (s : State) : Host.Outcome State Fault Refusal :=
  vecImm shiftLegal32 (fun p q => p >>> q.toNat) d a i x s
def execVsrai (d a : Fin 64) (i : BitVec 10) (x : Bool) (s : State) : Host.Outcome State Fault Refusal :=
  vecImm shiftLegal32 (fun p q => p.sshiftRight q.toNat) d a i x s
def execVmovi (d : Fin 64) (i : BitVec 10) (s : State) : Host.Outcome State Fault Refusal :=
  vecUnit { d := d, vs := [] } { himm := true, hblk := true } (fun w _ _ => word (w.frag.hints.imm i)) s

/-! ## Compares (R101) -/

/-- The lanes that take part write their bits of a mask register. An element with poison would reach the mask, which
raises POISON (R67). -/
def compare (f : Word32 → Word32 → Bool × BitVec 5) (m : Fin 8) (a b : Fin 64) (x y : Bool) (s : State) :
    Host.Outcome State Fault Refusal :=
  s.issue { legal := m != 0, srcs := [(.v a, x), (.v b, y)] } fun s =>
    let w := s.warp
    if w.poisonIn [.v a, .v b] &&& w.active ≠ 0 then s.trap .poison
    else
      let held := maskOf fun l => (f (w.v[a][l]) (w.v[b][l])).1
      let flags := orFlags ((lanesOf w.active).map fun l => (f (w.v[a][l]) (w.v[b][l])).2)
      ((s.finish [] flags).onWarp fun v => v.mergeM m w.active held).advance

def execVceq (m : Fin 8) (a b : Fin 64) (x y : Bool) (s : State) : Host.Outcome State Fault Refusal :=
  compare (fun p q => (p == q, 0)) m a b x y s
def execVcne (m : Fin 8) (a b : Fin 64) (x y : Bool) (s : State) : Host.Outcome State Fault Refusal :=
  compare (fun p q => (p != q, 0)) m a b x y s
def execVclt (m : Fin 8) (a b : Fin 64) (x y : Bool) (s : State) : Host.Outcome State Fault Refusal :=
  compare (fun p q => (decide (p.toInt < q.toInt), 0)) m a b x y s
def execVcle (m : Fin 8) (a b : Fin 64) (x y : Bool) (s : State) : Host.Outcome State Fault Refusal :=
  compare (fun p q => (decide (p.toInt ≤ q.toInt), 0)) m a b x y s
def execVcltz (m : Fin 8) (a b : Fin 64) (x y : Bool) (s : State) : Host.Outcome State Fault Refusal :=
  compare (fun p q => (decide (p.toNat < q.toNat), 0)) m a b x y s
def execVclez (m : Fin 8) (a b : Fin 64) (x y : Bool) (s : State) : Host.Outcome State Fault Refusal :=
  compare (fun p q => (decide (p.toNat ≤ q.toNat), 0)) m a b x y s

/-- Two FP32 values with the conditions of decoding them. `quiet` compares raise invalid for signalling NaNs alone, the
others for any NaN. -/
def fpCompare (quiet : Bool) (f : Exact → Exact → Bool) (p q : Word32) : Bool × BitVec 5 :=
  let (a, fa) := decode32 p
  let (b, fb) := decode32 q
  (f a b, fa ||| fb ||| flagIf (!quiet && (a == .nan || b == .nan)) fNV)

def exactNan (a b : Exact) : Bool := a == .nan || b == .nan
def exactEq (a b : Exact) : Bool := !exactNan a b && !a.lt false b && !b.lt false a

def execFceq (m : Fin 8) (a b : Fin 64) (x y : Bool) (s : State) : Host.Outcome State Fault Refusal :=
  compare (fpCompare true exactEq) m a b x y s
def execFcne (m : Fin 8) (a b : Fin 64) (x y : Bool) (s : State) : Host.Outcome State Fault Refusal :=
  compare (fpCompare true fun p q => !exactEq p q) m a b x y s
def execFclt (m : Fin 8) (a b : Fin 64) (x y : Bool) (s : State) : Host.Outcome State Fault Refusal :=
  compare (fpCompare false fun p q => !exactNan p q && p.lt false q) m a b x y s
def execFcle (m : Fin 8) (a b : Fin 64) (x y : Bool) (s : State) : Host.Outcome State Fault Refusal :=
  compare (fpCompare false fun p q => !exactNan p q && !q.lt false p) m a b x y s
def execFcun (m : Fin 8) (a b : Fin 64) (x y : Bool) (s : State) : Host.Outcome State Fault Refusal :=
  compare (fpCompare true exactNan) m a b x y s

/-! ## VSEL and VMAD (R103, R104) -/

/-- VSEL: a lane takes the a element or the b element by its bit of the mask; it is killed only where the element that
it takes holds poison (R108). -/
def execVsel (d a b : Fin 64) (k : Fin 8) (x y : Bool) (s : State) : Host.Outcome State Fault Refusal :=
  let v : VOp := { d := d, vs := [{ base := a, x := x }, { base := b, x := y }], ms := [k] }
  s.issue (v.need { hblk := true } s.warp.frag.hints) fun s =>
    s.vecResult v
      (fun w o => w.readM k &&& w.vPoison[regAt a o] ||| ~~~(w.readM k) &&& w.vPoison[regAt b o])
      (fun w o l => word (if inMask (w.readM k) l then w.v[regAt a o][l] else w.v[regAt b o][l]))

def execVmad (d a b c : Fin 64) (x : Bool) (s : State) : Host.Outcome State Fault Refusal :=
  vecUnit { d := d, vs := [{ base := a, x := x }, { base := b, x := x }, { base := c, x := x }] } { hblk := true }
    (fun w o l => word (w.v[regAt a o][l] * w.v[regAt b o][l] + w.v[regAt c o][l])) s

end Sys2Proof.Machine
end

