-- ==== Sys2Proof/Machine/Dispatch.lean ====
section
/-! DEFINITION. The dispatch: one arm per constructor, each a direct call of its meaning. -/

namespace Sys2Proof.Machine

def exec (i : Instr) (s : State) : Host.Outcome State Fault Refusal :=
  match i with
  | .himm p => Sys2Proof.Machine.execHimm p s
  | .hblk p => Sys2Proof.Machine.execHblk p s
  | .hmod p => Sys2Proof.Machine.execHmod p s
  | .hsch p => Sys2Proof.Machine.execHsch p s
  | .sadd d a b x y => Sys2Proof.Machine.execSadd d a b x y s
  | .ssub d a b x y => Sys2Proof.Machine.execSsub d a b x y s
  | .smul d a b x y => Sys2Proof.Machine.execSmul d a b x y s
  | .smulh d a b x y => Sys2Proof.Machine.execSmulh d a b x y s
  | .smulhz d a b x y => Sys2Proof.Machine.execSmulhz d a b x y s
  | .sdiv d a b x y => Sys2Proof.Machine.execSdiv d a b x y s
  | .sdivz d a b x y => Sys2Proof.Machine.execSdivz d a b x y s
  | .srem d a b x y => Sys2Proof.Machine.execSrem d a b x y s
  | .sremz d a b x y => Sys2Proof.Machine.execSremz d a b x y s
  | .sand d a b x y => Sys2Proof.Machine.execSand d a b x y s
  | .sor d a b x y => Sys2Proof.Machine.execSor d a b x y s
  | .sxor d a b x y => Sys2Proof.Machine.execSxor d a b x y s
  | .sandn d a b x y => Sys2Proof.Machine.execSandn d a b x y s
  | .sshl d a b x y => Sys2Proof.Machine.execSshl d a b x y s
  | .sshr d a b x y => Sys2Proof.Machine.execSshr d a b x y s
  | .ssra d a b x y => Sys2Proof.Machine.execSsra d a b x y s
  | .smin d a b x y => Sys2Proof.Machine.execSmin d a b x y s
  | .smax d a b x y => Sys2Proof.Machine.execSmax d a b x y s
  | .sminz d a b x y => Sys2Proof.Machine.execSminz d a b x y s
  | .smaxz d a b x y => Sys2Proof.Machine.execSmaxz d a b x y s
  | .sceq d a b x y => Sys2Proof.Machine.execSceq d a b x y s
  | .sclt d a b x y => Sys2Proof.Machine.execSclt d a b x y s
  | .scltz d a b x y => Sys2Proof.Machine.execScltz d a b x y s
  | .sclz d a x => Sys2Proof.Machine.execSclz d a x s
  | .spopc d a x => Sys2Proof.Machine.execSpopc d a x s
  | .sbrev d a x => Sys2Proof.Machine.execSbrev d a x s
  | .saddi d a imm x => Sys2Proof.Machine.execSaddi d a imm x s
  | .sandi d a imm x => Sys2Proof.Machine.execSandi d a imm x s
  | .sori d a imm x => Sys2Proof.Machine.execSori d a imm x s
  | .sxori d a imm x => Sys2Proof.Machine.execSxori d a imm x s
  | .sshli d a imm x => Sys2Proof.Machine.execSshli d a imm x s
  | .sshri d a imm x => Sys2Proof.Machine.execSshri d a imm x s
  | .ssrai d a imm x => Sys2Proof.Machine.execSsrai d a imm x s
  | .sclti d a imm x => Sys2Proof.Machine.execSclti d a imm x s
  | .sli d imm => Sys2Proof.Machine.execSli d imm s
  | .slih d a imm x => Sys2Proof.Machine.execSlih d a imm x s
  | .saddpc d imm => Sys2Proof.Machine.execSaddpc d imm s
  | .enter d imm => Sys2Proof.Machine.execEnter d imm s
  | .leave imm => Sys2Proof.Machine.execLeave imm s
  | .beqz a o => Sys2Proof.Machine.execBeqz a o s
  | .bnez a o => Sys2Proof.Machine.execBnez a o s
  | .bltz a o => Sys2Proof.Machine.execBltz a o s
  | .bgez a o => Sys2Proof.Machine.execBgez a o s
  | .blez a o => Sys2Proof.Machine.execBlez a o s
  | .bgtz a o => Sys2Proof.Machine.execBgtz a o s
  | .bra o => Sys2Proof.Machine.execBra o s
  | .call o => Sys2Proof.Machine.execCall o s
  | .jmp o => Sys2Proof.Machine.execJmp o s
  | .nop => Sys2Proof.Machine.execNop s
  | .jr a x => Sys2Proof.Machine.execJr a x s
  | .callr a x => Sys2Proof.Machine.execCallr a x s
  | .ret => Sys2Proof.Machine.execRet s
  | .exit => Sys2Proof.Machine.execExit s
  | .brk => Sys2Proof.Machine.execBrk s
  | .trap c => Sys2Proof.Machine.execTrap c s
  | .yield => Sys2Proof.Machine.execYield s
  | .brvt m o => Sys2Proof.Machine.execBrvt m o s
  | .brvf m o => Sys2Proof.Machine.execBrvf m o s
  | .fuse n => Sys2Proof.Machine.execFuse n s
  | .mset d a x => Sys2Proof.Machine.execMset d a x s
  | .mget d a => Sys2Proof.Machine.execMget d a s
  | .mand d a b => Sys2Proof.Machine.execMand d a b s
  | .mor d a b => Sys2Proof.Machine.execMor d a b s
  | .mxor d a b => Sys2Proof.Machine.execMxor d a b s
  | .mandn d a b => Sys2Proof.Machine.execMandn d a b s
  | .mnot d a => Sys2Proof.Machine.execMnot d a s
  | .mpopc d a => Sys2Proof.Machine.execMpopc d a s
  | .mffs d a => Sys2Proof.Machine.execMffs d a s
  | .mlive d a => Sys2Proof.Machine.execMlive d a s
  | .vadd d a b x y => Sys2Proof.Machine.execVadd d a b x y s
  | .vsub d a b x y => Sys2Proof.Machine.execVsub d a b x y s
  | .vmul d a b x y => Sys2Proof.Machine.execVmul d a b x y s
  | .vmulh d a b x y => Sys2Proof.Machine.execVmulh d a b x y s
  | .vmulhz d a b x y => Sys2Proof.Machine.execVmulhz d a b x y s
  | .vmin d a b x y => Sys2Proof.Machine.execVmin d a b x y s
  | .vmax d a b x y => Sys2Proof.Machine.execVmax d a b x y s
  | .vminz d a b x y => Sys2Proof.Machine.execVminz d a b x y s
  | .vmaxz d a b x y => Sys2Proof.Machine.execVmaxz d a b x y s
  | .vand d a b x y => Sys2Proof.Machine.execVand d a b x y s
  | .vor d a b x y => Sys2Proof.Machine.execVor d a b x y s
  | .vxor d a b x y => Sys2Proof.Machine.execVxor d a b x y s
  | .vandn d a b x y => Sys2Proof.Machine.execVandn d a b x y s
  | .vshl d a b x y => Sys2Proof.Machine.execVshl d a b x y s
  | .vshr d a b x y => Sys2Proof.Machine.execVshr d a b x y s
  | .vsra d a b x y => Sys2Proof.Machine.execVsra d a b x y s
  | .vabsd d a b x y => Sys2Proof.Machine.execVabsd d a b x y s
  | .vsadd d a b x y => Sys2Proof.Machine.execVsadd d a b x y s
  | .vssub d a b x y => Sys2Proof.Machine.execVssub d a b x y s
  | .vsaddz d a b x y => Sys2Proof.Machine.execVsaddz d a b x y s
  | .vssubz d a b x y => Sys2Proof.Machine.execVssubz d a b x y s
  | .vclz d a x => Sys2Proof.Machine.execVclz d a x s
  | .vpopc d a x => Sys2Proof.Machine.execVpopc d a x s
  | .vbrev d a x => Sys2Proof.Machine.execVbrev d a x s
  | .vbfe d a b x y => Sys2Proof.Machine.execVbfe d a b x y s
  | .vbfi d a b x y => Sys2Proof.Machine.execVbfi d a b x y s
  | .vaddw d a b x y => Sys2Proof.Machine.execVaddw d a b x y s
  | .vsubw d a b x y => Sys2Proof.Machine.execVsubw d a b x y s
  | .vmulw d a b x y => Sys2Proof.Machine.execVmulw d a b x y s
  | .vmulwz d a b x y => Sys2Proof.Machine.execVmulwz d a b x y s
  | .vdiv d a b x y => Sys2Proof.Machine.execVdiv d a b x y s
  | .vdivz d a b x y => Sys2Proof.Machine.execVdivz d a b x y s
  | .vrem d a b x y => Sys2Proof.Machine.execVrem d a b x y s
  | .vremz d a b x y => Sys2Proof.Machine.execVremz d a b x y s
  | .vmov d a x => Sys2Proof.Machine.execVmov d a x s
  | .vdot4 d a b x y => Sys2Proof.Machine.execVdot4 d a b x y s
  | .vdot4z d a b x y => Sys2Proof.Machine.execVdot4z d a b x y s
  | .vaddScalar d a b x y => Sys2Proof.Machine.execVaddScalar d a b x y s
  | .vsubScalar d a b x y => Sys2Proof.Machine.execVsubScalar d a b x y s
  | .vmulScalar d a b x y => Sys2Proof.Machine.execVmulScalar d a b x y s
  | .vmulhScalar d a b x y => Sys2Proof.Machine.execVmulhScalar d a b x y s
  | .vmulhzScalar d a b x y => Sys2Proof.Machine.execVmulhzScalar d a b x y s
  | .vminScalar d a b x y => Sys2Proof.Machine.execVminScalar d a b x y s
  | .vmaxScalar d a b x y => Sys2Proof.Machine.execVmaxScalar d a b x y s
  | .vminzScalar d a b x y => Sys2Proof.Machine.execVminzScalar d a b x y s
  | .vmaxzScalar d a b x y => Sys2Proof.Machine.execVmaxzScalar d a b x y s
  | .vandScalar d a b x y => Sys2Proof.Machine.execVandScalar d a b x y s
  | .vorScalar d a b x y => Sys2Proof.Machine.execVorScalar d a b x y s
  | .vxorScalar d a b x y => Sys2Proof.Machine.execVxorScalar d a b x y s
  | .vandnScalar d a b x y => Sys2Proof.Machine.execVandnScalar d a b x y s
  | .vshlScalar d a b x y => Sys2Proof.Machine.execVshlScalar d a b x y s
  | .vshrScalar d a b x y => Sys2Proof.Machine.execVshrScalar d a b x y s
  | .vsraScalar d a b x y => Sys2Proof.Machine.execVsraScalar d a b x y s
  | .vabsdScalar d a b x y => Sys2Proof.Machine.execVabsdScalar d a b x y s
  | .vsaddScalar d a b x y => Sys2Proof.Machine.execVsaddScalar d a b x y s
  | .vssubScalar d a b x y => Sys2Proof.Machine.execVssubScalar d a b x y s
  | .vsaddzScalar d a b x y => Sys2Proof.Machine.execVsaddzScalar d a b x y s
  | .vssubzScalar d a b x y => Sys2Proof.Machine.execVssubzScalar d a b x y s
  | .vbfeScalar d a b x y => Sys2Proof.Machine.execVbfeScalar d a b x y s
  | .vbfiScalar d a b x y => Sys2Proof.Machine.execVbfiScalar d a b x y s
  | .vaddwScalar d a b x y => Sys2Proof.Machine.execVaddwScalar d a b x y s
  | .vsubwScalar d a b x y => Sys2Proof.Machine.execVsubwScalar d a b x y s
  | .vmulwScalar d a b x y => Sys2Proof.Machine.execVmulwScalar d a b x y s
  | .vmulwzScalar d a b x y => Sys2Proof.Machine.execVmulwzScalar d a b x y s
  | .vdivScalar d a b x y => Sys2Proof.Machine.execVdivScalar d a b x y s
  | .vdivzScalar d a b x y => Sys2Proof.Machine.execVdivzScalar d a b x y s
  | .vremScalar d a b x y => Sys2Proof.Machine.execVremScalar d a b x y s
  | .vremzScalar d a b x y => Sys2Proof.Machine.execVremzScalar d a b x y s
  | .vmovScalar d b y => Sys2Proof.Machine.execVmovScalar d b y s
  | .vaddr d a b x y => Sys2Proof.Machine.execVaddr d a b x y s
  | .vdot4Scalar d a b x y => Sys2Proof.Machine.execVdot4Scalar d a b x y s
  | .vdot4zScalar d a b x y => Sys2Proof.Machine.execVdot4zScalar d a b x y s
  | .vaddi d a imm x => Sys2Proof.Machine.execVaddi d a imm x s
  | .vandi d a imm x => Sys2Proof.Machine.execVandi d a imm x s
  | .vori d a imm x => Sys2Proof.Machine.execVori d a imm x s
  | .vxori d a imm x => Sys2Proof.Machine.execVxori d a imm x s
  | .vshli d a imm x => Sys2Proof.Machine.execVshli d a imm x s
  | .vshri d a imm x => Sys2Proof.Machine.execVshri d a imm x s
  | .vsrai d a imm x => Sys2Proof.Machine.execVsrai d a imm x s
  | .vmovi d imm => Sys2Proof.Machine.execVmovi d imm s
  | .vceq m a b x y => Sys2Proof.Machine.execVceq m a b x y s
  | .vcne m a b x y => Sys2Proof.Machine.execVcne m a b x y s
  | .vclt m a b x y => Sys2Proof.Machine.execVclt m a b x y s
  | .vcle m a b x y => Sys2Proof.Machine.execVcle m a b x y s
  | .vcltz m a b x y => Sys2Proof.Machine.execVcltz m a b x y s
  | .vclez m a b x y => Sys2Proof.Machine.execVclez m a b x y s
  | .fceq m a b x y => Sys2Proof.Machine.execFceq m a b x y s
  | .fcne m a b x y => Sys2Proof.Machine.execFcne m a b x y s
  | .fclt m a b x y => Sys2Proof.Machine.execFclt m a b x y s
  | .fcle m a b x y => Sys2Proof.Machine.execFcle m a b x y s
  | .fcun m a b x y => Sys2Proof.Machine.execFcun m a b x y s
  | .shfl d a b x y => Sys2Proof.Machine.execShfl d a b x y s
  | .shflup d a b x y => Sys2Proof.Machine.execShflup d a b x y s
  | .shfldn d a b x y => Sys2Proof.Machine.execShfldn d a b x y s
  | .shflx d a b x y => Sys2Proof.Machine.execShflx d a b x y s
  | .qswz d a b x y => Sys2Proof.Machine.execQswz d a b x y s
  | .bcast d a b x y => Sys2Proof.Machine.execBcast d a b x y s
  | .vrdlane d a b x y => Sys2Proof.Machine.execVrdlane d a b x y s
  | .vwrlane d a b x y => Sys2Proof.Machine.execVwrlane d a b x y s
  | .ballot d a x => Sys2Proof.Machine.execBallot d a x s
  | .wradd d a x => Sys2Proof.Machine.execWradd d a x s
  | .wrmin d a x => Sys2Proof.Machine.execWrmin d a x s
  | .wrmax d a x => Sys2Proof.Machine.execWrmax d a x s
  | .wrminz d a x => Sys2Proof.Machine.execWrminz d a x s
  | .wrmaxz d a x => Sys2Proof.Machine.execWrmaxz d a x s
  | .wrfadd d a x => Sys2Proof.Machine.execWrfadd d a x s
  | .wrand d a x => Sys2Proof.Machine.execWrand d a x s
  | .wror d a x => Sys2Proof.Machine.execWror d a x s
  | .wrxor d a x => Sys2Proof.Machine.execWrxor d a x s
  | .fadd d a b x y => Sys2Proof.Machine.execFadd d a b x y s
  | .fsub d a b x y => Sys2Proof.Machine.execFsub d a b x y s
  | .fmul d a b x y => Sys2Proof.Machine.execFmul d a b x y s
  | .fmin d a b x y => Sys2Proof.Machine.execFmin d a b x y s
  | .fmax d a b x y => Sys2Proof.Machine.execFmax d a b x y s
  | .fabs d a x => Sys2Proof.Machine.execFabs d a x s
  | .fneg d a x => Sys2Proof.Machine.execFneg d a x s
  | .fsgnj d a b x y => Sys2Proof.Machine.execFsgnj d a b x y s
  | .frnd d a x => Sys2Proof.Machine.execFrnd d a x s
  | .fscaleb d a b x y => Sys2Proof.Machine.execFscaleb d a b x y s
  | .hadd2 d a b x y => Sys2Proof.Machine.execHadd2 d a b x y s
  | .hsub2 d a b x y => Sys2Proof.Machine.execHsub2 d a b x y s
  | .hmul2 d a b x y => Sys2Proof.Machine.execHmul2 d a b x y s
  | .badd2 d a b x y => Sys2Proof.Machine.execBadd2 d a b x y s
  | .bsub2 d a b x y => Sys2Proof.Machine.execBsub2 d a b x y s
  | .bmul2 d a b x y => Sys2Proof.Machine.execBmul2 d a b x y s
  | .dadd d a b x y => Sys2Proof.Machine.execDadd d a b x y s
  | .dsub d a b x y => Sys2Proof.Machine.execDsub d a b x y s
  | .dmul d a b x y => Sys2Proof.Machine.execDmul d a b x y s
  | .faddScalar d a b x y => Sys2Proof.Machine.execFaddScalar d a b x y s
  | .fsubScalar d a b x y => Sys2Proof.Machine.execFsubScalar d a b x y s
  | .fmulScalar d a b x y => Sys2Proof.Machine.execFmulScalar d a b x y s
  | .fminScalar d a b x y => Sys2Proof.Machine.execFminScalar d a b x y s
  | .fmaxScalar d a b x y => Sys2Proof.Machine.execFmaxScalar d a b x y s
  | .fsgnjScalar d a b x y => Sys2Proof.Machine.execFsgnjScalar d a b x y s
  | .fscalebScalar d a b x y => Sys2Proof.Machine.execFscalebScalar d a b x y s
  | .hadd2Scalar d a b x y => Sys2Proof.Machine.execHadd2Scalar d a b x y s
  | .hsub2Scalar d a b x y => Sys2Proof.Machine.execHsub2Scalar d a b x y s
  | .hmul2Scalar d a b x y => Sys2Proof.Machine.execHmul2Scalar d a b x y s
  | .badd2Scalar d a b x y => Sys2Proof.Machine.execBadd2Scalar d a b x y s
  | .bsub2Scalar d a b x y => Sys2Proof.Machine.execBsub2Scalar d a b x y s
  | .bmul2Scalar d a b x y => Sys2Proof.Machine.execBmul2Scalar d a b x y s
  | .daddScalar d a b x y => Sys2Proof.Machine.execDaddScalar d a b x y s
  | .dsubScalar d a b x y => Sys2Proof.Machine.execDsubScalar d a b x y s
  | .dmulScalar d a b x y => Sys2Proof.Machine.execDmulScalar d a b x y s
  | .rcp d a x => Sys2Proof.Machine.execRcp d a x s
  | .rsq d a x => Sys2Proof.Machine.execRsq d a x s
  | .sqrtF d a x => Sys2Proof.Machine.execSqrtF d a x s
  | .log2F d a x => Sys2Proof.Machine.execLog2F d a x s
  | .exp2F d a x => Sys2Proof.Machine.execExp2F d a x s
  | .fdiv d a b x y => Sys2Proof.Machine.execFdiv d a b x y s
  | .dsqrt d a x => Sys2Proof.Machine.execDsqrt d a x s
  | .ddiv d a b x y => Sys2Proof.Machine.execDdiv d a b x y s
  | .ffma d a b c x => Sys2Proof.Machine.execFfma d a b c x s
  | .hfma2 d a b c x => Sys2Proof.Machine.execHfma2 d a b c x s
  | .bfma2 d a b c x => Sys2Proof.Machine.execBfma2 d a b c x s
  | .dfma d a b c x => Sys2Proof.Machine.execDfma d a b c x s
  | .exp2x d a b c x => Sys2Proof.Machine.execExp2x d a b c x s
  | .vmad d a b c x => Sys2Proof.Machine.execVmad d a b c x s
  | .vsel d a b k x y => Sys2Proof.Machine.execVsel d a b k x y s
  | .ld t a b z p x => Sys2Proof.Machine.execLd t a b z p x s
  | .ldNt t a b z p x => Sys2Proof.Machine.execLdNt t a b z p x s
  | .ldAcq t a b z p x => Sys2Proof.Machine.execLdAcq t a b z p x s
  | .st t a b z p x => Sys2Proof.Machine.execSt t a b z p x s
  | .stNt t a b z p x => Sys2Proof.Machine.execStNt t a b z p x s
  | .stRel t a b z p x => Sys2Proof.Machine.execStRel t a b z p x s
  | .ldp32 t imm x => Sys2Proof.Machine.execLdp32 t imm x s
  | .ldp64 t imm x => Sys2Proof.Machine.execLdp64 t imm x s
  | .ldp128 t imm x => Sys2Proof.Machine.execLdp128 t imm x s
  | .stp32 t imm x => Sys2Proof.Machine.execStp32 t imm x s
  | .stp64 t imm x => Sys2Proof.Machine.execStp64 t imm x s
  | .stp128 t imm x => Sys2Proof.Machine.execStp128 t imm x s
  | .pref a b x => Sys2Proof.Machine.execPref a b x s
  | .invl a b x => Sys2Proof.Machine.execInvl a b x s
  | .wbk a b x => Sys2Proof.Machine.execWbk a b x s
  | .zero a b p x => Sys2Proof.Machine.execZero a b p x s
  | .cvt d a sf g r u x => Sys2Proof.Machine.execCvt d a sf g r u x s
  | .tsrld t c p => Sys2Proof.Machine.execTsrld t c p s
  | .tsrst t c p => Sys2Proof.Machine.execTsrst t c p s
  | .tsrset t c x => Sys2Proof.Machine.execTsrset t c x s
  | .tsrget t c x => Sys2Proof.Machine.execTsrget t c x s
  | .tload t c n x p g => Sys2Proof.Machine.execTload t c n x p g s
  | .tstore t c n x p g => Sys2Proof.Machine.execTstore t c n x p g s
  | .tgather t c n x p g => Sys2Proof.Machine.execTgather t c n x p g s
  | .tscatter t c n x p g => Sys2Proof.Machine.execTscatter t c n x p g s
  | .tzero t c n g => Sys2Proof.Machine.execTzero t c n g s
  | .tcopy t c n m g => Sys2Proof.Machine.execTcopy t c n m g s
  | .gedge c x => Sys2Proof.Machine.execGedge c x s
  | .grel c => Sys2Proof.Machine.execGrel c s
  | .greset c => Sys2Proof.Machine.execGreset c s
  | .gbin c p g => Sys2Proof.Machine.execGbin c p g s
  | .gstat c x => Sys2Proof.Machine.execGstat c x s
  | .waitc a c => Sys2Proof.Machine.execWaitc a c s
  | .rdcnt d c => Sys2Proof.Machine.execRdcnt d c s
  | .mlds t c g => Sys2Proof.Machine.execMlds t c g s
  | .mswap g => Sys2Proof.Machine.execMswap g s
  | .mshape c g => Sys2Proof.Machine.execMshape c g s
  | .mcfg c g => Sys2Proof.Machine.execMcfg c g s
  | .mmul k c x p g => Sys2Proof.Machine.execMmul k c x p g s
  | .mmulz k c x p g => Sys2Proof.Machine.execMmulz k c x p g s
  | .mmult k c x p g => Sys2Proof.Machine.execMmult k c x p g s
  | .mdrain k t c m g => Sys2Proof.Machine.execMdrain k t c m g s
  | .mzero k g => Sys2Proof.Machine.execMzero k g s
  | .mrdrow k j c b m => Sys2Proof.Machine.execMrdrow k j c b m s
  | .mstat c => Sys2Proof.Machine.execMstat c s
  | .aadd d a b y x l => Sys2Proof.Machine.execAadd d a b y x l s
  | .amin d a b y x l => Sys2Proof.Machine.execAmin d a b y x l s
  | .amax d a b y x l => Sys2Proof.Machine.execAmax d a b y x l s
  | .aand d a b y x l => Sys2Proof.Machine.execAand d a b y x l s
  | .aor d a b y x l => Sys2Proof.Machine.execAor d a b y x l s
  | .axor d a b y x l => Sys2Proof.Machine.execAxor d a b y x l s
  | .aexch d a b y x l => Sys2Proof.Machine.execAexch d a b y x l s
  | .aincw d a b y x l => Sys2Proof.Machine.execAincw d a b y x l s
  | .acas d a b y x l => Sys2Proof.Machine.execAcas d a b y x l s
  | .adecw d a b y x l => Sys2Proof.Machine.execAdecw d a b y x l s
  | .radd a b y x l => Sys2Proof.Machine.execRadd a b y x l s
  | .rmin a b y x l => Sys2Proof.Machine.execRmin a b y x l s
  | .rmax a b y x l => Sys2Proof.Machine.execRmax a b y x l s
  | .rand a b y x l => Sys2Proof.Machine.execRand a b y x l s
  | .ror a b y x l => Sys2Proof.Machine.execRor a b y x l s
  | .rxor a b y x l => Sys2Proof.Machine.execRxor a b y x l s
  | .llock a b d => Sys2Proof.Machine.execLlock a b d s
  | .ltry a d => Sys2Proof.Machine.execLtry a d s
  | .lunlock a => Sys2Proof.Machine.execLunlock a s
  | .lstat a d => Sys2Proof.Machine.execLstat a d s
  | .lyield a b d => Sys2Proof.Machine.execLyield a b d s
  | .waitcmp a b d q => Sys2Proof.Machine.execWaitcmp a b d q s
  | .barw a d q => Sys2Proof.Machine.execBarw a d q s
  | .barg a d q => Sys2Proof.Machine.execBarg a d q s
  | .pbarv a b d sf => Sys2Proof.Machine.execPbarv a b d sf s
  | .pbarw a b sf => Sys2Proof.Machine.execPbarw a b sf s
  | .pbarinit a b => Sys2Proof.Machine.execPbarinit a b s
  | .fence sf o => Sys2Proof.Machine.execFence sf o s
  | .bindR a b => Sys2Proof.Machine.execBindR a b s
  | .unbind a b => Sys2Proof.Machine.execUnbind a b s
  | .acq a q => Sys2Proof.Machine.execAcq a q s
  | .rel a q => Sys2Proof.Machine.execRel a q s
  | .push t c n x g => Sys2Proof.Machine.execPush t c n x g s
  | .put c x p g => Sys2Proof.Machine.execPut c x p g s
  | .get c x p g => Sys2Proof.Machine.execGet c x p g s
  | .cstep c p g => Sys2Proof.Machine.execCstep c p g s
  | .cstat c x => Sys2Proof.Machine.execCstat c x s
  | .launch a b d => Sys2Proof.Machine.execLaunch a b d s
  | .lease a q => Sys2Proof.Machine.execLease a q s
  | .setpl a => Sys2Proof.Machine.execSetpl a s
  | .csrr d c => Sys2Proof.Machine.execCsrr d c s
  | .csrw d a c => Sys2Proof.Machine.execCsrw d a c s
  | .csrset d a c => Sys2Proof.Machine.execCsrset d a c s
  | .csrclr d a c => Sys2Proof.Machine.execCsrclr d a c s
  | .tret a => Sys2Proof.Machine.execTret a s
  | .frec d a => Sys2Proof.Machine.execFrec d a s
  | .replay d a => Sys2Proof.Machine.execReplay d a s
  | .lkill a => Sys2Proof.Machine.execLkill a s
  | .ctxkill a k => Sys2Proof.Machine.execCtxkill a k s
  | .tlbinv b a m => Sys2Proof.Machine.execTlbinv b a m s
  | .pglock a z l => Sys2Proof.Machine.execPglock a z l s
  | .pgswap b a => Sys2Proof.Machine.execPgswap b a s
  | .homemv b a => Sys2Proof.Machine.execHomemv b a s
  | .halt d a g => Sys2Proof.Machine.execHalt d a g s
  | .stepW d a g => Sys2Proof.Machine.execStepW d a g s
  | .watch a k l w => Sys2Proof.Machine.execWatch a k l w s
  | .waitcSatisfied w p => Sys2Proof.Machine.execWaitcSatisfied w p s
  | .matrixArbiterGrant g chk => Sys2Proof.Machine.execMatrixArbiterGrant g chk s
  | .matrixAgeStep g => Sys2Proof.Machine.execMatrixAgeStep g s
  | .bandWake site cl band => Sys2Proof.Machine.execBandWake site cl band s
  | .bandRampStep site => Sys2Proof.Machine.execBandRampStep site s
  | .lockTimerExpiry line w => Sys2Proof.Machine.execLockTimerExpiry line w s
  | .deadlockScan ctx => Sys2Proof.Machine.execDeadlockScan ctx s
  | .monitorTimeout m => Sys2Proof.Machine.execMonitorTimeout m s
  | .overflowMonitorRecheck m => Sys2Proof.Machine.execOverflowMonitorRecheck m s
  | .instructionCompletion w p => Sys2Proof.Machine.execInstructionCompletion w p s
  | .operandLogReplay w k => Sys2Proof.Machine.execOperandLogReplay w k s
  | .logEntryConversion w k => Sys2Proof.Machine.execLogEntryConversion w k s
  | .shootdownAcknowledgement k unit => Sys2Proof.Machine.execShootdownAcknowledgement k unit s
  | .l1Eviction core line w => Sys2Proof.Machine.execL1Eviction core line w s
  | .stackCacheSpill w line => Sys2Proof.Machine.execStackCacheSpill w line s
  | .homeWriteWindowEnd page => Sys2Proof.Machine.execHomeWriteWindowEnd page s
  | .pageHomeMoveEnd page => Sys2Proof.Machine.execPageHomeMoveEnd page s
  | .regionMerge base => Sys2Proof.Machine.execRegionMerge base s
  | .pageCopy page frame => Sys2Proof.Machine.execPageCopy page frame s
  | .engineCommandRun g k => Sys2Proof.Machine.execEngineCommandRun g k s
  | .enginePageFaultResume g k => Sys2Proof.Machine.execEnginePageFaultResume g k s
  | .engineCommandRetire w k => Sys2Proof.Machine.execEngineCommandRetire w k s
  | .nodeLaunch g n => Sys2Proof.Machine.execNodeLaunch g n s
  | .launchQueueTail q v => Sys2Proof.Machine.execLaunchQueueTail q v s
  | .launchQueueErrorClear q v => Sys2Proof.Machine.execLaunchQueueErrorClear q v s
  | .launchRecordRead q => Sys2Proof.Machine.execLaunchRecordRead q s
  | .gangPlacement grid ix stack => Sys2Proof.Machine.execGangPlacement grid ix stack s
  | .affinityPatienceExpiry grid ix => Sys2Proof.Machine.execAffinityPatienceExpiry grid ix s
  | .warpRetire w => Sys2Proof.Machine.execWarpRetire w s
  | .preemption g => Sys2Proof.Machine.execPreemption g s
  | .quantumExpiry g => Sys2Proof.Machine.execQuantumExpiry g s
  | .gangSwapOut g => Sys2Proof.Machine.execGangSwapOut g s
  | .clusterGating site cl => Sys2Proof.Machine.execClusterGating site cl s
  | .clusterWake site => Sys2Proof.Machine.execClusterWake site s
  | .clusterWakeDone site cl => Sys2Proof.Machine.execClusterWakeDone site cl s
  | .leaseWindowEnd w => Sys2Proof.Machine.execLeaseWindowEnd w s
  | .leaseHeadWait core => Sys2Proof.Machine.execLeaseHeadWait core s
  | .leaseStarvation w => Sys2Proof.Machine.execLeaseStarvation w s
  | .powerEvaluation excess => Sys2Proof.Machine.execPowerEvaluation excess s
  | .performanceLevelChange site cl => Sys2Proof.Machine.execPerformanceLevelChange site cl s
  | .tokenRefill ctx k => Sys2Proof.Machine.execTokenRefill ctx k s
  | .fabricTransactionArrival t => Sys2Proof.Machine.execFabricTransactionArrival t s
  | .pushReceipt t => Sys2Proof.Machine.execPushReceipt t s
  | .cstepReceipt t => Sys2Proof.Machine.execCstepReceipt t s
  | .fabricAcknowledgement k res => Sys2Proof.Machine.execFabricAcknowledgement k res s
  | .fabricRetransmission k => Sys2Proof.Machine.execFabricRetransmission k s
  | .collfailNotice sender ctx collid rflag => Sys2Proof.Machine.execCollfailNotice sender ctx collid rflag s
  | .linkFlitResend port => Sys2Proof.Machine.execLinkFlitResend port s
  | .portFailure port => Sys2Proof.Machine.execPortFailure port s
  | .hostSnoop sector => Sys2Proof.Machine.execHostSnoop sector s
  | .backInvalidateSnoop line => Sys2Proof.Machine.execBackInvalidateSnoop line s
  | .hostMemAccess a => Sys2Proof.Machine.execHostMemAccess a s
  | .ctxnew => Sys2Proof.Machine.execCtxnew s
  | .ctxend => Sys2Proof.Machine.execCtxend s
  | .qinit => Sys2Proof.Machine.execQinit s
  | .psgrant => Sys2Proof.Machine.execPsgrant s
  | .debugMark => Sys2Proof.Machine.execDebugMark s
  | .tlbflush => Sys2Proof.Machine.execTlbflush s
  | .faultdone => Sys2Proof.Machine.execFaultdone s
  | .attest => Sys2Proof.Machine.execAttest s
  | .evlostClear v => Sys2Proof.Machine.execEvlostClear v s
  | .registerWrite off size v => Sys2Proof.Machine.execRegisterWrite off size v s
  | .uncorrectableError e => Sys2Proof.Machine.execUncorrectableError e s
  | .fencedMessageDrop site admission => Sys2Proof.Machine.execFencedMessageDrop site admission s
  | .packageReset bootOk reports => Sys2Proof.Machine.execPackageReset bootOk reports s
  | .siteReadmission site r => Sys2Proof.Machine.execSiteReadmission site r s
  | .engineReturnToService site cl => Sys2Proof.Machine.execEngineReturnToService site cl s
  | .stalledPageFaultMapped tag => Sys2Proof.Machine.execStalledPageFaultMapped tag s
  | .activity1024Cycles w => Sys2Proof.Machine.execActivity1024Cycles w s
  | .gatingPowerRemoved site cl => Sys2Proof.Machine.execGatingPowerRemoved site cl s

end Sys2Proof.Machine
end

