-- ==== Sys2Proof/Machine/Timers.lean ====
section
/-! DEFINITION. Time passes: CLOCK advances, and what R353 freezes moves with it. -/

namespace Sys2Proof.Machine

/-- A deadline that is frozen keeps its distance. -/
def later (frozen : Bool) (n : Nat) (d : Option Nat) : Option Nat := if frozen then d.map (· + n) else d

/-- The timers of locks and lock requests whose home, holder or waiter lies on a halted site stand still. -/
def State.tickLocks (s : State) (n : Nat) : State :=
  { s with
    locks := s.locks.map fun (l : Lock) => { l with queue := l.queue.map fun (q : Waiter) =>
      { q with deadline := later (s.frozen l.line l.parties) n q.deadline } }
    lockWaits := s.lockWaits.map fun (q : LockRequest) =>
      { q with deadline := later (s.frozen q.line (q.warp :: ((s.lockOf q.line).map Lock.parties).getD [])) n q.deadline } }

/-- So do the timeouts of monitors. -/
def State.tickMonitors (s : State) (n : Nat) : State :=
  { s with monitors := s.monitors.map fun (m : Monitor) =>
      { m with deadline := later (s.frozen m.loc [m.warp]) n m.deadline } }

/-- PARKTHR stands still for a gang: its site is halted, or the home of a location that it waits on, or the home or the holder
of a lock that a warp of it waits for, or a warp of it is in debug stop (R351, R353). -/
def State.parkFrozen (s : State) (g : Gang) : Bool :=
  let ws := s.warpsOf g.uid
  let mine := fun u : Nat => ws.any (·.uid == u)
  (s.site g.site).halted || ws.any (·.debugStop)
  || (s.locks.any fun l => (l.queue.any fun q => mine q.warp) && s.frozen l.line l.parties)
  || (s.lockWaits.any fun q => mine q.warp && s.frozen q.line (((s.lockOf q.line).map Lock.parties).getD []))
  || s.monitors.any fun m => mine m.warp && s.frozen m.loc []

/-- When a gang came to be parked as a whole: noted, forgotten, or moved on while that is frozen (R273). -/
def State.tickParked (s : State) (n : Nat) : State :=
  { s with gangs := s.gangs.map fun (g : Gang) =>
      if g.phase ≠ .resident ∨ !allParked (s.warpsOf g.uid) then { g with parkedSince := none }
      else
        let since := g.parkedSince.getD s.clock.toNat
        { g with parkedSince := some (if s.parkFrozen g then since + n else since) } }

/-- `n` cycles pass (R299, R353, log 11). -/
def State.tick (s : State) (n : Nat) : State :=
  let s := ((s.tickLocks n).tickMonitors n).tickParked n
  { s with clock := s.clock + BitVec.ofNat 64 n }

end Sys2Proof.Machine
end

