-- ==== Sys2Proof/Machine/Due.lean ====
section
/-! DEFINITION. What happens next when the agenda says nothing (log 2): the events that the state holds ready, in one
fixed order. What an outside agent or a period decides comes from the agenda alone. -/

namespace Sys2Proof.Machine

/-- What pending instructions and log entries of a warp may do. -/
noncomputable def State.warpEvents (s : State) (w : Warp) : List Instr :=
  (w.pend.map fun p => match p.kind with
    | .waitc _ _ _ => Instr.waitcSatisfied w.uid p.id
    | _ => Instr.instructionCompletion w.uid p.id)
  ++ (w.log.flatMap fun e => match e.answer with
    | some true => [Instr.operandLogReplay w.uid e.tag]
    | some false => [Instr.logEntryConversion w.uid e.tag]
    | none => [])
  ++ ((w.out.filter (·.finished)).map fun o => Instr.engineCommandRetire w.uid o.cmd)
  ++ (if w.raising.isSome then [Instr.instructionCompletion w.uid w.nextPend] else [])
  ++ (if w.exitedWhole then [Instr.warpRetire w.uid] else [])
  ++ (if 4096 ≤ w.lease.window then [Instr.leaseWindowEnd w.uid] else [])
  ++ (if w.lease.queued then [Instr.leaseStarvation w.uid] else [])
  ++ if w.lease.active && decide (w.lease.since + 1024 ≤ s.clock.toNat) then [Instr.activity1024Cycles w.uid] else []

/-- What the shared units may do: shoot-downs, page homes, regions, timers of locks and monitors, deadlock scans, lost
transactions. -/
noncomputable def State.unitEvents (s : State) : List Instr :=
  let now := s.clock.toNat
  (s.shootdowns.flatMap fun k => ((List.range 648).filter fun i => k.units.contains (tlbUnitAt i)).map fun i =>
    Instr.shootdownAcknowledgement k.id i)
  ++ ((s.homes.filter (·.moving.isSome)).map fun h => Instr.pageHomeMoveEnd h.page)
  ++ ((s.homes.filter s.windowOver).map fun h => Instr.homeWriteWindowEnd h.page)
  ++ ((s.regions.filter fun r => decide (r.size < 16 ∧ r.written + 65536 ≤ now)).map fun r => Instr.regionMerge r.base)
  ++ (s.locks.flatMap fun l => (l.queue.filter fun q => s.expired q.deadline).map fun q => Instr.lockTimerExpiry l.line q.warp)
  ++ ((s.lockWaits.filter fun q => s.expired q.deadline).map fun q => Instr.lockTimerExpiry q.line q.warp)
  ++ ((s.monitors.filter fun m => s.expired m.deadline).map fun m => Instr.monitorTimeout m.id)
  ++ ((s.monitors.filter fun m => !m.table && decide (m.checked + 4096 ≤ now)).map fun m => Instr.overflowMonitorRecheck m.id)
  ++ ((s.contexts.filter fun c => c.dlkperiod != 0 && decide (c.scanned + c.dlkperiod.toNat ≤ now)).map fun c =>
    Instr.deadlockScan c.num)
  ++ ((s.fabric.tx.filter fun t => decide (t.sentAt + 2 ^ 20 ≤ now)).map fun t => Instr.fabricRetransmission t.id)

/-- A command that is queued for its engine, or paused at a page that has been mapped. -/
noncomputable def commandEvents (c : Command) : List Instr :=
  match c.phase with
  | .paused _ _ true => [Instr.enginePageFaultResume c.gang c.id]
  | .queued => if c.cls = 2 then [] else [Instr.engineCommandRun c.gang c.id]
  | _ => []

/-- What the engines of a gang may do, and a pre-emption that may go on. -/
noncomputable def State.gangEvents (s : State) (g : Gang) : List Instr :=
  ((s.cmds.filter (·.gang == g.uid)).flatMap commandEvents)
  ++ (((List.range g.nodes.length).filter fun n => (g.node n).state == .released && (g.node n).count == 0).map fun n =>
    Instr.nodeLaunch g.uid n)
  ++ (if g.mx.stream.isEmpty then [] else [Instr.matrixArbiterGrant g.uid .matched, Instr.matrixAgeStep g.uid])
  ++ if g.leaving.isSome && s.gangQuiet g.uid then [Instr.preemption g.uid] else []

/-- What the clusters of a site may do: performance levels follow the requests, bands light and the ramp goes on, gating
that has begun goes on, and gated clusters wake. -/
noncomputable def State.siteEvents (s : State) (i : Nat) : List Instr :=
  let t := s.site i
  let now := s.clock.toNat
  let cls := List.range 16
  ((cls.filter fun k => (t.cluster k).granted != s.requested i k - (t.cluster k).lowered).map (Instr.performanceLevelChange i))
  ++ (cls.flatMap fun k => ((List.range 4).filter fun b => (t.cluster k).wanted.getLsbD b).map fun b => Instr.bandWake i k b)
  ++ (if t.clusters.toList.any (fun c => c.lit ||| c.wanted != 0) || s.gangs.any (fun g =>
        g.phase == .resident && g.site == i && g.needsBands) then [Instr.bandRampStep i] else [])
  ++ ((cls.filter fun k => (t.cluster k).gate == .clockStopped || (t.cluster k).gate == .spilled).map (Instr.clusterGating i))
  ++ ((cls.filter fun k => (t.cluster k).gate == .isolated && decide ((t.cluster k).gateAt < now)).map
      (Instr.gatingPowerRemoved i))
  ++ ((cls.filter fun k => (t.cluster k).gate == .waking).map (Instr.clusterWakeDone i))
  ++ if (s.toWake i 2400).isSome then [Instr.clusterWake i] else []

/-- The gang that gives way to one of a higher priority which finds no room; while one is leaving, none. -/
def State.victim (s : State) : Option Nat :=
  ((List.range 8).reverse).findSome? fun prio =>
    let vs := s.lowerGangs prio
    if vs.all (·.leaving.isNone) && s.owed prio then vs.head?.map (·.uid) else none

/-- What the front end and the dispatchers may do. A new gang that has a stack is placed from the agenda alone, which says
where the supervisor has allotted it (R148). -/
noncomputable def State.launchEvents (s : State) : List Instr :=
  ((s.gangs.filter s.requeued).map fun g => Instr.gangPlacement g.grid g.index 0)
  ++ (s.grids.flatMap fun g =>
    if g.status.isSome || !g.ready || g.record.stack != 0 then []
    else (g.offers.map fun o => Instr.gangPlacement g.ticket o.index 0)
      ++ if g.next < g.gangCount then [Instr.gangPlacement g.ticket g.next 0] else [])
  ++ (match s.victim with | some g => [Instr.preemption g] | none => [])
  ++ (s.grids.flatMap fun g => g.offers.map fun o => Instr.affinityPatienceExpiry g.ticket o.index)
  ++ (s.gangs.flatMap fun g => if g.phase = .resident then [Instr.quantumExpiry g.uid, Instr.gangSwapOut g.uid] else [])
  ++ (match s.nextQueue with | some q => [Instr.launchRecordRead q] | none => [])

/-- The cores that have resident warps. -/
def State.busyCores (s : State) : List Nat := ((s.warps.filter fun w => w.live && w.resident).map (·.coreNo)).eraseDups

/-- The command at the head of the mailbox's ring. -/
noncomputable def State.mailEvents (s : State) : List Instr :=
  match s.headCommand with
  | none => []
  | some c => [[Instr.ctxend], [Instr.qinit], [Instr.psgrant], [Instr.debugMark], [Instr.tlbflush], [Instr.faultdone], [Instr.attest]].getD (c.opcode - 2) [Instr.ctxnew]

/-- The events that may be due, in order. -/
noncomputable def State.candidates (s : State) : List Instr :=
  s.mailEvents ++ (s.warps.filter (·.live)).flatMap s.warpEvents ++ s.unitEvents
  ++ (s.gangs.filter fun g => g.phase == .resident).flatMap s.gangEvents
  ++ (List.range 8).flatMap s.siteEvents ++ s.launchEvents ++ s.busyCores.map Instr.leaseHeadWait
  ++ if s.power.since + 8192 ≤ s.clock.toNat then [Instr.powerEvaluation false] else []

/-- The event changes something. -/
noncomputable def State.matters (s : State) (i : Instr) : Bool :=
  match exec i s with
  | .next t => t != s
  | _ => true

/-- The first event that is due. -/
noncomputable def State.due (s : State) : Option Instr := s.candidates.find? s.matters

end Sys2Proof.Machine
end

