-- ==== Sys2Proof/Decode.lean ====
section
/-! DEFINITION. The decoder, total on any word, and after it the encoder, both written from the instruction formats
of 02 R46 and the opcode map of R56. A word that is no instruction (R57) decodes to none, and `illegalCause` of
Machine/Step.lean names what it raises. The definitions marked noncomputable build a constructor whose tag is past what
Lean's compiled code can hold (a limit of its runtime at about 245 constructors); the kernel evaluates them all. -/

namespace Sys2Proof

/-- The unsigned field of `n` values that starts at bit `lo` of the word. -/
def fieldAt (lo n : Nat) [NeZero n] (w : Nat) : Fin n := Fin.ofNat n (w / 2 ^ lo)

/-- Bit `lo` of the word. -/
def bitAt (lo w : Nat) : Bool := w / 2 ^ lo % 2 == 1

/-- Major 0x01 (R46, R56). -/
def decode01 (w : Nat) : Option Instr :=
  match w / 4194304 % 16 with
  | 0 => some (.himm (BitVec.ofNat 22 w))
  | 1 => some (.hblk (BitVec.ofNat 22 w))
  | 2 => some (.hmod (BitVec.ofNat 22 w))
  | 3 => some (.hsch (BitVec.ofNat 22 w))
  | _ => none

/-- Major 0x04 (R46, R56). -/
def decode04 (w : Nat) : Option Instr :=
  match w / 4 % 64 with
  | 0 => some (.sadd (fieldAt 20 64 w) (fieldAt 14 64 w) (fieldAt 8 64 w) (bitAt 1 w) (bitAt 0 w))
  | 1 => some (.ssub (fieldAt 20 64 w) (fieldAt 14 64 w) (fieldAt 8 64 w) (bitAt 1 w) (bitAt 0 w))
  | 2 => some (.smul (fieldAt 20 64 w) (fieldAt 14 64 w) (fieldAt 8 64 w) (bitAt 1 w) (bitAt 0 w))
  | 3 => some (.smulh (fieldAt 20 64 w) (fieldAt 14 64 w) (fieldAt 8 64 w) (bitAt 1 w) (bitAt 0 w))
  | 4 => some (.smulhz (fieldAt 20 64 w) (fieldAt 14 64 w) (fieldAt 8 64 w) (bitAt 1 w) (bitAt 0 w))
  | 5 => some (.sdiv (fieldAt 20 64 w) (fieldAt 14 64 w) (fieldAt 8 64 w) (bitAt 1 w) (bitAt 0 w))
  | 6 => some (.sdivz (fieldAt 20 64 w) (fieldAt 14 64 w) (fieldAt 8 64 w) (bitAt 1 w) (bitAt 0 w))
  | 7 => some (.srem (fieldAt 20 64 w) (fieldAt 14 64 w) (fieldAt 8 64 w) (bitAt 1 w) (bitAt 0 w))
  | 8 => some (.sremz (fieldAt 20 64 w) (fieldAt 14 64 w) (fieldAt 8 64 w) (bitAt 1 w) (bitAt 0 w))
  | 9 => some (.sand (fieldAt 20 64 w) (fieldAt 14 64 w) (fieldAt 8 64 w) (bitAt 1 w) (bitAt 0 w))
  | 10 => some (.sor (fieldAt 20 64 w) (fieldAt 14 64 w) (fieldAt 8 64 w) (bitAt 1 w) (bitAt 0 w))
  | 11 => some (.sxor (fieldAt 20 64 w) (fieldAt 14 64 w) (fieldAt 8 64 w) (bitAt 1 w) (bitAt 0 w))
  | 12 => some (.sandn (fieldAt 20 64 w) (fieldAt 14 64 w) (fieldAt 8 64 w) (bitAt 1 w) (bitAt 0 w))
  | 13 => some (.sshl (fieldAt 20 64 w) (fieldAt 14 64 w) (fieldAt 8 64 w) (bitAt 1 w) (bitAt 0 w))
  | 14 => some (.sshr (fieldAt 20 64 w) (fieldAt 14 64 w) (fieldAt 8 64 w) (bitAt 1 w) (bitAt 0 w))
  | 15 => some (.ssra (fieldAt 20 64 w) (fieldAt 14 64 w) (fieldAt 8 64 w) (bitAt 1 w) (bitAt 0 w))
  | 16 => some (.smin (fieldAt 20 64 w) (fieldAt 14 64 w) (fieldAt 8 64 w) (bitAt 1 w) (bitAt 0 w))
  | 17 => some (.smax (fieldAt 20 64 w) (fieldAt 14 64 w) (fieldAt 8 64 w) (bitAt 1 w) (bitAt 0 w))
  | 18 => some (.sminz (fieldAt 20 64 w) (fieldAt 14 64 w) (fieldAt 8 64 w) (bitAt 1 w) (bitAt 0 w))
  | 19 => some (.smaxz (fieldAt 20 64 w) (fieldAt 14 64 w) (fieldAt 8 64 w) (bitAt 1 w) (bitAt 0 w))
  | 20 => some (.sceq (fieldAt 20 64 w) (fieldAt 14 64 w) (fieldAt 8 64 w) (bitAt 1 w) (bitAt 0 w))
  | 21 => some (.sclt (fieldAt 20 64 w) (fieldAt 14 64 w) (fieldAt 8 64 w) (bitAt 1 w) (bitAt 0 w))
  | 22 => some (.scltz (fieldAt 20 64 w) (fieldAt 14 64 w) (fieldAt 8 64 w) (bitAt 1 w) (bitAt 0 w))
  | 23 => if w % 2 = 0 ∧ w / 256 % 64 = 0 then some (.sclz (fieldAt 20 64 w) (fieldAt 14 64 w) (bitAt 1 w)) else none
  | 24 => if w % 2 = 0 ∧ w / 256 % 64 = 0 then some (.spopc (fieldAt 20 64 w) (fieldAt 14 64 w) (bitAt 1 w)) else none
  | 25 => if w % 2 = 0 ∧ w / 256 % 64 = 0 then some (.sbrev (fieldAt 20 64 w) (fieldAt 14 64 w) (bitAt 1 w)) else none
  | _ => none

/-- Major 0x05 (R46, R56). -/
def decode05 (w : Nat) : Option Instr :=
  match w / 2048 % 8 with
  | 0 => some (.saddi (fieldAt 20 64 w) (fieldAt 14 64 w) (BitVec.ofNat 10 (w / 2)) (bitAt 0 w))
  | 1 => some (.sandi (fieldAt 20 64 w) (fieldAt 14 64 w) (BitVec.ofNat 10 (w / 2)) (bitAt 0 w))
  | 2 => some (.sori (fieldAt 20 64 w) (fieldAt 14 64 w) (BitVec.ofNat 10 (w / 2)) (bitAt 0 w))
  | 3 => some (.sxori (fieldAt 20 64 w) (fieldAt 14 64 w) (BitVec.ofNat 10 (w / 2)) (bitAt 0 w))
  | 4 => some (.sshli (fieldAt 20 64 w) (fieldAt 14 64 w) (BitVec.ofNat 10 (w / 2)) (bitAt 0 w))
  | 5 => some (.sshri (fieldAt 20 64 w) (fieldAt 14 64 w) (BitVec.ofNat 10 (w / 2)) (bitAt 0 w))
  | 6 => some (.ssrai (fieldAt 20 64 w) (fieldAt 14 64 w) (BitVec.ofNat 10 (w / 2)) (bitAt 0 w))
  | 7 => some (.sclti (fieldAt 20 64 w) (fieldAt 14 64 w) (BitVec.ofNat 10 (w / 2)) (bitAt 0 w))
  | _ => none

/-- Major 0x06 (R46, R56). -/
def decode06 (w : Nat) : Option Instr :=
  match w / 2048 % 8 with
  | 0 => if w % 2 = 0 ∧ w / 16384 % 64 = 0 then some (.sli (fieldAt 20 64 w) (BitVec.ofNat 10 (w / 2))) else none
  | 1 => some (.slih (fieldAt 20 64 w) (fieldAt 14 64 w) (BitVec.ofNat 10 (w / 2)) (bitAt 0 w))
  | 2 => if w % 2 = 0 ∧ w / 16384 % 64 = 0 then some (.saddpc (fieldAt 20 64 w) (BitVec.ofNat 10 (w / 2))) else none
  | 3 => if w % 2 = 0 ∧ w / 16384 % 64 = 0 then some (.enter (fieldAt 20 64 w) (BitVec.ofNat 10 (w / 2))) else none
  | 4 => if w % 2 = 0 ∧ w / 16384 % 4096 = 0 then some (.leave (BitVec.ofNat 10 (w / 2))) else none
  | _ => none

/-- Major 0x08 (R46, R56). -/
def decode08 (w : Nat) : Option Instr :=
  match w / 8388608 % 8 with
  | 0 => some (.beqz (fieldAt 17 64 w) (BitVec.ofNat 17 w))
  | 1 => some (.bnez (fieldAt 17 64 w) (BitVec.ofNat 17 w))
  | 2 => some (.bltz (fieldAt 17 64 w) (BitVec.ofNat 17 w))
  | 3 => some (.bgez (fieldAt 17 64 w) (BitVec.ofNat 17 w))
  | 4 => some (.blez (fieldAt 17 64 w) (BitVec.ofNat 17 w))
  | 5 => some (.bgtz (fieldAt 17 64 w) (BitVec.ofNat 17 w))
  | 6 => if w / 131072 % 64 = 0 then some (.bra (BitVec.ofNat 17 w)) else none
  | _ => none

/-- Major 0x09 (R46, R56). -/
def decode09 (w : Nat) : Option Instr :=
  some (.call (BitVec.ofNat 26 w))

/-- Major 0x0A (R46, R56). -/
def decode0A (w : Nat) : Option Instr :=
  some (.jmp (BitVec.ofNat 26 w))

/-- Major 0x0B (R46, R56). -/
def decode0B (w : Nat) : Option Instr :=
  match w / 4 % 64 with
  | 0 => if w % 4 = 0 ∧ w / 256 % 262144 = 0 then some .nop else none
  | 1 => if w % 2 = 0 ∧ w / 256 % 64 = 0 ∧ w / 1048576 % 64 = 0 then some (.jr (fieldAt 14 64 w) (bitAt 1 w)) else none
  | 2 => if w % 2 = 0 ∧ w / 256 % 64 = 0 ∧ w / 1048576 % 64 = 0 then some (.callr (fieldAt 14 64 w) (bitAt 1 w)) else none
  | 3 => if w % 4 = 0 ∧ w / 256 % 262144 = 0 then some .ret else none
  | 4 => if w % 4 = 0 ∧ w / 256 % 262144 = 0 then some .exit else none
  | 5 => if w % 4 = 0 ∧ w / 256 % 262144 = 0 then some .brk else none
  | 6 => if w % 4 = 0 ∧ w / 16384 % 4096 = 0 then some (.trap (fieldAt 8 64 w)) else none
  | 7 => if w % 4 = 0 ∧ w / 256 % 262144 = 0 then some .yield else none
  | _ => none

/-- Major 0x0C (R46, R56). -/
def decode0C (w : Nat) : Option Instr :=
  match w / 4194304 % 2 with
  | 0 => if w / 131072 % 32 = 0 then some (.brvt (fieldAt 23 8 w) (BitVec.ofNat 17 w)) else none
  | 1 => if w / 131072 % 32 = 0 then some (.brvf (fieldAt 23 8 w) (BitVec.ofNat 17 w)) else none
  | _ => none

/-- Major 0x0D (R46, R56). -/
def decode0D (w : Nat) : Option Instr :=
  match w / 4 % 64 with
  | 0 => if w % 4 = 0 ∧ w / 16384 % 4096 = 0 then some (.fuse (fieldAt 8 64 w)) else none
  | 1 => if w % 2 = 0 ∧ w / 256 % 64 = 0 ∧ w / 1048576 % 64 < 8 then some (.mset (fieldAt 20 8 w) (fieldAt 14 64 w) (bitAt 1 w)) else none
  | 2 => if w % 4 = 0 ∧ w / 256 % 64 = 0 ∧ w / 16384 % 64 < 8 then some (.mget (fieldAt 20 64 w) (fieldAt 14 8 w)) else none
  | 3 => if w % 4 = 0 ∧ w / 1048576 % 64 < 8 ∧ w / 16384 % 64 < 8 ∧ w / 256 % 64 < 8 then some (.mand (fieldAt 20 8 w) (fieldAt 14 8 w) (fieldAt 8 8 w)) else none
  | 4 => if w % 4 = 0 ∧ w / 1048576 % 64 < 8 ∧ w / 16384 % 64 < 8 ∧ w / 256 % 64 < 8 then some (.mor (fieldAt 20 8 w) (fieldAt 14 8 w) (fieldAt 8 8 w)) else none
  | 5 => if w % 4 = 0 ∧ w / 1048576 % 64 < 8 ∧ w / 16384 % 64 < 8 ∧ w / 256 % 64 < 8 then some (.mxor (fieldAt 20 8 w) (fieldAt 14 8 w) (fieldAt 8 8 w)) else none
  | 6 => if w % 4 = 0 ∧ w / 1048576 % 64 < 8 ∧ w / 16384 % 64 < 8 ∧ w / 256 % 64 < 8 then some (.mandn (fieldAt 20 8 w) (fieldAt 14 8 w) (fieldAt 8 8 w)) else none
  | 7 => if w % 4 = 0 ∧ w / 256 % 64 = 0 ∧ w / 1048576 % 64 < 8 ∧ w / 16384 % 64 < 8 then some (.mnot (fieldAt 20 8 w) (fieldAt 14 8 w)) else none
  | 8 => if w % 4 = 0 ∧ w / 256 % 64 = 0 ∧ w / 16384 % 64 < 8 then some (.mpopc (fieldAt 20 64 w) (fieldAt 14 8 w)) else none
  | 9 => if w % 4 = 0 ∧ w / 256 % 64 = 0 ∧ w / 16384 % 64 < 8 then some (.mffs (fieldAt 20 64 w) (fieldAt 14 8 w)) else none
  | 10 => if w % 4 = 0 ∧ w / 256 % 64 = 0 ∧ w / 1048576 % 64 < 8 ∧ w / 16384 % 64 < 8 then some (.mlive (fieldAt 20 8 w) (fieldAt 14 8 w)) else none
  | _ => none

/-- Major 0x10 (R46, R56). -/
def decode10 (w : Nat) : Option Instr :=
  match w / 4 % 64 with
  | 0 => some (.vadd (fieldAt 20 64 w) (fieldAt 14 64 w) (fieldAt 8 64 w) (bitAt 1 w) (bitAt 0 w))
  | 1 => some (.vsub (fieldAt 20 64 w) (fieldAt 14 64 w) (fieldAt 8 64 w) (bitAt 1 w) (bitAt 0 w))
  | 2 => some (.vmul (fieldAt 20 64 w) (fieldAt 14 64 w) (fieldAt 8 64 w) (bitAt 1 w) (bitAt 0 w))
  | 3 => some (.vmulh (fieldAt 20 64 w) (fieldAt 14 64 w) (fieldAt 8 64 w) (bitAt 1 w) (bitAt 0 w))
  | 4 => some (.vmulhz (fieldAt 20 64 w) (fieldAt 14 64 w) (fieldAt 8 64 w) (bitAt 1 w) (bitAt 0 w))
  | 5 => some (.vmin (fieldAt 20 64 w) (fieldAt 14 64 w) (fieldAt 8 64 w) (bitAt 1 w) (bitAt 0 w))
  | 6 => some (.vmax (fieldAt 20 64 w) (fieldAt 14 64 w) (fieldAt 8 64 w) (bitAt 1 w) (bitAt 0 w))
  | 7 => some (.vminz (fieldAt 20 64 w) (fieldAt 14 64 w) (fieldAt 8 64 w) (bitAt 1 w) (bitAt 0 w))
  | 8 => some (.vmaxz (fieldAt 20 64 w) (fieldAt 14 64 w) (fieldAt 8 64 w) (bitAt 1 w) (bitAt 0 w))
  | 9 => some (.vand (fieldAt 20 64 w) (fieldAt 14 64 w) (fieldAt 8 64 w) (bitAt 1 w) (bitAt 0 w))
  | 10 => some (.vor (fieldAt 20 64 w) (fieldAt 14 64 w) (fieldAt 8 64 w) (bitAt 1 w) (bitAt 0 w))
  | 11 => some (.vxor (fieldAt 20 64 w) (fieldAt 14 64 w) (fieldAt 8 64 w) (bitAt 1 w) (bitAt 0 w))
  | 12 => some (.vandn (fieldAt 20 64 w) (fieldAt 14 64 w) (fieldAt 8 64 w) (bitAt 1 w) (bitAt 0 w))
  | 13 => some (.vshl (fieldAt 20 64 w) (fieldAt 14 64 w) (fieldAt 8 64 w) (bitAt 1 w) (bitAt 0 w))
  | 14 => some (.vshr (fieldAt 20 64 w) (fieldAt 14 64 w) (fieldAt 8 64 w) (bitAt 1 w) (bitAt 0 w))
  | 15 => some (.vsra (fieldAt 20 64 w) (fieldAt 14 64 w) (fieldAt 8 64 w) (bitAt 1 w) (bitAt 0 w))
  | 16 => some (.vabsd (fieldAt 20 64 w) (fieldAt 14 64 w) (fieldAt 8 64 w) (bitAt 1 w) (bitAt 0 w))
  | 17 => some (.vsadd (fieldAt 20 64 w) (fieldAt 14 64 w) (fieldAt 8 64 w) (bitAt 1 w) (bitAt 0 w))
  | 18 => some (.vssub (fieldAt 20 64 w) (fieldAt 14 64 w) (fieldAt 8 64 w) (bitAt 1 w) (bitAt 0 w))
  | 19 => some (.vsaddz (fieldAt 20 64 w) (fieldAt 14 64 w) (fieldAt 8 64 w) (bitAt 1 w) (bitAt 0 w))
  | 20 => some (.vssubz (fieldAt 20 64 w) (fieldAt 14 64 w) (fieldAt 8 64 w) (bitAt 1 w) (bitAt 0 w))
  | 21 => if w % 2 = 0 ∧ w / 256 % 64 = 0 then some (.vclz (fieldAt 20 64 w) (fieldAt 14 64 w) (bitAt 1 w)) else none
  | 22 => if w % 2 = 0 ∧ w / 256 % 64 = 0 then some (.vpopc (fieldAt 20 64 w) (fieldAt 14 64 w) (bitAt 1 w)) else none
  | 23 => if w % 2 = 0 ∧ w / 256 % 64 = 0 then some (.vbrev (fieldAt 20 64 w) (fieldAt 14 64 w) (bitAt 1 w)) else none
  | 24 => some (.vbfe (fieldAt 20 64 w) (fieldAt 14 64 w) (fieldAt 8 64 w) (bitAt 1 w) (bitAt 0 w))
  | 25 => some (.vbfi (fieldAt 20 64 w) (fieldAt 14 64 w) (fieldAt 8 64 w) (bitAt 1 w) (bitAt 0 w))
  | 26 => some (.vaddw (fieldAt 20 64 w) (fieldAt 14 64 w) (fieldAt 8 64 w) (bitAt 1 w) (bitAt 0 w))
  | 27 => some (.vsubw (fieldAt 20 64 w) (fieldAt 14 64 w) (fieldAt 8 64 w) (bitAt 1 w) (bitAt 0 w))
  | 28 => some (.vmulw (fieldAt 20 64 w) (fieldAt 14 64 w) (fieldAt 8 64 w) (bitAt 1 w) (bitAt 0 w))
  | 29 => some (.vmulwz (fieldAt 20 64 w) (fieldAt 14 64 w) (fieldAt 8 64 w) (bitAt 1 w) (bitAt 0 w))
  | 30 => some (.vdiv (fieldAt 20 64 w) (fieldAt 14 64 w) (fieldAt 8 64 w) (bitAt 1 w) (bitAt 0 w))
  | 31 => some (.vdivz (fieldAt 20 64 w) (fieldAt 14 64 w) (fieldAt 8 64 w) (bitAt 1 w) (bitAt 0 w))
  | 32 => some (.vrem (fieldAt 20 64 w) (fieldAt 14 64 w) (fieldAt 8 64 w) (bitAt 1 w) (bitAt 0 w))
  | 33 => some (.vremz (fieldAt 20 64 w) (fieldAt 14 64 w) (fieldAt 8 64 w) (bitAt 1 w) (bitAt 0 w))
  | 34 => if w % 2 = 0 ∧ w / 256 % 64 = 0 then some (.vmov (fieldAt 20 64 w) (fieldAt 14 64 w) (bitAt 1 w)) else none
  | 36 => some (.vdot4 (fieldAt 20 64 w) (fieldAt 14 64 w) (fieldAt 8 64 w) (bitAt 1 w) (bitAt 0 w))
  | 37 => some (.vdot4z (fieldAt 20 64 w) (fieldAt 14 64 w) (fieldAt 8 64 w) (bitAt 1 w) (bitAt 0 w))
  | _ => none

/-- Major 0x11 (R46, R56). -/
def decode11 (w : Nat) : Option Instr :=
  match w / 4 % 64 with
  | 0 => some (.vaddScalar (fieldAt 20 64 w) (fieldAt 14 64 w) (fieldAt 8 64 w) (bitAt 1 w) (bitAt 0 w))
  | 1 => some (.vsubScalar (fieldAt 20 64 w) (fieldAt 14 64 w) (fieldAt 8 64 w) (bitAt 1 w) (bitAt 0 w))
  | 2 => some (.vmulScalar (fieldAt 20 64 w) (fieldAt 14 64 w) (fieldAt 8 64 w) (bitAt 1 w) (bitAt 0 w))
  | 3 => some (.vmulhScalar (fieldAt 20 64 w) (fieldAt 14 64 w) (fieldAt 8 64 w) (bitAt 1 w) (bitAt 0 w))
  | 4 => some (.vmulhzScalar (fieldAt 20 64 w) (fieldAt 14 64 w) (fieldAt 8 64 w) (bitAt 1 w) (bitAt 0 w))
  | 5 => some (.vminScalar (fieldAt 20 64 w) (fieldAt 14 64 w) (fieldAt 8 64 w) (bitAt 1 w) (bitAt 0 w))
  | 6 => some (.vmaxScalar (fieldAt 20 64 w) (fieldAt 14 64 w) (fieldAt 8 64 w) (bitAt 1 w) (bitAt 0 w))
  | 7 => some (.vminzScalar (fieldAt 20 64 w) (fieldAt 14 64 w) (fieldAt 8 64 w) (bitAt 1 w) (bitAt 0 w))
  | 8 => some (.vmaxzScalar (fieldAt 20 64 w) (fieldAt 14 64 w) (fieldAt 8 64 w) (bitAt 1 w) (bitAt 0 w))
  | 9 => some (.vandScalar (fieldAt 20 64 w) (fieldAt 14 64 w) (fieldAt 8 64 w) (bitAt 1 w) (bitAt 0 w))
  | 10 => some (.vorScalar (fieldAt 20 64 w) (fieldAt 14 64 w) (fieldAt 8 64 w) (bitAt 1 w) (bitAt 0 w))
  | 11 => some (.vxorScalar (fieldAt 20 64 w) (fieldAt 14 64 w) (fieldAt 8 64 w) (bitAt 1 w) (bitAt 0 w))
  | 12 => some (.vandnScalar (fieldAt 20 64 w) (fieldAt 14 64 w) (fieldAt 8 64 w) (bitAt 1 w) (bitAt 0 w))
  | 13 => some (.vshlScalar (fieldAt 20 64 w) (fieldAt 14 64 w) (fieldAt 8 64 w) (bitAt 1 w) (bitAt 0 w))
  | 14 => some (.vshrScalar (fieldAt 20 64 w) (fieldAt 14 64 w) (fieldAt 8 64 w) (bitAt 1 w) (bitAt 0 w))
  | 15 => some (.vsraScalar (fieldAt 20 64 w) (fieldAt 14 64 w) (fieldAt 8 64 w) (bitAt 1 w) (bitAt 0 w))
  | 16 => some (.vabsdScalar (fieldAt 20 64 w) (fieldAt 14 64 w) (fieldAt 8 64 w) (bitAt 1 w) (bitAt 0 w))
  | 17 => some (.vsaddScalar (fieldAt 20 64 w) (fieldAt 14 64 w) (fieldAt 8 64 w) (bitAt 1 w) (bitAt 0 w))
  | 18 => some (.vssubScalar (fieldAt 20 64 w) (fieldAt 14 64 w) (fieldAt 8 64 w) (bitAt 1 w) (bitAt 0 w))
  | 19 => some (.vsaddzScalar (fieldAt 20 64 w) (fieldAt 14 64 w) (fieldAt 8 64 w) (bitAt 1 w) (bitAt 0 w))
  | 20 => some (.vssubzScalar (fieldAt 20 64 w) (fieldAt 14 64 w) (fieldAt 8 64 w) (bitAt 1 w) (bitAt 0 w))
  | 24 => some (.vbfeScalar (fieldAt 20 64 w) (fieldAt 14 64 w) (fieldAt 8 64 w) (bitAt 1 w) (bitAt 0 w))
  | 25 => some (.vbfiScalar (fieldAt 20 64 w) (fieldAt 14 64 w) (fieldAt 8 64 w) (bitAt 1 w) (bitAt 0 w))
  | 26 => some (.vaddwScalar (fieldAt 20 64 w) (fieldAt 14 64 w) (fieldAt 8 64 w) (bitAt 1 w) (bitAt 0 w))
  | 27 => some (.vsubwScalar (fieldAt 20 64 w) (fieldAt 14 64 w) (fieldAt 8 64 w) (bitAt 1 w) (bitAt 0 w))
  | 28 => some (.vmulwScalar (fieldAt 20 64 w) (fieldAt 14 64 w) (fieldAt 8 64 w) (bitAt 1 w) (bitAt 0 w))
  | 29 => some (.vmulwzScalar (fieldAt 20 64 w) (fieldAt 14 64 w) (fieldAt 8 64 w) (bitAt 1 w) (bitAt 0 w))
  | 30 => some (.vdivScalar (fieldAt 20 64 w) (fieldAt 14 64 w) (fieldAt 8 64 w) (bitAt 1 w) (bitAt 0 w))
  | 31 => some (.vdivzScalar (fieldAt 20 64 w) (fieldAt 14 64 w) (fieldAt 8 64 w) (bitAt 1 w) (bitAt 0 w))
  | 32 => some (.vremScalar (fieldAt 20 64 w) (fieldAt 14 64 w) (fieldAt 8 64 w) (bitAt 1 w) (bitAt 0 w))
  | 33 => some (.vremzScalar (fieldAt 20 64 w) (fieldAt 14 64 w) (fieldAt 8 64 w) (bitAt 1 w) (bitAt 0 w))
  | 34 => if w / 2 % 2 = 0 ∧ w / 16384 % 64 = 0 then some (.vmovScalar (fieldAt 20 64 w) (fieldAt 8 64 w) (bitAt 0 w)) else none
  | 35 => some (.vaddr (fieldAt 20 64 w) (fieldAt 14 64 w) (fieldAt 8 64 w) (bitAt 1 w) (bitAt 0 w))
  | 36 => some (.vdot4Scalar (fieldAt 20 64 w) (fieldAt 14 64 w) (fieldAt 8 64 w) (bitAt 1 w) (bitAt 0 w))
  | 37 => some (.vdot4zScalar (fieldAt 20 64 w) (fieldAt 14 64 w) (fieldAt 8 64 w) (bitAt 1 w) (bitAt 0 w))
  | _ => none

/-- Major 0x12 (R46, R56). -/
def decode12 (w : Nat) : Option Instr :=
  match w / 2048 % 8 with
  | 0 => some (.vaddi (fieldAt 20 64 w) (fieldAt 14 64 w) (BitVec.ofNat 10 (w / 2)) (bitAt 0 w))
  | 1 => some (.vandi (fieldAt 20 64 w) (fieldAt 14 64 w) (BitVec.ofNat 10 (w / 2)) (bitAt 0 w))
  | 2 => some (.vori (fieldAt 20 64 w) (fieldAt 14 64 w) (BitVec.ofNat 10 (w / 2)) (bitAt 0 w))
  | 3 => some (.vxori (fieldAt 20 64 w) (fieldAt 14 64 w) (BitVec.ofNat 10 (w / 2)) (bitAt 0 w))
  | 4 => some (.vshli (fieldAt 20 64 w) (fieldAt 14 64 w) (BitVec.ofNat 10 (w / 2)) (bitAt 0 w))
  | 5 => some (.vshri (fieldAt 20 64 w) (fieldAt 14 64 w) (BitVec.ofNat 10 (w / 2)) (bitAt 0 w))
  | 6 => some (.vsrai (fieldAt 20 64 w) (fieldAt 14 64 w) (BitVec.ofNat 10 (w / 2)) (bitAt 0 w))
  | 7 => if w % 2 = 0 ∧ w / 16384 % 64 = 0 then some (.vmovi (fieldAt 20 64 w) (BitVec.ofNat 10 (w / 2))) else none
  | _ => none

/-- Major 0x13 (R46, R56). -/
def decode13 (w : Nat) : Option Instr :=
  match w / 4 % 64 with
  | 0 => if w / 8388608 % 8 = 0 then some (.vceq (fieldAt 20 8 w) (fieldAt 14 64 w) (fieldAt 8 64 w) (bitAt 1 w) (bitAt 0 w)) else none
  | 1 => if w / 8388608 % 8 = 0 then some (.vcne (fieldAt 20 8 w) (fieldAt 14 64 w) (fieldAt 8 64 w) (bitAt 1 w) (bitAt 0 w)) else none
  | 2 => if w / 8388608 % 8 = 0 then some (.vclt (fieldAt 20 8 w) (fieldAt 14 64 w) (fieldAt 8 64 w) (bitAt 1 w) (bitAt 0 w)) else none
  | 3 => if w / 8388608 % 8 = 0 then some (.vcle (fieldAt 20 8 w) (fieldAt 14 64 w) (fieldAt 8 64 w) (bitAt 1 w) (bitAt 0 w)) else none
  | 4 => if w / 8388608 % 8 = 0 then some (.vcltz (fieldAt 20 8 w) (fieldAt 14 64 w) (fieldAt 8 64 w) (bitAt 1 w) (bitAt 0 w)) else none
  | 5 => if w / 8388608 % 8 = 0 then some (.vclez (fieldAt 20 8 w) (fieldAt 14 64 w) (fieldAt 8 64 w) (bitAt 1 w) (bitAt 0 w)) else none
  | 6 => if w / 8388608 % 8 = 0 then some (.fceq (fieldAt 20 8 w) (fieldAt 14 64 w) (fieldAt 8 64 w) (bitAt 1 w) (bitAt 0 w)) else none
  | 7 => if w / 8388608 % 8 = 0 then some (.fcne (fieldAt 20 8 w) (fieldAt 14 64 w) (fieldAt 8 64 w) (bitAt 1 w) (bitAt 0 w)) else none
  | 8 => if w / 8388608 % 8 = 0 then some (.fclt (fieldAt 20 8 w) (fieldAt 14 64 w) (fieldAt 8 64 w) (bitAt 1 w) (bitAt 0 w)) else none
  | 9 => if w / 8388608 % 8 = 0 then some (.fcle (fieldAt 20 8 w) (fieldAt 14 64 w) (fieldAt 8 64 w) (bitAt 1 w) (bitAt 0 w)) else none
  | 10 => if w / 8388608 % 8 = 0 then some (.fcun (fieldAt 20 8 w) (fieldAt 14 64 w) (fieldAt 8 64 w) (bitAt 1 w) (bitAt 0 w)) else none
  | _ => none

/-- Major 0x14 (R46, R56). -/
def decode14 (w : Nat) : Option Instr :=
  match w / 4 % 64 with
  | 0 => some (.shfl (fieldAt 20 64 w) (fieldAt 14 64 w) (fieldAt 8 64 w) (bitAt 1 w) (bitAt 0 w))
  | 1 => some (.shflup (fieldAt 20 64 w) (fieldAt 14 64 w) (fieldAt 8 64 w) (bitAt 1 w) (bitAt 0 w))
  | 2 => some (.shfldn (fieldAt 20 64 w) (fieldAt 14 64 w) (fieldAt 8 64 w) (bitAt 1 w) (bitAt 0 w))
  | 3 => some (.shflx (fieldAt 20 64 w) (fieldAt 14 64 w) (fieldAt 8 64 w) (bitAt 1 w) (bitAt 0 w))
  | 4 => some (.qswz (fieldAt 20 64 w) (fieldAt 14 64 w) (fieldAt 8 64 w) (bitAt 1 w) (bitAt 0 w))
  | 5 => some (.bcast (fieldAt 20 64 w) (fieldAt 14 64 w) (fieldAt 8 64 w) (bitAt 1 w) (bitAt 0 w))
  | 6 => some (.vrdlane (fieldAt 20 64 w) (fieldAt 14 64 w) (fieldAt 8 64 w) (bitAt 1 w) (bitAt 0 w))
  | 7 => some (.vwrlane (fieldAt 20 64 w) (fieldAt 14 64 w) (fieldAt 8 64 w) (bitAt 1 w) (bitAt 0 w))
  | 8 => if w % 2 = 0 ∧ w / 256 % 64 = 0 then some (.ballot (fieldAt 20 64 w) (fieldAt 14 64 w) (bitAt 1 w)) else none
  | 9 => if w % 2 = 0 ∧ w / 256 % 64 = 0 then some (.wradd (fieldAt 20 64 w) (fieldAt 14 64 w) (bitAt 1 w)) else none
  | 10 => if w % 2 = 0 ∧ w / 256 % 64 = 0 then some (.wrmin (fieldAt 20 64 w) (fieldAt 14 64 w) (bitAt 1 w)) else none
  | 11 => if w % 2 = 0 ∧ w / 256 % 64 = 0 then some (.wrmax (fieldAt 20 64 w) (fieldAt 14 64 w) (bitAt 1 w)) else none
  | 12 => if w % 2 = 0 ∧ w / 256 % 64 = 0 then some (.wrminz (fieldAt 20 64 w) (fieldAt 14 64 w) (bitAt 1 w)) else none
  | 13 => if w % 2 = 0 ∧ w / 256 % 64 = 0 then some (.wrmaxz (fieldAt 20 64 w) (fieldAt 14 64 w) (bitAt 1 w)) else none
  | 14 => if w % 2 = 0 ∧ w / 256 % 64 = 0 then some (.wrfadd (fieldAt 20 64 w) (fieldAt 14 64 w) (bitAt 1 w)) else none
  | 15 => if w % 2 = 0 ∧ w / 256 % 64 = 0 then some (.wrand (fieldAt 20 64 w) (fieldAt 14 64 w) (bitAt 1 w)) else none
  | 16 => if w % 2 = 0 ∧ w / 256 % 64 = 0 then some (.wror (fieldAt 20 64 w) (fieldAt 14 64 w) (bitAt 1 w)) else none
  | 17 => if w % 2 = 0 ∧ w / 256 % 64 = 0 then some (.wrxor (fieldAt 20 64 w) (fieldAt 14 64 w) (bitAt 1 w)) else none
  | _ => none

/-- Major 0x15 (R46, R56). -/
def decode15 (w : Nat) : Option Instr :=
  match w / 4 % 64 with
  | 0 => some (.fadd (fieldAt 20 64 w) (fieldAt 14 64 w) (fieldAt 8 64 w) (bitAt 1 w) (bitAt 0 w))
  | 1 => some (.fsub (fieldAt 20 64 w) (fieldAt 14 64 w) (fieldAt 8 64 w) (bitAt 1 w) (bitAt 0 w))
  | 2 => some (.fmul (fieldAt 20 64 w) (fieldAt 14 64 w) (fieldAt 8 64 w) (bitAt 1 w) (bitAt 0 w))
  | 3 => some (.fmin (fieldAt 20 64 w) (fieldAt 14 64 w) (fieldAt 8 64 w) (bitAt 1 w) (bitAt 0 w))
  | 4 => some (.fmax (fieldAt 20 64 w) (fieldAt 14 64 w) (fieldAt 8 64 w) (bitAt 1 w) (bitAt 0 w))
  | 5 => if w % 2 = 0 ∧ w / 256 % 64 = 0 then some (.fabs (fieldAt 20 64 w) (fieldAt 14 64 w) (bitAt 1 w)) else none
  | 6 => if w % 2 = 0 ∧ w / 256 % 64 = 0 then some (.fneg (fieldAt 20 64 w) (fieldAt 14 64 w) (bitAt 1 w)) else none
  | 7 => some (.fsgnj (fieldAt 20 64 w) (fieldAt 14 64 w) (fieldAt 8 64 w) (bitAt 1 w) (bitAt 0 w))
  | 8 => if w % 2 = 0 ∧ w / 256 % 64 = 0 then some (.frnd (fieldAt 20 64 w) (fieldAt 14 64 w) (bitAt 1 w)) else none
  | 9 => some (.fscaleb (fieldAt 20 64 w) (fieldAt 14 64 w) (fieldAt 8 64 w) (bitAt 1 w) (bitAt 0 w))
  | 10 => some (.hadd2 (fieldAt 20 64 w) (fieldAt 14 64 w) (fieldAt 8 64 w) (bitAt 1 w) (bitAt 0 w))
  | 11 => some (.hsub2 (fieldAt 20 64 w) (fieldAt 14 64 w) (fieldAt 8 64 w) (bitAt 1 w) (bitAt 0 w))
  | 12 => some (.hmul2 (fieldAt 20 64 w) (fieldAt 14 64 w) (fieldAt 8 64 w) (bitAt 1 w) (bitAt 0 w))
  | 13 => some (.badd2 (fieldAt 20 64 w) (fieldAt 14 64 w) (fieldAt 8 64 w) (bitAt 1 w) (bitAt 0 w))
  | 14 => some (.bsub2 (fieldAt 20 64 w) (fieldAt 14 64 w) (fieldAt 8 64 w) (bitAt 1 w) (bitAt 0 w))
  | 15 => some (.bmul2 (fieldAt 20 64 w) (fieldAt 14 64 w) (fieldAt 8 64 w) (bitAt 1 w) (bitAt 0 w))
  | 16 => some (.dadd (fieldAt 20 64 w) (fieldAt 14 64 w) (fieldAt 8 64 w) (bitAt 1 w) (bitAt 0 w))
  | 17 => some (.dsub (fieldAt 20 64 w) (fieldAt 14 64 w) (fieldAt 8 64 w) (bitAt 1 w) (bitAt 0 w))
  | 18 => some (.dmul (fieldAt 20 64 w) (fieldAt 14 64 w) (fieldAt 8 64 w) (bitAt 1 w) (bitAt 0 w))
  | _ => none

/-- Major 0x16 (R46, R56). -/
def decode16 (w : Nat) : Option Instr :=
  match w / 4 % 64 with
  | 0 => some (.faddScalar (fieldAt 20 64 w) (fieldAt 14 64 w) (fieldAt 8 64 w) (bitAt 1 w) (bitAt 0 w))
  | 1 => some (.fsubScalar (fieldAt 20 64 w) (fieldAt 14 64 w) (fieldAt 8 64 w) (bitAt 1 w) (bitAt 0 w))
  | 2 => some (.fmulScalar (fieldAt 20 64 w) (fieldAt 14 64 w) (fieldAt 8 64 w) (bitAt 1 w) (bitAt 0 w))
  | 3 => some (.fminScalar (fieldAt 20 64 w) (fieldAt 14 64 w) (fieldAt 8 64 w) (bitAt 1 w) (bitAt 0 w))
  | 4 => some (.fmaxScalar (fieldAt 20 64 w) (fieldAt 14 64 w) (fieldAt 8 64 w) (bitAt 1 w) (bitAt 0 w))
  | 7 => some (.fsgnjScalar (fieldAt 20 64 w) (fieldAt 14 64 w) (fieldAt 8 64 w) (bitAt 1 w) (bitAt 0 w))
  | 9 => some (.fscalebScalar (fieldAt 20 64 w) (fieldAt 14 64 w) (fieldAt 8 64 w) (bitAt 1 w) (bitAt 0 w))
  | 10 => some (.hadd2Scalar (fieldAt 20 64 w) (fieldAt 14 64 w) (fieldAt 8 64 w) (bitAt 1 w) (bitAt 0 w))
  | 11 => some (.hsub2Scalar (fieldAt 20 64 w) (fieldAt 14 64 w) (fieldAt 8 64 w) (bitAt 1 w) (bitAt 0 w))
  | 12 => some (.hmul2Scalar (fieldAt 20 64 w) (fieldAt 14 64 w) (fieldAt 8 64 w) (bitAt 1 w) (bitAt 0 w))
  | 13 => some (.badd2Scalar (fieldAt 20 64 w) (fieldAt 14 64 w) (fieldAt 8 64 w) (bitAt 1 w) (bitAt 0 w))
  | 14 => some (.bsub2Scalar (fieldAt 20 64 w) (fieldAt 14 64 w) (fieldAt 8 64 w) (bitAt 1 w) (bitAt 0 w))
  | 15 => some (.bmul2Scalar (fieldAt 20 64 w) (fieldAt 14 64 w) (fieldAt 8 64 w) (bitAt 1 w) (bitAt 0 w))
  | 16 => some (.daddScalar (fieldAt 20 64 w) (fieldAt 14 64 w) (fieldAt 8 64 w) (bitAt 1 w) (bitAt 0 w))
  | 17 => some (.dsubScalar (fieldAt 20 64 w) (fieldAt 14 64 w) (fieldAt 8 64 w) (bitAt 1 w) (bitAt 0 w))
  | 18 => some (.dmulScalar (fieldAt 20 64 w) (fieldAt 14 64 w) (fieldAt 8 64 w) (bitAt 1 w) (bitAt 0 w))
  | _ => none

/-- Major 0x17 (R46, R56). -/
def decode17 (w : Nat) : Option Instr :=
  match w / 4 % 64 with
  | 0 => if w % 2 = 0 ∧ w / 256 % 64 = 0 then some (.rcp (fieldAt 20 64 w) (fieldAt 14 64 w) (bitAt 1 w)) else none
  | 1 => if w % 2 = 0 ∧ w / 256 % 64 = 0 then some (.rsq (fieldAt 20 64 w) (fieldAt 14 64 w) (bitAt 1 w)) else none
  | 2 => if w % 2 = 0 ∧ w / 256 % 64 = 0 then some (.sqrtF (fieldAt 20 64 w) (fieldAt 14 64 w) (bitAt 1 w)) else none
  | 3 => if w % 2 = 0 ∧ w / 256 % 64 = 0 then some (.log2F (fieldAt 20 64 w) (fieldAt 14 64 w) (bitAt 1 w)) else none
  | 4 => if w % 2 = 0 ∧ w / 256 % 64 = 0 then some (.exp2F (fieldAt 20 64 w) (fieldAt 14 64 w) (bitAt 1 w)) else none
  | 5 => some (.fdiv (fieldAt 20 64 w) (fieldAt 14 64 w) (fieldAt 8 64 w) (bitAt 1 w) (bitAt 0 w))
  | 6 => if w % 2 = 0 ∧ w / 256 % 64 = 0 then some (.dsqrt (fieldAt 20 64 w) (fieldAt 14 64 w) (bitAt 1 w)) else none
  | 7 => some (.ddiv (fieldAt 20 64 w) (fieldAt 14 64 w) (fieldAt 8 64 w) (bitAt 1 w) (bitAt 0 w))
  | _ => none

/-- Major 0x18 (R46, R56). -/
def decode18 (w : Nat) : Option Instr :=
  match w % 2 with
  | 0 => some (.ffma (fieldAt 20 64 w) (fieldAt 14 64 w) (fieldAt 8 64 w) (fieldAt 2 64 w) (bitAt 1 w))
  | 1 => some (.hfma2 (fieldAt 20 64 w) (fieldAt 14 64 w) (fieldAt 8 64 w) (fieldAt 2 64 w) (bitAt 1 w))
  | _ => none

/-- Major 0x19 (R46, R56). -/
def decode19 (w : Nat) : Option Instr :=
  match w % 2 with
  | 0 => some (.bfma2 (fieldAt 20 64 w) (fieldAt 14 64 w) (fieldAt 8 64 w) (fieldAt 2 64 w) (bitAt 1 w))
  | 1 => some (.dfma (fieldAt 20 64 w) (fieldAt 14 64 w) (fieldAt 8 64 w) (fieldAt 2 64 w) (bitAt 1 w))
  | _ => none

/-- Major 0x1A (R46, R56). -/
def decode1A (w : Nat) : Option Instr :=
  match w % 2 with
  | 0 => some (.exp2x (fieldAt 20 64 w) (fieldAt 14 64 w) (fieldAt 8 64 w) (fieldAt 2 64 w) (bitAt 1 w))
  | 1 => some (.vmad (fieldAt 20 64 w) (fieldAt 14 64 w) (fieldAt 8 64 w) (fieldAt 2 64 w) (bitAt 1 w))
  | _ => none

/-- Major 0x1B (R46, R56). -/
def decode1B (w : Nat) : Option Instr :=
  if w / 4 % 8 = 0 then some (.vsel (fieldAt 20 64 w) (fieldAt 14 64 w) (fieldAt 8 64 w) (fieldAt 5 8 w) (bitAt 1 w) (bitAt 0 w)) else none

/-- Major 0x1C (R46, R56). -/
def decode1C (w : Nat) : Option Instr :=
  match w / 2 % 4 with
  | 0 => some (.ld (fieldAt 20 64 w) (fieldAt 14 64 w) (fieldAt 8 64 w) (fieldAt 5 8 w) (fieldAt 3 4 w) (bitAt 0 w))
  | 1 => some (.ldNt (fieldAt 20 64 w) (fieldAt 14 64 w) (fieldAt 8 64 w) (fieldAt 5 8 w) (fieldAt 3 4 w) (bitAt 0 w))
  | 2 => some (.ldAcq (fieldAt 20 64 w) (fieldAt 14 64 w) (fieldAt 8 64 w) (fieldAt 5 8 w) (fieldAt 3 4 w) (bitAt 0 w))
  | _ => none

/-- Major 0x1D (R46, R56). -/
def decode1D (w : Nat) : Option Instr :=
  match w / 2 % 4 with
  | 0 => some (.st (fieldAt 20 64 w) (fieldAt 14 64 w) (fieldAt 8 64 w) (fieldAt 5 8 w) (fieldAt 3 4 w) (bitAt 0 w))
  | 1 => some (.stNt (fieldAt 20 64 w) (fieldAt 14 64 w) (fieldAt 8 64 w) (fieldAt 5 8 w) (fieldAt 3 4 w) (bitAt 0 w))
  | 2 => some (.stRel (fieldAt 20 64 w) (fieldAt 14 64 w) (fieldAt 8 64 w) (fieldAt 5 8 w) (fieldAt 3 4 w) (bitAt 0 w))
  | _ => none

/-- Major 0x1E (R46, R56). -/
def decode1E (w : Nat) : Option Instr :=
  match w / 2048 % 8 with
  | 0 => if w / 16384 % 64 = 0 then some (.ldp32 (fieldAt 20 64 w) (BitVec.ofNat 10 (w / 2)) (bitAt 0 w)) else none
  | 1 => if w / 16384 % 64 = 0 then some (.ldp64 (fieldAt 20 64 w) (BitVec.ofNat 10 (w / 2)) (bitAt 0 w)) else none
  | 2 => if w / 16384 % 64 = 0 then some (.ldp128 (fieldAt 20 64 w) (BitVec.ofNat 10 (w / 2)) (bitAt 0 w)) else none
  | 3 => if w / 16384 % 64 = 0 then some (.stp32 (fieldAt 20 64 w) (BitVec.ofNat 10 (w / 2)) (bitAt 0 w)) else none
  | 4 => if w / 16384 % 64 = 0 then some (.stp64 (fieldAt 20 64 w) (BitVec.ofNat 10 (w / 2)) (bitAt 0 w)) else none
  | 5 => if w / 16384 % 64 = 0 then some (.stp128 (fieldAt 20 64 w) (BitVec.ofNat 10 (w / 2)) (bitAt 0 w)) else none
  | _ => none

/-- Major 0x1F (R46, R56). -/
noncomputable def decode1F (w : Nat) : Option Instr :=
  match w / 2 % 4 with
  | 0 => if w / 8 % 32 = 0 ∧ w / 1048576 % 64 = 0 then some (.pref (fieldAt 14 64 w) (fieldAt 8 64 w) (bitAt 0 w)) else none
  | 1 => if w / 8 % 32 = 0 ∧ w / 1048576 % 64 = 0 then some (.invl (fieldAt 14 64 w) (fieldAt 8 64 w) (bitAt 0 w)) else none
  | 2 => if w / 8 % 32 = 0 ∧ w / 1048576 % 64 = 0 then some (.wbk (fieldAt 14 64 w) (fieldAt 8 64 w) (bitAt 0 w)) else none
  | 3 => if w / 32 % 8 = 0 ∧ w / 1048576 % 64 = 0 then some (.zero (fieldAt 14 64 w) (fieldAt 8 64 w) (fieldAt 3 4 w) (bitAt 0 w)) else none
  | _ => none

/-- Major 0x20 (R46, R56). -/
noncomputable def decode20 (w : Nat) : Option Instr :=
  some (.cvt (fieldAt 20 64 w) (fieldAt 14 64 w) (fieldAt 9 32 w) (fieldAt 4 32 w) (fieldAt 2 4 w) (bitAt 1 w) (bitAt 0 w))

/-- Major 0x22 (R46, R56). -/
noncomputable def decode22 (w : Nat) : Option Instr :=
  match w / 4194304 % 16 with
  | 0 => if w % 2 = 0 ∧ w / 8 % 512 = 64 then some (.tsrld (fieldAt 18 16 w) (fieldAt 12 64 w) (fieldAt 1 4 w)) else none
  | 1 => if w % 2 = 0 ∧ w / 8 % 512 = 64 then some (.tsrst (fieldAt 18 16 w) (fieldAt 12 64 w) (fieldAt 1 4 w)) else none
  | 2 => if w % 8 = 0 ∧ w / 512 % 8 = 1 then some (.tsrset (fieldAt 18 16 w) (fieldAt 12 64 w) (fieldAt 3 64 w)) else none
  | 3 => if w % 8 = 0 ∧ w / 512 % 8 = 1 then some (.tsrget (fieldAt 18 16 w) (fieldAt 12 64 w) (fieldAt 3 64 w)) else none
  | _ => none

/-- Major 0x23 (R46, R56). -/
noncomputable def decode23 (w : Nat) : Option Instr :=
  match w / 4194304 % 16 with
  | 0 => some (.tload (fieldAt 18 16 w) (fieldAt 12 64 w) (fieldAt 9 8 w) (fieldAt 3 64 w) (fieldAt 1 4 w) (bitAt 0 w))
  | 1 => some (.tstore (fieldAt 18 16 w) (fieldAt 12 64 w) (fieldAt 9 8 w) (fieldAt 3 64 w) (fieldAt 1 4 w) (bitAt 0 w))
  | 2 => some (.tgather (fieldAt 18 16 w) (fieldAt 12 64 w) (fieldAt 9 8 w) (fieldAt 3 64 w) (fieldAt 1 4 w) (bitAt 0 w))
  | 3 => some (.tscatter (fieldAt 18 16 w) (fieldAt 12 64 w) (fieldAt 9 8 w) (fieldAt 3 64 w) (fieldAt 1 4 w) (bitAt 0 w))
  | 4 => if w / 2 % 256 = 0 then some (.tzero (fieldAt 18 16 w) (fieldAt 12 64 w) (fieldAt 9 8 w) (bitAt 0 w)) else none
  | 5 => if w / 2 % 4 = 0 ∧ w / 128 % 4 = 0 then some (.tcopy (fieldAt 18 16 w) (fieldAt 12 64 w) (fieldAt 9 8 w) (fieldAt 3 16 w) (bitAt 0 w)) else none
  | _ => none

/-- Major 0x24 (R46, R56). -/
noncomputable def decode24 (w : Nat) : Option Instr :=
  match w / 4194304 % 16 with
  | 0 => if w % 8 = 0 ∧ w / 512 % 8 = 1 ∧ w / 262144 % 16 = 0 then some (.gedge (fieldAt 12 64 w) (fieldAt 3 64 w)) else none
  | 1 => if w % 4096 = 512 ∧ w / 262144 % 16 = 0 then some (.grel (fieldAt 12 64 w)) else none
  | 2 => if w % 4096 = 512 ∧ w / 262144 % 16 = 0 then some (.greset (fieldAt 12 64 w)) else none
  | 3 => if w / 8 % 512 = 64 ∧ w / 262144 % 16 = 0 then some (.gbin (fieldAt 12 64 w) (fieldAt 1 4 w) (bitAt 0 w)) else none
  | 4 => if w % 8 = 0 ∧ w / 512 % 8 = 1 ∧ w / 262144 % 16 = 0 then some (.gstat (fieldAt 12 64 w) (fieldAt 3 64 w)) else none
  | _ => none

/-- Major 0x25 (R46, R56). -/
noncomputable def decode25 (w : Nat) : Option Instr :=
  match w / 4194304 % 16 with
  | 0 => if w / 4 % 16384 = 0 then some (.waitc (fieldAt 16 64 w) (fieldAt 0 4 w)) else none
  | 1 => if w / 4 % 4 = 0 ∧ w / 1024 % 4096 = 0 then some (.rdcnt (fieldAt 4 64 w) (fieldAt 0 4 w)) else none
  | _ => none

/-- Major 0x26 (R46, R56). -/
noncomputable def decode26 (w : Nat) : Option Instr :=
  match w / 4194304 % 16 with
  | 0 => if w / 2 % 256 = 0 ∧ w / 524288 % 8 = 0 then some (.mlds (fieldAt 15 16 w) (fieldAt 9 64 w) (bitAt 0 w)) else none
  | 1 => if w / 2 % 2097152 = 0 then some (.mswap (bitAt 0 w)) else none
  | 2 => if w / 2 % 256 = 0 ∧ w / 32768 % 128 = 0 then some (.mshape (fieldAt 9 64 w) (bitAt 0 w)) else none
  | 3 => if w / 2 % 256 = 0 ∧ w / 32768 % 128 = 0 then some (.mcfg (fieldAt 9 64 w) (bitAt 0 w)) else none
  | _ => none

/-- Major 0x27 (R46, R56). -/
noncomputable def decode27 (w : Nat) : Option Instr :=
  match w / 4194304 % 16 with
  | 0 => if w / 32768 % 16 = 0 then some (.mmul (fieldAt 19 8 w) (fieldAt 9 64 w) (fieldAt 3 64 w) (fieldAt 1 4 w) (bitAt 0 w)) else none
  | 1 => if w / 32768 % 16 = 0 then some (.mmulz (fieldAt 19 8 w) (fieldAt 9 64 w) (fieldAt 3 64 w) (fieldAt 1 4 w) (bitAt 0 w)) else none
  | 2 => if w / 32768 % 16 = 0 then some (.mmult (fieldAt 19 8 w) (fieldAt 9 64 w) (fieldAt 3 64 w) (fieldAt 1 4 w) (bitAt 0 w)) else none
  | _ => none

/-- Major 0x28 (R46, R56). -/
noncomputable def decode28 (w : Nat) : Option Instr :=
  match w / 4194304 % 16 with
  | 0 => if w / 4 % 128 = 0 then some (.mdrain (fieldAt 19 8 w) (fieldAt 15 16 w) (fieldAt 9 64 w) (bitAt 1 w) (bitAt 0 w)) else none
  | 1 => if w / 2 % 262144 = 0 then some (.mzero (fieldAt 19 8 w) (bitAt 0 w)) else none
  | 2 => if w % 2 = 0 ∧ w / 262144 % 2 = 0 then some (.mrdrow (fieldAt 19 8 w) (fieldAt 15 8 w) (fieldAt 9 64 w) (fieldAt 3 64 w) (fieldAt 1 4 w)) else none
  | 3 => if w % 512 = 0 ∧ w / 32768 % 128 = 0 then some (.mstat (fieldAt 9 64 w)) else none
  | _ => none

/-- Major 0x29 (R46, R56). -/
noncomputable def decode29 (w : Nat) : Option Instr :=
  match w / 32 % 8 with
  | 0 => some (.aadd (fieldAt 20 64 w) (fieldAt 14 64 w) (fieldAt 8 64 w) (fieldAt 2 8 w) (bitAt 1 w) (bitAt 0 w))
  | 1 => some (.amin (fieldAt 20 64 w) (fieldAt 14 64 w) (fieldAt 8 64 w) (fieldAt 2 8 w) (bitAt 1 w) (bitAt 0 w))
  | 2 => some (.amax (fieldAt 20 64 w) (fieldAt 14 64 w) (fieldAt 8 64 w) (fieldAt 2 8 w) (bitAt 1 w) (bitAt 0 w))
  | 3 => some (.aand (fieldAt 20 64 w) (fieldAt 14 64 w) (fieldAt 8 64 w) (fieldAt 2 8 w) (bitAt 1 w) (bitAt 0 w))
  | 4 => some (.aor (fieldAt 20 64 w) (fieldAt 14 64 w) (fieldAt 8 64 w) (fieldAt 2 8 w) (bitAt 1 w) (bitAt 0 w))
  | 5 => some (.axor (fieldAt 20 64 w) (fieldAt 14 64 w) (fieldAt 8 64 w) (fieldAt 2 8 w) (bitAt 1 w) (bitAt 0 w))
  | 6 => some (.aexch (fieldAt 20 64 w) (fieldAt 14 64 w) (fieldAt 8 64 w) (fieldAt 2 8 w) (bitAt 1 w) (bitAt 0 w))
  | 7 => some (.aincw (fieldAt 20 64 w) (fieldAt 14 64 w) (fieldAt 8 64 w) (fieldAt 2 8 w) (bitAt 1 w) (bitAt 0 w))
  | _ => none

/-- Major 0x2A (R46, R56). -/
noncomputable def decode2A (w : Nat) : Option Instr :=
  match w / 32 % 8 with
  | 0 => some (.acas (fieldAt 20 64 w) (fieldAt 14 64 w) (fieldAt 8 64 w) (fieldAt 2 8 w) (bitAt 1 w) (bitAt 0 w))
  | 1 => some (.adecw (fieldAt 20 64 w) (fieldAt 14 64 w) (fieldAt 8 64 w) (fieldAt 2 8 w) (bitAt 1 w) (bitAt 0 w))
  | _ => none

/-- Major 0x2B (R46, R56). -/
noncomputable def decode2B (w : Nat) : Option Instr :=
  match w / 32 % 8 with
  | 0 => if w / 1048576 % 64 = 0 then some (.radd (fieldAt 14 64 w) (fieldAt 8 64 w) (fieldAt 2 8 w) (bitAt 1 w) (bitAt 0 w)) else none
  | 1 => if w / 1048576 % 64 = 0 then some (.rmin (fieldAt 14 64 w) (fieldAt 8 64 w) (fieldAt 2 8 w) (bitAt 1 w) (bitAt 0 w)) else none
  | 2 => if w / 1048576 % 64 = 0 then some (.rmax (fieldAt 14 64 w) (fieldAt 8 64 w) (fieldAt 2 8 w) (bitAt 1 w) (bitAt 0 w)) else none
  | 3 => if w / 1048576 % 64 = 0 then some (.rand (fieldAt 14 64 w) (fieldAt 8 64 w) (fieldAt 2 8 w) (bitAt 1 w) (bitAt 0 w)) else none
  | 4 => if w / 1048576 % 64 = 0 then some (.ror (fieldAt 14 64 w) (fieldAt 8 64 w) (fieldAt 2 8 w) (bitAt 1 w) (bitAt 0 w)) else none
  | 5 => if w / 1048576 % 64 = 0 then some (.rxor (fieldAt 14 64 w) (fieldAt 8 64 w) (fieldAt 2 8 w) (bitAt 1 w) (bitAt 0 w)) else none
  | _ => none

/-- Major 0x2C (R46, R56). -/
noncomputable def decode2C (w : Nat) : Option Instr :=
  match w / 4194304 % 16 with
  | 0 => if w % 16 = 0 then some (.llock (fieldAt 16 64 w) (fieldAt 10 64 w) (fieldAt 4 64 w)) else none
  | 1 => if w % 16 = 0 ∧ w / 1024 % 64 = 0 then some (.ltry (fieldAt 16 64 w) (fieldAt 4 64 w)) else none
  | 2 => if w % 65536 = 0 then some (.lunlock (fieldAt 16 64 w)) else none
  | 3 => if w % 16 = 0 ∧ w / 1024 % 64 = 0 then some (.lstat (fieldAt 16 64 w) (fieldAt 4 64 w)) else none
  | 4 => if w % 16 = 0 then some (.lyield (fieldAt 16 64 w) (fieldAt 10 64 w) (fieldAt 4 64 w)) else none
  | _ => none

/-- Major 0x2D (R46, R56). -/
noncomputable def decode2D (w : Nat) : Option Instr :=
  match w / 4194304 % 16 with
  | 0 => some (.waitcmp (fieldAt 16 64 w) (fieldAt 10 64 w) (fieldAt 4 64 w) (fieldAt 0 16 w))
  | _ => none

/-- Major 0x2E (R46, R56). -/
noncomputable def decode2E (w : Nat) : Option Instr :=
  match w / 4194304 % 16 with
  | 0 => if w / 1024 % 64 = 0 then some (.barw (fieldAt 16 64 w) (fieldAt 4 64 w) (fieldAt 0 16 w)) else none
  | 1 => if w / 1024 % 64 = 0 then some (.barg (fieldAt 16 64 w) (fieldAt 4 64 w) (fieldAt 0 16 w)) else none
  | 2 => if w / 8 % 2 = 0 then some (.pbarv (fieldAt 16 64 w) (fieldAt 10 64 w) (fieldAt 4 64 w) (fieldAt 0 8 w)) else none
  | 3 => if w / 8 % 128 = 0 then some (.pbarw (fieldAt 16 64 w) (fieldAt 10 64 w) (fieldAt 0 8 w)) else none
  | 4 => if w % 1024 = 0 then some (.pbarinit (fieldAt 16 64 w) (fieldAt 10 64 w)) else none
  | _ => none

/-- Major 0x2F (R46, R56). -/
noncomputable def decode2F (w : Nat) : Option Instr :=
  match w / 4194304 % 16 with
  | 0 => if w % 4 = 0 ∧ w / 16 % 64 = 0 ∧ w / 65536 % 64 = 0 then some (.fence (fieldAt 10 64 w) (BitVec.ofNat 2 (w / 4))) else none
  | 1 => if w % 1024 = 0 then some (.bindR (fieldAt 16 64 w) (fieldAt 10 64 w)) else none
  | 2 => if w % 1024 = 0 then some (.unbind (fieldAt 16 64 w) (fieldAt 10 64 w)) else none
  | 3 => if w / 16 % 4096 = 0 then some (.acq (fieldAt 16 64 w) (fieldAt 0 16 w)) else none
  | 4 => if w / 16 % 4096 = 0 then some (.rel (fieldAt 16 64 w) (fieldAt 0 16 w)) else none
  | _ => none

/-- Major 0x30 (R46, R56). -/
noncomputable def decode30 (w : Nat) : Option Instr :=
  match w / 4194304 % 16 with
  | 0 => if w / 2 % 4 = 0 then some (.push (fieldAt 18 16 w) (fieldAt 12 64 w) (fieldAt 9 8 w) (fieldAt 3 64 w) (bitAt 0 w)) else none
  | 1 => if w / 512 % 8 = 2 ∧ w / 262144 % 16 = 0 then some (.put (fieldAt 12 64 w) (fieldAt 3 64 w) (fieldAt 1 4 w) (bitAt 0 w)) else none
  | 2 => if w / 512 % 8 = 2 ∧ w / 262144 % 16 = 0 then some (.get (fieldAt 12 64 w) (fieldAt 3 64 w) (fieldAt 1 4 w) (bitAt 0 w)) else none
  | 3 => if w / 8 % 512 = 64 ∧ w / 262144 % 16 = 0 then some (.cstep (fieldAt 12 64 w) (fieldAt 1 4 w) (bitAt 0 w)) else none
  | 4 => if w % 8 = 0 ∧ w / 512 % 8 = 1 ∧ w / 262144 % 16 = 0 then some (.cstat (fieldAt 12 64 w) (fieldAt 3 64 w)) else none
  | _ => none

/-- Major 0x34 (R46, R56). -/
noncomputable def decode34 (w : Nat) : Option Instr :=
  match w / 4194304 % 16 with
  | 0 => if w % 16 = 0 then some (.launch (fieldAt 16 64 w) (fieldAt 10 64 w) (fieldAt 4 64 w)) else none
  | 1 => if w / 4 % 16384 = 0 then some (.lease (fieldAt 16 64 w) (fieldAt 0 4 w)) else none
  | 2 => if w % 65536 = 0 then some (.setpl (fieldAt 16 64 w)) else none
  | _ => none

/-- Major 0x38 (R46, R56). -/
noncomputable def decode38 (w : Nat) : Option Instr :=
  match w / 1048576 % 64 with
  | 0 => if w / 256 % 64 = 0 then some (.csrr (fieldAt 14 64 w) (fieldAt 0 256 w)) else none
  | 1 => some (.csrw (fieldAt 14 64 w) (fieldAt 8 64 w) (fieldAt 0 256 w))
  | 2 => some (.csrset (fieldAt 14 64 w) (fieldAt 8 64 w) (fieldAt 0 256 w))
  | 3 => some (.csrclr (fieldAt 14 64 w) (fieldAt 8 64 w) (fieldAt 0 256 w))
  | _ => none

/-- Major 0x39 (R46, R56). -/
noncomputable def decode39 (w : Nat) : Option Instr :=
  match w / 1048576 % 64 with
  | 0 => if w % 256 = 0 ∧ w / 16384 % 64 = 0 then some (.tret (fieldAt 8 64 w)) else none
  | 1 => if w % 256 = 0 then some (.frec (fieldAt 14 64 w) (fieldAt 8 64 w)) else none
  | 2 => if w % 256 = 0 then some (.replay (fieldAt 14 64 w) (fieldAt 8 64 w)) else none
  | 3 => if w % 256 = 0 ∧ w / 16384 % 64 = 0 then some (.lkill (fieldAt 8 64 w)) else none
  | 4 => if w / 64 % 4 = 0 ∧ w / 16384 % 64 = 0 then some (.ctxkill (fieldAt 8 64 w) (fieldAt 0 64 w)) else none
  | _ => none

/-- Major 0x3A (R46, R56). -/
noncomputable def decode3A (w : Nat) : Option Instr :=
  match w / 1048576 % 64 with
  | 0 => if w / 4 % 64 = 0 then some (.tlbinv (fieldAt 14 64 w) (fieldAt 8 64 w) (fieldAt 0 4 w)) else none
  | 1 => if w / 8 % 32 = 0 ∧ w / 16384 % 64 = 0 then some (.pglock (fieldAt 8 64 w) (fieldAt 1 4 w) (bitAt 0 w)) else none
  | 2 => if w % 256 = 0 then some (.pgswap (fieldAt 14 64 w) (fieldAt 8 64 w)) else none
  | 3 => if w % 256 = 0 then some (.homemv (fieldAt 14 64 w) (fieldAt 8 64 w)) else none
  | _ => none

/-- Major 0x3B (R46, R56). -/
noncomputable def decode3B (w : Nat) : Option Instr :=
  match w / 1048576 % 64 with
  | 0 => if w / 2 % 128 = 0 then some (.halt (fieldAt 14 64 w) (fieldAt 8 64 w) (bitAt 0 w)) else none
  | 1 => if w / 2 % 128 = 0 then some (.stepW (fieldAt 14 64 w) (fieldAt 8 64 w) (bitAt 0 w)) else none
  | 2 => if w % 2 = 0 ∧ w / 16384 % 64 = 0 then some (.watch (fieldAt 8 64 w) (fieldAt 6 4 w) (fieldAt 3 8 w) (fieldAt 1 4 w)) else none
  | _ => none
/-- The instruction that a word lays out: its major, its code, its must-be-zero fields (R46, R47, R56). -/
noncomputable def rawDecode (w : Nat) : Option Instr :=
  match w / 67108864 with
  | 1 => decode01 w
  | 4 => decode04 w
  | 5 => decode05 w
  | 6 => decode06 w
  | 8 => decode08 w
  | 9 => decode09 w
  | 10 => decode0A w
  | 11 => decode0B w
  | 12 => decode0C w
  | 13 => decode0D w
  | 16 => decode10 w
  | 17 => decode11 w
  | 18 => decode12 w
  | 19 => decode13 w
  | 20 => decode14 w
  | 21 => decode15 w
  | 22 => decode16 w
  | 23 => decode17 w
  | 24 => decode18 w
  | 25 => decode19 w
  | 26 => decode1A w
  | 27 => decode1B w
  | 28 => decode1C w
  | 29 => decode1D w
  | 30 => decode1E w
  | 31 => decode1F w
  | 32 => decode20 w
  | 34 => decode22 w
  | 35 => decode23 w
  | 36 => decode24 w
  | 37 => decode25 w
  | 38 => decode26 w
  | 39 => decode27 w
  | 40 => decode28 w
  | 41 => decode29 w
  | 42 => decode2A w
  | 43 => decode2B w
  | 44 => decode2C w
  | 45 => decode2D w
  | 46 => decode2E w
  | 47 => decode2F w
  | 48 => decode30 w
  | 52 => decode34 w
  | 56 => decode38 w
  | 57 => decode39 w
  | 58 => decode3A w
  | 59 => decode3B w
  | _ => none

/-- The instruction of a 32-bit word: its layout, and every condition of R57 that the word alone decides. -/
noncomputable def decodeWord (w : BitVec 32) : Option Instr := (rawDecode w.toNat).filter Instr.wellFormed

/-- The 32-bit word stored little-endian in four bytes (R43, R4). -/
def wordOfBytes (b0 b1 b2 b3 : BitVec 8) : BitVec 32 :=
  BitVec.ofNat 32 (b0.toNat + 256 * b1.toNat + 65536 * b2.toNat + 16777216 * b3.toNat)

/-- The bytes of a word in memory, lowest address first. -/
def bytesOfWord (w : BitVec 32) : List (BitVec 8) :=
  [BitVec.ofNat 8 w.toNat, BitVec.ofNat 8 (w.toNat / 256), BitVec.ofNat 8 (w.toNat / 65536),
   BitVec.ofNat 8 (w.toNat / 16777216)]

/-- The instruction at the front of a string of bytes, with the bytes after it; none where the word is no instruction
or fewer than four bytes stand there. -/
noncomputable def decodeBytes : List (BitVec 8) → Option (Instr × List (BitVec 8))
  | b0 :: b1 :: b2 :: b3 :: rest => (decodeWord (wordOfBytes b0 b1 b2 b3)).map fun i => (i, rest)
  | _ => none

/-- The word of an instruction, from the same layouts; none for an operation or event without an encoding. -/
def word? : Instr → Option Nat
  | .himm p => some (67108864 + p.toNat)
  | .hblk p => some (71303168 + p.toNat)
  | .hmod p => some (75497472 + p.toNat)
  | .hsch p => some (79691776 + p.toNat)
  | .sadd d a b x y => some (268435456 + d.val * 1048576 + a.val * 16384 + b.val * 256 + x.toNat * 2 + y.toNat)
  | .ssub d a b x y => some (268435460 + d.val * 1048576 + a.val * 16384 + b.val * 256 + x.toNat * 2 + y.toNat)
  | .smul d a b x y => some (268435464 + d.val * 1048576 + a.val * 16384 + b.val * 256 + x.toNat * 2 + y.toNat)
  | .smulh d a b x y => some (268435468 + d.val * 1048576 + a.val * 16384 + b.val * 256 + x.toNat * 2 + y.toNat)
  | .smulhz d a b x y => some (268435472 + d.val * 1048576 + a.val * 16384 + b.val * 256 + x.toNat * 2 + y.toNat)
  | .sdiv d a b x y => some (268435476 + d.val * 1048576 + a.val * 16384 + b.val * 256 + x.toNat * 2 + y.toNat)
  | .sdivz d a b x y => some (268435480 + d.val * 1048576 + a.val * 16384 + b.val * 256 + x.toNat * 2 + y.toNat)
  | .srem d a b x y => some (268435484 + d.val * 1048576 + a.val * 16384 + b.val * 256 + x.toNat * 2 + y.toNat)
  | .sremz d a b x y => some (268435488 + d.val * 1048576 + a.val * 16384 + b.val * 256 + x.toNat * 2 + y.toNat)
  | .sand d a b x y => some (268435492 + d.val * 1048576 + a.val * 16384 + b.val * 256 + x.toNat * 2 + y.toNat)
  | .sor d a b x y => some (268435496 + d.val * 1048576 + a.val * 16384 + b.val * 256 + x.toNat * 2 + y.toNat)
  | .sxor d a b x y => some (268435500 + d.val * 1048576 + a.val * 16384 + b.val * 256 + x.toNat * 2 + y.toNat)
  | .sandn d a b x y => some (268435504 + d.val * 1048576 + a.val * 16384 + b.val * 256 + x.toNat * 2 + y.toNat)
  | .sshl d a b x y => some (268435508 + d.val * 1048576 + a.val * 16384 + b.val * 256 + x.toNat * 2 + y.toNat)
  | .sshr d a b x y => some (268435512 + d.val * 1048576 + a.val * 16384 + b.val * 256 + x.toNat * 2 + y.toNat)
  | .ssra d a b x y => some (268435516 + d.val * 1048576 + a.val * 16384 + b.val * 256 + x.toNat * 2 + y.toNat)
  | .smin d a b x y => some (268435520 + d.val * 1048576 + a.val * 16384 + b.val * 256 + x.toNat * 2 + y.toNat)
  | .smax d a b x y => some (268435524 + d.val * 1048576 + a.val * 16384 + b.val * 256 + x.toNat * 2 + y.toNat)
  | .sminz d a b x y => some (268435528 + d.val * 1048576 + a.val * 16384 + b.val * 256 + x.toNat * 2 + y.toNat)
  | .smaxz d a b x y => some (268435532 + d.val * 1048576 + a.val * 16384 + b.val * 256 + x.toNat * 2 + y.toNat)
  | .sceq d a b x y => some (268435536 + d.val * 1048576 + a.val * 16384 + b.val * 256 + x.toNat * 2 + y.toNat)
  | .sclt d a b x y => some (268435540 + d.val * 1048576 + a.val * 16384 + b.val * 256 + x.toNat * 2 + y.toNat)
  | .scltz d a b x y => some (268435544 + d.val * 1048576 + a.val * 16384 + b.val * 256 + x.toNat * 2 + y.toNat)
  | .sclz d a x => some (268435548 + d.val * 1048576 + a.val * 16384 + x.toNat * 2)
  | .spopc d a x => some (268435552 + d.val * 1048576 + a.val * 16384 + x.toNat * 2)
  | .sbrev d a x => some (268435556 + d.val * 1048576 + a.val * 16384 + x.toNat * 2)
  | .saddi d a i x => some (335544320 + d.val * 1048576 + a.val * 16384 + i.toNat * 2 + x.toNat)
  | .sandi d a i x => some (335546368 + d.val * 1048576 + a.val * 16384 + i.toNat * 2 + x.toNat)
  | .sori d a i x => some (335548416 + d.val * 1048576 + a.val * 16384 + i.toNat * 2 + x.toNat)
  | .sxori d a i x => some (335550464 + d.val * 1048576 + a.val * 16384 + i.toNat * 2 + x.toNat)
  | .sshli d a i x => some (335552512 + d.val * 1048576 + a.val * 16384 + i.toNat * 2 + x.toNat)
  | .sshri d a i x => some (335554560 + d.val * 1048576 + a.val * 16384 + i.toNat * 2 + x.toNat)
  | .ssrai d a i x => some (335556608 + d.val * 1048576 + a.val * 16384 + i.toNat * 2 + x.toNat)
  | .sclti d a i x => some (335558656 + d.val * 1048576 + a.val * 16384 + i.toNat * 2 + x.toNat)
  | .sli d i => some (402653184 + d.val * 1048576 + i.toNat * 2)
  | .slih d a i x => some (402655232 + d.val * 1048576 + a.val * 16384 + i.toNat * 2 + x.toNat)
  | .saddpc d i => some (402657280 + d.val * 1048576 + i.toNat * 2)
  | .enter d i => some (402659328 + d.val * 1048576 + i.toNat * 2)
  | .leave i => some (402661376 + i.toNat * 2)
  | .beqz a o => some (536870912 + a.val * 131072 + o.toNat)
  | .bnez a o => some (545259520 + a.val * 131072 + o.toNat)
  | .bltz a o => some (553648128 + a.val * 131072 + o.toNat)
  | .bgez a o => some (562036736 + a.val * 131072 + o.toNat)
  | .blez a o => some (570425344 + a.val * 131072 + o.toNat)
  | .bgtz a o => some (578813952 + a.val * 131072 + o.toNat)
  | .bra o => some (587202560 + o.toNat)
  | .call o => some (603979776 + o.toNat)
  | .jmp o => some (671088640 + o.toNat)
  | .nop => some (738197504)
  | .jr a x => some (738197508 + a.val * 16384 + x.toNat * 2)
  | .callr a x => some (738197512 + a.val * 16384 + x.toNat * 2)
  | .ret => some (738197516)
  | .exit => some (738197520)
  | .brk => some (738197524)
  | .trap c => some (738197528 + c.val * 256)
  | .yield => some (738197532)
  | .brvt m o => some (805306368 + m.val * 8388608 + o.toNat)
  | .brvf m o => some (809500672 + m.val * 8388608 + o.toNat)
  | .fuse n => some (872415232 + n.val * 256)
  | .mset d a x => some (872415236 + d.val * 1048576 + a.val * 16384 + x.toNat * 2)
  | .mget d a => some (872415240 + d.val * 1048576 + a.val * 16384)
  | .mand d a b => some (872415244 + d.val * 1048576 + a.val * 16384 + b.val * 256)
  | .mor d a b => some (872415248 + d.val * 1048576 + a.val * 16384 + b.val * 256)
  | .mxor d a b => some (872415252 + d.val * 1048576 + a.val * 16384 + b.val * 256)
  | .mandn d a b => some (872415256 + d.val * 1048576 + a.val * 16384 + b.val * 256)
  | .mnot d a => some (872415260 + d.val * 1048576 + a.val * 16384)
  | .mpopc d a => some (872415264 + d.val * 1048576 + a.val * 16384)
  | .mffs d a => some (872415268 + d.val * 1048576 + a.val * 16384)
  | .mlive d a => some (872415272 + d.val * 1048576 + a.val * 16384)
  | .vadd d a b x y => some (1073741824 + d.val * 1048576 + a.val * 16384 + b.val * 256 + x.toNat * 2 + y.toNat)
  | .vsub d a b x y => some (1073741828 + d.val * 1048576 + a.val * 16384 + b.val * 256 + x.toNat * 2 + y.toNat)
  | .vmul d a b x y => some (1073741832 + d.val * 1048576 + a.val * 16384 + b.val * 256 + x.toNat * 2 + y.toNat)
  | .vmulh d a b x y => some (1073741836 + d.val * 1048576 + a.val * 16384 + b.val * 256 + x.toNat * 2 + y.toNat)
  | .vmulhz d a b x y => some (1073741840 + d.val * 1048576 + a.val * 16384 + b.val * 256 + x.toNat * 2 + y.toNat)
  | .vmin d a b x y => some (1073741844 + d.val * 1048576 + a.val * 16384 + b.val * 256 + x.toNat * 2 + y.toNat)
  | .vmax d a b x y => some (1073741848 + d.val * 1048576 + a.val * 16384 + b.val * 256 + x.toNat * 2 + y.toNat)
  | .vminz d a b x y => some (1073741852 + d.val * 1048576 + a.val * 16384 + b.val * 256 + x.toNat * 2 + y.toNat)
  | .vmaxz d a b x y => some (1073741856 + d.val * 1048576 + a.val * 16384 + b.val * 256 + x.toNat * 2 + y.toNat)
  | .vand d a b x y => some (1073741860 + d.val * 1048576 + a.val * 16384 + b.val * 256 + x.toNat * 2 + y.toNat)
  | .vor d a b x y => some (1073741864 + d.val * 1048576 + a.val * 16384 + b.val * 256 + x.toNat * 2 + y.toNat)
  | .vxor d a b x y => some (1073741868 + d.val * 1048576 + a.val * 16384 + b.val * 256 + x.toNat * 2 + y.toNat)
  | .vandn d a b x y => some (1073741872 + d.val * 1048576 + a.val * 16384 + b.val * 256 + x.toNat * 2 + y.toNat)
  | .vshl d a b x y => some (1073741876 + d.val * 1048576 + a.val * 16384 + b.val * 256 + x.toNat * 2 + y.toNat)
  | .vshr d a b x y => some (1073741880 + d.val * 1048576 + a.val * 16384 + b.val * 256 + x.toNat * 2 + y.toNat)
  | .vsra d a b x y => some (1073741884 + d.val * 1048576 + a.val * 16384 + b.val * 256 + x.toNat * 2 + y.toNat)
  | .vabsd d a b x y => some (1073741888 + d.val * 1048576 + a.val * 16384 + b.val * 256 + x.toNat * 2 + y.toNat)
  | .vsadd d a b x y => some (1073741892 + d.val * 1048576 + a.val * 16384 + b.val * 256 + x.toNat * 2 + y.toNat)
  | .vssub d a b x y => some (1073741896 + d.val * 1048576 + a.val * 16384 + b.val * 256 + x.toNat * 2 + y.toNat)
  | .vsaddz d a b x y => some (1073741900 + d.val * 1048576 + a.val * 16384 + b.val * 256 + x.toNat * 2 + y.toNat)
  | .vssubz d a b x y => some (1073741904 + d.val * 1048576 + a.val * 16384 + b.val * 256 + x.toNat * 2 + y.toNat)
  | .vclz d a x => some (1073741908 + d.val * 1048576 + a.val * 16384 + x.toNat * 2)
  | .vpopc d a x => some (1073741912 + d.val * 1048576 + a.val * 16384 + x.toNat * 2)
  | .vbrev d a x => some (1073741916 + d.val * 1048576 + a.val * 16384 + x.toNat * 2)
  | .vbfe d a b x y => some (1073741920 + d.val * 1048576 + a.val * 16384 + b.val * 256 + x.toNat * 2 + y.toNat)
  | .vbfi d a b x y => some (1073741924 + d.val * 1048576 + a.val * 16384 + b.val * 256 + x.toNat * 2 + y.toNat)
  | .vaddw d a b x y => some (1073741928 + d.val * 1048576 + a.val * 16384 + b.val * 256 + x.toNat * 2 + y.toNat)
  | .vsubw d a b x y => some (1073741932 + d.val * 1048576 + a.val * 16384 + b.val * 256 + x.toNat * 2 + y.toNat)
  | .vmulw d a b x y => some (1073741936 + d.val * 1048576 + a.val * 16384 + b.val * 256 + x.toNat * 2 + y.toNat)
  | .vmulwz d a b x y => some (1073741940 + d.val * 1048576 + a.val * 16384 + b.val * 256 + x.toNat * 2 + y.toNat)
  | .vdiv d a b x y => some (1073741944 + d.val * 1048576 + a.val * 16384 + b.val * 256 + x.toNat * 2 + y.toNat)
  | .vdivz d a b x y => some (1073741948 + d.val * 1048576 + a.val * 16384 + b.val * 256 + x.toNat * 2 + y.toNat)
  | .vrem d a b x y => some (1073741952 + d.val * 1048576 + a.val * 16384 + b.val * 256 + x.toNat * 2 + y.toNat)
  | .vremz d a b x y => some (1073741956 + d.val * 1048576 + a.val * 16384 + b.val * 256 + x.toNat * 2 + y.toNat)
  | .vmov d a x => some (1073741960 + d.val * 1048576 + a.val * 16384 + x.toNat * 2)
  | .vdot4 d a b x y => some (1073741968 + d.val * 1048576 + a.val * 16384 + b.val * 256 + x.toNat * 2 + y.toNat)
  | .vdot4z d a b x y => some (1073741972 + d.val * 1048576 + a.val * 16384 + b.val * 256 + x.toNat * 2 + y.toNat)
  | .vaddScalar d a b x y => some (1140850688 + d.val * 1048576 + a.val * 16384 + b.val * 256 + x.toNat * 2 + y.toNat)
  | .vsubScalar d a b x y => some (1140850692 + d.val * 1048576 + a.val * 16384 + b.val * 256 + x.toNat * 2 + y.toNat)
  | .vmulScalar d a b x y => some (1140850696 + d.val * 1048576 + a.val * 16384 + b.val * 256 + x.toNat * 2 + y.toNat)
  | .vmulhScalar d a b x y => some (1140850700 + d.val * 1048576 + a.val * 16384 + b.val * 256 + x.toNat * 2 + y.toNat)
  | .vmulhzScalar d a b x y => some (1140850704 + d.val * 1048576 + a.val * 16384 + b.val * 256 + x.toNat * 2 + y.toNat)
  | .vminScalar d a b x y => some (1140850708 + d.val * 1048576 + a.val * 16384 + b.val * 256 + x.toNat * 2 + y.toNat)
  | .vmaxScalar d a b x y => some (1140850712 + d.val * 1048576 + a.val * 16384 + b.val * 256 + x.toNat * 2 + y.toNat)
  | .vminzScalar d a b x y => some (1140850716 + d.val * 1048576 + a.val * 16384 + b.val * 256 + x.toNat * 2 + y.toNat)
  | .vmaxzScalar d a b x y => some (1140850720 + d.val * 1048576 + a.val * 16384 + b.val * 256 + x.toNat * 2 + y.toNat)
  | .vandScalar d a b x y => some (1140850724 + d.val * 1048576 + a.val * 16384 + b.val * 256 + x.toNat * 2 + y.toNat)
  | .vorScalar d a b x y => some (1140850728 + d.val * 1048576 + a.val * 16384 + b.val * 256 + x.toNat * 2 + y.toNat)
  | .vxorScalar d a b x y => some (1140850732 + d.val * 1048576 + a.val * 16384 + b.val * 256 + x.toNat * 2 + y.toNat)
  | .vandnScalar d a b x y => some (1140850736 + d.val * 1048576 + a.val * 16384 + b.val * 256 + x.toNat * 2 + y.toNat)
  | .vshlScalar d a b x y => some (1140850740 + d.val * 1048576 + a.val * 16384 + b.val * 256 + x.toNat * 2 + y.toNat)
  | .vshrScalar d a b x y => some (1140850744 + d.val * 1048576 + a.val * 16384 + b.val * 256 + x.toNat * 2 + y.toNat)
  | .vsraScalar d a b x y => some (1140850748 + d.val * 1048576 + a.val * 16384 + b.val * 256 + x.toNat * 2 + y.toNat)
  | .vabsdScalar d a b x y => some (1140850752 + d.val * 1048576 + a.val * 16384 + b.val * 256 + x.toNat * 2 + y.toNat)
  | .vsaddScalar d a b x y => some (1140850756 + d.val * 1048576 + a.val * 16384 + b.val * 256 + x.toNat * 2 + y.toNat)
  | .vssubScalar d a b x y => some (1140850760 + d.val * 1048576 + a.val * 16384 + b.val * 256 + x.toNat * 2 + y.toNat)
  | .vsaddzScalar d a b x y => some (1140850764 + d.val * 1048576 + a.val * 16384 + b.val * 256 + x.toNat * 2 + y.toNat)
  | .vssubzScalar d a b x y => some (1140850768 + d.val * 1048576 + a.val * 16384 + b.val * 256 + x.toNat * 2 + y.toNat)
  | .vbfeScalar d a b x y => some (1140850784 + d.val * 1048576 + a.val * 16384 + b.val * 256 + x.toNat * 2 + y.toNat)
  | .vbfiScalar d a b x y => some (1140850788 + d.val * 1048576 + a.val * 16384 + b.val * 256 + x.toNat * 2 + y.toNat)
  | .vaddwScalar d a b x y => some (1140850792 + d.val * 1048576 + a.val * 16384 + b.val * 256 + x.toNat * 2 + y.toNat)
  | .vsubwScalar d a b x y => some (1140850796 + d.val * 1048576 + a.val * 16384 + b.val * 256 + x.toNat * 2 + y.toNat)
  | .vmulwScalar d a b x y => some (1140850800 + d.val * 1048576 + a.val * 16384 + b.val * 256 + x.toNat * 2 + y.toNat)
  | .vmulwzScalar d a b x y => some (1140850804 + d.val * 1048576 + a.val * 16384 + b.val * 256 + x.toNat * 2 + y.toNat)
  | .vdivScalar d a b x y => some (1140850808 + d.val * 1048576 + a.val * 16384 + b.val * 256 + x.toNat * 2 + y.toNat)
  | .vdivzScalar d a b x y => some (1140850812 + d.val * 1048576 + a.val * 16384 + b.val * 256 + x.toNat * 2 + y.toNat)
  | .vremScalar d a b x y => some (1140850816 + d.val * 1048576 + a.val * 16384 + b.val * 256 + x.toNat * 2 + y.toNat)
  | .vremzScalar d a b x y => some (1140850820 + d.val * 1048576 + a.val * 16384 + b.val * 256 + x.toNat * 2 + y.toNat)
  | .vmovScalar d b y => some (1140850824 + d.val * 1048576 + b.val * 256 + y.toNat)
  | .vaddr d a b x y => some (1140850828 + d.val * 1048576 + a.val * 16384 + b.val * 256 + x.toNat * 2 + y.toNat)
  | .vdot4Scalar d a b x y => some (1140850832 + d.val * 1048576 + a.val * 16384 + b.val * 256 + x.toNat * 2 + y.toNat)
  | .vdot4zScalar d a b x y => some (1140850836 + d.val * 1048576 + a.val * 16384 + b.val * 256 + x.toNat * 2 + y.toNat)
  | .vaddi d a i x => some (1207959552 + d.val * 1048576 + a.val * 16384 + i.toNat * 2 + x.toNat)
  | .vandi d a i x => some (1207961600 + d.val * 1048576 + a.val * 16384 + i.toNat * 2 + x.toNat)
  | .vori d a i x => some (1207963648 + d.val * 1048576 + a.val * 16384 + i.toNat * 2 + x.toNat)
  | .vxori d a i x => some (1207965696 + d.val * 1048576 + a.val * 16384 + i.toNat * 2 + x.toNat)
  | .vshli d a i x => some (1207967744 + d.val * 1048576 + a.val * 16384 + i.toNat * 2 + x.toNat)
  | .vshri d a i x => some (1207969792 + d.val * 1048576 + a.val * 16384 + i.toNat * 2 + x.toNat)
  | .vsrai d a i x => some (1207971840 + d.val * 1048576 + a.val * 16384 + i.toNat * 2 + x.toNat)
  | .vmovi d i => some (1207973888 + d.val * 1048576 + i.toNat * 2)
  | .vceq m a b x y => some (1275068416 + m.val * 1048576 + a.val * 16384 + b.val * 256 + x.toNat * 2 + y.toNat)
  | .vcne m a b x y => some (1275068420 + m.val * 1048576 + a.val * 16384 + b.val * 256 + x.toNat * 2 + y.toNat)
  | .vclt m a b x y => some (1275068424 + m.val * 1048576 + a.val * 16384 + b.val * 256 + x.toNat * 2 + y.toNat)
  | .vcle m a b x y => some (1275068428 + m.val * 1048576 + a.val * 16384 + b.val * 256 + x.toNat * 2 + y.toNat)
  | .vcltz m a b x y => some (1275068432 + m.val * 1048576 + a.val * 16384 + b.val * 256 + x.toNat * 2 + y.toNat)
  | .vclez m a b x y => some (1275068436 + m.val * 1048576 + a.val * 16384 + b.val * 256 + x.toNat * 2 + y.toNat)
  | .fceq m a b x y => some (1275068440 + m.val * 1048576 + a.val * 16384 + b.val * 256 + x.toNat * 2 + y.toNat)
  | .fcne m a b x y => some (1275068444 + m.val * 1048576 + a.val * 16384 + b.val * 256 + x.toNat * 2 + y.toNat)
  | .fclt m a b x y => some (1275068448 + m.val * 1048576 + a.val * 16384 + b.val * 256 + x.toNat * 2 + y.toNat)
  | .fcle m a b x y => some (1275068452 + m.val * 1048576 + a.val * 16384 + b.val * 256 + x.toNat * 2 + y.toNat)
  | .fcun m a b x y => some (1275068456 + m.val * 1048576 + a.val * 16384 + b.val * 256 + x.toNat * 2 + y.toNat)
  | .shfl d a b x y => some (1342177280 + d.val * 1048576 + a.val * 16384 + b.val * 256 + x.toNat * 2 + y.toNat)
  | .shflup d a b x y => some (1342177284 + d.val * 1048576 + a.val * 16384 + b.val * 256 + x.toNat * 2 + y.toNat)
  | .shfldn d a b x y => some (1342177288 + d.val * 1048576 + a.val * 16384 + b.val * 256 + x.toNat * 2 + y.toNat)
  | .shflx d a b x y => some (1342177292 + d.val * 1048576 + a.val * 16384 + b.val * 256 + x.toNat * 2 + y.toNat)
  | .qswz d a b x y => some (1342177296 + d.val * 1048576 + a.val * 16384 + b.val * 256 + x.toNat * 2 + y.toNat)
  | .bcast d a b x y => some (1342177300 + d.val * 1048576 + a.val * 16384 + b.val * 256 + x.toNat * 2 + y.toNat)
  | .vrdlane d a b x y => some (1342177304 + d.val * 1048576 + a.val * 16384 + b.val * 256 + x.toNat * 2 + y.toNat)
  | .vwrlane d a b x y => some (1342177308 + d.val * 1048576 + a.val * 16384 + b.val * 256 + x.toNat * 2 + y.toNat)
  | .ballot d a x => some (1342177312 + d.val * 1048576 + a.val * 16384 + x.toNat * 2)
  | .wradd d a x => some (1342177316 + d.val * 1048576 + a.val * 16384 + x.toNat * 2)
  | .wrmin d a x => some (1342177320 + d.val * 1048576 + a.val * 16384 + x.toNat * 2)
  | .wrmax d a x => some (1342177324 + d.val * 1048576 + a.val * 16384 + x.toNat * 2)
  | .wrminz d a x => some (1342177328 + d.val * 1048576 + a.val * 16384 + x.toNat * 2)
  | .wrmaxz d a x => some (1342177332 + d.val * 1048576 + a.val * 16384 + x.toNat * 2)
  | .wrfadd d a x => some (1342177336 + d.val * 1048576 + a.val * 16384 + x.toNat * 2)
  | .wrand d a x => some (1342177340 + d.val * 1048576 + a.val * 16384 + x.toNat * 2)
  | .wror d a x => some (1342177344 + d.val * 1048576 + a.val * 16384 + x.toNat * 2)
  | .wrxor d a x => some (1342177348 + d.val * 1048576 + a.val * 16384 + x.toNat * 2)
  | .fadd d a b x y => some (1409286144 + d.val * 1048576 + a.val * 16384 + b.val * 256 + x.toNat * 2 + y.toNat)
  | .fsub d a b x y => some (1409286148 + d.val * 1048576 + a.val * 16384 + b.val * 256 + x.toNat * 2 + y.toNat)
  | .fmul d a b x y => some (1409286152 + d.val * 1048576 + a.val * 16384 + b.val * 256 + x.toNat * 2 + y.toNat)
  | .fmin d a b x y => some (1409286156 + d.val * 1048576 + a.val * 16384 + b.val * 256 + x.toNat * 2 + y.toNat)
  | .fmax d a b x y => some (1409286160 + d.val * 1048576 + a.val * 16384 + b.val * 256 + x.toNat * 2 + y.toNat)
  | .fabs d a x => some (1409286164 + d.val * 1048576 + a.val * 16384 + x.toNat * 2)
  | .fneg d a x => some (1409286168 + d.val * 1048576 + a.val * 16384 + x.toNat * 2)
  | .fsgnj d a b x y => some (1409286172 + d.val * 1048576 + a.val * 16384 + b.val * 256 + x.toNat * 2 + y.toNat)
  | .frnd d a x => some (1409286176 + d.val * 1048576 + a.val * 16384 + x.toNat * 2)
  | .fscaleb d a b x y => some (1409286180 + d.val * 1048576 + a.val * 16384 + b.val * 256 + x.toNat * 2 + y.toNat)
  | .hadd2 d a b x y => some (1409286184 + d.val * 1048576 + a.val * 16384 + b.val * 256 + x.toNat * 2 + y.toNat)
  | .hsub2 d a b x y => some (1409286188 + d.val * 1048576 + a.val * 16384 + b.val * 256 + x.toNat * 2 + y.toNat)
  | .hmul2 d a b x y => some (1409286192 + d.val * 1048576 + a.val * 16384 + b.val * 256 + x.toNat * 2 + y.toNat)
  | .badd2 d a b x y => some (1409286196 + d.val * 1048576 + a.val * 16384 + b.val * 256 + x.toNat * 2 + y.toNat)
  | .bsub2 d a b x y => some (1409286200 + d.val * 1048576 + a.val * 16384 + b.val * 256 + x.toNat * 2 + y.toNat)
  | .bmul2 d a b x y => some (1409286204 + d.val * 1048576 + a.val * 16384 + b.val * 256 + x.toNat * 2 + y.toNat)
  | .dadd d a b x y => some (1409286208 + d.val * 1048576 + a.val * 16384 + b.val * 256 + x.toNat * 2 + y.toNat)
  | .dsub d a b x y => some (1409286212 + d.val * 1048576 + a.val * 16384 + b.val * 256 + x.toNat * 2 + y.toNat)
  | .dmul d a b x y => some (1409286216 + d.val * 1048576 + a.val * 16384 + b.val * 256 + x.toNat * 2 + y.toNat)
  | .faddScalar d a b x y => some (1476395008 + d.val * 1048576 + a.val * 16384 + b.val * 256 + x.toNat * 2 + y.toNat)
  | .fsubScalar d a b x y => some (1476395012 + d.val * 1048576 + a.val * 16384 + b.val * 256 + x.toNat * 2 + y.toNat)
  | .fmulScalar d a b x y => some (1476395016 + d.val * 1048576 + a.val * 16384 + b.val * 256 + x.toNat * 2 + y.toNat)
  | .fminScalar d a b x y => some (1476395020 + d.val * 1048576 + a.val * 16384 + b.val * 256 + x.toNat * 2 + y.toNat)
  | .fmaxScalar d a b x y => some (1476395024 + d.val * 1048576 + a.val * 16384 + b.val * 256 + x.toNat * 2 + y.toNat)
  | .fsgnjScalar d a b x y => some (1476395036 + d.val * 1048576 + a.val * 16384 + b.val * 256 + x.toNat * 2 + y.toNat)
  | .fscalebScalar d a b x y => some (1476395044 + d.val * 1048576 + a.val * 16384 + b.val * 256 + x.toNat * 2 + y.toNat)
  | .hadd2Scalar d a b x y => some (1476395048 + d.val * 1048576 + a.val * 16384 + b.val * 256 + x.toNat * 2 + y.toNat)
  | .hsub2Scalar d a b x y => some (1476395052 + d.val * 1048576 + a.val * 16384 + b.val * 256 + x.toNat * 2 + y.toNat)
  | .hmul2Scalar d a b x y => some (1476395056 + d.val * 1048576 + a.val * 16384 + b.val * 256 + x.toNat * 2 + y.toNat)
  | .badd2Scalar d a b x y => some (1476395060 + d.val * 1048576 + a.val * 16384 + b.val * 256 + x.toNat * 2 + y.toNat)
  | .bsub2Scalar d a b x y => some (1476395064 + d.val * 1048576 + a.val * 16384 + b.val * 256 + x.toNat * 2 + y.toNat)
  | .bmul2Scalar d a b x y => some (1476395068 + d.val * 1048576 + a.val * 16384 + b.val * 256 + x.toNat * 2 + y.toNat)
  | .daddScalar d a b x y => some (1476395072 + d.val * 1048576 + a.val * 16384 + b.val * 256 + x.toNat * 2 + y.toNat)
  | .dsubScalar d a b x y => some (1476395076 + d.val * 1048576 + a.val * 16384 + b.val * 256 + x.toNat * 2 + y.toNat)
  | .dmulScalar d a b x y => some (1476395080 + d.val * 1048576 + a.val * 16384 + b.val * 256 + x.toNat * 2 + y.toNat)
  | .rcp d a x => some (1543503872 + d.val * 1048576 + a.val * 16384 + x.toNat * 2)
  | .rsq d a x => some (1543503876 + d.val * 1048576 + a.val * 16384 + x.toNat * 2)
  | .sqrtF d a x => some (1543503880 + d.val * 1048576 + a.val * 16384 + x.toNat * 2)
  | .log2F d a x => some (1543503884 + d.val * 1048576 + a.val * 16384 + x.toNat * 2)
  | .exp2F d a x => some (1543503888 + d.val * 1048576 + a.val * 16384 + x.toNat * 2)
  | .fdiv d a b x y => some (1543503892 + d.val * 1048576 + a.val * 16384 + b.val * 256 + x.toNat * 2 + y.toNat)
  | .dsqrt d a x => some (1543503896 + d.val * 1048576 + a.val * 16384 + x.toNat * 2)
  | .ddiv d a b x y => some (1543503900 + d.val * 1048576 + a.val * 16384 + b.val * 256 + x.toNat * 2 + y.toNat)
  | .ffma d a b c x => some (1610612736 + d.val * 1048576 + a.val * 16384 + b.val * 256 + c.val * 4 + x.toNat * 2)
  | .hfma2 d a b c x => some (1610612737 + d.val * 1048576 + a.val * 16384 + b.val * 256 + c.val * 4 + x.toNat * 2)
  | .bfma2 d a b c x => some (1677721600 + d.val * 1048576 + a.val * 16384 + b.val * 256 + c.val * 4 + x.toNat * 2)
  | .dfma d a b c x => some (1677721601 + d.val * 1048576 + a.val * 16384 + b.val * 256 + c.val * 4 + x.toNat * 2)
  | .exp2x d a b c x => some (1744830464 + d.val * 1048576 + a.val * 16384 + b.val * 256 + c.val * 4 + x.toNat * 2)
  | .vmad d a b c x => some (1744830465 + d.val * 1048576 + a.val * 16384 + b.val * 256 + c.val * 4 + x.toNat * 2)
  | .vsel d a b k x y => some (1811939328 + d.val * 1048576 + a.val * 16384 + b.val * 256 + k.val * 32 + x.toNat * 2 + y.toNat)
  | .ld t a b z p x => some (1879048192 + t.val * 1048576 + a.val * 16384 + b.val * 256 + z.val * 32 + p.val * 8 + x.toNat)
  | .ldNt t a b z p x => some (1879048194 + t.val * 1048576 + a.val * 16384 + b.val * 256 + z.val * 32 + p.val * 8 + x.toNat)
  | .ldAcq t a b z p x => some (1879048196 + t.val * 1048576 + a.val * 16384 + b.val * 256 + z.val * 32 + p.val * 8 + x.toNat)
  | .st t a b z p x => some (1946157056 + t.val * 1048576 + a.val * 16384 + b.val * 256 + z.val * 32 + p.val * 8 + x.toNat)
  | .stNt t a b z p x => some (1946157058 + t.val * 1048576 + a.val * 16384 + b.val * 256 + z.val * 32 + p.val * 8 + x.toNat)
  | .stRel t a b z p x => some (1946157060 + t.val * 1048576 + a.val * 16384 + b.val * 256 + z.val * 32 + p.val * 8 + x.toNat)
  | .ldp32 t i x => some (2013265920 + t.val * 1048576 + i.toNat * 2 + x.toNat)
  | .ldp64 t i x => some (2013267968 + t.val * 1048576 + i.toNat * 2 + x.toNat)
  | .ldp128 t i x => some (2013270016 + t.val * 1048576 + i.toNat * 2 + x.toNat)
  | .stp32 t i x => some (2013272064 + t.val * 1048576 + i.toNat * 2 + x.toNat)
  | .stp64 t i x => some (2013274112 + t.val * 1048576 + i.toNat * 2 + x.toNat)
  | .stp128 t i x => some (2013276160 + t.val * 1048576 + i.toNat * 2 + x.toNat)
  | .pref a b x => some (2080374784 + a.val * 16384 + b.val * 256 + x.toNat)
  | .invl a b x => some (2080374786 + a.val * 16384 + b.val * 256 + x.toNat)
  | .wbk a b x => some (2080374788 + a.val * 16384 + b.val * 256 + x.toNat)
  | .zero a b p x => some (2080374790 + a.val * 16384 + b.val * 256 + p.val * 8 + x.toNat)
  | .cvt d a s g r u x => some (2147483648 + d.val * 1048576 + a.val * 16384 + s.val * 512 + g.val * 16 + r.val * 4 + u.toNat * 2 + x.toNat)
  | .tsrld t c p => some (2281701888 + t.val * 262144 + c.val * 4096 + p.val * 2)
  | .tsrst t c p => some (2285896192 + t.val * 262144 + c.val * 4096 + p.val * 2)
  | .tsrset t c x => some (2290090496 + t.val * 262144 + c.val * 4096 + x.val * 8)
  | .tsrget t c x => some (2294284800 + t.val * 262144 + c.val * 4096 + x.val * 8)
  | .tload t c n x p g => some (2348810240 + t.val * 262144 + c.val * 4096 + n.val * 512 + x.val * 8 + p.val * 2 + g.toNat)
  | .tstore t c n x p g => some (2353004544 + t.val * 262144 + c.val * 4096 + n.val * 512 + x.val * 8 + p.val * 2 + g.toNat)
  | .tgather t c n x p g => some (2357198848 + t.val * 262144 + c.val * 4096 + n.val * 512 + x.val * 8 + p.val * 2 + g.toNat)
  | .tscatter t c n x p g => some (2361393152 + t.val * 262144 + c.val * 4096 + n.val * 512 + x.val * 8 + p.val * 2 + g.toNat)
  | .tzero t c n g => some (2365587456 + t.val * 262144 + c.val * 4096 + n.val * 512 + g.toNat)
  | .tcopy t c n m g => some (2369781760 + t.val * 262144 + c.val * 4096 + n.val * 512 + m.val * 8 + g.toNat)
  | .gedge c x => some (2415919616 + c.val * 4096 + x.val * 8)
  | .grel c => some (2420113920 + c.val * 4096)
  | .greset c => some (2424308224 + c.val * 4096)
  | .gbin c p g => some (2428502528 + c.val * 4096 + p.val * 2 + g.toNat)
  | .gstat c x => some (2432696832 + c.val * 4096 + x.val * 8)
  | .waitc a c => some (2483027968 + a.val * 65536 + c.val)
  | .rdcnt d c => some (2487222272 + d.val * 16 + c.val)
  | .mlds t c g => some (2550136832 + t.val * 32768 + c.val * 512 + g.toNat)
  | .mswap g => some (2554331136 + g.toNat)
  | .mshape c g => some (2558525440 + c.val * 512 + g.toNat)
  | .mcfg c g => some (2562719744 + c.val * 512 + g.toNat)
  | .mmul k c x p g => some (2617245696 + k.val * 524288 + c.val * 512 + x.val * 8 + p.val * 2 + g.toNat)
  | .mmulz k c x p g => some (2621440000 + k.val * 524288 + c.val * 512 + x.val * 8 + p.val * 2 + g.toNat)
  | .mmult k c x p g => some (2625634304 + k.val * 524288 + c.val * 512 + x.val * 8 + p.val * 2 + g.toNat)
  | .mdrain k t c m g => some (2684354560 + k.val * 524288 + t.val * 32768 + c.val * 512 + m.toNat * 2 + g.toNat)
  | .mzero k g => some (2688548864 + k.val * 524288 + g.toNat)
  | .mrdrow k j c b m => some (2692743168 + k.val * 524288 + j.val * 32768 + c.val * 512 + b.val * 8 + m.val * 2)
  | .mstat c => some (2696937472 + c.val * 512)
  | .aadd d a b y x l => some (2751463424 + d.val * 1048576 + a.val * 16384 + b.val * 256 + y.val * 4 + x.toNat * 2 + l.toNat)
  | .amin d a b y x l => some (2751463456 + d.val * 1048576 + a.val * 16384 + b.val * 256 + y.val * 4 + x.toNat * 2 + l.toNat)
  | .amax d a b y x l => some (2751463488 + d.val * 1048576 + a.val * 16384 + b.val * 256 + y.val * 4 + x.toNat * 2 + l.toNat)
  | .aand d a b y x l => some (2751463520 + d.val * 1048576 + a.val * 16384 + b.val * 256 + y.val * 4 + x.toNat * 2 + l.toNat)
  | .aor d a b y x l => some (2751463552 + d.val * 1048576 + a.val * 16384 + b.val * 256 + y.val * 4 + x.toNat * 2 + l.toNat)
  | .axor d a b y x l => some (2751463584 + d.val * 1048576 + a.val * 16384 + b.val * 256 + y.val * 4 + x.toNat * 2 + l.toNat)
  | .aexch d a b y x l => some (2751463616 + d.val * 1048576 + a.val * 16384 + b.val * 256 + y.val * 4 + x.toNat * 2 + l.toNat)
  | .aincw d a b y x l => some (2751463648 + d.val * 1048576 + a.val * 16384 + b.val * 256 + y.val * 4 + x.toNat * 2 + l.toNat)
  | .acas d a b y x l => some (2818572288 + d.val * 1048576 + a.val * 16384 + b.val * 256 + y.val * 4 + x.toNat * 2 + l.toNat)
  | .adecw d a b y x l => some (2818572320 + d.val * 1048576 + a.val * 16384 + b.val * 256 + y.val * 4 + x.toNat * 2 + l.toNat)
  | .radd a b y x l => some (2885681152 + a.val * 16384 + b.val * 256 + y.val * 4 + x.toNat * 2 + l.toNat)
  | .rmin a b y x l => some (2885681184 + a.val * 16384 + b.val * 256 + y.val * 4 + x.toNat * 2 + l.toNat)
  | .rmax a b y x l => some (2885681216 + a.val * 16384 + b.val * 256 + y.val * 4 + x.toNat * 2 + l.toNat)
  | .rand a b y x l => some (2885681248 + a.val * 16384 + b.val * 256 + y.val * 4 + x.toNat * 2 + l.toNat)
  | .ror a b y x l => some (2885681280 + a.val * 16384 + b.val * 256 + y.val * 4 + x.toNat * 2 + l.toNat)
  | .rxor a b y x l => some (2885681312 + a.val * 16384 + b.val * 256 + y.val * 4 + x.toNat * 2 + l.toNat)
  | .llock a b d => some (2952790016 + a.val * 65536 + b.val * 1024 + d.val * 16)
  | .ltry a d => some (2956984320 + a.val * 65536 + d.val * 16)
  | .lunlock a => some (2961178624 + a.val * 65536)
  | .lstat a d => some (2965372928 + a.val * 65536 + d.val * 16)
  | .lyield a b d => some (2969567232 + a.val * 65536 + b.val * 1024 + d.val * 16)
  | .waitcmp a b d q => some (3019898880 + a.val * 65536 + b.val * 1024 + d.val * 16 + q.val)
  | .barw a d q => some (3087007744 + a.val * 65536 + d.val * 16 + q.val)
  | .barg a d q => some (3091202048 + a.val * 65536 + d.val * 16 + q.val)
  | .pbarv a b d s => some (3095396352 + a.val * 65536 + b.val * 1024 + d.val * 16 + s.val)
  | .pbarw a b s => some (3099590656 + a.val * 65536 + b.val * 1024 + s.val)
  | .pbarinit a b => some (3103784960 + a.val * 65536 + b.val * 1024)
  | .fence s o => some (3154116608 + s.val * 1024 + o.toNat * 4)
  | .bindR a b => some (3158310912 + a.val * 65536 + b.val * 1024)
  | .unbind a b => some (3162505216 + a.val * 65536 + b.val * 1024)
  | .acq a q => some (3166699520 + a.val * 65536 + q.val)
  | .rel a q => some (3170893824 + a.val * 65536 + q.val)
  | .push t c n x g => some (3221225472 + t.val * 262144 + c.val * 4096 + n.val * 512 + x.val * 8 + g.toNat)
  | .put c x p g => some (3225420800 + c.val * 4096 + x.val * 8 + p.val * 2 + g.toNat)
  | .get c x p g => some (3229615104 + c.val * 4096 + x.val * 8 + p.val * 2 + g.toNat)
  | .cstep c p g => some (3233808896 + c.val * 4096 + p.val * 2 + g.toNat)
  | .cstat c x => some (3238003200 + c.val * 4096 + x.val * 8)
  | .launch a b d => some (3489660928 + a.val * 65536 + b.val * 1024 + d.val * 16)
  | .lease a q => some (3493855232 + a.val * 65536 + q.val)
  | .setpl a => some (3498049536 + a.val * 65536)
  | .csrr d c => some (3758096384 + d.val * 16384 + c.val)
  | .csrw d a c => some (3759144960 + d.val * 16384 + a.val * 256 + c.val)
  | .csrset d a c => some (3760193536 + d.val * 16384 + a.val * 256 + c.val)
  | .csrclr d a c => some (3761242112 + d.val * 16384 + a.val * 256 + c.val)
  | .tret a => some (3825205248 + a.val * 256)
  | .frec d a => some (3826253824 + d.val * 16384 + a.val * 256)
  | .replay d a => some (3827302400 + d.val * 16384 + a.val * 256)
  | .lkill a => some (3828350976 + a.val * 256)
  | .ctxkill a k => some (3829399552 + a.val * 256 + k.val)
  | .tlbinv b a m => some (3892314112 + b.val * 16384 + a.val * 256 + m.val)
  | .pglock a z l => some (3893362688 + a.val * 256 + z.val * 2 + l.toNat)
  | .pgswap b a => some (3894411264 + b.val * 16384 + a.val * 256)
  | .homemv b a => some (3895459840 + b.val * 16384 + a.val * 256)
  | .halt d a g => some (3959422976 + d.val * 16384 + a.val * 256 + g.toNat)
  | .stepW d a g => some (3960471552 + d.val * 16384 + a.val * 256 + g.toNat)
  | .watch a k l w => some (3961520128 + a.val * 256 + k.val * 64 + l.val * 8 + w.val * 2)
  | .waitcSatisfied _ _ => none
  | .matrixArbiterGrant _ _ => none
  | .matrixAgeStep _ => none
  | .bandWake _ _ _ => none
  | .bandRampStep _ => none
  | .lockTimerExpiry _ _ => none
  | .deadlockScan _ => none
  | .monitorTimeout _ => none
  | .overflowMonitorRecheck _ => none
  | .instructionCompletion _ _ => none
  | .operandLogReplay _ _ => none
  | .logEntryConversion _ _ => none
  | .shootdownAcknowledgement _ _ => none
  | .l1Eviction _ _ _ => none
  | .stackCacheSpill _ _ => none
  | .homeWriteWindowEnd _ => none
  | .pageHomeMoveEnd _ => none
  | .regionMerge _ => none
  | .pageCopy _ _ => none
  | .engineCommandRun _ _ => none
  | .enginePageFaultResume _ _ => none
  | .engineCommandRetire _ _ => none
  | .nodeLaunch _ _ => none
  | .launchQueueTail _ _ => none
  | .launchQueueErrorClear _ _ => none
  | .launchRecordRead _ => none
  | .gangPlacement _ _ _ => none
  | .affinityPatienceExpiry _ _ => none
  | .warpRetire _ => none
  | .preemption _ => none
  | .quantumExpiry _ => none
  | .gangSwapOut _ => none
  | .clusterGating _ _ => none
  | .clusterWake _ => none
  | .clusterWakeDone _ _ => none
  | .leaseWindowEnd _ => none
  | .leaseHeadWait _ => none
  | .leaseStarvation _ => none
  | .powerEvaluation _ => none
  | .performanceLevelChange _ _ => none
  | .tokenRefill _ _ => none
  | .fabricTransactionArrival _ => none
  | .pushReceipt _ => none
  | .cstepReceipt _ => none
  | .fabricAcknowledgement _ _ => none
  | .fabricRetransmission _ => none
  | .collfailNotice _ _ _ _ => none
  | .linkFlitResend _ => none
  | .portFailure _ => none
  | .hostSnoop _ => none
  | .backInvalidateSnoop _ => none
  | .hostMemAccess _ => none
  | .ctxnew => none
  | .ctxend => none
  | .qinit => none
  | .psgrant => none
  | .debugMark => none
  | .tlbflush => none
  | .faultdone => none
  | .attest => none
  | .evlostClear _ => none
  | .registerWrite _ _ _ => none
  | .uncorrectableError _ => none
  | .fencedMessageDrop _ _ => none
  | .packageReset _ _ => none
  | .siteReadmission _ _ => none
  | .engineReturnToService _ _ => none
  | .stalledPageFaultMapped _ => none
  | .activity1024Cycles _ => none
  | .gatingPowerRemoved _ _ => none

/-- The words of an instruction: one 32-bit word, or nothing for an operation or event without an encoding. -/
def encode (i : Instr) : List (BitVec 32) :=
  match word? i with
  | some w => [BitVec.ofNat 32 w]
  | none => []

/-- The instruction the decoder reads from the table's word `w` of `nbits` bits: the word is laid out in memory as the
hardware stores it, the bits above `nbits` zero, and decoded. -/
noncomputable def decodeTableWord (nbits w : Nat) : Option Instr :=
  (decodeBytes (bytesOfWord (BitVec.ofNat 32 (w % 2 ^ nbits)))).map (·.1)

end Sys2Proof
end

