-- ==== Sys2Proof/Machine/Fetch.lean ====
section
/-! DEFINITION. Fetching a word, and what a word that is no instruction raises (R43, R57, R58, R343). -/

namespace Sys2Proof.Machine

/-- The cause that a word which is no instruction raises: PRIV where R58 checks privilege first, else ILLENC. -/
def illegalCause (s : State) (w : BitVec 32) : Cause :=
  let major := w.toNat / 2 ^ 26
  let fn := w.toNat / 2 ^ 20 % 64
  if s.privileged then .illenc
  else if major = 0x3A then .priv
  else if major = 0x3B && fn == 0 then .priv
  else if major = 0x3B && fn ≤ 2 && !s.myContext.debug then .priv
  else .illenc

/-- What the issuing fragment fetches. -/
inductive Fetched where
  | word (w : BitVec 32)
  | fails (c : Cause)
deriving DecidableEq, Repr

/-- The word at the fragment's fetch address: translation with execute permission, then poison, then the four bytes, read like
any others (R343) and charged (R302). A word that has been rewritten is fetched as it now stands, wherever R45 lets the old
one be fetched too (log 91). -/
def State.fetchWord (s : State) : State × Fetched :=
  match s.translate s.warp.units s.warp.ctx s.warp.frag.fetch.toNat false false true with
  | (s', .fails c) => (s', .fails c)
  | (s', .at_ loc kind _) =>
    if s'.poisoned loc 4 then (s', .fails .poison)
    else
      let (s'', bs) := (s'.chargeAll s'.warp.ctx s'.warp.site [(kind, loc, 4)]).readAt s'.warp.agent kind loc 4
      (s'', .word (BitVec.ofNat 32 (bytesToNat bs)))

/-- The unit of a fetched word runs. -/
noncomputable def State.runWord (s : State) (w : BitVec 32) : Host.Outcome State Fault Refusal :=
  match decodeWord w with
  | some i => exec i s
  | none => .next (s.trap (illegalCause s w))

/-- The issuing fragment fetches a word and runs it. A page fault stalls the warp until the supervisor answers, and
traps where it finds no mapping (R43, R161). -/
noncomputable def State.runUnit (s : State) : Host.Outcome State Fault Refusal :=
  match s.fetchWord with
  | (s', .word w) => s'.runWord w
  | (s', .fails .pagefault) => .next (s'.pageFaulted (s'.warp.frag.fetch.setWidth 64))
  | (s', .fails c) => .next (s'.trap c)

/-- The unit runs, a STEP that let it issue is told of it (R354), and the turn is over unless it waits. -/
noncomputable def State.runTurn (s : State) : Host.Outcome State Fault Refusal :=
  match s.runUnit with
  | .next t => .next (State.stepped s.warp t).turnOver
  | stop => stop

end Sys2Proof.Machine
end

