-- ==== Sys2Proof/Machine/Probe.lean ====
section
/-! DEFINITION. A program of one word placed where the next step fetches: what loading a program from outside the
machine stands for (log 19). -/

namespace Sys2Proof.Machine

/-- The grid, gang and warp of a probe: context 0, level 2, one workgroup with 512 KiB of scratchpad, 8 accumulator
tiles and 256 graph nodes, at core 0 of cluster 0 of site 0. -/
def probeRecord : LaunchRecord :=
  { LaunchRecord.blank with entry := 0x10000, level := 2, acc := 8, nodes := 256, scratch := 2 ^ 19, stack := 512 }

def probeTicket : Nat := 2 ^ 63

def probeGrid : Grid :=
  { Grid.none with ticket := probeTicket, record := probeRecord, mask := 0xFF, next := 1, placed := 1, ready := true }

def probeGang (uid : Nat) : Gang :=
  { Gang.none with uid := uid, grid := probeTicket, phase := .resident, cores := [0], scratch := 2 ^ 19, wgs := 1, acc := 8,
                   nodes := List.replicate 256 Node.free }

/-- The registers at entry (R21), with a stack of 16 KiB below 0x24000. -/
def probeWarp (uid gang : Nat) : Warp :=
  { Warp.blank with
    uid := uid, gang := gang, live := true, resident := true
    s := (Vector.replicate 64 0).set 62 0x24000
    v := ((Vector.replicate 64 (Vector.replicate 32 0)).set 0 (Vector.ofFn fun l => BitVec.ofNat 32 l.val)).set 1
      (Vector.ofFn fun l => BitVec.ofNat 32 l.val)
    frag := Fragment.start 0x10000
    stklim := 0x20000, stktop := 0x24000
    lease := { Lease.start with active := true } }

/-- A page table at 0x1000 that maps the VAs below 1 GiB to the same physical addresses, every permission given. -/
def probeTable (m : Memory) : Memory :=
  ((m.writeBytes 0x1000 (natToBytes 8 0x2001)).writeBytes 0x2000 (natToBytes 8 0x3001)).writeBytes 0x3000
    (natToBytes 8 0x1F)

/-- The package with the probe's warp in focus. -/
def State.installProbe (s : State) : State :=
  { s with
    warp := probeWarp s.nextUid (s.nextUid + 1)
    others := if s.warp.live then s.others ++ [s.warp] else s.others
    gangs := s.gangs ++ [probeGang (s.nextUid + 1)]
    grids := s.grids.filter (·.ticket != probeTicket) ++ [probeGrid]
    contexts := { Context.start 0 with ptbase := 0x1000 } :: s.contexts.filter (·.num != 0)
    nextUid := s.nextUid + 2
    mem := probeTable s.mem
    tlb := [] }

/-- The place from which the issuing fragment would fetch, if it can issue and is alone in its warp. -/
def State.fetchPlace (s : State) : Option Nat :=
  if s.mayIssue s.warp && s.warp.eligible s.warp.frag && s.warp.frags.isEmpty && !s.warp.frag.yielded then
    match (s.translate s.warp.units s.warp.ctx s.warp.frag.fetch.toNat false false true).2 with
    | .at_ loc _ _ => if s.poisoned loc 4 then none else some loc
    | .fails _ => none
  else none

/-- A word stored where the issuing fragment fetches, and that fragment named to issue next. -/
def State.placeWord (s : State) (loc w : Nat) : State :=
  { s with mem := s.mem.writeBytes loc (natToBytes 4 w), agenda := [.issue s.warp.uid s.warp.frag.entry],
           inReset := false }

end Sys2Proof.Machine
end

