-- ==== Sys2Proof/Machine/Step.lean ====
section
/-! DEFINITION. One step of the package: the move that the agenda names, or the default one (log 2). -/

namespace Sys2Proof.Machine

/-- An operation or event without an encoding. -/
def isEvent (i : Instr) : Bool := (word? i).isNone

/-- The fragment issues if it is tried. -/
noncomputable def State.canIssue (s : State) (uid entry : Nat) : Bool :=
  match (s.choose uid entry).runTurn with
  | .next t => !t.warp.frag.held
  | _ => true

/-- The other fragments of a warp that could issue. -/
noncomputable def State.rivals (s : State) (w : Warp) (entry : Nat) : List Fragment :=
  w.allFrags.filter fun f => f.entry != entry && w.eligible f && s.canIssue w.uid f.entry

/-- The fragments that another of their warp has passed over, and those that could not have issued (R85). -/
def State.passOver (s : State) (uid entry : Nat) (passed : List Nat) : State :=
  s.mapWarp uid fun w => w.mapFrags fun f =>
    if f.entry = entry then f else { f with passed := if passed.contains f.entry then f.passed + 1 else 0 }

/-- A fragment is tried: its unit issues, or waits where it stands. -/
noncomputable def State.tryIssue (s : State) (w : Warp) (entry : Nat) : Host.Outcome State Fault Refusal :=
  match (s.choose w.uid entry).runTurn with
  | .next t =>
    if t.warp.frag.held || w.frags.isEmpty then .next t
    else .next (t.passOver w.uid entry ((s.rivals w entry).map (·.entry)))
  | stop => stop

/-- Fragments are tried in turn until one issues. -/
noncomputable def State.tryAll (s : State) : List (Nat × Nat) → Host.Outcome State Fault Refusal
  | [] => .next s
  | (uid, entry) :: rest =>
    match s.findWarp uid with
    | none => s.tryAll rest
    | some w =>
      match s.tryIssue w entry with
      | .next t => if t.warp.frag.held then t.tryAll rest else .next t
      | stop => stop

/-- The move with an empty agenda: what is due, else the next unit that can issue, else time passes. -/
noncomputable def State.stepDefault (s : State) : Host.Outcome State Fault Refusal :=
  match s.due with
  | some i => exec i s
  | none => s.tryAll s.tries

/-- The scheduler may choose a fragment: no other of its warp that comes before it can issue, and where it has given up its
turn, no other of an active warp of its core can (R82, R85). -/
noncomputable def State.mayChoose (s : State) (w : Warp) (f : Fragment) : Bool :=
  s.mayIssue w && w.eligible f
  && (w.frags.isEmpty || (s.rivals w f.entry).all fun g => g.yielded || !(g.before f && !f.before g))
  && (!f.yielded || s.warps.all fun x => x.coreNo != w.coreNo || !s.mayIssue x || x.allFrags.all fun g =>
      g.yielded || !x.eligible g || (x.uid == w.uid && g.entry == f.entry) || !s.canIssue x.uid g.entry)

/-- A move of the agenda. -/
noncomputable def State.perform (s : State) : Move → Host.Outcome State Fault Refusal
  | .event i => if isEvent i then exec i s else .next s
  | .issue uid entry =>
    match s.findWarp uid with
    | some w =>
      match w.allFrags.find? fun f => f.entry == entry && w.holds f with
      | some f => if s.mayChoose w f then s.tryIssue w entry else .next s
      | none => .next s
    | none => .next s
  | .tick n => .next (s.tick n)

/-- A move that a package held in reset can still make: the next reset (R358). -/
def isReset : Move → Bool
  | .event (.packageReset _ _) => true
  | _ => false

noncomputable def step (s : State) : Host.Outcome State Fault Refusal :=
  match s.agenda with
  | m :: rest =>
    if s.inReset && !isReset m then .fault .heldInReset else { s with agenda := rest }.perform m
  | [] => if s.inReset then .fault .heldInReset else (s.tick 1).stepDefault

/-- The state with the instruction `w` where the next step fetches: at the issuing fragment's address where it can
fetch, else at the address of a warp installed for it (log 19). Every instruction is one word of 32 bits. -/
def State.withFetchWord (s : State) (_nbits w : Nat) : State :=
  match s.fetchPlace with
  | some loc => s.placeWord loc w
  | none => s.installProbe.placeWord 0x10000 w

end Sys2Proof.Machine
end

