-- ==== Sys2Proof/Safety.lean ====
section
/-! DEFINITION. The terms that claims use: when a unit has all that it needs, when its results are written at once, and
what a step has left alone. -/

namespace Sys2Proof.Machine

/-- The issuing unit passes every check of R58 and has its registers at hand: it accepts its hints, it is legal and
allowed, its destinations are full, its sources are full and no scalar source is poisoned. -/
structure State.Ready (s : State) (n : Need) : Prop where
  allowed : n.denied = false ∧ n.csrDenied = false
  hints : hintsLegal s.warp.frag.hints n = true
  legal : n.legal = true
  level : n.level2 = true → 2 ≤ s.gridLevel
  holds : n.cond = none
  room : ∀ d ∈ n.dests, s.warp.full d = true
  full : ∀ q ∈ n.srcs, s.warp.full q.1 = true
  clean : n.poisonOk = true ∨ ∀ q ∈ n.srcs, s.warp.scalarPoison q.1 = false

/-- The next completion is not late (log 2). -/
def State.Prompt (s : State) : Prop := s.delays.head? ≠ some true

/-- The package apart from the issuing warp is as it was, every byte of memory among the rest. -/
structure OnlyWarp (s t : State) : Prop where
  rest : t = { s with warp := t.warp, delays := s.delays.tail }
  bytes : ∀ a, t.mem.read a = s.mem.read a

/-- Of a warp, only its registers, its flags and the place of its issuing fragment may have changed. -/
def Warp.OnlyRegisters (w u : Warp) : Prop :=
  u = { w with
    s := u.s, sFull := u.sFull, sPoison := u.sPoison, v := u.v, vFull := u.vFull, vPoison := u.vPoison
    fpflags := u.fpflags, frag := u.frag }

/-- Every register outside the list keeps its value, its full bit and its poison. -/
structure Warp.Keeps (w u : Warp) (ds : List Reg) : Prop where
  scalar : ∀ r : Fin 64, Reg.s r ∉ ds → u.s[r] = w.s[r] ∧ u.sFull[r] = w.sFull[r] ∧ u.sPoison[r] = w.sPoison[r]
  vector : ∀ r : Fin 64, Reg.v r ∉ ds → u.v[r] = w.v[r] ∧ u.vFull[r] = w.vFull[r] ∧ u.vPoison[r] = w.vPoison[r]

/-- The fragment stands at an address with no hints gathered and no tokens awaited, and is otherwise the fragment it was,
but for its turn. -/
def Fragment.MovedTo (f g : Fragment) (pc : Pc) : Prop :=
  g = { f with pc := pc, fetch := pc, hints := {}, dry := [], yielded := g.yielded }

/-- A unit has written at most the registers of the list and the flags, and its fragment goes on at an address. Masks,
slots, special registers, other warps and memory are as they were. -/
structure Did (s t : State) (ds : List Reg) (pc : Pc) : Prop where
  world : OnlyWarp s t
  warp : s.warp.OnlyRegisters t.warp
  keeps : s.warp.Keeps t.warp ds
  place : s.warp.frag.MovedTo t.warp.frag pc

/-- The address of the unit after the issuing one. -/
def State.next (s : State) : Pc := s.warp.frag.fetch + 4

/-- A scalar register holds a result: full, not poisoned, the value; register 0 reads as zero whatever is written. -/
structure Warp.HoldsS (w : Warp) (r : Fin 64) (x : Word64) : Prop where
  value : w.readS r = if r = 0 then 0 else x
  full : w.full (.s r) = true
  clean : r ≠ 0 → w.sPoison[r] = false

/-- The lanes of a vector register in `lanes` hold a result, the others what they held; the register is full. -/
structure Warp.HoldsV (w u : Warp) (r : Fin 64) (lanes : Word32) (x : Fin 32 → Word32) : Prop where
  value : ∀ l : Fin 32, u.v[r][l] = if inMask lanes l then x l else w.v[r][l]
  full : u.full (.v r) = true

/-- The offsets of a vector instruction's elements under the hints of its unit (R52). -/
def State.elems (s : State) (v : VOp) : List Nat := s.warp.frag.hints.elems v.step

/-- No live active lane of the instruction reads poison in its own elements. -/
def State.Clean (s : State) (v : VOp) : Prop := ∀ o ∈ s.elems v, v.ownPoison s.warp o &&& s.warp.active = 0

/-- A vector instruction has taken effect: every live active lane of every element of the block holds its value, the
other lanes and every other register are as they were, and the conditions raised join FPFLAGS. -/
def VecDid (s : State) (out : Host.Outcome State Fault Refusal) (v : VOp) (val : Nat → Fin 32 → Word64)
    (flags : BitVec 5) : Prop :=
  ∃ t, out = .next t ∧ Did s t (blockRegs v.d (s.elems v) v.dw) s.next
    ∧ (∀ o ∈ s.elems v, ∀ k < v.dw,
        s.warp.HoldsV t.warp (regAt v.d (o + k)) s.warp.active fun l => (val o l >>> (32 * k)).setWidth 32)
    ∧ t.warp.fpflags = s.warp.fpflags ||| flags

/-- The mask register as an instruction reads it: m0 is the active mask (R35). -/
def State.mask (s : State) (r : Fin 8) : Word32 := if r = 0 then s.warp.frag.mask else s.warp.m[r]

/-- The 64-bit immediate of a unit: the 10-bit field sign-extended, or with HIMM's payload above it (R51). -/
def State.immediate (s : State) (i : BitVec 10) : Word64 :=
  match s.warp.frag.hints.himm with
  | none => i.signExtend 64
  | some p => (p ++ i : BitVec 32).signExtend 64

/-- The element that lane `l` has in the register at an offset from a base. -/
def State.elem (s : State) (r : Fin 64) (o : Nat) (l : Fin 32) : Word32 := s.warp.v[regAt r o][l]

/-- The low word of a scalar, for every lane (R96). -/
def State.low (s : State) (r : Fin 64) : Word32 := (s.warp.readS r).setWidth 32

/-- The 64-bit value of a pair (R35). -/
def State.pairOf (s : State) (r : Fin 64) (l : Fin 32) : Word64 := s.elem r 1 l ++ s.elem r 0 l

/-- TRAPVEC names a handler, the warp is not in trap mode, and no issued instruction is left that a trap waits for (R329
step 1). -/
def State.Handles (s : State) : Prop :=
  s.warp.trapvec.toNat / 4 % 2 ^ 55 ≠ 0 ∧ s.warp.trap = none ∧ s.quiet s.warp.settle = true

/-- The warp is in trap mode: the registers that name the fault, its record, and the handler's fragment alone, at
TRAPVEC with every lane that is live and has not exited (R83, R329, R331). -/
structure Warp.InTrap (u : Warp) (c : Cause) (code : Nat) (pc : Pc) (lanes : Word32) (rpc : Pc) (addr : Word64) :
    Prop where
  cause : u.trapcause = some c
  trappc : u.trappc = pc
  mask : u.traplanes = lanes
  record : ∃ m, u.trap = some m ∧ m.record.cause = some c ∧ m.record.kind = 0 ∧ m.record.code = code ∧ m.record.pc = pc
    ∧ m.record.lanes = lanes ∧ m.record.addr = addr ∧ m.record.nested = false
    ∧ (m.record.logged = false → m.record.rpc = rpc)
  handler : u.frag.pc = BitVec.ofNat 57 (u.trapvec.toNat / 4 * 4) ∧ u.frag.mask = ~~~u.dead &&& ~~~u.exited
  alone : u.frags = [] ∧ u.park = []

/-- The issuing warp has taken a trap: its record holds the fragment table as it stood, its issued instructions have
completed, and otherwise nothing has changed. -/
structure Trapped (s t : State) (c : Cause) (code : Nat) (lanes : Word32) (rpc : Pc) (addr : Word64) : Prop where
  inTrap : t.warp.InTrap c code s.warp.frag.pc lanes rpc addr
  saved : ∃ m, t.warp.trap = some m ∧ m.record.frags = s.warp.settle.usedFrags.map Fragment.rewind
    ∧ m.record.park = s.warp.settle.park.reverse ∧ m.record.frag = s.warp.settle.frag.entry
  warp : t.warp = { s.warp.settle with
    trapcause := some c
    trappc := t.warp.trappc
    traplanes := t.warp.traplanes
    trap := t.warp.trap
    traps := s.warp.traps + 1
    frag := t.warp.frag
    frags := []
    park := [] }
  world : t = { s with warp := t.warp }

/-- The instruction traps, with its own unit to be tried again (R57, R83). -/
def Traps (s : State) (out : Host.Outcome State Fault Refusal) (c : Cause) (addr : Word64 := 0) : Prop :=
  ∃ t, out = .next t ∧ Trapped s t c 0 s.warp.active s.warp.frag.pc addr

/-- The unit waits where it stands, which its fragment notes. -/
def Waits (s : State) (out : Host.Outcome State Fault Refusal) : Prop :=
  out = .next { s with warp := { s.warp with frag := { s.warp.frag with held := true } } }

/-! ## Numbers (R110–R118) -/

/-- What a code stands for: NaN, an infinity, or a number; the sign is kept beside the number, for zero has one too. -/
inductive Value where
  | nan
  | inf (neg : Bool)
  | num (neg : Bool) (q : ℚ)
deriving DecidableEq, Repr

/-- A row of R111's table: the exponent and fraction bits, the bias, whether there are infinities, the largest finite value
and the canonical NaN. -/
structure BinaryFormat where
  expBits : Nat
  fracBits : Nat
  bias : Nat
  infinities : Bool
  largest : ℚ
  nan : Option Nat
deriving DecidableEq, Repr

/-- The formats of R111 by their code. -/
def binaryFormat (f : Nat) : Option BinaryFormat :=
  let ieee := fun (e n b nan : Nat) => some (BinaryFormat.mk e n b true ((2 - 1 / 2 ^ n) * 2 ^ b) (some nan))
  match f with
  | 20 => ieee 11 52 1023 0x7FF8000000000000
  | 0 => ieee 8 23 127 0x7FC00000
  | 1 => ieee 8 10 127 0x3FE00
  | 2 => ieee 5 10 15 0x7E00
  | 3 => ieee 8 7 127 0x7FC0
  | 4 => some (.mk 4 3 7 false 448 (some 0x7F))
  | 5 => ieee 5 2 15 0x7E
  | 6 => some (.mk 2 3 1 false (15 / 2) none)
  | 7 => some (.mk 3 2 3 false 28 none)
  | 8 => some (.mk 2 1 1 false 6 none)
  | _ => none

/-- The bits and the exponent bits of a tapered format (R115), and the bits of an integer or offset-binary one with
whether it is signed and whether it has a zero point (R109, R117). -/
def taperedFormat (f : Nat) : Option (Nat × Nat) :=
  match f with
  | 9 => some (8, 0) | 10 => some (8, 1) | 11 => some (8, 2) | 12 => some (6, 0) | 13 => some (6, 1) | _ => none
def integerFormat (f : Nat) : Option (Nat × Bool × Bool) :=
  match f with
  | 14 => some (8, false, true) | 15 => some (6, false, true) | 16 => some (4, false, true) | 17 => some (3, false, true)
  | 18 => some (2, false, true) | 19 => some (16, true, false) | 21 => some (32, true, false)
  | 22 => some (32, false, false) | 23 => some (8, true, false) | 24 => some (8, false, false) | _ => none

/-- The bits of an element's code. -/
def formatWidth (f : Nat) : Nat :=
  match binaryFormat f, taperedFormat f, integerFormat f with
  | some b, _, _ => 1 + b.expBits + b.fracBits
  | _, some t, _ => t.1
  | _, _, some i => i.1
  | _, _, _ => 0

/-- The value of a code of R111, and whether it is a signalling NaN (R112). -/
def BinaryFormat.value (b : BinaryFormat) (c : Nat) : Value × Bool :=
  let s := c.testBit (b.expBits + b.fracBits)
  let exp := c / 2 ^ b.fracBits % 2 ^ b.expBits
  let frac := c % 2 ^ b.fracBits
  let sign : ℚ := if s then -1 else 1
  if b.infinities ∧ exp = 2 ^ b.expBits - 1 then
    if frac = 0 then (.inf s, false) else (.nan, b.fracBits ≠ 2 ∧ frac < 2 ^ (b.fracBits - 1))
  else if b.fracBits = 3 ∧ b.expBits = 4 ∧ exp = 15 ∧ frac = 7 then (.nan, false)
  else if exp = 0 then (.num s (sign * 2 ^ (1 - b.bias : ℤ) * (frac / 2 ^ b.fracBits)), false)
  else (.num s (sign * 2 ^ (exp - b.bias : ℤ) * (1 + frac / 2 ^ b.fracBits)), false)

/-- TapDecode (R114): `m` is the length of the run. -/
def tapValue (n es c : Nat) : Value :=
  let s := c.testBit (n - 1)
  let f := c % 2 ^ (n - 1)
  let w := n - 1
  if f = 0 then (if s then .nan else .num false 0)
  else
    let b := f.testBit (w - 1)
    let m := ((List.range w).takeWhile fun i => f.testBit (w - 1 - i) == b).length
    let k : ℤ := if b then m - 1 else -m
    let rest := w - m - 1
    let eb := min es rest
    let fb := rest - eb
    let e := f / 2 ^ fb % 2 ^ eb * 2 ^ (es - eb)
    .num s ((if s then -1 else 1) * 2 ^ (k * 2 ^ es + e) * (1 + (f % 2 ^ fb : ℕ) / 2 ^ fb))

/-- Decode(c, f, z) over every format, with whether it raises invalid (R111–R117). -/
def valueOf (f c z : Nat) : Value × Bool :=
  match binaryFormat f, taperedFormat f, integerFormat f with
  | some b, _, _ => b.value c
  | _, some t, _ => (tapValue t.1 t.2 c, false)
  | _, _, some (n, signed, zero) =>
    let i : ℤ := if zero then c - z else if signed ∧ c.testBit (n - 1) then c - 2 ^ n else c
    (.num (decide (i < 0)) i, false)
  | _, _, _ => (.nan, false)

def Value.neg : Value → Value
  | .nan => .nan
  | .inf s => .inf !s
  | .num s q => .num (!s) (-q)

/-- The exact sum: ∞ − ∞ is NaN; a zero sum is −0 where both addends are, or under RDN unless both are +0 (R128, R129). -/
def Value.plus (rdn : Bool) : Value → Value → Value
  | .nan, _ | _, .nan => .nan
  | .inf s, .inf t => if s = t then .inf s else .nan
  | .inf s, .num _ _ | .num _ _, .inf s => .inf s
  | .num s p, .num t q =>
    .num (if p + q = 0 then (s && t) || (rdn && (s || t || decide (p ≠ 0))) else decide (p + q < 0)) (p + q)

/-- The exact product and quotient: 0 × ∞, 0 ÷ 0 and ∞ ÷ ∞ are NaN, a finite number divided by zero is an infinity, and
the sign is the exclusive OR (R128, R129). -/
def Value.times : Value → Value → Value
  | .nan, _ | _, .nan => .nan
  | .inf s, .inf t => .inf (s != t)
  | .inf s, .num t q | .num t q, .inf s => if q = 0 then .nan else .inf (s != t)
  | .num s p, .num t q => .num (s != t) (p * q)
def Value.over : Value → Value → Value
  | .nan, _ | _, .nan | .inf _, .inf _ => .nan
  | .inf s, .num t _ => .inf (s != t)
  | .num s _, .inf t => .num (s != t) 0
  | .num s p, .num t q => if q = 0 then (if p = 0 then .nan else .inf (s != t)) else .num (s != t) (p / q)

/-- The sum of the terms of a segment: −0 only where every term is (R210). -/
def Value.sum (vs : List Value) : Value :=
  if .nan ∈ vs ∨ (.inf true ∈ vs ∧ .inf false ∈ vs) then .nan
  else if .inf true ∈ vs then .inf true
  else if .inf false ∈ vs then .inf false
  else
    let q := (vs.map fun v => match v with | .num _ x => x | _ => 0).sum
    .num (decide (q < 0 ∨ (q = 0 ∧ ∀ v ∈ vs, v = .num true 0))) q

/-- Less than and equal, as the compares see them: neither holds of a NaN, and the zeros are equal (R101). -/
def Value.less : Value → Value → Bool
  | .inf s, .inf t => s && !t
  | .inf s, .num _ _ => s
  | .num _ _, .inf t => !t
  | .num _ p, .num _ q => decide (p < q)
  | _, _ => false
def Value.same : Value → Value → Bool
  | .inf s, .inf t => s == t
  | .num _ p, .num _ q => decide (p = q)
  | _, _ => false

/-- An exact value of the model stands for a value: `m × 2^e`, or any number between that and `(m + 1) × 2^e`. -/
def Exact.For : Exact → Value → Prop
  | .nan, v => v = .nan
  | .inf s, v => v = .inf s
  | .fin s m e more, v => ∃ q : ℚ, v = .num s q ∧
      if more then m * (2 : ℚ) ^ e < |q| ∧ |q| < (m + 1) * (2 : ℚ) ^ e ∧ (s = decide (q < 0))
      else q = (if s then -1 else 1) * m * (2 : ℚ) ^ e

/-- A number rounded to an integer: 0 RNE, 1 RTZ, 2 RUP, 3 RDN. -/
def roundedInt (rm : Nat) (q : ℚ) : ℤ :=
  match rm with
  | 0 => if q - ⌊q⌋ < 1 / 2 ∨ (q - ⌊q⌋ = 1 / 2 ∧ ⌊q⌋ % 2 = 0) then ⌊q⌋ else ⌊q⌋ + 1
  | 1 => if q < 0 then ⌈q⌉ else ⌊q⌋
  | 2 => ⌈q⌉
  | _ => ⌊q⌋

/-- RoundTo of a nonzero number for a format of R111, with the flags: `near` rounds to a precision at an exponent. -/
def BinaryFormat.Rounds (b : BinaryFormat) (rm : Nat) (sat : Bool) (q : ℚ) (v : Value) (flags : BitVec 5) : Prop :=
  let neg := decide (q < 0)
  let near := fun e : ℤ => roundedInt rm (q / 2 ^ (e - b.fracBits)) * (2 : ℚ) ^ (e - b.fracBits)
  let low : ℤ := 1 - b.bias
  let r := near (max (Int.log 2 |q|) low)
  let toInf := rm = 0 ∨ (rm = 2 ∧ 0 < q) ∨ (rm = 3 ∧ q < 0)
  if b.largest < |r| then
    flags = fOF ||| fNX
      ∧ v = if toInf ∧ sat = false ∧ b.nan.isSome then (if b.infinities then .inf neg else .nan)
            else .num neg (if neg then -b.largest else b.largest)
  else v = .num neg r
    ∧ flags = if r = q then 0 else if |near (Int.log 2 |q|)| < 2 ^ low then fUF ||| fNX else fNX

/-- RoundTo of a nonzero number for a tapered format of width `n` (R116); `val` is the value of a magnitude field. -/
def TapRounds (n es rm : Nat) (q : ℚ) (mag : Nat) (flags : BitVec 5) : Prop :=
  let val := fun c => match tapValue n es c with
    | .num _ x => x
    | _ => 0
  let top := 2 ^ (n - 1) - 1
  let big := |q|
  0 < mag ∧ mag ≤ top ∧
  if val top ≤ big then mag = top ∧ flags = if val top < big then fOF ||| fNX else 0
  else if big ≤ val 1 then mag = 1 ∧ flags = if big < val 1 then fUF ||| fNX else 0
  else
    let towards := rm = 1 ∨ (rm = 2 ∧ q < 0) ∨ (rm = 3 ∧ 0 < q)
    let off := fun c => |val c - big|
    (flags = if val mag = big then 0 else fNX)
    ∧ ∀ c, 0 < c → c ≤ top →
      if rm = 0 then off mag ≤ off c ∧ (off mag = off c → c = mag ∨ mag % 2 = 0)
      else if towards then val mag ≤ big ∧ (val c ≤ big → val c ≤ val mag)
      else big ≤ val mag ∧ (big ≤ val c → val mag ≤ val c)

/-- RoundTo(y, f, rm, sat) with zero point z answers a code and raises flags (R113, R116, R118). -/
def Rounded (f rm : Nat) (sat : Bool) (z : Nat) (y : Value) (c : Nat) (flags : BitVec 5) : Prop :=
  c < 2 ^ formatWidth f ∧
  match binaryFormat f, taperedFormat f, integerFormat f with
  | some b, _, _ =>
    match y with
    | .nan => (c, flags) = (b.nan.getD 0, if b.nan.isSome then 0 else fNV)
    | .inf s =>
      if b.infinities ∧ sat = false then (b.value c).1 = .inf s ∧ flags = 0
      else if b.nan.isSome ∧ sat = false then c = b.nan.getD 0 ∧ flags = fNV
      else (b.value c).1 = .num s (if s then -b.largest else b.largest) ∧ flags = fNV
    | .num s q =>
      if q = 0 then (b.value c).1 = .num s 0 ∧ flags = 0
      else ∃ v, b.Rounds rm sat q v flags ∧ (b.value c).1 = v ∧ (v = .nan → c = b.nan.getD 0)
  | _, some (n, es), _ =>
    match y with
    | .nan => c = 2 ^ (n - 1) ∧ flags = 0
    | .inf s => c = (if s then 2 ^ (n - 1) else 0) + (2 ^ (n - 1) - 1) ∧ flags = fNV
    | .num _ q =>
      if q = 0 then c = 0 ∧ flags = 0
      else c / 2 ^ (n - 1) = (if q < 0 then 1 else 0) ∧ TapRounds n es rm q (c % 2 ^ (n - 1)) flags
  | _, _, some (n, signed, zero) =>
    let low : ℤ := if signed then -2 ^ (n - 1) else 0
    let high : ℤ := if signed then 2 ^ (n - 1) - 1 else 2 ^ n - 1
    let shift : ℤ := if zero then z else 0
    let is := fun i : ℤ => (c : ℤ) = if i < 0 then i + 2 ^ n else i
    match y with
    | .nan => is shift ∧ flags = fNV
    | .inf s => is (if s then low else high) ∧ flags = fNV
    | .num _ q =>
      let r := roundedInt rm q
      is (max low (min high (r + shift)))
        ∧ flags = if r + shift < low ∨ high < r + shift then fNV else if r = q then 0 else fNX
  | _, _, _ => False

/-! ## Accesses to memory -/

/-- The places found for a lane of a unit. -/
def placesOf (cs : List (Fin 32 × LaneCheck)) (l : Fin 32) : List Target :=
  match cs.find? (·.1 == l) with
  | some (_, .ok ts) => ts
  | _ => []

/-- A unit of memory accesses is let through at once: `s'` and `cs` are what the checks of its lanes leave and find. No
access that passes travels to a fabric peer, waits for tokens, for the operand log, for an acquire, as a release, or for a
page under migration, no line of theirs holds partial values, and no page passes to a new owner (R356). -/
structure State.Lets (s : State) (j : Job) (release : Bool) (s' : State) (cs : List (Fin 32 × LaneCheck)) : Prop where
  log : s.warp.logHolds (j.pages s.warp.active) = false
  acquire : s.acquiring = false
  release : release = true → s.releaseReady = true
  checks : s.checkLanes s.warp.agent j true (lanesOf s.warp.active) = (s', cs)
  near : ∀ g ∈ passed cs, g.kind ≠ 3
  tokens : j.kind.metered = true → s'.heldByTokens s.warp.site ((passed cs).map Target.triple) = []
  pages : ∀ g ∈ passed cs, s.pageLockOf g.loc = none
  partials : ∀ g ∈ passed cs, ∀ p ∈ s.partials, ∀ x ∈ linesOf g.loc g.n,
    lineOf p.loc ≠ x ∧ (p.loc + typeBytes p.ty ≤ g.loc ∨ g.loc + g.n ≤ p.loc)
  owned : s'.mem = s.mem ∧ s'.poison = s.poison

/-- A warp without what the lease scheduler keeps of it. -/
def Warp.unleased (w : Warp) : Warp := { w with lease := Lease.start }

/-- A context without its token buckets and the LLC's counts. -/
def Context.unmetered (c : Context) : Context :=
  { c with buckets := Vector.replicate 4 Bucket.start, llcReads := 0, llcMisses := 0 }

/-- A unit of memory accesses has taken effect: the issuing warp has at most its destinations written and goes on at
the next unit; leases, token buckets, the books of translation, ownership and coherence, monitors and memory may have
changed; everything else is as it was, and no byte has become poisoned. -/
structure Accessed (s t : State) (ds : List Reg) : Prop where
  warp : t.warp = { s.warp with
    v := t.warp.v, vFull := t.warp.vFull, vPoison := t.warp.vPoison, frag := t.warp.frag, lease := t.warp.lease }
  keeps : s.warp.Keeps t.warp ds
  place : s.warp.frag.MovedTo t.warp.frag s.next
  others : t.others.map Warp.unleased = s.others.map Warp.unleased
  contexts : ∀ n, (t.context? n).map Context.unmetered = (s.context? n).map Context.unmetered
  poison : ∀ g ∈ t.poison, g ∈ s.poison
  monitors : t.monitors.map (fun m => { m with fired := false }) = s.monitors.map fun m => { m with fired := false }
  world : t = { s with
    warp := t.warp, others := t.others, contexts := t.contexts, mem := t.mem, poison := t.poison
    monitors := t.monitors, tlb := t.tlb, free := t.free, homes := t.homes, regs := t.regs, regions := t.regions
    partials := t.partials, owners := t.owners, llc := t.llc, victims := t.victims, sectors := t.sectors
    delays := s.delays.tail }

/-- What a write of bytes from a place leaves at an address that held `old`. -/
def laid (loc : Nat) (bs : List Byte) (a : Nat) (old : Byte) : Byte :=
  if loc ≤ a ∧ a < loc + bs.length then bs.getD (a - loc) 0 else old

/-- What several writes leave, the later over the earlier. -/
def laidAll (ws : List (Nat × List Byte)) (a : Nat) (old : Byte) : Byte :=
  ws.foldl (fun old w => laid w.1 w.2 a old) old

/-- The unit's fault: each failing lane's cause and address; the trap names the cause of the lowest lane whose cause is
not PAGEFAULT, P holds the failing lanes, and the warp resumes at the next unit (R161, R163). -/
structure LanesTrapped (s t : State) (bad : List (Nat × Cause × Word64)) : Prop where
  inTrap : ∃ l c ea, (l, c, ea) ∈ bad ∧ c ≠ .pagefault ∧ (∀ b ∈ bad, b.2.1 ≠ .pagefault → l ≤ b.1)
    ∧ t.warp.InTrap c 0 s.warp.frag.pc (lanesMask (bad.map (·.1))) s.next 0
  pending : ∃ m, t.warp.trap = some m ∧ m.lanes = lanesMask (bad.map (·.1))
    ∧ m.record.ea = bad.map (fun b => (b.1, b.2.2)) ∧ m.record.causes = bad.map fun b => (b.1, b.2.1)

/-- The failing lanes of a unit lie in a new entry of the operand log, with their own PAGEFAULT record (R161). -/
structure LanesLogged (s t : State) (bad : List (Nat × Cause × Word64)) (j : Job) (ds : List Reg) : Prop where
  log : ∃ e, t.warp.log = s.warp.log ++ [e] ∧ e.tag = s.nextTag ∧ e.pc = s.warp.frag.pc ∧ e.job = j
    ∧ e.lanes = lanesMask (bad.map (·.1)) ∧ e.pend = s.warp.nextPend ∧ e.answer = none
  tag : t.nextTag = s.nextTag + 1
  empty : ∀ d ∈ ds, t.warp.full d = false
  place : t.warp.frag.pc = s.next ∧ t.warp.trap = s.warp.trap

/-! ## Units that act once -/

/-- An access that a unit makes once is let through: `s'` is the state after its translation, `loc` and `kind` its
place. -/
structure State.Once (s : State) (space : Nat) (ea : Word64) (n align : Nat) (r w : Bool) (s' : State) (loc kind : Nat) :
    Prop where
  log : s.warp.logHolds (if space = 0 then [ea.toNat / 4096] else []) = false
  acquire : s.acquiring = false
  found : ∃ peer, s.reach s.warp.agent space ea.toNat n align r w = (s', .at_ loc kind peer)
  tokens : s'.heldByTokens s.warp.site [(kind, loc, n)] = []
  page : s.pageLockOf loc = none
  partials : ∀ p ∈ s.partials, lineOf p.loc ∉ linesOf loc n
  owned : s'.mem = s.mem ∧ s'.poison = s.poison

/-- Apart from the issuing warp, at most memory, token buckets, monitors and the books of translation and coherence have
changed, and no byte has become poisoned. -/
structure Touched (s t : State) : Prop where
  contexts : ∀ n, (t.context? n).map Context.unmetered = (s.context? n).map Context.unmetered
  poison : ∀ g ∈ t.poison, g ∈ s.poison
  monitors : t.monitors.map (fun m => { m with fired := false }) = s.monitors.map fun m => { m with fired := false }
  world : t = { s with
    warp := t.warp, contexts := t.contexts, mem := t.mem, poison := t.poison, monitors := t.monitors, tlb := t.tlb
    free := t.free, homes := t.homes, regs := t.regs, regions := t.regions, partials := t.partials, owners := t.owners
    llc := t.llc, sectors := t.sectors, delays := t.delays }

/-- A unit on one global address of R240 or R250 finds its place. -/
structure State.AtLine (s : State) (align : Nat) (w : Bool) (ea : Word64) (s' : State) (loc : Nat) : Prop where
  log : s.warp.logHolds [ea.toNat / 4096] = false
  acquire : s.acquiring = false
  found : s.linePlace align w ea = (s', .ok loc)
  partials : ∀ p ∈ s.partials, lineOf p.loc ≠ lineOf loc
  owned : s'.mem = s.mem ∧ s'.poison = s.poison

/-- The warp's registers outside a list, its masks, slots, flags, lanes and trap registers, and every byte of memory, are
as they were. -/
structure Calm (s t : State) (ds : List Reg) : Prop where
  keeps : s.warp.Keeps t.warp ds
  warp : t.warp.m = s.warp.m ∧ t.warp.tsr = s.warp.tsr ∧ t.warp.fpflags = s.warp.fpflags ∧ t.warp.dsrc = s.warp.dsrc
    ∧ t.warp.dead = s.warp.dead ∧ t.warp.exited = s.warp.exited ∧ t.warp.frags = s.warp.frags
    ∧ t.warp.park = s.warp.park ∧ t.warp.trap = s.warp.trap ∧ t.warp.trapcause = s.warp.trapcause
  bytes : ∀ a, t.mem.read a = s.mem.read a

/-- The numbers of the warp's pending instructions lie below the next one. -/
def Warp.Fresh (w : Warp) : Prop := ∀ p ∈ w.pend, p.id < w.nextPend

/-- The unit has gone on and left a pending instruction, behind which its fragment stops where `blocks` says so; it holds
its destination empty, and has been answered where there is a status. -/
structure Leaves (s t : State) (kind : PendKind) (d : Option (Fin 64)) (blocks : Bool) (status : Option Word64) :
    Prop where
  pend : ∃ p, t.warp.pend = s.warp.pend ++ [p] ∧ p.id = s.warp.nextPend ∧ p.kind = kind ∧ p.pc = s.warp.frag.pc
    ∧ p.dests = d.toList.map Reg.s ∧ p.fault = none ∧ p.ready = status.isSome
    ∧ ∀ v, status = some v → p.writes = d.toList.map fun r => .s r v
  place : t.warp.frag.pc = s.next ∧ t.warp.frag.mask = s.warp.frag.mask
    ∧ t.warp.frag.block = if blocks then some s.warp.nextPend else s.warp.frag.block
  empty : ∀ r ∈ d.toList, r ≠ 0 → t.warp.full (.s r) = false
  calm : Calm s t (d.toList.map Reg.s)

/-! ## Commands -/

/-- The command that the issuing unit makes (R175–R178, R183, R186). -/
def State.command (s : State) (cls : Fin 4) (kind : CmdKind) (node : Option Nat) (pend : Option Nat) : Command :=
  { id := s.nextUid, warp := s.warp.uid, gang := s.warp.gang, ctx := s.warp.ctx, cls := cls, seq := s.warp.issued[cls]
    pc := s.warp.frag.pc, node := node, kind := kind, phase := if node.isSome then .node else .queued, entered := s.nextUid, done := 0
    patched := false, pend := pend }

/-- What the gang of a new command keeps of it: a held node with its count of predecessors, or its place in the matrix
stream. -/
def Gang.takes (g : Gang) (c : Command) (preds clock : Nat) : Gang :=
  match c.node with
  | some n => { g with nodes := g.nodes.modify n fun d =>
      { d with state := .held, count := preds, succ := [], cmd := some c.id } }
  | .none =>
    if c.cls = 2 then
      { g with mx := { g.mx with
          stream := g.mx.stream ++ [c.id], headSince := if g.mx.stream = [] then clock else g.mx.headSince } }
    else g

/-- A command has entered: it counts in its class, its gang holds it, and the unit goes on. -/
structure Entered (s t : State) (c : Command) (preds : Nat) : Prop where
  cmds : t.cmds = s.cmds ++ [c]
  count : t.warp.out = s.warp.out ++ [{ cmd := c.id, cls := c.cls, finished := false }]
    ∧ t.warp.issued = s.warp.issued.set c.cls (s.warp.issued[c.cls] + 1)
  gangs : t.gangs = s.gangs.map fun g => if g.uid = s.warp.gang then g.takes c preds s.clock.toNat else g
  place : s.warp.frag.MovedTo t.warp.frag s.next
  world : t = { s with warp := t.warp, nextUid := s.nextUid + 1, cmds := t.cmds, gangs := t.gangs }

/-! ## Units performed again, and events -/

/-- The bytes that the next record takes in the event ring (R357). -/
def State.nextRecord (s : State) (x : Nat) : Prop :=
  let at_ := hostBase + s.mailbox.evbase.toNat + 1024 * (s.mailbox.evtail.toNat % 2 ^ s.mailbox.evsize.toNat)
  s.mailbox.evsize ≠ 0 ∧ at_ ≤ x ∧ x < at_ + 1024

/-- The lanes of a captured load or store have been performed at the places found for them: loaded elements stand in the
destination group, stored bytes or bits in memory, and no other byte has changed but those of `ring`. -/
structure Performed (s t : State) (j : Job) (lanes : Word32) (cs : List (Fin 32 × LaneCheck))
    (ring : Nat → Prop := fun _ => False) : Prop where
  load : ∀ z, j.kind = .load z → (∀ x, ¬ ring x → t.mem.read x = s.mem.read x)
    ∧ ∀ q < j.width, ∀ l : Fin 32,
      let bytes := bytesToNat ((placesOf cs l).flatMap fun g => s.mem.readBytes g.loc g.n)
      t.warp.v[Fin.ofNat 64 (j.base + q)][l] =
        if placesOf cs l = [] then s.warp.v[Fin.ofNat 64 (j.base + q)][l]
        else if subBits z = 0 then BitVec.ofNat 32 (bytes / 2 ^ (32 * q))
        else BitVec.ofNat 32 (bytes / 2 ^ (j.bits[l]).toNat % 2 ^ subBits z)
  store : ∀ z, j.kind = .store z → subBits z = 0 → ∀ x, ¬ ring x → t.mem.read x =
    laidAll ((lanesOf lanes).flatMap fun l => (placesOf cs l).zipIdx.map fun g =>
      (g.1.loc, natToBytes g.1.n ((j.data[l]).toNat / 2 ^ (32 * g.2)))) x (s.mem.read x)
  bits : ∀ z, j.kind = .store z → subBits z ≠ 0 → ∀ x, ¬ ring x → (t.mem.read x).toNat =
    (lanesOf lanes).foldl (fun old l =>
      if (placesOf cs l).any (·.loc == x) then
        let o := (j.bits[l]).toNat
        let n := subBits z
        old / 2 ^ (o + n) * 2 ^ (o + n) + (j.data[l]).toNat % 2 ^ n * 2 ^ o + old % 2 ^ o
      else old) (s.mem.read x).toNat

/-- No pending instruction writes one of these registers when it completes. -/
def Warp.Unclaimed (w : Warp) (ds : List Reg) : Prop := ∀ p ∈ w.pend, ∀ x ∈ p.writes, x.reg ∉ ds

/-- Nothing waits for held writes to be performed: no command that is done but for them, and no arrival. -/
def State.Unheld (s : State) : Prop :=
  s.fabric.finishing = [] ∧ ∀ c ∈ s.cmds, c.phase ≠ .draining ∧ ∀ e a, c.phase ≠ .failing e a

/-- The lanes' places can be used at once: no page under migration, poison or partial value lies in the way. -/
def State.Free (s : State) (cs : List (Fin 32 × LaneCheck)) : Prop :=
  (∀ g ∈ passed cs, s.pageLockOf g.loc = none ∧ s.poisoned g.loc g.n = false)
  ∧ ∀ g ∈ passed cs, ∀ p ∈ s.partials, lineOf p.loc ≠ lineOf g.loc

/-- `f` is the state with warp `w` in focus. -/
def State.Focused (s f : State) (w : Nat) : Prop := f = s.focus w ∧ s.findWarp w = some f.warp ∧ f.warp.uid = w

/-- A pending instruction of the warp in focus has completed: its results are written, its remaining destinations are full,
its conditions have joined FPFLAGS, and no fragment waits for it. -/
structure Completed (f t : State) (q : Pending) : Prop where
  world : t = { f with warp := t.warp }
  pend : t.warp.pend = f.warp.pend.filter (·.id != q.id)
  flags : t.warp.fpflags = f.warp.fpflags ||| q.flags
  full : ∀ r ∈ q.dests, t.warp.full r = true
  keeps : f.warp.Keeps t.warp (q.dests ++ q.writes.map RegWrite.reg)
  value : ∀ d x, q.writes = [.s d x] → t.warp.HoldsS d x
  free : ∀ g ∈ t.warp.allFrags, g.block ≠ some q.id
  place : t.warp.frag.pc = f.warp.frag.pc ∧ t.warp.frag.mask = f.warp.frag.mask

/-- What a pending instruction waits for has come. -/
def Come (s f : State) (q : Pending) : Prop :=
  match q.kind with
  | .result => True
  | .lock _ | .ltry _ | .command _ | .page => q.ready = true
  | .barrier => q.ready = true ∧ q.fault = none
  | .lanes => f.lanesDone f.warp q.id = true ∧ q.faults = []
  | .node _ => q.ready = true
  | .step u => q.ready = true
      ∧ ∀ x, s.findWarp u = some x → x.stepping = false ∧ x.raising = none ∧ ∀ p ∈ x.pend, p.stepped = false
  | .monitor _ | .waitc _ _ _ | .replay _ => False

/-- One warp bears the number. -/
def State.Single (s : State) (uid : Nat) : Prop :=
  ∀ x ∈ s.warps, ∀ y ∈ s.warps, x.uid = uid → y.uid = uid → x = y

/-- A pending instruction of a warp is answered: it may complete, and every destination will hold the value. -/
def Answered (s t : State) (uid k : Nat) (v : Word64) : Prop :=
  s.Single uid → ∀ x, t.findWarp uid = some x → ∃ y, s.findWarp uid = some y ∧ x.pend.map (·.id) = y.pend.map (·.id)
    ∧ ∀ p ∈ x.pend, p.id = k → p.ready = true ∧ ∀ d, p.dests = [.s d] → p.writes = [.s d v]

/-- A command has finished: its engine and its gang's stream hold it no more, its place in its counter may retire, the
registers it held may fill, its node is free. -/
structure Ended (s t : State) (c : Command) : Prop where
  cmds : t.cmds = s.cmds.filter (·.id != c.id)
  stream : c.id ∉ (t.gang c.gang).mx.stream
  node : ∀ n, c.node = some n → ((t.gang c.gang).node n).state = .free
  warp : s.Single c.warp → ∀ x, t.findWarp c.warp = some x →
    (∀ o ∈ x.out, o.cmd = c.id → o.finished = true) ∧ ∀ k, c.pend = some k → ∀ p ∈ x.pend, p.id = k → p.ready = true

/-- A command has stopped with a fault, which its warp holds for a WAITC; a matrix command's stream is stopped. -/
structure Stopped (s t : State) (c : Command) (cause : Cause) (addr : Word64) : Prop where
  gone : ∀ d ∈ t.cmds, d.id ≠ c.id
  held : s.Single c.warp → ∀ x, t.findWarp c.warp = some x → ∃ y, s.findWarp c.warp = some y
    ∧ x.heldFaults = y.heldFaults ++ [{ cls := c.cls, seq := c.seq, pc := c.pc, cause := cause, addr := addr }]
  node : ∀ n, c.node = some n → ((t.gang c.gang).node n).state = .free
  stream : c.cls = 2 → (∃ g ∈ s.gangs, g.uid = c.gang) → (t.gang c.gang).mx.stopped = true
  mem : t.mem = s.mem

/-- A command has paused at a page that the supervisor is asked for, with nothing of its run done: memory has changed at
most where the record stands. -/
def Paused (s t : State) (c : Command) (va : Word64) : Prop :=
  t.nextTag = s.nextTag + 1
  ∧ (∀ x, ¬ s.nextRecord x → t.mem.read x = s.mem.read x) ∧ (∀ g ∈ t.poison, g ∈ s.poison)
  ∧ t.cmds = s.cmds.map (fun d => if d.id = c.id then { d with phase := .paused s.nextTag va false } else d)
  ∧ t.gangs = s.gangs ∧ t.warps = s.warps

/-- Transactions leave for peers, one for each part of a command. -/
def Sent (s t : State) (c : Command) (peers : List Nat) : Prop :=
  t.fabric.tx = s.fabric.tx ++ (peers.zipIdx.map fun p =>
    { id := s.nextUid + p.2, ctx := c.ctx, peer := p.1, kind := .command c.id p.2, retries := 0, sentAt := s.clock.toNat })
  ∧ t.nextUid = s.nextUid + peers.length ∧ t.mem = s.mem

/-! ## Gangs that leave -/

/-- Each number names one warp, and one gang. -/
def State.Distinct (s : State) : Prop :=
  (∀ w ∈ s.warps, s.Single w.uid) ∧ ∀ g ∈ s.gangs, ∀ h ∈ s.gangs, g.uid = h.uid → g = h

/-- Of a warp, at most vector registers from `n` up have changed: to zero, full and clean (R277). -/
structure Warp.SavedAs (w u : Warp) (n : Nat) : Prop where
  low : ∀ r : Fin 64, r.val < n → u.v[r] = w.v[r] ∧ u.vFull[r] = w.vFull[r] ∧ u.vPoison[r] = w.vPoison[r]
  high : ∀ r : Fin 64, n ≤ r.val → u.v[r] = Vector.replicate 32 0 ∧ u.vFull[r] = true ∧ u.vPoison[r] = 0
  rest : u = { w with v := u.v, vFull := u.vFull, vPoison := u.vPoison }

/-- Nothing that a gang's warps have issued keeps it from leaving, but for results that are written at once (R345 step 1). -/
def State.Settled (s : State) (g : Nat) : Prop :=
  ∀ w ∈ s.warpsOf g, ∀ p ∈ w.pend, p.kind = .result ∨ s.mustEnd w p = false
    ∨ ((s.gang g).moved = true ∧ p.streamed = true)

/-- A lock slot, but for what it saves of a request. -/
def LockSlot.plain (x : LockSlot) : LockSlot := { x with saved := none, left := none }

/-- Every live warp of the gang has left its core, its results written and its state saved: every register below VREGS, the
masks, slots, flags, fragments, pending instructions, locks and monitors are kept; fragments stand before their units. Other
warps have at most their leases changed, and memory only where a core of the gang held partial values. -/
structure GangOut (s t : State) (g : Nat) (phase : GangPhase) : Prop where
  gang : (t.gang g).phase = phase ∧ (t.gang g).leaving = none
  mem : (∀ p ∈ s.partials, ∀ w ∈ s.warpsOf g, p.core ≠ w.coreNo) → t.mem = s.mem
  monitors : t.monitors.map (fun m => { m with fired := false }) = s.monitors.map fun m => { m with fired := false }
  mine : ∀ w ∈ s.warpsOf g, ∃ u ∈ t.warps, ∃ v,
    w.settle.SavedAs v (s.grid (s.gang g).grid).record.vregs
    ∧ u = { v with
        frag := { v.frag.rewind with held := false }, frags := v.frags.map fun f => { f.rewind with held := false }
        resident := false, lease := u.lease, locks := u.locks }
    ∧ u.lease.active = false ∧ u.lease.queued = false ∧ u.locks.map LockSlot.plain = w.locks.map LockSlot.plain
  others : ∀ w ∈ s.warps, (w.gang = g → w.live = false) → ∃ u ∈ t.warps, u.unleased = w.unleased

/-- Only the matrix context of a gang has changed, beside what the end of a command changes. -/
def State.matrix (s : State) (g : Nat) : Matrix := (s.gang g).mx

end Sys2Proof.Machine
end

