-- ==== Sys2Proof/Certificates/Slice0/Obligations.lean ====
section
/-! DEFINITION. The statements for the provers, with the tables that they range over. A table pairs an instruction with
the value that the spec gives its result, in Lean's own arithmetic of bit vectors where that has a name for it. -/

open Sys2Proof Sys2Proof.Machine

/-! ## Encoding (R43, R46, R56, R57) -/

/-- Decoding the word of a well-formed instruction gives it back, with every operand, whatever bytes follow. -/
def Obligations.DecodeEncode : Prop :=
  ∀ (i : Instr) (w : BitVec 32) (rest : List (BitVec 8)), i.wellFormed = true → encode i = [w] →
    decodeWord w = some i ∧ decodeBytes (bytesOfWord w ++ rest) = some (i, rest)

/-- A word that decodes is the word of the instruction it decodes to: each word has one reading, and no reserved bit or
code of it is ignored. -/
def Obligations.EncodeDecode : Prop :=
  ∀ (w : BitVec 32) (i : Instr), decodeWord w = some i → encode i = [w] ∧ i.wellFormed = true

/-- Words that the spec writes out decode to the instructions that it names.
A word of major 0x00, or of a major that the map reserves, is no instruction. -/
def Obligations.DecodeExamples : Prop :=
 (decodeWord 0x10304200 = some (.sadd 3 1 2 false false)
  ∧ decodeWord 0x1BC01880 = some (.enter 60 64)
  ∧ decodeWord 0x208BFFFD = some (.bnez 5 (-3))
  ∧ decodeWord 0x31C00005 = some (.brvf 3 5)
  ∧ decodeWord 0x44C0D48C = some (.vaddr 12 3 20 false false)
  ∧ decodeWord 0x4C214608 = some (.vclt 2 5 6 false false)
  ∧ decodeWord 0x50A2CC00 = some (.shfl 10 11 12 false false)
  ∧ decodeWord 0x58A2C300 = some (.faddScalar 10 11 3 false false)
  ∧ decodeWord 0x68108311 = some (.vmad 1 2 3 4 false)
  ∧ decodeWord 0x70408844 = some (.ldAcq 4 2 8 2 0 false)
  ∧ decodeWord 0x78A00820 = some (.ldp64 10 16 false)
  ∧ decodeWord 0x94050000 = some (.waitc 5 0)
  ∧ decodeWord 0x98029000 = some (.mlds 5 8 false)
  ∧ decodeWord 0xA880CC09 = some (.acas 8 3 12 2 false true)
  ∧ decodeWord 0xB0082470 = some (.llock 8 9 7)
  ∧ decodeWord 0xC0C0E200 = some (.cstep 14 0 false)
  ∧ decodeWord 0xD0450002 = some (.lease 5 2)
  ∧ decodeWord 0xE020C90B = some (.csrset 3 9 0x0B)
  ∧ decodeWord 0xE8100601 = some (.pglock 6 0 true)
  ∧ decodeWord 0x00000000 = none)
  ∧ (∀ w : BitVec 32,
       w.toNat / 2 ^ 26 ∈ [0x00, 0x02, 0x03, 0x07, 0x0E, 0x0F, 0x21, 0x31, 0x32, 0x33, 0x35, 0x36, 0x37,
                           0x3C, 0x3D, 0x3E, 0x3F] → decodeWord w = none)

/-! ## Steps, reset, invariants -/

/-- Trying the fragments of a list in turn, from a state, leaves others to be tried in another: each so far waits. -/
inductive Tried : State → List (Nat × Nat) → State → List (Nat × Nat) → Prop
  | start (s : State) (ts : List (Nat × Nat)) : Tried s ts s ts
  | waits {s t r : State} {w : Warp} {u e : Nat} {ts rest : List (Nat × Nat)} : s.findWarp u = some w →
      s.tryIssue w e = .next t → t.warp.frag.held = true → Tried t ts r rest → Tried s ((u, e) :: ts) r rest

/-- The step's move is to try the next unit of fragment `e` of warp `w` in state `b`; `f` is the state in which it fetches.
The agenda may choose a fragment; where it is empty and nothing is due, fragments are tried in order. -/
def Issues (s b f : State) (w : Warp) (e : Nat) : Prop :=
  s.inReset = false ∧ b.findWarp w.uid = some w ∧ f = b.choose w.uid e
  ∧ ((∃ rest g, s.agenda = .issue w.uid e :: rest ∧ b = { s with agenda := rest }
        ∧ w.allFrags.find? (fun g => g.entry == e && w.holds g) = some g ∧ b.mayChoose w g = true)
     ∨ (s.agenda = [] ∧ (s.tick 1).due = none ∧ ∃ rest, Tried (s.tick 1) (s.tick 1).tries b ((w.uid, e) :: rest)))

/-- The unit's word lies at `loc`, where fetch may read it; `g` is the state after it has been found, charged and read. -/
def Fetches (f g : State) (loc : Nat) : Prop :=
  ∃ x kind peer, f.translate f.warp.units f.warp.ctx f.warp.frag.fetch.toNat false false true = (x, .at_ loc kind peer)
    ∧ x.poisoned loc 4 = false
    ∧ g = ((x.chargeAll x.warp.ctx x.warp.site [(kind, loc, 4)]).readAt x.warp.agent kind loc 4).1

/-- What an issue turn adds to the execution of its unit: a STEP that waits for it is told, yields end, the lease counts the
cycle, and the fragments that could have issued in its place have been passed over once more (R82, R85, R293, R354). A
unit that waits ends no turn. -/
noncomputable def Turned (b f : State) (w : Warp) (e : Nat) (t : State) : State :=
  let t := (State.stepped f.warp t).turnOver
  if t.warp.frag.held || w.frags.isEmpty then t else t.passOver w.uid e ((b.rivals w e).map (·.entry))

/-- When the four bytes at the issuing fragment's address decode to an instruction, the step is that instruction's
execution and what the turn adds to it. Where fragments are tried in order, this is said of the first that does not wait. -/
def Obligations.StepRunsDecoded : Prop :=
  ∀ (s b f g : State) (w : Warp) (e loc : Nat) (i : Instr), Issues s b f w e → Fetches f g loc →
    decodeBytes (g.mem.readBytes loc 4) = some (i, []) →
    (s.agenda = [] → ∀ t, exec i g = .next t → (Turned b f w e t).warp.frag.held = false) →
    step s = match exec i g with
      | .next t => .next (Turned b f w e t)
      | stop => stop

/-- Every step keeps memory in its canonical form. -/
def Obligations.MemoryStaysCanonical : Prop := ∀ s t : State, s.mem.wf → step s = .next t → t.mem.wf

/-- Memory has its canonical form at reset.
The control registers that the map gives a reset value, and the mailbox, hold it. -/
def Obligations.ResetValues : Prop :=
 (State.reset.mem.wf)
  ∧ ((∀ e ∈ [(0x08, 0), (0x40, 7), (0x48, 3), (0x49, 16384), (0x4A, 0x100000), (0x4B, 262144), (0x50, 0), (0x51, 0),
             (0x52, 0), (0x61, 0), (0x62, 0)], State.reset.csrVal e.1 = BitVec.ofNat 64 e.2)
     ∧ (∀ k < 9, State.reset.mailbox.at (8 * k) = 0)
     ∧ (∀ q < 64, (State.reset.queue q).size = 0 ∧ (State.reset.queue q).err = false))

/-! ## Issue (R26, R38, R39, R58) -/

/-- The two-source scalar instructions and their results (R70, R71). -/
def scalarTable : List ((Fin 64 → Fin 64 → Fin 64 → Bool → Bool → Instr) × (Word64 → Word64 → Word64)) :=
  [(.sadd, fun p q => p + q), (.ssub, fun p q => p - q), (.smul, fun p q => p * q),
   (.smulh, fun p q => (p.signExtend 128 * q.signExtend 128).extractLsb' 64 64),
   (.smulhz, fun p q => (p.setWidth 128 * q.setWidth 128).extractLsb' 64 64),
   (.sdiv, fun p q => if q = 0 then BitVec.allOnes 64 else p.sdiv q),
   (.sdivz, fun p q => if q = 0 then BitVec.allOnes 64 else p / q),
   (.srem, fun p q => if q = 0 then p else p.srem q), (.sremz, fun p q => if q = 0 then p else p % q),
   (.sand, fun p q => p &&& q), (.sor, fun p q => p ||| q), (.sxor, fun p q => p ^^^ q),
   (.sandn, fun p q => p &&& ~~~q),
   (.sshl, fun p q => p <<< (q &&& 63)), (.sshr, fun p q => p >>> (q &&& 63)),
   (.ssra, fun p q => p.sshiftRight (q &&& 63).toNat),
   (.smin, fun p q => if p.slt q then p else q), (.smax, fun p q => if p.slt q then q else p),
   (.sminz, fun p q => if p.ult q then p else q), (.smaxz, fun p q => if p.ult q then q else p),
   (.sceq, fun p q => if p = q then 1 else 0), (.sclt, fun p q => if p.slt q then 1 else 0),
   (.scltz, fun p q => if p.ult q then 1 else 0)]

/-- The one-source ones. -/
def scalarTable1 : List ((Fin 64 → Fin 64 → Bool → Instr) × (Word64 → Word64)) :=
  [(.sclz, fun p => p.clz), (.spopc, fun p => BitVec.ofNat 64 ((List.finRange 64).countP fun i => p[i])),
   (.sbrev, fun p => p.reverse)]

/-- When they decode to nothing, the step raises ILLENC, or PRIV where R58 looks at privilege before the rest of the
word.
The issue of a two-source instruction waits for its destination, then judges its sources: an empty one without the
x bit makes it wait, an empty one with it raises EMPTYREAD, and a poisoned one raises POISON.
That the wait for an empty source without x comes before the EMPTYREAD of another is the model's reading (log 29).
The instructions of major 0x3A, and HALT, raise PRIV in a warp that is not privileged; STEP and WATCH in one whose
context is not marked for debugging besides; a CSR of a privileged number does.
A level-2 instruction raises ILLENC in a grid of level 1, whatever die the gang stands on. -/
def Obligations.IssueChecks : Prop :=
 (∀ (s b f g : State) (w : Warp) (e loc : Nat), Issues s b f w e → Fetches f g loc →
    decodeBytes (g.mem.readBytes loc 4) = none → g.Handles →
    let major := (g.mem.read (loc + 3)).toNat / 4
    ∃ t c, step s = .next (Turned b f w e t) ∧ Trapped g t c 0 g.warp.active g.warp.frag.pc 0
      ∧ (g.privileged = true ∨ major ∉ [0x3A, 0x3B] → c = .illenc)
      ∧ (g.privileged = false → major = 0x3A → c = .priv))
  ∧ (∀ e ∈ scalarTable, ∀ (s : State) (d a b : Fin 64) (x y : Bool), hintsLegal s.warp.frag.hints {} = true →
       let out := exec (e.1 d a b x y) s
       let full := fun r : Fin 64 => s.warp.full (.s r)
       (full d = false → Waits s out)
       ∧ (full d = true → (full a = false ∧ x = false) ∨ (full b = false ∧ y = false) → Waits s out)
       ∧ (s.Handles → full d = true → (full a = true ∨ x = true) → (full b = true ∨ y = true) →
           full a = false ∨ full b = false → Traps s out .emptyread)
       ∧ (s.Handles → full d = true → full a = true → full b = true →
           (a ≠ 0 ∧ s.warp.sPoison[a] = true) ∨ (b ≠ 0 ∧ s.warp.sPoison[b] = true) → Traps s out .poison))
  ∧ (∀ (s : State) (d a b : Fin 64) (m z k : Fin 4) (l : Fin 8) (c : Fin 256) (g : Bool),
       s.warp.ctx ≠ 0 → s.Handles →
       (∀ i ∈ [Instr.tlbinv b a m, .pglock a z g, .pgswap b a, .homemv b a, .halt d a g], Traps s (exec i s) .priv)
       ∧ (s.myContext.debug = false → ∀ i ∈ [Instr.stepW d a g, .watch a k l z], Traps s (exec i s) .priv)
       ∧ (hintsLegal s.warp.frag.hints {} = true → csrAssigned c = true → 0x40 ≤ c.val →
           ∀ i ∈ [Instr.csrr d c, .csrw d a c, .csrset d a c, .csrclr d a c], Traps s (exec i s) .priv))
  ∧ (∀ (s : State) (d a b : Fin 64) (x y g : Bool) (k : Fin 8) (p : Fin 4), s.gridLevel < 2 → s.Handles →
       ∀ i ∈ [Instr.vdot4 d a b x y, .vdot4z d a b x y, .vdot4Scalar d a b x y, .vdot4zScalar d a b x y, .mmult k a b p g],
         Traps s (exec i s) .illenc)

/-! ## Taking a trap and returning from one (R83, R329, R330, R335, R336) -/

/-- BRK and TRAP with their cause and code (R83). -/
def softTraps (c : Fin 64) : List (Instr × Cause × Nat) := [(.brk, .brkpt, 0), (.trap c, .trapinsn, c.val)]

/-- BRK and TRAP take their trap as completed units: the saved registers, the record and the handler are as R83 and R329
say, and the warp resumes at the next unit. While an issued instruction that a trap waits for has not completed, the fault
waits with the warp.
Without a handler, or in trap mode already, the supervisor gets the fault: a context marked for debugging, or a warp
that STEP lets issue, sees the warp in debug stop, any other context ends. -/
def Obligations.TrapInstructions : Prop :=
 (∀ (s : State) (c : Fin 64), s.Ready {} → ∀ k ∈ softTraps c,
    (s.Handles → ∃ t, exec k.1 s = .next t ∧ Trapped s t k.2.1 k.2.2 s.warp.active s.next 0)
    ∧ (s.quiet s.warp.settle = false → ∃ t r, exec k.1 s = .next t
        ∧ t = { s with warp := { s.warp.settle with raising := some r } }
        ∧ r.cause = k.2.1 ∧ r.code = k.2.2 ∧ r.pc = s.warp.frag.pc ∧ r.rpc = s.next ∧ r.lanes = s.warp.active))
  ∧ (∀ (s : State) (c : Fin 64), s.Ready {} → s.quiet s.warp.settle = true →
       (s.warp.trapvec.toNat / 4 % 2 ^ 55 = 0 ∧ s.warp.heldTraps = []) ∨ s.warp.trap.isSome = true → ∀ k ∈ softTraps c,
       ∃ t, exec k.1 s = .next t ∧ t.warp.trapcause = some k.2.1 ∧ t.warp.trappc = s.warp.frag.pc
         ∧ t.warp.traplanes = s.warp.active
         ∧ (s.myContext.debug = true ∨ s.warp.stepping = true →
             t.warp.debugStop = true ∧ t.warp.trap.isSome = s.warp.trap.isSome ∧ t.warp.frag.pc = s.next)
         ∧ (s.myContext.debug = false → s.warp.stepping = false →
             (∀ c ∈ t.contexts, c.num ≠ s.warp.ctx) ∧ ∀ w ∈ t.warps, w.ctx = s.warp.ctx → w.live = false))

/-- TRET restores the fragment table of the record, its trapping fragment at the resume address or at the one given, and
leaves trap mode.
TRET of a warp that is not fused raises ILLCONV, and outside trap mode it raises RANGE. -/
def Obligations.TretRestores : Prop :=
 (∀ (s : State) (m : TrapMode) (a : Fin 64) (pc : Pc), s.Ready { srcs := [(.s a, false)] } → s.warp.fused = true →
    s.warp.trap = some m → s.warp.heldTraps = [] → m.pend = none → m.record.park = [] →
    m.record.logged = false → (∃ f ∈ m.record.frags, f.entry = m.record.frag) →
    (∀ f ∈ m.record.frags, f.mask &&& s.warp.live32 ≠ 0) →
    (a = 0 ∧ pc = m.record.rpc ∨ a ≠ 0 ∧ (s.warp.readS a).toNat % 4 = 0 ∧ s.warp.readS a = pc.setWidth 64) →
    ∃ t, exec (.tret a) s = .next t
      ∧ t.warp.frag :: t.warp.frags = (m.record.frags.map fun f =>
          if f.entry = m.record.frag then
            { f with pc := pc, fetch := pc, hints := {}, state := .ready }
          else f)
      ∧ t = { s with warp := { s.warp with trap := none, park := [], frag := t.warp.frag, frags := t.warp.frags } })
  ∧ (∀ (s : State) (a : Fin 64), s.Ready { srcs := [(.s a, false)] } →
       (s.Handles → s.warp.fused = false → Traps s (exec (.tret a) s) .illconv)
       ∧ (s.Handles → s.warp.fused = true → Traps s (exec (.tret a) s) .range))

/-! ## Scalar instructions (R35, R41, R51, R69–R76) -/

/-- A scalar instruction delivers a value to its destination and goes on; register 0 reads as zero whatever is written,
and nothing else changes. -/
def ScalarDid (s : State) (out : Host.Outcome State Fault Refusal) (d : Fin 64) (x : Word64) : Prop :=
  ∃ t, out = .next t ∧ Did s t [.s d] s.next ∧ t.warp.HoldsS d x ∧ t.warp.fpflags = s.warp.fpflags

/-- A word that is no instruction: it decodes to nothing, and raises ILLENC where it is fetched. -/
def Illegal (w : BitVec 32) : Prop :=
  decodeWord w = none ∧ ∀ (s b f g : State) (x : Warp) (e loc : Nat), Issues s b f x e → Fetches f g loc →
    g.mem.readBytes loc 4 = bytesOfWord w → g.Handles →
    ∃ t, step s = .next (Turned b f x e t) ∧ Trapped g t .illenc 0 g.warp.active g.warp.frag.pc 0

/-- The `n`-bit field of a word from bit `lo` on. -/
def bits (w : BitVec 32) (lo n : Nat) : Nat := w.toNat / 2 ^ lo % 2 ^ n

/-- A word of format S3 (R46). -/
def s3Word (op sd sa sb fn : Nat) (xa xb : Bool) : BitVec 32 :=
  BitVec.ofNat 32 (op * 2 ^ 26 + sd * 2 ^ 20 + sa * 2 ^ 14 + sb * 2 ^ 8 + fn * 2 ^ 2 + xa.toNat * 2 + xb.toNat)

/-- A word of format I, with scalar fields (R46). -/
def immWord (op d a fn : Nat) (imm : BitVec 10) (x : Bool) : BitVec 32 :=
  BitVec.ofNat 32 (op * 2 ^ 26 + d * 2 ^ 20 + a * 2 ^ 14 + fn * 2 ^ 11 + imm.toNat * 2 + x.toNat)

/-- A word of format C (R46). -/
def condWord (op cond sa : Nat) (off : BitVec 17) : BitVec 32 :=
  BitVec.ofNat 32 (op * 2 ^ 26 + cond * 2 ^ 23 + sa * 2 ^ 17 + off.toNat)

/-- The instructions of one source and an immediate (R72); the flag marks a shift. -/
def immediateTable : List ((Fin 64 → Fin 64 → BitVec 10 → Bool → Instr) × Bool × (Word64 → Word64 → Word64)) :=
  [(.saddi, false, fun p q => p + q), (.sandi, false, fun p q => p &&& q), (.sori, false, fun p q => p ||| q),
   (.sxori, false, fun p q => p ^^^ q), (.sshli, true, fun p q => p <<< q), (.sshri, true, fun p q => p >>> q),
   (.ssrai, true, fun p q => p.sshiftRight q.toNat), (.sclti, false, fun p q => if p.slt q then 1 else 0),
   (.slih, false, fun p q => (q.setWidth 32 ++ p.setWidth 32 : BitVec 64))]

/-- The instructions of major 0x04 compute their table, with quotients and remainders of R70 by zero too.
Each stands at its code of major 0x04; the unary ones have no second source, and codes 26 to 63 are no instruction.
A unit of major 0x04 with another hint than HSCH, or with one kind of hint twice, raises ILLENC.
The immediate forms, SLI, SLIH and SADDPC take the immediate of R51; a shift by 64 or more is no instruction. -/
def Obligations.ScalarArithmetic : Prop :=
 ((∀ e ∈ scalarTable, ∀ (s : State) (d a b : Fin 64) (x y : Bool), s.Prompt →
    s.Ready { dests := [.s d], srcs := [(.s a, x), (.s b, y)] } →
    ScalarDid s (exec (e.1 d a b x y) s) d (e.2 (s.warp.readS a) (s.warp.readS b)))
  ∧ ∀ e ∈ scalarTable1, ∀ (s : State) (d a : Fin 64) (x : Bool), s.Prompt →
    s.Ready { dests := [.s d], srcs := [(.s a, x)] } →
    ScalarDid s (exec (e.1 d a x) s) d (e.2 (s.warp.readS a)))
  ∧ ((∀ k e, scalarTable[k]? = some e → ∀ (d a b : Fin 64) (x y : Bool), encode (e.1 d a b x y) = [s3Word 4 d a b k x y])
     ∧ (∀ k e, scalarTable1[k]? = some e → ∀ (d a : Fin 64) (x : Bool), encode (e.1 d a x) = [s3Word 4 d a 0 (23 + k) x false])
     ∧ ∀ w : BitVec 32, bits w 26 6 = 4 →
         26 ≤ bits w 2 6 ∨ (23 ≤ bits w 2 6 ∧ (bits w 8 6 ≠ 0 ∨ bits w 0 1 ≠ 0)) → Illegal w)
  ∧ (∀ s : State, s.Handles →
       s.warp.frag.hints.dup = true ∨ s.warp.frag.hints.himm ≠ none ∨ s.warp.frag.hints.hblk ≠ none
         ∨ s.warp.frag.hints.hmod ≠ none →
       (∀ e ∈ scalarTable, ∀ (d a b : Fin 64) (x y : Bool), Traps s (exec (e.1 d a b x y) s) .illenc)
       ∧ ∀ e ∈ scalarTable1, ∀ (d a : Fin 64) (x : Bool), Traps s (exec (e.1 d a x) s) .illenc)
  ∧ ((∀ e ∈ immediateTable, ∀ (s : State) (d a : Fin 64) (i : BitVec 10) (x : Bool),
       (s.Prompt → (e.2.1 = true → (s.immediate i).toNat < 64) →
         s.Ready { himm := true, dests := [.s d], srcs := [(.s a, x)] } →
         ScalarDid s (exec (e.1 d a i x) s) d (e.2.2 (s.warp.readS a) (s.immediate i)))
       ∧ (s.Handles → e.2.1 = true → 64 ≤ (s.immediate i).toNat → Traps s (exec (e.1 d a i x) s) .illenc))
     ∧ ∀ (s : State) (d : Fin 64) (i : BitVec 10), s.Prompt → s.Ready { himm := true, dests := [.s d] } →
       ScalarDid s (exec (.sli d i) s) d (s.immediate i)
       ∧ ScalarDid s (exec (.saddpc d i) s) d (s.warp.frag.fetch.setWidth 64 + s.immediate i))

/-- ENTER and LEAVE move the stack pointer, register 62, by 32 frames of a positive multiple of 16 bytes; the old value
reaches ENTER's destination, last of all. A frame that leaves the stack raises STKOVF, and any other size is no instruction.
They stand at codes 3 and 4 of major 0x06, where codes 5 to 7 and any other field are no instruction. -/
def Obligations.StackFrames : Prop :=
 (∀ (s : State) (d : Fin 64) (i : BitVec 10), s.Prompt →
    let n := (s.immediate i).toInt
    let sp := (s.warp.readS 62).toNat
    (0 < n ∧ n % 16 = 0 → s.Ready { himm := true, dests := [.s 62, .s d], srcs := [(.s 62, false)] } →
      (s.warp.stklim.toNat ≤ sp - 32 * n →
        ∃ t, exec (.enter d i) s = .next t ∧ Did s t [.s 62, .s d] s.next ∧ t.warp.HoldsS d (s.warp.readS 62)
          ∧ (d ≠ 62 → t.warp.HoldsS 62 (BitVec.ofInt 64 (sp - 32 * n))))
      ∧ (s.Handles → sp - 32 * n < s.warp.stklim.toNat → Traps s (exec (.enter d i) s) .stkovf))
    ∧ (0 < n ∧ n % 16 = 0 → s.Ready { himm := true, dests := [.s 62], srcs := [(.s 62, false)] } →
      (sp + 32 * n ≤ s.warp.stktop.toNat →
        ∃ t, exec (.leave i) s = .next t ∧ Did s t [.s 62] s.next
          ∧ t.warp.HoldsS 62 (BitVec.ofInt 64 (sp + 32 * n)))
      ∧ (s.Handles → (s.warp.stktop.toNat : Int) < sp + 32 * n → Traps s (exec (.leave i) s) .stkovf))
    ∧ (s.Handles → n ≤ 0 ∨ n % 16 ≠ 0 →
        Traps s (exec (.enter d i) s) .illenc ∧ Traps s (exec (.leave i) s) .illenc))
  ∧ ((∀ (d : Fin 64) (i : BitVec 10), encode (.enter d i) = [immWord 6 d 0 3 i false] ∧ encode (.leave i) = [immWord 6 0 0 4 i false])
     ∧ ∀ w : BitVec 32, bits w 26 6 = 6 →
         (bits w 11 3 = 3 ∧ (bits w 14 6 ≠ 0 ∨ bits w 0 1 ≠ 0)) ∨ (bits w 11 3 = 4 ∧ (bits w 14 12 ≠ 0 ∨ bits w 0 1 ≠ 0))
           ∨ 5 ≤ bits w 11 3 → Illegal w)

/-! ## Control flow (R44, R78–R82, R86–R90) -/

/-- The unit has moved the fragment and done nothing else. -/
def Goes (s : State) (out : Host.Outcome State Fault Refusal) (pc : Pc) : Prop :=
  ∃ t, out = .next t ∧ t = { s with warp := t.warp } ∧ s.warp.frag.MovedTo t.warp.frag pc
    ∧ t.warp = { s.warp with frag := t.warp.frag }

/-- The branches on a scalar and their conditions (R78). -/
def branchTable : List ((Fin 64 → BitVec 17 → Instr) × (Word64 → Bool)) :=
  [(.beqz, fun v => v == 0), (.bnez, fun v => v != 0), (.bltz, fun v => v.msb), (.bgez, fun v => !v.msb),
   (.blez, fun v => v == 0 || v.msb), (.bgtz, fun v => v != 0 && !v.msb)]

/-- A branch goes to PC + 4 x offset, counted from its own word, where its condition holds, and else to the next unit;
BRA and JMP always go.
A branch waits for an empty source. Condition 7 of major 0x08, and BRA with a source, are no instruction.
Calls leave the address of the next unit, in 64 bits, in register 63; CALLR, JR and RET go to a register's value.
A target that is not a multiple of 4 raises ALIGN, and one of 2^57 or more RANGE; the record's ADDR holds it. -/
def Obligations.BranchesAndCalls : Prop :=
 ((∀ e ∈ branchTable, ∀ (s : State) (a : Fin 64) (o : BitVec 17), s.Ready { srcs := [(.s a, false)] } →
    Goes s (exec (e.1 a o) s) (if e.2 (s.warp.readS a) then s.warp.frag.fetch + 4 * o.signExtend 57 else s.next))
  ∧ ∀ (s : State), s.Ready {} →
    (∀ o : BitVec 17, Goes s (exec (.bra o) s) (s.warp.frag.fetch + 4 * o.signExtend 57))
    ∧ ∀ o : BitVec 26, Goes s (exec (.jmp o) s) (s.warp.frag.fetch + 4 * o.signExtend 57))
  ∧ ((∀ k e, branchTable[k]? = some e → ∀ (a : Fin 64) (o : BitVec 17),
       encode (e.1 a o) = [condWord 8 k a o]
       ∧ ∀ s : State, hintsLegal s.warp.frag.hints {} = true → s.warp.full (.s a) = false → Waits s (exec (e.1 a o) s))
     ∧ (∀ o : BitVec 17, encode (.bra o) = [condWord 8 6 0 o])
     ∧ ∀ w : BitVec 32, bits w 26 6 = 8 → bits w 23 3 = 7 ∨ (bits w 23 3 = 6 ∧ bits w 17 6 ≠ 0) → Illegal w)
  ∧ (∀ (s : State) (a : Fin 64) (x : Bool) (o : BitVec 26) (pc : Pc), s.Prompt →
       let calls := fun (out : Host.Outcome State Fault Refusal) (pc : Pc) =>
         ∃ t, out = .next t ∧ Did s t [.s 63] pc ∧ t.warp.HoldsS 63 (s.warp.frag.fetch.setWidth 64 + 4)
       (s.Ready { dests := [.s 63] } → calls (exec (.call o) s) (s.warp.frag.fetch + 4 * o.signExtend 57))
       ∧ (pc.toNat % 4 = 0 → s.warp.readS a = pc.setWidth 64 →
           (s.Ready { dests := [.s 63], srcs := [(.s a, x)] } → calls (exec (.callr a x) s) pc)
           ∧ (s.Ready { srcs := [(.s a, x)] } → Goes s (exec (.jr a x) s) pc))
       ∧ (pc.toNat % 4 = 0 → pc ≠ 0 → s.warp.readS 63 = pc.setWidth 64 → s.Ready { srcs := [(.s 63, false)] } →
           Goes s (exec .ret s) pc))
  ∧ (∀ (s : State) (a : Fin 64) (x : Bool), s.Handles →
       let checked := fun (out : Host.Outcome State Fault Refusal) (v : Word64) =>
         (v.toNat % 4 ≠ 0 → Traps s out .align v) ∧ (v.toNat % 4 = 0 → 2 ^ 57 ≤ v.toNat → Traps s out .range v)
       (s.Ready { srcs := [(.s a, x)] } → checked (exec (.jr a x) s) (s.warp.readS a))
       ∧ (s.Ready { dests := [.s 63], srcs := [(.s a, x)] } → checked (exec (.callr a x) s) (s.warp.readS a))
       ∧ (s.Ready { srcs := [(.s 63, false)] } → checked (exec .ret s) (s.warp.readS 63)))

/-- NOP does nothing, YIELD gives up the fragment's next turn, and a hint word joins the unit being fetched, marking it
where it is the second of its kind.
EXIT, and RET with a zero link register, end the fragment: its lanes have exited, registers and memory stay, and its
entry is free: the other fragments keep theirs, and the newest parked record takes a free one. While an instruction issued
by some of its lanes has not completed it waits (log 22). In trap mode they end the warp as a whole: every lane has exited, what the record saved is
discarded with the warp's pending instructions and monitors, and locks stay held until it retires. -/
def Obligations.ExitYieldHints : Prop :=
 (∀ s : State,
    (s.Ready {} → Goes s (exec .nop s) s.next ∧ Goes s (exec .yield s) s.next
      ∧ ∀ t, exec .yield s = .next t → t.warp.frag.yielded = true)
    ∧ ∀ p : BitVec 22,
      let f := s.warp.frag
      let joined := fun (h : Hints) => Host.Outcome.next (φ := Fault) (ρ := Refusal)
        { s with warp := { s.warp with frag := { f with hints := h, fetch := f.fetch + 4 } } }
      exec (.himm p) s = joined (if f.hints.himm = none then { f.hints with himm := some p } else { f.hints with dup := true })
      ∧ exec (.hblk p) s = joined (if f.hints.hblk = none then { f.hints with hblk := some p } else { f.hints with dup := true })
      ∧ exec (.hmod p) s = joined (if f.hints.hmod = none then { f.hints with hmod := some p } else { f.hints with dup := true })
      ∧ exec (.hsch p) s = joined (if f.hints.hsch = none then { f.hints with hsch := some p } else { f.hints with dup := true }))
  ∧ (∀ s : State,
       let waits := fun p : Pending => (s.warp.trap = none ∨ p.gen = s.warp.traps) ∧ p.mask &&& s.warp.frag.mask ≠ 0
         ∧ (p.kind = .result ∨ p.kind = .lanes ∨ ∃ k, p.kind = .command k)
       let ends := fun (out : Host.Outcome State Fault Refusal) =>
         ((∃ p ∈ s.warp.pend, waits p) → Waits s out)
         ∧ ((∀ p ∈ s.warp.pend, ¬ waits p) → s.warp.trap = none →
           ∃ t, out = .next t ∧ t.warp.exited = s.warp.exited ||| s.warp.frag.mask
             ∧ t = { s with warp := { s.warp with
                 exited := t.warp.exited, frag := t.warp.frag, frags := t.warp.frags, park := t.warp.park } }
             ∧ (s.warp.frags = [] → s.warp.park = [] → t.warp.usedFrags = [] ∧ t.warp.frags = [] ∧ t.warp.park = [])
             ∧ ((∀ f ∈ s.warp.frags, f.mask &&& s.warp.live32 &&& ~~~s.warp.frag.mask ≠ 0) →
                 (∃ f ∈ s.warp.frags, f.state = .ready) →
                 (s.warp.park = [] → t.warp.frags = s.warp.frags ∧ t.warp.park = [] ∧ t.warp.usedFrags = s.warp.frags)
                 ∧ ∀ p, s.warp.park = [p] → p.mask &&& s.warp.live32 &&& ~~~s.warp.frag.mask ≠ 0 →
                     (∃ e < 16, ∀ f ∈ s.warp.frags, f.entry ≠ e) →
                     t.warp.park = [] ∧ ∃ e, (∀ f ∈ s.warp.frags, f.entry ≠ e)
                       ∧ t.warp.frags = s.warp.frags ++ [{ Fragment.start p.pc with entry := e, mask := p.mask }]))
         ∧ ((∀ p ∈ s.warp.pend, ¬ waits p) → s.warp.trap.isSome = true → s.warp.heldTraps = [] → s.warp.heldFaults = [] →
           ∃ t, out = .next t ∧ t.warp.exited = s.warp.exited ||| ~~~s.warp.dead ∧ t.warp.usedFrags = []
             ∧ t.warp = { s.warp with
                 exited := t.warp.exited, frags := [], park := [], pend := [], log := [], trap := t.warp.trap
                 locks := s.warp.locks.filter (·.held) }
             ∧ (s.warp.out = [] → t.warp.trap = none)
             ∧ (∀ m ∈ t.monitors, m.warp ≠ s.warp.uid)
             ∧ (s.partials = [] → (∀ p ∈ s.warp.pend, p.killed = 0) → ∀ a, t.mem.read a = s.mem.read a))
       (s.Ready {} → ends (exec .exit s))
       ∧ (s.Ready { srcs := [(.s 63, false)] } → s.warp.readS 63 = 0 → ends (exec .ret s)))

/-- A divergent branch splits the live active lanes by its mask: the taken side goes to the target and the other to the
next unit, in one fragment where a side is empty, in two where the table has a free entry, and else with the other side
parked.
FUSE makes its fragment wait at the point while another fragment can go on, merges it with the one that waits there,
and releases it at the word after once it is the only fragment left. -/
def Obligations.DivergenceAndFusion : Prop :=
 (∀ (s : State) (m : Fin 8) (o : BitVec 17) (neg : Bool), s.Ready { srcs := [(.m m, false)] } →
    let c := if neg then ~~~(s.mask m) else s.mask m
    let taken := s.warp.active &&& c
    let other := s.warp.active &&& ~~~c
    let target := s.warp.frag.fetch + 4 * o.signExtend 57
    let moved := fun (t : State) (mask : Word32) (pc : Pc) =>
      ({ s.warp.frag with mask := mask } : Fragment).MovedTo t.warp.frag pc
    ∃ t, exec (if neg then .brvf m o else .brvt m o) s = .next t ∧ t = { s with warp := t.warp }
      ∧ t.warp = { s.warp with frag := t.warp.frag, frags := t.warp.frags, park := t.warp.park }
      ∧ (other = 0 → moved t taken target ∧ t.warp.frags = s.warp.frags ∧ t.warp.park = s.warp.park)
      ∧ (other ≠ 0 → taken = 0 → moved t other s.next ∧ t.warp.frags = s.warp.frags ∧ t.warp.park = s.warp.park)
      ∧ (other ≠ 0 → taken ≠ 0 → ∀ e, s.warp.freeEntry = some e →
          moved t other s.next ∧ t.warp.park = s.warp.park
          ∧ t.warp.frags = s.warp.frags ++ [{ Fragment.start target with entry := e, mask := taken }])
      ∧ (other ≠ 0 → taken ≠ 0 → s.warp.freeEntry = none →
          moved t taken target ∧ t.warp.frags = s.warp.frags ∧ t.warp.park = { pc := s.next, mask := other } :: s.warp.park))
  ∧ (∀ (s : State) (n : Fin 64), s.Ready {} → s.warp.park = [] → s.warp.holds s.warp.frag = true →
       (∀ f ∈ s.warp.frags, s.warp.holds f = true) →
       let pc := s.warp.frag.fetch
       let yields := (s.warp.frag.hints.hsch.getD 0).getLsbD 21
       ∃ t, exec (.fuse n) s = .next t
         ∧ t = { s with warp := { s.warp with frag := t.warp.frag, frags := t.warp.frags } }
         ∧ ((∀ f ∈ s.warp.frags, f.state ≠ .waiting n.val) → (∃ f ∈ s.warp.frags, f.state = .ready) →
             t.warp.frags = s.warp.frags
             ∧ t.warp.frag = { s.warp.frag with pc := pc, fetch := pc, hints := {}, state := .waiting n.val, yielded := yields })
         ∧ (s.warp.frags = [] →
             t.warp.frags = [] ∧ t.warp.frag = { s.warp.frag with
               pc := pc + 4, fetch := pc + 4, hints := {}, state := .ready, yielded := yields })
         ∧ (∀ g, s.warp.frags = [g] → g.state = .waiting n.val → g.entry ≠ s.warp.frag.entry →
             t.warp.frags = [] ∧ t.warp.frag.mask = s.warp.frag.mask ||| g.mask ∧ t.warp.frag.state = .ready
             ∧ t.warp.frag.entry = min s.warp.frag.entry g.entry
             ∧ t.warp.frag.pc = (if g.pc.toNat < pc.toNat then g.pc else pc) + 4))

/-- The instructions from mask registers to a mask register (R90). -/
def maskTable : List ((Fin 8 → Fin 8 → Fin 8 → Instr) × (Word32 → Word32 → Word32)) :=
  [(.mand, fun p q => p &&& q), (.mor, fun p q => p ||| q), (.mxor, fun p q => p ^^^ q),
   (.mandn, fun p q => p &&& ~~~q), (fun d a _ => .mnot d a, fun p _ => ~~~p)]

/-- A mask register receives a value and the unit goes on; m0 is no destination. -/
def MaskDid (s : State) (out : Host.Outcome State Fault Refusal) (d : Fin 8) (x : Word32) : Prop :=
  (d ≠ 0 → ∃ t, out = .next t
    ∧ t = { s with warp := { s.warp with m := s.warp.m.set d x, frag := t.warp.frag } }
    ∧ s.warp.frag.MovedTo t.warp.frag s.next)
  ∧ (d = 0 → s.Handles → Traps s out .illenc)

/-! ## Vector instructions (R52, R93–R108) -/

/-- A signed sum or difference that stops at the ends of the range. -/
def satAdd (p q : Word32) : Word32 :=
  if p.saddOverflow q then (if p.msb then BitVec.intMin 32 else BitVec.intMax 32) else p + q
def satSub (p q : Word32) : Word32 :=
  if p.ssubOverflow q then (if p.msb then BitVec.intMin 32 else BitVec.intMax 32) else p - q

/-- The field that VBFE and VBFI name: its position and a mask of its width (R97). -/
def fieldPos (q : Word32) : Nat := q.toNat % 32
def fieldMask (q : Word32) : Word32 := BitVec.ofNat 32 (2 ^ min ((q >>> 8).toNat % 64) (32 - fieldPos q) - 1)

/-- The 32-bit operations on two sources, with their vector and scalar forms (R96, R97). -/
def vectorTable : List ((Fin 64 → Fin 64 → Fin 64 → Bool → Bool → Instr)
    × (Fin 64 → Fin 64 → Fin 64 → Bool → Bool → Instr) × (Word32 → Word32 → Word32)) :=
  [(.vadd, .vaddScalar, fun p q => p + q), (.vsub, .vsubScalar, fun p q => p - q),
   (.vmul, .vmulScalar, fun p q => p * q),
   (.vmulh, .vmulhScalar, fun p q => (p.signExtend 64 * q.signExtend 64).extractLsb' 32 32),
   (.vmulhz, .vmulhzScalar, fun p q => (p.setWidth 64 * q.setWidth 64).extractLsb' 32 32),
   (.vmin, .vminScalar, fun p q => if p.slt q then p else q), (.vmax, .vmaxScalar, fun p q => if p.slt q then q else p),
   (.vminz, .vminzScalar, fun p q => if p.ult q then p else q),
   (.vmaxz, .vmaxzScalar, fun p q => if p.ult q then q else p),
   (.vand, .vandScalar, fun p q => p &&& q), (.vor, .vorScalar, fun p q => p ||| q),
   (.vxor, .vxorScalar, fun p q => p ^^^ q), (.vandn, .vandnScalar, fun p q => p &&& ~~~q),
   (.vshl, .vshlScalar, fun p q => p <<< (q &&& 31)), (.vshr, .vshrScalar, fun p q => p >>> (q &&& 31)),
   (.vsra, .vsraScalar, fun p q => p.sshiftRight (q &&& 31).toNat),
   (.vabsd, .vabsdScalar, fun p q => if p.slt q then q - p else p - q),
   (.vsadd, .vsaddScalar, satAdd), (.vssub, .vssubScalar, satSub),
   (.vsaddz, .vsaddzScalar, fun p q => if p.uaddOverflow q then BitVec.allOnes 32 else p + q),
   (.vssubz, .vssubzScalar, fun p q => if p.ult q then 0 else p - q),
   (.vbfe, .vbfeScalar, fun p q => p >>> fieldPos q &&& fieldMask q),
   (.vdiv, .vdivScalar, fun p q => if q = 0 then BitVec.allOnes 32 else p.sdiv q),
   (.vdivz, .vdivzScalar, fun p q => if q = 0 then BitVec.allOnes 32 else p / q),
   (.vrem, .vremScalar, fun p q => if q = 0 then p else p.srem q),
   (.vremz, .vremzScalar, fun p q => if q = 0 then p else p % q)]

/-- The operations that read their destination too; the flag marks level 2 (R98). -/
def accumulateTable : List ((Fin 64 → Fin 64 → Fin 64 → Bool → Bool → Instr)
    × (Fin 64 → Fin 64 → Fin 64 → Bool → Bool → Instr) × Bool × (Word32 → Word32 → Word32 → Word32)) :=
  [(.vbfi, .vbfiScalar, false, fun d p q =>
      d &&& ~~~(fieldMask q <<< fieldPos q) ||| (p &&& fieldMask q) <<< fieldPos q),
   (.vdot4, .vdot4Scalar, true, fun d p q => (List.range 4).foldl (fun t k =>
      t + (p.extractLsb' (8 * k) 8).signExtend 32 * (q.extractLsb' (8 * k) 8).signExtend 32) d),
   (.vdot4z, .vdot4zScalar, true, fun d p q => (List.range 4).foldl (fun t k =>
      t + (p.extractLsb' (8 * k) 8).setWidth 32 * (q.extractLsb' (8 * k) 8).setWidth 32) d)]

/-- The operations with 64-bit results in pairs: from a pair and a word, and from two words (R97). -/
def wideTable : List ((Fin 64 → Fin 64 → Fin 64 → Bool → Bool → Instr)
    × (Fin 64 → Fin 64 → Fin 64 → Bool → Bool → Instr) × (Word64 → Word32 → Word64)) :=
  [(.vaddw, .vaddwScalar, fun p q => p + q.signExtend 64), (.vsubw, .vsubwScalar, fun p q => p - q.signExtend 64)]
def productTable : List ((Fin 64 → Fin 64 → Fin 64 → Bool → Bool → Instr)
    × (Fin 64 → Fin 64 → Fin 64 → Bool → Bool → Instr) × (Word32 → Word32 → Word64)) :=
  [(.vmulw, .vmulwScalar, fun p q => p.signExtend 64 * q.signExtend 64),
   (.vmulwz, .vmulwzScalar, fun p q => p.setWidth 64 * q.setWidth 64)]

/-- VBFI, VDOT4 and VDOT4Z combine with the old destination, and VMAD takes three sources.
The wide operations write both halves of their pair, and VADDR adds an offset to a 64-bit base. -/
def Obligations.VectorAccumulate : Prop :=
 ((∀ e ∈ accumulateTable, ∀ (s : State) (d a b : Fin 64) (x y : Bool), s.Prompt →
    (let v : VOp := { d := d, vs := [{ base := a, x := x }, { base := b, x := y }], readsD := true }
     s.Ready (v.need { hblk := true, level2 := e.2.2.1 } s.warp.frag.hints) → s.Clean v →
      VecDid s (exec (e.1 d a b x y) s) v
        (fun o l => (e.2.2.2 (s.elem d o l) (s.elem a o l) (s.elem b o l)).setWidth 64) 0)
    ∧ (let v : VOp := { d := d, vs := [{ base := a, x := x }], ss := [(b, y)], readsD := true }
       s.Ready (v.need { hblk := true, level2 := e.2.2.1 } s.warp.frag.hints) → s.Clean v →
        VecDid s (exec (e.2.1 d a b x y) s) v
          (fun o l => (e.2.2.2 (s.elem d o l) (s.elem a o l) (s.low b)).setWidth 64) 0))
  ∧ ∀ (s : State) (d a b c : Fin 64) (x : Bool), s.Prompt →
    let v : VOp := { d := d, vs := [{ base := a, x := x }, { base := b, x := x }, { base := c, x := x }] }
    s.Ready (v.need { hblk := true } s.warp.frag.hints) → s.Clean v →
      VecDid s (exec (.vmad d a b c x) s) v
        (fun o l => (s.elem a o l * s.elem b o l + s.elem c o l).setWidth 64) 0)
  ∧ ((∀ e ∈ wideTable, ∀ (s : State) (d a b : Fin 64) (x y : Bool), s.Prompt → d.val % 2 = 0 → a.val % 2 = 0 →
       (let v : VOp := { dw := 2, d := d, vs := [{ base := a, width := 2, x := x }, { base := b, x := y }] }
        s.Ready (v.need {} s.warp.frag.hints) → s.Clean v →
         VecDid s (exec (e.1 d a b x y) s) v (fun _ l => e.2.2 (s.pairOf a l) (s.elem b 0 l)) 0)
       ∧ (let v : VOp := { dw := 2, d := d, vs := [{ base := a, width := 2, x := x }], ss := [(b, y)] }
          s.Ready (v.need {} s.warp.frag.hints) → s.Clean v →
           VecDid s (exec (e.2.1 d a b x y) s) v (fun _ l => e.2.2 (s.pairOf a l) (s.low b)) 0))
     ∧ (∀ e ∈ productTable, ∀ (s : State) (d a b : Fin 64) (x y : Bool), s.Prompt → d.val % 2 = 0 →
       (let v : VOp := { dw := 2, d := d, vs := [{ base := a, x := x }, { base := b, x := y }] }
        s.Ready (v.need {} s.warp.frag.hints) → s.Clean v →
         VecDid s (exec (e.1 d a b x y) s) v (fun _ l => e.2.2 (s.elem a 0 l) (s.elem b 0 l)) 0)
       ∧ (let v : VOp := { dw := 2, d := d, vs := [{ base := a, x := x }], ss := [(b, y)] }
          s.Ready (v.need {} s.warp.frag.hints) → s.Clean v →
           VecDid s (exec (e.2.1 d a b x y) s) v (fun _ l => e.2.2 (s.elem a 0 l) (s.low b)) 0))
     ∧ ∀ (s : State) (d a b : Fin 64) (x y : Bool), s.Prompt → d.val % 2 = 0 →
       let v : VOp := { dw := 2, d := d, vs := [{ base := a, x := x }], ss := [(b, y)] }
       s.Ready (v.need {} s.warp.frag.hints) → s.Clean v →
         VecDid s (exec (.vaddr d a b x y) s) v (fun _ l => s.warp.readS b + (s.elem a 0 l).signExtend 64) 0)

/-- The one-source operations. -/
def vectorTable1 : List ((Fin 64 → Fin 64 → Bool → Instr) × (Word32 → Word32)) :=
  [(.vclz, fun p => p.clz), (.vpopc, fun p => BitVec.ofNat 32 ((List.finRange 32).countP fun i => p[i])),
   (.vbrev, fun p => p.reverse), (.vmov, fun p => p)]

/-- The immediate operations (R100); the flag marks a shift. -/
def vectorImmediates : List ((Fin 64 → Fin 64 → BitVec 10 → Bool → Instr) × Bool × (Word32 → Word32 → Word32)) :=
  [(.vaddi, false, fun p q => p + q), (.vandi, false, fun p q => p &&& q), (.vori, false, fun p q => p ||| q),
   (.vxori, false, fun p q => p ^^^ q), (.vshli, true, fun p q => p <<< q), (.vshri, true, fun p q => p >>> q),
   (.vsrai, true, fun p q => p.sshiftRight q.toNat)]

/-- One source, an immediate, or a value for every lane.
VSEL takes each lane's element from the source that its mask bit names; that poison in the other source
kills nothing is the model's reading (log 27). -/
def Obligations.VectorUnary : Prop :=
 ((∀ e ∈ vectorTable1, ∀ (s : State) (d a : Fin 64) (x : Bool), s.Prompt →
    let v : VOp := { d := d, vs := [{ base := a, x := x }] }
    s.Ready (v.need { hblk := true } s.warp.frag.hints) → s.Clean v →
      VecDid s (exec (e.1 d a x) s) v (fun o l => (e.2 (s.elem a o l)).setWidth 64) 0)
  ∧ (∀ e ∈ vectorImmediates, ∀ (s : State) (d a : Fin 64) (i : BitVec 10) (x : Bool),
    let v : VOp := { d := d, vs := [{ base := a, x := x }] }
    let imm := (s.immediate i).setWidth 32
    (s.Prompt → (e.2.1 = true → imm.toNat < 32) →
      s.Ready (v.need { himm := true, hblk := true } s.warp.frag.hints) → s.Clean v →
      VecDid s (exec (e.1 d a i x) s) v (fun o l => (e.2.2 (s.elem a o l) imm).setWidth 64) 0)
    ∧ (s.Handles → e.2.1 = true → 32 ≤ imm.toNat → Traps s (exec (e.1 d a i x) s) .illenc))
  ∧ (∀ (s : State) (d : Fin 64) (i : BitVec 10), s.Prompt →
    let v : VOp := { d := d, vs := [] }
    s.Ready (v.need { himm := true, hblk := true } s.warp.frag.hints) →
      VecDid s (exec (.vmovi d i) s) v (fun _ _ => ((s.immediate i).setWidth 32 : Word32).setWidth 64) 0)
  ∧ ∀ (s : State) (d b : Fin 64) (y : Bool), s.Prompt →
    let v : VOp := { d := d, vs := [], ss := [(b, y)] }
    s.Ready (v.need { hblk := true } s.warp.frag.hints) →
      VecDid s (exec (.vmovScalar d b y) s) v (fun _ _ => (s.low b).setWidth 64) 0)
  ∧ (∀ (s : State) (d a b : Fin 64) (k : Fin 8) (x y : Bool), s.Prompt →
       let v : VOp := { d := d, vs := [{ base := a, x := x }, { base := b, x := y }], ms := [k] }
       s.Ready (v.need { hblk := true } s.warp.frag.hints) →
       (∀ o ∈ s.elems v, (s.mask k &&& s.warp.vPoison[regAt a o] ||| ~~~(s.mask k) &&& s.warp.vPoison[regAt b o])
         &&& s.warp.active = 0) →
       VecDid s (exec (.vsel d a b k x y) s) v
         (fun o l => (if (s.mask k)[l] then s.elem a o l else s.elem b o l).setWidth 64) 0)

/-- Every element of every live active lane gets its operation's value; a block's elements each their own.
Lanes that read poison are killed and keep their elements; the others are written, and the warp goes on (R108, R342).
Without an event ring the LANEDEAD record is dropped and memory stays (the model's choice: log 23). -/
def Obligations.VectorArithmetic : Prop :=
 (∀ e ∈ vectorTable, ∀ (s : State) (d a b : Fin 64) (x y : Bool), s.Prompt →
    (let v : VOp := { d := d, vs := [{ base := a, x := x }, { base := b, x := y }] }
     s.Ready (v.need { hblk := true } s.warp.frag.hints) → s.Clean v →
      VecDid s (exec (e.1 d a b x y) s) v (fun o l => (e.2.2 (s.elem a o l) (s.elem b o l)).setWidth 64) 0)
    ∧ (let v : VOp := { d := d, vs := [{ base := a, x := x }], ss := [(b, y)] }
       s.Ready (v.need { hblk := true } s.warp.frag.hints) → s.Clean v →
        VecDid s (exec (e.2.1 d a b x y) s) v (fun o l => (e.2.2 (s.elem a o l) (s.low b)).setWidth 64) 0))
  ∧ (∀ e ∈ vectorTable, ∀ (s : State) (d a b : Fin 64) (x y : Bool), s.Prompt →
       let v : VOp := { d := d, vs := [{ base := a, x := x }, { base := b, x := y }] }
       let killed := (s.warp.vPoison[a] ||| s.warp.vPoison[b]) &&& s.warp.active
       s.Ready (v.need { hblk := true } s.warp.frag.hints) → s.warp.frag.hints.hblk = none →
       killed ≠ 0 → s.warp.frag.state = .ready →
       ∃ t, exec (e.1 d a b x y) s = .next t ∧ t.warp.dead = s.warp.dead ||| killed
         ∧ (∀ l : Fin 32, t.warp.v[d][l] =
             if (s.warp.active &&& ~~~killed)[l] then e.2.2 s.warp.v[a][l] s.warp.v[b][l] else s.warp.v[d][l])
         ∧ s.warp.Keeps t.warp [.v d] ∧ t.warp.frag.pc = s.next ∧ t.others = s.others
         ∧ t.nextTag = s.nextTag + 1 ∧ (s.mailbox.evsize = 0 → t.mem = s.mem)
         ∧ (s.mailbox.evsize ≠ 0 → s.mailbox.evtail - s.mailbox.evhead ≠ BitVec.ofNat 64 (2 ^ s.mailbox.evsize.toNat) →
             t.mailbox = { s.mailbox with evtail := s.mailbox.evtail + 1 }))

/-- The compares and what they hold, with the conditions they raise (R101, R102): the floating-point ones see the values that
the codes stand for, and only FCLT and FCLE raise invalid for a quiet NaN. -/
def compareTable : List ((Fin 8 → Fin 64 → Fin 64 → Bool → Bool → Instr) × (Word32 → Word32 → Bool × BitVec 5)) :=
  let fp := fun (quiet : Bool) (f : Value → Value → Bool) (p q : Word32) =>
    let x := valueOf 0 p.toNat 0
    let y := valueOf 0 q.toNat 0
    (f x.1 y.1, if x.2 ∨ y.2 ∨ (quiet = false ∧ (x.1 = .nan ∨ y.1 = .nan)) then fNV else 0)
  [(.vceq, fun p q => (p == q, 0)), (.vcne, fun p q => (p != q, 0)), (.vclt, fun p q => (p.slt q, 0)),
   (.vcle, fun p q => (p.sle q, 0)), (.vcltz, fun p q => (p.ult q, 0)), (.vclez, fun p q => (p.ule q, 0)),
   (.fceq, fp true Value.same), (.fcne, fp true fun p q => !p.same q), (.fclt, fp false Value.less),
   (.fcle, fp false fun p q => p.less q || p.same q), (.fcun, fp true fun p q => decide (p = .nan) || decide (q = .nan))]

/-- The mask instructions compute their table.
They stand at codes 1 to 10 of major 0x0D. A field that names a mask holds 0 to 7, an unused one 0; codes from 11 on
are no instruction. m0 reads as the fragment's mask.
A compare writes the bits of the live active lanes in its mask register, keeps the others, and changes nothing else
but the flags; poison would reach the mask, and raises POISON (the model's reading of R342: log 28). A mask
register is half a granule, whose mark stays when it is written (log 86). -/
def Obligations.ComparesAndMasks : Prop :=
 ((∀ e ∈ maskTable, ∀ (s : State) (d a b : Fin 8), s.Ready { srcs := [(.m a, false), (.m b, false)] } →
    MaskDid s (exec (e.1 d a b) s) d (e.2 (s.mask a) (s.mask b)))
  ∧ (∀ (s : State) (d a : Fin 8), s.Ready { srcs := [(.m a, false)] } → MaskDid s (exec (.mlive d a) s) d (s.mask a &&& ~~~s.warp.dead))
  ∧ (∀ (s : State) (d : Fin 8) (a : Fin 64) (x : Bool), s.Ready { srcs := [(.s a, x)] } →
    MaskDid s (exec (.mset d a x) s) d ((s.warp.readS a).setWidth 32))
  ∧ ∀ (s : State) (d : Fin 64) (a : Fin 8), s.Prompt → s.Ready { dests := [.s d], srcs := [(.m a, false)] } →
    ScalarDid s (exec (.mget d a) s) d ((s.mask a).setWidth 64)
    ∧ ScalarDid s (exec (.mpopc d a) s) d (BitVec.ofNat 64 (lanesOf (s.mask a)).length)
    ∧ ScalarDid s (exec (.mffs d a) s) d (BitVec.ofNat 64 (((lanesOf (s.mask a)).head?.map Fin.val).getD 32)))
  ∧ ((∀ s : State, s.mask 0 = s.warp.frag.mask ∧ ∀ k : Fin 8, k ≠ 0 → s.mask k = s.warp.m[k])
     ∧ (∀ (d a b : Fin 8) (r : Fin 64) (x : Bool),
         encode (.mset d r x) = [s3Word 13 d r 0 1 x false] ∧ encode (.mget r a) = [s3Word 13 r a 0 2 false false]
         ∧ encode (.mand d a b) = [s3Word 13 d a b 3 false false] ∧ encode (.mor d a b) = [s3Word 13 d a b 4 false false]
         ∧ encode (.mxor d a b) = [s3Word 13 d a b 5 false false] ∧ encode (.mandn d a b) = [s3Word 13 d a b 6 false false]
         ∧ encode (.mnot d a) = [s3Word 13 d a 0 7 false false] ∧ encode (.mpopc r a) = [s3Word 13 r a 0 8 false false]
         ∧ encode (.mffs r a) = [s3Word 13 r a 0 9 false false] ∧ encode (.mlive d a) = [s3Word 13 d a 0 10 false false])
     ∧ ∀ w : BitVec 32, bits w 26 6 = 13 →
         let fn := bits w 2 6
         let toMask := fn ∈ [1, 3, 4, 5, 6, 7, 10]
         let pair := fn ∈ [3, 4, 5, 6]
         11 ≤ fn ∨ (1 ≤ fn ∧ ((toMask ∧ 8 ≤ bits w 20 6) ∨ (fn ≠ 1 ∧ 8 ≤ bits w 14 6) ∨ (pair ∧ 8 ≤ bits w 8 6)
           ∨ (¬ pair ∧ bits w 8 6 ≠ 0) ∨ (fn ≠ 1 ∧ bits w 1 1 ≠ 0) ∨ bits w 0 1 ≠ 0)) → Illegal w)
  ∧ (∀ e ∈ compareTable, ∀ (s : State) (m : Fin 8) (a b : Fin 64) (x y : Bool),
       hintsLegal s.warp.frag.hints {} = true → s.warp.full (.v a) = true → s.warp.full (.v b) = true →
       let poison := (s.warp.vPoison[a] ||| s.warp.vPoison[b]) &&& s.warp.active
       (m ≠ 0 → poison = 0 → s.Prompt →
         ∃ t, exec (e.1 m a b x y) s = .next t
           ∧ t = { s with delays := s.delays.tail, warp := { s.warp with
               m := t.warp.m, fpflags := t.warp.fpflags, frag := t.warp.frag } }
           ∧ s.warp.frag.MovedTo t.warp.frag s.next
           ∧ (∀ k, k ≠ m → t.warp.m[k] = s.warp.m[k])
           ∧ (∀ l : Fin 32, t.warp.m[m][l] =
               if s.warp.active[l] then (e.2 s.warp.v[a][l] s.warp.v[b][l]).1 else s.warp.m[m][l])
           ∧ t.warp.fpflags = (lanesOf s.warp.active).foldl (fun f l => f ||| (e.2 s.warp.v[a][l] s.warp.v[b][l]).2)
               s.warp.fpflags)
       ∧ (m ≠ 0 → poison ≠ 0 → s.Handles → Traps s (exec (e.1 m a b x y) s) .poison)
       ∧ (m = 0 → s.Handles → Traps s (exec (e.1 m a b x y) s) .illenc))

/-! ## Floating point (R127–R140) -/

/-- The floating-point operations of two sources: format code, the operation of the exact values that is rounded once
(R128, R129), or its rule where nothing is rounded (R134). -/
def floatTable2 : List ((Fin 64 → Fin 64 → Fin 64 → Bool → Bool → Instr)
    × Option (Fin 64 → Fin 64 → Fin 64 → Bool → Bool → Instr) × Nat × FpFn) :=
  [(.fadd, some .faddScalar, 0, addOp 0), (.fsub, some .fsubScalar, 0, subOp 0), (.fmul, some .fmulScalar, 0, mulOp 0),
   (.fmin, some .fminScalar, 0, minMax true), (.fmax, some .fmaxScalar, 0, minMax false),
   (.fsgnj, some .fsgnjScalar, 0, withSign (signOf 1)), (.fscaleb, some .fscalebScalar, 0, scalebOp),
   (.hadd2, some .hadd2Scalar, 2, addOp 2), (.hsub2, some .hsub2Scalar, 2, subOp 2),
   (.hmul2, some .hmul2Scalar, 2, mulOp 2), (.badd2, some .badd2Scalar, 3, addOp 3),
   (.bsub2, some .bsub2Scalar, 3, subOp 3), (.bmul2, some .bmul2Scalar, 3, mulOp 3),
   (.dadd, some .daddScalar, 20, addOp 20), (.dsub, some .dsubScalar, 20, subOp 20),
   (.dmul, some .dmulScalar, 20, mulOp 20), (.fdiv, none, 0, divOp 0), (.ddiv, none, 20, divOp 20)]
def floatTable1 : List ((Fin 64 → Fin 64 → Bool → Instr) × Nat × FpFn) :=
  [(.fabs, 0, withSign fun _ => false), (.fneg, 0, withSign fun c => !signOf 0 c), (.frnd, 0, frndOp), (.rcp, 0, rcpOp),
   (.rsq, 0, rsqOp), (.sqrtF, 0, sqrtOp 0), (.log2F, 0, log2Op), (.exp2F, 0, exp2Op), (.dsqrt, 20, sqrtOp 20)]
def floatTable3 : List ((Fin 64 → Fin 64 → Fin 64 → Fin 64 → Bool → Instr) × Nat × FpFn) :=
  [(.ffma, 0, fmaOp 0), (.hfma2, 2, fmaOp 2), (.bfma2, 3, fmaOp 3), (.dfma, 20, fmaOp 20), (.exp2x, 0, exp2xOp)]

/-- A floating-point instruction has taken effect on every element of every live active lane: the operand words of a lane
are `xs`, each holding as many elements as its format packs, and the conditions raised join FPFLAGS. -/
def FloatDid (s : State) (i : Instr) (f : Nat) (op : FpFn) (d : Fin 64) (vs ss : List (Fin 64 × Bool)) : Prop :=
  let n := if f = 20 then 2 else 1
  let v : VOp := { step := n, dw := n, d := d, vs := vs.map fun q => { base := q.1, width := n, x := q.2 }, ss := ss }
  let xs := fun o l => vs.map (fun q => if f = 20 then s.pairOf (regAt q.1 o) l else (s.elem q.1 o l).setWidth 64)
    ++ ss.map fun q => s.warp.readS q.1
  let r := fun o l => fpLane f op s.warp.frag.hints.rm s.warp.frag.hints.sat (xs o l)
  s.Ready (v.need { hblk := true, hmod := some 0xF000 } s.warp.frag.hints) → s.Clean v →
  (f = 20 → d.val % 2 = 0 ∧ ∀ q ∈ vs, q.1.val % 2 = 0) →
  VecDid s (exec i s) v (fun o l => (r o l).1)
    (orFlags ((s.elems v).flatMap fun o => (lanesOf s.warp.active).map fun l => (r o l).2))

/-- An operation answers RoundTo of a value; what that raises, what the operation raises itself, and invalid for a signalling
NaN among its operands are its conditions (R9, R112, R128). -/
def Delivers (f rm : Nat) (sat : Bool) (args : List Nat) (r : Nat × BitVec 5) (y : Value) (raised : BitVec 5) : Prop :=
  ∃ k, Rounded f rm sat 0 y r.1 k ∧ r.2 = k ||| raised ||| if args.any fun c => (valueOf f c 0).2 then fNV else 0

/-- The operations that round: each delivers the exact sum, product, quotient, or product and sum, of what its operands
stand for (R128, R129, R138). -/
def FloatRounds : Prop :=
  ∀ f ∈ [0, 2, 3, 20], ∀ rm < 4, ∀ (sat : Bool), ∀ a < 2 ^ formatWidth f, ∀ b < 2 ^ formatWidth f, ∀ c < 2 ^ formatWidth f,
    let v := fun c => (valueOf f c 0).1
    let invalid := fun (y : Value) (args : List Value) => if y = .nan ∧ .nan ∉ args then fNV else 0
    let rdn := rm == 3
    let sum := fun x y => Value.plus rdn x y
    Delivers f rm sat [a, b] (addOp f rm sat [a, b]) (sum (v a) (v b)) (invalid (sum (v a) (v b)) [v a, v b])
    ∧ Delivers f rm sat [a, b] (subOp f rm sat [a, b]) (sum (v a) (v b).neg) (invalid (sum (v a) (v b).neg) [v a, v b])
    ∧ Delivers f rm sat [a, b] (mulOp f rm sat [a, b]) ((v a).times (v b)) (invalid ((v a).times (v b)) [v a, v b])
    ∧ Delivers f rm sat [a, b] (divOp f rm sat [a, b]) ((v a).over (v b))
        (invalid ((v a).over (v b)) [v a, v b] |||
          match v a, v b with | .num _ p, .num _ q => if p ≠ 0 ∧ q = 0 then fDZ else 0 | _, _ => 0)
    ∧ (let p := (v a).times (v b)
       Delivers f rm sat [a, b, c] (fmaOp f rm sat [a, b, c]) (sum p (v c))
         (invalid p [v a, v b] ||| invalid (sum p (v c)) [p, v c]))

/-- The forms that do not round (R134): minimumNumber and maximumNumber, the three on the sign bit, FRND; and FSCALEB. -/
def FloatPicks : Prop :=
  ∀ rm < 4, ∀ (sat : Bool), ∀ a < 2 ^ 32, ∀ b < 2 ^ 32,
    let v := fun c => (valueOf 0 c 0).1
    let quiet := fun cs : List Nat => if cs.any fun c => (valueOf 0 c 0).2 then fNV else 0
    let below := fun x y : Nat => (v x).less (v y) || decide (v x = .num true 0 ∧ v y = .num false 0)
    let sign := fun (s : Nat) => if v a = .nan then 0x7FC00000 else a % 2 ^ 31 + 2 ^ 31 * (s % 2)
    (∀ least, minMax least rm sat [a, b] =
      (if v a = .nan ∧ v b = .nan then 0x7FC00000 else if v a = .nan then b else if v b = .nan then a
        else if below b a then (if least then b else a) else (if least then a else b), quiet [a, b]))
    ∧ withSign (fun _ => false) rm sat [a] = (sign 0, quiet [a])
    ∧ withSign (fun c => !signOf 0 c) rm sat [a] = (sign (1 + a / 2 ^ 31), quiet [a])
    ∧ withSign (signOf 1) rm sat [a, b] = (sign (b / 2 ^ 31), quiet [a])
    ∧ (v a = .nan → frndOp rm sat [a] = (0x7FC00000, quiet [a]))
    ∧ (∀ s, v a = .inf s → frndOp rm sat [a] = (a, 0))
    ∧ (∀ s q, v a = .num s q → v (frndOp rm sat [a]).1 = .num s (roundedInt rm q) ∧ (frndOp rm sat [a]).2 = 0)
    ∧ Delivers 0 rm sat [a] (scalebOp rm sat [a, b])
        (match v a with | .num s q => .num s (q * 2 ^ (BitVec.ofNat 32 b).toInt) | y => y) 0

/-- RCP and the unary functions at their special operands, and the roots (R136): a root is rounded as every number near enough
to it is, and is exact where a number has that square. -/
def FloatRoots : Prop :=
  ∀ rm < 4, ∀ (sat : Bool), ∀ f ∈ [0, 20], ∀ a < 2 ^ formatWidth f,
    let x := (valueOf f a 0).1
    let gives := fun (op : FpFn) (y : Value) (raised : BitVec 5) => Delivers f rm sat [a] (op rm sat [a]) y raised
    let roots := fun (op : FpFn) (square : ℚ → ℚ) => ∃ ε : ℚ, 0 < ε ∧ ∀ q, 0 < q → |square q - 1| < ε →
      ((∃ t, 0 < t ∧ square t = 1) → square q = 1) → gives op (.num false q) 0
    (x = .nan → gives (sqrtOp f) .nan 0) ∧ (x = .inf true → gives (sqrtOp f) .nan fNV)
    ∧ (∀ s, x = .num s 0 → gives (sqrtOp f) (.num s 0) 0) ∧ (x = .inf false → gives (sqrtOp f) (.inf false) 0)
    ∧ (∀ q, x = .num true q → q < 0 → gives (sqrtOp f) .nan fNV)
    ∧ (∀ p, x = .num false p → 0 < p → roots (sqrtOp f) fun q => q * q / p)
    ∧ (f = 0 →
        (x = .nan → ∀ op ∈ [rcpOp, rsqOp, log2Op, exp2Op], gives op .nan 0)
        ∧ (x = .inf true → gives rcpOp (.num true 0) 0 ∧ gives rsqOp .nan fNV ∧ gives log2Op .nan fNV
            ∧ gives exp2Op (.num false 0) 0)
        ∧ (∀ q, x = .num true q → q < 0 → gives rsqOp .nan fNV ∧ gives log2Op .nan fNV)
        ∧ (∀ s, x = .num s 0 → gives rcpOp (.inf s) fDZ ∧ gives rsqOp (.inf s) fDZ ∧ gives log2Op (.inf true) fDZ
            ∧ gives exp2Op (.num false 1) 0)
        ∧ (x = .inf false → gives rcpOp (.num false 0) 0 ∧ gives rsqOp (.num false 0) 0 ∧ gives log2Op (.inf false) 0
            ∧ gives exp2Op (.inf false) 0)
        ∧ (∀ s q, x = .num s q → q ≠ 0 → gives rcpOp (.num s (1 / q)) 0)
        ∧ ∀ p, x = .num false p → 0 < p → roots rsqOp fun q => q * q * p)

/-- The floating-point instructions, in every format and with the rounding mode and saturation of HMOD: every element of every
live active lane, its conditions in FPFLAGS. Sum, difference, product, quotient and fused multiply-add deliver RoundTo of the
exact result, with NaN, the sign of zero and the conditions as R128 and R129 say; the forms that do not round, FSCALEB, the
roots and the special operands are as R134 and R136 say. LOG2, EXP2 and EXP2X follow the model's fixed-point evaluation
elsewhere (log 15), and FRND keeps an infinity (log 16). -/
def Obligations.FloatArithmetic : Prop :=
  FloatRounds ∧ FloatPicks ∧ FloatRoots
  ∧ (∀ e ∈ floatTable2, ∀ (s : State) (d a b : Fin 64) (x y : Bool), s.Prompt →
    FloatDid s (e.1 d a b x y) e.2.2.1 e.2.2.2 d [(a, x), (b, y)] []
    ∧ ∀ sc, e.2.1 = some sc → FloatDid s (sc d a b x y) e.2.2.1 e.2.2.2 d [(a, x)] [(b, y)])
  ∧ (∀ e ∈ floatTable1, ∀ (s : State) (d a : Fin 64) (x : Bool), s.Prompt →
    FloatDid s (e.1 d a x) e.2.1 e.2.2 d [(a, x)] [])
  ∧ ∀ e ∈ floatTable3, ∀ (s : State) (d a b c : Fin 64) (x : Bool), s.Prompt →
    FloatDid s (e.1 d a b c x) e.2.1 e.2.2 d [(a, x), (b, x), (c, x)] []

/-- Every code stands for the value that R110 to R117 give it, in every format, and RoundTo answers as R113, R116 and R118
say, in every mode and with either saturation. A magnitude that lies between two neighbours, as a quotient leaves it, is
rounded like every number there once it has two bits more than the format. A number that a format holds is its own
rounding. Sum, product and quotient are the exact ones. -/
def Obligations.NumberFormats : Prop :=
  (∀ f < 25, ∀ c < 2 ^ formatWidth f, ∀ z, (decodeElem f c z).1.For (valueOf f c z).1
    ∧ (decodeElem f c z).2 = if (valueOf f c z).2 then fNV else 0)
  ∧ (∀ f < 25, ∀ rm < 4, ∀ (sat : Bool), ∀ z < 2 ^ formatWidth f, ∀ (y : Exact) (v : Value), y.For v →
    (∀ s m e, y = .fin s m e true → ∃ b, binaryFormat f = some b ∧ 2 ^ (b.fracBits + 2) ≤ m) →
    Rounded f rm sat z v (roundElem y f rm sat z).1 (roundElem y f rm sat z).2)
  ∧ (∀ f < 25, ∀ c < 2 ^ formatWidth f, ∀ rm < 4, ∀ (sat : Bool), ∀ z < 2 ^ formatWidth f,
    (∃ s q, (valueOf f c z).1 = .num s q) → roundElem (decodeElem f c z).1 f rm sat z = (c, 0))
  ∧ ∀ (x y : Exact) (a b : Bool) (p q : ℚ), x.For (.num a p) → y.For (.num b q) →
    (∀ s m e, x ≠ .fin s m e true ∧ y ≠ .fin s m e true) →
    (∀ rdn, (x.add rdn y).1.For (.num (if p + q = 0 then (a && b) || (rdn && !(p == 0 && q == 0 && !a && !b))
      else decide (p + q < 0)) (p + q)))
    ∧ (x.mul y).1.For (.num (a != b) (p * q)) ∧ (q ≠ 0 → (x.div y).1.For (.num (a != b) (p / q)))

/-- Element `g` of a group of registers in a lane, as a code: elements lie one after another from bit 0 of each register,
as many as it holds whole, an FP19 element above its 13 unused bits, an FP64 element in a pair (R110, R121). -/
def elementAt (w : Warp) (a : Fin 64) (f g : Nat) (l : Fin 32) : Nat :=
  let per := 32 / formatWidth f
  if f = 20 then (w.v[regAt a (2 * g + 1)][l] ++ w.v[regAt a (2 * g)][l]).toNat
  else if f = 1 then w.v[regAt a g][l].toNat / 2 ^ 13
  else w.v[regAt a (g / per)][l].toNat / 2 ^ (formatWidth f * (g % per)) % 2 ^ formatWidth f

/-- The elements of a group (R124). -/
def cvtCount (sf df : Nat) : Nat := max (max (32 / formatWidth sf) (32 / formatWidth df)) 1

/-- CVT converts every group of every live active lane: each element of the destination is the source's one decoded and
rounded once, unused bits are zero, and what decoding and rounding raise joins FPFLAGS. Operands and hints that R124 turns
down raise ILLENC. -/
def Obligations.Conversions : Prop :=
  ∀ (s : State) (d a : Fin 64) (sf df : Fin 32) (r : Fin 4) (u x : Bool),
    let h := s.warp.frag.hints
    let offs := h.elems 1
    let ns := cvtRegs sf df sf
    let nd := cvtRegs sf df df
    let legal := cvtLegal d a sf df && cvtHints h sf df && h.blockFits 1 d && h.blockFits 1 a
    let n : Need := { himm := true, hblk := true, dests := blockRegs d offs nd
                      srcs := (blockRegs a offs ns).map fun q => (q, x) }
    (hintsLegal h n = true → legal = false → s.Handles → Traps s (exec (.cvt d a sf df r u x) s) .illenc)
    ∧ (s.Prompt → s.Ready n → legal = true → s.warp.poisonIn (blockRegs a offs ns) &&& s.warp.active = 0 →
      ∃ (t : State) (fl : Nat → Fin 32 → Nat → BitVec 5),
        exec (.cvt d a sf df r u x) s = .next t ∧ Did s t (blockRegs d offs nd) s.next
        ∧ (∀ o ∈ offs, ∀ l : Fin 32, s.warp.active[l] = true → ∀ g < cvtCount sf df,
            Rounded df r u (zeroPoint h df) (valueOf sf (elementAt s.warp (regAt a o) sf g l) (zeroPoint h sf)).1
              (elementAt t.warp (regAt d o) df g l) (fl o l g))
        ∧ (∀ o ∈ offs, ∀ k < nd, t.warp.full (.v (regAt d (o + k))) = true ∧ ∀ l : Fin 32,
            if s.warp.active[l] then
              (df.val = 1 → (t.warp.v[regAt d (o + k)][l]).toNat % 2 ^ 13 = 0)
              ∧ (formatWidth df ∈ [3, 6] → (t.warp.v[regAt d (o + k)][l]).toNat < 2 ^ 30)
            else t.warp.v[regAt d (o + k)][l] = s.warp.v[regAt d (o + k)][l])
        ∧ t.warp.fpflags = s.warp.fpflags ||| orFlags (offs.flatMap fun o => (lanesOf s.warp.active).flatMap fun l =>
            (List.range (cvtCount sf df)).map fun g => fl o l g |||
              if (valueOf sf (elementAt s.warp (regAt a o) sf g l) (zeroPoint h sf)).2 then fNV else 0))

/-! ## Lane exchange and reductions (R94, R105–R107) -/

/-- The exchanges by a per-lane index `i` of lane `l`: the source lane, or none for the lane's own element (R105). -/
def exchangeTable : List ((Fin 64 → Fin 64 → Fin 64 → Bool → Bool → Instr) × (Nat → Nat → Option Nat)) :=
  [(.shfl, fun _ i => some (i % 32)), (.shflup, fun l i => if l < i % 32 then none else some (l - i % 32)),
   (.shfldn, fun l i => if 31 < l + i % 32 then none else some (l + i % 32)),
   (.shflx, fun l i => some (l ^^^ i % 32)), (.qswz, fun l i => some (l / 4 * 4 + i % 4))]

/-- Every live active lane receives its source lane's element; it receives 0, and is noted in DSRCMASK, where that lane
does not take part. -/
def Exchanged (s : State) (i : Instr) (v : VOp) (a : Fin 64) (src : Fin 32 → Option Nat) : Prop :=
  let dead := maskOf fun l => s.warp.active[l] && (src l).any fun j => !s.warp.active.getLsbD j
  VecDid { s with warp := { s.warp with dsrc := s.warp.dsrc ||| dead } } (exec i s) v
    (fun _ l => match src l with
      | none => (s.elem a 0 l).setWidth 64
      | some j => if s.warp.active.getLsbD j then (s.elem a 0 (Fin.ofNat 32 j)).setWidth 64 else 0) 0

/-- The reductions over the elements of the live active lanes, ascending, with their conditions (R107). -/
def reduceTable : List ((Fin 64 → Fin 64 → Bool → Instr) × (List Word32 → Word64 × BitVec 5)) :=
  let fold := fun (f : Word32 → Word32 → Word32) (g : Word32 → Word64) (xs : List Word32) =>
    (match xs with
     | [] => 0
     | p :: ps => g (ps.foldl f p), (0 : BitVec 5))
  [(.wradd, fun xs => (xs.foldl (fun t p => t + p.signExtend 64) 0, 0)),
   (.wrmin, fold (fun p q => if q.slt p then q else p) (·.signExtend 64)),
   (.wrmax, fold (fun p q => if p.slt q then q else p) (·.signExtend 64)),
   (.wrminz, fold (fun p q => if q.ult p then q else p) (·.setWidth 64)),
   (.wrmaxz, fold (fun p q => if p.ult q then q else p) (·.setWidth 64)),
   (.wrand, fold (fun p q => p &&& q) (·.setWidth 64)), (.wror, fold (fun p q => p ||| q) (·.setWidth 64)),
   (.wrxor, fold (fun p q => p ^^^ q) (·.setWidth 64)),
   (.wrfadd, fun xs => match xs with
     | [] => (0, 0)
     | p :: ps => ((sumChain p ps).1.setWidth 64, (sumChain p ps).2))]

/-- A shuffle gives each lane the element of the lane it names; a lane that reads an inactive one gets zero and its bit of
DSRC. It does not wait for lanes of its source that are pending for other fragments alone (the model's reading of R94: log 31).
The reductions, BALLOT and VRDLANE deliver one scalar from the live active lanes, and VWRLANE writes one of them. An
inactive lane reads as 0 and is noted. -/
def Obligations.LaneExchange : Prop :=
 ((∀ e ∈ exchangeTable, ∀ (s : State) (d a b : Fin 64) (x y : Bool), s.Prompt →
    let v : VOp := { d := d, vs := [{ base := a, x := x }, { base := b, x := y }] }
    s.Ready ((v.need {} s.warp.frag.hints).shuffles s.warp a) → (s.warp.vPoison[a] ||| s.warp.vPoison[b]) &&& s.warp.active = 0 →
    Exchanged s (e.1 d a b x y) v a fun l => e.2 l.val (s.elem b 0 l).toNat)
  ∧ ∀ (s : State) (d a b : Fin 64) (x y : Bool), s.Prompt →
    let v : VOp := { d := d, vs := [{ base := a, x := x }], ss := [(b, y)] }
    s.Ready ((v.need {} s.warp.frag.hints).shuffles s.warp a) → s.warp.vPoison[a] &&& s.warp.active = 0 →
    Exchanged s (.bcast d a b x y) v a fun _ => some ((s.warp.readS b).toNat % 32))
  ∧ ((∀ e ∈ reduceTable, ∀ (s : State) (d a : Fin 64) (x : Bool), s.Ready { dests := [.s d], srcs := [(.v a, x)] } →
       let r := e.2 ((lanesOf s.warp.active).map fun l => s.warp.v[a][l])
       (s.warp.vPoison[a] &&& s.warp.active = 0 → s.Prompt →
         ∃ t, exec (e.1 d a x) s = .next t ∧ Did s t [.s d] s.next ∧ t.warp.HoldsS d r.1
           ∧ t.warp.fpflags = s.warp.fpflags ||| r.2)
       ∧ (s.warp.vPoison[a] &&& s.warp.active ≠ 0 → s.Handles → Traps s (exec (e.1 d a x) s) .poison))
     ∧ (∀ (s : State) (d a : Fin 64) (x : Bool), s.Ready { dests := [.s d], srcs := [(.v a, x)] } → s.Prompt →
       s.warp.vPoison[a] &&& s.warp.active = 0 →
       ScalarDid s (exec (.ballot d a x) s) d
         ((maskOf fun l => s.warp.active[l] && s.warp.v[a][l] != 0).setWidth 64))
     ∧ ∀ (s : State) (d a b : Fin 64) (x y : Bool), s.Prompt →
       let k := Fin.ofNat 32 (s.warp.readS b).toNat
       (s.Ready (({ dests := [.s d], srcs := [(.v a, x), (.s b, y)] } : Need).shuffles s.warp a) →
         (s.warp.active[k] = true → s.warp.vPoison[a][k] = false →
           ScalarDid s (exec (.vrdlane d a b x y) s) d (s.warp.v[a][k].setWidth 64))
         ∧ (s.warp.active[k] = true → s.warp.vPoison[a][k] = true → s.Handles →
             Traps s (exec (.vrdlane d a b x y) s) .poison)
         ∧ (s.warp.active[k] = false →
             ScalarDid { s with warp := { s.warp with dsrc := s.warp.dsrc ||| s.warp.active } }
               (exec (.vrdlane d a b x y) s) d 0))
       ∧ (s.Ready { dests := [.v d], srcs := [(.s a, x), (.s b, y)] } →
           ∃ t, exec (.vwrlane d a b x y) s = .next t ∧ Did s t [.v d] s.next
             ∧ s.warp.HoldsV t.warp d (1#32 <<< k.val &&& s.warp.active) fun _ => s.low a))

/-! ## Memory (R141–R163, R221–R236) -/

/-- A memory unit as a statement sees it: its instruction, what it needs to issue, its job, its vector sources, whether
it is a release. -/
structure Access where
  i : Instr
  need : Need
  job : Warp → Hints → Job
  vs : List Reg
  rel : Bool := false

/-- The unit issues at once, none of its lanes reads poison in a register, and it is let through. -/
def Access.Runs (u : Access) (s s' : State) (cs : List (Fin 32 × LaneCheck)) : Prop :=
  s.Prompt ∧ s.Ready u.need ∧ s.warp.poisonIn u.vs &&& s.warp.active = 0
  ∧ s.Lets (u.job s.warp s.warp.frag.hints) (u.rel || s.warp.frag.hints.releasesOrder) s' cs

def moveNeed (fields : BitVec 22) (t : Fin 64) (z : Fin 8) (ds : List Reg) (srcs : List Reg) (x : Bool) : Need :=
  { himm := true, hmod := some fields, legal := groupLegal t z, dests := ds, srcs := srcs.map fun q => (q, x) }

/-- The loads of format M and the stores, with the hint fields that each accepts (R144, R145, R53). -/
def loadsOf (t a b : Fin 64) (z : Fin 8) (p : Fin 4) (x : Bool) : List Access :=
  let u := fun (i : Instr) (fields : BitVec 22) (nt : Bool) => (
    { i := i, need := moveNeed fields t z (group t (groupSize z.val)) [.s b, .v a] x, job := mJob false nt t a b z p,
      vs := [.v a] } : Access)
  [u (.ld t a b z p x) (orderFields ||| policyFields) false, u (.ldNt t a b z p x) orderFields true,
   u (.ldAcq t a b z p x) (acquireFields ||| policyFields) false]
def storesOf (t a b : Fin 64) (z : Fin 8) (p : Fin 4) (x : Bool) : List Access :=
  let vs := .v a :: group t (groupSize z.val)
  let u := fun (i : Instr) (fields : BitVec 22) (nt rel : Bool) => (
    { i := i, need := moveNeed fields t z [] (.s b :: vs) x, job := mJob true nt t a b z p, vs := vs, rel := rel } : Access)
  [u (.st t a b z p x) (orderFields ||| policyFields) false false, u (.stNt t a b z p x) orderFields true false,
   u (.stRel t a b z p x) (releaseFields ||| policyFields) false true]

/-- The private accesses, with their words a lane (R149). -/
def stackLegal (s : State) (n : Nat) (t : Fin 64) (i : BitVec 10) : Bool :=
  (s.warp.frag.hints.imm i).toInt % (4 * n) == 0 && t.val % n == 0
def stackLoads (s : State) (t : Fin 64) (i : BitVec 10) (x : Bool) : List (Access × Nat) :=
  [(.ldp32 t i x, 1), (.ldp64 t i x, 2), (.ldp128 t i x, 4)].map fun e =>
    ({ i := e.1, job := stackJob false t e.2 i, vs := []
       need := { himm := true, legal := stackLegal s e.2 t i, dests := group t e.2, srcs := [(.s 62, x)] } }, e.2)
def stackStores (s : State) (t : Fin 64) (i : BitVec 10) (x : Bool) : List (Access × Nat) :=
  [(.stp32 t i x, 1), (.stp64 t i x, 2), (.stp128 t i x, 4)].map fun e =>
    ({ i := e.1, job := stackJob true t e.2 i, vs := group t e.2
       need := { himm := true, legal := stackLegal s e.2 t i, srcs := (.s 62, x) :: (group t e.2).map fun q => (q, x) } },
     e.2)

/-- The words of a private access lie in the warp's stack. -/
def InStack (s : State) (n : Nat) (i : BitVec 10) : Prop :=
  let sp := (s.warp.readS 62).toNat
  let imm := (s.immediate i).toInt
  sp % 128 = 0 ∧ (s.warp.stklim.toNat : Int) ≤ sp + 32 * imm ∧ (sp : Int) + 32 * (imm + 4 * n) ≤ s.warp.stktop.toNat

/-- The effective addresses: base, lane offset and HIMM's byte offset, with sub-byte elements counted in bits; stack
word k of lane l; the offset of an atomic. -/
def Obligations.EffectiveAddresses : Prop :=
  (∀ (st nt : Bool) (t a b : Fin 64) (z : Fin 8) (p : Fin 4) (w : Warp) (h : Hints) (l : Fin 32),
    let j := mJob st nt t a b z p w h
    let off := ((h.himm.getD 0).signExtend 64 : Word64)
    (z.val ≤ 4 → j.ea[l] = w.readS b + (w.v[a][l]).signExtend 64 + off)
    ∧ (z.val = 5 ∨ z.val = 6 →
        let pos : Int := 8 * ((w.readS b).toNat + off.toInt) + (if z.val = 5 then 4 else 2) * (w.v[a][l]).toInt
        (j.ea[l]).toInt % 2 ^ 64 = pos / 8 % 2 ^ 64 ∧ ((j.bits[l]).toNat : Int) = pos % 8))
  ∧ (∀ (st : Bool) (t : Fin 64) (n : Nat) (i : BitVec 10) (w : Warp) (h : Hints) (l : Fin 32) (k : Nat),
    n = 1 ∨ n = 2 ∨ n = 4 → k < n →
    ((stackJob st t n i w h).accesses l)[k]? = some (w.readS 62 + 32 * (match h.himm with
        | none => i.signExtend 64
        | some p => (p ++ i : BitVec 32).signExtend 64) + BitVec.ofNat 64 (128 * k + 4 * l.val), 4))
  ∧ ∀ (op : AtomOp) (d a b : Fin 64) (ty : Fin 8) (loc ret : Bool) (w : Warp) (h : Hints) (l : Fin 32),
    (atomJob op d a b ty loc ret w h).ea[l] =
      (if loc then (w.v[a][l]).setWidth 64 else (w.v[regAt a 1][l] ++ w.v[a][l] : BitVec 64))
        + (h.himm.getD 0).signExtend 64

/-- The loads deliver the bytes at each lane's place, little-endian and zero-extended, and change no byte of memory. -/
def Obligations.Loads : Prop :=
  (∀ (t a b : Fin 64) (z : Fin 8) (p : Fin 4) (x : Bool), ∀ u ∈ loadsOf t a b z p x, ∀ (s s' : State) cs,
    u.Runs s s' cs → failures cs = [] → (∀ g ∈ passed cs, s.poisoned g.loc g.n = false) →
    let bytes := fun l => bytesToNat ((placesOf cs l).flatMap fun g => s.mem.readBytes g.loc (sizeBytes z.val))
    ∃ r, exec u.i s = .next r ∧ Accessed s r u.need.dests ∧ (∀ a, r.mem.read a = s.mem.read a)
      ∧ ∀ k < groupSize z.val, s.warp.HoldsV r.warp (regAt t k) s.warp.active fun l =>
          if subBits z.val = 0 then BitVec.ofNat 32 (bytes l / 2 ^ (32 * k))
          else
            BitVec.ofNat 32 (bytes l / 2 ^ ((u.job s.warp s.warp.frag.hints).bits[l]).toNat % 2 ^ subBits z.val))
  ∧ ∀ (s s' : State) (t : Fin 64) (i : BitVec 10) (x : Bool), ∀ e ∈ stackLoads s t i x, ∀ cs,
    e.1.Runs s s' cs → failures cs = [] → InStack s e.2 i → (∀ g ∈ passed cs, s.poisoned g.loc g.n = false) →
    ∃ r, exec e.1.i s = .next r ∧ Accessed s r e.1.need.dests ∧ (∀ a, r.mem.read a = s.mem.read a)
      ∧ ∀ k < e.2, s.warp.HoldsV r.warp (regAt t k) s.warp.active fun l =>
          BitVec.ofNat 32 ((((placesOf cs l)[k]?).map fun g => s.mem.nat g.loc 4).getD 0)

/-- The words of a group in a lane, as bytes. -/
def groupBytes (s : State) (t : Fin 64) (n : Nat) (l : Fin 32) : List Byte :=
  (List.range n).flatMap fun k => natToBytes 4 (s.elem t k l).toNat

/-- The stores, and ZERO, write exactly the bytes of the live active lanes, in ascending lane order: every other byte
reads as before. A sub-byte store writes its bits alone.
INVL and WBK change no byte and no register. PREF raises nothing for a lane whose page is not there, and changes memory
only where its translation gives a page to a new owner: `s'` is what the checks of its lanes leave (R151, R356; when a page
passes is log 85's). -/
def Obligations.Stores : Prop :=
 (let wrote := fun (s r : State) (ws : Fin 32 → List (Nat × List Byte)) =>
    ∀ a, r.mem.read a = laidAll ((lanesOf s.warp.active).flatMap ws) a (s.mem.read a)
  (∀ (t a b : Fin 64) (z : Fin 8) (p : Fin 4) (x : Bool), ∀ u ∈ storesOf t a b z p x, ∀ (s s' : State) cs,
    u.Runs s s' cs → failures cs = [] → s.mem.wf →
    ∃ r, exec u.i s = .next r ∧ Accessed s r [] ∧ r.partials = s'.partials
      ∧ (subBits z.val = 0 → wrote s r fun l =>
          (placesOf cs l).map fun g => (g.loc, (groupBytes s t (groupSize z.val) l).take (sizeBytes z.val)))
      ∧ (subBits z.val ≠ 0 → ∀ a, (r.mem.read a).toNat = (lanesOf s.warp.active).foldl (fun old l =>
          if (placesOf cs l).any (·.loc == a) then
            let o := ((u.job s.warp s.warp.frag.hints).bits[l]).toNat
            let n := subBits z.val
            old / 2 ^ (o + n) * 2 ^ (o + n) + (s.elem t 0 l).toNat % 2 ^ n * 2 ^ o + old % 2 ^ o
          else old) (s.mem.read a).toNat))
  ∧ (∀ (s s' : State) (t : Fin 64) (i : BitVec 10) (x : Bool), ∀ e ∈ stackStores s t i x, ∀ cs,
    e.1.Runs s s' cs → failures cs = [] → InStack s e.2 i → s.mem.wf →
    ∃ r, exec e.1.i s = .next r ∧ Accessed s r [] ∧ r.partials = s'.partials ∧ wrote s r fun l =>
      (placesOf cs l).zipIdx.map fun g => (g.1.loc, natToBytes 4 (s.elem t g.2 l).toNat))
  ∧ ∀ (s s' : State) (a b : Fin 64) (p : Fin 4) (x : Bool) cs,
    let u : Access := { i := .zero a b p x, need := lineNeed a b x, job := lineJob .zero a b p.val, vs := [.v a] }
    u.Runs s s' cs → failures cs = [] → s.mem.wf →
    ∃ r, exec u.i s = .next r ∧ Accessed s r [] ∧ r.partials = s'.partials ∧ wrote s r fun l =>
      (placesOf cs l).map fun g => (g.loc, List.replicate 128 0))
  ∧ (∀ (s s' : State) (a b : Fin 64) (x : Bool) cs,
       let j := lineJob .touch a b 0
       let u : Access := { i := .invl a b x, need := lineNeed a b x, job := j, vs := [.v a] }
       (u.Runs s s' cs → failures cs = [] → ∀ i ∈ [Instr.invl a b x, .wbk a b x],
         ∃ r, exec i s = .next r ∧ Accessed s r [] ∧ r.mem = s.mem ∧ r.partials = s'.partials)
       ∧ (s.Ready (lineNeed a b x) → s.warp.poisonIn [.v a] &&& s.warp.active = 0 →
           s.warp.logHolds ((j s.warp s.warp.frag.hints).pages s.warp.active) = false →
           s.checkLanes s.warp.agent (j s.warp s.warp.frag.hints) false (lanesOf s.warp.active) = (s', cs) →
           ∃ r, exec (.pref a b x) s = .next r ∧ r.mem = s'.mem ∧ r.poison = s'.poison ∧ r.partials = s'.partials
             ∧ s.warp.frag.MovedTo r.warp.frag s.next ∧ r.warp = { s.warp with frag := r.warp.frag } ∧ r.others = s.others
             ∧ Touched s r))

/-! ## Atomics and reductions -/

/-- The operations on integers: the type says the width, and whether a minimum or maximum is signed (R225). -/
def Obligations.AtomicValues : Prop :=
  (∀ (p q : Word32) (new : Nat), ∀ ty ∈ [0, 1],
    let v := fun op => BitVec.ofNat 32 (atomVal op ty p.toNat q.toNat new)
    v .add = p + q ∧ v .and = p &&& q ∧ v .or = p ||| q ∧ v .xor = p ^^^ q ∧ v .exch = q
    ∧ v .min = (if (if ty = 0 then p.ult q else p.slt q) then p else q)
    ∧ v .max = (if (if ty = 0 then p.ult q else p.slt q) then q else p)
    ∧ v .cas = (if p = q then BitVec.ofNat 32 new else p)
    ∧ v .incw = (if q.ule p then 0 else p + 1) ∧ v .decw = (if p = 0 ∨ q.ult p then q else p - 1))
  ∧ (∀ (p q : Word64) (new : Nat), ∀ ty ∈ [2, 3],
    let v := fun op => BitVec.ofNat 64 (atomVal op ty p.toNat q.toNat new)
    v .add = p + q ∧ v .and = p &&& q ∧ v .or = p ||| q ∧ v .xor = p ^^^ q ∧ v .exch = q
    ∧ v .min = (if (if ty = 2 then p.ult q else p.slt q) then p else q)
    ∧ v .max = (if (if ty = 2 then p.ult q else p.slt q) then q else p)
    ∧ v .cas = (if p = q then BitVec.ofNat 64 new else p)
    ∧ v .incw = (if q.ule p then 0 else p + 1) ∧ v .decw = (if p = 0 ∨ q.ult p then q else p - 1))
  ∧ (∀ (p q : Word32),
    BitVec.ofNat 32 (atomVal .add 4 p.toNat q.toNat 0)
      = (rne32 ((decode32 p).1.add false (decode32 q).1).1).1)
  ∧ ∀ (p q p' q' : BitVec 16), ∀ ty ∈ [5, 6], ∀ op ∈ [AtomOp.add, .min, .max],
    let whole := atomVal op ty (p ++ q : Word32).toNat (p' ++ q' : Word32).toNat 0
    whole % 2 ^ 16 = atomVal op ty q.toNat q'.toNat 0 % 2 ^ 16
    ∧ whole / 2 ^ 16 = atomVal op ty p.toNat p'.toNat 0 % 2 ^ 16

/-- Memory after the operations of some lanes, one after another. -/
def atomsIn (op : AtomOp) (ty : Nat) (loc b new : Fin 32 → Nat) (ls : List (Fin 32)) (m : Memory) : Memory :=
  ls.foldl (fun m l => m.writeBytes (loc l) (natToBytes (typeBytes ty)
    (atomVal op ty (m.nat (loc l) (typeBytes ty)) (b l) (new l)))) m

/-- The place found for a lane of an atomic. -/
def atPlace (cs : List (Fin 32 × LaneCheck)) (l : Fin 32) : Nat := (((placesOf cs l).head?).map (·.loc)).getD 0

/-- The `i`-th operand of a lane at a type's width. -/
def operandOf (s : State) (b : Fin 64) (ty i : Nat) (l : Fin 32) : Nat :=
  if typeBytes ty = 8 then (s.pairOf (regAt b (2 * i)) l).toNat else (s.elem b i l).toNat

def atomNeed (op : AtomOp) (legal ret : Bool) (d a b : Fin 64) (ty : Fin 8) (x loc : Bool) : Need :=
  { himm := true
    hmod := some ((if ret then orderFields else releaseFields) ||| (if loc then localFields else 0))
    legal := legal
    dests := if ret then group d (typeBytes ty.val / 4) else []
    srcs := (atomSources op a b ty loc).map fun q => (q, x) }

/-- The returning atomics and the reductions, each with its operation and the conditions on its fields (R222, R223). -/
noncomputable def atomicTable : List ((Fin 64 → Fin 64 → Fin 64 → Fin 8 → Bool → Bool → Instr) × AtomOp
    × (Fin 64 → Fin 64 → Fin 64 → Fin 8 → Bool → Bool)) :=
  [(.aadd, .add, atomicRegs), (.amin, .min, atomicRegs), (.amax, .max, atomicRegs),
   (.aand, .and, fun d a b y l => intType y && atomicRegs d a b y l),
   (.aor, .or, fun d a b y l => intType y && atomicRegs d a b y l),
   (.axor, .xor, fun d a b y l => intType y && atomicRegs d a b y l), (.aexch, .exch, atomicRegs),
   (.acas, .cas, casRegs), (.aincw, .incw, fun d a b y l => countType y && atomicRegs d a b y l),
   (.adecw, .decw, fun d a b y l => countType y && atomicRegs d a b y l)]
noncomputable def reductionTable : List ((Fin 64 → Fin 64 → Fin 8 → Bool → Bool → Instr) × AtomOp
    × (Fin 64 → Fin 64 → Fin 8 → Bool → Bool)) :=
  [(.radd, .add, reduceRegs), (.rmin, .min, reduceRegs), (.rmax, .max, reduceRegs),
   (.rand, .and, fun a b y l => intType y && reduceRegs a b y l),
   (.ror, .or, fun a b y l => intType y && reduceRegs a b y l),
   (.rxor, .xor, fun a b y l => intType y && reduceRegs a b y l)]
def atomicAccess (i : Instr) (op : AtomOp) (legal ret : Bool) (d a b : Fin 64) (y : Fin 8) (x l : Bool) : Access :=
  { i := i, need := atomNeed op legal ret d a b y x l, job := atomJob op d a b y l ret, vs := atomSources op a b y l }

/-- The returning atomics run lane after lane, ascending: each reads the old value that the lanes before it have left,
delivers it, and writes the result. No other byte changes.
The reductions change no register and no byte outside their targets. Outside the CXL memory they run lane after
lane; a reduction of one lane has its effect once a reader of the line appears (R233, R234). -/
def Obligations.Atomics : Prop :=
 (∀ e ∈ atomicTable, ∀ (d a b : Fin 64) (y : Fin 8) (x l : Bool) (s s' : State) cs,
    let u := atomicAccess (e.1 d a b y x l) e.2.1 (e.2.2 d a b y l) true d a b y x l
    u.Runs s s' cs → failures cs = [] → s.mem.wf → (∀ g ∈ passed cs, s.poisoned g.loc g.n = false) →
    let after := fun ls => atomsIn e.2.1 y.val (atPlace cs) (operandOf s b y.val 0) (operandOf s b y.val 1) ls s.mem
    ∃ r, exec u.i s = .next r ∧ Accessed s r u.need.dests ∧ r.partials = s'.partials
      ∧ (∀ a, r.mem.read a = (after (lanesOf s.warp.active)).read a)
      ∧ ∀ k < typeBytes y.val / 4, s.warp.HoldsV r.warp (regAt d k) s.warp.active fun l =>
          BitVec.ofNat 32 ((after ((lanesOf s.warp.active).filter (· < l))).nat (atPlace cs l) (typeBytes y.val)
            / 2 ^ (32 * k)))
  ∧ (∀ e ∈ reductionTable, ∀ (a b : Fin 64) (y : Fin 8) (x l : Bool) (s s' : State) cs,
       let u := atomicAccess (e.1 a b y x l) e.2.1 (e.2.2 a b y l) false 0 a b y x l
       u.Runs s s' cs → failures cs = [] → s.mem.wf → (∀ g ∈ passed cs, s.poisoned g.loc g.n = false) →
       let after := fun ls => atomsIn e.2.1 y.val (atPlace cs) (operandOf s b y.val 0) (operandOf s b y.val 1) ls s.mem
       ∃ r, exec u.i s = .next r ∧ Accessed s r []
         ∧ (∀ a, (∀ g ∈ passed cs, ¬ (g.loc ≤ a ∧ a < g.loc + g.n)) → r.mem.read a = s.mem.read a)
         ∧ ((∀ g ∈ passed cs, placeOf g.kind g.loc ≠ .cxl) → r.partials = s'.partials
             ∧ ∀ a, r.mem.read a = (after (lanesOf s.warp.active)).read a)
         ∧ ∀ k, lanesOf s.warp.active = [k] →
             ∀ a, (r.recall (lineOf (atPlace cs k))).mem.read a = (after [k]).read a)

/-- Lanes that fail are reported, one trap for all of them, while the others have been performed: their elements are
loaded, their bytes stored, and no other element or byte has changed. Where every failing lane meets an unmapped page, the
unit goes on with those lanes in the operand log.
A private access needs a stack pointer of whole 128-byte lines and keeps within the stack. -/
def Obligations.LaneFaults : Prop :=
 (∀ (t a b : Fin 64) (z : Fin 8) (p : Fin 4) (x : Bool), ∀ u ∈ loadsOf t a b z p x ++ storesOf t a b z p x,
    ∀ (s s' : State) cs, u.Runs s s' cs → s.mem.wf → failures cs ≠ [] → (∀ g ∈ passed cs, s.poisoned g.loc g.n = false) →
    let bad := failures cs
    let j := u.job s.warp s.warp.frag.hints
    ∃ r, exec u.i s = .next r
      ∧ ((∃ f ∈ bad, f.2.1 ≠ .pagefault) → s.Handles → s.laneAway s.warp.uid s.warp.nextPend = false →
          LanesTrapped s r bad ∧ (s.warp.Unclaimed u.need.dests → Performed s r j s.warp.active cs))
      ∧ ((∀ f ∈ bad, f.2.1 = .pagefault) →
          LanesLogged s r bad j u.need.dests ∧ Performed s r j s.warp.active cs s.nextRecord))
  ∧ (∀ (s : State) (t : Fin 64) (i : BitVec 10) (x : Bool), s.Handles →
       ∀ e ∈ stackLoads s t i x ++ stackStores s t i x, s.Ready e.1.need →
       let sp := (s.warp.readS 62).toNat
       (sp % 128 ≠ 0 → Traps s (exec e.1.i s) .align)
       ∧ (sp % 128 = 0 → ¬ InStack s e.2 i → Traps s (exec e.1.i s) .stkovf))

/-- What R158 checks of an access, in order: the space, the alignment, the translation, the permission.
Translation without a buffered entry walks the five levels of the context's page table; the leaf's permissions
decide, an invalid entry is a page fault. Nothing changes but the buffers, the books of ownership and of the LLC, which the
walk's reads pass, and memory only in pages that pass to a new owner, whose bytes then read as 0 (R356, log 85). The walk
reads memory as it stands where no core holds a partial value. -/
def Obligations.AccessChecks : Prop :=
 (∀ (s : State) (a : Agent) (ea n align : Nat) (r w : Bool),
    let g := s.gang a.gang
    let out := fun space => (s.reach a space ea n align r w).2
    (2 ^ 57 < ea + n → out 0 = .fails .range)
    ∧ (ea + n ≤ 2 ^ 57 → ea % align ≠ 0 → out 0 = .fails .align)
    ∧ (ea + n ≤ 2 ^ 57 → ea % align = 0 →
        s.reach a 0 ea n align r w = s.translate a.units a.ctx ea r w false)
    ∧ (g.scratch < ea + n → out 1 = .fails .range)
    ∧ (ea + n ≤ g.scratch → ea % align ≠ 0 → out 1 = .fails .align)
    ∧ (ea + n ≤ g.scratch → ea % align = 0 → out 1 = .at_ (scratchBase a.gang + 2 ^ 19 * a.wg + ea) 0 0)
    ∧ (2 ^ 21 ≤ ea → out 2 = .fails .range)
    ∧ (ea < 2 ^ 21 → g.wgs ≤ ea / 2 ^ 19 → out 2 = .fails .dsmem)
    ∧ (ea < 2 ^ 21 → ea / 2 ^ 19 < g.wgs → g.scratch < ea % 2 ^ 19 + n → out 2 = .fails .range)
    ∧ (ea < 2 ^ 21 → ea / 2 ^ 19 < g.wgs → ea % 2 ^ 19 + n ≤ g.scratch → ea % align = 0 →
        out 2 = .at_ (scratchBase a.gang + ea) 0 0)
    ∧ ((s.context a.ctx).psBytes < ea + n → out 3 = .fails .range)
    ∧ (ea + n ≤ (s.context a.ctx).psBytes → ea % align = 0 → out 3 = .at_ (psBase a.ctx + ea) 0 0))
  ∧ (∀ (s : State) (us : List TlbUnit) (ctx va : Nat) (r w x : Bool), s.partials = [] →
       (let (s', _) := s.translate us ctx va r w x
        s' = { s with
            tlb := s'.tlb, free := s'.free, owners := s'.owners, mem := s'.mem, poison := s'.poison
            contexts := s'.contexts, llc := s'.llc }
        ∧ (∀ n, (s'.context? n).map Context.unmetered = (s.context? n).map Context.unmetered)
        ∧ (∀ g ∈ s'.poison, g ∈ s.poison)
        ∧ ∀ a, s'.mem.read a = s.mem.read a
            ∨ s'.mem.read a = 0 ∧ ∃ o ∈ s.owners, a / 2 ^ o.size = o.page / 2 ^ o.size ∧ ctx ∉ o.ctxs)
       ∧ ∀ (t3 t2 t1 t0 frame : Nat) (pr pw px : Bool) (kind : Nat), kind < 3 →
         (∀ t ∈ [t3, t2, t1, t0, frame], t % 4096 = 0 ∧ t < 2 ^ 52) →
         (∀ u ∈ us, ∀ e ∈ s.tlb, e.unit = u → e.asid = (s.context ctx).asid → va / 2 ^ e.map.size ≠ e.map.vpage) →
         let t4 := (s.context ctx).ptbase.toNat / 4096 % 2 ^ 40 * 4096
         let slot := fun table lo => table + 8 * (va / 2 ^ lo % 512)
         let out := (s.translate us ctx va r w x).2
         (s.peek (slot t4 48) 8 % 2 = 0 → out = .fails .pagefault)
         ∧ (s.peek (slot t4 48) 8 = t3 + 1 → s.peek (slot t3 39) 8 = t2 + 1 → s.peek (slot t2 30) 8 = t1 + 1 →
             s.peek (slot t1 21) 8 = t0 + 1 →
             (s.peek (slot t0 12) 8 = 0 → out = .fails .pagefault)
             ∧ (s.peek (slot t0 12) 8 = frame + 64 * kind + 17 + 2 * pr.toNat + 4 * pw.toNat + 8 * px.toNat →
                 out = if (r = true ∧ pr = false) ∨ (w = true ∧ pw = false) ∨ (x = true ∧ px = false) then .fails .prot
                   else .at_ ((if kind = 0 then 0 else hostBase) + frame + va % 4096) kind 0)))

/-! ## Tensor slots and engine commands (R168–R189, R316–R320) -/

/-- The slot instructions: a record from memory, to memory, and one doubleword of a slot. TSRSET and TSRGET never fault. A
slot's poison lies in its doublewords, a write clears what it covers, and those two copy marks with the values (log 86). -/
def Obligations.TensorSlots : Prop :=
  ∀ (s s' : State) (t : Fin 16) (c x : Fin 64) (p : Fin 4) (loc kind : Nat),
    let w := s.warp
    let at_ := fun (r : State) => s.warp.frag.MovedTo r.warp.frag s.next
    (s.Ready { srcs := [(.s c, false)] } → s.Once p.val (w.readS c) 128 128 true false s' loc kind →
      s.poisoned loc 128 = false →
      ∃ r, exec (.tsrld t c p) s = .next r ∧ Touched s r ∧ at_ r ∧ (∀ a, r.mem.read a = s.mem.read a)
        ∧ r.warp = { w with
            tsr := w.tsr.set t (BitVec.ofNat 1024 (bytesToNat (s.mem.readBytes loc 128)))
            tsrPoison := w.tsrPoison.set t 0, frag := r.warp.frag })
    ∧ (s.Ready { srcs := [(.s c, false), (.t t, false)] } → s.Once p.val (w.readS c) 128 128 false true s' loc kind → s.mem.wf →
      ∃ r, exec (.tsrst t c p) s = .next r ∧ Touched s r ∧ at_ r ∧ r.warp = { w with frag := r.warp.frag }
        ∧ ∀ a, r.mem.read a = laid loc (natToBytes 128 (w.tsr[t]).toNat) a (s.mem.read a))
    ∧ (s.Ready { srcs := [(.s c, false), (.s x, false)], poisonOk := true } →
      ∃ r, exec (.tsrset t c x) s = .next r ∧ at_ r ∧ r = { s with warp := r.warp }
        ∧ r.warp = { w with
            tsr := w.tsr.set t r.warp.tsr[t], tsrPoison := w.tsrPoison.set t r.warp.tsrPoison[t], frag := r.warp.frag }
        ∧ (∀ k < 16, (r.warp.tsrPoison[t]).getLsbD k =
            if k = (w.readS c).toNat % 16 then w.scalarPoison (.s x) || w.scalarPoison (.s c)
            else (w.tsrPoison[t]).getLsbD k)
        ∧ ∀ k < 16, (r.warp.tsr[t]).extractLsb' (64 * k) 64 =
            if k = (w.readS c).toNat % 16 then w.readS x else (w.tsr[t]).extractLsb' (64 * k) 64)
    ∧ (s.Prompt → s.Ready { dests := [.s x], srcs := [(.s c, false)], poisonOk := true } →
      let v := (w.tsr[t]).extractLsb' (64 * ((w.readS c).toNat % 16)) 64
      let bad := w.tsrPoison[t].getLsbD ((w.readS c).toNat % 16) || w.scalarPoison (.s c)
      (bad = false → ScalarDid s (exec (.tsrget t c x) s) x v)
      ∧ (bad = true → ∃ r, exec (.tsrget t c x) s = .next r ∧ r = { s with warp := r.warp } ∧ at_ r ∧ w.Keeps r.warp [.s x]
          ∧ r.warp = { w with
              s := r.warp.s, sFull := r.warp.sFull, sPoison := r.warp.sPoison, frag := r.warp.frag }
          ∧ r.warp.readS x = (if x = 0 then 0 else v) ∧ r.warp.full (.s x) = true
          ∧ r.warp.scalarPoison (.s x) = decide (x ≠ 0)))

/-- A command instruction as a statement sees it: what it needs to issue, its class, the command it makes, the checks it
makes in order, the token classes that meter it, its node with the count of its predecessors. -/
structure Cmd where
  i : Instr
  need : Need
  cls : Fin 4
  kind : CmdKind
  checks : List (Option Cause)
  meters : List Nat
  node : Option (Nat × Nat)

/-- The command instructions on slot `t` with coordinates from `c` (R175, R178, R316), and those on registers alone. -/
noncomputable def commandsOf (s : State) (t m : Fin 16) (c : Fin 64) (n : Fin 8) (x : Fin 64) (p : Fin 4) (g : Bool) : List Cmd :=
  let w := s.warp
  let a := w.agent
  let slot := w.tsr[t]
  let dst := w.tsr[m]
  let cs := w.coordinates c n.val
  let d := w.readS x
  let i := w.readS (regAt x 1)
  let legal := w.copyLegal t c n
  let node := nodeOf g w.frag.hints
  let dense := fun (i : Instr) (k : CmdKind) => (
    { i := i, cls := 0, kind := k, node := node
      need := { hmod := some policyFields, node := g, legal := legal, srcs := (.t t, false) :: coordSources c n.val ++ [(.s x, false)] }
      checks := slotChecks slot ++ [faultUnless (d.toNat % 16 == 0) .align,
        s.boxFault a slot cs, (s.denseBreach a slot p.val d.toNat).map (·.1)]
      meters := metersOf [Tsr.space slot, p.val] } : Cmd)
  let lists := fun (ins : Instr) (k : CmdKind) => (
    { i := ins, cls := 1, kind := k, node := node
      need := { node := g, legal := legal && decide (x.val ≤ 62)
                srcs := (.t t, false) :: coordSources c n.val ++ [(.s x, false), (.s (regAt x 1), false)] }
      checks := slotChecks slot ++ [faultUnless (2 ≤ Tsr.rank slot) .range, faultUnless (d.toNat % 16 == 0) .align,
        faultUnless (i.toNat % 4 == 0) .align, (gatherBreach slot cs).map (·.1), (s.denseBreach a slot p.val d.toNat).map (·.1),
        (s.indexBreach a slot p.val i.toNat).map (·.1)]
      meters := metersOf [Tsr.space slot, p.val] } : Cmd)
  let range := fun (ins : Instr) (k : CmdKind) => (
    { i := ins, cls := 3, kind := k, node := node
      need := { node := g, legal := decide (c.val ≤ 62)
                srcs := [(.s c, false), (.s (regAt c 1), false), (.s x, false)] }
      checks :=
        let len := (w.readS (regAt c 1)).toNat
        [faultUnless (16 ≤ len && len ≤ 2 ^ 24 && len % 16 == 0) .range,
         faultUnless (d.toNat % 16 == 0 && (w.readS c).toNat % 16 == 0) .align,
         s.bufferFault p.val d.toNat len, faultUnless ((w.readS c).toNat < 2 ^ 57) .range]
      meters := 1 :: metersOf [p.val] } : Cmd)
  [ dense (.tload t c n x p g) (.tload slot cs p.val d), dense (.tstore t c n x p g) (.tstore slot cs p.val d),
    lists (.tgather t c n x p g) (.tgather slot cs p.val d i),
    lists (.tscatter t c n x p g) (.tscatter slot cs p.val d i),
    { i := .tzero t c n g, cls := 0, kind := .tzero slot cs, node := node
      need := { node := g, legal := legal, srcs := (.t t, false) :: coordSources c n.val }
      checks := slotChecks slot ++ [s.boxFault a slot cs], meters := metersOf [Tsr.space slot] },
    { i := .tcopy t c n m g, cls := 0, kind := .tcopy dst slot cs, node := node
      need := { node := g, legal := legal, srcs := (.t t, false) :: (.t m, false) :: coordSources c n.val }
      checks := slotChecks slot ++ slotChecks dst ++ [faultUnless (sameShape dst slot) .range, s.boxFault a slot cs,
        s.boxFault a dst cs]
      meters := metersOf [Tsr.space slot, Tsr.space dst] },
    { i := .gbin c p g, cls := 1, kind := .gbin p.val (w.readS c), node := node
      need := { node := g, srcs := [(.s c, false)] }
      checks := [faultUnless ((w.readS c).toNat % 16 == 0) .align], meters := metersOf [p.val] },
    { i := .push t c n x g, cls := 3, kind := .push slot cs d i, node := node
      need := { node := g, legal := legal && decide (x.val ≤ 62)
                srcs := (.t t, false) :: coordSources c n.val ++ [(.s x, false), (.s (regAt x 1), false)] }
      checks := slotChecks slot ++ [faultUnless (targetLegal d) .range, s.boxFault a slot cs]
      meters := 1 :: metersOf [Tsr.space slot] },
    range (.put c x p g) (.put (w.readS c).toNat (w.readS (regAt c 1)).toNat p.val d),
    range (.get c x p g) (.get (w.readS c).toNat (w.readS (regAt c 1)).toNat p.val d),
    { i := .cstep c p g, cls := 3, kind := .cstep p.val (w.readS c), node := node
      need := { node := g, srcs := [(.s c, false)] }
      checks := [faultUnless ((w.readS c).toNat % 64 == 0) .align], meters := [0, 1, 2, 3] } ]

/-- The first failing check raises its cause. A metered class that is dry, or whose tokens a unit held before this one is
served first, makes the unit wait, which its fragment notes with the classes; a full class or a store not yet performed
makes it wait too; else the command enters. -/
def Issued (s : State) (u : Cmd) (full : Bool) : Prop :=
  let out := exec u.i s
  let first := firstFault (u.checks ++ [s.nodeFault u.node])
  let dry := s.heldBy u.meters
  let room := decide (s.warp.cnt u.cls < Config.classLimit) && s.releaseReady
  s.Ready u.need →
    (∀ c, first = some c → full = false ∨ firstFault u.checks ≠ none → s.Handles → Traps s out c)
    ∧ (firstFault u.checks = none → full = true → Waits s out)
    ∧ (first = none → full = false → dry ≠ [] →
        out = .next { s with warp := { s.warp with frag := { s.warp.frag with
          held := true, dry := dry
          drySince := if s.warp.frag.dry = [] then s.clock.toNat else s.warp.frag.drySince } } })
    ∧ (first = none → full = false → dry = [] → room = false → Waits s out)
    ∧ (first = none → full = false → dry = [] → room = true →
        ∃ t, out = .next t ∧ Entered s t (s.command u.cls u.kind (u.node.map (·.1)) none) ((u.node.map (·.2)).getD 0)
          ∧ t.warp = { s.warp with out := t.warp.out, issued := t.warp.issued, frag := t.warp.frag })

/-- The matrix commands that write no register (R192, R200–R213). -/
noncomputable def matrixOf (s : State) (k : Fin 8) (t : Fin 16) (c x : Fin 64) (p : Fin 4) (i g : Bool) : List Cmd :=
  let w := s.warp
  let slot := w.tsr[t]
  let xs := w.matrixCoords slot c
  let v := w.readS c
  let d := w.readS x
  let node := nodeOf g w.frag.hints
  let tiled := fun (tile : Nat) => faultUnless (decide (tile < s.myGang.acc)) .range
  let need := fun (srcs : List (Reg × Bool)) => (
    { node := g, cond := if w.fused then none else some .illconv, srcs := srcs } : Need)
  let make := fun (ins : Instr) (n : Need) (kind : CmdKind) (checks : List (Option Cause)) (ms : List Nat) => (
    { i := ins, need := n, cls := 2, kind := kind, checks := checks, meters := ms, node := node } : Cmd)
  let pass := fun (ins : Instr) (mode : Nat) =>
    make ins { need [(.s c, false), (.s x, false)] with legal := p != 0, level2 := mode == 2 }
      (.mmul mode k.val v.toNat p.val d)
      [tiled k.val, faultUnless (1 ≤ v.toNat && v.toNat ≤ 64) .range, faultUnless (d.toNat % 16 == 0) .align,
       s.fieldFault w.agent { space := p.val, addr := d.toNat, bit := 0, width := 8 }] (metersOf [p.val])
  [ make (.mlds t c g) (need ((.t t, false) :: matrixSources slot c)) (.mlds slot xs)
      [tiled 0, faultUnless (Tsr.wellFormed slot false && 2 ≤ Tsr.rank slot && Tsr.fmt slot ≤ 19) .range,
       faultUnless (Tsr.box slot 0 ≤ 256) .range, faultUnless (flatBox slot) .range,
       faultUnless (!Tsr.sparse slot || Tsr.box slot 1 % 2 == 0) .range, faultUnless (coordsExist slot c) .range,
       faultUnless (!Tsr.zpts slot || isOb (Tsr.fmt slot)) .range, faultUnless (Tsr.aligned slot) .align,
       faultUnless (!(Tsr.scales slot || Tsr.zpts slot || Tsr.sparse slot) || Tsr.szaddr slot % 128 == 0) .align,
       s.boxFault w.agent slot xs]
      (metersOf [Tsr.space slot]),
    make (.mswap g) (need []) .mswap [tiled 0] [],
    make (.mshape c g) (need [(.s c, false)]) (.mshape (v.setWidth 4))
      [tiled 0, faultUnless ([1, 2, 4, 8, 3, 12, 15].contains v.toNat) .range] [],
    make (.mcfg c g) (need [(.s c, false)]) (.mcfg (v.setWidth 25))
      [tiled 0, faultUnless (configLegal v.toNat) .range] [],
    pass (.mmul k c x p g) 0, pass (.mmulz k c x p g) 1, pass (.mmult k c x p g) 2,
    make (.mdrain k t c i g) { need ((.t t, false) :: matrixSources slot c) with hmod := some roundFields }
      (.mdrain k.val slot xs i w.frag.hints.rm w.frag.hints.sat)
      [tiled k.val, faultUnless (Tsr.wellFormed slot false && 2 ≤ Tsr.rank slot) .range,
       faultUnless (Tsr.box slot 0 ≤ 256 && Tsr.box slot 1 ≤ 64 && flatBox slot) .range,
       faultUnless (coordsExist slot c) .range, faultUnless (!Tsr.zpts slot || isOb (Tsr.fmt slot)) .range,
       faultUnless (Tsr.aligned slot) .align, faultUnless (!Tsr.zpts slot || Tsr.szaddr slot % 128 == 0) .align,
       s.boxFault w.agent slot xs] (metersOf [Tsr.space slot]),
    make (.mzero k g) (need []) (.mzero k.val) [tiled k.val] [] ]

/-- The copy commands, GBIN and the fabric commands issue.
The alignment of GBIN's descriptor at issue, and the order of the checks of MLDS and MDRAIN, are the model's (logs 42, 84).
The matrix commands issue, and wait too while the reservation table of their cluster is full (R192); a warp that is
not fused raises ILLCONV.
MRDROW and MSTAT enter the stream of their gang with their destinations empty until they take effect. -/
def Obligations.CommandsIssue : Prop :=
 (∀ (s : State) (t m : Fin 16) (c : Fin 64) (n : Fin 8) (x : Fin 64) (p : Fin 4) (g : Bool),
    ∀ u ∈ commandsOf s t m c n x p g, Issued s u false)
  ∧ (∀ (s : State) (k : Fin 8) (t : Fin 16) (c x : Fin 64) (p : Fin 4) (i g : Bool),
       ∀ u ∈ matrixOf s k t c x p i g,
         Issued s u (decide (Config.reservationEntries ≤ s.reserved s.myGang))
         ∧ (s.warp.fused = false → hintsLegal s.warp.frag.hints u.need = true → u.need.legal = true →
             (u.need.level2 = true → 2 ≤ s.gridLevel) → s.Handles → Traps s (exec u.i s) .illconv))
  ∧ (∀ (s : State) (k j : Fin 8) (c b : Fin 64) (m : Fin 4), s.warp.fused = true → s.releaseReady = true →
       s.warp.cnt 2 < Config.classLimit → s.reserved s.myGang < Config.reservationEntries → s.warp.Fresh →
       let reads := fun (out : Host.Outcome State Fault Refusal) (kind : CmdKind) (ds : List Reg) =>
         ∃ t, out = .next t ∧ Entered s t (s.command 2 kind none (some s.warp.nextPend)) 0
           ∧ Calm s t ds ∧ (∀ d ∈ ds, d ≠ .s 0 → t.warp.full d = false)
           ∧ ∃ p, t.warp.pend = s.warp.pend ++ [p] ∧ p.id = s.warp.nextPend ∧ p.kind = .command s.nextUid ∧ p.dests = ds
             ∧ p.ready = false
       (s.Ready { dests := [.s c] } → 0 < s.myGang.acc → reads (exec (.mstat c) s) (.mstat c) [.s c])
       ∧ (let h := s.warp.frag.hints
          let step := if m = 0 then 2 else 1
          let offs := h.elems step
          let row := (s.warp.readS c).toNat
          let ds := blockRegs b offs step
          s.Ready { hblk := true, dests := ds, srcs := [(.s c, false)] } → m ≠ 3 → h.blockFits step b = true →
          (m = 0 → b.val % 2 = 0) → j.val + offs.length ≤ 8 →
           (k.val < s.myGang.acc → row < 64 →
             reads (exec (.mrdrow k j c b m) s)
               (.mrdrow k.val row j.val m.val (offs.map (regAt b)) s.warp.active) ds)
           ∧ (s.myGang.acc ≤ k.val ∨ 64 ≤ row → s.Handles → Traps s (exec (.mrdrow k j c b m) s) .range)))

/-- WAITC goes on when at most its limit is outstanding and delivers the faults that it covers, the oldest first, but for
those that a WAITC issued before it and still waiting covers (R181); else its fragment waits. RDCNT reads the counter.
Oldest is the order in which faults were raised, by the model's reading (log 41). -/
def Obligations.CounterWaits : Prop :=
  ∀ (s : State) (a d : Fin 64) (c : Fin 4),
    let n := (s.warp.readS a).toNat
    let upto := s.warp.issued[c] - n
    let covered := s.warp.heldFaults.filter fun f => f.cls == c && decide (f.seq < upto) && s.warp.pend.all fun p =>
      decide (s.warp.nextPend ≤ p.id) || match p.kind with
        | .waitc c' _ n' => c' != c || decide (n' ≤ f.seq)
        | _ => true
    let out := exec (.waitc a c) s
    (s.Ready { srcs := [(.s a, false)] } →
      (s.warp.cnt c ≤ n → covered = [] → Goes s out s.next)
      ∧ (∀ f more, s.warp.cnt c ≤ n → covered = f :: more → s.Handles →
          ∃ t, out = .next t ∧ t.warp.InTrap f.cause 0 s.warp.frag.pc s.warp.active s.next f.addr
            ∧ t.warp.heldFaults = s.warp.heldFaults.filter (fun f => !covered.contains f)
            ∧ ∃ m, t.warp.trap = some m ∧ m.record.engine = true ∧ m.record.cmdpc = f.pc
              ∧ m.record.nextra = min more.length 63)
      ∧ (n < s.warp.cnt c → ∃ t, out = .next t ∧ Leaves s t (.waitc c n upto) none true none ∧ t.others = s.others))
    ∧ (s.Prompt → s.Ready { dests := [.s d] } →
        ScalarDid s (exec (.rdcnt d c) s) d (BitVec.ofNat 64 (s.warp.cnt c)))

/-- The state of a node of the issuing warp's gang, with its code, count, edges and underflow bit. -/
def nodeAt (s : State) (x : Word64) : Node := s.myGang.nodes.getD x.toNat Node.free

/-- The graph instructions: an edge, or a decrease where its source has completed; a release; a reset; the status word.
A register that names no node raises RANGE. -/
def Obligations.GraphNodes : Prop :=
  ∀ (s : State) (c x : Fin 64),
    let a := s.warp.readS c
    let b := s.warp.readS x
    let named := fun v : Word64 => v.toNat < min 256 s.myGang.nodes.length
    let changed := fun (out : Host.Outcome State Fault Refusal) (n : Word64) (f : Node → Node) =>
      ∃ t, out = .next t ∧ s.warp.frag.MovedTo t.warp.frag s.next
        ∧ t = { s with
            warp := { s.warp with frag := t.warp.frag }
            gangs := s.gangs.map fun g =>
              if g.uid = s.warp.gang then { g with nodes := g.nodes.modify n.toNat f } else g }
    (s.Ready { srcs := [(.s c, false), (.s x, false)] } →
      let out := exec (.gedge c x) s
      let legal := named a ∧ named b ∧ a ≠ b ∧ ((nodeAt s b).state = .held ∨ (nodeAt s b).state = .released)
        ∧ ((nodeAt s a).state = .free ∨ (nodeAt s a).succ.length < 8)
      (legal → (nodeAt s a).state = .free → changed out b Node.decrease)
      ∧ (legal → (nodeAt s a).state ≠ .free → changed out a fun d => { d with succ := d.succ ++ [b.toNat] })
      ∧ (¬ legal → s.Handles → Traps s out .range))
    ∧ (s.Ready { srcs := [(.s c, false)] } →
      (named a → (nodeAt s a).state = .held → changed (exec (.grel c) s) a fun d => { d with state := .released })
      ∧ (¬ named a ∨ (nodeAt s a).state ≠ .held → s.Handles → Traps s (exec (.grel c) s) .range)
      ∧ (named a → (nodeAt s a).state = .free → Goes s (exec (.greset c) s) s.next)
      ∧ (named a → (nodeAt s a).state = .running →
          ∃ t, exec (.greset c) s = .next t ∧ Leaves s t (.node a.toNat) none true none ∧ t.others = s.others)
      ∧ (named a → (nodeAt s a).state = .held ∨ (nodeAt s a).state = .released →
          ∃ t, exec (.greset c) s = .next t ∧ Calm s t [] ∧ t.warp.frag.pc = s.next
            ∧ ((t.gang s.warp.gang).nodes.getD a.toNat Node.free).state = .free
            ∧ ∀ k, (nodeAt s a).cmd = some k → ∀ q ∈ t.cmds, q.id ≠ k)
      ∧ (¬ named a → s.Handles → Traps s (exec (.greset c) s) .range))
    ∧ (s.Prompt → s.Ready { dests := [.s x], srcs := [(.s c, false)] } →
      let n := nodeAt s a
      let code := match n.state with
        | .free => 0
        | .held => 1
        | .released => 2
        | .running => 3
      (named a → ScalarDid s (exec (.gstat c x) s) x
        (BitVec.ofNat 64 (code + 2 ^ 8 * n.count + 2 ^ 16 * n.succ.length + 2 ^ 20 * n.under.toNat)))
      ∧ (¬ named a → s.Handles → Traps s (exec (.gstat c x) s) .range))

/-! ## Locks, monitors, barriers (R238–R262) -/

/-- A pending instruction that has its answer. -/
def answeredWith (v : Word64) (p : Pending) : Pending :=
  { p with
    ready := true
    writes := p.dests.map fun r => match r with
      | .s r => RegWrite.s r v
      | .v r => RegWrite.v r 0 (Vector.replicate 32 0)
      | .m _ | .t _ => RegWrite.s 0 0 }

/-- A warp one of whose pending instructions changes. -/
def pendingOf (pend : Nat) (f : Pending → Pending) (x : Warp) : Warp :=
  { x with pend := x.pend.map fun p => if p.id = pend then f p else p }

/-- A waiting warp is granted a line: its instruction is answered, its slot holds the lock, and a warp that was not active
is from now on. -/
def grantedTo (now line pend : Nat) (v : Word64) (x : Warp) : Warp :=
  { pendingOf pend (answeredWith v) x with
    locks := x.locks.map fun l => if l.line = line then { l with held := true } else l
    lease := if x.lease.active then x.lease
      else { x.lease with active := true, queued := false, since := now, headSince := none, forced := false } }

/-- LLOCK and LTRY take a slot: a free line is granted at once, with ABANDONED where it is marked; a held one queues
LLOCK at the tail and answers LTRY with BUSY. Without a slot to take they raise LOCKERR.
LUNLOCK frees its slot and passes the lock to the head of the queue; LYIELD does the same and joins the tail, or
keeps the lock where nothing waits. Both are releases. LSTAT returns the state of the lock, the number of its holder among it
where that is of the reader's context. What waits has not timed out here: MemoryEvents says what becomes of what has.
A request waits at the slice where the table is full, or the page moves, but for an LTRY of a held lock (log 68).
That a logged one holds all its lanes, and that slots are compared by address while the page is unmapped, is the model's
reading (logs 32, 51). -/
def Obligations.LineLocks : Prop :=
 (∀ (s s' : State) (a b d : Fin 64) (loc : Nat) (try_ : Bool),
    let w := s.warp
    let ea := w.readS a
    let line := lineOf loc
    let timeout := (w.readS b).toNat % 2 ^ 32
    let me : Waiter := { warp := w.uid, pend := w.nextPend
                         deadline := if timeout = 0 then none else some (s.clock.toNat + timeout) }
    let slot := fun (held : Bool) => ({ va := ea.toNat, line := line, held := held, saved := none, left := none } : LockSlot)
    let free := w.locks.length + (w.log.filter LogEntry.asksLock).length < 4 ∧ (∀ x ∈ w.locks, x.line ≠ line)
      ∧ ∀ e ∈ w.log, e.asksLock = true → (e.job.ea[(0 : Fin 32)]).toNat ≠ ea.toNat
    let out := if try_ then exec (.ltry a d) s else exec (.llock a b d) s
    let asks := fun (status : Option Word64) (slots : List LockSlot) (locks : List Lock) (waits : List LockRequest) =>
      ∃ t, out = .next t ∧ Leaves s t (if try_ then .ltry line else .lock line) (some d) true status ∧ t.warp.locks = slots
        ∧ t.locks = locks ∧ t.lockWaits = waits
        ∧ t = { s' with warp := t.warp, locks := t.locks, lockWaits := t.lockWaits }
    let waits := asks none (w.locks ++ [slot false]) s.locks
      (s.lockWaits ++ [{ line := line, va := ea.toNat, warp := w.uid, pend := w.nextPend, try_ := try_
                         deadline := if try_ then none else me.deadline }])
    s.Ready { dests := [.s d], srcs := (.s a, false) :: if try_ then [] else [(.s b, false)] } →
    s.AtLine 128 true ea s' loc → w.Fresh →
    (free →
      (s.lockHeldUp line = true → try_ = false ∨ (∀ l, s.lockOf line = some l → l.holder = none) → waits)
      ∧ (s.lockHeldUp line = false → s.lockOf line = none →
          let room := s.locks.length < Config.lockEntries
            ∨ (s.locks.filter fun l => s'.homeOf l.line == s'.homeOf line && Config.sliceOf l.line == Config.sliceOf line).length
              < Config.lockEntries
          (room → asks (some 0) (w.locks ++ [slot true])
            (s.locks ++ [{ line := line, va := ea.toNat, holder := some w.uid, queue := [], mark := false }]) s.lockWaits)
          ∧ (¬ room → waits))
      ∧ ∀ l, s.lockOf line = some l →
          (s.lockHeldUp line = false → l.holder = none → asks (some (if l.mark then 1 else 0)) (w.locks ++ [slot true])
            (s.locks.map fun m => if m.line = line then { l with holder := some w.uid, mark := false } else m) s.lockWaits)
          ∧ (l.holder ≠ none → try_ = true → asks (some 3) w.locks s.locks s.lockWaits)
          ∧ (s.lockHeldUp line = false → l.holder ≠ none → try_ = false → asks none (w.locks ++ [slot false])
              (s.locks.map fun m => if m.line = line then { l with queue := l.queue ++ [me] } else m) s.lockWaits))
    ∧ (¬ free → s.Handles → Traps s' out .lockerr))
  ∧ (∀ (s s' : State) (a b d : Fin 64) (loc : Nat),
       let w := s.warp
       let ea := w.readS a
       let line := lineOf loc
       let timeout := (w.readS b).toNat % 2 ^ 32
       let me : Waiter := { warp := w.uid, pend := w.nextPend
                            deadline := if timeout = 0 then none else some (s.clock.toNat + timeout) }
       let holds := ∃ x ∈ w.locks, x.held = true ∧ x.line = line
       let set := fun (l : Lock) => s.locks.map fun m => if m.line = line then l else m
       let wakes := fun (q : Waiter) => s.others.map fun x => if x.uid = q.warp then grantedTo s.clock.toNat line q.pend 0 x else x
       let passes := fun (out : Host.Outcome State Fault Refusal) (kind : PendKind) (r : Option (Fin 64)) (blocks : Bool)
           (status : Option Word64) (slots : List LockSlot) (locks : List Lock) (others : List Warp) =>
         ∃ t, out = .next t ∧ Leaves s t kind r blocks status ∧ t.warp.locks = slots ∧ t.locks = locks
           ∧ t.others = others
           ∧ t = { s' with warp := t.warp, others := t.others, locks := t.locks }
       let timely := ∀ l, s.lockOf line = some l → ∀ q ∈ l.queue, ∀ d, q.deadline = some d → s.clock.toNat ≤ d
       s.AtLine 128 true ea s' loc → w.Fresh → timely →
       (s.Ready { srcs := [(.s a, false)] } → s.releaseReady = true →
         let out := exec (.lunlock a) s
         let gone := w.locks.filter fun x => x.line != line
         (¬ holds → s.Handles → Traps s' out .lockerr)
         ∧ ∀ l, holds → s.lockOf line = some l →
             (l.queue = [] → s.lockWaits = [] →
               passes out .lanes none false (some 0) gone (s.locks.filter fun m => m.line != line) s.others)
             ∧ ∀ q qs, l.queue = q :: qs → q.warp ≠ w.uid →
                 passes out .lanes none false (some 0) gone (set { l with holder := some q.warp, queue := qs }) (wakes q))
       ∧ (s.Ready { dests := [.s d], srcs := [(.s a, false), (.s b, false)] } → s.releaseReady = true →
         let out := exec (.lyield a b d) s
         (¬ holds → s.Handles → Traps s' out .lockerr)
         ∧ ∀ l, holds → s.lockOf line = some l →
             (l.queue = [] → passes out .lanes (some d) true (some 0) w.locks s.locks s.others)
             ∧ ∀ q qs, l.queue = q :: qs → q.warp ≠ w.uid →
                 passes out (.lock line) (some d) true none
                   (w.locks.map fun x => if x.line = line then { x with held := false } else x)
                   (set { l with holder := some q.warp, queue := qs ++ [me] }) (wakes q))
       ∧ (s.Ready { dests := [.s d], srcs := [(.s a, false)] } → w.live = true →
         let reads := fun (v : Nat) =>
           passes (exec (.lstat a d) s) .lanes (some d) false (some (BitVec.ofNat 64 v)) w.locks s.locks s.others
         (s.lockOf line = none → reads 0)
         ∧ ∀ l, s.lockOf line = some l →
             let waiting := 2 ^ 8 * min l.queue.length 255 + 4 * l.mark.toNat
             (l.holder = none → reads waiting)
             ∧ (l.holder = some w.uid → reads (2 ^ 32 * (w.warpid % 2 ^ 15) + waiting + 3))
             ∧ ∀ h, l.holder = some h.uid → h.uid ≠ w.uid → s.findWarp h.uid = some h →
                 reads ((if h.ctx = w.ctx then 2 ^ 32 * (h.warpid % 2 ^ 15) else 0) + waiting + 1)))

/-- The conditions of R250 on the value V at the location and the comparand C. -/
def condition (q : Nat) (v c : Word64) : Bool :=
  let v32 : Word32 := v.setWidth 32
  let c32 : Word32 := c.setWidth 32
  match q with
  | 0 => v32 == c32
  | 1 => v32 != c32
  | 2 => c32.sle v32
  | 3 => v32.slt c32
  | 4 => !((v.setWidth 16 : BitVec 16) - c.setWidth 16).msb
  | 5 => c.sle v
  | 6 => v != c
  | _ => c32.ule v32

/-- WAITCMP and PBARW look at their location once: where the condition holds they are answered at once, else a monitor is
armed with their comparand and timeout, and the fragment waits for it. Poison there raises POISON. -/
def Obligations.MonitorsArmed : Prop :=
  ∀ (s s' : State) (a b d : Fin 64) (loc : Nat), s.warp.Fresh →
    let w := s.warp
    let waits := fun (out : Host.Outcome State Fault Refusal) (r : Option (Fin 64)) (q n : Nat) (c : Word64) (timeout : Nat) =>
      let v := BitVec.ofNat 64 (s.mem.nat loc n)
      let m : Monitor := { id := s.nextUid, warp := w.uid, pend := w.nextPend, loc := loc, q := q, comparand := c
                           deadline := if timeout = 0 then none else some (s.clock.toNat + timeout)
                           table := s.monitorRoom loc, checked := s.clock.toNat, fired := false }
      (condition q v c = true → ∃ t, out = .next t ∧ Leaves s t .lanes r true (some 0)
        ∧ t = { s' with warp := t.warp })
      ∧ (condition q v c = false → ∃ t, out = .next t ∧ Leaves s t (.monitor s.nextUid) r true none
        ∧ t = { s' with warp := t.warp, nextUid := s.nextUid + 1, monitors := s.monitors ++ [m] })
    (∀ q : Fin 16, q.val ≤ 7 → b ≠ 63 →
      s.Ready { dests := [.s d], srcs := (.s a, false) :: if b = 0 then [] else [(.s b, false), (.s (regAt b 1), false)] } →
      let n := if q = 4 then 2 else if q = 5 ∨ q = 6 then 8 else 4
      s.AtLine n false (w.readS a) s' loc →
      let out := exec (.waitcmp a b d q) s
      (s.poisoned loc n = true → s.Handles → Traps s' out .poison)
      ∧ (s.poisoned loc n = false →
          waits out (some d) q.val n (w.readS b) (if b = 0 then 0 else (w.readS (regAt b 1)).toNat % 2 ^ 32)))
    ∧ (∀ sc : Fin 8, sc.val ≤ 4 → s.Ready { srcs := [(.s a, false), (.s b, false)] } →
      s.AtLine 16 false (w.readS a) s' loc →
      let out := exec (.pbarw a b sc) s
      (s.poisoned loc 16 = true → s.Handles → Traps s' out .poison)
      ∧ (s.poisoned loc 16 = false → waits out none 4 2 (w.readS b) 0))

/-- What a barrier gives its participants: the fold of the payloads by workgroup and warp index, and its conditions. -/
def payloadResult (q : Nat) (ps : List Word64) : Word64 × BitVec 5 :=
  let fold := fun (f : Word64 → Word64 → Word64) => match ps with
    | [] => (0 : Word64)
    | p :: ps => ps.foldl f p
  match q with
  | 0 => (fold fun p q => p + q, 0)
  | 1 => (fold fun p q => if p.slt q then p else q, 0)
  | 2 => (fold fun p q => if p.slt q then q else p, 0)
  | 3 => (fold fun p q => p &&& q, 0)
  | 4 => (fold fun p q => p ||| q, 0)
  | 5 => (fold fun p q => p ^^^ q, 0)
  | _ => match ps with
    | [] => (0, 0)
    | p :: ps =>
      let r := sumChain (p.setWidth 32) (ps.map (·.setWidth 32))
      (r.1.setWidth 64, r.2)

/-- What a generation gives the pending instruction of a participant: its result and conditions, or POISON. -/
def barrierAnswer (bad : Bool) (r : Word64 × BitVec 5) (p : Pending) : Pending :=
  if bad then { p with ready := true, fault := some .poison }
  else { answeredWith r.1 p with flags := r.2, floats := r.2 != 0 }

/-- BARW and BARG: the warp arrives and its fragment waits; the last arrival answers every participant of its generation,
with the payloads folded by the first participant's operation, or with POISON where a payload was poisoned. Stores not yet
performed hold the arrival up, and a warp that is not fused raises ILLCONV.
PBARV adds its arrivals in one step: the phase counts full rounds, and the token is the phase that ends with this
round. PBARINIT writes a fresh object, and checks its count before the object's address (the model's choice: log 52). Either
write is one at the point of performance, which leaves no word of the line with a core. A malformed object or count raises
RANGE, and a poisoned object POISON. -/
def Obligations.Barriers : Prop :=
 (∀ (s : State) (a d : Fin 64) (q : Fin 16) (whole : Bool), q.val ≤ 6 → s.warp.Fresh →
    (∃ g ∈ s.gangs, g.uid = s.warp.gang) →
    s.Ready { dests := [.s d], srcs := [(.s a, false)], poisonOk := true } →
    let w := s.warp
    let out := if whole then exec (.barg a d q) s else exec (.barw a d q) s
    let wg := if whole then none else some w.wg
    let gen := if whole then w.barg else w.barw
    let me : Arrival := { wg := w.wg, index := w.index, warp := w.uid, pend := w.nextPend, op := q.val
                          payload := w.readS a, poisoned := a != 0 && w.sPoison[a] }
    let joined := joinBarrier wg gen me s.myGang.barriers
    let leaves := fun (t : State) (bs : List Barrier) (others : List Warp) =>
      t = { s with warp := t.warp, others := others, gangs := t.gangs } ∧ (t.gang w.gang).barriers = bs
        ∧ t.gangs.map (fun g => { g with barriers := [] }) = s.gangs.map (fun g => { g with barriers := [] })
        ∧ ∀ u, u ≠ w.gang → t.gang u = s.gang u
    (w.fused = false → s.Handles → Traps s out .illconv)
    ∧ (w.fused = true → s.releaseReady = false → Waits s out)
    ∧ (w.fused = true → s.releaseReady = true →
      ((∀ b ∈ joined, s.barrierFull w.gang b = false) →
        ∃ t, out = .next t ∧ Leaves s t .barrier (some d) true none ∧ leaves t joined s.others)
      ∧ ∀ b op, joined.filter (s.barrierFull w.gang) = [b] → b.wg = wg → b.gen = gen → me ∈ b.arrivals →
          (b.arrivals.map (·.warp)).Nodup → b.arrivals.head?.map (·.op) = some op → op ≤ 6 →
          let r := payloadResult op (b.arrivals.map (·.payload))
          let bad := b.arrivals.any (·.poisoned)
          let told := s.others.map fun y => match b.arrivals.find? fun x => x.warp == y.uid && x != me with
            | some x => pendingOf x.pend (barrierAnswer bad r) y
            | none => y
          ∃ t, out = .next t ∧ leaves t (joined.filter fun c => !(c.wg == wg && c.gen == gen)) told
            ∧ Calm s t [.s d] ∧ t.warp.frag.pc = s.next ∧ t.warp.frag.block = some w.nextPend
            ∧ (bad = false → Leaves s t .barrier (some d) true (some r.1))
            ∧ ∃ p ∈ t.warp.pend, p.id = w.nextPend ∧ p.ready = true
                ∧ if bad then p.fault = some .poison else p.fault = none ∧ p.flags = r.2 ∧ p.floats = (r.2 != 0)))
  ∧ (∀ (s s' : State) (a b d : Fin 64) (sc : Fin 8) (loc : Nat), sc.val ≤ 4 →
       let w := s.warp
       let v := s.mem.nat loc 16
       let phase := v % 2 ^ 16
       let expect := v / 2 ^ 32 % 2 ^ 32
       let n := (w.readS b).toNat % 2 ^ 32
       let clear := s.AtLine 16 true (w.readS a) s' loc ∧ s.pageLockOf loc = none ∧ s.mem.wf
       let home := fun t : State => cached (kindOf loc) loc = true → ∀ r ∈ t.regs, r.line ≠ lineOf loc
       (clear → s.Ready { dests := [.s d], srcs := [(.s a, false), (.s b, false)] } → s.Prompt → s.releaseReady = true →
         let c := if b = 0 then 1 else n
         let arrived := v / 2 ^ 64 % 2 ^ 32 + c
         let legal := 0 < expect ∧ expect ≤ 2 ^ 24 ∧ v / 2 ^ 16 % 2 ^ 16 = 0 ∧ v / 2 ^ 96 = 0
         let out := exec (.pbarv a b d sc) s
         (s.poisoned loc 16 = false → legal →
           ∃ t, out = .next t ∧ Touched s t ∧ s.warp.OnlyRegisters t.warp ∧ s.warp.Keeps t.warp [.s d]
             ∧ t.warp.fpflags = w.fpflags ∧ w.frag.MovedTo t.warp.frag s.next ∧ (c ≠ 0 → home t)
             ∧ t.warp.HoldsS d (BitVec.ofNat 64 ((phase + 1) % 2 ^ 16))
             ∧ ∀ x, t.mem.read x = if c = 0 then s.mem.read x else
                 laid loc (natToBytes 16 ((phase + arrived / expect) % 2 ^ 16 + 2 ^ 32 * expect + 2 ^ 64 * (arrived % expect)))
                   x (s.mem.read x))
         ∧ (s.poisoned loc 16 = false → ¬ legal → s.Handles → Traps s' out .range)
         ∧ (s.poisoned loc 16 = true → s.Handles → Traps s' out .poison))
       ∧ (s.Ready { dests := [.s d], srcs := [(.s a, false), (.s b, false)] } → s.releaseReady = false →
           Waits s (exec (.pbarv a b d sc) s))
       ∧ (s.Ready { srcs := [(.s a, false), (.s b, false)] } →
         let out := exec (.pbarinit a b) s
         let legal := 0 < n ∧ n ≤ 2 ^ 24
         (clear → legal → s.poisoned loc 16 = false →
           ∃ t, out = .next t ∧ Touched s t ∧ t.warp = { w with frag := t.warp.frag } ∧ w.frag.MovedTo t.warp.frag s.next
             ∧ home t ∧ ∀ x, t.mem.read x = laid loc (natToBytes 16 (2 ^ 32 * n)) x (s.mem.read x))
         ∧ (clear → legal → s.poisoned loc 16 = true → s.Handles → Traps s' out .poison)
         ∧ (¬ legal → s.Handles → Traps s out .range)))

/-! ## Fences, the bind table, launch, lease (R263–R265, R274–R296, R322) -/

/-- FENCE, BIND, UNBIND, ACQ and REL go on, once earlier stores are performed where they release, and earlier reads where they
acquire; BIND and UNBIND change the bind table of their context. (In the model every access is performed at one moment in one order: log 9.) -/
def Obligations.FencesAndBinds : Prop :=
  ∀ (s s' : State) (a b : Fin 64),
    let w := s.warp
    let obj := w.readS a
    let base := w.readS b
    let len := (w.readS (regAt b 1)).toNat
    let goes := fun (out : Host.Outcome State Fault Refusal) (f : List Bind → List Bind) =>
      ∃ t, out = .next t ∧ w.frag.MovedTo t.warp.frag s.next
        ∧ (∀ n, t.context? n =
            if n = w.ctx then (s'.context? n).map fun c => { c with binds := f c.binds } else s'.context? n)
        ∧ t = { s' with warp := { w with frag := t.warp.frag }, contexts := t.contexts }
    (∀ (sc : Fin 64) (o : BitVec 2), s.Ready {} → o ≠ 0 → sc.val ≤ 4 →
      let done := (o[1] = false ∨ s.releaseReady = true) ∧ (o[0] = false ∨ s.readsDone = true)
      (done → Goes s (exec (.fence sc o) s) s.next) ∧ (¬ done → Waits s (exec (.fence sc o) s)))
    ∧ (∀ loc, s.AtLine 128 true obj s' loc →
      (∀ q : Fin 16, q.val ≤ 4 → s.Ready { srcs := [(.s a, false)] } →
        (s.readsDone = true → goes (exec (.acq a q) s) id)
        ∧ (s.readsDone = false → Waits s (exec (.acq a q) s))
        ∧ (s.releaseReady = true → goes (exec (.rel a q) s) id)
        ∧ (s.releaseReady = false → Waits s (exec (.rel a q) s)))
      ∧ (b ≠ 0 → b ≠ 63 → s.Ready { srcs := [(.s a, false), (.s b, false), (.s (regAt b 1), false)] } →
          let pair := fun x : Bind => x.obj = obj.toNat ∧ x.base = base.toNat
          let bs := s.myContext.binds
          let out := exec (.bindR a b) s
          (base.toNat % 128 ≠ 0 → s.Handles → Traps s' out .align)
          ∧ (base.toNat % 128 = 0 → len = 0 ∨ len % 128 ≠ 0 ∨ 2 ^ 32 < len ∨ 2 ^ 57 < base.toNat + len
                ∨ ((∀ x ∈ bs, ¬ pair x) ∧ 256 ≤ bs.length) → s.Handles → Traps s' out .range)
          ∧ (base.toNat % 128 = 0 → 0 < len → len % 128 = 0 → len ≤ 2 ^ 32 → base.toNat + len ≤ 2 ^ 57 →
              ((∃ x ∈ bs, pair x) → goes out fun l => l.map fun x => if pair x then { x with len := len } else x)
              ∧ ((∀ x ∈ bs, ¬ pair x) → bs.length < 256 →
                  goes out fun l => l ++ [{ obj := obj.toNat, base := base.toNat, len := len }])))
      ∧ (b ≠ 0 → b ≠ 63 → s.Ready { srcs := [(.s a, false), (.s b, false)] } →
          let out := exec (.unbind a b) s
          (base.toNat % 128 = 0 → base.toNat < 2 ^ 57 →
            goes out fun l => l.filter fun x => !(x.obj == obj.toNat && x.base == base.toNat))
          ∧ (base.toNat % 128 ≠ 0 → s.Handles → Traps s' out .align)
          ∧ (base.toNat % 128 = 0 → 2 ^ 57 ≤ base.toNat → s.Handles → Traps s' out .range)))

/-- LAUNCH appends the record to a queue of its context and returns the ticket, or 0 from a full queue.
LEASE and SETPL set what the warp asks of the lease scheduler and the power controller; CSTAT reads what the fabric
keeps of a peer: its counts, and of its path what the spec leaves open (free values: log 58). Values out of range raise
RANGE. -/
def Obligations.LaunchesAndLeases : Prop :=
 (∀ (s s' : State) (a b d : Fin 64) (loc kind : Nat), s.Ready { dests := [.s d], srcs := [(.s a, false), (.s b, false)] } →
    let w := s.warp
    let ea := w.readS a
    let q := (w.readS b).toNat
    let u := s.queue q
    let out := exec (.launch a b d) s
    let usable := u.size ≠ 0 ∧ u.ctx = w.ctx ∧ u.device = true
    (63 < q → s.Handles → Traps s out .range)
    ∧ (q ≤ 63 → ea.toNat % 128 ≠ 0 → s.Handles → Traps s out .align)
    ∧ (q ≤ 63 → ea.toNat % 128 = 0 → ¬ usable → s.Handles → Traps s out .range)
    ∧ (q ≤ 63 → ea.toNat % 128 = 0 → usable → s.releaseReady = true → s.Prompt → s.mem.wf →
        s.Once 0 ea 128 128 true false s' loc kind → s.poisoned loc 128 = false →
        let did := fun (t : State) (ticket : Word64) =>
          s.warp.OnlyRegisters t.warp ∧ w.Keeps t.warp [.s d] ∧ t.warp.HoldsS d ticket
          ∧ w.frag.MovedTo t.warp.frag s.next ∧ Touched { s with queues := t.queues } t
        ((u.tail - u.head).toNat = 2 ^ u.size →
          ∃ t, out = .next t ∧ did t 0 ∧ t.queues = s.queues ∧ ∀ x, t.mem.read x = s.mem.read x)
        ∧ ∀ at_ k s'',
            (((s'.chargeAll w.ctx w.site [(kind, loc, 128)]).readAt w.agent kind loc 128).1).slotPlace q u.tail true
              = (s'', some (at_, k)) → s''.mem = s.mem → s''.poison = s.poison →
            (u.tail - u.head).toNat ≠ 2 ^ u.size → s.pageLockOf at_ = none →
            (∀ p ∈ s.partials, lineOf p.loc ∉ linesOf at_ 128) →
            ∃ t, out = .next t ∧ did t (BitVec.ofNat 64 (2 ^ 63 + 2 ^ 32 * q + u.tail.toNat))
              ∧ (t.queue q) = { u with tail := u.tail + 1 } ∧ (∀ r, r ≠ q → t.queue r = s.queue r)
              ∧ ∀ x, t.mem.read x = laid at_ (s.mem.readBytes loc 128) x (s.mem.read x)))
  ∧ (∀ (s : State) (a : Fin 64),
       let w := s.warp
       let v := w.readS a
       let goes := fun (out : Host.Outcome State Fault Refusal) (f : Warp → Warp) =>
         ∃ t, out = .next t ∧ w.frag.MovedTo t.warp.frag s.next ∧ t = { s with warp := { f w with frag := t.warp.frag } }
       (s.Ready { srcs := [(.s a, false)] } →
         (∀ q : Fin 4, q = 0 ∨ q = 2 →
           (1 ≤ v.toNat → v.toNat ≤ 4095 →
             goes (exec (.lease a q) s) fun w => { w with lease := { w.lease with mode := q.val, n := v.toNat } })
           ∧ (v.toNat = 0 ∨ 4095 < v.toNat → s.Handles → Traps s (exec (.lease a q) s) .range))
         ∧ (a = 0 → goes (exec (.lease a 1) s) fun w => { w with lease := { w.lease with mode := 1 } })
         ∧ (v.toNat ≤ 7 → goes (exec (.setpl a) s) fun w => { w with plreq := v.setWidth 3 })
         ∧ (7 < v.toNat → s.Handles → Traps s (exec (.setpl a) s) .range))
       ∧ ∀ x : Fin 64, s.Ready { dests := [.s x], srcs := [(.s a, false)] } →
         (0xFFF ≤ v.toNat → s.Handles → Traps s (exec (.cstat a x) s) .range)
         ∧ (v.toNat < 0xFFF → s.Prompt →
             let peer := s.myContext.peers.find? fun q => q.peer == v.toNat
             let fails := (peer.map (·.fails)).getD 0
             let retries := (peer.map (·.retries)).getD 0
             ∃ (reach degraded : Bool) (path : Nat), path < 256 ∧ (degraded = true → reach = true ∧ s.fabric.failedPorts ≠ [])
               ∧ ScalarDid { s with free := s.free + 1 } (exec (.cstat a x) s) x
                 (BitVec.ofNat 64 (2 ^ 32 * min fails 65535 + 2 ^ 16 * (retries % 2 ^ 16) + 2 ^ 8 * path
                   + 2 * degraded.toNat + reach.toNat))))

/-! ## Control registers and trap handling (R64–R66, R327, R333, R334, R340, R344) -/

/-- The writable bits of a CSR (R65, R66). -/
def writableBits : List (Nat × Nat) :=
  [(0x0B, 0x1F), (0x14, 0x1FFFFFFFFFFFFFC), (0x40, 7), (0x48, 15), (0x49, 0xFFFFFFFF), (0x4A, 0xFFFFFFFF),
   (0x4B, 0xFFFFFFFF), (0x50, 0xFFFF), (0x51, 0xFFFFFFFFFFFFFFFF), (0x52, 0x1FFFFFFFFFFFFFF)]

/-- CSRR, CSRW, CSRSET and CSRCLR deliver the old value and write the writable bits alone; DSRCMASK loses the bits of the
source, a token CSR takes RATE and DEPTH and sets FILL where DEPTH changes, and every other register reads as before. With
FPFLAGS they wait while an issued instruction may accumulate conditions; a barrier counts, of whose generation a participant
that adds may come to be the first. A poisoned register raises POISON. PTBASE keeps all its bits (the model's choice: log
89). A number that the map does not assign is illegal. -/
def Obligations.ControlRegisters : Prop :=
  ∀ (s : State) (d a : Fin 64) (c : Fin 256), (s.context? s.warp.ctx).isSome = true → (0x40 ≤ c.val → s.warp.ctx = 0) →
    let old := s.csrVal c.val
    let src := s.warp.readS a
    let w := s.warp
    let held := c.val = 0x0B ∧ w.pend.any s.accumulates = true
    let did := fun (out : Host.Outcome State Fault Refusal) (new : Option Word64) =>
      (held → Waits s out)
      ∧ (¬ held → w.csrPoison.getLsbD c.val = true → s.Handles → Traps s out .poison)
      ∧ (¬ held → w.csrPoison.getLsbD c.val = false → ∃ t, out = .next t ∧ t = { s with warp := t.warp, contexts := t.contexts }
        ∧ t.warp = { w with
            s := t.warp.s, sFull := t.warp.sFull, sPoison := t.warp.sPoison, fpflags := t.warp.fpflags
            dsrc := t.warp.dsrc, trapvec := t.warp.trapvec, frag := t.warp.frag }
        ∧ w.Keeps t.warp [.s d] ∧ t.warp.HoldsS d old ∧ w.frag.MovedTo t.warp.frag s.next
        ∧ (∀ n, n ≠ w.ctx → t.context? n = s.context? n)
        ∧ (∀ r < 256, r ≠ c.val ∨ new = none → t.csrVal r = s.csrVal r)
        ∧ ∀ v, new = some v →
            let k := c.val - 0x41
            let bucket := 0x41 ≤ c.val ∧ c.val ≤ 0x44
            (∀ m ∈ writableBits, m.1 = c.val → t.csrVal c.val = v &&& BitVec.ofNat 64 m.2)
            ∧ (c.val = 0x0A → t.csrVal c.val = old &&& ~~~src)
            ∧ (bucket →
                let depth := v.toNat / 2 ^ 16 % 2 ^ 16
                t.bucket k = { rate := v.toNat % 2 ^ 16, depth := depth
                               fill := if depth = (s.bucket k).depth then (s.bucket k).fill else depth
                               frac := if depth = (s.bucket k).depth then (s.bucket k).frac else 0
                               since := s.clock.toNat })
            ∧ (c.val ∉ writableBits.map (·.1) → c.val ≠ 0x0A → ¬ bucket → t.csrVal c.val = old))
    (csrAssigned c = true →
      (s.Ready { dests := [.s d] } → did (exec (.csrr d c) s) none)
      ∧ (s.Ready { dests := [.s d], srcs := [(.s a, false)] } →
          did (exec (.csrw d a c) s) (some src)
          ∧ did (exec (.csrset d a c) s) (some (old ||| src))
          ∧ did (exec (.csrclr d a c) s) (some (old &&& ~~~src))))
    ∧ (csrAssigned c = false → s.Handles →
        ∀ i ∈ [Instr.csrr d c, .csrw d a c, .csrset d a c, .csrclr d a c], Traps s (exec i s) .illenc)

/-- FREC reads a doubleword of the record; REPLAY with nothing to perform gives 0; outside trap mode both raise RANGE. LKILL
kills the lanes named, without an event. CTXKILL ends a context, refused by its number or its privilege, and a number that
no context holds has no effect. -/
def Obligations.TrapModeInstructions : Prop :=
  ∀ (s : State) (d a k : Fin 64),
    let v := s.warp.readS a
    let low : Word32 := v.setWidth 32
    (s.Ready { dests := [.s d], srcs := [(.s a, false)] } →
      (s.warp.trap = none → s.Handles → ∀ i ∈ [Instr.frec d a, .replay d a], Traps s (exec i s) .range)
      ∧ ∀ m, s.warp.trap = some m → s.Prompt →
          let r := m.record
          let reads := fun x : Word64 => ScalarDid s (exec (.frec d a) s) d x
          (128 ≤ v.toNat → reads 0)
          ∧ (v.toNat = 1 → reads (r.pc.setWidth 64))
          ∧ (v.toNat = 3 → reads (r.dead ++ r.lanes : BitVec 64))
          ∧ (v.toNat = 4 → reads r.addr) ∧ (v.toNat = 5 → reads (r.cmdpc.setWidth 64))
          ∧ (v.toNat = 6 → reads (r.rpc.setWidth 64))
          ∧ (∀ l < 32, r.cycle = [] → v.toNat = 72 + l → reads (((r.ea.find? (·.1 == l)).map (·.2)).getD 0))
          ∧ (∀ f e, e < 16 → r.frags.find? (·.entry == e) = some f → v.toNat = 8 + 2 * e → reads (f.pc.setWidth 64))
          ∧ (v.toNat < 128 → reads (r.dword v.toNat))
          ∧ (m.unit = none ∨ (low &&& m.lanes = 0 ∧ m.lanes ≠ 0) → ScalarDid s (exec (.replay d a) s) d 0))
    ∧ (s.Ready { srcs := [(.s a, false)] } →
      (∃ t, exec (.lkill a) s = .next t ∧ t = { s with warp := t.warp } ∧ t.warp.dead = s.warp.dead ||| low
        ∧ t.warp = { s.warp with
            dead := t.warp.dead, log := t.warp.log, trap := t.warp.trap, frag := t.warp.frag, frags := t.warp.frags
            park := t.warp.park }
        ∧ (s.warp.frag.state = .ready → s.warp.frag.mask &&& s.warp.live32 &&& ~~~low ≠ 0 →
            s.warp.frag.MovedTo t.warp.frag s.next))
      ∧ (let out := exec (.ctxkill a k) s
         let c := v.toNat
         (64 ≤ c → s.Handles → Traps s out .range)
         ∧ (c < 64 → s.warp.ctx ≠ 0 → c ≠ s.warp.ctx → s.Handles → Traps s out .priv)
         ∧ (c < 64 → s.warp.ctx = 0 ∨ c = s.warp.ctx → s.context? c = none → Goes s out s.next)
         ∧ (c < 64 → s.warp.ctx = 0 ∨ c = s.warp.ctx → s.context? c ≠ none →
             ∃ t, out = .next t ∧ (∀ x ∈ t.contexts, x.num ≠ c) ∧ (∀ w ∈ t.warps, w.ctx = c → w.live = false)
               ∧ (∀ n, n ≠ c → t.context? n = s.context? n) ∧ (∀ q ∈ t.cmds, q.ctx ≠ c)
               ∧ (c ≠ s.warp.ctx → t.warp.frag.pc = s.next ∧ t.warp.live = s.warp.live))))

/-! ## Pages and debugging (R156, R164–R166, R348, R353–R355) -/

/-- TLBINV starts a shoot-down of the entries that it names: answered at once where no unit holds one or has accesses
under way, else once each such unit has acknowledged. HOMEMV starts the move of a page's home and waits for its end; while the home moves already it waits
to issue. A place that is no page, or a site out of service, raises RANGE.
What HOMEMV does with a page without a home, and the size it takes such a page to have, are the model's readings (logs 63,
96). -/
def Obligations.TranslationInstructions : Prop :=
  ∀ (s : State) (a b : Fin 64) (m : Fin 4), s.warp.ctx = 0 → s.warp.Fresh →
    s.Ready { srcs := [(.s a, false), (.s b, false)] } →
    let w := s.warp
    let va := (w.readS a).toNat
    let v := (w.readS b).toNat
    let site := v % 8
    let named := fun e : TlbEntry =>
      (m.val = 2 ∨ e.asid = (w.readS b).setWidth 16) ∧ (m.val ≠ 0 ∨ va / 2 ^ e.map.size = e.map.vpage)
    let busy := fun u : TlbUnit => s.unitBusy u = true ∧ ∃ i < 648, u = tlbUnitAt i
    (m.val ≤ 2 → (∀ k ∈ s.shootdowns, k.units ≠ [] ∧ k.id ≠ s.nextUid) →
      ((∀ e ∈ s.tlb, ¬ named e) → (∀ u, ¬ busy u) → ∃ t, exec (.tlbinv b a m) s = .next t ∧ Leaves s t .page none true (some 0)
        ∧ t = { s with warp := t.warp, nextUid := s.nextUid + 1 })
      ∧ ((∃ e ∈ s.tlb, named e) ∨ (∃ u, busy u) → ∃ t k, exec (.tlbinv b a m) s = .next t ∧ Leaves s t .page none true none
        ∧ t = { s with warp := t.warp, nextUid := s.nextUid + 1, shootdowns := s.shootdowns ++ [k] }
        ∧ k.id = s.nextUid ∧ k.warp = w.uid ∧ k.pend = w.nextPend ∧ k.tag = none
        ∧ (∀ e, k.names e = true ↔ named e)
        ∧ ∀ u, u ∈ k.units ↔ (∃ e ∈ s.tlb, named e ∧ e.unit = u) ∨ busy u))
    ∧ (let out := exec (.homemv b a) s
       let at_ := s.homes.find? (·.holds va)
       let size := (at_.map (·.size)).getD (((s.owners.find? fun o => va / 2 ^ o.size == o.page / 2 ^ o.size).map (·.size)).getD 12)
       let legal := va < 2 ^ 52 ∧ va % 2 ^ size = 0 ∧ (s.site site).inService = true
       let kept := s.housed va = true ∨ 2 ^ 51 ≤ va
       (¬ legal → s.Handles → Traps s out .range)
       ∧ (∀ h, legal → at_ = some h → kept →
           (h.moving.isSome = true → Waits s out)
           ∧ (h.moving = none → ∃ t, out = .next t ∧ Leaves s t .page none true none
               ∧ t = { s with
                   warp := t.warp
                   homes := s.homes.map fun g => if g.page = h.page then
                     { g with moving := some site, asker := some (w.uid, w.nextPend) } else g }))
       ∧ (legal → va < 2 ^ 51 → at_ = none → (∀ h ∈ s.homes, ¬ (h.page < va + 2 ^ size ∧ va < h.page + 2 ^ h.size)) →
           ∃ t, out = .next t ∧ Leaves s t .page none true none
             ∧ t = { s with
                 warp := t.warp
                 homes := s.homes ++ [
                   { page := va, size := size, site := site, moving := some site, asker := some (w.uid, w.nextPend), writes := []
                     since := s.clock.toNat }] })
       ∧ (legal → 2 ^ 51 ≤ va → at_ = none → Goes s out s.next))

/-- PGLOCK locks a page once no line lock of it is held or queued, with every registered word and partial value of the page
recalled; its abort unlocks the page. PGSWAP writes the new entry, drops every buffered translation of the old frame,
unlocks the page, and lets what waits on it wait at the new frame. A number that is no page, or an entry whose page is not locked, raises RANGE.
What PGLOCK and PGSWAP do in the corners R348 leaves open is the model's reading (log 68). -/
def Obligations.PageMigration : Prop :=
  ∀ (s : State) (a b : Fin 64) (z : Fin 4), s.warp.ctx = 0 → s.warp.Fresh →
    let w := s.warp
    let page := (w.readS a).toNat
    let size := [12, 16, 21, 30].getD z.val 12
    let inside := fun loc => page ≤ loc ∧ loc < page + 2 ^ size
    let busy := ∃ l ∈ s.locks, inside l.line ∧ (l.holder.isSome = true ∨ l.queue ≠ [])
    let overlaps := fun p : PageLock => p.page < page + 2 ^ size ∧ page < p.page + 2 ^ p.size
    let legal := page < 2 ^ 52 ∧ page % 2 ^ size = 0
    (s.Ready { srcs := [(.s a, false)] } →
      (¬ legal → s.Handles → ∀ l, Traps s (exec (.pglock a z l) s) .range)
      ∧ (legal →
        let out := exec (.pglock a z true) s
        let asks := fun (started : Bool) (t : State) =>
          Leaves s t .page none true (if started then some 0 else none)
          ∧ t.pageLocks = s.pageLocks ++ [{ page := page, size := size, started := started, warp := w.uid
                                            pend := w.nextPend, copied := none, held := [] }]
        ((∀ p ∈ s.pageLocks, ¬ overlaps p) → (∀ p ∈ s.partials, ¬ inside p.loc) →
          (¬ busy → ∃ t, out = .next t ∧ asks true t ∧ t.regs = s.regs.filter (fun r => !decide (inside r.line))
            ∧ t = { s with warp := t.warp, pageLocks := t.pageLocks, regs := t.regs })
          ∧ (busy → ∃ t, out = .next t ∧ asks false t ∧ t = { s with warp := t.warp, pageLocks := t.pageLocks }))
        ∧ (∀ p ∈ s.pageLocks, p.page = page → p.size = size → p.started = true → Goes s out s.next)
        ∧ ((∃ p ∈ s.pageLocks, overlaps p) →
            (∀ p ∈ s.pageLocks, p.page = page → p.size = size → p.started = false) → Waits s out))
      ∧ (legal →
        let out := exec (.pglock a z false) s
        let mine := fun p : PageLock => p.page = page ∧ p.size = size
        ((∀ p ∈ s.pageLocks, ¬ mine p) → Goes s out s.next)
        ∧ ∀ p, s.pageLocks.find? (fun p => p.page == page && p.size == size) = some p → p.held = [] → s.lockWaits = [] → s.Unheld →
            ∃ t, out = .next t ∧ t = { s with warp := t.warp, others := t.others, pageLocks := t.pageLocks }
              ∧ t.pageLocks = s.pageLocks.filter (fun q => !(q.page == page && q.size == size))
              ∧ w.frag.MovedTo t.warp.frag s.next ∧ w.Keeps t.warp []))
    ∧ (s.Ready { srcs := [(.s a, false), (.s b, false)] } →
      let out := exec (.pgswap b a) s
      let new := w.readS b
      let frame := fun e : Nat => e / 2 ^ 12 % 2 ^ 40 * 4096
      let old := frame (s.mem.nat page 8)
      let s' := (s.readAt w.agent 0 page 8).1
      (2 ^ 52 ≤ page ∨ page % 8 ≠ 0 → s.Handles → Traps s out .range)
      ∧ (page < 2 ^ 52 → page % 8 = 0 → (∀ p ∈ s.partials, lineOf p.loc ≠ lineOf page) → s.mem.wf →
          ((∀ p ∈ s.pageLocks, p.started = true → p.page ≠ old) → s.Handles → Traps s' out .range)
          ∧ ∀ p, s.pageLocks.filter (fun p => p.started && p.page == old) = [p] → s.pageLockOf page = none →
              (∀ q ∈ s.pageLocks, q.page = p.page → q.size = p.size → q = p) → p.held = [] → s.lockWaits = [] → s.Unheld →
              let moved := fun loc : Nat =>
                if loc / 2 ^ p.size = p.page / 2 ^ p.size then frame new.toNat + loc % 2 ^ p.size else loc
              ∃ t, out = .next t ∧ w.frag.MovedTo t.warp.frag s.next ∧ w.Keeps t.warp []
                ∧ (∀ x, t.mem.read x = laid page (natToBytes 8 new.toNat) x (s.mem.read x))
                ∧ t.pageLocks = s.pageLocks.filter (· ≠ p)
                ∧ t.monitors.map (fun m => (m.id, m.loc)) = s.monitors.map (fun m => (m.id, moved m.loc))
                ∧ t.locks = s.locks.map (fun l => { l with line := moved l.line })
                ∧ t.warp.locks = w.locks.map (fun l => { l with line := moved l.line })
                ∧ (∀ n, (t.context? n).map Context.unmetered = (s.context? n).map Context.unmetered)
                ∧ t.tlb = s.tlb.filter fun e => !(e.map.kind == 0 && decide (p.page < e.map.frame + 2 ^ e.map.size)
                    && decide (e.map.frame < p.page + 2 ^ p.size))))

/-- HALT sets or clears the halt of the sites named and reads which were halted and drained. STEP lets a warp in debug stop
issue one unit, or resumes it (how a step ends is the model's reading: log 69). WATCH sets a watchpoint of its context. -/
def Obligations.DebugInstructions : Prop :=
  ∀ (s : State) (d a : Fin 64) (g : Bool) (k w : Fin 4) (l : Fin 8),
    let v := s.warp.readS a
    (s.warp.ctx = 0 → s.Prompt → s.Ready { dests := [.s d], srcs := [(.s a, false)] } →
      ∃ t, exec (.halt d a g) s = .next t ∧ t.warp.HoldsS d s.haltstat ∧ s.warp.Keeps t.warp [.s d]
        ∧ s.warp.frag.MovedTo t.warp.frag s.next
        ∧ (∀ i : Fin 8, s.haltstat.toNat.testBit i.val = s.sites[i].halted)
        ∧ (∀ i : Fin 8, t.sites[i] = { s.sites[i] with halted := if v.toNat.testBit i.val then !g else s.sites[i].halted })
        ∧ t = { s with warp := t.warp, sites := t.sites, delays := s.delays.tail })
    ∧ (s.warp.ctx = 0 ∨ s.myContext.debug = true →
      (s.Ready { srcs := [(.s a, false)] } → (s.context? s.warp.ctx).isSome = true →
        ∃ t, exec (.watch a k l w) s = .next t ∧ s.warp.frag.MovedTo t.warp.frag s.next
          ∧ (∀ n, t.context? n =
              if n = s.warp.ctx then
                (s.context? n).map fun c => { c with watch := c.watch.set k { kind := w.val, addr := v, len := l.val } }
              else s.context? n)
          ∧ t = { s with warp := { s.warp with frag := t.warp.frag }, contexts := t.contexts })
      ∧ (s.Ready { dests := [.s d], srcs := [(.s a, false)] } →
        let stopped := fun x : Warp => x.debugStop = true ∨ (s.site x.site).halted = true
        let named := fun x : Warp => x.live = true ∧ x.resident = true ∧ x.warpid = v.toNat % 2 ^ 15
          ∧ x.ctx = v.toNat / 2 ^ 16 % 2 ^ 6 ∧ stopped x ∧ (s.warp.ctx = 0 ∨ x.ctx = s.warp.ctx)
        ((∀ x ∈ s.warps, ¬ named x) → s.Handles →
          Traps s (exec (.stepW d a false) s) .range ∧ (d = 0 → Traps s (exec (.stepW d a true) s) .range))
        ∧ (d ≠ 0 → s.Handles → Traps s (exec (.stepW d a true) s) .illenc)
        ∧ ∀ x ∈ s.others, named x → (∀ y ∈ s.warps, named y → y = x) → x.uid ≠ s.warp.uid →
            let change := fun f : Warp → Warp => s.others.map fun y => if y.uid = x.uid then f y else y
            ((s.site x.site).halted = true → Goes s (exec (.stepW 0 a true) s) s.next)
            ∧ ((s.site x.site).halted = false → ∃ t, exec (.stepW 0 a true) s = .next t
                ∧ s.warp.frag.MovedTo t.warp.frag s.next
                ∧ t = { s with
                    warp := { s.warp with frag := t.warp.frag }
                    others := change fun y => { y with debugStop := false } })
            ∧ (x.allFrags.any x.eligible = false → s.Prompt → ScalarDid s (exec (.stepW d a false) s) d 0)
            ∧ (x.allFrags.any x.eligible = true → ∃ t, exec (.stepW d a false) s = .next t ∧ Leaves s t (.step x.uid) (some d) true none
                ∧ t = { s with warp := t.warp, others := change fun y => { y with stepping := true } })))

/-! ## Events of the cores, the directory and the slices (R37, R155, R156, R161–R166, R185, R244–R253) -/

/-- An instruction completes once what it waits for has come, and its warp is on a core that runs where that came from
elsewhere: its results are written and its fragment goes on. A monitor's instruction gets MATCHED, a poisoned barrier raises
POISON, a WAITC delivers the oldest engine fault that it covers and no earlier one does. (No fault of the warp waits here,
and no lane was killed in flight.) A late result reaches its destination (the order of
completions is the model's: log 2).
That the warp goes on at the next unit after a poisoned barrier, and which fault is the oldest, are its readings (logs 67, 41). -/
def Obligations.Completions : Prop :=
  (∀ e ∈ scalarTable, ∀ (s : State) (d a b : Fin 64) (x y : Bool), d ≠ 0 →
    s.Ready { dests := [.s d], srcs := [(.s a, x), (.s b, y)] } → s.delays.head? = some true → s.warp.live = true →
    s.warp.Fresh → s.warp.raising = none →
    (∀ q ∈ (s.gang s.warp.gang).barriers, s.barrierFull s.warp.gang q = false) →
    (∀ p ∈ s.pageLocks, ¬ (p.warp = s.warp.uid ∧ p.pend = s.warp.nextPend)) →
    ∃ t u, exec (e.1 d a b x y) s = .next t ∧ t.warp.full (.s d) = false ∧ t.warp.frag.pc = s.next
      ∧ exec (.instructionCompletion s.warp.uid s.warp.nextPend) t = .next u
      ∧ u.warp.HoldsS d (e.2 (s.warp.readS a) (s.warp.readS b)) ∧ u.warp.pend = s.warp.pend
      ∧ s.warp.Keeps u.warp [.s d] ∧ u.mem = s.mem)
  ∧ ∀ (s f : State) (w p : Nat) (q : Pending), s.Focused f w → f.warp.pend.find? (·.id == p) = some q →
    f.warp.raising = none → q.killed = 0 →
    let runs := f.warp.resident = true ∧ (f.site f.warp.site).halted = false
      ∧ ((f.site f.warp.site).cluster f.warp.cluster).gate = .awake
    let g := (f.warp.blocked p).getD f.warp.frag
    ((∀ b ∈ (s.gang f.warp.gang).barriers, s.barrierFull f.warp.gang b = false) →
      (∀ k ∈ s.pageLocks, k.warp = w → k.pend = p → k.started = true) →
      let out := exec (.instructionCompletion w p) s
      (Come s f q → (q.kind = .result ∨ runs) → ∃ t, out = .next t ∧ Completed f t q)
      ∧ (∀ k m d, q.kind = .monitor k → s.monitors.find? (fun m => m.id == k && m.fired) = some m → m.warp = w →
          m.pend = p → q.dests = [.s d] → q.ready = false → runs →
          (∀ n ∈ s.monitors, ∀ r ∈ s.partials, lineOf r.loc ≠ lineOf n.loc) →
          ∃ t, out = .next t ∧ t.warp.HoldsS d 0 ∧ t.warp.pend = f.warp.pend.filter (·.id != p)
            ∧ (∀ n ∈ t.monitors, n.id ≠ k) ∧ f.warp.Keeps t.warp [.s d] ∧ t.mem = f.mem)
      ∧ (∀ c, q.kind = .barrier → q.fault = some c → runs → f.Handles →
          ∃ t, out = .next t ∧ t.warp.InTrap c 0 q.pc (g.mask &&& ~~~f.warp.dead) g.pc 0))
    ∧ ∀ cls limit upto, q.kind = .waitc cls limit upto → runs → f.warp.cnt cls ≤ limit →
        let out := exec (.waitcSatisfied w p) s
        let covered := f.warp.heldFaults.filter fun h => h.cls == cls && decide (h.seq < upto) && f.warp.pend.all fun r =>
          decide (p ≤ r.id) || match r.kind with
            | .waitc c _ n => c != cls || decide (n ≤ h.seq)
            | _ => true
        (covered = [] → ∃ t, out = .next t ∧ Completed f t q)
        ∧ ∀ h more, covered = h :: more → f.Handles →
            ∃ t, out = .next t ∧ t.warp.InTrap h.cause 0 q.pc (g.mask &&& ~~~f.warp.dead) g.pc h.addr
              ∧ t.warp.heldFaults = f.warp.heldFaults.filter fun h => !covered.contains h

/-- REPLAY performs the lanes named of P again with the sources as they now stand: lanes that pass are done and leave P,
lanes that fail stay in it with their cause and address, and the destination receives those. Loaded elements reach the
group at once; it goes full when P is empty. Where a lane's page is not mapped the warp stalls, with the lanes that are
done out of P and the record as it was (R359; its corners are the model's reading: log 66). (No lane here travels to a
fabric peer.)
A logged unit whose pages are mapped is performed with its captured sources, once no lane of it is away or, of a reduction,
held at a page, and leaves the log; lanes that meet another
missing page stay in their entry under another record. An entry whose page has no mapping leaves the log and traps. -/
def Obligations.LanesReplayed : Prop :=
 (∀ (s s' : State) (m : TrapMode) (u : MemUnit) (d a : Fin 64) (cs : List (Fin 32 × LaneCheck)),
    s.warp.trap = some m → m.unit = some u → s.Prompt → s.Ready { dests := [.s d], srcs := [(.s a, false)] } →
    let w := s.warp
    let sel := (w.readS a).setWidth 32 &&& m.lanes
    let j := u.job w
    let bad := failures cs
    let failed := lanesMask (bad.map (·.1))
    let left := (m.lanes &&& ~~~sel) ||| failed
    let k := m.pend.getD 0
    let ps := w.pend.filter fun p => m.pend == some p.id
    let out := exec (.replay d a) s
    sel ≠ 0 → u.stackFails w = none → (j.kind.lineEffect 0).isNone = true →
    (∀ r ∈ u.sources, w.full r = true ∧ w.scalarPoison r = false) → w.poisonIn u.sources &&& sel = 0 →
    s.checkLanes (w.agent.pend w.uid k) j false (lanesOf sel) = (s', cs) → s'.mem = s.mem → s'.poison = s.poison →
    s.Free cs → (∀ g ∈ passed cs, g.kind ≠ 3) → s.laneAway w.uid k = false →
    (j.kind.metered = true → s'.heldByTokens w.site ((passed cs).map Target.triple) = []) →
    (∀ p ∈ ps, p.writes = [] ∧ p.killed = 0) → (∀ p ∈ w.pend, p.id = k → p.faults = []) → s.mem.wf →
    ((∀ b ∈ bad, b.2.1 ≠ .pagefault) →
      ∃ t, out = .next t ∧ t.warp.HoldsS d (failed.setWidth 64) ∧ t.warp.frag.pc = s.next ∧ t.warp.frag.mask = w.frag.mask
        ∧ w.Keeps t.warp (.s d :: (ps.flatMap (·.dests) ++ group (Fin.ofNat 64 j.base) j.width))
        ∧ (∃ m', t.warp.trap = some m' ∧ m'.lanes = left
            ∧ m'.record = { m.record with
                ea := m'.record.ea, causes := m'.record.causes, frags := m'.record.frags }
            ∧ (∀ b ∈ bad, (b.1, b.2.2) ∈ m'.record.ea ∧ (b.1, b.2.1) ∈ m'.record.causes)
            ∧ (∀ x ∈ m.record.ea, x.1 ∉ bad.map (·.1) → x ∈ m'.record.ea)
            ∧ ∀ x ∈ m.record.causes, x.1 ∉ bad.map (·.1) → x ∈ m'.record.causes)
        ∧ (left = 0 → ∀ p ∈ ps, p.kind = .lanes → ∀ r ∈ p.dests, t.warp.full r = true)
        ∧ Performed s t j sel cs)
    ∧ ((∃ b ∈ bad, b.2.1 = .pagefault) → w.unmapped = false →
        ∃ t m', out = .next t ∧ t.warp.stall = some s.nextTag ∧ t.warp.frag = w.frag ∧ t.warp.trap = some m'
          ∧ m'.lanes = left ∧ m'.record = m.record))
  ∧ (∀ (s f s' : State) (w k : Nat) (e : LogEntry) (cs : List (Fin 32 × LaneCheck)), s.Focused f w →
       f.warp.log.find? (·.tag == k) = some e → f.warp.resident = true → f.warp.raising = none →
       let gone := f.warp.log.filter (·.tag != k)
       (e.answer = some true → f.warp.firstOfPages e = true → (e.job.kind.lineEffect 0).isNone = true →
         s.laneBefore w e = false →
         ({ f with warp := { f.warp with log := gone } }).checkLanes (f.warp.agent.pend w e.pend) e.job true (lanesOf e.lanes)
           = (s', cs) → s'.mem = s.mem → s'.poison = s.poison →
         f.Free cs → (∀ g ∈ passed cs, g.kind ≠ 3) →
         (e.job.kind.metered = true → s'.heldByTokens f.warp.site ((passed cs).map Target.triple) = []) → f.mem.wf →
         let out := exec (.operandLogReplay w k) s
         (failures cs = [] → ∃ t, out = .next t ∧ Performed f t e.job e.lanes cs ∧ t.warp.log = gone
           ∧ f.warp.Keeps t.warp (group (Fin.ofNat 64 e.job.base) e.job.width) ∧ t.warp.pend = f.warp.pend
           ∧ t.warp.frag = f.warp.frag)
         ∧ (failures cs ≠ [] → (∀ b ∈ failures cs, b.2.1 = .pagefault) →
             ∃ t, out = .next t ∧ t.nextTag = s.nextTag + 1 ∧ t.warp.frag = f.warp.frag
               ∧ Performed f t e.job e.lanes cs f.nextRecord
               ∧ ∃ e' ∈ t.warp.log, e' = { e with
                   tag := s.nextTag, lanes := lanesMask ((failures cs).map (·.1)), answer := none
                   eas := (failures cs).map fun b => (b.1, b.2.2) }))
       ∧ (e.answer = some false → f.Handles →
         ∃ t m, exec (.logEntryConversion w k) s = .next t ∧ t.warp.log = gone ∧ t.warp.trap = some m
           ∧ m.record.cause = some .pagefault ∧ m.record.logged = true ∧ m.record.pc = e.pc ∧ m.record.rpc = 0
           ∧ m.lanes = e.lanes &&& ~~~f.warp.dead ∧ m.pend = some e.pend ∧ m.unit = some e.unit ∧ t.warp.frag.pc.toNat = f.warp.trapvec.toNat / 4 * 4 % 2 ^ 57))

/-- A translation unit drops the entries that a shoot-down names and acknowledges it; the last one answers its instruction.
A line evicted from L1 or the stack cache leaves no registered word of its core behind. A page's home moves once no line lock
of it is held or queued, and a die that wrote it most asks for it. Two idle sibling regions of equal lists merge. A locked page
is copied, byte by byte, poison marks among it, and what cores held of the new frame's former contents is gone.
A waiter whose timer has run out leaves its queue with TIMEOUT, and a monitor disarms with it: what comes in the timer's
last cycle comes before it. An overflow monitor is looked at every 4,096 cycles and fires where its condition holds. Every
DLKPERIOD cycles, where that is not 0, a scan looks for cycles; one of two warps is reported with one DEADLOCK record for each
context in it, and only once while it stands. -/
def Obligations.MemoryEvents : Prop :=
 ((∀ (s : State) (k n : Nat) (d : Shootdown), s.shootdowns.find? (·.id == k) = some d → tlbUnitAt n ∈ d.units →
    s.unitBusy (tlbUnitAt n) = false → (∀ x ∈ s.shootdowns, x.units ≠ [] ∧ (x.id = k → x = d)) →
    ∃ t, exec (.shootdownAcknowledgement k n) s = .next t
      ∧ t.tlb = s.tlb.filter (fun e => !(e.unit == tlbUnitAt n && d.names e))
      ∧ (d.units.erase (tlbUnitAt n) ≠ [] →
          t.shootdowns = s.shootdowns.map (fun x => if x.id = k then { x with units := x.units.erase (tlbUnitAt n) } else x))
      ∧ (d.units.erase (tlbUnitAt n) = [] → t.shootdowns = s.shootdowns.filter (·.id != k)
          ∧ (d.tag = none → Answered s t d.warp d.pend 0)))
  ∧ (∀ (s : State) (core line w : Nat) (x : Warp), s.findWarp w = some x → x.resident = true → x.coreNo = core →
    (∀ p ∈ s.partials, ¬ (p.core = core ∧ lineOf p.loc = lineOf line)) →
    ∃ t, exec (.l1Eviction core line w) s = .next t
      ∧ t.regs = s.regs.filter (fun r => !(r.line == lineOf line && r.core == core))
      ∧ { core := core, line := lineOf line, warp := w } ∈ t.victims
      ∧ t = { s with regs := t.regs, victims := t.victims })
  ∧ (∀ (s : State) (w line : Nat) (x : Warp), s.findWarp w = some x →
    (∀ p ∈ s.partials, ¬ (p.core = x.coreNo ∧ lineOf p.loc = lineOf line)) →
    ∃ t, exec (.stackCacheSpill w line) s = .next t
      ∧ t = { s with regs := s.regs.filter (fun r => !(r.line == lineOf line && r.core == x.coreNo)) })
  ∧ (∀ (s : State) (page : Nat) (h : PageHome), s.homes.find? (·.page == page) = some h →
    let at_ := fun d => ((h.writes.find? (·.1 == d)).map (·.2)).getD 0
    let strong := fun x : Nat × Nat => x.1 ≠ h.site ∧ 1024 ≤ x.2 ∧ 2 * at_ h.site < x.2
    h.since + 2 ^ 20 ≤ s.clock.toNat →
    ∃ t h', exec (.homeWriteWindowEnd page) s = .next t ∧ t = { s with homes := t.homes }
      ∧ t.homes.find? (·.page == page) = some h' ∧ h' = { h with writes := [], since := s.clock.toNat, moving := h'.moving }
      ∧ (h.moving.isSome = true ∨ (∀ x ∈ h.writes, ¬ strong x) → h'.moving = h.moving)
      ∧ ∀ d n, h.moving = none → (d, n) ∈ h.writes → strong (d, n) → (∀ x ∈ h.writes, strong x → x = (d, n)) →
          (s.site d).inService = true → h'.moving = some d)
  ∧ (∀ (s : State) (page site : Nat) (h : PageHome), s.homes.find? (·.page == page) = some h → h.moving = some site →
    s.locksIn page h.size = false → (∀ p ∈ s.partials, p.loc / 2 ^ h.size ≠ page / 2 ^ h.size) → s.lockWaits = [] →
    ∃ t, exec (.pageHomeMoveEnd page) s = .next t
      ∧ t.homes = s.homes.map (fun g => if g.page = page then { g with site := site, moving := none, asker := none } else g)
      ∧ t.regs = s.regs.filter (fun r => r.line / 2 ^ h.size != page / 2 ^ h.size) ∧ t.mem = s.mem
      ∧ ∀ w k, h.asker = some (w, k) → Answered s t w k 0)
  ∧ (∀ (s : State) (r q : Region), r ∈ s.regions → q ∈ s.regions → r.size < 16 → q.size = r.size → q.dies = r.dies →
    s.regions.find? (·.base == r.base) = some r → q.base = r.base + 2 ^ r.size → r.base / 2 ^ r.size % 2 = 0 →
    s.regions.find? (fun x => x.base == q.base && x.size == r.size) = some q →
    65536 ≤ s.clock.toNat - r.written → 65536 ≤ s.clock.toNat - q.written →
    ∃ t, exec (.regionMerge r.base) s = .next t ∧ t = { s with regions := t.regions }
      ∧ { base := r.base, size := r.size + 1, dies := r.dies, written := max r.written q.written } ∈ t.regions
      ∧ r ∉ t.regions ∧ q ∉ t.regions)
  ∧ ∀ (s : State) (page frame : Nat) (p : PageLock),
    s.pageLocks.find? (fun p => p.page == page && p.started) = some p → frame < 2 ^ 52 → frame % 2 ^ p.size = 0 →
    page % 2 ^ p.size = 0 → 12 ≤ p.size → frame ≠ page → s.mem.wf →
    ∃ t, exec (.pageCopy page frame) s = .next t
      ∧ (∀ o < 2 ^ p.size, t.mem.read (frame + o) = s.mem.read (page + o)
          ∧ (((frame + o) / 8 ∈ t.poison) ↔ ((page + o) / 8 ∈ s.poison)))
      ∧ (∀ x, x < frame ∨ frame + 2 ^ p.size ≤ x → t.mem.read x = s.mem.read x)
      ∧ (∀ x ∈ t.partials, x ∈ s.partials ∧ ¬ (frame ≤ x.loc ∧ x.loc < frame + 2 ^ p.size))
      ∧ (∀ r ∈ t.regs, r ∈ s.regs ∧ ¬ (frame ≤ r.line ∧ r.line < frame + 2 ^ p.size))
      ∧ (∀ n, (t.context? n).map Context.unmetered = (s.context? n).map Context.unmetered)
      ∧ t = { s with
          mem := t.mem, poison := t.poison, partials := t.partials, regs := t.regs, contexts := t.contexts, llc := t.llc
          pageLocks := s.pageLocks.map fun q => if q.page = page ∧ q.size = p.size then { q with copied := some frame } else q })
  ∧ (∀ (s : State),
       (∀ (line w : Nat) (l : Lock) (q : Waiter), s.lockOf line = some l → l.queue.find? (·.warp == w) = some q →
         (∃ d, q.deadline = some d ∧ d < s.clock.toNat) → s.Single w →
         ∃ t, exec (.lockTimerExpiry line w) s = .next t ∧ (∀ k ∈ t.locks, k.line = line → ∀ x ∈ k.queue, x.warp ≠ w)
           ∧ (∀ x, t.findWarp w = some x → ∀ k ∈ x.locks, k.line ≠ line) ∧ Answered s t w q.pend 2 ∧ t.mem = s.mem)
       ∧ (∀ m ∈ s.monitors, s.monitors.find? (·.id == m.id) = some m → m.fired = false →
         (∃ d, m.deadline = some d ∧ d < s.clock.toNat) →
         (∀ n ∈ s.monitors, ∀ r ∈ s.partials, lineOf r.loc ≠ lineOf n.loc) →
         ∃ t, exec (.monitorTimeout m.id) s = .next t ∧ (∀ k ∈ t.monitors, k.id ≠ m.id) ∧ Answered s t m.warp m.pend 1
           ∧ t.mem = s.mem)
       ∧ (∀ (m : Nat) (k : Monitor), s.monitors.find? (fun k => k.id == m && !k.table) = some k →
         (s.clock.toNat < k.checked + 4096 → exec (.overflowMonitorRecheck m) s = .next s)
         ∧ (k.checked + 4096 ≤ s.clock.toNat → (∀ n ∈ s.monitors, n.id = m → ∀ d, n.deadline = some d → s.clock.toNat ≤ d) → (∀ p ∈ s.partials, lineOf p.loc ≠ lineOf k.loc) →
             ∃ t, exec (.overflowMonitorRecheck m) s = .next t
               ∧ t = { s with monitors := s.monitors.map fun n => if n.id = m then
                   { n with
                     checked := s.clock.toNat
                     fired := n.fired || condition n.q (BitVec.ofNat 64 (s.mem.nat n.loc (condBytes n.q))) n.comparand }
                   else n }))
       ∧ ∀ (ctx : Nat) (x₁ x₂ : Warp) (k₁ k₂ : Lock) (q₁ q₂ : Waiter) (c : Context), s.context? ctx = some c → c.num = ctx →
         c.dlkperiod ≠ 0 → c.scanned + c.dlkperiod.toNat ≤ s.clock.toNat → k₁ ∈ s.locks → k₂ ∈ s.locks →
         k₁.queue = [q₁] → k₂.queue = [q₂] → (∀ k ∈ s.locks, k.queue ≠ [] → k = k₁ ∨ k = k₂) →
         s.findWarp q₁.warp = some x₁ → x₁.ctx = ctx → s.findWarp q₂.warp = some x₂ →
         k₁.holder = some q₂.warp → k₂.holder = some q₁.warp → q₁.warp < q₂.warp →
         s.frozen k₁.line k₁.parties = false → s.frozen k₂.line k₂.parties = false →
         let key := [(q₁.warp, q₁.pend), (q₂.warp, q₂.pend)]
         let member := fun (x : Warp) (k : Lock) =>
           (BitVec.ofNat 64 (((x.locks.find? (·.line == k.line)).map (·.va)).getD 0), x.warpid, x.ctx)
         ∃ t, exec (.deadlockScan ctx) s = .next t ∧ key ∈ t.cycles ∧ t.locks = s.locks ∧ t.warp = s.warp
           ∧ (key ∈ s.cycles → t.mem = s.mem ∧ t.mailbox = s.mailbox ∧ t.nextTag = s.nextTag)
           ∧ (key ∉ s.cycles → ∃ ms,
               (ms = [member x₁ k₁, member x₂ k₂] ∨ ms = [member x₂ k₂, member x₁ k₁])
               ∧ let posted := ((ms.map (·.2.2)).eraseDups).foldl (fun s n => s.postTagged
                   { FaultRecord.empty with cause := some .deadlock, kind := 1, ctx := n, cycle := ms }) s
                 t.mem = posted.mem ∧ t.mailbox = posted.mailbox ∧ t.nextTag = posted.nextTag))

/-! ## Events of the engines (R178–R189, R194–R220, R298, R316–R320) -/

/-- The bits of a slot's record from one on, and its fields that place an element (R168). -/
def slotField (t : Tsr) (lo n : Nat) : Nat := (t.extractLsb' lo n).toNat
def slotDim (t : Tsr) (i : Nat) : Nat := slotField t (128 + 32 * i) 32
def slotStride (t : Tsr) (i : Nat) : Int := (t.extractLsb' (384 + 64 * i) 64).toInt
def slotBox (t : Tsr) (i : Nat) : Nat := slotField t (832 + 16 * i) 16
def slotRank (t : Tsr) : Nat := slotField t 72 3

/-- The bits of a stored element: 32 for FP19, else the format's (R173). -/
def storedWidth (f : Nat) : Nat := if f = 1 then 32 else formatWidth f

/-- The bits of one element from a bit position on in a space, through Perm where the slot asks for it (R173). -/
def spanOf (t : Tsr) (space : Nat) (bitpos : Int) : Field :=
  let a := (bitpos / 8 % 2 ^ 64).toNat
  { space := space
    addr := if (space = 1 ∨ space = 2) ∧ slotField t 89 1 = 1 then
        a ^^^ (((a >>> slotField t 952 5) &&& (2 ^ slotField t 944 3 - 1)) <<< slotField t 947 5)
      else a
    bit := (bitpos % 8).toNat, width := storedWidth (slotField t 64 5) }

/-- T[x], whether x is inside, and the element of a dense buffer with an index (R173, R174). -/
def elementOf (t : Tsr) (x : List Int) : Field :=
  spanOf t (slotField t 80 2) (8 * slotField t 0 64
    + storedWidth (slotField t 64 5) * ((List.range (slotRank t)).map fun i => x.getD i 0 * slotStride t i).sum)
def insideOf (t : Tsr) (x : List Int) : Bool :=
  (List.range (slotRank t)).all fun i => decide (0 ≤ x.getD i 0 ∧ x.getD i 0 < slotDim t i)
def denseOf (t : Tsr) (space d k : Nat) : Field := spanOf t space (8 * d + storedWidth (slotField t 64 5) * k)

/-- A box index of the slot, and its dense index (R174). -/
def InBox (t : Tsr) (b : List Nat) : Prop := b.length = slotRank t ∧ ∀ i < slotRank t, b.getD i 0 < slotBox t i
def denseIndex (t : Tsr) (b : List Nat) : Nat :=
  ((List.range (slotRank t)).map fun i => b.getD i 0 * ((List.range i).map (slotBox t)).prod).sum

/-- The coordinates of a box index from captured ones. -/
def boxCoords (t : Tsr) (c : List Int) (b : List Nat) : List Int :=
  (List.range (slotRank t)).map fun i => c.getD i 0 + b.getD i 0

/-- A copy command runs on for one run of dimension 0 and ends with its last element; a fault stops it, a page fault pauses it
with nothing of the run done: memory is as it was but for the record posted (R180; that a run is the unit which a page fault
leaves undone is the model's reading, log 44). A command some of whose writes a page lock holds has neither ended nor stopped
(R165). The elements follow one another by their dense index, each moved between T[x] and Dense[k] as R178 says for its command,
at the bits that R173 and R174 give them (that TGATHER and TSCATTER stop at an element which its space rejects is log 87); each
block that one enters is charged (R302). Elements move byte for byte, poison with them. GBIN replaces the one box field. GBIN counts every key that equals a node's index into that node's box extent. PUT and
GET send a transaction for each page of the remote range, CSTEP and PUSH one. A push to this device itself arrives at once
(log 18). A paused command goes on once its page is mapped. -/
def Obligations.EngineCommandsRun : Prop :=
  (∀ (s : State) (g k : Nat) (c : Command), s.commandOf g k = some c → s.engineRuns (s.gang g) = true → c.cls ≠ 2 →
    c.phase = .queued →
    let out := exec (.engineCommandRun g k) s
    let a := s.engineAgent c
    (∀ t, c.kind.slot = some t → (∀ t x v o, c.kind ≠ .push t x v o) →
      let total := Tsr.total t
      let n := min (Tsr.box t 0) (total - c.done)
      (∀ s', s.runElems a c.kind n c.done [] = (s', none) →
        (total ≤ c.done + n → s'.holdsFor (.command c.id) = false →
            ∃ r, out = .next r ∧ Ended s' r c ∧ r.mem = s'.mem ∧ r.poison = s'.poison)
        ∧ (total ≤ c.done + n → s'.holdsFor (.command c.id) = true → ∃ r, out = .next r
            ∧ r = { s' with cmds := s'.cmds.map fun d => if d.id = c.id then { d with phase := .draining } else d })
        ∧ (c.done + n < total → ∃ r, out = .next r
            ∧ r = { s' with cmds := s'.cmds.map fun d => if d.id = c.id then { d with done := c.done + n } else d }))
      ∧ (∀ s' cause addr, s.runElems a c.kind n c.done [] = (s', some (.fault cause addr)) →
          (s'.holdsFor (.command c.id) = false → ∃ r, out = .next r ∧ Stopped s' r c cause addr)
          ∧ (s'.holdsFor (.command c.id) = true → ∃ r, out = .next r
            ∧ r = { s' with cmds := s'.cmds.map fun d =>
                if d.id = c.id then { d with phase := .failing cause addr } else d }))
      ∧ ∀ s' va, s.runElems a c.kind n c.done [] = (s', some (.page va)) → ∃ r, out = .next r ∧ Paused s r c va)
    ∧ (∀ sp addr s₁ s₂ s₃ d ns ks, c.kind = .gbin sp addr → s.engineBytes a sp addr.toNat 16 [] = (s₁, .ok d) →
      let f := fun lo n => bytesToNat ((d.drop lo).take n)
      let kw := 2 ^ (f 14 1 % 4)
      f 8 4 ≤ 65535 → 1 ≤ f 12 2 → f 12 2 ≤ 256 → f 14 1 % 4 ≠ 3 → f 14 1 / 4 % 32 = 0 → f 15 1 < 8 → f 0 8 % kw = 0 →
      s₁.engineBytes a sp (addr.toNat + 16) (f 12 2) [] = (s₂, .ok ns) →
      let ids := ns.map BitVec.toNat
      (∀ n ∈ ids, s₂.patchable c.gang n (f 15 1) = true) → ids.Nodup →
      s₂.engineBytes a sp (f 0 8) (kw * f 8 4) [] = (s₃, .ok ks) → ks.length = kw * f 8 4 →
      s₃.holdsFor (.command c.id) = false →
      let keys := (List.range (f 8 4)).map fun i => bytesToNat ((ks.drop (kw * i)).take kw)
      ∃ r, out = .next r ∧ (∀ d ∈ r.cmds, d.id ≠ c.id)
        ∧ ∀ j n q, ids[j]? = some n → c.node ≠ some n → ((s₃.gang c.gang).node n).cmd = some q → q ≠ c.id →
            (∀ m, m ∈ ids → m ≠ n → ((s₃.gang c.gang).node m).cmd ≠ some q) →
            (f 14 1 / 128 = 1 → ((r.gang c.gang).node n).state = .released)
            ∧ ∀ b, s₃.command? q = some b → ∃ b', r.command? q = some b' ∧ b'.patched = true
                ∧ b'.kind = b.kind.patch (f 15 1) (keys.count j))
    ∧ (∀ put rva len sp lva s₁ s₂ peers ts, (c.kind = if put then .put rva len sp lva else .get rva len sp lva) →
      s.remotePeers a put ((pieces rva len).map fun x => rva + x.1) = (s₁, .ok peers) →
      s₁.findMany a (!put) (dwordFields sp lva.toNat len) = (s₂, .ok ts) →
      ∃ r, out = .next r ∧ Sent s₂ r c peers
        ∧ r.cmds = s₂.cmds.map fun d => if d.id = c.id then { d with phase := .sent } else d)
    ∧ (∀ sp addr s₁ s₂ s₃ bs peers ts, c.kind = .cstep sp addr → s.engineBytes a sp addr.toNat 64 [] = (s₁, .ok bs) →
      let d := StepDesc.ofBytes bs
      let f := fun lo n => bytesToNat ((bs.drop lo).take n)
      (descZero bs && d.legal) = decide (f 0 8 % 16 = 0 ∧ f 0 8 + f 16 4 ≤ 2 ^ 57 ∧ f 8 8 % 16 = 0 ∧ f 8 8 + f 16 4 ≤ 2 ^ 57
        ∧ 16 ≤ f 16 4 ∧ f 16 4 ≤ 2 ^ 24 ∧ f 16 4 % 16 = 0 ∧ f 20 1 ≤ 3 ∧ f 21 1 ≤ 7 ∧ (f 20 1 = 0 → f 21 1 = 0)
        ∧ f 22 2 = 0 ∧ f 32 8 % 4 = 0 ∧ f 32 8 < 2 ^ 57 ∧ ∀ z ∈ bs.drop 40, z = 0)
      ∧ d = { src := f 0 8, rdst := f 8 8, len := f 16 4, op := f 20 1, ty := f 21 1, collid := f 24 4, seq := f 28 4, rflag := f 32 8 }
      ∧ ((descZero bs && d.legal) = true → d.collid ∉ (s₁.context c.ctx).failed →
      s₁.remotePeers a true ((pieces d.rdst d.len).map (d.rdst + ·.1) ++ if d.rflag = 0 then [] else [d.rflag])
        = (s₂, .ok peers) →
      (∀ p ∈ peers, p = peers.headD 0) → s₂.findMany a false (dwordFields 0 d.src d.len) = (s₃, .ok ts) →
      ∃ r, out = .next r ∧ Sent s₃ r c [peers.headD 0]
        ∧ r.cmds = s₃.cmds.map fun q => if q.id = c.id then { q with phase := .sent, kind := .step d } else q))
    ∧ (∀ t x v o s₁ vals, c.kind = .push t x v o → s.pushValues a t x = (s₁, .ok vals) →
      v.toNat % 2 ^ 12 ≠ s₁.fabric.fabid.toNat →
      ∃ r, out = .next r ∧ Sent s₁ r c [v.toNat % 2 ^ 12]
        ∧ r.cmds = s₁.cmds.map fun q => if q.id = c.id then { q with phase := .sent } else q)
    ∧ ∀ t x v o s₁ s₂ vals f, c.kind = .push t x v o → s.pushValues a t x = (s₁, .ok vals) →
      v.toNat % 2 ^ 12 = s₁.fabric.fabid.toNat →
      let sent := (s₁.charge c.ctx 1 (ceilDiv (Tsr.total t * memBits (Tsr.fmt t)) 512)).mapCommand c.id fun d =>
        { d with phase := .sent }
      s₁.pageLocks = [] →
      sent.receivePush (pushArrival sent c.id t v o vals) ((List.range vals.length).filter fun i => (vals.getD i (0, false)).2)
        (.selfPush c.id) = (s₂, .done f) →
      out = .next s₂ ∧ ∀ d ∈ s₂.cmds, d.id ≠ c.id)
  ∧ (∀ t : Tsr, slotField t 64 5 ≤ 24 →
      (∀ x, Tsr.elem t x = elementOf t x ∧ Tsr.inside t x = insideOf t x)
      ∧ (∀ sp d k, Tsr.dense t sp d k = denseOf t sp d k)
      ∧ Tsr.total t = ((List.range (slotRank t)).map (slotBox t)).prod
      ∧ ∀ i < 7, ∀ n < 2 ^ 16, ∀ j < 1024, (Tsr.setBox t i n).getLsbD j =
          if 832 + 16 * i ≤ j ∧ j < 848 + 16 * i then n.testBit (j - (832 + 16 * i)) else t.getLsbD j)
  ∧ (∀ (s : State) (a : Agent) (t m : Tsr) (c : List Int) (sp : Nat) (d i : Word64) (b : List Nat), InBox t b →
      slotField t 64 5 ≤ 24 → slotField m 64 5 ≤ 24 →
      let k := denseIndex t b
      let x := boxCoords t c b
      let dense := denseOf t sp d.toNat k
      let source := fun x => if insideOf t x then some (elementOf t x) else none
      let into := fun (s : State) x => if insideOf t x then s.moveElem a (some dense) (elementOf t x) else (s, [], none)
      s.copyElem a (.tload t c sp d) k = s.moveElem a (source x) dense
      ∧ s.copyElem a (.tstore t c sp d) k = into s x
      ∧ s.copyElem a (.tzero t c) k = (if insideOf t x then s.moveElem a none (elementOf t x) else (s, [], none))
      ∧ (insideOf m x = true → slotRank m = slotRank t →
          s.copyElem a (.tcopy m t c) k = s.moveElem a (source x) (elementOf m x))
      ∧ (insideOf m x = false → slotRank m = slotRank t → ∀ s' ts v bad, s.readElem a (source x) = (s', .ok (ts, v, bad)) →
          s.copyElem a (.tcopy m t c) k = (s', ts, none))
      ∧ ∀ s' ts, 2 ≤ slotRank t →
          let word : Field := { space := sp, addr := (i.toNat + 4 * b.getD 1 0) % 2 ^ 64, bit := 0, width := 32 }
          s.fieldTargets a word false = (s', .ok ts) →
          let (r, v, bad) := s'.readField a word ts
          let y := x.set 1 ((BitVec.ofNat 32 v).toInt)
          (bad = true → ∀ cmd ∈ [CmdKind.tgather t c sp d i, .tscatter t c sp d i],
            s.copyElem a cmd k = (r, [], some (.fault .poison (BitVec.ofNat 64 word.addr))))
          ∧ (bad = false → insideOf t y = false → slotField t 88 1 = 0 →
              ∀ cmd ∈ [CmdKind.tgather t c sp d i, .tscatter t c sp d i],
                s.copyElem a cmd k = (r, [], some (.fault .range (BitVec.ofNat 64 (elementOf t y).addr))))
          ∧ (bad = false →
              (if insideOf t y then r.fieldBreach a (elementOf t y) = none else slotField t 88 1 = 1) →
              s.copyElem a (.tgather t c sp d i) k = alsoReads ts (r.moveElem a (source y) dense)
              ∧ s.copyElem a (.tscatter t c sp d i) k = alsoReads ts (into r y)))
  ∧ (∀ (s s' : State) (a : Agent) (kind : CmdKind) (n k : Nat) (last : List (Nat × Nat)) (ts : List Target),
      s.runElems a kind 0 k last = (s, none)
      ∧ (∀ e, s.copyElem a kind k = (s', ts, some e) → s.runElems a kind (n + 1) k last = (s', some e))
      ∧ (s.copyElem a kind k = (s', ts, none) →
          let blocks := s.blocks a.site (ts.map Target.triple)
          s.runElems a kind (n + 1) k last =
            ((blocks.filter fun b => !last.contains b).foldl (fun u b => u.charge a.ctx b.1 1) s').runElems a kind n (k + 1)
              blocks))
  ∧ (∀ (s s₁ s₂ : State) (a : Agent) (f d : Field) (g h : Target), f.whole = true → d.whole = true → f.width = d.width →
    0 < f.width → s.fieldTargets a f false = (s₁, .ok [g]) → (s₁.readField a f [g]).1.fieldTargets a d true = (s₂, .ok [h]) →
    (s₁.mem = s.mem ∧ s₁.poison = s.poison ∧ s₂.mem = s.mem ∧ s₂.poison = s.poison) →
    (∀ p ∈ s₁.partials, lineOf p.loc ∉ linesOf g.loc g.n) → (∀ p ∈ s₂.partials, lineOf p.loc ∉ linesOf h.loc h.n) →
    s₂.pageLockOf h.loc = none → s.mem.wf →
    ∃ r, s.moveElem a (some f) d = (r, [g, h], none)
      ∧ (∀ x, r.mem.read x = laid h.loc (s.mem.readBytes g.loc g.n) x (s.mem.read x))
      ∧ (s.poisoned g.loc g.n = true → r.poisoned h.loc h.n = true))
  ∧ ∀ (s : State) (g k tag : Nat) (va : Word64) (c : Command), s.commandOf g k = some c → c.phase = .paused tag va true →
    ∃ r, exec (.enginePageFaultResume g k) s = .next r
      ∧ r = { s with cmds := s.cmds.map fun d => if d.id = k then { d with phase := (if s.commandSent k then .sent else .queued) } else d }

/-- A finished command leaves its counter once every older one of its class has. A released node whose count is 0 launches:
its command joins the engine queue or, where the reservation table has room and no node that launched before waits for
it, the matrix stream; else it waits in launch order (R192). One that GBIN has given an empty box completes, and one whose
patched box leaves its tensor stops. -/
def Obligations.CommandsRetire : Prop :=
  (∀ (s : State) (w k : Nat) (x : Warp) (o : Outstanding) (older newer : List Outstanding), s.Single w →
    s.findWarp w = some x → x.out = older ++ o :: newer → o.cmd = k → (∀ p ∈ older, p.cmd ≠ k) →
    ∃ t y, exec (.engineCommandRetire w k) s = .next t ∧ t.findWarp w = some y ∧ y = { x with out := y.out }
      ∧ (o.finished = true → (∀ p ∈ older, p.cls ≠ o.cls) → y.out = older ++ newer)
      ∧ (o.finished = false ∨ (∃ p ∈ older, p.cls = o.cls) → y.out = x.out))
  ∧ ∀ (s : State) (g n k : Nat) (c : Command), s.engineRuns (s.gang g) = true → ((s.gang g).node n).state = .released →
    ((s.gang g).node n).count = 0 → ((s.gang g).node n).cmd = some k → s.command? k = some c → c.gang = g →
    c.node = some n →
    let out := exec (.nodeLaunch g n) s
    let runs := fun (t : State) => ((t.gang g).node n).state = .running ∧ ((t.gang g).node n).order = none
      ∧ t.nextUid = s.nextUid + 1
      ∧ t.cmds = s.cmds.map fun d => if d.id = k then { d with phase := .queued, entered := s.nextUid } else d
    let enters := s.reserved (s.gang g) < Config.reservationEntries ∧ s.launchedBefore (s.gang g) ((s.gang g).node n) = false
    (c.cls ≠ 2 → c.patched = false → ∃ t, out = .next t ∧ runs t)
    ∧ (c.cls = 2 → c.patched = false → enters →
        ∃ t, out = .next t ∧ runs t ∧ (t.gang g).mx.stream = (s.gang g).mx.stream ++ [k])
    ∧ (c.cls = 2 → ¬ enters → ((s.gang g).node n).order ≠ none → out = .next s)
    ∧ (c.cls = 2 → ¬ enters → ((s.gang g).node n).order = none → ∃ t, out = .next t
        ∧ ((t.gang g).node n).order = some s.nextUid ∧ ((t.gang g).node n).state = .released
        ∧ t = { s with gangs := t.gangs, nextUid := s.nextUid + 1 })
    ∧ ∀ t, c.cls ≠ 2 → c.patched = true → c.kind.slot = some t →
        let empty := (List.range (Tsr.rank t)).any fun i => Tsr.box t i == 0
        (empty = true → s.holdsFor (.command k) = false → ∃ r, out = .next r ∧ (∀ d ∈ r.cmds, d.id ≠ k) ∧ ((r.gang g).node n).state = .free)
        ∧ (empty = false → (s.copyBreaches (s.engineAgent c) c.kind).findSome? id = none → ∃ r, out = .next r ∧ runs r)
        ∧ ∀ e, empty = false → (s.copyBreaches (s.engineAgent c) c.kind).findSome? id = some e → s.Single c.warp → s.holdsFor (.command k) = false →
            ∃ r, out = .next r ∧ (∀ d ∈ r.cmds, d.id ≠ k) ∧ ((r.gang g).node n).state = .free
              ∧ ∀ x, r.findWarp c.warp = some x → ∃ h ∈ x.heldFaults, h.cause = e.1 ∧ h.addr = e.2 ∧ h.pc = c.pc

/-- The fields of an engine command are read in order: each block that one enters is charged (R302), the value is the field's
bits of the bytes there, lowest first, and its mark is theirs. -/
def EngineReads : Prop :=
  (∀ (s : State) (a : Agent) (last : List (Nat × Nat)), s.readMany a [] last = (s, .ok []))
  ∧ (∀ (s s' : State) (a : Agent) (f : Field) (fs : List Field) (last : List (Nat × Nat)) (ts : List Target),
      s.fieldTargets a f false = (s', .ok ts) →
      let blocks := s'.blocks a.site (ts.map Target.triple)
      let (u, v, bad) := ((blocks.filter fun b => !last.contains b).foldl (fun u b => u.charge a.ctx b.1 1) s').readField a f ts
      (∀ u' vs, u.readMany a fs blocks = (u', .ok vs) → s.readMany a (f :: fs) last = (u', .ok ((v, bad) :: vs)))
      ∧ ∀ u' e, u.readMany a fs blocks = (u', .error e) → s.readMany a (f :: fs) last = (u', .error e))
  ∧ ∀ (s : State) (a : Agent) (f : Field) (ts : List Target),
      (∀ g ∈ ts, ∀ p ∈ s.partials, lineOf p.loc ∉ linesOf g.loc g.n) →
      let (u, v, bad) := s.readField a f ts
      v = bytesToNat (ts.flatMap fun g => s.mem.readBytes g.loc g.n) / 2 ^ f.bit % 2 ^ f.width
      ∧ bad = (ts.any fun g => s.poisoned g.loc g.n) ∧ u.mem = s.mem ∧ u.poison = s.poison

/-- A byte of an activation block, its element A[m][k], and the bytes of a vector that starts at an offset from it (R207). -/
def blockByte (cfg : BitVec 25) (space a : Nat) : Nat :=
  let f := fun lo n => (cfg.extractLsb' lo n).toNat
  if (space = 1 ∨ space = 2) ∧ f 11 1 = 1 then a ^^^ (((a >>> f 20 5) &&& (2 ^ f 12 3 - 1)) <<< f 15 5) else a
def activationFormat (cfg : BitVec 25) : Nat := (cfg.extractLsb' 0 5).toNat
def blockPitch (cfg : BitVec 25) (transposed : Bool) (rows kd : Nat) : Nat :=
  ((if transposed then rows else kd) * storedWidth (activationFormat cfg) + 127) / 128 * 16
def activation (cfg : BitVec 25) (transposed : Bool) (space d rows kd m k : Nat) : Field :=
  let n := storedWidth (activationFormat cfg)
  let line := if transposed then k else m
  let i := if transposed then m else k
  { space := space, addr := blockByte cfg space (d + line * blockPitch cfg transposed rows kd + n * i / 8)
    bit := n * i % 8, width := n }
def vectorBytes (cfg : BitVec 25) (space start n : Nat) : List Field :=
  (List.range n).map fun i => { space := space, addr := blockByte cfg space (start + i), bit := 0, width := 8 }

/-- The depth of a band, which is the segment of a pass, and of a plane (R198). -/
def bandOf (p : Plane) : Nat := (if formatWidth p.fmt ≤ 6 then 128 else 64) * if p.sparse then 2 else 1
def depthOf (p : Plane) : Nat := bandOf p * ((List.range 4).filter fun b => p.mask.getLsbD b).length

/-- What a pass reads: A[m][k] row by row, and the vectors that the configuration names, each where R207 places it. -/
def PassReads : Prop :=
  ∀ (s : State) (c : Command) (mode rows sp d : Nat),
    let x := (s.gang c.gang).mx
    let a := s.engineAgent c
    let bit := fun i => x.cfg.getLsbD i
    let kd := depthOf x.active
    let t := mode == 2
    let tile := d + (if t then kd else rows) * blockPitch x.cfg t rows kd
    let up := fun n => (n + 15) / 16 * 16
    let cols := tile + if bit 8 then up rows else 0
    let zeros := cols + if bit 9 then up kd else 0
    let ends := if bit 10 then zeros + rows else if bit 9 then cols + kd else if bit 8 then tile + rows else tile
    let reads := fun (present : Bool) (s s' : State) (start n : Nat) (v : List (Nat × Bool)) =>
      if present then s.readMany a (vectorBytes x.cfg sp start n) [] = (s', .ok v) else s' = s ∧ v = []
    x.active.fmt ≤ 19 → activationFormat x.cfg ≤ 19 →
    (x.active.mask ≠ x.ashape → ∃ u addr, s.passInputs c mode rows sp d = (u, .error (.fault .range addr)))
    ∧ (x.active.mask = x.ashape → s.blockInside a x.cfg sp d (ends - d) = true →
      ∀ s₁ s₂ s₃ s₄ acts rsc csc zp,
        s.readMany a ((List.range rows).flatMap fun m => (List.range kd).map fun k => activation x.cfg t sp d rows kd m k) []
          = (s₁, .ok acts) →
        reads (bit 8) s₁ s₂ tile rows rsc → reads (bit 9) s₂ s₃ cols kd csc → reads (bit 10) s₃ s₄ zeros rows zp →
        ((∀ z ∈ zp, z.1 < 2 ^ formatWidth (activationFormat x.cfg)) → s.passInputs c mode rows sp d =
          (s₄, .ok { m := rows, kd := kd, acts := acts, rowScale := rsc, colScale := csc, zero := zp }))
        ∧ ((∃ z ∈ zp, 2 ^ formatWidth (activationFormat x.cfg) ≤ z.1) → ∃ u addr,
            s.passInputs c mode rows sp d = (u, .error (.fault .range addr))))

/-- A pass on one element (R209–R211): the terms of a segment, added to the accumulator as binary64 where there is one, or the
exact sum of every product of an integer pass. -/
def scaleValue (e : Nat) : Value := if e = 255 then .nan else .num false (2 ^ ((e : ℤ) - 127))
def PassStep (acc : Word64) (terms : List Value) (r : Word64) : Prop :=
  if terms = [] then r = acc
  else ∃ y f g, Rounded 20 0 false 0 (Value.sum terms) y f
    ∧ Rounded 20 0 false 0 (((valueOf 20 acc.toNat 0).1).plus false (valueOf 20 y 0).1) r.toNat g
def PassValues : Prop :=
  ∀ (cfg : BitVec 25) (p : PassIn) (w : Plane) (m n : Nat) (acc : Word64),
    let f := activationFormat cfg
    f ≤ 19 → w.fmt ≤ 19 → (∀ v ∈ p.acts, v.1 < 2 ^ storedWidth f) → (∀ e ∈ w.weights, e.2 < 2 ^ formatWidth w.fmt) →
    let zero := fun (f : Nat) (v : List (Nat × Bool)) (i : Nat) => (v.getD i (2 ^ (formatWidth f - 1), false)).1
    let scale := fun (v : List (Nat × Bool)) (i : Nat) => scaleValue (v.getD i (127, false)).1
    let act := fun k : Nat => let c := (p.acts.getD (m * p.kd + k) (0, false)).1
      (valueOf f (if f = 1 then c / 2 ^ 13 else c) (zero f p.zero m)).1
    let product := fun k code : Nat => (act k).times (valueOf w.fmt code (zero w.fmt w.zero n)).1
    let term := fun k code : Nat => ((((product k code).times (scale p.rowScale m)).times (scale p.colScale k)).times
      (scale w.rowScale k)).times (scale w.colScale n)
    let terms := fun σ : Nat => w.weights.filterMap fun e =>
      if e.1 % 256 = n ∧ e.1 / 256 / bandOf w = σ then some (term (e.1 / 256) e.2) else none
    let int := 14 ≤ f ∧ 14 ≤ w.fmt ∧ cfg.getLsbD 8 = false ∧ cfg.getLsbD 9 = false ∧ w.scaled = false
    (¬ int → ∃ a₁ a₂ a₃, PassStep acc (terms 0) a₁ ∧ PassStep a₁ (terms 1) a₂ ∧ PassStep a₂ (terms 2) a₃
      ∧ PassStep a₃ (terms 3) (passElem cfg p w m n acc))
    ∧ (int → ∃ z : ℤ, (z : ℚ) = ((w.weights.filter (·.1 % 256 == n)).map fun e =>
          match product (e.1 / 256) e.2 with | .num _ q => q | _ => 0).sum
        ∧ passElem cfg p w m n acc = BitVec.ofInt 64 (acc.toInt + z))

/-- MDRAIN's elements: the box positions inside the tensor, each written at its place with RoundTo of the accumulator, an FP19
element above 13 zero bits, marked where the accumulator or its zero point is (R212). -/
def DrainWrites : Prop :=
  (∀ (t : Tsr) (c : List Int), slotField t 64 5 ≤ 24 → (loadedCells t c).Nodup ∧ ∀ j i, (j, i) ∈ loadedCells t c ↔
    j < slotBox t 0 ∧ i < slotBox t 1 ∧ insideOf t (boxCoords t c [j, i]) = true)
  ∧ ∀ (s s' : State) (a : Agent) (x : Matrix) (tile : Nat) (t : Tsr) (c : List Int) (int : Bool) (rm : Nat) (sat : Bool)
      (zs : List (Nat × Bool)) (j i : Nat) (rest : List (Nat × Nat)) (last : List (Nat × Nat)),
      let f := slotField t 64 5
      let z := (zs.getD j (2 ^ (formatWidth f - 1), false)).1
      let v := x.accAt (16384 * tile + 256 * i + j)
      let y := if int then .num (decide (v.toInt < 0)) v.toInt else (valueOf 20 v.toNat 0).1
      let dst := elementOf t (boxCoords t c [j, i])
      f ≤ 24 → rm < 4 → z < 2 ^ formatWidth f →
      s.drainElems a x tile t c int rm sat zs [] last = (s, none)
      ∧ (∀ e, s.fieldTargets a dst true = (s', .error e) →
          s.drainElems a x tile t c int rm sat zs ((j, i) :: rest) last = (s', some (stopOf e)))
      ∧ ∀ ts, s.fieldTargets a dst true = (s', .ok ts) →
          let blocks := s'.blocks a.site (ts.map Target.triple)
          let u := (blocks.filter fun b => !last.contains b).foldl (fun u b => u.charge a.ctx b.1 1) s'
          ∃ code k, Rounded f rm sat z y code k
            ∧ s.drainElems a x tile t c int rm sat zs ((j, i) :: rest) last =
              (u.writeField a dst ts (if f = 1 then code * 2 ^ 13 else code)
                (x.accPoison.contains (16384 * tile + 256 * i + j) || (zs.getD j (0, false)).2)).drainElems
                a x tile t c int rm sat zs rest blocks

/-- The arbiter of a cluster grants the head of the highest effective priority, on a tie the one that entered the reservation
table first: its launch record's priority and one step for each full 256 cycles of waiting, at most 7 (R194). It takes effect:
planes swap, the mask and the configuration change, a tile clears, MSTAT copies the status, MRDROW hands its elements over,
MLDS replaces the shadow plane, MDRAIN stores RoundTo of the accumulator in T[x] (R212), a pass accumulates: its operands lie
where R207 puts them, and its terms add up as R209 to R211 say. A stopped stream has no effect but MSTAT's. A confirmed
mismatch takes the engine offline, and its gang leaves once its issued instructions have completed (R220, R345). -/
def Obligations.MatrixGrants : Prop :=
  (∀ (s : State) (site cl : Nat) (c : Command), s.granted site cl = some c →
    let prio := fun h : Gang => min 7 ((s.grid h.grid).prio + h.mx.age)
    ∃ g ∈ s.gangsOn site cl, s.readyHead g = some c ∧ ∀ h ∈ s.gangsOn site cl, ∀ d, s.readyHead h = some d →
      prio h < prio g ∨ (prio h = prio g ∧ c.entered ≤ d.entered))
  ∧ EngineReads ∧ PassReads ∧ PassValues ∧ DrainWrites
  ∧ (∀ (s : State) (g : Nat) (chk : SpareCheck) (c : Command), s.granted (s.gang g).site (s.gang g).cluster = some c →
    c.gang = g → s.engineRuns (s.gang g) = true → (∃ h ∈ s.gangs, h.uid = g) →
    s.holdsFor (.command c.id) = false →
    let out := exec (.matrixArbiterGrant g chk) s
    let b := s.setMatrix g fun x => { x with shaped := false }
    let mx := b.matrix g
    let a := s.engineAgent c
    let leaves := fun (s' t : State) (m : Matrix) => Ended s' t c ∧ t.mem = s'.mem
      ∧ t.matrix g = { m with stream := (t.matrix g).stream, headSince := (t.matrix g).headSince, age := (t.matrix g).age }
    (mx.stopped = true → c.kind.isMstat = false → ∃ t, out = .next t ∧ leaves b t mx)
    ∧ (mx.stopped = false →
      (c.kind = .mswap → ∃ t, out = .next t ∧ leaves b t { mx with active := mx.shadow, shadow := mx.active })
      ∧ (∀ m, c.kind = .mshape m → ∃ t, out = .next t ∧ leaves b t { mx with ashape := m, shaped := true })
      ∧ (∀ v, c.kind = .mcfg v → ∃ t, out = .next t ∧ leaves b t { mx with cfg := v })
      ∧ (∀ k, c.kind = .mzero k → ∃ t, out = .next t
          ∧ leaves b t { mx with acc := (t.matrix g).acc, accPoison := (t.matrix g).accPoison }
          ∧ ∀ key, ((t.matrix g).accAt key = if key / 16384 = k then 0 else mx.accAt key)
            ∧ (key ∈ (t.matrix g).accPoison ↔ key ∈ mx.accPoison ∧ key / 16384 ≠ k))
      ∧ (∀ t x s₁ vals, c.kind = .mlds t x → Tsr.scales t = false → Tsr.zpts t = false → Tsr.sparse t = false →
          Tsr.box t 1 ≤ bandDepth (Tsr.fmt t) false * bandCount mx.ashape → Tsr.box t 0 ≤ 256 →
          b.readMany a ((loadedCells t x).map fun y => elementOf t (boxCoords t x [y.1, y.2])) [] = (s₁, .ok vals) →
          s₁.holdsFor (.command c.id) = false →
          ∃ r, out = .next r ∧ leaves s₁ r { mx with shadow := (r.matrix g).shadow }
            ∧ (r.matrix g).shadow.fmt = Tsr.fmt t ∧ (r.matrix g).shadow.mask = mx.ashape
            ∧ ∀ n < 256, ∀ j, (n, j) ∈ loadedCells t x → ∃ v, ((n, j), v) ∈ (loadedCells t x).zip vals
                ∧ tableFind? (r.matrix g).shadow.weights (256 * j + n) = some (codeOfStored (Tsr.fmt t) v.1)
                ∧ (v.2 = true → 256 * j + n ∈ (r.matrix g).shadow.poison))
      ∧ (∀ k t x int rm sat s₀ s₁ zs, c.kind = .mdrain k t x int rm sat →
          (if Tsr.zpts t then ∃ s' q, b.readRecord a t = (s', .ok q) ∧ q.zero = true
              ∧ s'.readVector a true (Tsr.space t) q.zp (Tsr.box t 0) = (s₀, .ok zs)
              ∧ ∀ z ∈ zs, z.1 < 2 ^ formatWidth (Tsr.fmt t)
            else s₀ = b ∧ zs = []) → Tsr.fmt t ≤ 24 →
          s₀.drainElems a mx k t x int rm sat zs (loadedCells t x) [] = (s₁, none) → s₁.holdsFor (.command c.id) = false →
          ∃ r, out = .next r ∧ leaves s₁ r mx ∧ r.poison = s₁.poison)
      ∧ ∀ mode k rows sp d s₁ p, c.kind = .mmul mode k rows sp d → b.passInputs c mode rows sp d.toNat = (s₁, .ok p) →
          s₁.holdsFor (.command c.id) = false →
          let site := (s.gang g).site
          let cl := (s.gang g).cluster
          (chk = .matched ∨ chk = .rerun → ∃ t, out = .next t ∧ Ended s₁ t c ∧ t.mem = s₁.mem
            ∧ (t.matrix g).active = mx.active ∧ (t.matrix g).shadow = mx.shadow
            ∧ (t.matrix g).npass = (mx.npass + 1) % 65536 ∧ (t.matrix g).rerun = decide (chk = .rerun)
            ∧ ∀ m < rows, ∀ n < 256,
                let key := 16384 * k + 256 * m + n
                let old := if mode = 1 then 0 else mx.accAt key
                (t.matrix g).accAt key = passElem mx.cfg p mx.active m n old
                ∧ (p.rowBad m = true ∨ mx.active.colBad p n = true → key ∈ (t.matrix g).accPoison))
          ∧ ∀ col, chk = .confirmed col → site < 8 → cl < 16 → ∃ t, out = .next t
              ∧ ((t.site site).cluster cl).online = false ∧ (t.matrix g).acc = mx.acc ∧ (t.gang g).moved = true
              ∧ ((t.gang g).phase = .preempted ∨ (t.gang g).leaving ≠ none))
    ∧ (∀ d k, c.kind = .mstat d → c.pend = some k → ∃ t, out = .next t ∧ leaves b t { mx with mxstat := mx.status }
        ∧ Answered b t c.warp k mx.status)
    ∧ ∀ k row ch mode rs lanes q f, c.kind = .mrdrow k row ch mode rs lanes → mx.stopped = false → b.Focused f c.warp →
        c.pend = some q →
        let key := fun (i : Nat) (l : Fin 32) => 16384 * k + 256 * row + 32 * (ch + i) + l.val
        (∀ i < rs.length, ∀ l ∈ lanesOf lanes, key i l ∉ mx.accPoison) →
        ∃ t, out = .next t ∧ (∀ d ∈ t.cmds, d.id ≠ c.id) ∧ ∀ p ∈ t.warp.pend, p.id = q → p.ready = true
          ∧ ∀ (i : Nat) (r : Fin 64), rs[i]? = some r → ∃ v, RegWrite.v r lanes v ∈ p.writes
              ∧ (mode = 1 → ∀ l : Fin 32, ∃ n,
                  Rounded 0 0 false 0 (valueOf 20 (mx.accAt (key i l)).toNat 0).1 (v[l]).toNat n)
              ∧ (mode = 2 → ∀ l : Fin 32, (v[l]).toInt = max (-2 ^ 31) (min (2 ^ 31 - 1) (mx.accAt (key i l)).toInt))
              ∧ (mode = 0 → ∃ u, RegWrite.v (regAt r 1) lanes u ∈ p.writes ∧ ∀ l : Fin 32, u[l] ++ v[l] = mx.accAt (key i l)))

/-- A head gains one step of priority for each full 256 cycles of waiting; an enabled band lights after 200 cycles; at most one band of a site is
enabled per 64 cycles and none beyond the budget; a repaired engine is back in service (the order of gating is log 70's). -/
def Obligations.BandsAndAges : Prop :=
  ∀ (s : State) (g site cl band : Nat), site < 8 → cl < 16 → band < 4 →
    (exec (.matrixAgeStep g) s = .next { s with gangs := s.gangs.map fun h =>
      let x := h.mx
      let rises := x.stream ≠ [] ∧ x.headSince + 256 * (x.age + 1) ≤ s.clock.toNat
      if h.uid = g ∧ rises then { h with mx := { x with age := min 7 (x.age + 1) } } else h })
    ∧ (let k := (s.site site).cluster cl
       ∃ t, exec (.bandWake site cl band) s = .next t
        ∧ ((t.site site).cluster cl) = (if k.wanted.getLsbD band ∧ (k.bandAt[band]?).getD 0 + 200 ≤ s.clock.toNat then
            { k with lit := k.lit ||| (1 <<< band : BitVec 4), wanted := k.wanted &&& ~~~(1 <<< band : BitVec 4) } else k)
        ∧ t = { s with sites := t.sites })
    ∧ (∃ t, exec (.engineReturnToService site cl) s = .next t
        ∧ (t.site site).cluster cl = { (s.site site).cluster cl with online := true } ∧ t = { s with sites := t.sites })
    ∧ ∃ t, exec (.bandRampStep site) s = .next t ∧ t = { s with sites := t.sites }
        ∧ (∀ c < 16, ((t.site site).cluster c).lit &&& ~~~((s.site site).cluster c).lit = 0)
        ∧ (∀ a, (s.site site).rampAt = some a → s.clock.toNat < a + 64 → litCount (t.site site) ≤ litCount (s.site site))
        ∧ (litCount (t.site site) ≤ max (litCount (s.site site)) (s.siteBudget site))
        ∧ ∀ c b, (∀ x < 16, s.bandsNeeded site x &&& ~~~((s.site site).cluster x).lit
              &&& ~~~((s.site site).cluster x).wanted = if x = c then (1 <<< b : BitVec 4) else 0) →
            (∀ x < 16, (((s.site site).cluster x).lit ||| ((s.site site).cluster x).wanted)
              &&& ~~~(s.bandsNeeded site x) = 0) → c < 16 → b < 4 →
            litCount (s.site site) < s.siteBudget site →
            (∀ a, (s.site site).rampAt = some a → a + 64 ≤ s.clock.toNat) →
            ((t.site site).cluster c).wanted.getLsbD b = true ∧ (t.site site).rampAt = some s.clock.toNat
              ∧ (((t.site site).cluster c).bandAt[b]?).getD 0 = s.clock.toNat

/-! ## Events of the front end and the dispatchers (R21, R81, R171, R273–R288, R345) -/

/-- A launch record as its 128 bytes give it, little-endian (R276). -/
def RecordAt (m : Memory) (loc : Nat) (r : LaunchRecord) : Prop :=
  let f := fun o n => m.nat (loc + o) n
  let signed := fun o => (BitVec.ofNat 32 (f o 4)).toInt
  r.entry = f 0 8 ∧ r.gx = f 8 4 ∧ r.gy = f 12 4 ∧ r.gz = f 16 4 ∧ r.gang = f 20 1 ∧ r.wgsize = f 21 1 ∧ r.level = f 22 1
  ∧ r.prio = f 23 1 ∧ r.vregs = f 24 1 ∧ r.acc = f 25 1 ∧ r.nodes = f 26 2 ∧ r.scratch = f 28 4 ∧ r.stack = f 32 4
  ∧ r.affmask = f 36 1 ∧ r.tbclass = f 37 1 ∧ r.flags = f 38 1 ∧ r.ndep = f 39 1 ∧ r.affbase = f 40 8
  ∧ r.affsx = signed 48 ∧ r.affsy = signed 52 ∧ r.affsz = signed 56 ∧ r.leasehint = f 60 2
  ∧ r.deps = [f 64 8, f 72 8, f 80 8, f 88 8] ∧ r.args = f 96 8 ∧ r.stataddr = f 104 8
  ∧ (r.reserved = true ↔ f 62 2 ≠ 0 ∨ f 112 16 ≠ 0)

/-- Every field of a record is within its range (R276, R278, R279). -/
def RecordLegal (r : LaunchRecord) : Prop :=
  r.entry % 4 = 0 ∧ r.entry < 2 ^ 57 ∧ 1 ≤ r.gx ∧ 1 ≤ r.gy ∧ 1 ≤ r.gz ∧ r.gx * r.gy * r.gz ≤ 2 ^ 32
  ∧ 1 ≤ r.gang ∧ r.gang ≤ 4 ∧ 1 ≤ r.wgsize ∧ r.wgsize ≤ 16 ∧ r.level < 4 ∧ r.prio < 8 ∧ 1 ≤ r.vregs ∧ r.vregs ≤ 64
  ∧ r.acc ≤ 8 ∧ r.nodes ≤ 256 ∧ r.scratch ≤ 524288 ∧ r.stack % 16 = 0 ∧ r.stack ≤ 65536 ∧ r.tbclass < 4 ∧ r.flags < 2
  ∧ r.ndep ≤ 4 ∧ r.leasehint ≤ 4095 ∧ r.reserved = false ∧ r.stataddr % 16 = 0 ∧ r.stataddr < 2 ^ 57
  ∧ ∀ i < 4, let d := r.deps.getD i 0
      if i < r.ndep then d / 2 ^ 63 = 1 ∧ d / 2 ^ 38 % 2 ^ 25 = 0 else d = 0

/-- The checks of R281 in order, with the status of the first that fails (R28, R29, R68). -/
def RecordChecks (s : State) (r : LaunchRecord) : Prop :=
  let named := ∃ i < 8, r.affmask.testBit i = true ∧ (s.site i).inService = true
  let remains := fun i : Nat => decide (i < 8) && r.affmask.testBit i && (s.site i).inService
    && if r.level ≤ s.pkglvl then !(s.site i).restricted || decide (r.level ≤ (s.site i).level)
       else decide (r.level ≤ (s.site i).level)
  let holds := fun i cl : Nat => (s.site i).hasCluster cl && (r.acc == 0 || ((s.site i).cluster cl).online)
  let core := min (64 / r.wgsize) (if r.scratch = 0 then 64 else 524288 / r.scratch)
  let per := min (4 * core / r.gang) (min (if r.acc = 0 then 256 else 8 / r.acc) (if r.nodes = 0 then 256 else 256 / r.nodes))
  let room := (((List.range 8).filter remains).map fun i => ((List.range 16).filter (holds i)).length * per).sum
  let level := (r.level = 1 ∨ r.level = 2) ∧ ∃ i, remains i = true
  let fits := ∃ i, remains i = true ∧ ∃ cl < 16, holds i cl = true
  (¬ RecordLegal r → s.launchStatus r = some 3)
  ∧ (RecordLegal r → ¬ named → s.launchStatus r = some 1)
  ∧ (RecordLegal r → named → ¬ level → s.launchStatus r = some 2)
  ∧ (RecordLegal r → named → level → ¬ fits → s.launchStatus r = some 3)
  ∧ (RecordLegal r → named → level → fits → r.flags = 1 → room < r.gx * r.gy * r.gz → s.launchStatus r = some 4)
  ∧ (RecordLegal r → named → level → fits → (r.flags = 0 ∨ r.gx * r.gy * r.gz ≤ room) → s.launchStatus r = none)

/-- A dependence on a ticket, by how far its record lies behind its queue's tail (R278, R282). -/
def Dependence (s : State) (ticket : Nat) : Prop :=
  let d := ((s.queue (ticket / 2 ^ 32 % 64)).tail - BitVec.ofNat 32 ticket).toNat
  (d = 0 ∨ 2 ^ 31 ≤ d → s.depState ticket = .waits)
  ∧ (65536 ≤ d → d < 2 ^ 31 → s.depState ticket = .met)
  ∧ ∀ g, 1 ≤ d → d < 65536 → s.grids.find? (·.ticket == ticket) = some g →
      s.depState ticket = match g.status with | none => .waits | some 0 => .met | some _ => .failed

/-- QTAIL moves or sets QERR, and QERR clears by writing 1. A record read advances QHEAD and leaves a grid with the
fields that its bytes give it, which ends at once with the status of the first check of R281 that fails, DEPFAIL where a
dependence has failed; it may be placed once every dependence is met (R282). While its slot cannot be reached the queue waits.
A gang that waited too long loses its patience. A stalled access whose page is mapped tries again.
That a queue waits for its page, and that poison in a record is not looked at, are the model's choices (logs 59, 72). -/
def Obligations.QueueEvents : Prop :=
  ∀ (s : State) (q : Nat), q < 64 →
    let u := s.queue q
    (∀ v : BitVec 32,
      let bad := u.size = 0 ∨ 2 ^ u.size < (v - u.head).toNat ∨ 2 ^ 31 ≤ (v - u.tail).toNat ∨ 2 ^ u.size < (v - u.tail).toNat
      ∃ t, exec (.launchQueueTail q v) s = .next t ∧ t = { s with queues := t.queues }
        ∧ (∀ r, r ≠ q → t.queue r = s.queue r)
        ∧ (bad → t.queue q = { u with err := true }) ∧ (¬ bad → t.queue q = { u with tail := v }))
    ∧ (∀ v : BitVec 64, ∃ t, exec (.launchQueueErrorClear q v) s = .next t ∧ t = { s with queues := t.queues }
        ∧ (∀ r, r ≠ q → t.queue r = s.queue r) ∧ t.queue q = { u with err := u.err && !v.getLsbD 0 })
    ∧ (∀ s', s.nextQueue = some q →
      let out := exec (.launchRecordRead q) s
      (s.slotPlace q u.head false = (s', none) → out = .next s')
      ∧ ∀ loc kind, s.slotPlace q u.head false = (s', some (loc, kind)) → (∀ p ∈ s'.partials, lineOf p.loc ∉ linesOf loc 128) →
          let r := LaunchRecord.ofBytes (s'.mem.readBytes loc 128)
          let ticket := 2 ^ 63 + 2 ^ 32 * q + u.head.toNat
          ∃ t g, out = .next t ∧ (t.queue q).head = u.head + 1 ∧ g ∈ t.grids ∧ g.ticket = ticket ∧ g.record = r
            ∧ g.ctx = u.ctx ∧ g.queue = q ∧ g.prio = min r.prio (q / 8)
            ∧ RecordAt s'.mem loc r ∧ RecordChecks s r ∧ (∀ d ∈ r.deps, Dependence s d)
            ∧ (r.stataddr = 0 → ∀ code, s.launchStatus r = some code → g.status = some code)
            ∧ (r.stataddr = 0 → s.launchStatus r = none → r.ndep = 0 → g.status = none ∧ g.ready = true)
            ∧ (r.stataddr = 0 → s.launchStatus r = none →
                (∀ h ∈ s.grids, h.status.isSome = true ∨ h.ready = true ∨ h.wait.isSome = true) →
                (∀ d ∈ r.deps.take r.ndep, d ≠ ticket) →
                let ds := (r.deps.take r.ndep).map s.depState
                (.failed ∈ ds → g.status = some 5)
                ∧ (.failed ∉ ds → g.status = none ∧ (g.ready = true ↔ ∀ x ∈ ds, x = .met))))
    ∧ (∀ grid ix : Nat,
      let due := fun o : Offer => o.index = ix
        ∧ ∀ g ∈ s.grids, g.ticket = grid → o.since + (s.context g.ctx).affpat.toNat ≤ s.clock.toNat
      (∀ g ∈ s.grids, ∀ h ∈ s.grids, g.ticket = grid → h.ticket = grid → g = h) →
      ∃ t, exec (.affinityPatienceExpiry grid ix) s = .next t
        ∧ t = { s with grids := s.grids.map fun g =>
            if g.ticket = grid then
              { g with offers := g.offers.map fun o => if due o then { o with patience := true } else o } else g })
    ∧ ∀ tag, (∀ w ∈ s.warps, s.Single w.uid) → (∀ g ∈ s.grids, g.wait ≠ some tag) →
      ∃ t, exec (.stalledPageFaultMapped tag) s = .next t ∧ t = { s with warp := t.warp, others := t.others }
        ∧ t.warps = s.warps.map fun w => if w.stall = some tag then { w with stall := none, unmapped := false } else w

/-- Gang `ix` of a grid stands on a cluster as R21 starts it, its stacks from `stack` up (log 82): its matrix context, graph and
scratchpads are empty, and each warp has the entry state, every register at it, full and clean. -/
structure Started (t : State) (g : Grid) (h : Gang) (ix stack : Nat) : Prop where
  gang : h ∈ t.gangs ∧ h.grid = g.ticket ∧ h.index = ix ∧ h.phase = .resident ∧ h.acc = g.record.acc ∧ h.wgs = g.record.gang
    ∧ h.scratch = g.record.scratch ∧ h.nodes = List.replicate g.record.nodes Node.free ∧ h.barriers = []
  matrix : (∀ key, h.mx.accAt key = 0) ∧ h.mx.accPoison = [] ∧ h.mx.active = Plane.empty ∧ h.mx.shadow = Plane.empty
    ∧ h.mx.cfg = 0 ∧ h.mx.ashape = 0xF ∧ h.mx.stream = [] ∧ h.mx.stopped = false
  scratch : ∀ a, scratchBase h.uid ≤ a → a < scratchBase (h.uid + 1) → t.mem.read a = 0 ∧ a / 8 ∉ t.poison
  warps : ∀ wg < g.record.gang, ∀ i < g.record.wgsize, ∃ w ∈ t.warps,
    (w.gang = h.uid ∧ w.wg = wg ∧ w.index = i ∧ w.live = true ∧ w.resident = true ∧ w.ctx = g.ctx ∧ w.site = h.site
      ∧ w.cluster = h.cluster ∧ w.core = h.cores.getD wg 0)
    ∧ (w.frag.pc = BitVec.ofNat 57 g.record.entry ∧ w.frag.fetch = w.frag.pc ∧ w.frag.mask = BitVec.allOnes 32
      ∧ w.frag.hints = {} ∧ w.frags = [] ∧ w.park = [])
    ∧ (let b := fun n : Nat => BitVec.ofNat 64 n
       let r := g.record
       let low := stack + (wg * r.wgsize + i) * (32 * r.stack)
       (∀ k : Fin 64, w.s[k] = if k = 1 then b r.args else if k = 2 then b (ix % r.gx) else if k = 3 then b (ix / r.gx % r.gy)
         else if k = 4 then b (ix / r.gx / r.gy) else if k = 5 then b wg else if k = 6 then b i
         else if k = 62 then b (low + 32 * r.stack) else 0)
       ∧ w.stktop = b (low + 32 * r.stack) ∧ w.stklim = b low)
    ∧ (∀ (k : Fin 64) (l : Fin 32), w.v[k][l] =
        if k = 0 then BitVec.ofNat 32 l.val else if k = 1 then BitVec.ofNat 32 (32 * i + l.val) else 0)
    ∧ (∀ k : Fin 8, w.m[k] = 0) ∧ (∀ k : Fin 16, w.tsr[k] = 0 ∧ w.tsrPoison[k] = 0)
    ∧ (∀ k : Fin 64, w.full (.s k) = true ∧ w.full (.v k) = true ∧ w.sPoison[k] = false ∧ w.vPoison[k] = 0)
    ∧ w.mPoison = 0 ∧ w.csrPoison = 0
    ∧ (w.dead = 0 ∧ w.dsrc = 0 ∧ w.fpflags = 0 ∧ w.exited = 0 ∧ w.trapvec = 0 ∧ w.trapcause = none ∧ w.trappc = 0
      ∧ w.traplanes = 0 ∧ w.trap = none)
    ∧ w.pend = [] ∧ w.log = [] ∧ w.locks = [] ∧ w.out = [] ∧ w.heldFaults = [] ∧ w.heldTraps = [] ∧ w.raising = none
    ∧ w.barw = 0 ∧ w.barg = 0 ∧ w.stall = none ∧ w.debugStop = false ∧ w.stepping = false

/-- A gang is placed where it finds room, with its cluster's state and every warp of it as R21 starts it, its stacks where log
82 puts them; without room it is offered, to wait. A gang that was pre-empted, or swapped out and called, resumes where it finds room, in the order
of log 55. The gangs of a CORES grid are placed together, and come back together where they were swapped out. -/
def Obligations.GangsPlaced : Prop :=
  ∀ (s : State) (grid ix stack : Nat), s.settleDeps = s → (∀ g ∈ s.grids, ∀ h ∈ s.grids, g.ticket = h.ticket → g = h) →
    (∃ g ∈ s.grids, g.ticket = grid) →
    let g := s.grid grid
    let r := g.record
    let out := exec (.gangPlacement grid ix stack) s
    let absent := s.gangs.find? (fun h => h.grid == grid && h.index == ix && h.phase != .retired) = none
    (absent → g.status = none → g.ready = true → s.yieldsTo g = false → r.cores = false → ix = g.next → ix < g.gangCount →
      g.offers.find? (·.index == ix) = none →
      let spot := s.spotFor g r.footprint ix (s.patient g { index := ix, since := s.clock.toNat, patience := false })
      (spot = none → ∃ t, out = .next t ∧ t.gangs = s.gangs ∧ (t.grid grid).next = ix + 1
        ∧ (t.grid grid).offers = g.offers ++ [{ index := ix, since := s.clock.toNat, patience := false }])
      ∧ ∀ site cl cores, spot = some (site, cl, cores) →
          ∃ t h, out = .next t ∧ h.uid = s.nextUid ∧ h.site = site ∧ h.cluster = cl ∧ h.cores = cores ∧ Started t g h ix stack
            ∧ (t.grid grid).placed = g.placed + 1 ∧ (t.grid grid).next = ix + 1
            ∧ ∀ a, a < scratchBase h.uid ∨ scratchBase (h.uid + 1) ≤ a → t.mem.read a = s.mem.read a)
    ∧ (∀ h t, s.gangs.find? (fun h => h.grid == grid && h.index == ix && h.phase != .retired) = some h →
      s.requeued h = true → s.waitsFor h = false →
      ((r.cores = false ∨ h.phase = .preempted) → s.resume h = some t → out = .next t ∧ (t.gang h.uid).phase = .resident)
      ∧ (r.cores = true → h.phase = .swapped → s.resumeWhole g = some t → out = .next t))
    ∧ (absent → g.status = none → g.ready = true → s.yieldsTo g = false → r.cores = true → ix = 0 → g.placed = 0 →
      s.placeWhole g stack (s.patient g { index := 0, since := s.clock.toNat, patience := false }) = none → g.offers = [] → ∃ t, out = .next t ∧ t = { s with grids := t.grids }
        ∧ (t.grid grid).offers = [{ index := 0, since := s.clock.toNat, patience := false }])
    ∧ ∀ t, absent → g.status = none → g.ready = true → s.yieldsTo g = false → r.cores = true → ix = 0 → g.placed = 0 →
      s.placeWhole g stack (s.patient g (s.offerOf g 0)) = some t →
      ∃ t', out = .next t' ∧ t'.gangs = t.gangs ∧ t'.gangs.length = s.gangs.length + g.gangCount ∧ (t'.grid grid).next = g.gangCount
        ∧ (t'.grid grid).offers = []
        ∧ ∀ i < r.gx * r.gy * r.gz, ∃ h, Started t' g h i (stack + i * (r.gang * r.wgsize * 32 * r.stack))

/-- A pre-empted gang leaves its cluster with its state saved once its issued instructions have completed, and stops at unit
boundaries until then; a halted site is left alone. A gang whose quantum has run out gives way exactly where its priority then
finds a place, unless a warp of it is in debug stop. One parked for longer than PARKTHR is swapped out, the gangs of a CORES
grid together. Which issued instructions are waited for is the model's reading (log 65). A warp without fragments, commands and held
writes retires, and its gang with the last one; a fault still held goes to the supervisor, the oldest first (the
model's reading: log 54). -/
def Obligations.GangsLeave : Prop :=
  ∀ (s : State) (g : Nat), s.Distinct →
    let h := s.gang g
    let prio := (s.grid h.grid).prio
    let halted := (s.site h.site).halted = true
    let out := fun (d : GangPhase) => h.leaving.getD d
    let early := h.phase ≠ .resident ∨ (s.queue (s.grid h.grid).queue).quant = 0 ∨ h.leaving.isSome = true
      ∨ s.clock.toNat < h.placedAt + (s.queue (s.grid h.grid).queue).quant.toNat * 1024
      ∨ (∃ w ∈ s.warpsOf g, w.debugStop = true) ∨ s.placeable prio false = true
    let room := (let t := s.vacate g .preempted
      { t with gangs := t.gangs.filter (·.uid != g) }.placeable prio false)
    (h.phase ≠ .resident ∨ halted → exec (.preemption g) s = .next s)
    ∧ (h.phase = .resident → ¬ halted → s.Settled g → ∃ t, exec (.preemption g) s = .next t ∧ GangOut s t g (out .preempted))
    ∧ (h.phase = .resident → ¬ halted → ¬ s.Settled g → ∃ t, exec (.preemption g) s = .next t
        ∧ (t.gang g).phase = .resident ∧ (t.gang g).leaving = some (out .preempted)
        ∧ t.warps = (s.warps.map fun w => if w.gang = g ∧ w.live = true then w.settle else w)
        ∧ t = { s with warp := t.warp, others := t.others, gangs := t.gangs })
    ∧ (early ∨ room = false → exec (.quantumExpiry g) s = .next s)
    ∧ (¬ early → room = true → ¬ halted → s.Settled g → ∃ t, exec (.quantumExpiry g) s = .next t ∧ GangOut s t g .preempted)
    ∧ (h.phase ≠ .resident ∨ s.parkedOut h = false → exec (.gangSwapOut g) s = .next s)
    ∧ (h.phase = .resident → s.parkedOut h = true → ¬ halted → (s.grid h.grid).record.cores = false → s.Settled g →
        ∃ t, exec (.gangSwapOut g) s = .next t ∧ GangOut s t g (out .swapped))
    ∧ (∀ m ∈ s.gangs, h.phase = .resident → s.parkedOut h = true → (s.grid h.grid).record.cores = true → m.grid = h.grid →
        s.swapsWith m = false → exec (.gangSwapOut g) s = .next s)
    ∧ (h.phase = .resident → s.parkedOut h = true → (s.grid h.grid).record.cores = true →
        (∀ m ∈ s.gangs, m.grid = h.grid → s.swapsWith m = true ∧ (m.phase = .resident →
          (s.site m.site).halted = false ∧ m.leaving = none ∧ s.Settled m.uid)) →
        ∃ t, exec (.gangSwapOut g) s = .next t
          ∧ ∀ m ∈ s.gangs, m.grid = h.grid → (t.gang m.uid).phase = if m.phase = .retired then .retired else .swapped)
    ∧ ∀ w x, s.findWarp w = some x → x.resident = true → x.usedFrags = [] → x.park = [] → x.debugStop = false →
        x.trap = none → x.out = [] → x.stall = none → x.raising = none → s.lanesLanded w = true →
        (x.heldFaults = [] → ∃ t, exec (.warpRetire w) s = .next t ∧ (∀ y ∈ t.warps, y.uid = w → y.live = false)
          ∧ (∀ l ∈ t.locks, ∀ q ∈ l.queue, q.warp ≠ w) ∧ (∀ m ∈ t.monitors, m.warp ≠ w)
          ∧ ((∃ k ∈ s.gangs, k.uid = x.gang) → (s.gang x.gang).phase ≠ .retired →
              (∀ y ∈ s.warps, y.live = true → y.gang = x.gang → y.uid = w) → ∀ k ∈ t.gangs, k.uid ≠ x.gang))
        ∧ ∀ f more, x.heldFaults = f :: more → ∃ t, exec (.warpRetire w) s = .next t ∧ t.warp.uid = w
            ∧ t.warp.trapcause = some f.cause ∧ t.warp.heldFaults = []
            ∧ ((s.context x.ctx).debug = true → t.warp.debugStop = true)
            ∧ ((s.context x.ctx).debug = false → t.warp.live = false ∧ ∀ c ∈ t.contexts, c.num ≠ x.ctx)

/-! ## Events of gating, leases, power and tokens (R289–R302) -/

/-- Gating goes on by one step while nothing calls for its cluster, and gives way else, up to the cycle of isolation; power off
darkens the bands; no value of a warp that R277 keeps is lost or changed. A wake starts with the lowest cluster that a monitor
calls, else with the lowest that fits a gang which has waited for 2,400 cycles; before that it is the dispatcher's estimate,
a free value (log 79). It ends after 2,400 cycles. A halted site is left alone. -/
def Obligations.ClusterGating : Prop :=
  ∀ (s : State) (site cl : Nat), site < 8 → cl < 16 → s.Distinct →
    let k := (s.site site).cluster cl
    let halted := (s.site site).halted = true
    let called := s.clusterCalled site cl = true
    let idle := ∀ g ∈ s.gangs, g.phase = .resident → g.site = site → g.cluster = cl →
      s.monitorDone g.uid = false ∧ allParked (s.warpsOf g.uid) = true
    let gated := fun (g : Gate) => { k with gate := g, gateAt := s.clock.toNat }
    let becomes := fun (out : Host.Outcome State Fault Refusal) (c : Cluster) =>
      ∃ t, out = .next t ∧ (t.site site).cluster cl = c ∧ t.mem = s.mem
        ∧ (∀ i c, (i, c) ≠ (site, cl) → (t.site i).cluster c = (s.site i).cluster c)
        ∧ t = { s with warp := t.warp, others := t.others, sites := t.sites }
        ∧ t.warps.map (·.uid) = s.warps.map (·.uid)
        ∧ ∀ w ∈ s.warps, ∃ u ∈ t.warps, u = w ∨ w.SavedAs u (s.grid (s.gang w.gang).grid).record.vregs
    let gates := becomes (exec (.clusterGating site cl) s)
    let off := fun (c : Nat) => ((s.site site).cluster c).gate = .off
    let quiet := ∀ c < 16, off c → s.clusterCalled site c = false
    let wakes := exec (.clusterWake site) s
    (halted → exec (.clusterGating site cl) s = .next s ∧ exec (.gatingPowerRemoved site cl) s = .next s
      ∧ exec (.clusterWakeDone site cl) s = .next s ∧ wakes = .next s)
    ∧ (¬ halted →
      (k.gate = .awake → (idle → gates (gated .clockStopped)) ∧ (¬ idle → gates k))
      ∧ (k.gate = .clockStopped → (idle → gates (gated .spilled)) ∧ (¬ idle → gates (gated .awake)))
      ∧ (k.gate = .spilled → (idle → gates (gated .isolated)) ∧ (¬ idle → gates (gated .awake)))
      ∧ (k.gate = .isolated ∨ k.gate = .off ∨ k.gate = .waking → gates k)
      ∧ (k.gate = .isolated → called → k.gateAt = s.clock.toNat →
          becomes (exec (.gatingPowerRemoved site cl) s) (gated .awake))
      ∧ (k.gate = .isolated → (called ∧ k.gateAt ≠ s.clock.toNat) ∨ (¬ called ∧ s.wanted site 0 cl = true) →
          becomes (exec (.gatingPowerRemoved site cl) s) { gated .waking with lit := 0, wanted := 0 })
      ∧ (k.gate = .isolated → ¬ called → s.wanted site 0 cl = false →
          becomes (exec (.gatingPowerRemoved site cl) s) { gated .off with lit := 0, wanted := 0 })
      ∧ (k.gate ≠ .isolated → exec (.gatingPowerRemoved site cl) s = .next s)
      ∧ (k.gate = .waking → k.gateAt + 2400 ≤ s.clock.toNat → becomes (exec (.clusterWakeDone site cl) s) (gated .awake))
      ∧ (k.gate ≠ .waking ∨ s.clock.toNat < k.gateAt + 2400 → exec (.clusterWakeDone site cl) s = .next s)
      ∧ (off cl → called → (∀ c < cl, off c → s.clusterCalled site c = false) → becomes wakes (gated .waking))
      ∧ (off cl → quiet → s.wanted site 2400 cl = true → (∀ c < cl, off c → s.wanted site 2400 c = false) →
          becomes wakes (gated .waking))
      ∧ (off cl → quiet → (∀ c < 16, off c → s.wanted site 2400 c = false) → s.wanted site 0 cl = true →
          (∀ c < cl, off c → s.wanted site 0 c = false) →
          ∃ t, wakes = .next t ∧ t = { s with sites := t.sites, free := s.free + 1 }
            ∧ ((t.site site).cluster cl = k ∨ (t.site site).cluster cl = gated .waking)
            ∧ ∀ i c, (i, c) ≠ (site, cl) → (t.site i).cluster c = (s.site i).cluster c)
      ∧ (quiet → (∀ c < 16, off c → s.wanted site 0 c = false) → wakes = .next s))

/-- A window of 4,096 cycles in which the warp issues makes M the count of distinct lines. The head of a core's queue is activated where its lease fits.
A warp that has waited 64,512 cycles is activated in any case, and such an activation ends after 1,024 cycles. Nothing of a
warp but its lease changes. A warp in debug stop or on a halted site is not rotated (R351).
The three actions of the power controller follow each other, and the last one is undone first (the model's reading: log 73): every cluster of the highest
level falls by one, each site's budget by eight bands, idle flits come in. It evaluates every 8,192 cycles; a context more than
one in eight of whose accesses have missed in 65,536 cycles gets a gated LLC way back (the ways, and what gates another, are
log 17's). A cluster is granted the highest level that a warp of it may ask for. RATE tokens come into a bucket in every 256
cycles, up to its depth (that they come in evenly is log 64's). -/
def Obligations.LeasesPowerTokens : Prop :=
 (∀ (s : State) (w : Nat) (x : Warp), (∀ w ∈ s.warps, s.Single w.uid) → s.findWarp w = some x →
    let leased := fun (out : Host.Outcome State Fault Refusal) (f : Warp → Prop) =>
      ∃ t, out = .next t ∧ t = { s with warp := t.warp, others := t.others }
        ∧ t.warps.map Warp.unleased = s.warps.map Warp.unleased ∧ ∀ y, t.findWarp w = some y → f y
    let now := s.clock.toNat
    (leased (exec (.leaseWindowEnd w) s) fun y => y.lease =
      if 4096 ≤ x.lease.window then
        { x.lease with m := max 1 (min 4095 x.lease.lines.length), lines := [], window := 0 } else x.lease)
    ∧ (leased (exec (.leaseStarvation w) s) fun y =>
        (s.rotates x = true → x.lease.queued = true → x.lease.since + 64512 ≤ now →
          y.lease.active = true ∧ y.lease.forced = true ∧ y.lease.queued = false)
        ∧ (now < x.lease.since + 64512 ∨ x.debugStop = true → y.lease = x.lease))
    ∧ (leased (exec (.activity1024Cycles w) s) fun y =>
        (s.rotates x = true → x.lease.active = true → x.lease.since + 1024 ≤ now → x.holdsLock = false →
          y.lease.forced = false)
        ∧ (now < x.lease.since + 1024 ∨ x.debugStop = true → y.lease = x.lease))
    ∧ leased (exec (.leaseHeadWait x.coreNo) s) fun y =>
        x.live = true → (∃ rest, s.leaseQueue x.coreNo = x :: rest) → s.leaseFits x [] = true →
        (∀ v ∈ s.rotated x.coreNo, v.exempt = false ∧ (v.lease.active = true ∨ v.lease.queued = true)) →
        y.lease.active = true)
  ∧ (∀ s : State,
       let p := s.power
       let level := fun (s : State) (i c : Nat) => ((s.site i).cluster c).granted
       let now := s.clock.toNat
       let ways := fun c : Context => { c.unmetered with llcGated := 0, llcSince := 0 }
       let evaluates := fun (e : Bool) (f : State → Prop) => p.since + 8192 ≤ now →
         (∀ c ∈ s.contexts, ∀ d ∈ s.contexts, d.num = c.num → d = c) → ∃ t, exec (.powerEvaluation e) s = .next t
           ∧ t = { s with sites := t.sites, power := t.power, contexts := t.contexts, llc := t.llc, free := s.free + 1 }
           ∧ t.contexts.map ways = s.contexts.map ways
           ∧ (∀ c ∈ s.contexts, c.llcSince + 65536 ≤ now → c.llcReads < 8 * c.llcMisses → (t.context c.num).llcGated = c.llcGated - 1) ∧ f t
       (∀ e, now < p.since + 8192 → exec (.powerEvaluation e) s = .next s)
       ∧ (∀ cs rest, p.steps = .lower cs :: rest → evaluates true fun t => t.sites = s.sites
         ∧ t.power = { p with bandCut := p.bandCut + 8, steps := .bands :: p.steps, since := now })
       ∧ (∀ rest, p.steps = .bands :: rest → evaluates true fun t => t.sites = s.sites
         ∧ t.power = { p with idle := p.idle + 1, steps := .idle :: p.steps, since := now })
       ∧ ((∀ cs rest, p.steps ≠ .lower cs :: rest) → (∀ rest, p.steps ≠ .bands :: rest) → ∀ top,
           (∀ i < 8, ∀ c < 16, level s i c ≤ top) → (∃ i < 8, ∃ c < 16, level s i c = top) → 0 < top →
           evaluates true fun t => t.power = { p with steps := t.power.steps, since := now } ∧ t.power.steps.length = p.steps.length + 1
             ∧ ∀ i < 8, ∀ c < 16, (t.site i).cluster c = if level s i c = top then
                 { (s.site i).cluster c with granted := top - 1, lowered := ((s.site i).cluster c).lowered + 1 }
               else (s.site i).cluster c)
       ∧ (p.steps = [] → evaluates false fun t => t.sites = s.sites ∧ t.power = { p with since := now })
       ∧ (∀ rest, p.steps = .bands :: rest → evaluates false fun t => t.sites = s.sites
         ∧ t.power = { p with bandCut := p.bandCut - 8, steps := rest, since := now })
       ∧ (∀ rest, p.steps = .idle :: rest → evaluates false fun t => t.sites = s.sites
         ∧ t.power = { p with idle := p.idle - 1, steps := rest, since := now })
       ∧ (∀ cs rest, p.steps = .lower cs :: rest → cs.Nodup → evaluates false fun t => t.power = { p with steps := rest, since := now }
         ∧ ∀ i < 8, ∀ c < 16, level t i c = if (i, c) ∈ cs then
             min (level s i c + 1) (s.requested i c - (((s.site i).cluster c).lowered - 1)) else level s i c)
       ∧ (∀ i < 8, ∀ c < 16, ∃ t, exec (.performanceLevelChange i c) s = .next t ∧ t = { s with sites := t.sites }
           ∧ level t i c = ((((s.gangsOn i c).flatMap fun g => (s.warpsOf g.uid).filter fun w => !w.parked).map fun w =>
               min w.plreq.toNat (s.context w.ctx).plcap.toNat).foldl max 0) - ((s.site i).cluster c).lowered)
       ∧ ∀ (n : Nat) (k : Fin 4) (c : Context), s.context? n = some c →
           let b := c.buckets[k]
           let parts := b.frac + (now - b.since) * b.rate
           let fill := min (b.depth : Int) (b.fill + (parts / 256 : Nat))
           ∃ t c', exec (.tokenRefill n k) s = .next t ∧ t = { s with contexts := t.contexts } ∧ t.context? n = some c'
             ∧ c' = { c with buckets := c.buckets.set k (if b.depth = 0 then { b with frac := 0, since := now }
                 else { b with fill := fill, frac := (if fill = b.depth then 0 else parts % 256), since := now }) })

/-! ## Events of the fabric and of the host's windows (R305–R325) -/

/-- The answer to a transaction is kept for a copy of it. -/
def Answers (s t : State) (sender ident result : Nat) : Prop :=
  t.fabric.served = s.fabric.served ++ [{ sender := sender, ident := ident, result := result }]

/-- An arrival waits for the supervisor, which is asked for its page. -/
def HeldFor (s t : State) (x : FabricArrival) : Prop :=
  t.nextTag = s.nextTag + 1 ∧ t.fabric = { s.fabric with held := s.fabric.held ++ [{ tag := s.nextTag, arrival := x }] }

/-- A place is at hand: its page is not under migration, no partial value lies in its lines, no poison on its bytes. -/
def AtHand (s : State) (loc n : Nat) : Prop :=
  s.pageLockOf loc = none ∧ (∀ p ∈ s.partials, lineOf p.loc ∉ linesOf loc n) ∧ s.poisoned loc n = false

/-- Translation has found a place and left memory as it was. -/
def still (s t : State) : Bool := decide (t.mem = s.mem ∧ t.poison = s.poison)

/-- The bytes that the elements of a push write one after another, each a whole field at one place: none where one of them is
not. -/
def landsAt (a : Agent) (t : PushArrival) (bad : List Nat) : State → List (Nat × Field) → Option (List (Nat × List Byte))
  | _, [] => some []
  | s, (k, f) :: rest =>
    match s.fieldTargets a f true with
    | (s', .ok [g]) =>
      if f.whole && still s s' then
        (landsAt a t bad (s'.writeField a f [g] (t.codes.getD k 0) (bad.contains k)) rest).map
          ((g.loc, natToBytes (f.width / 8) (t.codes.getD k 0)) :: ·)
      else none
    | _ => none

/-- The bytes that the elements of a step write one after another: SRC[i], or the operation on what stands there; an element
whose place is poisoned writes none (R229, R320). -/
def stepsAt (a : Agent) (t : StepArrival) : State → List Nat → Option (List (Nat × List Byte))
  | _, [] => some []
  | s, i :: rest =>
    let k := if t.op = 0 then 8 else typeBytes t.ty
    let v := bytesToNat ((t.data.drop (k * i)).take k)
    let op := if t.op = 1 then AtomOp.add else if t.op = 2 then .min else .max
    match s.reach a 0 (t.rdst + k * i) k k (t.op != 0) true with
    | (s', .at_ loc kind _) =>
      if still s s' then
        (stepsAt a t (s'.stepElem a kind loc t.op t.ty v false) rest).map
          ((loc, if s'.poisoned loc k then [] else
            natToBytes k (if t.op = 0 then v else atomVal op t.ty (s'.mem.nat loc k) v 0)) :: ·)
      else none
    | _ => none

/-- What elements and then a flag's increment leave of memory: the flag lies apart from them, without poison. -/
def CountedAfter (m : Memory) (ws : List (Nat × List Byte)) (f : Option (Nat × Nat)) (u : Memory) : Prop :=
  ∀ z, u.read z =
    let data := laidAll ws z (m.read z)
    match f with
    | none => data
    | some (_, loc) => laid loc (natToBytes 4 (m.nat loc 4 + 1)) z data
def FlagApart (s : State) (ws : List (Nat × List Byte)) (f : Option (Nat × Nat)) : Prop :=
  ∀ kind loc, f = some (kind, loc) → s.poisoned loc 4 = false
    ∧ ∀ w ∈ ws, w.1 + w.2.length ≤ loc / 8 * 8 ∨ loc / 8 * 8 + 8 ≤ w.1

/-- A landing entry as its bytes give it, and what R317 asks of it beside VALID[0] and the sender. -/
def landingAt (m : Memory) (loc : Nat) : Landing :=
  let f := fun o n => m.nat (loc + o) n
  { dtsr := BitVec.ofNat 1024 (f 0 128), flag := f 128 8, srcdev := f 136 2, valid := f 138 1, perm := f 140 4
    zero := decide (f 139 1 = 0 ∧ f 144 112 = 0) }
def LandingFits (e : Landing) (t : PushArrival) : Prop :=
  let perm := fun j => e.perm / 2 ^ (3 * j) % 8
  Tsr.wellFormed e.dtsr false = true ∧ (slotField e.dtsr 80 2 = 0 ∨ slotField e.dtsr 80 2 = 3) ∧ slotField e.dtsr 89 1 = 0
  ∧ slotField e.dtsr 64 5 = t.fmt ∧ slotRank e.dtsr = t.rank
  ∧ (∀ j < t.rank, perm j < t.rank ∧ ∀ i < t.rank, perm i = perm j → i = j)
  ∧ e.srcdev / 2 ^ 12 % 8 = 0 ∧ e.valid / 2 = 0 ∧ e.zero = true ∧ e.perm / 2 ^ 21 = 0 ∧ (∀ j < 7, t.rank ≤ j → perm j = 0)
  ∧ e.flag % 4 = 0 ∧ e.flag < 2 ^ 57

/-- The checks of R317 that precede the coordinates. -/
def LandingChecks : Prop :=
  ∀ (s : State) (a : Agent) (t : PushArrival),
    let stops := fun (c : Cause) => ∃ u, s.landingOf a t = (u, .error (.fault c 0))
    (s.context? t.ctx = none → stops .range)
    ∧ ∀ c, s.context? t.ctx = some c →
      (c.landtbl.toNat % 4096 ≤ t.entry → stops .range)
      ∧ ∀ s' loc kind peer, t.entry < c.landtbl.toNat % 4096 → s'.partials = [] →
        s.reach a 0 (c.landtbl.toNat / 4096 % 2 ^ 45 * 4096 + 256 * t.entry) 256 1 true false = (s', .at_ loc kind peer) →
        let e := landingAt s'.mem loc
        let sender := e.srcdev / 2 ^ 15 = 1 ∨ e.srcdev % 2 ^ 12 = t.sender
        (s'.poisoned loc 256 = true → stops .poison)
        ∧ (s'.poisoned loc 256 = false →
          (e.valid % 2 = 0 → stops .range) ∧ (e.valid % 2 = 1 → ¬ sender → stops .prot)
          ∧ (e.valid % 2 = 1 → sender → ¬ LandingFits e t → stops .range)
          ∧ (e.valid % 2 = 1 → sender → LandingFits e t → ∃ u, s.landingOf a t = (u, .ok e) ∧ u.mem = s'.mem))

/-- What a peer asks is performed once, its answer kept. No translation or no permission is PROT, an unmapped page waits, a
message for a fenced die is dropped, and what a page under migration holds is answered once it is performed (R165). A push that
fails a check writes nothing (a page that passes to its context is cleared, R356); one that passes lands every element, box index b at y_j = O_j + b_PERM_j, and then counts in its
flag (R316, R317). A step is applied once, every element in turn, then counts in its flag (R320); one that cannot be written is
dropped. That an arrival waits for its page, and is dropped at a fenced die, are the model's choices (logs 57, 58). -/
def Obligations.PeerArrivals : Prop :=
  (∀ (s : State) (t : Inbound),
    let out := exec (.fabricTransactionArrival t) s
    let h := { s with nextUid := s.nextUid + 1 }
    let a := remoteAgent t.ctx (.arrival s.nextUid)
    let (va, n, align, r, w) := inboundAccess t.op
    let answers := fun (x : State) (code : Nat) => ∃ u, out = .next u ∧ Answers x u t.sender t.ident code
    (s.knowsTx t.sender t.ident = true → out = .next s)
    ∧ (s.knowsTx t.sender t.ident = false → s.context? t.ctx = none → answers h Cause.prot.code)
    ∧ (s.knowsTx t.sender t.ident = false → s.context? t.ctx ≠ none → s.holdsFor (.arrival s.nextUid) = false →
      (∀ x c, h.reach a 0 va n align r w = (x, .fails c) →
        (c ≠ .pagefault → answers x Cause.prot.code)
        ∧ (c = .pagefault → ∃ u, out = .next u ∧ HeldFor x u (.access t)))
      ∧ ∀ x loc kind peer, h.reach a 0 va n align r w = (x, .at_ loc kind peer) →
        let writes := fun (bs : List Byte) => ∃ u, out = .next u ∧ Answers x u t.sender t.ident 0
          ∧ ∀ z, u.mem.read z = laid loc bs z (x.mem.read z)
        (x.onFenced loc = true → out = .next x)
        ∧ (x.onFenced loc = false → AtHand x loc n → x.mem.wf →
          (∀ bs, t.op = .store va bs → writes bs)
          ∧ (t.op = .load va n → writes [])
          ∧ ∀ op ty v, t.op = .amo op ty va v →
              let k := 8 * typeBytes ty
              writes (natToBytes (typeBytes ty)
                (atomVal (atomOpOf op) ty (x.mem.nat loc (typeBytes ty)) (v.toNat % 2 ^ k) (v.toNat / 2 ^ k % 2 ^ k))))
        ∧ (x.onFenced loc = false → x.pageLockOf loc = none → x.poisoned loc n = true → r = true →
            answers x Cause.poison.code)
        ∧ (x.onFenced loc = false → x.pageLockOf loc ≠ none → w = true → ∃ u, out = .next u ∧ u.mem = x.mem
            ∧ u.fabric.served = x.fabric.served ∧ u.knowsTx t.sender t.ident = true)))
  ∧ (∀ (s : State) (t : PushArrival),
    let out := exec (.pushReceipt t) s
    let fin := Finish.push t.sender t.ident
    (s.knowsTx t.sender t.ident = true → out = .next s)
    ∧ (s.knowsTx t.sender t.ident = false →
      (∀ x f, s.receivePush t [] fin = (x, .done f) → out = .next x ∧ (s.pageLocks = [] →
        x.fabric.served = s.fabric.served ++ [{ sender := t.sender, ident := t.ident, result := 0 }]))
      ∧ (∀ x, s.receivePush t [] fin = (x, .dropped) → out = .next s)
      ∧ (∀ x c a, s.receivePush t [] fin = (x, .stopped (.fault c a)) →
          ∃ u, out = .next u ∧ Answers x u t.sender t.ident c.code ∧ u.mem = x.mem)
      ∧ ∀ x a, s.receivePush t [] fin = (x, .stopped (.page a)) → ∃ u, out = .next u ∧ HeldFor x u (.push t)))
  ∧ (∀ (s x : State) (t : PushArrival) bad fin stop, s.partials = [] → s.receivePush t bad fin = (x, stop) → (∀ f, stop ≠ .done f) →
    (∀ g ∈ x.poison, g ∈ s.poison) ∧ ∀ z, x.mem.read z = s.mem.read z
      ∨ x.mem.read z = 0 ∧ ∃ o ∈ s.owners, z / 2 ^ o.size = o.page / 2 ^ o.size ∧ t.ctx ∉ o.ctxs)
  ∧ LandingChecks
  ∧ (∀ (s s₁ s₂ : State) (t : PushArrival) (bad : List Nat) (fin : Finish) (e : Landing),
    let a := remoteAgent t.ctx (.arrival s.nextUid)
    let box := fun i => t.box.getD i 1
    let index := fun k : Nat => (List.range t.rank).map fun i => k / ((List.range i).map box).prod % box i
    let y := fun k : Nat => (List.range t.rank).map fun j =>
      (((if j < 4 then (t.origin.extractLsb' (16 * j) 16).toNat else 0) + (index k).getD (e.perm / 2 ^ (3 * j) % 8) 0 : ℕ) : Int)
    let count := ((List.range t.rank).map box).prod
    let into := (List.range count).filterMap fun k =>
      if insideOf e.dtsr (y k) then some (k, elementOf e.dtsr (y k)) else none
    { s with nextUid := s.nextUid + 1 }.landingOf a t = (s₁, .ok e) → slotField e.dtsr 64 5 ≤ 24 → slotRank e.dtsr = t.rank →
    s.partials = [] → s.pageLocks = [] → s.mem.wf →
    (slotField e.dtsr 88 1 = 0 → (∃ k < count, insideOf e.dtsr (y k) = false) →
      ∃ x, s.receivePush t bad fin = (x, .stopped (.fault .range 0)))
    ∧ (slotField e.dtsr 88 1 = 1 ∨ (∀ k < count, insideOf e.dtsr (y k) = true) →
      ∀ f ws, s₁.landable a (into.map (·.2)) e.flag = (s₂, .done f) → landsAt a t bad s₂ into = some ws → FlagApart s₂ ws f →
        ∃ x, s.receivePush t bad fin = (x, .done f) ∧ (f = none ↔ e.flag = 0) ∧ CountedAfter s₂.mem ws f x.mem
          ∧ (ws.Pairwise (fun p q => p.1 + p.2.length ≤ q.1 / 8 * 8 ∨ q.1 + q.2.length ≤ p.1 / 8 * 8) →
              ∀ (n k : Nat) (g : Field) (w : Nat × List Byte), into[n]? = some (k, g) → k ∈ bad → ws[n]? = some w → x.poisoned w.1 w.2.length = true)))
  ∧ (∀ (s : State) (t : StepArrival),
    let out := exec (.cstepReceipt t) s
    let h := { s with nextUid := s.nextUid + 1 }
    let a := remoteAgent t.ctx (.arrival s.nextUid)
    let k := if t.op = 0 then 8 else typeBytes t.ty
    (s.knowsStep t = true → out = .next s)
    ∧ (s.knowsStep t = false → s.context? t.ctx = none → out = .next h)
    ∧ (s.knowsStep t = false → s.context? t.ctx ≠ none →
      (∀ c va, h.stepStop a (stepPlaces t) = some (c, va) →
        (c ≠ .pagefault → out = .next h) ∧ (c = .pagefault → ∃ u, out = .next u ∧ HeldFor h u (.step t)))
      ∧ (h.stepStop a (stepPlaces t) = none → s.pageLocks = [] → (∃ s₀ f, h.flagPlace a t.rflag = (s₀, .ok f)) →
        (∃ u, out = .next u ∧ u.fabric.steps = s.fabric.steps ++ [{ sender := t.sender, collid := t.collid, seq := t.seq }])
        ∧ ∀ s₀ f ws, h.flagPlace a t.rflag = (s₀, .ok f) → s.partials = [] → s.mem.wf →
            stepsAt a t s₀ (List.range (t.data.length / k)) = some ws → FlagApart s₀ ws f →
            ∃ u, out = .next u ∧ CountedAfter s₀.mem ws f u.mem)))
  ∧ ∀ (s : State) (a : Agent) (va : Nat), s.flagPlace a 0 = (s, .ok none)
    ∧ ∀ x loc kind peer, va ≠ 0 → s.reach a 0 va 4 4 false true = (x, .at_ loc kind peer) →
      s.flagPlace a va = (x, .ok (some (kind, loc)))

/-- A PUT or GET moves the doublewords of a page one after another, each from one side to the other, up to what stops it
(R318). -/
def RangeMoves : Prop :=
  ∀ (s s' : State) (a : Agent) (put : Bool) (rva sp lva i : Nat) (rest : List Nat) (ts : List Target),
    let far : Field := { space := 0, addr := rva + 8 * i, bit := 0, width := 64 }
    let near : Field := { space := sp, addr := lva + 8 * i, bit := 0, width := 64 }
    let one := s.moveElem a (some (if put then near else far)) (if put then far else near)
    s.moveRange a put rva sp lva [] = (s, none)
    ∧ (∀ e, one = (s', ts, some e) → s.moveRange a put rva sp lva (i :: rest) = (s', some e))
    ∧ (one = (s', ts, none) → s.moveRange a put rva sp lva (i :: rest) = s'.moveRange a put rva sp lva rest)

/-- A step performs its elements one after another: element i of SRC is read and stored at RDST, or combined with what stands
there, which a poisoned place discards; poison comes along (R229, R320). Then its flag counts it. -/
def StepMoves : Prop :=
  (∀ (s : State) (a : Agent) (d : StepDesc) (i : Nat) (rest : List Nat),
    let k := if d.op = 0 then 8 else typeBytes d.ty
    let src : Field := { space := 0, addr := d.src + k * i, bit := 0, width := 8 * k }
    let dst : Field := { space := 0, addr := d.rdst + k * i, bit := 0, width := 8 * k }
    s.stepElems a d [] = (s, none)
    ∧ (∀ u e, s.fieldTargets a src false = (u, .error e) → s.stepElems a d (i :: rest) = (u, some (stopOf e)))
    ∧ ∀ u ts, s.fieldTargets a src false = (u, .ok ts) →
        let (u', v, bad) := u.readField a src ts
        (∀ x e, u'.fieldTargets a dst true = (x, .error e) → s.stepElems a d (i :: rest) = (x, some (stopOf e)))
        ∧ ∀ x g, u'.fieldTargets a dst true = (x, .ok [g]) →
            s.stepElems a d (i :: rest) = (x.stepElem a g.kind g.loc d.op d.ty v bad).stepElems a d rest)
  ∧ (∀ (s : State) (a : Agent) (kind loc op ty v : Nat) (bad : Bool), a.core = none → s.pageLockOf loc = none →
      let k := if op = 0 then 8 else typeBytes ty
      let o := if op = 1 then AtomOp.add else if op = 2 then .min else .max
      (∀ p ∈ s.partials, lineOf p.loc ∉ linesOf loc k) → s.mem.wf →
      let r := s.stepElem a kind loc op ty v bad
      (bad = true → r.poisoned loc k = true)
      ∧ (s.poisoned loc k = true → r.mem = s.mem ∧ r.poisoned loc k = true)
      ∧ (s.poisoned loc k = false → ∀ z, r.mem.read z =
          laid loc (natToBytes k (if op = 0 then v else atomVal o ty (s.mem.nat loc k) v 0)) z (s.mem.read z)))
  ∧ ∀ (s : State) (a : Agent) (kind loc v : Nat) (o : AtomOp), a.core = none → AtHand s loc 4 → s.mem.wf →
      o = .add ∨ o = .or → s.atFlag a none o v = s
      ∧ ∀ z, (s.atFlag a (some (kind, loc)) o v).mem.read z = laid loc (natToBytes 4
          (if o = .add then s.mem.nat loc 4 + v else s.mem.nat loc 4 ||| v)) z (s.mem.read z)

/-- A peer's answer: a part of a lane's access has been performed where it was sent, a load's and an atomic's old value joining
what the instruction will write, or the lane fails with its cause, or poison kills it; a command goes on with its page, ends,
or stops with the cause. A transaction without an answer for 2^20 cycles is
sent again up to RETRYMAX times; then its lane is killed, its command stops with COLLFAIL. A failure notice marks the collective
and stops its steps. When an access travels, the order of answers, and what of a lost access is performed, are the
model's choices (logs 18, 37, 38). -/
def Obligations.PeerAnswers : Prop :=
  (∀ (s : State) (k res : Nat) (t : Transaction), s.fabric.tx.find? (·.id == k) = some t →
    let out := exec (.fabricAcknowledgement k res) s
    let s₁ := s.dropTx k
    (∀ w pend lane part loc job f, t.kind = .lane w pend lane part loc job → lane < 32 → s₁.Focused f w →
      let l := Fin.ofNat 32 lane
      let j := job.part part
      let g := job.farTarget part loc t.peer
      let fails := fun (r : State) (b : Nat × Cause × Word64) => r = { f with warp := { f.warp with
        pend := f.warp.pend.map fun p =>
          if p.id = pend ∧ ∀ q ∈ p.faults, q.1 ≠ lane then { p with faults := p.faults ++ [b] } else p } }
      let gains := fun (f : State) (ws : List RegWrite) => { f.warp with pend := f.warp.pend.map fun p : Pending =>
        if p.id = pend then { p with writes := p.writes ++ ws } else p }
      let Words := fun (ws : List RegWrite) (x : Nat → Word32) =>
        let live := lanesMask [lane] &&& ~~~((f.warp.pend.find? (·.id == pend)).map (·.killed)).getD 0
        ws.length = j.width ∧ ∀ q < j.width, ∃ v, ws[q]? = some (.v (Fin.ofNat 64 (j.base + q)) live v) ∧ v[l] = x q
      (s.earlierLane t w = true → out = .next s)
      ∧ (s.earlierLane t w = false →
        (causeOf res = none → AtHand f loc g.n → f.mem.wf →
          let n := if j.stack then 4 else j.kind.bytes
          let old := bytesToNat (f.mem.readBytes loc n)
          (∀ z, j.kind = .store z → ∃ r : State, out = .next (r.focus s.warp.uid) ∧ Performed f r j (lanesMask [lane]) [(l, .ok [g])]
            ∧ r.warp = f.warp)
          ∧ (∀ z, j.kind = .load z → ∃ (r : State) (ws : List RegWrite), out = .next (r.focus s.warp.uid) ∧ (∀ x, r.mem.read x = f.mem.read x)
              ∧ r.warp = gains f ws ∧ Words ws fun q =>
                if subBits z = 0 then BitVec.ofNat 32 (old / 2 ^ (32 * q))
                else BitVec.ofNat 32 (old / 2 ^ (j.bits[l]).toNat % 2 ^ subBits z))
          ∧ ∀ op ty returns, j.kind = .atomic op ty returns → ∃ (r : State) (ws : List RegWrite), out = .next (r.focus s.warp.uid)
              ∧ (let b := (j.data[l]).toNat
                 let m := 2 ^ (8 * typeBytes ty)
                 ∀ x, r.mem.read x = laid loc (natToBytes (typeBytes ty)
                   (atomVal op ty (f.mem.nat loc (typeBytes ty)) (b % m) (if returns then b / m % m else 0))) x (f.mem.read x))
              ∧ r.warp = gains f ws ∧ (returns = false → ws = [])
              ∧ (returns = true → Words ws fun q => BitVec.ofNat 32 (old / 2 ^ (32 * q))))
        ∧ ∀ c, causeOf res = some c →
          (c ≠ .poison → ∃ r : State, out = .next (r.focus s.warp.uid) ∧ fails r (lane, c, job.partEa l part))
          ∧ (c = .poison → (∃ p ∈ f.warp.pend, p.id = pend) → ∃ r : State, out = .next (r.focus s.warp.uid)
              ∧ r = { f with warp := r.warp } ∧ r.warp.dead = f.warp.dead ||| lanesMask [lane])))
    ∧ ∀ cmd part, t.kind = .command cmd part →
      (s.command? cmd = none → out = .next s₁)
      ∧ ∀ c, s.command? cmd = some c →
        (c.phase ≠ .sent → out = .next s)
        ∧ (∀ e, c.phase = .sent → causeOf res = some e → s.holdsFor (.command cmd) = false → ∃ r, out = .next r ∧ Stopped s₁ r c e 0)
        ∧ (c.phase = .sent → causeOf res = none →
          (∀ x v o g, c.kind = .push x v o g → s.holdsFor (.command cmd) = false →
            ∃ r, out = .next r ∧ Ended s₁ r c ∧ r.mem = s.mem)
          ∧ (∀ put rva len sp lva, (c.kind = if put then .put rva len sp lva else .get rva len sp lva) →
            let p := (pieces rva len).getD part (0, 0)
            let far := s₁.remotePeers (s₁.engineAgent c) put [rva + p.1]
            (∀ s' cause addr, far = (s', .error (.fault cause addr)) → s'.holdsFor (.command cmd) = false →
              ∃ r, out = .next r ∧ Stopped s' r c cause addr)
            ∧ (∀ s' va, far = (s', .error (.page va)) → ∃ r, out = .next r ∧ Paused s r c va)
            ∧ ∀ s' ps s₂, far = (s', .ok ps) →
              s'.moveRange (s₁.engineAgent c) put rva sp lva.toNat ((List.range (p.2 / 8)).map (p.1 / 8 + ·)) = (s₂, none) →
              (s₂.commandSent cmd = true → out = .next s₂)
              ∧ (s₂.commandSent cmd = false → s₂.holdsFor (.command cmd) = false →
                  ∃ r, out = .next r ∧ Ended s₂ r c ∧ r.mem = s₂.mem))
          ∧ ∀ d s₀ f s₂, c.kind = .step d → s₁.flagPlace (s₁.engineAgent c) d.rflag = (s₀, .ok f) →
            s₀.stepElems (s₁.engineAgent c) d (List.range (d.len / if d.op = 0 then 8 else typeBytes d.ty)) = (s₂, none) →
            let s₃ := s₂.atFlag (s₁.engineAgent c) f .add 1
            s₃.holdsFor (.command cmd) = false → ∃ r, out = .next r ∧ Ended s₃ r c ∧ r.mem = s₃.mem))
  ∧ RangeMoves ∧ StepMoves
  ∧ (∀ (s : State) (k : Nat) (t : Transaction) (x : Context), s.fabric.tx.find? (·.id == k) = some t →
    s.context? t.ctx = some x →
    let out := exec (.fabricRetransmission k) s
    let due := t.sentAt + 2 ^ 20 ≤ s.clock.toNat
    (¬ due → out = .next s)
    ∧ (due → t.retries < x.retrymax.toNat → ∃ r y, out = .next r ∧ r = { s with fabric := r.fabric, contexts := r.contexts }
        ∧ r.fabric = { s.fabric with tx := s.fabric.tx.map fun u =>
            if u.id = k then { u with retries := u.retries + 1, sentAt := s.clock.toNat } else u }
        ∧ r.context? t.ctx = some y ∧ y = { x with peers := y.peers }
        ∧ y.peer t.peer = { x.peer t.peer with retries := (x.peer t.peer).retries + 1 })
    ∧ (due → x.retrymax.toNat ≤ t.retries →
      (∀ w pend lane part loc job, t.kind = .lane w pend lane part loc job → s.earlierLane t w = true → out = .next s)
      ∧ (∀ w pend lane part loc job f, t.kind = .lane w pend lane part loc job → lane < 32 → (s.dropTx k).Focused f w →
        s.earlierLane t w = false →
        ∃ r : State, out = .next (r.focus s.warp.uid) ∧ inMask r.warp.dead (Fin.ofNat 32 lane) = true
          ∧ (∀ u ∈ r.fabric.tx, u.id ≠ k) ∧ (∀ z, job.kind = .load z → r = f.killLate pend (lanesMask [lane]) 0))
      ∧ ∀ cmd part c, t.kind = .command cmd part → s.command? cmd = some c → s.Single c.warp → s.pageLocks = [] →
          ∃ r, out = .next r ∧ (∀ d ∈ r.cmds, d.id ≠ c.id) ∧ (∀ u ∈ r.fabric.tx, ∀ p, u.kind ≠ .command cmd p)
            ∧ ∀ y, r.findWarp c.warp = some y → ∃ h ∈ y.heldFaults, h.cause = .collfail ∧ h.pc = c.pc ∧ h.cls = c.cls))
  ∧ ∀ (s : State) (sender ctx collid rflag : Nat) (c : Context), s.context? ctx = some c →
    let marks := c.failed.filter (· != collid) ++ [collid]
    let c₁ := { c with failed := marks.drop (marks.length - 64) }.setPeer
      { c.peer sender with fails := (c.peer sender).fails + 1 }
    let a := remoteAgent ctx
    let t := s.setContext c₁
    ∃ r y, exec (.collfailNotice sender ctx collid rflag) s = .next r ∧ r.context? ctx = some y ∧ y.num = c.num
      ∧ collid ∈ y.failed ∧ y.failed.length ≤ 64 ∧ (c.failed.length ≤ 63 → ∀ x ∈ c.failed, x ∈ y.failed)
      ∧ y.peer sender = { c.peer sender with fails := (c.peer sender).fails + 1 }
      ∧ (s.pageLocks = [] → ∀ k ∈ r.cmds, k ∈ s.cmds ∧ ¬ (k.ctx = ctx ∧ k.steps collid = true))
      ∧ (s.cmds = [] → rflag ≠ 0 →
        (∀ x loc kind peer, AtHand x loc 4 → x.mem.wf → t.reach a 0 rflag 4 4 false true = (x, .at_ loc kind peer) →
          ∀ z, r.mem.read z = laid loc (natToBytes 4 (x.mem.nat loc 4 ||| 2 ^ 31)) z (x.mem.read z))
        ∧ (∀ x, t.reach a 0 rflag 4 4 false true = (x, .fails .pagefault) → HeldFor x r (.notice ctx rflag))
        ∧ ∀ x e, e ≠ .pagefault → t.reach a 0 rflag 4 4 false true = (x, .fails e) → r = x)

/-! ## Mailbox, errors, fences and reset (R27, R29, R167, R274, R341, R349, R350, R356–R358) -/

/-- The slot of the event ring that the next record takes. -/
def eventSlot (b : Mailbox) : Nat := hostBase + b.evbase.toNat + 1024 * (b.evtail.toNat % 2 ^ b.evsize.toNat)

/-- The command at the head has been taken and answered: a record of KIND 3 with its TAG, CAUSE 1 where it is refused. -/
def Replied (s t : State) (c : MailCommand) (refused : Bool) : Prop :=
  t.mailbox = { s.mailbox with cmdhead := s.mailbox.cmdhead + 1, evtail := s.mailbox.evtail + 1 }
  ∧ t.mem.nat (eventSlot s.mailbox) 4 = refused.toNat + 3 * 2 ^ 8 ∧ t.mem.nat (eventSlot s.mailbox + 4) 4 = c.tag

/-- The opcodes of the mailbox commands, and the events that perform them. -/
noncomputable def mailOpcodes : List (Nat × Instr) :=
  [(1, Instr.ctxnew), (2, Instr.ctxend), (3, Instr.qinit), (4, Instr.psgrant)]
  ++ [(5, Instr.debugMark), (6, Instr.tlbflush), (7, Instr.faultdone), (8, Instr.attest)]

/-- The command at the head of the ring is performed and answered, or refused: an opcode without a command, bytes that must be
zero, an argument out of range, no such context, no room. What is refused, what QINIT resets, and the
layout of an attestation report are the model's choices (logs 76, 60, 77). -/
def Obligations.MailboxCommands : Prop :=
  (∀ e ∈ mailOpcodes, ∀ s : State,
    let out := exec e.2 s
    (s.headCommand = none → out = .next s)
    ∧ ∀ c, s.headCommand = some c → 4 ≤ s.mailbox.evsize.toNat → s.mailbox.evsize.toNat ≤ 12 →
      s.mailbox.evtail - s.mailbox.evhead ≠ BitVec.ofNat 64 (2 ^ s.mailbox.evsize.toNat) → s.mem.wf →
      (c.opcode = 0 ∨ 8 < c.opcode ∨ (c.opcode = e.1 ∧ c.clean = false) → ∃ t, out = .next t ∧ Replied s t c true)
      ∧ (c.opcode ≠ 0 → c.opcode ≤ 8 → c.opcode ≠ e.1 → out = .next s))
  ∧ ∀ (s : State) (c : MailCommand), s.headCommand = some c → c.clean = true → 4 ≤ s.mailbox.evsize.toNat →
    s.mailbox.evsize.toNat ≤ 12 → s.mailbox.evtail - s.mailbox.evhead ≠ BitVec.ofNat 64 (2 ^ s.mailbox.evsize.toNat) →
    s.mem.wf →
    let n := c.arg 8 1
    let clean := ∀ l ∈ s.llc, l.dirty = false
    let others := fun (m : Nat) (t : State) =>
      ∀ k, k ≠ m → (t.context? k).map Context.unmetered = (s.context? k).map Context.unmetered
    let refuses := fun i => ∃ t, exec i s = .next t ∧ Replied s t c true
    let does := fun i (f : State → Prop) => ∃ t, exec i s = .next t ∧ Replied s t c false ∧ f t
    (c.opcode = 1 →
      (7 < c.arg 16 1 ∨ 1 < c.arg 17 1 ∨ (∀ m, 1 ≤ m → m < 64 → s.context? m ≠ none) → refuses .ctxnew)
      ∧ ∀ m, c.arg 16 1 ≤ 7 → c.arg 17 1 ≤ 1 → 1 ≤ m → m < 64 → s.context? m = none →
          (∀ k, 1 ≤ k → k < m → s.context? k ≠ none) → does .ctxnew fun t =>
            let x : Context := { Context.start m with
              ptbase := BitVec.ofNat 64 (c.arg 8 8)
              plcap := BitVec.ofNat 3 (c.arg 16 1)
              debug := c.arg 17 1 == 1
              asid := BitVec.ofNat 16 m }
            (t.context? m).map Context.unmetered = some x.unmetered ∧ others m t
            ∧ (clean → t.contexts = s.contexts ++ [x]) ∧ ∀ e, e ∈ t.tlb ↔ e ∈ s.tlb ∧ e.asid ≠ BitVec.ofNat 16 m)
    ∧ (c.opcode = 2 → (s.context? n = none → refuses .ctxend)
      ∧ (s.context? n ≠ none → ∃ t, exec .ctxend s = .next t ∧ t.mailbox.cmdhead = s.mailbox.cmdhead + 1
          ∧ t.context? n = none ∧ (∀ k, k ≠ n → t.context? k = s.context? k) ∧ (∀ w ∈ t.warps, w.ctx = n → w.live = false)
          ∧ (∀ k ∈ t.cmds, k.ctx ≠ n) ∧ ∀ g ∈ t.grids, g.ctx ≠ n))
    ∧ (c.opcode = 3 →
      let legal := n < 64 ∧ s.context? (c.arg 9 1) ≠ none ∧ c.arg 10 1 ≤ 1 ∧ c.arg 16 8 % 4096 = 0 ∧ c.arg 16 8 < 2 ^ 57
        ∧ (c.arg 24 1 = 0 ∨ (4 ≤ c.arg 24 1 ∧ c.arg 24 1 ≤ 16)) ∧ ∀ g ∈ s.grids, g.queue = n → g.status ≠ none
      (¬ legal → refuses .qinit)
      ∧ (legal → does .qinit fun t =>
          t.queue n = { base := BitVec.ofNat 64 (c.arg 16 8), size := c.arg 24 1, head := 0, tail := 0, ctx := c.arg 9 1
                        device := c.arg 10 1 == 1, quant := BitVec.ofNat 32 (c.arg 28 4), err := false }
          ∧ (∀ q, q ≠ n → t.queue q = s.queue q) ∧ ∀ g, g ∈ t.grids ↔ g ∈ s.grids ∧ g.queue ≠ n))
    ∧ (c.opcode = 4 →
      let bytes := c.arg 12 4 * 2 ^ 25
      let fits := ((s.contexts.filter (·.num != n)).map (·.psBytes)).sum + bytes ≤ 12 * 2 ^ 30 / 8 * s.memoryDies.length
      (s.context? n = none ∨ ¬ fits → refuses .psgrant)
      ∧ ∀ x, s.context? n = some x → fits → does .psgrant fun t =>
          (t.context? n).map Context.unmetered = some (Context.unmetered { x with psBytes := bytes, psHost := true })
          ∧ others n t ∧ (clean → ∀ k, t.context? k = if k = n then some { x with psBytes := bytes, psHost := true } else s.context? k)
          ∧ ∀ a, psBase n ≤ a → a < psBase n + 2 ^ 40 → t.mem.read a = 0 ∧ t.poisoned a 1 = false)
    ∧ (c.opcode = 5 → (s.context? n = none ∨ 1 < c.arg 9 1 → refuses .debugMark)
      ∧ ∀ x, s.context? n = some x → c.arg 9 1 ≤ 1 → does .debugMark fun t =>
          t.context? n = some { x with debug := c.arg 9 1 == 1 } ∧ ∀ k, k ≠ n → t.context? k = s.context? k)
    ∧ (c.opcode = 6 → (s.context? n = none ∨ 2 < c.arg 9 1 → refuses .tlbflush)
      ∧ ∀ x, s.context? n = some x → c.arg 9 1 ≤ 2 → s.shootdowns = [] →
          let names := fun e : TlbEntry => (c.arg 9 1 = 2 ∨ e.asid = x.asid)
            ∧ (c.arg 9 1 = 0 → c.arg 16 8 / 2 ^ e.map.size = e.map.vpage)
          let busy := fun u => (∃ i < 648, tlbUnitAt i = u) ∧ s.unitBusy u = true
          ((∀ e ∈ s.tlb, ¬ names e) → (∀ u, ¬ busy u) → does .tlbflush fun t => t.tlb = s.tlb ∧ t.shootdowns = [])
          ∧ ((∃ e ∈ s.tlb, names e) ∨ (∃ u, busy u) → ∃ t d, exec .tlbflush s = .next t ∧ t.mailbox.cmdhead = s.mailbox.cmdhead + 1
              ∧ t.mailbox.evtail = s.mailbox.evtail ∧ t.shootdowns = [d] ∧ d.tag = some c.tag
              ∧ ∀ u, u ∈ d.units ↔ (∃ e ∈ s.tlb, names e ∧ e.unit = u) ∨ busy u))
    ∧ (c.opcode = 7 →
      let tag := c.arg 8 4
      let mapped := c.arg 12 1 == 0
      let paused := fun k : Command => ∃ va b, k.phase = .paused tag va b
      let quiet := (∀ g ∈ s.grids, g.wait ≠ some tag) ∧ ∀ h ∈ s.fabric.held, h.tag ≠ tag
      (1 < c.arg 12 1 ∨ s.awaits tag = false → refuses .faultdone)
      ∧ (c.arg 12 1 ≤ 1 → s.awaits tag = true → quiet → (∀ w ∈ s.warps, s.Single w.uid) →
        ((∀ k ∈ s.cmds, ¬ paused k) → does .faultdone fun t => t.warps = s.warps.map fun w => { w with
          stall := if w.stall = some tag then none else w.stall
          unmapped := if w.stall = some tag then !mapped else w.unmapped
          log := w.log.map fun (e : LogEntry) => if e.tag = tag then { e with answer := some mapped } else e })
        ∧ ∀ k va, (∀ w ∈ s.warps, w.stall ≠ some tag ∧ ∀ e ∈ w.log, e.tag ≠ tag) → s.cmds = [k] →
            k.phase = .paused tag va false →
            (mapped = true → does .faultdone fun t => t.cmds = [{ k with phase := .paused tag va true }])
            ∧ (mapped = false → does .faultdone fun t => t.cmds = []
                ∧ ∀ x, t.findWarp k.warp = some x → ∃ h ∈ x.heldFaults, h.cause = .pagefault ∧ h.addr = va)))
    ∧ (c.opcode = 8 →
      let va := c.arg 40 8
      (va % 4096 ≠ 0 ∨ 2 ^ 57 ≤ va ∨ 32768 ≤ s.attests → refuses .attest)
      ∧ (va % 4096 = 0 → va < 2 ^ 57 → s.attests < 32768 → does .attest fun t => t.attests = s.attests + 1
          ∧ (hostBase + va + 4096 ≤ eventSlot s.mailbox ∨ eventSlot s.mailbox + 1024 ≤ hostBase + va →
              let body := s.report (c.args.take 32)
              ∀ i < 4096, t.mem.read (hostBase + va + i)
                = (body ++ (List.range 4096).map (Config.signature body s.attests)).getD i 0)))

/-- A flit sent again and a failed port are counted, for the 24 ports there are. A snoop pushes the registered words and partial
values of its sector or line, and gives up its ownership, before it is answered. The host reaches a partition that is granted
to it and nothing beyond it, its own memory, and BAR 0; a sharing device writes its region (which sectors and lines are
held is the model's choice: logs 92, 17).
A write of 4 or 8 naturally aligned bytes changes the register of the mailbox or queue that it falls in; any other write is
ignored, and so is one of CMDHEAD or EVTAIL. EVLOST loses the bits written as 1. A read of that form gives the register's bytes,
zero where BAR 0 is reserved; any other read gives all ones.
Which writes are ignored is the model's choice (log 60). -/
def Obligations.LinkAndHost : Prop :=
 ((∀ (s : State) (port : Nat),
    let at_ := fun (s : State) => ((s.fabric.resent.find? (·.1 == port)).map (·.2)).getD 0
    (24 ≤ port → exec (.linkFlitResend port) s = .next s ∧ exec (.portFailure port) s = .next s)
    ∧ (port < 24 → ∃ t, exec (.linkFlitResend port) s = .next t ∧ at_ t = at_ s + 1
      ∧ t = { s with fabric := { s.fabric with resent := t.fabric.resent } })
    ∧ (port < 24 → ∃ t, exec (.portFailure port) s = .next t ∧ port ∈ t.fabric.failedPorts
      ∧ (∀ p ∈ s.fabric.failedPorts, p ∈ t.fabric.failedPorts)
      ∧ t = { s with fabric := { s.fabric with failedPorts := t.fabric.failedPorts } }))
  ∧ (∀ (s : State) (x : Nat), ∃ t, exec (.hostSnoop x) s = .next t
    ∧ (∀ p ∈ t.partials, lineOf p.loc ≠ lineOf x) ∧ (∀ n, n ∈ t.sectors ↔ n ∈ s.sectors ∧ n ≠ x / 64)
    ∧ (∀ r ∈ t.regs, r.line = lineOf x → r.words &&& wordMask (x / 64 * 64) 64 = 0)
    ∧ ((∀ p ∈ s.partials, lineOf p.loc ≠ lineOf x) → t = { s with regs := t.regs, sectors := t.sectors }))
  ∧ (∀ (s : State) (x : Nat), ∃ t, exec (.backInvalidateSnoop x) s = .next t
    ∧ (∀ p ∈ t.partials, lineOf p.loc ≠ lineOf x) ∧ (∀ r ∈ t.regs, r.line ≠ lineOf x)
    ∧ t.llc = s.llc.filter (·.line != lineOf x)
    ∧ ((∀ p ∈ s.partials, lineOf p.loc ≠ lineOf x) →
        t = { s with regs := t.regs, llc := t.llc, contexts := t.contexts }
        ∧ ∀ n, (t.context? n).map Context.unmetered = (s.context? n).map Context.unmetered))
  ∧ (∀ (s : State) (ctx off : Nat),
    let granted := fun n => ∃ c, s.context? ctx = some c ∧ c.psHost = true ∧ off + n ≤ c.psBytes
    let loc := psBase ctx + off
    let clear := fun n => ∀ p ∈ s.partials, lineOf p.loc ∉ linesOf loc n
    (∀ n, ¬ granted n → exec (.hostMemAccess (.read ctx off n)) s = .next s)
    ∧ (∀ bs, ¬ granted bs.length → exec (.hostMemAccess (.write ctx off bs)) s = .next s)
    ∧ (∀ n, granted n → clear n → ∃ t, exec (.hostMemAccess (.read ctx off n)) s = .next t ∧ t.mem = s.mem
        ∧ t.hostValue = s.mem.readBytes loc n)
    ∧ ∀ bs, granted bs.length → clear bs.length → s.pageLockOf loc = none → s.mem.wf →
        ∃ t, exec (.hostMemAccess (.write ctx off bs)) s = .next t ∧ ∀ z, t.mem.read z = laid loc bs z (s.mem.read z))
  ∧ ∀ (s : State) (loc : Nat),
    let clear := fun lo n => ∀ p ∈ s.partials, lineOf p.loc ∉ linesOf lo n
    (∀ n, loc + n ≤ 2 ^ 64 → clear (hostBase + loc) n → ∃ t, exec (.hostMemAccess (.hostRead loc n)) s = .next t
      ∧ t.mem = s.mem ∧ t.hostValue = s.mem.readBytes (hostBase + loc) n
      ∧ ∀ i < n, (hostBase + loc + i) / 64 ∉ t.sectors)
    ∧ (∀ bs, loc + bs.length ≤ 2 ^ 64 → clear (hostBase + loc) bs.length → s.mem.wf →
      ∃ t, exec (.hostMemAccess (.hostWrite loc bs)) s = .next t
        ∧ (∀ z, t.mem.read z = laid (hostBase + loc) bs z (s.mem.read z))
        ∧ ∀ i < bs.length, (hostBase + loc + i) / 64 ∉ t.sectors)
    ∧ (∀ bs, loc + bs.length ≤ 2 ^ 51 → clear loc bs.length → s.mem.wf →
      ∃ t, exec (.hostMemAccess (.deviceWrite loc bs)) s = .next t
        ∧ (∀ z, t.mem.read z = laid loc bs z (s.mem.read z))
        ∧ ∀ i < bs.length, ∀ l ∈ t.llc, l.line ≠ lineOf (loc + i))
    ∧ (∀ n, 2 ^ 64 < loc + n → exec (.hostMemAccess (.hostRead loc n)) s = .next s)
    ∧ (∀ bs, 2 ^ 64 < loc + bs.length → exec (.hostMemAccess (.hostWrite loc bs)) s = .next s)
    ∧ ∀ bs, 2 ^ 51 < loc + bs.length → exec (.hostMemAccess (.deviceWrite loc bs)) s = .next s)
  ∧ (∀ (s : State) (v : Word64),
       let b := s.mailbox
       let gives := fun (out : Host.Outcome State Fault Refusal) (m : Mailbox) => out = .next { s with mailbox := m }
       let size := v = 0 ∨ (4 ≤ v.toNat ∧ v.toNat ≤ 12)
       gives (exec (.evlostClear v) s) { b with evlost := b.evlost &&& ~~~v }
       ∧ (∀ off n, (n ≠ 4 ∧ n ≠ 8) ∨ off % n ≠ 0 → exec (.registerWrite off n v) s = .next s)
       ∧ gives (exec (.registerWrite 0x00 8 v) s) { b with cmdbase := v &&& 0xFFFFFFFFFFFFF000 }
       ∧ gives (exec (.registerWrite 0x08 8 v) s) { b with cmdsize := if size then v else b.cmdsize }
       ∧ exec (.registerWrite 0x10 8 v) s = .next s
       ∧ gives (exec (.registerWrite 0x18 8 v) s) { b with cmdtail := v }
       ∧ gives (exec (.registerWrite 0x18 4 v) s) { b with cmdtail := b.cmdtail.extractLsb 63 32 ++ v.setWidth 32 }
       ∧ gives (exec (.registerWrite 0x1C 4 v) s) { b with cmdtail := v.setWidth 32 ++ b.cmdtail.setWidth 32 }
       ∧ gives (exec (.registerWrite 0x20 8 v) s) { b with evbase := v &&& 0xFFFFFFFFFFFFF000 }
       ∧ gives (exec (.registerWrite 0x28 8 v) s) { b with evsize := if size then v else b.evsize }
       ∧ gives (exec (.registerWrite 0x30 8 v) s) { b with evhead := v }
       ∧ gives (exec (.registerWrite 0x30 4 v) s) { b with evhead := b.evhead.extractLsb 63 32 ++ v.setWidth 32 }
       ∧ exec (.registerWrite 0x38 8 v) s = .next s
       ∧ gives (exec (.registerWrite 0x40 8 v) s) { b with evlost := b.evlost &&& ~~~v }
       ∧ (∀ q < 64, ∀ n ∈ [4, 8], exec (.registerWrite (0x4018 + 64 * q) n v) s = exec (.launchQueueTail q (v.setWidth 32)) s)
       ∧ (∀ q < 64, exec (.registerWrite (0x4030 + 64 * q) 8 v) s = exec (.launchQueueErrorClear q v) s)
       ∧ (∀ off n, 0x48 ≤ off → (off < 0x4000 ∨ 0x5000 ≤ off) → exec (.registerWrite off n v) s = .next s)
       ∧ let reads := fun off n bs => exec (.hostMemAccess (.register off n)) s = .next { s with hostValue := bs }
         let word := fun off (x : Word64) => reads off 8 (natToBytes 8 x.toNat)
         (∀ off n, (n ≠ 4 ∧ n ≠ 8) ∨ off % n ≠ 0 → off + n ≤ 0x10000 → reads off n (List.replicate n 0xFF))
         ∧ (word 0x00 b.cmdbase ∧ word 0x08 b.cmdsize ∧ word 0x10 b.cmdhead ∧ word 0x18 b.cmdtail ∧ word 0x20 b.evbase
           ∧ word 0x28 b.evsize ∧ word 0x30 b.evhead ∧ word 0x38 b.evtail ∧ word 0x40 b.evlost)
         ∧ reads 0x38 4 (natToBytes 4 (b.evtail.toNat % 2 ^ 32)) ∧ reads 0x3C 4 (natToBytes 4 (b.evtail.toNat / 2 ^ 32))
         ∧ (∀ q < 64, let u := s.queue q
             let at_ := 0x4000 + 64 * q
             word at_ u.base ∧ word (at_ + 8) (BitVec.ofNat 64 u.size) ∧ word (at_ + 0x10) (u.head.setWidth 64)
             ∧ word (at_ + 0x18) (u.tail.setWidth 64) ∧ word (at_ + 0x28) (u.quant.setWidth 64)
             ∧ word (at_ + 0x30) (BitVec.ofNat 64 u.err.toNat) ∧ word (at_ + 0x38) 0)
         ∧ ∀ off, 0x48 ≤ off → (off + 8 ≤ 0x4000 ∨ 0x5000 ≤ off) → off % 8 = 0 → off + 8 ≤ 0x10000 → word off 0)

/-- A page-table walk that goes down from a table of a level can find a leaf with this place and size (R347). -/
inductive FindsLeaf (s : State) (place size : Nat) : Nat → Nat → Prop
  | leaf {table i : Nat} : i < 512 → s.peek (table + 8 * i) 8 % 2 = 1 → leafPlace (s.peek (table + 8 * i) 8) = some place →
      (size = if s.peek (table + 8 * i) 8 / 2 ^ 5 % 2 = 1 then 16 else 12) → FindsLeaf s place size 0 table
  | large {level table i : Nat} : i < 512 → s.peek (table + 8 * i) 8 % 2 = 1 → s.peek (table + 8 * i) 8 / 2 ^ 4 % 2 = 1 →
      leafPlace (s.peek (table + 8 * i) 8) = some place → size = leafSize (level + 1) → FindsLeaf s place size (level + 1) table
  | under {level table i : Nat} : i < 512 → s.peek (table + 8 * i) 8 % 2 = 1 → s.peek (table + 8 * i) 8 / 2 ^ 4 % 2 = 0 →
      FindsLeaf s place size level (s.peek (table + 8 * i) 8 / 2 ^ 12 % 2 ^ 40 * 4096) → FindsLeaf s place size (level + 1) table

/-- What of a context is on a site (R349 step 3): a gang; the home of a page that it maps, a bound region's included; a line
lock that a warp of it holds or waits for and whose home slice lies there. -/
def Depends (s : State) (i : Nat) (c : Context) : Prop :=
  (∃ g ∈ s.gangs, g.phase = .resident ∧ g.site = i ∧ (s.grid g.grid).ctx = c.num)
  ∨ (∃ h ∈ s.homes, h.site = i ∧ ∃ place size, FindsLeaf s place size 4 (c.ptbase.toNat / 4096 % 2 ^ 40 * 4096)
      ∧ h.page < place + 2 ^ size ∧ place < h.page + 2 ^ h.size)
  ∨ ∃ l ∈ s.locks, s.homeOf l.line = some i ∧ ∃ u w, (l.holder = some u ∨ ∃ q ∈ l.queue, q.warp = u)
      ∧ s.findWarp u = some w ∧ w.ctx = c.num

/-- The contexts of a test end with DIEFENCE and every other survives (R339, R349): its record, its warps, its commands and its
grids. A record of KIND 2 with cause DIEFENCE is posted for each that ends, where the ring takes them and nothing else is
posted. -/
def FenceKills (s t : State) (hit : Context → Bool) : Prop :=
  let ends := fun n => ∃ c ∈ s.contexts, c.num = n ∧ hit c = true
  let n := (s.contexts.filter hit).length
  let b := s.mailbox
  (∀ k, ends k → t.context? k = none)
  ∧ (∀ k, ¬ ends k → (t.context? k).map Context.unmetered = (s.context? k).map Context.unmetered)
  ∧ (∀ w ∈ t.warps, ends w.ctx → w.live = false)
  ∧ (∀ w ∈ s.warps, w.live = true → ¬ ends w.ctx → ∃ y ∈ t.warps, y.uid = w.uid ∧ y.ctx = w.ctx ∧ y.live = true)
  ∧ (∀ k, k ∈ t.cmds ↔ k ∈ s.cmds ∧ ¬ ends k.ctx) ∧ (∀ g, g ∈ t.grids ↔ g ∈ s.grids ∧ ¬ ends g.ctx)
  ∧ (b.evsize = 0 → t.mailbox = b)
  ∧ (s.mem.wf → 4 ≤ b.evsize.toNat → b.evsize.toNat ≤ 12 → (b.evtail - b.evhead).toNat + n ≤ 2 ^ b.evsize.toNat →
      s.shootdowns = [] → s.partials = [] → (∀ w ∈ s.warps, ∀ p ∈ w.pend, p.killed = 0) →
      t.mailbox = { b with evtail := b.evtail + BitVec.ofNat 64 n }
      ∧ ∀ c ∈ s.contexts, hit c = true → c.num < 64 → ∃ j < n,
          let at_ := eventSlot { b with evtail := b.evtail + BitVec.ofNat 64 j }
          t.mem.nat at_ 4 = 0x14 + 2 * 2 ^ 8 ∧ t.mem.nat (at_ + 16) 8 = c.num * 2 ^ 16)

/-- An error marks the granule it lies in, or fences a die: the words that cores of a fenced site had registered are poisoned
at home, contexts that depend on it end with DIEFENCE and every other survives, its translations go. A fenced memory die ends every
context with a package scratchpad partition or a dirty line on it (which die holds a line is log 17's), and its lines go; which
contexts I/O die 1 takes is free (log 61). A message with a retired number
is dropped and counted. A site is admitted again with a number never used; so is one that never was (log 90). A reset enumerates
the sites and clears what is in the package (which reports a site makes is log 7's). How marks lie in registers, what a fence
takes and a reset keeps, and FENCEDROP's stay, are the model's choices (logs 75, 86, 61, 62, 78). -/
def Obligations.ErrorsAndReset : Prop :=
  (∀ (s : State) (loc : Nat), ∃ t, exec (.uncorrectableError (.granule loc)) s = .next t
    ∧ t = { s with poison := t.poison } ∧ ∀ g, g ∈ t.poison ↔ g = loc / 8 ∨ g ∈ s.poison)
  ∧ (∀ (s : State) (w : Nat) (x : Warp) (r : Fin 64), s.Single w → s.findWarp w = some x →
    let marks := fun e (f : Warp → Prop) => ∃ t y, exec (.uncorrectableError e) s = .next t ∧ t.findWarp w = some y ∧ f y
    (∀ l : Fin 32, marks (.vector w r l) fun y => y = { x with vPoison := y.vPoison } ∧ ∀ (q : Fin 64) (k : Fin 32),
      inMask y.vPoison[q] k = (inMask x.vPoison[q] k || (decide (q = r) && decide (k.val / 2 = l.val / 2))))
    ∧ (r ≠ 0 → marks (.scalar w r) fun y => y = { x with sPoison := y.sPoison } ∧
        ∀ q : Fin 64, y.sPoison[q] = (x.sPoison[q] || decide (q = r)))
    ∧ (r = 0 → exec (.uncorrectableError (.scalar w r)) s = .next s)
    ∧ (∀ m : Fin 8, marks (.mask w m) fun y => y = { x with mPoison := y.mPoison } ∧
        ∀ q : Fin 8, y.mPoison.getLsbD q = (x.mPoison.getLsbD q || decide (q.val / 2 = m.val / 2)))
    ∧ (∀ n : Fin 256, marks (.csr w n) fun y => y = { x with csrPoison := y.csrPoison } ∧
        ∀ q : Fin 256, y.csrPoison.getLsbD q = (x.csrPoison.getLsbD q || decide (q = n)))
    ∧ ∀ k d : Fin 16, marks (.slot w k d) fun y => y = { x with tsrPoison := y.tsrPoison } ∧
        ∀ q i : Fin 16, y.tsrPoison[q].getLsbD i = (x.tsrPoison[q].getLsbD i || (decide (q = k) && decide (i = d))))
  ∧ (∀ (s : State) (g tile row col : Nat), (∃ h ∈ s.gangs, h.uid = g) →
    ∃ t, exec (.uncorrectableError (.accumulator g tile row col)) s = .next t ∧ t = { s with gangs := t.gangs }
      ∧ ∀ k, k ∈ (t.matrix g).accPoison ↔ k = 16384 * tile + 256 * row + col ∨ k ∈ (s.matrix g).accPoison)
  ∧ (∀ s : State, exec (.uncorrectableError .codeCache) s = .next s
    ∧ exec (.uncorrectableError (.ioDie 0)) s = exec (.packageReset true (s.sites.toList.map Site.report)) s)
  ∧ (∀ (s : State) (i : Nat) (c : Context), s.dependsOn i c = true ↔ Depends s i c)
  ∧ (∀ (s : State) (i : Nat), i < 8 →
    let out := exec (.uncorrectableError (.site i)) s
    ((s.site i).fenced = true → out = .next s)
    ∧ ((s.site i).fenced = false → ∃ t, out = .next t ∧ (t.site i).fenced = true
      ∧ (∀ c ∈ t.contexts, c ∈ s.contexts) ∧ FenceKills s t (s.dependsOn i)
      ∧ (∀ w ∈ t.warps, w.live = true → (∃ c ∈ s.contexts, c.num = w.ctx) → ∃ c ∈ t.contexts, c.num = w.ctx)
      ∧ (∀ r ∈ t.regs, r.core / 64 ≠ i) ∧ (∀ e ∈ t.tlb, e.unit.site ≠ i) ∧ (∀ h ∈ t.homes, h.moving ≠ some i)
      ∧ ∀ r ∈ s.regs, r.core / 64 = i → r.line < 2 ^ 52 → ∀ k < 32, r.words.getLsbD k = true →
          (r.line + 4 * k) / 8 ∈ t.poison))
  ∧ (∀ (s : State) (d : Nat),
    let out := exec (.uncorrectableError (.memoryDie d)) s
    let on := fun l : LlcLine => s.dieOf l.line = some d
    let hit := fun x : Context => x.psBytes ≠ 0 ∨ ∃ l ∈ s.llc, l.ctx = x.num ∧ l.dirty = true ∧ on l
    let clean := ∀ l ∈ s.llc, l.dirty = false
    (8 ≤ d ∨ s.memFenced.getLsbD d = true → out = .next s)
    ∧ (d < 8 → s.memFenced.getLsbD d = false → ∃ t, out = .next t ∧ t.memFenced.getLsbD d = true
      ∧ (∀ l ∈ t.llc, l ∈ s.llc ∧ ¬ on l)
      ∧ FenceKills s t (fun x => decide (hit x))
      ∧ (clean → ∀ c, c ∈ t.contexts ↔ c ∈ s.contexts ∧ ∀ x ∈ s.contexts, x.num = c.num → ¬ hit x)))
  ∧ (∀ (s : State) (d : Nat),
    let out := exec (.uncorrectableError (.ioDie d)) s
    (2 ≤ d ∨ (d = 1 ∧ s.ioFenced = true) → out = .next s)
    ∧ (d = 1 → s.ioFenced = false → ∃ t, out = .next t ∧ t.free = s.free + 1 ∧ t.ioFenced = true
        ∧ (∀ c ∈ t.contexts, c ∈ s.contexts) ∧ FenceKills s t fun c => (Config.freeWord s.free).getLsbD c.num))
  ∧ (∀ (s : State) (i : Nat) (n : BitVec 32),
    let live := ∃ j : Fin 8, s.sites[j].admitted = true ∧ s.sites[j].fenced = false ∧ s.sites[j].admission = n
    let out := exec (.fencedMessageDrop i n) s
    (live ∨ s.admissions < n → out = .next s)
    ∧ (i < 8 → ¬ live → n ≤ s.admissions → ∃ t, out = .next t ∧ t = { s with sites := t.sites }
        ∧ t.site i = { s.site i with dropped := (s.site i).dropped + 1 } ∧ ∀ j, j ≠ i → t.site j = s.site j))
  ∧ (∀ (s : State) (i : Nat) (r : SiteReport),
    let u := s.site i
    let out := exec (.siteReadmission i r) s
    let ok := r.verified = true ∧ ((r.gen = 1 ∧ r.level = 1) ∨ (r.gen = 2 ∧ r.level = 2))
    (8 ≤ i ∨ (u.admitted = true ∧ u.fenced = false) ∨ ¬ ok → out = .next s)
    ∧ (i < 8 → (u.admitted = false ∨ u.fenced = true) → ok → ∃ t, out = .next t
        ∧ t = { s with sites := t.sites, admissions := s.admissions + 1, homes := s.homes.filter (·.site != i) } ∧ (∀ j, j ≠ i → t.site j = s.site j)
        ∧ t.site i = { Site.enumerate r (s.admissions + 1) with
            restricted := decide (r.level < s.pkglvl), dropped := u.dropped }))
  ∧ ∀ (s : State) (ok : Bool) (rs : List SiteReport), rs.length = 8 → ∃ t, exec (.packageReset ok rs) s = .next t
      ∧ t.contexts = State.reset.contexts ∧ t.warps = State.reset.warps ∧ t.grids = [] ∧ t.gangs = [] ∧ t.cmds = []
      ∧ t.tlb = [] ∧ t.locks = [] ∧ t.regs = [] ∧ t.mailbox = State.reset.mailbox ∧ t.queues = State.reset.queues
      ∧ t.inReset = !ok ∧ t.clock = State.reset.clock ∧ t.attests = s.attests ∧ t.fabric.served = s.fabric.served
      ∧ (∀ a, t.mem.read a = if (2 ^ 51 ≤ a ∧ a < 2 ^ 52) ∨ 2 ^ 70 ≤ a then 0 else s.mem.read a)
      ∧ t.admissions = s.admissions + BitVec.ofNat 32 (rs.filter admissible).length
      ∧ (∀ i r, rs[i]? = some r → t.site i = Site.enumerate r (if admissible r then
            s.admissions + BitVec.ofNat 32 (((rs.take (i + 1)).filter admissible).length) else 0))
      ∧ let ls := (rs.filter admissible).map (·.level)
        (ls = [] → t.pkglvl = 0) ∧ (ls ≠ [] → t.pkglvl ∈ ls ∧ ∀ l ∈ ls, t.pkglvl ≤ l)
end

