-- ==== Sys2Proof/Laws/State.lean ====
section
/-! SUPPORT. What each update of the state leaves in each field, true by computation, so that no later proof unfolds a
record update. One lemma for a field and an update. -/

set_option Elab.async false

namespace Sys2Proof.Machine

@[simp] theorem State.onWarp_warp (s : State) (f : Warp → Warp) : (s.onWarp f).warp = f s.warp := rfl
@[simp] theorem State.onWarp_others (s : State) (f : Warp → Warp) : (s.onWarp f).others = s.others := rfl
@[simp] theorem State.onWarp_gangs (s : State) (f : Warp → Warp) : (s.onWarp f).gangs = s.gangs := rfl
@[simp] theorem State.onWarp_grids (s : State) (f : Warp → Warp) : (s.onWarp f).grids = s.grids := rfl
@[simp] theorem State.onWarp_contexts (s : State) (f : Warp → Warp) : (s.onWarp f).contexts = s.contexts := rfl
@[simp] theorem State.onWarp_queues (s : State) (f : Warp → Warp) : (s.onWarp f).queues = s.queues := rfl
@[simp] theorem State.onWarp_sites (s : State) (f : Warp → Warp) : (s.onWarp f).sites = s.sites := rfl
@[simp] theorem State.onWarp_pkglvl (s : State) (f : Warp → Warp) : (s.onWarp f).pkglvl = s.pkglvl := rfl
@[simp] theorem State.onWarp_admissions (s : State) (f : Warp → Warp) : (s.onWarp f).admissions = s.admissions := rfl
@[simp] theorem State.onWarp_mem (s : State) (f : Warp → Warp) : (s.onWarp f).mem = s.mem := rfl
@[simp] theorem State.onWarp_poison (s : State) (f : Warp → Warp) : (s.onWarp f).poison = s.poison := rfl
@[simp] theorem State.onWarp_tlb (s : State) (f : Warp → Warp) : (s.onWarp f).tlb = s.tlb := rfl
@[simp] theorem State.onWarp_shootdowns (s : State) (f : Warp → Warp) : (s.onWarp f).shootdowns = s.shootdowns := rfl
@[simp] theorem State.onWarp_pageLocks (s : State) (f : Warp → Warp) : (s.onWarp f).pageLocks = s.pageLocks := rfl
@[simp] theorem State.onWarp_homes (s : State) (f : Warp → Warp) : (s.onWarp f).homes = s.homes := rfl
@[simp] theorem State.onWarp_regs (s : State) (f : Warp → Warp) : (s.onWarp f).regs = s.regs := rfl
@[simp] theorem State.onWarp_regions (s : State) (f : Warp → Warp) : (s.onWarp f).regions = s.regions := rfl
@[simp] theorem State.onWarp_partials (s : State) (f : Warp → Warp) : (s.onWarp f).partials = s.partials := rfl
@[simp] theorem State.onWarp_locks (s : State) (f : Warp → Warp) : (s.onWarp f).locks = s.locks := rfl
@[simp] theorem State.onWarp_lockWaits (s : State) (f : Warp → Warp) : (s.onWarp f).lockWaits = s.lockWaits := rfl
@[simp] theorem State.onWarp_monitors (s : State) (f : Warp → Warp) : (s.onWarp f).monitors = s.monitors := rfl
@[simp] theorem State.onWarp_cycles (s : State) (f : Warp → Warp) : (s.onWarp f).cycles = s.cycles := rfl
@[simp] theorem State.onWarp_cmds (s : State) (f : Warp → Warp) : (s.onWarp f).cmds = s.cmds := rfl
@[simp] theorem State.onWarp_owners (s : State) (f : Warp → Warp) : (s.onWarp f).owners = s.owners := rfl
@[simp] theorem State.onWarp_llc (s : State) (f : Warp → Warp) : (s.onWarp f).llc = s.llc := rfl
@[simp] theorem State.onWarp_victims (s : State) (f : Warp → Warp) : (s.onWarp f).victims = s.victims := rfl
@[simp] theorem State.onWarp_sectors (s : State) (f : Warp → Warp) : (s.onWarp f).sectors = s.sectors := rfl
@[simp] theorem State.onWarp_hostValue (s : State) (f : Warp → Warp) : (s.onWarp f).hostValue = s.hostValue := rfl
@[simp] theorem State.onWarp_memFenced (s : State) (f : Warp → Warp) : (s.onWarp f).memFenced = s.memFenced := rfl
@[simp] theorem State.onWarp_ioFenced (s : State) (f : Warp → Warp) : (s.onWarp f).ioFenced = s.ioFenced := rfl
@[simp] theorem State.onWarp_fabric (s : State) (f : Warp → Warp) : (s.onWarp f).fabric = s.fabric := rfl
@[simp] theorem State.onWarp_mailbox (s : State) (f : Warp → Warp) : (s.onWarp f).mailbox = s.mailbox := rfl
@[simp] theorem State.onWarp_attests (s : State) (f : Warp → Warp) : (s.onWarp f).attests = s.attests := rfl
@[simp] theorem State.onWarp_power (s : State) (f : Warp → Warp) : (s.onWarp f).power = s.power := rfl
@[simp] theorem State.onWarp_serving (s : State) (f : Warp → Warp) : (s.onWarp f).serving = s.serving := rfl
@[simp] theorem State.onWarp_nextUid (s : State) (f : Warp → Warp) : (s.onWarp f).nextUid = s.nextUid := rfl
@[simp] theorem State.onWarp_nextTag (s : State) (f : Warp → Warp) : (s.onWarp f).nextTag = s.nextTag := rfl
@[simp] theorem State.onWarp_clock (s : State) (f : Warp → Warp) : (s.onWarp f).clock = s.clock := rfl
@[simp] theorem State.onWarp_inReset (s : State) (f : Warp → Warp) : (s.onWarp f).inReset = s.inReset := rfl
@[simp] theorem State.onWarp_agenda (s : State) (f : Warp → Warp) : (s.onWarp f).agenda = s.agenda := rfl
@[simp] theorem State.onWarp_delays (s : State) (f : Warp → Warp) : (s.onWarp f).delays = s.delays := rfl
@[simp] theorem State.onWarp_free (s : State) (f : Warp → Warp) : (s.onWarp f).free = s.free := rfl

@[simp] theorem State.setGang_warp (s : State) (g : Gang) : (s.setGang g).warp = s.warp := rfl
@[simp] theorem State.setGang_others (s : State) (g : Gang) : (s.setGang g).others = s.others := rfl
@[simp] theorem State.setGang_grids (s : State) (g : Gang) : (s.setGang g).grids = s.grids := rfl
@[simp] theorem State.setGang_contexts (s : State) (g : Gang) : (s.setGang g).contexts = s.contexts := rfl
@[simp] theorem State.setGang_queues (s : State) (g : Gang) : (s.setGang g).queues = s.queues := rfl
@[simp] theorem State.setGang_sites (s : State) (g : Gang) : (s.setGang g).sites = s.sites := rfl
@[simp] theorem State.setGang_pkglvl (s : State) (g : Gang) : (s.setGang g).pkglvl = s.pkglvl := rfl
@[simp] theorem State.setGang_admissions (s : State) (g : Gang) : (s.setGang g).admissions = s.admissions := rfl
@[simp] theorem State.setGang_mem (s : State) (g : Gang) : (s.setGang g).mem = s.mem := rfl
@[simp] theorem State.setGang_poison (s : State) (g : Gang) : (s.setGang g).poison = s.poison := rfl
@[simp] theorem State.setGang_tlb (s : State) (g : Gang) : (s.setGang g).tlb = s.tlb := rfl
@[simp] theorem State.setGang_shootdowns (s : State) (g : Gang) : (s.setGang g).shootdowns = s.shootdowns := rfl
@[simp] theorem State.setGang_pageLocks (s : State) (g : Gang) : (s.setGang g).pageLocks = s.pageLocks := rfl
@[simp] theorem State.setGang_homes (s : State) (g : Gang) : (s.setGang g).homes = s.homes := rfl
@[simp] theorem State.setGang_regs (s : State) (g : Gang) : (s.setGang g).regs = s.regs := rfl
@[simp] theorem State.setGang_regions (s : State) (g : Gang) : (s.setGang g).regions = s.regions := rfl
@[simp] theorem State.setGang_partials (s : State) (g : Gang) : (s.setGang g).partials = s.partials := rfl
@[simp] theorem State.setGang_locks (s : State) (g : Gang) : (s.setGang g).locks = s.locks := rfl
@[simp] theorem State.setGang_lockWaits (s : State) (g : Gang) : (s.setGang g).lockWaits = s.lockWaits := rfl
@[simp] theorem State.setGang_monitors (s : State) (g : Gang) : (s.setGang g).monitors = s.monitors := rfl
@[simp] theorem State.setGang_cycles (s : State) (g : Gang) : (s.setGang g).cycles = s.cycles := rfl
@[simp] theorem State.setGang_cmds (s : State) (g : Gang) : (s.setGang g).cmds = s.cmds := rfl
@[simp] theorem State.setGang_owners (s : State) (g : Gang) : (s.setGang g).owners = s.owners := rfl
@[simp] theorem State.setGang_llc (s : State) (g : Gang) : (s.setGang g).llc = s.llc := rfl
@[simp] theorem State.setGang_victims (s : State) (g : Gang) : (s.setGang g).victims = s.victims := rfl
@[simp] theorem State.setGang_sectors (s : State) (g : Gang) : (s.setGang g).sectors = s.sectors := rfl
@[simp] theorem State.setGang_hostValue (s : State) (g : Gang) : (s.setGang g).hostValue = s.hostValue := rfl
@[simp] theorem State.setGang_memFenced (s : State) (g : Gang) : (s.setGang g).memFenced = s.memFenced := rfl
@[simp] theorem State.setGang_ioFenced (s : State) (g : Gang) : (s.setGang g).ioFenced = s.ioFenced := rfl
@[simp] theorem State.setGang_fabric (s : State) (g : Gang) : (s.setGang g).fabric = s.fabric := rfl
@[simp] theorem State.setGang_mailbox (s : State) (g : Gang) : (s.setGang g).mailbox = s.mailbox := rfl
@[simp] theorem State.setGang_attests (s : State) (g : Gang) : (s.setGang g).attests = s.attests := rfl
@[simp] theorem State.setGang_power (s : State) (g : Gang) : (s.setGang g).power = s.power := rfl
@[simp] theorem State.setGang_serving (s : State) (g : Gang) : (s.setGang g).serving = s.serving := rfl
@[simp] theorem State.setGang_nextUid (s : State) (g : Gang) : (s.setGang g).nextUid = s.nextUid := rfl
@[simp] theorem State.setGang_nextTag (s : State) (g : Gang) : (s.setGang g).nextTag = s.nextTag := rfl
@[simp] theorem State.setGang_clock (s : State) (g : Gang) : (s.setGang g).clock = s.clock := rfl
@[simp] theorem State.setGang_inReset (s : State) (g : Gang) : (s.setGang g).inReset = s.inReset := rfl
@[simp] theorem State.setGang_agenda (s : State) (g : Gang) : (s.setGang g).agenda = s.agenda := rfl
@[simp] theorem State.setGang_delays (s : State) (g : Gang) : (s.setGang g).delays = s.delays := rfl
@[simp] theorem State.setGang_free (s : State) (g : Gang) : (s.setGang g).free = s.free := rfl

@[simp] theorem State.mapGang_warp (s : State) (u : Nat) (f : Gang → Gang) : (s.mapGang u f).warp = s.warp := rfl
@[simp] theorem State.mapGang_others (s : State) (u : Nat) (f : Gang → Gang) : (s.mapGang u f).others = s.others := rfl
@[simp] theorem State.mapGang_grids (s : State) (u : Nat) (f : Gang → Gang) : (s.mapGang u f).grids = s.grids := rfl
@[simp] theorem State.mapGang_contexts (s : State) (u : Nat) (f : Gang → Gang) : (s.mapGang u f).contexts = s.contexts := rfl
@[simp] theorem State.mapGang_queues (s : State) (u : Nat) (f : Gang → Gang) : (s.mapGang u f).queues = s.queues := rfl
@[simp] theorem State.mapGang_sites (s : State) (u : Nat) (f : Gang → Gang) : (s.mapGang u f).sites = s.sites := rfl
@[simp] theorem State.mapGang_pkglvl (s : State) (u : Nat) (f : Gang → Gang) : (s.mapGang u f).pkglvl = s.pkglvl := rfl
@[simp] theorem State.mapGang_admissions (s : State) (u : Nat) (f : Gang → Gang) : (s.mapGang u f).admissions = s.admissions := rfl
@[simp] theorem State.mapGang_mem (s : State) (u : Nat) (f : Gang → Gang) : (s.mapGang u f).mem = s.mem := rfl
@[simp] theorem State.mapGang_poison (s : State) (u : Nat) (f : Gang → Gang) : (s.mapGang u f).poison = s.poison := rfl
@[simp] theorem State.mapGang_tlb (s : State) (u : Nat) (f : Gang → Gang) : (s.mapGang u f).tlb = s.tlb := rfl
@[simp] theorem State.mapGang_shootdowns (s : State) (u : Nat) (f : Gang → Gang) : (s.mapGang u f).shootdowns = s.shootdowns := rfl
@[simp] theorem State.mapGang_pageLocks (s : State) (u : Nat) (f : Gang → Gang) : (s.mapGang u f).pageLocks = s.pageLocks := rfl
@[simp] theorem State.mapGang_homes (s : State) (u : Nat) (f : Gang → Gang) : (s.mapGang u f).homes = s.homes := rfl
@[simp] theorem State.mapGang_regs (s : State) (u : Nat) (f : Gang → Gang) : (s.mapGang u f).regs = s.regs := rfl
@[simp] theorem State.mapGang_regions (s : State) (u : Nat) (f : Gang → Gang) : (s.mapGang u f).regions = s.regions := rfl
@[simp] theorem State.mapGang_partials (s : State) (u : Nat) (f : Gang → Gang) : (s.mapGang u f).partials = s.partials := rfl
@[simp] theorem State.mapGang_locks (s : State) (u : Nat) (f : Gang → Gang) : (s.mapGang u f).locks = s.locks := rfl
@[simp] theorem State.mapGang_lockWaits (s : State) (u : Nat) (f : Gang → Gang) : (s.mapGang u f).lockWaits = s.lockWaits := rfl
@[simp] theorem State.mapGang_monitors (s : State) (u : Nat) (f : Gang → Gang) : (s.mapGang u f).monitors = s.monitors := rfl
@[simp] theorem State.mapGang_cycles (s : State) (u : Nat) (f : Gang → Gang) : (s.mapGang u f).cycles = s.cycles := rfl
@[simp] theorem State.mapGang_cmds (s : State) (u : Nat) (f : Gang → Gang) : (s.mapGang u f).cmds = s.cmds := rfl
@[simp] theorem State.mapGang_owners (s : State) (u : Nat) (f : Gang → Gang) : (s.mapGang u f).owners = s.owners := rfl
@[simp] theorem State.mapGang_llc (s : State) (u : Nat) (f : Gang → Gang) : (s.mapGang u f).llc = s.llc := rfl
@[simp] theorem State.mapGang_victims (s : State) (u : Nat) (f : Gang → Gang) : (s.mapGang u f).victims = s.victims := rfl
@[simp] theorem State.mapGang_sectors (s : State) (u : Nat) (f : Gang → Gang) : (s.mapGang u f).sectors = s.sectors := rfl
@[simp] theorem State.mapGang_hostValue (s : State) (u : Nat) (f : Gang → Gang) : (s.mapGang u f).hostValue = s.hostValue := rfl
@[simp] theorem State.mapGang_memFenced (s : State) (u : Nat) (f : Gang → Gang) : (s.mapGang u f).memFenced = s.memFenced := rfl
@[simp] theorem State.mapGang_ioFenced (s : State) (u : Nat) (f : Gang → Gang) : (s.mapGang u f).ioFenced = s.ioFenced := rfl
@[simp] theorem State.mapGang_fabric (s : State) (u : Nat) (f : Gang → Gang) : (s.mapGang u f).fabric = s.fabric := rfl
@[simp] theorem State.mapGang_mailbox (s : State) (u : Nat) (f : Gang → Gang) : (s.mapGang u f).mailbox = s.mailbox := rfl
@[simp] theorem State.mapGang_attests (s : State) (u : Nat) (f : Gang → Gang) : (s.mapGang u f).attests = s.attests := rfl
@[simp] theorem State.mapGang_power (s : State) (u : Nat) (f : Gang → Gang) : (s.mapGang u f).power = s.power := rfl
@[simp] theorem State.mapGang_serving (s : State) (u : Nat) (f : Gang → Gang) : (s.mapGang u f).serving = s.serving := rfl
@[simp] theorem State.mapGang_nextUid (s : State) (u : Nat) (f : Gang → Gang) : (s.mapGang u f).nextUid = s.nextUid := rfl
@[simp] theorem State.mapGang_nextTag (s : State) (u : Nat) (f : Gang → Gang) : (s.mapGang u f).nextTag = s.nextTag := rfl
@[simp] theorem State.mapGang_clock (s : State) (u : Nat) (f : Gang → Gang) : (s.mapGang u f).clock = s.clock := rfl
@[simp] theorem State.mapGang_inReset (s : State) (u : Nat) (f : Gang → Gang) : (s.mapGang u f).inReset = s.inReset := rfl
@[simp] theorem State.mapGang_agenda (s : State) (u : Nat) (f : Gang → Gang) : (s.mapGang u f).agenda = s.agenda := rfl
@[simp] theorem State.mapGang_delays (s : State) (u : Nat) (f : Gang → Gang) : (s.mapGang u f).delays = s.delays := rfl
@[simp] theorem State.mapGang_free (s : State) (u : Nat) (f : Gang → Gang) : (s.mapGang u f).free = s.free := rfl

@[simp] theorem State.mapGrid_warp (s : State) (k : Nat) (f : Grid → Grid) : (s.mapGrid k f).warp = s.warp := rfl
@[simp] theorem State.mapGrid_others (s : State) (k : Nat) (f : Grid → Grid) : (s.mapGrid k f).others = s.others := rfl
@[simp] theorem State.mapGrid_gangs (s : State) (k : Nat) (f : Grid → Grid) : (s.mapGrid k f).gangs = s.gangs := rfl
@[simp] theorem State.mapGrid_contexts (s : State) (k : Nat) (f : Grid → Grid) : (s.mapGrid k f).contexts = s.contexts := rfl
@[simp] theorem State.mapGrid_queues (s : State) (k : Nat) (f : Grid → Grid) : (s.mapGrid k f).queues = s.queues := rfl
@[simp] theorem State.mapGrid_sites (s : State) (k : Nat) (f : Grid → Grid) : (s.mapGrid k f).sites = s.sites := rfl
@[simp] theorem State.mapGrid_pkglvl (s : State) (k : Nat) (f : Grid → Grid) : (s.mapGrid k f).pkglvl = s.pkglvl := rfl
@[simp] theorem State.mapGrid_admissions (s : State) (k : Nat) (f : Grid → Grid) : (s.mapGrid k f).admissions = s.admissions := rfl
@[simp] theorem State.mapGrid_mem (s : State) (k : Nat) (f : Grid → Grid) : (s.mapGrid k f).mem = s.mem := rfl
@[simp] theorem State.mapGrid_poison (s : State) (k : Nat) (f : Grid → Grid) : (s.mapGrid k f).poison = s.poison := rfl
@[simp] theorem State.mapGrid_tlb (s : State) (k : Nat) (f : Grid → Grid) : (s.mapGrid k f).tlb = s.tlb := rfl
@[simp] theorem State.mapGrid_shootdowns (s : State) (k : Nat) (f : Grid → Grid) : (s.mapGrid k f).shootdowns = s.shootdowns := rfl
@[simp] theorem State.mapGrid_pageLocks (s : State) (k : Nat) (f : Grid → Grid) : (s.mapGrid k f).pageLocks = s.pageLocks := rfl
@[simp] theorem State.mapGrid_homes (s : State) (k : Nat) (f : Grid → Grid) : (s.mapGrid k f).homes = s.homes := rfl
@[simp] theorem State.mapGrid_regs (s : State) (k : Nat) (f : Grid → Grid) : (s.mapGrid k f).regs = s.regs := rfl
@[simp] theorem State.mapGrid_regions (s : State) (k : Nat) (f : Grid → Grid) : (s.mapGrid k f).regions = s.regions := rfl
@[simp] theorem State.mapGrid_partials (s : State) (k : Nat) (f : Grid → Grid) : (s.mapGrid k f).partials = s.partials := rfl
@[simp] theorem State.mapGrid_locks (s : State) (k : Nat) (f : Grid → Grid) : (s.mapGrid k f).locks = s.locks := rfl
@[simp] theorem State.mapGrid_lockWaits (s : State) (k : Nat) (f : Grid → Grid) : (s.mapGrid k f).lockWaits = s.lockWaits := rfl
@[simp] theorem State.mapGrid_monitors (s : State) (k : Nat) (f : Grid → Grid) : (s.mapGrid k f).monitors = s.monitors := rfl
@[simp] theorem State.mapGrid_cycles (s : State) (k : Nat) (f : Grid → Grid) : (s.mapGrid k f).cycles = s.cycles := rfl
@[simp] theorem State.mapGrid_cmds (s : State) (k : Nat) (f : Grid → Grid) : (s.mapGrid k f).cmds = s.cmds := rfl
@[simp] theorem State.mapGrid_owners (s : State) (k : Nat) (f : Grid → Grid) : (s.mapGrid k f).owners = s.owners := rfl
@[simp] theorem State.mapGrid_llc (s : State) (k : Nat) (f : Grid → Grid) : (s.mapGrid k f).llc = s.llc := rfl
@[simp] theorem State.mapGrid_victims (s : State) (k : Nat) (f : Grid → Grid) : (s.mapGrid k f).victims = s.victims := rfl
@[simp] theorem State.mapGrid_sectors (s : State) (k : Nat) (f : Grid → Grid) : (s.mapGrid k f).sectors = s.sectors := rfl
@[simp] theorem State.mapGrid_hostValue (s : State) (k : Nat) (f : Grid → Grid) : (s.mapGrid k f).hostValue = s.hostValue := rfl
@[simp] theorem State.mapGrid_memFenced (s : State) (k : Nat) (f : Grid → Grid) : (s.mapGrid k f).memFenced = s.memFenced := rfl
@[simp] theorem State.mapGrid_ioFenced (s : State) (k : Nat) (f : Grid → Grid) : (s.mapGrid k f).ioFenced = s.ioFenced := rfl
@[simp] theorem State.mapGrid_fabric (s : State) (k : Nat) (f : Grid → Grid) : (s.mapGrid k f).fabric = s.fabric := rfl
@[simp] theorem State.mapGrid_mailbox (s : State) (k : Nat) (f : Grid → Grid) : (s.mapGrid k f).mailbox = s.mailbox := rfl
@[simp] theorem State.mapGrid_attests (s : State) (k : Nat) (f : Grid → Grid) : (s.mapGrid k f).attests = s.attests := rfl
@[simp] theorem State.mapGrid_power (s : State) (k : Nat) (f : Grid → Grid) : (s.mapGrid k f).power = s.power := rfl
@[simp] theorem State.mapGrid_serving (s : State) (k : Nat) (f : Grid → Grid) : (s.mapGrid k f).serving = s.serving := rfl
@[simp] theorem State.mapGrid_nextUid (s : State) (k : Nat) (f : Grid → Grid) : (s.mapGrid k f).nextUid = s.nextUid := rfl
@[simp] theorem State.mapGrid_nextTag (s : State) (k : Nat) (f : Grid → Grid) : (s.mapGrid k f).nextTag = s.nextTag := rfl
@[simp] theorem State.mapGrid_clock (s : State) (k : Nat) (f : Grid → Grid) : (s.mapGrid k f).clock = s.clock := rfl
@[simp] theorem State.mapGrid_inReset (s : State) (k : Nat) (f : Grid → Grid) : (s.mapGrid k f).inReset = s.inReset := rfl
@[simp] theorem State.mapGrid_agenda (s : State) (k : Nat) (f : Grid → Grid) : (s.mapGrid k f).agenda = s.agenda := rfl
@[simp] theorem State.mapGrid_delays (s : State) (k : Nat) (f : Grid → Grid) : (s.mapGrid k f).delays = s.delays := rfl
@[simp] theorem State.mapGrid_free (s : State) (k : Nat) (f : Grid → Grid) : (s.mapGrid k f).free = s.free := rfl

@[simp] theorem State.setContext_warp (s : State) (c : Context) : (s.setContext c).warp = s.warp := rfl
@[simp] theorem State.setContext_others (s : State) (c : Context) : (s.setContext c).others = s.others := rfl
@[simp] theorem State.setContext_gangs (s : State) (c : Context) : (s.setContext c).gangs = s.gangs := rfl
@[simp] theorem State.setContext_grids (s : State) (c : Context) : (s.setContext c).grids = s.grids := rfl
@[simp] theorem State.setContext_queues (s : State) (c : Context) : (s.setContext c).queues = s.queues := rfl
@[simp] theorem State.setContext_sites (s : State) (c : Context) : (s.setContext c).sites = s.sites := rfl
@[simp] theorem State.setContext_pkglvl (s : State) (c : Context) : (s.setContext c).pkglvl = s.pkglvl := rfl
@[simp] theorem State.setContext_admissions (s : State) (c : Context) : (s.setContext c).admissions = s.admissions := rfl
@[simp] theorem State.setContext_mem (s : State) (c : Context) : (s.setContext c).mem = s.mem := rfl
@[simp] theorem State.setContext_poison (s : State) (c : Context) : (s.setContext c).poison = s.poison := rfl
@[simp] theorem State.setContext_tlb (s : State) (c : Context) : (s.setContext c).tlb = s.tlb := rfl
@[simp] theorem State.setContext_shootdowns (s : State) (c : Context) : (s.setContext c).shootdowns = s.shootdowns := rfl
@[simp] theorem State.setContext_pageLocks (s : State) (c : Context) : (s.setContext c).pageLocks = s.pageLocks := rfl
@[simp] theorem State.setContext_homes (s : State) (c : Context) : (s.setContext c).homes = s.homes := rfl
@[simp] theorem State.setContext_regs (s : State) (c : Context) : (s.setContext c).regs = s.regs := rfl
@[simp] theorem State.setContext_regions (s : State) (c : Context) : (s.setContext c).regions = s.regions := rfl
@[simp] theorem State.setContext_partials (s : State) (c : Context) : (s.setContext c).partials = s.partials := rfl
@[simp] theorem State.setContext_locks (s : State) (c : Context) : (s.setContext c).locks = s.locks := rfl
@[simp] theorem State.setContext_lockWaits (s : State) (c : Context) : (s.setContext c).lockWaits = s.lockWaits := rfl
@[simp] theorem State.setContext_monitors (s : State) (c : Context) : (s.setContext c).monitors = s.monitors := rfl
@[simp] theorem State.setContext_cycles (s : State) (c : Context) : (s.setContext c).cycles = s.cycles := rfl
@[simp] theorem State.setContext_cmds (s : State) (c : Context) : (s.setContext c).cmds = s.cmds := rfl
@[simp] theorem State.setContext_owners (s : State) (c : Context) : (s.setContext c).owners = s.owners := rfl
@[simp] theorem State.setContext_llc (s : State) (c : Context) : (s.setContext c).llc = s.llc := rfl
@[simp] theorem State.setContext_victims (s : State) (c : Context) : (s.setContext c).victims = s.victims := rfl
@[simp] theorem State.setContext_sectors (s : State) (c : Context) : (s.setContext c).sectors = s.sectors := rfl
@[simp] theorem State.setContext_hostValue (s : State) (c : Context) : (s.setContext c).hostValue = s.hostValue := rfl
@[simp] theorem State.setContext_memFenced (s : State) (c : Context) : (s.setContext c).memFenced = s.memFenced := rfl
@[simp] theorem State.setContext_ioFenced (s : State) (c : Context) : (s.setContext c).ioFenced = s.ioFenced := rfl
@[simp] theorem State.setContext_fabric (s : State) (c : Context) : (s.setContext c).fabric = s.fabric := rfl
@[simp] theorem State.setContext_mailbox (s : State) (c : Context) : (s.setContext c).mailbox = s.mailbox := rfl
@[simp] theorem State.setContext_attests (s : State) (c : Context) : (s.setContext c).attests = s.attests := rfl
@[simp] theorem State.setContext_power (s : State) (c : Context) : (s.setContext c).power = s.power := rfl
@[simp] theorem State.setContext_serving (s : State) (c : Context) : (s.setContext c).serving = s.serving := rfl
@[simp] theorem State.setContext_nextUid (s : State) (c : Context) : (s.setContext c).nextUid = s.nextUid := rfl
@[simp] theorem State.setContext_nextTag (s : State) (c : Context) : (s.setContext c).nextTag = s.nextTag := rfl
@[simp] theorem State.setContext_clock (s : State) (c : Context) : (s.setContext c).clock = s.clock := rfl
@[simp] theorem State.setContext_inReset (s : State) (c : Context) : (s.setContext c).inReset = s.inReset := rfl
@[simp] theorem State.setContext_agenda (s : State) (c : Context) : (s.setContext c).agenda = s.agenda := rfl
@[simp] theorem State.setContext_delays (s : State) (c : Context) : (s.setContext c).delays = s.delays := rfl
@[simp] theorem State.setContext_free (s : State) (c : Context) : (s.setContext c).free = s.free := rfl

@[simp] theorem State.mapSite_warp (s : State) (i : Nat) (f : Site → Site) : (s.mapSite i f).warp = s.warp := rfl
@[simp] theorem State.mapSite_others (s : State) (i : Nat) (f : Site → Site) : (s.mapSite i f).others = s.others := rfl
@[simp] theorem State.mapSite_gangs (s : State) (i : Nat) (f : Site → Site) : (s.mapSite i f).gangs = s.gangs := rfl
@[simp] theorem State.mapSite_grids (s : State) (i : Nat) (f : Site → Site) : (s.mapSite i f).grids = s.grids := rfl
@[simp] theorem State.mapSite_contexts (s : State) (i : Nat) (f : Site → Site) : (s.mapSite i f).contexts = s.contexts := rfl
@[simp] theorem State.mapSite_queues (s : State) (i : Nat) (f : Site → Site) : (s.mapSite i f).queues = s.queues := rfl
@[simp] theorem State.mapSite_pkglvl (s : State) (i : Nat) (f : Site → Site) : (s.mapSite i f).pkglvl = s.pkglvl := rfl
@[simp] theorem State.mapSite_admissions (s : State) (i : Nat) (f : Site → Site) : (s.mapSite i f).admissions = s.admissions := rfl
@[simp] theorem State.mapSite_mem (s : State) (i : Nat) (f : Site → Site) : (s.mapSite i f).mem = s.mem := rfl
@[simp] theorem State.mapSite_poison (s : State) (i : Nat) (f : Site → Site) : (s.mapSite i f).poison = s.poison := rfl
@[simp] theorem State.mapSite_tlb (s : State) (i : Nat) (f : Site → Site) : (s.mapSite i f).tlb = s.tlb := rfl
@[simp] theorem State.mapSite_shootdowns (s : State) (i : Nat) (f : Site → Site) : (s.mapSite i f).shootdowns = s.shootdowns := rfl
@[simp] theorem State.mapSite_pageLocks (s : State) (i : Nat) (f : Site → Site) : (s.mapSite i f).pageLocks = s.pageLocks := rfl
@[simp] theorem State.mapSite_homes (s : State) (i : Nat) (f : Site → Site) : (s.mapSite i f).homes = s.homes := rfl
@[simp] theorem State.mapSite_regs (s : State) (i : Nat) (f : Site → Site) : (s.mapSite i f).regs = s.regs := rfl
@[simp] theorem State.mapSite_regions (s : State) (i : Nat) (f : Site → Site) : (s.mapSite i f).regions = s.regions := rfl
@[simp] theorem State.mapSite_partials (s : State) (i : Nat) (f : Site → Site) : (s.mapSite i f).partials = s.partials := rfl
@[simp] theorem State.mapSite_locks (s : State) (i : Nat) (f : Site → Site) : (s.mapSite i f).locks = s.locks := rfl
@[simp] theorem State.mapSite_lockWaits (s : State) (i : Nat) (f : Site → Site) : (s.mapSite i f).lockWaits = s.lockWaits := rfl
@[simp] theorem State.mapSite_monitors (s : State) (i : Nat) (f : Site → Site) : (s.mapSite i f).monitors = s.monitors := rfl
@[simp] theorem State.mapSite_cycles (s : State) (i : Nat) (f : Site → Site) : (s.mapSite i f).cycles = s.cycles := rfl
@[simp] theorem State.mapSite_cmds (s : State) (i : Nat) (f : Site → Site) : (s.mapSite i f).cmds = s.cmds := rfl
@[simp] theorem State.mapSite_owners (s : State) (i : Nat) (f : Site → Site) : (s.mapSite i f).owners = s.owners := rfl
@[simp] theorem State.mapSite_llc (s : State) (i : Nat) (f : Site → Site) : (s.mapSite i f).llc = s.llc := rfl
@[simp] theorem State.mapSite_victims (s : State) (i : Nat) (f : Site → Site) : (s.mapSite i f).victims = s.victims := rfl
@[simp] theorem State.mapSite_sectors (s : State) (i : Nat) (f : Site → Site) : (s.mapSite i f).sectors = s.sectors := rfl
@[simp] theorem State.mapSite_hostValue (s : State) (i : Nat) (f : Site → Site) : (s.mapSite i f).hostValue = s.hostValue := rfl
@[simp] theorem State.mapSite_memFenced (s : State) (i : Nat) (f : Site → Site) : (s.mapSite i f).memFenced = s.memFenced := rfl
@[simp] theorem State.mapSite_ioFenced (s : State) (i : Nat) (f : Site → Site) : (s.mapSite i f).ioFenced = s.ioFenced := rfl
@[simp] theorem State.mapSite_fabric (s : State) (i : Nat) (f : Site → Site) : (s.mapSite i f).fabric = s.fabric := rfl
@[simp] theorem State.mapSite_mailbox (s : State) (i : Nat) (f : Site → Site) : (s.mapSite i f).mailbox = s.mailbox := rfl
@[simp] theorem State.mapSite_attests (s : State) (i : Nat) (f : Site → Site) : (s.mapSite i f).attests = s.attests := rfl
@[simp] theorem State.mapSite_power (s : State) (i : Nat) (f : Site → Site) : (s.mapSite i f).power = s.power := rfl
@[simp] theorem State.mapSite_serving (s : State) (i : Nat) (f : Site → Site) : (s.mapSite i f).serving = s.serving := rfl
@[simp] theorem State.mapSite_nextUid (s : State) (i : Nat) (f : Site → Site) : (s.mapSite i f).nextUid = s.nextUid := rfl
@[simp] theorem State.mapSite_nextTag (s : State) (i : Nat) (f : Site → Site) : (s.mapSite i f).nextTag = s.nextTag := rfl
@[simp] theorem State.mapSite_clock (s : State) (i : Nat) (f : Site → Site) : (s.mapSite i f).clock = s.clock := rfl
@[simp] theorem State.mapSite_inReset (s : State) (i : Nat) (f : Site → Site) : (s.mapSite i f).inReset = s.inReset := rfl
@[simp] theorem State.mapSite_agenda (s : State) (i : Nat) (f : Site → Site) : (s.mapSite i f).agenda = s.agenda := rfl
@[simp] theorem State.mapSite_delays (s : State) (i : Nat) (f : Site → Site) : (s.mapSite i f).delays = s.delays := rfl
@[simp] theorem State.mapSite_free (s : State) (i : Nat) (f : Site → Site) : (s.mapSite i f).free = s.free := rfl

@[simp] theorem State.poke_warp (s : State) (loc : Nat) (bs : List Byte) : (s.poke loc bs).warp = s.warp := rfl
@[simp] theorem State.poke_others (s : State) (loc : Nat) (bs : List Byte) : (s.poke loc bs).others = s.others := rfl
@[simp] theorem State.poke_gangs (s : State) (loc : Nat) (bs : List Byte) : (s.poke loc bs).gangs = s.gangs := rfl
@[simp] theorem State.poke_grids (s : State) (loc : Nat) (bs : List Byte) : (s.poke loc bs).grids = s.grids := rfl
@[simp] theorem State.poke_contexts (s : State) (loc : Nat) (bs : List Byte) : (s.poke loc bs).contexts = s.contexts := rfl
@[simp] theorem State.poke_queues (s : State) (loc : Nat) (bs : List Byte) : (s.poke loc bs).queues = s.queues := rfl
@[simp] theorem State.poke_sites (s : State) (loc : Nat) (bs : List Byte) : (s.poke loc bs).sites = s.sites := rfl
@[simp] theorem State.poke_pkglvl (s : State) (loc : Nat) (bs : List Byte) : (s.poke loc bs).pkglvl = s.pkglvl := rfl
@[simp] theorem State.poke_admissions (s : State) (loc : Nat) (bs : List Byte) : (s.poke loc bs).admissions = s.admissions := rfl
@[simp] theorem State.poke_mem (s : State) (loc : Nat) (bs : List Byte) : (s.poke loc bs).mem = s.mem.writeBytes loc bs := rfl
@[simp] theorem State.poke_poison (s : State) (loc : Nat) (bs : List Byte) : (s.poke loc bs).poison = clearPoison s.poison loc bs.length := rfl
@[simp] theorem State.poke_tlb (s : State) (loc : Nat) (bs : List Byte) : (s.poke loc bs).tlb = s.tlb := rfl
@[simp] theorem State.poke_shootdowns (s : State) (loc : Nat) (bs : List Byte) : (s.poke loc bs).shootdowns = s.shootdowns := rfl
@[simp] theorem State.poke_pageLocks (s : State) (loc : Nat) (bs : List Byte) : (s.poke loc bs).pageLocks = s.pageLocks := rfl
@[simp] theorem State.poke_homes (s : State) (loc : Nat) (bs : List Byte) : (s.poke loc bs).homes = s.homes := rfl
@[simp] theorem State.poke_regs (s : State) (loc : Nat) (bs : List Byte) : (s.poke loc bs).regs = s.regs := rfl
@[simp] theorem State.poke_regions (s : State) (loc : Nat) (bs : List Byte) : (s.poke loc bs).regions = s.regions := rfl
@[simp] theorem State.poke_partials (s : State) (loc : Nat) (bs : List Byte) : (s.poke loc bs).partials = s.partials := rfl
@[simp] theorem State.poke_locks (s : State) (loc : Nat) (bs : List Byte) : (s.poke loc bs).locks = s.locks := rfl
@[simp] theorem State.poke_lockWaits (s : State) (loc : Nat) (bs : List Byte) : (s.poke loc bs).lockWaits = s.lockWaits := rfl
@[simp] theorem State.poke_cycles (s : State) (loc : Nat) (bs : List Byte) : (s.poke loc bs).cycles = s.cycles := rfl
@[simp] theorem State.poke_cmds (s : State) (loc : Nat) (bs : List Byte) : (s.poke loc bs).cmds = s.cmds := rfl
@[simp] theorem State.poke_owners (s : State) (loc : Nat) (bs : List Byte) : (s.poke loc bs).owners = s.owners := rfl
@[simp] theorem State.poke_llc (s : State) (loc : Nat) (bs : List Byte) : (s.poke loc bs).llc = s.llc := rfl
@[simp] theorem State.poke_victims (s : State) (loc : Nat) (bs : List Byte) : (s.poke loc bs).victims = s.victims := rfl
@[simp] theorem State.poke_sectors (s : State) (loc : Nat) (bs : List Byte) : (s.poke loc bs).sectors = s.sectors := rfl
@[simp] theorem State.poke_hostValue (s : State) (loc : Nat) (bs : List Byte) : (s.poke loc bs).hostValue = s.hostValue := rfl
@[simp] theorem State.poke_memFenced (s : State) (loc : Nat) (bs : List Byte) : (s.poke loc bs).memFenced = s.memFenced := rfl
@[simp] theorem State.poke_ioFenced (s : State) (loc : Nat) (bs : List Byte) : (s.poke loc bs).ioFenced = s.ioFenced := rfl
@[simp] theorem State.poke_fabric (s : State) (loc : Nat) (bs : List Byte) : (s.poke loc bs).fabric = s.fabric := rfl
@[simp] theorem State.poke_mailbox (s : State) (loc : Nat) (bs : List Byte) : (s.poke loc bs).mailbox = s.mailbox := rfl
@[simp] theorem State.poke_attests (s : State) (loc : Nat) (bs : List Byte) : (s.poke loc bs).attests = s.attests := rfl
@[simp] theorem State.poke_power (s : State) (loc : Nat) (bs : List Byte) : (s.poke loc bs).power = s.power := rfl
@[simp] theorem State.poke_serving (s : State) (loc : Nat) (bs : List Byte) : (s.poke loc bs).serving = s.serving := rfl
@[simp] theorem State.poke_nextUid (s : State) (loc : Nat) (bs : List Byte) : (s.poke loc bs).nextUid = s.nextUid := rfl
@[simp] theorem State.poke_nextTag (s : State) (loc : Nat) (bs : List Byte) : (s.poke loc bs).nextTag = s.nextTag := rfl
@[simp] theorem State.poke_clock (s : State) (loc : Nat) (bs : List Byte) : (s.poke loc bs).clock = s.clock := rfl
@[simp] theorem State.poke_inReset (s : State) (loc : Nat) (bs : List Byte) : (s.poke loc bs).inReset = s.inReset := rfl
@[simp] theorem State.poke_agenda (s : State) (loc : Nat) (bs : List Byte) : (s.poke loc bs).agenda = s.agenda := rfl
@[simp] theorem State.poke_delays (s : State) (loc : Nat) (bs : List Byte) : (s.poke loc bs).delays = s.delays := rfl
@[simp] theorem State.poke_free (s : State) (loc : Nat) (bs : List Byte) : (s.poke loc bs).free = s.free := rfl

@[simp] theorem State.markPoison_warp (s : State) (loc : Nat) : (s.markPoison loc).warp = s.warp := rfl
@[simp] theorem State.markPoison_others (s : State) (loc : Nat) : (s.markPoison loc).others = s.others := rfl
@[simp] theorem State.markPoison_gangs (s : State) (loc : Nat) : (s.markPoison loc).gangs = s.gangs := rfl
@[simp] theorem State.markPoison_grids (s : State) (loc : Nat) : (s.markPoison loc).grids = s.grids := rfl
@[simp] theorem State.markPoison_contexts (s : State) (loc : Nat) : (s.markPoison loc).contexts = s.contexts := rfl
@[simp] theorem State.markPoison_queues (s : State) (loc : Nat) : (s.markPoison loc).queues = s.queues := rfl
@[simp] theorem State.markPoison_sites (s : State) (loc : Nat) : (s.markPoison loc).sites = s.sites := rfl
@[simp] theorem State.markPoison_pkglvl (s : State) (loc : Nat) : (s.markPoison loc).pkglvl = s.pkglvl := rfl
@[simp] theorem State.markPoison_admissions (s : State) (loc : Nat) : (s.markPoison loc).admissions = s.admissions := rfl
@[simp] theorem State.markPoison_mem (s : State) (loc : Nat) : (s.markPoison loc).mem = s.mem := rfl
@[simp] theorem State.markPoison_tlb (s : State) (loc : Nat) : (s.markPoison loc).tlb = s.tlb := rfl
@[simp] theorem State.markPoison_shootdowns (s : State) (loc : Nat) : (s.markPoison loc).shootdowns = s.shootdowns := rfl
@[simp] theorem State.markPoison_pageLocks (s : State) (loc : Nat) : (s.markPoison loc).pageLocks = s.pageLocks := rfl
@[simp] theorem State.markPoison_homes (s : State) (loc : Nat) : (s.markPoison loc).homes = s.homes := rfl
@[simp] theorem State.markPoison_regs (s : State) (loc : Nat) : (s.markPoison loc).regs = s.regs := rfl
@[simp] theorem State.markPoison_regions (s : State) (loc : Nat) : (s.markPoison loc).regions = s.regions := rfl
@[simp] theorem State.markPoison_partials (s : State) (loc : Nat) : (s.markPoison loc).partials = s.partials := rfl
@[simp] theorem State.markPoison_locks (s : State) (loc : Nat) : (s.markPoison loc).locks = s.locks := rfl
@[simp] theorem State.markPoison_lockWaits (s : State) (loc : Nat) : (s.markPoison loc).lockWaits = s.lockWaits := rfl
@[simp] theorem State.markPoison_monitors (s : State) (loc : Nat) : (s.markPoison loc).monitors = s.monitors := rfl
@[simp] theorem State.markPoison_cycles (s : State) (loc : Nat) : (s.markPoison loc).cycles = s.cycles := rfl
@[simp] theorem State.markPoison_cmds (s : State) (loc : Nat) : (s.markPoison loc).cmds = s.cmds := rfl
@[simp] theorem State.markPoison_owners (s : State) (loc : Nat) : (s.markPoison loc).owners = s.owners := rfl
@[simp] theorem State.markPoison_llc (s : State) (loc : Nat) : (s.markPoison loc).llc = s.llc := rfl
@[simp] theorem State.markPoison_victims (s : State) (loc : Nat) : (s.markPoison loc).victims = s.victims := rfl
@[simp] theorem State.markPoison_sectors (s : State) (loc : Nat) : (s.markPoison loc).sectors = s.sectors := rfl
@[simp] theorem State.markPoison_hostValue (s : State) (loc : Nat) : (s.markPoison loc).hostValue = s.hostValue := rfl
@[simp] theorem State.markPoison_memFenced (s : State) (loc : Nat) : (s.markPoison loc).memFenced = s.memFenced := rfl
@[simp] theorem State.markPoison_ioFenced (s : State) (loc : Nat) : (s.markPoison loc).ioFenced = s.ioFenced := rfl
@[simp] theorem State.markPoison_fabric (s : State) (loc : Nat) : (s.markPoison loc).fabric = s.fabric := rfl
@[simp] theorem State.markPoison_mailbox (s : State) (loc : Nat) : (s.markPoison loc).mailbox = s.mailbox := rfl
@[simp] theorem State.markPoison_attests (s : State) (loc : Nat) : (s.markPoison loc).attests = s.attests := rfl
@[simp] theorem State.markPoison_power (s : State) (loc : Nat) : (s.markPoison loc).power = s.power := rfl
@[simp] theorem State.markPoison_serving (s : State) (loc : Nat) : (s.markPoison loc).serving = s.serving := rfl
@[simp] theorem State.markPoison_nextUid (s : State) (loc : Nat) : (s.markPoison loc).nextUid = s.nextUid := rfl
@[simp] theorem State.markPoison_nextTag (s : State) (loc : Nat) : (s.markPoison loc).nextTag = s.nextTag := rfl
@[simp] theorem State.markPoison_clock (s : State) (loc : Nat) : (s.markPoison loc).clock = s.clock := rfl
@[simp] theorem State.markPoison_inReset (s : State) (loc : Nat) : (s.markPoison loc).inReset = s.inReset := rfl
@[simp] theorem State.markPoison_agenda (s : State) (loc : Nat) : (s.markPoison loc).agenda = s.agenda := rfl
@[simp] theorem State.markPoison_delays (s : State) (loc : Nat) : (s.markPoison loc).delays = s.delays := rfl
@[simp] theorem State.markPoison_free (s : State) (loc : Nat) : (s.markPoison loc).free = s.free := rfl

@[simp] theorem State.advance_warp (s : State) : (s.advance).warp = s.warp.advance := rfl
@[simp] theorem State.advance_others (s : State) : (s.advance).others = s.others := rfl
@[simp] theorem State.advance_gangs (s : State) : (s.advance).gangs = s.gangs := rfl
@[simp] theorem State.advance_grids (s : State) : (s.advance).grids = s.grids := rfl
@[simp] theorem State.advance_contexts (s : State) : (s.advance).contexts = s.contexts := rfl
@[simp] theorem State.advance_queues (s : State) : (s.advance).queues = s.queues := rfl
@[simp] theorem State.advance_sites (s : State) : (s.advance).sites = s.sites := rfl
@[simp] theorem State.advance_pkglvl (s : State) : (s.advance).pkglvl = s.pkglvl := rfl
@[simp] theorem State.advance_admissions (s : State) : (s.advance).admissions = s.admissions := rfl
@[simp] theorem State.advance_mem (s : State) : (s.advance).mem = s.mem := rfl
@[simp] theorem State.advance_poison (s : State) : (s.advance).poison = s.poison := rfl
@[simp] theorem State.advance_tlb (s : State) : (s.advance).tlb = s.tlb := rfl
@[simp] theorem State.advance_shootdowns (s : State) : (s.advance).shootdowns = s.shootdowns := rfl
@[simp] theorem State.advance_pageLocks (s : State) : (s.advance).pageLocks = s.pageLocks := rfl
@[simp] theorem State.advance_homes (s : State) : (s.advance).homes = s.homes := rfl
@[simp] theorem State.advance_regs (s : State) : (s.advance).regs = s.regs := rfl
@[simp] theorem State.advance_regions (s : State) : (s.advance).regions = s.regions := rfl
@[simp] theorem State.advance_partials (s : State) : (s.advance).partials = s.partials := rfl
@[simp] theorem State.advance_locks (s : State) : (s.advance).locks = s.locks := rfl
@[simp] theorem State.advance_lockWaits (s : State) : (s.advance).lockWaits = s.lockWaits := rfl
@[simp] theorem State.advance_monitors (s : State) : (s.advance).monitors = s.monitors := rfl
@[simp] theorem State.advance_cycles (s : State) : (s.advance).cycles = s.cycles := rfl
@[simp] theorem State.advance_cmds (s : State) : (s.advance).cmds = s.cmds := rfl
@[simp] theorem State.advance_owners (s : State) : (s.advance).owners = s.owners := rfl
@[simp] theorem State.advance_llc (s : State) : (s.advance).llc = s.llc := rfl
@[simp] theorem State.advance_victims (s : State) : (s.advance).victims = s.victims := rfl
@[simp] theorem State.advance_sectors (s : State) : (s.advance).sectors = s.sectors := rfl
@[simp] theorem State.advance_hostValue (s : State) : (s.advance).hostValue = s.hostValue := rfl
@[simp] theorem State.advance_memFenced (s : State) : (s.advance).memFenced = s.memFenced := rfl
@[simp] theorem State.advance_ioFenced (s : State) : (s.advance).ioFenced = s.ioFenced := rfl
@[simp] theorem State.advance_fabric (s : State) : (s.advance).fabric = s.fabric := rfl
@[simp] theorem State.advance_mailbox (s : State) : (s.advance).mailbox = s.mailbox := rfl
@[simp] theorem State.advance_attests (s : State) : (s.advance).attests = s.attests := rfl
@[simp] theorem State.advance_power (s : State) : (s.advance).power = s.power := rfl
@[simp] theorem State.advance_serving (s : State) : (s.advance).serving = s.serving := rfl
@[simp] theorem State.advance_nextUid (s : State) : (s.advance).nextUid = s.nextUid := rfl
@[simp] theorem State.advance_nextTag (s : State) : (s.advance).nextTag = s.nextTag := rfl
@[simp] theorem State.advance_clock (s : State) : (s.advance).clock = s.clock := rfl
@[simp] theorem State.advance_inReset (s : State) : (s.advance).inReset = s.inReset := rfl
@[simp] theorem State.advance_agenda (s : State) : (s.advance).agenda = s.agenda := rfl
@[simp] theorem State.advance_delays (s : State) : (s.advance).delays = s.delays := rfl
@[simp] theorem State.advance_free (s : State) : (s.advance).free = s.free := rfl

@[simp] theorem State.hold_others (s : State) : (s.hold).others = s.others := rfl
@[simp] theorem State.hold_gangs (s : State) : (s.hold).gangs = s.gangs := rfl
@[simp] theorem State.hold_grids (s : State) : (s.hold).grids = s.grids := rfl
@[simp] theorem State.hold_contexts (s : State) : (s.hold).contexts = s.contexts := rfl
@[simp] theorem State.hold_queues (s : State) : (s.hold).queues = s.queues := rfl
@[simp] theorem State.hold_sites (s : State) : (s.hold).sites = s.sites := rfl
@[simp] theorem State.hold_pkglvl (s : State) : (s.hold).pkglvl = s.pkglvl := rfl
@[simp] theorem State.hold_admissions (s : State) : (s.hold).admissions = s.admissions := rfl
@[simp] theorem State.hold_mem (s : State) : (s.hold).mem = s.mem := rfl
@[simp] theorem State.hold_poison (s : State) : (s.hold).poison = s.poison := rfl
@[simp] theorem State.hold_tlb (s : State) : (s.hold).tlb = s.tlb := rfl
@[simp] theorem State.hold_shootdowns (s : State) : (s.hold).shootdowns = s.shootdowns := rfl
@[simp] theorem State.hold_pageLocks (s : State) : (s.hold).pageLocks = s.pageLocks := rfl
@[simp] theorem State.hold_homes (s : State) : (s.hold).homes = s.homes := rfl
@[simp] theorem State.hold_regs (s : State) : (s.hold).regs = s.regs := rfl
@[simp] theorem State.hold_regions (s : State) : (s.hold).regions = s.regions := rfl
@[simp] theorem State.hold_partials (s : State) : (s.hold).partials = s.partials := rfl
@[simp] theorem State.hold_locks (s : State) : (s.hold).locks = s.locks := rfl
@[simp] theorem State.hold_lockWaits (s : State) : (s.hold).lockWaits = s.lockWaits := rfl
@[simp] theorem State.hold_monitors (s : State) : (s.hold).monitors = s.monitors := rfl
@[simp] theorem State.hold_cycles (s : State) : (s.hold).cycles = s.cycles := rfl
@[simp] theorem State.hold_cmds (s : State) : (s.hold).cmds = s.cmds := rfl
@[simp] theorem State.hold_owners (s : State) : (s.hold).owners = s.owners := rfl
@[simp] theorem State.hold_llc (s : State) : (s.hold).llc = s.llc := rfl
@[simp] theorem State.hold_victims (s : State) : (s.hold).victims = s.victims := rfl
@[simp] theorem State.hold_sectors (s : State) : (s.hold).sectors = s.sectors := rfl
@[simp] theorem State.hold_hostValue (s : State) : (s.hold).hostValue = s.hostValue := rfl
@[simp] theorem State.hold_memFenced (s : State) : (s.hold).memFenced = s.memFenced := rfl
@[simp] theorem State.hold_ioFenced (s : State) : (s.hold).ioFenced = s.ioFenced := rfl
@[simp] theorem State.hold_fabric (s : State) : (s.hold).fabric = s.fabric := rfl
@[simp] theorem State.hold_mailbox (s : State) : (s.hold).mailbox = s.mailbox := rfl
@[simp] theorem State.hold_attests (s : State) : (s.hold).attests = s.attests := rfl
@[simp] theorem State.hold_power (s : State) : (s.hold).power = s.power := rfl
@[simp] theorem State.hold_serving (s : State) : (s.hold).serving = s.serving := rfl
@[simp] theorem State.hold_nextUid (s : State) : (s.hold).nextUid = s.nextUid := rfl
@[simp] theorem State.hold_nextTag (s : State) : (s.hold).nextTag = s.nextTag := rfl
@[simp] theorem State.hold_clock (s : State) : (s.hold).clock = s.clock := rfl
@[simp] theorem State.hold_inReset (s : State) : (s.hold).inReset = s.inReset := rfl
@[simp] theorem State.hold_agenda (s : State) : (s.hold).agenda = s.agenda := rfl
@[simp] theorem State.hold_delays (s : State) : (s.hold).delays = s.delays := rfl
@[simp] theorem State.hold_free (s : State) : (s.hold).free = s.free := rfl

@[simp] theorem Warp.goto_uid (w : Warp) (pc : Pc) : (w.goto pc).uid = w.uid := rfl
@[simp] theorem Warp.goto_ctx (w : Warp) (pc : Pc) : (w.goto pc).ctx = w.ctx := rfl
@[simp] theorem Warp.goto_gang (w : Warp) (pc : Pc) : (w.goto pc).gang = w.gang := rfl
@[simp] theorem Warp.goto_wg (w : Warp) (pc : Pc) : (w.goto pc).wg = w.wg := rfl
@[simp] theorem Warp.goto_index (w : Warp) (pc : Pc) : (w.goto pc).index = w.index := rfl
@[simp] theorem Warp.goto_site (w : Warp) (pc : Pc) : (w.goto pc).site = w.site := rfl
@[simp] theorem Warp.goto_cluster (w : Warp) (pc : Pc) : (w.goto pc).cluster = w.cluster := rfl
@[simp] theorem Warp.goto_core (w : Warp) (pc : Pc) : (w.goto pc).core = w.core := rfl
@[simp] theorem Warp.goto_slot (w : Warp) (pc : Pc) : (w.goto pc).slot = w.slot := rfl
@[simp] theorem Warp.goto_live (w : Warp) (pc : Pc) : (w.goto pc).live = w.live := rfl
@[simp] theorem Warp.goto_resident (w : Warp) (pc : Pc) : (w.goto pc).resident = w.resident := rfl
@[simp] theorem Warp.goto_s (w : Warp) (pc : Pc) : (w.goto pc).s = w.s := rfl
@[simp] theorem Warp.goto_v (w : Warp) (pc : Pc) : (w.goto pc).v = w.v := rfl
@[simp] theorem Warp.goto_m (w : Warp) (pc : Pc) : (w.goto pc).m = w.m := rfl
@[simp] theorem Warp.goto_tsr (w : Warp) (pc : Pc) : (w.goto pc).tsr = w.tsr := rfl
@[simp] theorem Warp.goto_sFull (w : Warp) (pc : Pc) : (w.goto pc).sFull = w.sFull := rfl
@[simp] theorem Warp.goto_vFull (w : Warp) (pc : Pc) : (w.goto pc).vFull = w.vFull := rfl
@[simp] theorem Warp.goto_sPoison (w : Warp) (pc : Pc) : (w.goto pc).sPoison = w.sPoison := rfl
@[simp] theorem Warp.goto_vPoison (w : Warp) (pc : Pc) : (w.goto pc).vPoison = w.vPoison := rfl
@[simp] theorem Warp.goto_mPoison (w : Warp) (pc : Pc) : (w.goto pc).mPoison = w.mPoison := rfl
@[simp] theorem Warp.goto_tsrPoison (w : Warp) (pc : Pc) : (w.goto pc).tsrPoison = w.tsrPoison := rfl
@[simp] theorem Warp.goto_csrPoison (w : Warp) (pc : Pc) : (w.goto pc).csrPoison = w.csrPoison := rfl
@[simp] theorem Warp.goto_dead (w : Warp) (pc : Pc) : (w.goto pc).dead = w.dead := rfl
@[simp] theorem Warp.goto_dsrc (w : Warp) (pc : Pc) : (w.goto pc).dsrc = w.dsrc := rfl
@[simp] theorem Warp.goto_exited (w : Warp) (pc : Pc) : (w.goto pc).exited = w.exited := rfl
@[simp] theorem Warp.goto_fpflags (w : Warp) (pc : Pc) : (w.goto pc).fpflags = w.fpflags := rfl
@[simp] theorem Warp.goto_frags (w : Warp) (pc : Pc) : (w.goto pc).frags = w.frags := rfl
@[simp] theorem Warp.goto_park (w : Warp) (pc : Pc) : (w.goto pc).park = w.park := rfl
@[simp] theorem Warp.goto_pend (w : Warp) (pc : Pc) : (w.goto pc).pend = w.pend := rfl
@[simp] theorem Warp.goto_nextPend (w : Warp) (pc : Pc) : (w.goto pc).nextPend = w.nextPend := rfl
@[simp] theorem Warp.goto_log (w : Warp) (pc : Pc) : (w.goto pc).log = w.log := rfl
@[simp] theorem Warp.goto_locks (w : Warp) (pc : Pc) : (w.goto pc).locks = w.locks := rfl
@[simp] theorem Warp.goto_stklim (w : Warp) (pc : Pc) : (w.goto pc).stklim = w.stklim := rfl
@[simp] theorem Warp.goto_stktop (w : Warp) (pc : Pc) : (w.goto pc).stktop = w.stktop := rfl
@[simp] theorem Warp.goto_lease (w : Warp) (pc : Pc) : (w.goto pc).lease = w.lease := rfl
@[simp] theorem Warp.goto_plreq (w : Warp) (pc : Pc) : (w.goto pc).plreq = w.plreq := rfl
@[simp] theorem Warp.goto_out (w : Warp) (pc : Pc) : (w.goto pc).out = w.out := rfl
@[simp] theorem Warp.goto_issued (w : Warp) (pc : Pc) : (w.goto pc).issued = w.issued := rfl
@[simp] theorem Warp.goto_heldFaults (w : Warp) (pc : Pc) : (w.goto pc).heldFaults = w.heldFaults := rfl
@[simp] theorem Warp.goto_barw (w : Warp) (pc : Pc) : (w.goto pc).barw = w.barw := rfl
@[simp] theorem Warp.goto_barg (w : Warp) (pc : Pc) : (w.goto pc).barg = w.barg := rfl
@[simp] theorem Warp.goto_trapvec (w : Warp) (pc : Pc) : (w.goto pc).trapvec = w.trapvec := rfl
@[simp] theorem Warp.goto_trapcause (w : Warp) (pc : Pc) : (w.goto pc).trapcause = w.trapcause := rfl
@[simp] theorem Warp.goto_trappc (w : Warp) (pc : Pc) : (w.goto pc).trappc = w.trappc := rfl
@[simp] theorem Warp.goto_traplanes (w : Warp) (pc : Pc) : (w.goto pc).traplanes = w.traplanes := rfl
@[simp] theorem Warp.goto_trap (w : Warp) (pc : Pc) : (w.goto pc).trap = w.trap := rfl
@[simp] theorem Warp.goto_heldTraps (w : Warp) (pc : Pc) : (w.goto pc).heldTraps = w.heldTraps := rfl
@[simp] theorem Warp.goto_traps (w : Warp) (pc : Pc) : (w.goto pc).traps = w.traps := rfl
@[simp] theorem Warp.goto_raising (w : Warp) (pc : Pc) : (w.goto pc).raising = w.raising := rfl
@[simp] theorem Warp.goto_stall (w : Warp) (pc : Pc) : (w.goto pc).stall = w.stall := rfl
@[simp] theorem Warp.goto_unmapped (w : Warp) (pc : Pc) : (w.goto pc).unmapped = w.unmapped := rfl
@[simp] theorem Warp.goto_debugStop (w : Warp) (pc : Pc) : (w.goto pc).debugStop = w.debugStop := rfl
@[simp] theorem Warp.goto_stepping (w : Warp) (pc : Pc) : (w.goto pc).stepping = w.stepping := rfl

@[simp] theorem Warp.advance_uid (w : Warp) : (w.advance).uid = w.uid := rfl
@[simp] theorem Warp.advance_ctx (w : Warp) : (w.advance).ctx = w.ctx := rfl
@[simp] theorem Warp.advance_gang (w : Warp) : (w.advance).gang = w.gang := rfl
@[simp] theorem Warp.advance_wg (w : Warp) : (w.advance).wg = w.wg := rfl
@[simp] theorem Warp.advance_index (w : Warp) : (w.advance).index = w.index := rfl
@[simp] theorem Warp.advance_site (w : Warp) : (w.advance).site = w.site := rfl
@[simp] theorem Warp.advance_cluster (w : Warp) : (w.advance).cluster = w.cluster := rfl
@[simp] theorem Warp.advance_core (w : Warp) : (w.advance).core = w.core := rfl
@[simp] theorem Warp.advance_slot (w : Warp) : (w.advance).slot = w.slot := rfl
@[simp] theorem Warp.advance_live (w : Warp) : (w.advance).live = w.live := rfl
@[simp] theorem Warp.advance_resident (w : Warp) : (w.advance).resident = w.resident := rfl
@[simp] theorem Warp.advance_s (w : Warp) : (w.advance).s = w.s := rfl
@[simp] theorem Warp.advance_v (w : Warp) : (w.advance).v = w.v := rfl
@[simp] theorem Warp.advance_m (w : Warp) : (w.advance).m = w.m := rfl
@[simp] theorem Warp.advance_tsr (w : Warp) : (w.advance).tsr = w.tsr := rfl
@[simp] theorem Warp.advance_sFull (w : Warp) : (w.advance).sFull = w.sFull := rfl
@[simp] theorem Warp.advance_vFull (w : Warp) : (w.advance).vFull = w.vFull := rfl
@[simp] theorem Warp.advance_sPoison (w : Warp) : (w.advance).sPoison = w.sPoison := rfl
@[simp] theorem Warp.advance_vPoison (w : Warp) : (w.advance).vPoison = w.vPoison := rfl
@[simp] theorem Warp.advance_mPoison (w : Warp) : (w.advance).mPoison = w.mPoison := rfl
@[simp] theorem Warp.advance_tsrPoison (w : Warp) : (w.advance).tsrPoison = w.tsrPoison := rfl
@[simp] theorem Warp.advance_csrPoison (w : Warp) : (w.advance).csrPoison = w.csrPoison := rfl
@[simp] theorem Warp.advance_dead (w : Warp) : (w.advance).dead = w.dead := rfl
@[simp] theorem Warp.advance_dsrc (w : Warp) : (w.advance).dsrc = w.dsrc := rfl
@[simp] theorem Warp.advance_exited (w : Warp) : (w.advance).exited = w.exited := rfl
@[simp] theorem Warp.advance_fpflags (w : Warp) : (w.advance).fpflags = w.fpflags := rfl
@[simp] theorem Warp.advance_frags (w : Warp) : (w.advance).frags = w.frags := rfl
@[simp] theorem Warp.advance_park (w : Warp) : (w.advance).park = w.park := rfl
@[simp] theorem Warp.advance_pend (w : Warp) : (w.advance).pend = w.pend := rfl
@[simp] theorem Warp.advance_nextPend (w : Warp) : (w.advance).nextPend = w.nextPend := rfl
@[simp] theorem Warp.advance_log (w : Warp) : (w.advance).log = w.log := rfl
@[simp] theorem Warp.advance_locks (w : Warp) : (w.advance).locks = w.locks := rfl
@[simp] theorem Warp.advance_stklim (w : Warp) : (w.advance).stklim = w.stklim := rfl
@[simp] theorem Warp.advance_stktop (w : Warp) : (w.advance).stktop = w.stktop := rfl
@[simp] theorem Warp.advance_lease (w : Warp) : (w.advance).lease = w.lease := rfl
@[simp] theorem Warp.advance_plreq (w : Warp) : (w.advance).plreq = w.plreq := rfl
@[simp] theorem Warp.advance_out (w : Warp) : (w.advance).out = w.out := rfl
@[simp] theorem Warp.advance_issued (w : Warp) : (w.advance).issued = w.issued := rfl
@[simp] theorem Warp.advance_heldFaults (w : Warp) : (w.advance).heldFaults = w.heldFaults := rfl
@[simp] theorem Warp.advance_barw (w : Warp) : (w.advance).barw = w.barw := rfl
@[simp] theorem Warp.advance_barg (w : Warp) : (w.advance).barg = w.barg := rfl
@[simp] theorem Warp.advance_trapvec (w : Warp) : (w.advance).trapvec = w.trapvec := rfl
@[simp] theorem Warp.advance_trapcause (w : Warp) : (w.advance).trapcause = w.trapcause := rfl
@[simp] theorem Warp.advance_trappc (w : Warp) : (w.advance).trappc = w.trappc := rfl
@[simp] theorem Warp.advance_traplanes (w : Warp) : (w.advance).traplanes = w.traplanes := rfl
@[simp] theorem Warp.advance_trap (w : Warp) : (w.advance).trap = w.trap := rfl
@[simp] theorem Warp.advance_heldTraps (w : Warp) : (w.advance).heldTraps = w.heldTraps := rfl
@[simp] theorem Warp.advance_traps (w : Warp) : (w.advance).traps = w.traps := rfl
@[simp] theorem Warp.advance_raising (w : Warp) : (w.advance).raising = w.raising := rfl
@[simp] theorem Warp.advance_stall (w : Warp) : (w.advance).stall = w.stall := rfl
@[simp] theorem Warp.advance_unmapped (w : Warp) : (w.advance).unmapped = w.unmapped := rfl
@[simp] theorem Warp.advance_debugStop (w : Warp) : (w.advance).debugStop = w.debugStop := rfl
@[simp] theorem Warp.advance_stepping (w : Warp) : (w.advance).stepping = w.stepping := rfl

@[simp] theorem Warp.unblock_uid (w : Warp) (k : Nat) : (w.unblock k).uid = w.uid := rfl
@[simp] theorem Warp.unblock_ctx (w : Warp) (k : Nat) : (w.unblock k).ctx = w.ctx := rfl
@[simp] theorem Warp.unblock_gang (w : Warp) (k : Nat) : (w.unblock k).gang = w.gang := rfl
@[simp] theorem Warp.unblock_wg (w : Warp) (k : Nat) : (w.unblock k).wg = w.wg := rfl
@[simp] theorem Warp.unblock_index (w : Warp) (k : Nat) : (w.unblock k).index = w.index := rfl
@[simp] theorem Warp.unblock_site (w : Warp) (k : Nat) : (w.unblock k).site = w.site := rfl
@[simp] theorem Warp.unblock_cluster (w : Warp) (k : Nat) : (w.unblock k).cluster = w.cluster := rfl
@[simp] theorem Warp.unblock_core (w : Warp) (k : Nat) : (w.unblock k).core = w.core := rfl
@[simp] theorem Warp.unblock_slot (w : Warp) (k : Nat) : (w.unblock k).slot = w.slot := rfl
@[simp] theorem Warp.unblock_live (w : Warp) (k : Nat) : (w.unblock k).live = w.live := rfl
@[simp] theorem Warp.unblock_resident (w : Warp) (k : Nat) : (w.unblock k).resident = w.resident := rfl
@[simp] theorem Warp.unblock_s (w : Warp) (k : Nat) : (w.unblock k).s = w.s := rfl
@[simp] theorem Warp.unblock_v (w : Warp) (k : Nat) : (w.unblock k).v = w.v := rfl
@[simp] theorem Warp.unblock_m (w : Warp) (k : Nat) : (w.unblock k).m = w.m := rfl
@[simp] theorem Warp.unblock_tsr (w : Warp) (k : Nat) : (w.unblock k).tsr = w.tsr := rfl
@[simp] theorem Warp.unblock_sFull (w : Warp) (k : Nat) : (w.unblock k).sFull = w.sFull := rfl
@[simp] theorem Warp.unblock_vFull (w : Warp) (k : Nat) : (w.unblock k).vFull = w.vFull := rfl
@[simp] theorem Warp.unblock_sPoison (w : Warp) (k : Nat) : (w.unblock k).sPoison = w.sPoison := rfl
@[simp] theorem Warp.unblock_vPoison (w : Warp) (k : Nat) : (w.unblock k).vPoison = w.vPoison := rfl
@[simp] theorem Warp.unblock_mPoison (w : Warp) (k : Nat) : (w.unblock k).mPoison = w.mPoison := rfl
@[simp] theorem Warp.unblock_tsrPoison (w : Warp) (k : Nat) : (w.unblock k).tsrPoison = w.tsrPoison := rfl
@[simp] theorem Warp.unblock_csrPoison (w : Warp) (k : Nat) : (w.unblock k).csrPoison = w.csrPoison := rfl
@[simp] theorem Warp.unblock_dead (w : Warp) (k : Nat) : (w.unblock k).dead = w.dead := rfl
@[simp] theorem Warp.unblock_dsrc (w : Warp) (k : Nat) : (w.unblock k).dsrc = w.dsrc := rfl
@[simp] theorem Warp.unblock_exited (w : Warp) (k : Nat) : (w.unblock k).exited = w.exited := rfl
@[simp] theorem Warp.unblock_fpflags (w : Warp) (k : Nat) : (w.unblock k).fpflags = w.fpflags := rfl
@[simp] theorem Warp.unblock_park (w : Warp) (k : Nat) : (w.unblock k).park = w.park := rfl
@[simp] theorem Warp.unblock_pend (w : Warp) (k : Nat) : (w.unblock k).pend = w.pend := rfl
@[simp] theorem Warp.unblock_nextPend (w : Warp) (k : Nat) : (w.unblock k).nextPend = w.nextPend := rfl
@[simp] theorem Warp.unblock_log (w : Warp) (k : Nat) : (w.unblock k).log = w.log := rfl
@[simp] theorem Warp.unblock_locks (w : Warp) (k : Nat) : (w.unblock k).locks = w.locks := rfl
@[simp] theorem Warp.unblock_stklim (w : Warp) (k : Nat) : (w.unblock k).stklim = w.stklim := rfl
@[simp] theorem Warp.unblock_stktop (w : Warp) (k : Nat) : (w.unblock k).stktop = w.stktop := rfl
@[simp] theorem Warp.unblock_lease (w : Warp) (k : Nat) : (w.unblock k).lease = w.lease := rfl
@[simp] theorem Warp.unblock_plreq (w : Warp) (k : Nat) : (w.unblock k).plreq = w.plreq := rfl
@[simp] theorem Warp.unblock_out (w : Warp) (k : Nat) : (w.unblock k).out = w.out := rfl
@[simp] theorem Warp.unblock_issued (w : Warp) (k : Nat) : (w.unblock k).issued = w.issued := rfl
@[simp] theorem Warp.unblock_heldFaults (w : Warp) (k : Nat) : (w.unblock k).heldFaults = w.heldFaults := rfl
@[simp] theorem Warp.unblock_barw (w : Warp) (k : Nat) : (w.unblock k).barw = w.barw := rfl
@[simp] theorem Warp.unblock_barg (w : Warp) (k : Nat) : (w.unblock k).barg = w.barg := rfl
@[simp] theorem Warp.unblock_trapvec (w : Warp) (k : Nat) : (w.unblock k).trapvec = w.trapvec := rfl
@[simp] theorem Warp.unblock_trapcause (w : Warp) (k : Nat) : (w.unblock k).trapcause = w.trapcause := rfl
@[simp] theorem Warp.unblock_trappc (w : Warp) (k : Nat) : (w.unblock k).trappc = w.trappc := rfl
@[simp] theorem Warp.unblock_traplanes (w : Warp) (k : Nat) : (w.unblock k).traplanes = w.traplanes := rfl
@[simp] theorem Warp.unblock_heldTraps (w : Warp) (k : Nat) : (w.unblock k).heldTraps = w.heldTraps := rfl
@[simp] theorem Warp.unblock_traps (w : Warp) (k : Nat) : (w.unblock k).traps = w.traps := rfl
@[simp] theorem Warp.unblock_raising (w : Warp) (k : Nat) : (w.unblock k).raising = w.raising := rfl
@[simp] theorem Warp.unblock_stall (w : Warp) (k : Nat) : (w.unblock k).stall = w.stall := rfl
@[simp] theorem Warp.unblock_unmapped (w : Warp) (k : Nat) : (w.unblock k).unmapped = w.unmapped := rfl
@[simp] theorem Warp.unblock_debugStop (w : Warp) (k : Nat) : (w.unblock k).debugStop = w.debugStop := rfl
@[simp] theorem Warp.unblock_stepping (w : Warp) (k : Nat) : (w.unblock k).stepping = w.stepping := rfl

@[simp] theorem Warp.advance_pc (w : Warp) : w.advance.frag.pc = w.frag.fetch + 4 := rfl
@[simp] theorem Warp.advance_fetch (w : Warp) : w.advance.frag.fetch = w.frag.fetch + 4 := rfl
@[simp] theorem Warp.advance_hints (w : Warp) : w.advance.frag.hints = {} := rfl
@[simp] theorem Warp.advance_mask (w : Warp) : w.advance.frag.mask = w.frag.mask := rfl
@[simp] theorem Warp.advance_entry (w : Warp) : w.advance.frag.entry = w.frag.entry := rfl
@[simp] theorem Warp.goto_pc (w : Warp) (pc : Pc) : (w.goto pc).frag.pc = pc := rfl
@[simp] theorem Warp.goto_mask (w : Warp) (pc : Pc) : (w.goto pc).frag.mask = w.frag.mask := rfl
@[simp] theorem Warp.goto_entry (w : Warp) (pc : Pc) : (w.goto pc).frag.entry = w.frag.entry := rfl

/-! A completion in time and a late one (log 2). -/

@[simp] theorem State.finish_others (s : State) (ws : List RegWrite) (fl : BitVec 5) : (s.finish ws fl).others = s.others := by
  unfold State.finish; split <;> rfl
@[simp] theorem State.finish_gangs (s : State) (ws : List RegWrite) (fl : BitVec 5) : (s.finish ws fl).gangs = s.gangs := by
  unfold State.finish; split <;> rfl
@[simp] theorem State.finish_grids (s : State) (ws : List RegWrite) (fl : BitVec 5) : (s.finish ws fl).grids = s.grids := by
  unfold State.finish; split <;> rfl
@[simp] theorem State.finish_contexts (s : State) (ws : List RegWrite) (fl : BitVec 5) : (s.finish ws fl).contexts = s.contexts := by
  unfold State.finish; split <;> rfl
@[simp] theorem State.finish_queues (s : State) (ws : List RegWrite) (fl : BitVec 5) : (s.finish ws fl).queues = s.queues := by
  unfold State.finish; split <;> rfl
@[simp] theorem State.finish_sites (s : State) (ws : List RegWrite) (fl : BitVec 5) : (s.finish ws fl).sites = s.sites := by
  unfold State.finish; split <;> rfl
@[simp] theorem State.finish_pkglvl (s : State) (ws : List RegWrite) (fl : BitVec 5) : (s.finish ws fl).pkglvl = s.pkglvl := by
  unfold State.finish; split <;> rfl
@[simp] theorem State.finish_admissions (s : State) (ws : List RegWrite) (fl : BitVec 5) : (s.finish ws fl).admissions = s.admissions := by
  unfold State.finish; split <;> rfl
@[simp] theorem State.finish_mem (s : State) (ws : List RegWrite) (fl : BitVec 5) : (s.finish ws fl).mem = s.mem := by
  unfold State.finish; split <;> rfl
@[simp] theorem State.finish_poison (s : State) (ws : List RegWrite) (fl : BitVec 5) : (s.finish ws fl).poison = s.poison := by
  unfold State.finish; split <;> rfl
@[simp] theorem State.finish_tlb (s : State) (ws : List RegWrite) (fl : BitVec 5) : (s.finish ws fl).tlb = s.tlb := by
  unfold State.finish; split <;> rfl
@[simp] theorem State.finish_shootdowns (s : State) (ws : List RegWrite) (fl : BitVec 5) : (s.finish ws fl).shootdowns = s.shootdowns := by
  unfold State.finish; split <;> rfl
@[simp] theorem State.finish_pageLocks (s : State) (ws : List RegWrite) (fl : BitVec 5) : (s.finish ws fl).pageLocks = s.pageLocks := by
  unfold State.finish; split <;> rfl
@[simp] theorem State.finish_homes (s : State) (ws : List RegWrite) (fl : BitVec 5) : (s.finish ws fl).homes = s.homes := by
  unfold State.finish; split <;> rfl
@[simp] theorem State.finish_regs (s : State) (ws : List RegWrite) (fl : BitVec 5) : (s.finish ws fl).regs = s.regs := by
  unfold State.finish; split <;> rfl
@[simp] theorem State.finish_regions (s : State) (ws : List RegWrite) (fl : BitVec 5) : (s.finish ws fl).regions = s.regions := by
  unfold State.finish; split <;> rfl
@[simp] theorem State.finish_partials (s : State) (ws : List RegWrite) (fl : BitVec 5) : (s.finish ws fl).partials = s.partials := by
  unfold State.finish; split <;> rfl
@[simp] theorem State.finish_locks (s : State) (ws : List RegWrite) (fl : BitVec 5) : (s.finish ws fl).locks = s.locks := by
  unfold State.finish; split <;> rfl
@[simp] theorem State.finish_lockWaits (s : State) (ws : List RegWrite) (fl : BitVec 5) : (s.finish ws fl).lockWaits = s.lockWaits := by
  unfold State.finish; split <;> rfl
@[simp] theorem State.finish_monitors (s : State) (ws : List RegWrite) (fl : BitVec 5) : (s.finish ws fl).monitors = s.monitors := by
  unfold State.finish; split <;> rfl
@[simp] theorem State.finish_cycles (s : State) (ws : List RegWrite) (fl : BitVec 5) : (s.finish ws fl).cycles = s.cycles := by
  unfold State.finish; split <;> rfl
@[simp] theorem State.finish_cmds (s : State) (ws : List RegWrite) (fl : BitVec 5) : (s.finish ws fl).cmds = s.cmds := by
  unfold State.finish; split <;> rfl
@[simp] theorem State.finish_owners (s : State) (ws : List RegWrite) (fl : BitVec 5) : (s.finish ws fl).owners = s.owners := by
  unfold State.finish; split <;> rfl
@[simp] theorem State.finish_llc (s : State) (ws : List RegWrite) (fl : BitVec 5) : (s.finish ws fl).llc = s.llc := by
  unfold State.finish; split <;> rfl
@[simp] theorem State.finish_victims (s : State) (ws : List RegWrite) (fl : BitVec 5) : (s.finish ws fl).victims = s.victims := by
  unfold State.finish; split <;> rfl
@[simp] theorem State.finish_sectors (s : State) (ws : List RegWrite) (fl : BitVec 5) : (s.finish ws fl).sectors = s.sectors := by
  unfold State.finish; split <;> rfl
@[simp] theorem State.finish_hostValue (s : State) (ws : List RegWrite) (fl : BitVec 5) : (s.finish ws fl).hostValue = s.hostValue := by
  unfold State.finish; split <;> rfl
@[simp] theorem State.finish_memFenced (s : State) (ws : List RegWrite) (fl : BitVec 5) : (s.finish ws fl).memFenced = s.memFenced := by
  unfold State.finish; split <;> rfl
@[simp] theorem State.finish_ioFenced (s : State) (ws : List RegWrite) (fl : BitVec 5) : (s.finish ws fl).ioFenced = s.ioFenced := by
  unfold State.finish; split <;> rfl
@[simp] theorem State.finish_fabric (s : State) (ws : List RegWrite) (fl : BitVec 5) : (s.finish ws fl).fabric = s.fabric := by
  unfold State.finish; split <;> rfl
@[simp] theorem State.finish_mailbox (s : State) (ws : List RegWrite) (fl : BitVec 5) : (s.finish ws fl).mailbox = s.mailbox := by
  unfold State.finish; split <;> rfl
@[simp] theorem State.finish_attests (s : State) (ws : List RegWrite) (fl : BitVec 5) : (s.finish ws fl).attests = s.attests := by
  unfold State.finish; split <;> rfl
@[simp] theorem State.finish_power (s : State) (ws : List RegWrite) (fl : BitVec 5) : (s.finish ws fl).power = s.power := by
  unfold State.finish; split <;> rfl
@[simp] theorem State.finish_serving (s : State) (ws : List RegWrite) (fl : BitVec 5) : (s.finish ws fl).serving = s.serving := by
  unfold State.finish; split <;> rfl
@[simp] theorem State.finish_nextUid (s : State) (ws : List RegWrite) (fl : BitVec 5) : (s.finish ws fl).nextUid = s.nextUid := by
  unfold State.finish; split <;> rfl
@[simp] theorem State.finish_nextTag (s : State) (ws : List RegWrite) (fl : BitVec 5) : (s.finish ws fl).nextTag = s.nextTag := by
  unfold State.finish; split <;> rfl
@[simp] theorem State.finish_clock (s : State) (ws : List RegWrite) (fl : BitVec 5) : (s.finish ws fl).clock = s.clock := by
  unfold State.finish; split <;> rfl
@[simp] theorem State.finish_inReset (s : State) (ws : List RegWrite) (fl : BitVec 5) : (s.finish ws fl).inReset = s.inReset := by
  unfold State.finish; split <;> rfl
@[simp] theorem State.finish_agenda (s : State) (ws : List RegWrite) (fl : BitVec 5) : (s.finish ws fl).agenda = s.agenda := by
  unfold State.finish; split <;> rfl
@[simp] theorem State.finish_free (s : State) (ws : List RegWrite) (fl : BitVec 5) : (s.finish ws fl).free = s.free := by
  unfold State.finish; split <;> rfl

theorem State.finish_delays (s : State) (ws : List RegWrite) (fl : BitVec 5) : (s.finish ws fl).delays = s.delays.tail := by
  unfold State.finish; split <;> simp_all

end Sys2Proof.Machine
end

