-- ==== Sys2Proof/Laws/Memory.lean ====
section
/-! SUPPORT. The laws of memory: what a byte reads as after a write, and that every memory operation keeps the canonical
form. -/

set_option Elab.async false

namespace Sys2Proof.Machine

/-- A byte reads as written. -/
@[simp] theorem Memory.read_write_self (m : Memory) (a : Nat) (v : Byte) (h : m.Pairwise fun x y => x.1 < y.1) :
    (m.write a v).read a = v := by
  induction m with
  | nil => by_cases hv : v = unlisted <;> simp [Memory.write, Memory.read, hv]
  | cons x t ih =>
    obtain ⟨b, w⟩ := x
    have ht := (List.pairwise_cons.1 h)
    have absent : ∀ l : Memory, (∀ y ∈ l, a < y.1) → Memory.read l a = unlisted := by
      intro l hl
      induction l with
      | nil => rfl
      | cons y l il =>
        obtain ⟨c, u⟩ := y
        have : ¬ c = a := by have := hl (c, u) (by simp); simp at this; omega
        simp [Memory.read, this]
        exact il fun z hz => hl z (by simp [hz])
    unfold Memory.write
    by_cases h1 : a < b
    · by_cases hv : v = unlisted
      · simp only [h1, hv, if_true]
        apply absent
        intro y hy
        rcases List.mem_cons.1 hy with rfl | hy
        · exact h1
        · have := ht.1 y hy; simp at this; omega
      · simp [h1, hv, Memory.read]
    · by_cases h2 : a = b
      · subst h2
        by_cases hv : v = unlisted
        · simp only [h1, hv, if_true, if_false]
          exact absent t fun y hy => ht.1 y hy
        · simp [hv, Memory.read]
      · have : ¬ b = a := fun e => h2 e.symm
        simp [h1, h2, Memory.read, this, ih ht.2]

/-- A write leaves every other byte alone. -/
@[simp] theorem Memory.read_write_other (m : Memory) (a c : Nat) (v : Byte) (hc : c ≠ a)
    (h : m.Pairwise fun x y => x.1 < y.1) : (m.write a v).read c = m.read c := by
  induction m with
  | nil => by_cases hv : v = unlisted <;> simp [Memory.write, Memory.read, hv, Ne.symm hc]
  | cons x t ih =>
    obtain ⟨b, w⟩ := x
    have ht := (List.pairwise_cons.1 h)
    unfold Memory.write
    by_cases h1 : a < b
    · by_cases hv : v = unlisted <;> simp [h1, hv, Memory.read, Ne.symm hc]
    · by_cases h2 : a = b
      · subst h2
        by_cases hv : v = unlisted
        · simp [hv, Memory.read, Ne.symm hc]
        · simp [hv, Memory.read, Ne.symm hc]
      · simp [h1, h2, Memory.read, ih ht.2]

/-- Every entry that a write leaves was there before or is the one written. -/
theorem Memory.mem_write {m : Memory} {a : Nat} {v : Byte} {x : Nat × Byte} (h : x ∈ m.write a v) :
    x ∈ m ∨ x = (a, v) ∧ v ≠ unlisted := by
  induction m with
  | nil => by_cases hv : v = unlisted <;> simp_all [Memory.write]
  | cons y t ih =>
    obtain ⟨b, w⟩ := y
    unfold Memory.write at h
    split at h
    · split at h
      · exact .inl h
      · rcases List.mem_cons.1 h with rfl | h
        · exact .inr ⟨rfl, by assumption⟩
        · exact .inl h
    · split at h
      · split at h
        · exact .inl (List.mem_cons_of_mem _ h)
        · rcases List.mem_cons.1 h with rfl | h
          · exact .inr ⟨rfl, by assumption⟩
          · exact .inl (List.mem_cons_of_mem _ h)
      · rcases List.mem_cons.1 h with rfl | h
        · exact .inl (by simp)
        · rcases ih h with h | h
          · exact .inl (List.mem_cons_of_mem _ h)
          · exact .inr h

/-- A write keeps the canonical form. -/
theorem Memory.wf_write {m : Memory} (h : m.wf) (a : Nat) (v : Byte) : (m.write a v).wf := by
  refine ⟨?_, fun c hc => ?_⟩
  · have hp := h.1
    clear h
    induction m with
    | nil => by_cases hv : v = unlisted <;> simp [Memory.write, hv]
    | cons y t ih =>
      obtain ⟨b, w⟩ := y
      obtain ⟨hb, ht⟩ := List.pairwise_cons.1 hp
      unfold Memory.write
      split
      · rename_i hab
        split
        · exact hp
        · refine List.pairwise_cons.2 ⟨fun z hz => ?_, hp⟩
          rcases List.mem_cons.1 hz with rfl | hz
          · exact hab
          · have := hb z hz; simp at this ⊢; omega
      · split
        · rename_i hab heq
          subst heq
          split
          · exact ht
          · exact List.pairwise_cons.2 ⟨hb, ht⟩
        · rename_i hab hne
          refine List.pairwise_cons.2 ⟨fun z hz => ?_, ih ht⟩
          rcases Memory.mem_write hz with hz | ⟨rfl, -⟩
          · exact hb z hz
          · simp; omega
  · rcases Memory.mem_write hc with hc | ⟨rfl, hv⟩
    · exact h.2 c hc
    · exact hv

theorem Memory.wf_writeBytes (bs : List Byte) : ∀ {m : Memory} (_ : m.wf) (a : Nat), (m.writeBytes a bs).wf := by
  induction bs with
  | nil => intro m h a; exact h
  | cons b t ih => intro m h a; exact ih (Memory.wf_write h a b) (a + 1)

/-- Dropping entries keeps the canonical form. -/
theorem Memory.wf_filter {m : Memory} (h : m.wf) (p : Nat × Byte → Bool) : Memory.wf (m.filter p) :=
  ⟨h.1.filter p, fun c hc => h.2 c (List.mem_of_mem_filter hc)⟩

theorem Memory.wf_nil : Memory.wf [] := by simp [Memory.wf]

/-- Bytes written from a place leave every byte outside it alone. -/
theorem Memory.read_writeBytes_other (bs : List Byte) : ∀ (m : Memory) (_ : m.wf) (a c : Nat)
    (_ : c < a ∨ a + bs.length ≤ c), (m.writeBytes a bs).read c = m.read c := by
  induction bs with
  | nil => intros; rfl
  | cons b t ih =>
    intro m h a c hc
    simp only [List.length_cons] at hc
    rw [Memory.writeBytes, ih _ (Memory.wf_write h a b) (a + 1) c (by omega),
      Memory.read_write_other m a c b (by omega) h.1]

/-- Bytes written from a place read back. -/
theorem Memory.readBytes_writeBytes (bs : List Byte) : ∀ (m : Memory) (_ : m.wf) (a : Nat),
    (m.writeBytes a bs).readBytes a bs.length = bs := by
  induction bs with
  | nil => intros; rfl
  | cons b t ih =>
    intro m h a
    have hw := Memory.wf_write h a b
    simp only [Memory.writeBytes, List.length_cons, Memory.readBytes, ih _ hw (a + 1)]
    rw [Memory.read_writeBytes_other t _ hw (a + 1) a (by omega), Memory.read_write_self m a b h.1]

/-- Reset memory is canonical. -/
theorem State.wf_reset : State.reset.mem.wf := Memory.wf_nil

theorem State.wf_poke {s : State} (h : s.mem.wf) (loc : Nat) (bs : List Byte) : (s.poke loc bs).mem.wf :=
  Memory.wf_writeBytes bs h loc

theorem State.wf_pokeBits {s : State} (h : s.mem.wf) (loc o n v : Nat) : (s.pokeBits loc o n v).mem.wf :=
  State.wf_poke h loc _

theorem State.wf_placeWord {s : State} (h : s.mem.wf) (loc w : Nat) : (s.placeWord loc w).mem.wf :=
  Memory.wf_writeBytes _ h loc

end Sys2Proof.Machine
end

