-- ==== Sys2Proof/Laws/CanonicalOps.lean ====
section
/-! SUPPORT. Memory stays in canonical form: one lemma for each of the shared operations, which says that the state it leaves has a
canonical memory where the state before had one. -/

set_option linter.unusedVariables false
set_option Elab.async false

namespace Sys2Proof.Machine

/-! ## Memory.lean -/

/-- Memory is in its canonical form. -/
def State.Canonical (s : State) : Prop := s.mem.wf

/-- Whatever next state a meaning answers, its memory is in canonical form. -/
def AnswersCanonical (o : Host.Outcome State Fault Refusal) : Prop := ∀ t, o = .next t → t.Canonical

theorem answers_next {t : State} (h : t.Canonical) : AnswersCanonical (.next t) := by
  intro u hu; cases hu; exact h

theorem foldl_canonical {α : Type} (f : State → α → State) (l : List α) : ∀ {s : State} (_ : s.Canonical)
    (_ : ∀ (s : State) x, s.Canonical → (f s x).Canonical), (l.foldl f s).Canonical := by
  induction l with
  | nil => intro s h _; exact h
  | cons a l ih => intro s h hf; exact ih (hf _ _ h) hf

theorem fst_canonical {α : Type} {p : State × α} {t : State} {r : α} (h : p = (t, r)) (hp : p.1.Canonical) :
    t.Canonical := by
  rw [h] at hp; exact hp

theorem ite_canonical {α : Type} {c : Prop} [Decidable c] {p : State × α} {t : State} {r : α} (ht : t.Canonical) (hp :
    p.1.Canonical) :
    (if c then p else (t, r)).1.Canonical := by
  split
  · exact hp
  · exact ht

theorem getD_canonical {o : Option State} {s : State} (ho : ∀ t, o = some t → t.Canonical) (h : s.Canonical) : (o.getD
    s).Canonical := by
  cases o with
  | none => exact h
  | some t => exact ho t rfl

theorem foldl_bind_canonical {α : Type} (f : State → α → Option State) (hf : ∀ s a t, s.Canonical → f s a = some t →
    t.Canonical) (l : List α) :
    ∀ (b : Option State), (∀ t, b = some t → t.Canonical) → ∀ t, l.foldl (fun b a => b.bind fun s => f s a) b = some t
        → t.Canonical := by
  induction l with
  | nil => intro b hb t ht; exact hb t ht
  | cons a l ih =>
    intro b hb t ht
    refine ih _ ?_ t ht
    intro u hu
    obtain ⟨s, hs, hf'⟩ := Option.bind_eq_some_iff.1 hu
    exact hf s a u (hb s hs) hf'

theorem State.poke_canonical {s : State} (loc : Nat) (bs : List Byte) (h_s : s.Canonical) : (State.poke s loc
    bs).Canonical := by
  exact State.wf_poke h_s loc bs

theorem State.pokeBits_canonical {s : State} (loc : Nat) (o : Nat) (n : Nat) (v : Nat) (h_s : s.Canonical) :
    (State.pokeBits s loc o n v).Canonical := by
  unfold State.pokeBits; grind [State.Canonical, State.poke_canonical]

theorem State.markPoison_canonical {s : State} (loc : Nat) (h_s : s.Canonical) : (State.markPoison s loc).Canonical :=
    by
  unfold State.markPoison; grind [State.Canonical]

/-! ## Atom.lean -/

theorem State.atom_canonical {s : State} (loc : Nat) (op : AtomOp) (ty : Nat) (b : Nat) (new : Nat) (h_s :
    s.Canonical) : (State.atom s loc op ty b new).1.Canonical := by
  unfold State.atom; grind [State.Canonical, State.poke_canonical]

theorem State.reduceAt_canonical {s : State} (loc : Nat) (op : AtomOp) (ty : Nat) (b : Nat) (h_s : s.Canonical) :
    (State.reduceAt s loc op ty b).Canonical := by
  unfold State.reduceAt; grind [State.Canonical, State.atom_canonical]

theorem State.combine_canonical {s : State} (p : Partial) (h_s : s.Canonical) : (State.combine s p).Canonical := by
  unfold State.combine; grind [State.Canonical, State.reduceAt_canonical]

theorem State.recall_canonical {s : State} (line : Nat) (h_s : s.Canonical) : (State.recall s line).Canonical := by
  unfold State.recall; grind [State.Canonical, State.combine_canonical, foldl_canonical]

theorem State.recallLines_canonical {s : State} (lines : List Nat) (h_s : s.Canonical) : (State.recallLines s
    lines).Canonical := by
  unfold State.recallLines; grind [State.Canonical, State.recall_canonical, foldl_canonical]

theorem State.pushPartials_canonical {s : State} (core : Nat) (h_s : s.Canonical) : (State.pushPartials s
    core).Canonical := by
  unfold State.pushPartials; grind [State.Canonical, State.combine_canonical, foldl_canonical]

theorem State.partialReduce_canonical {s : State} (core : Nat) (loc : Nat) (op : AtomOp) (ty : Nat) (b : Nat) (h_s :
    s.Canonical) : (State.partialReduce s core loc op ty b).Canonical := by
  unfold State.partialReduce; grind [State.Canonical, State.combine_canonical, foldl_canonical]

/-! ## Llc.lean -/

theorem State.setContext_canonical {s : State} (c : Context) (h_s : s.Canonical) : (State.setContext s c).Canonical :=
    by
  unfold State.setContext; grind [State.Canonical]

theorem State.charge_canonical {s : State} (ctx : Nat) (cls : Nat) (n : Nat) (h_s : s.Canonical) : (State.charge s ctx
    cls n).Canonical := by
  unfold State.charge; grind [State.Canonical, State.setContext_canonical]

theorem State.writeBack_canonical {s : State} (l : LlcLine) (h_s : s.Canonical) : (State.writeBack s l).Canonical :=
    by
  unfold State.writeBack; grind [State.Canonical, State.charge_canonical]

theorem State.llcFlush_canonical {s : State} (p : LlcLine → Bool) (h_s : s.Canonical) : (State.llcFlush s p).Canonical
    := by
  unfold State.llcFlush; grind [State.Canonical, State.writeBack_canonical, foldl_canonical]

theorem State.llcTrim_canonical {s : State} (ctx : Nat) (h_s : s.Canonical) : (State.llcTrim s ctx).Canonical := by
  unfold State.llcTrim; grind [State.Canonical, State.llcFlush_canonical]

theorem State.llcResplit_canonical {s : State} (h_s : s.Canonical) : (State.llcResplit s).Canonical := by
  unfold State.llcResplit; grind [State.Canonical, State.llcTrim_canonical, foldl_canonical]

theorem State.llcAccess_canonical {s : State} (ctx : Nat) (line : Nat) (write : Bool) (h_s : s.Canonical) :
    (State.llcAccess s ctx line write).Canonical := by
  unfold State.llcAccess; grind [State.Canonical, State.setContext_canonical, State.llcTrim_canonical]

theorem State.llcRead_canonical {s : State} (ctx : Nat) (line : Nat) (h_s : s.Canonical) : (State.llcRead s ctx
    line).Canonical := by
  unfold State.llcRead; grind [State.Canonical, State.charge_canonical, State.llcAccess_canonical]

/-! ## Translate.lean -/

theorem State.readEntry_canonical {s : State} (ctx : Nat) (at_ : Nat) (h_s : s.Canonical) : (State.readEntry s ctx
    at_).Canonical := by
  unfold State.readEntry; grind [State.Canonical, State.recall_canonical, State.llcRead_canonical]

theorem State.recallWalk_canonical {s : State} (ctx : Nat) (va : Nat) (x0 : Nat) (x1 : Nat) (h_s : s.Canonical) :
    (State.recallWalk s ctx va x0 x1).Canonical := by
  fun_induction State.recallWalk s ctx va x0 x1 <;> grind [State.Canonical, State.readEntry_canonical]

theorem State.ownPage_canonical {s : State} (c : Context) (m : Mapping) (h_s : s.Canonical) : (State.ownPage s c
    m).Canonical := by
  unfold State.ownPage; grind [State.Canonical]

theorem State.tlbFill_canonical {s : State} (u : TlbUnit) (asid : BitVec 16) (m : Mapping) (h_s : s.Canonical) :
    (State.tlbFill s u asid m).Canonical := by
  unfold State.tlbFill; grind [State.Canonical]

theorem State.walkFor_canonical {s : State} (c : Context) (va : Nat) (h_s : s.Canonical) : (State.walkFor s c
    va).1.Canonical := by
  unfold State.walkFor; grind [State.Canonical, State.recallWalk_canonical, State.ownPage_canonical]

theorem State.translateVia_canonical {s : State} (c : Context) (va : Nat) (asker : TlbUnit) (x0 : List TlbUnit) (h_s :
    s.Canonical) : (State.translateVia s c va asker x0).1.Canonical := by
  induction x0 with
  | nil => unfold State.translateVia; exact State.walkFor_canonical _ _ h_s
  | cons u us ih => unfold State.translateVia; grind [State.tlbFill_canonical]

theorem State.translate_canonical {s : State} (units : List TlbUnit) (ctx : Nat) (va : Nat) (r : Bool) (w : Bool) (x :
    Bool) (h_s : s.Canonical) : (State.translate s units ctx va r w x).1.Canonical := by
  unfold State.translate; grind [State.Canonical, State.translateVia_canonical]

theorem State.touchHome_canonical {s : State} (loc : Nat) (site : Nat) (h_s : s.Canonical) : (State.touchHome s loc
    site).Canonical := by
  unfold State.touchHome; grind [State.Canonical]

theorem State.countWrite_canonical {s : State} (loc : Nat) (site : Nat) (h_s : s.Canonical) : (State.countWrite s loc
    site).Canonical := by
  unfold State.countWrite; grind [State.Canonical]

theorem State.pushWords_canonical {s : State} (loc : Nat) (n : Nat) (h_s : s.Canonical) : (State.pushWords s loc
    n).Canonical := by
  unfold State.pushWords; grind [State.Canonical]

theorem State.pushCore_canonical {s : State} (line : Nat) (core : Nat) (h_s : s.Canonical) : (State.pushCore s line
    core).Canonical := by
  unfold State.pushCore; grind [State.Canonical]

theorem State.noteRead_canonical {s : State} (loc : Nat) (site : Nat) (h_s : s.Canonical) : (State.noteRead s loc
    site).Canonical := by
  unfold State.noteRead; grind [State.Canonical]

theorem State.noteWrite_canonical {s : State} (loc : Nat) (site : Nat) (h_s : s.Canonical) : (State.noteWrite s loc
    site).Canonical := by
  unfold State.noteWrite; grind [State.Canonical]

/-! ## Ops.lean -/

theorem State.mapWarp_canonical {s : State} (uid : Nat) (f : Warp → Warp) (h_s : s.Canonical) : (State.mapWarp s uid
    f).Canonical := by
  unfold State.mapWarp; grind [State.Canonical]

theorem State.onWarp_canonical {s : State} (f : Warp → Warp) (h_s : s.Canonical) : (State.onWarp s f).Canonical := by
  unfold State.onWarp; grind [State.Canonical]

theorem State.focus_canonical {s : State} (uid : Nat) (h_s : s.Canonical) : (State.focus s uid).Canonical := by
  unfold State.focus; grind [State.Canonical]

theorem State.setGang_canonical {s : State} (g : Gang) (h_s : s.Canonical) : (State.setGang s g).Canonical := by
  unfold State.setGang; grind [State.Canonical]

theorem State.mapGang_canonical {s : State} (uid : Nat) (f : Gang → Gang) (h_s : s.Canonical) : (State.mapGang s uid
    f).Canonical := by
  unfold State.mapGang; grind [State.Canonical]

theorem State.mapGrid_canonical {s : State} (ticket : Nat) (f : Grid → Grid) (h_s : s.Canonical) : (State.mapGrid s
    ticket f).Canonical := by
  unfold State.mapGrid; grind [State.Canonical]

theorem State.mapSite_canonical {s : State} (i : Nat) (f : Site → Site) (h_s : s.Canonical) : (State.mapSite s i
    f).Canonical := by
  unfold State.mapSite; grind [State.Canonical]

theorem State.mapCluster_canonical {s : State} (i : Nat) (c : Nat) (f : Cluster → Cluster) (h_s : s.Canonical) :
    (State.mapCluster s i c f).Canonical := by
  unfold State.mapCluster; grind [State.Canonical, State.mapSite_canonical]

theorem State.advance_canonical {s : State} (h_s : s.Canonical) : (State.advance s).Canonical := by
  unfold State.advance; grind [State.Canonical, State.onWarp_canonical]

theorem State.finish_canonical {s : State} (writes : List RegWrite) (flags : BitVec 5) (h_s : s.Canonical) :
    (State.finish s writes flags).Canonical := by
  unfold State.finish; grind [State.Canonical]

theorem State.scalarResult_canonical {s : State} (d : Fin 64) (x : Word64) (h_s : s.Canonical) : (State.scalarResult s
    d x).Canonical := by
  unfold State.scalarResult; grind [State.Canonical, State.finish_canonical, State.advance_canonical]

theorem State.answer_canonical {s : State} (uid : Nat) (k : Nat) (val : Word64) (h_s : s.Canonical) : (State.answer s
    uid k val).Canonical := by
  unfold State.answer; grind [State.Canonical, State.mapWarp_canonical]

theorem State.post_canonical {s : State} (r : FaultRecord) (h_s : s.Canonical) : (State.post s r).Canonical := by
  unfold State.post; grind [State.Canonical, State.poke_canonical]

theorem State.postTagged_canonical {s : State} (r : FaultRecord) (h_s : s.Canonical) : (State.postTagged s
    r).Canonical := by
  unfold State.postTagged; grind [State.Canonical, State.post_canonical]

theorem State.grantLock_canonical {s : State} (line : Nat) (uid : Nat) (k : Nat) (status : Word64) (h_s : s.Canonical)
    : (State.grantLock s line uid k status).Canonical := by
  unfold State.grantLock; grind [State.Canonical, State.recall_canonical, State.answer_canonical,
      State.mapWarp_canonical]

theorem State.setLock_canonical {s : State} (l : Lock) (h_s : s.Canonical) : (State.setLock s l).Canonical := by
  unfold State.setLock; grind [State.Canonical]

theorem State.dropLock_canonical {s : State} (line : Nat) (h_s : s.Canonical) : (State.dropLock s line).Canonical :=
    by
  unfold State.dropLock; grind [State.Canonical]

theorem State.expireWaiter_canonical {s : State} (line : Nat) (uid : Nat) (pend : Nat) (h_s : s.Canonical) :
    (State.expireWaiter s line uid pend).Canonical := by
  unfold State.expireWaiter; grind [State.Canonical, State.answer_canonical, State.mapWarp_canonical]

theorem State.expireLine_canonical {s : State} (line : Nat) (h_s : s.Canonical) : (State.expireLine s line).Canonical
    := by
  unfold State.expireLine; grind [State.Canonical, State.expireWaiter_canonical, foldl_canonical]

theorem State.expireWaits_canonical {s : State} (h_s : s.Canonical) : (State.expireWaits s).Canonical := by
  unfold State.expireWaits; grind [State.Canonical, State.expireWaiter_canonical, foldl_canonical]

theorem State.lockArrive_canonical {s : State} (q : LockRequest) (h_s : s.Canonical) : (State.lockArrive s
    q).Canonical := by
  unfold State.lockArrive; grind [State.Canonical, State.grantLock_canonical, State.setLock_canonical,
      State.answer_canonical, State.mapWarp_canonical]

theorem State.admitLocks_canonical {s : State} (h_s : s.Canonical) : (State.admitLocks s).Canonical := by
  unfold State.admitLocks; grind [State.Canonical, State.expireWaits_canonical, State.lockArrive_canonical,
      foldl_canonical]

theorem State.passLock_canonical {s : State} (line : Nat) (status : Word64) (mark : Bool) (h_s : s.Canonical) :
    (State.passLock s line status mark).Canonical := by
  unfold State.passLock; grind [State.Canonical, State.expireLine_canonical, State.setLock_canonical,
      State.dropLock_canonical, State.admitLocks_canonical, State.grantLock_canonical]

theorem State.dropWaiter_canonical {s : State} (uid : Nat) (h_s : s.Canonical) : (State.dropWaiter s uid).Canonical :=
    by
  unfold State.dropWaiter; grind [State.Canonical]

theorem State.mapMonitor_canonical {s : State} (id : Nat) (f : Monitor → Monitor) (h_s : s.Canonical) :
    (State.mapMonitor s id f).Canonical := by
  unfold State.mapMonitor; grind [State.Canonical]

theorem State.fillTable_canonical {s : State} (h_s : s.Canonical) : (State.fillTable s).Canonical := by
  unfold State.fillTable; grind [State.Canonical, State.recall_canonical, State.mapMonitor_canonical, foldl_canonical]

theorem State.dropMonitors_canonical {s : State} (uid : Nat) (h_s : s.Canonical) : (State.dropMonitors s
    uid).Canonical := by
  unfold State.dropMonitors; grind [State.Canonical, State.fillTable_canonical]

theorem State.abandon_canonical {s : State} (uid : Nat) (h_s : s.Canonical) : (State.abandon s uid).Canonical := by
  unfold State.abandon; grind [State.Canonical, State.dropWaiter_canonical, State.dropMonitors_canonical,
      State.passLock_canonical, foldl_canonical]

theorem State.killAt_canonical {s : State} (pc : Pc) (lanes : Word32) (addr : Word64) (h_s : s.Canonical) :
    (State.killAt s pc lanes addr).Canonical := by
  unfold State.killAt; grind [State.Canonical, State.onWarp_canonical, State.postTagged_canonical]

theorem State.killLate_canonical {s : State} (k : Nat) (lanes : Word32) (addr : Word64) (h_s : s.Canonical) :
    (State.killLate s k lanes addr).Canonical := by
  unfold State.killLate; grind [State.Canonical, State.onWarp_canonical, State.killAt_canonical]

theorem State.reportKilled_canonical (w : Warp) {s : State} (p : Pending) (h_s : s.Canonical) : (State.reportKilled w
    s p).Canonical := by
  unfold State.reportKilled; grind [State.Canonical, State.postTagged_canonical]

theorem State.completeNow_canonical {s : State} (p : Pending) (h_s : s.Canonical) : (State.completeNow s p).Canonical
    := by
  unfold State.completeNow; grind [State.Canonical, State.onWarp_canonical, State.reportKilled_canonical]

theorem State.reportAll_canonical {s : State} (w : Warp) (h_s : s.Canonical) : (State.reportAll s w).Canonical := by
  unfold State.reportAll; grind [State.Canonical, State.reportKilled_canonical, foldl_canonical]

theorem State.killLanes_canonical {s : State} (lanes : Word32) (addr : Word64) (h_s : s.Canonical) : (State.killLanes
    s lanes addr).Canonical := by
  unfold State.killLanes; grind [State.Canonical, State.killAt_canonical]

theorem State.relevel_canonical {s : State} (h_s : s.Canonical) : (State.relevel s).Canonical := by
  unfold State.relevel; grind [State.Canonical]

theorem State.endContext_canonical {s : State} (ctx : Nat) (cause : Cause) (code : Nat) (h_s : s.Canonical) :
    (State.endContext s ctx cause code).Canonical := by
  unfold State.endContext; grind [State.Canonical, State.abandon_canonical, State.reportAll_canonical,
      State.relevel_canonical, State.postTagged_canonical, foldl_canonical]

theorem State.toSupervisor_canonical {s : State} (r : Raised) (h_s : s.Canonical) : (State.toSupervisor s r).Canonical
    := by
  unfold State.toSupervisor; grind [State.Canonical, State.onWarp_canonical, State.postTagged_canonical,
      State.endContext_canonical]

theorem State.flushHeld_canonical {s : State} (h_s : s.Canonical) : (State.flushHeld s).Canonical := by
  unfold State.flushHeld; grind [State.Canonical, State.toSupervisor_canonical, State.onWarp_canonical,
      foldl_canonical]

theorem State.stopWith_canonical {s : State} (r : Raised) (h_s : s.Canonical) : (State.stopWith s r).Canonical := by
  unfold State.stopWith; grind [State.Canonical, State.toSupervisor_canonical, State.onWarp_canonical,
      State.flushHeld_canonical]

theorem State.takeTrap_canonical {s : State} (r : Raised) (h_s : s.Canonical) : (State.takeTrap s r).Canonical := by
  unfold State.takeTrap; grind [State.Canonical, State.onWarp_canonical, State.stopWith_canonical]

theorem State.raise_canonical {s : State} (r : Raised) (h_s : s.Canonical) : (State.raise s r).Canonical := by
  unfold State.raise; grind [State.Canonical, State.onWarp_canonical, State.takeTrap_canonical]

theorem State.takeRaised_canonical {s : State} (h_s : s.Canonical) : (State.takeRaised s).Canonical := by
  unfold State.takeRaised; grind [State.Canonical, State.onWarp_canonical, State.takeTrap_canonical]

theorem State.trap_canonical {s : State} (c : Cause) (addr : Word64) (h_s : s.Canonical) : (State.trap s c
    addr).Canonical := by
  unfold State.trap; grind [State.Canonical, State.raise_canonical]

theorem State.raiseLate_canonical {s : State} (gen : Nat) (r : Raised) (h_s : s.Canonical) : (State.raiseLate s gen
    r).Canonical := by
  unfold State.raiseLate; grind [State.Canonical, State.trap_canonical, State.onWarp_canonical, State.raise_canonical]

theorem State.returnFromTrap_canonical {s : State} (t : TrapMode) (resume : Pc) (h_s : s.Canonical) :
    (State.returnFromTrap s t resume).Canonical := by
  unfold State.returnFromTrap; grind [State.Canonical, State.completeNow_canonical, State.onWarp_canonical,
      State.trap_canonical, State.raise_canonical, foldl_canonical]

theorem State.stallOn_canonical {s : State} (va : Word64) (h_s : s.Canonical) : (State.stallOn s va).Canonical := by
  unfold State.stallOn; grind [State.Canonical, State.postTagged_canonical, State.onWarp_canonical]

theorem State.pageFaulted_canonical {s : State} (va : Word64) (h_s : s.Canonical) : (State.pageFaulted s va).Canonical
    := by
  unfold State.pageFaulted; grind [State.Canonical, State.onWarp_canonical, State.trap_canonical,
      State.stallOn_canonical]

theorem State.hold_canonical {s : State} (h_s : s.Canonical) : (State.hold s).Canonical := by
  unfold State.hold; grind [State.Canonical, State.onWarp_canonical]

theorem State.holdDry_canonical {s : State} (classes : List Nat) (h_s : s.Canonical) : (State.holdDry s
    classes).Canonical := by
  unfold State.holdDry; grind [State.Canonical, State.onWarp_canonical]

theorem State.issue_canonical {s : State} (n : Need) (effect : State → State) (h_s : s.Canonical) (h_effect : ∀ (y0 :
    State), y0.Canonical → (effect y0).Canonical) : AnswersCanonical (State.issue s n effect) := by
  unfold State.issue
  split
  · exact answers_next (h_effect _ h_s)
  · exact answers_next (State.hold_canonical h_s)
  · exact answers_next (State.trap_canonical _ _ h_s)

/-! ## Scalar.lean -/

theorem State.hint_canonical {s : State} (set : Hints → Hints) (present : Hints → Bool) (h_s : s.Canonical) :
    (State.hint s set present).Canonical := by
  unfold State.hint; grind [State.Canonical, State.onWarp_canonical]

theorem execHimm_canonical (p : BitVec 22) {s : State} (h_s : s.Canonical) : AnswersCanonical (execHimm p s) := by
  exact answers_next h_s

theorem execHblk_canonical (p : BitVec 22) {s : State} (h_s : s.Canonical) : AnswersCanonical (execHblk p s) := by
  exact answers_next h_s

theorem execHmod_canonical (p : BitVec 22) {s : State} (h_s : s.Canonical) : AnswersCanonical (execHmod p s) := by
  exact answers_next h_s

theorem execHsch_canonical (p : BitVec 22) {s : State} (h_s : s.Canonical) : AnswersCanonical (execHsch p s) := by
  exact answers_next h_s

theorem scalar2_canonical (f : Word64 → Word64 → Word64) (d : Fin 64) (a : Fin 64) (b : Fin 64) (x : Bool) (y : Bool)
    {s : State} (h_s : s.Canonical) : AnswersCanonical (scalar2 f d a b x y s) := by
  unfold scalar2; grind [State.Canonical, State.issue_canonical, State.scalarResult_canonical, answers_next]

theorem scalar1_canonical (f : Word64 → Word64) (d : Fin 64) (a : Fin 64) (x : Bool) {s : State} (h_s : s.Canonical) :
    AnswersCanonical (scalar1 f d a x s) := by
  unfold scalar1; grind [State.Canonical, State.issue_canonical, State.scalarResult_canonical, answers_next]

theorem execSadd_canonical (d : Fin 64) (a : Fin 64) (b : Fin 64) (x : Bool) (y : Bool) {s : State} (h_s :
    s.Canonical) : AnswersCanonical (execSadd d a b x y s) := by
  unfold execSadd; grind [State.Canonical, scalar2_canonical, answers_next]

theorem execSsub_canonical (d : Fin 64) (a : Fin 64) (b : Fin 64) (x : Bool) (y : Bool) {s : State} (h_s :
    s.Canonical) : AnswersCanonical (execSsub d a b x y s) := by
  unfold execSsub; grind [State.Canonical, scalar2_canonical, answers_next]

theorem execSmul_canonical (d : Fin 64) (a : Fin 64) (b : Fin 64) (x : Bool) (y : Bool) {s : State} (h_s :
    s.Canonical) : AnswersCanonical (execSmul d a b x y s) := by
  unfold execSmul; grind [State.Canonical, scalar2_canonical, answers_next]

theorem execSmulh_canonical (d : Fin 64) (a : Fin 64) (b : Fin 64) (x : Bool) (y : Bool) {s : State} (h_s :
    s.Canonical) : AnswersCanonical (execSmulh d a b x y s) := by
  unfold execSmulh; grind [State.Canonical, scalar2_canonical, answers_next]

theorem execSmulhz_canonical (d : Fin 64) (a : Fin 64) (b : Fin 64) (x : Bool) (y : Bool) {s : State} (h_s :
    s.Canonical) : AnswersCanonical (execSmulhz d a b x y s) := by
  unfold execSmulhz; grind [State.Canonical, scalar2_canonical, answers_next]

theorem execSdiv_canonical (d : Fin 64) (a : Fin 64) (b : Fin 64) (x : Bool) (y : Bool) {s : State} (h_s :
    s.Canonical) : AnswersCanonical (execSdiv d a b x y s) := by
  unfold execSdiv; grind [State.Canonical, scalar2_canonical, answers_next]

theorem execSdivz_canonical (d : Fin 64) (a : Fin 64) (b : Fin 64) (x : Bool) (y : Bool) {s : State} (h_s :
    s.Canonical) : AnswersCanonical (execSdivz d a b x y s) := by
  unfold execSdivz; grind [State.Canonical, scalar2_canonical, answers_next]

theorem execSrem_canonical (d : Fin 64) (a : Fin 64) (b : Fin 64) (x : Bool) (y : Bool) {s : State} (h_s :
    s.Canonical) : AnswersCanonical (execSrem d a b x y s) := by
  unfold execSrem; grind [State.Canonical, scalar2_canonical, answers_next]

theorem execSremz_canonical (d : Fin 64) (a : Fin 64) (b : Fin 64) (x : Bool) (y : Bool) {s : State} (h_s :
    s.Canonical) : AnswersCanonical (execSremz d a b x y s) := by
  unfold execSremz; grind [State.Canonical, scalar2_canonical, answers_next]

theorem execSand_canonical (d : Fin 64) (a : Fin 64) (b : Fin 64) (x : Bool) (y : Bool) {s : State} (h_s :
    s.Canonical) : AnswersCanonical (execSand d a b x y s) := by
  unfold execSand; grind [State.Canonical, scalar2_canonical, answers_next]

theorem execSor_canonical (d : Fin 64) (a : Fin 64) (b : Fin 64) (x : Bool) (y : Bool) {s : State} (h_s : s.Canonical)
    : AnswersCanonical (execSor d a b x y s) := by
  unfold execSor; grind [State.Canonical, scalar2_canonical, answers_next]

theorem execSxor_canonical (d : Fin 64) (a : Fin 64) (b : Fin 64) (x : Bool) (y : Bool) {s : State} (h_s :
    s.Canonical) : AnswersCanonical (execSxor d a b x y s) := by
  unfold execSxor; grind [State.Canonical, scalar2_canonical, answers_next]

theorem execSandn_canonical (d : Fin 64) (a : Fin 64) (b : Fin 64) (x : Bool) (y : Bool) {s : State} (h_s :
    s.Canonical) : AnswersCanonical (execSandn d a b x y s) := by
  unfold execSandn; grind [State.Canonical, scalar2_canonical, answers_next]

theorem execSshl_canonical (d : Fin 64) (a : Fin 64) (b : Fin 64) (x : Bool) (y : Bool) {s : State} (h_s :
    s.Canonical) : AnswersCanonical (execSshl d a b x y s) := by
  unfold execSshl; grind [State.Canonical, scalar2_canonical, answers_next]

theorem execSshr_canonical (d : Fin 64) (a : Fin 64) (b : Fin 64) (x : Bool) (y : Bool) {s : State} (h_s :
    s.Canonical) : AnswersCanonical (execSshr d a b x y s) := by
  unfold execSshr; grind [State.Canonical, scalar2_canonical, answers_next]

theorem execSsra_canonical (d : Fin 64) (a : Fin 64) (b : Fin 64) (x : Bool) (y : Bool) {s : State} (h_s :
    s.Canonical) : AnswersCanonical (execSsra d a b x y s) := by
  unfold execSsra; grind [State.Canonical, scalar2_canonical, answers_next]

theorem execSmin_canonical (d : Fin 64) (a : Fin 64) (b : Fin 64) (x : Bool) (y : Bool) {s : State} (h_s :
    s.Canonical) : AnswersCanonical (execSmin d a b x y s) := by
  unfold execSmin; grind [State.Canonical, scalar2_canonical, answers_next]

theorem execSmax_canonical (d : Fin 64) (a : Fin 64) (b : Fin 64) (x : Bool) (y : Bool) {s : State} (h_s :
    s.Canonical) : AnswersCanonical (execSmax d a b x y s) := by
  unfold execSmax; grind [State.Canonical, scalar2_canonical, answers_next]

theorem execSminz_canonical (d : Fin 64) (a : Fin 64) (b : Fin 64) (x : Bool) (y : Bool) {s : State} (h_s :
    s.Canonical) : AnswersCanonical (execSminz d a b x y s) := by
  unfold execSminz; grind [State.Canonical, scalar2_canonical, answers_next]

theorem execSmaxz_canonical (d : Fin 64) (a : Fin 64) (b : Fin 64) (x : Bool) (y : Bool) {s : State} (h_s :
    s.Canonical) : AnswersCanonical (execSmaxz d a b x y s) := by
  unfold execSmaxz; grind [State.Canonical, scalar2_canonical, answers_next]

theorem execSceq_canonical (d : Fin 64) (a : Fin 64) (b : Fin 64) (x : Bool) (y : Bool) {s : State} (h_s :
    s.Canonical) : AnswersCanonical (execSceq d a b x y s) := by
  unfold execSceq; grind [State.Canonical, scalar2_canonical, answers_next]

theorem execSclt_canonical (d : Fin 64) (a : Fin 64) (b : Fin 64) (x : Bool) (y : Bool) {s : State} (h_s :
    s.Canonical) : AnswersCanonical (execSclt d a b x y s) := by
  unfold execSclt; grind [State.Canonical, scalar2_canonical, answers_next]

theorem execScltz_canonical (d : Fin 64) (a : Fin 64) (b : Fin 64) (x : Bool) (y : Bool) {s : State} (h_s :
    s.Canonical) : AnswersCanonical (execScltz d a b x y s) := by
  unfold execScltz; grind [State.Canonical, scalar2_canonical, answers_next]

theorem execSclz_canonical (d : Fin 64) (a : Fin 64) (x : Bool) {s : State} (h_s : s.Canonical) : AnswersCanonical
    (execSclz d a x s) := by
  unfold execSclz; grind [State.Canonical, scalar1_canonical, answers_next]

theorem execSpopc_canonical (d : Fin 64) (a : Fin 64) (x : Bool) {s : State} (h_s : s.Canonical) : AnswersCanonical
    (execSpopc d a x s) := by
  unfold execSpopc; grind [State.Canonical, scalar1_canonical, answers_next]

theorem execSbrev_canonical (d : Fin 64) (a : Fin 64) (x : Bool) {s : State} (h_s : s.Canonical) : AnswersCanonical
    (execSbrev d a x s) := by
  unfold execSbrev; grind [State.Canonical, scalar1_canonical, answers_next]

theorem scalarImm_canonical (legal : Word64 → Bool) (f : Word64 → Word64 → Word64) (d : Fin 64) (a : Fin 64) (i :
    BitVec 10) (x : Bool) {s : State} (h_s : s.Canonical) : AnswersCanonical (scalarImm legal f d a i x s) := by
  unfold scalarImm; grind [State.Canonical, State.issue_canonical, State.scalarResult_canonical, answers_next]

theorem execSaddi_canonical (d : Fin 64) (a : Fin 64) (i : BitVec 10) (x : Bool) {s : State} (h_s : s.Canonical) :
    AnswersCanonical (execSaddi d a i x s) := by
  unfold execSaddi; grind [State.Canonical, scalarImm_canonical, answers_next]

theorem execSandi_canonical (d : Fin 64) (a : Fin 64) (i : BitVec 10) (x : Bool) {s : State} (h_s : s.Canonical) :
    AnswersCanonical (execSandi d a i x s) := by
  unfold execSandi; grind [State.Canonical, scalarImm_canonical, answers_next]

theorem execSori_canonical (d : Fin 64) (a : Fin 64) (i : BitVec 10) (x : Bool) {s : State} (h_s : s.Canonical) :
    AnswersCanonical (execSori d a i x s) := by
  unfold execSori; grind [State.Canonical, scalarImm_canonical, answers_next]

theorem execSxori_canonical (d : Fin 64) (a : Fin 64) (i : BitVec 10) (x : Bool) {s : State} (h_s : s.Canonical) :
    AnswersCanonical (execSxori d a i x s) := by
  unfold execSxori; grind [State.Canonical, scalarImm_canonical, answers_next]

theorem execSshli_canonical (d : Fin 64) (a : Fin 64) (i : BitVec 10) (x : Bool) {s : State} (h_s : s.Canonical) :
    AnswersCanonical (execSshli d a i x s) := by
  unfold execSshli; grind [State.Canonical, scalarImm_canonical, answers_next]

theorem execSshri_canonical (d : Fin 64) (a : Fin 64) (i : BitVec 10) (x : Bool) {s : State} (h_s : s.Canonical) :
    AnswersCanonical (execSshri d a i x s) := by
  unfold execSshri; grind [State.Canonical, scalarImm_canonical, answers_next]

theorem execSsrai_canonical (d : Fin 64) (a : Fin 64) (i : BitVec 10) (x : Bool) {s : State} (h_s : s.Canonical) :
    AnswersCanonical (execSsrai d a i x s) := by
  unfold execSsrai; grind [State.Canonical, scalarImm_canonical, answers_next]

theorem execSclti_canonical (d : Fin 64) (a : Fin 64) (i : BitVec 10) (x : Bool) {s : State} (h_s : s.Canonical) :
    AnswersCanonical (execSclti d a i x s) := by
  unfold execSclti; grind [State.Canonical, scalarImm_canonical, answers_next]

theorem execSli_canonical (d : Fin 64) (i : BitVec 10) {s : State} (h_s : s.Canonical) : AnswersCanonical (execSli d i
    s) := by
  unfold execSli; grind [State.Canonical, State.issue_canonical, State.scalarResult_canonical, answers_next]

theorem execSlih_canonical (d : Fin 64) (a : Fin 64) (i : BitVec 10) (x : Bool) {s : State} (h_s : s.Canonical) :
    AnswersCanonical (execSlih d a i x s) := by
  unfold execSlih; grind [State.Canonical, scalarImm_canonical, answers_next]

theorem execSaddpc_canonical (d : Fin 64) (i : BitVec 10) {s : State} (h_s : s.Canonical) : AnswersCanonical
    (execSaddpc d i s) := by
  unfold execSaddpc; grind [State.Canonical, State.issue_canonical, State.scalarResult_canonical, answers_next]

theorem execEnter_canonical (d : Fin 64) (i : BitVec 10) {s : State} (h_s : s.Canonical) : AnswersCanonical (execEnter
    d i s) := by
  unfold execEnter; grind [State.Canonical, State.issue_canonical, State.trap_canonical, State.finish_canonical,
      State.advance_canonical, answers_next]

theorem execLeave_canonical (i : BitVec 10) {s : State} (h_s : s.Canonical) : AnswersCanonical (execLeave i s) := by
  unfold execLeave; grind [State.Canonical, State.issue_canonical, State.trap_canonical, State.finish_canonical,
      State.advance_canonical, answers_next]

/-! ## Control.lean -/

theorem State.goto_canonical {s : State} (pc : Pc) (h_s : s.Canonical) : (State.goto s pc).Canonical := by
  unfold State.goto; grind [State.Canonical, State.onWarp_canonical]

theorem branchOn_canonical (test : Int → Bool) (a : Fin 64) (o : BitVec 17) {s : State} (h_s : s.Canonical) :
    AnswersCanonical (branchOn test a o s) := by
  unfold branchOn; grind [State.Canonical, State.issue_canonical, State.goto_canonical, State.advance_canonical,
      answers_next]

theorem execBeqz_canonical (a : Fin 64) (o : BitVec 17) {s : State} (h_s : s.Canonical) : AnswersCanonical (execBeqz a
    o s) := by
  unfold execBeqz; grind [State.Canonical, branchOn_canonical, answers_next]

theorem execBnez_canonical (a : Fin 64) (o : BitVec 17) {s : State} (h_s : s.Canonical) : AnswersCanonical (execBnez a
    o s) := by
  unfold execBnez; grind [State.Canonical, branchOn_canonical, answers_next]

theorem execBltz_canonical (a : Fin 64) (o : BitVec 17) {s : State} (h_s : s.Canonical) : AnswersCanonical (execBltz a
    o s) := by
  unfold execBltz; grind [State.Canonical, branchOn_canonical, answers_next]

theorem execBgez_canonical (a : Fin 64) (o : BitVec 17) {s : State} (h_s : s.Canonical) : AnswersCanonical (execBgez a
    o s) := by
  unfold execBgez; grind [State.Canonical, branchOn_canonical, answers_next]

theorem execBlez_canonical (a : Fin 64) (o : BitVec 17) {s : State} (h_s : s.Canonical) : AnswersCanonical (execBlez a
    o s) := by
  unfold execBlez; grind [State.Canonical, branchOn_canonical, answers_next]

theorem execBgtz_canonical (a : Fin 64) (o : BitVec 17) {s : State} (h_s : s.Canonical) : AnswersCanonical (execBgtz a
    o s) := by
  unfold execBgtz; grind [State.Canonical, branchOn_canonical, answers_next]

theorem execBra_canonical (o : BitVec 17) {s : State} (h_s : s.Canonical) : AnswersCanonical (execBra o s) := by
  unfold execBra; grind [State.Canonical, State.issue_canonical, State.goto_canonical, answers_next]

theorem execJmp_canonical (o : BitVec 26) {s : State} (h_s : s.Canonical) : AnswersCanonical (execJmp o s) := by
  unfold execJmp; grind [State.Canonical, State.issue_canonical, State.goto_canonical, answers_next]

theorem execCall_canonical (o : BitVec 26) {s : State} (h_s : s.Canonical) : AnswersCanonical (execCall o s) := by
  unfold execCall; grind [State.Canonical, State.issue_canonical, State.finish_canonical, State.goto_canonical,
      answers_next]

theorem execNop_canonical {s : State} (h_s : s.Canonical) : AnswersCanonical (execNop s) := by
  unfold execNop; grind [State.Canonical, State.issue_canonical, State.advance_canonical, answers_next]

theorem State.jumpTo_canonical {s : State} (t : Word64) (effect : State → State) (h_s : s.Canonical) (h_effect : ∀ (y0
    : State), y0.Canonical → (effect y0).Canonical) : (State.jumpTo s t effect).Canonical := by
  unfold State.jumpTo; grind [State.Canonical, State.trap_canonical, State.goto_canonical]

theorem execJr_canonical (a : Fin 64) (x : Bool) {s : State} (h_s : s.Canonical) : AnswersCanonical (execJr a x s) :=
    by
  unfold execJr; grind [State.Canonical, State.issue_canonical, State.jumpTo_canonical, answers_next]

theorem execCallr_canonical (a : Fin 64) (x : Bool) {s : State} (h_s : s.Canonical) : AnswersCanonical (execCallr a x
    s) := by
  unfold execCallr; grind [State.Canonical, State.issue_canonical, State.jumpTo_canonical, State.finish_canonical,
      answers_next]

theorem State.unstop_canonical {s : State} (fs : List HeldFault) (h_s : s.Canonical) : (State.unstop s fs).Canonical
    := by
  unfold State.unstop; grind [State.Canonical, State.mapGang_canonical]

theorem State.deliverAtExit_canonical {s : State} (f : HeldFault) (more : Nat) (h_s : s.Canonical) :
    (State.deliverAtExit s f more).Canonical := by
  unfold State.deliverAtExit; grind [State.Canonical, State.unstop_canonical, State.onWarp_canonical,
      State.toSupervisor_canonical]

theorem State.handlerExit_canonical {s : State} (h_s : s.Canonical) : (State.handlerExit s).Canonical := by
  unfold State.handlerExit; grind [State.Canonical, State.onWarp_canonical, State.toSupervisor_canonical,
      State.deliverAtExit_canonical, State.reportAll_canonical, State.dropWaiter_canonical,
      State.dropMonitors_canonical]

theorem State.exitFragment_canonical {s : State} (h_s : s.Canonical) : (State.exitFragment s).Canonical := by
  unfold State.exitFragment; grind [State.Canonical, State.hold_canonical, State.trap_canonical,
      State.handlerExit_canonical, State.onWarp_canonical]

theorem execRet_canonical {s : State} (h_s : s.Canonical) : AnswersCanonical (execRet s) := by
  unfold execRet; grind [State.Canonical, State.issue_canonical, State.exitFragment_canonical, State.jumpTo_canonical,
      answers_next]

theorem execExit_canonical {s : State} (h_s : s.Canonical) : AnswersCanonical (execExit s) := by
  unfold execExit; grind [State.Canonical, State.issue_canonical, State.exitFragment_canonical, answers_next]

theorem State.softTrap_canonical {s : State} (c : Cause) (code : Nat) (h_s : s.Canonical) : (State.softTrap s c
    code).Canonical := by
  unfold State.softTrap; grind [State.Canonical, State.raise_canonical]

theorem execBrk_canonical {s : State} (h_s : s.Canonical) : AnswersCanonical (execBrk s) := by
  unfold execBrk; grind [State.Canonical, State.issue_canonical, State.softTrap_canonical, answers_next]

theorem execTrap_canonical (c : Fin 64) {s : State} (h_s : s.Canonical) : AnswersCanonical (execTrap c s) := by
  unfold execTrap; grind [State.Canonical, State.issue_canonical, State.softTrap_canonical, answers_next]

theorem execYield_canonical {s : State} (h_s : s.Canonical) : AnswersCanonical (execYield s) := by
  unfold execYield; grind [State.Canonical, State.issue_canonical, State.advance_canonical, State.onWarp_canonical,
      answers_next]

theorem execBrvt_canonical (m : Fin 8) (o : BitVec 17) {s : State} (h_s : s.Canonical) : AnswersCanonical (execBrvt m
    o s) := by
  unfold execBrvt; grind [State.Canonical, State.issue_canonical, State.onWarp_canonical, answers_next]

theorem execBrvf_canonical (m : Fin 8) (o : BitVec 17) {s : State} (h_s : s.Canonical) : AnswersCanonical (execBrvf m
    o s) := by
  unfold execBrvf; grind [State.Canonical, State.issue_canonical, State.onWarp_canonical, answers_next]

theorem execFuse_canonical (n : Fin 64) {s : State} (h_s : s.Canonical) : AnswersCanonical (execFuse n s) := by
  unfold execFuse; grind [State.Canonical, State.issue_canonical, State.onWarp_canonical, answers_next]

theorem State.maskResult_canonical {s : State} (d : Fin 8) (x : Word32) (h_s : s.Canonical) : (State.maskResult s d
    x).Canonical := by
  unfold State.maskResult; grind [State.Canonical, State.onWarp_canonical, State.advance_canonical]

theorem mask2_canonical (f : Word32 → Word32 → Word32) (d : Fin 8) (a : Fin 8) (b : Fin 8) {s : State} (h_s :
    s.Canonical) : AnswersCanonical (mask2 f d a b s) := by
  unfold mask2; grind [State.Canonical, State.issue_canonical, State.maskResult_canonical, answers_next]

theorem maskToScalar_canonical (f : Word32 → Word64) (d : Fin 64) (a : Fin 8) {s : State} (h_s : s.Canonical) :
    AnswersCanonical (maskToScalar f d a s) := by
  unfold maskToScalar; grind [State.Canonical, State.issue_canonical, State.scalarResult_canonical, answers_next]

theorem execMset_canonical (d : Fin 8) (a : Fin 64) (x : Bool) {s : State} (h_s : s.Canonical) : AnswersCanonical
    (execMset d a x s) := by
  unfold execMset; grind [State.Canonical, State.issue_canonical, State.maskResult_canonical, answers_next]

theorem execMget_canonical (d : Fin 64) (a : Fin 8) {s : State} (h_s : s.Canonical) : AnswersCanonical (execMget d a
    s) := by
  unfold execMget; grind [State.Canonical, maskToScalar_canonical, answers_next]

theorem execMand_canonical (d : Fin 8) (a : Fin 8) (b : Fin 8) {s : State} (h_s : s.Canonical) : AnswersCanonical
    (execMand d a b s) := by
  unfold execMand; grind [State.Canonical, mask2_canonical, answers_next]

theorem execMor_canonical (d : Fin 8) (a : Fin 8) (b : Fin 8) {s : State} (h_s : s.Canonical) : AnswersCanonical
    (execMor d a b s) := by
  unfold execMor; grind [State.Canonical, mask2_canonical, answers_next]

theorem execMxor_canonical (d : Fin 8) (a : Fin 8) (b : Fin 8) {s : State} (h_s : s.Canonical) : AnswersCanonical
    (execMxor d a b s) := by
  unfold execMxor; grind [State.Canonical, mask2_canonical, answers_next]

theorem execMandn_canonical (d : Fin 8) (a : Fin 8) (b : Fin 8) {s : State} (h_s : s.Canonical) : AnswersCanonical
    (execMandn d a b s) := by
  unfold execMandn; grind [State.Canonical, mask2_canonical, answers_next]

theorem execMnot_canonical (d : Fin 8) (a : Fin 8) {s : State} (h_s : s.Canonical) : AnswersCanonical (execMnot d a s)
    := by
  unfold execMnot; grind [State.Canonical, mask2_canonical, answers_next]

theorem execMpopc_canonical (d : Fin 64) (a : Fin 8) {s : State} (h_s : s.Canonical) : AnswersCanonical (execMpopc d a
    s) := by
  unfold execMpopc; grind [State.Canonical, maskToScalar_canonical, answers_next]

theorem execMffs_canonical (d : Fin 64) (a : Fin 8) {s : State} (h_s : s.Canonical) : AnswersCanonical (execMffs d a
    s) := by
  unfold execMffs; grind [State.Canonical, maskToScalar_canonical, answers_next]

theorem execMlive_canonical (d : Fin 8) (a : Fin 8) {s : State} (h_s : s.Canonical) : AnswersCanonical (execMlive d a
    s) := by
  unfold execMlive; grind [State.Canonical, State.issue_canonical, State.maskResult_canonical, answers_next]

/-! ## Flags.lean -/

theorem State.noteDeadSource_canonical {s : State} (lanes : Word32) (h_s : s.Canonical) : (State.noteDeadSource s
    lanes).Canonical := by
  unfold State.noteDeadSource; grind [State.Canonical, State.onWarp_canonical]

/-! ## Vector.lean -/

theorem State.vecResult_canonical {s : State} (v : VOp) (poison : Warp → Nat → Word32) (f : LaneFn) (h_s :
    s.Canonical) : (State.vecResult s v poison f).Canonical := by
  unfold State.vecResult; grind [State.Canonical, State.finish_canonical, State.killLanes_canonical,
      State.advance_canonical, foldl_canonical]

theorem vecUnit_canonical (v : VOp) (n : Need) (f : LaneFn) {s : State} (h_s : s.Canonical) : AnswersCanonical
    (vecUnit v n f s) := by
  unfold vecUnit; grind [State.Canonical, State.issue_canonical, State.vecResult_canonical, answers_next]

/-! ## VecInt.lean -/

theorem vec2_canonical (f : Word32 → Word32 → Word32) (d : Fin 64) (a : Fin 64) (b : Fin 64) (x : Bool) (y : Bool) {s
    : State} (h_s : s.Canonical) : AnswersCanonical (vec2 f d a b x y s) := by
  unfold vec2; grind [State.Canonical, vecUnit_canonical, answers_next]

theorem vec2s_canonical (f : Word32 → Word32 → Word32) (d : Fin 64) (a : Fin 64) (b : Fin 64) (x : Bool) (y : Bool) {s
    : State} (h_s : s.Canonical) : AnswersCanonical (vec2s f d a b x y s) := by
  unfold vec2s; grind [State.Canonical, vecUnit_canonical, answers_next]

theorem vec1_canonical (f : Word32 → Word32) (d : Fin 64) (a : Fin 64) (x : Bool) {s : State} (h_s : s.Canonical) :
    AnswersCanonical (vec1 f d a x s) := by
  unfold vec1; grind [State.Canonical, vecUnit_canonical, answers_next]

theorem vec3_canonical (lvl : Bool) (f : Word32 → Word32 → Word32 → Word32) (d : Fin 64) (a : Fin 64) (b : Fin 64) (x
    : Bool) (y : Bool) {s : State} (h_s : s.Canonical) : AnswersCanonical (vec3 lvl f d a b x y s) := by
  unfold vec3; grind [State.Canonical, vecUnit_canonical, answers_next]

theorem vec3s_canonical (lvl : Bool) (f : Word32 → Word32 → Word32 → Word32) (d : Fin 64) (a : Fin 64) (b : Fin 64) (x
    : Bool) (y : Bool) {s : State} (h_s : s.Canonical) : AnswersCanonical (vec3s lvl f d a b x y s) := by
  unfold vec3s; grind [State.Canonical, vecUnit_canonical, answers_next]

theorem wide_canonical (f : Word64 → Word32 → Word64) (d : Fin 64) (a : Fin 64) (b : Fin 64) (x : Bool) (y : Bool) {s
    : State} (h_s : s.Canonical) : AnswersCanonical (wide f d a b x y s) := by
  unfold wide; grind [State.Canonical, vecUnit_canonical, answers_next]

theorem wides_canonical (f : Word64 → Word32 → Word64) (d : Fin 64) (a : Fin 64) (b : Fin 64) (x : Bool) (y : Bool) {s
    : State} (h_s : s.Canonical) : AnswersCanonical (wides f d a b x y s) := by
  unfold wides; grind [State.Canonical, vecUnit_canonical, answers_next]

theorem mulWide_canonical (f : Word32 → Word32 → Word64) (d : Fin 64) (a : Fin 64) (b : Fin 64) (x : Bool) (y : Bool)
    {s : State} (h_s : s.Canonical) : AnswersCanonical (mulWide f d a b x y s) := by
  unfold mulWide; grind [State.Canonical, vecUnit_canonical, answers_next]

theorem mulWides_canonical (f : Word32 → Word32 → Word64) (d : Fin 64) (a : Fin 64) (b : Fin 64) (x : Bool) (y : Bool)
    {s : State} (h_s : s.Canonical) : AnswersCanonical (mulWides f d a b x y s) := by
  unfold mulWides; grind [State.Canonical, vecUnit_canonical, answers_next]

theorem execVadd_canonical (d : Fin 64) (a : Fin 64) (b : Fin 64) (x : Bool) (y : Bool) {s : State} (h_s :
    s.Canonical) : AnswersCanonical (execVadd d a b x y s) := by
  unfold execVadd; grind [State.Canonical, vec2_canonical, answers_next]

theorem execVaddScalar_canonical (d : Fin 64) (a : Fin 64) (b : Fin 64) (x : Bool) (y : Bool) {s : State} (h_s :
    s.Canonical) : AnswersCanonical (execVaddScalar d a b x y s) := by
  unfold execVaddScalar; grind [State.Canonical, vec2s_canonical, answers_next]

theorem execVsub_canonical (d : Fin 64) (a : Fin 64) (b : Fin 64) (x : Bool) (y : Bool) {s : State} (h_s :
    s.Canonical) : AnswersCanonical (execVsub d a b x y s) := by
  unfold execVsub; grind [State.Canonical, vec2_canonical, answers_next]

theorem execVsubScalar_canonical (d : Fin 64) (a : Fin 64) (b : Fin 64) (x : Bool) (y : Bool) {s : State} (h_s :
    s.Canonical) : AnswersCanonical (execVsubScalar d a b x y s) := by
  unfold execVsubScalar; grind [State.Canonical, vec2s_canonical, answers_next]

theorem execVmul_canonical (d : Fin 64) (a : Fin 64) (b : Fin 64) (x : Bool) (y : Bool) {s : State} (h_s :
    s.Canonical) : AnswersCanonical (execVmul d a b x y s) := by
  unfold execVmul; grind [State.Canonical, vec2_canonical, answers_next]

theorem execVmulScalar_canonical (d : Fin 64) (a : Fin 64) (b : Fin 64) (x : Bool) (y : Bool) {s : State} (h_s :
    s.Canonical) : AnswersCanonical (execVmulScalar d a b x y s) := by
  unfold execVmulScalar; grind [State.Canonical, vec2s_canonical, answers_next]

theorem execVmulh_canonical (d : Fin 64) (a : Fin 64) (b : Fin 64) (x : Bool) (y : Bool) {s : State} (h_s :
    s.Canonical) : AnswersCanonical (execVmulh d a b x y s) := by
  unfold execVmulh; grind [State.Canonical, vec2_canonical, answers_next]

theorem execVmulhScalar_canonical (d : Fin 64) (a : Fin 64) (b : Fin 64) (x : Bool) (y : Bool) {s : State} (h_s :
    s.Canonical) : AnswersCanonical (execVmulhScalar d a b x y s) := by
  unfold execVmulhScalar; grind [State.Canonical, vec2s_canonical, answers_next]

theorem execVmulhz_canonical (d : Fin 64) (a : Fin 64) (b : Fin 64) (x : Bool) (y : Bool) {s : State} (h_s :
    s.Canonical) : AnswersCanonical (execVmulhz d a b x y s) := by
  unfold execVmulhz; grind [State.Canonical, vec2_canonical, answers_next]

theorem execVmulhzScalar_canonical (d : Fin 64) (a : Fin 64) (b : Fin 64) (x : Bool) (y : Bool) {s : State} (h_s :
    s.Canonical) : AnswersCanonical (execVmulhzScalar d a b x y s) := by
  unfold execVmulhzScalar; grind [State.Canonical, vec2s_canonical, answers_next]

theorem execVmin_canonical (d : Fin 64) (a : Fin 64) (b : Fin 64) (x : Bool) (y : Bool) {s : State} (h_s :
    s.Canonical) : AnswersCanonical (execVmin d a b x y s) := by
  unfold execVmin; grind [State.Canonical, vec2_canonical, answers_next]

theorem execVminScalar_canonical (d : Fin 64) (a : Fin 64) (b : Fin 64) (x : Bool) (y : Bool) {s : State} (h_s :
    s.Canonical) : AnswersCanonical (execVminScalar d a b x y s) := by
  unfold execVminScalar; grind [State.Canonical, vec2s_canonical, answers_next]

theorem execVmax_canonical (d : Fin 64) (a : Fin 64) (b : Fin 64) (x : Bool) (y : Bool) {s : State} (h_s :
    s.Canonical) : AnswersCanonical (execVmax d a b x y s) := by
  unfold execVmax; grind [State.Canonical, vec2_canonical, answers_next]

theorem execVmaxScalar_canonical (d : Fin 64) (a : Fin 64) (b : Fin 64) (x : Bool) (y : Bool) {s : State} (h_s :
    s.Canonical) : AnswersCanonical (execVmaxScalar d a b x y s) := by
  unfold execVmaxScalar; grind [State.Canonical, vec2s_canonical, answers_next]

theorem execVminz_canonical (d : Fin 64) (a : Fin 64) (b : Fin 64) (x : Bool) (y : Bool) {s : State} (h_s :
    s.Canonical) : AnswersCanonical (execVminz d a b x y s) := by
  unfold execVminz; grind [State.Canonical, vec2_canonical, answers_next]

theorem execVminzScalar_canonical (d : Fin 64) (a : Fin 64) (b : Fin 64) (x : Bool) (y : Bool) {s : State} (h_s :
    s.Canonical) : AnswersCanonical (execVminzScalar d a b x y s) := by
  unfold execVminzScalar; grind [State.Canonical, vec2s_canonical, answers_next]

theorem execVmaxz_canonical (d : Fin 64) (a : Fin 64) (b : Fin 64) (x : Bool) (y : Bool) {s : State} (h_s :
    s.Canonical) : AnswersCanonical (execVmaxz d a b x y s) := by
  unfold execVmaxz; grind [State.Canonical, vec2_canonical, answers_next]

theorem execVmaxzScalar_canonical (d : Fin 64) (a : Fin 64) (b : Fin 64) (x : Bool) (y : Bool) {s : State} (h_s :
    s.Canonical) : AnswersCanonical (execVmaxzScalar d a b x y s) := by
  unfold execVmaxzScalar; grind [State.Canonical, vec2s_canonical, answers_next]

theorem execVand_canonical (d : Fin 64) (a : Fin 64) (b : Fin 64) (x : Bool) (y : Bool) {s : State} (h_s :
    s.Canonical) : AnswersCanonical (execVand d a b x y s) := by
  unfold execVand; grind [State.Canonical, vec2_canonical, answers_next]

theorem execVandScalar_canonical (d : Fin 64) (a : Fin 64) (b : Fin 64) (x : Bool) (y : Bool) {s : State} (h_s :
    s.Canonical) : AnswersCanonical (execVandScalar d a b x y s) := by
  unfold execVandScalar; grind [State.Canonical, vec2s_canonical, answers_next]

theorem execVor_canonical (d : Fin 64) (a : Fin 64) (b : Fin 64) (x : Bool) (y : Bool) {s : State} (h_s : s.Canonical)
    : AnswersCanonical (execVor d a b x y s) := by
  unfold execVor; grind [State.Canonical, vec2_canonical, answers_next]

theorem execVorScalar_canonical (d : Fin 64) (a : Fin 64) (b : Fin 64) (x : Bool) (y : Bool) {s : State} (h_s :
    s.Canonical) : AnswersCanonical (execVorScalar d a b x y s) := by
  unfold execVorScalar; grind [State.Canonical, vec2s_canonical, answers_next]

theorem execVxor_canonical (d : Fin 64) (a : Fin 64) (b : Fin 64) (x : Bool) (y : Bool) {s : State} (h_s :
    s.Canonical) : AnswersCanonical (execVxor d a b x y s) := by
  unfold execVxor; grind [State.Canonical, vec2_canonical, answers_next]

theorem execVxorScalar_canonical (d : Fin 64) (a : Fin 64) (b : Fin 64) (x : Bool) (y : Bool) {s : State} (h_s :
    s.Canonical) : AnswersCanonical (execVxorScalar d a b x y s) := by
  unfold execVxorScalar; grind [State.Canonical, vec2s_canonical, answers_next]

theorem execVandn_canonical (d : Fin 64) (a : Fin 64) (b : Fin 64) (x : Bool) (y : Bool) {s : State} (h_s :
    s.Canonical) : AnswersCanonical (execVandn d a b x y s) := by
  unfold execVandn; grind [State.Canonical, vec2_canonical, answers_next]

theorem execVandnScalar_canonical (d : Fin 64) (a : Fin 64) (b : Fin 64) (x : Bool) (y : Bool) {s : State} (h_s :
    s.Canonical) : AnswersCanonical (execVandnScalar d a b x y s) := by
  unfold execVandnScalar; grind [State.Canonical, vec2s_canonical, answers_next]

theorem execVshl_canonical (d : Fin 64) (a : Fin 64) (b : Fin 64) (x : Bool) (y : Bool) {s : State} (h_s :
    s.Canonical) : AnswersCanonical (execVshl d a b x y s) := by
  unfold execVshl; grind [State.Canonical, vec2_canonical, answers_next]

theorem execVshlScalar_canonical (d : Fin 64) (a : Fin 64) (b : Fin 64) (x : Bool) (y : Bool) {s : State} (h_s :
    s.Canonical) : AnswersCanonical (execVshlScalar d a b x y s) := by
  unfold execVshlScalar; grind [State.Canonical, vec2s_canonical, answers_next]

theorem execVshr_canonical (d : Fin 64) (a : Fin 64) (b : Fin 64) (x : Bool) (y : Bool) {s : State} (h_s :
    s.Canonical) : AnswersCanonical (execVshr d a b x y s) := by
  unfold execVshr; grind [State.Canonical, vec2_canonical, answers_next]

theorem execVshrScalar_canonical (d : Fin 64) (a : Fin 64) (b : Fin 64) (x : Bool) (y : Bool) {s : State} (h_s :
    s.Canonical) : AnswersCanonical (execVshrScalar d a b x y s) := by
  unfold execVshrScalar; grind [State.Canonical, vec2s_canonical, answers_next]

theorem execVsra_canonical (d : Fin 64) (a : Fin 64) (b : Fin 64) (x : Bool) (y : Bool) {s : State} (h_s :
    s.Canonical) : AnswersCanonical (execVsra d a b x y s) := by
  unfold execVsra; grind [State.Canonical, vec2_canonical, answers_next]

theorem execVsraScalar_canonical (d : Fin 64) (a : Fin 64) (b : Fin 64) (x : Bool) (y : Bool) {s : State} (h_s :
    s.Canonical) : AnswersCanonical (execVsraScalar d a b x y s) := by
  unfold execVsraScalar; grind [State.Canonical, vec2s_canonical, answers_next]

theorem execVabsd_canonical (d : Fin 64) (a : Fin 64) (b : Fin 64) (x : Bool) (y : Bool) {s : State} (h_s :
    s.Canonical) : AnswersCanonical (execVabsd d a b x y s) := by
  unfold execVabsd; grind [State.Canonical, vec2_canonical, answers_next]

theorem execVabsdScalar_canonical (d : Fin 64) (a : Fin 64) (b : Fin 64) (x : Bool) (y : Bool) {s : State} (h_s :
    s.Canonical) : AnswersCanonical (execVabsdScalar d a b x y s) := by
  unfold execVabsdScalar; grind [State.Canonical, vec2s_canonical, answers_next]

theorem execVsadd_canonical (d : Fin 64) (a : Fin 64) (b : Fin 64) (x : Bool) (y : Bool) {s : State} (h_s :
    s.Canonical) : AnswersCanonical (execVsadd d a b x y s) := by
  unfold execVsadd; grind [State.Canonical, vec2_canonical, answers_next]

theorem execVsaddScalar_canonical (d : Fin 64) (a : Fin 64) (b : Fin 64) (x : Bool) (y : Bool) {s : State} (h_s :
    s.Canonical) : AnswersCanonical (execVsaddScalar d a b x y s) := by
  unfold execVsaddScalar; grind [State.Canonical, vec2s_canonical, answers_next]

theorem execVssub_canonical (d : Fin 64) (a : Fin 64) (b : Fin 64) (x : Bool) (y : Bool) {s : State} (h_s :
    s.Canonical) : AnswersCanonical (execVssub d a b x y s) := by
  unfold execVssub; grind [State.Canonical, vec2_canonical, answers_next]

theorem execVssubScalar_canonical (d : Fin 64) (a : Fin 64) (b : Fin 64) (x : Bool) (y : Bool) {s : State} (h_s :
    s.Canonical) : AnswersCanonical (execVssubScalar d a b x y s) := by
  unfold execVssubScalar; grind [State.Canonical, vec2s_canonical, answers_next]

theorem execVsaddz_canonical (d : Fin 64) (a : Fin 64) (b : Fin 64) (x : Bool) (y : Bool) {s : State} (h_s :
    s.Canonical) : AnswersCanonical (execVsaddz d a b x y s) := by
  unfold execVsaddz; grind [State.Canonical, vec2_canonical, answers_next]

theorem execVsaddzScalar_canonical (d : Fin 64) (a : Fin 64) (b : Fin 64) (x : Bool) (y : Bool) {s : State} (h_s :
    s.Canonical) : AnswersCanonical (execVsaddzScalar d a b x y s) := by
  unfold execVsaddzScalar; grind [State.Canonical, vec2s_canonical, answers_next]

theorem execVssubz_canonical (d : Fin 64) (a : Fin 64) (b : Fin 64) (x : Bool) (y : Bool) {s : State} (h_s :
    s.Canonical) : AnswersCanonical (execVssubz d a b x y s) := by
  unfold execVssubz; grind [State.Canonical, vec2_canonical, answers_next]

theorem execVssubzScalar_canonical (d : Fin 64) (a : Fin 64) (b : Fin 64) (x : Bool) (y : Bool) {s : State} (h_s :
    s.Canonical) : AnswersCanonical (execVssubzScalar d a b x y s) := by
  unfold execVssubzScalar; grind [State.Canonical, vec2s_canonical, answers_next]

theorem execVbfe_canonical (d : Fin 64) (a : Fin 64) (b : Fin 64) (x : Bool) (y : Bool) {s : State} (h_s :
    s.Canonical) : AnswersCanonical (execVbfe d a b x y s) := by
  unfold execVbfe; grind [State.Canonical, vec2_canonical, answers_next]

theorem execVbfeScalar_canonical (d : Fin 64) (a : Fin 64) (b : Fin 64) (x : Bool) (y : Bool) {s : State} (h_s :
    s.Canonical) : AnswersCanonical (execVbfeScalar d a b x y s) := by
  unfold execVbfeScalar; grind [State.Canonical, vec2s_canonical, answers_next]

theorem execVdiv_canonical (d : Fin 64) (a : Fin 64) (b : Fin 64) (x : Bool) (y : Bool) {s : State} (h_s :
    s.Canonical) : AnswersCanonical (execVdiv d a b x y s) := by
  unfold execVdiv; grind [State.Canonical, vec2_canonical, answers_next]

theorem execVdivScalar_canonical (d : Fin 64) (a : Fin 64) (b : Fin 64) (x : Bool) (y : Bool) {s : State} (h_s :
    s.Canonical) : AnswersCanonical (execVdivScalar d a b x y s) := by
  unfold execVdivScalar; grind [State.Canonical, vec2s_canonical, answers_next]

theorem execVdivz_canonical (d : Fin 64) (a : Fin 64) (b : Fin 64) (x : Bool) (y : Bool) {s : State} (h_s :
    s.Canonical) : AnswersCanonical (execVdivz d a b x y s) := by
  unfold execVdivz; grind [State.Canonical, vec2_canonical, answers_next]

theorem execVdivzScalar_canonical (d : Fin 64) (a : Fin 64) (b : Fin 64) (x : Bool) (y : Bool) {s : State} (h_s :
    s.Canonical) : AnswersCanonical (execVdivzScalar d a b x y s) := by
  unfold execVdivzScalar; grind [State.Canonical, vec2s_canonical, answers_next]

theorem execVrem_canonical (d : Fin 64) (a : Fin 64) (b : Fin 64) (x : Bool) (y : Bool) {s : State} (h_s :
    s.Canonical) : AnswersCanonical (execVrem d a b x y s) := by
  unfold execVrem; grind [State.Canonical, vec2_canonical, answers_next]

theorem execVremScalar_canonical (d : Fin 64) (a : Fin 64) (b : Fin 64) (x : Bool) (y : Bool) {s : State} (h_s :
    s.Canonical) : AnswersCanonical (execVremScalar d a b x y s) := by
  unfold execVremScalar; grind [State.Canonical, vec2s_canonical, answers_next]

theorem execVremz_canonical (d : Fin 64) (a : Fin 64) (b : Fin 64) (x : Bool) (y : Bool) {s : State} (h_s :
    s.Canonical) : AnswersCanonical (execVremz d a b x y s) := by
  unfold execVremz; grind [State.Canonical, vec2_canonical, answers_next]

theorem execVremzScalar_canonical (d : Fin 64) (a : Fin 64) (b : Fin 64) (x : Bool) (y : Bool) {s : State} (h_s :
    s.Canonical) : AnswersCanonical (execVremzScalar d a b x y s) := by
  unfold execVremzScalar; grind [State.Canonical, vec2s_canonical, answers_next]

theorem execVbfi_canonical (d : Fin 64) (a : Fin 64) (b : Fin 64) (x : Bool) (y : Bool) {s : State} (h_s :
    s.Canonical) : AnswersCanonical (execVbfi d a b x y s) := by
  unfold execVbfi; grind [State.Canonical, vec3_canonical, answers_next]

theorem execVbfiScalar_canonical (d : Fin 64) (a : Fin 64) (b : Fin 64) (x : Bool) (y : Bool) {s : State} (h_s :
    s.Canonical) : AnswersCanonical (execVbfiScalar d a b x y s) := by
  unfold execVbfiScalar; grind [State.Canonical, vec3s_canonical, answers_next]

theorem execVdot4_canonical (d : Fin 64) (a : Fin 64) (b : Fin 64) (x : Bool) (y : Bool) {s : State} (h_s :
    s.Canonical) : AnswersCanonical (execVdot4 d a b x y s) := by
  unfold execVdot4; grind [State.Canonical, vec3_canonical, answers_next]

theorem execVdot4Scalar_canonical (d : Fin 64) (a : Fin 64) (b : Fin 64) (x : Bool) (y : Bool) {s : State} (h_s :
    s.Canonical) : AnswersCanonical (execVdot4Scalar d a b x y s) := by
  unfold execVdot4Scalar; grind [State.Canonical, vec3s_canonical, answers_next]

theorem execVdot4z_canonical (d : Fin 64) (a : Fin 64) (b : Fin 64) (x : Bool) (y : Bool) {s : State} (h_s :
    s.Canonical) : AnswersCanonical (execVdot4z d a b x y s) := by
  unfold execVdot4z; grind [State.Canonical, vec3_canonical, answers_next]

theorem execVdot4zScalar_canonical (d : Fin 64) (a : Fin 64) (b : Fin 64) (x : Bool) (y : Bool) {s : State} (h_s :
    s.Canonical) : AnswersCanonical (execVdot4zScalar d a b x y s) := by
  unfold execVdot4zScalar; grind [State.Canonical, vec3s_canonical, answers_next]

theorem execVaddw_canonical (d : Fin 64) (a : Fin 64) (b : Fin 64) (x : Bool) (y : Bool) {s : State} (h_s :
    s.Canonical) : AnswersCanonical (execVaddw d a b x y s) := by
  unfold execVaddw; grind [State.Canonical, wide_canonical, answers_next]

theorem execVaddwScalar_canonical (d : Fin 64) (a : Fin 64) (b : Fin 64) (x : Bool) (y : Bool) {s : State} (h_s :
    s.Canonical) : AnswersCanonical (execVaddwScalar d a b x y s) := by
  unfold execVaddwScalar; grind [State.Canonical, wides_canonical, answers_next]

theorem execVsubw_canonical (d : Fin 64) (a : Fin 64) (b : Fin 64) (x : Bool) (y : Bool) {s : State} (h_s :
    s.Canonical) : AnswersCanonical (execVsubw d a b x y s) := by
  unfold execVsubw; grind [State.Canonical, wide_canonical, answers_next]

theorem execVsubwScalar_canonical (d : Fin 64) (a : Fin 64) (b : Fin 64) (x : Bool) (y : Bool) {s : State} (h_s :
    s.Canonical) : AnswersCanonical (execVsubwScalar d a b x y s) := by
  unfold execVsubwScalar; grind [State.Canonical, wides_canonical, answers_next]

theorem execVmulw_canonical (d : Fin 64) (a : Fin 64) (b : Fin 64) (x : Bool) (y : Bool) {s : State} (h_s :
    s.Canonical) : AnswersCanonical (execVmulw d a b x y s) := by
  unfold execVmulw; grind [State.Canonical, mulWide_canonical, answers_next]

theorem execVmulwScalar_canonical (d : Fin 64) (a : Fin 64) (b : Fin 64) (x : Bool) (y : Bool) {s : State} (h_s :
    s.Canonical) : AnswersCanonical (execVmulwScalar d a b x y s) := by
  unfold execVmulwScalar; grind [State.Canonical, mulWides_canonical, answers_next]

theorem execVmulwz_canonical (d : Fin 64) (a : Fin 64) (b : Fin 64) (x : Bool) (y : Bool) {s : State} (h_s :
    s.Canonical) : AnswersCanonical (execVmulwz d a b x y s) := by
  unfold execVmulwz; grind [State.Canonical, mulWide_canonical, answers_next]

theorem execVmulwzScalar_canonical (d : Fin 64) (a : Fin 64) (b : Fin 64) (x : Bool) (y : Bool) {s : State} (h_s :
    s.Canonical) : AnswersCanonical (execVmulwzScalar d a b x y s) := by
  unfold execVmulwzScalar; grind [State.Canonical, mulWides_canonical, answers_next]

theorem execVclz_canonical (d : Fin 64) (a : Fin 64) (x : Bool) {s : State} (h_s : s.Canonical) : AnswersCanonical
    (execVclz d a x s) := by
  unfold execVclz; grind [State.Canonical, vec1_canonical, answers_next]

theorem execVpopc_canonical (d : Fin 64) (a : Fin 64) (x : Bool) {s : State} (h_s : s.Canonical) : AnswersCanonical
    (execVpopc d a x s) := by
  unfold execVpopc; grind [State.Canonical, vec1_canonical, answers_next]

theorem execVbrev_canonical (d : Fin 64) (a : Fin 64) (x : Bool) {s : State} (h_s : s.Canonical) : AnswersCanonical
    (execVbrev d a x s) := by
  unfold execVbrev; grind [State.Canonical, vec1_canonical, answers_next]

theorem execVmov_canonical (d : Fin 64) (a : Fin 64) (x : Bool) {s : State} (h_s : s.Canonical) : AnswersCanonical
    (execVmov d a x s) := by
  unfold execVmov; grind [State.Canonical, vec1_canonical, answers_next]

theorem execVmovScalar_canonical (d : Fin 64) (b : Fin 64) (y : Bool) {s : State} (h_s : s.Canonical) :
    AnswersCanonical (execVmovScalar d b y s) := by
  unfold execVmovScalar; grind [State.Canonical, vecUnit_canonical, answers_next]

theorem execVaddr_canonical (d : Fin 64) (a : Fin 64) (b : Fin 64) (x : Bool) (y : Bool) {s : State} (h_s :
    s.Canonical) : AnswersCanonical (execVaddr d a b x y s) := by
  unfold execVaddr; grind [State.Canonical, vecUnit_canonical, answers_next]

theorem vecImm_canonical (legal : Word32 → Bool) (f : Word32 → Word32 → Word32) (d : Fin 64) (a : Fin 64) (i : BitVec
    10) (x : Bool) {s : State} (h_s : s.Canonical) : AnswersCanonical (vecImm legal f d a i x s) := by
  unfold vecImm; grind [State.Canonical, vecUnit_canonical, answers_next]

theorem execVaddi_canonical (d : Fin 64) (a : Fin 64) (i : BitVec 10) (x : Bool) {s : State} (h_s : s.Canonical) :
    AnswersCanonical (execVaddi d a i x s) := by
  unfold execVaddi; grind [State.Canonical, vecImm_canonical, answers_next]

theorem execVandi_canonical (d : Fin 64) (a : Fin 64) (i : BitVec 10) (x : Bool) {s : State} (h_s : s.Canonical) :
    AnswersCanonical (execVandi d a i x s) := by
  unfold execVandi; grind [State.Canonical, vecImm_canonical, answers_next]

theorem execVori_canonical (d : Fin 64) (a : Fin 64) (i : BitVec 10) (x : Bool) {s : State} (h_s : s.Canonical) :
    AnswersCanonical (execVori d a i x s) := by
  unfold execVori; grind [State.Canonical, vecImm_canonical, answers_next]

theorem execVxori_canonical (d : Fin 64) (a : Fin 64) (i : BitVec 10) (x : Bool) {s : State} (h_s : s.Canonical) :
    AnswersCanonical (execVxori d a i x s) := by
  unfold execVxori; grind [State.Canonical, vecImm_canonical, answers_next]

theorem execVshli_canonical (d : Fin 64) (a : Fin 64) (i : BitVec 10) (x : Bool) {s : State} (h_s : s.Canonical) :
    AnswersCanonical (execVshli d a i x s) := by
  unfold execVshli; grind [State.Canonical, vecImm_canonical, answers_next]

theorem execVshri_canonical (d : Fin 64) (a : Fin 64) (i : BitVec 10) (x : Bool) {s : State} (h_s : s.Canonical) :
    AnswersCanonical (execVshri d a i x s) := by
  unfold execVshri; grind [State.Canonical, vecImm_canonical, answers_next]

theorem execVsrai_canonical (d : Fin 64) (a : Fin 64) (i : BitVec 10) (x : Bool) {s : State} (h_s : s.Canonical) :
    AnswersCanonical (execVsrai d a i x s) := by
  unfold execVsrai; grind [State.Canonical, vecImm_canonical, answers_next]

theorem execVmovi_canonical (d : Fin 64) (i : BitVec 10) {s : State} (h_s : s.Canonical) : AnswersCanonical (execVmovi
    d i s) := by
  unfold execVmovi; grind [State.Canonical, vecUnit_canonical, answers_next]

theorem compare_canonical (f : Word32 → Word32 → Bool × BitVec 5) (m : Fin 8) (a : Fin 64) (b : Fin 64) (x : Bool) (y
    : Bool) {s : State} (h_s : s.Canonical) : AnswersCanonical (compare f m a b x y s) := by
  unfold compare; grind [State.Canonical, State.issue_canonical, State.trap_canonical, State.finish_canonical,
      State.onWarp_canonical, State.advance_canonical, answers_next]

theorem execVceq_canonical (m : Fin 8) (a : Fin 64) (b : Fin 64) (x : Bool) (y : Bool) {s : State} (h_s : s.Canonical)
    : AnswersCanonical (execVceq m a b x y s) := by
  unfold execVceq; grind [State.Canonical, compare_canonical, answers_next]

theorem execVcne_canonical (m : Fin 8) (a : Fin 64) (b : Fin 64) (x : Bool) (y : Bool) {s : State} (h_s : s.Canonical)
    : AnswersCanonical (execVcne m a b x y s) := by
  unfold execVcne; grind [State.Canonical, compare_canonical, answers_next]

theorem execVclt_canonical (m : Fin 8) (a : Fin 64) (b : Fin 64) (x : Bool) (y : Bool) {s : State} (h_s : s.Canonical)
    : AnswersCanonical (execVclt m a b x y s) := by
  unfold execVclt; grind [State.Canonical, compare_canonical, answers_next]

theorem execVcle_canonical (m : Fin 8) (a : Fin 64) (b : Fin 64) (x : Bool) (y : Bool) {s : State} (h_s : s.Canonical)
    : AnswersCanonical (execVcle m a b x y s) := by
  unfold execVcle; grind [State.Canonical, compare_canonical, answers_next]

theorem execVcltz_canonical (m : Fin 8) (a : Fin 64) (b : Fin 64) (x : Bool) (y : Bool) {s : State} (h_s :
    s.Canonical) : AnswersCanonical (execVcltz m a b x y s) := by
  unfold execVcltz; grind [State.Canonical, compare_canonical, answers_next]

theorem execVclez_canonical (m : Fin 8) (a : Fin 64) (b : Fin 64) (x : Bool) (y : Bool) {s : State} (h_s :
    s.Canonical) : AnswersCanonical (execVclez m a b x y s) := by
  unfold execVclez; grind [State.Canonical, compare_canonical, answers_next]

theorem execFceq_canonical (m : Fin 8) (a : Fin 64) (b : Fin 64) (x : Bool) (y : Bool) {s : State} (h_s : s.Canonical)
    : AnswersCanonical (execFceq m a b x y s) := by
  unfold execFceq; grind [State.Canonical, compare_canonical, answers_next]

theorem execFcne_canonical (m : Fin 8) (a : Fin 64) (b : Fin 64) (x : Bool) (y : Bool) {s : State} (h_s : s.Canonical)
    : AnswersCanonical (execFcne m a b x y s) := by
  unfold execFcne; grind [State.Canonical, compare_canonical, answers_next]

theorem execFclt_canonical (m : Fin 8) (a : Fin 64) (b : Fin 64) (x : Bool) (y : Bool) {s : State} (h_s : s.Canonical)
    : AnswersCanonical (execFclt m a b x y s) := by
  unfold execFclt; grind [State.Canonical, compare_canonical, answers_next]

theorem execFcle_canonical (m : Fin 8) (a : Fin 64) (b : Fin 64) (x : Bool) (y : Bool) {s : State} (h_s : s.Canonical)
    : AnswersCanonical (execFcle m a b x y s) := by
  unfold execFcle; grind [State.Canonical, compare_canonical, answers_next]

theorem execFcun_canonical (m : Fin 8) (a : Fin 64) (b : Fin 64) (x : Bool) (y : Bool) {s : State} (h_s : s.Canonical)
    : AnswersCanonical (execFcun m a b x y s) := by
  unfold execFcun; grind [State.Canonical, compare_canonical, answers_next]

theorem execVsel_canonical (d : Fin 64) (a : Fin 64) (b : Fin 64) (k : Fin 8) (x : Bool) (y : Bool) {s : State} (h_s :
    s.Canonical) : AnswersCanonical (execVsel d a b k x y s) := by
  unfold execVsel; grind [State.Canonical, State.issue_canonical, State.vecResult_canonical, answers_next]

theorem execVmad_canonical (d : Fin 64) (a : Fin 64) (b : Fin 64) (c : Fin 64) (x : Bool) {s : State} (h_s :
    s.Canonical) : AnswersCanonical (execVmad d a b c x s) := by
  unfold execVmad; grind [State.Canonical, vecUnit_canonical, answers_next]

/-! ## Lanes.lean -/

theorem exchange_canonical (d : Fin 64) (a : Fin 64) (x : Bool) (vs : List VSrc) (ss : List (Fin 64 × Bool)) (src :
    Warp → Fin 32 → Source) {s : State} (h_s : s.Canonical) : AnswersCanonical (exchange d a x vs ss src s) := by
  unfold exchange; grind [State.Canonical, State.issue_canonical, State.noteDeadSource_canonical,
      State.vecResult_canonical, foldl_canonical, answers_next]

theorem execShfl_canonical (d : Fin 64) (a : Fin 64) (b : Fin 64) (x : Bool) (y : Bool) {s : State} (h_s :
    s.Canonical) : AnswersCanonical (execShfl d a b x y s) := by
  unfold execShfl; grind [State.Canonical, exchange_canonical, answers_next]

theorem execShflup_canonical (d : Fin 64) (a : Fin 64) (b : Fin 64) (x : Bool) (y : Bool) {s : State} (h_s :
    s.Canonical) : AnswersCanonical (execShflup d a b x y s) := by
  unfold execShflup; grind [State.Canonical, exchange_canonical, answers_next]

theorem execShfldn_canonical (d : Fin 64) (a : Fin 64) (b : Fin 64) (x : Bool) (y : Bool) {s : State} (h_s :
    s.Canonical) : AnswersCanonical (execShfldn d a b x y s) := by
  unfold execShfldn; grind [State.Canonical, exchange_canonical, answers_next]

theorem execShflx_canonical (d : Fin 64) (a : Fin 64) (b : Fin 64) (x : Bool) (y : Bool) {s : State} (h_s :
    s.Canonical) : AnswersCanonical (execShflx d a b x y s) := by
  unfold execShflx; grind [State.Canonical, exchange_canonical, answers_next]

theorem execQswz_canonical (d : Fin 64) (a : Fin 64) (b : Fin 64) (x : Bool) (y : Bool) {s : State} (h_s :
    s.Canonical) : AnswersCanonical (execQswz d a b x y s) := by
  unfold execQswz; grind [State.Canonical, exchange_canonical, answers_next]

theorem execBcast_canonical (d : Fin 64) (a : Fin 64) (b : Fin 64) (x : Bool) (y : Bool) {s : State} (h_s :
    s.Canonical) : AnswersCanonical (execBcast d a b x y s) := by
  unfold execBcast; grind [State.Canonical, exchange_canonical, answers_next]

theorem execVrdlane_canonical (d : Fin 64) (a : Fin 64) (b : Fin 64) (x : Bool) (y : Bool) {s : State} (h_s :
    s.Canonical) : AnswersCanonical (execVrdlane d a b x y s) := by
  unfold execVrdlane; grind [State.Canonical, State.issue_canonical, State.trap_canonical,
      State.scalarResult_canonical, State.noteDeadSource_canonical, answers_next]

theorem execVwrlane_canonical (d : Fin 64) (a : Fin 64) (b : Fin 64) (x : Bool) (y : Bool) {s : State} (h_s :
    s.Canonical) : AnswersCanonical (execVwrlane d a b x y s) := by
  unfold execVwrlane; grind [State.Canonical, State.issue_canonical, State.finish_canonical, State.advance_canonical,
      answers_next]

theorem warpReduce_canonical (f : Word32 → List Word32 → Word64 × BitVec 5) (d : Fin 64) (a : Fin 64) (x : Bool) {s :
    State} (h_s : s.Canonical) : AnswersCanonical (warpReduce f d a x s) := by
  unfold warpReduce; grind [State.Canonical, State.issue_canonical, State.trap_canonical,
      State.scalarResult_canonical, State.finish_canonical, State.advance_canonical, answers_next]

theorem execBallot_canonical (d : Fin 64) (a : Fin 64) (x : Bool) {s : State} (h_s : s.Canonical) : AnswersCanonical
    (execBallot d a x s) := by
  unfold execBallot; grind [State.Canonical, State.issue_canonical, State.trap_canonical,
      State.scalarResult_canonical, answers_next]

theorem execWradd_canonical (d : Fin 64) (a : Fin 64) (x : Bool) {s : State} (h_s : s.Canonical) : AnswersCanonical
    (execWradd d a x s) := by
  unfold execWradd; grind [State.Canonical, warpReduce_canonical, foldl_canonical, answers_next]

theorem execWrmin_canonical (d : Fin 64) (a : Fin 64) (x : Bool) {s : State} (h_s : s.Canonical) : AnswersCanonical
    (execWrmin d a x s) := by
  unfold execWrmin; grind [State.Canonical, warpReduce_canonical, answers_next]

theorem execWrmax_canonical (d : Fin 64) (a : Fin 64) (x : Bool) {s : State} (h_s : s.Canonical) : AnswersCanonical
    (execWrmax d a x s) := by
  unfold execWrmax; grind [State.Canonical, warpReduce_canonical, answers_next]

theorem execWrminz_canonical (d : Fin 64) (a : Fin 64) (x : Bool) {s : State} (h_s : s.Canonical) : AnswersCanonical
    (execWrminz d a x s) := by
  unfold execWrminz; grind [State.Canonical, warpReduce_canonical, answers_next]

theorem execWrmaxz_canonical (d : Fin 64) (a : Fin 64) (x : Bool) {s : State} (h_s : s.Canonical) : AnswersCanonical
    (execWrmaxz d a x s) := by
  unfold execWrmaxz; grind [State.Canonical, warpReduce_canonical, answers_next]

theorem execWrand_canonical (d : Fin 64) (a : Fin 64) (x : Bool) {s : State} (h_s : s.Canonical) : AnswersCanonical
    (execWrand d a x s) := by
  unfold execWrand; grind [State.Canonical, warpReduce_canonical, answers_next]

theorem execWror_canonical (d : Fin 64) (a : Fin 64) (x : Bool) {s : State} (h_s : s.Canonical) : AnswersCanonical
    (execWror d a x s) := by
  unfold execWror; grind [State.Canonical, warpReduce_canonical, answers_next]

theorem execWrxor_canonical (d : Fin 64) (a : Fin 64) (x : Bool) {s : State} (h_s : s.Canonical) : AnswersCanonical
    (execWrxor d a x s) := by
  unfold execWrxor; grind [State.Canonical, warpReduce_canonical, answers_next]

theorem execWrfadd_canonical (d : Fin 64) (a : Fin 64) (x : Bool) {s : State} (h_s : s.Canonical) : AnswersCanonical
    (execWrfadd d a x s) := by
  unfold execWrfadd; grind [State.Canonical, warpReduce_canonical, answers_next]

/-! ## Convert.lean -/

theorem execCvt_canonical (d : Fin 64) (a : Fin 64) (sf : Fin 32) (g : Fin 32) (r : Fin 4) (u : Bool) (x : Bool) {s :
    State} (h_s : s.Canonical) : AnswersCanonical (execCvt d a sf g r u x s) := by
  unfold execCvt; grind [State.Canonical, State.issue_canonical, State.finish_canonical, State.killLanes_canonical,
      State.advance_canonical, answers_next]

/-! ## VecFloat.lean -/

theorem fpUnit_canonical (f : Nat) (op : FpFn) (d : Fin 64) (vs : List (Fin 64 × Bool)) (ss : List (Fin 64 × Bool)) {s
    : State} (h_s : s.Canonical) : AnswersCanonical (fpUnit f op d vs ss s) := by
  unfold fpUnit; grind [State.Canonical, vecUnit_canonical, answers_next]

theorem fp1_canonical (f : Nat) (op : FpFn) (d : Fin 64) (a : Fin 64) (x : Bool) {s : State} (h_s : s.Canonical) :
    AnswersCanonical (fp1 f op d a x s) := by
  unfold fp1; grind [State.Canonical, fpUnit_canonical, answers_next]

theorem fp2_canonical (f : Nat) (op : FpFn) (d : Fin 64) (a : Fin 64) (b : Fin 64) (x : Bool) (y : Bool) {s : State}
    (h_s : s.Canonical) : AnswersCanonical (fp2 f op d a b x y s) := by
  unfold fp2; grind [State.Canonical, fpUnit_canonical, answers_next]

theorem fp2s_canonical (f : Nat) (op : FpFn) (d : Fin 64) (a : Fin 64) (b : Fin 64) (x : Bool) (y : Bool) {s : State}
    (h_s : s.Canonical) : AnswersCanonical (fp2s f op d a b x y s) := by
  unfold fp2s; grind [State.Canonical, fpUnit_canonical, answers_next]

theorem fp3_canonical (f : Nat) (op : FpFn) (d : Fin 64) (a : Fin 64) (b : Fin 64) (c : Fin 64) (x : Bool) {s : State}
    (h_s : s.Canonical) : AnswersCanonical (fp3 f op d a b c x s) := by
  unfold fp3; grind [State.Canonical, fpUnit_canonical, answers_next]

theorem execFadd_canonical (d : Fin 64) (a : Fin 64) (b : Fin 64) (x : Bool) (y : Bool) {s : State} (h_s :
    s.Canonical) : AnswersCanonical (execFadd d a b x y s) := by
  unfold execFadd; grind [State.Canonical, fp2_canonical, answers_next]

theorem execFaddScalar_canonical (d : Fin 64) (a : Fin 64) (b : Fin 64) (x : Bool) (y : Bool) {s : State} (h_s :
    s.Canonical) : AnswersCanonical (execFaddScalar d a b x y s) := by
  unfold execFaddScalar; grind [State.Canonical, fp2s_canonical, answers_next]

theorem execFsub_canonical (d : Fin 64) (a : Fin 64) (b : Fin 64) (x : Bool) (y : Bool) {s : State} (h_s :
    s.Canonical) : AnswersCanonical (execFsub d a b x y s) := by
  unfold execFsub; grind [State.Canonical, fp2_canonical, answers_next]

theorem execFsubScalar_canonical (d : Fin 64) (a : Fin 64) (b : Fin 64) (x : Bool) (y : Bool) {s : State} (h_s :
    s.Canonical) : AnswersCanonical (execFsubScalar d a b x y s) := by
  unfold execFsubScalar; grind [State.Canonical, fp2s_canonical, answers_next]

theorem execFmul_canonical (d : Fin 64) (a : Fin 64) (b : Fin 64) (x : Bool) (y : Bool) {s : State} (h_s :
    s.Canonical) : AnswersCanonical (execFmul d a b x y s) := by
  unfold execFmul; grind [State.Canonical, fp2_canonical, answers_next]

theorem execFmulScalar_canonical (d : Fin 64) (a : Fin 64) (b : Fin 64) (x : Bool) (y : Bool) {s : State} (h_s :
    s.Canonical) : AnswersCanonical (execFmulScalar d a b x y s) := by
  unfold execFmulScalar; grind [State.Canonical, fp2s_canonical, answers_next]

theorem execFmin_canonical (d : Fin 64) (a : Fin 64) (b : Fin 64) (x : Bool) (y : Bool) {s : State} (h_s :
    s.Canonical) : AnswersCanonical (execFmin d a b x y s) := by
  unfold execFmin; grind [State.Canonical, fp2_canonical, answers_next]

theorem execFminScalar_canonical (d : Fin 64) (a : Fin 64) (b : Fin 64) (x : Bool) (y : Bool) {s : State} (h_s :
    s.Canonical) : AnswersCanonical (execFminScalar d a b x y s) := by
  unfold execFminScalar; grind [State.Canonical, fp2s_canonical, answers_next]

theorem execFmax_canonical (d : Fin 64) (a : Fin 64) (b : Fin 64) (x : Bool) (y : Bool) {s : State} (h_s :
    s.Canonical) : AnswersCanonical (execFmax d a b x y s) := by
  unfold execFmax; grind [State.Canonical, fp2_canonical, answers_next]

theorem execFmaxScalar_canonical (d : Fin 64) (a : Fin 64) (b : Fin 64) (x : Bool) (y : Bool) {s : State} (h_s :
    s.Canonical) : AnswersCanonical (execFmaxScalar d a b x y s) := by
  unfold execFmaxScalar; grind [State.Canonical, fp2s_canonical, answers_next]

theorem execFsgnj_canonical (d : Fin 64) (a : Fin 64) (b : Fin 64) (x : Bool) (y : Bool) {s : State} (h_s :
    s.Canonical) : AnswersCanonical (execFsgnj d a b x y s) := by
  unfold execFsgnj; grind [State.Canonical, fp2_canonical, answers_next]

theorem execFsgnjScalar_canonical (d : Fin 64) (a : Fin 64) (b : Fin 64) (x : Bool) (y : Bool) {s : State} (h_s :
    s.Canonical) : AnswersCanonical (execFsgnjScalar d a b x y s) := by
  unfold execFsgnjScalar; grind [State.Canonical, fp2s_canonical, answers_next]

theorem execFscaleb_canonical (d : Fin 64) (a : Fin 64) (b : Fin 64) (x : Bool) (y : Bool) {s : State} (h_s :
    s.Canonical) : AnswersCanonical (execFscaleb d a b x y s) := by
  unfold execFscaleb; grind [State.Canonical, fp2_canonical, answers_next]

theorem execFscalebScalar_canonical (d : Fin 64) (a : Fin 64) (b : Fin 64) (x : Bool) (y : Bool) {s : State} (h_s :
    s.Canonical) : AnswersCanonical (execFscalebScalar d a b x y s) := by
  unfold execFscalebScalar; grind [State.Canonical, fp2s_canonical, answers_next]

theorem execHadd2_canonical (d : Fin 64) (a : Fin 64) (b : Fin 64) (x : Bool) (y : Bool) {s : State} (h_s :
    s.Canonical) : AnswersCanonical (execHadd2 d a b x y s) := by
  unfold execHadd2; grind [State.Canonical, fp2_canonical, answers_next]

theorem execHadd2Scalar_canonical (d : Fin 64) (a : Fin 64) (b : Fin 64) (x : Bool) (y : Bool) {s : State} (h_s :
    s.Canonical) : AnswersCanonical (execHadd2Scalar d a b x y s) := by
  unfold execHadd2Scalar; grind [State.Canonical, fp2s_canonical, answers_next]

theorem execHsub2_canonical (d : Fin 64) (a : Fin 64) (b : Fin 64) (x : Bool) (y : Bool) {s : State} (h_s :
    s.Canonical) : AnswersCanonical (execHsub2 d a b x y s) := by
  unfold execHsub2; grind [State.Canonical, fp2_canonical, answers_next]

theorem execHsub2Scalar_canonical (d : Fin 64) (a : Fin 64) (b : Fin 64) (x : Bool) (y : Bool) {s : State} (h_s :
    s.Canonical) : AnswersCanonical (execHsub2Scalar d a b x y s) := by
  unfold execHsub2Scalar; grind [State.Canonical, fp2s_canonical, answers_next]

theorem execHmul2_canonical (d : Fin 64) (a : Fin 64) (b : Fin 64) (x : Bool) (y : Bool) {s : State} (h_s :
    s.Canonical) : AnswersCanonical (execHmul2 d a b x y s) := by
  unfold execHmul2; grind [State.Canonical, fp2_canonical, answers_next]

theorem execHmul2Scalar_canonical (d : Fin 64) (a : Fin 64) (b : Fin 64) (x : Bool) (y : Bool) {s : State} (h_s :
    s.Canonical) : AnswersCanonical (execHmul2Scalar d a b x y s) := by
  unfold execHmul2Scalar; grind [State.Canonical, fp2s_canonical, answers_next]

theorem execBadd2_canonical (d : Fin 64) (a : Fin 64) (b : Fin 64) (x : Bool) (y : Bool) {s : State} (h_s :
    s.Canonical) : AnswersCanonical (execBadd2 d a b x y s) := by
  unfold execBadd2; grind [State.Canonical, fp2_canonical, answers_next]

theorem execBadd2Scalar_canonical (d : Fin 64) (a : Fin 64) (b : Fin 64) (x : Bool) (y : Bool) {s : State} (h_s :
    s.Canonical) : AnswersCanonical (execBadd2Scalar d a b x y s) := by
  unfold execBadd2Scalar; grind [State.Canonical, fp2s_canonical, answers_next]

theorem execBsub2_canonical (d : Fin 64) (a : Fin 64) (b : Fin 64) (x : Bool) (y : Bool) {s : State} (h_s :
    s.Canonical) : AnswersCanonical (execBsub2 d a b x y s) := by
  unfold execBsub2; grind [State.Canonical, fp2_canonical, answers_next]

theorem execBsub2Scalar_canonical (d : Fin 64) (a : Fin 64) (b : Fin 64) (x : Bool) (y : Bool) {s : State} (h_s :
    s.Canonical) : AnswersCanonical (execBsub2Scalar d a b x y s) := by
  unfold execBsub2Scalar; grind [State.Canonical, fp2s_canonical, answers_next]

theorem execBmul2_canonical (d : Fin 64) (a : Fin 64) (b : Fin 64) (x : Bool) (y : Bool) {s : State} (h_s :
    s.Canonical) : AnswersCanonical (execBmul2 d a b x y s) := by
  unfold execBmul2; grind [State.Canonical, fp2_canonical, answers_next]

theorem execBmul2Scalar_canonical (d : Fin 64) (a : Fin 64) (b : Fin 64) (x : Bool) (y : Bool) {s : State} (h_s :
    s.Canonical) : AnswersCanonical (execBmul2Scalar d a b x y s) := by
  unfold execBmul2Scalar; grind [State.Canonical, fp2s_canonical, answers_next]

theorem execDadd_canonical (d : Fin 64) (a : Fin 64) (b : Fin 64) (x : Bool) (y : Bool) {s : State} (h_s :
    s.Canonical) : AnswersCanonical (execDadd d a b x y s) := by
  unfold execDadd; grind [State.Canonical, fp2_canonical, answers_next]

theorem execDaddScalar_canonical (d : Fin 64) (a : Fin 64) (b : Fin 64) (x : Bool) (y : Bool) {s : State} (h_s :
    s.Canonical) : AnswersCanonical (execDaddScalar d a b x y s) := by
  unfold execDaddScalar; grind [State.Canonical, fp2s_canonical, answers_next]

theorem execDsub_canonical (d : Fin 64) (a : Fin 64) (b : Fin 64) (x : Bool) (y : Bool) {s : State} (h_s :
    s.Canonical) : AnswersCanonical (execDsub d a b x y s) := by
  unfold execDsub; grind [State.Canonical, fp2_canonical, answers_next]

theorem execDsubScalar_canonical (d : Fin 64) (a : Fin 64) (b : Fin 64) (x : Bool) (y : Bool) {s : State} (h_s :
    s.Canonical) : AnswersCanonical (execDsubScalar d a b x y s) := by
  unfold execDsubScalar; grind [State.Canonical, fp2s_canonical, answers_next]

theorem execDmul_canonical (d : Fin 64) (a : Fin 64) (b : Fin 64) (x : Bool) (y : Bool) {s : State} (h_s :
    s.Canonical) : AnswersCanonical (execDmul d a b x y s) := by
  unfold execDmul; grind [State.Canonical, fp2_canonical, answers_next]

theorem execDmulScalar_canonical (d : Fin 64) (a : Fin 64) (b : Fin 64) (x : Bool) (y : Bool) {s : State} (h_s :
    s.Canonical) : AnswersCanonical (execDmulScalar d a b x y s) := by
  unfold execDmulScalar; grind [State.Canonical, fp2s_canonical, answers_next]

theorem execFabs_canonical (d : Fin 64) (a : Fin 64) (x : Bool) {s : State} (h_s : s.Canonical) : AnswersCanonical
    (execFabs d a x s) := by
  unfold execFabs; grind [State.Canonical, fp1_canonical, answers_next]

theorem execFneg_canonical (d : Fin 64) (a : Fin 64) (x : Bool) {s : State} (h_s : s.Canonical) : AnswersCanonical
    (execFneg d a x s) := by
  unfold execFneg; grind [State.Canonical, fp1_canonical, answers_next]

theorem execFrnd_canonical (d : Fin 64) (a : Fin 64) (x : Bool) {s : State} (h_s : s.Canonical) : AnswersCanonical
    (execFrnd d a x s) := by
  unfold execFrnd; grind [State.Canonical, fp1_canonical, answers_next]

theorem execRcp_canonical (d : Fin 64) (a : Fin 64) (x : Bool) {s : State} (h_s : s.Canonical) : AnswersCanonical
    (execRcp d a x s) := by
  unfold execRcp; grind [State.Canonical, fp1_canonical, answers_next]

theorem execRsq_canonical (d : Fin 64) (a : Fin 64) (x : Bool) {s : State} (h_s : s.Canonical) : AnswersCanonical
    (execRsq d a x s) := by
  unfold execRsq; grind [State.Canonical, fp1_canonical, answers_next]

theorem execSqrtF_canonical (d : Fin 64) (a : Fin 64) (x : Bool) {s : State} (h_s : s.Canonical) : AnswersCanonical
    (execSqrtF d a x s) := by
  unfold execSqrtF; grind [State.Canonical, fp1_canonical, answers_next]

theorem execLog2F_canonical (d : Fin 64) (a : Fin 64) (x : Bool) {s : State} (h_s : s.Canonical) : AnswersCanonical
    (execLog2F d a x s) := by
  unfold execLog2F; grind [State.Canonical, fp1_canonical, answers_next]

theorem execExp2F_canonical (d : Fin 64) (a : Fin 64) (x : Bool) {s : State} (h_s : s.Canonical) : AnswersCanonical
    (execExp2F d a x s) := by
  unfold execExp2F; grind [State.Canonical, fp1_canonical, answers_next]

theorem execDsqrt_canonical (d : Fin 64) (a : Fin 64) (x : Bool) {s : State} (h_s : s.Canonical) : AnswersCanonical
    (execDsqrt d a x s) := by
  unfold execDsqrt; grind [State.Canonical, fp1_canonical, answers_next]

theorem execFdiv_canonical (d : Fin 64) (a : Fin 64) (b : Fin 64) (x : Bool) (y : Bool) {s : State} (h_s :
    s.Canonical) : AnswersCanonical (execFdiv d a b x y s) := by
  unfold execFdiv; grind [State.Canonical, fp2_canonical, answers_next]

theorem execDdiv_canonical (d : Fin 64) (a : Fin 64) (b : Fin 64) (x : Bool) (y : Bool) {s : State} (h_s :
    s.Canonical) : AnswersCanonical (execDdiv d a b x y s) := by
  unfold execDdiv; grind [State.Canonical, fp2_canonical, answers_next]

theorem execFfma_canonical (d : Fin 64) (a : Fin 64) (b : Fin 64) (c : Fin 64) (x : Bool) {s : State} (h_s :
    s.Canonical) : AnswersCanonical (execFfma d a b c x s) := by
  unfold execFfma; grind [State.Canonical, fp3_canonical, answers_next]

theorem execHfma2_canonical (d : Fin 64) (a : Fin 64) (b : Fin 64) (c : Fin 64) (x : Bool) {s : State} (h_s :
    s.Canonical) : AnswersCanonical (execHfma2 d a b c x s) := by
  unfold execHfma2; grind [State.Canonical, fp3_canonical, answers_next]

theorem execBfma2_canonical (d : Fin 64) (a : Fin 64) (b : Fin 64) (c : Fin 64) (x : Bool) {s : State} (h_s :
    s.Canonical) : AnswersCanonical (execBfma2 d a b c x s) := by
  unfold execBfma2; grind [State.Canonical, fp3_canonical, answers_next]

theorem execDfma_canonical (d : Fin 64) (a : Fin 64) (b : Fin 64) (c : Fin 64) (x : Bool) {s : State} (h_s :
    s.Canonical) : AnswersCanonical (execDfma d a b c x s) := by
  unfold execDfma; grind [State.Canonical, fp3_canonical, answers_next]

theorem execExp2x_canonical (d : Fin 64) (a : Fin 64) (b : Fin 64) (c : Fin 64) (x : Bool) {s : State} (h_s :
    s.Canonical) : AnswersCanonical (execExp2x d a b c x s) := by
  unfold execExp2x; grind [State.Canonical, fp3_canonical, answers_next]

/-! ## Turn.lean -/

theorem State.choose_canonical {s : State} (uid : Nat) (entry : Nat) (h_s : s.Canonical) : (State.choose s uid
    entry).Canonical := by
  unfold State.choose; grind [State.Canonical, State.focus_canonical, State.onWarp_canonical]

theorem State.endYields_canonical {s : State} (h_s : s.Canonical) : (State.endYields s).Canonical := by
  unfold State.endYields; grind [State.Canonical]

theorem State.turnOver_canonical {s : State} (h_s : s.Canonical) : (State.turnOver s).Canonical := by
  unfold State.turnOver; grind [State.Canonical, State.endYields_canonical, State.onWarp_canonical]

/-! ## Reach.lean -/

theorem State.reach_canonical {s : State} (a : Agent) (space : Nat) (ea : Nat) (n : Nat) (align : Nat) (r : Bool) (w :
    Bool) (h_s : s.Canonical) : (State.reach s a space ea n align r w).1.Canonical := by
  unfold State.reach; grind [State.Canonical, State.translate_canonical]

theorem State.passLlc_canonical {s : State} (a : Agent) (kind : Nat) (loc : Nat) (write : Bool) (h_s : s.Canonical) :
    (State.passLlc s a kind loc write).Canonical := by
  unfold State.passLlc; grind [State.Canonical, State.llcAccess_canonical]

theorem State.ownSectors_canonical {s : State} (kind : Nat) (loc : Nat) (n : Nat) (h_s : s.Canonical) :
    (State.ownSectors s kind loc n).Canonical := by
  unfold State.ownSectors; grind [State.Canonical, foldl_canonical]

theorem State.noteReadBy_canonical {s : State} (a : Agent) (kind : Nat) (loc : Nat) (h_s : s.Canonical) :
    (State.noteReadBy s a kind loc).Canonical := by
  unfold State.noteReadBy; grind [State.Canonical, State.passLlc_canonical, State.touchHome_canonical,
      State.noteRead_canonical]

theorem State.noteWriteBy_canonical {s : State} (a : Agent) (kind : Nat) (loc : Nat) (n : Nat) (h_s : s.Canonical) :
    (State.noteWriteBy s a kind loc n).Canonical := by
  unfold State.noteWriteBy; grind [State.Canonical, State.passLlc_canonical, State.ownSectors_canonical,
      State.touchHome_canonical, State.countWrite_canonical, State.noteWrite_canonical, State.pushWords_canonical]

theorem State.holdWrite_canonical {s : State} (p : PageLock) (loc : Nat) (o : Origin) (k : HeldKind) (bad : Bool) (h_s
    : s.Canonical) : (State.holdWrite s p loc o k bad).Canonical := by
  unfold State.holdWrite; grind [State.Canonical]

theorem State.readAt_canonical {s : State} (a : Agent) (kind : Nat) (loc : Nat) (n : Nat) (h_s : s.Canonical) :
    (State.readAt s a kind loc n).1.Canonical := by
  unfold State.readAt; grind [State.Canonical, State.recallLines_canonical, State.noteReadBy_canonical]

theorem State.writeAt_canonical {s : State} (a : Agent) (kind : Nat) (loc : Nat) (bs : List Byte) (bad : Bool) (h_s :
    s.Canonical) : (State.writeAt s a kind loc bs bad).Canonical := by
  unfold State.writeAt; grind [State.Canonical, State.holdWrite_canonical, State.recallLines_canonical,
      State.noteWriteBy_canonical, State.poke_canonical, State.markPoison_canonical]

theorem State.writeBitsAt_canonical {s : State} (a : Agent) (kind : Nat) (loc : Nat) (o : Nat) (n : Nat) (v : Nat)
    (bad : Bool) (h_s : s.Canonical) : (State.writeBitsAt s a kind loc o n v bad).Canonical := by
  unfold State.writeBitsAt; grind [State.Canonical, State.holdWrite_canonical, State.recall_canonical,
      State.noteWriteBy_canonical, State.pokeBits_canonical, State.markPoison_canonical]

theorem State.noteAtomic_canonical {s : State} (a : Agent) (kind : Nat) (loc : Nat) (n : Nat) (h_s : s.Canonical) :
    (State.noteAtomic s a kind loc n).Canonical := by
  unfold State.noteAtomic; grind [State.Canonical, State.passLlc_canonical, State.ownSectors_canonical,
      State.touchHome_canonical, State.countWrite_canonical, State.noteWrite_canonical, State.pushWords_canonical]

theorem State.atomAt_canonical {s : State} (a : Agent) (kind : Nat) (loc : Nat) (op : AtomOp) (ty : Nat) (b : Nat)
    (new : Nat) (h_s : s.Canonical) : (State.atomAt s a kind loc op ty b new).1.Canonical := by
  unfold State.atomAt; grind [State.Canonical, State.recall_canonical, State.noteAtomic_canonical,
      State.atom_canonical]

theorem State.reduceBy_canonical {s : State} (a : Agent) (kind : Nat) (loc : Nat) (op : AtomOp) (ty : Nat) (b : Nat)
    (h_s : s.Canonical) : (State.reduceBy s a kind loc op ty b).Canonical := by
  unfold State.reduceBy; grind [State.Canonical, State.holdWrite_canonical, State.passLlc_canonical,
      State.touchHome_canonical, State.countWrite_canonical, State.pushWords_canonical, State.partialReduce_canonical,
      State.atomAt_canonical]

theorem State.chargeAll_canonical {s : State} (ctx : Nat) (site : Nat) (ts : List (Nat × Nat × Nat)) (h_s :
    s.Canonical) : (State.chargeAll s ctx site ts).Canonical := by
  unfold State.chargeAll; grind [State.Canonical, State.charge_canonical, foldl_canonical]

theorem State.chargeLanes_canonical {s : State} (ctx : Nat) (site : Nat) (ts : List (Nat × Nat × Nat)) (h_s :
    s.Canonical) : (State.chargeLanes s ctx site ts).Canonical := by
  unfold State.chargeLanes; grind [State.Canonical, State.chargeAll_canonical, State.charge_canonical]

/-! ## Lease.lean -/

theorem State.mapLease_canonical {s : State} (uid : Nat) (f : Lease → Lease) (h_s : s.Canonical) : (State.mapLease s
    uid f).Canonical := by
  unfold State.mapLease; grind [State.Canonical, State.mapWarp_canonical]

theorem State.activate_canonical {s : State} (uid : Nat) (forced : Bool) (h_s : s.Canonical) : (State.activate s uid
    forced).Canonical := by
  unfold State.activate; grind [State.Canonical, State.mapLease_canonical]

theorem State.deactivate_canonical {s : State} (uid : Nat) (h_s : s.Canonical) : (State.deactivate s uid).Canonical :=
    by
  unfold State.deactivate; grind [State.Canonical, State.mapLease_canonical]

theorem State.refreshLease_canonical {s : State} (w : Warp) (h_s : s.Canonical) : (State.refreshLease s w).Canonical
    := by
  unfold State.refreshLease; grind [State.Canonical, State.mapLease_canonical, State.deactivate_canonical]

theorem State.activateOne_canonical {s : State} (core : Nat) (h_s : s.Canonical) : ∀ t, State.activateOne s core =
    some t → t.Canonical := by
  intro t ht
  unfold State.activateOne at ht
  split at ht
  · cases ht
  · rename_i hd rest _
    have h1 : ∀ f, (s.mapLease hd.uid f).Canonical := fun f => State.mapLease_canonical _ _ h_s
    dsimp only at ht
    split at ht
    · cases ht; exact State.activate_canonical _ _ (h1 _)
    · split at ht
      · obtain ⟨w, -, rfl⟩ := Option.map_eq_some_iff.1 ht
        exact State.activate_canonical _ _ (h1 _)
      · obtain ⟨us, -, rfl⟩ := Option.map_eq_some_iff.1 ht
        exact State.activate_canonical _ _ (foldl_canonical _ _ (h1 _) fun _ _ h => State.deactivate_canonical _ h)

theorem State.activateAll_canonical (core : Nat) (x0 : Nat) {x1 : State} (h_x1 : x1.Canonical) : (State.activateAll
    core x0 x1).Canonical := by
  induction x0 generalizing x1 with
  | zero => exact h_x1
  | succ n ih => unfold State.activateAll; grind [State.activateOne_canonical, State.mapLease_canonical]

theorem State.schedule_canonical {s : State} (core : Nat) (h_s : s.Canonical) : (State.schedule s core).Canonical :=
    by
  unfold State.schedule; grind [State.Canonical, State.activateAll_canonical, State.refreshLease_canonical,
      foldl_canonical]

theorem State.lostLocality_canonical {s : State} (h_s : s.Canonical) : (State.lostLocality s).Canonical := by
  unfold State.lostLocality; grind [State.Canonical, State.onWarp_canonical, State.deactivate_canonical,
      State.schedule_canonical]

theorem State.noteMisses_canonical {s : State} (lines : List Nat) (h_s : s.Canonical) : (State.noteMisses s
    lines).Canonical := by
  unfold State.noteMisses; grind [State.Canonical, State.lostLocality_canonical, foldl_canonical]

theorem State.noteVictim_canonical {s : State} (v : Victim) (h_s : s.Canonical) : (State.noteVictim s v).Canonical :=
    by
  unfold State.noteVictim; grind [State.Canonical]

/-! ## Jobs.lean -/

theorem State.checkAccesses_canonical {s : State} (a : Agent) (j : Job) (watch : Bool) (x0 : List (Word64 × Nat)) (h_s
    : s.Canonical) : (State.checkAccesses s a j watch x0).1.Canonical := by
  induction x0 generalizing s with
  | nil => exact h_s
  | cons u us ih => unfold State.checkAccesses; grind [State.reach_canonical]

theorem State.checkLanes_canonical {s : State} (a : Agent) (j : Job) (watch : Bool) (x0 : List (Fin 32)) (h_s :
    s.Canonical) : (State.checkLanes s a j watch x0).1.Canonical := by
  induction x0 generalizing s with
  | nil => exact h_s
  | cons u us ih => unfold State.checkLanes; grind [State.checkAccesses_canonical]

theorem State.readTargets_canonical {s : State} (a : Agent) (x0 : List Target) (h_s : s.Canonical) :
    (State.readTargets s a x0).1.Canonical := by
  induction x0 generalizing s with
  | nil => exact h_s
  | cons u us ih => unfold State.readTargets; grind [State.readAt_canonical]

theorem State.storeTargets_canonical {s : State} (a : Agent) (j : Job) (l : Fin 32) (x0 : Nat) (x1 : List Target) (h_s
    : s.Canonical) : (State.storeTargets s a j l x0 x1).Canonical := by
  induction x1 generalizing s x0 with
  | nil => exact h_s
  | cons u us ih => exact ih _ (State.writeAt_canonical _ _ _ _ _ h_s)

theorem State.performLane_canonical {s : State} (a : Agent) (j : Job) (k : Nat) (l : Fin 32) (ts : List Target) (h_s :
    s.Canonical) : (State.performLane s a j k l ts).1.Canonical := by
  unfold State.performLane; grind [State.Canonical, State.readTargets_canonical, State.writeBitsAt_canonical,
      State.storeTargets_canonical, State.writeAt_canonical, State.pushCore_canonical, State.holdWrite_canonical,
      State.atomAt_canonical, State.reduceBy_canonical, foldl_canonical]

theorem State.send_canonical {s : State} (ctx : Nat) (peer : Nat) (kind : TxKind) (h_s : s.Canonical) : (State.send s
    ctx peer kind).Canonical := by
  unfold State.send; grind [State.Canonical]

theorem State.performPart_canonical {s : State} (a : Agent) (j : Job) (k : Nat) (l : Fin 32) (i : Nat) (t : Target)
    (h_s : s.Canonical) : (State.performPart s a j k l i t).1.Canonical := by
  unfold State.performPart; grind [State.Canonical, State.performLane_canonical]

theorem State.performParts_canonical {s : State} (a : Agent) (j : Job) (k : Nat) (l : Fin 32) (x0 : List (Nat ×
    Target)) (h_s : s.Canonical) : (State.performParts s a j k l x0).1.Canonical := by
  fun_induction State.performParts s a j k l x0 <;> grind [State.Canonical, State.performPart_canonical]

theorem State.startLane_canonical {s : State} (a : Agent) (j : Job) (k : Nat) (l : Fin 32) (ts : List Target) (h_s :
    s.Canonical) : (State.startLane s a j k l ts).1.Canonical := by
  unfold State.startLane; grind [State.Canonical, State.performLane_canonical, State.performParts_canonical,
      State.send_canonical, foldl_canonical]

theorem State.runLanes_canonical {s : State} (a : Agent) (j : Job) (k : Nat) (x0 : List (Fin 32 × LaneCheck)) (h_s :
    s.Canonical) : (State.runLanes s a j k x0).1.Canonical := by
  induction x0 generalizing s with
  | nil => exact h_s
  | cons u us ih => obtain ⟨l, c⟩ := u; cases c <;> (unfold State.runLanes; grind [State.startLane_canonical,
      State.performLane_canonical])

theorem State.logLanes_canonical {s : State} (j : Job) (bad : List (Nat × Cause × Word64)) (u : MemUnit) (k : Nat)
    (h_s : s.Canonical) : (State.logLanes s j bad u k).Canonical := by
  unfold State.logLanes; grind [State.Canonical, State.answer_canonical, State.postTagged_canonical,
      State.onWarp_canonical]

theorem State.noteLines_canonical {s : State} (j : Job) (ts : List Target) (h_s : s.Canonical) : (State.noteLines s j
    ts).Canonical := by
  unfold State.noteLines; grind [State.Canonical, State.onWarp_canonical, State.noteMisses_canonical, foldl_canonical]

theorem State.endUnit_canonical {s : State} (j : Job) (dests : List Reg) (u : MemUnit) (dead : Word32) (bad : List
    (Nat × Cause × Word64)) (ds : List (Fin 32 × LaneDone)) (k : Nat) (acq : Bool) (h_s : s.Canonical) :
    (State.endUnit s j dests u dead bad ds k acq).Canonical := by
  unfold State.endUnit; grind [State.Canonical, State.finish_canonical, State.killLanes_canonical,
      State.advance_canonical, State.onWarp_canonical, State.killLate_canonical, State.logLanes_canonical,
      State.raise_canonical]

theorem State.memUnit_canonical {s : State} (j : Job) (dests : List Reg) (op : MemOp) (poison : Word32) (release :
    Bool) (acquire : Bool) (h_s : s.Canonical) : (State.memUnit s j dests op poison release acquire).Canonical := by
  unfold State.memUnit; grind [State.Canonical, State.hold_canonical, State.checkLanes_canonical,
      State.holdDry_canonical, State.chargeLanes_canonical, State.noteLines_canonical, State.runLanes_canonical,
      State.endUnit_canonical]

theorem State.redoLanes_canonical {s : State} (j : Job) (lanes : Word32) (k : Nat) (watch : Bool) (h_s : s.Canonical)
    : (State.redoLanes s j lanes k watch).1.Canonical := by
  unfold State.redoLanes; grind [State.Canonical, State.checkLanes_canonical, State.chargeLanes_canonical,
      State.noteLines_canonical, State.runLanes_canonical, State.onWarp_canonical, State.killLate_canonical]

end Sys2Proof.Machine
end

