-- ==== Sys2Proof/Laws/CanonicalUnits.lean ====
section
/-! SUPPORT. Memory stays in canonical form: one lemma for each of the instructions, which says that the state it leaves has a
canonical memory where the state before had one. -/

set_option linter.unusedVariables false
set_option Elab.async false

namespace Sys2Proof.Machine

/-! ## Access.lean -/

theorem accessUnit_canonical (n : Need) (j : Warp → Hints → Job) (vs : List Reg) (op : MemOp) (rel : Bool) (acq :
    Bool) {s : State} (h_s : s.Canonical) : AnswersCanonical (accessUnit n j vs op rel acq s) := by
  unfold accessUnit; grind [State.Canonical, State.issue_canonical, State.memUnit_canonical, answers_next]

theorem load_canonical (fields : BitVec 22) (nt : Bool) (acq : Bool) (t : Fin 64) (a : Fin 64) (b : Fin 64) (z : Fin
    8) (p : Fin 4) (x : Bool) {s : State} (h_s : s.Canonical) : AnswersCanonical (load fields nt acq t a b z p x s) :=
    by
  unfold load; grind [State.Canonical, accessUnit_canonical, answers_next]

theorem store_canonical (fields : BitVec 22) (nt : Bool) (rel : Bool) (t : Fin 64) (a : Fin 64) (b : Fin 64) (z : Fin
    8) (p : Fin 4) (x : Bool) {s : State} (h_s : s.Canonical) : AnswersCanonical (store fields nt rel t a b z p x s)
    := by
  unfold store; grind [State.Canonical, accessUnit_canonical, answers_next]

theorem stackUnit_canonical (st : Bool) (n : Nat) (op : MemOp) (t : Fin 64) (i : BitVec 10) (x : Bool) {s : State}
    (h_s : s.Canonical) : AnswersCanonical (stackUnit st n op t i x s) := by
  unfold stackUnit; grind [State.Canonical, State.issue_canonical, State.trap_canonical, State.memUnit_canonical,
      answers_next]

theorem execPref_canonical (a : Fin 64) (b : Fin 64) (x : Bool) {s : State} (h_s : s.Canonical) : AnswersCanonical
    (execPref a b x s) := by
  unfold execPref; grind [State.Canonical, State.issue_canonical, State.hold_canonical, State.checkLanes_canonical,
      State.noteReadBy_canonical, State.killLanes_canonical, State.advance_canonical, foldl_canonical, answers_next]

theorem execLd_canonical (t : Fin 64) (a : Fin 64) (b : Fin 64) (z : Fin 8) (p : Fin 4) (x : Bool) {s : State} (h_s :
    s.Canonical) : AnswersCanonical (execLd t a b z p x s) := by
  unfold execLd; grind [State.Canonical, load_canonical, answers_next]

theorem execLdNt_canonical (t : Fin 64) (a : Fin 64) (b : Fin 64) (z : Fin 8) (p : Fin 4) (x : Bool) {s : State} (h_s
    : s.Canonical) : AnswersCanonical (execLdNt t a b z p x s) := by
  unfold execLdNt; grind [State.Canonical, load_canonical, answers_next]

theorem execLdAcq_canonical (t : Fin 64) (a : Fin 64) (b : Fin 64) (z : Fin 8) (p : Fin 4) (x : Bool) {s : State} (h_s
    : s.Canonical) : AnswersCanonical (execLdAcq t a b z p x s) := by
  unfold execLdAcq; grind [State.Canonical, load_canonical, answers_next]

theorem execSt_canonical (t : Fin 64) (a : Fin 64) (b : Fin 64) (z : Fin 8) (p : Fin 4) (x : Bool) {s : State} (h_s :
    s.Canonical) : AnswersCanonical (execSt t a b z p x s) := by
  unfold execSt; grind [State.Canonical, store_canonical, answers_next]

theorem execStNt_canonical (t : Fin 64) (a : Fin 64) (b : Fin 64) (z : Fin 8) (p : Fin 4) (x : Bool) {s : State} (h_s
    : s.Canonical) : AnswersCanonical (execStNt t a b z p x s) := by
  unfold execStNt; grind [State.Canonical, store_canonical, answers_next]

theorem execStRel_canonical (t : Fin 64) (a : Fin 64) (b : Fin 64) (z : Fin 8) (p : Fin 4) (x : Bool) {s : State} (h_s
    : s.Canonical) : AnswersCanonical (execStRel t a b z p x s) := by
  unfold execStRel; grind [State.Canonical, store_canonical, answers_next]

theorem execLdp32_canonical (t : Fin 64) (i : BitVec 10) (x : Bool) {s : State} (h_s : s.Canonical) : AnswersCanonical
    (execLdp32 t i x s) := by
  unfold execLdp32; grind [State.Canonical, stackUnit_canonical, answers_next]

theorem execLdp64_canonical (t : Fin 64) (i : BitVec 10) (x : Bool) {s : State} (h_s : s.Canonical) : AnswersCanonical
    (execLdp64 t i x s) := by
  unfold execLdp64; grind [State.Canonical, stackUnit_canonical, answers_next]

theorem execLdp128_canonical (t : Fin 64) (i : BitVec 10) (x : Bool) {s : State} (h_s : s.Canonical) :
    AnswersCanonical (execLdp128 t i x s) := by
  unfold execLdp128; grind [State.Canonical, stackUnit_canonical, answers_next]

theorem execStp32_canonical (t : Fin 64) (i : BitVec 10) (x : Bool) {s : State} (h_s : s.Canonical) : AnswersCanonical
    (execStp32 t i x s) := by
  unfold execStp32; grind [State.Canonical, stackUnit_canonical, answers_next]

theorem execStp64_canonical (t : Fin 64) (i : BitVec 10) (x : Bool) {s : State} (h_s : s.Canonical) : AnswersCanonical
    (execStp64 t i x s) := by
  unfold execStp64; grind [State.Canonical, stackUnit_canonical, answers_next]

theorem execStp128_canonical (t : Fin 64) (i : BitVec 10) (x : Bool) {s : State} (h_s : s.Canonical) :
    AnswersCanonical (execStp128 t i x s) := by
  unfold execStp128; grind [State.Canonical, stackUnit_canonical, answers_next]

theorem execInvl_canonical (a : Fin 64) (b : Fin 64) (x : Bool) {s : State} (h_s : s.Canonical) : AnswersCanonical
    (execInvl a b x s) := by
  unfold execInvl; grind [State.Canonical, accessUnit_canonical, answers_next]

theorem execWbk_canonical (a : Fin 64) (b : Fin 64) (x : Bool) {s : State} (h_s : s.Canonical) : AnswersCanonical
    (execWbk a b x s) := by
  unfold execWbk; grind [State.Canonical, accessUnit_canonical, answers_next]

theorem execZero_canonical (a : Fin 64) (b : Fin 64) (p : Fin 4) (x : Bool) {s : State} (h_s : s.Canonical) :
    AnswersCanonical (execZero a b p x s) := by
  unfold execZero; grind [State.Canonical, accessUnit_canonical, answers_next]

/-! ## Tsr.lean -/

theorem State.byteTargets_canonical {s : State} (a : Agent) (space : Nat) (w : Bool) (x0 : List Nat) (h_s :
    s.Canonical) : (State.byteTargets s a space w x0).1.Canonical := by
  fun_induction State.byteTargets s a space w x0 <;> grind [State.Canonical, State.reach_canonical]

theorem State.fieldTargets_canonical {s : State} (a : Agent) (f : Field) (w : Bool) (h_s : s.Canonical) :
    (State.fieldTargets s a f w).1.Canonical := by
  unfold State.fieldTargets; grind [State.Canonical, State.reach_canonical, State.byteTargets_canonical]

theorem State.readField_canonical {s : State} (a : Agent) (f : Field) (ts : List Target) (h_s : s.Canonical) :
    (State.readField s a f ts).1.Canonical := by
  unfold State.readField; grind [State.Canonical, State.readTargets_canonical]

theorem State.writeParts_canonical {s : State} (a : Agent) (f : Field) (v : Nat) (bad : Bool) (x0 : Nat) (x1 : List
    Target) (h_s : s.Canonical) : (State.writeParts s a f v bad x0 x1).Canonical := by
  fun_induction State.writeParts s a f v bad x0 x1 <;> grind [State.Canonical, State.writeBitsAt_canonical]

theorem State.writeField_canonical {s : State} (a : Agent) (f : Field) (ts : List Target) (v : Nat) (bad : Bool) (h_s
    : s.Canonical) : (State.writeField s a f ts v bad).Canonical := by
  unfold State.writeField; grind [State.Canonical, State.writeAt_canonical, State.writeParts_canonical,
      foldl_canonical]

theorem State.onceAt_canonical {s : State} (space : Nat) (ea : Word64) (n : Nat) (align : Nat) (r : Bool) (w : Bool)
    (go : State → Nat → Nat → State) (h_s : s.Canonical) (h_go : ∀ (y0 : State) (y1 : Nat) (y2 : Nat), y0.Canonical →
    (go y0 y1 y2).Canonical) : (State.onceAt s space ea n align r w go).Canonical := by
  unfold State.onceAt; grind [State.Canonical, State.hold_canonical, State.reach_canonical,
      State.pageFaulted_canonical, State.trap_canonical, State.holdDry_canonical, State.chargeAll_canonical]

/-! ## Engine.lean -/

theorem State.mapCommand_canonical {s : State} (k : Nat) (f : Command → Command) (h_s : s.Canonical) :
    (State.mapCommand s k f).Canonical := by
  unfold State.mapCommand; grind [State.Canonical]

theorem State.dropCommand_canonical {s : State} (c : Command) (h_s : s.Canonical) : (State.dropCommand s c).Canonical
    := by
  unfold State.dropCommand; grind [State.Canonical, State.mapWarp_canonical, State.mapGang_canonical]

theorem State.releasePend_canonical {s : State} (c : Command) (h_s : s.Canonical) : (State.releasePend s c).Canonical
    := by
  unfold State.releasePend; grind [State.Canonical, State.mapWarp_canonical]

theorem State.mapNode_canonical {s : State} (g : Nat) (n : Nat) (f : Node → Node) (h_s : s.Canonical) : (State.mapNode
    s g n f).Canonical := by
  unfold State.mapNode; grind [State.Canonical, State.mapGang_canonical]

theorem State.freeNode_canonical {s : State} (g : Nat) (n : Nat) (h_s : s.Canonical) : (State.freeNode s g
    n).Canonical := by
  unfold State.freeNode; grind [State.Canonical, State.mapNode_canonical]

theorem State.completeNode_canonical {s : State} (g : Nat) (n : Nat) (h_s : s.Canonical) : (State.completeNode s g
    n).Canonical := by
  unfold State.completeNode; grind [State.Canonical, State.mapNode_canonical, State.freeNode_canonical,
      foldl_canonical]

theorem State.cancelNodes_canonical (x0 : Nat) {x1 : State} (x2 : Nat) (x3 : List Nat) (h_x1 : x1.Canonical) :
    (State.cancelNodes x0 x1 x2 x3).Canonical := by
  fun_induction State.cancelNodes x0 x1 x2 x3 <;> grind [State.Canonical, State.dropCommand_canonical,
      State.releasePend_canonical, State.freeNode_canonical]

theorem State.failNode_canonical {s : State} (g : Nat) (n : Nat) (h_s : s.Canonical) : (State.failNode s g
    n).Canonical := by
  unfold State.failNode; grind [State.Canonical, State.cancelNodes_canonical, State.freeNode_canonical]

theorem State.endCommand_canonical {s : State} (c : Command) (h_s : s.Canonical) : (State.endCommand s c).Canonical :=
    by
  unfold State.endCommand; grind [State.Canonical, State.mapCommand_canonical, State.dropCommand_canonical,
      State.releasePend_canonical, State.completeNode_canonical]

theorem State.engineFault_canonical {s : State} (c : Command) (cause : Cause) (addr : Word64) (h_s : s.Canonical) :
    (State.engineFault s c cause addr).Canonical := by
  unfold State.engineFault; grind [State.Canonical, State.mapCommand_canonical, State.dropCommand_canonical,
      State.releasePend_canonical, State.mapWarp_canonical, State.mapGang_canonical, State.failNode_canonical]

theorem State.pauseCommand_canonical {s : State} (c : Command) (va : Word64) (h_s : s.Canonical) : (State.pauseCommand
    s c va).Canonical := by
  unfold State.pauseCommand; grind [State.Canonical, State.postTagged_canonical, State.mapCommand_canonical]

theorem State.stopCommand_canonical {s : State} (c : Command) (x0 : CmdStop) (h_s : s.Canonical) : (State.stopCommand
    s c x0).Canonical := by
  unfold State.stopCommand; grind [State.Canonical, State.engineFault_canonical, State.pauseCommand_canonical]

theorem State.enterStream_canonical {s : State} (g : Nat) (k : Nat) (h_s : s.Canonical) : (State.enterStream s g
    k).Canonical := by
  unfold State.enterStream; grind [State.Canonical, State.mapGang_canonical]

theorem State.newCommand_canonical {s : State} (cls : Fin 4) (kind : CmdKind) (node : Option (Nat × Nat)) (pend :
    Option Nat) (h_s : s.Canonical) : (State.newCommand s cls kind node pend).Canonical := by
  unfold State.newCommand; grind [State.Canonical, State.mapNode_canonical, State.enterStream_canonical]

theorem State.issueCommand_canonical {s : State} (cls : Fin 4) (checks : List (Option Cause)) (meters : List Nat)
    (kind : CmdKind) (node : Option (Nat × Nat)) (h_s : s.Canonical) : (State.issueCommand s cls checks meters kind
    node).Canonical := by
  unfold State.issueCommand; grind [State.Canonical, State.trap_canonical, State.holdDry_canonical,
      State.hold_canonical, State.newCommand_canonical, State.advance_canonical]

theorem State.readElem_canonical {s : State} (a : Agent) (src : Option Field) (h_s : s.Canonical) : (State.readElem s
    a src).1.Canonical := by
  unfold State.readElem; grind [State.Canonical, State.fieldTargets_canonical, State.readField_canonical]

theorem State.moveElem_canonical {s : State} (a : Agent) (src : Option Field) (dst : Field) (h_s : s.Canonical) :
    (State.moveElem s a src dst).1.Canonical := by
  unfold State.moveElem; grind [State.Canonical, State.readElem_canonical, State.fieldTargets_canonical,
      State.writeField_canonical]

theorem State.gathered_canonical {s : State} (a : Agent) (t : Tsr) (c : List Int) (space : Nat) (idx : Nat) (k : Nat)
    (h_s : s.Canonical) : (State.gathered s a t c space idx k).1.Canonical := by
  unfold State.gathered; grind [State.Canonical, State.fieldTargets_canonical, State.readField_canonical]

theorem alsoReads_canonical (ts : List Target) (r : State × List Target × Option CmdStop) (h_r : r.1.Canonical) :
    (alsoReads ts r).1.Canonical := by
  unfold alsoReads; grind [State.Canonical]

theorem State.copyElem_canonical {s : State} (a : Agent) (kind : CmdKind) (k : Nat) (h_s : s.Canonical) :
    (State.copyElem s a kind k).1.Canonical := by
  unfold State.copyElem; grind [State.Canonical, State.moveElem_canonical, State.gathered_canonical,
      alsoReads_canonical, State.readElem_canonical]

theorem State.runElems_canonical {s : State} (a : Agent) (kind : CmdKind) (x0 : Nat) (x1 : Nat) (x2 : List (Nat ×
    Nat)) (h_s : s.Canonical) : (State.runElems s a kind x0 x1 x2).1.Canonical := by
  fun_induction State.runElems s a kind x0 x1 x2 <;> grind [State.Canonical, State.copyElem_canonical,
      State.charge_canonical, foldl_canonical]

theorem State.runCopy_canonical {s : State} (c : Command) (t : Tsr) (h_s : s.Canonical) : (State.runCopy s c
    t).Canonical := by
  unfold State.runCopy; grind [State.Canonical, State.runElems_canonical, State.engineFault_canonical,
      State.pauseCommand_canonical, State.endCommand_canonical, State.mapCommand_canonical]

/-! ## Tensor.lean -/

theorem execTsrld_canonical (t : Fin 16) (c : Fin 64) (p : Fin 4) {s : State} (h_s : s.Canonical) : AnswersCanonical
    (execTsrld t c p s) := by
  unfold execTsrld; grind [State.Canonical, State.issue_canonical, State.onceAt_canonical, State.trap_canonical,
      State.readAt_canonical, State.onWarp_canonical, State.advance_canonical, answers_next]

theorem execTsrst_canonical (t : Fin 16) (c : Fin 64) (p : Fin 4) {s : State} (h_s : s.Canonical) : AnswersCanonical
    (execTsrst t c p s) := by
  unfold execTsrst; grind [State.Canonical, State.issue_canonical, State.onceAt_canonical, State.writeAt_canonical,
      State.advance_canonical, answers_next]

theorem execTsrset_canonical (t : Fin 16) (c : Fin 64) (x : Fin 64) {s : State} (h_s : s.Canonical) : AnswersCanonical
    (execTsrset t c x s) := by
  unfold execTsrset; grind [State.Canonical, State.issue_canonical, State.onWarp_canonical, State.advance_canonical,
      answers_next]

theorem execTsrget_canonical (t : Fin 16) (c : Fin 64) (x : Fin 64) {s : State} (h_s : s.Canonical) : AnswersCanonical
    (execTsrget t c x s) := by
  unfold execTsrget; grind [State.Canonical, State.issue_canonical, State.onWarp_canonical, State.advance_canonical,
      State.scalarResult_canonical, answers_next]

theorem copyCommand_canonical (cls : Fin 4) (lists : Bool) (policy : Bool) (make : Tsr → List Int → Nat → Word64 →
    Word64 → CmdKind) (t : Fin 16) (c : Fin 64) (n : Fin 8) (x : Fin 64) (p : Fin 4) (g : Bool) {s : State} (h_s :
    s.Canonical) : AnswersCanonical (copyCommand cls lists policy make t c n x p g s) := by
  unfold copyCommand; grind [State.Canonical, State.issue_canonical, State.issueCommand_canonical, answers_next]

theorem execTload_canonical (t : Fin 16) (c : Fin 64) (n : Fin 8) (x : Fin 64) (p : Fin 4) (g : Bool) {s : State} (h_s
    : s.Canonical) : AnswersCanonical (execTload t c n x p g s) := by
  unfold execTload; grind [State.Canonical, copyCommand_canonical, answers_next]

theorem execTstore_canonical (t : Fin 16) (c : Fin 64) (n : Fin 8) (x : Fin 64) (p : Fin 4) (g : Bool) {s : State}
    (h_s : s.Canonical) : AnswersCanonical (execTstore t c n x p g s) := by
  unfold execTstore; grind [State.Canonical, copyCommand_canonical, answers_next]

theorem execTgather_canonical (t : Fin 16) (c : Fin 64) (n : Fin 8) (x : Fin 64) (p : Fin 4) (g : Bool) {s : State}
    (h_s : s.Canonical) : AnswersCanonical (execTgather t c n x p g s) := by
  unfold execTgather; grind [State.Canonical, copyCommand_canonical, answers_next]

theorem execTscatter_canonical (t : Fin 16) (c : Fin 64) (n : Fin 8) (x : Fin 64) (p : Fin 4) (g : Bool) {s : State}
    (h_s : s.Canonical) : AnswersCanonical (execTscatter t c n x p g s) := by
  unfold execTscatter; grind [State.Canonical, copyCommand_canonical, answers_next]

theorem execTzero_canonical (t : Fin 16) (c : Fin 64) (n : Fin 8) (g : Bool) {s : State} (h_s : s.Canonical) :
    AnswersCanonical (execTzero t c n g s) := by
  unfold execTzero; grind [State.Canonical, State.issue_canonical, State.issueCommand_canonical, answers_next]

theorem execTcopy_canonical (t : Fin 16) (c : Fin 64) (n : Fin 8) (m : Fin 16) (g : Bool) {s : State} (h_s :
    s.Canonical) : AnswersCanonical (execTcopy t c n m g s) := by
  unfold execTcopy; grind [State.Canonical, State.issue_canonical, State.issueCommand_canonical, answers_next]

theorem State.deliver_canonical {s : State} (fs : List HeldFault) (h_s : s.Canonical) : (State.deliver s fs).Canonical
    := by
  unfold State.deliver; grind [State.Canonical, State.onWarp_canonical, State.mapGang_canonical]

theorem execWaitc_canonical (a : Fin 64) (c : Fin 4) {s : State} (h_s : s.Canonical) : AnswersCanonical (execWaitc a c
    s) := by
  unfold execWaitc; grind [State.Canonical, State.issue_canonical, State.advance_canonical, State.deliver_canonical,
      State.raise_canonical, State.onWarp_canonical, answers_next]

theorem execRdcnt_canonical (d : Fin 64) (c : Fin 4) {s : State} (h_s : s.Canonical) : AnswersCanonical (execRdcnt d c
    s) := by
  unfold execRdcnt; grind [State.Canonical, State.issue_canonical, State.scalarResult_canonical, answers_next]

/-! ## Graph.lean -/

theorem execGedge_canonical (c : Fin 64) (x : Fin 64) {s : State} (h_s : s.Canonical) : AnswersCanonical (execGedge c
    x s) := by
  unfold execGedge; grind [State.Canonical, State.issue_canonical, State.trap_canonical, State.mapNode_canonical,
      State.advance_canonical, answers_next]

theorem execGrel_canonical (c : Fin 64) {s : State} (h_s : s.Canonical) : AnswersCanonical (execGrel c s) := by
  unfold execGrel; grind [State.Canonical, State.issue_canonical, State.mapNode_canonical, State.advance_canonical,
      State.trap_canonical, answers_next]

theorem execGreset_canonical (c : Fin 64) {s : State} (h_s : s.Canonical) : AnswersCanonical (execGreset c s) := by
  unfold execGreset; grind [State.Canonical, State.issue_canonical, State.cancelNodes_canonical,
      State.advance_canonical, State.onWarp_canonical, State.trap_canonical, answers_next]

theorem execGbin_canonical (c : Fin 64) (p : Fin 4) (g : Bool) {s : State} (h_s : s.Canonical) : AnswersCanonical
    (execGbin c p g s) := by
  unfold execGbin; grind [State.Canonical, State.issue_canonical, State.issueCommand_canonical, answers_next]

theorem execGstat_canonical (c : Fin 64) (x : Fin 64) {s : State} (h_s : s.Canonical) : AnswersCanonical (execGstat c
    x s) := by
  unfold execGstat; grind [State.Canonical, State.issue_canonical, State.scalarResult_canonical, State.trap_canonical,
      answers_next]

theorem State.engineBytes_canonical {s : State} (a : Agent) (space : Nat) (addr : Nat) (x0 : Nat) (x1 : List (Nat ×
    Nat)) (h_s : s.Canonical) : (State.engineBytes s a space addr x0 x1).1.Canonical := by
  fun_induction State.engineBytes s a space addr x0 x1 <;> grind [State.Canonical, State.fieldTargets_canonical,
      State.charge_canonical, State.readTargets_canonical, foldl_canonical]

theorem State.patchNode_canonical {s : State} (g : Nat) (d : Nat) (release : Bool) (n : Nat) (count : Nat) (h_s :
    s.Canonical) : (State.patchNode s g d release n count).Canonical := by
  unfold State.patchNode; grind [State.Canonical, State.mapCommand_canonical, State.mapNode_canonical]

theorem State.runGbin_canonical {s : State} (c : Command) (space : Nat) (addr : Word64) (h_s : s.Canonical) :
    (State.runGbin s c space addr).Canonical := by
  unfold State.runGbin; grind [State.Canonical, State.engineBytes_canonical, State.stopCommand_canonical,
      State.engineFault_canonical, State.patchNode_canonical, State.endCommand_canonical, foldl_canonical]

/-! ## Matrix.lean -/

theorem State.issueMatrix_canonical {s : State} (checks : List (Option Cause)) (meters : List Nat) (kind : CmdKind) (g
    : Bool) (h_s : s.Canonical) : (State.issueMatrix s checks meters kind g).Canonical := by
  unfold State.issueMatrix; grind [State.Canonical, State.hold_canonical, State.issueCommand_canonical]

theorem execMlds_canonical (t : Fin 16) (c : Fin 64) (g : Bool) {s : State} (h_s : s.Canonical) : AnswersCanonical
    (execMlds t c g s) := by
  unfold execMlds; grind [State.Canonical, State.issue_canonical, State.issueMatrix_canonical, answers_next]

theorem execMswap_canonical (g : Bool) {s : State} (h_s : s.Canonical) : AnswersCanonical (execMswap g s) := by
  unfold execMswap; grind [State.Canonical, State.issue_canonical, State.issueMatrix_canonical, answers_next]

theorem execMshape_canonical (c : Fin 64) (g : Bool) {s : State} (h_s : s.Canonical) : AnswersCanonical (execMshape c
    g s) := by
  unfold execMshape; grind [State.Canonical, State.issue_canonical, State.issueMatrix_canonical, answers_next]

theorem execMcfg_canonical (c : Fin 64) (g : Bool) {s : State} (h_s : s.Canonical) : AnswersCanonical (execMcfg c g s)
    := by
  unfold execMcfg; grind [State.Canonical, State.issue_canonical, State.issueMatrix_canonical, answers_next]

theorem pass_canonical (mode : Nat) (k : Fin 8) (c : Fin 64) (x : Fin 64) (p : Fin 4) (g : Bool) {s : State} (h_s :
    s.Canonical) : AnswersCanonical (pass mode k c x p g s) := by
  unfold pass; grind [State.Canonical, State.issue_canonical, State.issueMatrix_canonical, answers_next]

theorem execMmul_canonical (k : Fin 8) (c : Fin 64) (x : Fin 64) (p : Fin 4) (g : Bool) {s : State} (h_s :
    s.Canonical) : AnswersCanonical (execMmul k c x p g s) := by
  unfold execMmul; grind [State.Canonical, pass_canonical, answers_next]

theorem execMmulz_canonical (k : Fin 8) (c : Fin 64) (x : Fin 64) (p : Fin 4) (g : Bool) {s : State} (h_s :
    s.Canonical) : AnswersCanonical (execMmulz k c x p g s) := by
  unfold execMmulz; grind [State.Canonical, pass_canonical, answers_next]

theorem execMmult_canonical (k : Fin 8) (c : Fin 64) (x : Fin 64) (p : Fin 4) (g : Bool) {s : State} (h_s :
    s.Canonical) : AnswersCanonical (execMmult k c x p g s) := by
  unfold execMmult; grind [State.Canonical, pass_canonical, answers_next]

theorem execMdrain_canonical (k : Fin 8) (t : Fin 16) (c : Fin 64) (m : Bool) (g : Bool) {s : State} (h_s :
    s.Canonical) : AnswersCanonical (execMdrain k t c m g s) := by
  unfold execMdrain; grind [State.Canonical, State.issue_canonical, State.issueMatrix_canonical, answers_next]

theorem execMzero_canonical (k : Fin 8) (g : Bool) {s : State} (h_s : s.Canonical) : AnswersCanonical (execMzero k g
    s) := by
  unfold execMzero; grind [State.Canonical, State.issue_canonical, State.issueMatrix_canonical, answers_next]

theorem State.issueReader_canonical {s : State} (checks : List (Option Cause)) (kind : CmdKind) (dests : List Reg)
    (floats : Bool) (h_s : s.Canonical) : (State.issueReader s checks kind dests floats).Canonical := by
  unfold State.issueReader; grind [State.Canonical, State.trap_canonical, State.hold_canonical,
      State.onWarp_canonical, State.newCommand_canonical, State.advance_canonical]

theorem execMrdrow_canonical (k : Fin 8) (j : Fin 8) (c : Fin 64) (b : Fin 64) (m : Fin 4) {s : State} (h_s :
    s.Canonical) : AnswersCanonical (execMrdrow k j c b m s) := by
  unfold execMrdrow; grind [State.Canonical, State.issue_canonical, State.issueReader_canonical, answers_next]

theorem execMstat_canonical (c : Fin 64) {s : State} (h_s : s.Canonical) : AnswersCanonical (execMstat c s) := by
  unfold execMstat; grind [State.Canonical, State.issue_canonical, State.issueReader_canonical, answers_next]

/-! ## Atomics.lean -/

theorem atomic_canonical (op : AtomOp) (legal : Bool) (returns : Bool) (d : Fin 64) (a : Fin 64) (b : Fin 64) (ty :
    Fin 8) (x : Bool) (loc : Bool) {s : State} (h_s : s.Canonical) : AnswersCanonical (atomic op legal returns d a b
    ty x loc s) := by
  unfold atomic; grind [State.Canonical, accessUnit_canonical, State.atom_canonical, answers_next]

theorem execAadd_canonical (d : Fin 64) (a : Fin 64) (b : Fin 64) (y : Fin 8) (x : Bool) (l : Bool) {s : State} (h_s :
    s.Canonical) : AnswersCanonical (execAadd d a b y x l s) := by
  unfold execAadd; grind [State.Canonical, atomic_canonical, answers_next]

theorem execAmin_canonical (d : Fin 64) (a : Fin 64) (b : Fin 64) (y : Fin 8) (x : Bool) (l : Bool) {s : State} (h_s :
    s.Canonical) : AnswersCanonical (execAmin d a b y x l s) := by
  unfold execAmin; grind [State.Canonical, atomic_canonical, answers_next]

theorem execAmax_canonical (d : Fin 64) (a : Fin 64) (b : Fin 64) (y : Fin 8) (x : Bool) (l : Bool) {s : State} (h_s :
    s.Canonical) : AnswersCanonical (execAmax d a b y x l s) := by
  unfold execAmax; grind [State.Canonical, atomic_canonical, answers_next]

theorem execAand_canonical (d : Fin 64) (a : Fin 64) (b : Fin 64) (y : Fin 8) (x : Bool) (l : Bool) {s : State} (h_s :
    s.Canonical) : AnswersCanonical (execAand d a b y x l s) := by
  unfold execAand; grind [State.Canonical, atomic_canonical, answers_next]

theorem execAor_canonical (d : Fin 64) (a : Fin 64) (b : Fin 64) (y : Fin 8) (x : Bool) (l : Bool) {s : State} (h_s :
    s.Canonical) : AnswersCanonical (execAor d a b y x l s) := by
  unfold execAor; grind [State.Canonical, atomic_canonical, answers_next]

theorem execAxor_canonical (d : Fin 64) (a : Fin 64) (b : Fin 64) (y : Fin 8) (x : Bool) (l : Bool) {s : State} (h_s :
    s.Canonical) : AnswersCanonical (execAxor d a b y x l s) := by
  unfold execAxor; grind [State.Canonical, atomic_canonical, answers_next]

theorem execAexch_canonical (d : Fin 64) (a : Fin 64) (b : Fin 64) (y : Fin 8) (x : Bool) (l : Bool) {s : State} (h_s
    : s.Canonical) : AnswersCanonical (execAexch d a b y x l s) := by
  unfold execAexch; grind [State.Canonical, atomic_canonical, answers_next]

theorem execAincw_canonical (d : Fin 64) (a : Fin 64) (b : Fin 64) (y : Fin 8) (x : Bool) (l : Bool) {s : State} (h_s
    : s.Canonical) : AnswersCanonical (execAincw d a b y x l s) := by
  unfold execAincw; grind [State.Canonical, atomic_canonical, answers_next]

theorem execAcas_canonical (d : Fin 64) (a : Fin 64) (b : Fin 64) (y : Fin 8) (x : Bool) (l : Bool) {s : State} (h_s :
    s.Canonical) : AnswersCanonical (execAcas d a b y x l s) := by
  unfold execAcas; grind [State.Canonical, atomic_canonical, answers_next]

theorem execAdecw_canonical (d : Fin 64) (a : Fin 64) (b : Fin 64) (y : Fin 8) (x : Bool) (l : Bool) {s : State} (h_s
    : s.Canonical) : AnswersCanonical (execAdecw d a b y x l s) := by
  unfold execAdecw; grind [State.Canonical, atomic_canonical, answers_next]

theorem execRadd_canonical (a : Fin 64) (b : Fin 64) (y : Fin 8) (x : Bool) (l : Bool) {s : State} (h_s : s.Canonical)
    : AnswersCanonical (execRadd a b y x l s) := by
  unfold execRadd; grind [State.Canonical, atomic_canonical, answers_next]

theorem execRmin_canonical (a : Fin 64) (b : Fin 64) (y : Fin 8) (x : Bool) (l : Bool) {s : State} (h_s : s.Canonical)
    : AnswersCanonical (execRmin a b y x l s) := by
  unfold execRmin; grind [State.Canonical, atomic_canonical, answers_next]

theorem execRmax_canonical (a : Fin 64) (b : Fin 64) (y : Fin 8) (x : Bool) (l : Bool) {s : State} (h_s : s.Canonical)
    : AnswersCanonical (execRmax a b y x l s) := by
  unfold execRmax; grind [State.Canonical, atomic_canonical, answers_next]

theorem execRand_canonical (a : Fin 64) (b : Fin 64) (y : Fin 8) (x : Bool) (l : Bool) {s : State} (h_s : s.Canonical)
    : AnswersCanonical (execRand a b y x l s) := by
  unfold execRand; grind [State.Canonical, atomic_canonical, answers_next]

theorem execRor_canonical (a : Fin 64) (b : Fin 64) (y : Fin 8) (x : Bool) (l : Bool) {s : State} (h_s : s.Canonical)
    : AnswersCanonical (execRor a b y x l s) := by
  unfold execRor; grind [State.Canonical, atomic_canonical, answers_next]

theorem execRxor_canonical (a : Fin 64) (b : Fin 64) (y : Fin 8) (x : Bool) (l : Bool) {s : State} (h_s : s.Canonical)
    : AnswersCanonical (execRxor a b y x l s) := by
  unfold execRxor; grind [State.Canonical, atomic_canonical, answers_next]

/-! ## Locks.lean -/

theorem State.linePlace_canonical {s : State} (align : Nat) (w : Bool) (ea : Word64) (h_s : s.Canonical) :
    (State.linePlace s align w ea).1.Canonical := by
  unfold State.linePlace; grind [State.Canonical, State.reach_canonical]

theorem State.lineUnit_canonical {s : State} (k : JobKind) (op : MemOp) (ea : Word64) (dests : List Reg) (blocks :
    Bool) (release : Bool) (go : State → Nat → Nat → State × LineAnswer) (h_s : s.Canonical) (h_go : ∀ (y0 : State)
    (y1 : Nat) (y2 : Nat), y0.Canonical → (go y0 y1 y2).1.Canonical) : (State.lineUnit s k op ea dests blocks release
    go).Canonical := by
  unfold State.lineUnit; grind [State.Canonical, State.hold_canonical, State.linePlace_canonical,
      State.trap_canonical, State.onWarp_canonical, State.logLanes_canonical, State.advance_canonical,
      State.answer_canonical]

theorem State.setPendKind_canonical {s : State} (uid : Nat) (k : Nat) (kind : PendKind) (h_s : s.Canonical) :
    (State.setPendKind s uid k kind).Canonical := by
  unfold State.setPendKind; grind [State.Canonical, State.mapWarp_canonical]

theorem lockGo_canonical (va : Nat) (timeout : Nat) (try_ : Bool) {x0 : State} (x1 : Nat) (x2 : Nat) (h_x0 :
    x0.Canonical) : (lockGo va timeout try_ x0 x1 x2).1.Canonical := by
  unfold lockGo; grind [State.Canonical, State.setPendKind_canonical, State.onWarp_canonical,
      State.lockArrive_canonical]

theorem unlockGo_canonical {x0 : State} (x1 : Nat) (x2 : Nat) (h_x0 : x0.Canonical) : (unlockGo x0 x1 x2).1.Canonical
    := by
  unfold unlockGo; grind [State.Canonical, State.onWarp_canonical, State.passLock_canonical]

theorem yieldGo_canonical (timeout : Nat) {x0 : State} (x1 : Nat) (x2 : Nat) (h_x0 : x0.Canonical) : (yieldGo timeout
    x0 x1 x2).1.Canonical := by
  unfold yieldGo; grind [State.Canonical, State.expireLine_canonical, State.setPendKind_canonical,
      State.onWarp_canonical, State.setLock_canonical, State.passLock_canonical]

theorem statGo_canonical {x0 : State} (x1 : Nat) (x2 : Nat) (h_x0 : x0.Canonical) : (statGo x0 x1 x2).1.Canonical :=
    by
  unfold statGo; grind [State.Canonical, State.expireLine_canonical]

theorem execLlock_canonical (a : Fin 64) (b : Fin 64) (d : Fin 64) {s : State} (h_s : s.Canonical) : AnswersCanonical
    (execLlock a b d s) := by
  unfold execLlock; grind [State.Canonical, State.issue_canonical, State.lineUnit_canonical, lockGo_canonical,
      answers_next]

theorem execLtry_canonical (a : Fin 64) (d : Fin 64) {s : State} (h_s : s.Canonical) : AnswersCanonical (execLtry a d
    s) := by
  unfold execLtry; grind [State.Canonical, State.issue_canonical, State.lineUnit_canonical, lockGo_canonical,
      answers_next]

theorem execLunlock_canonical (a : Fin 64) {s : State} (h_s : s.Canonical) : AnswersCanonical (execLunlock a s) := by
  unfold execLunlock; grind [State.Canonical, State.issue_canonical, State.lineUnit_canonical, unlockGo_canonical,
      answers_next]

theorem execLstat_canonical (a : Fin 64) (d : Fin 64) {s : State} (h_s : s.Canonical) : AnswersCanonical (execLstat a
    d s) := by
  unfold execLstat; grind [State.Canonical, State.issue_canonical, State.lineUnit_canonical, statGo_canonical,
      answers_next]

theorem execLyield_canonical (a : Fin 64) (b : Fin 64) (d : Fin 64) {s : State} (h_s : s.Canonical) : AnswersCanonical
    (execLyield a b d s) := by
  unfold execLyield; grind [State.Canonical, State.issue_canonical, State.lineUnit_canonical, yieldGo_canonical,
      answers_next]

theorem State.suspendLocks_canonical {s : State} (uid : Nat) (h_s : s.Canonical) : (State.suspendLocks s
    uid).Canonical := by
  unfold State.suspendLocks; grind [State.Canonical, State.expireLine_canonical, State.expireWaits_canonical,
      State.mapWarp_canonical, foldl_canonical]

theorem State.resumeLocks_canonical {s : State} (w : Warp) (h_s : s.Canonical) : (State.resumeLocks s w).Canonical :=
    by
  unfold State.resumeLocks; grind [State.Canonical, State.mapWarp_canonical, State.lockArrive_canonical,
      foldl_canonical]

/-! ## Monitors.lean -/

theorem State.arm_canonical {s : State} (k : Nat) (loc : Nat) (q : Nat) (c : Word64) (timeout : Nat) (h_s :
    s.Canonical) : (State.arm s k loc q c timeout).Canonical := by
  unfold State.arm; grind [State.Canonical, State.setPendKind_canonical]

theorem waitGo_canonical (q : Nat) (c : Word64) (timeout : Nat) {x0 : State} (x1 : Nat) (x2 : Nat) (h_x0 :
    x0.Canonical) : (waitGo q c timeout x0 x1 x2).1.Canonical := by
  unfold waitGo; grind [State.Canonical, State.recall_canonical, State.arm_canonical]

theorem State.disarm_canonical {s : State} (m : Monitor) (status : Word64) (h_s : s.Canonical) : (State.disarm s m
    status).Canonical := by
  unfold State.disarm; grind [State.Canonical, State.answer_canonical, State.fillTable_canonical]

theorem execWaitcmp_canonical (a : Fin 64) (b : Fin 64) (d : Fin 64) (q : Fin 16) {s : State} (h_s : s.Canonical) :
    AnswersCanonical (execWaitcmp a b d q s) := by
  unfold execWaitcmp; grind [State.Canonical, State.issue_canonical, State.lineUnit_canonical, waitGo_canonical,
      answers_next]

/-! ## Barriers.lean -/

theorem State.answerArrival_canonical {s : State} (bad : Bool) (r : Word64) (f : BitVec 5) (a : Arrival) (h_s :
    s.Canonical) : (State.answerArrival s bad r f a).Canonical := by
  unfold State.answerArrival; grind [State.Canonical, State.mapWarp_canonical, State.answer_canonical]

theorem State.completeBarrier_canonical {s : State} (gang : Nat) (b : Barrier) (h_s : s.Canonical) :
    (State.completeBarrier s gang b).Canonical := by
  unfold State.completeBarrier; grind [State.Canonical, State.mapGang_canonical, State.answerArrival_canonical,
      foldl_canonical]

theorem State.settleBarriers_canonical {s : State} (gang : Nat) (h_s : s.Canonical) : (State.settleBarriers s
    gang).Canonical := by
  unfold State.settleBarriers; grind [State.Canonical, State.completeBarrier_canonical, foldl_canonical]

theorem barrier_canonical (whole : Bool) (a : Fin 64) (d : Fin 64) (q : Fin 16) {s : State} (h_s : s.Canonical) :
    AnswersCanonical (barrier whole a d q s) := by
  unfold barrier; grind [State.Canonical, State.issue_canonical, State.hold_canonical, State.onWarp_canonical,
      State.mapGang_canonical, State.settleBarriers_canonical, State.advance_canonical, answers_next]

theorem execBarw_canonical (a : Fin 64) (d : Fin 64) (q : Fin 16) {s : State} (h_s : s.Canonical) : AnswersCanonical
    (execBarw a d q s) := by
  unfold execBarw; grind [State.Canonical, barrier_canonical, answers_next]

theorem execBarg_canonical (a : Fin 64) (d : Fin 64) (q : Fin 16) {s : State} (h_s : s.Canonical) : AnswersCanonical
    (execBarg a d q s) := by
  unfold execBarg; grind [State.Canonical, barrier_canonical, answers_next]

theorem State.objectUnit_canonical {s : State} (ea : Word64) (align : Nat) (w : Bool) (go : State → Nat → State) (h_s
    : s.Canonical) (h_go : ∀ (y0 : State) (y1 : Nat), y0.Canonical → (go y0 y1).Canonical) : (State.objectUnit s ea
    align w go).Canonical := by
  unfold State.objectUnit; grind [State.Canonical, State.hold_canonical, State.linePlace_canonical,
      State.pageFaulted_canonical, State.trap_canonical]

theorem State.writeObject_canonical {s : State} (loc : Nat) (phase : Nat) (expect : Nat) (arrived : Nat) (h_s :
    s.Canonical) : (State.writeObject s loc phase expect arrived).Canonical := by
  unfold State.writeObject; grind [State.Canonical, State.holdWrite_canonical, State.recall_canonical,
      State.noteAtomic_canonical, State.poke_canonical]

theorem execPbarv_canonical (a : Fin 64) (b : Fin 64) (d : Fin 64) (sc : Fin 8) {s : State} (h_s : s.Canonical) :
    AnswersCanonical (execPbarv a b d sc s) := by
  unfold execPbarv; grind [State.Canonical, State.issue_canonical, State.hold_canonical, State.objectUnit_canonical,
      State.recall_canonical, State.trap_canonical, State.writeObject_canonical, State.scalarResult_canonical,
      answers_next]

theorem execPbarw_canonical (a : Fin 64) (b : Fin 64) (sc : Fin 8) {s : State} (h_s : s.Canonical) : AnswersCanonical
    (execPbarw a b sc s) := by
  unfold execPbarw; grind [State.Canonical, State.issue_canonical, State.objectUnit_canonical, State.trap_canonical,
      waitGo_canonical, State.onWarp_canonical, State.answer_canonical, State.advance_canonical, answers_next]

theorem execPbarinit_canonical (a : Fin 64) (b : Fin 64) {s : State} (h_s : s.Canonical) : AnswersCanonical
    (execPbarinit a b s) := by
  unfold execPbarinit; grind [State.Canonical, State.issue_canonical, State.trap_canonical,
      State.objectUnit_canonical, State.writeObject_canonical, State.advance_canonical, answers_next]

/-! ## Fences.lean -/

theorem State.release_canonical {s : State} (go : State → State) (h_s : s.Canonical) (h_go : ∀ (y0 : State),
    y0.Canonical → (go y0).Canonical) : (State.release s go).Canonical := by
  unfold State.release; grind [State.Canonical, State.hold_canonical]

theorem State.acquire_canonical {s : State} (go : State → State) (h_s : s.Canonical) (h_go : ∀ (y0 : State),
    y0.Canonical → (go y0).Canonical) : (State.acquire s go).Canonical := by
  unfold State.acquire; grind [State.Canonical, State.hold_canonical]

theorem execFence_canonical (sc : Fin 64) (o : BitVec 2) {s : State} (h_s : s.Canonical) : AnswersCanonical (execFence
    sc o s) := by
  unfold execFence; grind [State.Canonical, State.issue_canonical, State.acquire_canonical, State.advance_canonical,
      State.release_canonical, answers_next]

theorem State.setBinds_canonical {s : State} (bs : List Bind) (h_s : s.Canonical) : (State.setBinds s bs).Canonical :=
    by
  unfold State.setBinds; grind [State.Canonical, State.setContext_canonical]

theorem execBindR_canonical (a : Fin 64) (b : Fin 64) {s : State} (h_s : s.Canonical) : AnswersCanonical (execBindR a
    b s) := by
  unfold execBindR; grind [State.Canonical, State.issue_canonical, State.objectUnit_canonical, State.trap_canonical,
      State.setBinds_canonical, State.advance_canonical, answers_next]

theorem execUnbind_canonical (a : Fin 64) (b : Fin 64) {s : State} (h_s : s.Canonical) : AnswersCanonical (execUnbind
    a b s) := by
  unfold execUnbind; grind [State.Canonical, State.issue_canonical, State.objectUnit_canonical, State.trap_canonical,
      State.setBinds_canonical, State.advance_canonical, answers_next]

theorem execAcq_canonical (a : Fin 64) (q : Fin 16) {s : State} (h_s : s.Canonical) : AnswersCanonical (execAcq a q s)
    := by
  unfold execAcq; grind [State.Canonical, State.issue_canonical, State.acquire_canonical, State.objectUnit_canonical,
      State.advance_canonical, answers_next]

theorem execRel_canonical (a : Fin 64) (q : Fin 16) {s : State} (h_s : s.Canonical) : AnswersCanonical (execRel a q s)
    := by
  unfold execRel; grind [State.Canonical, State.issue_canonical, State.release_canonical, State.objectUnit_canonical,
      State.advance_canonical, answers_next]

/-! ## Fabric.lean -/

theorem execPush_canonical (t : Fin 16) (c : Fin 64) (n : Fin 8) (x : Fin 64) (g : Bool) {s : State} (h_s :
    s.Canonical) : AnswersCanonical (execPush t c n x g s) := by
  unfold execPush; grind [State.Canonical, State.issue_canonical, State.issueCommand_canonical, answers_next]

theorem rangeCopy_canonical (make : Nat → Nat → Nat → Word64 → CmdKind) (c : Fin 64) (x : Fin 64) (p : Fin 4) (g :
    Bool) {s : State} (h_s : s.Canonical) : AnswersCanonical (rangeCopy make c x p g s) := by
  unfold rangeCopy; grind [State.Canonical, State.issue_canonical, State.issueCommand_canonical, answers_next]

theorem execPut_canonical (c : Fin 64) (x : Fin 64) (p : Fin 4) (g : Bool) {s : State} (h_s : s.Canonical) :
    AnswersCanonical (execPut c x p g s) := by
  unfold execPut; grind [State.Canonical, rangeCopy_canonical, answers_next]

theorem execGet_canonical (c : Fin 64) (x : Fin 64) (p : Fin 4) (g : Bool) {s : State} (h_s : s.Canonical) :
    AnswersCanonical (execGet c x p g s) := by
  unfold execGet; grind [State.Canonical, rangeCopy_canonical, answers_next]

theorem execCstep_canonical (c : Fin 64) (p : Fin 4) (g : Bool) {s : State} (h_s : s.Canonical) : AnswersCanonical
    (execCstep c p g s) := by
  unfold execCstep; grind [State.Canonical, State.issue_canonical, State.issueCommand_canonical, answers_next]

theorem execCstat_canonical (c : Fin 64) (x : Fin 64) {s : State} (h_s : s.Canonical) : AnswersCanonical (execCstat c
    x s) := by
  unfold execCstat; grind [State.Canonical, State.issue_canonical, State.trap_canonical, State.scalarResult_canonical,
      answers_next]

/-! ## MatrixRun.lean -/

theorem State.readMany_canonical {s : State} (a : Agent) (x0 : List Field) (x1 : List (Nat × Nat)) (h_s : s.Canonical)
    : (State.readMany s a x0 x1).1.Canonical := by
  fun_induction State.readMany s a x0 x1 <;> grind [State.Canonical, State.fieldTargets_canonical,
      State.charge_canonical, State.readField_canonical, foldl_canonical]

theorem State.readVector_canonical {s : State} (a : Agent) (present : Bool) (space : Nat) (addr : Nat) (n : Nat) (h_s
    : s.Canonical) : (State.readVector s a present space addr n).1.Canonical := by
  unfold State.readVector; grind [State.Canonical, State.readMany_canonical]

theorem State.readRecord_canonical {s : State} (a : Agent) (t : Tsr) (h_s : s.Canonical) : (State.readRecord s a
    t).1.Canonical := by
  unfold State.readRecord; grind [State.Canonical, State.engineBytes_canonical]

theorem State.setMatrix_canonical {s : State} (g : Nat) (f : Matrix → Matrix) (h_s : s.Canonical) : (State.setMatrix s
    g f).Canonical := by
  unfold State.setMatrix; grind [State.Canonical, State.mapGang_canonical]

theorem State.loadPlane_canonical {s : State} (c : Command) (t : Tsr) (x : List Int) (r : SzRecord) (h_s :
    s.Canonical) : (State.loadPlane s c t x r).Canonical := by
  unfold State.loadPlane
  dsimp only
  split
  · rename_i h
    exact State.stopCommand_canonical _ _ (fst_canonical h (State.readVector_canonical _ _ _ _ _ h_s))
  rename_i h
  replace h_s := fst_canonical h (State.readVector_canonical _ _ _ _ _ h_s)
  clear h
  split
  · rename_i h
    exact State.stopCommand_canonical _ _ (fst_canonical h (State.readVector_canonical _ _ _ _ _ h_s))
  rename_i h
  replace h_s := fst_canonical h (State.readVector_canonical _ _ _ _ _ h_s)
  clear h
  split
  · rename_i h
    exact State.stopCommand_canonical _ _ (fst_canonical h (State.readVector_canonical _ _ _ _ _ h_s))
  rename_i h
  replace h_s := fst_canonical h (State.readVector_canonical _ _ _ _ _ h_s)
  clear h
  split
  · rename_i h
    exact State.stopCommand_canonical _ _ (fst_canonical h (State.readMany_canonical _ _ _ h_s))
  rename_i h
  replace h_s := fst_canonical h (State.readMany_canonical _ _ _ h_s)
  clear h
  split
  · exact State.engineFault_canonical _ _ _ h_s
  split
  · exact State.engineFault_canonical _ _ _ h_s
  split
  · rename_i h
    exact State.stopCommand_canonical _ _ (fst_canonical h (State.readMany_canonical _ _ _ h_s))
  rename_i h
  replace h_s := fst_canonical h (State.readMany_canonical _ _ _ h_s)
  clear h
  exact State.endCommand_canonical _ (State.setMatrix_canonical _ _ h_s)

theorem State.runMlds_canonical {s : State} (c : Command) (t : Tsr) (x : List Int) (h_s : s.Canonical) :
    (State.runMlds s c t x).Canonical := by
  unfold State.runMlds; grind [State.Canonical, State.engineFault_canonical, State.readRecord_canonical,
      State.stopCommand_canonical, State.loadPlane_canonical]

theorem State.passInputs_canonical {s : State} (c : Command) (mode : Nat) (rows : Nat) (space : Nat) (d : Nat) (h_s :
    s.Canonical) : (State.passInputs s c mode rows space d).1.Canonical := by
  unfold State.passInputs
  dsimp only
  split
  · exact h_s
  split
  · exact h_s
  split
  · rename_i h
    exact fst_canonical h (State.readMany_canonical _ _ _ h_s)
  rename_i h
  replace h_s := fst_canonical h (State.readMany_canonical _ _ _ h_s)
  clear h
  split
  · rename_i h
    exact fst_canonical h (ite_canonical h_s (State.readMany_canonical _ _ _ h_s))
  rename_i h
  replace h_s := fst_canonical h (ite_canonical h_s (State.readMany_canonical _ _ _ h_s))
  clear h
  split
  · rename_i h
    exact fst_canonical h (ite_canonical h_s (State.readMany_canonical _ _ _ h_s))
  rename_i h
  replace h_s := fst_canonical h (ite_canonical h_s (State.readMany_canonical _ _ _ h_s))
  clear h
  split
  · rename_i h
    exact fst_canonical h (ite_canonical h_s (State.readMany_canonical _ _ _ h_s))
  rename_i h
  replace h_s := fst_canonical h (ite_canonical h_s (State.readMany_canonical _ _ _ h_s))
  clear h
  split <;> exact h_s

theorem State.commitPass_canonical {s : State} (c : Command) (mode : Nat) (tile : Nat) (p : PassIn) (again : Bool)
    (h_s : s.Canonical) : (State.commitPass s c mode tile p again).Canonical := by
  unfold State.commitPass; grind [State.Canonical, State.mapCluster_canonical, State.setMatrix_canonical,
      State.endCommand_canonical]

theorem State.runPass_canonical {s : State} (c : Command) (mode : Nat) (tile : Nat) (rows : Nat) (space : Nat) (d :
    Nat) (again : Bool) (h_s : s.Canonical) : (State.runPass s c mode tile rows space d again).Canonical := by
  unfold State.runPass; grind [State.Canonical, State.passInputs_canonical, State.stopCommand_canonical,
      State.commitPass_canonical]

theorem State.drainElems_canonical {s : State} (a : Agent) (x : Matrix) (tile : Nat) (t : Tsr) (c : List Int) (int :
    Bool) (rm : Nat) (sat : Bool) (zs : List (Nat × Bool)) (x0 : List (Nat × Nat)) (x1 : List (Nat × Nat)) (h_s :
    s.Canonical) : (State.drainElems s a x tile t c int rm sat zs x0 x1).1.Canonical := by
  fun_induction State.drainElems s a x tile t c int rm sat zs x0 x1 <;> grind [State.Canonical,
      State.fieldTargets_canonical, State.charge_canonical, State.writeField_canonical, foldl_canonical]

theorem State.drainAll_canonical {s : State} (c : Command) (tile : Nat) (t : Tsr) (x : List Int) (int : Bool) (rm :
    Nat) (sat : Bool) (zs : List (Nat × Bool)) (h_s : s.Canonical) : (State.drainAll s c tile t x int rm sat
    zs).Canonical := by
  unfold State.drainAll; grind [State.Canonical, State.drainElems_canonical, State.engineFault_canonical,
      State.pauseCommand_canonical, State.endCommand_canonical]

theorem State.runMdrain_canonical {s : State} (c : Command) (tile : Nat) (t : Tsr) (x : List Int) (int : Bool) (rm :
    Nat) (sat : Bool) (h_s : s.Canonical) : (State.runMdrain s c tile t x int rm sat).Canonical := by
  unfold State.runMdrain; grind [State.Canonical, State.readRecord_canonical, State.stopCommand_canonical,
      State.engineFault_canonical, State.readVector_canonical, State.drainAll_canonical]

theorem State.runMrdrow_canonical {s : State} (c : Command) (tile : Nat) (row : Nat) (chunk : Nat) (mode : Nat) (regs
    : List (Fin 64)) (lanes : Word32) (h_s : s.Canonical) : (State.runMrdrow s c tile row chunk mode regs
    lanes).Canonical := by
  unfold State.runMrdrow; grind [State.Canonical, State.focus_canonical, State.onWarp_canonical,
      State.killLate_canonical, State.endCommand_canonical]

theorem State.runMstat_canonical {s : State} (c : Command) (h_s : s.Canonical) : (State.runMstat s c).Canonical := by
  unfold State.runMstat; grind [State.Canonical, State.setMatrix_canonical, State.answer_canonical,
      State.endCommand_canonical]

theorem State.runMatrix_canonical {s : State} (c : Command) (again : Bool) (h_s : s.Canonical) : (State.runMatrix s c
    again).Canonical := by
  unfold State.runMatrix; grind [State.Canonical, State.endCommand_canonical, State.runMlds_canonical,
      State.setMatrix_canonical, State.runPass_canonical, State.runMdrain_canonical, State.runMrdrow_canonical,
      State.runMstat_canonical]

/-! ## FabricRun.lean -/

theorem State.findMany_canonical {s : State} (a : Agent) (w : Bool) (x0 : List Field) (h_s : s.Canonical) :
    (State.findMany s a w x0).1.Canonical := by
  fun_induction State.findMany s a w x0 <;> grind [State.Canonical, State.fieldTargets_canonical]

theorem State.remotePeers_canonical {s : State} (a : Agent) (w : Bool) (x0 : List Nat) (h_s : s.Canonical) :
    (State.remotePeers s a w x0).1.Canonical := by
  fun_induction State.remotePeers s a w x0 <;> grind [State.Canonical, State.reach_canonical]

theorem State.startRange_canonical {s : State} (c : Command) (put : Bool) (rva : Nat) (len : Nat) (space : Nat) (lva :
    Word64) (h_s : s.Canonical) : (State.startRange s c put rva len space lva).Canonical := by
  unfold State.startRange; grind [State.Canonical, State.remotePeers_canonical, State.stopCommand_canonical,
      State.findMany_canonical, State.chargeAll_canonical, State.charge_canonical, State.mapCommand_canonical,
      State.send_canonical, foldl_canonical]

theorem State.startStep_canonical {s : State} (c : Command) (space : Nat) (addr : Word64) (h_s : s.Canonical) :
    (State.startStep s c space addr).Canonical := by
  unfold State.startStep; grind [State.Canonical, State.engineBytes_canonical, State.stopCommand_canonical,
      State.engineFault_canonical, State.remotePeers_canonical, State.findMany_canonical, State.chargeAll_canonical,
      State.charge_canonical, State.mapCommand_canonical, State.send_canonical]

theorem State.stepElem_canonical {s : State} (a : Agent) (kind : Nat) (loc : Nat) (op : Nat) (ty : Nat) (v : Nat) (bad
    : Bool) (h_s : s.Canonical) : (State.stepElem s a kind loc op ty v bad).Canonical := by
  unfold State.stepElem; grind [State.Canonical, State.reduceBy_canonical, State.markPoison_canonical]

theorem State.stepElems_canonical {s : State} (a : Agent) (d : StepDesc) (x0 : List Nat) (h_s : s.Canonical) :
    (State.stepElems s a d x0).1.Canonical := by
  fun_induction State.stepElems s a d x0 <;> grind [State.Canonical, State.fieldTargets_canonical,
      State.readField_canonical, State.stepElem_canonical, foldl_canonical]

theorem State.flagPlace_canonical {s : State} (a : Agent) (va : Nat) (h_s : s.Canonical) : (State.flagPlace s a
    va).1.Canonical := by
  unfold State.flagPlace; grind [State.Canonical, State.reach_canonical]

theorem State.atFlag_canonical {s : State} (a : Agent) (f : Option (Nat × Nat)) (op : AtomOp) (v : Nat) (h_s :
    s.Canonical) : (State.atFlag s a f op v).Canonical := by
  unfold State.atFlag; grind [State.Canonical, State.reduceBy_canonical]

theorem State.stepWhole_canonical {s : State} (a : Agent) (d : StepDesc) (h_s : s.Canonical) : (State.stepWhole s a
    d).1.Canonical := by
  unfold State.stepWhole; grind [State.Canonical, State.flagPlace_canonical, State.stepElems_canonical,
      State.atFlag_canonical]

theorem State.dropTx_canonical {s : State} (id : Nat) (h_s : s.Canonical) : (State.dropTx s id).Canonical := by
  unfold State.dropTx; grind [State.Canonical]

theorem State.applyStep_canonical {s : State} (k : Nat) (c : Command) (d : StepDesc) (h_s : s.Canonical) :
    (State.applyStep s k c d).Canonical := by
  unfold State.applyStep; grind [State.Canonical, State.dropTx_canonical, State.stepWhole_canonical,
      State.engineFault_canonical, State.pauseCommand_canonical, State.endCommand_canonical]

theorem State.serveTx_canonical {s : State} (sender : Nat) (ident : Nat) (result : Nat) (h_s : s.Canonical) :
    (State.serveTx s sender ident result).Canonical := by
  unfold State.serveTx; grind [State.Canonical]

theorem State.conclude_canonical {s : State} (x0 : Finish) (h_s : s.Canonical) : (State.conclude s x0).Canonical := by
  unfold State.conclude; grind [State.Canonical, State.serveTx_canonical, State.endCommand_canonical]

theorem State.addFinishing_canonical {s : State} (x : Finishing) (h_s : s.Canonical) : (State.addFinishing s
    x).Canonical := by
  unfold State.addFinishing; grind [State.Canonical]

theorem State.finishArrival_canonical {s : State} (x : Finishing) (h_s : s.Canonical) : (State.finishArrival s
    x).Canonical := by
  unfold State.finishArrival; grind [State.Canonical, State.addFinishing_canonical, State.atFlag_canonical,
      State.conclude_canonical, State.finish_canonical]

theorem State.settleHeld_canonical {s : State} (h_s : s.Canonical) : (State.settleHeld s).Canonical := by
  unfold State.settleHeld; grind [State.Canonical, State.finishArrival_canonical, State.endCommand_canonical,
      State.engineFault_canonical, foldl_canonical]

theorem State.landingOf_canonical {s : State} (a : Agent) (p : PushArrival) (h_s : s.Canonical) : (State.landingOf s a
    p).1.Canonical := by
  unfold State.landingOf; grind [State.Canonical, State.reach_canonical, State.readAt_canonical]

theorem State.landable_canonical {s : State} (a : Agent) (fs : List Field) (flag : Nat) (h_s : s.Canonical) :
    (State.landable s a fs flag).1.Canonical := by
  unfold State.landable; grind [State.Canonical, State.findMany_canonical, State.flagPlace_canonical]

theorem State.landElems_canonical {s : State} (a : Agent) (p : PushArrival) (bad : List Nat) (x0 : List (Nat × Field))
    (h_s : s.Canonical) : (State.landElems s a p bad x0).Canonical := by
  fun_induction State.landElems s a p bad x0 <;> grind [State.Canonical, State.fieldTargets_canonical,
      State.writeField_canonical]

theorem State.receivePush_canonical {s : State} (p : PushArrival) (bad : List Nat) (fin : Finish) (h_s : s.Canonical)
    : (State.receivePush s p bad fin).1.Canonical := by
  unfold State.receivePush; grind [State.Canonical, State.landingOf_canonical, State.landable_canonical,
      State.landElems_canonical, State.finishArrival_canonical, State.finish_canonical]

theorem State.holdArrival_canonical {s : State} (ctx : Nat) (va : Word64) (x : FabricArrival) (h_s : s.Canonical) :
    (State.holdArrival s ctx va x).Canonical := by
  unfold State.holdArrival; grind [State.Canonical, State.postTagged_canonical]

theorem State.landSelf_canonical {s : State} (p : PushArrival) (bad : List Nat) (cmd : Nat) (last : Bool) (h_s :
    s.Canonical) : (State.landSelf s p bad cmd last).Canonical := by
  unfold State.landSelf; grind [State.Canonical, State.engineFault_canonical, State.receivePush_canonical,
      State.holdArrival_canonical]

theorem State.pushValues_canonical {s : State} (a : Agent) (t : Tsr) (x : List Int) (h_s : s.Canonical) :
    (State.pushValues s a t x).1.Canonical := by
  unfold State.pushValues; grind [State.Canonical, State.readMany_canonical, foldl_canonical]

theorem State.startPush_canonical {s : State} (c : Command) (t : Tsr) (x : List Int) (g : Word64) (o : Word64) (h_s :
    s.Canonical) : (State.startPush s c t x g o).Canonical := by
  unfold State.startPush; grind [State.Canonical, State.pushValues_canonical, State.stopCommand_canonical,
      State.charge_canonical, State.mapCommand_canonical, State.landSelf_canonical, State.send_canonical]

theorem State.moveRange_canonical {s : State} (a : Agent) (put : Bool) (rva : Nat) (space : Nat) (lva : Nat) (x0 :
    List Nat) (h_s : s.Canonical) : (State.moveRange s a put rva space lva x0).1.Canonical := by
  fun_induction State.moveRange s a put rva space lva x0 <;> grind [State.Canonical, State.moveElem_canonical]

theorem State.finishRange_canonical {s : State} (k : Nat) (c : Command) (put : Bool) (rva : Nat) (len : Nat) (space :
    Nat) (lva : Word64) (part : Nat) (h_s : s.Canonical) : (State.finishRange s k c put rva len space lva
    part).Canonical := by
  unfold State.finishRange; grind [State.Canonical, State.dropTx_canonical, State.remotePeers_canonical,
      State.pauseCommand_canonical, State.engineFault_canonical, State.moveRange_canonical,
      State.endCommand_canonical]

theorem State.ackCommand_canonical {s : State} (k : Nat) (c : Command) (part : Nat) (refused : Option Cause) (h_s :
    s.Canonical) : (State.ackCommand s k c part refused).Canonical := by
  unfold State.ackCommand; grind [State.Canonical, State.dropTx_canonical, State.engineFault_canonical,
      State.finishRange_canonical, State.applyStep_canonical, State.endCommand_canonical]

theorem State.runCommand_canonical {s : State} (c : Command) (h_s : s.Canonical) : (State.runCommand s c).Canonical :=
    by
  unfold State.runCommand; grind [State.Canonical, State.runGbin_canonical, State.startPush_canonical,
      State.startRange_canonical, State.startStep_canonical, State.runCopy_canonical]

/-! ## Launch.lean -/

theorem State.mapQueue_canonical {s : State} (q : Nat) (f : Queue → Queue) (h_s : s.Canonical) : (State.mapQueue s q
    f).Canonical := by
  unfold State.mapQueue; grind [State.Canonical]

theorem State.slotPlace_canonical {s : State} (q : Nat) (i : BitVec 32) (w : Bool) (h_s : s.Canonical) :
    (State.slotPlace s q i w).1.Canonical := by
  unfold State.slotPlace; grind [State.Canonical, State.reach_canonical]

theorem State.enqueue_canonical {s : State} (q : Nat) (bs : List Byte) (d : Fin 64) (h_s : s.Canonical) :
    (State.enqueue s q bs d).Canonical := by
  unfold State.enqueue; grind [State.Canonical, State.scalarResult_canonical, State.slotPlace_canonical,
      State.hold_canonical, State.writeAt_canonical, State.mapQueue_canonical]

theorem execLaunch_canonical (a : Fin 64) (b : Fin 64) (d : Fin 64) {s : State} (h_s : s.Canonical) : AnswersCanonical
    (execLaunch a b d s) := by
  unfold execLaunch; grind [State.Canonical, State.issue_canonical, State.trap_canonical, State.release_canonical,
      State.onceAt_canonical, State.readAt_canonical, State.enqueue_canonical, answers_next]

theorem execLease_canonical (a : Fin 64) (q : Fin 4) {s : State} (h_s : s.Canonical) : AnswersCanonical (execLease a q
    s) := by
  unfold execLease; grind [State.Canonical, State.issue_canonical, State.onWarp_canonical, State.advance_canonical,
      State.trap_canonical, answers_next]

theorem execSetpl_canonical (a : Fin 64) {s : State} (h_s : s.Canonical) : AnswersCanonical (execSetpl a s) := by
  unfold execSetpl; grind [State.Canonical, State.issue_canonical, State.trap_canonical, State.onWarp_canonical,
      State.advance_canonical, answers_next]

/-! ## Csr.lean -/

theorem State.csrWrite_canonical {s : State} (c : Nat) (v : Word64) (src : Word64) (h_s : s.Canonical) :
    (State.csrWrite s c v src).Canonical := by
  unfold State.csrWrite; grind [State.Canonical, State.onWarp_canonical, State.setContext_canonical]

theorem csrUnit_canonical (write : Option (Word64 → Word64 → Word64)) (d : Fin 64) (a : Fin 64) (c : Fin 256) {s :
    State} (h_s : s.Canonical) : AnswersCanonical (csrUnit write d a c s) := by
  unfold csrUnit; grind [State.Canonical, State.issue_canonical, State.hold_canonical, State.trap_canonical,
      State.csrWrite_canonical, State.onWarp_canonical, State.advance_canonical, answers_next]

theorem execCsrr_canonical (d : Fin 64) (c : Fin 256) {s : State} (h_s : s.Canonical) : AnswersCanonical (execCsrr d c
    s) := by
  unfold execCsrr; grind [State.Canonical, csrUnit_canonical, answers_next]

theorem execCsrw_canonical (d : Fin 64) (a : Fin 64) (c : Fin 256) {s : State} (h_s : s.Canonical) : AnswersCanonical
    (execCsrw d a c s) := by
  unfold execCsrw; grind [State.Canonical, csrUnit_canonical, answers_next]

theorem execCsrset_canonical (d : Fin 64) (a : Fin 64) (c : Fin 256) {s : State} (h_s : s.Canonical) :
    AnswersCanonical (execCsrset d a c s) := by
  unfold execCsrset; grind [State.Canonical, csrUnit_canonical, answers_next]

theorem execCsrclr_canonical (d : Fin 64) (a : Fin 64) (c : Fin 256) {s : State} (h_s : s.Canonical) :
    AnswersCanonical (execCsrclr d a c s) := by
  unfold execCsrclr; grind [State.Canonical, csrUnit_canonical, answers_next]

/-! ## Trap.lean -/

theorem lineEffect_canonical (k : JobKind) (ea : Nat) (go : LineEffect) (h : k.lineEffect ea = some go) (s : State)
    (loc p : Nat)
    (h_s : s.Canonical) : (go s loc p).1.Canonical := by
  unfold JobKind.lineEffect at h
  split at h <;> cases h
  all_goals first
    | exact lockGo_canonical _ _ _ _ _ h_s
    | exact unlockGo_canonical _ _ h_s
    | exact statGo_canonical _ _ h_s
    | exact yieldGo_canonical _ _ _ h_s
    | exact waitGo_canonical _ _ _ _ _ h_s

theorem State.lineAgain_canonical {s : State} (k : JobKind) (ea : Word64) (pend : Nat) (go : State → Nat → Nat → State
    × LineAnswer) (h_s : s.Canonical) (h_go : ∀ (y0 : State) (y1 : Nat) (y2 : Nat), y0.Canonical → (go y0 y1
    y2).1.Canonical) : (State.lineAgain s k ea pend go).1.Canonical := by
  unfold State.lineAgain; grind [State.Canonical, State.linePlace_canonical, State.answer_canonical]

theorem State.again_canonical {s : State} (j : Job) (lanes : Word32) (k : Nat) (watch : Bool) (h_s : s.Canonical) :
    (State.again s j lanes k watch).1.Canonical := by
  unfold State.again
  dsimp only
  split
  · exact State.redoLanes_canonical _ _ _ _ h_s
  · rename_i go h
    have hl := State.lineAgain_canonical j.kind j.ea[(0 : Fin 32)] k go h_s fun a b c ha => lineEffect_canonical _ _ _
        h a b c ha
    split
    · rename_i h2; exact fst_canonical h2 hl
    · rename_i h2; exact fst_canonical h2 hl

theorem State.stallLanes_canonical {s : State} (sel : Word32) (bad : List (Nat × Cause × Word64)) (u : MemUnit) (k :
    Nat) (h_s : s.Canonical) : (State.stallLanes s sel bad u k).Canonical := by
  unfold State.stallLanes; grind [State.Canonical, State.postTagged_canonical, State.onWarp_canonical,
      State.trap_canonical]

theorem State.fillReplayed_canonical {s : State} (h_s : s.Canonical) : (State.fillReplayed s).Canonical := by
  unfold State.fillReplayed; grind [State.Canonical, State.trap_canonical, State.completeNow_canonical,
      State.onWarp_canonical, foldl_canonical]

theorem State.endReplay_canonical {s : State} (sel : Word32) (bad : List (Nat × Cause × Word64)) (h_s : s.Canonical) :
    (State.endReplay s sel bad).1.Canonical := by
  unfold State.endReplay; grind [State.Canonical, State.trap_canonical, State.onWarp_canonical,
      State.fillReplayed_canonical]

theorem State.replayLanes_canonical {s : State} (t : TrapMode) (u : MemUnit) (sel : Word32) (d : Fin 64) (h_s :
    s.Canonical) : (State.replayLanes s t u sel d).Canonical := by
  unfold State.replayLanes; grind [State.Canonical, State.finish_canonical, State.endReplay_canonical,
      State.scalarResult_canonical, State.again_canonical, State.hold_canonical, State.holdDry_canonical,
      State.killLate_canonical, State.stallLanes_canonical, State.onWarp_canonical, State.trap_canonical,
      State.advance_canonical]

theorem execReplay_canonical (d : Fin 64) (a : Fin 64) {s : State} (h_s : s.Canonical) : AnswersCanonical (execReplay
    d a s) := by
  unfold execReplay; grind [State.Canonical, State.issue_canonical, State.trap_canonical,
      State.scalarResult_canonical, State.fillReplayed_canonical, State.hold_canonical, State.replayLanes_canonical,
      answers_next]

theorem execFrec_canonical (d : Fin 64) (a : Fin 64) {s : State} (h_s : s.Canonical) : AnswersCanonical (execFrec d a
    s) := by
  unfold execFrec; grind [State.Canonical, State.issue_canonical, State.trap_canonical, State.scalarResult_canonical,
      answers_next]

theorem execTret_canonical (a : Fin 64) {s : State} (h_s : s.Canonical) : AnswersCanonical (execTret a s) := by
  unfold execTret; grind [State.Canonical, State.issue_canonical, State.trap_canonical,
      State.returnFromTrap_canonical, answers_next]

theorem execLkill_canonical (a : Fin 64) {s : State} (h_s : s.Canonical) : AnswersCanonical (execLkill a s) := by
  unfold execLkill; grind [State.Canonical, State.issue_canonical, State.advance_canonical, State.onWarp_canonical,
      answers_next]

theorem execCtxkill_canonical (a : Fin 64) (k : Fin 64) {s : State} (h_s : s.Canonical) : AnswersCanonical
    (execCtxkill a k s) := by
  unfold execCtxkill; grind [State.Canonical, State.issue_canonical, State.trap_canonical, State.advance_canonical,
      State.endContext_canonical, answers_next]

/-! ## Pages.lean -/

theorem pageIssue_canonical (srcs : List (Fin 64)) (effect : State → State) {s : State} (h_effect : ∀ (y0 : State),
    y0.Canonical → (effect y0).Canonical) (h_s : s.Canonical) : AnswersCanonical (pageIssue srcs effect s) := by
  unfold pageIssue; grind [State.Canonical, State.issue_canonical, answers_next]

theorem State.blockOnPage_canonical {s : State} (h_s : s.Canonical) : (State.blockOnPage s).Canonical := by
  unfold State.blockOnPage; grind [State.Canonical, State.onWarp_canonical, State.advance_canonical]

theorem State.unwait_canonical {s : State} (uid : Nat) (k : Nat) (h_s : s.Canonical) : (State.unwait s uid
    k).Canonical := by
  unfold State.unwait; grind [State.Canonical, State.answer_canonical]

theorem State.as_canonical {s : State} (uid : Nat) (f : State → State) (h_s : s.Canonical) (h_f : ∀ (y0 : State),
    y0.Canonical → (f y0).Canonical) : (State.as s uid f).Canonical := by
  unfold State.as; grind [State.Canonical, State.focus_canonical]

theorem State.startShootdown_canonical {s : State} (asid : Option (BitVec 16)) (va : Option Nat) (warp : Nat) (pend :
    Nat) (tag : Option Nat) (ctx : Nat) (h_s : s.Canonical) : (State.startShootdown s asid va warp pend tag
    ctx).Canonical := by
  unfold State.startShootdown; grind [State.Canonical]

theorem State.endShootdown_canonical {s : State} (k : Shootdown) (h_s : s.Canonical) : (State.endShootdown s
    k).Canonical := by
  unfold State.endShootdown; grind [State.Canonical, State.post_canonical, State.unwait_canonical]

theorem State.endShootdowns_canonical {s : State} (h_s : s.Canonical) : (State.endShootdowns s).Canonical := by
  unfold State.endShootdowns; grind [State.Canonical, State.endShootdown_canonical, foldl_canonical]

theorem State.acknowledge_canonical {s : State} (k : Shootdown) (u : TlbUnit) (h_s : s.Canonical) : (State.acknowledge
    s k u).Canonical := by
  unfold State.acknowledge; grind [State.Canonical, State.endShootdowns_canonical]

theorem execTlbinv_canonical (b : Fin 64) (a : Fin 64) (m : Fin 4) {s : State} (h_s : s.Canonical) : AnswersCanonical
    (execTlbinv b a m s) := by
  unfold execTlbinv; grind [State.Canonical, State.issue_canonical, State.blockOnPage_canonical,
      State.startShootdown_canonical, State.endShootdowns_canonical, answers_next]

theorem State.recallPage_canonical {s : State} (page : Nat) (size : Nat) (h_s : s.Canonical) : (State.recallPage s
    page size).Canonical := by
  unfold State.recallPage; grind [State.Canonical, State.combine_canonical, foldl_canonical]

theorem State.startLock_canonical {s : State} (p : PageLock) (h_s : s.Canonical) : (State.startLock s p).Canonical :=
    by
  unfold State.startLock; grind [State.Canonical, State.recallPage_canonical, State.unwait_canonical]

theorem State.pgLock_canonical {s : State} (page : Nat) (size : Nat) (h_s : s.Canonical) : (State.pgLock s page
    size).Canonical := by
  unfold State.pgLock; grind [State.Canonical, State.advance_canonical, State.hold_canonical,
      State.blockOnPage_canonical, State.startLock_canonical]

theorem State.poisonArrival_canonical {s : State} (id : Nat) (h_s : s.Canonical) : (State.poisonArrival s
    id).Canonical := by
  unfold State.poisonArrival; grind [State.Canonical, State.finish_canonical]

theorem State.heldAtomic_canonical {s : State} (h : HeldWrite) (loc : Nat) (op : AtomOp) (ty : Nat) (val : Word64)
    (new : Word64) (pend : Nat) (base : Nat) (lane : Nat) (ea : Word64) (h_s : s.Canonical) : (State.heldAtomic s h
    loc op ty val new pend base lane ea).Canonical := by
  unfold State.heldAtomic; grind [State.Canonical, State.as_canonical, State.killLate_canonical,
      State.poisonArrival_canonical, State.atom_canonical, State.mapWarp_canonical]

theorem State.passLines_canonical {s : State} (ctx : Nat) (loc : Nat) (n : Nat) (write : Bool) (h_s : s.Canonical) :
    (State.passLines s ctx loc n write).Canonical := by
  unfold State.passLines; grind [State.Canonical, State.llcAccess_canonical, foldl_canonical]

theorem State.replayHeld_canonical (page : Nat) {s : State} (h : HeldWrite) (h_s : s.Canonical) : (State.replayHeld
    page s h).Canonical := by
  unfold State.replayHeld; grind [State.Canonical, State.recallLines_canonical, State.passLines_canonical,
      State.pushWords_canonical, State.markPoison_canonical, State.poke_canonical, State.pokeBits_canonical,
      State.reduceAt_canonical, State.heldAtomic_canonical]

theorem State.endLock_canonical {s : State} (p : PageLock) (page : Nat) (h_s : s.Canonical) : (State.endLock s p
    page).Canonical := by
  unfold State.endLock; grind [State.Canonical, State.replayHeld_canonical, State.admitLocks_canonical,
      State.settleHeld_canonical, foldl_canonical]

theorem State.pgAbort_canonical {s : State} (page : Nat) (size : Nat) (h_s : s.Canonical) : (State.pgAbort s page
    size).Canonical := by
  unfold State.pgAbort; grind [State.Canonical, State.advance_canonical, State.endLock_canonical,
      State.unwait_canonical]

theorem execPglock_canonical (a : Fin 64) (z : Fin 4) (l : Bool) {s : State} (h_s : s.Canonical) : AnswersCanonical
    (execPglock a z l s) := by
  unfold execPglock; grind [State.Canonical, pageIssue_canonical, State.trap_canonical, State.pgLock_canonical,
      State.pgAbort_canonical, answers_next]

theorem State.follow_canonical {s : State} (p : PageLock) (page : Nat) (h_s : s.Canonical) : (State.follow s p
    page).Canonical := by
  unfold State.follow; grind [State.Canonical]

theorem State.handOver_canonical {s : State} (p : PageLock) (page : Nat) (h_s : s.Canonical) : (State.handOver s p
    page).Canonical := by
  unfold State.handOver; grind [State.Canonical]

theorem execPgswap_canonical (b : Fin 64) (a : Fin 64) {s : State} (h_s : s.Canonical) : AnswersCanonical (execPgswap
    b a s) := by
  unfold execPgswap; grind [State.Canonical, pageIssue_canonical, State.trap_canonical, State.readAt_canonical,
      State.writeAt_canonical, State.follow_canonical, State.handOver_canonical, State.endLock_canonical,
      State.advance_canonical, answers_next]

theorem State.endMove_canonical {s : State} (h : PageHome) (h_s : s.Canonical) : (State.endMove s h).Canonical := by
  unfold State.endMove; grind [State.Canonical, State.recallPage_canonical, State.unwait_canonical,
      State.admitLocks_canonical]

theorem execHomemv_canonical (b : Fin 64) (a : Fin 64) {s : State} (h_s : s.Canonical) : AnswersCanonical (execHomemv
    b a s) := by
  unfold execHomemv; grind [State.Canonical, pageIssue_canonical, State.trap_canonical, State.touchHome_canonical,
      State.advance_canonical, State.hold_canonical, State.blockOnPage_canonical, answers_next]

/-! ## Debug.lean -/

theorem execHalt_canonical (d : Fin 64) (a : Fin 64) (g : Bool) {s : State} (h_s : s.Canonical) : AnswersCanonical
    (execHalt d a g s) := by
  unfold execHalt; grind [State.Canonical, State.issue_canonical, State.scalarResult_canonical, answers_next]

theorem execStepW_canonical (d : Fin 64) (a : Fin 64) (g : Bool) {s : State} (h_s : s.Canonical) : AnswersCanonical
    (execStepW d a g s) := by
  unfold execStepW; grind [State.Canonical, State.issue_canonical, State.trap_canonical, State.advance_canonical,
      State.mapWarp_canonical, State.scalarResult_canonical, State.onWarp_canonical, answers_next]

theorem State.stepped_canonical (before : Warp) {s : State} (h_s : s.Canonical) : (State.stepped before s).Canonical
    := by
  unfold State.stepped; grind [State.Canonical, State.answer_canonical, State.mapWarp_canonical, foldl_canonical]

theorem execWatch_canonical (a : Fin 64) (k : Fin 4) (l : Fin 8) (w : Fin 4) {s : State} (h_s : s.Canonical) :
    AnswersCanonical (execWatch a k l w s) := by
  unfold execWatch; grind [State.Canonical, State.issue_canonical, State.setContext_canonical,
      State.advance_canonical, answers_next]

end Sys2Proof.Machine
end

