-- ==== Sys2Proof/Laws/CanonicalEvents.lean ====
section
/-! SUPPORT. Memory stays in canonical form: one lemma for each of the events and time, which says that the state it leaves has a
canonical memory where the state before had one. -/

set_option linter.unusedVariables false
set_option Elab.async false

namespace Sys2Proof.Machine

/-! ## EventCore.lean -/

theorem State.setGate_canonical {s : State} (site : Nat) (cl : Nat) (g : Gate) (h_s : s.Canonical) : (State.setGate s
    site cl g).Canonical := by
  unfold State.setGate; grind [State.Canonical, State.mapCluster_canonical]

theorem State.abortGating_canonical {s : State} (w : Warp) (p : Pending) (h_s : s.Canonical) : (State.abortGating s w
    p).Canonical := by
  unfold State.abortGating; grind [State.Canonical, State.setGate_canonical]

theorem State.raisePending_canonical {s : State} (p : Pending) (cause : Cause) (h_s : s.Canonical) :
    (State.raisePending s p cause).Canonical := by
  unfold State.raisePending; grind [State.Canonical, State.stepped_canonical, State.completeNow_canonical,
      State.raiseLate_canonical]

theorem State.raiseRemote_canonical {s : State} (p : Pending) (h_s : s.Canonical) : (State.raiseRemote s p).Canonical
    := by
  unfold State.raiseRemote; grind [State.Canonical, State.stepped_canonical, State.onWarp_canonical,
      State.raiseLate_canonical]

theorem State.completeMonitor_canonical {s : State} (k : Nat) (p : Pending) (h_s : s.Canonical) :
    (State.completeMonitor s k p).Canonical := by
  unfold State.completeMonitor; grind [State.Canonical, State.disarm_canonical, State.completeNow_canonical]

theorem State.completion_canonical {s : State} (p : Pending) (h_s : s.Canonical) : (State.completion s p).Canonical :=
    by
  unfold State.completion; grind [State.Canonical, State.completeMonitor_canonical, barrier_canonical,
      State.raisePending_canonical, State.completeNow_canonical, State.raiseRemote_canonical,
      State.endReplay_canonical, State.answer_canonical]

theorem execInstructionCompletion_canonical (w : Nat) (p : Nat) {s : State} (h_s : s.Canonical) : AnswersCanonical
    (execInstructionCompletion w p s) := by
  unfold execInstructionCompletion; grind [State.Canonical, State.settleBarriers_canonical, State.startLock_canonical,
      State.focus_canonical, State.takeRaised_canonical, State.abortGating_canonical, State.completion_canonical,
      foldl_canonical, answers_next]

theorem execWaitcSatisfied_canonical (w : Nat) (p : Nat) {s : State} (h_s : s.Canonical) : AnswersCanonical
    (execWaitcSatisfied w p s) := by
  unfold execWaitcSatisfied
  apply answers_next
  split
  · exact h_s
  split
  · exact h_s
  split
  · split
    · exact h_s
    · have h1 := State.completeNow_canonical ‹Pending› (State.focus_canonical w h_s)
      dsimp only
      split
      · exact h1
      · exact State.raiseLate_canonical _ _ (State.deliver_canonical _ h1)
  · exact h_s

theorem State.logAgain_canonical {s : State} (e : LogEntry) (bad : List (Nat × Cause × Word64)) (before : List
    LogEntry) (h_s : s.Canonical) : (State.logAgain s e bad before).Canonical := by
  unfold State.logAgain; grind [State.Canonical, State.answer_canonical, State.postTagged_canonical,
      State.onWarp_canonical]

theorem execOperandLogReplay_canonical (w : Nat) (k : Nat) {s : State} (h_s : s.Canonical) : AnswersCanonical
    (execOperandLogReplay w k s) := by
  unfold execOperandLogReplay; grind [State.Canonical, State.answer_canonical, State.focus_canonical,
      State.onWarp_canonical, State.again_canonical, State.logAgain_canonical, State.raiseLate_canonical,
      answers_next]

theorem execLogEntryConversion_canonical (w : Nat) (k : Nat) {s : State} (h_s : s.Canonical) : AnswersCanonical
    (execLogEntryConversion w k s) := by
  unfold execLogEntryConversion; grind [State.Canonical, State.answer_canonical, State.focus_canonical,
      State.onWarp_canonical, State.raiseLate_canonical, answers_next]

theorem execShootdownAcknowledgement_canonical (k : Nat) (unit : Nat) {s : State} (h_s : s.Canonical) :
    AnswersCanonical (execShootdownAcknowledgement k unit s) := by
  unfold execShootdownAcknowledgement; grind [State.Canonical, State.acknowledge_canonical, answers_next]

theorem State.evict_canonical {s : State} (core : Nat) (line : Nat) (h_s : s.Canonical) : (State.evict s core
    line).Canonical := by
  unfold State.evict; grind [State.Canonical, State.combine_canonical, State.pushCore_canonical, foldl_canonical]

theorem execL1Eviction_canonical (core : Nat) (line : Nat) (w : Nat) {s : State} (h_s : s.Canonical) :
    AnswersCanonical (execL1Eviction core line w s) := by
  unfold execL1Eviction; grind [State.Canonical, State.evict_canonical, State.noteVictim_canonical, answers_next]

theorem execStackCacheSpill_canonical (w : Nat) (line : Nat) {s : State} (h_s : s.Canonical) : AnswersCanonical
    (execStackCacheSpill w line s) := by
  unfold execStackCacheSpill; grind [State.Canonical, State.evict_canonical, answers_next]

theorem execHomeWriteWindowEnd_canonical (page : Nat) {s : State} (h_s : s.Canonical) : AnswersCanonical
    (execHomeWriteWindowEnd page s) := by
  unfold execHomeWriteWindowEnd; grind [State.Canonical, answers_next]

theorem execPageHomeMoveEnd_canonical (page : Nat) {s : State} (h_s : s.Canonical) : AnswersCanonical
    (execPageHomeMoveEnd page s) := by
  unfold execPageHomeMoveEnd; grind [State.Canonical, State.endMove_canonical, answers_next]

theorem State.mergeRegions_canonical {s : State} (r : Region) (q : Region) (h_s : s.Canonical) : (State.mergeRegions s
    r q).Canonical := by
  unfold State.mergeRegions; grind [State.Canonical]

theorem execRegionMerge_canonical (base : Nat) {s : State} (h_s : s.Canonical) : AnswersCanonical (execRegionMerge
    base s) := by
  unfold execRegionMerge; grind [State.Canonical, State.mergeRegions_canonical, answers_next]

theorem State.copyPage_canonical {s : State} (page : Nat) (size : Nat) (frame : Nat) (h_s : s.Canonical) :
    (State.copyPage s page size frame).Canonical := by
  have hw : ∀ (f : Nat × Byte → Nat) (l : Memory) (m : Memory), m.wf →
      (l.foldl (fun (m : Memory) c => m.write (f c) c.2) m).wf := by
    intro f l
    induction l with
    | nil => intro m h; exact h
    | cons a l ih => intro m h; exact ih _ (Memory.wf_write h _ _)
  exact hw _ _ _ (Memory.wf_filter (State.passLines_canonical _ _ _ _ (State.passLines_canonical _ _ _ _ h_s)) _)

theorem execPageCopy_canonical (page : Nat) (frame : Nat) {s : State} (h_s : s.Canonical) : AnswersCanonical
    (execPageCopy page frame s) := by
  unfold execPageCopy; grind [State.Canonical, State.copyPage_canonical, answers_next]

theorem execLockTimerExpiry_canonical (line : Nat) (w : Nat) {s : State} (h_s : s.Canonical) : AnswersCanonical
    (execLockTimerExpiry line w s) := by
  unfold execLockTimerExpiry; grind [State.Canonical, State.expireWaiter_canonical, answers_next]

theorem execMonitorTimeout_canonical (m : Nat) {s : State} (h_s : s.Canonical) : AnswersCanonical (execMonitorTimeout
    m s) := by
  unfold execMonitorTimeout; grind [State.Canonical, State.disarm_canonical, answers_next]

theorem execOverflowMonitorRecheck_canonical (m : Nat) {s : State} (h_s : s.Canonical) : AnswersCanonical
    (execOverflowMonitorRecheck m s) := by
  unfold execOverflowMonitorRecheck; grind [State.Canonical, State.recall_canonical, State.mapMonitor_canonical,
      answers_next]

theorem State.reportCycle_canonical {s : State} (c : List Link) (h_s : s.Canonical) : (State.reportCycle s
    c).Canonical := by
  unfold State.reportCycle; grind [State.Canonical, State.postTagged_canonical, foldl_canonical]

theorem execDeadlockScan_canonical (ctx : Nat) {s : State} (h_s : s.Canonical) : AnswersCanonical (execDeadlockScan
    ctx s) := by
  unfold execDeadlockScan; grind [State.Canonical, State.setContext_canonical, State.reportCycle_canonical,
      foldl_canonical, answers_next]

/-! ## Residence.lean -/

theorem State.startWorkgroup_canonical {s : State} (g : Grid) (gang : Nat) (ix : Nat) (site : Nat) (cl : Nat) (stack :
    Nat) (wg : Nat) (core : Nat) (h_s : s.Canonical) : (State.startWorkgroup s g gang ix site cl stack wg
    core).Canonical := by
  unfold State.startWorkgroup; grind [State.Canonical]

theorem State.scheduleCluster_canonical {s : State} (site : Nat) (cl : Nat) (h_s : s.Canonical) :
    (State.scheduleCluster s site cl).Canonical := by
  unfold State.scheduleCluster; grind [State.Canonical, State.schedule_canonical, foldl_canonical]

theorem State.clearScratch_canonical {s : State} (gang : Nat) (h_s : s.Canonical) : (State.clearScratch s
    gang).Canonical := by
  have h1 : ∀ q ps, State.Canonical { s with mem := s.mem.filter q, poison := ps } := fun q _ => Memory.wf_filter h_s
      q
  exact h1 _ _

theorem State.placeNew_canonical {s : State} (g : Grid) (ix : Nat) (stack : Nat) (site : Nat) (cl : Nat) (cores : List
    Nat) (h_s : s.Canonical) : (State.placeNew s g ix stack site cl cores).Canonical := by
  unfold State.placeNew; grind [State.Canonical, State.clearScratch_canonical, State.setGate_canonical,
      State.startWorkgroup_canonical, State.mapGrid_canonical, State.scheduleCluster_canonical, foldl_canonical]

theorem State.pushStack_canonical {s : State} (w : Warp) (h_s : s.Canonical) : (State.pushStack s w).Canonical := by
  unfold State.pushStack; grind [State.Canonical]

theorem State.suspendWarp_canonical {s : State} (vregs : Nat) (w : Warp) (h_s : s.Canonical) : (State.suspendWarp s
    vregs w).Canonical := by
  unfold State.suspendWarp; grind [State.Canonical, State.pushPartials_canonical, State.pushStack_canonical,
      State.mapWarp_canonical, State.suspendLocks_canonical]

theorem State.vacate_canonical {s : State} (gang : Nat) (out : GangPhase) (h_s : s.Canonical) : (State.vacate s gang
    out).Canonical := by
  unfold State.vacate; grind [State.Canonical, State.suspendWarp_canonical, State.mapGang_canonical,
      State.scheduleCluster_canonical, foldl_canonical]

theorem State.preempt_canonical {s : State} (gang : Nat) (out : GangPhase) (h_s : s.Canonical) : (State.preempt s gang
    out).Canonical := by
  unfold State.preempt; grind [State.Canonical, State.mapWarp_canonical, State.vacate_canonical,
      State.mapGang_canonical, foldl_canonical]

theorem State.resumeWarp_canonical {s : State} (site : Nat) (cl : Nat) (core : Nat) (slot : Nat) (w : Warp) (h_s :
    s.Canonical) : (State.resumeWarp s site cl core slot w).Canonical := by
  unfold State.resumeWarp; grind [State.Canonical, State.mapWarp_canonical, State.resumeLocks_canonical]

theorem State.reenter_canonical {s : State} (gang : Nat) (h_s : s.Canonical) : (State.reenter s gang).Canonical := by
  unfold State.reenter; grind [State.Canonical, State.mapCommand_canonical, foldl_canonical]

theorem State.placeAgain_canonical {s : State} (gang : Nat) (site : Nat) (cl : Nat) (cores : List Nat) (h_s :
    s.Canonical) : (State.placeAgain s gang site cl cores).Canonical := by
  unfold State.placeAgain; grind [State.Canonical, State.mapGang_canonical, State.reenter_canonical,
      State.setGate_canonical, State.resumeWarp_canonical, State.scheduleCluster_canonical, foldl_canonical]

theorem State.resume_canonical {s : State} (g : Gang) (h_s : s.Canonical) : ∀ t, State.resume s g = some t →
    t.Canonical := by
  intro t ht
  obtain ⟨x, -, rfl⟩ := Option.map_eq_some_iff.1 ht
  exact State.placeAgain_canonical _ _ _ _ h_s

theorem State.statusFails_canonical {s : State} (g : Grid) (h_s : s.Canonical) : (State.statusFails s g).Canonical :=
    by
  unfold State.statusFails; grind [State.Canonical, State.postTagged_canonical]

theorem State.statusPlace_canonical {s : State} (g : Grid) (h_s : s.Canonical) : (State.statusPlace s g).1.Canonical
    := by
  unfold State.statusPlace; grind [State.Canonical, State.reach_canonical]

theorem State.writeStatus_canonical {s : State} (g : Grid) (t : Target) (low : Nat) (h_s : s.Canonical) :
    (State.writeStatus s g t low).Canonical := by
  unfold State.writeStatus; grind [State.Canonical, State.writeAt_canonical]

theorem State.endGrid_canonical {s : State} (g : Grid) (code : Nat) (written : Bool) (h_s : s.Canonical) :
    (State.endGrid s g code written).Canonical := by
  unfold State.endGrid; grind [State.Canonical, State.mapGrid_canonical, State.statusPlace_canonical,
      State.statusFails_canonical, State.writeStatus_canonical]

theorem State.checkDeps_canonical (x0 : Nat) {x1 : State} (h_x1 : x1.Canonical) : (State.checkDeps x0 x1).Canonical :=
    by
  fun_induction State.checkDeps x0 x1 <;> grind [State.Canonical, State.endGrid_canonical]

theorem State.settleDeps_canonical {s : State} (h_s : s.Canonical) : (State.settleDeps s).Canonical := by
  unfold State.settleDeps; grind [State.Canonical, State.checkDeps_canonical]

theorem State.retireGang_canonical {s : State} (gang : Nat) (h_s : s.Canonical) : (State.retireGang s gang).Canonical
    := by
  unfold State.retireGang
  dsimp only
  split
  · exact h_s
  · have h1 : ∀ q ps, State.Canonical { s with gangs := s.gangs.filter (·.uid != gang), mem := s.mem.filter q, poison
      := ps } :=
      fun q _ => Memory.wf_filter h_s q
    have h2 := fun q ps => State.mapGrid_canonical (s.gang gang).grid (fun r => { r with retired := r.retired + 1 })
        (h1 q ps)
    split
    · exact State.settleDeps_canonical (State.endGrid_canonical _ _ _ (h2 _ _))
    · exact h2 _ _

theorem State.retireWarp_canonical {s : State} (w : Warp) (h_s : s.Canonical) : (State.retireWarp s w).Canonical := by
  unfold State.retireWarp; grind [State.Canonical, State.reportAll_canonical, State.abandon_canonical,
      State.mapWarp_canonical, State.settleBarriers_canonical, State.schedule_canonical, State.retireGang_canonical]

/-! ## EventEngine.lean -/

theorem execEngineCommandRun_canonical (g : Nat) (k : Nat) {s : State} (h_s : s.Canonical) : AnswersCanonical
    (execEngineCommandRun g k s) := by
  unfold execEngineCommandRun; grind [State.Canonical, State.runCommand_canonical, answers_next]

theorem execEnginePageFaultResume_canonical (g : Nat) (k : Nat) {s : State} (h_s : s.Canonical) : AnswersCanonical
    (execEnginePageFaultResume g k s) := by
  unfold execEnginePageFaultResume; grind [State.Canonical, State.mapCommand_canonical, answers_next]

theorem execEngineCommandRetire_canonical (w : Nat) (k : Nat) {s : State} (h_s : s.Canonical) : AnswersCanonical
    (execEngineCommandRetire w k s) := by
  unfold execEngineCommandRetire; grind [State.Canonical, State.mapWarp_canonical, answers_next]

theorem State.startNode_canonical {s : State} (c : Command) (h_s : s.Canonical) : (State.startNode s c).Canonical :=
    by
  unfold State.startNode; grind [State.Canonical, State.mapNode_canonical, State.mapCommand_canonical,
      State.endCommand_canonical, State.engineFault_canonical, State.enterStream_canonical]

theorem execNodeLaunch_canonical (g : Nat) (n : Nat) {s : State} (h_s : s.Canonical) : AnswersCanonical
    (execNodeLaunch g n s) := by
  unfold execNodeLaunch; grind [State.Canonical, State.startNode_canonical, State.mapNode_canonical, answers_next]

theorem execBandWake_canonical (site : Nat) (cl : Nat) (band : Nat) {s : State} (h_s : s.Canonical) : AnswersCanonical
    (execBandWake site cl band s) := by
  unfold execBandWake; grind [State.Canonical, State.mapCluster_canonical, answers_next]

theorem State.gateBands_canonical {s : State} (i : Nat) (h_s : s.Canonical) : (State.gateBands s i).Canonical := by
  unfold State.gateBands; grind [State.Canonical, State.mapCluster_canonical, foldl_canonical]

theorem execBandRampStep_canonical (site : Nat) {s : State} (h_s : s.Canonical) : AnswersCanonical (execBandRampStep
    site s) := by
  unfold execBandRampStep; grind [State.Canonical, State.gateBands_canonical, State.mapSite_canonical,
      State.mapCluster_canonical, answers_next]

theorem State.mxFault_canonical {s : State} (c : Command) (column : Nat) (h_s : s.Canonical) : (State.mxFault s c
    column).Canonical := by
  unfold State.mxFault; grind [State.Canonical, State.mapCluster_canonical, State.mapGang_canonical,
      State.preempt_canonical, State.setMatrix_canonical, State.postTagged_canonical, foldl_canonical]

theorem State.grantHead_canonical {s : State} (c : Command) (chk : SpareCheck) (h_s : s.Canonical) : (State.grantHead
    s c chk).Canonical := by
  unfold State.grantHead; grind [State.Canonical, State.runMatrix_canonical, State.passInputs_canonical,
      State.mxFault_canonical]

theorem execMatrixArbiterGrant_canonical (g : Nat) (chk : SpareCheck) {s : State} (h_s : s.Canonical) :
    AnswersCanonical (execMatrixArbiterGrant g chk s) := by
  unfold execMatrixArbiterGrant; grind [State.Canonical, State.setMatrix_canonical, State.grantHead_canonical,
      answers_next]

theorem execMatrixAgeStep_canonical (g : Nat) {s : State} (h_s : s.Canonical) : AnswersCanonical (execMatrixAgeStep g
    s) := by
  unfold execMatrixAgeStep; grind [State.Canonical, State.setMatrix_canonical, answers_next]

theorem execEngineReturnToService_canonical (site : Nat) (cl : Nat) {s : State} (h_s : s.Canonical) : AnswersCanonical
    (execEngineReturnToService site cl s) := by
  unfold execEngineReturnToService; grind [State.Canonical, State.mapCluster_canonical, answers_next]

/-! ## EventLaunch.lean -/

theorem execLaunchQueueTail_canonical (q : Nat) (v : BitVec 32) {s : State} (h_s : s.Canonical) : AnswersCanonical
    (execLaunchQueueTail q v s) := by
  unfold execLaunchQueueTail; grind [State.Canonical, State.mapQueue_canonical, answers_next]

theorem execLaunchQueueErrorClear_canonical (q : Nat) (v : BitVec 64) {s : State} (h_s : s.Canonical) :
    AnswersCanonical (execLaunchQueueErrorClear q v s) := by
  unfold execLaunchQueueErrorClear; grind [State.Canonical, State.mapQueue_canonical, answers_next]

theorem State.judge_canonical {s : State} (g : Grid) (h_s : s.Canonical) : (State.judge s g).Canonical := by
  unfold State.judge; grind [State.Canonical, State.endGrid_canonical, State.settleDeps_canonical]

theorem State.acceptGrid_canonical {s : State} (g : Grid) (h_s : s.Canonical) : (State.acceptGrid s g).Canonical := by
  unfold State.acceptGrid; grind [State.Canonical, State.endGrid_canonical, State.settleDeps_canonical,
      State.statusPlace_canonical, State.writeStatus_canonical, State.judge_canonical, State.postTagged_canonical,
      State.mapGrid_canonical, State.statusFails_canonical]

theorem State.serve_canonical {s : State} (q : Nat) (h_s : s.Canonical) : (State.serve s q).Canonical := by
  unfold State.serve; grind [State.Canonical]

theorem execLaunchRecordRead_canonical (q : Nat) {s : State} (h_s : s.Canonical) : AnswersCanonical
    (execLaunchRecordRead q s) := by
  unfold execLaunchRecordRead; grind [State.Canonical, State.slotPlace_canonical, State.readAt_canonical,
      State.mapQueue_canonical, State.serve_canonical, State.acceptGrid_canonical, answers_next]

theorem State.tryOffer_canonical {s : State} (g : Grid) (o : Offer) (stack : Nat) (h_s : s.Canonical) :
    (State.tryOffer s g o stack).Canonical := by
  unfold State.tryOffer; grind [State.Canonical, State.placeNew_canonical]

theorem State.placeWhole_canonical {s : State} (g : Grid) (stack : Nat) (patient : Bool) (h_s : s.Canonical) : ∀ t,
    State.placeWhole s g stack patient = some t → t.Canonical := by
  intro t ht
  unfold State.placeWhole at ht
  dsimp only at ht
  refine foldl_bind_canonical _ ?_ _ _ ?_ t ht
  · intro u ix v hu hv
    obtain ⟨x, -, rfl⟩ := Option.map_eq_some_iff.1 hv
    exact State.placeNew_canonical _ _ _ _ _ _ hu
  · intro u hu; cases hu; exact h_s

theorem State.resumeWhole_canonical {s : State} (g : Grid) (h_s : s.Canonical) : ∀ t, State.resumeWhole s g = some t →
    t.Canonical := by
  intro t ht
  refine foldl_bind_canonical (fun s h => s.resume h) ?_ _ (some s) ?_ t ht
  · intro u h v hu hv
    exact State.resume_canonical h hu v hv
  · intro u hu; cases hu; exact h_s

theorem State.comeBack_canonical {s : State} (h : Gang) (h_s : s.Canonical) : ∀ t, State.comeBack s h = some t →
    t.Canonical := by
  unfold State.comeBack; grind [State.Canonical, State.resumeWhole_canonical, State.resume_canonical]

theorem State.offerWhole_canonical {s : State} (g : Grid) (stack : Nat) (h_s : s.Canonical) : (State.offerWhole s g
    stack).Canonical := by
  unfold State.offerWhole; grind [State.Canonical, State.placeWhole_canonical, State.mapGrid_canonical]

theorem execGangPlacement_canonical (grid : Nat) (ix : Nat) (stack : Nat) {s : State} (h_s : s.Canonical) :
    AnswersCanonical (execGangPlacement grid ix stack s) := by
  unfold execGangPlacement
  apply answers_next
  have h1 := State.settleDeps_canonical h_s
  dsimp only
  split
  · split
    · exact h1
    · exact getD_canonical (State.comeBack_canonical _ h1) h1
  · split
    · exact h1
    · split
      · split
        · exact State.offerWhole_canonical _ _ h1
        · exact h1
      · split
        · exact State.tryOffer_canonical _ _ _ h1
        · split
          · exact State.tryOffer_canonical _ _ _ (State.mapGrid_canonical _ _ h1)
          · exact h1

theorem execAffinityPatienceExpiry_canonical (grid : Nat) (ix : Nat) {s : State} (h_s : s.Canonical) :
    AnswersCanonical (execAffinityPatienceExpiry grid ix s) := by
  unfold execAffinityPatienceExpiry; grind [State.Canonical, State.mapGrid_canonical, answers_next]

theorem execWarpRetire_canonical (w : Nat) {s : State} (h_s : s.Canonical) : AnswersCanonical (execWarpRetire w s) :=
    by
  unfold execWarpRetire; grind [State.Canonical, State.trap_canonical, State.focus_canonical,
      State.handlerExit_canonical, State.deliverAtExit_canonical, State.retireWarp_canonical, answers_next]

theorem execPreemption_canonical (g : Nat) {s : State} (h_s : s.Canonical) : AnswersCanonical (execPreemption g s) :=
    by
  unfold execPreemption; grind [State.Canonical, State.preempt_canonical, answers_next]

theorem execQuantumExpiry_canonical (g : Nat) {s : State} (h_s : s.Canonical) : AnswersCanonical (execQuantumExpiry g
    s) := by
  unfold execQuantumExpiry; grind [State.Canonical, State.vacate_canonical, State.preempt_canonical, answers_next]

theorem State.swapOut_canonical {s : State} (k : Gang) (h_s : s.Canonical) : (State.swapOut s k).Canonical := by
  unfold State.swapOut; grind [State.Canonical, State.mapGang_canonical, State.preempt_canonical]

theorem execGangSwapOut_canonical (g : Nat) {s : State} (h_s : s.Canonical) : AnswersCanonical (execGangSwapOut g s)
    := by
  unfold execGangSwapOut; grind [State.Canonical, State.swapOut_canonical, State.preempt_canonical, foldl_canonical,
      answers_next]

theorem State.spillCluster_canonical {s : State} (site : Nat) (cl : Nat) (h_s : s.Canonical) : (State.spillCluster s
    site cl).Canonical := by
  unfold State.spillCluster; grind [State.Canonical, State.mapWarp_canonical, foldl_canonical]

theorem execClusterGating_canonical (site : Nat) (cl : Nat) {s : State} (h_s : s.Canonical) : AnswersCanonical
    (execClusterGating site cl s) := by
  unfold execClusterGating; grind [State.Canonical, State.setGate_canonical, State.spillCluster_canonical,
      answers_next]

theorem execGatingPowerRemoved_canonical (site : Nat) (cl : Nat) {s : State} (h_s : s.Canonical) : AnswersCanonical
    (execGatingPowerRemoved site cl s) := by
  unfold execGatingPowerRemoved; grind [State.Canonical, State.setGate_canonical, State.mapCluster_canonical,
      answers_next]

theorem execClusterWake_canonical (site : Nat) {s : State} (h_s : s.Canonical) : AnswersCanonical (execClusterWake
    site s) := by
  unfold execClusterWake; grind [State.Canonical, State.setGate_canonical, answers_next]

theorem execClusterWakeDone_canonical (site : Nat) (cl : Nat) {s : State} (h_s : s.Canonical) : AnswersCanonical
    (execClusterWakeDone site cl s) := by
  unfold execClusterWakeDone; grind [State.Canonical, State.setGate_canonical, answers_next]

theorem execLeaseWindowEnd_canonical (w : Nat) {s : State} (h_s : s.Canonical) : AnswersCanonical (execLeaseWindowEnd
    w s) := by
  unfold execLeaseWindowEnd; grind [State.Canonical, State.mapLease_canonical, answers_next]

theorem execLeaseHeadWait_canonical (core : Nat) {s : State} (h_s : s.Canonical) : AnswersCanonical (execLeaseHeadWait
    core s) := by
  unfold execLeaseHeadWait; grind [State.Canonical, State.schedule_canonical, answers_next]

theorem execLeaseStarvation_canonical (w : Nat) {s : State} (h_s : s.Canonical) : AnswersCanonical
    (execLeaseStarvation w s) := by
  unfold execLeaseStarvation; grind [State.Canonical, State.activate_canonical, answers_next]

theorem execActivity1024Cycles_canonical (w : Nat) {s : State} (h_s : s.Canonical) : AnswersCanonical
    (execActivity1024Cycles w s) := by
  unfold execActivity1024Cycles; grind [State.Canonical, State.deactivate_canonical, State.schedule_canonical,
      answers_next]

theorem execPerformanceLevelChange_canonical (site : Nat) (cl : Nat) {s : State} (h_s : s.Canonical) :
    AnswersCanonical (execPerformanceLevelChange site cl s) := by
  unfold execPerformanceLevelChange; grind [State.Canonical, State.mapCluster_canonical, answers_next]

theorem State.lowerCluster_canonical {s : State} (x : Nat × Nat) (h_s : s.Canonical) : (State.lowerCluster s
    x).Canonical := by
  unfold State.lowerCluster; grind [State.Canonical, State.mapCluster_canonical]

theorem State.raiseCluster_canonical {s : State} (x : Nat × Nat) (h_s : s.Canonical) : (State.raiseCluster s
    x).Canonical := by
  unfold State.raiseCluster; grind [State.Canonical, State.mapCluster_canonical]

theorem State.powerDown_canonical {s : State} (h_s : s.Canonical) : (State.powerDown s).Canonical := by
  unfold State.powerDown; grind [State.Canonical, State.lowerCluster_canonical, foldl_canonical]

theorem State.powerUp_canonical {s : State} (h_s : s.Canonical) : (State.powerUp s).Canonical := by
  unfold State.powerUp; grind [State.Canonical, State.raiseCluster_canonical, foldl_canonical]

theorem State.gateWay_canonical {s : State} (c : Context) (h_s : s.Canonical) : (State.gateWay s c).Canonical := by
  unfold State.gateWay; grind [State.Canonical, State.setContext_canonical, State.llcFlush_canonical]

theorem State.evalWays_canonical (estimate : Word64) {s : State} (c : Context) (h_s : s.Canonical) : (State.evalWays
    estimate s c).Canonical := by
  unfold State.evalWays; grind [State.Canonical, State.setContext_canonical, State.gateWay_canonical]

theorem execPowerEvaluation_canonical (excess : Bool) {s : State} (h_s : s.Canonical) : AnswersCanonical
    (execPowerEvaluation excess s) := by
  unfold execPowerEvaluation; grind [State.Canonical, State.powerDown_canonical, State.powerUp_canonical,
      State.evalWays_canonical, foldl_canonical, answers_next]

theorem execTokenRefill_canonical (ctx : Nat) (k : Fin 4) {s : State} (h_s : s.Canonical) : AnswersCanonical
    (execTokenRefill ctx k s) := by
  unfold execTokenRefill; grind [State.Canonical, State.setContext_canonical, answers_next]

/-! ## EventFabric.lean -/

theorem State.peerAtomic_canonical {s : State} (a : Agent) (kind : Nat) (loc : Nat) (op : Nat) (ty : Nat) (value :
    BitVec 128) (h_s : s.Canonical) : (State.peerAtomic s a kind loc op ty value).1.Canonical := by
  unfold State.peerAtomic; grind [State.Canonical, State.holdWrite_canonical, State.atomAt_canonical]

theorem State.performInbound_canonical {s : State} (a : Agent) (op : FabricOp) (kind : Nat) (loc : Nat) (h_s :
    s.Canonical) : (State.performInbound s a op kind loc).1.Canonical := by
  unfold State.performInbound; grind [State.Canonical, store_canonical, State.writeAt_canonical, load_canonical,
      State.readAt_canonical, State.peerAtomic_canonical]

theorem State.serveAccess_canonical {s : State} (t : Inbound) (last : Bool) (h_s : s.Canonical) : (State.serveAccess s
    t last).Canonical := by
  unfold State.serveAccess; grind [State.Canonical, State.serveTx_canonical, State.reach_canonical,
      State.holdArrival_canonical, State.performInbound_canonical, State.finishArrival_canonical,
      State.finish_canonical]

theorem execFabricTransactionArrival_canonical (t : Inbound) {s : State} (h_s : s.Canonical) : AnswersCanonical
    (execFabricTransactionArrival t s) := by
  unfold execFabricTransactionArrival; grind [State.Canonical, State.serveAccess_canonical, answers_next]

theorem State.servePush_canonical {s : State} (t : PushArrival) (last : Bool) (h_s : s.Canonical) : (State.servePush s
    t last).Canonical := by
  unfold State.servePush; grind [State.Canonical, State.receivePush_canonical, State.serveTx_canonical,
      State.holdArrival_canonical]

theorem execPushReceipt_canonical (t : PushArrival) {s : State} (h_s : s.Canonical) : AnswersCanonical
    (execPushReceipt t s) := by
  unfold execPushReceipt; grind [State.Canonical, State.servePush_canonical, answers_next]

theorem State.landElem_canonical (t : StepArrival) (a : Agent) {s : State} (i : Nat) (h_s : s.Canonical) :
    (State.landElem t a s i).Canonical := by
  unfold State.landElem; grind [State.Canonical, State.reach_canonical, State.stepElem_canonical]

theorem State.serveStep_canonical {s : State} (t : StepArrival) (last : Bool) (h_s : s.Canonical) : (State.serveStep s
    t last).Canonical := by
  unfold State.serveStep; grind [State.Canonical, State.holdArrival_canonical, State.flagPlace_canonical,
      State.landElem_canonical, State.finishArrival_canonical, State.finish_canonical, foldl_canonical]

theorem execCstepReceipt_canonical (t : StepArrival) {s : State} (h_s : s.Canonical) : AnswersCanonical
    (execCstepReceipt t s) := by
  unfold execCstepReceipt; grind [State.Canonical, State.serveStep_canonical, answers_next]

theorem State.serveNotice_canonical {s : State} (ctx : Nat) (flag : Nat) (last : Bool) (h_s : s.Canonical) :
    (State.serveNotice s ctx flag last).Canonical := by
  unfold State.serveNotice; grind [State.Canonical, State.flagPlace_canonical, State.atFlag_canonical,
      State.holdArrival_canonical]

theorem State.answerFabric_canonical {s : State} (tag : Nat) (mapped : Bool) (h_s : s.Canonical) : (State.answerFabric
    s tag mapped).Canonical := by
  unfold State.answerFabric; grind [State.Canonical, State.serveAccess_canonical, State.servePush_canonical,
      State.landSelf_canonical, State.serveStep_canonical, State.serveNotice_canonical, foldl_canonical]

theorem State.failLane_canonical {s : State} (pend : Nat) (lane : Nat) (ea : Word64) (c : Cause) (h_s : s.Canonical) :
    (State.failLane s pend lane ea c).Canonical := by
  unfold State.failLane; grind [State.Canonical, State.killLate_canonical, State.onWarp_canonical]

theorem State.laneAnswered_canonical {s : State} (peer : Nat) (pend : Nat) (lane : Nat) (part : Nat) (loc : Nat) (job
    : Job) (res : Nat) (h_s : s.Canonical) : (State.laneAnswered s peer pend lane part loc job res).Canonical := by
  unfold State.laneAnswered; grind [State.Canonical, State.failLane_canonical, State.performPart_canonical,
      State.onWarp_canonical]

theorem State.dropStrays_canonical {s : State} (cmd : Nat) (h_s : s.Canonical) : (State.dropStrays s cmd).Canonical :=
    by
  unfold State.dropStrays; grind [State.Canonical]

theorem execFabricAcknowledgement_canonical (k : Nat) (res : Nat) {s : State} (h_s : s.Canonical) : AnswersCanonical
    (execFabricAcknowledgement k res s) := by
  unfold execFabricAcknowledgement; grind [State.Canonical, State.dropTx_canonical, State.as_canonical,
      State.laneAnswered_canonical, State.ackCommand_canonical, State.dropStrays_canonical, answers_next]

theorem State.lostBit_canonical {s : State} (h_s : s.Canonical) : (State.lostBit s).1.Canonical := by
  unfold State.lostBit; grind [State.Canonical]

theorem State.laneLost_canonical {s : State} (peer : Nat) (pend : Nat) (lane : Nat) (part : Nat) (loc : Nat) (job :
    Job) (h_s : s.Canonical) : (State.laneLost s peer pend lane part loc job).Canonical := by
  unfold State.laneLost; grind [State.Canonical, load_canonical, State.lostBit_canonical, State.performLane_canonical,
      State.killLate_canonical]

theorem State.commandLost_canonical {s : State} (c : Command) (part : Nat) (h_s : s.Canonical) : (State.commandLost s
    c part).Canonical := by
  unfold State.commandLost; grind [State.Canonical, State.lostBit_canonical, State.moveRange_canonical,
      State.stepWhole_canonical]

theorem State.sendNotice_canonical {s : State} (c : Command) (h_s : s.Canonical) : (State.sendNotice s c).Canonical :=
    by
  unfold State.sendNotice; grind [State.Canonical, State.lostBit_canonical, State.flagPlace_canonical,
      State.atFlag_canonical]

theorem execFabricRetransmission_canonical (k : Nat) {s : State} (h_s : s.Canonical) : AnswersCanonical
    (execFabricRetransmission k s) := by
  unfold execFabricRetransmission; grind [State.Canonical, State.again_canonical, State.setContext_canonical,
      State.dropTx_canonical, State.as_canonical, State.laneLost_canonical, State.commandLost_canonical,
      State.sendNotice_canonical, State.engineFault_canonical, State.dropStrays_canonical, answers_next]

theorem execCollfailNotice_canonical (sender : Nat) (ctx : Nat) (collid : Nat) (rflag : Nat) {s : State} (h_s :
    s.Canonical) : AnswersCanonical (execCollfailNotice sender ctx collid rflag s) := by
  unfold execCollfailNotice; grind [State.Canonical, State.setContext_canonical, State.serveNotice_canonical,
      State.engineFault_canonical, State.dropStrays_canonical, foldl_canonical, answers_next]

theorem execLinkFlitResend_canonical (port : Nat) {s : State} (h_s : s.Canonical) : AnswersCanonical
    (execLinkFlitResend port s) := by
  unfold execLinkFlitResend; grind [State.Canonical, answers_next]

theorem execPortFailure_canonical (port : Nat) {s : State} (h_s : s.Canonical) : AnswersCanonical (execPortFailure
    port s) := by
  unfold execPortFailure; grind [State.Canonical, answers_next]

theorem State.snoopSector_canonical {s : State} (lo : Nat) (h_s : s.Canonical) : (State.snoopSector s lo).Canonical :=
    by
  unfold State.snoopSector; grind [State.Canonical, State.recall_canonical, State.pushWords_canonical]

theorem execHostSnoop_canonical (sector : Nat) {s : State} (h_s : s.Canonical) : AnswersCanonical (execHostSnoop
    sector s) := by
  unfold execHostSnoop; grind [State.Canonical, State.snoopSector_canonical, answers_next]

theorem State.snoopLine_canonical {s : State} (line : Nat) (h_s : s.Canonical) : (State.snoopLine s line).Canonical :=
    by
  unfold State.snoopLine; grind [State.Canonical, State.recall_canonical, State.pushWords_canonical,
      State.llcFlush_canonical]

theorem execBackInvalidateSnoop_canonical (line : Nat) {s : State} (h_s : s.Canonical) : AnswersCanonical
    (execBackInvalidateSnoop line s) := by
  unfold execBackInvalidateSnoop; grind [State.Canonical, State.snoopLine_canonical, answers_next]

/-! ## EventSystem.lean -/

theorem State.answerStall_canonical {s : State} (tag : Nat) (mapped : Bool) (h_s : s.Canonical) : (State.answerStall s
    tag mapped).Canonical := by
  unfold State.answerStall; grind [State.Canonical, State.mapWarp_canonical, foldl_canonical]

theorem State.answerGrid_canonical {s : State} (tag : Nat) (mapped : Bool) (h_s : s.Canonical) : (State.answerGrid s
    tag mapped).Canonical := by
  unfold State.answerGrid; grind [State.Canonical, State.mapGrid_canonical, State.acceptGrid_canonical,
      State.endGrid_canonical, State.statusFails_canonical, State.settleDeps_canonical, foldl_canonical]

theorem State.answerLog_canonical {s : State} (tag : Nat) (mapped : Bool) (h_s : s.Canonical) : (State.answerLog s tag
    mapped).Canonical := by
  unfold State.answerLog; grind [State.Canonical, State.answer_canonical]

theorem State.answerCommand_canonical {s : State} (tag : Nat) (mapped : Bool) (h_s : s.Canonical) :
    (State.answerCommand s tag mapped).Canonical := by
  unfold State.answerCommand; grind [State.Canonical, State.mapCommand_canonical, State.engineFault_canonical,
      foldl_canonical]

theorem State.answerFault_canonical {s : State} (tag : Nat) (mapped : Bool) (h_s : s.Canonical) : (State.answerFault s
    tag mapped).Canonical := by
  unfold State.answerFault; grind [State.Canonical, State.answerStall_canonical, State.answerGrid_canonical,
      State.answerLog_canonical, State.answerCommand_canonical, State.answerFabric_canonical]

theorem execStalledPageFaultMapped_canonical (tag : Nat) {s : State} (h_s : s.Canonical) : AnswersCanonical
    (execStalledPageFaultMapped tag s) := by
  unfold execStalledPageFaultMapped; grind [State.Canonical, State.answerStall_canonical, State.answerGrid_canonical,
      answers_next]

theorem State.clearLost_canonical {s : State} (v : Word64) (h_s : s.Canonical) : (State.clearLost s v).Canonical := by
  unfold State.clearLost; grind [State.Canonical]

theorem hostTakes_canonical (p : State × List Byte) (h_p : p.1.Canonical) : (hostTakes p).Canonical := by
  exact h_p

theorem execHostMemAccess_canonical (a : HostAccess) {s : State} (h_s : s.Canonical) : AnswersCanonical
    (execHostMemAccess a s) := by
  cases a <;> (unfold execHostMemAccess; apply answers_next; dsimp only)
  · split
    · exact hostTakes_canonical _ (State.readAt_canonical _ _ _ _ h_s)
    · exact h_s
  · split
    · exact State.writeAt_canonical _ _ _ _ _ h_s
    · exact h_s
  · split
    · exact h_s
    · exact foldl_canonical _ _ h_s fun _ _ h => State.snoopSector_canonical _ h
  · split
    · exact h_s
    · exact State.poke_canonical _ _ (foldl_canonical _ _ h_s fun _ _ h => State.snoopSector_canonical _ h)
  · split
    · exact h_s
    · exact State.poke_canonical _ _ (foldl_canonical _ _ h_s fun _ _ h => State.snoopLine_canonical _ h)
  · split <;> exact h_s

theorem execEvlostClear_canonical (v : BitVec 64) {s : State} (h_s : s.Canonical) : AnswersCanonical (execEvlostClear
    v s) := by
  unfold execEvlostClear; grind [State.Canonical, State.clearLost_canonical, answers_next]

theorem execRegisterWrite_canonical (off : Nat) (size : Nat) (v : BitVec 64) {s : State} (h_s : s.Canonical) :
    AnswersCanonical (execRegisterWrite off size v s) := by
  unfold execRegisterWrite; grind [State.Canonical, State.clearLost_canonical, execLaunchQueueTail_canonical,
      execLaunchQueueErrorClear_canonical, answers_next]

theorem State.respond_canonical {s : State} (tag : Nat) (refused : Bool) (ctx : Nat) (h_s : s.Canonical) :
    (State.respond s tag refused ctx).Canonical := by
  unfold State.respond; grind [State.Canonical, State.post_canonical]

theorem mailbox_canonical (op : Nat) (act : MailCommand → State → Option State) {s : State} (h_act : ∀ (y0 :
    MailCommand) (y1 : State), y1.Canonical → ∀ t, act y0 y1 = some t → t.Canonical) (h_s : s.Canonical) :
    AnswersCanonical (mailbox op act s) := by
  unfold mailbox
  apply answers_next
  split
  · exact h_s
  · dsimp only
    have h1 : ∀ b, State.Canonical { s with mailbox := b } := fun _ => h_s
    split
    · exact State.respond_canonical _ _ _ (h1 _)
    split
    · exact h_s
    split
    · exact State.respond_canonical _ _ _ (h1 _)
    · exact getD_canonical (fun t ht => h_act _ _ (h1 _) t ht) (State.respond_canonical _ _ _ (h1 _))

theorem execCtxnew_canonical {s : State} (h_s : s.Canonical) : AnswersCanonical (execCtxnew s) := by
  refine mailbox_canonical _ _ (fun c s hs t ht => ?_) h_s
  dsimp only at ht
  split at ht
  · cases ht
  · obtain ⟨n, -, rfl⟩ := Option.map_eq_some_iff.1 ht
    have h1 : ∀ cs tb, State.Canonical { s with contexts := cs, tlb := tb } := fun _ _ => hs
    exact State.respond_canonical _ _ _ (State.llcResplit_canonical (h1 _ _))

theorem execCtxend_canonical {s : State} (h_s : s.Canonical) : AnswersCanonical (execCtxend s) := by
  refine mailbox_canonical _ _ (fun c s hs t ht => ?_) h_s
  dsimp only at ht
  obtain ⟨n, -, rfl⟩ := Option.map_eq_some_iff.1 ht
  exact State.respond_canonical _ _ _ (State.endContext_canonical _ _ _ hs)

theorem execQinit_canonical {s : State} (h_s : s.Canonical) : AnswersCanonical (execQinit s) := by
  unfold execQinit; grind [State.Canonical, mailbox_canonical, State.mapQueue_canonical, State.respond_canonical,
      answers_next]

theorem State.clearPartition_canonical {s : State} (ctx : Nat) (h_s : s.Canonical) : (State.clearPartition s
    ctx).Canonical := by
  have h1 : ∀ q ps, State.Canonical { s with mem := s.mem.filter q, poison := ps } := fun q _ => Memory.wf_filter h_s
      q
  exact h1 _ _

theorem execPsgrant_canonical {s : State} (h_s : s.Canonical) : AnswersCanonical (execPsgrant s) := by
  unfold execPsgrant; grind [State.Canonical, mailbox_canonical, State.clearPartition_canonical,
      State.setContext_canonical, State.llcResplit_canonical, State.respond_canonical, answers_next]

theorem execDebugMark_canonical {s : State} (h_s : s.Canonical) : AnswersCanonical (execDebugMark s) := by
  unfold execDebugMark; grind [State.Canonical, mailbox_canonical, State.setContext_canonical,
      State.respond_canonical, answers_next]

theorem execTlbflush_canonical {s : State} (h_s : s.Canonical) : AnswersCanonical (execTlbflush s) := by
  unfold execTlbflush; grind [State.Canonical, mailbox_canonical, State.startShootdown_canonical,
      State.endShootdowns_canonical, answers_next]

theorem execFaultdone_canonical {s : State} (h_s : s.Canonical) : AnswersCanonical (execFaultdone s) := by
  unfold execFaultdone; grind [State.Canonical, mailbox_canonical, State.answerFault_canonical,
      State.respond_canonical, answers_next]

theorem execAttest_canonical {s : State} (h_s : s.Canonical) : AnswersCanonical (execAttest s) := by
  unfold execAttest; grind [State.Canonical, mailbox_canonical, State.poke_canonical, State.respond_canonical,
      answers_next]

theorem State.packageReset_canonical {s : State} (bootOk : Bool) (reports : List SiteReport) (h_s : s.Canonical) :
    (State.packageReset s bootOk reports).Canonical := by
  unfold State.packageReset; grind [State.Canonical]

theorem execPackageReset_canonical (bootOk : Bool) (reports : List SiteReport) {s : State} (h_s : s.Canonical) :
    AnswersCanonical (execPackageReset bootOk reports s) := by
  unfold execPackageReset; grind [State.Canonical, State.packageReset_canonical, answers_next]

theorem execSiteReadmission_canonical (site : Nat) (r : SiteReport) {s : State} (h_s : s.Canonical) : AnswersCanonical
    (execSiteReadmission site r s) := by
  unfold execSiteReadmission; grind [State.Canonical, State.mapSite_canonical, answers_next]

theorem execFencedMessageDrop_canonical (site : Nat) (admission : BitVec 32) {s : State} (h_s : s.Canonical) :
    AnswersCanonical (execFencedMessageDrop site admission s) := by
  unfold execFencedMessageDrop; grind [State.Canonical, State.mapSite_canonical, answers_next]

theorem State.loseLines_canonical {s : State} (site : Nat) (h_s : s.Canonical) : (State.loseLines s site).Canonical :=
    by
  unfold State.loseLines; grind [State.Canonical, State.markPoison_canonical, foldl_canonical]

theorem State.loseWords_canonical {s : State} (site : Nat) (h_s : s.Canonical) : (State.loseWords s site).Canonical :=
    by
  unfold State.loseWords; grind [State.Canonical, State.markPoison_canonical, State.loseLines_canonical,
      foldl_canonical]

theorem State.dropSite_canonical {s : State} (site : Nat) (h_s : s.Canonical) : (State.dropSite s site).Canonical :=
    by
  unfold State.dropSite; grind [State.Canonical, State.unwait_canonical, State.admitLocks_canonical,
      State.endShootdowns_canonical, foldl_canonical]

theorem State.fenceKill_canonical {s : State} (cs : List Nat) (h_s : s.Canonical) : (State.fenceKill s cs).Canonical
    := by
  unfold State.fenceKill; grind [State.Canonical, State.endContext_canonical, foldl_canonical]

theorem State.fenceSite_canonical {s : State} (site : Nat) (h_s : s.Canonical) : (State.fenceSite s site).Canonical :=
    by
  unfold State.fenceSite; grind [State.Canonical, State.mapSite_canonical, State.loseWords_canonical,
      State.fenceKill_canonical, State.dropSite_canonical]

theorem State.fenceMemoryDie_canonical {s : State} (d : Nat) (h_s : s.Canonical) : (State.fenceMemoryDie s
    d).Canonical := by
  unfold State.fenceMemoryDie; grind [State.Canonical, State.fenceKill_canonical, State.llcResplit_canonical]

theorem State.fenceIoDie_canonical {s : State} (h_s : s.Canonical) : (State.fenceIoDie s).Canonical := by
  unfold State.fenceIoDie; grind [State.Canonical, State.fenceKill_canonical]

theorem execUncorrectableError_canonical (e : ErrorSite) {s : State} (h_s : s.Canonical) : AnswersCanonical
    (execUncorrectableError e s) := by
  unfold execUncorrectableError; grind [State.Canonical, State.markPoison_canonical, State.mapWarp_canonical,
      State.setMatrix_canonical, State.fenceSite_canonical, State.fenceMemoryDie_canonical,
      State.packageReset_canonical, State.fenceIoDie_canonical, answers_next]

/-! ## Timers.lean -/

theorem State.tickLocks_canonical {s : State} (n : Nat) (h_s : s.Canonical) : (State.tickLocks s n).Canonical := by
  unfold State.tickLocks; grind [State.Canonical]

theorem State.tickMonitors_canonical {s : State} (n : Nat) (h_s : s.Canonical) : (State.tickMonitors s n).Canonical :=
    by
  unfold State.tickMonitors; grind [State.Canonical]

theorem State.tickParked_canonical {s : State} (n : Nat) (h_s : s.Canonical) : (State.tickParked s n).Canonical := by
  unfold State.tickParked; grind [State.Canonical]

theorem State.tick_canonical {s : State} (n : Nat) (h_s : s.Canonical) : (State.tick s n).Canonical := by
  unfold State.tick; grind [State.Canonical, State.tickLocks_canonical, State.tickMonitors_canonical,
      State.tickParked_canonical]

end Sys2Proof.Machine
end

