-- ==== Sys2Proof/Laws/Issue.lean ====
section
/-! SUPPORT. What issue, a result in time and the move to the next unit do: one lemma says it for each, and the lemmas
about instructions rest on these. -/

set_option Elab.async false

namespace Sys2Proof.Machine

/-! ## Issue (R58) -/

theorem State.gate_of_ready {s : State} {n : Need} (h : s.Ready n) : s.gate n = .go := by
  obtain ⟨⟨h1, h2⟩, h3, h4, h5, h6, h7, h8, h9⟩ := h
  have hl : (n.level2 && decide (s.gridLevel < 2)) = false := by
    cases hn : n.level2
    · simp
    · have := h5 hn
      simp; omega
  have hd : (n.dests.any fun d => !s.warp.full d) = false := by
    simpa [List.any_eq_false] using h7
  have hs : (n.srcs.any fun q => !s.warp.full q.1) = false := by
    simp only [List.any_eq_false]
    intro q hq; simp [h8 q hq]
  have hs' : (n.srcs.any fun q => !q.2 && !s.warp.full q.1) = false := by
    simp only [List.any_eq_false]
    intro q hq; simp [h8 q hq]
  have hp : (!n.poisonOk && n.srcs.any fun q => s.warp.scalarPoison q.1) = false := by
    rcases h9 with h9 | h9
    · simp [h9]
    · have : (n.srcs.any fun q => s.warp.scalarPoison q.1) = false := by
        simp only [List.any_eq_false]
        intro q hq; simp [h9 q hq]
      simp [this]
  unfold State.gate
  simp only [h1, h2, h3, h4, h6, hl, hd, hs, hs', hp]
  rfl

/-- A unit that is ready takes its effect. -/
theorem State.issue_ready {s : State} {n : Need} (h : s.Ready n) (e : State → State) : s.issue n e = .next (e s) := by
  unfold State.issue; rw [State.gate_of_ready h]

/-- A unit answers a next state whatever its operands are. -/
theorem State.issue_next (s : State) (n : Need) (e : State → State) : ∃ t, s.issue n e = .next t := by
  unfold State.issue; split <;> exact ⟨_, rfl⟩

/-! ## Results in time -/

theorem State.finish_prompt {s : State} (h : s.Prompt) (ws : List RegWrite) (fl : BitVec 5) :
    s.finish ws fl = { s with delays := s.delays.tail,
                              warp := { s.warp.applyAll ws with fpflags := s.warp.fpflags ||| fl } } := by
  unfold State.finish State.Prompt at *
  split
  · rename_i t ht; simp [ht] at h
  · rfl

/-! ## Registers -/

@[simp] theorem Warp.readS_zero (w : Warp) : w.readS 0 = 0 := by simp [Warp.readS]

@[simp] theorem Warp.writeS_zero (w : Warp) (x : Word64) : w.writeS 0 x = w := by simp [Warp.writeS]

/-- What a write of a scalar register leaves in it. -/
theorem Warp.holdsS_writeS (w : Warp) (r : Fin 64) (x : Word64) : (w.writeS r x).HoldsS r x := by
  by_cases h : r = 0
  · subst h; exact ⟨by simp, by simp [Warp.full], fun h => absurd rfl h⟩
  · refine ⟨?_, ?_, fun _ => ?_⟩ <;> simp [Warp.writeS, Warp.readS, Warp.full, h]

theorem Warp.writeS_registers (w : Warp) (r : Fin 64) (x : Word64) : w.OnlyRegisters (w.writeS r x) := by
  unfold Warp.OnlyRegisters Warp.writeS; split <;> rfl

theorem Warp.writeS_keeps (w : Warp) (r : Fin 64) (x : Word64) : w.Keeps (w.writeS r x) [.s r] := by
  refine ⟨fun q hq => ?_, fun q _ => ?_⟩
  · have hne : r.val ≠ q.val := fun h => hq (by simp [Fin.ext h.symm])
    unfold Warp.writeS; split <;> simp [Vector.getElem_set_ne, hne]
  · unfold Warp.writeS; split <;> simp

theorem Warp.writeV_registers (w : Warp) (r : Fin 64) (m : Word32) (x : VReg) : w.OnlyRegisters (w.writeV r m x) := rfl

theorem Warp.writeV_keeps (w : Warp) (r : Fin 64) (m : Word32) (x : VReg) : w.Keeps (w.writeV r m x) [.v r] := by
  refine ⟨fun q _ => ?_, fun q hq => ?_⟩
  · simp [Warp.writeV]
  · have hne : r.val ≠ q.val := fun h => hq (by simp [Fin.ext h.symm])
    simp [Warp.writeV, Vector.getElem_set_ne, hne]

theorem Warp.OnlyRegisters.trans {a b c : Warp} (h : a.OnlyRegisters b) (g : b.OnlyRegisters c) : a.OnlyRegisters c := by
  unfold Warp.OnlyRegisters at *; rw [g, h]

/-- Flags and the place of the fragment may change besides. -/
theorem Warp.OnlyRegisters.moved {a b : Warp} (h : a.OnlyRegisters b) (fl : BitVec 5) (f : Fragment) :
    a.OnlyRegisters { b with fpflags := fl, frag := f } := by
  cases a; cases b
  simp_all [Warp.OnlyRegisters]

theorem Warp.Keeps.trans {a b c : Warp} {ds es : List Reg} (h : a.Keeps b ds) (g : b.Keeps c es) : a.Keeps c (ds ++ es) := by
  refine ⟨fun r hr => ?_, fun r hr => ?_⟩
  · simp only [List.mem_append, not_or] at hr
    have h1 := h.scalar r hr.1; have g1 := g.scalar r hr.2
    exact ⟨g1.1.trans h1.1, g1.2.1.trans h1.2.1, g1.2.2.trans h1.2.2⟩
  · simp only [List.mem_append, not_or] at hr
    have h1 := h.vector r hr.1; have g1 := g.vector r hr.2
    exact ⟨g1.1.trans h1.1, g1.2.1.trans h1.2.1, g1.2.2.trans h1.2.2⟩

theorem Warp.OnlyRegisters.refl (w : Warp) : w.OnlyRegisters w := rfl
theorem Warp.Keeps.refl (w : Warp) (ds : List Reg) : w.Keeps w ds :=
  ⟨fun _ _ => ⟨rfl, rfl, rfl⟩, fun _ _ => ⟨rfl, rfl, rfl⟩⟩

theorem Warp.Keeps.mono {a b : Warp} {ds es : List Reg} (h : a.Keeps b ds) (g : ∀ r ∈ ds, r ∈ es) : a.Keeps b es :=
  ⟨fun r hr => h.scalar r fun hm => hr (g _ hm), fun r hr => h.vector r fun hm => hr (g _ hm)⟩

/-- Writes touch the registers that they name alone. -/
theorem Warp.applyAll_registers (ws : List RegWrite) : ∀ w : Warp, w.OnlyRegisters (w.applyAll ws) := by
  induction ws with
  | nil => intro w; exact .refl w
  | cons a l ih =>
    intro w
    refine Warp.OnlyRegisters.trans ?_ (ih (w.apply a))
    cases a with
    | s r x => exact w.writeS_registers r x
    | v r m x => exact w.writeV_registers r m x

theorem Warp.applyAll_keeps (ws : List RegWrite) : ∀ w : Warp, w.Keeps (w.applyAll ws) (ws.map RegWrite.reg) := by
  induction ws with
  | nil => intro w; exact .refl w _
  | cons a l ih =>
    intro w
    have h : w.Keeps (w.apply a) [a.reg] := by
      cases a with
      | s r x => exact w.writeS_keeps r x
      | v r m x => exact w.writeV_keeps r m x
    exact h.trans (ih (w.apply a))

/-! ## A unit that writes registers and goes on -/

/-- Results in time, flags, and the move to the next unit. -/
theorem State.finish_advance_did {s : State} (h : s.Prompt) (ws : List RegWrite) (fl : BitVec 5) :
    Did s (s.finish ws fl).advance (ws.map RegWrite.reg) s.next := by
  rw [State.finish_prompt h]
  refine ⟨⟨rfl, fun _ => rfl⟩, ?_, ?_, ?_⟩
  · exact (Warp.applyAll_registers ws s.warp).moved _ _
  · have h1 := Warp.applyAll_keeps ws s.warp
    exact ⟨h1.scalar, h1.vector⟩
  · have h1 : (s.warp.applyAll ws).frag = s.warp.frag := by
      clear h
      induction ws generalizing s with
      | nil => rfl
      | cons a l ih =>
        have h2 : (s.warp.apply a).frag = s.warp.frag := by
          cases a with
          | s r x => unfold Warp.apply Warp.writeS; dsimp only; split <;> rfl
          | v r m x => rfl
        exact (ih (s := { s with warp := s.warp.apply a })).trans h2
    unfold Fragment.MovedTo State.next
    show (Warp.advance _).frag = _
    unfold Warp.advance Warp.goto
    simp only [h1]
    rfl

/-- A scalar result. -/
theorem State.scalarResult_did {s : State} (h : s.Prompt) (d : Fin 64) (x : Word64) :
    Did s (s.scalarResult d x) [.s d] s.next ∧ (s.scalarResult d x).warp.HoldsS d x
    ∧ (s.scalarResult d x).warp.fpflags = s.warp.fpflags := by
  refine ⟨State.finish_advance_did h [.s d x] 0, ?_, ?_⟩
  · have h1 := Warp.holdsS_writeS s.warp d x
    unfold State.scalarResult
    rw [State.finish_prompt h]
    exact ⟨h1.value, h1.full, h1.clean⟩
  · unfold State.scalarResult
    rw [State.finish_prompt h]
    simp [State.advance, State.onWarp, Warp.advance, Warp.goto]

end Sys2Proof.Machine
end

