-- ==== Sys2Proof/Laws/PerInstr.lean ====
section
/-! SUPPORT. The round trip of each instruction's word (O-numbers in OBLIGATIONS.json name the statement for all of
them): what the encoder writes, the decoder reads back, field by field. -/

set_option Elab.async false

namespace Sys2Proof.Laws.RoundTrip

/-- Decoding the encoding of a well-formed instruction gives it back. -/
def Statement (i : Instr) : Prop := i.wellFormed = true → ∀ w, encode i = [w] → decodeWord w = some i

theorem fieldAt_eq {lo n w : Nat} [NeZero n] (f : Fin n) (h : w / 2 ^ lo % n = f.val) : fieldAt lo n w = f := Fin.ext h

theorem bitAt_eq {lo w : Nat} (x : Bool) (h : w / 2 ^ lo % 2 = x.toNat) : bitAt lo w = x := by
  cases x <;> simp_all [bitAt]

theorem ofNat_eq {n w : Nat} (x : BitVec n) (h : w % 2 ^ n = x.toNat) : BitVec.ofNat n w = x := BitVec.eq_of_toNat_eq h

/-- The statement follows from what the decoder reads in the number that the encoder writes. -/
theorem of_word {i : Instr} {e : Nat} (h : word? i = some e)
    (hd : ∀ w, w = e → w < 4294967296 ∧ rawDecode w = some i) : Statement i := by
  intro hf w hw
  obtain ⟨hlt, hr⟩ := hd e rfl
  have hw' : BitVec.ofNat 32 e = w := by simpa [encode, h] using hw
  have hn : w.toNat = e := by rw [← hw', BitVec.toNat_ofNat]; exact Nat.mod_eq_of_lt hlt
  simp [decodeWord, hn, hr, hf]

/-- An operation or event has no word. -/
theorem of_none {i : Instr} (h : word? i = none) : Statement i := by
  intro _ w hw
  simp [encode, h] at hw

theorem raw01 {w : Nat} (k : w / 67108864 = 1) : rawDecode w = decode01 w := by unfold rawDecode; rw [k]; rfl
theorem raw04 {w : Nat} (k : w / 67108864 = 4) : rawDecode w = decode04 w := by unfold rawDecode; rw [k]; rfl
theorem raw05 {w : Nat} (k : w / 67108864 = 5) : rawDecode w = decode05 w := by unfold rawDecode; rw [k]; rfl
theorem raw06 {w : Nat} (k : w / 67108864 = 6) : rawDecode w = decode06 w := by unfold rawDecode; rw [k]; rfl
theorem raw08 {w : Nat} (k : w / 67108864 = 8) : rawDecode w = decode08 w := by unfold rawDecode; rw [k]; rfl
theorem raw09 {w : Nat} (k : w / 67108864 = 9) : rawDecode w = decode09 w := by unfold rawDecode; rw [k]; rfl
theorem raw0A {w : Nat} (k : w / 67108864 = 10) : rawDecode w = decode0A w := by unfold rawDecode; rw [k]; rfl
theorem raw0B {w : Nat} (k : w / 67108864 = 11) : rawDecode w = decode0B w := by unfold rawDecode; rw [k]; rfl
theorem raw0C {w : Nat} (k : w / 67108864 = 12) : rawDecode w = decode0C w := by unfold rawDecode; rw [k]; rfl
theorem raw0D {w : Nat} (k : w / 67108864 = 13) : rawDecode w = decode0D w := by unfold rawDecode; rw [k]; rfl
theorem raw10 {w : Nat} (k : w / 67108864 = 16) : rawDecode w = decode10 w := by unfold rawDecode; rw [k]; rfl
theorem raw11 {w : Nat} (k : w / 67108864 = 17) : rawDecode w = decode11 w := by unfold rawDecode; rw [k]; rfl
theorem raw12 {w : Nat} (k : w / 67108864 = 18) : rawDecode w = decode12 w := by unfold rawDecode; rw [k]; rfl
theorem raw13 {w : Nat} (k : w / 67108864 = 19) : rawDecode w = decode13 w := by unfold rawDecode; rw [k]; rfl
theorem raw14 {w : Nat} (k : w / 67108864 = 20) : rawDecode w = decode14 w := by unfold rawDecode; rw [k]; rfl
theorem raw15 {w : Nat} (k : w / 67108864 = 21) : rawDecode w = decode15 w := by unfold rawDecode; rw [k]; rfl
theorem raw16 {w : Nat} (k : w / 67108864 = 22) : rawDecode w = decode16 w := by unfold rawDecode; rw [k]; rfl
theorem raw17 {w : Nat} (k : w / 67108864 = 23) : rawDecode w = decode17 w := by unfold rawDecode; rw [k]; rfl
theorem raw18 {w : Nat} (k : w / 67108864 = 24) : rawDecode w = decode18 w := by unfold rawDecode; rw [k]; rfl
theorem raw19 {w : Nat} (k : w / 67108864 = 25) : rawDecode w = decode19 w := by unfold rawDecode; rw [k]; rfl
theorem raw1A {w : Nat} (k : w / 67108864 = 26) : rawDecode w = decode1A w := by unfold rawDecode; rw [k]; rfl
theorem raw1B {w : Nat} (k : w / 67108864 = 27) : rawDecode w = decode1B w := by unfold rawDecode; rw [k]; rfl
theorem raw1C {w : Nat} (k : w / 67108864 = 28) : rawDecode w = decode1C w := by unfold rawDecode; rw [k]; rfl
theorem raw1D {w : Nat} (k : w / 67108864 = 29) : rawDecode w = decode1D w := by unfold rawDecode; rw [k]; rfl
theorem raw1E {w : Nat} (k : w / 67108864 = 30) : rawDecode w = decode1E w := by unfold rawDecode; rw [k]; rfl
theorem raw1F {w : Nat} (k : w / 67108864 = 31) : rawDecode w = decode1F w := by unfold rawDecode; rw [k]; rfl
theorem raw20 {w : Nat} (k : w / 67108864 = 32) : rawDecode w = decode20 w := by unfold rawDecode; rw [k]; rfl
theorem raw22 {w : Nat} (k : w / 67108864 = 34) : rawDecode w = decode22 w := by unfold rawDecode; rw [k]; rfl
theorem raw23 {w : Nat} (k : w / 67108864 = 35) : rawDecode w = decode23 w := by unfold rawDecode; rw [k]; rfl
theorem raw24 {w : Nat} (k : w / 67108864 = 36) : rawDecode w = decode24 w := by unfold rawDecode; rw [k]; rfl
theorem raw25 {w : Nat} (k : w / 67108864 = 37) : rawDecode w = decode25 w := by unfold rawDecode; rw [k]; rfl
theorem raw26 {w : Nat} (k : w / 67108864 = 38) : rawDecode w = decode26 w := by unfold rawDecode; rw [k]; rfl
theorem raw27 {w : Nat} (k : w / 67108864 = 39) : rawDecode w = decode27 w := by unfold rawDecode; rw [k]; rfl
theorem raw28 {w : Nat} (k : w / 67108864 = 40) : rawDecode w = decode28 w := by unfold rawDecode; rw [k]; rfl
theorem raw29 {w : Nat} (k : w / 67108864 = 41) : rawDecode w = decode29 w := by unfold rawDecode; rw [k]; rfl
theorem raw2A {w : Nat} (k : w / 67108864 = 42) : rawDecode w = decode2A w := by unfold rawDecode; rw [k]; rfl
theorem raw2B {w : Nat} (k : w / 67108864 = 43) : rawDecode w = decode2B w := by unfold rawDecode; rw [k]; rfl
theorem raw2C {w : Nat} (k : w / 67108864 = 44) : rawDecode w = decode2C w := by unfold rawDecode; rw [k]; rfl
theorem raw2D {w : Nat} (k : w / 67108864 = 45) : rawDecode w = decode2D w := by unfold rawDecode; rw [k]; rfl
theorem raw2E {w : Nat} (k : w / 67108864 = 46) : rawDecode w = decode2E w := by unfold rawDecode; rw [k]; rfl
theorem raw2F {w : Nat} (k : w / 67108864 = 47) : rawDecode w = decode2F w := by unfold rawDecode; rw [k]; rfl
theorem raw30 {w : Nat} (k : w / 67108864 = 48) : rawDecode w = decode30 w := by unfold rawDecode; rw [k]; rfl
theorem raw34 {w : Nat} (k : w / 67108864 = 52) : rawDecode w = decode34 w := by unfold rawDecode; rw [k]; rfl
theorem raw38 {w : Nat} (k : w / 67108864 = 56) : rawDecode w = decode38 w := by unfold rawDecode; rw [k]; rfl
theorem raw39 {w : Nat} (k : w / 67108864 = 57) : rawDecode w = decode39 w := by unfold rawDecode; rw [k]; rfl
theorem raw3A {w : Nat} (k : w / 67108864 = 58) : rawDecode w = decode3A w := by unfold rawDecode; rw [k]; rfl
theorem raw3B {w : Nat} (k : w / 67108864 = 59) : rawDecode w = decode3B w := by unfold rawDecode; rw [k]; rfl

theorem layout1 (f0 : BitVec 22) {w : Nat} (m : Nat) (c : Nat) (hm : m < 64) (hc : c < 16)
     (hw : w = m * 67108864 + c * 4194304 + f0.toNat) :
     w < 4294967296 ∧ w / 67108864 = m ∧ w / 4194304 % 16 = c ∧ BitVec.ofNat 22 w = f0 := by
  have h0 := f0.isLt
  exact ⟨by omega, by omega, by omega, ofNat_eq f0 (by omega)⟩

theorem himm (f0 : BitVec 22) : Statement (.himm f0) := by
  refine of_word rfl fun w hw => ?_
  obtain ⟨hl, k, c, e0⟩ := layout1 f0 1 0 (by decide) (by decide) hw
  refine ⟨hl, (raw01 k).trans ?_⟩
  unfold decode01
  rw [c]
  exact congrArg some (by rw [e0])

theorem hblk (f0 : BitVec 22) : Statement (.hblk f0) := by
  refine of_word rfl fun w hw => ?_
  obtain ⟨hl, k, c, e0⟩ := layout1 f0 1 1 (by decide) (by decide) hw
  refine ⟨hl, (raw01 k).trans ?_⟩
  unfold decode01
  rw [c]
  exact congrArg some (by rw [e0])

theorem hmod (f0 : BitVec 22) : Statement (.hmod f0) := by
  refine of_word rfl fun w hw => ?_
  obtain ⟨hl, k, c, e0⟩ := layout1 f0 1 2 (by decide) (by decide) hw
  refine ⟨hl, (raw01 k).trans ?_⟩
  unfold decode01
  rw [c]
  exact congrArg some (by rw [e0])

theorem hsch (f0 : BitVec 22) : Statement (.hsch f0) := by
  refine of_word rfl fun w hw => ?_
  obtain ⟨hl, k, c, e0⟩ := layout1 f0 1 3 (by decide) (by decide) hw
  refine ⟨hl, (raw01 k).trans ?_⟩
  unfold decode01
  rw [c]
  exact congrArg some (by rw [e0])

theorem layout2 (f0 : Fin 64) (f1 : Fin 64) (f2 : Fin 64) (f3 : Bool) (f4 : Bool) {w : Nat} (m : Nat) (c : Nat) (hm : m < 64) (hc : c < 64)
     (hw : w = m * 67108864 + c * 4 + f0.val * 1048576 + f1.val * 16384 + f2.val * 256 + f3.toNat * 2 + f4.toNat) :
     w < 4294967296 ∧ w / 67108864 = m ∧ w / 4 % 64 = c ∧ fieldAt 20 64 w = f0 ∧ fieldAt 14 64 w = f1 ∧ fieldAt 8 64 w = f2 ∧ bitAt 1 w = f3 ∧ bitAt 0 w = f4 := by
  have h0 := f0.isLt
  have h1 := f1.isLt
  have h2 := f2.isLt
  have h3 := f3.toNat_le
  have h4 := f4.toNat_le
  exact ⟨by omega, by omega, by omega, fieldAt_eq f0 (by omega), fieldAt_eq f1 (by omega), fieldAt_eq f2 (by omega), bitAt_eq f3 (by omega), bitAt_eq f4 (by omega)⟩

theorem sadd (f0 : Fin 64) (f1 : Fin 64) (f2 : Fin 64) (f3 : Bool) (f4 : Bool) : Statement (.sadd f0 f1 f2 f3 f4) := by
  refine of_word rfl fun w hw => ?_
  obtain ⟨hl, k, c, e0, e1, e2, e3, e4⟩ := layout2 f0 f1 f2 f3 f4 4 0 (by decide) (by decide) hw
  refine ⟨hl, (raw04 k).trans ?_⟩
  unfold decode04
  rw [c]
  exact congrArg some (by rw [e0, e1, e2, e3, e4])

theorem ssub (f0 : Fin 64) (f1 : Fin 64) (f2 : Fin 64) (f3 : Bool) (f4 : Bool) : Statement (.ssub f0 f1 f2 f3 f4) := by
  refine of_word rfl fun w hw => ?_
  obtain ⟨hl, k, c, e0, e1, e2, e3, e4⟩ := layout2 f0 f1 f2 f3 f4 4 1 (by decide) (by decide) hw
  refine ⟨hl, (raw04 k).trans ?_⟩
  unfold decode04
  rw [c]
  exact congrArg some (by rw [e0, e1, e2, e3, e4])

theorem smul (f0 : Fin 64) (f1 : Fin 64) (f2 : Fin 64) (f3 : Bool) (f4 : Bool) : Statement (.smul f0 f1 f2 f3 f4) := by
  refine of_word rfl fun w hw => ?_
  obtain ⟨hl, k, c, e0, e1, e2, e3, e4⟩ := layout2 f0 f1 f2 f3 f4 4 2 (by decide) (by decide) hw
  refine ⟨hl, (raw04 k).trans ?_⟩
  unfold decode04
  rw [c]
  exact congrArg some (by rw [e0, e1, e2, e3, e4])

theorem smulh (f0 : Fin 64) (f1 : Fin 64) (f2 : Fin 64) (f3 : Bool) (f4 : Bool) : Statement (.smulh f0 f1 f2 f3 f4) := by
  refine of_word rfl fun w hw => ?_
  obtain ⟨hl, k, c, e0, e1, e2, e3, e4⟩ := layout2 f0 f1 f2 f3 f4 4 3 (by decide) (by decide) hw
  refine ⟨hl, (raw04 k).trans ?_⟩
  unfold decode04
  rw [c]
  exact congrArg some (by rw [e0, e1, e2, e3, e4])

theorem smulhz (f0 : Fin 64) (f1 : Fin 64) (f2 : Fin 64) (f3 : Bool) (f4 : Bool) : Statement (.smulhz f0 f1 f2 f3 f4) := by
  refine of_word rfl fun w hw => ?_
  obtain ⟨hl, k, c, e0, e1, e2, e3, e4⟩ := layout2 f0 f1 f2 f3 f4 4 4 (by decide) (by decide) hw
  refine ⟨hl, (raw04 k).trans ?_⟩
  unfold decode04
  rw [c]
  exact congrArg some (by rw [e0, e1, e2, e3, e4])

theorem sdiv (f0 : Fin 64) (f1 : Fin 64) (f2 : Fin 64) (f3 : Bool) (f4 : Bool) : Statement (.sdiv f0 f1 f2 f3 f4) := by
  refine of_word rfl fun w hw => ?_
  obtain ⟨hl, k, c, e0, e1, e2, e3, e4⟩ := layout2 f0 f1 f2 f3 f4 4 5 (by decide) (by decide) hw
  refine ⟨hl, (raw04 k).trans ?_⟩
  unfold decode04
  rw [c]
  exact congrArg some (by rw [e0, e1, e2, e3, e4])

theorem sdivz (f0 : Fin 64) (f1 : Fin 64) (f2 : Fin 64) (f3 : Bool) (f4 : Bool) : Statement (.sdivz f0 f1 f2 f3 f4) := by
  refine of_word rfl fun w hw => ?_
  obtain ⟨hl, k, c, e0, e1, e2, e3, e4⟩ := layout2 f0 f1 f2 f3 f4 4 6 (by decide) (by decide) hw
  refine ⟨hl, (raw04 k).trans ?_⟩
  unfold decode04
  rw [c]
  exact congrArg some (by rw [e0, e1, e2, e3, e4])

theorem srem (f0 : Fin 64) (f1 : Fin 64) (f2 : Fin 64) (f3 : Bool) (f4 : Bool) : Statement (.srem f0 f1 f2 f3 f4) := by
  refine of_word rfl fun w hw => ?_
  obtain ⟨hl, k, c, e0, e1, e2, e3, e4⟩ := layout2 f0 f1 f2 f3 f4 4 7 (by decide) (by decide) hw
  refine ⟨hl, (raw04 k).trans ?_⟩
  unfold decode04
  rw [c]
  exact congrArg some (by rw [e0, e1, e2, e3, e4])

theorem sremz (f0 : Fin 64) (f1 : Fin 64) (f2 : Fin 64) (f3 : Bool) (f4 : Bool) : Statement (.sremz f0 f1 f2 f3 f4) := by
  refine of_word rfl fun w hw => ?_
  obtain ⟨hl, k, c, e0, e1, e2, e3, e4⟩ := layout2 f0 f1 f2 f3 f4 4 8 (by decide) (by decide) hw
  refine ⟨hl, (raw04 k).trans ?_⟩
  unfold decode04
  rw [c]
  exact congrArg some (by rw [e0, e1, e2, e3, e4])

theorem sand (f0 : Fin 64) (f1 : Fin 64) (f2 : Fin 64) (f3 : Bool) (f4 : Bool) : Statement (.sand f0 f1 f2 f3 f4) := by
  refine of_word rfl fun w hw => ?_
  obtain ⟨hl, k, c, e0, e1, e2, e3, e4⟩ := layout2 f0 f1 f2 f3 f4 4 9 (by decide) (by decide) hw
  refine ⟨hl, (raw04 k).trans ?_⟩
  unfold decode04
  rw [c]
  exact congrArg some (by rw [e0, e1, e2, e3, e4])

theorem sor (f0 : Fin 64) (f1 : Fin 64) (f2 : Fin 64) (f3 : Bool) (f4 : Bool) : Statement (.sor f0 f1 f2 f3 f4) := by
  refine of_word rfl fun w hw => ?_
  obtain ⟨hl, k, c, e0, e1, e2, e3, e4⟩ := layout2 f0 f1 f2 f3 f4 4 10 (by decide) (by decide) hw
  refine ⟨hl, (raw04 k).trans ?_⟩
  unfold decode04
  rw [c]
  exact congrArg some (by rw [e0, e1, e2, e3, e4])

theorem sxor (f0 : Fin 64) (f1 : Fin 64) (f2 : Fin 64) (f3 : Bool) (f4 : Bool) : Statement (.sxor f0 f1 f2 f3 f4) := by
  refine of_word rfl fun w hw => ?_
  obtain ⟨hl, k, c, e0, e1, e2, e3, e4⟩ := layout2 f0 f1 f2 f3 f4 4 11 (by decide) (by decide) hw
  refine ⟨hl, (raw04 k).trans ?_⟩
  unfold decode04
  rw [c]
  exact congrArg some (by rw [e0, e1, e2, e3, e4])

theorem sandn (f0 : Fin 64) (f1 : Fin 64) (f2 : Fin 64) (f3 : Bool) (f4 : Bool) : Statement (.sandn f0 f1 f2 f3 f4) := by
  refine of_word rfl fun w hw => ?_
  obtain ⟨hl, k, c, e0, e1, e2, e3, e4⟩ := layout2 f0 f1 f2 f3 f4 4 12 (by decide) (by decide) hw
  refine ⟨hl, (raw04 k).trans ?_⟩
  unfold decode04
  rw [c]
  exact congrArg some (by rw [e0, e1, e2, e3, e4])

theorem sshl (f0 : Fin 64) (f1 : Fin 64) (f2 : Fin 64) (f3 : Bool) (f4 : Bool) : Statement (.sshl f0 f1 f2 f3 f4) := by
  refine of_word rfl fun w hw => ?_
  obtain ⟨hl, k, c, e0, e1, e2, e3, e4⟩ := layout2 f0 f1 f2 f3 f4 4 13 (by decide) (by decide) hw
  refine ⟨hl, (raw04 k).trans ?_⟩
  unfold decode04
  rw [c]
  exact congrArg some (by rw [e0, e1, e2, e3, e4])

theorem sshr (f0 : Fin 64) (f1 : Fin 64) (f2 : Fin 64) (f3 : Bool) (f4 : Bool) : Statement (.sshr f0 f1 f2 f3 f4) := by
  refine of_word rfl fun w hw => ?_
  obtain ⟨hl, k, c, e0, e1, e2, e3, e4⟩ := layout2 f0 f1 f2 f3 f4 4 14 (by decide) (by decide) hw
  refine ⟨hl, (raw04 k).trans ?_⟩
  unfold decode04
  rw [c]
  exact congrArg some (by rw [e0, e1, e2, e3, e4])

theorem ssra (f0 : Fin 64) (f1 : Fin 64) (f2 : Fin 64) (f3 : Bool) (f4 : Bool) : Statement (.ssra f0 f1 f2 f3 f4) := by
  refine of_word rfl fun w hw => ?_
  obtain ⟨hl, k, c, e0, e1, e2, e3, e4⟩ := layout2 f0 f1 f2 f3 f4 4 15 (by decide) (by decide) hw
  refine ⟨hl, (raw04 k).trans ?_⟩
  unfold decode04
  rw [c]
  exact congrArg some (by rw [e0, e1, e2, e3, e4])

theorem smin (f0 : Fin 64) (f1 : Fin 64) (f2 : Fin 64) (f3 : Bool) (f4 : Bool) : Statement (.smin f0 f1 f2 f3 f4) := by
  refine of_word rfl fun w hw => ?_
  obtain ⟨hl, k, c, e0, e1, e2, e3, e4⟩ := layout2 f0 f1 f2 f3 f4 4 16 (by decide) (by decide) hw
  refine ⟨hl, (raw04 k).trans ?_⟩
  unfold decode04
  rw [c]
  exact congrArg some (by rw [e0, e1, e2, e3, e4])

theorem smax (f0 : Fin 64) (f1 : Fin 64) (f2 : Fin 64) (f3 : Bool) (f4 : Bool) : Statement (.smax f0 f1 f2 f3 f4) := by
  refine of_word rfl fun w hw => ?_
  obtain ⟨hl, k, c, e0, e1, e2, e3, e4⟩ := layout2 f0 f1 f2 f3 f4 4 17 (by decide) (by decide) hw
  refine ⟨hl, (raw04 k).trans ?_⟩
  unfold decode04
  rw [c]
  exact congrArg some (by rw [e0, e1, e2, e3, e4])

theorem sminz (f0 : Fin 64) (f1 : Fin 64) (f2 : Fin 64) (f3 : Bool) (f4 : Bool) : Statement (.sminz f0 f1 f2 f3 f4) := by
  refine of_word rfl fun w hw => ?_
  obtain ⟨hl, k, c, e0, e1, e2, e3, e4⟩ := layout2 f0 f1 f2 f3 f4 4 18 (by decide) (by decide) hw
  refine ⟨hl, (raw04 k).trans ?_⟩
  unfold decode04
  rw [c]
  exact congrArg some (by rw [e0, e1, e2, e3, e4])

theorem smaxz (f0 : Fin 64) (f1 : Fin 64) (f2 : Fin 64) (f3 : Bool) (f4 : Bool) : Statement (.smaxz f0 f1 f2 f3 f4) := by
  refine of_word rfl fun w hw => ?_
  obtain ⟨hl, k, c, e0, e1, e2, e3, e4⟩ := layout2 f0 f1 f2 f3 f4 4 19 (by decide) (by decide) hw
  refine ⟨hl, (raw04 k).trans ?_⟩
  unfold decode04
  rw [c]
  exact congrArg some (by rw [e0, e1, e2, e3, e4])

theorem sceq (f0 : Fin 64) (f1 : Fin 64) (f2 : Fin 64) (f3 : Bool) (f4 : Bool) : Statement (.sceq f0 f1 f2 f3 f4) := by
  refine of_word rfl fun w hw => ?_
  obtain ⟨hl, k, c, e0, e1, e2, e3, e4⟩ := layout2 f0 f1 f2 f3 f4 4 20 (by decide) (by decide) hw
  refine ⟨hl, (raw04 k).trans ?_⟩
  unfold decode04
  rw [c]
  exact congrArg some (by rw [e0, e1, e2, e3, e4])

theorem sclt (f0 : Fin 64) (f1 : Fin 64) (f2 : Fin 64) (f3 : Bool) (f4 : Bool) : Statement (.sclt f0 f1 f2 f3 f4) := by
  refine of_word rfl fun w hw => ?_
  obtain ⟨hl, k, c, e0, e1, e2, e3, e4⟩ := layout2 f0 f1 f2 f3 f4 4 21 (by decide) (by decide) hw
  refine ⟨hl, (raw04 k).trans ?_⟩
  unfold decode04
  rw [c]
  exact congrArg some (by rw [e0, e1, e2, e3, e4])

theorem scltz (f0 : Fin 64) (f1 : Fin 64) (f2 : Fin 64) (f3 : Bool) (f4 : Bool) : Statement (.scltz f0 f1 f2 f3 f4) := by
  refine of_word rfl fun w hw => ?_
  obtain ⟨hl, k, c, e0, e1, e2, e3, e4⟩ := layout2 f0 f1 f2 f3 f4 4 22 (by decide) (by decide) hw
  refine ⟨hl, (raw04 k).trans ?_⟩
  unfold decode04
  rw [c]
  exact congrArg some (by rw [e0, e1, e2, e3, e4])

theorem layout3 (f0 : Fin 64) (f1 : Fin 64) (f2 : Bool) {w : Nat} (m : Nat) (c : Nat) (hm : m < 64) (hc : c < 64)
     (hw : w = m * 67108864 + c * 4 + f0.val * 1048576 + f1.val * 16384 + f2.toNat * 2) :
     w < 4294967296 ∧ w / 67108864 = m ∧ w / 4 % 64 = c ∧ (w % 2 = 0 ∧ w / 256 % 64 = 0) ∧ fieldAt 20 64 w = f0 ∧ fieldAt 14 64 w = f1 ∧ bitAt 1 w = f2 := by
  have h0 := f0.isLt
  have h1 := f1.isLt
  have h2 := f2.toNat_le
  exact ⟨by omega, by omega, by omega, by omega, fieldAt_eq f0 (by omega), fieldAt_eq f1 (by omega), bitAt_eq f2 (by omega)⟩

theorem sclz (f0 : Fin 64) (f1 : Fin 64) (f2 : Bool) : Statement (.sclz f0 f1 f2) := by
  refine of_word rfl fun w hw => ?_
  obtain ⟨hl, k, c, q, e0, e1, e2⟩ := layout3 f0 f1 f2 4 23 (by decide) (by decide) hw
  refine ⟨hl, (raw04 k).trans ?_⟩
  unfold decode04
  rw [c]
  exact (if_pos q).trans (by rw [e0, e1, e2])

theorem spopc (f0 : Fin 64) (f1 : Fin 64) (f2 : Bool) : Statement (.spopc f0 f1 f2) := by
  refine of_word rfl fun w hw => ?_
  obtain ⟨hl, k, c, q, e0, e1, e2⟩ := layout3 f0 f1 f2 4 24 (by decide) (by decide) hw
  refine ⟨hl, (raw04 k).trans ?_⟩
  unfold decode04
  rw [c]
  exact (if_pos q).trans (by rw [e0, e1, e2])

theorem sbrev (f0 : Fin 64) (f1 : Fin 64) (f2 : Bool) : Statement (.sbrev f0 f1 f2) := by
  refine of_word rfl fun w hw => ?_
  obtain ⟨hl, k, c, q, e0, e1, e2⟩ := layout3 f0 f1 f2 4 25 (by decide) (by decide) hw
  refine ⟨hl, (raw04 k).trans ?_⟩
  unfold decode04
  rw [c]
  exact (if_pos q).trans (by rw [e0, e1, e2])

theorem layout4 (f0 : Fin 64) (f1 : Fin 64) (f2 : BitVec 10) (f3 : Bool) {w : Nat} (m : Nat) (c : Nat) (hm : m < 64) (hc : c < 8)
     (hw : w = m * 67108864 + c * 2048 + f0.val * 1048576 + f1.val * 16384 + f2.toNat * 2 + f3.toNat) :
     w < 4294967296 ∧ w / 67108864 = m ∧ w / 2048 % 8 = c ∧ fieldAt 20 64 w = f0 ∧ fieldAt 14 64 w = f1 ∧ BitVec.ofNat 10 (w / 2) = f2 ∧ bitAt 0 w = f3 := by
  have h0 := f0.isLt
  have h1 := f1.isLt
  have h2 := f2.isLt
  have h3 := f3.toNat_le
  exact ⟨by omega, by omega, by omega, fieldAt_eq f0 (by omega), fieldAt_eq f1 (by omega), ofNat_eq f2 (by omega), bitAt_eq f3 (by omega)⟩

theorem saddi (f0 : Fin 64) (f1 : Fin 64) (f2 : BitVec 10) (f3 : Bool) : Statement (.saddi f0 f1 f2 f3) := by
  refine of_word rfl fun w hw => ?_
  obtain ⟨hl, k, c, e0, e1, e2, e3⟩ := layout4 f0 f1 f2 f3 5 0 (by decide) (by decide) hw
  refine ⟨hl, (raw05 k).trans ?_⟩
  unfold decode05
  rw [c]
  exact congrArg some (by rw [e0, e1, e2, e3])

theorem sandi (f0 : Fin 64) (f1 : Fin 64) (f2 : BitVec 10) (f3 : Bool) : Statement (.sandi f0 f1 f2 f3) := by
  refine of_word rfl fun w hw => ?_
  obtain ⟨hl, k, c, e0, e1, e2, e3⟩ := layout4 f0 f1 f2 f3 5 1 (by decide) (by decide) hw
  refine ⟨hl, (raw05 k).trans ?_⟩
  unfold decode05
  rw [c]
  exact congrArg some (by rw [e0, e1, e2, e3])

theorem sori (f0 : Fin 64) (f1 : Fin 64) (f2 : BitVec 10) (f3 : Bool) : Statement (.sori f0 f1 f2 f3) := by
  refine of_word rfl fun w hw => ?_
  obtain ⟨hl, k, c, e0, e1, e2, e3⟩ := layout4 f0 f1 f2 f3 5 2 (by decide) (by decide) hw
  refine ⟨hl, (raw05 k).trans ?_⟩
  unfold decode05
  rw [c]
  exact congrArg some (by rw [e0, e1, e2, e3])

theorem sxori (f0 : Fin 64) (f1 : Fin 64) (f2 : BitVec 10) (f3 : Bool) : Statement (.sxori f0 f1 f2 f3) := by
  refine of_word rfl fun w hw => ?_
  obtain ⟨hl, k, c, e0, e1, e2, e3⟩ := layout4 f0 f1 f2 f3 5 3 (by decide) (by decide) hw
  refine ⟨hl, (raw05 k).trans ?_⟩
  unfold decode05
  rw [c]
  exact congrArg some (by rw [e0, e1, e2, e3])

theorem sshli (f0 : Fin 64) (f1 : Fin 64) (f2 : BitVec 10) (f3 : Bool) : Statement (.sshli f0 f1 f2 f3) := by
  refine of_word rfl fun w hw => ?_
  obtain ⟨hl, k, c, e0, e1, e2, e3⟩ := layout4 f0 f1 f2 f3 5 4 (by decide) (by decide) hw
  refine ⟨hl, (raw05 k).trans ?_⟩
  unfold decode05
  rw [c]
  exact congrArg some (by rw [e0, e1, e2, e3])

theorem sshri (f0 : Fin 64) (f1 : Fin 64) (f2 : BitVec 10) (f3 : Bool) : Statement (.sshri f0 f1 f2 f3) := by
  refine of_word rfl fun w hw => ?_
  obtain ⟨hl, k, c, e0, e1, e2, e3⟩ := layout4 f0 f1 f2 f3 5 5 (by decide) (by decide) hw
  refine ⟨hl, (raw05 k).trans ?_⟩
  unfold decode05
  rw [c]
  exact congrArg some (by rw [e0, e1, e2, e3])

theorem ssrai (f0 : Fin 64) (f1 : Fin 64) (f2 : BitVec 10) (f3 : Bool) : Statement (.ssrai f0 f1 f2 f3) := by
  refine of_word rfl fun w hw => ?_
  obtain ⟨hl, k, c, e0, e1, e2, e3⟩ := layout4 f0 f1 f2 f3 5 6 (by decide) (by decide) hw
  refine ⟨hl, (raw05 k).trans ?_⟩
  unfold decode05
  rw [c]
  exact congrArg some (by rw [e0, e1, e2, e3])

theorem sclti (f0 : Fin 64) (f1 : Fin 64) (f2 : BitVec 10) (f3 : Bool) : Statement (.sclti f0 f1 f2 f3) := by
  refine of_word rfl fun w hw => ?_
  obtain ⟨hl, k, c, e0, e1, e2, e3⟩ := layout4 f0 f1 f2 f3 5 7 (by decide) (by decide) hw
  refine ⟨hl, (raw05 k).trans ?_⟩
  unfold decode05
  rw [c]
  exact congrArg some (by rw [e0, e1, e2, e3])

theorem layout5 (f0 : Fin 64) (f1 : BitVec 10) {w : Nat} (m : Nat) (c : Nat) (hm : m < 64) (hc : c < 8)
     (hw : w = m * 67108864 + c * 2048 + f0.val * 1048576 + f1.toNat * 2) :
     w < 4294967296 ∧ w / 67108864 = m ∧ w / 2048 % 8 = c ∧ (w % 2 = 0 ∧ w / 16384 % 64 = 0) ∧ fieldAt 20 64 w = f0 ∧ BitVec.ofNat 10 (w / 2) = f1 := by
  have h0 := f0.isLt
  have h1 := f1.isLt
  exact ⟨by omega, by omega, by omega, by omega, fieldAt_eq f0 (by omega), ofNat_eq f1 (by omega)⟩

theorem sli (f0 : Fin 64) (f1 : BitVec 10) : Statement (.sli f0 f1) := by
  refine of_word rfl fun w hw => ?_
  obtain ⟨hl, k, c, q, e0, e1⟩ := layout5 f0 f1 6 0 (by decide) (by decide) hw
  refine ⟨hl, (raw06 k).trans ?_⟩
  unfold decode06
  rw [c]
  exact (if_pos q).trans (by rw [e0, e1])

theorem slih (f0 : Fin 64) (f1 : Fin 64) (f2 : BitVec 10) (f3 : Bool) : Statement (.slih f0 f1 f2 f3) := by
  refine of_word rfl fun w hw => ?_
  obtain ⟨hl, k, c, e0, e1, e2, e3⟩ := layout4 f0 f1 f2 f3 6 1 (by decide) (by decide) hw
  refine ⟨hl, (raw06 k).trans ?_⟩
  unfold decode06
  rw [c]
  exact congrArg some (by rw [e0, e1, e2, e3])

theorem saddpc (f0 : Fin 64) (f1 : BitVec 10) : Statement (.saddpc f0 f1) := by
  refine of_word rfl fun w hw => ?_
  obtain ⟨hl, k, c, q, e0, e1⟩ := layout5 f0 f1 6 2 (by decide) (by decide) hw
  refine ⟨hl, (raw06 k).trans ?_⟩
  unfold decode06
  rw [c]
  exact (if_pos q).trans (by rw [e0, e1])

theorem enter (f0 : Fin 64) (f1 : BitVec 10) : Statement (.enter f0 f1) := by
  refine of_word rfl fun w hw => ?_
  obtain ⟨hl, k, c, q, e0, e1⟩ := layout5 f0 f1 6 3 (by decide) (by decide) hw
  refine ⟨hl, (raw06 k).trans ?_⟩
  unfold decode06
  rw [c]
  exact (if_pos q).trans (by rw [e0, e1])

theorem layout6 (f0 : BitVec 10) {w : Nat} (m : Nat) (c : Nat) (hm : m < 64) (hc : c < 8)
     (hw : w = m * 67108864 + c * 2048 + f0.toNat * 2) :
     w < 4294967296 ∧ w / 67108864 = m ∧ w / 2048 % 8 = c ∧ (w % 2 = 0 ∧ w / 16384 % 4096 = 0) ∧ BitVec.ofNat 10 (w / 2) = f0 := by
  have h0 := f0.isLt
  exact ⟨by omega, by omega, by omega, by omega, ofNat_eq f0 (by omega)⟩

theorem leave (f0 : BitVec 10) : Statement (.leave f0) := by
  refine of_word rfl fun w hw => ?_
  obtain ⟨hl, k, c, q, e0⟩ := layout6 f0 6 4 (by decide) (by decide) hw
  refine ⟨hl, (raw06 k).trans ?_⟩
  unfold decode06
  rw [c]
  exact (if_pos q).trans (by rw [e0])

theorem layout7 (f0 : Fin 64) (f1 : BitVec 17) {w : Nat} (m : Nat) (c : Nat) (hm : m < 64) (hc : c < 8)
     (hw : w = m * 67108864 + c * 8388608 + f0.val * 131072 + f1.toNat) :
     w < 4294967296 ∧ w / 67108864 = m ∧ w / 8388608 % 8 = c ∧ fieldAt 17 64 w = f0 ∧ BitVec.ofNat 17 w = f1 := by
  have h0 := f0.isLt
  have h1 := f1.isLt
  exact ⟨by omega, by omega, by omega, fieldAt_eq f0 (by omega), ofNat_eq f1 (by omega)⟩

theorem beqz (f0 : Fin 64) (f1 : BitVec 17) : Statement (.beqz f0 f1) := by
  refine of_word rfl fun w hw => ?_
  obtain ⟨hl, k, c, e0, e1⟩ := layout7 f0 f1 8 0 (by decide) (by decide) hw
  refine ⟨hl, (raw08 k).trans ?_⟩
  unfold decode08
  rw [c]
  exact congrArg some (by rw [e0, e1])

theorem bnez (f0 : Fin 64) (f1 : BitVec 17) : Statement (.bnez f0 f1) := by
  refine of_word rfl fun w hw => ?_
  obtain ⟨hl, k, c, e0, e1⟩ := layout7 f0 f1 8 1 (by decide) (by decide) hw
  refine ⟨hl, (raw08 k).trans ?_⟩
  unfold decode08
  rw [c]
  exact congrArg some (by rw [e0, e1])

theorem bltz (f0 : Fin 64) (f1 : BitVec 17) : Statement (.bltz f0 f1) := by
  refine of_word rfl fun w hw => ?_
  obtain ⟨hl, k, c, e0, e1⟩ := layout7 f0 f1 8 2 (by decide) (by decide) hw
  refine ⟨hl, (raw08 k).trans ?_⟩
  unfold decode08
  rw [c]
  exact congrArg some (by rw [e0, e1])

theorem bgez (f0 : Fin 64) (f1 : BitVec 17) : Statement (.bgez f0 f1) := by
  refine of_word rfl fun w hw => ?_
  obtain ⟨hl, k, c, e0, e1⟩ := layout7 f0 f1 8 3 (by decide) (by decide) hw
  refine ⟨hl, (raw08 k).trans ?_⟩
  unfold decode08
  rw [c]
  exact congrArg some (by rw [e0, e1])

theorem blez (f0 : Fin 64) (f1 : BitVec 17) : Statement (.blez f0 f1) := by
  refine of_word rfl fun w hw => ?_
  obtain ⟨hl, k, c, e0, e1⟩ := layout7 f0 f1 8 4 (by decide) (by decide) hw
  refine ⟨hl, (raw08 k).trans ?_⟩
  unfold decode08
  rw [c]
  exact congrArg some (by rw [e0, e1])

theorem bgtz (f0 : Fin 64) (f1 : BitVec 17) : Statement (.bgtz f0 f1) := by
  refine of_word rfl fun w hw => ?_
  obtain ⟨hl, k, c, e0, e1⟩ := layout7 f0 f1 8 5 (by decide) (by decide) hw
  refine ⟨hl, (raw08 k).trans ?_⟩
  unfold decode08
  rw [c]
  exact congrArg some (by rw [e0, e1])

theorem layout8 (f0 : BitVec 17) {w : Nat} (m : Nat) (c : Nat) (hm : m < 64) (hc : c < 8)
     (hw : w = m * 67108864 + c * 8388608 + f0.toNat) :
     w < 4294967296 ∧ w / 67108864 = m ∧ w / 8388608 % 8 = c ∧ (w / 131072 % 64 = 0) ∧ BitVec.ofNat 17 w = f0 := by
  have h0 := f0.isLt
  exact ⟨by omega, by omega, by omega, by omega, ofNat_eq f0 (by omega)⟩

theorem bra (f0 : BitVec 17) : Statement (.bra f0) := by
  refine of_word rfl fun w hw => ?_
  obtain ⟨hl, k, c, q, e0⟩ := layout8 f0 8 6 (by decide) (by decide) hw
  refine ⟨hl, (raw08 k).trans ?_⟩
  unfold decode08
  rw [c]
  exact (if_pos q).trans (by rw [e0])

theorem layout9 (f0 : BitVec 26) {w : Nat} (m : Nat) (hm : m < 64)
     (hw : w = m * 67108864 + f0.toNat) :
     w < 4294967296 ∧ w / 67108864 = m ∧ BitVec.ofNat 26 w = f0 := by
  have h0 := f0.isLt
  exact ⟨by omega, by omega, ofNat_eq f0 (by omega)⟩

theorem call (f0 : BitVec 26) : Statement (.call f0) := by
  refine of_word rfl fun w hw => ?_
  obtain ⟨hl, k, e0⟩ := layout9 f0 9 (by decide) hw
  refine ⟨hl, (raw09 k).trans ?_⟩
  unfold decode09
  exact congrArg some (by rw [e0])

theorem jmp (f0 : BitVec 26) : Statement (.jmp f0) := by
  refine of_word rfl fun w hw => ?_
  obtain ⟨hl, k, e0⟩ := layout9 f0 10 (by decide) hw
  refine ⟨hl, (raw0A k).trans ?_⟩
  unfold decode0A
  exact congrArg some (by rw [e0])

theorem layout10 {w : Nat} (m : Nat) (c : Nat) (hm : m < 64) (hc : c < 64)
     (hw : w = m * 67108864 + c * 4) :
     w < 4294967296 ∧ w / 67108864 = m ∧ w / 4 % 64 = c ∧ (w % 4 = 0 ∧ w / 256 % 262144 = 0) := by
  exact ⟨by omega, by omega, by omega, by omega⟩

theorem nop : Statement (.nop) := by
  refine of_word rfl fun w hw => ?_
  obtain ⟨hl, k, c, q⟩ := layout10  11 0 (by decide) (by decide) hw
  refine ⟨hl, (raw0B k).trans ?_⟩
  unfold decode0B
  rw [c]
  exact (if_pos q).trans (rfl)

theorem layout11 (f0 : Fin 64) (f1 : Bool) {w : Nat} (m : Nat) (c : Nat) (hm : m < 64) (hc : c < 64)
     (hw : w = m * 67108864 + c * 4 + f0.val * 16384 + f1.toNat * 2) :
     w < 4294967296 ∧ w / 67108864 = m ∧ w / 4 % 64 = c ∧ (w % 2 = 0 ∧ w / 256 % 64 = 0 ∧ w / 1048576 % 64 = 0) ∧ fieldAt 14 64 w = f0 ∧ bitAt 1 w = f1 := by
  have h0 := f0.isLt
  have h1 := f1.toNat_le
  exact ⟨by omega, by omega, by omega, by omega, fieldAt_eq f0 (by omega), bitAt_eq f1 (by omega)⟩

theorem jr (f0 : Fin 64) (f1 : Bool) : Statement (.jr f0 f1) := by
  refine of_word rfl fun w hw => ?_
  obtain ⟨hl, k, c, q, e0, e1⟩ := layout11 f0 f1 11 1 (by decide) (by decide) hw
  refine ⟨hl, (raw0B k).trans ?_⟩
  unfold decode0B
  rw [c]
  exact (if_pos q).trans (by rw [e0, e1])

theorem callr (f0 : Fin 64) (f1 : Bool) : Statement (.callr f0 f1) := by
  refine of_word rfl fun w hw => ?_
  obtain ⟨hl, k, c, q, e0, e1⟩ := layout11 f0 f1 11 2 (by decide) (by decide) hw
  refine ⟨hl, (raw0B k).trans ?_⟩
  unfold decode0B
  rw [c]
  exact (if_pos q).trans (by rw [e0, e1])

theorem ret : Statement (.ret) := by
  refine of_word rfl fun w hw => ?_
  obtain ⟨hl, k, c, q⟩ := layout10  11 3 (by decide) (by decide) hw
  refine ⟨hl, (raw0B k).trans ?_⟩
  unfold decode0B
  rw [c]
  exact (if_pos q).trans (rfl)

theorem exit : Statement (.exit) := by
  refine of_word rfl fun w hw => ?_
  obtain ⟨hl, k, c, q⟩ := layout10  11 4 (by decide) (by decide) hw
  refine ⟨hl, (raw0B k).trans ?_⟩
  unfold decode0B
  rw [c]
  exact (if_pos q).trans (rfl)

theorem brk : Statement (.brk) := by
  refine of_word rfl fun w hw => ?_
  obtain ⟨hl, k, c, q⟩ := layout10  11 5 (by decide) (by decide) hw
  refine ⟨hl, (raw0B k).trans ?_⟩
  unfold decode0B
  rw [c]
  exact (if_pos q).trans (rfl)

theorem layout12 (f0 : Fin 64) {w : Nat} (m : Nat) (c : Nat) (hm : m < 64) (hc : c < 64)
     (hw : w = m * 67108864 + c * 4 + f0.val * 256) :
     w < 4294967296 ∧ w / 67108864 = m ∧ w / 4 % 64 = c ∧ (w % 4 = 0 ∧ w / 16384 % 4096 = 0) ∧ fieldAt 8 64 w = f0 := by
  have h0 := f0.isLt
  exact ⟨by omega, by omega, by omega, by omega, fieldAt_eq f0 (by omega)⟩

theorem trap (f0 : Fin 64) : Statement (.trap f0) := by
  refine of_word rfl fun w hw => ?_
  obtain ⟨hl, k, c, q, e0⟩ := layout12 f0 11 6 (by decide) (by decide) hw
  refine ⟨hl, (raw0B k).trans ?_⟩
  unfold decode0B
  rw [c]
  exact (if_pos q).trans (by rw [e0])

theorem yield : Statement (.yield) := by
  refine of_word rfl fun w hw => ?_
  obtain ⟨hl, k, c, q⟩ := layout10  11 7 (by decide) (by decide) hw
  refine ⟨hl, (raw0B k).trans ?_⟩
  unfold decode0B
  rw [c]
  exact (if_pos q).trans (rfl)

theorem layout13 (f0 : Fin 8) (f1 : BitVec 17) {w : Nat} (m : Nat) (c : Nat) (hm : m < 64) (hc : c < 2)
     (hw : w = m * 67108864 + c * 4194304 + f0.val * 8388608 + f1.toNat) :
     w < 4294967296 ∧ w / 67108864 = m ∧ w / 4194304 % 2 = c ∧ (w / 131072 % 32 = 0) ∧ fieldAt 23 8 w = f0 ∧ BitVec.ofNat 17 w = f1 := by
  have h0 := f0.isLt
  have h1 := f1.isLt
  exact ⟨by omega, by omega, by omega, by omega, fieldAt_eq f0 (by omega), ofNat_eq f1 (by omega)⟩

theorem brvt (f0 : Fin 8) (f1 : BitVec 17) : Statement (.brvt f0 f1) := by
  refine of_word rfl fun w hw => ?_
  obtain ⟨hl, k, c, q, e0, e1⟩ := layout13 f0 f1 12 0 (by decide) (by decide) hw
  refine ⟨hl, (raw0C k).trans ?_⟩
  unfold decode0C
  rw [c]
  exact (if_pos q).trans (by rw [e0, e1])

theorem brvf (f0 : Fin 8) (f1 : BitVec 17) : Statement (.brvf f0 f1) := by
  refine of_word rfl fun w hw => ?_
  obtain ⟨hl, k, c, q, e0, e1⟩ := layout13 f0 f1 12 1 (by decide) (by decide) hw
  refine ⟨hl, (raw0C k).trans ?_⟩
  unfold decode0C
  rw [c]
  exact (if_pos q).trans (by rw [e0, e1])

theorem fuse (f0 : Fin 64) : Statement (.fuse f0) := by
  refine of_word rfl fun w hw => ?_
  obtain ⟨hl, k, c, q, e0⟩ := layout12 f0 13 0 (by decide) (by decide) hw
  refine ⟨hl, (raw0D k).trans ?_⟩
  unfold decode0D
  rw [c]
  exact (if_pos q).trans (by rw [e0])

theorem layout14 (f0 : Fin 8) (f1 : Fin 64) (f2 : Bool) {w : Nat} (m : Nat) (c : Nat) (hm : m < 64) (hc : c < 64)
     (hw : w = m * 67108864 + c * 4 + f0.val * 1048576 + f1.val * 16384 + f2.toNat * 2) :
     w < 4294967296 ∧ w / 67108864 = m ∧ w / 4 % 64 = c ∧ (w % 2 = 0 ∧ w / 256 % 64 = 0 ∧ w / 1048576 % 64 < 8) ∧ fieldAt 20 8 w = f0 ∧ fieldAt 14 64 w = f1 ∧ bitAt 1 w = f2 := by
  have h0 := f0.isLt
  have h1 := f1.isLt
  have h2 := f2.toNat_le
  exact ⟨by omega, by omega, by omega, by omega, fieldAt_eq f0 (by omega), fieldAt_eq f1 (by omega), bitAt_eq f2 (by omega)⟩

theorem mset (f0 : Fin 8) (f1 : Fin 64) (f2 : Bool) : Statement (.mset f0 f1 f2) := by
  refine of_word rfl fun w hw => ?_
  obtain ⟨hl, k, c, q, e0, e1, e2⟩ := layout14 f0 f1 f2 13 1 (by decide) (by decide) hw
  refine ⟨hl, (raw0D k).trans ?_⟩
  unfold decode0D
  rw [c]
  exact (if_pos q).trans (by rw [e0, e1, e2])

theorem layout15 (f0 : Fin 64) (f1 : Fin 8) {w : Nat} (m : Nat) (c : Nat) (hm : m < 64) (hc : c < 64)
     (hw : w = m * 67108864 + c * 4 + f0.val * 1048576 + f1.val * 16384) :
     w < 4294967296 ∧ w / 67108864 = m ∧ w / 4 % 64 = c ∧ (w % 4 = 0 ∧ w / 256 % 64 = 0 ∧ w / 16384 % 64 < 8) ∧ fieldAt 20 64 w = f0 ∧ fieldAt 14 8 w = f1 := by
  have h0 := f0.isLt
  have h1 := f1.isLt
  exact ⟨by omega, by omega, by omega, by omega, fieldAt_eq f0 (by omega), fieldAt_eq f1 (by omega)⟩

theorem mget (f0 : Fin 64) (f1 : Fin 8) : Statement (.mget f0 f1) := by
  refine of_word rfl fun w hw => ?_
  obtain ⟨hl, k, c, q, e0, e1⟩ := layout15 f0 f1 13 2 (by decide) (by decide) hw
  refine ⟨hl, (raw0D k).trans ?_⟩
  unfold decode0D
  rw [c]
  exact (if_pos q).trans (by rw [e0, e1])

theorem layout16 (f0 : Fin 8) (f1 : Fin 8) (f2 : Fin 8) {w : Nat} (m : Nat) (c : Nat) (hm : m < 64) (hc : c < 64)
     (hw : w = m * 67108864 + c * 4 + f0.val * 1048576 + f1.val * 16384 + f2.val * 256) :
     w < 4294967296 ∧ w / 67108864 = m ∧ w / 4 % 64 = c ∧ (w % 4 = 0 ∧ w / 1048576 % 64 < 8 ∧ w / 16384 % 64 < 8 ∧ w / 256 % 64 < 8) ∧ fieldAt 20 8 w = f0 ∧ fieldAt 14 8 w = f1 ∧ fieldAt 8 8 w = f2 := by
  have h0 := f0.isLt
  have h1 := f1.isLt
  have h2 := f2.isLt
  exact ⟨by omega, by omega, by omega, by omega, fieldAt_eq f0 (by omega), fieldAt_eq f1 (by omega), fieldAt_eq f2 (by omega)⟩

theorem mand (f0 : Fin 8) (f1 : Fin 8) (f2 : Fin 8) : Statement (.mand f0 f1 f2) := by
  refine of_word rfl fun w hw => ?_
  obtain ⟨hl, k, c, q, e0, e1, e2⟩ := layout16 f0 f1 f2 13 3 (by decide) (by decide) hw
  refine ⟨hl, (raw0D k).trans ?_⟩
  unfold decode0D
  rw [c]
  exact (if_pos q).trans (by rw [e0, e1, e2])

theorem mor (f0 : Fin 8) (f1 : Fin 8) (f2 : Fin 8) : Statement (.mor f0 f1 f2) := by
  refine of_word rfl fun w hw => ?_
  obtain ⟨hl, k, c, q, e0, e1, e2⟩ := layout16 f0 f1 f2 13 4 (by decide) (by decide) hw
  refine ⟨hl, (raw0D k).trans ?_⟩
  unfold decode0D
  rw [c]
  exact (if_pos q).trans (by rw [e0, e1, e2])

theorem mxor (f0 : Fin 8) (f1 : Fin 8) (f2 : Fin 8) : Statement (.mxor f0 f1 f2) := by
  refine of_word rfl fun w hw => ?_
  obtain ⟨hl, k, c, q, e0, e1, e2⟩ := layout16 f0 f1 f2 13 5 (by decide) (by decide) hw
  refine ⟨hl, (raw0D k).trans ?_⟩
  unfold decode0D
  rw [c]
  exact (if_pos q).trans (by rw [e0, e1, e2])

theorem mandn (f0 : Fin 8) (f1 : Fin 8) (f2 : Fin 8) : Statement (.mandn f0 f1 f2) := by
  refine of_word rfl fun w hw => ?_
  obtain ⟨hl, k, c, q, e0, e1, e2⟩ := layout16 f0 f1 f2 13 6 (by decide) (by decide) hw
  refine ⟨hl, (raw0D k).trans ?_⟩
  unfold decode0D
  rw [c]
  exact (if_pos q).trans (by rw [e0, e1, e2])

theorem layout17 (f0 : Fin 8) (f1 : Fin 8) {w : Nat} (m : Nat) (c : Nat) (hm : m < 64) (hc : c < 64)
     (hw : w = m * 67108864 + c * 4 + f0.val * 1048576 + f1.val * 16384) :
     w < 4294967296 ∧ w / 67108864 = m ∧ w / 4 % 64 = c ∧ (w % 4 = 0 ∧ w / 256 % 64 = 0 ∧ w / 1048576 % 64 < 8 ∧ w / 16384 % 64 < 8) ∧ fieldAt 20 8 w = f0 ∧ fieldAt 14 8 w = f1 := by
  have h0 := f0.isLt
  have h1 := f1.isLt
  exact ⟨by omega, by omega, by omega, by omega, fieldAt_eq f0 (by omega), fieldAt_eq f1 (by omega)⟩

theorem mnot (f0 : Fin 8) (f1 : Fin 8) : Statement (.mnot f0 f1) := by
  refine of_word rfl fun w hw => ?_
  obtain ⟨hl, k, c, q, e0, e1⟩ := layout17 f0 f1 13 7 (by decide) (by decide) hw
  refine ⟨hl, (raw0D k).trans ?_⟩
  unfold decode0D
  rw [c]
  exact (if_pos q).trans (by rw [e0, e1])

theorem mpopc (f0 : Fin 64) (f1 : Fin 8) : Statement (.mpopc f0 f1) := by
  refine of_word rfl fun w hw => ?_
  obtain ⟨hl, k, c, q, e0, e1⟩ := layout15 f0 f1 13 8 (by decide) (by decide) hw
  refine ⟨hl, (raw0D k).trans ?_⟩
  unfold decode0D
  rw [c]
  exact (if_pos q).trans (by rw [e0, e1])

theorem mffs (f0 : Fin 64) (f1 : Fin 8) : Statement (.mffs f0 f1) := by
  refine of_word rfl fun w hw => ?_
  obtain ⟨hl, k, c, q, e0, e1⟩ := layout15 f0 f1 13 9 (by decide) (by decide) hw
  refine ⟨hl, (raw0D k).trans ?_⟩
  unfold decode0D
  rw [c]
  exact (if_pos q).trans (by rw [e0, e1])

theorem mlive (f0 : Fin 8) (f1 : Fin 8) : Statement (.mlive f0 f1) := by
  refine of_word rfl fun w hw => ?_
  obtain ⟨hl, k, c, q, e0, e1⟩ := layout17 f0 f1 13 10 (by decide) (by decide) hw
  refine ⟨hl, (raw0D k).trans ?_⟩
  unfold decode0D
  rw [c]
  exact (if_pos q).trans (by rw [e0, e1])

theorem vadd (f0 : Fin 64) (f1 : Fin 64) (f2 : Fin 64) (f3 : Bool) (f4 : Bool) : Statement (.vadd f0 f1 f2 f3 f4) := by
  refine of_word rfl fun w hw => ?_
  obtain ⟨hl, k, c, e0, e1, e2, e3, e4⟩ := layout2 f0 f1 f2 f3 f4 16 0 (by decide) (by decide) hw
  refine ⟨hl, (raw10 k).trans ?_⟩
  unfold decode10
  rw [c]
  exact congrArg some (by rw [e0, e1, e2, e3, e4])

theorem vsub (f0 : Fin 64) (f1 : Fin 64) (f2 : Fin 64) (f3 : Bool) (f4 : Bool) : Statement (.vsub f0 f1 f2 f3 f4) := by
  refine of_word rfl fun w hw => ?_
  obtain ⟨hl, k, c, e0, e1, e2, e3, e4⟩ := layout2 f0 f1 f2 f3 f4 16 1 (by decide) (by decide) hw
  refine ⟨hl, (raw10 k).trans ?_⟩
  unfold decode10
  rw [c]
  exact congrArg some (by rw [e0, e1, e2, e3, e4])

theorem vmul (f0 : Fin 64) (f1 : Fin 64) (f2 : Fin 64) (f3 : Bool) (f4 : Bool) : Statement (.vmul f0 f1 f2 f3 f4) := by
  refine of_word rfl fun w hw => ?_
  obtain ⟨hl, k, c, e0, e1, e2, e3, e4⟩ := layout2 f0 f1 f2 f3 f4 16 2 (by decide) (by decide) hw
  refine ⟨hl, (raw10 k).trans ?_⟩
  unfold decode10
  rw [c]
  exact congrArg some (by rw [e0, e1, e2, e3, e4])

theorem vmulh (f0 : Fin 64) (f1 : Fin 64) (f2 : Fin 64) (f3 : Bool) (f4 : Bool) : Statement (.vmulh f0 f1 f2 f3 f4) := by
  refine of_word rfl fun w hw => ?_
  obtain ⟨hl, k, c, e0, e1, e2, e3, e4⟩ := layout2 f0 f1 f2 f3 f4 16 3 (by decide) (by decide) hw
  refine ⟨hl, (raw10 k).trans ?_⟩
  unfold decode10
  rw [c]
  exact congrArg some (by rw [e0, e1, e2, e3, e4])

theorem vmulhz (f0 : Fin 64) (f1 : Fin 64) (f2 : Fin 64) (f3 : Bool) (f4 : Bool) : Statement (.vmulhz f0 f1 f2 f3 f4) := by
  refine of_word rfl fun w hw => ?_
  obtain ⟨hl, k, c, e0, e1, e2, e3, e4⟩ := layout2 f0 f1 f2 f3 f4 16 4 (by decide) (by decide) hw
  refine ⟨hl, (raw10 k).trans ?_⟩
  unfold decode10
  rw [c]
  exact congrArg some (by rw [e0, e1, e2, e3, e4])

theorem vmin (f0 : Fin 64) (f1 : Fin 64) (f2 : Fin 64) (f3 : Bool) (f4 : Bool) : Statement (.vmin f0 f1 f2 f3 f4) := by
  refine of_word rfl fun w hw => ?_
  obtain ⟨hl, k, c, e0, e1, e2, e3, e4⟩ := layout2 f0 f1 f2 f3 f4 16 5 (by decide) (by decide) hw
  refine ⟨hl, (raw10 k).trans ?_⟩
  unfold decode10
  rw [c]
  exact congrArg some (by rw [e0, e1, e2, e3, e4])

theorem vmax (f0 : Fin 64) (f1 : Fin 64) (f2 : Fin 64) (f3 : Bool) (f4 : Bool) : Statement (.vmax f0 f1 f2 f3 f4) := by
  refine of_word rfl fun w hw => ?_
  obtain ⟨hl, k, c, e0, e1, e2, e3, e4⟩ := layout2 f0 f1 f2 f3 f4 16 6 (by decide) (by decide) hw
  refine ⟨hl, (raw10 k).trans ?_⟩
  unfold decode10
  rw [c]
  exact congrArg some (by rw [e0, e1, e2, e3, e4])

theorem vminz (f0 : Fin 64) (f1 : Fin 64) (f2 : Fin 64) (f3 : Bool) (f4 : Bool) : Statement (.vminz f0 f1 f2 f3 f4) := by
  refine of_word rfl fun w hw => ?_
  obtain ⟨hl, k, c, e0, e1, e2, e3, e4⟩ := layout2 f0 f1 f2 f3 f4 16 7 (by decide) (by decide) hw
  refine ⟨hl, (raw10 k).trans ?_⟩
  unfold decode10
  rw [c]
  exact congrArg some (by rw [e0, e1, e2, e3, e4])

theorem vmaxz (f0 : Fin 64) (f1 : Fin 64) (f2 : Fin 64) (f3 : Bool) (f4 : Bool) : Statement (.vmaxz f0 f1 f2 f3 f4) := by
  refine of_word rfl fun w hw => ?_
  obtain ⟨hl, k, c, e0, e1, e2, e3, e4⟩ := layout2 f0 f1 f2 f3 f4 16 8 (by decide) (by decide) hw
  refine ⟨hl, (raw10 k).trans ?_⟩
  unfold decode10
  rw [c]
  exact congrArg some (by rw [e0, e1, e2, e3, e4])

theorem vand (f0 : Fin 64) (f1 : Fin 64) (f2 : Fin 64) (f3 : Bool) (f4 : Bool) : Statement (.vand f0 f1 f2 f3 f4) := by
  refine of_word rfl fun w hw => ?_
  obtain ⟨hl, k, c, e0, e1, e2, e3, e4⟩ := layout2 f0 f1 f2 f3 f4 16 9 (by decide) (by decide) hw
  refine ⟨hl, (raw10 k).trans ?_⟩
  unfold decode10
  rw [c]
  exact congrArg some (by rw [e0, e1, e2, e3, e4])

theorem vor (f0 : Fin 64) (f1 : Fin 64) (f2 : Fin 64) (f3 : Bool) (f4 : Bool) : Statement (.vor f0 f1 f2 f3 f4) := by
  refine of_word rfl fun w hw => ?_
  obtain ⟨hl, k, c, e0, e1, e2, e3, e4⟩ := layout2 f0 f1 f2 f3 f4 16 10 (by decide) (by decide) hw
  refine ⟨hl, (raw10 k).trans ?_⟩
  unfold decode10
  rw [c]
  exact congrArg some (by rw [e0, e1, e2, e3, e4])

theorem vxor (f0 : Fin 64) (f1 : Fin 64) (f2 : Fin 64) (f3 : Bool) (f4 : Bool) : Statement (.vxor f0 f1 f2 f3 f4) := by
  refine of_word rfl fun w hw => ?_
  obtain ⟨hl, k, c, e0, e1, e2, e3, e4⟩ := layout2 f0 f1 f2 f3 f4 16 11 (by decide) (by decide) hw
  refine ⟨hl, (raw10 k).trans ?_⟩
  unfold decode10
  rw [c]
  exact congrArg some (by rw [e0, e1, e2, e3, e4])

theorem vandn (f0 : Fin 64) (f1 : Fin 64) (f2 : Fin 64) (f3 : Bool) (f4 : Bool) : Statement (.vandn f0 f1 f2 f3 f4) := by
  refine of_word rfl fun w hw => ?_
  obtain ⟨hl, k, c, e0, e1, e2, e3, e4⟩ := layout2 f0 f1 f2 f3 f4 16 12 (by decide) (by decide) hw
  refine ⟨hl, (raw10 k).trans ?_⟩
  unfold decode10
  rw [c]
  exact congrArg some (by rw [e0, e1, e2, e3, e4])

theorem vshl (f0 : Fin 64) (f1 : Fin 64) (f2 : Fin 64) (f3 : Bool) (f4 : Bool) : Statement (.vshl f0 f1 f2 f3 f4) := by
  refine of_word rfl fun w hw => ?_
  obtain ⟨hl, k, c, e0, e1, e2, e3, e4⟩ := layout2 f0 f1 f2 f3 f4 16 13 (by decide) (by decide) hw
  refine ⟨hl, (raw10 k).trans ?_⟩
  unfold decode10
  rw [c]
  exact congrArg some (by rw [e0, e1, e2, e3, e4])

theorem vshr (f0 : Fin 64) (f1 : Fin 64) (f2 : Fin 64) (f3 : Bool) (f4 : Bool) : Statement (.vshr f0 f1 f2 f3 f4) := by
  refine of_word rfl fun w hw => ?_
  obtain ⟨hl, k, c, e0, e1, e2, e3, e4⟩ := layout2 f0 f1 f2 f3 f4 16 14 (by decide) (by decide) hw
  refine ⟨hl, (raw10 k).trans ?_⟩
  unfold decode10
  rw [c]
  exact congrArg some (by rw [e0, e1, e2, e3, e4])

theorem vsra (f0 : Fin 64) (f1 : Fin 64) (f2 : Fin 64) (f3 : Bool) (f4 : Bool) : Statement (.vsra f0 f1 f2 f3 f4) := by
  refine of_word rfl fun w hw => ?_
  obtain ⟨hl, k, c, e0, e1, e2, e3, e4⟩ := layout2 f0 f1 f2 f3 f4 16 15 (by decide) (by decide) hw
  refine ⟨hl, (raw10 k).trans ?_⟩
  unfold decode10
  rw [c]
  exact congrArg some (by rw [e0, e1, e2, e3, e4])

theorem vabsd (f0 : Fin 64) (f1 : Fin 64) (f2 : Fin 64) (f3 : Bool) (f4 : Bool) : Statement (.vabsd f0 f1 f2 f3 f4) := by
  refine of_word rfl fun w hw => ?_
  obtain ⟨hl, k, c, e0, e1, e2, e3, e4⟩ := layout2 f0 f1 f2 f3 f4 16 16 (by decide) (by decide) hw
  refine ⟨hl, (raw10 k).trans ?_⟩
  unfold decode10
  rw [c]
  exact congrArg some (by rw [e0, e1, e2, e3, e4])

theorem vsadd (f0 : Fin 64) (f1 : Fin 64) (f2 : Fin 64) (f3 : Bool) (f4 : Bool) : Statement (.vsadd f0 f1 f2 f3 f4) := by
  refine of_word rfl fun w hw => ?_
  obtain ⟨hl, k, c, e0, e1, e2, e3, e4⟩ := layout2 f0 f1 f2 f3 f4 16 17 (by decide) (by decide) hw
  refine ⟨hl, (raw10 k).trans ?_⟩
  unfold decode10
  rw [c]
  exact congrArg some (by rw [e0, e1, e2, e3, e4])

theorem vssub (f0 : Fin 64) (f1 : Fin 64) (f2 : Fin 64) (f3 : Bool) (f4 : Bool) : Statement (.vssub f0 f1 f2 f3 f4) := by
  refine of_word rfl fun w hw => ?_
  obtain ⟨hl, k, c, e0, e1, e2, e3, e4⟩ := layout2 f0 f1 f2 f3 f4 16 18 (by decide) (by decide) hw
  refine ⟨hl, (raw10 k).trans ?_⟩
  unfold decode10
  rw [c]
  exact congrArg some (by rw [e0, e1, e2, e3, e4])

theorem vsaddz (f0 : Fin 64) (f1 : Fin 64) (f2 : Fin 64) (f3 : Bool) (f4 : Bool) : Statement (.vsaddz f0 f1 f2 f3 f4) := by
  refine of_word rfl fun w hw => ?_
  obtain ⟨hl, k, c, e0, e1, e2, e3, e4⟩ := layout2 f0 f1 f2 f3 f4 16 19 (by decide) (by decide) hw
  refine ⟨hl, (raw10 k).trans ?_⟩
  unfold decode10
  rw [c]
  exact congrArg some (by rw [e0, e1, e2, e3, e4])

theorem vssubz (f0 : Fin 64) (f1 : Fin 64) (f2 : Fin 64) (f3 : Bool) (f4 : Bool) : Statement (.vssubz f0 f1 f2 f3 f4) := by
  refine of_word rfl fun w hw => ?_
  obtain ⟨hl, k, c, e0, e1, e2, e3, e4⟩ := layout2 f0 f1 f2 f3 f4 16 20 (by decide) (by decide) hw
  refine ⟨hl, (raw10 k).trans ?_⟩
  unfold decode10
  rw [c]
  exact congrArg some (by rw [e0, e1, e2, e3, e4])

theorem vclz (f0 : Fin 64) (f1 : Fin 64) (f2 : Bool) : Statement (.vclz f0 f1 f2) := by
  refine of_word rfl fun w hw => ?_
  obtain ⟨hl, k, c, q, e0, e1, e2⟩ := layout3 f0 f1 f2 16 21 (by decide) (by decide) hw
  refine ⟨hl, (raw10 k).trans ?_⟩
  unfold decode10
  rw [c]
  exact (if_pos q).trans (by rw [e0, e1, e2])

theorem vpopc (f0 : Fin 64) (f1 : Fin 64) (f2 : Bool) : Statement (.vpopc f0 f1 f2) := by
  refine of_word rfl fun w hw => ?_
  obtain ⟨hl, k, c, q, e0, e1, e2⟩ := layout3 f0 f1 f2 16 22 (by decide) (by decide) hw
  refine ⟨hl, (raw10 k).trans ?_⟩
  unfold decode10
  rw [c]
  exact (if_pos q).trans (by rw [e0, e1, e2])

theorem vbrev (f0 : Fin 64) (f1 : Fin 64) (f2 : Bool) : Statement (.vbrev f0 f1 f2) := by
  refine of_word rfl fun w hw => ?_
  obtain ⟨hl, k, c, q, e0, e1, e2⟩ := layout3 f0 f1 f2 16 23 (by decide) (by decide) hw
  refine ⟨hl, (raw10 k).trans ?_⟩
  unfold decode10
  rw [c]
  exact (if_pos q).trans (by rw [e0, e1, e2])

theorem vbfe (f0 : Fin 64) (f1 : Fin 64) (f2 : Fin 64) (f3 : Bool) (f4 : Bool) : Statement (.vbfe f0 f1 f2 f3 f4) := by
  refine of_word rfl fun w hw => ?_
  obtain ⟨hl, k, c, e0, e1, e2, e3, e4⟩ := layout2 f0 f1 f2 f3 f4 16 24 (by decide) (by decide) hw
  refine ⟨hl, (raw10 k).trans ?_⟩
  unfold decode10
  rw [c]
  exact congrArg some (by rw [e0, e1, e2, e3, e4])

theorem vbfi (f0 : Fin 64) (f1 : Fin 64) (f2 : Fin 64) (f3 : Bool) (f4 : Bool) : Statement (.vbfi f0 f1 f2 f3 f4) := by
  refine of_word rfl fun w hw => ?_
  obtain ⟨hl, k, c, e0, e1, e2, e3, e4⟩ := layout2 f0 f1 f2 f3 f4 16 25 (by decide) (by decide) hw
  refine ⟨hl, (raw10 k).trans ?_⟩
  unfold decode10
  rw [c]
  exact congrArg some (by rw [e0, e1, e2, e3, e4])

theorem vaddw (f0 : Fin 64) (f1 : Fin 64) (f2 : Fin 64) (f3 : Bool) (f4 : Bool) : Statement (.vaddw f0 f1 f2 f3 f4) := by
  refine of_word rfl fun w hw => ?_
  obtain ⟨hl, k, c, e0, e1, e2, e3, e4⟩ := layout2 f0 f1 f2 f3 f4 16 26 (by decide) (by decide) hw
  refine ⟨hl, (raw10 k).trans ?_⟩
  unfold decode10
  rw [c]
  exact congrArg some (by rw [e0, e1, e2, e3, e4])

theorem vsubw (f0 : Fin 64) (f1 : Fin 64) (f2 : Fin 64) (f3 : Bool) (f4 : Bool) : Statement (.vsubw f0 f1 f2 f3 f4) := by
  refine of_word rfl fun w hw => ?_
  obtain ⟨hl, k, c, e0, e1, e2, e3, e4⟩ := layout2 f0 f1 f2 f3 f4 16 27 (by decide) (by decide) hw
  refine ⟨hl, (raw10 k).trans ?_⟩
  unfold decode10
  rw [c]
  exact congrArg some (by rw [e0, e1, e2, e3, e4])

theorem vmulw (f0 : Fin 64) (f1 : Fin 64) (f2 : Fin 64) (f3 : Bool) (f4 : Bool) : Statement (.vmulw f0 f1 f2 f3 f4) := by
  refine of_word rfl fun w hw => ?_
  obtain ⟨hl, k, c, e0, e1, e2, e3, e4⟩ := layout2 f0 f1 f2 f3 f4 16 28 (by decide) (by decide) hw
  refine ⟨hl, (raw10 k).trans ?_⟩
  unfold decode10
  rw [c]
  exact congrArg some (by rw [e0, e1, e2, e3, e4])

theorem vmulwz (f0 : Fin 64) (f1 : Fin 64) (f2 : Fin 64) (f3 : Bool) (f4 : Bool) : Statement (.vmulwz f0 f1 f2 f3 f4) := by
  refine of_word rfl fun w hw => ?_
  obtain ⟨hl, k, c, e0, e1, e2, e3, e4⟩ := layout2 f0 f1 f2 f3 f4 16 29 (by decide) (by decide) hw
  refine ⟨hl, (raw10 k).trans ?_⟩
  unfold decode10
  rw [c]
  exact congrArg some (by rw [e0, e1, e2, e3, e4])

theorem vdiv (f0 : Fin 64) (f1 : Fin 64) (f2 : Fin 64) (f3 : Bool) (f4 : Bool) : Statement (.vdiv f0 f1 f2 f3 f4) := by
  refine of_word rfl fun w hw => ?_
  obtain ⟨hl, k, c, e0, e1, e2, e3, e4⟩ := layout2 f0 f1 f2 f3 f4 16 30 (by decide) (by decide) hw
  refine ⟨hl, (raw10 k).trans ?_⟩
  unfold decode10
  rw [c]
  exact congrArg some (by rw [e0, e1, e2, e3, e4])

theorem vdivz (f0 : Fin 64) (f1 : Fin 64) (f2 : Fin 64) (f3 : Bool) (f4 : Bool) : Statement (.vdivz f0 f1 f2 f3 f4) := by
  refine of_word rfl fun w hw => ?_
  obtain ⟨hl, k, c, e0, e1, e2, e3, e4⟩ := layout2 f0 f1 f2 f3 f4 16 31 (by decide) (by decide) hw
  refine ⟨hl, (raw10 k).trans ?_⟩
  unfold decode10
  rw [c]
  exact congrArg some (by rw [e0, e1, e2, e3, e4])

theorem vrem (f0 : Fin 64) (f1 : Fin 64) (f2 : Fin 64) (f3 : Bool) (f4 : Bool) : Statement (.vrem f0 f1 f2 f3 f4) := by
  refine of_word rfl fun w hw => ?_
  obtain ⟨hl, k, c, e0, e1, e2, e3, e4⟩ := layout2 f0 f1 f2 f3 f4 16 32 (by decide) (by decide) hw
  refine ⟨hl, (raw10 k).trans ?_⟩
  unfold decode10
  rw [c]
  exact congrArg some (by rw [e0, e1, e2, e3, e4])

theorem vremz (f0 : Fin 64) (f1 : Fin 64) (f2 : Fin 64) (f3 : Bool) (f4 : Bool) : Statement (.vremz f0 f1 f2 f3 f4) := by
  refine of_word rfl fun w hw => ?_
  obtain ⟨hl, k, c, e0, e1, e2, e3, e4⟩ := layout2 f0 f1 f2 f3 f4 16 33 (by decide) (by decide) hw
  refine ⟨hl, (raw10 k).trans ?_⟩
  unfold decode10
  rw [c]
  exact congrArg some (by rw [e0, e1, e2, e3, e4])

theorem vmov (f0 : Fin 64) (f1 : Fin 64) (f2 : Bool) : Statement (.vmov f0 f1 f2) := by
  refine of_word rfl fun w hw => ?_
  obtain ⟨hl, k, c, q, e0, e1, e2⟩ := layout3 f0 f1 f2 16 34 (by decide) (by decide) hw
  refine ⟨hl, (raw10 k).trans ?_⟩
  unfold decode10
  rw [c]
  exact (if_pos q).trans (by rw [e0, e1, e2])

theorem vdot4 (f0 : Fin 64) (f1 : Fin 64) (f2 : Fin 64) (f3 : Bool) (f4 : Bool) : Statement (.vdot4 f0 f1 f2 f3 f4) := by
  refine of_word rfl fun w hw => ?_
  obtain ⟨hl, k, c, e0, e1, e2, e3, e4⟩ := layout2 f0 f1 f2 f3 f4 16 36 (by decide) (by decide) hw
  refine ⟨hl, (raw10 k).trans ?_⟩
  unfold decode10
  rw [c]
  exact congrArg some (by rw [e0, e1, e2, e3, e4])

theorem vdot4z (f0 : Fin 64) (f1 : Fin 64) (f2 : Fin 64) (f3 : Bool) (f4 : Bool) : Statement (.vdot4z f0 f1 f2 f3 f4) := by
  refine of_word rfl fun w hw => ?_
  obtain ⟨hl, k, c, e0, e1, e2, e3, e4⟩ := layout2 f0 f1 f2 f3 f4 16 37 (by decide) (by decide) hw
  refine ⟨hl, (raw10 k).trans ?_⟩
  unfold decode10
  rw [c]
  exact congrArg some (by rw [e0, e1, e2, e3, e4])

theorem vaddScalar (f0 : Fin 64) (f1 : Fin 64) (f2 : Fin 64) (f3 : Bool) (f4 : Bool) : Statement (.vaddScalar f0 f1 f2 f3 f4) := by
  refine of_word rfl fun w hw => ?_
  obtain ⟨hl, k, c, e0, e1, e2, e3, e4⟩ := layout2 f0 f1 f2 f3 f4 17 0 (by decide) (by decide) hw
  refine ⟨hl, (raw11 k).trans ?_⟩
  unfold decode11
  rw [c]
  exact congrArg some (by rw [e0, e1, e2, e3, e4])

theorem vsubScalar (f0 : Fin 64) (f1 : Fin 64) (f2 : Fin 64) (f3 : Bool) (f4 : Bool) : Statement (.vsubScalar f0 f1 f2 f3 f4) := by
  refine of_word rfl fun w hw => ?_
  obtain ⟨hl, k, c, e0, e1, e2, e3, e4⟩ := layout2 f0 f1 f2 f3 f4 17 1 (by decide) (by decide) hw
  refine ⟨hl, (raw11 k).trans ?_⟩
  unfold decode11
  rw [c]
  exact congrArg some (by rw [e0, e1, e2, e3, e4])

theorem vmulScalar (f0 : Fin 64) (f1 : Fin 64) (f2 : Fin 64) (f3 : Bool) (f4 : Bool) : Statement (.vmulScalar f0 f1 f2 f3 f4) := by
  refine of_word rfl fun w hw => ?_
  obtain ⟨hl, k, c, e0, e1, e2, e3, e4⟩ := layout2 f0 f1 f2 f3 f4 17 2 (by decide) (by decide) hw
  refine ⟨hl, (raw11 k).trans ?_⟩
  unfold decode11
  rw [c]
  exact congrArg some (by rw [e0, e1, e2, e3, e4])

theorem vmulhScalar (f0 : Fin 64) (f1 : Fin 64) (f2 : Fin 64) (f3 : Bool) (f4 : Bool) : Statement (.vmulhScalar f0 f1 f2 f3 f4) := by
  refine of_word rfl fun w hw => ?_
  obtain ⟨hl, k, c, e0, e1, e2, e3, e4⟩ := layout2 f0 f1 f2 f3 f4 17 3 (by decide) (by decide) hw
  refine ⟨hl, (raw11 k).trans ?_⟩
  unfold decode11
  rw [c]
  exact congrArg some (by rw [e0, e1, e2, e3, e4])

theorem vmulhzScalar (f0 : Fin 64) (f1 : Fin 64) (f2 : Fin 64) (f3 : Bool) (f4 : Bool) : Statement (.vmulhzScalar f0 f1 f2 f3 f4) := by
  refine of_word rfl fun w hw => ?_
  obtain ⟨hl, k, c, e0, e1, e2, e3, e4⟩ := layout2 f0 f1 f2 f3 f4 17 4 (by decide) (by decide) hw
  refine ⟨hl, (raw11 k).trans ?_⟩
  unfold decode11
  rw [c]
  exact congrArg some (by rw [e0, e1, e2, e3, e4])

theorem vminScalar (f0 : Fin 64) (f1 : Fin 64) (f2 : Fin 64) (f3 : Bool) (f4 : Bool) : Statement (.vminScalar f0 f1 f2 f3 f4) := by
  refine of_word rfl fun w hw => ?_
  obtain ⟨hl, k, c, e0, e1, e2, e3, e4⟩ := layout2 f0 f1 f2 f3 f4 17 5 (by decide) (by decide) hw
  refine ⟨hl, (raw11 k).trans ?_⟩
  unfold decode11
  rw [c]
  exact congrArg some (by rw [e0, e1, e2, e3, e4])

theorem vmaxScalar (f0 : Fin 64) (f1 : Fin 64) (f2 : Fin 64) (f3 : Bool) (f4 : Bool) : Statement (.vmaxScalar f0 f1 f2 f3 f4) := by
  refine of_word rfl fun w hw => ?_
  obtain ⟨hl, k, c, e0, e1, e2, e3, e4⟩ := layout2 f0 f1 f2 f3 f4 17 6 (by decide) (by decide) hw
  refine ⟨hl, (raw11 k).trans ?_⟩
  unfold decode11
  rw [c]
  exact congrArg some (by rw [e0, e1, e2, e3, e4])

theorem vminzScalar (f0 : Fin 64) (f1 : Fin 64) (f2 : Fin 64) (f3 : Bool) (f4 : Bool) : Statement (.vminzScalar f0 f1 f2 f3 f4) := by
  refine of_word rfl fun w hw => ?_
  obtain ⟨hl, k, c, e0, e1, e2, e3, e4⟩ := layout2 f0 f1 f2 f3 f4 17 7 (by decide) (by decide) hw
  refine ⟨hl, (raw11 k).trans ?_⟩
  unfold decode11
  rw [c]
  exact congrArg some (by rw [e0, e1, e2, e3, e4])

theorem vmaxzScalar (f0 : Fin 64) (f1 : Fin 64) (f2 : Fin 64) (f3 : Bool) (f4 : Bool) : Statement (.vmaxzScalar f0 f1 f2 f3 f4) := by
  refine of_word rfl fun w hw => ?_
  obtain ⟨hl, k, c, e0, e1, e2, e3, e4⟩ := layout2 f0 f1 f2 f3 f4 17 8 (by decide) (by decide) hw
  refine ⟨hl, (raw11 k).trans ?_⟩
  unfold decode11
  rw [c]
  exact congrArg some (by rw [e0, e1, e2, e3, e4])

theorem vandScalar (f0 : Fin 64) (f1 : Fin 64) (f2 : Fin 64) (f3 : Bool) (f4 : Bool) : Statement (.vandScalar f0 f1 f2 f3 f4) := by
  refine of_word rfl fun w hw => ?_
  obtain ⟨hl, k, c, e0, e1, e2, e3, e4⟩ := layout2 f0 f1 f2 f3 f4 17 9 (by decide) (by decide) hw
  refine ⟨hl, (raw11 k).trans ?_⟩
  unfold decode11
  rw [c]
  exact congrArg some (by rw [e0, e1, e2, e3, e4])

theorem vorScalar (f0 : Fin 64) (f1 : Fin 64) (f2 : Fin 64) (f3 : Bool) (f4 : Bool) : Statement (.vorScalar f0 f1 f2 f3 f4) := by
  refine of_word rfl fun w hw => ?_
  obtain ⟨hl, k, c, e0, e1, e2, e3, e4⟩ := layout2 f0 f1 f2 f3 f4 17 10 (by decide) (by decide) hw
  refine ⟨hl, (raw11 k).trans ?_⟩
  unfold decode11
  rw [c]
  exact congrArg some (by rw [e0, e1, e2, e3, e4])

theorem vxorScalar (f0 : Fin 64) (f1 : Fin 64) (f2 : Fin 64) (f3 : Bool) (f4 : Bool) : Statement (.vxorScalar f0 f1 f2 f3 f4) := by
  refine of_word rfl fun w hw => ?_
  obtain ⟨hl, k, c, e0, e1, e2, e3, e4⟩ := layout2 f0 f1 f2 f3 f4 17 11 (by decide) (by decide) hw
  refine ⟨hl, (raw11 k).trans ?_⟩
  unfold decode11
  rw [c]
  exact congrArg some (by rw [e0, e1, e2, e3, e4])

theorem vandnScalar (f0 : Fin 64) (f1 : Fin 64) (f2 : Fin 64) (f3 : Bool) (f4 : Bool) : Statement (.vandnScalar f0 f1 f2 f3 f4) := by
  refine of_word rfl fun w hw => ?_
  obtain ⟨hl, k, c, e0, e1, e2, e3, e4⟩ := layout2 f0 f1 f2 f3 f4 17 12 (by decide) (by decide) hw
  refine ⟨hl, (raw11 k).trans ?_⟩
  unfold decode11
  rw [c]
  exact congrArg some (by rw [e0, e1, e2, e3, e4])

theorem vshlScalar (f0 : Fin 64) (f1 : Fin 64) (f2 : Fin 64) (f3 : Bool) (f4 : Bool) : Statement (.vshlScalar f0 f1 f2 f3 f4) := by
  refine of_word rfl fun w hw => ?_
  obtain ⟨hl, k, c, e0, e1, e2, e3, e4⟩ := layout2 f0 f1 f2 f3 f4 17 13 (by decide) (by decide) hw
  refine ⟨hl, (raw11 k).trans ?_⟩
  unfold decode11
  rw [c]
  exact congrArg some (by rw [e0, e1, e2, e3, e4])

theorem vshrScalar (f0 : Fin 64) (f1 : Fin 64) (f2 : Fin 64) (f3 : Bool) (f4 : Bool) : Statement (.vshrScalar f0 f1 f2 f3 f4) := by
  refine of_word rfl fun w hw => ?_
  obtain ⟨hl, k, c, e0, e1, e2, e3, e4⟩ := layout2 f0 f1 f2 f3 f4 17 14 (by decide) (by decide) hw
  refine ⟨hl, (raw11 k).trans ?_⟩
  unfold decode11
  rw [c]
  exact congrArg some (by rw [e0, e1, e2, e3, e4])

theorem vsraScalar (f0 : Fin 64) (f1 : Fin 64) (f2 : Fin 64) (f3 : Bool) (f4 : Bool) : Statement (.vsraScalar f0 f1 f2 f3 f4) := by
  refine of_word rfl fun w hw => ?_
  obtain ⟨hl, k, c, e0, e1, e2, e3, e4⟩ := layout2 f0 f1 f2 f3 f4 17 15 (by decide) (by decide) hw
  refine ⟨hl, (raw11 k).trans ?_⟩
  unfold decode11
  rw [c]
  exact congrArg some (by rw [e0, e1, e2, e3, e4])

theorem vabsdScalar (f0 : Fin 64) (f1 : Fin 64) (f2 : Fin 64) (f3 : Bool) (f4 : Bool) : Statement (.vabsdScalar f0 f1 f2 f3 f4) := by
  refine of_word rfl fun w hw => ?_
  obtain ⟨hl, k, c, e0, e1, e2, e3, e4⟩ := layout2 f0 f1 f2 f3 f4 17 16 (by decide) (by decide) hw
  refine ⟨hl, (raw11 k).trans ?_⟩
  unfold decode11
  rw [c]
  exact congrArg some (by rw [e0, e1, e2, e3, e4])

theorem vsaddScalar (f0 : Fin 64) (f1 : Fin 64) (f2 : Fin 64) (f3 : Bool) (f4 : Bool) : Statement (.vsaddScalar f0 f1 f2 f3 f4) := by
  refine of_word rfl fun w hw => ?_
  obtain ⟨hl, k, c, e0, e1, e2, e3, e4⟩ := layout2 f0 f1 f2 f3 f4 17 17 (by decide) (by decide) hw
  refine ⟨hl, (raw11 k).trans ?_⟩
  unfold decode11
  rw [c]
  exact congrArg some (by rw [e0, e1, e2, e3, e4])

theorem vssubScalar (f0 : Fin 64) (f1 : Fin 64) (f2 : Fin 64) (f3 : Bool) (f4 : Bool) : Statement (.vssubScalar f0 f1 f2 f3 f4) := by
  refine of_word rfl fun w hw => ?_
  obtain ⟨hl, k, c, e0, e1, e2, e3, e4⟩ := layout2 f0 f1 f2 f3 f4 17 18 (by decide) (by decide) hw
  refine ⟨hl, (raw11 k).trans ?_⟩
  unfold decode11
  rw [c]
  exact congrArg some (by rw [e0, e1, e2, e3, e4])

theorem vsaddzScalar (f0 : Fin 64) (f1 : Fin 64) (f2 : Fin 64) (f3 : Bool) (f4 : Bool) : Statement (.vsaddzScalar f0 f1 f2 f3 f4) := by
  refine of_word rfl fun w hw => ?_
  obtain ⟨hl, k, c, e0, e1, e2, e3, e4⟩ := layout2 f0 f1 f2 f3 f4 17 19 (by decide) (by decide) hw
  refine ⟨hl, (raw11 k).trans ?_⟩
  unfold decode11
  rw [c]
  exact congrArg some (by rw [e0, e1, e2, e3, e4])

theorem vssubzScalar (f0 : Fin 64) (f1 : Fin 64) (f2 : Fin 64) (f3 : Bool) (f4 : Bool) : Statement (.vssubzScalar f0 f1 f2 f3 f4) := by
  refine of_word rfl fun w hw => ?_
  obtain ⟨hl, k, c, e0, e1, e2, e3, e4⟩ := layout2 f0 f1 f2 f3 f4 17 20 (by decide) (by decide) hw
  refine ⟨hl, (raw11 k).trans ?_⟩
  unfold decode11
  rw [c]
  exact congrArg some (by rw [e0, e1, e2, e3, e4])

theorem vbfeScalar (f0 : Fin 64) (f1 : Fin 64) (f2 : Fin 64) (f3 : Bool) (f4 : Bool) : Statement (.vbfeScalar f0 f1 f2 f3 f4) := by
  refine of_word rfl fun w hw => ?_
  obtain ⟨hl, k, c, e0, e1, e2, e3, e4⟩ := layout2 f0 f1 f2 f3 f4 17 24 (by decide) (by decide) hw
  refine ⟨hl, (raw11 k).trans ?_⟩
  unfold decode11
  rw [c]
  exact congrArg some (by rw [e0, e1, e2, e3, e4])

theorem vbfiScalar (f0 : Fin 64) (f1 : Fin 64) (f2 : Fin 64) (f3 : Bool) (f4 : Bool) : Statement (.vbfiScalar f0 f1 f2 f3 f4) := by
  refine of_word rfl fun w hw => ?_
  obtain ⟨hl, k, c, e0, e1, e2, e3, e4⟩ := layout2 f0 f1 f2 f3 f4 17 25 (by decide) (by decide) hw
  refine ⟨hl, (raw11 k).trans ?_⟩
  unfold decode11
  rw [c]
  exact congrArg some (by rw [e0, e1, e2, e3, e4])

theorem vaddwScalar (f0 : Fin 64) (f1 : Fin 64) (f2 : Fin 64) (f3 : Bool) (f4 : Bool) : Statement (.vaddwScalar f0 f1 f2 f3 f4) := by
  refine of_word rfl fun w hw => ?_
  obtain ⟨hl, k, c, e0, e1, e2, e3, e4⟩ := layout2 f0 f1 f2 f3 f4 17 26 (by decide) (by decide) hw
  refine ⟨hl, (raw11 k).trans ?_⟩
  unfold decode11
  rw [c]
  exact congrArg some (by rw [e0, e1, e2, e3, e4])

theorem vsubwScalar (f0 : Fin 64) (f1 : Fin 64) (f2 : Fin 64) (f3 : Bool) (f4 : Bool) : Statement (.vsubwScalar f0 f1 f2 f3 f4) := by
  refine of_word rfl fun w hw => ?_
  obtain ⟨hl, k, c, e0, e1, e2, e3, e4⟩ := layout2 f0 f1 f2 f3 f4 17 27 (by decide) (by decide) hw
  refine ⟨hl, (raw11 k).trans ?_⟩
  unfold decode11
  rw [c]
  exact congrArg some (by rw [e0, e1, e2, e3, e4])

theorem vmulwScalar (f0 : Fin 64) (f1 : Fin 64) (f2 : Fin 64) (f3 : Bool) (f4 : Bool) : Statement (.vmulwScalar f0 f1 f2 f3 f4) := by
  refine of_word rfl fun w hw => ?_
  obtain ⟨hl, k, c, e0, e1, e2, e3, e4⟩ := layout2 f0 f1 f2 f3 f4 17 28 (by decide) (by decide) hw
  refine ⟨hl, (raw11 k).trans ?_⟩
  unfold decode11
  rw [c]
  exact congrArg some (by rw [e0, e1, e2, e3, e4])

theorem vmulwzScalar (f0 : Fin 64) (f1 : Fin 64) (f2 : Fin 64) (f3 : Bool) (f4 : Bool) : Statement (.vmulwzScalar f0 f1 f2 f3 f4) := by
  refine of_word rfl fun w hw => ?_
  obtain ⟨hl, k, c, e0, e1, e2, e3, e4⟩ := layout2 f0 f1 f2 f3 f4 17 29 (by decide) (by decide) hw
  refine ⟨hl, (raw11 k).trans ?_⟩
  unfold decode11
  rw [c]
  exact congrArg some (by rw [e0, e1, e2, e3, e4])

theorem vdivScalar (f0 : Fin 64) (f1 : Fin 64) (f2 : Fin 64) (f3 : Bool) (f4 : Bool) : Statement (.vdivScalar f0 f1 f2 f3 f4) := by
  refine of_word rfl fun w hw => ?_
  obtain ⟨hl, k, c, e0, e1, e2, e3, e4⟩ := layout2 f0 f1 f2 f3 f4 17 30 (by decide) (by decide) hw
  refine ⟨hl, (raw11 k).trans ?_⟩
  unfold decode11
  rw [c]
  exact congrArg some (by rw [e0, e1, e2, e3, e4])

theorem vdivzScalar (f0 : Fin 64) (f1 : Fin 64) (f2 : Fin 64) (f3 : Bool) (f4 : Bool) : Statement (.vdivzScalar f0 f1 f2 f3 f4) := by
  refine of_word rfl fun w hw => ?_
  obtain ⟨hl, k, c, e0, e1, e2, e3, e4⟩ := layout2 f0 f1 f2 f3 f4 17 31 (by decide) (by decide) hw
  refine ⟨hl, (raw11 k).trans ?_⟩
  unfold decode11
  rw [c]
  exact congrArg some (by rw [e0, e1, e2, e3, e4])

theorem vremScalar (f0 : Fin 64) (f1 : Fin 64) (f2 : Fin 64) (f3 : Bool) (f4 : Bool) : Statement (.vremScalar f0 f1 f2 f3 f4) := by
  refine of_word rfl fun w hw => ?_
  obtain ⟨hl, k, c, e0, e1, e2, e3, e4⟩ := layout2 f0 f1 f2 f3 f4 17 32 (by decide) (by decide) hw
  refine ⟨hl, (raw11 k).trans ?_⟩
  unfold decode11
  rw [c]
  exact congrArg some (by rw [e0, e1, e2, e3, e4])

theorem vremzScalar (f0 : Fin 64) (f1 : Fin 64) (f2 : Fin 64) (f3 : Bool) (f4 : Bool) : Statement (.vremzScalar f0 f1 f2 f3 f4) := by
  refine of_word rfl fun w hw => ?_
  obtain ⟨hl, k, c, e0, e1, e2, e3, e4⟩ := layout2 f0 f1 f2 f3 f4 17 33 (by decide) (by decide) hw
  refine ⟨hl, (raw11 k).trans ?_⟩
  unfold decode11
  rw [c]
  exact congrArg some (by rw [e0, e1, e2, e3, e4])

theorem layout18 (f0 : Fin 64) (f1 : Fin 64) (f2 : Bool) {w : Nat} (m : Nat) (c : Nat) (hm : m < 64) (hc : c < 64)
     (hw : w = m * 67108864 + c * 4 + f0.val * 1048576 + f1.val * 256 + f2.toNat) :
     w < 4294967296 ∧ w / 67108864 = m ∧ w / 4 % 64 = c ∧ (w / 2 % 2 = 0 ∧ w / 16384 % 64 = 0) ∧ fieldAt 20 64 w = f0 ∧ fieldAt 8 64 w = f1 ∧ bitAt 0 w = f2 := by
  have h0 := f0.isLt
  have h1 := f1.isLt
  have h2 := f2.toNat_le
  exact ⟨by omega, by omega, by omega, by omega, fieldAt_eq f0 (by omega), fieldAt_eq f1 (by omega), bitAt_eq f2 (by omega)⟩

theorem vmovScalar (f0 : Fin 64) (f1 : Fin 64) (f2 : Bool) : Statement (.vmovScalar f0 f1 f2) := by
  refine of_word rfl fun w hw => ?_
  obtain ⟨hl, k, c, q, e0, e1, e2⟩ := layout18 f0 f1 f2 17 34 (by decide) (by decide) hw
  refine ⟨hl, (raw11 k).trans ?_⟩
  unfold decode11
  rw [c]
  exact (if_pos q).trans (by rw [e0, e1, e2])

theorem vaddr (f0 : Fin 64) (f1 : Fin 64) (f2 : Fin 64) (f3 : Bool) (f4 : Bool) : Statement (.vaddr f0 f1 f2 f3 f4) := by
  refine of_word rfl fun w hw => ?_
  obtain ⟨hl, k, c, e0, e1, e2, e3, e4⟩ := layout2 f0 f1 f2 f3 f4 17 35 (by decide) (by decide) hw
  refine ⟨hl, (raw11 k).trans ?_⟩
  unfold decode11
  rw [c]
  exact congrArg some (by rw [e0, e1, e2, e3, e4])

theorem vdot4Scalar (f0 : Fin 64) (f1 : Fin 64) (f2 : Fin 64) (f3 : Bool) (f4 : Bool) : Statement (.vdot4Scalar f0 f1 f2 f3 f4) := by
  refine of_word rfl fun w hw => ?_
  obtain ⟨hl, k, c, e0, e1, e2, e3, e4⟩ := layout2 f0 f1 f2 f3 f4 17 36 (by decide) (by decide) hw
  refine ⟨hl, (raw11 k).trans ?_⟩
  unfold decode11
  rw [c]
  exact congrArg some (by rw [e0, e1, e2, e3, e4])

theorem vdot4zScalar (f0 : Fin 64) (f1 : Fin 64) (f2 : Fin 64) (f3 : Bool) (f4 : Bool) : Statement (.vdot4zScalar f0 f1 f2 f3 f4) := by
  refine of_word rfl fun w hw => ?_
  obtain ⟨hl, k, c, e0, e1, e2, e3, e4⟩ := layout2 f0 f1 f2 f3 f4 17 37 (by decide) (by decide) hw
  refine ⟨hl, (raw11 k).trans ?_⟩
  unfold decode11
  rw [c]
  exact congrArg some (by rw [e0, e1, e2, e3, e4])

theorem vaddi (f0 : Fin 64) (f1 : Fin 64) (f2 : BitVec 10) (f3 : Bool) : Statement (.vaddi f0 f1 f2 f3) := by
  refine of_word rfl fun w hw => ?_
  obtain ⟨hl, k, c, e0, e1, e2, e3⟩ := layout4 f0 f1 f2 f3 18 0 (by decide) (by decide) hw
  refine ⟨hl, (raw12 k).trans ?_⟩
  unfold decode12
  rw [c]
  exact congrArg some (by rw [e0, e1, e2, e3])

theorem vandi (f0 : Fin 64) (f1 : Fin 64) (f2 : BitVec 10) (f3 : Bool) : Statement (.vandi f0 f1 f2 f3) := by
  refine of_word rfl fun w hw => ?_
  obtain ⟨hl, k, c, e0, e1, e2, e3⟩ := layout4 f0 f1 f2 f3 18 1 (by decide) (by decide) hw
  refine ⟨hl, (raw12 k).trans ?_⟩
  unfold decode12
  rw [c]
  exact congrArg some (by rw [e0, e1, e2, e3])

theorem vori (f0 : Fin 64) (f1 : Fin 64) (f2 : BitVec 10) (f3 : Bool) : Statement (.vori f0 f1 f2 f3) := by
  refine of_word rfl fun w hw => ?_
  obtain ⟨hl, k, c, e0, e1, e2, e3⟩ := layout4 f0 f1 f2 f3 18 2 (by decide) (by decide) hw
  refine ⟨hl, (raw12 k).trans ?_⟩
  unfold decode12
  rw [c]
  exact congrArg some (by rw [e0, e1, e2, e3])

theorem vxori (f0 : Fin 64) (f1 : Fin 64) (f2 : BitVec 10) (f3 : Bool) : Statement (.vxori f0 f1 f2 f3) := by
  refine of_word rfl fun w hw => ?_
  obtain ⟨hl, k, c, e0, e1, e2, e3⟩ := layout4 f0 f1 f2 f3 18 3 (by decide) (by decide) hw
  refine ⟨hl, (raw12 k).trans ?_⟩
  unfold decode12
  rw [c]
  exact congrArg some (by rw [e0, e1, e2, e3])

theorem vshli (f0 : Fin 64) (f1 : Fin 64) (f2 : BitVec 10) (f3 : Bool) : Statement (.vshli f0 f1 f2 f3) := by
  refine of_word rfl fun w hw => ?_
  obtain ⟨hl, k, c, e0, e1, e2, e3⟩ := layout4 f0 f1 f2 f3 18 4 (by decide) (by decide) hw
  refine ⟨hl, (raw12 k).trans ?_⟩
  unfold decode12
  rw [c]
  exact congrArg some (by rw [e0, e1, e2, e3])

theorem vshri (f0 : Fin 64) (f1 : Fin 64) (f2 : BitVec 10) (f3 : Bool) : Statement (.vshri f0 f1 f2 f3) := by
  refine of_word rfl fun w hw => ?_
  obtain ⟨hl, k, c, e0, e1, e2, e3⟩ := layout4 f0 f1 f2 f3 18 5 (by decide) (by decide) hw
  refine ⟨hl, (raw12 k).trans ?_⟩
  unfold decode12
  rw [c]
  exact congrArg some (by rw [e0, e1, e2, e3])

theorem vsrai (f0 : Fin 64) (f1 : Fin 64) (f2 : BitVec 10) (f3 : Bool) : Statement (.vsrai f0 f1 f2 f3) := by
  refine of_word rfl fun w hw => ?_
  obtain ⟨hl, k, c, e0, e1, e2, e3⟩ := layout4 f0 f1 f2 f3 18 6 (by decide) (by decide) hw
  refine ⟨hl, (raw12 k).trans ?_⟩
  unfold decode12
  rw [c]
  exact congrArg some (by rw [e0, e1, e2, e3])

theorem vmovi (f0 : Fin 64) (f1 : BitVec 10) : Statement (.vmovi f0 f1) := by
  refine of_word rfl fun w hw => ?_
  obtain ⟨hl, k, c, q, e0, e1⟩ := layout5 f0 f1 18 7 (by decide) (by decide) hw
  refine ⟨hl, (raw12 k).trans ?_⟩
  unfold decode12
  rw [c]
  exact (if_pos q).trans (by rw [e0, e1])

theorem layout19 (f0 : Fin 8) (f1 : Fin 64) (f2 : Fin 64) (f3 : Bool) (f4 : Bool) {w : Nat} (m : Nat) (c : Nat) (hm : m < 64) (hc : c < 64)
     (hw : w = m * 67108864 + c * 4 + f0.val * 1048576 + f1.val * 16384 + f2.val * 256 + f3.toNat * 2 + f4.toNat) :
     w < 4294967296 ∧ w / 67108864 = m ∧ w / 4 % 64 = c ∧ (w / 8388608 % 8 = 0) ∧ fieldAt 20 8 w = f0 ∧ fieldAt 14 64 w = f1 ∧ fieldAt 8 64 w = f2 ∧ bitAt 1 w = f3 ∧ bitAt 0 w = f4 := by
  have h0 := f0.isLt
  have h1 := f1.isLt
  have h2 := f2.isLt
  have h3 := f3.toNat_le
  have h4 := f4.toNat_le
  exact ⟨by omega, by omega, by omega, by omega, fieldAt_eq f0 (by omega), fieldAt_eq f1 (by omega), fieldAt_eq f2 (by omega), bitAt_eq f3 (by omega), bitAt_eq f4 (by omega)⟩

theorem vceq (f0 : Fin 8) (f1 : Fin 64) (f2 : Fin 64) (f3 : Bool) (f4 : Bool) : Statement (.vceq f0 f1 f2 f3 f4) := by
  refine of_word rfl fun w hw => ?_
  obtain ⟨hl, k, c, q, e0, e1, e2, e3, e4⟩ := layout19 f0 f1 f2 f3 f4 19 0 (by decide) (by decide) hw
  refine ⟨hl, (raw13 k).trans ?_⟩
  unfold decode13
  rw [c]
  exact (if_pos q).trans (by rw [e0, e1, e2, e3, e4])

theorem vcne (f0 : Fin 8) (f1 : Fin 64) (f2 : Fin 64) (f3 : Bool) (f4 : Bool) : Statement (.vcne f0 f1 f2 f3 f4) := by
  refine of_word rfl fun w hw => ?_
  obtain ⟨hl, k, c, q, e0, e1, e2, e3, e4⟩ := layout19 f0 f1 f2 f3 f4 19 1 (by decide) (by decide) hw
  refine ⟨hl, (raw13 k).trans ?_⟩
  unfold decode13
  rw [c]
  exact (if_pos q).trans (by rw [e0, e1, e2, e3, e4])

theorem vclt (f0 : Fin 8) (f1 : Fin 64) (f2 : Fin 64) (f3 : Bool) (f4 : Bool) : Statement (.vclt f0 f1 f2 f3 f4) := by
  refine of_word rfl fun w hw => ?_
  obtain ⟨hl, k, c, q, e0, e1, e2, e3, e4⟩ := layout19 f0 f1 f2 f3 f4 19 2 (by decide) (by decide) hw
  refine ⟨hl, (raw13 k).trans ?_⟩
  unfold decode13
  rw [c]
  exact (if_pos q).trans (by rw [e0, e1, e2, e3, e4])

theorem vcle (f0 : Fin 8) (f1 : Fin 64) (f2 : Fin 64) (f3 : Bool) (f4 : Bool) : Statement (.vcle f0 f1 f2 f3 f4) := by
  refine of_word rfl fun w hw => ?_
  obtain ⟨hl, k, c, q, e0, e1, e2, e3, e4⟩ := layout19 f0 f1 f2 f3 f4 19 3 (by decide) (by decide) hw
  refine ⟨hl, (raw13 k).trans ?_⟩
  unfold decode13
  rw [c]
  exact (if_pos q).trans (by rw [e0, e1, e2, e3, e4])

theorem vcltz (f0 : Fin 8) (f1 : Fin 64) (f2 : Fin 64) (f3 : Bool) (f4 : Bool) : Statement (.vcltz f0 f1 f2 f3 f4) := by
  refine of_word rfl fun w hw => ?_
  obtain ⟨hl, k, c, q, e0, e1, e2, e3, e4⟩ := layout19 f0 f1 f2 f3 f4 19 4 (by decide) (by decide) hw
  refine ⟨hl, (raw13 k).trans ?_⟩
  unfold decode13
  rw [c]
  exact (if_pos q).trans (by rw [e0, e1, e2, e3, e4])

theorem vclez (f0 : Fin 8) (f1 : Fin 64) (f2 : Fin 64) (f3 : Bool) (f4 : Bool) : Statement (.vclez f0 f1 f2 f3 f4) := by
  refine of_word rfl fun w hw => ?_
  obtain ⟨hl, k, c, q, e0, e1, e2, e3, e4⟩ := layout19 f0 f1 f2 f3 f4 19 5 (by decide) (by decide) hw
  refine ⟨hl, (raw13 k).trans ?_⟩
  unfold decode13
  rw [c]
  exact (if_pos q).trans (by rw [e0, e1, e2, e3, e4])

theorem fceq (f0 : Fin 8) (f1 : Fin 64) (f2 : Fin 64) (f3 : Bool) (f4 : Bool) : Statement (.fceq f0 f1 f2 f3 f4) := by
  refine of_word rfl fun w hw => ?_
  obtain ⟨hl, k, c, q, e0, e1, e2, e3, e4⟩ := layout19 f0 f1 f2 f3 f4 19 6 (by decide) (by decide) hw
  refine ⟨hl, (raw13 k).trans ?_⟩
  unfold decode13
  rw [c]
  exact (if_pos q).trans (by rw [e0, e1, e2, e3, e4])

theorem fcne (f0 : Fin 8) (f1 : Fin 64) (f2 : Fin 64) (f3 : Bool) (f4 : Bool) : Statement (.fcne f0 f1 f2 f3 f4) := by
  refine of_word rfl fun w hw => ?_
  obtain ⟨hl, k, c, q, e0, e1, e2, e3, e4⟩ := layout19 f0 f1 f2 f3 f4 19 7 (by decide) (by decide) hw
  refine ⟨hl, (raw13 k).trans ?_⟩
  unfold decode13
  rw [c]
  exact (if_pos q).trans (by rw [e0, e1, e2, e3, e4])

theorem fclt (f0 : Fin 8) (f1 : Fin 64) (f2 : Fin 64) (f3 : Bool) (f4 : Bool) : Statement (.fclt f0 f1 f2 f3 f4) := by
  refine of_word rfl fun w hw => ?_
  obtain ⟨hl, k, c, q, e0, e1, e2, e3, e4⟩ := layout19 f0 f1 f2 f3 f4 19 8 (by decide) (by decide) hw
  refine ⟨hl, (raw13 k).trans ?_⟩
  unfold decode13
  rw [c]
  exact (if_pos q).trans (by rw [e0, e1, e2, e3, e4])

theorem fcle (f0 : Fin 8) (f1 : Fin 64) (f2 : Fin 64) (f3 : Bool) (f4 : Bool) : Statement (.fcle f0 f1 f2 f3 f4) := by
  refine of_word rfl fun w hw => ?_
  obtain ⟨hl, k, c, q, e0, e1, e2, e3, e4⟩ := layout19 f0 f1 f2 f3 f4 19 9 (by decide) (by decide) hw
  refine ⟨hl, (raw13 k).trans ?_⟩
  unfold decode13
  rw [c]
  exact (if_pos q).trans (by rw [e0, e1, e2, e3, e4])

theorem fcun (f0 : Fin 8) (f1 : Fin 64) (f2 : Fin 64) (f3 : Bool) (f4 : Bool) : Statement (.fcun f0 f1 f2 f3 f4) := by
  refine of_word rfl fun w hw => ?_
  obtain ⟨hl, k, c, q, e0, e1, e2, e3, e4⟩ := layout19 f0 f1 f2 f3 f4 19 10 (by decide) (by decide) hw
  refine ⟨hl, (raw13 k).trans ?_⟩
  unfold decode13
  rw [c]
  exact (if_pos q).trans (by rw [e0, e1, e2, e3, e4])

theorem shfl (f0 : Fin 64) (f1 : Fin 64) (f2 : Fin 64) (f3 : Bool) (f4 : Bool) : Statement (.shfl f0 f1 f2 f3 f4) := by
  refine of_word rfl fun w hw => ?_
  obtain ⟨hl, k, c, e0, e1, e2, e3, e4⟩ := layout2 f0 f1 f2 f3 f4 20 0 (by decide) (by decide) hw
  refine ⟨hl, (raw14 k).trans ?_⟩
  unfold decode14
  rw [c]
  exact congrArg some (by rw [e0, e1, e2, e3, e4])

theorem shflup (f0 : Fin 64) (f1 : Fin 64) (f2 : Fin 64) (f3 : Bool) (f4 : Bool) : Statement (.shflup f0 f1 f2 f3 f4) := by
  refine of_word rfl fun w hw => ?_
  obtain ⟨hl, k, c, e0, e1, e2, e3, e4⟩ := layout2 f0 f1 f2 f3 f4 20 1 (by decide) (by decide) hw
  refine ⟨hl, (raw14 k).trans ?_⟩
  unfold decode14
  rw [c]
  exact congrArg some (by rw [e0, e1, e2, e3, e4])

theorem shfldn (f0 : Fin 64) (f1 : Fin 64) (f2 : Fin 64) (f3 : Bool) (f4 : Bool) : Statement (.shfldn f0 f1 f2 f3 f4) := by
  refine of_word rfl fun w hw => ?_
  obtain ⟨hl, k, c, e0, e1, e2, e3, e4⟩ := layout2 f0 f1 f2 f3 f4 20 2 (by decide) (by decide) hw
  refine ⟨hl, (raw14 k).trans ?_⟩
  unfold decode14
  rw [c]
  exact congrArg some (by rw [e0, e1, e2, e3, e4])

theorem shflx (f0 : Fin 64) (f1 : Fin 64) (f2 : Fin 64) (f3 : Bool) (f4 : Bool) : Statement (.shflx f0 f1 f2 f3 f4) := by
  refine of_word rfl fun w hw => ?_
  obtain ⟨hl, k, c, e0, e1, e2, e3, e4⟩ := layout2 f0 f1 f2 f3 f4 20 3 (by decide) (by decide) hw
  refine ⟨hl, (raw14 k).trans ?_⟩
  unfold decode14
  rw [c]
  exact congrArg some (by rw [e0, e1, e2, e3, e4])

theorem qswz (f0 : Fin 64) (f1 : Fin 64) (f2 : Fin 64) (f3 : Bool) (f4 : Bool) : Statement (.qswz f0 f1 f2 f3 f4) := by
  refine of_word rfl fun w hw => ?_
  obtain ⟨hl, k, c, e0, e1, e2, e3, e4⟩ := layout2 f0 f1 f2 f3 f4 20 4 (by decide) (by decide) hw
  refine ⟨hl, (raw14 k).trans ?_⟩
  unfold decode14
  rw [c]
  exact congrArg some (by rw [e0, e1, e2, e3, e4])

theorem bcast (f0 : Fin 64) (f1 : Fin 64) (f2 : Fin 64) (f3 : Bool) (f4 : Bool) : Statement (.bcast f0 f1 f2 f3 f4) := by
  refine of_word rfl fun w hw => ?_
  obtain ⟨hl, k, c, e0, e1, e2, e3, e4⟩ := layout2 f0 f1 f2 f3 f4 20 5 (by decide) (by decide) hw
  refine ⟨hl, (raw14 k).trans ?_⟩
  unfold decode14
  rw [c]
  exact congrArg some (by rw [e0, e1, e2, e3, e4])

theorem vrdlane (f0 : Fin 64) (f1 : Fin 64) (f2 : Fin 64) (f3 : Bool) (f4 : Bool) : Statement (.vrdlane f0 f1 f2 f3 f4) := by
  refine of_word rfl fun w hw => ?_
  obtain ⟨hl, k, c, e0, e1, e2, e3, e4⟩ := layout2 f0 f1 f2 f3 f4 20 6 (by decide) (by decide) hw
  refine ⟨hl, (raw14 k).trans ?_⟩
  unfold decode14
  rw [c]
  exact congrArg some (by rw [e0, e1, e2, e3, e4])

theorem vwrlane (f0 : Fin 64) (f1 : Fin 64) (f2 : Fin 64) (f3 : Bool) (f4 : Bool) : Statement (.vwrlane f0 f1 f2 f3 f4) := by
  refine of_word rfl fun w hw => ?_
  obtain ⟨hl, k, c, e0, e1, e2, e3, e4⟩ := layout2 f0 f1 f2 f3 f4 20 7 (by decide) (by decide) hw
  refine ⟨hl, (raw14 k).trans ?_⟩
  unfold decode14
  rw [c]
  exact congrArg some (by rw [e0, e1, e2, e3, e4])

theorem ballot (f0 : Fin 64) (f1 : Fin 64) (f2 : Bool) : Statement (.ballot f0 f1 f2) := by
  refine of_word rfl fun w hw => ?_
  obtain ⟨hl, k, c, q, e0, e1, e2⟩ := layout3 f0 f1 f2 20 8 (by decide) (by decide) hw
  refine ⟨hl, (raw14 k).trans ?_⟩
  unfold decode14
  rw [c]
  exact (if_pos q).trans (by rw [e0, e1, e2])

theorem wradd (f0 : Fin 64) (f1 : Fin 64) (f2 : Bool) : Statement (.wradd f0 f1 f2) := by
  refine of_word rfl fun w hw => ?_
  obtain ⟨hl, k, c, q, e0, e1, e2⟩ := layout3 f0 f1 f2 20 9 (by decide) (by decide) hw
  refine ⟨hl, (raw14 k).trans ?_⟩
  unfold decode14
  rw [c]
  exact (if_pos q).trans (by rw [e0, e1, e2])

theorem wrmin (f0 : Fin 64) (f1 : Fin 64) (f2 : Bool) : Statement (.wrmin f0 f1 f2) := by
  refine of_word rfl fun w hw => ?_
  obtain ⟨hl, k, c, q, e0, e1, e2⟩ := layout3 f0 f1 f2 20 10 (by decide) (by decide) hw
  refine ⟨hl, (raw14 k).trans ?_⟩
  unfold decode14
  rw [c]
  exact (if_pos q).trans (by rw [e0, e1, e2])

theorem wrmax (f0 : Fin 64) (f1 : Fin 64) (f2 : Bool) : Statement (.wrmax f0 f1 f2) := by
  refine of_word rfl fun w hw => ?_
  obtain ⟨hl, k, c, q, e0, e1, e2⟩ := layout3 f0 f1 f2 20 11 (by decide) (by decide) hw
  refine ⟨hl, (raw14 k).trans ?_⟩
  unfold decode14
  rw [c]
  exact (if_pos q).trans (by rw [e0, e1, e2])

theorem wrminz (f0 : Fin 64) (f1 : Fin 64) (f2 : Bool) : Statement (.wrminz f0 f1 f2) := by
  refine of_word rfl fun w hw => ?_
  obtain ⟨hl, k, c, q, e0, e1, e2⟩ := layout3 f0 f1 f2 20 12 (by decide) (by decide) hw
  refine ⟨hl, (raw14 k).trans ?_⟩
  unfold decode14
  rw [c]
  exact (if_pos q).trans (by rw [e0, e1, e2])

theorem wrmaxz (f0 : Fin 64) (f1 : Fin 64) (f2 : Bool) : Statement (.wrmaxz f0 f1 f2) := by
  refine of_word rfl fun w hw => ?_
  obtain ⟨hl, k, c, q, e0, e1, e2⟩ := layout3 f0 f1 f2 20 13 (by decide) (by decide) hw
  refine ⟨hl, (raw14 k).trans ?_⟩
  unfold decode14
  rw [c]
  exact (if_pos q).trans (by rw [e0, e1, e2])

theorem wrfadd (f0 : Fin 64) (f1 : Fin 64) (f2 : Bool) : Statement (.wrfadd f0 f1 f2) := by
  refine of_word rfl fun w hw => ?_
  obtain ⟨hl, k, c, q, e0, e1, e2⟩ := layout3 f0 f1 f2 20 14 (by decide) (by decide) hw
  refine ⟨hl, (raw14 k).trans ?_⟩
  unfold decode14
  rw [c]
  exact (if_pos q).trans (by rw [e0, e1, e2])

theorem wrand (f0 : Fin 64) (f1 : Fin 64) (f2 : Bool) : Statement (.wrand f0 f1 f2) := by
  refine of_word rfl fun w hw => ?_
  obtain ⟨hl, k, c, q, e0, e1, e2⟩ := layout3 f0 f1 f2 20 15 (by decide) (by decide) hw
  refine ⟨hl, (raw14 k).trans ?_⟩
  unfold decode14
  rw [c]
  exact (if_pos q).trans (by rw [e0, e1, e2])

theorem wror (f0 : Fin 64) (f1 : Fin 64) (f2 : Bool) : Statement (.wror f0 f1 f2) := by
  refine of_word rfl fun w hw => ?_
  obtain ⟨hl, k, c, q, e0, e1, e2⟩ := layout3 f0 f1 f2 20 16 (by decide) (by decide) hw
  refine ⟨hl, (raw14 k).trans ?_⟩
  unfold decode14
  rw [c]
  exact (if_pos q).trans (by rw [e0, e1, e2])

theorem wrxor (f0 : Fin 64) (f1 : Fin 64) (f2 : Bool) : Statement (.wrxor f0 f1 f2) := by
  refine of_word rfl fun w hw => ?_
  obtain ⟨hl, k, c, q, e0, e1, e2⟩ := layout3 f0 f1 f2 20 17 (by decide) (by decide) hw
  refine ⟨hl, (raw14 k).trans ?_⟩
  unfold decode14
  rw [c]
  exact (if_pos q).trans (by rw [e0, e1, e2])

theorem fadd (f0 : Fin 64) (f1 : Fin 64) (f2 : Fin 64) (f3 : Bool) (f4 : Bool) : Statement (.fadd f0 f1 f2 f3 f4) := by
  refine of_word rfl fun w hw => ?_
  obtain ⟨hl, k, c, e0, e1, e2, e3, e4⟩ := layout2 f0 f1 f2 f3 f4 21 0 (by decide) (by decide) hw
  refine ⟨hl, (raw15 k).trans ?_⟩
  unfold decode15
  rw [c]
  exact congrArg some (by rw [e0, e1, e2, e3, e4])

theorem fsub (f0 : Fin 64) (f1 : Fin 64) (f2 : Fin 64) (f3 : Bool) (f4 : Bool) : Statement (.fsub f0 f1 f2 f3 f4) := by
  refine of_word rfl fun w hw => ?_
  obtain ⟨hl, k, c, e0, e1, e2, e3, e4⟩ := layout2 f0 f1 f2 f3 f4 21 1 (by decide) (by decide) hw
  refine ⟨hl, (raw15 k).trans ?_⟩
  unfold decode15
  rw [c]
  exact congrArg some (by rw [e0, e1, e2, e3, e4])

theorem fmul (f0 : Fin 64) (f1 : Fin 64) (f2 : Fin 64) (f3 : Bool) (f4 : Bool) : Statement (.fmul f0 f1 f2 f3 f4) := by
  refine of_word rfl fun w hw => ?_
  obtain ⟨hl, k, c, e0, e1, e2, e3, e4⟩ := layout2 f0 f1 f2 f3 f4 21 2 (by decide) (by decide) hw
  refine ⟨hl, (raw15 k).trans ?_⟩
  unfold decode15
  rw [c]
  exact congrArg some (by rw [e0, e1, e2, e3, e4])

theorem fmin (f0 : Fin 64) (f1 : Fin 64) (f2 : Fin 64) (f3 : Bool) (f4 : Bool) : Statement (.fmin f0 f1 f2 f3 f4) := by
  refine of_word rfl fun w hw => ?_
  obtain ⟨hl, k, c, e0, e1, e2, e3, e4⟩ := layout2 f0 f1 f2 f3 f4 21 3 (by decide) (by decide) hw
  refine ⟨hl, (raw15 k).trans ?_⟩
  unfold decode15
  rw [c]
  exact congrArg some (by rw [e0, e1, e2, e3, e4])

theorem fmax (f0 : Fin 64) (f1 : Fin 64) (f2 : Fin 64) (f3 : Bool) (f4 : Bool) : Statement (.fmax f0 f1 f2 f3 f4) := by
  refine of_word rfl fun w hw => ?_
  obtain ⟨hl, k, c, e0, e1, e2, e3, e4⟩ := layout2 f0 f1 f2 f3 f4 21 4 (by decide) (by decide) hw
  refine ⟨hl, (raw15 k).trans ?_⟩
  unfold decode15
  rw [c]
  exact congrArg some (by rw [e0, e1, e2, e3, e4])

theorem fabs (f0 : Fin 64) (f1 : Fin 64) (f2 : Bool) : Statement (.fabs f0 f1 f2) := by
  refine of_word rfl fun w hw => ?_
  obtain ⟨hl, k, c, q, e0, e1, e2⟩ := layout3 f0 f1 f2 21 5 (by decide) (by decide) hw
  refine ⟨hl, (raw15 k).trans ?_⟩
  unfold decode15
  rw [c]
  exact (if_pos q).trans (by rw [e0, e1, e2])

theorem fneg (f0 : Fin 64) (f1 : Fin 64) (f2 : Bool) : Statement (.fneg f0 f1 f2) := by
  refine of_word rfl fun w hw => ?_
  obtain ⟨hl, k, c, q, e0, e1, e2⟩ := layout3 f0 f1 f2 21 6 (by decide) (by decide) hw
  refine ⟨hl, (raw15 k).trans ?_⟩
  unfold decode15
  rw [c]
  exact (if_pos q).trans (by rw [e0, e1, e2])

theorem fsgnj (f0 : Fin 64) (f1 : Fin 64) (f2 : Fin 64) (f3 : Bool) (f4 : Bool) : Statement (.fsgnj f0 f1 f2 f3 f4) := by
  refine of_word rfl fun w hw => ?_
  obtain ⟨hl, k, c, e0, e1, e2, e3, e4⟩ := layout2 f0 f1 f2 f3 f4 21 7 (by decide) (by decide) hw
  refine ⟨hl, (raw15 k).trans ?_⟩
  unfold decode15
  rw [c]
  exact congrArg some (by rw [e0, e1, e2, e3, e4])

theorem frnd (f0 : Fin 64) (f1 : Fin 64) (f2 : Bool) : Statement (.frnd f0 f1 f2) := by
  refine of_word rfl fun w hw => ?_
  obtain ⟨hl, k, c, q, e0, e1, e2⟩ := layout3 f0 f1 f2 21 8 (by decide) (by decide) hw
  refine ⟨hl, (raw15 k).trans ?_⟩
  unfold decode15
  rw [c]
  exact (if_pos q).trans (by rw [e0, e1, e2])

theorem fscaleb (f0 : Fin 64) (f1 : Fin 64) (f2 : Fin 64) (f3 : Bool) (f4 : Bool) : Statement (.fscaleb f0 f1 f2 f3 f4) := by
  refine of_word rfl fun w hw => ?_
  obtain ⟨hl, k, c, e0, e1, e2, e3, e4⟩ := layout2 f0 f1 f2 f3 f4 21 9 (by decide) (by decide) hw
  refine ⟨hl, (raw15 k).trans ?_⟩
  unfold decode15
  rw [c]
  exact congrArg some (by rw [e0, e1, e2, e3, e4])

theorem hadd2 (f0 : Fin 64) (f1 : Fin 64) (f2 : Fin 64) (f3 : Bool) (f4 : Bool) : Statement (.hadd2 f0 f1 f2 f3 f4) := by
  refine of_word rfl fun w hw => ?_
  obtain ⟨hl, k, c, e0, e1, e2, e3, e4⟩ := layout2 f0 f1 f2 f3 f4 21 10 (by decide) (by decide) hw
  refine ⟨hl, (raw15 k).trans ?_⟩
  unfold decode15
  rw [c]
  exact congrArg some (by rw [e0, e1, e2, e3, e4])

theorem hsub2 (f0 : Fin 64) (f1 : Fin 64) (f2 : Fin 64) (f3 : Bool) (f4 : Bool) : Statement (.hsub2 f0 f1 f2 f3 f4) := by
  refine of_word rfl fun w hw => ?_
  obtain ⟨hl, k, c, e0, e1, e2, e3, e4⟩ := layout2 f0 f1 f2 f3 f4 21 11 (by decide) (by decide) hw
  refine ⟨hl, (raw15 k).trans ?_⟩
  unfold decode15
  rw [c]
  exact congrArg some (by rw [e0, e1, e2, e3, e4])

theorem hmul2 (f0 : Fin 64) (f1 : Fin 64) (f2 : Fin 64) (f3 : Bool) (f4 : Bool) : Statement (.hmul2 f0 f1 f2 f3 f4) := by
  refine of_word rfl fun w hw => ?_
  obtain ⟨hl, k, c, e0, e1, e2, e3, e4⟩ := layout2 f0 f1 f2 f3 f4 21 12 (by decide) (by decide) hw
  refine ⟨hl, (raw15 k).trans ?_⟩
  unfold decode15
  rw [c]
  exact congrArg some (by rw [e0, e1, e2, e3, e4])

theorem badd2 (f0 : Fin 64) (f1 : Fin 64) (f2 : Fin 64) (f3 : Bool) (f4 : Bool) : Statement (.badd2 f0 f1 f2 f3 f4) := by
  refine of_word rfl fun w hw => ?_
  obtain ⟨hl, k, c, e0, e1, e2, e3, e4⟩ := layout2 f0 f1 f2 f3 f4 21 13 (by decide) (by decide) hw
  refine ⟨hl, (raw15 k).trans ?_⟩
  unfold decode15
  rw [c]
  exact congrArg some (by rw [e0, e1, e2, e3, e4])

theorem bsub2 (f0 : Fin 64) (f1 : Fin 64) (f2 : Fin 64) (f3 : Bool) (f4 : Bool) : Statement (.bsub2 f0 f1 f2 f3 f4) := by
  refine of_word rfl fun w hw => ?_
  obtain ⟨hl, k, c, e0, e1, e2, e3, e4⟩ := layout2 f0 f1 f2 f3 f4 21 14 (by decide) (by decide) hw
  refine ⟨hl, (raw15 k).trans ?_⟩
  unfold decode15
  rw [c]
  exact congrArg some (by rw [e0, e1, e2, e3, e4])

theorem bmul2 (f0 : Fin 64) (f1 : Fin 64) (f2 : Fin 64) (f3 : Bool) (f4 : Bool) : Statement (.bmul2 f0 f1 f2 f3 f4) := by
  refine of_word rfl fun w hw => ?_
  obtain ⟨hl, k, c, e0, e1, e2, e3, e4⟩ := layout2 f0 f1 f2 f3 f4 21 15 (by decide) (by decide) hw
  refine ⟨hl, (raw15 k).trans ?_⟩
  unfold decode15
  rw [c]
  exact congrArg some (by rw [e0, e1, e2, e3, e4])

theorem dadd (f0 : Fin 64) (f1 : Fin 64) (f2 : Fin 64) (f3 : Bool) (f4 : Bool) : Statement (.dadd f0 f1 f2 f3 f4) := by
  refine of_word rfl fun w hw => ?_
  obtain ⟨hl, k, c, e0, e1, e2, e3, e4⟩ := layout2 f0 f1 f2 f3 f4 21 16 (by decide) (by decide) hw
  refine ⟨hl, (raw15 k).trans ?_⟩
  unfold decode15
  rw [c]
  exact congrArg some (by rw [e0, e1, e2, e3, e4])

theorem dsub (f0 : Fin 64) (f1 : Fin 64) (f2 : Fin 64) (f3 : Bool) (f4 : Bool) : Statement (.dsub f0 f1 f2 f3 f4) := by
  refine of_word rfl fun w hw => ?_
  obtain ⟨hl, k, c, e0, e1, e2, e3, e4⟩ := layout2 f0 f1 f2 f3 f4 21 17 (by decide) (by decide) hw
  refine ⟨hl, (raw15 k).trans ?_⟩
  unfold decode15
  rw [c]
  exact congrArg some (by rw [e0, e1, e2, e3, e4])

theorem dmul (f0 : Fin 64) (f1 : Fin 64) (f2 : Fin 64) (f3 : Bool) (f4 : Bool) : Statement (.dmul f0 f1 f2 f3 f4) := by
  refine of_word rfl fun w hw => ?_
  obtain ⟨hl, k, c, e0, e1, e2, e3, e4⟩ := layout2 f0 f1 f2 f3 f4 21 18 (by decide) (by decide) hw
  refine ⟨hl, (raw15 k).trans ?_⟩
  unfold decode15
  rw [c]
  exact congrArg some (by rw [e0, e1, e2, e3, e4])

theorem faddScalar (f0 : Fin 64) (f1 : Fin 64) (f2 : Fin 64) (f3 : Bool) (f4 : Bool) : Statement (.faddScalar f0 f1 f2 f3 f4) := by
  refine of_word rfl fun w hw => ?_
  obtain ⟨hl, k, c, e0, e1, e2, e3, e4⟩ := layout2 f0 f1 f2 f3 f4 22 0 (by decide) (by decide) hw
  refine ⟨hl, (raw16 k).trans ?_⟩
  unfold decode16
  rw [c]
  exact congrArg some (by rw [e0, e1, e2, e3, e4])

theorem fsubScalar (f0 : Fin 64) (f1 : Fin 64) (f2 : Fin 64) (f3 : Bool) (f4 : Bool) : Statement (.fsubScalar f0 f1 f2 f3 f4) := by
  refine of_word rfl fun w hw => ?_
  obtain ⟨hl, k, c, e0, e1, e2, e3, e4⟩ := layout2 f0 f1 f2 f3 f4 22 1 (by decide) (by decide) hw
  refine ⟨hl, (raw16 k).trans ?_⟩
  unfold decode16
  rw [c]
  exact congrArg some (by rw [e0, e1, e2, e3, e4])

theorem fmulScalar (f0 : Fin 64) (f1 : Fin 64) (f2 : Fin 64) (f3 : Bool) (f4 : Bool) : Statement (.fmulScalar f0 f1 f2 f3 f4) := by
  refine of_word rfl fun w hw => ?_
  obtain ⟨hl, k, c, e0, e1, e2, e3, e4⟩ := layout2 f0 f1 f2 f3 f4 22 2 (by decide) (by decide) hw
  refine ⟨hl, (raw16 k).trans ?_⟩
  unfold decode16
  rw [c]
  exact congrArg some (by rw [e0, e1, e2, e3, e4])

theorem fminScalar (f0 : Fin 64) (f1 : Fin 64) (f2 : Fin 64) (f3 : Bool) (f4 : Bool) : Statement (.fminScalar f0 f1 f2 f3 f4) := by
  refine of_word rfl fun w hw => ?_
  obtain ⟨hl, k, c, e0, e1, e2, e3, e4⟩ := layout2 f0 f1 f2 f3 f4 22 3 (by decide) (by decide) hw
  refine ⟨hl, (raw16 k).trans ?_⟩
  unfold decode16
  rw [c]
  exact congrArg some (by rw [e0, e1, e2, e3, e4])

theorem fmaxScalar (f0 : Fin 64) (f1 : Fin 64) (f2 : Fin 64) (f3 : Bool) (f4 : Bool) : Statement (.fmaxScalar f0 f1 f2 f3 f4) := by
  refine of_word rfl fun w hw => ?_
  obtain ⟨hl, k, c, e0, e1, e2, e3, e4⟩ := layout2 f0 f1 f2 f3 f4 22 4 (by decide) (by decide) hw
  refine ⟨hl, (raw16 k).trans ?_⟩
  unfold decode16
  rw [c]
  exact congrArg some (by rw [e0, e1, e2, e3, e4])

theorem fsgnjScalar (f0 : Fin 64) (f1 : Fin 64) (f2 : Fin 64) (f3 : Bool) (f4 : Bool) : Statement (.fsgnjScalar f0 f1 f2 f3 f4) := by
  refine of_word rfl fun w hw => ?_
  obtain ⟨hl, k, c, e0, e1, e2, e3, e4⟩ := layout2 f0 f1 f2 f3 f4 22 7 (by decide) (by decide) hw
  refine ⟨hl, (raw16 k).trans ?_⟩
  unfold decode16
  rw [c]
  exact congrArg some (by rw [e0, e1, e2, e3, e4])

theorem fscalebScalar (f0 : Fin 64) (f1 : Fin 64) (f2 : Fin 64) (f3 : Bool) (f4 : Bool) : Statement (.fscalebScalar f0 f1 f2 f3 f4) := by
  refine of_word rfl fun w hw => ?_
  obtain ⟨hl, k, c, e0, e1, e2, e3, e4⟩ := layout2 f0 f1 f2 f3 f4 22 9 (by decide) (by decide) hw
  refine ⟨hl, (raw16 k).trans ?_⟩
  unfold decode16
  rw [c]
  exact congrArg some (by rw [e0, e1, e2, e3, e4])

theorem hadd2Scalar (f0 : Fin 64) (f1 : Fin 64) (f2 : Fin 64) (f3 : Bool) (f4 : Bool) : Statement (.hadd2Scalar f0 f1 f2 f3 f4) := by
  refine of_word rfl fun w hw => ?_
  obtain ⟨hl, k, c, e0, e1, e2, e3, e4⟩ := layout2 f0 f1 f2 f3 f4 22 10 (by decide) (by decide) hw
  refine ⟨hl, (raw16 k).trans ?_⟩
  unfold decode16
  rw [c]
  exact congrArg some (by rw [e0, e1, e2, e3, e4])

theorem hsub2Scalar (f0 : Fin 64) (f1 : Fin 64) (f2 : Fin 64) (f3 : Bool) (f4 : Bool) : Statement (.hsub2Scalar f0 f1 f2 f3 f4) := by
  refine of_word rfl fun w hw => ?_
  obtain ⟨hl, k, c, e0, e1, e2, e3, e4⟩ := layout2 f0 f1 f2 f3 f4 22 11 (by decide) (by decide) hw
  refine ⟨hl, (raw16 k).trans ?_⟩
  unfold decode16
  rw [c]
  exact congrArg some (by rw [e0, e1, e2, e3, e4])

theorem hmul2Scalar (f0 : Fin 64) (f1 : Fin 64) (f2 : Fin 64) (f3 : Bool) (f4 : Bool) : Statement (.hmul2Scalar f0 f1 f2 f3 f4) := by
  refine of_word rfl fun w hw => ?_
  obtain ⟨hl, k, c, e0, e1, e2, e3, e4⟩ := layout2 f0 f1 f2 f3 f4 22 12 (by decide) (by decide) hw
  refine ⟨hl, (raw16 k).trans ?_⟩
  unfold decode16
  rw [c]
  exact congrArg some (by rw [e0, e1, e2, e3, e4])

theorem badd2Scalar (f0 : Fin 64) (f1 : Fin 64) (f2 : Fin 64) (f3 : Bool) (f4 : Bool) : Statement (.badd2Scalar f0 f1 f2 f3 f4) := by
  refine of_word rfl fun w hw => ?_
  obtain ⟨hl, k, c, e0, e1, e2, e3, e4⟩ := layout2 f0 f1 f2 f3 f4 22 13 (by decide) (by decide) hw
  refine ⟨hl, (raw16 k).trans ?_⟩
  unfold decode16
  rw [c]
  exact congrArg some (by rw [e0, e1, e2, e3, e4])

theorem bsub2Scalar (f0 : Fin 64) (f1 : Fin 64) (f2 : Fin 64) (f3 : Bool) (f4 : Bool) : Statement (.bsub2Scalar f0 f1 f2 f3 f4) := by
  refine of_word rfl fun w hw => ?_
  obtain ⟨hl, k, c, e0, e1, e2, e3, e4⟩ := layout2 f0 f1 f2 f3 f4 22 14 (by decide) (by decide) hw
  refine ⟨hl, (raw16 k).trans ?_⟩
  unfold decode16
  rw [c]
  exact congrArg some (by rw [e0, e1, e2, e3, e4])

theorem bmul2Scalar (f0 : Fin 64) (f1 : Fin 64) (f2 : Fin 64) (f3 : Bool) (f4 : Bool) : Statement (.bmul2Scalar f0 f1 f2 f3 f4) := by
  refine of_word rfl fun w hw => ?_
  obtain ⟨hl, k, c, e0, e1, e2, e3, e4⟩ := layout2 f0 f1 f2 f3 f4 22 15 (by decide) (by decide) hw
  refine ⟨hl, (raw16 k).trans ?_⟩
  unfold decode16
  rw [c]
  exact congrArg some (by rw [e0, e1, e2, e3, e4])

theorem daddScalar (f0 : Fin 64) (f1 : Fin 64) (f2 : Fin 64) (f3 : Bool) (f4 : Bool) : Statement (.daddScalar f0 f1 f2 f3 f4) := by
  refine of_word rfl fun w hw => ?_
  obtain ⟨hl, k, c, e0, e1, e2, e3, e4⟩ := layout2 f0 f1 f2 f3 f4 22 16 (by decide) (by decide) hw
  refine ⟨hl, (raw16 k).trans ?_⟩
  unfold decode16
  rw [c]
  exact congrArg some (by rw [e0, e1, e2, e3, e4])

theorem dsubScalar (f0 : Fin 64) (f1 : Fin 64) (f2 : Fin 64) (f3 : Bool) (f4 : Bool) : Statement (.dsubScalar f0 f1 f2 f3 f4) := by
  refine of_word rfl fun w hw => ?_
  obtain ⟨hl, k, c, e0, e1, e2, e3, e4⟩ := layout2 f0 f1 f2 f3 f4 22 17 (by decide) (by decide) hw
  refine ⟨hl, (raw16 k).trans ?_⟩
  unfold decode16
  rw [c]
  exact congrArg some (by rw [e0, e1, e2, e3, e4])

theorem dmulScalar (f0 : Fin 64) (f1 : Fin 64) (f2 : Fin 64) (f3 : Bool) (f4 : Bool) : Statement (.dmulScalar f0 f1 f2 f3 f4) := by
  refine of_word rfl fun w hw => ?_
  obtain ⟨hl, k, c, e0, e1, e2, e3, e4⟩ := layout2 f0 f1 f2 f3 f4 22 18 (by decide) (by decide) hw
  refine ⟨hl, (raw16 k).trans ?_⟩
  unfold decode16
  rw [c]
  exact congrArg some (by rw [e0, e1, e2, e3, e4])

theorem rcp (f0 : Fin 64) (f1 : Fin 64) (f2 : Bool) : Statement (.rcp f0 f1 f2) := by
  refine of_word rfl fun w hw => ?_
  obtain ⟨hl, k, c, q, e0, e1, e2⟩ := layout3 f0 f1 f2 23 0 (by decide) (by decide) hw
  refine ⟨hl, (raw17 k).trans ?_⟩
  unfold decode17
  rw [c]
  exact (if_pos q).trans (by rw [e0, e1, e2])

theorem rsq (f0 : Fin 64) (f1 : Fin 64) (f2 : Bool) : Statement (.rsq f0 f1 f2) := by
  refine of_word rfl fun w hw => ?_
  obtain ⟨hl, k, c, q, e0, e1, e2⟩ := layout3 f0 f1 f2 23 1 (by decide) (by decide) hw
  refine ⟨hl, (raw17 k).trans ?_⟩
  unfold decode17
  rw [c]
  exact (if_pos q).trans (by rw [e0, e1, e2])

theorem sqrtF (f0 : Fin 64) (f1 : Fin 64) (f2 : Bool) : Statement (.sqrtF f0 f1 f2) := by
  refine of_word rfl fun w hw => ?_
  obtain ⟨hl, k, c, q, e0, e1, e2⟩ := layout3 f0 f1 f2 23 2 (by decide) (by decide) hw
  refine ⟨hl, (raw17 k).trans ?_⟩
  unfold decode17
  rw [c]
  exact (if_pos q).trans (by rw [e0, e1, e2])

theorem log2F (f0 : Fin 64) (f1 : Fin 64) (f2 : Bool) : Statement (.log2F f0 f1 f2) := by
  refine of_word rfl fun w hw => ?_
  obtain ⟨hl, k, c, q, e0, e1, e2⟩ := layout3 f0 f1 f2 23 3 (by decide) (by decide) hw
  refine ⟨hl, (raw17 k).trans ?_⟩
  unfold decode17
  rw [c]
  exact (if_pos q).trans (by rw [e0, e1, e2])

theorem exp2F (f0 : Fin 64) (f1 : Fin 64) (f2 : Bool) : Statement (.exp2F f0 f1 f2) := by
  refine of_word rfl fun w hw => ?_
  obtain ⟨hl, k, c, q, e0, e1, e2⟩ := layout3 f0 f1 f2 23 4 (by decide) (by decide) hw
  refine ⟨hl, (raw17 k).trans ?_⟩
  unfold decode17
  rw [c]
  exact (if_pos q).trans (by rw [e0, e1, e2])

theorem fdiv (f0 : Fin 64) (f1 : Fin 64) (f2 : Fin 64) (f3 : Bool) (f4 : Bool) : Statement (.fdiv f0 f1 f2 f3 f4) := by
  refine of_word rfl fun w hw => ?_
  obtain ⟨hl, k, c, e0, e1, e2, e3, e4⟩ := layout2 f0 f1 f2 f3 f4 23 5 (by decide) (by decide) hw
  refine ⟨hl, (raw17 k).trans ?_⟩
  unfold decode17
  rw [c]
  exact congrArg some (by rw [e0, e1, e2, e3, e4])

theorem dsqrt (f0 : Fin 64) (f1 : Fin 64) (f2 : Bool) : Statement (.dsqrt f0 f1 f2) := by
  refine of_word rfl fun w hw => ?_
  obtain ⟨hl, k, c, q, e0, e1, e2⟩ := layout3 f0 f1 f2 23 6 (by decide) (by decide) hw
  refine ⟨hl, (raw17 k).trans ?_⟩
  unfold decode17
  rw [c]
  exact (if_pos q).trans (by rw [e0, e1, e2])

theorem ddiv (f0 : Fin 64) (f1 : Fin 64) (f2 : Fin 64) (f3 : Bool) (f4 : Bool) : Statement (.ddiv f0 f1 f2 f3 f4) := by
  refine of_word rfl fun w hw => ?_
  obtain ⟨hl, k, c, e0, e1, e2, e3, e4⟩ := layout2 f0 f1 f2 f3 f4 23 7 (by decide) (by decide) hw
  refine ⟨hl, (raw17 k).trans ?_⟩
  unfold decode17
  rw [c]
  exact congrArg some (by rw [e0, e1, e2, e3, e4])

theorem layout20 (f0 : Fin 64) (f1 : Fin 64) (f2 : Fin 64) (f3 : Fin 64) (f4 : Bool) {w : Nat} (m : Nat) (c : Nat) (hm : m < 64) (hc : c < 2)
     (hw : w = m * 67108864 + c * 1 + f0.val * 1048576 + f1.val * 16384 + f2.val * 256 + f3.val * 4 + f4.toNat * 2) :
     w < 4294967296 ∧ w / 67108864 = m ∧ w % 2 = c ∧ fieldAt 20 64 w = f0 ∧ fieldAt 14 64 w = f1 ∧ fieldAt 8 64 w = f2 ∧ fieldAt 2 64 w = f3 ∧ bitAt 1 w = f4 := by
  have h0 := f0.isLt
  have h1 := f1.isLt
  have h2 := f2.isLt
  have h3 := f3.isLt
  have h4 := f4.toNat_le
  exact ⟨by omega, by omega, by omega, fieldAt_eq f0 (by omega), fieldAt_eq f1 (by omega), fieldAt_eq f2 (by omega), fieldAt_eq f3 (by omega), bitAt_eq f4 (by omega)⟩

theorem ffma (f0 : Fin 64) (f1 : Fin 64) (f2 : Fin 64) (f3 : Fin 64) (f4 : Bool) : Statement (.ffma f0 f1 f2 f3 f4) := by
  refine of_word rfl fun w hw => ?_
  obtain ⟨hl, k, c, e0, e1, e2, e3, e4⟩ := layout20 f0 f1 f2 f3 f4 24 0 (by decide) (by decide) hw
  refine ⟨hl, (raw18 k).trans ?_⟩
  unfold decode18
  rw [c]
  exact congrArg some (by rw [e0, e1, e2, e3, e4])

theorem hfma2 (f0 : Fin 64) (f1 : Fin 64) (f2 : Fin 64) (f3 : Fin 64) (f4 : Bool) : Statement (.hfma2 f0 f1 f2 f3 f4) := by
  refine of_word rfl fun w hw => ?_
  obtain ⟨hl, k, c, e0, e1, e2, e3, e4⟩ := layout20 f0 f1 f2 f3 f4 24 1 (by decide) (by decide) hw
  refine ⟨hl, (raw18 k).trans ?_⟩
  unfold decode18
  rw [c]
  exact congrArg some (by rw [e0, e1, e2, e3, e4])

theorem bfma2 (f0 : Fin 64) (f1 : Fin 64) (f2 : Fin 64) (f3 : Fin 64) (f4 : Bool) : Statement (.bfma2 f0 f1 f2 f3 f4) := by
  refine of_word rfl fun w hw => ?_
  obtain ⟨hl, k, c, e0, e1, e2, e3, e4⟩ := layout20 f0 f1 f2 f3 f4 25 0 (by decide) (by decide) hw
  refine ⟨hl, (raw19 k).trans ?_⟩
  unfold decode19
  rw [c]
  exact congrArg some (by rw [e0, e1, e2, e3, e4])

theorem dfma (f0 : Fin 64) (f1 : Fin 64) (f2 : Fin 64) (f3 : Fin 64) (f4 : Bool) : Statement (.dfma f0 f1 f2 f3 f4) := by
  refine of_word rfl fun w hw => ?_
  obtain ⟨hl, k, c, e0, e1, e2, e3, e4⟩ := layout20 f0 f1 f2 f3 f4 25 1 (by decide) (by decide) hw
  refine ⟨hl, (raw19 k).trans ?_⟩
  unfold decode19
  rw [c]
  exact congrArg some (by rw [e0, e1, e2, e3, e4])

theorem exp2x (f0 : Fin 64) (f1 : Fin 64) (f2 : Fin 64) (f3 : Fin 64) (f4 : Bool) : Statement (.exp2x f0 f1 f2 f3 f4) := by
  refine of_word rfl fun w hw => ?_
  obtain ⟨hl, k, c, e0, e1, e2, e3, e4⟩ := layout20 f0 f1 f2 f3 f4 26 0 (by decide) (by decide) hw
  refine ⟨hl, (raw1A k).trans ?_⟩
  unfold decode1A
  rw [c]
  exact congrArg some (by rw [e0, e1, e2, e3, e4])

theorem vmad (f0 : Fin 64) (f1 : Fin 64) (f2 : Fin 64) (f3 : Fin 64) (f4 : Bool) : Statement (.vmad f0 f1 f2 f3 f4) := by
  refine of_word rfl fun w hw => ?_
  obtain ⟨hl, k, c, e0, e1, e2, e3, e4⟩ := layout20 f0 f1 f2 f3 f4 26 1 (by decide) (by decide) hw
  refine ⟨hl, (raw1A k).trans ?_⟩
  unfold decode1A
  rw [c]
  exact congrArg some (by rw [e0, e1, e2, e3, e4])

theorem layout21 (f0 : Fin 64) (f1 : Fin 64) (f2 : Fin 64) (f3 : Fin 8) (f4 : Bool) (f5 : Bool) {w : Nat} (m : Nat) (hm : m < 64)
     (hw : w = m * 67108864 + f0.val * 1048576 + f1.val * 16384 + f2.val * 256 + f3.val * 32 + f4.toNat * 2 + f5.toNat) :
     w < 4294967296 ∧ w / 67108864 = m ∧ (w / 4 % 8 = 0) ∧ fieldAt 20 64 w = f0 ∧ fieldAt 14 64 w = f1 ∧ fieldAt 8 64 w = f2 ∧ fieldAt 5 8 w = f3 ∧ bitAt 1 w = f4 ∧ bitAt 0 w = f5 := by
  have h0 := f0.isLt
  have h1 := f1.isLt
  have h2 := f2.isLt
  have h3 := f3.isLt
  have h4 := f4.toNat_le
  have h5 := f5.toNat_le
  exact ⟨by omega, by omega, by omega, fieldAt_eq f0 (by omega), fieldAt_eq f1 (by omega), fieldAt_eq f2 (by omega), fieldAt_eq f3 (by omega), bitAt_eq f4 (by omega), bitAt_eq f5 (by omega)⟩

theorem vsel (f0 : Fin 64) (f1 : Fin 64) (f2 : Fin 64) (f3 : Fin 8) (f4 : Bool) (f5 : Bool) : Statement (.vsel f0 f1 f2 f3 f4 f5) := by
  refine of_word rfl fun w hw => ?_
  obtain ⟨hl, k, q, e0, e1, e2, e3, e4, e5⟩ := layout21 f0 f1 f2 f3 f4 f5 27 (by decide) hw
  refine ⟨hl, (raw1B k).trans ?_⟩
  unfold decode1B
  exact (if_pos q).trans (by rw [e0, e1, e2, e3, e4, e5])

theorem layout22 (f0 : Fin 64) (f1 : Fin 64) (f2 : Fin 64) (f3 : Fin 8) (f4 : Fin 4) (f5 : Bool) {w : Nat} (m : Nat) (c : Nat) (hm : m < 64) (hc : c < 4)
     (hw : w = m * 67108864 + c * 2 + f0.val * 1048576 + f1.val * 16384 + f2.val * 256 + f3.val * 32 + f4.val * 8 + f5.toNat) :
     w < 4294967296 ∧ w / 67108864 = m ∧ w / 2 % 4 = c ∧ fieldAt 20 64 w = f0 ∧ fieldAt 14 64 w = f1 ∧ fieldAt 8 64 w = f2 ∧ fieldAt 5 8 w = f3 ∧ fieldAt 3 4 w = f4 ∧ bitAt 0 w = f5 := by
  have h0 := f0.isLt
  have h1 := f1.isLt
  have h2 := f2.isLt
  have h3 := f3.isLt
  have h4 := f4.isLt
  have h5 := f5.toNat_le
  exact ⟨by omega, by omega, by omega, fieldAt_eq f0 (by omega), fieldAt_eq f1 (by omega), fieldAt_eq f2 (by omega), fieldAt_eq f3 (by omega), fieldAt_eq f4 (by omega), bitAt_eq f5 (by omega)⟩

theorem ld (f0 : Fin 64) (f1 : Fin 64) (f2 : Fin 64) (f3 : Fin 8) (f4 : Fin 4) (f5 : Bool) : Statement (.ld f0 f1 f2 f3 f4 f5) := by
  refine of_word rfl fun w hw => ?_
  obtain ⟨hl, k, c, e0, e1, e2, e3, e4, e5⟩ := layout22 f0 f1 f2 f3 f4 f5 28 0 (by decide) (by decide) hw
  refine ⟨hl, (raw1C k).trans ?_⟩
  unfold decode1C
  rw [c]
  exact congrArg some (by rw [e0, e1, e2, e3, e4, e5])

theorem ldNt (f0 : Fin 64) (f1 : Fin 64) (f2 : Fin 64) (f3 : Fin 8) (f4 : Fin 4) (f5 : Bool) : Statement (.ldNt f0 f1 f2 f3 f4 f5) := by
  refine of_word rfl fun w hw => ?_
  obtain ⟨hl, k, c, e0, e1, e2, e3, e4, e5⟩ := layout22 f0 f1 f2 f3 f4 f5 28 1 (by decide) (by decide) hw
  refine ⟨hl, (raw1C k).trans ?_⟩
  unfold decode1C
  rw [c]
  exact congrArg some (by rw [e0, e1, e2, e3, e4, e5])

theorem ldAcq (f0 : Fin 64) (f1 : Fin 64) (f2 : Fin 64) (f3 : Fin 8) (f4 : Fin 4) (f5 : Bool) : Statement (.ldAcq f0 f1 f2 f3 f4 f5) := by
  refine of_word rfl fun w hw => ?_
  obtain ⟨hl, k, c, e0, e1, e2, e3, e4, e5⟩ := layout22 f0 f1 f2 f3 f4 f5 28 2 (by decide) (by decide) hw
  refine ⟨hl, (raw1C k).trans ?_⟩
  unfold decode1C
  rw [c]
  exact congrArg some (by rw [e0, e1, e2, e3, e4, e5])

theorem st (f0 : Fin 64) (f1 : Fin 64) (f2 : Fin 64) (f3 : Fin 8) (f4 : Fin 4) (f5 : Bool) : Statement (.st f0 f1 f2 f3 f4 f5) := by
  refine of_word rfl fun w hw => ?_
  obtain ⟨hl, k, c, e0, e1, e2, e3, e4, e5⟩ := layout22 f0 f1 f2 f3 f4 f5 29 0 (by decide) (by decide) hw
  refine ⟨hl, (raw1D k).trans ?_⟩
  unfold decode1D
  rw [c]
  exact congrArg some (by rw [e0, e1, e2, e3, e4, e5])

theorem stNt (f0 : Fin 64) (f1 : Fin 64) (f2 : Fin 64) (f3 : Fin 8) (f4 : Fin 4) (f5 : Bool) : Statement (.stNt f0 f1 f2 f3 f4 f5) := by
  refine of_word rfl fun w hw => ?_
  obtain ⟨hl, k, c, e0, e1, e2, e3, e4, e5⟩ := layout22 f0 f1 f2 f3 f4 f5 29 1 (by decide) (by decide) hw
  refine ⟨hl, (raw1D k).trans ?_⟩
  unfold decode1D
  rw [c]
  exact congrArg some (by rw [e0, e1, e2, e3, e4, e5])

theorem stRel (f0 : Fin 64) (f1 : Fin 64) (f2 : Fin 64) (f3 : Fin 8) (f4 : Fin 4) (f5 : Bool) : Statement (.stRel f0 f1 f2 f3 f4 f5) := by
  refine of_word rfl fun w hw => ?_
  obtain ⟨hl, k, c, e0, e1, e2, e3, e4, e5⟩ := layout22 f0 f1 f2 f3 f4 f5 29 2 (by decide) (by decide) hw
  refine ⟨hl, (raw1D k).trans ?_⟩
  unfold decode1D
  rw [c]
  exact congrArg some (by rw [e0, e1, e2, e3, e4, e5])

theorem layout23 (f0 : Fin 64) (f1 : BitVec 10) (f2 : Bool) {w : Nat} (m : Nat) (c : Nat) (hm : m < 64) (hc : c < 8)
     (hw : w = m * 67108864 + c * 2048 + f0.val * 1048576 + f1.toNat * 2 + f2.toNat) :
     w < 4294967296 ∧ w / 67108864 = m ∧ w / 2048 % 8 = c ∧ (w / 16384 % 64 = 0) ∧ fieldAt 20 64 w = f0 ∧ BitVec.ofNat 10 (w / 2) = f1 ∧ bitAt 0 w = f2 := by
  have h0 := f0.isLt
  have h1 := f1.isLt
  have h2 := f2.toNat_le
  exact ⟨by omega, by omega, by omega, by omega, fieldAt_eq f0 (by omega), ofNat_eq f1 (by omega), bitAt_eq f2 (by omega)⟩

theorem ldp32 (f0 : Fin 64) (f1 : BitVec 10) (f2 : Bool) : Statement (.ldp32 f0 f1 f2) := by
  refine of_word rfl fun w hw => ?_
  obtain ⟨hl, k, c, q, e0, e1, e2⟩ := layout23 f0 f1 f2 30 0 (by decide) (by decide) hw
  refine ⟨hl, (raw1E k).trans ?_⟩
  unfold decode1E
  rw [c]
  exact (if_pos q).trans (by rw [e0, e1, e2])

theorem ldp64 (f0 : Fin 64) (f1 : BitVec 10) (f2 : Bool) : Statement (.ldp64 f0 f1 f2) := by
  refine of_word rfl fun w hw => ?_
  obtain ⟨hl, k, c, q, e0, e1, e2⟩ := layout23 f0 f1 f2 30 1 (by decide) (by decide) hw
  refine ⟨hl, (raw1E k).trans ?_⟩
  unfold decode1E
  rw [c]
  exact (if_pos q).trans (by rw [e0, e1, e2])

theorem ldp128 (f0 : Fin 64) (f1 : BitVec 10) (f2 : Bool) : Statement (.ldp128 f0 f1 f2) := by
  refine of_word rfl fun w hw => ?_
  obtain ⟨hl, k, c, q, e0, e1, e2⟩ := layout23 f0 f1 f2 30 2 (by decide) (by decide) hw
  refine ⟨hl, (raw1E k).trans ?_⟩
  unfold decode1E
  rw [c]
  exact (if_pos q).trans (by rw [e0, e1, e2])

theorem stp32 (f0 : Fin 64) (f1 : BitVec 10) (f2 : Bool) : Statement (.stp32 f0 f1 f2) := by
  refine of_word rfl fun w hw => ?_
  obtain ⟨hl, k, c, q, e0, e1, e2⟩ := layout23 f0 f1 f2 30 3 (by decide) (by decide) hw
  refine ⟨hl, (raw1E k).trans ?_⟩
  unfold decode1E
  rw [c]
  exact (if_pos q).trans (by rw [e0, e1, e2])

theorem stp64 (f0 : Fin 64) (f1 : BitVec 10) (f2 : Bool) : Statement (.stp64 f0 f1 f2) := by
  refine of_word rfl fun w hw => ?_
  obtain ⟨hl, k, c, q, e0, e1, e2⟩ := layout23 f0 f1 f2 30 4 (by decide) (by decide) hw
  refine ⟨hl, (raw1E k).trans ?_⟩
  unfold decode1E
  rw [c]
  exact (if_pos q).trans (by rw [e0, e1, e2])

theorem stp128 (f0 : Fin 64) (f1 : BitVec 10) (f2 : Bool) : Statement (.stp128 f0 f1 f2) := by
  refine of_word rfl fun w hw => ?_
  obtain ⟨hl, k, c, q, e0, e1, e2⟩ := layout23 f0 f1 f2 30 5 (by decide) (by decide) hw
  refine ⟨hl, (raw1E k).trans ?_⟩
  unfold decode1E
  rw [c]
  exact (if_pos q).trans (by rw [e0, e1, e2])

theorem layout24 (f0 : Fin 64) (f1 : Fin 64) (f2 : Bool) {w : Nat} (m : Nat) (c : Nat) (hm : m < 64) (hc : c < 4)
     (hw : w = m * 67108864 + c * 2 + f0.val * 16384 + f1.val * 256 + f2.toNat) :
     w < 4294967296 ∧ w / 67108864 = m ∧ w / 2 % 4 = c ∧ (w / 8 % 32 = 0 ∧ w / 1048576 % 64 = 0) ∧ fieldAt 14 64 w = f0 ∧ fieldAt 8 64 w = f1 ∧ bitAt 0 w = f2 := by
  have h0 := f0.isLt
  have h1 := f1.isLt
  have h2 := f2.toNat_le
  exact ⟨by omega, by omega, by omega, by omega, fieldAt_eq f0 (by omega), fieldAt_eq f1 (by omega), bitAt_eq f2 (by omega)⟩

theorem pref (f0 : Fin 64) (f1 : Fin 64) (f2 : Bool) : Statement (.pref f0 f1 f2) := by
  refine of_word rfl fun w hw => ?_
  obtain ⟨hl, k, c, q, e0, e1, e2⟩ := layout24 f0 f1 f2 31 0 (by decide) (by decide) hw
  refine ⟨hl, (raw1F k).trans ?_⟩
  unfold decode1F
  rw [c]
  exact (if_pos q).trans (by rw [e0, e1, e2])

theorem invl (f0 : Fin 64) (f1 : Fin 64) (f2 : Bool) : Statement (.invl f0 f1 f2) := by
  refine of_word rfl fun w hw => ?_
  obtain ⟨hl, k, c, q, e0, e1, e2⟩ := layout24 f0 f1 f2 31 1 (by decide) (by decide) hw
  refine ⟨hl, (raw1F k).trans ?_⟩
  unfold decode1F
  rw [c]
  exact (if_pos q).trans (by rw [e0, e1, e2])

theorem wbk (f0 : Fin 64) (f1 : Fin 64) (f2 : Bool) : Statement (.wbk f0 f1 f2) := by
  refine of_word rfl fun w hw => ?_
  obtain ⟨hl, k, c, q, e0, e1, e2⟩ := layout24 f0 f1 f2 31 2 (by decide) (by decide) hw
  refine ⟨hl, (raw1F k).trans ?_⟩
  unfold decode1F
  rw [c]
  exact (if_pos q).trans (by rw [e0, e1, e2])

theorem layout25 (f0 : Fin 64) (f1 : Fin 64) (f2 : Fin 4) (f3 : Bool) {w : Nat} (m : Nat) (c : Nat) (hm : m < 64) (hc : c < 4)
     (hw : w = m * 67108864 + c * 2 + f0.val * 16384 + f1.val * 256 + f2.val * 8 + f3.toNat) :
     w < 4294967296 ∧ w / 67108864 = m ∧ w / 2 % 4 = c ∧ (w / 32 % 8 = 0 ∧ w / 1048576 % 64 = 0) ∧ fieldAt 14 64 w = f0 ∧ fieldAt 8 64 w = f1 ∧ fieldAt 3 4 w = f2 ∧ bitAt 0 w = f3 := by
  have h0 := f0.isLt
  have h1 := f1.isLt
  have h2 := f2.isLt
  have h3 := f3.toNat_le
  exact ⟨by omega, by omega, by omega, by omega, fieldAt_eq f0 (by omega), fieldAt_eq f1 (by omega), fieldAt_eq f2 (by omega), bitAt_eq f3 (by omega)⟩

theorem zero (f0 : Fin 64) (f1 : Fin 64) (f2 : Fin 4) (f3 : Bool) : Statement (.zero f0 f1 f2 f3) := by
  refine of_word rfl fun w hw => ?_
  obtain ⟨hl, k, c, q, e0, e1, e2, e3⟩ := layout25 f0 f1 f2 f3 31 3 (by decide) (by decide) hw
  refine ⟨hl, (raw1F k).trans ?_⟩
  unfold decode1F
  rw [c]
  exact (if_pos q).trans (by rw [e0, e1, e2, e3])

theorem layout26 (f0 : Fin 64) (f1 : Fin 64) (f2 : Fin 32) (f3 : Fin 32) (f4 : Fin 4) (f5 : Bool) (f6 : Bool) {w : Nat} (m : Nat) (hm : m < 64)
     (hw : w = m * 67108864 + f0.val * 1048576 + f1.val * 16384 + f2.val * 512 + f3.val * 16 + f4.val * 4 + f5.toNat * 2 + f6.toNat) :
     w < 4294967296 ∧ w / 67108864 = m ∧ fieldAt 20 64 w = f0 ∧ fieldAt 14 64 w = f1 ∧ fieldAt 9 32 w = f2 ∧ fieldAt 4 32 w = f3 ∧ fieldAt 2 4 w = f4 ∧ bitAt 1 w = f5 ∧ bitAt 0 w = f6 := by
  have h0 := f0.isLt
  have h1 := f1.isLt
  have h2 := f2.isLt
  have h3 := f3.isLt
  have h4 := f4.isLt
  have h5 := f5.toNat_le
  have h6 := f6.toNat_le
  exact ⟨by omega, by omega, fieldAt_eq f0 (by omega), fieldAt_eq f1 (by omega), fieldAt_eq f2 (by omega), fieldAt_eq f3 (by omega), fieldAt_eq f4 (by omega), bitAt_eq f5 (by omega), bitAt_eq f6 (by omega)⟩

theorem cvt (f0 : Fin 64) (f1 : Fin 64) (f2 : Fin 32) (f3 : Fin 32) (f4 : Fin 4) (f5 : Bool) (f6 : Bool) : Statement (.cvt f0 f1 f2 f3 f4 f5 f6) := by
  refine of_word rfl fun w hw => ?_
  obtain ⟨hl, k, e0, e1, e2, e3, e4, e5, e6⟩ := layout26 f0 f1 f2 f3 f4 f5 f6 32 (by decide) hw
  refine ⟨hl, (raw20 k).trans ?_⟩
  unfold decode20
  exact congrArg some (by rw [e0, e1, e2, e3, e4, e5, e6])

theorem layout27 (f0 : Fin 16) (f1 : Fin 64) (f2 : Fin 4) {w : Nat} (m : Nat) (c : Nat) (hm : m < 64) (hc : c < 16)
     (hw : w = m * 67108864 + c * 4194304 + 512 + f0.val * 262144 + f1.val * 4096 + f2.val * 2) :
     w < 4294967296 ∧ w / 67108864 = m ∧ w / 4194304 % 16 = c ∧ (w % 2 = 0 ∧ w / 8 % 512 = 64) ∧ fieldAt 18 16 w = f0 ∧ fieldAt 12 64 w = f1 ∧ fieldAt 1 4 w = f2 := by
  have h0 := f0.isLt
  have h1 := f1.isLt
  have h2 := f2.isLt
  exact ⟨by omega, by omega, by omega, by omega, fieldAt_eq f0 (by omega), fieldAt_eq f1 (by omega), fieldAt_eq f2 (by omega)⟩

theorem tsrld (f0 : Fin 16) (f1 : Fin 64) (f2 : Fin 4) : Statement (.tsrld f0 f1 f2) := by
  refine of_word rfl fun w hw => ?_
  obtain ⟨hl, k, c, q, e0, e1, e2⟩ := layout27 f0 f1 f2 34 0 (by decide) (by decide) hw
  refine ⟨hl, (raw22 k).trans ?_⟩
  unfold decode22
  rw [c]
  exact (if_pos q).trans (by rw [e0, e1, e2])

theorem tsrst (f0 : Fin 16) (f1 : Fin 64) (f2 : Fin 4) : Statement (.tsrst f0 f1 f2) := by
  refine of_word rfl fun w hw => ?_
  obtain ⟨hl, k, c, q, e0, e1, e2⟩ := layout27 f0 f1 f2 34 1 (by decide) (by decide) hw
  refine ⟨hl, (raw22 k).trans ?_⟩
  unfold decode22
  rw [c]
  exact (if_pos q).trans (by rw [e0, e1, e2])

theorem layout28 (f0 : Fin 16) (f1 : Fin 64) (f2 : Fin 64) {w : Nat} (m : Nat) (c : Nat) (hm : m < 64) (hc : c < 16)
     (hw : w = m * 67108864 + c * 4194304 + 512 + f0.val * 262144 + f1.val * 4096 + f2.val * 8) :
     w < 4294967296 ∧ w / 67108864 = m ∧ w / 4194304 % 16 = c ∧ (w % 8 = 0 ∧ w / 512 % 8 = 1) ∧ fieldAt 18 16 w = f0 ∧ fieldAt 12 64 w = f1 ∧ fieldAt 3 64 w = f2 := by
  have h0 := f0.isLt
  have h1 := f1.isLt
  have h2 := f2.isLt
  exact ⟨by omega, by omega, by omega, by omega, fieldAt_eq f0 (by omega), fieldAt_eq f1 (by omega), fieldAt_eq f2 (by omega)⟩

theorem tsrset (f0 : Fin 16) (f1 : Fin 64) (f2 : Fin 64) : Statement (.tsrset f0 f1 f2) := by
  refine of_word rfl fun w hw => ?_
  obtain ⟨hl, k, c, q, e0, e1, e2⟩ := layout28 f0 f1 f2 34 2 (by decide) (by decide) hw
  refine ⟨hl, (raw22 k).trans ?_⟩
  unfold decode22
  rw [c]
  exact (if_pos q).trans (by rw [e0, e1, e2])

theorem tsrget (f0 : Fin 16) (f1 : Fin 64) (f2 : Fin 64) : Statement (.tsrget f0 f1 f2) := by
  refine of_word rfl fun w hw => ?_
  obtain ⟨hl, k, c, q, e0, e1, e2⟩ := layout28 f0 f1 f2 34 3 (by decide) (by decide) hw
  refine ⟨hl, (raw22 k).trans ?_⟩
  unfold decode22
  rw [c]
  exact (if_pos q).trans (by rw [e0, e1, e2])

theorem layout29 (f0 : Fin 16) (f1 : Fin 64) (f2 : Fin 8) (f3 : Fin 64) (f4 : Fin 4) (f5 : Bool) {w : Nat} (m : Nat) (c : Nat) (hm : m < 64) (hc : c < 16)
     (hw : w = m * 67108864 + c * 4194304 + f0.val * 262144 + f1.val * 4096 + f2.val * 512 + f3.val * 8 + f4.val * 2 + f5.toNat) :
     w < 4294967296 ∧ w / 67108864 = m ∧ w / 4194304 % 16 = c ∧ fieldAt 18 16 w = f0 ∧ fieldAt 12 64 w = f1 ∧ fieldAt 9 8 w = f2 ∧ fieldAt 3 64 w = f3 ∧ fieldAt 1 4 w = f4 ∧ bitAt 0 w = f5 := by
  have h0 := f0.isLt
  have h1 := f1.isLt
  have h2 := f2.isLt
  have h3 := f3.isLt
  have h4 := f4.isLt
  have h5 := f5.toNat_le
  exact ⟨by omega, by omega, by omega, fieldAt_eq f0 (by omega), fieldAt_eq f1 (by omega), fieldAt_eq f2 (by omega), fieldAt_eq f3 (by omega), fieldAt_eq f4 (by omega), bitAt_eq f5 (by omega)⟩

theorem tload (f0 : Fin 16) (f1 : Fin 64) (f2 : Fin 8) (f3 : Fin 64) (f4 : Fin 4) (f5 : Bool) : Statement (.tload f0 f1 f2 f3 f4 f5) := by
  refine of_word rfl fun w hw => ?_
  obtain ⟨hl, k, c, e0, e1, e2, e3, e4, e5⟩ := layout29 f0 f1 f2 f3 f4 f5 35 0 (by decide) (by decide) hw
  refine ⟨hl, (raw23 k).trans ?_⟩
  unfold decode23
  rw [c]
  exact congrArg some (by rw [e0, e1, e2, e3, e4, e5])

theorem tstore (f0 : Fin 16) (f1 : Fin 64) (f2 : Fin 8) (f3 : Fin 64) (f4 : Fin 4) (f5 : Bool) : Statement (.tstore f0 f1 f2 f3 f4 f5) := by
  refine of_word rfl fun w hw => ?_
  obtain ⟨hl, k, c, e0, e1, e2, e3, e4, e5⟩ := layout29 f0 f1 f2 f3 f4 f5 35 1 (by decide) (by decide) hw
  refine ⟨hl, (raw23 k).trans ?_⟩
  unfold decode23
  rw [c]
  exact congrArg some (by rw [e0, e1, e2, e3, e4, e5])

theorem tgather (f0 : Fin 16) (f1 : Fin 64) (f2 : Fin 8) (f3 : Fin 64) (f4 : Fin 4) (f5 : Bool) : Statement (.tgather f0 f1 f2 f3 f4 f5) := by
  refine of_word rfl fun w hw => ?_
  obtain ⟨hl, k, c, e0, e1, e2, e3, e4, e5⟩ := layout29 f0 f1 f2 f3 f4 f5 35 2 (by decide) (by decide) hw
  refine ⟨hl, (raw23 k).trans ?_⟩
  unfold decode23
  rw [c]
  exact congrArg some (by rw [e0, e1, e2, e3, e4, e5])

theorem tscatter (f0 : Fin 16) (f1 : Fin 64) (f2 : Fin 8) (f3 : Fin 64) (f4 : Fin 4) (f5 : Bool) : Statement (.tscatter f0 f1 f2 f3 f4 f5) := by
  refine of_word rfl fun w hw => ?_
  obtain ⟨hl, k, c, e0, e1, e2, e3, e4, e5⟩ := layout29 f0 f1 f2 f3 f4 f5 35 3 (by decide) (by decide) hw
  refine ⟨hl, (raw23 k).trans ?_⟩
  unfold decode23
  rw [c]
  exact congrArg some (by rw [e0, e1, e2, e3, e4, e5])

theorem layout30 (f0 : Fin 16) (f1 : Fin 64) (f2 : Fin 8) (f3 : Bool) {w : Nat} (m : Nat) (c : Nat) (hm : m < 64) (hc : c < 16)
     (hw : w = m * 67108864 + c * 4194304 + f0.val * 262144 + f1.val * 4096 + f2.val * 512 + f3.toNat) :
     w < 4294967296 ∧ w / 67108864 = m ∧ w / 4194304 % 16 = c ∧ (w / 2 % 256 = 0) ∧ fieldAt 18 16 w = f0 ∧ fieldAt 12 64 w = f1 ∧ fieldAt 9 8 w = f2 ∧ bitAt 0 w = f3 := by
  have h0 := f0.isLt
  have h1 := f1.isLt
  have h2 := f2.isLt
  have h3 := f3.toNat_le
  exact ⟨by omega, by omega, by omega, by omega, fieldAt_eq f0 (by omega), fieldAt_eq f1 (by omega), fieldAt_eq f2 (by omega), bitAt_eq f3 (by omega)⟩

theorem tzero (f0 : Fin 16) (f1 : Fin 64) (f2 : Fin 8) (f3 : Bool) : Statement (.tzero f0 f1 f2 f3) := by
  refine of_word rfl fun w hw => ?_
  obtain ⟨hl, k, c, q, e0, e1, e2, e3⟩ := layout30 f0 f1 f2 f3 35 4 (by decide) (by decide) hw
  refine ⟨hl, (raw23 k).trans ?_⟩
  unfold decode23
  rw [c]
  exact (if_pos q).trans (by rw [e0, e1, e2, e3])

theorem layout31 (f0 : Fin 16) (f1 : Fin 64) (f2 : Fin 8) (f3 : Fin 16) (f4 : Bool) {w : Nat} (m : Nat) (c : Nat) (hm : m < 64) (hc : c < 16)
     (hw : w = m * 67108864 + c * 4194304 + f0.val * 262144 + f1.val * 4096 + f2.val * 512 + f3.val * 8 + f4.toNat) :
     w < 4294967296 ∧ w / 67108864 = m ∧ w / 4194304 % 16 = c ∧ (w / 2 % 4 = 0 ∧ w / 128 % 4 = 0) ∧ fieldAt 18 16 w = f0 ∧ fieldAt 12 64 w = f1 ∧ fieldAt 9 8 w = f2 ∧ fieldAt 3 16 w = f3 ∧ bitAt 0 w = f4 := by
  have h0 := f0.isLt
  have h1 := f1.isLt
  have h2 := f2.isLt
  have h3 := f3.isLt
  have h4 := f4.toNat_le
  exact ⟨by omega, by omega, by omega, by omega, fieldAt_eq f0 (by omega), fieldAt_eq f1 (by omega), fieldAt_eq f2 (by omega), fieldAt_eq f3 (by omega), bitAt_eq f4 (by omega)⟩

theorem tcopy (f0 : Fin 16) (f1 : Fin 64) (f2 : Fin 8) (f3 : Fin 16) (f4 : Bool) : Statement (.tcopy f0 f1 f2 f3 f4) := by
  refine of_word rfl fun w hw => ?_
  obtain ⟨hl, k, c, q, e0, e1, e2, e3, e4⟩ := layout31 f0 f1 f2 f3 f4 35 5 (by decide) (by decide) hw
  refine ⟨hl, (raw23 k).trans ?_⟩
  unfold decode23
  rw [c]
  exact (if_pos q).trans (by rw [e0, e1, e2, e3, e4])

theorem layout32 (f0 : Fin 64) (f1 : Fin 64) {w : Nat} (m : Nat) (c : Nat) (hm : m < 64) (hc : c < 16)
     (hw : w = m * 67108864 + c * 4194304 + 512 + f0.val * 4096 + f1.val * 8) :
     w < 4294967296 ∧ w / 67108864 = m ∧ w / 4194304 % 16 = c ∧ (w % 8 = 0 ∧ w / 512 % 8 = 1 ∧ w / 262144 % 16 = 0) ∧ fieldAt 12 64 w = f0 ∧ fieldAt 3 64 w = f1 := by
  have h0 := f0.isLt
  have h1 := f1.isLt
  exact ⟨by omega, by omega, by omega, by omega, fieldAt_eq f0 (by omega), fieldAt_eq f1 (by omega)⟩

theorem gedge (f0 : Fin 64) (f1 : Fin 64) : Statement (.gedge f0 f1) := by
  refine of_word rfl fun w hw => ?_
  obtain ⟨hl, k, c, q, e0, e1⟩ := layout32 f0 f1 36 0 (by decide) (by decide) hw
  refine ⟨hl, (raw24 k).trans ?_⟩
  unfold decode24
  rw [c]
  exact (if_pos q).trans (by rw [e0, e1])

theorem layout33 (f0 : Fin 64) {w : Nat} (m : Nat) (c : Nat) (hm : m < 64) (hc : c < 16)
     (hw : w = m * 67108864 + c * 4194304 + 512 + f0.val * 4096) :
     w < 4294967296 ∧ w / 67108864 = m ∧ w / 4194304 % 16 = c ∧ (w % 4096 = 512 ∧ w / 262144 % 16 = 0) ∧ fieldAt 12 64 w = f0 := by
  have h0 := f0.isLt
  exact ⟨by omega, by omega, by omega, by omega, fieldAt_eq f0 (by omega)⟩

theorem grel (f0 : Fin 64) : Statement (.grel f0) := by
  refine of_word rfl fun w hw => ?_
  obtain ⟨hl, k, c, q, e0⟩ := layout33 f0 36 1 (by decide) (by decide) hw
  refine ⟨hl, (raw24 k).trans ?_⟩
  unfold decode24
  rw [c]
  exact (if_pos q).trans (by rw [e0])

theorem greset (f0 : Fin 64) : Statement (.greset f0) := by
  refine of_word rfl fun w hw => ?_
  obtain ⟨hl, k, c, q, e0⟩ := layout33 f0 36 2 (by decide) (by decide) hw
  refine ⟨hl, (raw24 k).trans ?_⟩
  unfold decode24
  rw [c]
  exact (if_pos q).trans (by rw [e0])

theorem layout34 (f0 : Fin 64) (f1 : Fin 4) (f2 : Bool) {w : Nat} (m : Nat) (c : Nat) (hm : m < 64) (hc : c < 16)
     (hw : w = m * 67108864 + c * 4194304 + 512 + f0.val * 4096 + f1.val * 2 + f2.toNat) :
     w < 4294967296 ∧ w / 67108864 = m ∧ w / 4194304 % 16 = c ∧ (w / 8 % 512 = 64 ∧ w / 262144 % 16 = 0) ∧ fieldAt 12 64 w = f0 ∧ fieldAt 1 4 w = f1 ∧ bitAt 0 w = f2 := by
  have h0 := f0.isLt
  have h1 := f1.isLt
  have h2 := f2.toNat_le
  exact ⟨by omega, by omega, by omega, by omega, fieldAt_eq f0 (by omega), fieldAt_eq f1 (by omega), bitAt_eq f2 (by omega)⟩

theorem gbin (f0 : Fin 64) (f1 : Fin 4) (f2 : Bool) : Statement (.gbin f0 f1 f2) := by
  refine of_word rfl fun w hw => ?_
  obtain ⟨hl, k, c, q, e0, e1, e2⟩ := layout34 f0 f1 f2 36 3 (by decide) (by decide) hw
  refine ⟨hl, (raw24 k).trans ?_⟩
  unfold decode24
  rw [c]
  exact (if_pos q).trans (by rw [e0, e1, e2])

theorem gstat (f0 : Fin 64) (f1 : Fin 64) : Statement (.gstat f0 f1) := by
  refine of_word rfl fun w hw => ?_
  obtain ⟨hl, k, c, q, e0, e1⟩ := layout32 f0 f1 36 4 (by decide) (by decide) hw
  refine ⟨hl, (raw24 k).trans ?_⟩
  unfold decode24
  rw [c]
  exact (if_pos q).trans (by rw [e0, e1])

theorem layout35 (f0 : Fin 64) (f1 : Fin 4) {w : Nat} (m : Nat) (c : Nat) (hm : m < 64) (hc : c < 16)
     (hw : w = m * 67108864 + c * 4194304 + f0.val * 65536 + f1.val) :
     w < 4294967296 ∧ w / 67108864 = m ∧ w / 4194304 % 16 = c ∧ (w / 4 % 16384 = 0) ∧ fieldAt 16 64 w = f0 ∧ fieldAt 0 4 w = f1 := by
  have h0 := f0.isLt
  have h1 := f1.isLt
  exact ⟨by omega, by omega, by omega, by omega, fieldAt_eq f0 (by omega), fieldAt_eq f1 (by omega)⟩

theorem waitc (f0 : Fin 64) (f1 : Fin 4) : Statement (.waitc f0 f1) := by
  refine of_word rfl fun w hw => ?_
  obtain ⟨hl, k, c, q, e0, e1⟩ := layout35 f0 f1 37 0 (by decide) (by decide) hw
  refine ⟨hl, (raw25 k).trans ?_⟩
  unfold decode25
  rw [c]
  exact (if_pos q).trans (by rw [e0, e1])

theorem layout36 (f0 : Fin 64) (f1 : Fin 4) {w : Nat} (m : Nat) (c : Nat) (hm : m < 64) (hc : c < 16)
     (hw : w = m * 67108864 + c * 4194304 + f0.val * 16 + f1.val) :
     w < 4294967296 ∧ w / 67108864 = m ∧ w / 4194304 % 16 = c ∧ (w / 4 % 4 = 0 ∧ w / 1024 % 4096 = 0) ∧ fieldAt 4 64 w = f0 ∧ fieldAt 0 4 w = f1 := by
  have h0 := f0.isLt
  have h1 := f1.isLt
  exact ⟨by omega, by omega, by omega, by omega, fieldAt_eq f0 (by omega), fieldAt_eq f1 (by omega)⟩

theorem rdcnt (f0 : Fin 64) (f1 : Fin 4) : Statement (.rdcnt f0 f1) := by
  refine of_word rfl fun w hw => ?_
  obtain ⟨hl, k, c, q, e0, e1⟩ := layout36 f0 f1 37 1 (by decide) (by decide) hw
  refine ⟨hl, (raw25 k).trans ?_⟩
  unfold decode25
  rw [c]
  exact (if_pos q).trans (by rw [e0, e1])

theorem layout37 (f0 : Fin 16) (f1 : Fin 64) (f2 : Bool) {w : Nat} (m : Nat) (c : Nat) (hm : m < 64) (hc : c < 16)
     (hw : w = m * 67108864 + c * 4194304 + f0.val * 32768 + f1.val * 512 + f2.toNat) :
     w < 4294967296 ∧ w / 67108864 = m ∧ w / 4194304 % 16 = c ∧ (w / 2 % 256 = 0 ∧ w / 524288 % 8 = 0) ∧ fieldAt 15 16 w = f0 ∧ fieldAt 9 64 w = f1 ∧ bitAt 0 w = f2 := by
  have h0 := f0.isLt
  have h1 := f1.isLt
  have h2 := f2.toNat_le
  exact ⟨by omega, by omega, by omega, by omega, fieldAt_eq f0 (by omega), fieldAt_eq f1 (by omega), bitAt_eq f2 (by omega)⟩

theorem mlds (f0 : Fin 16) (f1 : Fin 64) (f2 : Bool) : Statement (.mlds f0 f1 f2) := by
  refine of_word rfl fun w hw => ?_
  obtain ⟨hl, k, c, q, e0, e1, e2⟩ := layout37 f0 f1 f2 38 0 (by decide) (by decide) hw
  refine ⟨hl, (raw26 k).trans ?_⟩
  unfold decode26
  rw [c]
  exact (if_pos q).trans (by rw [e0, e1, e2])

theorem layout38 (f0 : Bool) {w : Nat} (m : Nat) (c : Nat) (hm : m < 64) (hc : c < 16)
     (hw : w = m * 67108864 + c * 4194304 + f0.toNat) :
     w < 4294967296 ∧ w / 67108864 = m ∧ w / 4194304 % 16 = c ∧ (w / 2 % 2097152 = 0) ∧ bitAt 0 w = f0 := by
  have h0 := f0.toNat_le
  exact ⟨by omega, by omega, by omega, by omega, bitAt_eq f0 (by omega)⟩

theorem mswap (f0 : Bool) : Statement (.mswap f0) := by
  refine of_word rfl fun w hw => ?_
  obtain ⟨hl, k, c, q, e0⟩ := layout38 f0 38 1 (by decide) (by decide) hw
  refine ⟨hl, (raw26 k).trans ?_⟩
  unfold decode26
  rw [c]
  exact (if_pos q).trans (by rw [e0])

theorem layout39 (f0 : Fin 64) (f1 : Bool) {w : Nat} (m : Nat) (c : Nat) (hm : m < 64) (hc : c < 16)
     (hw : w = m * 67108864 + c * 4194304 + f0.val * 512 + f1.toNat) :
     w < 4294967296 ∧ w / 67108864 = m ∧ w / 4194304 % 16 = c ∧ (w / 2 % 256 = 0 ∧ w / 32768 % 128 = 0) ∧ fieldAt 9 64 w = f0 ∧ bitAt 0 w = f1 := by
  have h0 := f0.isLt
  have h1 := f1.toNat_le
  exact ⟨by omega, by omega, by omega, by omega, fieldAt_eq f0 (by omega), bitAt_eq f1 (by omega)⟩

theorem mshape (f0 : Fin 64) (f1 : Bool) : Statement (.mshape f0 f1) := by
  refine of_word rfl fun w hw => ?_
  obtain ⟨hl, k, c, q, e0, e1⟩ := layout39 f0 f1 38 2 (by decide) (by decide) hw
  refine ⟨hl, (raw26 k).trans ?_⟩
  unfold decode26
  rw [c]
  exact (if_pos q).trans (by rw [e0, e1])

theorem mcfg (f0 : Fin 64) (f1 : Bool) : Statement (.mcfg f0 f1) := by
  refine of_word rfl fun w hw => ?_
  obtain ⟨hl, k, c, q, e0, e1⟩ := layout39 f0 f1 38 3 (by decide) (by decide) hw
  refine ⟨hl, (raw26 k).trans ?_⟩
  unfold decode26
  rw [c]
  exact (if_pos q).trans (by rw [e0, e1])

theorem layout40 (f0 : Fin 8) (f1 : Fin 64) (f2 : Fin 64) (f3 : Fin 4) (f4 : Bool) {w : Nat} (m : Nat) (c : Nat) (hm : m < 64) (hc : c < 16)
     (hw : w = m * 67108864 + c * 4194304 + f0.val * 524288 + f1.val * 512 + f2.val * 8 + f3.val * 2 + f4.toNat) :
     w < 4294967296 ∧ w / 67108864 = m ∧ w / 4194304 % 16 = c ∧ (w / 32768 % 16 = 0) ∧ fieldAt 19 8 w = f0 ∧ fieldAt 9 64 w = f1 ∧ fieldAt 3 64 w = f2 ∧ fieldAt 1 4 w = f3 ∧ bitAt 0 w = f4 := by
  have h0 := f0.isLt
  have h1 := f1.isLt
  have h2 := f2.isLt
  have h3 := f3.isLt
  have h4 := f4.toNat_le
  exact ⟨by omega, by omega, by omega, by omega, fieldAt_eq f0 (by omega), fieldAt_eq f1 (by omega), fieldAt_eq f2 (by omega), fieldAt_eq f3 (by omega), bitAt_eq f4 (by omega)⟩

theorem mmul (f0 : Fin 8) (f1 : Fin 64) (f2 : Fin 64) (f3 : Fin 4) (f4 : Bool) : Statement (.mmul f0 f1 f2 f3 f4) := by
  refine of_word rfl fun w hw => ?_
  obtain ⟨hl, k, c, q, e0, e1, e2, e3, e4⟩ := layout40 f0 f1 f2 f3 f4 39 0 (by decide) (by decide) hw
  refine ⟨hl, (raw27 k).trans ?_⟩
  unfold decode27
  rw [c]
  exact (if_pos q).trans (by rw [e0, e1, e2, e3, e4])

theorem mmulz (f0 : Fin 8) (f1 : Fin 64) (f2 : Fin 64) (f3 : Fin 4) (f4 : Bool) : Statement (.mmulz f0 f1 f2 f3 f4) := by
  refine of_word rfl fun w hw => ?_
  obtain ⟨hl, k, c, q, e0, e1, e2, e3, e4⟩ := layout40 f0 f1 f2 f3 f4 39 1 (by decide) (by decide) hw
  refine ⟨hl, (raw27 k).trans ?_⟩
  unfold decode27
  rw [c]
  exact (if_pos q).trans (by rw [e0, e1, e2, e3, e4])

theorem mmult (f0 : Fin 8) (f1 : Fin 64) (f2 : Fin 64) (f3 : Fin 4) (f4 : Bool) : Statement (.mmult f0 f1 f2 f3 f4) := by
  refine of_word rfl fun w hw => ?_
  obtain ⟨hl, k, c, q, e0, e1, e2, e3, e4⟩ := layout40 f0 f1 f2 f3 f4 39 2 (by decide) (by decide) hw
  refine ⟨hl, (raw27 k).trans ?_⟩
  unfold decode27
  rw [c]
  exact (if_pos q).trans (by rw [e0, e1, e2, e3, e4])

theorem layout41 (f0 : Fin 8) (f1 : Fin 16) (f2 : Fin 64) (f3 : Bool) (f4 : Bool) {w : Nat} (m : Nat) (c : Nat) (hm : m < 64) (hc : c < 16)
     (hw : w = m * 67108864 + c * 4194304 + f0.val * 524288 + f1.val * 32768 + f2.val * 512 + f3.toNat * 2 + f4.toNat) :
     w < 4294967296 ∧ w / 67108864 = m ∧ w / 4194304 % 16 = c ∧ (w / 4 % 128 = 0) ∧ fieldAt 19 8 w = f0 ∧ fieldAt 15 16 w = f1 ∧ fieldAt 9 64 w = f2 ∧ bitAt 1 w = f3 ∧ bitAt 0 w = f4 := by
  have h0 := f0.isLt
  have h1 := f1.isLt
  have h2 := f2.isLt
  have h3 := f3.toNat_le
  have h4 := f4.toNat_le
  exact ⟨by omega, by omega, by omega, by omega, fieldAt_eq f0 (by omega), fieldAt_eq f1 (by omega), fieldAt_eq f2 (by omega), bitAt_eq f3 (by omega), bitAt_eq f4 (by omega)⟩

theorem mdrain (f0 : Fin 8) (f1 : Fin 16) (f2 : Fin 64) (f3 : Bool) (f4 : Bool) : Statement (.mdrain f0 f1 f2 f3 f4) := by
  refine of_word rfl fun w hw => ?_
  obtain ⟨hl, k, c, q, e0, e1, e2, e3, e4⟩ := layout41 f0 f1 f2 f3 f4 40 0 (by decide) (by decide) hw
  refine ⟨hl, (raw28 k).trans ?_⟩
  unfold decode28
  rw [c]
  exact (if_pos q).trans (by rw [e0, e1, e2, e3, e4])

theorem layout42 (f0 : Fin 8) (f1 : Bool) {w : Nat} (m : Nat) (c : Nat) (hm : m < 64) (hc : c < 16)
     (hw : w = m * 67108864 + c * 4194304 + f0.val * 524288 + f1.toNat) :
     w < 4294967296 ∧ w / 67108864 = m ∧ w / 4194304 % 16 = c ∧ (w / 2 % 262144 = 0) ∧ fieldAt 19 8 w = f0 ∧ bitAt 0 w = f1 := by
  have h0 := f0.isLt
  have h1 := f1.toNat_le
  exact ⟨by omega, by omega, by omega, by omega, fieldAt_eq f0 (by omega), bitAt_eq f1 (by omega)⟩

theorem mzero (f0 : Fin 8) (f1 : Bool) : Statement (.mzero f0 f1) := by
  refine of_word rfl fun w hw => ?_
  obtain ⟨hl, k, c, q, e0, e1⟩ := layout42 f0 f1 40 1 (by decide) (by decide) hw
  refine ⟨hl, (raw28 k).trans ?_⟩
  unfold decode28
  rw [c]
  exact (if_pos q).trans (by rw [e0, e1])

theorem layout43 (f0 : Fin 8) (f1 : Fin 8) (f2 : Fin 64) (f3 : Fin 64) (f4 : Fin 4) {w : Nat} (m : Nat) (c : Nat) (hm : m < 64) (hc : c < 16)
     (hw : w = m * 67108864 + c * 4194304 + f0.val * 524288 + f1.val * 32768 + f2.val * 512 + f3.val * 8 + f4.val * 2) :
     w < 4294967296 ∧ w / 67108864 = m ∧ w / 4194304 % 16 = c ∧ (w % 2 = 0 ∧ w / 262144 % 2 = 0) ∧ fieldAt 19 8 w = f0 ∧ fieldAt 15 8 w = f1 ∧ fieldAt 9 64 w = f2 ∧ fieldAt 3 64 w = f3 ∧ fieldAt 1 4 w = f4 := by
  have h0 := f0.isLt
  have h1 := f1.isLt
  have h2 := f2.isLt
  have h3 := f3.isLt
  have h4 := f4.isLt
  exact ⟨by omega, by omega, by omega, by omega, fieldAt_eq f0 (by omega), fieldAt_eq f1 (by omega), fieldAt_eq f2 (by omega), fieldAt_eq f3 (by omega), fieldAt_eq f4 (by omega)⟩

theorem mrdrow (f0 : Fin 8) (f1 : Fin 8) (f2 : Fin 64) (f3 : Fin 64) (f4 : Fin 4) : Statement (.mrdrow f0 f1 f2 f3 f4) := by
  refine of_word rfl fun w hw => ?_
  obtain ⟨hl, k, c, q, e0, e1, e2, e3, e4⟩ := layout43 f0 f1 f2 f3 f4 40 2 (by decide) (by decide) hw
  refine ⟨hl, (raw28 k).trans ?_⟩
  unfold decode28
  rw [c]
  exact (if_pos q).trans (by rw [e0, e1, e2, e3, e4])

theorem layout44 (f0 : Fin 64) {w : Nat} (m : Nat) (c : Nat) (hm : m < 64) (hc : c < 16)
     (hw : w = m * 67108864 + c * 4194304 + f0.val * 512) :
     w < 4294967296 ∧ w / 67108864 = m ∧ w / 4194304 % 16 = c ∧ (w % 512 = 0 ∧ w / 32768 % 128 = 0) ∧ fieldAt 9 64 w = f0 := by
  have h0 := f0.isLt
  exact ⟨by omega, by omega, by omega, by omega, fieldAt_eq f0 (by omega)⟩

theorem mstat (f0 : Fin 64) : Statement (.mstat f0) := by
  refine of_word rfl fun w hw => ?_
  obtain ⟨hl, k, c, q, e0⟩ := layout44 f0 40 3 (by decide) (by decide) hw
  refine ⟨hl, (raw28 k).trans ?_⟩
  unfold decode28
  rw [c]
  exact (if_pos q).trans (by rw [e0])

theorem layout45 (f0 : Fin 64) (f1 : Fin 64) (f2 : Fin 64) (f3 : Fin 8) (f4 : Bool) (f5 : Bool) {w : Nat} (m : Nat) (c : Nat) (hm : m < 64) (hc : c < 8)
     (hw : w = m * 67108864 + c * 32 + f0.val * 1048576 + f1.val * 16384 + f2.val * 256 + f3.val * 4 + f4.toNat * 2 + f5.toNat) :
     w < 4294967296 ∧ w / 67108864 = m ∧ w / 32 % 8 = c ∧ fieldAt 20 64 w = f0 ∧ fieldAt 14 64 w = f1 ∧ fieldAt 8 64 w = f2 ∧ fieldAt 2 8 w = f3 ∧ bitAt 1 w = f4 ∧ bitAt 0 w = f5 := by
  have h0 := f0.isLt
  have h1 := f1.isLt
  have h2 := f2.isLt
  have h3 := f3.isLt
  have h4 := f4.toNat_le
  have h5 := f5.toNat_le
  exact ⟨by omega, by omega, by omega, fieldAt_eq f0 (by omega), fieldAt_eq f1 (by omega), fieldAt_eq f2 (by omega), fieldAt_eq f3 (by omega), bitAt_eq f4 (by omega), bitAt_eq f5 (by omega)⟩

theorem aadd (f0 : Fin 64) (f1 : Fin 64) (f2 : Fin 64) (f3 : Fin 8) (f4 : Bool) (f5 : Bool) : Statement (.aadd f0 f1 f2 f3 f4 f5) := by
  refine of_word rfl fun w hw => ?_
  obtain ⟨hl, k, c, e0, e1, e2, e3, e4, e5⟩ := layout45 f0 f1 f2 f3 f4 f5 41 0 (by decide) (by decide) hw
  refine ⟨hl, (raw29 k).trans ?_⟩
  unfold decode29
  rw [c]
  exact congrArg some (by rw [e0, e1, e2, e3, e4, e5])

theorem amin (f0 : Fin 64) (f1 : Fin 64) (f2 : Fin 64) (f3 : Fin 8) (f4 : Bool) (f5 : Bool) : Statement (.amin f0 f1 f2 f3 f4 f5) := by
  refine of_word rfl fun w hw => ?_
  obtain ⟨hl, k, c, e0, e1, e2, e3, e4, e5⟩ := layout45 f0 f1 f2 f3 f4 f5 41 1 (by decide) (by decide) hw
  refine ⟨hl, (raw29 k).trans ?_⟩
  unfold decode29
  rw [c]
  exact congrArg some (by rw [e0, e1, e2, e3, e4, e5])

theorem amax (f0 : Fin 64) (f1 : Fin 64) (f2 : Fin 64) (f3 : Fin 8) (f4 : Bool) (f5 : Bool) : Statement (.amax f0 f1 f2 f3 f4 f5) := by
  refine of_word rfl fun w hw => ?_
  obtain ⟨hl, k, c, e0, e1, e2, e3, e4, e5⟩ := layout45 f0 f1 f2 f3 f4 f5 41 2 (by decide) (by decide) hw
  refine ⟨hl, (raw29 k).trans ?_⟩
  unfold decode29
  rw [c]
  exact congrArg some (by rw [e0, e1, e2, e3, e4, e5])

theorem aand (f0 : Fin 64) (f1 : Fin 64) (f2 : Fin 64) (f3 : Fin 8) (f4 : Bool) (f5 : Bool) : Statement (.aand f0 f1 f2 f3 f4 f5) := by
  refine of_word rfl fun w hw => ?_
  obtain ⟨hl, k, c, e0, e1, e2, e3, e4, e5⟩ := layout45 f0 f1 f2 f3 f4 f5 41 3 (by decide) (by decide) hw
  refine ⟨hl, (raw29 k).trans ?_⟩
  unfold decode29
  rw [c]
  exact congrArg some (by rw [e0, e1, e2, e3, e4, e5])

theorem aor (f0 : Fin 64) (f1 : Fin 64) (f2 : Fin 64) (f3 : Fin 8) (f4 : Bool) (f5 : Bool) : Statement (.aor f0 f1 f2 f3 f4 f5) := by
  refine of_word rfl fun w hw => ?_
  obtain ⟨hl, k, c, e0, e1, e2, e3, e4, e5⟩ := layout45 f0 f1 f2 f3 f4 f5 41 4 (by decide) (by decide) hw
  refine ⟨hl, (raw29 k).trans ?_⟩
  unfold decode29
  rw [c]
  exact congrArg some (by rw [e0, e1, e2, e3, e4, e5])

theorem axor (f0 : Fin 64) (f1 : Fin 64) (f2 : Fin 64) (f3 : Fin 8) (f4 : Bool) (f5 : Bool) : Statement (.axor f0 f1 f2 f3 f4 f5) := by
  refine of_word rfl fun w hw => ?_
  obtain ⟨hl, k, c, e0, e1, e2, e3, e4, e5⟩ := layout45 f0 f1 f2 f3 f4 f5 41 5 (by decide) (by decide) hw
  refine ⟨hl, (raw29 k).trans ?_⟩
  unfold decode29
  rw [c]
  exact congrArg some (by rw [e0, e1, e2, e3, e4, e5])

theorem aexch (f0 : Fin 64) (f1 : Fin 64) (f2 : Fin 64) (f3 : Fin 8) (f4 : Bool) (f5 : Bool) : Statement (.aexch f0 f1 f2 f3 f4 f5) := by
  refine of_word rfl fun w hw => ?_
  obtain ⟨hl, k, c, e0, e1, e2, e3, e4, e5⟩ := layout45 f0 f1 f2 f3 f4 f5 41 6 (by decide) (by decide) hw
  refine ⟨hl, (raw29 k).trans ?_⟩
  unfold decode29
  rw [c]
  exact congrArg some (by rw [e0, e1, e2, e3, e4, e5])

theorem aincw (f0 : Fin 64) (f1 : Fin 64) (f2 : Fin 64) (f3 : Fin 8) (f4 : Bool) (f5 : Bool) : Statement (.aincw f0 f1 f2 f3 f4 f5) := by
  refine of_word rfl fun w hw => ?_
  obtain ⟨hl, k, c, e0, e1, e2, e3, e4, e5⟩ := layout45 f0 f1 f2 f3 f4 f5 41 7 (by decide) (by decide) hw
  refine ⟨hl, (raw29 k).trans ?_⟩
  unfold decode29
  rw [c]
  exact congrArg some (by rw [e0, e1, e2, e3, e4, e5])

theorem acas (f0 : Fin 64) (f1 : Fin 64) (f2 : Fin 64) (f3 : Fin 8) (f4 : Bool) (f5 : Bool) : Statement (.acas f0 f1 f2 f3 f4 f5) := by
  refine of_word rfl fun w hw => ?_
  obtain ⟨hl, k, c, e0, e1, e2, e3, e4, e5⟩ := layout45 f0 f1 f2 f3 f4 f5 42 0 (by decide) (by decide) hw
  refine ⟨hl, (raw2A k).trans ?_⟩
  unfold decode2A
  rw [c]
  exact congrArg some (by rw [e0, e1, e2, e3, e4, e5])

theorem adecw (f0 : Fin 64) (f1 : Fin 64) (f2 : Fin 64) (f3 : Fin 8) (f4 : Bool) (f5 : Bool) : Statement (.adecw f0 f1 f2 f3 f4 f5) := by
  refine of_word rfl fun w hw => ?_
  obtain ⟨hl, k, c, e0, e1, e2, e3, e4, e5⟩ := layout45 f0 f1 f2 f3 f4 f5 42 1 (by decide) (by decide) hw
  refine ⟨hl, (raw2A k).trans ?_⟩
  unfold decode2A
  rw [c]
  exact congrArg some (by rw [e0, e1, e2, e3, e4, e5])

theorem layout46 (f0 : Fin 64) (f1 : Fin 64) (f2 : Fin 8) (f3 : Bool) (f4 : Bool) {w : Nat} (m : Nat) (c : Nat) (hm : m < 64) (hc : c < 8)
     (hw : w = m * 67108864 + c * 32 + f0.val * 16384 + f1.val * 256 + f2.val * 4 + f3.toNat * 2 + f4.toNat) :
     w < 4294967296 ∧ w / 67108864 = m ∧ w / 32 % 8 = c ∧ (w / 1048576 % 64 = 0) ∧ fieldAt 14 64 w = f0 ∧ fieldAt 8 64 w = f1 ∧ fieldAt 2 8 w = f2 ∧ bitAt 1 w = f3 ∧ bitAt 0 w = f4 := by
  have h0 := f0.isLt
  have h1 := f1.isLt
  have h2 := f2.isLt
  have h3 := f3.toNat_le
  have h4 := f4.toNat_le
  exact ⟨by omega, by omega, by omega, by omega, fieldAt_eq f0 (by omega), fieldAt_eq f1 (by omega), fieldAt_eq f2 (by omega), bitAt_eq f3 (by omega), bitAt_eq f4 (by omega)⟩

theorem radd (f0 : Fin 64) (f1 : Fin 64) (f2 : Fin 8) (f3 : Bool) (f4 : Bool) : Statement (.radd f0 f1 f2 f3 f4) := by
  refine of_word rfl fun w hw => ?_
  obtain ⟨hl, k, c, q, e0, e1, e2, e3, e4⟩ := layout46 f0 f1 f2 f3 f4 43 0 (by decide) (by decide) hw
  refine ⟨hl, (raw2B k).trans ?_⟩
  unfold decode2B
  rw [c]
  exact (if_pos q).trans (by rw [e0, e1, e2, e3, e4])

theorem rmin (f0 : Fin 64) (f1 : Fin 64) (f2 : Fin 8) (f3 : Bool) (f4 : Bool) : Statement (.rmin f0 f1 f2 f3 f4) := by
  refine of_word rfl fun w hw => ?_
  obtain ⟨hl, k, c, q, e0, e1, e2, e3, e4⟩ := layout46 f0 f1 f2 f3 f4 43 1 (by decide) (by decide) hw
  refine ⟨hl, (raw2B k).trans ?_⟩
  unfold decode2B
  rw [c]
  exact (if_pos q).trans (by rw [e0, e1, e2, e3, e4])

theorem rmax (f0 : Fin 64) (f1 : Fin 64) (f2 : Fin 8) (f3 : Bool) (f4 : Bool) : Statement (.rmax f0 f1 f2 f3 f4) := by
  refine of_word rfl fun w hw => ?_
  obtain ⟨hl, k, c, q, e0, e1, e2, e3, e4⟩ := layout46 f0 f1 f2 f3 f4 43 2 (by decide) (by decide) hw
  refine ⟨hl, (raw2B k).trans ?_⟩
  unfold decode2B
  rw [c]
  exact (if_pos q).trans (by rw [e0, e1, e2, e3, e4])

theorem rand (f0 : Fin 64) (f1 : Fin 64) (f2 : Fin 8) (f3 : Bool) (f4 : Bool) : Statement (.rand f0 f1 f2 f3 f4) := by
  refine of_word rfl fun w hw => ?_
  obtain ⟨hl, k, c, q, e0, e1, e2, e3, e4⟩ := layout46 f0 f1 f2 f3 f4 43 3 (by decide) (by decide) hw
  refine ⟨hl, (raw2B k).trans ?_⟩
  unfold decode2B
  rw [c]
  exact (if_pos q).trans (by rw [e0, e1, e2, e3, e4])

theorem ror (f0 : Fin 64) (f1 : Fin 64) (f2 : Fin 8) (f3 : Bool) (f4 : Bool) : Statement (.ror f0 f1 f2 f3 f4) := by
  refine of_word rfl fun w hw => ?_
  obtain ⟨hl, k, c, q, e0, e1, e2, e3, e4⟩ := layout46 f0 f1 f2 f3 f4 43 4 (by decide) (by decide) hw
  refine ⟨hl, (raw2B k).trans ?_⟩
  unfold decode2B
  rw [c]
  exact (if_pos q).trans (by rw [e0, e1, e2, e3, e4])

theorem rxor (f0 : Fin 64) (f1 : Fin 64) (f2 : Fin 8) (f3 : Bool) (f4 : Bool) : Statement (.rxor f0 f1 f2 f3 f4) := by
  refine of_word rfl fun w hw => ?_
  obtain ⟨hl, k, c, q, e0, e1, e2, e3, e4⟩ := layout46 f0 f1 f2 f3 f4 43 5 (by decide) (by decide) hw
  refine ⟨hl, (raw2B k).trans ?_⟩
  unfold decode2B
  rw [c]
  exact (if_pos q).trans (by rw [e0, e1, e2, e3, e4])

theorem layout47 (f0 : Fin 64) (f1 : Fin 64) (f2 : Fin 64) {w : Nat} (m : Nat) (c : Nat) (hm : m < 64) (hc : c < 16)
     (hw : w = m * 67108864 + c * 4194304 + f0.val * 65536 + f1.val * 1024 + f2.val * 16) :
     w < 4294967296 ∧ w / 67108864 = m ∧ w / 4194304 % 16 = c ∧ (w % 16 = 0) ∧ fieldAt 16 64 w = f0 ∧ fieldAt 10 64 w = f1 ∧ fieldAt 4 64 w = f2 := by
  have h0 := f0.isLt
  have h1 := f1.isLt
  have h2 := f2.isLt
  exact ⟨by omega, by omega, by omega, by omega, fieldAt_eq f0 (by omega), fieldAt_eq f1 (by omega), fieldAt_eq f2 (by omega)⟩

theorem llock (f0 : Fin 64) (f1 : Fin 64) (f2 : Fin 64) : Statement (.llock f0 f1 f2) := by
  refine of_word rfl fun w hw => ?_
  obtain ⟨hl, k, c, q, e0, e1, e2⟩ := layout47 f0 f1 f2 44 0 (by decide) (by decide) hw
  refine ⟨hl, (raw2C k).trans ?_⟩
  unfold decode2C
  rw [c]
  exact (if_pos q).trans (by rw [e0, e1, e2])

theorem layout48 (f0 : Fin 64) (f1 : Fin 64) {w : Nat} (m : Nat) (c : Nat) (hm : m < 64) (hc : c < 16)
     (hw : w = m * 67108864 + c * 4194304 + f0.val * 65536 + f1.val * 16) :
     w < 4294967296 ∧ w / 67108864 = m ∧ w / 4194304 % 16 = c ∧ (w % 16 = 0 ∧ w / 1024 % 64 = 0) ∧ fieldAt 16 64 w = f0 ∧ fieldAt 4 64 w = f1 := by
  have h0 := f0.isLt
  have h1 := f1.isLt
  exact ⟨by omega, by omega, by omega, by omega, fieldAt_eq f0 (by omega), fieldAt_eq f1 (by omega)⟩

theorem ltry (f0 : Fin 64) (f1 : Fin 64) : Statement (.ltry f0 f1) := by
  refine of_word rfl fun w hw => ?_
  obtain ⟨hl, k, c, q, e0, e1⟩ := layout48 f0 f1 44 1 (by decide) (by decide) hw
  refine ⟨hl, (raw2C k).trans ?_⟩
  unfold decode2C
  rw [c]
  exact (if_pos q).trans (by rw [e0, e1])

theorem layout49 (f0 : Fin 64) {w : Nat} (m : Nat) (c : Nat) (hm : m < 64) (hc : c < 16)
     (hw : w = m * 67108864 + c * 4194304 + f0.val * 65536) :
     w < 4294967296 ∧ w / 67108864 = m ∧ w / 4194304 % 16 = c ∧ (w % 65536 = 0) ∧ fieldAt 16 64 w = f0 := by
  have h0 := f0.isLt
  exact ⟨by omega, by omega, by omega, by omega, fieldAt_eq f0 (by omega)⟩

theorem lunlock (f0 : Fin 64) : Statement (.lunlock f0) := by
  refine of_word rfl fun w hw => ?_
  obtain ⟨hl, k, c, q, e0⟩ := layout49 f0 44 2 (by decide) (by decide) hw
  refine ⟨hl, (raw2C k).trans ?_⟩
  unfold decode2C
  rw [c]
  exact (if_pos q).trans (by rw [e0])

theorem lstat (f0 : Fin 64) (f1 : Fin 64) : Statement (.lstat f0 f1) := by
  refine of_word rfl fun w hw => ?_
  obtain ⟨hl, k, c, q, e0, e1⟩ := layout48 f0 f1 44 3 (by decide) (by decide) hw
  refine ⟨hl, (raw2C k).trans ?_⟩
  unfold decode2C
  rw [c]
  exact (if_pos q).trans (by rw [e0, e1])

theorem lyield (f0 : Fin 64) (f1 : Fin 64) (f2 : Fin 64) : Statement (.lyield f0 f1 f2) := by
  refine of_word rfl fun w hw => ?_
  obtain ⟨hl, k, c, q, e0, e1, e2⟩ := layout47 f0 f1 f2 44 4 (by decide) (by decide) hw
  refine ⟨hl, (raw2C k).trans ?_⟩
  unfold decode2C
  rw [c]
  exact (if_pos q).trans (by rw [e0, e1, e2])

theorem layout50 (f0 : Fin 64) (f1 : Fin 64) (f2 : Fin 64) (f3 : Fin 16) {w : Nat} (m : Nat) (c : Nat) (hm : m < 64) (hc : c < 16)
     (hw : w = m * 67108864 + c * 4194304 + f0.val * 65536 + f1.val * 1024 + f2.val * 16 + f3.val) :
     w < 4294967296 ∧ w / 67108864 = m ∧ w / 4194304 % 16 = c ∧ fieldAt 16 64 w = f0 ∧ fieldAt 10 64 w = f1 ∧ fieldAt 4 64 w = f2 ∧ fieldAt 0 16 w = f3 := by
  have h0 := f0.isLt
  have h1 := f1.isLt
  have h2 := f2.isLt
  have h3 := f3.isLt
  exact ⟨by omega, by omega, by omega, fieldAt_eq f0 (by omega), fieldAt_eq f1 (by omega), fieldAt_eq f2 (by omega), fieldAt_eq f3 (by omega)⟩

theorem waitcmp (f0 : Fin 64) (f1 : Fin 64) (f2 : Fin 64) (f3 : Fin 16) : Statement (.waitcmp f0 f1 f2 f3) := by
  refine of_word rfl fun w hw => ?_
  obtain ⟨hl, k, c, e0, e1, e2, e3⟩ := layout50 f0 f1 f2 f3 45 0 (by decide) (by decide) hw
  refine ⟨hl, (raw2D k).trans ?_⟩
  unfold decode2D
  rw [c]
  exact congrArg some (by rw [e0, e1, e2, e3])

theorem layout51 (f0 : Fin 64) (f1 : Fin 64) (f2 : Fin 16) {w : Nat} (m : Nat) (c : Nat) (hm : m < 64) (hc : c < 16)
     (hw : w = m * 67108864 + c * 4194304 + f0.val * 65536 + f1.val * 16 + f2.val) :
     w < 4294967296 ∧ w / 67108864 = m ∧ w / 4194304 % 16 = c ∧ (w / 1024 % 64 = 0) ∧ fieldAt 16 64 w = f0 ∧ fieldAt 4 64 w = f1 ∧ fieldAt 0 16 w = f2 := by
  have h0 := f0.isLt
  have h1 := f1.isLt
  have h2 := f2.isLt
  exact ⟨by omega, by omega, by omega, by omega, fieldAt_eq f0 (by omega), fieldAt_eq f1 (by omega), fieldAt_eq f2 (by omega)⟩

theorem barw (f0 : Fin 64) (f1 : Fin 64) (f2 : Fin 16) : Statement (.barw f0 f1 f2) := by
  refine of_word rfl fun w hw => ?_
  obtain ⟨hl, k, c, q, e0, e1, e2⟩ := layout51 f0 f1 f2 46 0 (by decide) (by decide) hw
  refine ⟨hl, (raw2E k).trans ?_⟩
  unfold decode2E
  rw [c]
  exact (if_pos q).trans (by rw [e0, e1, e2])

theorem barg (f0 : Fin 64) (f1 : Fin 64) (f2 : Fin 16) : Statement (.barg f0 f1 f2) := by
  refine of_word rfl fun w hw => ?_
  obtain ⟨hl, k, c, q, e0, e1, e2⟩ := layout51 f0 f1 f2 46 1 (by decide) (by decide) hw
  refine ⟨hl, (raw2E k).trans ?_⟩
  unfold decode2E
  rw [c]
  exact (if_pos q).trans (by rw [e0, e1, e2])

theorem layout52 (f0 : Fin 64) (f1 : Fin 64) (f2 : Fin 64) (f3 : Fin 8) {w : Nat} (m : Nat) (c : Nat) (hm : m < 64) (hc : c < 16)
     (hw : w = m * 67108864 + c * 4194304 + f0.val * 65536 + f1.val * 1024 + f2.val * 16 + f3.val) :
     w < 4294967296 ∧ w / 67108864 = m ∧ w / 4194304 % 16 = c ∧ (w / 8 % 2 = 0) ∧ fieldAt 16 64 w = f0 ∧ fieldAt 10 64 w = f1 ∧ fieldAt 4 64 w = f2 ∧ fieldAt 0 8 w = f3 := by
  have h0 := f0.isLt
  have h1 := f1.isLt
  have h2 := f2.isLt
  have h3 := f3.isLt
  exact ⟨by omega, by omega, by omega, by omega, fieldAt_eq f0 (by omega), fieldAt_eq f1 (by omega), fieldAt_eq f2 (by omega), fieldAt_eq f3 (by omega)⟩

theorem pbarv (f0 : Fin 64) (f1 : Fin 64) (f2 : Fin 64) (f3 : Fin 8) : Statement (.pbarv f0 f1 f2 f3) := by
  refine of_word rfl fun w hw => ?_
  obtain ⟨hl, k, c, q, e0, e1, e2, e3⟩ := layout52 f0 f1 f2 f3 46 2 (by decide) (by decide) hw
  refine ⟨hl, (raw2E k).trans ?_⟩
  unfold decode2E
  rw [c]
  exact (if_pos q).trans (by rw [e0, e1, e2, e3])

theorem layout53 (f0 : Fin 64) (f1 : Fin 64) (f2 : Fin 8) {w : Nat} (m : Nat) (c : Nat) (hm : m < 64) (hc : c < 16)
     (hw : w = m * 67108864 + c * 4194304 + f0.val * 65536 + f1.val * 1024 + f2.val) :
     w < 4294967296 ∧ w / 67108864 = m ∧ w / 4194304 % 16 = c ∧ (w / 8 % 128 = 0) ∧ fieldAt 16 64 w = f0 ∧ fieldAt 10 64 w = f1 ∧ fieldAt 0 8 w = f2 := by
  have h0 := f0.isLt
  have h1 := f1.isLt
  have h2 := f2.isLt
  exact ⟨by omega, by omega, by omega, by omega, fieldAt_eq f0 (by omega), fieldAt_eq f1 (by omega), fieldAt_eq f2 (by omega)⟩

theorem pbarw (f0 : Fin 64) (f1 : Fin 64) (f2 : Fin 8) : Statement (.pbarw f0 f1 f2) := by
  refine of_word rfl fun w hw => ?_
  obtain ⟨hl, k, c, q, e0, e1, e2⟩ := layout53 f0 f1 f2 46 3 (by decide) (by decide) hw
  refine ⟨hl, (raw2E k).trans ?_⟩
  unfold decode2E
  rw [c]
  exact (if_pos q).trans (by rw [e0, e1, e2])

theorem layout54 (f0 : Fin 64) (f1 : Fin 64) {w : Nat} (m : Nat) (c : Nat) (hm : m < 64) (hc : c < 16)
     (hw : w = m * 67108864 + c * 4194304 + f0.val * 65536 + f1.val * 1024) :
     w < 4294967296 ∧ w / 67108864 = m ∧ w / 4194304 % 16 = c ∧ (w % 1024 = 0) ∧ fieldAt 16 64 w = f0 ∧ fieldAt 10 64 w = f1 := by
  have h0 := f0.isLt
  have h1 := f1.isLt
  exact ⟨by omega, by omega, by omega, by omega, fieldAt_eq f0 (by omega), fieldAt_eq f1 (by omega)⟩

theorem pbarinit (f0 : Fin 64) (f1 : Fin 64) : Statement (.pbarinit f0 f1) := by
  refine of_word rfl fun w hw => ?_
  obtain ⟨hl, k, c, q, e0, e1⟩ := layout54 f0 f1 46 4 (by decide) (by decide) hw
  refine ⟨hl, (raw2E k).trans ?_⟩
  unfold decode2E
  rw [c]
  exact (if_pos q).trans (by rw [e0, e1])

theorem layout55 (f0 : Fin 64) (f1 : BitVec 2) {w : Nat} (m : Nat) (c : Nat) (hm : m < 64) (hc : c < 16)
     (hw : w = m * 67108864 + c * 4194304 + f0.val * 1024 + f1.toNat * 4) :
     w < 4294967296 ∧ w / 67108864 = m ∧ w / 4194304 % 16 = c ∧ (w % 4 = 0 ∧ w / 16 % 64 = 0 ∧ w / 65536 % 64 = 0) ∧ fieldAt 10 64 w = f0 ∧ BitVec.ofNat 2 (w / 4) = f1 := by
  have h0 := f0.isLt
  have h1 := f1.isLt
  exact ⟨by omega, by omega, by omega, by omega, fieldAt_eq f0 (by omega), ofNat_eq f1 (by omega)⟩

theorem fence (f0 : Fin 64) (f1 : BitVec 2) : Statement (.fence f0 f1) := by
  refine of_word rfl fun w hw => ?_
  obtain ⟨hl, k, c, q, e0, e1⟩ := layout55 f0 f1 47 0 (by decide) (by decide) hw
  refine ⟨hl, (raw2F k).trans ?_⟩
  unfold decode2F
  rw [c]
  exact (if_pos q).trans (by rw [e0, e1])

theorem bindR (f0 : Fin 64) (f1 : Fin 64) : Statement (.bindR f0 f1) := by
  refine of_word rfl fun w hw => ?_
  obtain ⟨hl, k, c, q, e0, e1⟩ := layout54 f0 f1 47 1 (by decide) (by decide) hw
  refine ⟨hl, (raw2F k).trans ?_⟩
  unfold decode2F
  rw [c]
  exact (if_pos q).trans (by rw [e0, e1])

theorem unbind (f0 : Fin 64) (f1 : Fin 64) : Statement (.unbind f0 f1) := by
  refine of_word rfl fun w hw => ?_
  obtain ⟨hl, k, c, q, e0, e1⟩ := layout54 f0 f1 47 2 (by decide) (by decide) hw
  refine ⟨hl, (raw2F k).trans ?_⟩
  unfold decode2F
  rw [c]
  exact (if_pos q).trans (by rw [e0, e1])

theorem layout56 (f0 : Fin 64) (f1 : Fin 16) {w : Nat} (m : Nat) (c : Nat) (hm : m < 64) (hc : c < 16)
     (hw : w = m * 67108864 + c * 4194304 + f0.val * 65536 + f1.val) :
     w < 4294967296 ∧ w / 67108864 = m ∧ w / 4194304 % 16 = c ∧ (w / 16 % 4096 = 0) ∧ fieldAt 16 64 w = f0 ∧ fieldAt 0 16 w = f1 := by
  have h0 := f0.isLt
  have h1 := f1.isLt
  exact ⟨by omega, by omega, by omega, by omega, fieldAt_eq f0 (by omega), fieldAt_eq f1 (by omega)⟩

theorem acq (f0 : Fin 64) (f1 : Fin 16) : Statement (.acq f0 f1) := by
  refine of_word rfl fun w hw => ?_
  obtain ⟨hl, k, c, q, e0, e1⟩ := layout56 f0 f1 47 3 (by decide) (by decide) hw
  refine ⟨hl, (raw2F k).trans ?_⟩
  unfold decode2F
  rw [c]
  exact (if_pos q).trans (by rw [e0, e1])

theorem rel (f0 : Fin 64) (f1 : Fin 16) : Statement (.rel f0 f1) := by
  refine of_word rfl fun w hw => ?_
  obtain ⟨hl, k, c, q, e0, e1⟩ := layout56 f0 f1 47 4 (by decide) (by decide) hw
  refine ⟨hl, (raw2F k).trans ?_⟩
  unfold decode2F
  rw [c]
  exact (if_pos q).trans (by rw [e0, e1])

theorem layout57 (f0 : Fin 16) (f1 : Fin 64) (f2 : Fin 8) (f3 : Fin 64) (f4 : Bool) {w : Nat} (m : Nat) (c : Nat) (hm : m < 64) (hc : c < 16)
     (hw : w = m * 67108864 + c * 4194304 + f0.val * 262144 + f1.val * 4096 + f2.val * 512 + f3.val * 8 + f4.toNat) :
     w < 4294967296 ∧ w / 67108864 = m ∧ w / 4194304 % 16 = c ∧ (w / 2 % 4 = 0) ∧ fieldAt 18 16 w = f0 ∧ fieldAt 12 64 w = f1 ∧ fieldAt 9 8 w = f2 ∧ fieldAt 3 64 w = f3 ∧ bitAt 0 w = f4 := by
  have h0 := f0.isLt
  have h1 := f1.isLt
  have h2 := f2.isLt
  have h3 := f3.isLt
  have h4 := f4.toNat_le
  exact ⟨by omega, by omega, by omega, by omega, fieldAt_eq f0 (by omega), fieldAt_eq f1 (by omega), fieldAt_eq f2 (by omega), fieldAt_eq f3 (by omega), bitAt_eq f4 (by omega)⟩

theorem push (f0 : Fin 16) (f1 : Fin 64) (f2 : Fin 8) (f3 : Fin 64) (f4 : Bool) : Statement (.push f0 f1 f2 f3 f4) := by
  refine of_word rfl fun w hw => ?_
  obtain ⟨hl, k, c, q, e0, e1, e2, e3, e4⟩ := layout57 f0 f1 f2 f3 f4 48 0 (by decide) (by decide) hw
  refine ⟨hl, (raw30 k).trans ?_⟩
  unfold decode30
  rw [c]
  exact (if_pos q).trans (by rw [e0, e1, e2, e3, e4])

theorem layout58 (f0 : Fin 64) (f1 : Fin 64) (f2 : Fin 4) (f3 : Bool) {w : Nat} (m : Nat) (c : Nat) (hm : m < 64) (hc : c < 16)
     (hw : w = m * 67108864 + c * 4194304 + 1024 + f0.val * 4096 + f1.val * 8 + f2.val * 2 + f3.toNat) :
     w < 4294967296 ∧ w / 67108864 = m ∧ w / 4194304 % 16 = c ∧ (w / 512 % 8 = 2 ∧ w / 262144 % 16 = 0) ∧ fieldAt 12 64 w = f0 ∧ fieldAt 3 64 w = f1 ∧ fieldAt 1 4 w = f2 ∧ bitAt 0 w = f3 := by
  have h0 := f0.isLt
  have h1 := f1.isLt
  have h2 := f2.isLt
  have h3 := f3.toNat_le
  exact ⟨by omega, by omega, by omega, by omega, fieldAt_eq f0 (by omega), fieldAt_eq f1 (by omega), fieldAt_eq f2 (by omega), bitAt_eq f3 (by omega)⟩

theorem put (f0 : Fin 64) (f1 : Fin 64) (f2 : Fin 4) (f3 : Bool) : Statement (.put f0 f1 f2 f3) := by
  refine of_word rfl fun w hw => ?_
  obtain ⟨hl, k, c, q, e0, e1, e2, e3⟩ := layout58 f0 f1 f2 f3 48 1 (by decide) (by decide) hw
  refine ⟨hl, (raw30 k).trans ?_⟩
  unfold decode30
  rw [c]
  exact (if_pos q).trans (by rw [e0, e1, e2, e3])

theorem get (f0 : Fin 64) (f1 : Fin 64) (f2 : Fin 4) (f3 : Bool) : Statement (.get f0 f1 f2 f3) := by
  refine of_word rfl fun w hw => ?_
  obtain ⟨hl, k, c, q, e0, e1, e2, e3⟩ := layout58 f0 f1 f2 f3 48 2 (by decide) (by decide) hw
  refine ⟨hl, (raw30 k).trans ?_⟩
  unfold decode30
  rw [c]
  exact (if_pos q).trans (by rw [e0, e1, e2, e3])

theorem cstep (f0 : Fin 64) (f1 : Fin 4) (f2 : Bool) : Statement (.cstep f0 f1 f2) := by
  refine of_word rfl fun w hw => ?_
  obtain ⟨hl, k, c, q, e0, e1, e2⟩ := layout34 f0 f1 f2 48 3 (by decide) (by decide) hw
  refine ⟨hl, (raw30 k).trans ?_⟩
  unfold decode30
  rw [c]
  exact (if_pos q).trans (by rw [e0, e1, e2])

theorem cstat (f0 : Fin 64) (f1 : Fin 64) : Statement (.cstat f0 f1) := by
  refine of_word rfl fun w hw => ?_
  obtain ⟨hl, k, c, q, e0, e1⟩ := layout32 f0 f1 48 4 (by decide) (by decide) hw
  refine ⟨hl, (raw30 k).trans ?_⟩
  unfold decode30
  rw [c]
  exact (if_pos q).trans (by rw [e0, e1])

theorem launch (f0 : Fin 64) (f1 : Fin 64) (f2 : Fin 64) : Statement (.launch f0 f1 f2) := by
  refine of_word rfl fun w hw => ?_
  obtain ⟨hl, k, c, q, e0, e1, e2⟩ := layout47 f0 f1 f2 52 0 (by decide) (by decide) hw
  refine ⟨hl, (raw34 k).trans ?_⟩
  unfold decode34
  rw [c]
  exact (if_pos q).trans (by rw [e0, e1, e2])

theorem lease (f0 : Fin 64) (f1 : Fin 4) : Statement (.lease f0 f1) := by
  refine of_word rfl fun w hw => ?_
  obtain ⟨hl, k, c, q, e0, e1⟩ := layout35 f0 f1 52 1 (by decide) (by decide) hw
  refine ⟨hl, (raw34 k).trans ?_⟩
  unfold decode34
  rw [c]
  exact (if_pos q).trans (by rw [e0, e1])

theorem setpl (f0 : Fin 64) : Statement (.setpl f0) := by
  refine of_word rfl fun w hw => ?_
  obtain ⟨hl, k, c, q, e0⟩ := layout49 f0 52 2 (by decide) (by decide) hw
  refine ⟨hl, (raw34 k).trans ?_⟩
  unfold decode34
  rw [c]
  exact (if_pos q).trans (by rw [e0])

theorem layout59 (f0 : Fin 64) (f1 : Fin 256) {w : Nat} (m : Nat) (c : Nat) (hm : m < 64) (hc : c < 64)
     (hw : w = m * 67108864 + c * 1048576 + f0.val * 16384 + f1.val) :
     w < 4294967296 ∧ w / 67108864 = m ∧ w / 1048576 % 64 = c ∧ (w / 256 % 64 = 0) ∧ fieldAt 14 64 w = f0 ∧ fieldAt 0 256 w = f1 := by
  have h0 := f0.isLt
  have h1 := f1.isLt
  exact ⟨by omega, by omega, by omega, by omega, fieldAt_eq f0 (by omega), fieldAt_eq f1 (by omega)⟩

theorem csrr (f0 : Fin 64) (f1 : Fin 256) : Statement (.csrr f0 f1) := by
  refine of_word rfl fun w hw => ?_
  obtain ⟨hl, k, c, q, e0, e1⟩ := layout59 f0 f1 56 0 (by decide) (by decide) hw
  refine ⟨hl, (raw38 k).trans ?_⟩
  unfold decode38
  rw [c]
  exact (if_pos q).trans (by rw [e0, e1])

theorem layout60 (f0 : Fin 64) (f1 : Fin 64) (f2 : Fin 256) {w : Nat} (m : Nat) (c : Nat) (hm : m < 64) (hc : c < 64)
     (hw : w = m * 67108864 + c * 1048576 + f0.val * 16384 + f1.val * 256 + f2.val) :
     w < 4294967296 ∧ w / 67108864 = m ∧ w / 1048576 % 64 = c ∧ fieldAt 14 64 w = f0 ∧ fieldAt 8 64 w = f1 ∧ fieldAt 0 256 w = f2 := by
  have h0 := f0.isLt
  have h1 := f1.isLt
  have h2 := f2.isLt
  exact ⟨by omega, by omega, by omega, fieldAt_eq f0 (by omega), fieldAt_eq f1 (by omega), fieldAt_eq f2 (by omega)⟩

theorem csrw (f0 : Fin 64) (f1 : Fin 64) (f2 : Fin 256) : Statement (.csrw f0 f1 f2) := by
  refine of_word rfl fun w hw => ?_
  obtain ⟨hl, k, c, e0, e1, e2⟩ := layout60 f0 f1 f2 56 1 (by decide) (by decide) hw
  refine ⟨hl, (raw38 k).trans ?_⟩
  unfold decode38
  rw [c]
  exact congrArg some (by rw [e0, e1, e2])

theorem csrset (f0 : Fin 64) (f1 : Fin 64) (f2 : Fin 256) : Statement (.csrset f0 f1 f2) := by
  refine of_word rfl fun w hw => ?_
  obtain ⟨hl, k, c, e0, e1, e2⟩ := layout60 f0 f1 f2 56 2 (by decide) (by decide) hw
  refine ⟨hl, (raw38 k).trans ?_⟩
  unfold decode38
  rw [c]
  exact congrArg some (by rw [e0, e1, e2])

theorem csrclr (f0 : Fin 64) (f1 : Fin 64) (f2 : Fin 256) : Statement (.csrclr f0 f1 f2) := by
  refine of_word rfl fun w hw => ?_
  obtain ⟨hl, k, c, e0, e1, e2⟩ := layout60 f0 f1 f2 56 3 (by decide) (by decide) hw
  refine ⟨hl, (raw38 k).trans ?_⟩
  unfold decode38
  rw [c]
  exact congrArg some (by rw [e0, e1, e2])

theorem layout61 (f0 : Fin 64) {w : Nat} (m : Nat) (c : Nat) (hm : m < 64) (hc : c < 64)
     (hw : w = m * 67108864 + c * 1048576 + f0.val * 256) :
     w < 4294967296 ∧ w / 67108864 = m ∧ w / 1048576 % 64 = c ∧ (w % 256 = 0 ∧ w / 16384 % 64 = 0) ∧ fieldAt 8 64 w = f0 := by
  have h0 := f0.isLt
  exact ⟨by omega, by omega, by omega, by omega, fieldAt_eq f0 (by omega)⟩

theorem tret (f0 : Fin 64) : Statement (.tret f0) := by
  refine of_word rfl fun w hw => ?_
  obtain ⟨hl, k, c, q, e0⟩ := layout61 f0 57 0 (by decide) (by decide) hw
  refine ⟨hl, (raw39 k).trans ?_⟩
  unfold decode39
  rw [c]
  exact (if_pos q).trans (by rw [e0])

theorem layout62 (f0 : Fin 64) (f1 : Fin 64) {w : Nat} (m : Nat) (c : Nat) (hm : m < 64) (hc : c < 64)
     (hw : w = m * 67108864 + c * 1048576 + f0.val * 16384 + f1.val * 256) :
     w < 4294967296 ∧ w / 67108864 = m ∧ w / 1048576 % 64 = c ∧ (w % 256 = 0) ∧ fieldAt 14 64 w = f0 ∧ fieldAt 8 64 w = f1 := by
  have h0 := f0.isLt
  have h1 := f1.isLt
  exact ⟨by omega, by omega, by omega, by omega, fieldAt_eq f0 (by omega), fieldAt_eq f1 (by omega)⟩

theorem frec (f0 : Fin 64) (f1 : Fin 64) : Statement (.frec f0 f1) := by
  refine of_word rfl fun w hw => ?_
  obtain ⟨hl, k, c, q, e0, e1⟩ := layout62 f0 f1 57 1 (by decide) (by decide) hw
  refine ⟨hl, (raw39 k).trans ?_⟩
  unfold decode39
  rw [c]
  exact (if_pos q).trans (by rw [e0, e1])

theorem replay (f0 : Fin 64) (f1 : Fin 64) : Statement (.replay f0 f1) := by
  refine of_word rfl fun w hw => ?_
  obtain ⟨hl, k, c, q, e0, e1⟩ := layout62 f0 f1 57 2 (by decide) (by decide) hw
  refine ⟨hl, (raw39 k).trans ?_⟩
  unfold decode39
  rw [c]
  exact (if_pos q).trans (by rw [e0, e1])

theorem lkill (f0 : Fin 64) : Statement (.lkill f0) := by
  refine of_word rfl fun w hw => ?_
  obtain ⟨hl, k, c, q, e0⟩ := layout61 f0 57 3 (by decide) (by decide) hw
  refine ⟨hl, (raw39 k).trans ?_⟩
  unfold decode39
  rw [c]
  exact (if_pos q).trans (by rw [e0])

theorem layout63 (f0 : Fin 64) (f1 : Fin 64) {w : Nat} (m : Nat) (c : Nat) (hm : m < 64) (hc : c < 64)
     (hw : w = m * 67108864 + c * 1048576 + f0.val * 256 + f1.val) :
     w < 4294967296 ∧ w / 67108864 = m ∧ w / 1048576 % 64 = c ∧ (w / 64 % 4 = 0 ∧ w / 16384 % 64 = 0) ∧ fieldAt 8 64 w = f0 ∧ fieldAt 0 64 w = f1 := by
  have h0 := f0.isLt
  have h1 := f1.isLt
  exact ⟨by omega, by omega, by omega, by omega, fieldAt_eq f0 (by omega), fieldAt_eq f1 (by omega)⟩

theorem ctxkill (f0 : Fin 64) (f1 : Fin 64) : Statement (.ctxkill f0 f1) := by
  refine of_word rfl fun w hw => ?_
  obtain ⟨hl, k, c, q, e0, e1⟩ := layout63 f0 f1 57 4 (by decide) (by decide) hw
  refine ⟨hl, (raw39 k).trans ?_⟩
  unfold decode39
  rw [c]
  exact (if_pos q).trans (by rw [e0, e1])

theorem layout64 (f0 : Fin 64) (f1 : Fin 64) (f2 : Fin 4) {w : Nat} (m : Nat) (c : Nat) (hm : m < 64) (hc : c < 64)
     (hw : w = m * 67108864 + c * 1048576 + f0.val * 16384 + f1.val * 256 + f2.val) :
     w < 4294967296 ∧ w / 67108864 = m ∧ w / 1048576 % 64 = c ∧ (w / 4 % 64 = 0) ∧ fieldAt 14 64 w = f0 ∧ fieldAt 8 64 w = f1 ∧ fieldAt 0 4 w = f2 := by
  have h0 := f0.isLt
  have h1 := f1.isLt
  have h2 := f2.isLt
  exact ⟨by omega, by omega, by omega, by omega, fieldAt_eq f0 (by omega), fieldAt_eq f1 (by omega), fieldAt_eq f2 (by omega)⟩

theorem tlbinv (f0 : Fin 64) (f1 : Fin 64) (f2 : Fin 4) : Statement (.tlbinv f0 f1 f2) := by
  refine of_word rfl fun w hw => ?_
  obtain ⟨hl, k, c, q, e0, e1, e2⟩ := layout64 f0 f1 f2 58 0 (by decide) (by decide) hw
  refine ⟨hl, (raw3A k).trans ?_⟩
  unfold decode3A
  rw [c]
  exact (if_pos q).trans (by rw [e0, e1, e2])

theorem layout65 (f0 : Fin 64) (f1 : Fin 4) (f2 : Bool) {w : Nat} (m : Nat) (c : Nat) (hm : m < 64) (hc : c < 64)
     (hw : w = m * 67108864 + c * 1048576 + f0.val * 256 + f1.val * 2 + f2.toNat) :
     w < 4294967296 ∧ w / 67108864 = m ∧ w / 1048576 % 64 = c ∧ (w / 8 % 32 = 0 ∧ w / 16384 % 64 = 0) ∧ fieldAt 8 64 w = f0 ∧ fieldAt 1 4 w = f1 ∧ bitAt 0 w = f2 := by
  have h0 := f0.isLt
  have h1 := f1.isLt
  have h2 := f2.toNat_le
  exact ⟨by omega, by omega, by omega, by omega, fieldAt_eq f0 (by omega), fieldAt_eq f1 (by omega), bitAt_eq f2 (by omega)⟩

theorem pglock (f0 : Fin 64) (f1 : Fin 4) (f2 : Bool) : Statement (.pglock f0 f1 f2) := by
  refine of_word rfl fun w hw => ?_
  obtain ⟨hl, k, c, q, e0, e1, e2⟩ := layout65 f0 f1 f2 58 1 (by decide) (by decide) hw
  refine ⟨hl, (raw3A k).trans ?_⟩
  unfold decode3A
  rw [c]
  exact (if_pos q).trans (by rw [e0, e1, e2])

theorem pgswap (f0 : Fin 64) (f1 : Fin 64) : Statement (.pgswap f0 f1) := by
  refine of_word rfl fun w hw => ?_
  obtain ⟨hl, k, c, q, e0, e1⟩ := layout62 f0 f1 58 2 (by decide) (by decide) hw
  refine ⟨hl, (raw3A k).trans ?_⟩
  unfold decode3A
  rw [c]
  exact (if_pos q).trans (by rw [e0, e1])

theorem homemv (f0 : Fin 64) (f1 : Fin 64) : Statement (.homemv f0 f1) := by
  refine of_word rfl fun w hw => ?_
  obtain ⟨hl, k, c, q, e0, e1⟩ := layout62 f0 f1 58 3 (by decide) (by decide) hw
  refine ⟨hl, (raw3A k).trans ?_⟩
  unfold decode3A
  rw [c]
  exact (if_pos q).trans (by rw [e0, e1])

theorem layout66 (f0 : Fin 64) (f1 : Fin 64) (f2 : Bool) {w : Nat} (m : Nat) (c : Nat) (hm : m < 64) (hc : c < 64)
     (hw : w = m * 67108864 + c * 1048576 + f0.val * 16384 + f1.val * 256 + f2.toNat) :
     w < 4294967296 ∧ w / 67108864 = m ∧ w / 1048576 % 64 = c ∧ (w / 2 % 128 = 0) ∧ fieldAt 14 64 w = f0 ∧ fieldAt 8 64 w = f1 ∧ bitAt 0 w = f2 := by
  have h0 := f0.isLt
  have h1 := f1.isLt
  have h2 := f2.toNat_le
  exact ⟨by omega, by omega, by omega, by omega, fieldAt_eq f0 (by omega), fieldAt_eq f1 (by omega), bitAt_eq f2 (by omega)⟩

theorem halt (f0 : Fin 64) (f1 : Fin 64) (f2 : Bool) : Statement (.halt f0 f1 f2) := by
  refine of_word rfl fun w hw => ?_
  obtain ⟨hl, k, c, q, e0, e1, e2⟩ := layout66 f0 f1 f2 59 0 (by decide) (by decide) hw
  refine ⟨hl, (raw3B k).trans ?_⟩
  unfold decode3B
  rw [c]
  exact (if_pos q).trans (by rw [e0, e1, e2])

theorem stepW (f0 : Fin 64) (f1 : Fin 64) (f2 : Bool) : Statement (.stepW f0 f1 f2) := by
  refine of_word rfl fun w hw => ?_
  obtain ⟨hl, k, c, q, e0, e1, e2⟩ := layout66 f0 f1 f2 59 1 (by decide) (by decide) hw
  refine ⟨hl, (raw3B k).trans ?_⟩
  unfold decode3B
  rw [c]
  exact (if_pos q).trans (by rw [e0, e1, e2])

theorem layout67 (f0 : Fin 64) (f1 : Fin 4) (f2 : Fin 8) (f3 : Fin 4) {w : Nat} (m : Nat) (c : Nat) (hm : m < 64) (hc : c < 64)
     (hw : w = m * 67108864 + c * 1048576 + f0.val * 256 + f1.val * 64 + f2.val * 8 + f3.val * 2) :
     w < 4294967296 ∧ w / 67108864 = m ∧ w / 1048576 % 64 = c ∧ (w % 2 = 0 ∧ w / 16384 % 64 = 0) ∧ fieldAt 8 64 w = f0 ∧ fieldAt 6 4 w = f1 ∧ fieldAt 3 8 w = f2 ∧ fieldAt 1 4 w = f3 := by
  have h0 := f0.isLt
  have h1 := f1.isLt
  have h2 := f2.isLt
  have h3 := f3.isLt
  exact ⟨by omega, by omega, by omega, by omega, fieldAt_eq f0 (by omega), fieldAt_eq f1 (by omega), fieldAt_eq f2 (by omega), fieldAt_eq f3 (by omega)⟩

theorem watch (f0 : Fin 64) (f1 : Fin 4) (f2 : Fin 8) (f3 : Fin 4) : Statement (.watch f0 f1 f2 f3) := by
  refine of_word rfl fun w hw => ?_
  obtain ⟨hl, k, c, q, e0, e1, e2, e3⟩ := layout67 f0 f1 f2 f3 59 2 (by decide) (by decide) hw
  refine ⟨hl, (raw3B k).trans ?_⟩
  unfold decode3B
  rw [c]
  exact (if_pos q).trans (by rw [e0, e1, e2, e3])

theorem waitcSatisfied (f0 : Nat) (f1 : Nat) : Statement (.waitcSatisfied f0 f1) := of_none rfl

theorem matrixArbiterGrant (f0 : Nat) (f1 : SpareCheck) : Statement (.matrixArbiterGrant f0 f1) := of_none rfl

theorem matrixAgeStep (f0 : Nat) : Statement (.matrixAgeStep f0) := of_none rfl

theorem bandWake (f0 : Nat) (f1 : Nat) (f2 : Nat) : Statement (.bandWake f0 f1 f2) := of_none rfl

theorem bandRampStep (f0 : Nat) : Statement (.bandRampStep f0) := of_none rfl

theorem lockTimerExpiry (f0 : Nat) (f1 : Nat) : Statement (.lockTimerExpiry f0 f1) := of_none rfl

theorem deadlockScan (f0 : Nat) : Statement (.deadlockScan f0) := of_none rfl

theorem monitorTimeout (f0 : Nat) : Statement (.monitorTimeout f0) := of_none rfl

theorem overflowMonitorRecheck (f0 : Nat) : Statement (.overflowMonitorRecheck f0) := of_none rfl

theorem instructionCompletion (f0 : Nat) (f1 : Nat) : Statement (.instructionCompletion f0 f1) := of_none rfl

theorem operandLogReplay (f0 : Nat) (f1 : Nat) : Statement (.operandLogReplay f0 f1) := of_none rfl

theorem logEntryConversion (f0 : Nat) (f1 : Nat) : Statement (.logEntryConversion f0 f1) := of_none rfl

theorem shootdownAcknowledgement (f0 : Nat) (f1 : Nat) : Statement (.shootdownAcknowledgement f0 f1) := of_none rfl

theorem l1Eviction (f0 : Nat) (f1 : Nat) (f2 : Nat) : Statement (.l1Eviction f0 f1 f2) := of_none rfl

theorem stackCacheSpill (f0 : Nat) (f1 : Nat) : Statement (.stackCacheSpill f0 f1) := of_none rfl

theorem homeWriteWindowEnd (f0 : Nat) : Statement (.homeWriteWindowEnd f0) := of_none rfl

theorem pageHomeMoveEnd (f0 : Nat) : Statement (.pageHomeMoveEnd f0) := of_none rfl

theorem regionMerge (f0 : Nat) : Statement (.regionMerge f0) := of_none rfl

theorem pageCopy (f0 : Nat) (f1 : Nat) : Statement (.pageCopy f0 f1) := of_none rfl

theorem engineCommandRun (f0 : Nat) (f1 : Nat) : Statement (.engineCommandRun f0 f1) := of_none rfl

theorem enginePageFaultResume (f0 : Nat) (f1 : Nat) : Statement (.enginePageFaultResume f0 f1) := of_none rfl

theorem engineCommandRetire (f0 : Nat) (f1 : Nat) : Statement (.engineCommandRetire f0 f1) := of_none rfl

theorem nodeLaunch (f0 : Nat) (f1 : Nat) : Statement (.nodeLaunch f0 f1) := of_none rfl

theorem launchQueueTail (f0 : Nat) (f1 : BitVec 32) : Statement (.launchQueueTail f0 f1) := of_none rfl

theorem launchQueueErrorClear (f0 : Nat) (f1 : BitVec 64) : Statement (.launchQueueErrorClear f0 f1) := of_none rfl

theorem launchRecordRead (f0 : Nat) : Statement (.launchRecordRead f0) := of_none rfl

theorem gangPlacement (f0 : Nat) (f1 : Nat) (f2 : Nat) : Statement (.gangPlacement f0 f1 f2) := of_none rfl

theorem affinityPatienceExpiry (f0 : Nat) (f1 : Nat) : Statement (.affinityPatienceExpiry f0 f1) := of_none rfl

theorem warpRetire (f0 : Nat) : Statement (.warpRetire f0) := of_none rfl

theorem preemption (f0 : Nat) : Statement (.preemption f0) := of_none rfl

theorem quantumExpiry (f0 : Nat) : Statement (.quantumExpiry f0) := of_none rfl

theorem gangSwapOut (f0 : Nat) : Statement (.gangSwapOut f0) := of_none rfl

theorem clusterGating (f0 : Nat) (f1 : Nat) : Statement (.clusterGating f0 f1) := of_none rfl

theorem clusterWake (f0 : Nat) : Statement (.clusterWake f0) := of_none rfl

theorem clusterWakeDone (f0 : Nat) (f1 : Nat) : Statement (.clusterWakeDone f0 f1) := of_none rfl

theorem leaseWindowEnd (f0 : Nat) : Statement (.leaseWindowEnd f0) := of_none rfl

theorem leaseHeadWait (f0 : Nat) : Statement (.leaseHeadWait f0) := of_none rfl

theorem leaseStarvation (f0 : Nat) : Statement (.leaseStarvation f0) := of_none rfl

theorem powerEvaluation (f0 : Bool) : Statement (.powerEvaluation f0) := of_none rfl

theorem performanceLevelChange (f0 : Nat) (f1 : Nat) : Statement (.performanceLevelChange f0 f1) := of_none rfl

theorem tokenRefill (f0 : Nat) (f1 : Fin 4) : Statement (.tokenRefill f0 f1) := of_none rfl

theorem fabricTransactionArrival (f0 : Inbound) : Statement (.fabricTransactionArrival f0) := of_none rfl

theorem pushReceipt (f0 : PushArrival) : Statement (.pushReceipt f0) := of_none rfl

theorem cstepReceipt (f0 : StepArrival) : Statement (.cstepReceipt f0) := of_none rfl

theorem fabricAcknowledgement (f0 : Nat) (f1 : Nat) : Statement (.fabricAcknowledgement f0 f1) := of_none rfl

theorem fabricRetransmission (f0 : Nat) : Statement (.fabricRetransmission f0) := of_none rfl

theorem collfailNotice (f0 : Nat) (f1 : Nat) (f2 : Nat) (f3 : Nat) : Statement (.collfailNotice f0 f1 f2 f3) := of_none rfl

theorem linkFlitResend (f0 : Nat) : Statement (.linkFlitResend f0) := of_none rfl

theorem portFailure (f0 : Nat) : Statement (.portFailure f0) := of_none rfl

theorem hostSnoop (f0 : Nat) : Statement (.hostSnoop f0) := of_none rfl

theorem backInvalidateSnoop (f0 : Nat) : Statement (.backInvalidateSnoop f0) := of_none rfl

theorem hostMemAccess (f0 : HostAccess) : Statement (.hostMemAccess f0) := of_none rfl

theorem ctxnew : Statement (.ctxnew) := of_none rfl

theorem ctxend : Statement (.ctxend) := of_none rfl

theorem qinit : Statement (.qinit) := of_none rfl

theorem psgrant : Statement (.psgrant) := of_none rfl

theorem debugMark : Statement (.debugMark) := of_none rfl

theorem tlbflush : Statement (.tlbflush) := of_none rfl

theorem faultdone : Statement (.faultdone) := of_none rfl

theorem attest : Statement (.attest) := of_none rfl

theorem evlostClear (f0 : BitVec 64) : Statement (.evlostClear f0) := of_none rfl

theorem registerWrite (f0 : Nat) (f1 : Nat) (f2 : BitVec 64) : Statement (.registerWrite f0 f1 f2) := of_none rfl

theorem uncorrectableError (f0 : ErrorSite) : Statement (.uncorrectableError f0) := of_none rfl

theorem fencedMessageDrop (f0 : Nat) (f1 : BitVec 32) : Statement (.fencedMessageDrop f0 f1) := of_none rfl

theorem packageReset (f0 : Bool) (f1 : List SiteReport) : Statement (.packageReset f0 f1) := of_none rfl

theorem siteReadmission (f0 : Nat) (f1 : SiteReport) : Statement (.siteReadmission f0 f1) := of_none rfl

theorem engineReturnToService (f0 : Nat) (f1 : Nat) : Statement (.engineReturnToService f0 f1) := of_none rfl

theorem stalledPageFaultMapped (f0 : Nat) : Statement (.stalledPageFaultMapped f0) := of_none rfl

theorem activity1024Cycles (f0 : Nat) : Statement (.activity1024Cycles f0) := of_none rfl

theorem gatingPowerRemoved (f0 : Nat) (f1 : Nat) : Statement (.gatingPowerRemoved f0 f1) := of_none rfl

end Sys2Proof.Laws.RoundTrip
end

