-- ==== Sys2Proof/Laws/Trap.lean ====
section
/-! SUPPORT. What a trap does, said once (R83, R329), and how a unit comes to trap or to wait at issue (R58). -/

set_option Elab.async false

namespace Sys2Proof.Machine

/-! ## Issued instructions complete (R329 step 1) -/

theorem Warp.fillAll_other (rs : List Reg) : ∀ w : Warp, (w.fillAll rs).trapvec = w.trapvec
    ∧ (w.fillAll rs).trap = w.trap ∧ (w.fillAll rs).frag = w.frag ∧ (w.fillAll rs).traps = w.traps := by
  induction rs with
  | nil => intro w; exact ⟨rfl, rfl, rfl, rfl⟩
  | cons r rs ih => intro w; have := ih (w.setFull r); cases r <;> exact this

theorem Warp.applyAll_other (ws : List RegWrite) : ∀ w : Warp, (w.applyAll ws).trapvec = w.trapvec
    ∧ (w.applyAll ws).trap = w.trap ∧ (w.applyAll ws).frag = w.frag ∧ (w.applyAll ws).traps = w.traps := by
  induction ws with
  | nil => intro w; exact ⟨rfl, rfl, rfl, rfl⟩
  | cons a l ih =>
    intro w
    have h : (w.apply a).trapvec = w.trapvec ∧ (w.apply a).trap = w.trap ∧ (w.apply a).frag = w.frag
        ∧ (w.apply a).traps = w.traps := by
      cases a with
      | s r x => unfold Warp.apply Warp.writeS; dsimp only; split <;> exact ⟨rfl, rfl, rfl, rfl⟩
      | v r m x => exact ⟨rfl, rfl, rfl, rfl⟩
    obtain ⟨h1, h2, h3, h4⟩ := ih (w.apply a)
    exact ⟨h1.trans h.1, h2.trans h.2.1, h3.trans h.2.2.1, h4.trans h.2.2.2⟩

theorem Warp.complete_other (w : Warp) (p : Pending) : (w.complete p).trapvec = w.trapvec
    ∧ (w.complete p).trap.isSome = w.trap.isSome ∧ (w.complete p).frag.entry = w.frag.entry
    ∧ (w.complete p).traps = w.traps := by
  unfold Warp.complete Warp.unblock
  simp only [Warp.fillAll_other, Warp.applyAll_other, Option.isSome_map, and_self]

theorem Warp.settle_other (w : Warp) : w.settle.trapvec = w.trapvec ∧ w.settle.trap.isSome = w.trap.isSome
    ∧ w.settle.frag.entry = w.frag.entry ∧ w.settle.traps = w.traps := by
  unfold Warp.settle
  generalize List.filter _ _ = l
  induction l generalizing w with
  | nil => exact ⟨rfl, rfl, rfl, rfl⟩
  | cons p l ih =>
    obtain ⟨h1, h2, h3, h4⟩ := ih (w.complete p)
    obtain ⟨g1, g2, g3, g4⟩ := w.complete_other p
    exact ⟨h1.trans g1, h2.trans g2, h3.trans g3, h4.trans g4⟩

/-! ## The trap -/

/-- A fault of the issuing fragment's unit that a handler takes. -/
theorem State.raise_trapped {s : State} (h : s.Handles) (r : Raised) (hl : r.logged = false)
    (hp : r.pc = s.warp.frag.pc) (he : r.entry = s.warp.frag.entry) :
    Trapped s (s.raise r) r.cause r.code r.lanes r.rpc r.addr := by
  obtain ⟨h1, h2, h3, h4⟩ := s.warp.settle_other
  obtain ⟨h0, ht, hq⟩ := h
  rw [ht] at h2
  have hq' : (State.quiet { s with warp := s.warp.settle } s.warp.settle) = true := hq
  unfold State.raise
  dsimp only [State.onWarp]
  rw [if_pos hq']
  unfold State.takeTrap
  dsimp only [State.onWarp]
  rw [if_neg (by simpa [h1, h2] using h0)]
  refine ⟨⟨rfl, hp, rfl, ⟨_, rfl, rfl, rfl, rfl, hp, rfl, rfl, ?_, ?_⟩, ⟨rfl, rfl⟩, rfl, rfl⟩,
    ⟨_, rfl, rfl, rfl, ?_⟩, ?_, rfl⟩
  · simp [State.recordOf, h2]
  · intro _; simp [State.recordOf, hl]
  · simp [State.recordOf, hl, he, h3]
  · simp [Warp.enterTrap, h4]

theorem State.trap_trapped {s : State} (h : s.Handles) (c : Cause) (addr : Word64) :
    Trapped s (s.trap c addr) c 0 s.warp.active s.warp.frag.pc addr :=
  State.raise_trapped h _ rfl rfl rfl

/-! ## At issue -/

/-- A unit that the gate turns away with a cause. -/
theorem State.issue_traps {s : State} (h : s.Handles) {n : Need} {c : Cause} (hg : s.gate n = .trap c)
    (e : State → State) : Traps s (s.issue n e) c :=
  ⟨_, by unfold State.issue; rw [hg], State.trap_trapped h c 0⟩

/-- A unit that the gate makes wait. -/
theorem State.issue_waits {s : State} {n : Need} (hg : s.gate n = .wait) (e : State → State) : Waits s (s.issue n e) := by
  unfold Waits State.issue; rw [hg]; rfl

/-- A unit that is ready and whose effect is a trap. -/
theorem State.issue_ready_traps {s : State} (h : s.Handles) {n : Need} (hr : s.Ready n) (e : State → State)
    {c : Cause} {addr : Word64} (he : e s = s.trap c addr) : Traps s (s.issue n e) c addr :=
  ⟨_, State.issue_ready hr e, by rw [he]; exact State.trap_trapped h c addr⟩

/-! ## Fragments that need no settling -/

/-- Where every fragment has a live lane, none is parked and one is ready, R88 changes nothing. -/
theorem Warp.settleFrags_same {w : Warp} (h1 : w.park = []) (h2 : ∀ f ∈ w.frags, w.holds f = true)
    (h3 : ∃ f ∈ w.allFrags, w.holds f = true ∧ f.state = .ready) : w.settleFrags = w := by
  have hd : w.dropDead = w := by
    unfold Warp.dropDead
    rw [List.filter_eq_self.2 h2, h1]
    cases w; simp_all
  unfold Warp.settleFrags
  rw [hd]
  have hu : Warp.unpark 16 w = w := by simp [Warp.unpark, h1]
  rw [hu]
  unfold Warp.releaseOne
  rw [if_pos]
  obtain ⟨f, hf, hf1, hf2⟩ := h3
  simp only [List.any_eq_true]
  exact ⟨f, by simp [Warp.usedFrags, hf, hf1], by simp [Fragment.isReady, hf2]⟩

end Sys2Proof.Machine
end

