-- ==== Sys2Proof/Laws/Vector.lean ====
section
/-! SUPPORT. What a vector instruction does, said once: every element of its block, every lane, and nothing else. -/

set_option Elab.async false

namespace Sys2Proof.Machine

/-! ## Blocks (R52) -/

/-- The registers of a block, as numbers from its base, are distinct and lie in its rows and columns. -/
theorem blockNumbers (r c : Fin 9) :
    (((List.range r.val).flatMap fun i => (List.range (c.val / 1)).map fun j => 8 * i + 1 * j).Nodup
      ∧ ∀ n ∈ ((List.range r.val).flatMap fun i => (List.range (c.val / 1)).map fun j => 8 * i + 1 * j),
          n % 8 < c.val ∧ n / 8 < r.val)
    ∧ ((((List.range r.val).flatMap fun i => (List.range (c.val / 2)).map fun j => 8 * i + 2 * j).flatMap
          fun o => (List.range 2).map fun k => o + k).Nodup
      ∧ ∀ n ∈ (((List.range r.val).flatMap fun i => (List.range (c.val / 2)).map fun j => 8 * i + 2 * j).flatMap
          fun o => (List.range 2).map fun k => o + k), n % 8 < c.val ∧ n / 8 < r.val) := by
  revert r c; decide +kernel

theorem regAt_val (b : Fin 64) (k : Nat) (h : b.val + k < 64) : (regAt b k).val = b.val + k := by
  simp [regAt, Nat.mod_eq_of_lt h]

theorem regAt_regAt (b : Fin 64) (j k : Nat) : regAt (regAt b j) k = regAt b (j + k) := by
  apply Fin.ext; simp [regAt, Nat.add_assoc]

theorem nodup_regs (d : Fin 64) (ns : List Nat) (h : ns.Nodup) (hb : ∀ n ∈ ns, d.val + n < 64) :
    (ns.map fun n => Reg.v (regAt d n)).Nodup := by
  refine List.Nodup.map_on ?_ h
  intro a ha b hb' hab
  have h1 := regAt_val d a (hb a ha)
  have h2 := regAt_val d b (hb b hb')
  injection hab with hab
  rw [hab] at h1; omega

theorem rows_le (h : Hints) : h.rows < 9 := by unfold Hints.rows bitsOf; omega
theorem cols_le (h : Hints) : h.cols < 9 := by unfold Hints.cols bitsOf; omega

/-- The registers of a destination block that fits are distinct. -/
theorem blockRegs_nodup (h : Hints) (d : Fin 64) (step dw : Nat) (hs : step = 1 ∨ step = 2)
    (hd : dw = step ∨ h.hblk = none ∧ (dw = 1 ∨ dw = 2)) (hf : h.blockFits step d = true) :
    (blockRegs d (h.elems step) dw).Nodup := by
  have hflat : blockRegs d (h.elems step) dw
      = ((h.elems step).flatMap fun o => (List.range dw).map fun k => o + k).map fun n => Reg.v (regAt d n) := by
    simp [blockRegs, List.map_flatMap, List.map_map, Function.comp_def]
  rw [hflat]
  by_cases hn : h.hblk = none
  · have hdw : dw = 1 ∨ dw = 2 := by omega
    have he : h.elems step = [0] := by simp [Hints.elems, hn]
    rw [he]
    rcases hdw with rfl | rfl
    · simp
    · have : regAt d 0 ≠ regAt d 1 := by
        intro e
        have e' := congrArg Fin.val e
        simp [regAt] at e'
        omega
      simp [List.range_succ, this]
  · have hdw : dw = step := by rcases hd with h1 | h1; exact h1; exact absurd h1.1 hn
    subst hdw
    have he : h.elems dw = h.blockOffsets dw := by
      cases hh : h.hblk with
      | none => exact absurd hh hn
      | some p => simp [Hints.elems, hh]
    rw [he]
    have hr := rows_le h
    have hc := cols_le h
    have key := blockNumbers ⟨h.rows, hr⟩ ⟨h.cols, hc⟩
    have hfit : d.val % 8 + h.cols ≤ 8 ∧ d.val / 8 + h.rows ≤ 8 := by
      unfold Hints.blockFits at hf
      cases hh : h.hblk with
      | none => exact absurd hh hn
      | some p => simp [hh] at hf; exact hf.1
    rcases hs with rfl | rfl
    · have hflat1 : ((h.blockOffsets 1).flatMap fun o => (List.range 1).map fun k => o + k) = h.blockOffsets 1 := by
        simp
      rw [hflat1]
      refine nodup_regs d _ key.1.1 fun n hn' => ?_
      have := key.1.2 n hn'; simp only at this; omega
    · refine nodup_regs d _ key.2.1 fun n hn' => ?_
      have := key.2.2 n hn'; simp only at this; omega

/-! ## Writes to distinct registers -/

theorem Warp.apply_other (w : Warp) (a : RegWrite) (r : Fin 64) (h : a.reg ≠ .v r) :
    (w.apply a).v[r] = w.v[r] ∧ (w.apply a).vFull[r] = w.vFull[r] := by
  have hk : w.Keeps (w.apply a) [a.reg] := by
    cases a with
    | s q x => exact w.writeS_keeps q x
    | v q m x => exact w.writeV_keeps q m x
  have := hk.vector r (by simpa using Ne.symm h)
  exact ⟨this.1, this.2.1⟩

/-- Each write of a list to distinct registers stands. -/
theorem Warp.applyAll_holds (ws : List RegWrite) : ∀ (w : Warp) (_ : (ws.map RegWrite.reg).Nodup) (r : Fin 64)
    (m : Word32) (x : VReg) (_ : RegWrite.v r m x ∈ ws), w.HoldsV (w.applyAll ws) r m fun l => x[l] := by
  induction ws with
  | nil => intro w _ r m x h; cases h
  | cons a l ih =>
    intro w hn r m x h
    simp only [List.map_cons, List.nodup_cons] at hn
    rcases List.mem_cons.1 h with rfl | h
    · have hk := (Warp.applyAll_keeps l (w.apply (.v r m x))).vector r hn.1
      refine ⟨fun q => ?_, ?_⟩
      · show ((w.apply (.v r m x)).applyAll l).v[r][q] = _
        rw [hk.1]
        simp [Warp.apply, Warp.writeV]
      · show ((w.apply (.v r m x)).applyAll l).vFull[r] = true
        rw [hk.2.1]
        simp [Warp.apply, Warp.writeV]
    · have hne : a.reg ≠ .v r := fun e => hn.1 (by rw [e]; exact List.mem_map.2 ⟨_, h, rfl⟩)
      have h1 := ih (w.apply a) hn.2 r m x h
      have h2 := w.apply_other a r hne
      exact ⟨fun q => by rw [← h2.1]; exact h1.value q, h1.full⟩

/-! ## A vector instruction -/

theorem foldl_or_and (f : Nat → Word32) (m : Word32) (l : List Nat) : ∀ (a : Word32) (_ : a &&& m = 0)
    (_ : ∀ o ∈ l, f o &&& m = 0), (l.foldl (fun a o => a ||| f o) a) &&& m = 0 := by
  induction l with
  | nil => intro a h _; exact h
  | cons o l ih =>
    intro a h hl
    refine ih _ ?_ fun q hq => hl q (List.mem_cons_of_mem _ hq)
    have := hl o (by simp)
    apply BitVec.eq_of_getLsbD_eq
    intro i hi
    have h1 := congrArg (fun x : Word32 => x.getLsbD i) h
    have h2 := congrArg (fun x : Word32 => x.getLsbD i) this
    simp only [BitVec.getLsbD_and, BitVec.getLsbD_or] at h1 h2 ⊢
    revert h1 h2
    cases a.getLsbD i <;> cases (f o).getLsbD i <;> cases m.getLsbD i <;> simp

/-- The writes of an element name the registers of the element. -/
theorem VOp.writes_reg (v : VOp) (f : LaneFn) (w : Warp) (lanes : Word32) (o : Nat) (hd : v.dw = 1 ∨ v.dw = 2) :
    (v.writes f w lanes o).map RegWrite.reg = (List.range v.dw).map fun k => Reg.v (regAt v.d (o + k)) := by
  unfold VOp.writes
  rcases hd with h | h
  · simp [h, RegWrite.reg]
  · simp [h, pairWrites, RegWrite.reg, List.range_succ, regAt_regAt]

/-- The write of register `k` of an element. -/
theorem VOp.mem_writes (v : VOp) (f : LaneFn) (w : Warp) (lanes : Word32) (o k : Nat) (hd : v.dw = 1 ∨ v.dw = 2)
    (hk : k < v.dw) : ∃ x : VReg, RegWrite.v (regAt v.d (o + k)) lanes x ∈ v.writes f w lanes o
      ∧ ∀ l, inMask lanes l = true → x[l] = ((f w o l).1 >>> (32 * k)).setWidth 32 := by
  unfold VOp.writes
  rcases hd with h | h
  · have : k = 0 := by omega
    subst this
    refine ⟨lanes32 fun l => ((if inMask lanes l then (f w o l).1 else 0 : Word64)).setWidth 32, by simp [h], fun l hl => ?_⟩
    simp [lanes32, hl]
  · have hk' : k = 0 ∨ k = 1 := by omega
    rcases hk' with rfl | rfl
    · refine ⟨lanes32 fun l => ((if inMask lanes l then (f w o l).1 else 0 : Word64)).setWidth 32, by simp [h, pairWrites], fun l hl => ?_⟩
      simp [lanes32, hl]
    · refine ⟨lanes32 fun l => ((if inMask lanes l then (f w o l).1 else 0 : Word64) >>> 32).setWidth 32,
        by simp [h, pairWrites, regAt_regAt], fun l hl => ?_⟩
      simp [lanes32, hl]

/-- The effect of a vector instruction whose lanes read no poison, where its destination block fits. -/
theorem State.vecResult_did {s : State} (hp : s.Prompt) (v : VOp) (poison : Warp → Nat → Word32) (f : LaneFn)
    (hs : v.step = 1 ∨ v.step = 2) (hd : v.dw = v.step ∨ s.warp.frag.hints.hblk = none ∧ (v.dw = 1 ∨ v.dw = 2))
    (hf : s.warp.frag.hints.blockFits v.step v.d = true)
    (hc : ∀ o ∈ s.elems v, poison s.warp o &&& s.warp.active = 0) :
    VecDid s (.next (s.vecResult v poison f)) v (fun o l => (f s.warp o l).1)
      (orFlags ((s.elems v).flatMap fun o => (lanesOf s.warp.active).map fun l => (f s.warp o l).2)) := by
  have hdw : v.dw = 1 ∨ v.dw = 2 := by omega
  have hk : (s.elems v).foldl (fun m o => m ||| poison s.warp o) 0 &&& s.warp.active = 0 :=
    foldl_or_and _ _ _ 0 (by simp) hc
  have ha : s.warp.active &&& ~~~((s.elems v).foldl (fun m o => m ||| poison s.warp o) 0 &&& s.warp.active)
      = s.warp.active := by rw [hk]; exact BitVec.and_allOnes
  have he : s.vecResult v poison f
      = (s.finish ((s.elems v).flatMap (v.writes f s.warp s.warp.active))
          (orFlags ((s.elems v).flatMap fun o => (lanesOf s.warp.active).map fun l => (f s.warp o l).2))).advance := by
    unfold State.vecResult
    simp only [show s.warp.frag.hints.elems v.step = s.elems v from rfl]
    rw [ha, hk]
    rfl
  have hregs : ((s.elems v).flatMap (v.writes f s.warp s.warp.active)).map RegWrite.reg
      = blockRegs v.d (s.elems v) v.dw := by
    rw [List.map_flatMap]
    simp only [VOp.writes_reg v f s.warp s.warp.active _ hdw]
    rfl
  refine ⟨_, rfl, ?_, fun o ho k hk' => ?_, ?_⟩
  · rw [he, ← hregs]
    exact State.finish_advance_did hp _ _
  · rw [he, State.finish_prompt hp]
    obtain ⟨x, hx, hxl⟩ := v.mem_writes f s.warp s.warp.active o k hdw hk'
    have hn : (((s.elems v).flatMap (v.writes f s.warp s.warp.active)).map RegWrite.reg).Nodup := by
      rw [hregs]
      exact blockRegs_nodup _ _ _ _ hs hd hf
    have h1 := Warp.applyAll_holds _ s.warp hn _ _ x (List.mem_flatMap.2 ⟨o, ho, hx⟩)
    refine ⟨fun l => ?_, h1.full⟩
    have h2 := h1.value l
    by_cases hl : inMask s.warp.active l = true
    · simp only [hl, if_true] at h2 ⊢
      rw [← hxl l hl]; exact h2
    · simp only [hl] at h2 ⊢
      exact h2
  · rw [he, State.finish_prompt hp]
    rfl

/-- A vector instruction that is ready and whose lanes read no poison. -/
theorem vecUnit_did {s : State} (hp : s.Prompt) (v : VOp) (n : Need) (f : LaneFn)
    (hr : s.Ready (v.need n s.warp.frag.hints)) (hs : v.step = 1 ∨ v.step = 2)
    (hd : v.dw = v.step ∨ n.hblk = false ∧ (v.dw = 1 ∨ v.dw = 2)) (hc : s.Clean v) :
    VecDid s (vecUnit v n f s) v (fun o l => (f s.warp o l).1)
      (orFlags ((s.elems v).flatMap fun o => (lanesOf s.warp.active).map fun l => (f s.warp o l).2)) := by
  unfold vecUnit
  rw [State.issue_ready hr]
  have hl := hr.legal
  simp only [VOp.need, Bool.and_eq_true] at hl
  refine State.vecResult_did hp v _ f hs ?_ hl.1.2 hc
  rcases hd with hd | hd
  · exact .inl hd
  · right
    refine ⟨?_, hd.2⟩
    have hh := hr.hints
    unfold hintsLegal at hh
    simp only [VOp.need, hd.1, Bool.and_eq_true] at hh
    cases hb : s.warp.frag.hints.hblk with
    | none => rfl
    | some p => simp [hb] at hh

end Sys2Proof.Machine
end

