-- ==== Sys2Proof/Tests/Slice0.lean ====
section
/-! SUPPORT. The model's own tests: ill-formed terms that the check refuses, words of the spec that decode to the
instructions it names, small runs of one step with the results that the spec works out, and for each obligation a
concrete state that meets its hypotheses together. -/

namespace Sys2Proof.Tests

open Sys2Proof Sys2Proof.Machine

set_option Elab.async false

/-! ## Small states -/

/-- The package right after reset with one warp of one fragment: context 0, level 2, page table, stack, scratchpad. -/
def base : State := State.reset.installProbe

/-- A change of the issuing warp. -/
def onW (s : State) (f : Warp → Warp) : State := { s with warp := f s.warp }

def setS (s : State) (r : Fin 64) (v : Word64) : State := onW s fun w => { w with s := w.s.set r v }
def setV (s : State) (r : Fin 64) (f : Fin 32 → Word32) : State := onW s fun w => { w with v := w.v.set r (Vector.ofFn f) }
def all (x : Word32) : Fin 32 → Word32 := fun _ => x
def setMask (s : State) (m : Word32) : State := onW s fun w => { w with frag := { w.frag with mask := m } }
def setHints (s : State) (h : Hints) : State := onW s fun w => { w with frag := { w.frag with hints := h } }
def setMem (s : State) (a : Nat) (bs : List Byte) : State := { s with mem := s.mem.writeBytes a bs }

/-- With a handler at 0x11000. -/
def handled (s : State) : State := onW s fun w => { w with trapvec := 0x11000 }

/-- With one more fragment, of the upper sixteen lanes, so that the warp is not fused. -/
def split (s : State) : State :=
  onW s fun w => { w with
    frag := { w.frag with mask := 0x0000FFFF }
    frags := [{ Fragment.start 0x12000 with entry := 1, mask := 0xFFFF0000 }] }

/-- With the next completion late (log 2). -/
def late (s : State) : State := { s with delays := [true] }

/-- Another warp of the gang, number 90, on the next slot of the core. -/
def mate : Warp := { probeWarp 90 base.warp.gang with index := 1, slot := 1 }
def paired (s : State) : State := { s with others := s.others ++ [mate] }

/-- The warp's context is number 5, marked for debugging or not. -/
def guest (s : State) (debug : Bool) : State :=
  { onW s fun w => { w with ctx := 5 } with
    contexts := s.contexts ++ [{ Context.start 5 with debug := debug, ptbase := 0x1000, asid := 5 }] }

/-- A pending instruction of the unit at 0x10000, number 0, which would write s3. -/
def pendingOf (kind : PendKind) : Pending :=
  { id := 0, pc := 0x10000, gen := 0, mask := 0xFFFFFFFF, kind := kind, dests := [.s 3], writes := [], flags := 0, floats := false
    killed := 0, killedAt := 0, ready := false, fault := none, faults := [], unit := none, acq := false, stepped := false }

/-- The warp has issued an instruction that has not completed. -/
def busy (s : State) (p : Pending) : State :=
  onW s fun w => { w with pend := [p], nextPend := 1, frag := { w.frag with pc := 0x10004, fetch := 0x10004 } }

/-- A command of the issuing warp, number 100. -/
def commandOf (s : State) (kind : CmdKind) (cls : Fin 4) : Command :=
  { id := 100, warp := s.warp.uid, gang := s.warp.gang, ctx := s.warp.ctx, cls := cls, seq := 0, pc := 0, node := none, kind := kind
    phase := .queued, entered := 100, done := 0, patched := false, pend := none }

/-- What the answer of an instruction leaves, for tests that look at parts of it. -/
def after (out : Host.Outcome State Fault Refusal) : Option State :=
  match out with
  | .next t => some t
  | _ => none

/-- The trap cause that an instruction leaves. -/
def causeAfter (out : Host.Outcome State Fault Refusal) : Option Cause := (after out).bind fun t => t.warp.trapcause

/-- A scalar register after an instruction. -/
def sAfter (out : Host.Outcome State Fault Refusal) (r : Fin 64) : Option Word64 := (after out).map fun t => t.warp.readS r

/-- A lane of a vector register after an instruction. -/
def vAfter (out : Host.Outcome State Fault Refusal) (r : Fin 64) (l : Fin 32) : Option Word32 :=
  (after out).map fun t => t.warp.v[r][l]

/-! ## Premises as checks -/

def readyB (s : State) (n : Need) : Bool :=
  !n.denied && !n.csrDenied && hintsLegal s.warp.frag.hints n && n.legal && (!n.level2 || decide (2 ≤ s.gridLevel))
  && n.cond.isNone && n.dests.all s.warp.full && n.srcs.all (fun q => s.warp.full q.1)
  && (n.poisonOk || n.srcs.all fun q => !s.warp.scalarPoison q.1)

theorem ready_of {s : State} {n : Need} (h : readyB s n = true) : s.Ready n := by
  simp only [readyB, Bool.and_eq_true, Bool.or_eq_true, Bool.not_eq_true', decide_eq_true_eq, List.all_eq_true,
    Option.isNone_iff_eq_none] at h
  obtain ⟨⟨⟨⟨⟨⟨⟨⟨h1, h2⟩, h3⟩, h4⟩, h5⟩, h6⟩, h7⟩, h8⟩, h9⟩ := h
  exact
    { allowed := ⟨h1, h2⟩
      hints := h3
      legal := h4
      level := fun e => h5.resolve_left (by simp [e])
      holds := h6
      room := h7
      full := h8
      clean := h9 }

theorem handles_of {s : State}
    (h : (s.warp.trapvec.toNat / 4 % 2 ^ 55 != 0 && s.warp.trap.isNone && s.quiet s.warp.settle) = true) : s.Handles := by
  simpa [State.Handles, and_assoc] using h

theorem prompt_of {s : State} (h : s.delays.head? ≠ some true) : s.Prompt := h

def emptyS (s : State) (r : Fin 64) : State := onW s fun w => { w with sFull := w.sFull.set r false }
def poisonS (s : State) (r : Fin 64) : State := onW s fun w => { w with sPoison := w.sPoison.set r true }
def poisonV (s : State) (r : Fin 64) (m : Word32) : State := onW s fun w => { w with vPoison := w.vPoison.set r m }
def level1 (s : State) : State :=
  { s with grids := s.grids.map fun (g : Grid) => { g with record := { g.record with level := 1 } } }
def debugged (s : State) : State := { s with contexts := s.contexts.map fun (c : Context) => { c with debug := true } }

/-- In trap mode, after TRAP with code 5. -/
def trapped : State := (after (exec (.trap 5) (handled base))).getD base

/-- The warp that the agenda names. -/
def named (s : State) (u : Nat) : Warp := (s.findWarp u).getD s.warp

/-- A step that is told which fragment issues. -/
theorem issues_of {s : State} {rest : List Move} {u e : Nat} (h : s.inReset = false) (ha : s.agenda = .issue u e :: rest)
    (hw : (match ({ s with agenda := rest } : State).findWarp u with
      | some w => w.uid == u && (match w.allFrags.find? fun g => g.entry == e && w.holds g with
        | some g => ({ s with agenda := rest } : State).mayChoose w g
        | none => false)
      | none => false) = true) :
    Issues s { s with agenda := rest } (({ s with agenda := rest } : State).choose u e)
      (named { s with agenda := rest } u) e := by
  unfold named
  cases hf : ({ s with agenda := rest } : State).findWarp u with
  | none => simp [hf] at hw
  | some w =>
    rw [hf] at hw
    cases hg : w.allFrags.find? fun g => g.entry == e && w.holds g with
    | none => simp [hg] at hw
    | some g =>
      simp only [hg, Bool.and_eq_true, beq_iff_eq] at hw
      obtain ⟨hu, hm⟩ := hw
      subst hu
      exact ⟨h, hf, rfl, .inl ⟨rest, g, ha, rfl, hg, hm⟩⟩

/-- The state after the unit's word has been found, charged and read. -/
def fetchOf (f : State) (loc : Nat) : State :=
  match f.translate f.warp.units f.warp.ctx f.warp.frag.fetch.toNat false false true with
  | (x, .at_ _ k _) => ((x.chargeAll x.warp.ctx x.warp.site [(k, loc, 4)]).readAt x.warp.agent k loc 4).1
  | (x, _) => x

theorem fetches_of {f : State} {loc : Nat}
    (h : (match f.translate f.warp.units f.warp.ctx f.warp.frag.fetch.toNat false false true with
      | (g, .at_ l _ _) => l == loc && !g.poisoned loc 4
      | _ => false) = true) :
    Fetches f (fetchOf f loc) loc := by
  unfold fetchOf
  generalize hr : f.translate f.warp.units f.warp.ctx f.warp.frag.fetch.toNat false false true = r at h
  match r, h with
  | (x, .at_ l k p), h =>
    simp only [Bool.and_eq_true, beq_iff_eq, Bool.not_eq_true'] at h
    exact ⟨x, k, p, by rw [h.1] at hr; exact hr, h.2, rfl⟩

/-! ## Ill-formed terms (R35, R57): one for each check of wellFormed, next to a well-formed neighbour -/

theorem test_wellFormed_refuses :
    ∀ i ∈ [Instr.mset 0 1 false, .mand 0 1 2, .mor 0 1 2, .mxor 0 1 2, .mandn 0 1 2, .mnot 0 1, .mlive 0 1]
      ++ [Instr.vaddw 1 2 3 false false, .vaddw 2 1 3 false false, .vsubw 1 2 3 false false,
          .vaddwScalar 2 1 3 false false, .vmulw 1 2 3 false false, .vaddr 3 1 2 false false]
      ++ [Instr.vceq 0 1 2 false false, .vcltz 0 1 2 false false, .fceq 0 1 2 false false]
      ++ [Instr.dadd 1 2 4 false false, .dadd 2 1 4 false false, .dadd 2 4 1 false false, .daddScalar 1 2 3 false false,
          .dsqrt 1 2 false, .ddiv 2 4 1 false false, .dfma 2 4 6 1 false]
      ++ [Instr.ld 1 2 3 7 0 false, .ld 1 2 3 3 0 false, .ld 2 2 3 4 0 false, .st 1 2 3 3 0 false, .ldp64 1 0 false,
          .stp128 2 0 false]
      ++ [Instr.cvt 2 4 25 0 0 false false, .cvt 2 4 0 25 0 false false, .cvt 1 4 0 20 0 false false,
          .cvt 62 4 18 0 0 false false]
      ++ [Instr.tload 1 62 3 2 0 false, .tload 1 2 0 2 0 false, .tgather 1 2 2 63 0 false, .tcopy 1 2 0 3 false,
          .mmul 0 1 2 0 false, .mrdrow 0 0 1 2 3]
      ++ [Instr.aadd 2 3 4 0 false false, .aadd 3 2 4 2 false false, .aadd 62 2 4 2 false false, .aand 2 2 4 4 false false,
          .aincw 2 2 4 1 false false, .acas 2 2 3 0 false false, .acas 2 2 2 2 false false, .radd 3 2 0 false false,
          .ror 2 2 5 false false]
      ++ [Instr.waitcmp 1 63 2 0, .waitcmp 1 2 3 8, .barw 1 2 7, .pbarv 1 2 3 5, .pbarw 1 2 5, .fence 5 3, .fence 0 0,
          .bindR 1 0, .bindR 1 63, .unbind 1 0, .acq 1 5]
      ++ [Instr.push 1 2 2 63 false, .put 63 1 0 false, .lease 1 3, .lease 1 1, .csrr 1 0, .csrw 1 2 0x70, .tlbinv 1 2 3,
          .stepW 1 2 true],
      i.wellFormed = false := by decide +kernel

theorem test_wellFormed_admits :
    ∀ i ∈ [Instr.mset 1 1 false, .vaddw 2 4 3 false false, .vceq 1 1 2 false false, .dfma 2 4 6 8 false]
      ++ [Instr.ld 4 2 3 4 0 false, .cvt 2 4 20 0 0 false false, .tload 1 57 7 2 0 false, .mmul 0 1 2 1 false,
          .aadd 2 2 4 2 false false, .aincw 2 2 4 2 false false, .acas 2 2 4 2 false false, .waitcmp 1 62 2 7]
      ++ [Instr.fence 4 3, .bindR 1 62, .acq 1 4, .put 62 1 0 false, .lease 0 1, .csrr 1 0x62, .tlbinv 1 2 2,
          .stepW 0 2 true],
      i.wellFormed = true := by decide +kernel

/-! ## Words that the spec writes out, family by family -/

theorem test_decode_hints :
    ∀ e ∈ [(0x04890000, Instr.hmod 0x090000), (0x04000040, .himm 0x40), (0x044B0000, .hblk 0x0B0000),
           (0x04807000, .hmod 0x007000)], decodeWord e.1 = some e.2 := by decide +kernel

theorem test_decode_scalar :
    ∀ e ∈ [(0x10304200, Instr.sadd 3 1 2 false false), (0x10720914, .sdiv 7 8 9 false false), (0x14A2E002, .sshli 10 11 1 false),
           (0x14C2C7FA, .saddi 12 11 (-3) false), (0x18A00006, .sli 10 3), (0x1BC01880, .enter 60 64),
           (0x18901058, .saddpc 9 44)], decodeWord e.1 = some e.2 := by decide +kernel

theorem test_decode_control :
    ∀ e ∈ [(0x208BFFFD, Instr.bnez 5 (-3)), (0x2119FFFB, .bltz 12 (-5)), (0x23000003, .bra 3), (0x2C000000, .nop),
           (0x2C000010, .exit), (0x31C00005, .brvf 3 5), (0x30800004, .brvt 1 4), (0x34000100, .fuse 1),
           (0x34B04020, .mpopc 11 1), (0x344A0004, .mset 4 40 false), (0x36A0C008, .mget 42 3), (0x3430840C, .mand 3 2 4)],
      decodeWord e.1 = some e.2 := by decide +kernel

theorem test_decode_vector :
    ∀ e ∈ [(0x40841800, Instr.vadd 8 16 24 false false), (0x44C0D48C, .vaddr 12 3 20 false false),
           (0x41455690, .vdot4 20 21 22 false false), (0x48202004, .vshli 2 0 2 false), (0x48300002, .vaddi 3 0 1 false),
           (0x48403FFE, .vmovi 4 (-1)), (0x4C214608, .vclt 2 5 6 false false), (0x4C219514, .vclez 2 6 21 false false),
           (0x6C720960, .vsel 7 8 9 3 false false), (0x68108311, .vmad 1 2 3 4 false), (0x50A2CC00, .shfl 10 11 12 false false),
           (0x50810024, .wradd 8 4 false)], decodeWord e.1 = some e.2 := by decide +kernel

theorem test_decode_float :
    ∀ e ∈ [(0x81420042, Instr.cvt 20 8 0 4 0 true false), (0x80212020, .cvt 2 4 16 2 0 false false),
           (0x58A2C300, .faddScalar 10 11 3 false false), (0x5C310000, .rcp 3 4 false), (0x6041461C, .ffma 4 5 6 7 false),
           (0x64828C39, .dfma 8 10 12 14 false), (0x6945565C, .exp2x 20 21 22 23 false)],
      decodeWord e.1 = some e.2 := by decide +kernel

theorem test_decode_memory :
    ∀ e ∈ [(0x70408844, Instr.ldAcq 4 2 8 2 0 false), (0x7060CA62, .ldNt 6 3 10 3 0 false), (0x74308048, .st 3 2 0 2 1 false),
           (0x78A00820, .ldp64 10 16 false), (0x74718048, .st 7 6 0 2 1 false)], decodeWord e.1 = some e.2 := by decide +kernel

theorem test_decode_engines :
    ∀ e ∈ [(0x880D4200, Instr.tsrld 3 20 0), (0x8C088482, .tload 2 8 2 16 1 false), (0x94050000, .waitc 5 0),
           (0x9C5018A2, .mmulz 2 12 20 1 false), (0x98029000, .mlds 5 8 false), (0xA01B1400, .mdrain 3 6 10 false false),
           (0xA0901282, .mrdrow 2 0 9 16 1)], decodeWord e.1 = some e.2 := by decide +kernel

theorem test_decode_atomics :
    ∀ e ∈ [(0xA4418800, Instr.aadd 4 6 8 0 false false), (0xAC028C10, .radd 10 12 4 false false),
           (0xA880CC09, .acas 8 3 12 2 false true)], decodeWord e.1 = some e.2 := by decide +kernel

theorem test_decode_synchronisation :
    ∀ e ∈ [(0xB0082470, Instr.llock 8 9 7), (0xB0480070, .ltry 8 7), (0xB0880000, .lunlock 8), (0xB0C800A0, .lstat 8 10),
           (0xB1082470, .lyield 8 9 7), (0xB4082872, .waitcmp 8 10 7 2), (0xB8480076, .barg 8 7 6), (0xB8080070, .barw 8 7 0),
           (0xB8882473, .pbarv 8 9 7 3)]
      ++ [(0xB8C81C03, Instr.pbarw 8 7 3), (0xB9082400, .pbarinit 8 9), (0xBC000C0C, .fence 3 3), (0xBC000408, .fence 1 2),
          (0xBC482800, .bindR 8 10), (0xBC882800, .unbind 8 10), (0xBCC80003, .acq 8 3), (0xBD080003, .rel 8 3)],
      decodeWord e.1 = some e.2 := by decide +kernel

theorem test_decode_fabric_launch :
    ∀ e ∈ [(0xC00886A0, Instr.push 2 8 3 20 false), (0xC040A462, .put 10 12 1 false), (0xC080A462, .get 10 12 1 false),
           (0xC0C0E200, .cstep 14 0 false), (0xC1008248, .cstat 8 9), (0xD0082470, .launch 8 9 7), (0xD0450000, .lease 5 0),
           (0xD0860000, .setpl 6)], decodeWord e.1 = some e.2 := by decide +kernel

theorem test_decode_system :
    ∀ e ∈ [(0xE0040005, Instr.csrr 16 0x05), (0xE0100914, .csrw 0 9 0x14), (0xE020C90B, .csrset 3 9 0x0B),
           (0xE031090B, .csrclr 4 9 0x0B), (0xE4000900, .tret 9), (0xE4128B00, .frec 10 11), (0xE4230D00, .replay 12 13)]
      ++ [(0xE4300500, Instr.lkill 5), (0xE4400609, .ctxkill 6 9), (0xE8014400, .tlbinv 5 4 0), (0xE8100601, .pglock 6 0 true),
          (0xEC00C400, .halt 3 4 false), (0xEC108700, .stepW 2 7 false), (0xEC20085A, .watch 8 1 3 1)],
      decodeWord e.1 = some e.2 := by decide +kernel

/-- Reserved words: major 0x00, a reserved major, a reserved fn code, a set bit that must be zero (R43, R46, R57). -/
theorem test_decode_reserved :
    ((decodeWord 0x00000000).isNone && (decodeWord 0x0C000000).isNone && (decodeWord 0xFC000000).isNone
      && (decodeWord 0x10304260).isNone && (decodeWord 0xE0400914).isNone && (decodeWord 0xBC000800).isNone) = true := by
  decide +kernel

/-- The first word of a table row, laid out as memory holds it, is what the decoder reads (R43). -/
theorem test_decode_table_word : decodeTableWord 32 0x10304200 = some (.sadd 3 1 2 false false) := by decide +kernel

/-! ## Witnesses: encoding, steps, issue -/

theorem test_witness_DecodeEncode :
    Instr.wellFormed (.sadd 3 1 2 false false) = true ∧ encode (.sadd 3 1 2 false false) = [0x10304200]
    ∧ decodeWord 0x10304200 = some (.sadd 3 1 2 false false) := by decide +kernel

theorem test_witness_DecodeExamples :
    ∀ n ∈ [0, 63], n ∈ [0x00, 0x02, 0x03, 0x07, 0x0E, 0x0F, 0x21, 0x31, 0x32, 0x33, 0x35, 0x36, 0x37, 0x3C, 0x3D, 0x3E, 0x3F]
      ∧ (BitVec.ofNat 32 (n * 2 ^ 26)).toNat / 2 ^ 26 = n := by decide

/-- The state in which a placed word is fetched. -/
def before (s : State) (w : Nat) : State := { s.withFetchWord 32 w with agenda := [] }
def fetching (s : State) (w : Nat) : State := (before s w).choose (s.withFetchWord 32 w).warp.uid 0
def issuer (s : State) (w : Nat) : Warp := named (before s w) (s.withFetchWord 32 w).warp.uid
def fetched (s : State) (w : Nat) : State := fetchOf (fetching s w) 0x10000

theorem test_witness_StepRunsDecoded :
    Issues (base.withFetchWord 32 0x10304200) (before base 0x10304200) (fetching base 0x10304200) (issuer base 0x10304200) 0
    ∧ Fetches (fetching base 0x10304200) (fetched base 0x10304200) 0x10000
    ∧ decodeBytes ((fetched base 0x10304200).mem.readBytes 0x10000 4) = some (.sadd 3 1 2 false false, []) :=
  ⟨issues_of (rest := []) (by decide +kernel) (by decide +kernel) (by decide +kernel), fetches_of (by decide +kernel), by decide +kernel⟩

/-- With its performance level granted and no matrix work, nothing is due after one cycle, and the fragment issues. -/
def plain : State :=
  { setMem base 0x10000 (natToBytes 4 0x10304200) with
    gangs := base.gangs.map fun (g : Gang) => { g with acc := 0 }
    sites := base.sites.set 0 { base.sites[0] with clusters := base.sites[0].clusters.set 0 { base.sites[0].clusters[0] with granted := 7 } } }

theorem test_witness_default_order :
    plain.inReset = false ∧ plain.agenda = [] ∧ (plain.tick 1).due.isNone = true
    ∧ (plain.tick 1).tries = [(plain.warp.uid, 0)] ∧ ((plain.tick 1).findWarp plain.warp.uid).isSome = true
    ∧ (after (exec (.sadd 3 1 2 false false) (plain.tick 1))).map (fun t => t.warp.frag.held) = some false := by decide +kernel

theorem test_witness_MemoryStaysCanonical :
    (base.withFetchWord 32 0x10304200).mem.wf ∧ (after (step (base.withFetchWord 32 0x10304200))).isSome = true := by
  decide +kernel

theorem test_witness_IssueChecks_words :
    Issues ((handled base).withFetchWord 32 0) (before (handled base) 0) (fetching (handled base) 0) (issuer (handled base) 0) 0
    ∧ Fetches (fetching (handled base) 0) (fetched (handled base) 0) 0x10000
    ∧ decodeBytes ((fetched (handled base) 0).mem.readBytes 0x10000 4) = none
    ∧ (fetched (handled base) 0).Handles
    ∧ (fetched (handled base) 0).privileged = true :=
  ⟨issues_of (rest := []) (by decide +kernel) (by decide +kernel) (by decide +kernel), fetches_of (by decide +kernel),
   by decide +kernel, handles_of (by decide +kernel), by decide +kernel⟩

theorem test_witness_IssueChecks_scalar :
    hintsLegal base.warp.frag.hints {} = true ∧ base.warp.full (.s 3) = true ∧ (emptyS base 3).warp.full (.s 3) = false
    ∧ (emptyS base 1).warp.full (.s 1) = false ∧ (emptyS (handled base) 1).Handles
    ∧ (poisonS (handled base) 2).warp.sPoison[(2 : Fin 64)] = true ∧ (poisonS (handled base) 2).Handles :=
  ⟨by decide +kernel, by decide +kernel, by decide +kernel, by decide +kernel, handles_of (by decide +kernel),
   by decide +kernel, handles_of (by decide +kernel)⟩

theorem test_witness_IssueChecks_privilege :
    (guest (handled base) false).warp.ctx ≠ 0 ∧ (guest (handled base) false).Handles
    ∧ (guest (handled base) false).myContext.debug = false ∧ csrAssigned 0x40 = true
    ∧ hintsLegal (guest (handled base) false).warp.frag.hints {} = true :=
  ⟨by decide +kernel, handles_of (by decide +kernel), by decide +kernel, by decide +kernel, by decide +kernel⟩

theorem test_witness_IssueChecks_level :
    (level1 (handled base)).gridLevel < 2 ∧ (level1 (handled base)).Handles :=
  ⟨by decide +kernel, handles_of (by decide +kernel)⟩

/-- A handler and nothing to wait for; an MRDROW to wait for; no handler; trap mode; a context marked for debugging; a warp
that STEP lets issue. -/
theorem test_witness_TrapInstructions :
    (handled base).Ready {} ∧ (handled base).Handles
    ∧ (busy (handled base) (pendingOf (.command 3))).Ready {}
    ∧ (let s := busy (handled base) (pendingOf (.command 3)); s.quiet s.warp.settle = false)
    ∧ (∀ s ∈ [base, trapped, debugged base, onW base fun w => { w with stepping := true }],
        readyB s {} = true ∧ s.quiet s.warp.settle = true
        ∧ (s.warp.trapvec.toNat / 4 % 2 ^ 55 = 0 ∨ s.warp.trap.isSome = true))
    ∧ base.myContext.debug = false ∧ base.warp.stepping = false ∧ (debugged base).myContext.debug = true :=
  ⟨ready_of (by decide +kernel), handles_of (by decide +kernel), ready_of (by decide +kernel), by decide +kernel,
   by decide +kernel, by decide +kernel, by decide +kernel, by decide +kernel⟩

theorem test_witness_TretRestores :
    trapped.Ready { srcs := [(.s 0, false)] } ∧ trapped.warp.fused = true ∧ trapped.warp.trap.isSome = true
    ∧ trapped.warp.heldTraps = []
    ∧ (∀ m ∈ trapped.warp.trap.toList, m.pend = none ∧ m.record.park = [] ∧ m.record.logged = false
        ∧ (∃ f ∈ m.record.frags, f.entry = m.record.frag) ∧ (∀ f ∈ m.record.frags, f.mask &&& trapped.warp.live32 ≠ 0)
        ∧ m.record.rpc.toNat = 0x10004)
    ∧ (setS trapped 9 0x12000).Ready { srcs := [(.s 9, false)] }
    ∧ ((setS trapped 9 0x12000).warp.readS 9).toNat % 4 = 0
    ∧ (setS trapped 9 0x12000).warp.readS 9 = (0x12000 : Pc).setWidth 64 :=
  ⟨ready_of (by decide +kernel), by decide +kernel, by decide +kernel, by decide +kernel, by decide +kernel,
   ready_of (by decide +kernel), by decide +kernel, by decide +kernel⟩

theorem test_witness_TretRestores_checked :
    (split (handled base)).Ready { srcs := [(.s 0, false)] } ∧ (split (handled base)).Handles
    ∧ (split (handled base)).warp.fused = false ∧ (handled base).Ready { srcs := [(.s 0, false)] }
    ∧ (handled base).Handles ∧ (handled base).warp.fused = true :=
  ⟨ready_of (by decide +kernel), handles_of (by decide +kernel), by decide +kernel, ready_of (by decide +kernel),
   handles_of (by decide +kernel), by decide +kernel⟩

/-! ## Witnesses: scalar instructions and control flow -/

theorem test_witness_ScalarArithmetic :
    base.Prompt ∧ base.Ready { dests := [.s 3], srcs := [(.s 1, true), (.s 2, false)] }
    ∧ base.Ready { dests := [.s 0], srcs := [(.s 0, false), (.s 0, false)] } ∧ base.Ready { dests := [.s 3], srcs := [(.s 1, false)] }
    ∧ base.Ready { himm := true, dests := [.s 3], srcs := [(.s 1, false)] } ∧ (base.immediate 63).toNat < 64
    ∧ (handled base).Handles ∧ 64 ≤ ((handled base).immediate 64).toNat ∧ base.Ready { himm := true, dests := [.s 3] }
    ∧ (setHints base { himm := some 1 }).Ready { himm := true, dests := [.s 3] } :=
  ⟨prompt_of (by decide +kernel), ready_of (by decide +kernel), ready_of (by decide +kernel), ready_of (by decide +kernel),
   ready_of (by decide +kernel), by decide +kernel, handles_of (by decide +kernel), by decide +kernel,
   ready_of (by decide +kernel), ready_of (by decide +kernel)⟩

theorem test_witness_ScalarArithmetic_hints :
    (setHints (handled base) { dup := true }).Handles ∧ (setHints (handled base) { himm := some 0 }).warp.frag.hints.himm ≠ none
    ∧ (setHints (handled base) { hblk := some 0 }).warp.frag.hints.hblk ≠ none
    ∧ (setHints (handled base) { hmod := some 0 }).warp.frag.hints.hmod ≠ none :=
  ⟨handles_of (by decide +kernel), by decide +kernel, by decide +kernel, by decide +kernel⟩

/-- The first word past the codes of major 0x04, fetched; and a word for each other way to be no instruction. -/
theorem test_witness_Illegal :
    Issues ((handled base).withFetchWord 32 0x10000068) (before (handled base) 0x10000068)
      (fetching (handled base) 0x10000068) (issuer (handled base) 0x10000068) 0
    ∧ Fetches (fetching (handled base) 0x10000068) (fetched (handled base) 0x10000068) 0x10000
    ∧ (fetched (handled base) 0x10000068).mem.readBytes 0x10000 4 = bytesOfWord 0x10000068
    ∧ (fetched (handled base) 0x10000068).Handles :=
  ⟨issues_of (rest := []) (by decide +kernel) (by decide +kernel) (by decide +kernel), fetches_of (by decide +kernel),
   by decide +kernel, handles_of (by decide +kernel)⟩

theorem test_witness_Illegal_words :
    [0x10000068, 0x1000015C, 0x1000005D].map (fun w => (bits w 26 6, bits w 2 6)) = [(4, 26), (4, 23), (4, 23)]
    ∧ [0x18005800, 0x18001801, 0x18102000, 0x18002800].map (fun w => (bits w 26 6, bits w 11 3)) = [(6, 3), (6, 3), (6, 4), (6, 5)]
    ∧ [0x23800000, 0x23020000].map (fun w => (bits w 26 6, bits w 23 3, bits w 17 6)) = [(8, 7, 0), (8, 6, 1)]
    ∧ [0x3400002C, 0x3480000C].map (fun w => (bits w 26 6, bits w 2 6, bits w 20 6)) = [(13, 11, 0), (13, 3, 8)] := by
  decide +kernel

/-- The frame of 512 bytes a lane takes the whole stack, the next one leaves it. -/
theorem test_witness_StackFrames :
    let s := setHints (handled base) { himm := some 0 }
    let e := setS s 62 0x20000
    s.Prompt ∧ s.Ready { himm := true, dests := [.s 62, .s 3], srcs := [(.s 62, false)] }
    ∧ (s.immediate 0x200).toInt = 512 ∧ (s.warp.stklim.toNat : Int) = (s.warp.readS 62).toNat - 32 * 512
    ∧ (s.immediate 0x210).toInt = 528 ∧ ((s.warp.readS 62).toNat : Int) - 32 * 528 < s.warp.stklim.toNat ∧ s.Handles
    ∧ e.Ready { himm := true, dests := [.s 62], srcs := [(.s 62, false)] }
    ∧ (e.warp.readS 62).toNat + 32 * 512 = e.warp.stktop.toNat ∧ e.Handles
    ∧ (base.immediate 0).toInt = 0 ∧ (base.immediate 8).toInt % 16 = 8 ∧ (base.immediate (-16)).toInt = -16 :=
  ⟨prompt_of (by decide +kernel), ready_of (by decide +kernel), by decide +kernel, by decide +kernel, by decide +kernel,
   by decide +kernel, handles_of (by decide +kernel), ready_of (by decide +kernel), by decide +kernel,
   handles_of (by decide +kernel), by decide +kernel, by decide +kernel, by decide +kernel⟩

theorem test_witness_BranchesAndCalls :
    base.Prompt ∧ base.Ready { srcs := [(.s 5, false)] } ∧ base.Ready {} ∧ base.Ready { dests := [.s 63] }
    ∧ (setS base 5 0x12000).warp.readS 5 = (0x12000 : Pc).setWidth 64
    ∧ (setS base 5 0x12000).Ready { dests := [.s 63], srcs := [(.s 5, true)] } ∧ (setS base 5 0x12000).Ready { srcs := [(.s 5, true)] }
    ∧ (setS base 63 0x12000).warp.readS 63 = (0x12000 : Pc).setWidth 64 ∧ (setS base 63 0x12000).Ready { srcs := [(.s 63, false)] } :=
  ⟨prompt_of (by decide +kernel), ready_of (by decide +kernel), ready_of (by decide +kernel), ready_of (by decide +kernel),
   by decide +kernel, ready_of (by decide +kernel), ready_of (by decide +kernel), by decide +kernel, ready_of (by decide +kernel)⟩

theorem test_witness_BranchesAndCalls_waits :
    (emptyS base 5).warp.full (.s 5) = false ∧ hintsLegal (emptyS base 5).warp.frag.hints {} = true :=
  ⟨by decide +kernel, by decide +kernel⟩

/-- The lowest address that a jump refuses for its alignment, and for its range. -/
theorem test_witness_BranchesAndCalls_checked :
    ∀ v ∈ [1, 2 ^ 57],
      let s := setS (setS (handled base) 5 (BitVec.ofNat 64 v)) 63 (BitVec.ofNat 64 v)
      s.warp.trapvec = 0x11000 ∧ s.warp.trap.isNone ∧ (s.warp.readS 63).toNat = v
      ∧ readyB s { srcs := [(.s 5, false)] } = true ∧ readyB s { dests := [.s 63], srcs := [(.s 5, false)] } = true
      ∧ readyB s { srcs := [(.s 63, false)] } = true := by decide +kernel

/-- Nothing outstanding; an instruction of each kind that EXIT waits for; another fragment; a parked record and a free
entry. -/
theorem test_witness_ExitYieldHints :
    base.Ready {} ∧ base.warp.pend = [] ∧ base.warp.trap = none ∧ base.Ready { srcs := [(.s 63, false)] } ∧ base.warp.readS 63 = 0
    ∧ base.warp.frags = [] ∧ base.warp.park = []
    ∧ (∀ k ∈ [PendKind.result, .lanes, .command 3],
        let s := busy base (pendingOf k)
        readyB s {} = true ∧ s.warp.trap = none ∧ s.warp.pend.map (·.kind) = [k])
    ∧ (split base).Ready {}
    ∧ (∀ f ∈ (split base).warp.frags,
        f.mask &&& (split base).warp.live32 &&& ~~~(split base).warp.frag.mask ≠ 0 ∧ f.state = .ready)
    ∧ (let s := onW (split base) fun w => { w with
          frag := { w.frag with mask := 0x00FF }, park := [{ pc := 0x13000, mask := 0xFF00 }] }
       readyB s {} = true ∧ s.warp.park.map (fun p => p.mask &&& s.warp.live32 &&& ~~~s.warp.frag.mask) = [0xFF00]
       ∧ s.warp.frags.all (fun f => f.entry != 0) = true) :=
  ⟨ready_of (by decide +kernel), by decide +kernel, by decide +kernel, ready_of (by decide +kernel), by decide +kernel,
   by decide +kernel, by decide +kernel, by decide +kernel, ready_of (by decide +kernel), by decide +kernel, by decide +kernel⟩

/-- In trap mode, with an instruction of the time before it outstanding or not. -/
theorem test_witness_ExitYieldHints_trapped :
    ∀ s ∈ [trapped, busy trapped (pendingOf .lanes)],
      readyB s {} = true ∧ s.warp.trap.isSome = true ∧ s.warp.heldTraps = [] ∧ s.warp.heldFaults = [] ∧ s.warp.out = []
      ∧ s.partials = [] ∧ s.warp.pend.all (fun p => p.gen != s.warp.traps) = true := by decide +kernel

/-- Sixteen fragments of two lanes each: the table is full. -/
def crowded : State :=
  onW base fun w => { w with
    frag := { w.frag with mask := 3 }
    frags := (List.range 15).map fun i =>
      { Fragment.start 0x12000 with entry := i + 1, mask := (3 : Word32) <<< (2 * (i + 1)) } }

theorem test_witness_DivergenceAndFusion :
    base.Ready {} ∧ base.warp.freeEntry = some 1 ∧ base.mask 0 = 0xFFFFFFFF
    ∧ (onW base fun w => { w with m := w.m.set 1 0x55555555 }).mask 1 = 0x55555555
    ∧ crowded.Ready {} ∧ crowded.warp.freeEntry = none ∧ (onW crowded fun w => { w with m := w.m.set 1 1 }).mask 1 = 1
    ∧ base.warp.park = [] ∧ base.warp.holds base.warp.frag = true ∧ base.warp.frags = []
    ∧ (∀ f ∈ (split base).warp.frags, (split base).warp.holds f = true ∧ f.state = .ready)
    ∧ (∀ f ∈ (onW (split base) fun w => { w with frags := w.frags.map fun f => { f with state := .waiting 1 } }).warp.frags,
        (split base).warp.holds f = true ∧ f.state = .waiting 1 ∧ f.entry ≠ (split base).warp.frag.entry) :=
  ⟨ready_of (by decide +kernel), by decide +kernel, by decide +kernel, by decide +kernel, ready_of (by decide +kernel),
   by decide +kernel, by decide +kernel, by decide +kernel, by decide +kernel, by decide +kernel, by decide +kernel,
   by decide +kernel⟩

theorem test_witness_ComparesAndMasks :
    base.Ready {} ∧ base.Ready { srcs := [(.s 5, true)] } ∧ base.Prompt ∧ base.Ready { dests := [.s 5] } ∧ (handled base).Handles
    ∧ base.Ready { srcs := [(.v 2, true), (.v 3, false)] }
    ∧ (base.warp.vPoison[(2 : Fin 64)] ||| base.warp.vPoison[(3 : Fin 64)]) &&& base.warp.active = 0
    ∧ (poisonV (handled base) 3 0x80000000).Ready { srcs := [(.v 2, true), (.v 3, false)] }
    ∧ (poisonV (handled base) 3 0x80000000).Handles
    ∧ (poisonV (handled base) 3 0x80000000).warp.vPoison[(3 : Fin 64)] &&& (handled base).warp.active ≠ 0 :=
  ⟨ready_of (by decide +kernel), ready_of (by decide +kernel), prompt_of (by decide +kernel), ready_of (by decide +kernel),
   handles_of (by decide +kernel), ready_of (by decide +kernel), by decide +kernel, ready_of (by decide +kernel),
   handles_of (by decide +kernel), by decide +kernel⟩

/-! ## The spec's worked examples, one instruction each -/

/-- R70: a quotient truncates, the most negative number by −1 wraps, division by zero gives all ones. -/
theorem test_sdiv :
    sAfter (exec (.sdiv 7 8 9 false false) (setS (setS base 8 (-7)) 9 2)) 7 = some (-3)
    ∧ sAfter (exec (.sdiv 7 8 9 false false) (setS (setS base 8 (-2 ^ 63)) 9 (-1))) 7 = some (-2 ^ 63)
    ∧ sAfter (exec (.sdiv 7 8 9 false false) (setS base 8 5)) 7 = some (-1) := by decide +kernel

/-- R73: the constant 0x0123_4567_89AB_CDEF takes SLI and SLIH, an HIMM before each. -/
theorem test_sli_slih :
    sAfter (exec (.sli 5 0x1EF) (setHints base { himm := some 0x226AF3 })) 5 = some 0xFFFFFFFF89ABCDEF
    ∧ sAfter (exec (.slih 5 5 0x167 false) (setHints (setS base 5 0x89ABCDEF) { himm := some 0x0048D1 })) 5
      = some 0x0123456789ABCDEF := by decide +kernel

/-- R75: ENTER of 64 with sp at 0x0000_4000_0010_0000. -/
theorem test_enter :
    let s := onW (setS base 62 0x0000400000100000) fun w => { w with stklim := 0x00004000000F0000, stktop := 0x0000400000100000 }
    sAfter (exec (.enter 60 64) s) 62 = some 0x00004000000FF800
    ∧ sAfter (exec (.enter 60 64) s) 60 = some 0x0000400000100000 := by decide +kernel

/-- R79, R80: a call links the next unit, a jump to an odd address raises ALIGN. -/
theorem test_call_jr :
    sAfter (exec (.call 4) base) 63 = some 0x10004
    ∧ causeAfter (exec (.jr 5 false) (handled (setS base 5 0x12002))) = some .align := by decide +kernel

/-- R86: BRVT at address 0x10000 with half the lanes taken, to 0x10010; R88: FUSE of the last fragment releases it. -/
theorem test_brvt_fuse :
    let s := onW base fun w => { w with m := w.m.set 1 0x55555555 }
    (after (exec (.brvt 1 4) s)).map (fun t => (t.warp.frag.mask, t.warp.frag.pc.toNat)) = some (0xAAAAAAAA, 0x10004)
    ∧ (after (exec (.brvt 1 4) s)).map (fun t => t.warp.frags.map fun f => (f.mask, f.pc.toNat, f.entry))
      = some [(0x55555555, 0x10010, 1)]
    ∧ (after (exec (.fuse 1) base)).map (fun t => t.warp.frag.pc.toNat) = some 0x10004 := by decide +kernel

/-- R90: MPOPC of 16 lanes. -/
theorem test_mpopc :
    sAfter (exec (.mpopc 11 1) (onW base fun w => { w with m := w.m.set 1 0x55555555 })) 11 = some 16 := by decide +kernel

/-- R98: the worked lane of VDOT4 and VDOT4Z. -/
theorem test_vdot4 :
    let s := setV (setV (setV base 20 (all 10)) 21 (all 0x02FF0301)) 22 (all 0x04FE0505)
    vAfter (exec (.vdot4 20 21 22 false false) s) 20 3 = some 40
    ∧ vAfter (exec (.vdot4z 20 21 22 false false) s) 20 3 = some 64808 := by decide +kernel

/-- R52: `vadd v8:2x4, v16:2x4, v24:2x4` adds eight registers; R97: a saturating sum stops at the end. -/
theorem test_vadd_block :
    let s := setHints (setV (setV base 27 (all 5)) 19 (all 7)) { hblk := some 0x0B0000 }
    vAfter (exec (.vadd 8 16 24 false false) s) 11 0 = some 12
    ∧ vAfter (exec (.vsadd 2 3 4 false false) (setV (setV base 3 (all 0x7FFFFFFF)) 4 (all 1))) 2 9 = some 0x7FFFFFFF := by
  decide +kernel

/-- R105: a source lane outside the fragment gives 0 and sets DSRCMASK; R107: the sum of the even lanes' values. -/
theorem test_shfl_wradd :
    let s := setMask (setV (setV base 11 fun l => BitVec.ofNat 32 (10 * l.val)) 12 (all 1)) 0x55555555
    vAfter (exec (.shfl 10 11 12 false false) s) 10 4 = some 0
    ∧ (after (exec (.shfl 10 11 12 false false) s)).map (fun t => t.warp.dsrc) = some 0x55555555
    ∧ sAfter (exec (.wradd 8 11 false) s) 8 = some 2400
    ∧ sAfter (exec (.ballot 9 11 false) s) 9 = some 0x55555554 := by decide +kernel

/-- R102: only the active lanes' bits of a compare's mask change. -/
theorem test_vclt :
    let s := setMask (onW (setV base 5 fun l => if l = 0 then -1 else 0) fun w => { w with m := w.m.set 2 0xAAAAAAAA }) 0x55555555
    (after (exec (.vclt 2 5 6 false false) s)).map (fun t => t.warp.m[(2 : Fin 8)]) = some 0xAAAAAAAB := by decide +kernel

/-- R122: FP32 to FP8, with and without saturation. -/
theorem test_cvt_narrow :
    let s := setV (setV (setV (setV base 8 (all 0x3F8CCCCD)) 9 (all 0xC3FA0000)) 10 (all 0x3A800000)) 11 (all 0x43960000)
    vAfter (exec (.cvt 20 8 0 4 0 true false) s) 20 0 = some 0x7900FE39
    ∧ vAfter (exec (.cvt 20 8 0 4 0 false false) s) 20 0 = some 0x79007F39 := by decide +kernel

/-- R123: eight 4-bit offset codes to FP16. -/
theorem test_cvt_widen :
    let s := setHints (setV base 4 (all 0x0F279A31)) { himm := some 7 }
    let t := exec (.cvt 2 4 16 2 0 false false) s
    vAfter t 2 0 = some 0xC400C600 ∧ vAfter t 3 0 = some 0x40004200 ∧ vAfter t 4 0 = some 0xC5000000
    ∧ vAfter t 5 0 = some 0xC7004800 := by decide +kernel

/-- R138: one rounding of the exact sum, two of its parts; R129: an exact zero is −0 under rounding down. -/
theorem test_ffma :
    let s := setMask (setV (setV (setV base 5 (all 0x3F800800)) 6 (all 0x3F800800)) 7 (all 0xBF801000)) 1
    vAfter (exec (.ffma 4 5 6 7 false) s) 4 0 = some 0x33800000
    ∧ vAfter (exec (.fmul 8 5 6 false false) s) 8 0 = some 0x3F801000
    ∧ (after (exec (.fmul 8 5 6 false false) s)).map (fun t => t.warp.fpflags) = some 16
    ∧ vAfter (exec (.fadd 9 8 7 false false) (setV s 8 (all 0x3F801000))) 9 0 = some 0
    ∧ vAfter (exec (.fadd 9 8 7 false false) (setHints (setV s 8 (all 0x3F801000)) { hmod := some 0xE000 })) 9 0
      = some 0x80000000 := by decide +kernel

/-- R139: the exponential step of a softmax row, the masked score among it. -/
theorem test_exp2x :
    let s := setMask (setV (setV (setV base 21 fun l => [0x40A00000, 0x40800000, 0x40000000, 0xFF800000].getD l.val 0) 22
      (all 0x40A00000)) 23 (all 0x3FC00000)) 0xF
    (after (exec (.exp2x 20 21 22 23 false) s)).map (fun t => (List.range 4).map fun l => (t.warp.v[(20 : Fin 64)][Fin.ofNat 32 l]).toNat)
      = some [0x3F800000, 0x3EB504F3, 0x3D3504F3, 0] := by decide +kernel

/-- R136: RCP of +0 saturated. -/
theorem test_rcp :
    let s := setMask (setHints base { hmod := some 0x1000 }) 1
    vAfter (exec (.rcp 3 4 false) s) 3 0 = some 0x7F7FFFFF := by decide +kernel

/-- R227: lanes 0–7 add lane + 1 to one word that holds 1,000. -/
theorem test_aadd :
    let s := setMem (setMask (setV base 8 fun l => BitVec.ofNat 32 (l.val + 1)) 0xFF) (scratchBase base.warp.gang) (natToBytes 4 1000)
    let t := exec (.aadd 4 6 8 0 false true) s
    (after t).map (fun t => (List.range 8).map fun l => (t.warp.v[(4 : Fin 64)][Fin.ofNat 32 l]).toNat)
      = some [1000, 1001, 1003, 1006, 1010, 1015, 1021, 1028]
    ∧ (after t).map (fun t => t.mem.nat (scratchBase base.warp.gang) 4) = some 1036 := by decide +kernel

/-- R225: a compare and swap that matches; R226: FP32 sums round to even. -/
theorem test_acas_radd :
    atomVal .cas 2 5 5 9 = 9 ∧ atomVal .cas 2 4 5 9 = 4
    ∧ atomVal .add 4 0x4B800000 0x3F800000 0 = 0x4B800000 ∧ atomVal .add 4 0x3F800000 0x3F800000 0 = 0x40000000
    ∧ atomVal .add 4 0x4B800000 0x40000000 0 = 0x4B800001 := by decide +kernel

/-- R146, R147: ST and LD of a byte and a doubleword through the page table. -/
theorem test_ld_st :
    let s := setMask (setV (setV (setS base 8 0x30000) 2 (all 0)) 3 (all 0x1234ABCD)) 1
    (after (exec (.st 3 2 8 0 0 false) s)).map (fun t => t.mem.nat 0x30000 4) = some 0xCD
    ∧ vAfter (exec (.ld 4 2 8 3 0 false) (setMem s 0x30000 [1, 2, 3, 4, 5, 6, 7, 8])) 5 0 = some 0x08070605 := by
  decide +kernel

/-- R329, R331: TRAP with code 5 in the fragment of entry 1 (doubleword 0 of its record is 0x0001_140E). -/
theorem test_trap_record :
    let s := handled (onW base fun w => { w with frag := { w.frag with entry := 1 } })
    (after (exec (.trap 5) s)).bind (fun t => t.warp.trap.map fun m => (m.record.dword 0).toNat) = some 0x0001140E := by
  decide +kernel

/-- R257, R258: BARW.fadd of 1, 2^24 and 1 in the order of the warps (2^24 with NX), and of 1, 1 and 2^24. -/
theorem test_barw_fadd :
    sumChain 0x3F800000 [0x4B800000, 0x3F800000] = (0x4B800000, 16)
    ∧ (sumChain 0x3F800000 [0x3F800000, 0x4B800000]).1 = 0x4B800001 := by decide +kernel

/-- R250: the phase compare of WAITCMP goes round. -/
theorem test_condition :
    condHolds 4 0 0xFFFF = true ∧ condHolds 4 0xFFFF 0 = false ∧ condHolds 2 0xFFFFFFFF 0 = false ∧ condHolds 7 0xFFFFFFFF 0 = true := by
  decide +kernel

/-- A word placed where the step fetches is the instruction that the step runs. -/
theorem test_step_runs_word :
    (after (step (base.withFetchWord 32 0x10304200))).map (fun t => t.warp.frag.pc.toNat) = some 0x10004 := by
  decide +kernel

/-! ## Witnesses: vector instructions and floating point -/

/-- The blocks of three elements under test stand at registers 8, 16 and 24. -/
def block : State := setHints base { hblk := some 0x20000 }

theorem test_witness_vectors_of_two_sources :
    base.Prompt ∧ (∀ s ∈ [base, block],
      let v : VOp := { d := 8, vs := [{ base := 16 }, { base := 24, x := true }], readsD := true }
      let u : VOp := { d := 8, vs := [{ base := 16 }], ss := [(5, true)], readsD := true }
      let w : VOp := { d := 8, vs := [{ base := 16 }, { base := 24 }, { base := 32 }] }
      readyB s (v.need { hblk := true, level2 := true } s.warp.frag.hints) = true ∧ s.Clean v
      ∧ readyB s (u.need { hblk := true, level2 := true } s.warp.frag.hints) = true ∧ s.Clean u
      ∧ readyB s (w.need { hblk := true } s.warp.frag.hints) = true ∧ s.Clean w) :=
  ⟨prompt_of (by decide +kernel), by unfold State.Clean; decide +kernel⟩

theorem test_witness_VectorAccumulate_pairs :
    let v : VOp := { dw := 2, d := 8, vs := [{ base := 16, width := 2 }, { base := 24 }] }
    let u : VOp := { dw := 2, d := 8, vs := [{ base := 16 }], ss := [(5, true)] }
    base.Prompt ∧ (8 : Fin 64).val % 2 = 0 ∧ (16 : Fin 64).val % 2 = 0 ∧ base.Ready (v.need {} base.warp.frag.hints)
    ∧ base.Clean v ∧ base.Ready (u.need {} base.warp.frag.hints) ∧ base.Clean u :=
  ⟨prompt_of (by decide +kernel), by decide, by decide, ready_of (by decide +kernel), by unfold State.Clean; decide +kernel,
   ready_of (by decide +kernel), by unfold State.Clean; decide +kernel⟩

/-- Lane 31 reads the source that is not poisoned there. -/
theorem test_witness_VectorUnary :
    let v : VOp := { d := 8, vs := [{ base := 16 }] }
    let u : VOp := { d := 8, vs := [{ base := 16 }, { base := 24 }] }
    let s := poisonV (onW base fun w => { w with m := w.m.set 1 0x7FFFFFFF }) 16 0x80000000
    base.Prompt ∧ base.Ready (v.need { hblk := true } base.warp.frag.hints) ∧ base.Clean v
    ∧ base.Ready (v.need { himm := true, hblk := true } base.warp.frag.hints)
    ∧ ((base.immediate 31).setWidth 32 : Word32).toNat < 32 ∧ 32 ≤ ((base.immediate 32).setWidth 32 : Word32).toNat
    ∧ (handled base).Handles
    ∧ base.Ready (({ d := 8, vs := [] } : VOp).need { himm := true, hblk := true } base.warp.frag.hints)
    ∧ base.Ready (({ d := 8, vs := [], ss := [(5, false)] } : VOp).need { hblk := true } base.warp.frag.hints)
    ∧ s.Ready (u.need { hblk := true } s.warp.frag.hints)
    ∧ (∀ o ∈ s.elems u, (s.mask 1 &&& s.warp.vPoison[regAt 16 o] ||| ~~~(s.mask 1) &&& s.warp.vPoison[regAt 24 o])
        &&& s.warp.active = 0) :=
  ⟨prompt_of (by decide +kernel), ready_of (by decide +kernel), by unfold State.Clean; decide +kernel,
   ready_of (by decide +kernel), by decide +kernel, by decide +kernel, handles_of (by decide +kernel),
   ready_of (by decide +kernel), ready_of (by decide +kernel), ready_of (by decide +kernel), by decide +kernel⟩

theorem test_witness_VectorArithmetic_poison :
    let s := poisonV base 16 0x80000000
    let v : VOp := { d := 8, vs := [{ base := 16 }, { base := 24 }] }
    s.Prompt ∧ s.Ready (v.need { hblk := true } s.warp.frag.hints) ∧ s.warp.frag.hints.hblk = none
    ∧ (s.warp.vPoison[(16 : Fin 64)] ||| s.warp.vPoison[(24 : Fin 64)]) &&& s.warp.active ≠ 0 ∧ s.warp.frag.state = .ready
    ∧ s.mailbox.evsize = 0
    ∧ (∃ m : Mailbox, m = { s.mailbox with evsize := 4 } ∧ m.evsize ≠ 0
        ∧ m.evtail - m.evhead ≠ BitVec.ofNat 64 (2 ^ m.evsize.toNat)) :=
  ⟨prompt_of (by decide +kernel), ready_of (by decide +kernel), by decide +kernel, by decide +kernel, by decide +kernel,
   by decide +kernel, _, rfl, by decide +kernel, by decide +kernel⟩

theorem test_witness_FloatArithmetic :
    ∀ q ∈ [(1, [], [(5, false)]), (2, [(24, false)], []), (2, [(24, false), (32, false)], [])],
      let h : Hints := { hblk := some 0x10000, hmod := some 0xF000 }
      let s := setHints base h
      let v : VOp := { step := q.1, dw := q.1, d := 8, vs := ((16, false) :: q.2.1).map fun r => ({ base := r.1, width := q.1, x := r.2 } : VSrc), ss := q.2.2 }
      readyB s (v.need { hblk := true, hmod := some 0xF000 } h) = true ∧ s.Clean v ∧ s.delays.head? ≠ some true := by
  unfold State.Clean; decide +kernel

/-- Registers to registers in a block, and groups of registers of other numbers. -/
theorem test_witness_Conversions :
    ∀ q ∈ ([(0x10000, 0, 1), (0x10000, 1, 0), (0, 0, 2), (0, 20, 3), (0, 2, 20)] : List (Nat × Fin 32 × Fin 32)),
      let s := if q.1 = 0 then base else setHints base { hblk := some (BitVec.ofNat 22 q.1) }
      let h := s.warp.frag.hints
      let offs := h.elems 1
      let ds := blockRegs 8 offs (cvtRegs q.2.1 q.2.2 q.2.2)
      let as := blockRegs 16 offs (cvtRegs q.2.1 q.2.2 q.2.1)
      readyB s { himm := true, hblk := true, dests := ds, srcs := as.map fun r => (r, false) } = true
      ∧ cvtLegal 8 16 q.2.1 q.2.2 = true ∧ cvtHints h q.2.1 q.2.2 = true ∧ h.blockFits 1 8 = true
      ∧ h.blockFits 1 16 = true ∧ s.warp.poisonIn as &&& s.warp.active = 0 ∧ s.delays.head? ≠ some true := by
  decide +kernel

/-- A code of a format that CVT does not have. -/
theorem test_witness_Conversions_checked :
    let s := handled base
    let offs := s.warp.frag.hints.elems 1
    hintsLegal s.warp.frag.hints { himm := true, hblk := true, dests := blockRegs 8 offs (cvtRegs 25 0 0)
                                   srcs := (blockRegs 16 offs (cvtRegs 25 0 25)).map fun r => (r, false) } = true
    ∧ cvtLegal 8 16 25 0 = false ∧ s.Handles :=
  ⟨by decide +kernel, by decide +kernel, handles_of (by decide +kernel)⟩

/-- One and a half, 448 in FP8, and a quotient between 2^25 and 2^25 + 1. -/
theorem test_witness_NumberFormats :
    0x3FC00000 < 2 ^ formatWidth 0 ∧ (Exact.fin false (2 ^ 25) 0 true).For (.num false (2 ^ 25 + 1 / 2))
    ∧ (∃ b, binaryFormat 0 = some b ∧ 2 ^ (b.fracBits + 2) ≤ 2 ^ 25) ∧ 0x7E < 2 ^ formatWidth 4
    ∧ (∃ s q, (valueOf 4 0x7E 0).1 = .num s q)
    ∧ (Exact.fin false 3 (-1) false).For (.num false (3 / 2)) ∧ (Exact.fin true 1 2 false).For (.num true (-4)) := by
  refine ⟨by decide, ⟨_, rfl, ?_⟩, ⟨_, rfl, by decide⟩, by decide, ⟨false, 448, ?_⟩, ⟨_, rfl, ?_⟩, ⟨_, rfl, ?_⟩⟩
  · norm_num [abs_of_pos]
  · have h : Nat.testBit 126 7 = false := by decide
    simp [valueOf, binaryFormat, BinaryFormat.value, h]; norm_num
  · norm_num
  · norm_num

theorem test_witness_LaneExchange :
    let v : VOp := { d := 8, vs := [{ base := 16 }, { base := 24, x := true }] }
    let u : VOp := { d := 8, vs := [{ base := 16 }], ss := [(5, true)] }
    let p := poisonV (handled base) 16 0x80000000
    base.Prompt ∧ base.Ready ((v.need {} base.warp.frag.hints).shuffles base.warp 16)
    ∧ (base.warp.vPoison[(16 : Fin 64)] ||| base.warp.vPoison[(24 : Fin 64)]) &&& base.warp.active = 0
    ∧ base.Ready ((u.need {} base.warp.frag.hints).shuffles base.warp 16) ∧ base.Ready { dests := [.s 3], srcs := [(.v 16, true)] }
    ∧ p.Ready { dests := [.s 3], srcs := [(.v 16, true)] } ∧ p.warp.vPoison[(16 : Fin 64)] &&& p.warp.active ≠ 0
    ∧ p.Handles
    ∧ base.Ready (({ dests := [.s 3], srcs := [(.v 16, true), (.s 5, false)] } : Need).shuffles base.warp 16)
    ∧ base.warp.active[(0 : Fin 32)] = true ∧ base.warp.vPoison[(16 : Fin 64)][(0 : Fin 32)] = false
    ∧ (setS p 5 31).warp.readS 5 = 31 ∧ p.warp.vPoison[(16 : Fin 64)][(31 : Fin 32)] = true
    ∧ (setMask base 1).warp.active[(31 : Fin 32)] = false
    ∧ base.Ready { dests := [.v 8], srcs := [(.s 4, true), (.s 5, false)] } :=
  ⟨prompt_of (by decide +kernel), ready_of (by decide +kernel), by decide +kernel, ready_of (by decide +kernel),
   ready_of (by decide +kernel), ready_of (by decide +kernel), by decide +kernel, handles_of (by decide +kernel),
   ready_of (by decide +kernel), by decide +kernel, by decide +kernel, by decide +kernel, by decide +kernel,
   by decide +kernel, ready_of (by decide +kernel)⟩

/-! ## Witnesses: memory -/

def checked (s : State) (j : Job) : State × List (Fin 32 × LaneCheck) := s.checkLanes s.warp.agent j true (lanesOf s.warp.active)

def letsB (s : State) (j : Job) (release : Bool) : Bool :=
  let r := checked s j
  !s.warp.logHolds (j.pages s.warp.active) && !s.acquiring && (!release || s.releaseReady)
  && (passed r.2).all (fun g => g.kind != 3)
  && (!j.kind.metered || (r.1.heldByTokens s.warp.site ((passed r.2).map Target.triple)).isEmpty)
  && (passed r.2).all (fun g => (s.pageLockOf g.loc).isNone) && s.partials.isEmpty
  && r.1.mem == s.mem && r.1.poison == s.poison

theorem lets_of {s : State} {j : Job} {release : Bool} (h : letsB s j release = true) :
    s.Lets j release (checked s j).1 (checked s j).2 := by
  simp only [letsB, Bool.and_eq_true, Bool.or_eq_true, Bool.not_eq_true', List.all_eq_true, bne_iff_ne,
    Option.isNone_iff_eq_none, List.isEmpty_iff, beq_iff_eq] at h
  obtain ⟨⟨⟨⟨⟨⟨⟨⟨h1, h0⟩, h2⟩, h3⟩, h4⟩, h5⟩, h6⟩, h7⟩, h8⟩ := h
  exact
    { log := h1
      acquire := h0
      release := fun e => h2.resolve_left (by simp [e])
      checks := rfl
      near := h3
      tokens := fun e => h4.resolve_left (by simp [e])
      pages := h5
      partials := by simp [h6]
      owned := ⟨h7, h8⟩ }

/-- What `Access.Runs` asks, with the checks that the lanes pass. -/
def runsB (u : Access) (s : State) : Bool :=
  s.delays.head? != some true && readyB s u.need && s.warp.poisonIn u.vs &&& s.warp.active == 0
  && letsB s (u.job s.warp s.warp.frag.hints) (u.rel || s.warp.frag.hints.releasesOrder)

abbrev Access.checks (u : Access) (s : State) : State × List (Fin 32 × LaneCheck) := checked s (u.job s.warp s.warp.frag.hints)

theorem runs_of {u : Access} {s : State} (h : runsB u s = true) : u.Runs s (Access.checks u s).1 (Access.checks u s).2 := by
  simp only [runsB, Bool.and_eq_true, beq_iff_eq, bne_iff_ne, ne_eq] at h
  obtain ⟨⟨⟨h1, h2⟩, h3⟩, h4⟩ := h
  exact ⟨h1, ready_of h2, h3, lets_of h4⟩

/-- Lanes 0 and 31 access the sixteen bytes at their number times 16 from a base. -/
def spread (s : State) (base : Word64) : State :=
  setMask (setS (setV s 16 fun l => BitVec.ofNat 32 (16 * l.val)) 5 base) 0x80000001

/-- One lane has its access outside the mapped gigabyte, in the last one below 2^32. -/
def unmapped : State := spread (handled base) 0x3FFFFE20

/-- The unit runs, and no lane of it fails or reads poison. -/
def clearB (u : Access) (s : State) : Bool :=
  runsB u s && (failures (Access.checks u s).2).isEmpty
  && (passed (Access.checks u s).2).all fun g => !s.poisoned g.loc g.n

/-- Whole and partial elements, in memory and in the scratchpad, up to its last byte. -/
theorem test_witness_Loads_and_Stores :
    (loadsOf 8 16 5 0 0 false ++ storesOf 8 16 5 0 0 false).all (fun u => clearB u (spread base 0x40000)) = true
    ∧ (loadsOf 8 16 5 5 0 false ++ storesOf 8 16 5 5 0 false).all (fun u => clearB u (spread base 0x40000)) = true
    ∧ (loadsOf 8 16 5 4 1 false ++ storesOf 8 16 5 4 1 false).all (fun u => clearB u (spread base 0x7FE00)) = true := by
  decide +kernel

theorem test_witness_private_accesses :
    let s := setS (handled base) 62 0x20000
    (∀ e ∈ stackLoads s 8 0x1F0 false ++ stackStores s 8 0x1F0 false,
      runsB e.1 s = true ∧ failures (Access.checks e.1 s).2 = [] ∧ InStack s e.2 0x1F0
      ∧ (∀ g ∈ passed (Access.checks e.1 s).2, s.poisoned g.loc g.n = false))
    ∧ s.mem.wf
    ∧ (let o := setS s 62 0x20010
       ∀ e ∈ stackLoads o 8 0 false ++ stackStores o 8 0 false, readyB o e.1.need = true ∧ (o.warp.readS 62).toNat % 128 ≠ 0)
    ∧ (let o := setS s 62 0x24000
       ∀ e ∈ stackLoads o 8 0 false ++ stackStores o 8 0 false,
         readyB o e.1.need = true ∧ (o.warp.readS 62).toNat % 128 = 0 ∧ ¬ InStack o e.2 0)
    ∧ s.warp.trapvec = 0x11000 := by
  unfold InStack Memory.wf; decide +kernel

theorem test_witness_Stores_lines :
    let s := setS (setV base 16 fun l => BitVec.ofNat 32 (128 * l.val)) 5 0x40000
    let z : Access := { i := .zero 16 5 0 false, need := lineNeed 16 5 false, job := lineJob .zero 16 5 0, vs := [.v 16] }
    let u : Access := { i := .invl 16 5 false, need := lineNeed 16 5 false, job := lineJob .touch 16 5 0, vs := [.v 16] }
    runsB z s = true ∧ failures (Access.checks z s).2 = [] ∧ runsB u s = true ∧ failures (Access.checks u s).2 = []
    ∧ s.warp.logHolds ((lineJob .touch 16 5 0 s.warp s.warp.frag.hints).pages s.warp.active) = false := by decide +kernel

theorem test_witness_Atomics :
    clearB (atomicAccess (.aadd 8 16 24 0 false true) .add (atomicRegs 8 16 24 0 true) true 8 16 24 0 false true)
      (spread base 0) = true
    ∧ clearB (atomicAccess (.acas 8 16 24 0 false true) .cas (casRegs 8 16 24 0 true) true 8 16 24 0 false true)
      (spread base 0) = true
    ∧ clearB (atomicAccess (.aincw 8 16 24 2 false false) .incw (countType 2 && atomicRegs 8 16 24 2 false) true 8 16 24 2
        false false) (setV (setMask (setV base 17 (all 0)) 0x80000001) 16 fun l => BitVec.ofNat 32 (0x40000 + 8 * l.val)) = true
    ∧ (let u := atomicAccess (.radd 16 24 4 false true) .add (reduceRegs 16 24 4 true) false 0 16 24 4 false true
       clearB u (spread base 0) = true
       ∧ (passed (Access.checks u (spread base 0)).2).all (fun g => decide (placeOf g.kind g.loc ≠ .cxl)) = true)
    ∧ (let s := setMask (setV (setV base 17 (all 0)) 16 (all 0x40000)) 0x80000000
       let u := atomicAccess (.rxor 16 24 3 false false) .xor (intType 3 && reduceRegs 16 24 3 false) false 0 16 24 3 false false
       clearB u s = true ∧ lanesOf s.warp.active = [31]) := by decide +kernel

/-- The last lane reaches an address above the mapped gigabyte; or above the scratchpad. -/
theorem test_witness_LaneFaults :
    let s := spread (handled base) 0x3FFFFE20
    let r := spread (handled base) 0x7FE20
    (loadsOf 8 16 5 0 0 false ++ storesOf 8 16 5 0 0 false).all (fun u => runsB u s
      && !(failures (Access.checks u s).2).isEmpty && (failures (Access.checks u s).2).all (fun f => f.2.1 == .pagefault)
      && (passed (Access.checks u s).2).all fun g => !s.poisoned g.loc g.n) = true
    ∧ (loadsOf 8 16 5 0 1 false ++ storesOf 8 16 5 0 1 false).all (fun u => runsB u r
      && (failures (Access.checks u r).2).any (fun f => f.2.1 != .pagefault)
      && (passed (Access.checks u r).2).all fun g => !r.poisoned g.loc g.n) = true
    ∧ r.Handles ∧ r.laneAway r.warp.uid r.warp.nextPend = false ∧ r.warp.pend = [] ∧ r.mem.wf :=
  ⟨by decide +kernel, by decide +kernel, handles_of (by decide +kernel), by decide +kernel, by decide +kernel,
   by unfold Memory.wf; decide +kernel⟩

/-! ## Witnesses: translation, slots and commands -/

/-- A table at 0x1000 that leads, for the addresses with the indexes 1, 2, 3, 4, 5, to the leaf given. -/
def walked (leaf : Nat) : State :=
  let m := base.mem.writeBytes 0x1008 (natToBytes 8 0x5001)
  let m := (m.writeBytes 0x5010 (natToBytes 8 0x6001)).writeBytes 0x6018 (natToBytes 8 0x7001)
  { base with mem := (m.writeBytes 0x7020 (natToBytes 8 0x8001)).writeBytes 0x8028 (natToBytes 8 leaf) }

def walkedVa : Nat := 2 ^ 48 + 2 * 2 ^ 39 + 3 * 2 ^ 30 + 4 * 2 ^ 21 + 5 * 2 ^ 12 + 0x123

theorem test_witness_AccessChecks :
    let s := walked 0x901F
    let slot := fun table lo => table + 8 * (walkedVa / 2 ^ lo % 512)
    ([0x5000, 0x6000, 0x7000, 0x8000, 0x9000].all fun t => t % 4096 == 0 && decide (t < 2 ^ 52)) = true
    ∧ s.tlb = [] ∧ (s.context 0).ptbase.toNat / 4096 % 2 ^ 40 * 4096 = 0x1000
    ∧ s.peek (slot 0x1000 48) 8 = 0x5000 + 1 ∧ s.peek (slot 0x5000 39) 8 = 0x6000 + 1
    ∧ s.peek (slot 0x6000 30) 8 = 0x7000 + 1 ∧ s.peek (slot 0x7000 21) 8 = 0x8000 + 1
    ∧ s.peek (slot 0x8000 12) 8 = 0x9000 + 17 + 2 + 4 + 8 ∧ (walked 0).peek (slot 0x8000 12) 8 = 0
    ∧ s.peek (0x1000 + 8 * 2) 8 % 2 = 0 := by decide +kernel

/-- The last addresses of each space, and the first ones beyond it. -/
theorem test_witness_AccessChecks_spaces :
    let g := base.gang base.warp.agent.gang
    g.scratch = 2 ^ 19 ∧ g.wgs = 1 ∧ (base.context 0).psBytes = 0
    ∧ (base.reach base.warp.agent 0 (2 ^ 57 - 2) 4 4 true false).2 = .fails .range
    ∧ (base.reach base.warp.agent 0 (2 ^ 57 - 6) 4 4 true false).2 = .fails .align ∧ base.partials = []
    ∧ (base.reach base.warp.agent 1 (2 ^ 19 - 8) 8 8 true false).2 = .at_ (scratchBase base.warp.gang + 2 ^ 19 - 8) 0 0
    ∧ (base.reach base.warp.agent 2 (2 ^ 19) 1 1 true false).2 = .fails .dsmem
    ∧ (base.reach base.warp.agent 2 (2 ^ 21) 1 1 true false).2 = .fails .range
    ∧ (base.reach base.warp.agent 3 0 1 1 true false).2 = .fails .range := by decide +kernel

/-- What `State.Once` asks. -/
def onceB (s : State) (space : Nat) (ea : Word64) (n align : Nat) (r w : Bool) : Bool :=
  match s.reach s.warp.agent space ea.toNat n align r w with
  | (s', .at_ loc kind _) =>
    !s.warp.logHolds (if space = 0 then [ea.toNat / 4096] else []) && !s.acquiring
    && (s'.heldByTokens s.warp.site [(kind, loc, n)]).isEmpty && (s.pageLockOf loc).isNone && s.partials.isEmpty
    && s'.mem == s.mem && s'.poison == s.poison
  | _ => false

theorem once_of {s : State} {space n align : Nat} {ea : Word64} {r w : Bool} (h : onceB s space ea n align r w = true) :
    ∃ s' loc kind, s.Once space ea n align r w s' loc kind := by
  unfold onceB at h
  generalize hr : s.reach s.warp.agent space ea.toNat n align r w = out at h
  match out, h with
  | (s', .at_ loc kind peer), h =>
    simp only [Bool.and_eq_true, Bool.not_eq_true', Option.isNone_iff_eq_none, List.isEmpty_iff, beq_iff_eq] at h
    obtain ⟨⟨⟨⟨⟨⟨h1, h0⟩, h2⟩, h3⟩, h4⟩, h5⟩, h6⟩ := h
    exact ⟨s', loc, kind, h1, h0, ⟨peer, hr⟩, h2, h3, by simp [h4], h5, h6⟩

theorem test_witness_TensorSlots :
    let s := setS base 4 0x40000
    s.Ready { srcs := [(.s 4, false)] } ∧ (∃ s' loc kind, s.Once 0 (s.warp.readS 4) 128 128 true false s' loc kind)
    ∧ (∃ s' loc kind, s.Once 0 (s.warp.readS 4) 128 128 false true s' loc kind) ∧ s.poison = [] ∧ s.mem.wf
    ∧ s.Ready { srcs := [(.s 4, false), (.s 5, false)] } ∧ s.Prompt ∧ s.Ready { dests := [.s 5], srcs := [(.s 4, false)] }
    ∧ s.Ready { srcs := [(.s 4, false), (.t 3, false)] } ∧ s.warp.tsrPoison[(3 : Fin 16)].getLsbD ((s.warp.readS 4).toNat % 16) = false
    ∧ (let p := onW (handled s) fun w => { w with tsrPoison := w.tsrPoison.set 3 1 }
       p.Handles ∧ p.Ready { dests := [.s 5], srcs := [(.s 4, false)] }
       ∧ p.warp.tsrPoison[(3 : Fin 16)].getLsbD ((p.warp.readS 4).toNat % 16) = true) :=
  ⟨ready_of (by decide +kernel), once_of (by decide +kernel), once_of (by decide +kernel), by decide +kernel,
   by unfold Memory.wf; decide +kernel, ready_of (by decide +kernel), prompt_of (by decide +kernel),
   ready_of (by decide +kernel), ready_of (by decide +kernel), by decide +kernel, handles_of (by decide +kernel),
   ready_of (by decide +kernel), by decide +kernel⟩

/-- A slot of 8 × 8 FP32 elements in the scratchpad, with a box of 4 × 4. -/
def slab : Tsr := BitVec.ofNat 1024
  (2 * 2 ^ 72 + 2 ^ 80 + 8 * 2 ^ 128 + 8 * 2 ^ 160 + 2 ^ 384 + 8 * 2 ^ 448 + 4 * 2 ^ 832 + 4 * 2 ^ 848)

/-- Slots 3 and 4 hold it; the dense buffer, the index list and the range are at hand. -/
def tensor : State :=
  onW (handled base) fun w => { w with
    tsr := (w.tsr.set 3 slab).set 4 slab
    s := (((w.s.set 20 0x1000).set 21 0x2000).set 12 0x3000).set 13 64 }

def checksOf (s : State) (u : Cmd) : Option Cause := firstFault (u.checks ++ [s.nodeFault u.node])

/-- The warp has `n` commands of a class outstanding. -/
def loaded (s : State) (c : Fin 4) (n : Nat) : State :=
  onW s fun w => { w with
    out := List.replicate n { cmd := 7, cls := c, finished := false }, issued := w.issued.set c n }

/-- The bucket of class 0 is metered and empty. -/
def drained (s : State) : State :=
  { s with contexts := s.contexts.map fun (c : Context) => { c with buckets := c.buckets.set 0 { Bucket.start with depth := 4 } } }

theorem test_witness_CommandsIssue :
    let s := setHints tensor { hsch := some 0x0205 }
    let o := setS s 20 0x1001
    ((commandsOf s 3 4 0 1 20 1 true).map fun u => readyB s u.need && decide (checksOf s u = none))
      = [true, true, true, true, true, true, true, false, false, false, true]
    ∧ ((commandsOf s 3 4 12 1 20 1 true).map fun u => readyB s u.need && decide (checksOf s u = none))
      = [false, false, false, false, false, false, true, false, true, true, true]
    ∧ ((commandsOf o 3 4 0 1 20 1 true).any fun u => decide (checksOf o u = some .align)) = true
    ∧ o.Handles ∧ s.warp.cnt 0 < Config.classLimit ∧ (loaded s 0 255).warp.cnt 0 = Config.classLimit
    ∧ s.releaseReady = true ∧ s.heldBy [0] = [] ∧ (drained s).heldBy [0] = [0] :=
  ⟨by decide +kernel, by decide +kernel, by decide +kernel, handles_of (by decide +kernel), by decide +kernel,
   by decide +kernel, by decide +kernel, by decide +kernel, by decide +kernel⟩

/-- PUSH needs a target that lies in the fabric's address space. -/
theorem test_witness_CommandsIssue_push :
    let s := onW tensor fun w => { w with s := (w.s.set 20 0).set 21 0x100 }
    targetLegal (s.warp.readS 20) = true
    ∧ ((commandsOf s 3 4 0 1 20 1 false)[7]?.map fun u => decide (checksOf s u = none) && readyB s u.need) = some true := by
  decide +kernel

def crowd (s : State) : State :=
  { s with cmds := (List.range 32).map fun (i : Nat) => { commandOf s .mswap 2 with id := 100 + i } }

theorem test_witness_CommandsIssue_matrix :
    let s := setS tensor 12 1
    ((matrixOf s 7 3 12 20 1 true false).all fun u => readyB s u.need) = true
    ∧ ((matrixOf s 7 3 0 20 1 true false).map fun u => decide (checksOf s u = none))
      = [true, true, false, true, false, false, false, true, true]
    ∧ ((matrixOf s 7 3 12 20 1 true false).map fun u => decide (checksOf s u = none))
      = [false, true, true, true, true, true, true, false, true]
    ∧ Config.reservationEntries ≤ (crowd s).reserved (crowd s).myGang
    ∧ (split s).warp.fused = false ∧ (split s).Handles ∧ base.warp.pend = []
    ∧ base.warp.fused = true ∧ base.releaseReady = true ∧ base.warp.cnt 2 < Config.classLimit
    ∧ base.reserved base.myGang < Config.reservationEntries ∧ base.Ready { dests := [.s 3] } ∧ 7 < base.myGang.acc
    ∧ (let h : Hints := { hblk := some 0x30000 }
       (setHints base h).Ready { hblk := true, dests := blockRegs 8 (h.elems 2) 2, srcs := [(.s 5, false)] }
       ∧ 6 + (h.elems 2).length ≤ 8)
    ∧ (setS base 5 63).warp.readS 5 = 63 ∧ (setS (handled base) 5 64).warp.readS 5 = 64 :=
  ⟨by decide +kernel, by decide +kernel, by decide +kernel, by decide +kernel, by decide +kernel,
   handles_of (by decide +kernel), by decide +kernel, by decide +kernel, by decide +kernel, by decide +kernel, by decide +kernel,
   ready_of (by decide +kernel), by decide +kernel, ⟨ready_of (by decide +kernel), by decide +kernel⟩, by decide +kernel,
   by decide +kernel⟩

/-- Three commands of class 1 are out of the three that were issued; an older one stopped with a fault. -/
def waiting : State :=
  onW (loaded (handled base) 1 3) fun w => { w with
    issued := w.issued.set 1 4
    heldFaults := [{ cls := 1, seq := 0, pc := 0x10000, cause := .range, addr := 0 },
                   { cls := 1, seq := 2, pc := 0x10000, cause := .prot, addr := 0 }] }

/-- The limit 3 lets the warp go on and covers the first of the two; 2 makes it wait; a WAITC that waits keeps what it
covers. -/
theorem test_witness_CounterWaits :
    let covered := fun (s : State) n => s.warp.heldFaults.filter fun f =>
      f.cls == 1 && decide (f.seq < s.warp.issued[(1 : Fin 4)] - n) && s.warp.pend.all fun p =>
        decide (s.warp.nextPend ≤ p.id) || match p.kind with
          | .waitc c' _ n' => c' != 1 || decide (n' ≤ f.seq)
          | _ => true
    waiting.Ready { srcs := [(.s 5, false)] } ∧ waiting.warp.cnt 1 = 3 ∧ (covered waiting 3).length = 1
    ∧ (covered waiting 1).length = 2 ∧ covered waiting 4 = [] ∧ covered (busy waiting (pendingOf (.waitc 1 1 3))) 1 = []
    ∧ waiting.Handles ∧ (setS waiting 5 3).warp.readS 5 = 3 ∧ (setS waiting 5 2).warp.readS 5 = 2
    ∧ waiting.Prompt ∧ waiting.Ready { dests := [.s 5] } :=
  ⟨ready_of (by decide +kernel), by decide +kernel, by decide +kernel, by decide +kernel, by decide +kernel, by decide +kernel,
   handles_of (by decide +kernel), by decide +kernel, by decide +kernel, prompt_of (by decide +kernel),
   ready_of (by decide +kernel)⟩

/-- Node 5 is held with seven edges, node 6 released, node 7 running. -/
def graphed : State :=
  let held : Node := { state := .held, count := 2, succ := List.replicate 7 9, under := false, cmd := some 100, order := none }
  let ready : Node := { held with state := .released, succ := List.replicate 8 9 }
  let s := crowd (handled base)
  { s with gangs := s.gangs.map fun (g : Gang) =>
      { g with nodes := ((g.nodes.set 5 held).set 6 ready).set 7 { held with state := .running } } }

theorem test_witness_GraphNodes :
    (graphed.myGang.nodes.length = 256)
    ∧ (∀ q ∈ [(5, NodeState.held, 7), (6, .released, 8), (7, .running, 7), (0, .free, 0), (255, .free, 0)],
        (nodeAt graphed (BitVec.ofNat 64 q.1)).state = q.2.1 ∧ (nodeAt graphed (BitVec.ofNat 64 q.1)).succ.length = q.2.2)
    ∧ graphed.Ready { srcs := [(.s 4, false), (.s 5, false)] } ∧ graphed.Ready { srcs := [(.s 4, false)] }
    ∧ graphed.Handles ∧ graphed.Prompt ∧ graphed.Ready { dests := [.s 5], srcs := [(.s 4, false)] }
    ∧ (setS (setS graphed 4 255) 5 5).warp.readS 4 = 255 ∧ (setS graphed 4 256).warp.readS 4 = 256
    ∧ (∃ q ∈ graphed.cmds, q.id = 100) :=
  ⟨by decide +kernel, by decide +kernel, ready_of (by decide +kernel), ready_of (by decide +kernel),
   handles_of (by decide +kernel), prompt_of (by decide +kernel), ready_of (by decide +kernel), by decide +kernel,
   by decide +kernel, by decide +kernel⟩

/-! ## Witnesses: locks, monitors, barriers, fences -/

/-- What `State.AtLine` asks. -/
def atLineB (s : State) (align : Nat) (w : Bool) (ea : Word64) (loc : Nat) : Bool :=
  !s.warp.logHolds [ea.toNat / 4096] && !s.acquiring && (match (s.linePlace align w ea).2 with | .ok l => l == loc | _ => false)
  && s.partials.isEmpty && (s.linePlace align w ea).1.mem == s.mem && (s.linePlace align w ea).1.poison == s.poison

theorem atLine_of {s : State} {align loc : Nat} {w : Bool} {ea : Word64} (h : atLineB s align w ea loc = true) :
    s.AtLine align w ea (s.linePlace align w ea).1 loc := by
  unfold atLineB at h
  simp only [Bool.and_eq_true, Bool.not_eq_true', List.isEmpty_iff, beq_iff_eq] at h
  obtain ⟨⟨⟨⟨⟨h1, h0⟩, h2⟩, h3⟩, h4⟩, h5⟩ := h
  refine ⟨h1, h0, ?_, by simp [h3], h4, h5⟩
  generalize hr : s.linePlace align w ea = r at h2 ⊢
  match r, h2 with
  | (s', .ok l), h2 => simp only [beq_iff_eq] at h2; rw [h2]

/-- The other warp of the gang holds the lock of the line 0x40000, or the issuing one does and the other waits. -/
def theirs : State :=
  { paired (setS (handled base) 4 0x40000) with
    locks := [{ line := 0x40000, va := 0x40000, holder := some 90, queue := [], mark := false }] }

def mine (queue : List Waiter) : State :=
  { onW theirs fun w => { w with locks := [{ va := 0x40000, line := 0x40000, held := true, saved := none, left := none }] } with
    locks := [{ line := 0x40000, va := 0x40000, holder := some 1, queue := queue, mark := false }] }

def ours : State := mine [{ warp := 90, pend := 3, deadline := none }]

/-- All four slots are in use. -/
def slotless : State :=
  onW theirs fun w => { w with
    locks := (List.range 4).map fun i => { va := 128 * i, line := 128 * i, held := true, saved := none, left := none } }

def marked : State :=
  { theirs with locks := [{ line := 0x40000, va := 0x40000, holder := none, queue := [], mark := true }] }

theorem test_witness_LineLocks :
    (∀ s ∈ [base, theirs, slotless, marked], readyB s { dests := [.s 3], srcs := [(.s 4, false), (.s 5, false)] } = true)
    ∧ atLineB (setS base 4 0x40000) 128 true 0x40000 0x40000 = true ∧ atLineB theirs 128 true 0x40000 0x40000 = true
    ∧ (∀ s ∈ [theirs, marked, ours], s.warp.pend.length = 0 ∧ s.lockHeldUp 0x40000 = false ∧ s.warp.locks.length < 4
        ∧ s.warp.log = [])
    ∧ base.lockOf 0x40000 = none ∧ base.lockRoom 0x40000 = true ∧ (theirs.lockOf 0x40000).isSome = true
    ∧ ((theirs.lockOf 0x40000).bind (·.holder)).isSome = true ∧ (marked.lockOf 0x40000).bind (·.holder) = none
    ∧ slotless.warp.locks.length = 4 ∧ slotless.warp.trapvec = 0x11000 := by decide +kernel

/-- The line 0x40000 moves, held by the other warp or by none; LSTAT finds the lock of the other warp. -/
theorem test_witness_LineLocks_waits :
    (∀ s ∈ [theirs, marked],
      let p : PageLock := { page := 0x40000, size := 12, started := false, warp := 90, pend := 1, copied := none, held := [] }
      let t := { s with pageLocks := [p] }
      t.lockHeldUp 0x40000 = true ∧ (t.lockOf 0x40000).isSome = true)
    ∧ (theirs.lockOf 0x40000).map (·.holder) = some (some mate.uid) ∧ theirs.findWarp mate.uid = some mate := by decide +kernel

def lineSlice (i : Fin 33) : Fin 32 := Config.sliceOf (0x40000 + 128 * i.val)

/-- Another of 33 lines with the slice of line `i`, where there is one. -/
def partner (i : Fin 33) : Fin 33 :=
  ((List.finRange 33).find? fun j => j != i && lineSlice j == lineSlice i).getD i

/-- Every entry of the tables is for the partner of line `i`, for which the warp asks. -/
def lockful (i : Fin 33) : State :=
  { setS (handled base) 4 (BitVec.ofNat 64 (0x40000 + 128 * i.val)) with
    locks := List.replicate 512 { line := 0x40000 + 128 * (partner i).val, va := 0, holder := some 90, queue := [], mark := false } }

theorem lockful_lets : ∀ i : Fin 33,
    atLineB (lockful i) 128 true ((lockful i).warp.readS 4) (0x40000 + 128 * i.val) = true := by decide +kernel

/-- Two of 33 lines have one of the 32 slices, whichever it is. -/
theorem partner_exists : ∃ i : Fin 33, partner i ≠ i ∧ lineSlice (partner i) = lineSlice i := by
  obtain ⟨i, j, hne, h⟩ : ∃ i j : Fin 33, i ≠ j ∧ lineSlice i = lineSlice j :=
    Fintype.exists_ne_map_eq_of_card_lt lineSlice (by simp)
  refine ⟨i, ?_⟩
  unfold partner
  cases hf : (List.finRange 33).find? fun k => k != i && lineSlice k == lineSlice i with
  | none => exact absurd (List.find?_eq_none.1 hf j (by simp)) (by simp [h, hne.symm])
  | some k => simpa using List.find?_some hf

/-- The table of a line's slice can be full. -/
theorem test_witness_LineLocks_full : ∃ i : Fin 33,
    atLineB (lockful i) 128 true ((lockful i).warp.readS 4) (0x40000 + 128 * i.val) = true
    ∧ (lockful i).lockOf (0x40000 + 128 * i.val) = none ∧ (lockful i).lockHeldUp (0x40000 + 128 * i.val) = false
    ∧ (lockful i).warp.locks = [] ∧ (lockful i).locks.length = Config.lockEntries
    ∧ ((lockful i).locks.filter fun l => (lockful i).sameSlice l.line (0x40000 + 128 * i.val)).length
        = Config.lockEntries := by
  obtain ⟨i, hne, h⟩ := partner_exists
  have hh : ∀ k, (lockful i).homeOf k = none := fun _ => rfl
  have hlen : (lockful i).locks.length = Config.lockEntries := List.length_replicate
  refine ⟨i, lockful_lets i, ?_, rfl, rfl, hlen, ?_⟩
  · refine List.find?_eq_none.2 fun l hm => ?_
    obtain ⟨-, rfl⟩ := List.mem_replicate.1 hm
    have : (partner i).val ≠ i.val := fun e => hne (Fin.ext e)
    simp; omega
  · rw [List.filter_eq_self.2, hlen]
    intro l hm
    obtain ⟨-, rfl⟩ := List.mem_replicate.1 hm
    unfold lineSlice at h
    simp [State.sameSlice, hh, h]

theorem test_witness_LineLocks_holder :
    (∃ x ∈ ours.warp.locks, x.held = true ∧ x.line = 0x40000) ∧ ours.releaseReady = true ∧ ours.lockWaits = []
    ∧ (ours.lockOf 0x40000).map (·.queue.map (·.warp)) = some [90] ∧ ours.warp.uid = 1 ∧ ours.warp.live = true
    ∧ ((mine []).lockOf 0x40000).map (·.queue) = some [] ∧ (∀ x ∈ theirs.warp.locks, x.held = false)
    ∧ (ours.lockOf 0x40000).map (·.holder) = some (some ours.warp.uid)
    ∧ (∀ s ∈ [ours, mine [], theirs], readyB s { dests := [.s 3], srcs := [(.s 4, false), (.s 5, false)] } = true
        ∧ atLineB s 128 true 0x40000 0x40000 = true) := by decide +kernel

/-- The value 7 stands at 0x40000. -/
def seven (s : State) : State := setMem (setS s 4 0x40000) 0x40000 [7]
def spoilt : State := { seven (handled base) with poison := [0x40000 / 8] }

theorem test_witness_MonitorsArmed :
    let s := seven base
    s.warp.pend = []
    ∧ s.Ready { dests := [.s 3], srcs := (.s 4, false) :: if (6 : Fin 64) = 0 then [] else [(.s 6, false), (.s (regAt 6 1), false)] }
    ∧ s.Ready { dests := [.s 3], srcs := (.s 4, false) :: if (0 : Fin 64) = 0 then [] else [(.s 0, false), (.s (regAt 0 1), false)] }
    ∧ s.Ready { srcs := [(.s 4, false), (.s 6, false)] }
    ∧ ([2, 4, 8, 16].all fun n => atLineB s n false 0x40000 0x40000 && !s.poisoned 0x40000 n && spoilt.poisoned 0x40000 n) = true
    ∧ spoilt.Handles
    ∧ (condition 0 (BitVec.ofNat 64 (s.mem.nat 0x40000 4)) 7 = true ∧ condition 1 (BitVec.ofNat 64 (s.mem.nat 0x40000 4)) 7 = false
      ∧ condition 4 (BitVec.ofNat 64 (s.mem.nat 0x40000 2)) 0x8007 = false ∧ condition 4 (BitVec.ofNat 64 (s.mem.nat 0x40000 2)) 0x8008 = true
      ∧ condition 5 (BitVec.ofNat 64 (s.mem.nat 0x40000 8)) 7 = true) :=
  ⟨by decide +kernel, ready_of (by decide +kernel), ready_of (by decide +kernel), ready_of (by decide +kernel),
   by decide +kernel, handles_of (by decide +kernel), by decide +kernel⟩

/-- The other warp has arrived at the barrier, with a payload that is poisoned or not. -/
def arrived (bad : Bool) : State :=
  let s := paired (setS (handled base) 4 10)
  { s with gangs := s.gangs.map fun (g : Gang) => { g with barriers :=
      [{ wg := some 0, gen := 0, arrivals := [{ wg := 0, index := 1, warp := 90, pend := 2, op := 0, payload := 5, poisoned := bad }] }] } }

/-- What the issuing warp brings to the barrier. -/
def arrival : Arrival := { wg := 0, index := 0, warp := 1, pend := 0, op := 0, payload := 10, poisoned := false }

theorem test_witness_Barriers :
    (∀ s ∈ [base, paired base, arrived false, arrived true, split (handled base)],
      readyB s { dests := [.s 3], srcs := [(.s 4, false)], poisonOk := true } = true ∧ s.warp.pend = [] ∧ s.releaseReady = true)
    ∧ (∃ g ∈ base.gangs, g.uid = base.warp.gang) ∧ (split (handled base)).warp.fused = false
    ∧ (paired base).warp.fused = true
    ∧ ((joinBarrier (some 0) 0 arrival (paired base).myGang.barriers).all fun b => !(paired base).barrierFull base.warp.gang b) = true
    ∧ (∀ bad ∈ [false, true], let s := arrived bad
        let joined := (joinBarrier (some 0) 0 arrival s.myGang.barriers).filter (s.barrierFull s.warp.gang)
        joined.map (fun b => (b.wg, b.gen)) = [(some 0, 0)]
        ∧ (joined.all fun b => b.arrivals.contains arrival && decide ((b.arrivals.map (·.warp)).Nodup)
            && b.arrivals.any fun x => x.warp == 90 && x.pend == 2) = true
        ∧ (joined.all fun b => b.arrivals.head?.map (·.op) == some 0) = true
        ∧ (joined.any fun b => b.arrivals.any (·.poisoned)) = bad) := by decide +kernel

/-- A store of the warp is not performed yet: the operand log holds a page. -/
def unreleased (s : State) : State :=
  onW s fun w => { w with
    log := [{ tag := 9, pc := 0x10000, eas := [], job := lineJobAt .lunlock 0x50000, lanes := 1, pend := 0, answer := none, entry := 0
              unit := { op := .lunlock 4, hints := {} } }] }

/-- A phase object of two arrivals with one arrived, the largest count, and a malformed one. -/
theorem test_witness_Barriers_phase :
    let obj := fun (v : Nat) => setMem (setS (handled base) 4 0x40000) 0x40000 (natToBytes 16 v)
    let fields := fun (v : Nat) => ((v / 2 ^ 32) % 2 ^ 32, v / 2 ^ 64 % 2 ^ 32, v % 2 ^ 16)
    (∀ v ∈ [2 ^ 64 + 2 ^ 33 + 7, 2 ^ 56 + 2 ^ 16 - 1, 2 ^ 96], (obj v).mem.nat 0x40000 16 = v
        ∧ atLineB (obj v) 16 true 0x40000 0x40000 = true ∧ (obj v).pageLockOf 0x40000 = none ∧ (obj v).poisoned 0x40000 16 = false
        ∧ readyB (obj v) { dests := [.s 3], srcs := [(.s 4, false), (.s 6, false)] } = true ∧ (obj v).releaseReady = true
        ∧ (obj v).delays = [] ∧ (obj v).warp.trapvec = 0x11000 ∧ (obj v).mem.wf)
    ∧ fields (2 ^ 64 + 2 ^ 33 + 7) = (2, 1, 7) ∧ fields (2 ^ 56 + 2 ^ 16 - 1) = (2 ^ 24, 0, 2 ^ 16 - 1)
    ∧ (setS base 6 (BitVec.ofNat 64 (2 ^ 24))).warp.readS 6 = 0x1000000
    ∧ (let bad := { obj (2 ^ 33) with poison := [0x40000 / 8] }
       bad.poisoned 0x40000 16 = true ∧ (bad.warp.readS 6).toNat % 2 ^ 32 = 0 ∧ cached (kindOf 0x40000) 0x40000 = true
       ∧ (setS bad 6 (BitVec.ofNat 64 (2 ^ 24 + 1))).warp.readS 6 = 0x1000001) := by unfold Memory.wf; decide +kernel

/-- A load of the warp is logged, whose page the supervisor has yet to map. -/
def unread (s : State) : State :=
  onW s fun w => { w with
    log := [{ tag := 9, pc := 0x10000, eas := [], job := lineJobAt (.load 2) 0x50000, lanes := 1, pend := 0, answer := none, entry := 0
              unit := { op := .move false false 8 16 5 2 0, hints := {} } }] }

def binding : State := setS (setS (setS (handled base) 4 0x40000) 6 0x80000) 7 128
def bound : State :=
  let bs : List Bind := (List.range 256).map fun i => { obj := 0x40000, base := 0x100000 + 128 * i, len := 128 }
  { binding with contexts := binding.contexts.map fun (c : Context) => { c with binds := bs } }

theorem test_witness_FencesAndBinds :
    let s := binding
    let full := bound
    s.Ready {} ∧ (s.releaseReady = true ∧ s.readsDone = true ∧ (unread s).readsDone = false)
    ∧ (unreleased s).releaseReady = false ∧ (unreleased s).Ready {} ∧ atLineB (unread s) 128 true 0x40000 0x40000 = true
    ∧ atLineB s 128 true 0x40000 0x40000 = true ∧ atLineB (unreleased s) 128 true 0x40000 0x40000 = true
    ∧ s.Ready { srcs := [(.s 4, false)] } ∧ s.Ready { srcs := [(.s 4, false), (.s 6, false), (.s (regAt 6 1), false)] }
    ∧ full.myContext.binds.length = 256 ∧ (∃ x ∈ full.myContext.binds, x.obj = 0x40000 ∧ x.base = 0x100000)
    ∧ (∀ x ∈ full.myContext.binds, ¬ (x.obj = 0x40000 ∧ x.base = 0x80000)) ∧ s.myContext.binds = []
    ∧ s.Handles ∧ (s.warp.readS 6).toNat % 128 = 0 ∧ (s.warp.readS 7).toNat = 128
    ∧ s.Ready { srcs := [(.s 4, false), (.s 6, false)] } :=
  ⟨ready_of (by decide +kernel), by decide +kernel, by decide +kernel, ready_of (by decide +kernel), by decide +kernel, by decide +kernel,
   by decide +kernel, ready_of (by decide +kernel), ready_of (by decide +kernel), by decide +kernel, by decide +kernel,
   by decide +kernel, by decide +kernel, handles_of (by decide +kernel), by decide +kernel, by decide +kernel,
   ready_of (by decide +kernel)⟩

/-! ## Witnesses: launches, control registers, the trap handler, pages, debugging -/

/-- Queue 5 has a ring of 16 records at 0x60000; its tail is at 15, or the ring is full. -/
def ring (s : State) (head tail : Nat) : State :=
  let q : Queue :=
    { Queue.start with base := 0x60000, size := 4, head := BitVec.ofNat 32 head, tail := BitVec.ofNat 32 tail, device := true }
  { s with queues := s.queues.set 5 q }

def launching : State := ring (setS (setS (handled base) 4 0x40000) 6 5) 0 15

theorem test_witness_LaunchesAndLeases :
    let s := launching
    s.Ready { dests := [.s 3], srcs := [(.s 4, false), (.s 6, false)] } ∧ s.Handles
    ∧ (s.queue 5).size ≠ 0 ∧ (s.queue 5).ctx = s.warp.ctx ∧ (s.queue 5).device = true ∧ (s.queue 0).device = false
    ∧ s.releaseReady = true ∧ s.Prompt ∧ s.mem.wf
    ∧ (∃ s' loc kind, s.Once 0 (s.warp.readS 4) 128 128 true false s' loc kind) ∧ s.poison = []
    ∧ ((s.queue 5).tail - (s.queue 5).head).toNat = 15
    ∧ (((ring s 0xFFFFFFF8 8).queue 5).tail - ((ring s 0xFFFFFFF8 8).queue 5).head).toNat = 2 ^ 4
    ∧ ((((s.chargeAll 0 s.warp.site [(0, 0x40000, 128)]).readAt s.warp.agent 0 0x40000 128).1).slotPlace 5 15 true).2
      = some (0x60780, 0)
    ∧ s.pageLockOf 0x60780 = none ∧ s.partials = [] :=
  ⟨ready_of (by decide +kernel), handles_of (by decide +kernel), by decide +kernel, by decide +kernel, by decide +kernel,
   by decide +kernel, by decide +kernel, prompt_of (by decide +kernel), by unfold Memory.wf; decide +kernel,
   once_of (by decide +kernel), by decide +kernel, by decide +kernel, by decide +kernel, by decide +kernel,
   by decide +kernel, by decide +kernel⟩

theorem test_witness_LaunchesAndLeases_values :
    (handled base).Ready { srcs := [(.s 4, false)] } ∧ (handled base).Handles
    ∧ (handled base).Ready { dests := [.s 3], srcs := [(.s 4, false)] } ∧ (handled base).Prompt
    ∧ (∀ v ∈ [0, 1, 4095, 4096, 7, 8, 63, 64, 0xFFE, 0xFFF], ((setS base 4 (BitVec.ofNat 64 v)).warp.readS 4).toNat = v) :=
  ⟨ready_of (by decide +kernel), handles_of (by decide +kernel), ready_of (by decide +kernel), prompt_of (by decide +kernel),
   by decide +kernel⟩

/-- An instruction that may raise conditions has not completed. -/
def accumulating : State := busy base { pendingOf (.command 3) with floats := true }

theorem test_witness_ControlRegisters :
    (base.context? base.warp.ctx).isSome = true ∧ base.warp.ctx = 0 ∧ ((guest base false).context? 5).isSome = true
    ∧ base.warp.pend.any (·.floats) = false ∧ accumulating.warp.pend.any (·.floats) = true
    ∧ base.Ready { dests := [.s 3] } ∧ base.Ready { dests := [.s 3], srcs := [(.s 4, false)] } ∧ accumulating.Ready { dests := [.s 5] }
    ∧ csrAssigned 0x01 = true ∧ csrAssigned 0x62 = true ∧ csrAssigned 0x00 = false ∧ csrAssigned 0xFF = false
    ∧ (handled base).Handles :=
  ⟨by decide +kernel, by decide +kernel, by decide +kernel, by decide +kernel, by decide +kernel, ready_of (by decide +kernel),
   ready_of (by decide +kernel), ready_of (by decide +kernel), by decide +kernel, by decide +kernel, by decide +kernel,
   by decide +kernel, handles_of (by decide +kernel)⟩

theorem test_witness_TrapModeInstructions :
    base.Ready { dests := [.s 3], srcs := [(.s 4, false)] } ∧ base.warp.trap = none ∧ (handled base).Handles
    ∧ trapped.Ready { dests := [.s 3], srcs := [(.s 4, false)] } ∧ trapped.Prompt
    ∧ (∃ m ∈ trapped.warp.trap.toList, m.unit = none ∧ m.record.cycle = [] ∧ (m.record.frags.find? (·.entry == 0)).isSome)
    ∧ base.Ready { srcs := [(.s 4, false)] } ∧ base.warp.frag.state = .ready
    ∧ base.warp.frag.mask &&& base.warp.live32 &&& ~~~0x7FFFFFFF ≠ 0
    ∧ (guest (handled base) false).warp.ctx = 5 ∧ (guest base false).context? 5 ≠ none ∧ base.context? 63 = none
    ∧ (guest base false).Ready { srcs := [(.s 4, false)] } :=
  ⟨ready_of (by decide +kernel), by decide +kernel, handles_of (by decide +kernel), ready_of (by decide +kernel),
   prompt_of (by decide +kernel), by decide +kernel, ready_of (by decide +kernel), by decide +kernel, by decide +kernel,
   by decide +kernel, by decide +kernel, by decide +kernel, ready_of (by decide +kernel)⟩

/-- The core's buffer holds the mapping of the gigabyte. -/
def buffered : State := ((handled base).translate base.warp.units 0 0x40000 true false false).1

/-- A page with a home, at rest or on its way. -/
def homed (moving : Option Nat) : State :=
  { handled base with homes :=
    [{ page := 0x40000, size := 12, site := 1, moving := moving, asker := none, writes := [], since := 0 }] }

theorem test_witness_TranslationInstructions :
    base.warp.ctx = 0 ∧ base.warp.pend = [] ∧ base.Ready { srcs := [(.s 4, false), (.s 6, false)] } ∧ base.shootdowns = []
    ∧ base.tlb = [] ∧ (∃ e ∈ buffered.tlb, e.asid = 0 ∧ 0x40000 / 2 ^ e.map.size = e.map.vpage)
    ∧ (handled base).Handles ∧ ((homed none).site 7).inService = true
    ∧ (homed none).homes.find? (·.holds 0x40000)
      = some { page := 0x40000, size := 12, site := 1, moving := none, asker := none, writes := [], since := 0 }
    ∧ (homed (some 3)).homes.find? (·.holds 0x40000)
      = some { page := 0x40000, size := 12, site := 1, moving := some 3, asker := none, writes := [], since := 0 }
    ∧ base.homes.find? (·.holds 0x40000) = none ∧ (homed none).housed 0x40000 = true ∧ base.housed 0x40000 = false
    ∧ base.owners.find? (fun o => 0x40000 / 2 ^ o.size == o.page / 2 ^ o.size) = none
    ∧ (∀ i < 648, base.unitBusy (tlbUnitAt i) = false)
    ∧ (let s := paired base
       let t := { s with fabric := { s.fabric with tx :=
         [{ id := 70, ctx := 0, peer := 3, kind := .lane 90 2 0 0 0x40000 (lineJobAt .lunlock 0x50000), retries := 0, sentAt := 0 }] } }
       ∃ i < 648, t.unitBusy (tlbUnitAt i) = true) :=
  ⟨by decide +kernel, by decide +kernel, ready_of (by decide +kernel), by decide +kernel, by decide +kernel, by decide +kernel,
   handles_of (by decide +kernel), by decide +kernel, by decide +kernel, by decide +kernel, by decide +kernel, by decide +kernel,
   by decide +kernel, by decide +kernel, by decide +kernel, by decide +kernel⟩

def pageLock (started : Bool) : PageLock :=
  { page := 0x40000, size := 12, started := started, warp := 90, pend := 1, copied := none, held := [] }

/-- The entry at 0x8028 maps the frame 0x40000, whose page is locked. -/
def locked (started : Bool) : State :=
  { setMem (setS (handled base) 4 0x8028) 0x8028 (natToBytes 8 0x4001F) with pageLocks := [pageLock started] }

theorem test_witness_PageMigration :
    base.warp.ctx = 0 ∧ base.warp.pend = [] ∧ base.Ready { srcs := [(.s 4, false)] } ∧ (handled base).Handles
    ∧ base.pageLocks = [] ∧ base.partials = [] ∧ base.locks = [] ∧ base.lockWaits = []
    ∧ (∃ l ∈ theirs.locks, 0x40000 ≤ l.line ∧ l.line < 0x40000 + 2 ^ 12 ∧ l.holder.isSome = true)
    ∧ (locked true).pageLocks = [pageLock true] ∧ (locked false).pageLocks = [pageLock false]
    ∧ (locked true).Ready { srcs := [(.s 4, false), (.s 6, false)] } ∧ (locked true).mem.wf
    ∧ (locked true).mem.nat 0x8028 8 / 2 ^ 12 % 2 ^ 40 * 4096 = 0x40000 ∧ (locked true).pageLockOf 0x8028 = none
    ∧ (locked true).pageLocks.filter (fun p => p.started && p.page == 0x40000) = [pageLock true]
    ∧ (pageLock true).held = [] ∧ (locked true).lockWaits = [] ∧ (locked true).fabric.finishing = [] ∧ (locked true).cmds = [] :=
  ⟨by decide +kernel, by decide +kernel, ready_of (by decide +kernel), handles_of (by decide +kernel), by decide +kernel,
   by decide +kernel, by decide +kernel, by decide +kernel, by decide +kernel, by decide +kernel, by decide +kernel,
   ready_of (by decide +kernel), by unfold Memory.wf; decide +kernel, by decide +kernel, by decide +kernel,
   by decide +kernel, by decide +kernel, by decide +kernel, by decide +kernel, by decide +kernel⟩

/-- The other warp, whose WARPID is 1, is in debug stop; its site may be halted. -/
def stoppedMate (halted : Bool) : State :=
  let s := handled base
  { s with
    others := [{ mate with debugStop := true, site := if halted then 2 else 0 }]
    sites := s.sites.set 2 { s.sites[2] with halted := halted } }

theorem test_witness_DebugInstructions :
    base.warp.ctx = 0 ∧ base.Prompt ∧ base.Ready { dests := [.s 3], srcs := [(.s 4, false)] }
    ∧ (base.context? base.warp.ctx).isSome = true ∧ base.Ready { srcs := [(.s 4, false)] } ∧ (handled base).Handles
    ∧ (guest base true).myContext.debug = true
    ∧ (∀ x ∈ base.warps, x.debugStop = false ∧ (base.site x.site).halted = false)
    ∧ (∀ h ∈ [false, true], ∃ x ∈ (stoppedMate h).others, x.live = true ∧ x.resident = true ∧ x.warpid % 2 ^ 15 = x.warpid
        ∧ x.ctx = 0 ∧ x.debugStop = true ∧ x.uid ≠ (stoppedMate h).warp.uid ∧ x.allFrags.any x.eligible = true
        ∧ ((stoppedMate h).site x.site).halted = h)
    ∧ (stoppedMate false).warp.debugStop = false
    ∧ (∀ x ∈ (stoppedMate false).others, (x.allFrags.map fun f => { f with state := FragState.waiting 1 }).any x.eligible = false) :=
  ⟨by decide +kernel, prompt_of (by decide +kernel), ready_of (by decide +kernel), by decide +kernel, ready_of (by decide +kernel),
   handles_of (by decide +kernel), by decide +kernel, by decide +kernel, by decide +kernel, by decide +kernel, by decide +kernel⟩

/-! ## Witnesses: completions, replays, memory events -/

theorem focused_of {s : State} {w : Nat} (h : s.findWarp w = some (s.focus w).warp ∧ (s.focus w).warp.uid = w) :
    s.Focused (s.focus w) w := ⟨rfl, h⟩

/-- The fragment waits for a pending instruction of a kind, answered or not. -/
def pends (s : State) (kind : PendKind) (ready : Bool) (fault : Option Cause) : State :=
  let p : Pending :=
    { pendingOf kind with writes := if ready then [.s 3 1] else [], ready := ready, fault := fault }
  onW s fun w => { w with pend := [p], nextPend := 1, frag := { w.frag with pc := 0x10004, fetch := 0x10004, block := some 0 } }

/-- A monitor that has fired. -/
def fired : State :=
  { pends base (.monitor 7) false none with
    monitors := [{ id := 7, warp := 1, pend := 0, loc := 0x40000, q := 0, comparand := 0, deadline := none, table := true, checked := 0, fired := true }] }

theorem test_witness_Completions :
    (let s := late base
     s.Ready { dests := [.s 9], srcs := [(.s 1, false), (.s 2, false)] } ∧ s.delays.head? = some true ∧ s.warp.live = true
     ∧ s.warp.pend = [] ∧ s.warp.raising = none ∧ (s.gang s.warp.gang).barriers = [] ∧ s.pageLocks = [])
    ∧ (∀ q ∈ [(PendKind.result, false), (.lock 0x40000, true), (.command 3, true), (.page, true), (.barrier, true), (.lanes, false),
              (.node 5, true), (.step 77, true), (.waitc 1 3 4, false)],
        let s := pends (handled base) q.1 q.2 none
        s.findWarp 1 = some (s.focus 1).warp ∧ (s.focus 1).warp.uid = 1
        ∧ ((s.focus 1).warp.pend.find? (·.id == 0)).map (fun p => (p.kind, p.ready, p.fault, p.killed)) = some (q.1, q.2, none, 0)
        ∧ (s.focus 1).warp.raising = none
        ∧ s.lanesDone (s.focus 1).warp 0 = true ∧ ((s.gang s.warp.gang).node 5).state = .free ∧ s.findWarp 77 = none
        ∧ s.warp.cnt 1 ≤ 3)
    ∧ (base.warp.resident = true ∧ (base.site base.warp.site).halted = false
       ∧ ((base.site base.warp.site).cluster base.warp.cluster).gate = .awake)
    ∧ (fired.monitors.find? (fun m => m.id == 7 && m.fired)).map (fun m => (m.warp, m.pend)) = some (1, 0)
    ∧ (pends (handled base) .barrier true (some .poison)).Handles :=
  ⟨⟨ready_of (by decide +kernel), by decide +kernel, by decide +kernel, by decide +kernel, by decide +kernel, by decide +kernel,
     by decide +kernel⟩,
   by decide +kernel, by decide +kernel, by decide +kernel, handles_of (by decide +kernel)⟩

/-- Of three commands of class 1, one stopped that a WAITC for 3 covers. -/
theorem test_witness_Completions_waitc :
    let s := pends waiting (.waitc 1 3 1) false none
    s.findWarp 1 = some (s.focus 1).warp ∧ s.warp.cnt 1 ≤ 3
    ∧ (s.warp.heldFaults.filter fun h => h.cls == 1 && h.seq < 1).map (·.cause) = [.range] ∧ s.Handles :=
  ⟨by decide +kernel, by decide +kernel, by decide +kernel, handles_of (by decide +kernel)⟩

/-- A load whose lanes are misaligned has trapped; the handler has changed the base. -/
def replaying (base' : Word64) : State :=
  setS (setS ((after (exec (.ld 8 16 5 2 0 false) (spread (handled base) 0x40001))).getD base) 4 0x80000001) 5 base'

def replayJob (s : State) : Option (Word32 × Job) :=
  s.warp.trap.bind fun m => m.unit.map fun u => (m.lanes, u.job s.warp)

/-- No token class is metered. -/
def unmetered (s : State) : Bool := s.contexts.all fun c => c.buckets.toList.all fun b => b.depth == 0

/-- The lanes pass, or fail again, or meet a page that is not there. -/
theorem test_witness_LanesReplayed :
    (∀ q ∈ [(0x40000, 0), (0x40002, 1), (0x3FFFFE20, 2)],
      let s := replaying (BitVec.ofNat 64 q.1)
      let cs := (replayJob s).map fun r => (s.checkLanes s.warp.agent r.2 false (lanesOf (r.1 &&& ~~~s.warp.dead))).2
      (s.warp.trap.map fun m => (m.lanes, m.unit.map (·.sources), m.unit.bind fun u => u.stackFails s.warp))
        = some (0x80000001, some [.s 5, .v 16], none)
      ∧ (replayJob s).map (fun r => (r.2.kind.lineEffect 0).isNone) = some true
      ∧ s.delays = [] ∧ readyB s { dests := [.s 3], srcs := [(.s 4, false)] } = true
      ∧ s.warp.full (.s 5) = true ∧ s.warp.full (.v 16) = true ∧ s.warp.poisonIn [.s 5, .v 16] = 0
      ∧ (cs.map fun c => (failures c).length) = some (if q.2 = 0 then 0 else if q.2 = 1 then 2 else 1)
      ∧ (cs.map fun c => (failures c).any fun b => b.2.1 == .pagefault) = some (decide (q.2 = 2))
      ∧ s.pageLocks = [] ∧ s.poison = [] ∧ s.partials = [] ∧ s.fabric.tx = [] ∧ unmetered s = true
      ∧ s.warp.pend.all (fun p => p.writes.isEmpty && p.killed == 0 && p.faults.isEmpty) = true
      ∧ s.warp.unmapped = false) := by decide +kernel

/-- A load is logged: its page has been mapped, or has no mapping, or another is missing. -/
def logged (answer : Bool) (map : Bool) : State :=
  let s := (after (exec (.ld 8 16 5 2 0 false) (spread (handled base) 0x3FFFFE20))).getD base
  let s := onW s fun w => { w with log := w.log.map fun e => { e with answer := some answer } }
  if map then { s with mem := s.mem.writeBytes 0x3008 (natToBytes 8 0x4000001F) } else s

theorem test_witness_LanesReplayed_log :
    (∀ map ∈ [true, false],
      let s := logged true map
      s.findWarp 1 = some (s.focus 1).warp ∧ s.warp.uid = 1 ∧ s.warp.resident = true ∧ s.mem.wf ∧ s.poison = []
      ∧ s.warp.raising = none ∧ s.fabric.tx = [] ∧ s.pageLocks = [] ∧ s.partials = [] ∧ unmetered s = true
      ∧ s.warp.log.map (fun e => (e.answer, s.warp.firstOfPages e, (e.job.kind.lineEffect 0).isNone)) = [(some true, true, true)]
      ∧ s.warp.log.map (fun e => (failures (({ s with warp := { s.warp with log := [] } } : State).checkLanes s.warp.agent e.job
          false (lanesOf (e.lanes &&& ~~~s.warp.dead))).2).map (·.2.1)) = [if map then [] else [.pagefault]])
    ∧ (logged false false).warp.log.map (·.answer) = [some false]
    ∧ (logged false false).Handles :=
  ⟨by unfold Memory.wf; decide +kernel, by decide +kernel, handles_of (by decide +kernel)⟩

/-- Two units hold the entry of a shoot-down, or one alone. -/
def shooting (units : List TlbUnit) : State :=
  { buffered with shootdowns := [{ id := 50, units := units, asid := none, va := none, warp := 1, pend := 0, tag := none, ctx := 0 }] }

theorem test_witness_MemoryEvents_directory :
    (∀ u ∈ [[TlbUnit.core 0 0 0, .die 0], [.core 0 0 0]], let s := shooting u
      (s.shootdowns.find? (·.id == 50)).map (·.units) = some u ∧ tlbUnitAt 0 ∈ u ∧ s.unitBusy (tlbUnitAt 0) = false
      ∧ (∀ x ∈ s.shootdowns, x.units ≠ []) ∧ s.shootdowns.length = 1)
    ∧ (∀ x ∈ base.warps, x.uid = 1) ∧ base.warps.length = 1 ∧ base.partials = [] ∧ base.findWarp 1 = some base.warp
    ∧ base.warp.resident = true ∧ base.warp.coreNo = 0
    ∧ ((homed none).homes.find? (·.page == 0x40000)).isSome = true
    ∧ (let h : PageHome := { page := 0x40000, size := 12, site := 1, moving := none, asker := none, writes := [(3, 1024), (1, 511)], since := 0 }
       let s := { base with homes := [h], clock := 0x100000 }
       h.since + 2 ^ 20 ≤ s.clock.toNat ∧ s.homes.find? (·.page == 0x40000) = some h ∧ (s.site 3).inService = true ∧ 2 * 511 < 1024)
    ∧ ((homed (some 3)).homes.find? (·.page == 0x40000)).map (·.moving) = some (some 3)
    ∧ (homed (some 3)).locksIn 0x40000 12 = false ∧ (homed (some 3)).lockWaits = []
    ∧ (let r : Region := { base := 0x100, size := 7, dies := [1], written := 0 }
       let s := { base with regions := [r, { r with base := 0x180 }], clock := 65536 }
       s.regions.find? (·.base == 0x100) = some r ∧ s.regions.find? (fun x => x.base == 0x180 && x.size == 7) = some { r with base := 0x180 }
       ∧ 65536 ≤ s.clock.toNat - r.written ∧ 0x100 + 2 ^ 7 = 0x180 ∧ 0x100 / 2 ^ 7 % 2 = 0)
    ∧ ((locked true).pageLocks.find? (fun p => p.page == 0x40000 && p.started)).map (·.size) = some 12
    ∧ 0x50000 % 2 ^ 12 = 0 := by decide +kernel

/-- Each of two warps holds a lock that the other waits for, with timers that ran out at 10. -/
def deadlocked : State :=
  let s := paired base
  { s with
    clock := 11
    contexts := s.contexts.map fun (c : Context) => { c with dlkperiod := 10 }
    locks := [{ line := 0x40000, va := 0x40000, holder := some 1, queue := [{ warp := 90, pend := 3, deadline := some 10 }], mark := false },
              { line := 0x40080, va := 0x40080, holder := some 90, queue := [{ warp := 1, pend := 0, deadline := none }], mark := false }]
    monitors := [{ id := 7, warp := 1, pend := 0, loc := 0x40000, q := 0, comparand := 1, deadline := some 10, table := false, checked := 0, fired := false }] }

theorem test_witness_MemoryEvents_timers :
    let s := deadlocked
    (((s.lockOf 0x40000).bind fun l => l.queue.find? (·.warp == 90)).map (·.deadline)) = some (some 10) ∧ s.clock = 11
    ∧ ((s.warps.filter (·.uid == 90)).length = 1) ∧ (s.monitors.map (fun m => (m.fired, m.deadline)) = [(false, some 10)])
    ∧ (s.context? 0).map (fun c => (c.num, c.dlkperiod, c.scanned)) = some (0, 10, 0) ∧ s.partials = [] ∧ s.cycles = []
    ∧ (s.monitors.find? fun k => k.id == 7 && !k.table).map (·.checked) = some 0 ∧ s.clock.toNat < 0 + 4096
    ∧ 0 + 4096 ≤ ({ s with clock := 4096 } : State).clock.toNat
    ∧ s.locks.map (fun k => (k.holder, k.queue.map (·.warp))) = [(some 1, [90]), (some 90, [1])]
    ∧ (s.findWarp 90).map (·.ctx) = some 0 ∧ (s.findWarp 1).map (·.ctx) = some 0
    ∧ (∀ k ∈ s.locks, s.frozen k.line k.parties = false) := by decide +kernel

/-! ## Witnesses: events of the engines -/

/-- The gang has one command, number 100, in the tensor engine's queue. -/
def command (kind : CmdKind) (cls : Fin 4) : Command :=
  commandOf base kind cls

def engine (kind : CmdKind) (cls : Fin 4) : State := { tensor with cmds := [command kind cls] }

/-- The slot at a place in memory that the supervisor has not mapped. -/
def far : Tsr := BitVec.ofNat 1024 (slab.toNat - 2 ^ 80 + 2 ^ 40)

/-- An index list of four words, the last of which names a row that the tensor lacks. -/
def listed : State := setMem (engine (.tgather slab [0, 0] 1 0x1000 0x2000) 1) (scratchBase base.warp.gang + 0x200C) (natToBytes 4 9)

/-- A page lock holds a write of the command. -/
def held (kind : CmdKind) : State :=
  { engine kind 0 with pageLocks := [{ pageLock true with held := [{ origin := .command 100, off := 0, kind := .bytes [1], bad := false }] }] }

/-- One run of dimension 0 ends without a stop, meets a fault, or meets a page that is not there; runs are left or not. -/
theorem test_witness_EngineCommandsRun_copies :
    let stop := fun (s : State) (kind : CmdKind) (n k : Nat) =>
      (s.runElems (s.engineAgent (command kind 0)) kind n k []).2
    let load := CmdKind.tload slab [0, 0] 1 0x1000
    (∀ s ∈ [engine load 0, listed], s.engineRuns (s.gang base.warp.gang) = true
        ∧ (s.commandOf base.warp.gang 100).map (fun c => (c.phase, c.done)) = some (.queued, 0))
    ∧ Tsr.total slab = 16 ∧ Tsr.box slab 0 = 4
    ∧ (held load).engineRuns ((held load).gang base.warp.gang) = true ∧ stop (held load) load 4 12 = none
    ∧ ((held load).runElems ((held load).engineAgent (command load 0)) load 4 12 []).1.holdsFor (.command 100) = true
    ∧ ((engine load 0).runElems ((engine load 0).engineAgent (command load 0)) load 4 12 []).1.holdsFor (.command 100) = false
    ∧ stop (engine load 0) load 4 0 = none ∧ stop (engine load 0) load 4 12 = none
    ∧ (stop listed (.tgather slab [0, 0] 1 0x1000 0x2000) 4 12).map
        (fun x => match x with | .page _ => Cause.illenc | .fault c _ => c) = some .range
    ∧ (stop (engine (.tzero far [0, 0]) 0) (.tzero far [0, 0]) 4 0).map
        (fun x => match x with | .page va => va | .fault _ _ => 1) = some (2 ^ 40) := by decide +kernel

/-- A descriptor at 0x100 of the scratchpad: three keys of two bytes at 0x200, the node 5, release, dimension 1. -/
def binned : State :=
  let s := engine (.gbin 1 0x100) 1
  let s := { s with
    cmds := s.cmds ++ [{ command (.tload slab [0, 0] 1 0x1000) 0 with id := 101, node := some 5, phase := .node }]
    gangs := s.gangs.map fun (g : Gang) => { g with nodes := g.nodes.set 5 { Node.free with state := .held, cmd := some 101 } } }
  let m := scratchBase base.warp.gang
  setMem (setMem s (m + 0x100) (natToBytes 8 0x200 ++ natToBytes 4 3 ++ natToBytes 2 1 ++ [0x81, 1, 5]))
    (m + 0x200) [0, 0, 7, 0, 0, 0]

theorem test_witness_EngineCommandsRun_gbin :
    let s := binned
    let a := s.engineAgent (command (.gbin 1 0x100) 1)
    let bytes := fun (lo n : Nat) => match (s.engineBytes a 1 lo n []).2 with | .ok b => b.map BitVec.toNat | .error _ => []
    bytes 0x100 16 = [0, 2, 0, 0, 0, 0, 0, 0, 3, 0, 0, 0, 1, 0, 0x81, 1] ∧ bytes 0x110 1 = [5]
    ∧ bytes 0x200 6 = [0, 0, 7, 0, 0, 0] ∧ s.patchable base.warp.gang 5 1 = true
    ∧ ((s.gang base.warp.gang).node 5).cmd = some 101 ∧ (s.command? 101).isSome = true := by decide +kernel

/-- The gigabyte at 1 GiB is peer 9's. -/
def remote (s : State) : State := setMem s 0x3008 (natToBytes 8 (9 * 2 ^ 52 + 0xD7))

/-- A descriptor of a step at 0x40000: 16 bytes from 0x50000 to the peer, op, type, collective 3, sequence 1, a flag. -/
def stepping (op : Nat) : State :=
  setMem (remote (engine (.cstep 0 0x40000) 3)) 0x40000
    (natToBytes 8 0x50000 ++ natToBytes 8 0x40000100 ++ natToBytes 4 16 ++ [BitVec.ofNat 8 op, 0, 0, 0] ++ natToBytes 4 3
      ++ natToBytes 4 1 ++ natToBytes 8 0x40000200)

/-- Slot 3 is pushed to entry 0 of a table that lies at 0x60000 and lands in the scratchpad of the package. -/
def pushing (target : Word64) : State := engine (.push slab [0, 0] target 0) 3

theorem test_witness_EngineCommandsRun_fabric :
    (∀ put ∈ [true, false],
      let s := remote (engine (if put then .put 0x40000FF0 32 0 0x50000 else .get 0x40000FF0 32 0 0x50000) 3)
      let a := s.engineAgent (command .mswap 3)
      (match (s.remotePeers a put ((pieces 0x40000FF0 32).map fun x => 0x40000FF0 + x.1)).2 with
        | .ok ps => ps == [9, 9]
        | .error _ => false) = true
      ∧ (match (s.findMany a (!put) (dwordFields 0 0x50000 32)).2 with | .ok ts => ts.length == 4 | .error _ => false) = true)
    ∧ (∀ op ∈ [0, 1],
      let s := stepping op
      let a := s.engineAgent (command .mswap 3)
      (match (s.engineBytes a 0 0x40000 64 []).2 with
        | .ok bs => descZero bs && (StepDesc.ofBytes bs).legal && (StepDesc.ofBytes bs).len == 16
            && !(s.context 0).failed.contains (StepDesc.ofBytes bs).collid
        | .error _ => false) = true
      ∧ (match (s.remotePeers a true ((pieces 0x40000100 16).map (0x40000100 + ·.1) ++ [0x40000200])).2 with
        | .ok ps => ps == [9, 9]
        | .error _ => false) = true
      ∧ (match (s.findMany a false (dwordFields 0 0x50000 16)).2 with | .ok _ => true | .error _ => false) = true)
    ∧ (∀ target ∈ [7, 0],
      let s := pushing (BitVec.ofNat 64 target)
      let a := s.engineAgent (command .mswap 3)
      (match (s.pushValues a slab [0, 0]).2 with | .ok vs => vs.length == 16 | .error _ => false) = true
      ∧ (s.fabric.fabid.toNat = target ↔ target = 0)) := by decide +kernel

/-- One FP32 element with entry 0 of the landing table at 0x60000, whose tensor lies at 0x70000. -/
def landing (s : State) : State :=
  let t : Tsr := BitVec.ofNat 1024 (0x70000 + 2 ^ 72 + 8 * 2 ^ 128 + 2 ^ 384 + 4 * 2 ^ 832)
  { setMem s 0x60000 (natToBytes 128 t.toNat ++ natToBytes 8 0 ++ natToBytes 2 (2 ^ 15) ++ [1]) with
    contexts := s.contexts.map fun (c : Context) => { c with landtbl := 0x60001 } }

/-- One element, of 4 bytes. -/
def single : Tsr := BitVec.ofNat 1024 (2 ^ 72 + 2 ^ 80 + 8 * 2 ^ 128 + 2 ^ 384 + 2 ^ 832)

theorem test_witness_EngineCommandsRun_selfPush :
    let s := landing (engine (.push single [0] 0 5) 3)
    let a := s.engineAgent (command .mswap 3)
    (match s.pushValues a single [0] with
      | (s₁, .ok vs) =>
        let sent := (s₁.charge 0 1 (ceilDiv (Tsr.total single * memBits (Tsr.fmt single)) 512)).mapCommand 100 fun d =>
          { d with phase := .sent }
        s₁.pageLocks.isEmpty && decide ((sent.receivePush (pushArrival sent 100 single 0 5 vs) [] (.selfPush 100)).2 = .done none)
      | _ => false) = true := by decide +kernel

theorem test_witness_EngineCommandsRun_elements :
    let s := engine (.tload slab [0, 0] 1 0x1000) 0
    let a := s.engineAgent (command .mswap 3)
    let f := Tsr.elem slab [1, 2]
    let d := Tsr.dense slab 1 0x1000 9
    f.whole = true ∧ d.whole = true ∧ f.width = d.width ∧ f.width = 32
    ∧ (match (s.fieldTargets a f false).2 with | .ok ts => ts.map (·.n) == [4] | .error _ => false) = true
    ∧ (match (s.fieldTargets a d true).2 with | .ok ts => ts.map (·.n) == [4] | .error _ => false) = true
    ∧ s.partials = [] ∧ s.pageLocks = [] ∧ (s.fieldTargets a f false).1.mem = s.mem ∧ (s.fieldTargets a d true).1.mem = s.mem
    ∧ (s.fieldTargets a f false).1.poison = s.poison ∧ (s.fieldTargets a d true).1.poison = s.poison ∧ s.mem.wf
    ∧ (let c := { command .mswap 3 with phase := .paused 5 0 true }
       let s := { s with cmds := [c] }
       s.commandOf base.warp.gang 100 = some c) := by unfold Memory.wf; decide +kernel

/-- The index word of row 2 of the list, at 0x2008, is at hand, or poisoned, or names a row that the tensor lacks. -/
def wordBad : State := { listed with poison := [(scratchBase base.warp.gang + 0x2008) / 8] }

/-- Box index (2, 1) is the seventh; a box that reaches past the tensor; an index word of TGATHER in each of its cases; a
command that a fault stops while a page lock holds a write of it. -/
theorem test_witness_EngineCommandsRun_geometry :
    let load := CmdKind.tload slab [0, 0] 1 0x1000
    let a := listed.engineAgent (command load 0)
    let word := fun b : Nat => Sys2Proof.Machine.Field.mk 1 (0x2000 + 4 * b) 0 32
    let bits := fun (s : State) (b : Nat) => match s.fieldTargets a (word b) false with
      | (r, .ok ts) => some (let q := r.readField a (word b) ts; (q.2.1, q.2.2))
      | (_, .error _) => none
    slotField slab 64 5 = 0 ∧ slotRank slab = 2 ∧ InBox slab [2, 1] ∧ denseIndex slab [2, 1] = 6
    ∧ insideOf slab (boxCoords slab [0, 0] [2, 1]) = true ∧ insideOf slab (boxCoords slab [6, 0] [2, 1]) = false
    ∧ slotField slab 88 1 = 0 ∧ bits listed 0 = some (0, false) ∧ bits listed 3 = some (9, false)
    ∧ bits wordBad 2 = some (0, true) ∧ (Tsr.setBox slab 1 7).extractLsb' 848 16 = 7#16
    ∧ (let s := held (.tgather slab [0, 0] 1 0x1000 0x2000)
       let s := setMem s (scratchBase base.warp.gang + 0x200C) (natToBytes 4 9)
       let r := s.runElems (s.engineAgent (command load 0)) (.tgather slab [0, 0] 1 0x1000 0x2000) 4 12 []
       (match r.2 with | some (.fault c _) => c == .range | _ => false) = true ∧ r.1.holdsFor (.command 100) = true) := by
  unfold InBox; decide +kernel

/-- Counter 0 holds three commands of class 1 and one of class 2, of which those listed have finished. -/
def counted (finished : List Nat) : State :=
  onW (handled base) fun w => { w with out := [(50, 1), (51, 2), (52, 1), (53, 1)].map fun q =>
    { cmd := q.1, cls := q.2, finished := finished.contains q.1 } }

theorem test_witness_CommandsRetire_counter :
    (∀ f ∈ [[50], [51], [52], []], (counted f).findWarp 1 = some (counted f).warp
        ∧ (counted f).warp.out.map (·.finished) = [50, 51, 52, 53].map f.contains)
    ∧ (counted []).warp.out.map (·.cls) = [1, 2, 1, 1] ∧ (counted []).warps.length = 1 := by decide +kernel

/-- Node 5 is released with no predecessor left. -/
def launched (kind : CmdKind) (cls : Fin 4) (patched : Bool) (s : State) : State :=
  { s with
    cmds := { command kind cls with node := some 5, phase := .node, patched := patched } :: s.cmds
    gangs := s.gangs.map fun (g : Gang) =>
      { g with nodes := g.nodes.set 5 { Node.free with state := .released, cmd := some 100 } } }

/-- A command of either engine, with room or without; a patched box that is empty, fits, or leaves the tensor. -/
theorem test_witness_CommandsRetire_nodes :
    let copy := fun n => CmdKind.tload (Tsr.setBox slab 1 n) [0, 0] 1 0x1000
    (∀ q ∈ [(CmdKind.mswap, (2 : Fin 4), false), (copy 4, 0, false), (copy 0, 0, true), (copy 8, 0, true), (copy 9, 0, true)],
      let s := launched q.1 q.2.1 q.2.2 (handled base)
      let h := s.gang base.warp.gang
      s.engineRuns h = true ∧ (h.node 5).state = .released ∧ (h.node 5).count = 0
      ∧ (s.command? 100).map (fun c => (c.cls, c.patched, c.node)) = some (q.2.1, q.2.2, some 5)
      ∧ s.reserved h < Config.reservationEntries)
    ∧ (let s := launched .mswap 2 false (crowd (handled base))
       Config.reservationEntries ≤ s.reserved (s.gang base.warp.gang) ∧ ((s.gang base.warp.gang).node 5).order = none)
    ∧ (let s := launched .mswap 2 false (handled base)
       s.launchedBefore (s.gang base.warp.gang) ((s.gang base.warp.gang).node 5) = false ∧ s.pageLocks = [])
    ∧ (let s := launched .mswap 2 false (crowd (handled base))
       let t := { s with gangs := s.gangs.map fun (g : Gang) => { g with nodes := g.nodes.modify 5 fun n => { n with order := some 7 } } }
       Config.reservationEntries ≤ t.reserved (t.gang base.warp.gang) ∧ ((t.gang base.warp.gang).node 5).order = some 7)
    ∧ (∀ n ∈ [0, 8, 9], let s := launched (copy n) 0 true (handled base)
        (((s.copyBreaches (s.engineAgent (command .mswap 0)) (copy n)).findSome? id).map (·.1) = if n = 9 then some .range else none)
        ∧ ((copy n).slot.map fun t => (List.range (Tsr.rank t)).any fun i => Tsr.box t i == 0) = some (decide (n = 0)))
    ∧ (handled base).warps.length = 1 := by decide +kernel

/-! ## Witnesses: the matrix engine, bands, the front end -/

/-- The gang's stream holds one command; its plane has two weights in one band, its bands are lit. -/
def granting (kind : CmdKind) (stopped : Bool) : State :=
  let plane : Plane := { Plane.empty with fmt := 15, mask := 1, weights := [(0, 3), (257, 5)] }
  let s := handled tensor
  { s with
    warp := { s.warp with pend :=
      [{ pendingOf (.command 100) with id := 4, dests := [.v 8, .v 9, .v 10] }] }
    cmds := [{ command kind 2 with pend := some 4 }]
    gangs := s.gangs.map fun (g : Gang) => { g with mx := { g.mx with
      stream := [100], active := plane, ashape := 1, cfg := 15, acc := [(16384 * 2 + 256 * 3 + 33, 7)], stopped := stopped } }
    sites := s.sites.set 0 { s.sites[0] with clusters := Vector.replicate 16 { Cluster.start with lit := 0xF } } }

theorem test_witness_MatrixGrants :
    (∀ kind ∈ [CmdKind.mswap, .mshape 3, .mcfg 15, .mzero 2, .mlds slab [0, 0], .mdrain 2 slab [0, 0] true 0 false,
        .mmul 0 2 2 1 0x1000, .mmul 1 2 1 1 0x1000, .mrdrow 2 3 1 1 [8, 9] 0xFFFF, .mrdrow 2 3 1 0 [8] 0xFFFF, .mstat 9],
      ∀ stopped ∈ [false, true],
      let s := granting kind stopped
      s.granted 0 0 = some { command kind 2 with pend := some 4 } ∧ s.engineRuns (s.gang base.warp.gang) = true
      ∧ (s.gang base.warp.gang).site = 0 ∧ (s.gang base.warp.gang).cluster = 0 ∧ (∃ h ∈ s.gangs, h.uid = base.warp.gang)
      ∧ (s.matrix base.warp.gang).stopped = stopped ∧ s.findWarp 1 = some (s.focus 1).warp ∧ (s.focus 1).warp.uid = 1
      ∧ (s.matrix base.warp.gang).accPoison = []) := by decide +kernel

/-- Of two heads of one priority, the one that entered the table first, though it was issued later. -/
theorem test_witness_MatrixGrants_tie :
    let s := granting .mswap false
    let other : Command := { command .mswap 2 with id := 101, gang := 77, entered := 50 }
    let s := { s with
      cmds := s.cmds ++ [other]
      gangs := s.gangs ++ (s.gangs.map fun (g : Gang) => { g with uid := 77, mx := { g.mx with stream := [101] } }) }
    s.granted 0 0 = some other ∧ (s.gangsOn 0 0).map (fun g => ((s.readyHead g).map (·.id), s.effectivePrio g)) =
      [(some 100, s.effectivePrio (s.gang 77)), (some 101, s.effectivePrio (s.gang 77))] := by decide +kernel

/-- A load fits its bands, a drain and a pass find what they read and write; the pass is integer. -/
theorem test_witness_MatrixGrants_data :
    (let s := granting (.mlds slab [0, 0]) false
     Tsr.scales slab = false ∧ Tsr.zpts slab = false ∧ Tsr.sparse slab = false
     ∧ Tsr.box slab 1 ≤ bandDepth (Tsr.fmt slab) false * bandCount (s.matrix base.warp.gang).ashape ∧ Tsr.box slab 0 ≤ 256
     ∧ (match (s.readMany (s.engineAgent (command .mswap 2))
          ((loadedCells slab [0, 0]).map fun y => Tsr.elem slab (Tsr.coords slab [0, 0] [y.1, y.2])) []).2 with
        | .ok vs => vs.length == 16
        | .error _ => false) = true)
    ∧ (let s := granting (.mdrain 2 slab [0, 0] true 0 false) false
       (s.drainElems (s.engineAgent (command .mswap 2)) (s.matrix base.warp.gang) 2 slab [0, 0] true 0 false []
         (loadedCells slab [0, 0]) []).2 = none)
    ∧ (∀ mode ∈ [0, 1, 2], let s := granting (.mmul mode 2 2 1 0x1000) false
        (match (s.passInputs (command .mswap 2) mode 2 1 0x1000).2 with
          | .ok p => p.m == 2 && p.acts.length == 2 * 128
          | .error _ => false) = true
        ∧ integerPass (s.matrix base.warp.gang).cfg (s.matrix base.warp.gang).active = true) := by decide +kernel

/-- The head has waited for a step and a cycle more; a band is wanted; one is needed and dark. -/
theorem test_witness_BandsAndAges :
    (let s := { granting .mswap false with clock := 256 }
     let x := s.matrix base.warp.gang
     x.stream ≠ [] ∧ x.headSince + 256 * (x.age + 1) = s.clock.toNat)
    ∧ (let s := { base with clock := 64 }
       let s := { s with gangs := s.gangs.map fun (g : Gang) => { g with mx := { g.mx with ashape := 1 } } }
       (∀ x < 16, s.bandsNeeded 0 x &&& ~~~((s.site 0).cluster x).lit &&& ~~~((s.site 0).cluster x).wanted
          = if x = 0 then (1 <<< 0 : BitVec 4) else 0)
       ∧ (∀ x < 16, (((s.site 0).cluster x).lit ||| ((s.site 0).cluster x).wanted) &&& ~~~(s.bandsNeeded 0 x) = 0)
       ∧ litCount (s.site 0) < s.siteBudget 0 ∧ (s.site 0).rampAt = none) := by decide +kernel

/-- Queue 5 holds a record at 0x60000: a grid of two gangs for any site at level 1, or a bad level. -/
def queued (level stat : Nat) : State :=
  setMem (ring base 0 1) 0x60000
    (natToBytes 8 0x10000 ++ natToBytes 4 2 ++ natToBytes 4 1 ++ natToBytes 4 1 ++ [1, 1, BitVec.ofNat 8 level, 3, 64, 0, 0, 0]
      ++ natToBytes 4 0 ++ natToBytes 4 0 ++ [0xFF] ++ List.replicate 67 0 ++ natToBytes 8 stat)

/-- A queue's tail may move on, or passes its ring, its head, or falls behind. -/
theorem test_witness_QueueEvents :
    (let bad := fun (s : State) (v : BitVec 32) =>
       let u := s.queue 5
       decide (u.size = 0 ∨ 2 ^ u.size < (v - u.head).toNat ∨ 2 ^ 31 ≤ (v - u.tail).toNat ∨ 2 ^ u.size < (v - u.tail).toNat)
     bad base 0 = true ∧ bad (ring base 0 15) 16 = false ∧ bad (ring base 0 15) 17 = true ∧ bad (ring base 0 15) 14 = true
     ∧ bad (ring base 0 15) 15 = false)
    ∧ (∀ q ∈ [(1, 0), (3, 0), (1, 0x50000), (3, 0x50000), (1, 8), (1, 0x7F00000000)], let s := queued q.1 q.2
      s.nextQueue = some 5 ∧ (∀ g ∈ s.grids, g.ticket ≠ ticketOf 5 (s.queue 5).head)
      ∧ (s.slotPlace 5 (s.queue 5).head false).2 = some (0x60000, 0) ∧ s.partials = [] ∧ s.poison = [] ∧ s.mem.wf
      ∧ (let r := LaunchRecord.ofBytes (s.mem.readBytes 0x60000 128)
         (r.level, r.stataddr, r.statLegal, s.launchStatus r) = (q.1, q.2, decide (q.2 ≠ 8),
           if q.2 = 8 then some 3 else if q.1 = 1 then none else some 2))) := by unfold Memory.wf; decide +kernel

/-- A gang is offered, and a warp waits at a page. -/
theorem test_witness_QueueEvents_waits :
    (let o : Offer := { index := 0, since := 0, patience := false }
     let s := { base with clock := 16384, grids := base.grids.map fun (g : Grid) => { g with offers := [o] } }
     o.since + (s.context (s.grid probeTicket).ctx).affpat.toNat = s.clock.toNat ∧ (s.grid probeTicket).offers = [o]
     ∧ s.grids.map (·.ticket) = [probeTicket])
    ∧ (let s := onW base fun w => { w with stall := some 7 }
       s.warps.length = 1 ∧ s.warp.stall = some 7 ∧ ∀ g ∈ s.grids, g.wait ≠ some 7) := by decide +kernel

/-! ## Witnesses: gangs, gating, leases, power, tokens -/

def pairRecord (flags : Nat) : LaunchRecord :=
  { LaunchRecord.blank with
    entry := 0x10000, gx := 2, gang := 2, wgsize := 2, stack := 32, acc := 4, nodes := 3, affmask := 2, flags := flags, args := 7 }

/-- Records that fail each check of R281 and one that passes; dependences on grids that ended well or not, that run, that the
queue has not reached, and that lie too far back. -/
theorem test_witness_QueueEvents_checks :
    (∀ q : LaunchRecord × Option Nat, q ∈ [({ pairRecord 0 with vregs := 0 }, some 3), ({ pairRecord 0 with affmask := 0 }, some 1),
        ({ pairRecord 0 with level := 3 }, some 2), ({ pairRecord 1 with gx := 65536 }, some 4), (pairRecord 0, none)] →
      base.launchStatus q.1 = q.2)
    ∧ (let ended := fun (k : Nat) (o : Option Nat) => { Grid.none with ticket := 2 ^ 63 + 5 * 2 ^ 32 + k, status := o }
       let r := ring base 0 4
       let s := { r with
         queues := r.queues.set 6 { Queue.start with tail := 65536 }
         grids := base.grids ++ [ended 0 (some 5), ended 1 none, ended 2 (some 0)] }
       [0, 1, 2, 4].map (fun k => s.depState (2 ^ 63 + 5 * 2 ^ 32 + k)) = [DepState.failed, .waits, .met, .waits]
       ∧ s.depState (2 ^ 63 + 6 * 2 ^ 32) = .met) := by decide +kernel

/-- A grid of two gangs of two workgroups, that may go to the sites of its mask. -/
def pairGrid (flags mask next : Nat) : Grid :=
  { Grid.none with ticket := 2 ^ 63 + 5, record := pairRecord flags, mask := mask, next := next, ready := true }

def gridded (flags mask : Nat) : State := { base with grids := base.grids ++ [pairGrid flags mask 0] }

/-- Gang 0 of that grid has left its cluster. -/
def displaced (phase : GangPhase) : State :=
  { base with
    grids := base.grids ++ [{ pairGrid 0 2 1 with placed := 1 }]
    gangs := base.gangs ++ [{ Gang.none with
      uid := 70, grid := 2 ^ 63 + 5, phase := phase, wgs := 2, acc := 4, nodes := List.replicate 3 Node.free }]
    others := [{ mate with gang := 70, resident := false }] }

/-- A gang of a CORES grid that was swapped out, whose monitor has matched. -/
def swappedCores : State :=
  let s := displaced .swapped
  { s with
    grids := base.grids ++ [{ pairGrid 1 2 1 with placed := 1 }]
    others := s.others.map fun w => { w with pend := [{ pendingOf (.monitor 7) with ready := true }] } }

theorem test_witness_GangsPlaced :
    (∀ q ∈ [(0, 2), (0, 0), (1, 2)], let s := gridded q.1 q.2
      let g := s.grid (2 ^ 63 + 5)
      s.settleDeps = s ∧ s.grids.map (·.ticket) = [probeTicket, 2 ^ 63 + 5]
      ∧ s.gangs.find? (fun h => h.grid == 2 ^ 63 + 5 && h.index == 0 && h.phase != .retired) = none ∧ g.status = none
      ∧ g.ready = true ∧ s.yieldsTo g = false ∧ g.record.cores = decide (q.1 = 1) ∧ g.next = 0 ∧ 0 < g.gangCount
      ∧ g.placed = 0 ∧ g.offers = []
      ∧ (s.spotFor g g.record.footprint (g.next) (s.patient g { index := 0, since := s.clock.toNat, patience := false })).isSome = decide (q.2 ≠ 0))
    ∧ (∀ q ∈ [(0, false), (2, true)], let s := gridded 1 q.1
       let g := s.grid (2 ^ 63 + 5)
       let first : Offer := { index := 0, since := s.clock.toNat, patience := false }
       s.offerOf g 0 = first ∧ (s.placeWhole g 0x30000 (s.patient g first)).isSome = q.2)
    ∧ (let s := displaced .preempted
       s.settleDeps = s ∧ s.grids.map (·.ticket) = [probeTicket, 2 ^ 63 + 5]
       ∧ (∃ h ∈ s.gangs, s.gangs.find? (fun h => h.grid == 2 ^ 63 + 5 && h.index == 0 && h.phase != .retired) = some h
          ∧ (s.resume h).isSome = true ∧ s.requeued h = true ∧ s.waitsFor h = false ∧ (s.grid (2 ^ 63 + 5)).record.cores = false))
    ∧ (let s := swappedCores
       s.settleDeps = s ∧ (s.grid (2 ^ 63 + 5)).record.cores = true ∧ (s.resumeWhole (s.grid (2 ^ 63 + 5))).isSome = true
       ∧ (∃ h ∈ s.gangs, s.gangs.find? (fun h => h.grid == 2 ^ 63 + 5 && h.index == 0 && h.phase != .retired) = some h
          ∧ h.phase = .swapped ∧ s.requeued h = true ∧ s.waitsFor h = false)) := by decide +kernel

/-- The gang's only warp has parked; its quantum is one unit of 1,024 cycles, and another gang of its priority waits. -/
def elapsed (halted : Bool) (clock : Nat) : State :=
  { base with
    clock := BitVec.ofNat 64 clock
    queues := base.queues.set 0 { Queue.start with quant := 1 }
    grids := base.grids.map fun (g : Grid) => { g with queue := 0 }
    sites := base.sites.set 0 { base.sites[0] with halted := halted }
    warp := { base.warp with
      pend := [{ pendingOf (.monitor 7) with dests := [] }]
      frag := { base.warp.frag with block := some 0 } }
    gangs := base.gangs.map fun (g : Gang) => { g with parkedSince := some 0 } }

/-- The same with a grid that wants all eight tiles of each cluster of site 0, all of which are taken. -/
def contested : State :=
  let s := elapsed false 1024
  { s with
    grids := s.grids ++ [{ pairGrid 0 1 0 with record := { pairRecord 0 with gang := 1, acc := 8, nodes := 0, affmask := 1 } }]
    sites := s.sites.set 0 { s.sites[0] with harvest := 0xFFFE } }

theorem test_witness_GangsLeave :
    base.Distinct ∧ base.Settled base.warp.gang
    ∧ (busy base (pendingOf .result)).Settled base.warp.gang ∧ ¬ (busy base (pendingOf (.command 3))).Settled base.warp.gang
    ∧ (∀ q ∈ [(false, 1023), (true, 1024), (false, 1024), (false, 262145)], let s := elapsed q.1 q.2
      let h := s.gang base.warp.gang
      let quant := (s.queue (s.grid h.grid).queue).quant
      h.phase = .resident ∧ h.leaving = none ∧ (s.site h.site).halted = q.1 ∧ quant = 1
      ∧ decide (s.clock.toNat < h.placedAt + quant.toNat * 1024) = decide (q.2 = 1023)
      ∧ s.parkedOut h = decide (q.2 = 262145) ∧ (s.grid h.grid).record.cores = false ∧ s.placeable (s.grid h.grid).prio false = false
      ∧ s.Settled base.warp.gang) := by
  unfold State.Distinct State.Single State.Settled; decide +kernel

/-- The gang gives way: without it there is room; it is not parked, or has a warp in debug stop, or there is room already. -/
theorem test_witness_GangsLeave_quantum :
    (let s := contested
     let h := s.gang base.warp.gang
     h.phase = .resident ∧ (s.queue (s.grid h.grid).queue).quant = 1 ∧ h.leaving = none ∧ h.placedAt + 1024 ≤ s.clock.toNat
     ∧ (s.warpsOf base.warp.gang).all (fun w => !w.debugStop) = true ∧ (s.site h.site).halted = false
     ∧ s.placeable (s.grid h.grid).prio false = false ∧ s.Distinct ∧ s.Settled base.warp.gang
     ∧ (let t := s.vacate base.warp.gang .preempted
        { t with gangs := t.gangs.filter (·.uid != base.warp.gang) }.placeable (s.grid h.grid).prio false) = true)
    ∧ (let s := elapsed false 1024
       let t := s.vacate base.warp.gang .preempted
       { t with gangs := t.gangs.filter (·.uid != base.warp.gang) }.placeable 0 false = false) := by
  unfold State.Distinct State.Single State.Settled; decide +kernel

/-- Both gangs of a CORES grid, of which one has not parked, or both have. -/
def coresPair (both : Bool) : State :=
  let s := elapsed false 262145
  { s with
    grids := s.grids.map fun (g : Grid) => { g with record := { g.record with flags := 1 } }
    gangs := s.gangs ++ [{ Gang.none with
      uid := 70, grid := probeTicket, index := 1, phase := .resident, cluster := 1, parkedSince := if both then some 0 else none }]
    others := [{ mate with
      gang := 70, cluster := 1, pend := if both then s.warp.pend else []
      frag := { mate.frag with block := if both then some 0 else none } }] }

theorem test_witness_GangsLeave_cores :
    ∀ both ∈ [false, true], let s := coresPair both
      let h := s.gang base.warp.gang
      s.Distinct ∧ h.phase = .resident ∧ s.parkedOut h = true ∧ (s.grid h.grid).record.cores = true
      ∧ s.gangs.map (fun m => (m.grid == h.grid, s.swapsWith m, m.phase)) = [(true, true, .resident), (true, both, .resident)]
      ∧ (∀ m ∈ s.gangs, (s.site m.site).halted = false ∧ m.leaving = none ∧ s.Settled m.uid) := by
  unfold State.Distinct State.Single State.Settled; decide +kernel

/-- The warp has neither fragments nor commands; it holds a fault or none; its context is marked for debugging or not. -/
def spent (faults : List HeldFault) (debug : Bool) : State :=
  let s := guest base debug
  onW s fun w => { w with frag := { w.frag with mask := 0 }, exited := 0xFFFFFFFF, heldFaults := faults }

theorem test_witness_GangsLeave_warps :
    (∀ q ∈ [([], false), ([{ cls := 1, seq := 0, pc := 0x10000, cause := .range, addr := 0 }], false),
        ([{ cls := 1, seq := 0, pc := 0x10000, cause := .range, addr := 0 }], true)], let s := spent q.1 q.2
      s.findWarp 1 = some s.warp ∧ s.warp.resident = true ∧ s.warp.usedFrags = [] ∧ s.warp.park = [] ∧ s.warp.debugStop = false
      ∧ s.warp.trap = none ∧ s.warp.out = [] ∧ s.warp.stall = none ∧ s.warp.raising = none ∧ s.lanesLanded 1 = true
      ∧ s.warp.heldFaults = q.1
      ∧ (s.context s.warp.ctx).debug = q.2 ∧ (∃ k ∈ s.gangs, k.uid = s.warp.gang) ∧ (s.gang s.warp.gang).phase ≠ .retired
      ∧ s.warps.length = 1) := by decide +kernel

/-- Cluster `cl` of site 0 stands at a gate since cycle 5, at a clock. -/
def gating (s : State) (cl : Nat) (gate : Gate) (clock : Nat) : State :=
  { s with
    clock := BitVec.ofNat 64 clock
    sites := base.sites.set 0 { base.sites[0] with
      clusters := base.sites[0].clusters.set! cl { Cluster.start with gate := gate, gateAt := 5 } } }

/-- Every step of gating, of a cluster without gangs, of one whose gang runs, and of one that a monitor calls, in the cycle of
isolation and later. -/
theorem test_witness_ClusterGating :
    base.Distinct
    ∧ (∀ gate ∈ [Gate.awake, .clockStopped, .spilled, .isolated, .off, .waking], ∀ cl ∈ [0, 1], ∀ clock ∈ [5, 2404, 2405],
      let s := gating base cl gate clock
      ((s.site 0).cluster cl).gate = gate ∧ ((s.site 0).cluster cl).gateAt = 5 ∧ (s.site 0).halted = false
      ∧ (∀ g ∈ s.gangs, g.site = 0 ∧ g.cluster = 0 ∧ g.phase = .resident ∧ s.monitorDone g.uid = false)
      ∧ allParked (s.warpsOf base.warp.gang) = false ∧ s.clusterCalled 0 cl = false)
    ∧ (∀ clock ∈ [5, 6], let s := gating fired 0 .isolated clock; s.clusterCalled 0 0 = true ∧ s.clock.toNat = clock)
    ∧ (let s : State := { fired with
        sites := base.sites.set 0 { base.sites[0] with clusters := Vector.replicate 16 { Cluster.start with gate := .off } } }
       s.clusterCalled 0 0 = true ∧ s.clusterCalled 0 1 = false ∧ ((s.site 0).cluster 1).gate = .off) := by
  unfold State.Distinct State.Single; decide +kernel

/-- A gang waits for site 0, whose only cluster beside the busy one is dark, for as long as makes a wake due, or less. -/
def dark (clock : Nat) : State :=
  let r := { pairRecord 0 with gang := 1, acc := 8, affmask := 1 }
  let g := { pairGrid 0 1 1 with record := r, offers := [{ index := 0, since := 0, patience := false }] }
  { gating base 1 .off clock with grids := base.grids ++ [g] }

theorem test_witness_ClusterGating_wake :
    (∀ clock ∈ [2399, 2400], let s := dark clock
      ((s.site 0).cluster 1).gate = .off ∧ s.wanted 0 2400 1 = decide (clock = 2400) ∧ s.wanted 0 0 1 = true
      ∧ s.clusterCalled 0 1 = false ∧ (s.site 0).halted = false)
    ∧ (let s := gating base 1 .off 2400; s.wanted 0 0 1 = false ∧ s.clusterCalled 0 1 = false) := by decide +kernel

/-- A warp whose lease has its window, its wait or its activity at the boundary. -/
def leased (active queued forced : Bool) (clock : Nat) : State :=
  onW { base with clock := BitVec.ofNat 64 clock } fun w => { w with
    lease := { w.lease with active := active, queued := queued, forced := forced, lines := [0x40000, 0x40080], window := clock } }

theorem test_witness_LeasesPowerTokens :
    (∀ q ∈ [(true, 4095), (true, 4096), (false, 64511), (false, 64512), (true, 1023), (true, 1024)],
      let s := leased q.1 (!q.1) q.1 q.2
      s.findWarp 1 = some s.warp ∧ s.warps.length = 1 ∧ s.warp.lease.active = q.1 ∧ s.warp.lease.window = q.2 ∧ s.rotates s.warp = true
      ∧ s.warp.lease.since = 0 ∧ s.warp.resident = true ∧ s.warp.live = true ∧ s.warp.holdsLock = false
      ∧ s.clock.toNat = q.2)
    ∧ (let s := leased false true false 0
       (s.leaseQueue s.warp.coreNo).map (·.uid) = [1] ∧ s.leaseFits s.warp [] = true
       ∧ ∀ v ∈ s.rotated s.warp.coreNo, v.exempt = false ∧ v.lease.queued = true) := by decide +kernel

/-- The controller has taken its steps and evaluates; one cluster stands higher than the rest. -/
def powered (steps : List PowerStep) : State :=
  { base with
    clock := 8192
    power := { bandCut := 8, idle := 1, steps := steps, since := 0 }
    sites := base.sites.set 3 { base.sites[3] with
      clusters := base.sites[3].clusters.set! 2 { Cluster.start with granted := 5, lowered := 1 } } }

theorem test_witness_LeasesPowerTokens_power :
    (∀ steps ∈ [[], [.lower [(3, 2)]], [.bands], [.idle, .bands]], (powered steps).power.steps = steps
        ∧ (powered steps).power.since + 8192 ≤ (powered steps).clock.toNat)
    ∧ ({ powered [] with clock := 8191 } : State).clock.toNat < (powered []).power.since + 8192
    ∧ base.contexts.map (·.num) = [0]
    ∧ (let s := powered []
       ((List.range 8).all fun i => (List.range 16).all fun c => ((s.site i).cluster c).granted ≤ 5) = true
       ∧ ((s.site 3).cluster 2).granted = 5)
    ∧ (let c := { Context.start 0 with llcGated := 2, llcReads := 79, llcMisses := 10 }
       c.llcSince + 65536 ≤ 65536 ∧ c.llcReads < 8 * c.llcMisses)
    ∧ (let c := { Context.start 0 with buckets := (Vector.replicate 4 ⟨3, 9, 9, 0, 0⟩).set 1 ⟨0, 9, 0, 0, 0⟩ }
       let s := { base with contexts := [c] }
       s.context? 0 = some c ∧ c.buckets[(0 : Fin 4)].rate ≠ 0 ∧ c.buckets[(0 : Fin 4)].depth ≠ 0
       ∧ c.buckets[(1 : Fin 4)].rate = 0) := by decide +kernel

/-! ## Witnesses: the fabric, the mailbox, errors and reset -/

/-- The gigabyte at 1 GiB may only be read; the page at 0x50000 is homed on a fenced die; the granule at 0x61008 is
poisoned. -/
def peered (s : State) : State :=
  { setMem s 0x3008 (natToBytes 8 0x40000013) with
    homes := [{ page := 0x50000, size := 12, site := 1, moving := none, asker := none, writes := [], since := 0 }]
    sites := s.sites.set 1 { s.sites[1] with fenced := true }
    poison := [0x61008 / 8] }

def served (s : State) : State :=
  { s with fabric := { s.fabric with
      served := [{ sender := 9, ident := 3, result := 0 }], steps := [{ sender := 9, collid := 3, seq := 1 }] } }

/-- The page at 0x40000 is under migration, and holds a write of another arrival. -/
def moving (s : State) : State :=
  { s with pageLocks := [{ page := 0x40000, size := 12, started := true, warp := 1, pend := 0, copied := none
                           held := [{ origin := .arrival 0, off := 0, kind := .bytes [1], bad := false }] }] }

/-- How an access of a peer is found: at a place, on a fenced die or not, or with a cause. -/
def found (op : FabricOp) : Nat × Bool × Option Cause :=
  let s := peered base
  let (va, n, align, r, w) := inboundAccess op
  match { s with nextUid := s.nextUid + 1 }.reach (remoteAgent 0 (.arrival s.nextUid)) 0 va n align r w with
  | (x, .at_ loc _ _) => (loc, x.onFenced loc, none)
  | (_, .fails c) => (0, false, some c)

theorem test_witness_PeerArrivals_access :
    let s := peered base
    (s.knowsTx 9 3 = false ∧ (served s).knowsTx 9 3 = true ∧ s.context? 0 ≠ none ∧ s.context? 7 = none)
    ∧ found (.store 0x40000 [1, 2]) = (0x40000, false, none) ∧ found (.load 0x40000 8) = (0x40000, false, none)
    ∧ found (.amo 9 3 0x40000 0) = (0x40000, false, none) ∧ found (.store 0x50000 [1]) = (0x50000, true, none)
    ∧ found (.load 0x61008 4) = (0x61008, false, none) ∧ s.poisoned 0x61008 4 = true
    ∧ found (.store 0x40000000 [1]) = (0, false, some .prot) ∧ found (.amo 0 0 0x40002 0) = (0, false, some .align)
    ∧ found (.load 0x80000000 1) = (0, false, some .pagefault)
    ∧ (s.pageLocks = [] ∧ s.partials = [] ∧ s.poisoned 0x40000 8 = false ∧ s.mem.wf)
    ∧ (let m := moving s
       m.pageLockOf 0x40000 ≠ none ∧ m.holdsFor (.arrival s.nextUid) = false ∧ m.holdsFor (.arrival 0) = true
       ∧ m.onFenced 0x40000 = false) := by unfold Memory.wf; decide +kernel

/-- One element for entry 0, for an entry beyond the table, and for a table that is not mapped. -/
def pushed (entry : Nat) (origin : Word64) : PushArrival :=
  { sender := 9, ident := 4, ctx := 0, entry := entry, origin := origin, fmt := 0, rank := 1, box := [1], codes := [5] }

theorem test_witness_PeerArrivals_push :
    let s := peered (landing base)
    let far : State := { s with contexts := s.contexts.map fun (c : Context) => { c with landtbl := 0x80000001 } }
    let gives := fun (s : State) (p : PushArrival) => (s.receivePush p [] (.push 9 4)).2
    s.knowsTx 9 4 = false ∧ gives s (pushed 0 5) = .done none
    ∧ gives s (pushed 1 5) = .stopped (.fault .range 0) ∧ gives s (pushed 0 8) = .stopped (.fault .range 0)
    ∧ gives far (pushed 0 5) = .stopped (.page 0x80000000)
    ∧ gives { s with homes := s.homes.map fun (h : PageHome) => { h with page := 0x70000 } } (pushed 0 5) = .dropped
    ∧ arrivalCount (pushed 0 5) = 1
    ∧ (let a := remoteAgent 0 (.arrival s.nextUid)
       match { s with nextUid := s.nextUid + 1 }.landingOf a (pushed 0 5) with
        | (s₁, .ok e) =>
          let f := fun o : Nat => Tsr.elem e.dtsr (e.coords 1 (BitVec.ofNat 64 o) (arrivalIndex (pushed 0 0) 0))
          let inside := fun o : Nat => Tsr.inside e.dtsr (e.coords 1 (BitVec.ofNat 64 o) (arrivalIndex (pushed 0 0) 0))
          e.flag == 0 && inside 0 && inside 7 && !inside 8 && (f 7).whole
          && decide ((s₁.landable a [f 7] 0).2 = .done none)
          && (match ((s₁.landable a [f 7] 0).1.fieldTargets a (f 7) true).2 with
              | .ok ts => ts == [{ loc := 0x7001C, n := 4, kind := 0, peer := 0 }]
              | .error _ => false)
        | _ => false) = true
    ∧ s.pageLocks = [] ∧ s.partials = [] ∧ s.mem.wf := by unfold Memory.wf; decide +kernel

/-- A tensor that drops what falls outside it. -/
theorem test_witness_PeerArrivals_clip :
    let s := landing base
    let s := setMem s 0x6000B [1]
    (match { s with nextUid := s.nextUid + 1 }.landingOf (remoteAgent 0 (.arrival s.nextUid)) (pushed 0 8) with
      | (_, .ok e) => Tsr.clip e.dtsr && !Tsr.inside e.dtsr (e.coords 1 8 (arrivalIndex (pushed 0 8) 0)) && e.flag == 0
      | _ => false) = true := by decide +kernel

/-- Four elements of a box of two by two, whose dimensions the entry exchanges, and the flag at 0x62000. -/
def crossed : PushArrival :=
  { sender := 9, ident := 4, ctx := 0, entry := 0, origin := 5, fmt := 0, rank := 2, box := [2, 2], codes := [1, 2, 3, 4] }
def crossing (s : State) : State :=
  let t : Tsr := BitVec.ofNat 1024 (0x70000 + 2 * 2 ^ 72 + 8 * 2 ^ 128 + 8 * 2 ^ 160 + 2 ^ 384 + 8 * 2 ^ 448 + 4 * 2 ^ 832 + 4 * 2 ^ 848)
  { setMem s 0x60000 (natToBytes 128 t.toNat ++ natToBytes 8 0x62000 ++ natToBytes 2 (2 ^ 15) ++ [1, 0] ++ natToBytes 4 1) with
    contexts := s.contexts.map fun (c : Context) => { c with landtbl := 0x60001 } }

theorem test_witness_PeerArrivals_elements :
    let s := crossing base
    let a := remoteAgent 0 (.arrival s.nextUid)
    (match { s with nextUid := s.nextUid + 1 }.landingOf a crossed with
      | (s₁, .ok e) =>
        let ys := [[5, 0], [5, 1], [6, 0], [6, 1]]
        let into := ([0, 1, 2, 3].zip ys).map fun q => (q.1, elementOf e.dtsr (q.2.map Int.ofNat))
        e.perm == 1 && ys.all (fun y => insideOf e.dtsr (y.map Int.ofNat))
        && (match s₁.landable a (into.map (·.2)) e.flag with
          | (s₂, .done f) => decide (f = some (0, 0x62000)) && !s₂.poisoned 0x62000 4
            && (landsAt a crossed [2] s₂ into).map (fun ws => ws.map (·.1)) == some [0x70014, 0x70034, 0x70018, 0x70038]
          | _ => false)
      | _ => false) = true := by decide +kernel

def arriving (op ty rdst rflag : Nat) (data : List Byte) : StepArrival :=
  { sender := 9, ctx := 0, collid := 3, seq := 1, op := op, ty := ty, rdst := rdst, rflag := rflag, data := data }

theorem test_witness_PeerArrivals_steps :
    let s := peered base
    let h := { s with nextUid := s.nextUid + 1 }
    let a := remoteAgent 0 (.arrival s.nextUid)
    let data := List.replicate 8 (1 : Byte)
    let stop := fun t => h.stepStop a (stepPlaces t)
    let two := List.replicate 16 (1 : Byte)
    let lands := fun (s : State) t => (stepsAt a t s (List.range (t.data.length / if t.op = 0 then 8 else typeBytes t.ty))).map
      fun ws => ws.map fun w => (w.1, w.2.length)
    (lands h (arriving 0 0 0x40000 0 two) = some [(0x40000, 8), (0x40008, 8)]
      ∧ lands h (arriving 1 0 0x40000 0x40100 two) = some [(0x40000, 4), (0x40004, 4), (0x40008, 4), (0x4000C, 4)]
      ∧ lands h (arriving 2 1 0x61000 0 two) = some [(0x61000, 4), (0x61004, 4), (0x61008, 0), (0x6100C, 0)])
    ∧ (s.knowsStep (arriving 0 0 0x40000 0 data) = false ∧ (served s).knowsStep (arriving 0 0 0x40000 0 data) = true)
    ∧ (∀ q ∈ [(0, 0, 8), (1, 0, 4), (3, 7, 8)], (data.take q.2.2).length = stepWidth q.1 q.2.1)
    ∧ stop (arriving 0 0 0x40000 0 data) = none ∧ stop (arriving 0 0 0x40000 0x40100 []) = none
    ∧ stop (arriving 0 0 0x40000000 0 data) = some (.prot, 0x40000000)
    ∧ stop (arriving 0 0 0x50000 0 data) = some (.prot, 0x50000)
    ∧ stop (arriving 0 0 0x80000000 0 data) = some (.pagefault, 0x80000000)
    ∧ (h.reach a 0 0x40000 8 8 false true).2 = .at_ 0x40000 0 0
    ∧ (h.flagPlace a 0x40100).2 = .ok (some (0, 0x40100)) ∧ (h.flagPlace a 0).2 = .ok none ∧ s.poisoned 0x40100 4 = false
    ∧ s.partials = [] ∧ s.mem.wf := by unfold Memory.wf; decide +kernel

/-- A load of four bytes by lanes 0 and 31 from peer 9; each lane is a transaction. -/
def asking : State :=
  (after (exec (.ld 8 16 5 2 0 false) (remote (spread (handled base) 0x40000000)))).getD base

/-- The transaction of a lane of `asking`. -/
def laneTx (lane : Nat) : Option Transaction := asking.fabric.tx.find? fun t => match t.kind with
  | .lane _ _ l _ _ _ => l == lane
  | .command _ _ => false

/-- Each lane has one part, at the peer; the later one waits for the earlier one. -/
theorem test_witness_PeerAnswers_lanes :
    (∀ lane ∈ [0, 31], ((laneTx lane).any fun t => match t.kind with
      | .lane w p l part loc job =>
        let s := asking.dropTx t.id
        let f := s.focus w
        let g := job.farTarget part loc t.peer
        w == 1 && t.peer == 9 && part == 0 && l == lane && g.n == 4 && asking.earlierLane t w == decide (lane ≠ 0)
          && decide ((s.findWarp w) = some f.warp) && f.warp.uid == w && f.poison.isEmpty
          && f.partials.isEmpty && f.pageLocks.isEmpty && f.warp.pend.any (·.id == p)
          && (match job.kind with | .load _ => true | _ => false)
      | .command _ _ => false) = true)
    ∧ asking.mem.wf ∧ (asking.context? 0).map (·.retrymax) = some 3
    ∧ causeOf 0 = none ∧ causeOf 6 = some .prot ∧ causeOf 15 = some .poison := by unfold Memory.wf; decide +kernel

/-- An atomic that returns the old value, a reduction, or a store, at the peer. -/
def asked (i : Instr) : State :=
  let s := setV (remote (spread (handled base) 0)) 16 fun l => BitVec.ofNat 32 (0x40000000 + 16 * l.val)
  (after (exec i s)).getD base

theorem test_witness_PeerAnswers_atomics :
    ∀ q ∈ [(Instr.aadd 8 16 20 0 false false, true), (.radd 16 20 0 false false, false), (.st 8 16 5 2 0 false, false)],
      let s := asked q.1
      (s.fabric.tx.any fun t => match t.kind with
        | .lane w p l part loc job =>
          let u := s.dropTx t.id
          let f := u.focus w
          let g := job.farTarget part loc t.peer
          t.peer == 9 && part == 0 && l == 0 && !s.earlierLane t w && decide (u.findWarp w = some f.warp) && f.warp.uid == w
            && f.poison.isEmpty && f.partials.isEmpty && f.pageLocks.isEmpty && g.n == 4 && f.warp.pend.any (·.id == p)
            && (match job.kind with | .atomic _ _ r => r == q.2 | .store _ => true | _ => false)
        | .command _ _ => false) = true := by decide +kernel

/-- A command's transactions are under way, sent at 0. -/
def underWay (kind : CmdKind) (parts retries clock : Nat) : State :=
  let s := remote (engine kind 3)
  { s with
    cmds := s.cmds.map fun (c : Command) => { c with phase := .sent }
    clock := BitVec.ofNat 64 clock
    fabric := { s.fabric with
      tx := (List.range parts).map fun i =>
        { id := 200 + i, ctx := 0, peer := 9, kind := .command 100 i, retries := retries, sentAt := 0 } } }

def stepDesc (op : Nat) : StepDesc :=
  { src := 0x50000, rdst := 0x40000100, len := 16, op := op, ty := 0, collid := 3, seq := 1, rflag := 0x40000200 }

theorem test_witness_PeerAnswers_commands :
    (∀ q ∈ [(true, 1), (true, 2), (false, 1), (false, 2)],
      let s := underWay (if q.1 then .put 0x40000FF0 32 0 0x50000 else .get 0x40000FF0 32 0 0x50000) q.2 0 0
      let s₁ := s.dropTx 200
      let a := s₁.engineAgent (command .mswap 3)
      (s.fabric.tx.find? (·.id == 200)).map (·.kind) = some (.command 100 0)
      ∧ (s.command? 100).map (fun c => (s₁.engineAgent c == a && c.phase == .sent)) = some true
      ∧ (pieces 0x40000FF0 32).getD 0 (0, 0) = (0, 16)
      ∧ (match s₁.remotePeers a q.1 [0x40000FF0] with
          | (s', .ok _) => let r := s'.moveRange a q.1 0x40000FF0 0 0x50000 [0, 1]
            decide (r.2 = none) && r.1.commandSent 100 == decide (q.2 = 2) && !r.1.holdsFor (.command 100)
          | _ => false) = true)
    ∧ (∀ q ∈ [(true, 0x50000, some Cause.range), (true, 0x80000000, none), (true, 0x40000000, some Cause.prot)],
        let s := if q.2.2 = some .prot then { base with mem := (setMem base 0x3008 (natToBytes 8 (9 * 2 ^ 52 + 0xD3))).mem }
          else remote base
        (match (s.remotePeers (s.engineAgent (command .mswap 3)) q.1 [q.2.1]).2 with
          | .error (.fault c _) => some c == q.2.2
          | .error (.page va) => va == BitVec.ofNat 64 q.2.1 && q.2.2.isNone
          | .ok _ => false) = true)
    ∧ (∀ op ∈ [0, 1], let s := underWay (.step (stepDesc op)) 1 0 0
        let s₁ := s.dropTx 200
        let a := s₁.engineAgent (command .mswap 3)
        (match s₁.flagPlace a 0x40000200 with
          | (s₀, .ok f) =>
            let r := s₀.stepElems a (stepDesc op) (List.range (16 / if op = 0 then 8 else 4))
            f.isSome && decide (r.2 = none) && !(r.1.atFlag a f .add 1).holdsFor (.command 100)
          | _ => false) = true)
    ∧ (let s := { underWay .mswap 1 0 0 with cmds := [] }
       s.command? 100 = none ∧ (s.fabric.tx.find? (·.id == 200)).isSome = true)
    ∧ (∀ q ∈ [(0, 2 ^ 20 - 1), (2, 2 ^ 20), (3, 2 ^ 20)], let s := underWay (.step (stepDesc 0)) 1 q.1 q.2
        (s.context? 0).map (·.retrymax) = some 3 ∧ s.clock.toNat = q.2
        ∧ (s.fabric.tx.map fun t => (t.sentAt, t.retries)) = [(0, q.1)] ∧ (s.command? 100).isSome = true
        ∧ s.warps.length = 1) := by decide +kernel

/-- A notice of failure names the collective of the step under way; a flag at 0x40000 counts it, or the marks are full. -/
theorem test_witness_PeerAnswers_notice :
    (underWay (.step (stepDesc 0)) 1 0 0).cmds.map (fun k => (k.ctx, k.steps 3, k.steps 4)) = [(0, true, false)]
    ∧ (let c := { Context.start 0 with failed := List.range 64 }
       let s := { base with contexts := [c] }
       s.context? 0 = some c ∧ ¬ c.failed.length ≤ 63)
    ∧ (base.context? 0).map (fun c => c.failed.length) = some 0 ∧ base.cmds = []
    ∧ (base.reach (remoteAgent 0) 0 0x40000 4 4 false true).2 = .at_ 0x40000 0 0
    ∧ (base.reach (remoteAgent 0) 0 0x80000000 4 4 false true).2 = .fails .pagefault := by decide +kernel

/-- Host memory holds a command of an opcode, with a stray byte or none and its arguments, at the head of a ring. -/
def mailed (opcode stray : Nat) (args : List Byte) : State :=
  let s := handled base
  { setMem s (hostBase + 0x10000) (natToBytes 2 opcode ++ natToBytes 2 stray ++ natToBytes 4 77 ++ args) with
    mailbox := { Mailbox.start with cmdbase := 0x10000, cmdsize := 4, cmdtail := 1, evbase := 0x20000, evsize := 4 } }

def args (n : Nat) (fields : List (Nat × Nat × Nat)) : List Byte :=
  natToBytes n ((fields.map fun f => f.2.2 % 2 ^ (8 * f.2.1) * 2 ^ (8 * (f.1 - 8))).sum)

theorem test_witness_MailboxCommands :
    (∀ op ∈ [0, 1, 2, 3, 4, 5, 6, 7, 8, 9], ∀ stray ∈ [0, 1], let s := mailed op stray []
      (s.headCommand.map fun c => (c.opcode, c.clean, c.tag)) = some (op, decide (stray = 0), 77)
      ∧ 4 ≤ s.mailbox.evsize.toNat ∧ s.mailbox.evsize.toNat ≤ 12
      ∧ s.mailbox.evtail - s.mailbox.evhead ≠ BitVec.ofNat 64 (2 ^ s.mailbox.evsize.toNat))
    ∧ (mailed 1 0 []).mem.wf ∧ base.headCommand = none := by unfold Memory.wf; decide +kernel

/-- The arguments at their limits and one beyond. -/
theorem test_witness_MailboxCommands_args :
    (∀ q ∈ [(16, 1, 7), (16, 1, 8), (17, 1, 1), (17, 1, 2)],
      ((mailed 1 0 (args 24 [q])).headCommand.map fun c => c.arg q.1 q.2.1) = some q.2.2)
    ∧ (∀ n ∈ [1, 63], base.context? n = none) ∧ base.context? 0 ≠ none
    ∧ (∀ q ∈ [(63, 0xFFF, 16), (64, 0, 16), (0, 0, 17), (0, 0, 3), (0, 0, 4)],
      ((mailed 3 0 (args 32 [(8, 1, q.1), (16, 8, 4096 * q.2.1), (24, 1, q.2.2)])).headCommand.map fun c =>
        (c.arg 8 1, c.arg 9 1, c.arg 10 1, c.arg 16 8, c.arg 24 1)) = some (q.1, 0, 0, 4096 * q.2.1, q.2.2))
    ∧ (384 * 2 ^ 25 = 12 * 2 ^ 30 ∧ ∀ n ∈ [384, 385],
      ((mailed 4 0 (args 24 [(12, 4, n)])).headCommand.map fun c => c.arg 12 4) = some n)
    ∧ (∀ q ∈ [(40, 0x1000), (40, 0x1001), (40, 2 ^ 57)],
      ((mailed 8 0 (args 48 [(40, 8, q.2)])).headCommand.map fun c => c.arg 40 8) = some q.2)
    ∧ base.attests < 32768 := by decide +kernel

/-- A buffer holds the entry that TLBFLUSH names, or none does; a warp stalls at a page, a command is paused. -/
theorem test_witness_MailboxCommands_answers :
    (let s := { mailed 6 0 (args 24 [(9, 1, 1)]) with tlb := buffered.tlb }
     s.shootdowns = [] ∧ (∃ e ∈ s.tlb, e.asid = 0) ∧ (mailed 6 0 []).tlb = [] ∧ s.context? 0 ≠ none
     ∧ (∀ i < 648, s.unitBusy (tlbUnitAt i) = false) ∧ (∃ i < 648, asking.unitBusy (tlbUnitAt i) = true))
    ∧ (let s := onW (mailed 7 0 (args 16 [(8, 4, 9)])) fun w => { w with stall := some 9 }
       s.awaits 9 = true ∧ s.awaits 8 = false ∧ s.cmds = [] ∧ s.fabric.held = [] ∧ (∀ g ∈ s.grids, g.wait ≠ some 9)
       ∧ s.warps.length = 1)
    ∧ (let k := { command (.tzero far [0, 0]) 0 with phase := .paused 9 0x100 false }
       let s := { mailed 7 0 (args 16 [(8, 4, 9)]) with cmds := [k] }
       s.awaits 9 = true ∧ ∀ w ∈ s.warps, w.stall ≠ some 9 ∧ w.log = []) := by decide +kernel

/-- A partition of 64 bytes, granted or not; memory of the host and of a device at its limits. -/
theorem test_witness_LinkAndHost :
    (∀ q ∈ [(true, 64, 0), (true, 65, 0), (false, 1, 1)],
      let c := { Context.start 0 with psBytes := 64, psHost := q.1 }
      let s := { base with contexts := [c] }
      s.context? 0 = some c ∧ decide (c.psHost = true ∧ q.2.2 + q.2.1 ≤ c.psBytes) = decide (q.1 = true ∧ q.2.1 = 64)
      ∧ s.partials = [] ∧ s.pageLockOf (psBase 0) = none)
    ∧ base.mem.wf ∧ base.pageLocks = []
    ∧ (let s := { base with sectors := [hostBase / 64], llc := [{ line := 0x40000, ctx := 0, way := 0, dirty := true, owned := true }] }
       (∃ n ∈ s.sectors, n = hostBase / 64) ∧ (∃ l ∈ s.llc, l.line = lineOf 0x40000))
    ∧ (∀ n ∈ [1, 8], 2 ^ 64 - n + n ≤ 2 ^ 64 ∧ 2 ^ 51 - n + n ≤ 2 ^ 51 ∧ 2 ^ 64 < 2 ^ 64 - n + (n + 1)
        ∧ 2 ^ 51 < 2 ^ 51 - n + (n + 1)) := by unfold Memory.wf; decide +kernel

/-- A core of site 0 has a line registered; a gang runs there; a dirty line of context 5 is in the cache. -/
def owning : State :=
  { handled base with
    regs := [{ line := 0x40000, core := 3, words := 0x80000001 }, { line := 0x40080, core := 64, words := 1 }]
    llc := [{ line := 0x40100, ctx := 5, way := 0, dirty := true, owned := true }]
    contexts := base.contexts ++ [{ Context.start 5 with psBytes := 2 ^ 25 }] }

theorem test_witness_ErrorsAndReset :
    owning.findWarp 1 = some owning.warp ∧ owning.warps.length = 1 ∧ (∃ h ∈ owning.gangs, h.uid = base.warp.gang)
    ∧ (∀ i ∈ [0, 7], (owning.site i).fenced = false) ∧ ((peered base).site 1).fenced = true
    ∧ (∃ g ∈ owning.gangs, g.phase = .resident ∧ g.site = 0 ∧ (owning.grid g.grid).ctx = 0)
    ∧ (∃ r ∈ owning.regs, r.core / 64 = 0 ∧ r.line < 2 ^ 52 ∧ r.words.getLsbD 31 = true)
    ∧ (∃ c ∈ owning.contexts, c.psBytes ≠ 0) ∧ (∃ c ∈ owning.contexts, c.psBytes = 0)
    ∧ (∃ l ∈ owning.llc, l.ctx = 5 ∧ l.dirty = true) ∧ owning.memFenced = 0 ∧ owning.ioFenced = false
    ∧ (∀ n ∈ [0, 1, 8, 9],
        decide (∃ j : Fin 8, owning.sites[j].admitted = true ∧ owning.sites[j].fenced = false
          ∧ owning.sites[j].admission = BitVec.ofNat 32 n) = decide (n = 1 ∨ n = 8))
    ∧ owning.admissions = 8
    ∧ (((List.range 8).map resetReport).length = 8 ∧ ((List.range 8).map resetReport).filter (·.verified) ≠ [])
    ∧ (let rs := (List.range 8).map fun i => { resetReport i with verified := false }
       rs.length = 8 ∧ rs.filter (·.verified) = []) := by decide +kernel

/-- A site is admitted again after a fence, or for the first time; Dawn is of level 1, Noon of level 2. -/
theorem test_witness_ErrorsAndReset_readmission :
    ((peered base).site 1).admitted = true ∧ ((peered base).site 1).fenced = true ∧ (base.site 1).fenced = false
    ∧ (let s := { base with sites := base.sites.set 2 { base.sites[2] with admitted := false } }
       (s.site 2).admitted = false)
    ∧ (∀ q ∈ [(1, 1, true), (2, 2, true), (1, 2, false), (7, 1, false)],
        decide ((q.1 = 1 ∧ q.2.1 = 1) ∨ (q.1 = 2 ∧ q.2.1 = 2)) = q.2.2
        ∧ ((after (exec (.siteReadmission 1 { resetReport 0 with gen := q.1, level := q.2.1 }) (peered base))).map
            fun t => (t.site 1).fenced) = some (!q.2.2)) := by decide +kernel

/-- A page that context 0 maps and a lock of its warp are homed on site 2; records go to a ring at 0x20000. -/
def rooted : State :=
  { owning with
    homes := [{ page := 0x40000, size := 12, site := 2, moving := none, asker := none, writes := [], since := 0 }]
    locks := [{ line := 0x40080, va := 0x40080, holder := some 1, queue := [], mark := false }]
    mailbox := { Mailbox.start with evbase := 0x20000, evsize := 4 } }

/-- What of context 0 is on sites 0 and 2, each way by itself, and nothing of context 5; what the fence of site 2 leaves. -/
theorem test_witness_ErrorsAndReset_fence :
    (let dep := fun (s : State) (i n : Nat) => s.dependsOn i (Context.start n |> fun c => { c with ptbase := if n = 0 then 0x1000 else 0x90000 })
     dep rooted 0 0 = true ∧ dep rooted 3 0 = false ∧ dep rooted 2 5 = false
     ∧ dep { rooted with locks := [] } 2 0 = true
     ∧ rooted.lockedOn 2 0 = true ∧ rooted.lockedOn 2 5 = false ∧ rooted.homeOf 0x40080 = some 2)
    ∧ rooted.shootdowns = [] ∧ rooted.partials = [] ∧ rooted.mem.wf ∧ (∀ w ∈ rooted.warps, w.pend = [])
    ∧ (rooted.mailbox.evtail - rooted.mailbox.evhead).toNat + 1 ≤ 2 ^ rooted.mailbox.evsize.toNat
    ∧ ((after (exec (.uncorrectableError (.site 2)) rooted)).map fun t =>
        (t.contexts.map (·.num), t.mem.nat (hostBase + 0x20000) 4, t.mem.nat (hostBase + 0x20010) 8, t.mailbox.evtail)) =
      some ([5], 0x14 + 2 * 2 ^ 8, 0, 1) := by
  unfold Memory.wf; decide +kernel

end Sys2Proof.Tests
end

section
/-! Obligation O7: what keeps a unit from issuing (R26, R38, R39, R57, R58). -/

set_option Elab.async false

namespace Sys2Proof.Machine

/-! ## The gate, one case at a time (R58) -/

/-- A privileged instruction is refused before anything else of it is looked at. -/
theorem State.gate_denied (s : State) {n : Need} (h : n.denied = true) : s.gate n = .trap .priv := by
  simp [State.gate, h]

/-- A level-2 instruction is no instruction in a grid of level 1. -/
theorem State.gate_below_level (s : State) {n : Need} (h : n.denied = false) (h2 : n.level2 = true)
    (hl : s.gridLevel < 2) : s.gate n = .trap .illenc := by
  simp [State.gate, h, h2, hl]

/-- A control register of a privileged number is refused once the word has been found legal. -/
theorem State.gate_csrDenied (s : State) {n : Need} (h : n.denied = false)
    (hh : hintsLegal s.warp.frag.hints n = true) (hl : n.legal = true) (h2 : n.level2 = false)
    (hc : n.csrDenied = true) : s.gate n = .trap .priv := by
  simp [State.gate, h, hh, hl, h2, hc]

/-- Only the hint fields of a need decide which hints it accepts. -/
theorem hintsLegal_congr (h : Hints) {n m : Need} (h1 : n.himm = m.himm) (h2 : n.hblk = m.hblk)
    (h3 : n.hmod = m.hmod) (h4 : n.node = m.node) : hintsLegal h n = hintsLegal h m := by
  unfold hintsLegal
  rw [h1, h2, h3, h4]

/-- What R58 leaves to the registers of a two-source scalar instruction whose hints are legal. -/
theorem State.gate_scalarNeed {s : State} (hh : hintsLegal s.warp.frag.hints {} = true) (d a b : Fin 64)
    (x y : Bool) : s.gate (scalarNeed d a b x y) =
      if s.warp.full (.s d) = false then .wait
      else if (s.warp.full (.s a) = false ∧ x = false) ∨ (s.warp.full (.s b) = false ∧ y = false) then .wait
      else if s.warp.full (.s a) = false ∨ s.warp.full (.s b) = false then .trap .emptyread
      else if (a ≠ 0 ∧ s.warp.sPoison[a] = true) ∨ (b ≠ 0 ∧ s.warp.sPoison[b] = true) then .trap .poison
      else .go := by
  have hl : hintsLegal s.warp.frag.hints (scalarNeed d a b x y) = true :=
    (hintsLegal_congr _ rfl rfl rfl rfl).trans hh
  have hg : s.gate (scalarNeed d a b x y) =
      if [Reg.s d].any fun d => !s.warp.full d then .wait
      else if [(Reg.s a, x), (Reg.s b, y)].any fun q => !q.2 && !s.warp.full q.1 then .wait
      else if [(Reg.s a, x), (Reg.s b, y)].any fun q => !s.warp.full q.1 then .trap .emptyread
      else if !false && [(Reg.s a, x), (Reg.s b, y)].any fun q => s.warp.scalarPoison q.1 then .trap .poison
      else .go := by
    simp only [State.gate, hl]
    rfl
  rw [hg]
  simp only [List.any_cons, List.any_nil, Bool.or_false, Bool.not_false, Bool.true_and, Bool.or_eq_true,
    Bool.and_eq_true, Bool.not_eq_true', and_comm, Warp.scalarPoison, bne_iff_ne]

/-- Every instruction of the table is a two-source scalar instruction of some function. -/
theorem exec_scalarTable : ∀ e ∈ scalarTable, ∃ f, ∀ (s : State) (d a b : Fin 64) (x y : Bool),
    exec (e.1 d a b x y) s = scalar2 f d a b x y s := by
  simp only [scalarTable, List.forall_mem_cons]
  refine ⟨⟨fun p q => p + q, ?_⟩,
    ⟨fun p q => p - q, ?_⟩,
    ⟨fun p q => p * q, ?_⟩,
    ⟨mulHigh, ?_⟩,
    ⟨mulHighU, ?_⟩,
    ⟨sdivQ, ?_⟩,
    ⟨udivQ, ?_⟩,
    ⟨sremQ, ?_⟩,
    ⟨uremQ, ?_⟩,
    ⟨fun p q => p &&& q, ?_⟩,
    ⟨fun p q => p ||| q, ?_⟩,
    ⟨fun p q => p ^^^ q, ?_⟩,
    ⟨fun p q => p &&& ~~~q, ?_⟩,
    ⟨fun p q => p <<< (q.toNat % 64), ?_⟩,
    ⟨fun p q => p >>> (q.toNat % 64), ?_⟩,
    ⟨fun p q => p.sshiftRight (q.toNat % 64), ?_⟩,
    ⟨sminQ, ?_⟩,
    ⟨smaxQ, ?_⟩,
    ⟨uminQ, ?_⟩,
    ⟨umaxQ, ?_⟩,
    ⟨fun p q => boolWord (p == q), ?_⟩,
    ⟨fun p q => boolWord (decide (p.toInt < q.toInt)), ?_⟩,
    ⟨fun p q => boolWord (decide (p.toNat < q.toNat)), ?_⟩, by simp⟩ <;>
    exact fun _ _ _ _ _ _ => rfl

/-! ## A unit that is no instruction -/

/-- What no step of a fold changes, the fold leaves alone. -/
theorem foldl_keeps {σ α β : Type} (p : σ → β) {f : σ → α → σ} (hf : ∀ s a, p (f s a) = p s) (l : List α) :
    ∀ s, p (l.foldl f s) = p s := by
  induction l with
  | nil => intro s; rfl
  | cons a l ih => intro s; exact (ih (f s a)).trans (hf s a)

/-- What no change of a warp touches, `mapWarp` leaves alone in the issuing one. -/
theorem State.mapWarp_warp_keeps {β : Type} (p : Warp → β) {f : Warp → Warp} (hf : ∀ w, p (f w) = p w) (s : State)
    (u : Nat) : p (s.mapWarp u f).warp = p s.warp := by
  unfold State.mapWarp
  split
  · exact hf s.warp
  · rfl

/-- The issuing fragment's note that its unit waits outlasts an answer to a pending instruction. -/
theorem State.answer_held (s : State) (u k : Nat) (v : Word64) :
    (s.answer u k v).warp.frag.held = s.warp.frag.held :=
  by
  unfold State.answer
  refine State.mapWarp_warp_keeps (fun w => w.frag.held) (fun w => ?_) s u
  rfl

/-- So does it outlast the report to a STEP. -/
theorem State.stepped_held (w : Warp) (s : State) :
    (State.stepped w s).warp.frag.held = s.warp.frag.held := by
  have answers : ∀ (n : Word64) (l : List Warp) (t : State),
      (l.foldl (fun t x => (x.pend.filter (·.kind == .step w.uid)).foldl (fun t p => t.answer x.uid p.id n) t)
        t).warp.frag.held = t.warp.frag.held := fun n =>
    foldl_keeps (fun t : State => t.warp.frag.held) fun t x =>
      foldl_keeps (fun t : State => t.warp.frag.held) (fun t (p : Pending) => t.answer_held x.uid p.id n) _ t
  have rewound : ∀ t : State,
      (t.mapWarp w.uid fun w => { w with stepping := false }.mapFrags Fragment.rewind).warp.frag.held
        = t.warp.frag.held := by
    intro t
    refine State.mapWarp_warp_keeps (fun w => w.frag.held) (fun w => ?_) t _
    rfl
  unfold State.stepped
  dsimp only
  split
  · rfl
  split
  · exact (answers _ _ _).trans (rewound s)
  split
  · rfl
  · exact (answers _ _ _).trans (rewound s)

theorem State.endYields_held (s : State) : s.endYields.warp.frag.held = s.warp.frag.held := by
  unfold State.endYields
  dsimp only
  split <;> rfl

theorem State.turnOver_held (s : State) : s.turnOver.warp.frag.held = s.warp.frag.held := by
  unfold State.turnOver
  split
  · rfl
  · exact s.endYields_held

theorem State.passOver_held (s : State) (u e : Nat) (ps : List Nat) :
    (s.passOver u e ps).warp.frag.held = s.warp.frag.held := by
  refine State.mapWarp_warp_keeps (fun w => w.frag.held) (fun w => ?_) s u
  dsimp only [Warp.mapFrags]
  split <;> rfl

/-- What a turn adds to its unit does not change whether the unit waits. -/
theorem Turned_held (b f : State) (w : Warp) (e : Nat) (t : State) :
    (Turned b f w e t).warp.frag.held = t.warp.frag.held := by
  have h : (State.stepped f.warp t).turnOver.warp.frag.held = t.warp.frag.held :=
    (State.turnOver_held _).trans (State.stepped_held _ _)
  unfold Turned
  dsimp only
  split
  · exact h
  · exact (State.passOver_held _ _ _ _).trans h

/-! ## The step is the chosen unit's run -/

/-- Trying a fragment runs its unit, and the turn adds its part. -/
theorem State.tryIssue_next {b : State} {w : Warp} {e : Nat} {t : State}
    (h : (b.choose w.uid e).runUnit = .next t) :
    b.tryIssue w e = .next (Turned b (b.choose w.uid e) w e t) := by
  unfold State.tryIssue State.runTurn Turned
  rw [h]
  dsimp only
  split <;> rfl

/-- Fragments that wait are passed by. -/
theorem State.tryAll_tried {s r : State} {ts rest : List (Nat × Nat)} (h : Tried s ts r rest) :
    s.tryAll ts = r.tryAll rest := by
  induction h with
  | start s ts => rfl
  | waits hw ht hh _ ih =>
    rw [← ih, State.tryAll, hw]
    dsimp only
    rw [ht]
    dsimp only
    rw [if_pos hh]

/-- A fragment that the agenda names, and that may issue, is tried. -/
theorem State.perform_issue {b : State} {w : Warp} {e : Nat} {g : Fragment} (hw : b.findWarp w.uid = some w)
    (hg : w.allFrags.find? (fun f => f.entry == e && w.holds f) = some g) (hm : b.mayChoose w g = true) :
    b.perform (.issue w.uid e) = b.tryIssue w e := by
  simp only [State.perform, hw, hg, hm, if_true]

/-- The step of a chosen fragment whose unit does not wait is that unit's turn. -/
theorem step_of_issues {s b f : State} {w : Warp} {e : Nat} {t : State} (h : Issues s b f w e)
    (hr : f.runUnit = .next t) (hh : t.warp.frag.held = false) : step s = .next (Turned b f w e t) := by
  obtain ⟨hreset, hw, rfl, ⟨rest, g, ha, hb, hg, hm⟩ | ⟨ha, hd, rest, ht⟩⟩ := h
  · have hstep : step s = b.perform (.issue w.uid e) := by
      unfold step
      rw [ha, hb]
      dsimp only
      rw [hreset]
      rfl
    rw [hstep, State.perform_issue hw hg hm, State.tryIssue_next hr]
  · have hstep : step s = b.tryAll ((w.uid, e) :: rest) := by
      unfold step State.stepDefault
      rw [ha]
      dsimp only
      rw [hreset, hd]
      exact State.tryAll_tried ht
    rw [hstep, State.tryAll, hw]
    dsimp only
    rw [State.tryIssue_next hr]
    dsimp only
    rw [if_neg (by rw [Turned_held, hh]; exact Bool.false_ne_true)]

/-! ## Fetching -/

/-- The word of four bytes. -/
theorem wordOfBytes_eq (b0 b1 b2 b3 : Byte) :
    BitVec.ofNat 32 (bytesToNat [b0, b1, b2, b3]) = wordOfBytes b0 b1 b2 b3 := by
  unfold wordOfBytes
  congr 1
  simp only [bytesToNat]
  omega

/-- A unit whose bytes fetch finds runs the word that they are. -/
theorem State.runUnit_of_fetches {f g : State} {loc : Nat} (h : Fetches f g loc) :
    f.runUnit = g.runWord (wordOfBytes (g.mem.read loc) (g.mem.read (loc + 1)) (g.mem.read (loc + 2))
      (g.mem.read (loc + 3))) := by
  obtain ⟨x, kind, peer, hx, hp, rfl⟩ := h
  rw [← wordOfBytes_eq]
  unfold State.runUnit State.fetchWord
  rw [hx]
  dsimp only
  rw [hp]
  rfl

/-- A word's major is the upper six bits of its last byte. -/
theorem wordOfBytes_major (b0 b1 b2 b3 : Byte) : (wordOfBytes b0 b1 b2 b3).toNat / 2 ^ 26 = b3.toNat / 4 := by
  have h0 := b0.isLt; have h1 := b1.isLt; have h2 := b2.isLt; have h3 := b3.isLt
  unfold wordOfBytes
  rw [BitVec.toNat_ofNat, Nat.mod_eq_of_lt (by omega)]
  omega

/-- A word that is no instruction traps with the cause of R58. -/
theorem State.runWord_none (s : State) {w : BitVec 32} (h : decodeWord w = none) :
    s.runWord w = .next (s.trap (illegalCause s w)) := by
  unfold State.runWord
  rw [h]

/-- Where R58 does not look at privilege first, the cause is ILLENC; in major 0x3A it is PRIV. -/
theorem illegalCause_eq (s : State) (w : BitVec 32) :
    (s.privileged = true ∨ w.toNat / 2 ^ 26 ∉ [0x3A, 0x3B] → illegalCause s w = .illenc)
    ∧ (s.privileged = false → w.toNat / 2 ^ 26 = 0x3A → illegalCause s w = .priv) := by
  unfold illegalCause
  dsimp only
  generalize w.toNat / 2 ^ 26 = major
  refine ⟨fun h => ?_, fun h hm => by simp [h, hm]⟩
  rcases h with h | h
  · simp [h]
  · simp only [List.mem_cons, List.not_mem_nil, or_false, not_or] at h
    simp [h.1, h.2]

/-- The handler's fragment has not waited yet. -/
theorem State.trap_held {s : State} (h : s.Handles) (c : Cause) (addr : Word64) :
    (s.trap c addr).warp.frag.held = false := by
  obtain ⟨h1, h2, -⟩ := s.warp.settle_other
  obtain ⟨h0, ht, hq⟩ := h
  rw [ht] at h2
  have hq' : (s.onWarp Warp.settle).quiet (s.onWarp Warp.settle).warp = true := hq
  unfold State.trap State.raise
  dsimp only
  rw [if_pos hq']
  unfold State.takeTrap
  dsimp only [State.onWarp]
  rw [if_neg (by simpa [h1, h2] using h0)]
  rfl

/-- The step of a unit that is no instruction (R57, R58). -/
theorem step_undecoded {s b f g : State} {w : Warp} {e loc : Nat} (hi : Issues s b f w e) (hf : Fetches f g loc)
    (hd : decodeBytes (g.mem.readBytes loc 4) = none) (hh : g.Handles) :
    ∃ t c, step s = .next (Turned b f w e t) ∧ Trapped g t c 0 g.warp.active g.warp.frag.pc 0
      ∧ (g.privileged = true ∨ (g.mem.read (loc + 3)).toNat / 4 ∉ [0x3A, 0x3B] → c = .illenc)
      ∧ (g.privileged = false → (g.mem.read (loc + 3)).toNat / 4 = 0x3A → c = .priv) := by
  set word := wordOfBytes (g.mem.read loc) (g.mem.read (loc + 1)) (g.mem.read (loc + 2)) (g.mem.read (loc + 3))
    with hword
  have hnone : decodeWord word = none := by
    simpa [Memory.readBytes, decodeBytes, Nat.add_assoc] using hd
  have hrun : f.runUnit = .next (g.trap (illegalCause g word)) :=
    (State.runUnit_of_fetches hf).trans (g.runWord_none hnone)
  have htrap := State.trap_trapped hh (illegalCause g word) 0
  have hc := illegalCause_eq g word
  rw [hword, wordOfBytes_major] at hc
  exact ⟨_, _, step_of_issues hi hrun (State.trap_held hh _ _), htrap, hc⟩

/-! ## Two-source scalar instructions -/

/-- The registers of a two-source scalar instruction, judged in the order of R58. -/
theorem scalar2_checks {s : State} (hh : hintsLegal s.warp.frag.hints {} = true) (f : Word64 → Word64 → Word64)
    (d a b : Fin 64) (x y : Bool) :
    let out := scalar2 f d a b x y s
    let full := fun r : Fin 64 => s.warp.full (.s r)
    (full d = false → Waits s out)
    ∧ (full d = true → (full a = false ∧ x = false) ∨ (full b = false ∧ y = false) → Waits s out)
    ∧ (s.Handles → full d = true → (full a = true ∨ x = true) → (full b = true ∨ y = true) →
        full a = false ∨ full b = false → Traps s out .emptyread)
    ∧ (s.Handles → full d = true → full a = true → full b = true →
        (a ≠ 0 ∧ s.warp.sPoison[a] = true) ∨ (b ≠ 0 ∧ s.warp.sPoison[b] = true) → Traps s out .poison) := by
  intro out full
  have hg := State.gate_scalarNeed hh d a b x y
  refine ⟨fun hd => State.issue_waits ?_ _, fun hd he => State.issue_waits ?_ _,
    fun h hd ha hb he => State.issue_traps h ?_ _, fun h hd ha hb hp => State.issue_traps h ?_ _⟩
  · rw [hg, if_pos hd]
  · rw [hg, if_neg (by simpa [full] using hd), if_pos he]
  · have : ¬ ((full a = false ∧ x = false) ∨ (full b = false ∧ y = false)) := by
      rintro (⟨h1, h2⟩ | ⟨h1, h2⟩) <;> simp_all
    rw [hg, if_neg (by simpa [full] using hd), if_neg this, if_pos he]
  · have h1 : ¬ ((full a = false ∧ x = false) ∨ (full b = false ∧ y = false)) := by simp [ha, hb]
    have h2 : ¬ (full a = false ∨ full b = false) := by simp [ha, hb]
    rw [hg, if_neg (by simpa [full] using hd), if_neg h1, if_neg h2, if_pos hp]

/-! ## Privilege and level -/

/-- A unit that R58 refuses for its privilege, before its other checks. -/
theorem State.issue_denied {s : State} (h : s.Handles) {n : Need} (hn : n.denied = true) (e : State → State) :
    Traps s (s.issue n e) .priv :=
  State.issue_traps h (s.gate_denied hn) e

/-- A level-2 instruction in a grid of level 1. -/
theorem State.issue_below_level {s : State} (h : s.Handles) (hl : s.gridLevel < 2) {n : Need}
    (hn : n.denied = false) (h2 : n.level2 = true) (e : State → State) : Traps s (s.issue n e) .illenc :=
  State.issue_traps h (s.gate_below_level hn h2 hl) e

/-- An instruction on pages in a warp that is not privileged. -/
theorem pageIssue_denied {s : State} (h : s.Handles) (hp : s.privileged = false) (srcs : List (Fin 64))
    (e : State → State) : Traps s (pageIssue srcs e s) .priv := by
  unfold pageIssue
  exact State.issue_denied h (by simp [hp]) e

/-- A level-2 vector instruction in a grid of level 1. -/
theorem vecUnit_below_level {s : State} (h : s.Handles) (hl : s.gridLevel < 2) {n : Need} (hn : n.denied = false)
    (h2 : n.level2 = true) (v : VOp) (f : LaneFn) : Traps s (vecUnit v n f s) .illenc := by
  unfold vecUnit
  exact State.issue_below_level (n := v.need n s.warp.frag.hints) h hl hn h2 _

/-- A CSR instruction that names a privileged number, in a warp that is not privileged. -/
theorem csrUnit_denied {s : State} (h : s.Handles) (hp : s.privileged = false)
    (hh : hintsLegal s.warp.frag.hints {} = true) (write : Option (Word64 → Word64 → Word64)) (d a : Fin 64)
    {c : Fin 256} (hc : csrAssigned c = true) (hk : 0x40 ≤ c.val) : Traps s (csrUnit write d a c s) .priv := by
  refine State.issue_traps h (s.gate_csrDenied rfl ?_ hc rfl ?_) _
  · exact (hintsLegal_congr _ rfl rfl rfl rfl).trans hh
  · simp [csrPrivileged, hk, hp]

/-- Settles O7: the gate's cases for the instructions, and the step of a word that is none. -/
theorem issueChecks : Obligations.IssueChecks := by
  unfold Obligations.IssueChecks
  refine ⟨fun s b f g w e loc hi hf hd hh => step_undecoded hi hf hd hh, fun e he s d a b x y hh => ?_,
    fun s d a b m z k l c g hc h => ?_, fun s d a b x y g k p hl h => ?_⟩
  · obtain ⟨f, hf⟩ := exec_scalarTable e he
    rw [hf]
    exact scalar2_checks hh f d a b x y
  · have hp : s.privileged = false := by simpa [State.privileged] using hc
    have hn : (!s.privileged) = true := by simp [hp]
    refine ⟨?_, fun hdbg => ?_, fun hh ha hk => ?_⟩
    · simp only [List.forall_mem_cons]
      refine ⟨?_, ?_, ?_, ?_, ?_, by simp⟩
      · show Traps s (execTlbinv b a m s) .priv
        exact State.issue_denied h hn _
      · show Traps s (execPglock a z g s) .priv
        exact pageIssue_denied h hp _ _
      · show Traps s (execPgswap b a s) .priv
        exact pageIssue_denied h hp _ _
      · show Traps s (execHomemv b a s) .priv
        exact pageIssue_denied h hp _ _
      · show Traps s (execHalt d a g s) .priv
        exact State.issue_denied h hn _
    · have hd : s.debugDenied = true := by simp [State.debugDenied, hp, hdbg]
      simp only [List.forall_mem_cons]
      refine ⟨?_, ?_, by simp⟩
      · show Traps s (execStepW d a g s) .priv
        exact State.issue_denied h hd _
      · show Traps s (execWatch a k l z s) .priv
        exact State.issue_denied h hd _
    · simp only [List.forall_mem_cons]
      exact ⟨csrUnit_denied h hp hh none d 0 ha hk, csrUnit_denied h hp hh _ d a ha hk,
        csrUnit_denied h hp hh _ d a ha hk, csrUnit_denied h hp hh _ d a ha hk, by simp⟩
  · simp only [List.forall_mem_cons]
    refine ⟨?_, ?_, ?_, ?_, ?_, by simp⟩
    · show Traps s (execVdot4 d a b x y s) .illenc
      exact vecUnit_below_level h hl rfl rfl _ _
    · show Traps s (execVdot4z d a b x y s) .illenc
      exact vecUnit_below_level h hl rfl rfl _ _
    · show Traps s (execVdot4Scalar d a b x y s) .illenc
      exact vecUnit_below_level h hl rfl rfl _ _
    · show Traps s (execVdot4zScalar d a b x y s) .illenc
      exact vecUnit_below_level h hl rfl rfl _ _
    · show Traps s (execMmult k a b p g s) .illenc
      unfold execMmult pass
      exact State.issue_below_level h hl rfl rfl _

end Sys2Proof.Machine
end

section
/-! What a reader's recall of partial values, a push of registered words and a flush of the LLC change, and what bytes
written leave in memory (R153, R157, R234, R311). -/

set_option Elab.async false

namespace Sys2Proof.Machine

/-! ## Bytes written -/

/-- Bytes written from a place lie there, and every other byte is as it was. -/
theorem Memory.read_writeBytes (bs : List Byte) : ∀ {m : Memory} (_ : m.wf) (a z : Nat),
    (m.writeBytes a bs).read z = laid a bs z (m.read z) := by
  induction bs with
  | nil => intro m _ a z; simp [Memory.writeBytes, laid]
  | cons b t ih =>
    intro m h a z
    rw [Memory.writeBytes, ih (Memory.wf_write h a b)]
    rcases Nat.lt_trichotomy z a with hz | rfl | hz
    · rw [Memory.read_write_other m a z b (by omega) h.1]
      simp only [laid, List.length_cons]
      rw [if_neg (by omega), if_neg (by omega)]
    · rw [Memory.read_write_self m z b h.1]
      simp [laid]
    · rw [Memory.read_write_other m a z b (by omega) h.1]
      obtain ⟨k, rfl⟩ : ∃ k, z = a + 1 + k := ⟨z - (a + 1), by omega⟩
      have h1 : a + 1 + k - (a + 1) = k := by omega
      have h2 : a + 1 + k - a = k + 1 := by omega
      simp only [laid, List.length_cons, h1, h2, List.getD_cons_succ]
      exact if_congr (by omega) rfl rfl

/-! ## Partial values (R234) -/

/-- A state in which only memory, its poison marks and the monitors may differ. -/
def State.SameButMemory (s t : State) : Prop :=
  t = { s with mem := t.mem, poison := t.poison, monitors := t.monitors }

theorem State.SameButMemory.trans {s t u : State} (h : s.SameButMemory t) (g : t.SameButMemory u) :
    s.SameButMemory u := by
  unfold State.SameButMemory at *
  rw [g, h]

/-- Combining a partial value changes memory alone. -/
theorem State.combine_same (s : State) (p : Partial) : s.SameButMemory (s.combine p) := by
  unfold State.combine State.reduceAt State.atom
  dsimp only
  split
  · rfl
  · split <;> rfl

theorem State.foldl_combine_same (ps : List Partial) : ∀ s : State, s.SameButMemory (ps.foldl State.combine s) := by
  induction ps with
  | nil => intro s; rfl
  | cons p ps ih => intro s; exact (s.combine_same p).trans (ih _)

/-- A reader of a line takes its partial values out and may change memory. -/
theorem State.recall_same (s : State) (line : Nat) :
    State.SameButMemory { s with partials := s.partials.filter fun p => lineOf p.loc != line } (s.recall line) :=
  State.foldl_combine_same _ _

/-- A reader of a line without partial values changes nothing. -/
theorem State.recall_clear {s : State} {line : Nat} (h : ∀ p ∈ s.partials, lineOf p.loc ≠ line) :
    s.recall line = s := by
  have h1 : s.partials.filter (fun p => lineOf p.loc == line) = [] := by simpa using h
  have h2 : s.partials.filter (fun p => lineOf p.loc != line) = s.partials := by simpa using h
  unfold State.recall
  rw [h1, h2]
  rfl

theorem State.recallLines_clear {s : State} {ls : List Nat} (h : ∀ p ∈ s.partials, lineOf p.loc ∉ ls) :
    s.recallLines ls = s := by
  unfold State.recallLines
  induction ls with
  | nil => rfl
  | cons l ls ih =>
    rw [List.foldl_cons, State.recall_clear fun p hp e => h p hp (e ▸ List.mem_cons_self)]
    exact ih fun p hp hm => h p hp (List.mem_cons_of_mem _ hm)

/-- The partial values that are left after a reader of a line. -/
theorem State.mem_partials_recall (s : State) (line : Nat) (p : Partial) :
    p ∈ (s.recall line).partials ↔ p ∈ s.partials ∧ lineOf p.loc ≠ line := by
  rw [s.recall_same line]
  simp

/-! ## Registered words (R153) -/

/-- What is left of the registrations after a push of the words that some bytes touch. -/
theorem State.mem_regs_pushWords (s : State) (loc n : Nat) (r : Registration) :
    r ∈ (s.pushWords loc n).regs ↔
      ∃ q ∈ s.regs, { q with words := q.words &&& ~~~wordsIn q.line loc n } = r ∧ r.words ≠ 0 := by
  simp [State.pushWords]
  grind

/-! ## Contexts and their meters -/

/-- A list of numbered things, one of whose numbers has been given new contents: what a number names then. -/
theorem find?_map_replace {α : Type} (key : α → Nat) (f : α → α) (k n : Nat) (hf : ∀ a, key a = k → key (f a) = k)
    (l : List α) : (l.map fun a => if key a == k then f a else a).find? (fun a => key a == n) =
      if n = k then (l.find? fun a => key a == n).map f else l.find? fun a => key a == n := by
  have hkey : ∀ a, key (if key a == k then f a else a) = key a := by
    intro a
    split
    · next h => rw [hf a (by simpa using h), ← (by simpa using h : key a = k)]
    · rfl
  rw [List.find?_map]
  simp only [Function.comp_def, hkey]
  cases h : l.find? fun a => key a == n with
  | none => simp
  | some a =>
    have ha : key a = n := by simpa using List.find?_some h
    simp only [Option.map_some, ha, beq_iff_eq]
    split <;> rfl

theorem State.context?_setContext (s : State) (c : Context) (n : Nat) : (s.setContext c).context? n =
    if n = c.num then (s.context? n).map fun _ => c else s.context? n :=
  find?_map_replace Context.num (fun _ => c) c.num n (fun _ _ => rfl) s.contexts

theorem State.num_of_context? {s : State} {n : Nat} {c : Context} (h : s.context? n = some c) : c.num = n := by
  simpa using List.find?_some h

theorem State.context_num (s : State) (n : Nat) : (s.context n).num = n := by
  unfold State.context
  cases h : s.context? n with
  | none => rfl
  | some c => exact State.num_of_context? h

/-- Nothing differs but the token buckets of contexts and what they count of the LLC. -/
structure State.SameButMeters (s t : State) : Prop where
  rest : t = { s with contexts := t.contexts }
  meters : ∀ n, (t.context? n).map Context.unmetered = (s.context? n).map Context.unmetered

theorem State.SameButMeters.refl (s : State) : s.SameButMeters s := ⟨rfl, fun _ => rfl⟩

theorem State.SameButMeters.trans {s t u : State} (h : s.SameButMeters t) (g : t.SameButMeters u) :
    s.SameButMeters u :=
  ⟨by rw [g.rest, h.rest], fun n => (g.meters n).trans (h.meters n)⟩

/-- A context replaced by one that differs from it in its meters alone. -/
theorem State.setContext_meters (s : State) (n : Nat) (c : Context)
    (h : c.unmetered = (s.context n).unmetered) : s.SameButMeters (s.setContext c) := by
  have hn : c.num = n := (congrArg Context.num h).trans (s.context_num n)
  refine ⟨rfl, fun k => ?_⟩
  rw [State.context?_setContext, hn]
  split
  · next hk =>
    subst hk
    cases hc : s.context? k with
    | none => rfl
    | some x => simpa [State.context, hc] using h
  · rfl

/-- Tokens taken from a context change its meters. -/
theorem State.charge_meters (s : State) (ctx cls n : Nat) : s.SameButMeters (s.charge ctx cls n) :=
  s.setContext_meters ctx _ rfl

theorem State.writeBack_meters (s : State) (l : LlcLine) : s.SameButMeters (s.writeBack l) := by
  unfold State.writeBack
  split
  · exact s.charge_meters _ _ _
  · exact .refl s

/-- A flush of the LLC takes the lines of the test out, and those that it writes back are paid for. -/
theorem State.llcFlush_meters (s : State) (p : LlcLine → Bool) :
    State.SameButMeters { s with llc := s.llc.filter fun l => !p l } (s.llcFlush p) := by
  have fold : ∀ (ls : List LlcLine) (t : State), t.SameButMeters (ls.foldl State.writeBack t) := by
    intro ls
    induction ls with
    | nil => exact State.SameButMeters.refl
    | cons l ls ih => exact fun t => (t.writeBack_meters l).trans (ih _)
  exact fold _ _

/-- No line of the LLC that is clean is paid for when it leaves. -/
theorem State.llcFlush_clean {s : State} {p : LlcLine → Bool} (h : ∀ l ∈ s.llc, l.dirty = false) :
    s.llcFlush p = { s with llc := s.llc.filter fun l => !p l } := by
  have fold : ∀ (ls : List LlcLine) (t : State), (∀ l ∈ ls, l.dirty = false) → ls.foldl State.writeBack t = t := by
    intro ls
    induction ls with
    | nil => exact fun t _ => rfl
    | cons l ls ih =>
      intro t hl
      have h1 : t.writeBack l = t := by simp [State.writeBack, hl l List.mem_cons_self]
      rw [List.foldl_cons, h1]
      exact ih t fun m hm => hl m (List.mem_cons_of_mem _ hm)
  exact fold _ _ fun l hl => h l (List.mem_of_mem_filter hl)

end Sys2Proof.Machine
end

section
/-! Obligation O59: link counters, snoops, the host's window, the mailbox and queue registers (R310, R311, R357). -/

set_option Elab.async false

namespace Sys2Proof.Machine

/-! ## The link layer -/

theorem mem_insertRising (l : List Nat) (a x : Nat) : x ∈ insertRising l a ↔ x = a ∨ x ∈ l := by
  induction l with
  | nil => simp [insertRising]
  | cons b t ih =>
    unfold insertRising
    split
    · simp
    split
    · next h => simp [h]
    · simp only [List.mem_cons, ih]; tauto

/-- The count of a port after one more flit has been sent again. -/
theorem find?_counted (l : List (Nat × Nat)) (port n : Nat) :
    (l.filter (·.1 != port) ++ [(port, n)]).find? (·.1 == port) = some (port, n) := by
  have h : (l.filter (·.1 != port)).find? (·.1 == port) = none := by
    simp [List.find?_eq_none]
  rw [List.find?_append, h]
  simp

/-- A flit sent again is counted, and a failed port is noted, for the ports there are. -/
theorem link_events (s : State) (port : Nat) :
    let at_ := fun (s : State) => ((s.fabric.resent.find? (·.1 == port)).map (·.2)).getD 0
    (24 ≤ port → exec (.linkFlitResend port) s = .next s ∧ exec (.portFailure port) s = .next s)
    ∧ (port < 24 → ∃ t, exec (.linkFlitResend port) s = .next t ∧ at_ t = at_ s + 1
      ∧ t = { s with fabric := { s.fabric with resent := t.fabric.resent } })
    ∧ (port < 24 → ∃ t, exec (.portFailure port) s = .next t ∧ port ∈ t.fabric.failedPorts
      ∧ (∀ p ∈ s.fabric.failedPorts, p ∈ t.fabric.failedPorts)
      ∧ t = { s with fabric := { s.fabric with failedPorts := t.fabric.failedPorts } }) := by
  intro at_
  have hresend : exec (.linkFlitResend port) s = execLinkFlitResend port s := rfl
  have hfail : exec (.portFailure port) s = execPortFailure port s := rfl
  rw [hresend, hfail]
  unfold execLinkFlitResend execPortFailure crestPorts
  refine ⟨fun h => by simp [h], fun h => ?_, fun h => ?_⟩
  · rw [if_neg (by omega)]
    refine ⟨_, rfl, ?_, rfl⟩
    simp only [at_, find?_counted, Option.map_some, Option.getD_some]
  · rw [if_neg (by omega)]
    refine ⟨_, rfl, ?_, fun p hp => ?_, rfl⟩
    · simp [mem_insertRising]
    · simp [mem_insertRising, hp]

/-! ## Snoops (R157, R307, R311) -/

theorem lineOf_sector (x : Nat) : lineOf (x / 64 * 64) = lineOf x := by unfold lineOf; omega

/-- A mask holds the lanes of its test. -/
theorem getLsbD_maskOf (f : Fin 32 → Bool) (l : Fin 32) : (maskOf f).getLsbD l.val = f l := by
  unfold maskOf
  rw [BitVec.getLsbD_setWidth, BitVec.getLsbD_ofBoolListLE, List.getD_eq_getElem _ _ (by simp)]
  simp only [List.getElem_ofFn, l.isLt, decide_true, Bool.true_and]

theorem maskOf_congr {f g : Fin 32 → Bool} (h : ∀ l, f l = g l) : maskOf f = maskOf g := by rw [funext h]

/-- Within its line, the words that some bytes touch are those that their offsets in the line touch. -/
theorem wordsIn_line {line loc : Nat} (h : lineOf loc = line) (n : Nat) : wordsIn line loc n = wordMask loc n := by
  unfold lineOf at h
  refine maskOf_congr fun l => ?_
  congr 1 <;> exact decide_eq_decide.2 (by omega)

/-- The 128 bytes of a line touch all of its words. -/
theorem wordsIn_whole (line : Nat) : wordsIn line line 128 = BitVec.allOnes 32 := by
  apply BitVec.eq_of_getLsbD_eq
  intro i hi
  have h := getLsbD_maskOf (fun l => decide (line < line + 4 * l.val + 4) && decide (line + 4 * l.val < line + 128))
    ⟨i, hi⟩
  unfold wordsIn
  rw [h, BitVec.getLsbD_allOnes]
  simp only [hi, decide_true, Bool.and_eq_true, decide_eq_true_eq]
  omega

/-- Pushed words are registered no more. -/
theorem State.words_pushWords {s : State} {loc n : Nat} {r : Registration} (h : r ∈ (s.pushWords loc n).regs) :
    r.words &&& wordsIn r.line loc n = 0 := by
  obtain ⟨q, -, rfl, -⟩ := (s.mem_regs_pushWords loc n r).1 h
  dsimp only
  rw [BitVec.and_assoc, BitVec.not_and_self]
  simp

/-- A snoop of a sector: the registered words and partial values of its bytes are pushed, its ownership given up. -/
theorem State.snoopSector_pushes (s : State) (lo : Nat) :
    (∀ p ∈ (s.snoopSector lo).partials, lineOf p.loc ≠ lineOf lo)
    ∧ (∀ n, n ∈ (s.snoopSector lo).sectors ↔ n ∈ s.sectors ∧ n ≠ lo / 64)
    ∧ ∀ r ∈ (s.snoopSector lo).regs, r.line = lineOf lo → r.words &&& wordMask lo 64 = 0 := by
  refine ⟨fun p hp => ((s.mem_partials_recall (lineOf lo) p).1 hp).2, fun n => ?_, fun r hr hl => ?_⟩
  · have h : (s.snoopSector lo).sectors = s.sectors.filter (· != lo / 64) := by
      unfold State.snoopSector
      rw [s.recall_same]
      rfl
    simp [h]
  · rw [← wordsIn_line hl.symm]
    exact State.words_pushWords hr

/-- Where no core holds a partial value of the sector's line, only registrations and ownership change. -/
theorem State.snoopSector_clear {s : State} {lo : Nat} (h : ∀ p ∈ s.partials, lineOf p.loc ≠ lineOf lo) :
    s.snoopSector lo = { s with regs := (s.snoopSector lo).regs, sectors := (s.snoopSector lo).sectors } := by
  unfold State.snoopSector
  rw [State.recall_clear h]
  rfl

/-- A snoop of a line: its registered words and partial values are pushed, and the LLC's copy is dropped. -/
theorem State.snoopLine_pushes (s : State) (line : Nat) :
    (∀ p ∈ (s.snoopLine line).partials, lineOf p.loc ≠ line) ∧ (∀ r ∈ (s.snoopLine line).regs, r.line ≠ line)
    ∧ (s.snoopLine line).llc = s.llc.filter (·.line != line) := by
  have hflush := (((s.recall line).pushWords line 128).llcFlush_meters (·.line == line)).rest
  unfold State.snoopLine
  rw [hflush]
  refine ⟨fun p hp => ((s.mem_partials_recall line p).1 hp).2, fun r hr hl => ?_, ?_⟩
  · have h0 := State.words_pushWords (s := s.recall line) (loc := line) (n := 128) hr
    obtain ⟨-, -, -, hne⟩ := ((s.recall line).mem_regs_pushWords line 128 r).1 hr
    rw [hl, wordsIn_whole, BitVec.and_allOnes] at h0
    exact hne h0
  · rw [s.recall_same]
    rfl

/-- Where no core holds a partial value of the line, only registrations, the LLC and what write-backs cost change. -/
theorem State.snoopLine_clear {s : State} {line : Nat} (h : ∀ p ∈ s.partials, lineOf p.loc ≠ line) :
    s.snoopLine line = { s with
      regs := (s.snoopLine line).regs, llc := (s.snoopLine line).llc, contexts := (s.snoopLine line).contexts }
    ∧ ∀ n, ((s.snoopLine line).context? n).map Context.unmetered = (s.context? n).map Context.unmetered := by
  have hflush := (s.pushWords line 128).llcFlush_meters (·.line == line)
  unfold State.snoopLine
  rw [State.recall_clear h]
  exact ⟨by rw [hflush.rest]; rfl, hflush.meters⟩

/-! ## The host's memory and a sharing device's writes -/

/-- A run of sector snoops that meets no partial value gives up the sectors and changes nothing but the books. -/
theorem State.foldl_snoopSector (los : List Nat) : ∀ s : State,
    (∀ p ∈ s.partials, ∀ lo ∈ los, lineOf p.loc ≠ lineOf lo) →
    let t := los.foldl State.snoopSector s
    t = { s with regs := t.regs, sectors := t.sectors }
    ∧ ∀ n ∈ t.sectors, n ∈ s.sectors ∧ ∀ lo ∈ los, n ≠ lo / 64 := by
  induction los with
  | nil => exact fun s _ => ⟨rfl, fun n hn => ⟨hn, by simp⟩⟩
  | cons lo los ih =>
    intro s h
    have h1 := State.snoopSector_clear fun p hp => h p hp lo List.mem_cons_self
    obtain ⟨-, hs, -⟩ := s.snoopSector_pushes lo
    have hpart : (s.snoopSector lo).partials = s.partials := by rw [h1]
    obtain ⟨g1, g2⟩ := ih (s.snoopSector lo) fun p hp q hq =>
      h p (hpart ▸ hp) q (List.mem_cons_of_mem _ hq)
    refine ⟨by rw [List.foldl_cons, g1, h1], fun n hn => ?_⟩
    obtain ⟨k1, k2⟩ := g2 n hn
    obtain ⟨k3, k4⟩ := (hs n).1 k1
    exact ⟨k3, List.forall_mem_cons.2 ⟨k4, k2⟩⟩

/-- A run of line snoops that meets no partial value drops the lines and changes nothing but the books. -/
theorem State.foldl_snoopLine (ls : List Nat) : ∀ s : State, (∀ p ∈ s.partials, lineOf p.loc ∉ ls) →
    let t := ls.foldl State.snoopLine s
    t = { s with regs := t.regs, llc := t.llc, contexts := t.contexts } ∧ ∀ l ∈ t.llc, l ∈ s.llc ∧ l.line ∉ ls := by
  induction ls with
  | nil => exact fun s _ => ⟨rfl, fun l hl => ⟨hl, by simp⟩⟩
  | cons a ls ih =>
    intro s h
    obtain ⟨h1, -⟩ := State.snoopLine_clear (line := a) fun p hp e => h p hp (e ▸ List.mem_cons_self)
    obtain ⟨-, -, hl⟩ := s.snoopLine_pushes a
    have hpart : (s.snoopLine a).partials = s.partials := by rw [h1]
    obtain ⟨g1, g2⟩ := ih (s.snoopLine a) fun p hp hm => h p (hpart ▸ hp) (List.mem_cons_of_mem _ hm)
    refine ⟨by rw [List.foldl_cons, g1, h1], fun l hm => ?_⟩
    obtain ⟨k1, k2⟩ := g2 l hm
    rw [hl] at k1
    obtain ⟨k3, k4⟩ := List.mem_filter.1 k1
    exact ⟨k3, by simpa using ⟨by simpa using k4, k2⟩⟩

/-- The sectors, or lines, that some bytes touch hold each of the bytes. -/
theorem mem_unitsOf {size : Nat} (hs : size = 64 ∨ size = 128) (lo : Nat) {n i : Nat} (h : i < n) :
    (lo + i) / size * size ∈ unitsOf size lo n := by
  refine List.mem_map.2 ⟨(lo + i) / size - lo / size, List.mem_range.2 ?_, ?_⟩ <;>
    rcases hs with rfl | rfl <;> omega

/-- The lines of the sectors that some bytes touch are lines that the bytes touch. -/
theorem lineOf_mem_linesOf {a n lo : Nat} (h : lo ∈ unitsOf 64 a n) : lineOf lo ∈ linesOf a n := by
  obtain ⟨i, hi, rfl⟩ := List.mem_map.1 h
  have hi := List.mem_range.1 hi
  refine List.mem_map.2 ⟨((a / 64 + i) * 64 - lineOf a) / 128, List.mem_range.2 ?_, ?_⟩
  · unfold lineOf; omega
  · unfold lineOf; omega

theorem unitsOf_lines (a n : Nat) : unitsOf 128 a n = linesOf a n := by
  unfold unitsOf linesOf lineOf
  exact List.map_congr_left fun i _ => by omega

/-- An agent outside the sites reads package scratchpad without a book being kept. -/
theorem placeOf_psBase (ctx off : Nat) : placeOf 0 (psBase ctx + off) ≠ .cxl
    ∧ cached 0 (psBase ctx + off) = false := by
  have h : 2 ^ 51 ≤ psBase ctx + off := by unfold psBase; omega
  have hp : placeOf 0 (psBase ctx + off) = .scratch ∨ placeOf 0 (psBase ctx + off) = .package := by
    unfold placeOf
    by_cases h70 : 2 ^ 70 ≤ psBase ctx + off
    · exact .inl (by rw [if_neg (by decide), if_neg (by decide), if_neg (by decide), if_pos h70])
    · exact .inr (by rw [if_neg (by decide), if_neg (by decide), if_neg (by decide), if_neg h70, if_pos h])
  unfold cached
  rcases hp with hp | hp <;> simp [hp]

/-- A read of package scratchpad whose lines no core holds partial values of changes nothing. -/
theorem State.readAt_package {s : State} (a : Agent) {ctx off n : Nat}
    (h : ∀ p ∈ s.partials, lineOf p.loc ∉ linesOf (psBase ctx + off) n) :
    s.readAt a 0 (psBase ctx + off) n = (s, s.mem.readBytes (psBase ctx + off) n) := by
  obtain ⟨h1, h2⟩ := placeOf_psBase ctx off
  have hn : s.noteReadBy a 0 (psBase ctx + off) = s := by
    simp [State.noteReadBy, State.passLlc, h1, h2]
  unfold State.readAt
  rw [State.recallLines_clear h]
  dsimp only
  rw [hn]

/-- A write of package scratchpad that no page lock holds is one write of its bytes. -/
theorem State.writeAt_package {s : State} (a : Agent) {ctx off : Nat} {bs : List Byte}
    (h : ∀ p ∈ s.partials, lineOf p.loc ∉ linesOf (psBase ctx + off) bs.length)
    (hl : s.pageLockOf (psBase ctx + off) = none) :
    s.writeAt a 0 (psBase ctx + off) bs = s.poke (psBase ctx + off) bs := by
  obtain ⟨-, h2⟩ := placeOf_psBase ctx off
  unfold State.writeAt State.noteWriteBy
  rw [hl, State.recallLines_clear h, h2]
  rfl

/-- Bytes poked lie there, and every other byte is as it was. -/
theorem State.read_poke {s : State} (h : s.mem.wf) (loc : Nat) (bs : List Byte) (z : Nat) :
    (s.poke loc bs).mem.read z = laid loc bs z (s.mem.read z) :=
  Memory.read_writeBytes bs h loc z

/-- The bytes of a partition that the host may reach: the partition is granted to it and they lie in it (R310). -/
def State.Granted (s : State) (ctx off n : Nat) : Prop :=
  ∃ c, s.context? ctx = some c ∧ c.psHost = true ∧ off + n ≤ c.psBytes

theorem hostRead_granted {s : State} {ctx off n : Nat} (h : s.Granted ctx off n) :
    execHostMemAccess (.read ctx off n) s = .next (hostTakes (s.readAt (remoteAgent ctx) 0 (psBase ctx + off) n)) := by
  obtain ⟨c, hc, hp, hb⟩ := h
  simp [execHostMemAccess, hc, hp, hb]

theorem hostRead_refused {s : State} {ctx off n : Nat} (h : ¬ s.Granted ctx off n) :
    execHostMemAccess (.read ctx off n) s = .next s := by
  cases hc : s.context? ctx with
  | none => simp [execHostMemAccess, hc]
  | some c =>
    have hn : ¬ (c.psHost = true ∧ off + n ≤ c.psBytes) := fun hb => h ⟨c, hc, hb⟩
    simp only [execHostMemAccess, hc]
    rw [if_neg (by simpa using hn)]

theorem hostWrite_granted {s : State} {ctx off : Nat} {bs : List Byte} (h : s.Granted ctx off bs.length) :
    execHostMemAccess (.write ctx off bs) s = .next (s.writeAt (remoteAgent ctx) 0 (psBase ctx + off) bs) := by
  obtain ⟨c, hc, hp, hb⟩ := h
  simp [execHostMemAccess, hc, hp, hb]

theorem hostWrite_refused {s : State} {ctx off : Nat} {bs : List Byte} (h : ¬ s.Granted ctx off bs.length) :
    execHostMemAccess (.write ctx off bs) s = .next s := by
  cases hc : s.context? ctx with
  | none => simp [execHostMemAccess, hc]
  | some c =>
    have hn : ¬ (c.psHost = true ∧ off + bs.length ≤ c.psBytes) := fun hb => h ⟨c, hc, hb⟩
    simp only [execHostMemAccess, hc]
    rw [if_neg (by simpa using hn)]

/-- What the host reaches of a partition that is granted to it. -/
theorem host_partition (s : State) (ctx off : Nat) :
    let granted := fun n => ∃ c, s.context? ctx = some c ∧ c.psHost = true ∧ off + n ≤ c.psBytes
    let loc := psBase ctx + off
    let clear := fun n => ∀ p ∈ s.partials, lineOf p.loc ∉ linesOf loc n
    (∀ n, ¬ granted n → exec (.hostMemAccess (.read ctx off n)) s = .next s)
    ∧ (∀ bs, ¬ granted bs.length → exec (.hostMemAccess (.write ctx off bs)) s = .next s)
    ∧ (∀ n, granted n → clear n → ∃ t, exec (.hostMemAccess (.read ctx off n)) s = .next t ∧ t.mem = s.mem
        ∧ t.hostValue = s.mem.readBytes loc n)
    ∧ ∀ bs, granted bs.length → clear bs.length → s.pageLockOf loc = none → s.mem.wf →
        ∃ t, exec (.hostMemAccess (.write ctx off bs)) s = .next t ∧ ∀ z, t.mem.read z = laid loc bs z (s.mem.read z) := by
  intro granted loc clear
  have hexec : ∀ a, exec (.hostMemAccess a) s = execHostMemAccess a s := fun _ => rfl
  simp only [hexec]
  refine ⟨fun n => hostRead_refused, fun bs => hostWrite_refused, fun n hn hc => ?_, fun bs hn hc hl hw => ?_⟩
  · rw [hostRead_granted hn, State.readAt_package _ hc]
    exact ⟨_, rfl, rfl, rfl⟩
  · rw [hostWrite_granted hn, State.writeAt_package _ hc hl]
    exact ⟨_, rfl, State.read_poke hw loc bs⟩

/-- What the host's accesses to its own memory, and a sharing device's writes, reach. -/
theorem host_memory (s : State) (loc : Nat) :
    let clear := fun lo n => ∀ p ∈ s.partials, lineOf p.loc ∉ linesOf lo n
    (∀ n, loc + n ≤ 2 ^ 64 → clear (hostBase + loc) n → ∃ t, exec (.hostMemAccess (.hostRead loc n)) s = .next t
      ∧ t.mem = s.mem ∧ t.hostValue = s.mem.readBytes (hostBase + loc) n
      ∧ ∀ i < n, (hostBase + loc + i) / 64 ∉ t.sectors)
    ∧ (∀ bs, loc + bs.length ≤ 2 ^ 64 → clear (hostBase + loc) bs.length → s.mem.wf →
      ∃ t, exec (.hostMemAccess (.hostWrite loc bs)) s = .next t
        ∧ (∀ z, t.mem.read z = laid (hostBase + loc) bs z (s.mem.read z))
        ∧ ∀ i < bs.length, (hostBase + loc + i) / 64 ∉ t.sectors)
    ∧ (∀ bs, loc + bs.length ≤ 2 ^ 51 → clear loc bs.length → s.mem.wf →
      ∃ t, exec (.hostMemAccess (.deviceWrite loc bs)) s = .next t
        ∧ (∀ z, t.mem.read z = laid loc bs z (s.mem.read z))
        ∧ ∀ i < bs.length, ∀ l ∈ t.llc, l.line ≠ lineOf (loc + i))
    ∧ (∀ n, 2 ^ 64 < loc + n → exec (.hostMemAccess (.hostRead loc n)) s = .next s)
    ∧ (∀ bs, 2 ^ 64 < loc + bs.length → exec (.hostMemAccess (.hostWrite loc bs)) s = .next s)
    ∧ ∀ bs, 2 ^ 51 < loc + bs.length → exec (.hostMemAccess (.deviceWrite loc bs)) s = .next s := by
  intro clear
  have hexec : ∀ a, exec (.hostMemAccess a) s = execHostMemAccess a s := fun _ => rfl
  have sectors : ∀ n, clear (hostBase + loc) n →
      let t := (unitsOf 64 (hostBase + loc) n).foldl State.snoopSector s
      t.mem = s.mem ∧ ∀ i < n, (hostBase + loc + i) / 64 ∉ t.sectors := by
    intro n hc
    obtain ⟨h1, h2⟩ := State.foldl_snoopSector (unitsOf 64 (hostBase + loc) n) s fun p hp lo hlo e =>
      hc p hp (e ▸ lineOf_mem_linesOf hlo)
    refine ⟨by rw [h1], fun i hi hm => ?_⟩
    exact (h2 _ hm).2 _ (mem_unitsOf (.inl rfl) _ hi) (by omega)
  simp only [hexec, execHostMemAccess]
  refine ⟨fun n hn hc => ?_, fun bs hn hc hw => ?_, fun bs hn hc hw => ?_, fun n hn => by rw [if_pos hn],
    fun bs hn => by rw [if_pos hn], fun bs hn => by rw [if_pos hn]⟩
  · obtain ⟨hm, hs⟩ := sectors n hc
    rw [if_neg (by omega)]
    exact ⟨_, rfl, hm, by rw [hm], hs⟩
  · obtain ⟨hm, hs⟩ := sectors bs.length hc
    rw [if_neg (by omega)]
    exact ⟨_, rfl, fun z => by rw [State.read_poke (hm ▸ hw), hm], hs⟩
  · obtain ⟨h1, h2⟩ := State.foldl_snoopLine (unitsOf 128 loc bs.length) s fun p hp => unitsOf_lines _ _ ▸ hc p hp
    have hm : ((unitsOf 128 loc bs.length).foldl State.snoopLine s).mem = s.mem := by rw [h1]
    rw [if_neg (by omega)]
    exact ⟨_, rfl, fun z => by rw [State.read_poke (hm ▸ hw), hm], fun i hi l hl e =>
      (h2 l hl).2 (e ▸ mem_unitsOf (.inr rfl) loc hi)⟩

/-! ## The registers of BAR 0 (R310, R357) -/

/-- An access of 4 or 8 bytes, naturally aligned. -/
def Aligned (off size : Nat) : Prop := (size = 4 ∨ size = 8) ∧ off % size = 0

theorem not_aligned {off n : Nat} (h : (n ≠ 4 ∧ n ≠ 8) ∨ off % n ≠ 0) : ¬ Aligned off n := by
  unfold Aligned; tauto

/-- An aligned write of a mailbox register below EVLOST. -/
theorem registerWrite_mailbox {off size : Nat} (h : Aligned off size) (hr : off / 8 * 8 < 0x40) (v : Word64)
    (s : State) : exec (.registerWrite off size v) s = .next { s with
      mailbox := s.mailbox.write (off / 8 * 8) (mergeWrite (s.mailbox.at (off / 8 * 8)) off size v) } := by
  have hexec : exec (.registerWrite off size v) s = execRegisterWrite off size v s := rfl
  rw [hexec]
  unfold execRegisterWrite
  dsimp only
  rw [if_neg (by unfold Aligned at h; tauto), if_neg (by omega), if_pos (by omega)]

/-- Any other write changes nothing. -/
theorem registerWrite_unaligned {off size : Nat} (h : (size ≠ 4 ∧ size ≠ 8) ∨ off % size ≠ 0) (v : Word64)
    (s : State) : exec (.registerWrite off size v) s = .next s := by
  have hexec : exec (.registerWrite off size v) s = execRegisterWrite off size v s := rfl
  rw [hexec]
  unfold execRegisterWrite
  dsimp only
  rw [if_pos h]

/-- So does one of what is reserved. -/
theorem registerWrite_reserved {off : Nat} (size : Nat) (h : 0x48 ≤ off) (h' : off < 0x4000 ∨ 0x5000 ≤ off)
    (v : Word64) (s : State) : exec (.registerWrite off size v) s = .next s := by
  by_cases hw : (size ≠ 4 ∧ size ≠ 8) ∨ off % size ≠ 0
  · exact registerWrite_unaligned hw v s
  have hexec : exec (.registerWrite off size v) s = execRegisterWrite off size v s := rfl
  rw [hexec]
  unfold execRegisterWrite
  dsimp only
  rw [if_neg hw, if_neg (by omega), if_neg (by omega), if_neg (by omega), if_neg (by omega)]

/-- A write of EVLOST clears bits. -/
theorem registerWrite_evlost (v : Word64) (s : State) : exec (.registerWrite 0x40 8 v) s = .next (s.clearLost v) := rfl

/-- A write of a queue's tail. -/
theorem registerWrite_tail {q n : Nat} (hq : q < 64) (hn : n = 4 ∨ n = 8) (v : Word64) (s : State) :
    exec (.registerWrite (0x4018 + 64 * q) n v) s = exec (.launchQueueTail q (v.setWidth 32)) s := by
  have hexec : exec (.registerWrite (0x4018 + 64 * q) n v) s = execRegisterWrite (0x4018 + 64 * q) n v s := rfl
  have hreg : (0x4018 + 64 * q) / 8 * 8 = 0x4018 + 64 * q := by omega
  have hix : (0x4018 + 64 * q - 0x4000) / 64 = q := by omega
  have ha : ¬ ((n ≠ 4 ∧ n ≠ 8) ∨ (0x4018 + 64 * q) % n ≠ 0) := by rcases hn with rfl | rfl <;> omega
  rw [hexec]
  unfold execRegisterWrite
  dsimp only
  rw [hreg, if_neg ha, if_neg (by omega), if_neg (by omega), if_pos (by omega), if_pos (by omega), hix]
  rfl

/-- A write of a queue's error word. -/
theorem registerWrite_error {q : Nat} (hq : q < 64) (v : Word64) (s : State) :
    exec (.registerWrite (0x4030 + 64 * q) 8 v) s = exec (.launchQueueErrorClear q v) s := by
  have hexec : exec (.registerWrite (0x4030 + 64 * q) 8 v) s = execRegisterWrite (0x4030 + 64 * q) 8 v s := rfl
  have hreg : (0x4030 + 64 * q) / 8 * 8 = 0x4030 + 64 * q := by omega
  have hix : (0x4030 + 64 * q - 0x4000) / 64 = q := by omega
  rw [hexec]
  unfold execRegisterWrite
  dsimp only
  rw [hreg, if_neg (by omega), if_neg (by omega), if_neg (by omega), if_neg (by omega), if_pos (by omega), hix]
  rfl

/-- The host's read of BAR 0 gives it the bytes of the register. -/
theorem register_read {off n : Nat} (h : off + n ≤ 0x10000) (s : State) :
    exec (.hostMemAccess (.register off n)) s = .next { s with hostValue := s.registerBytes off n } := by
  have hexec : exec (.hostMemAccess (.register off n)) s = execHostMemAccess (.register off n) s := rfl
  rw [hexec]
  unfold execHostMemAccess
  dsimp only
  rw [if_neg (by omega)]

/-- Any other access reads all ones. -/
theorem State.registerBytes_other (s : State) {off n : Nat} (h : (n ≠ 4 ∧ n ≠ 8) ∨ off % n ≠ 0) :
    s.registerBytes off n = List.replicate n 0xFF := by
  unfold State.registerBytes
  exact if_neg (not_aligned h)

/-- All eight bytes of a register. -/
theorem State.registerBytes_word (s : State) {off : Nat} (h : off % 8 = 0) :
    s.registerBytes off 8 = natToBytes 8 (s.registerAt off).toNat := by
  have hreg : off / 8 * 8 = off := by omega
  unfold State.registerBytes
  rw [if_pos ⟨.inr rfl, h⟩, hreg, h]
  simp

/-- Four bytes of a register. -/
theorem State.registerBytes_half (s : State) {off : Nat} (h : off % 4 = 0) :
    s.registerBytes off 4 = natToBytes 4 ((s.registerAt (off / 8 * 8)).toNat / 2 ^ (8 * (off % 8))) := by
  unfold State.registerBytes
  rw [if_pos ⟨.inl rfl, h⟩]

theorem natToBytes_mod (n v : Nat) : natToBytes n (v % 2 ^ (8 * n)) = natToBytes n v := by
  induction n generalizing v with
  | zero => rfl
  | succ n ih =>
    have hp : 2 ^ (8 * (n + 1)) = 256 * 2 ^ (8 * n) := by rw [Nat.mul_add, Nat.pow_add, Nat.mul_comm]
    have hlow : BitVec.ofNat 8 (v % (256 * 2 ^ (8 * n))) = BitVec.ofNat 8 v := by
      apply BitVec.eq_of_toNat_eq
      simp only [BitVec.toNat_ofNat]
      exact Nat.mod_mod_of_dvd v (dvd_mul_right _ _)
    rw [natToBytes, natToBytes, hp, hlow, Nat.mod_mul_right_div_self, ih]

/-- A ring's base keeps the bits that 4 KiB alignment leaves. -/
theorem ringBase_eq (v : Word64) : ringBase v = v &&& 0xFFFFFFFFFFFFF000 := by
  have hmask : (0xFFFFFFFFFFFFF000 : Word64) = BitVec.allOnes 64 <<< 12 := by decide
  have hshift : ringBase v = (v >>> 12) <<< 12 := by
    apply BitVec.eq_of_toNat_eq
    simp [ringBase, Nat.shiftRight_eq_div_pow, Nat.shiftLeft_eq]
  rw [hshift, hmask]
  apply BitVec.eq_of_getLsbD_eq
  intro i hi
  rw [BitVec.getLsbD_and, BitVec.getLsbD_shiftLeft, BitVec.getLsbD_shiftLeft, BitVec.getLsbD_ushiftRight,
    BitVec.getLsbD_allOnes]
  by_cases h : i < 12
  · simp [h]
  · simp only [hi, h, Nat.add_sub_cancel' (Nat.le_of_not_lt h), show i - 12 < 64 by omega, decide_true, decide_false,
      Bool.not_false, Bool.true_and, Bool.and_true]

theorem ringSize_iff (v : Word64) : ringSize v = true ↔ v = 0 ∨ (4 ≤ v.toNat ∧ v.toNat ≤ 12) := by
  simp [ringSize]

/-- The number of two bit vectors side by side. -/
theorem toNat_append_eq_add {m n : Nat} (a : BitVec m) (b : BitVec n) :
    (a ++ b).toNat = a.toNat * 2 ^ n + b.toNat := by
  rw [BitVec.toNat_append, ← Nat.shiftLeft_add_eq_or_of_lt b.isLt, Nat.shiftLeft_eq]

/-- A write of four bytes replaces the low half of its register. -/
theorem mergeWrite_low (old v : Word64) {off : Nat} (h : off % 8 = 0) :
    mergeWrite old off 4 v = old.extractLsb 63 32 ++ v.setWidth 32 := by
  have hold := old.isLt
  apply BitVec.eq_of_toNat_eq
  unfold mergeWrite
  rw [if_neg (by decide), if_pos h, toNat_append_eq_add, BitVec.toNat_ofNat]
  simp only [BitVec.extractLsb_toNat, BitVec.toNat_setWidth, Nat.shiftRight_eq_div_pow]
  omega

/-- One at the upper word replaces the high half. -/
theorem mergeWrite_high (old v : Word64) {off : Nat} (h : off % 8 ≠ 0) :
    mergeWrite old off 4 v = v.setWidth 32 ++ old.setWidth 32 := by
  apply BitVec.eq_of_toNat_eq
  unfold mergeWrite
  rw [if_neg (by decide), if_neg h, toNat_append_eq_add, BitVec.toNat_ofNat]
  simp only [BitVec.toNat_setWidth]
  omega

theorem mergeWrite_word (old v : Word64) (off : Nat) : mergeWrite old off 8 v = v := rfl

/-- What writes of the mailbox, queue and reserved registers do. -/
theorem register_writes (s : State) (v : Word64) :
    let b := s.mailbox
    let gives := fun (out : Host.Outcome State Fault Refusal) (m : Mailbox) => out = .next { s with mailbox := m }
    let size := v = 0 ∨ (4 ≤ v.toNat ∧ v.toNat ≤ 12)
    gives (exec (.registerWrite 0x00 8 v) s) { b with cmdbase := v &&& 0xFFFFFFFFFFFFF000 }
    ∧ gives (exec (.registerWrite 0x08 8 v) s) { b with cmdsize := if size then v else b.cmdsize }
    ∧ exec (.registerWrite 0x10 8 v) s = .next s
    ∧ gives (exec (.registerWrite 0x18 8 v) s) { b with cmdtail := v }
    ∧ gives (exec (.registerWrite 0x18 4 v) s) { b with cmdtail := b.cmdtail.extractLsb 63 32 ++ v.setWidth 32 }
    ∧ gives (exec (.registerWrite 0x1C 4 v) s) { b with cmdtail := v.setWidth 32 ++ b.cmdtail.setWidth 32 }
    ∧ gives (exec (.registerWrite 0x20 8 v) s) { b with evbase := v &&& 0xFFFFFFFFFFFFF000 }
    ∧ gives (exec (.registerWrite 0x28 8 v) s) { b with evsize := if size then v else b.evsize }
    ∧ gives (exec (.registerWrite 0x30 8 v) s) { b with evhead := v }
    ∧ gives (exec (.registerWrite 0x30 4 v) s) { b with evhead := b.evhead.extractLsb 63 32 ++ v.setWidth 32 }
    ∧ exec (.registerWrite 0x38 8 v) s = .next s := by
  intro b gives size
  have write : ∀ {off n : Nat}, Aligned off n → off / 8 * 8 < 0x40 → gives (exec (.registerWrite off n v) s)
      (b.write (off / 8 * 8) (mergeWrite (b.at (off / 8 * 8)) off n v)) := fun ha hr => registerWrite_mailbox ha hr v s
  have word : ∀ {off : Nat}, off % 8 = 0 → off < 0x40 → gives (exec (.registerWrite off 8 v) s) (b.write off v) := by
    intro off ha hr
    have hreg : off / 8 * 8 = off := by omega
    simpa only [hreg, mergeWrite_word] using write (off := off) ⟨.inr rfl, ha⟩ (by omega)
  have sized : ∀ old : Mailbox → Word64, (if ringSize v = true then v else old b) = if size then v else old b :=
    fun old => if_congr (ringSize_iff v) rfl rfl
  refine ⟨?_, ?_, word rfl (by decide), word rfl (by decide), ?_, ?_, ?_, ?_, word rfl (by decide), ?_,
    word rfl (by decide)⟩
  · rw [← ringBase_eq]
    exact word rfl (by decide)
  · rw [← sized Mailbox.cmdsize]
    refine (word (off := 0x08) rfl (by decide)).trans ?_
    simp only [Mailbox.write]
    split <;> rfl
  · rw [← mergeWrite_low b.cmdtail v (off := 0x18) rfl]
    exact write ⟨.inl rfl, rfl⟩ (by decide)
  · rw [← mergeWrite_high b.cmdtail v (off := 0x1C) (by decide)]
    exact write ⟨.inl rfl, rfl⟩ (by decide)
  · rw [← ringBase_eq]
    exact word rfl (by decide)
  · rw [← sized Mailbox.evsize]
    refine (word (off := 0x28) rfl (by decide)).trans ?_
    simp only [Mailbox.write]
    split <;> rfl
  · rw [← mergeWrite_low b.evhead v (off := 0x30) rfl]
    exact write ⟨.inl rfl, rfl⟩ (by decide)

/-- What the host reads of BAR 0. -/
theorem register_reads (s : State) :
    let b := s.mailbox
    let reads := fun off n bs => exec (.hostMemAccess (.register off n)) s = .next { s with hostValue := bs }
    let word := fun off (x : Word64) => reads off 8 (natToBytes 8 x.toNat)
    (∀ off n, (n ≠ 4 ∧ n ≠ 8) ∨ off % n ≠ 0 → off + n ≤ 0x10000 → reads off n (List.replicate n 0xFF))
    ∧ (word 0x00 b.cmdbase ∧ word 0x08 b.cmdsize ∧ word 0x10 b.cmdhead ∧ word 0x18 b.cmdtail ∧ word 0x20 b.evbase
      ∧ word 0x28 b.evsize ∧ word 0x30 b.evhead ∧ word 0x38 b.evtail ∧ word 0x40 b.evlost)
    ∧ reads 0x38 4 (natToBytes 4 (b.evtail.toNat % 2 ^ 32)) ∧ reads 0x3C 4 (natToBytes 4 (b.evtail.toNat / 2 ^ 32))
    ∧ (∀ q < 64, let u := s.queue q
        let at_ := 0x4000 + 64 * q
        word at_ u.base ∧ word (at_ + 8) (BitVec.ofNat 64 u.size) ∧ word (at_ + 0x10) (u.head.setWidth 64)
        ∧ word (at_ + 0x18) (u.tail.setWidth 64) ∧ word (at_ + 0x28) (u.quant.setWidth 64)
        ∧ word (at_ + 0x30) (BitVec.ofNat 64 u.err.toNat) ∧ word (at_ + 0x38) 0)
    ∧ ∀ off, 0x48 ≤ off → (off + 8 ≤ 0x4000 ∨ 0x5000 ≤ off) → off % 8 = 0 → off + 8 ≤ 0x10000 → word off 0 := by
  intro b reads word
  have registers : ∀ {off : Nat}, off % 8 = 0 → off + 8 ≤ 0x10000 → ∀ {x}, s.registerAt off = x → word off x := by
    rintro off ha hb x rfl
    show exec (.hostMemAccess (.register off 8)) s = _
    rw [register_read hb, s.registerBytes_word ha]
  have half : ∀ {off : Nat}, off % 4 = 0 → off + 4 ≤ 0x10000 →
      reads off 4 (natToBytes 4 ((s.registerAt (off / 8 * 8)).toNat / 2 ^ (8 * (off % 8)))) := by
    intro off ha hb
    show exec (.hostMemAccess (.register off 4)) s = _
    rw [register_read hb, s.registerBytes_half ha]
  have queues : ∀ {q k : Nat}, q < 64 → k < 8 → ∀ {x}, (s.queue q).at (8 * k) = x → word (0x4000 + 64 * q + 8 * k) x := by
    intro q k hq hk x hx
    refine registers (by omega) (by omega) ?_
    have hix : (0x4000 + 64 * q + 8 * k - 0x4000) / 64 = q := by omega
    have hoff : (0x4000 + 64 * q + 8 * k) % 64 = 8 * k := by omega
    unfold State.registerAt
    rw [if_neg (by omega), if_pos (by omega), hix, hoff, hx]
  refine ⟨fun off n hw hb => ?_, ⟨?_, ?_, ?_, ?_, ?_, ?_, ?_, ?_, ?_⟩, ?_, half (off := 0x3C) rfl (by decide),
    fun q hq => ⟨queues (k := 0) hq (by decide) rfl, queues (k := 1) hq (by decide) rfl,
      queues (k := 2) hq (by decide) rfl, queues (k := 3) hq (by decide) rfl, queues (k := 5) hq (by decide) rfl,
      queues (k := 6) hq (by decide) rfl, queues (k := 7) hq (by decide) rfl⟩,
    fun off h h' ha hb => registers ha hb ?_⟩
  · show exec (.hostMemAccess (.register off n)) s = _
    rw [register_read hb, s.registerBytes_other hw]
  iterate 9 exact registers rfl (by decide) rfl
  · rw [natToBytes_mod 4]
    have h := half (off := 0x38) rfl (by decide)
    have he : (s.registerAt 0x38).toNat / 2 ^ (8 * (0x38 % 8)) = b.evtail.toNat := Nat.div_one _
    rwa [he] at h
  · unfold State.registerAt
    rw [if_neg (by omega), if_neg (by omega)]

/-- Settles O59: each event of the link, of snoops and of the host by itself. -/
theorem linkAndHost : Obligations.LinkAndHost := by
  unfold Obligations.LinkAndHost
  refine ⟨⟨link_events, fun s x => ?_, fun s x => ?_, host_partition, host_memory⟩, fun s v => ?_⟩
  · obtain ⟨hp, hs, hr⟩ := s.snoopSector_pushes (x / 64 * 64)
    rw [lineOf_sector] at hp hr
    refine ⟨_, rfl, hp, fun n => ?_, hr, fun hc => ?_⟩
    · rw [hs, Nat.mul_div_cancel _ (by decide)]
    · exact State.snoopSector_clear (by simpa only [lineOf_sector] using hc)
  · obtain ⟨hp, hr, hl⟩ := s.snoopLine_pushes (lineOf x)
    exact ⟨_, rfl, hp, hr, hl, fun hc => State.snoopLine_clear hc⟩
  · obtain ⟨h1, h2, h3, h4, h5, h6, h7, h8, h9, h10, h11⟩ := register_writes s v
    exact ⟨rfl, fun off n hw => registerWrite_unaligned hw v s, h1, h2, h3, h4, h5, h6, h7, h8, h9, h10, h11,
      registerWrite_evlost v s, fun q hq n hn => registerWrite_tail hq (by simpa using hn) v s,
      fun q hq => registerWrite_error hq v s, fun off n h h' => registerWrite_reserved n h h' v s, register_reads s⟩

end Sys2Proof.Machine
end

section
/-! What a page-table walk and the choice of a gang's place look at: neither looks at the grids (R285, R286, R347). -/

set_option Elab.async false

namespace Sys2Proof.Machine

/-! ## What a walk looks at -/

/-- Two states hold the same memory, and would hold the same after any reader of a line. -/
structure State.SameMemory (s t : State) : Prop where
  mem : t.mem = s.mem
  poison : t.poison = s.poison
  partials : t.partials = s.partials
  free : t.free = s.free

theorem State.SameMemory.symm {s t : State} (h : s.SameMemory t) : t.SameMemory s :=
  ⟨h.mem.symm, h.poison.symm, h.partials.symm, h.free.symm⟩

theorem State.SameMemory.trans {s t u : State} (h : s.SameMemory t) (g : t.SameMemory u) : s.SameMemory u :=
  ⟨g.mem.trans h.mem, g.poison.trans h.poison, g.partials.trans h.partials, g.free.trans h.free⟩

theorem State.combine_sameMemory {s t : State} (h : s.SameMemory t) (p : Partial) :
    (s.combine p).SameMemory (t.combine p) := by
  obtain ⟨hm, hp, hq, hf⟩ := h
  unfold State.combine State.reduceAt State.atom State.poisoned State.peek
  rw [hm, hp]
  split
  · exact ⟨hm, hp, hq, hf⟩
  dsimp only
  split
  · exact ⟨hm, hp, hq, hf⟩
  · exact ⟨by simp [State.poke, hm], by simp [State.poke, hp], hq, hf⟩

theorem State.recall_sameMemory {s t : State} (h : s.SameMemory t) (line : Nat) :
    (s.recall line).SameMemory (t.recall line) := by
  have fold : ∀ (ps : List Partial) {s t : State}, s.SameMemory t →
      (ps.foldl State.combine s).SameMemory (ps.foldl State.combine t) := by
    intro ps
    induction ps with
    | nil => exact id
    | cons p ps ih => exact fun h => ih (State.combine_sameMemory h p)
  unfold State.recall
  rw [h.partials]
  exact fold _ ⟨h.mem, h.poison, rfl, h.free⟩

/-- An access that reaches the LLC changes no byte of memory. -/
theorem State.llcAccess_sameMemory (s : State) (ctx line : Nat) (write : Bool) :
    s.SameMemory (s.llcAccess ctx line write) := by
  have flush : ∀ (t : State) (p : LlcLine → Bool), t.SameMemory (t.llcFlush p) := fun t p => by
    rw [(t.llcFlush_meters p).rest]
    exact ⟨rfl, rfl, rfl, rfl⟩
  have trim : ∀ t : State, t.SameMemory (t.llcTrim ctx) := fun t => by
    unfold State.llcTrim
    dsimp only
    split
    · exact ⟨rfl, rfl, rfl, rfl⟩
    · exact flush t _
  unfold State.llcAccess
  dsimp only
  split
  · exact ⟨rfl, rfl, rfl, rfl⟩
  · refine State.SameMemory.trans ?_ (trim _)
    exact ⟨rfl, rfl, rfl, rfl⟩

theorem State.llcRead_sameMemory (s : State) (ctx line : Nat) : s.SameMemory (s.llcRead ctx line) := by
  unfold State.llcRead
  split
  · exact s.llcAccess_sameMemory _ _ _
  · refine State.SameMemory.trans ?_ (State.llcAccess_sameMemory _ _ _ _)
    exact ⟨rfl, rfl, rfl, rfl⟩

theorem State.readEntry_sameMemory {s t : State} (h : s.SameMemory t) (ctx a : Nat) :
    (s.readEntry ctx a).SameMemory (t.readEntry ctx a) := by
  have hr := State.recall_sameMemory h (lineOf a)
  unfold State.readEntry
  dsimp only
  split
  · exact (State.llcRead_sameMemory _ _ _).symm.trans (hr.trans (State.llcRead_sameMemory _ _ _))
  · exact hr

theorem State.recallWalk_sameMemory (ctx va level : Nat) : ∀ {s t : State} (_ : s.SameMemory t) (table : Nat),
    (s.recallWalk ctx va level table).SameMemory (t.recallWalk ctx va level table) := by
  induction level with
  | zero => exact fun h table => State.readEntry_sameMemory h _ _
  | succ level ih =>
    intro s t h table
    have hr := State.readEntry_sameMemory h ctx (pteAddr table va (level + 1))
    unfold State.recallWalk State.peek
    dsimp only
    rw [hr.mem]
    split
    · exact ih hr _
    · exact hr

theorem walkFrom_sameMemory {s t : State} (h : s.SameMemory t) (va level : Nat) : ∀ table : Nat,
    walkFrom t va level table = walkFrom s va level table := by
  have hg : ∀ a, groupEntry t a = groupEntry s a := fun a => by
    unfold groupEntry State.peek
    rw [h.mem, h.free]
  induction level with
  | zero => intro table; unfold walkFrom State.peek; dsimp only; rw [h.mem, hg]
  | succ level ih => intro table; unfold walkFrom State.peek; dsimp only; rw [h.mem, ih]

/-- A walk finds what memory says. -/
theorem State.walk_sameMemory {s t : State} (h : s.SameMemory t) (c : Context) (va : Nat) : t.walk c va = s.walk c va :=
  walkFrom_sameMemory (State.recallWalk_sameMemory c.num va 4 h c.root) va 4 c.root

/-! ## The place of a gang does not depend on the grids -/

theorem State.targetOf_mapGrid (s : State) (n : Nat) (f : Grid → Grid) (g : Grid) (ix : Nat) :
    (s.mapGrid n f).targetOf g ix = s.targetOf g ix := by
  have hw : ∀ c va, (s.mapGrid n f).walk c va = s.walk c va := fun c va =>
    State.walk_sameMemory (s := s) (t := s.mapGrid n f) ⟨rfl, rfl, rfl, rfl⟩ c va
  unfold State.targetOf
  simp only [hw]
  rfl

theorem State.spotFor_mapGrid (s : State) (n : Nat) (f : Grid → Grid) (g : Grid) (p : Footprint) (ix : Nat) (b : Bool) :
    (s.mapGrid n f).spotFor g p ix b = s.spotFor g p ix b := by
  unfold State.spotFor
  rw [State.targetOf_mapGrid]
  rfl

end Sys2Proof.Machine
end

section
/-! Obligation O52: gangs placed with the entry state of R21, and gangs that come back (R285, R345, R346). -/

set_option Elab.async false

namespace Sys2Proof.Machine

/-! ## The scheduler changes leases alone (R294) -/

/-- Two states that differ in the leases of warps alone. -/
structure State.SameButLeases (s t : State) : Prop where
  rest : t = { s with warp := t.warp, others := t.others }
  warps : t.warps.map Warp.unleased = s.warps.map Warp.unleased

theorem State.SameButLeases.refl (s : State) : s.SameButLeases s := ⟨rfl, rfl⟩

theorem State.SameButLeases.trans {s t u : State} (h : s.SameButLeases t) (g : t.SameButLeases u) :
    s.SameButLeases u :=
  ⟨by rw [g.rest, h.rest], g.warps.trans h.warps⟩

theorem State.SameButLeases.gangs {s t : State} (h : s.SameButLeases t) : t.gangs = s.gangs := by rw [h.rest]

theorem State.SameButLeases.foldl {α : Type} {f : State → α → State} (hf : ∀ (s : State) (a : α), s.SameButLeases (f s a))
    (l : List α) : ∀ s : State, s.SameButLeases (l.foldl f s) := by
  induction l with
  | nil => exact State.SameButLeases.refl
  | cons a l ih => exact fun s => (hf s a).trans (ih _)

theorem State.mapLease_leases (s : State) (u : Nat) (f : Lease → Lease) : s.SameButLeases (s.mapLease u f) := by
  unfold State.mapLease State.mapWarp
  split
  · exact ⟨rfl, rfl⟩
  · refine ⟨rfl, ?_⟩
    have hmap : ∀ w : Warp, (if w.uid == u then { w with lease := f w.lease } else w).unleased = w.unleased := by
      intro w
      split <;> rfl
    simp only [State.warps, List.map_cons, List.map_map, Function.comp_def, hmap]

theorem State.refreshLease_leases (s : State) (w : Warp) : s.SameButLeases (s.refreshLease w) := by
  unfold State.refreshLease
  split
  · split
    · exact .refl s
    · exact s.mapLease_leases _ _
  · split
    · exact .refl s
    · exact s.mapLease_leases _ _

theorem State.activateOne_leases {s t : State} {core : Nat} (h : s.activateOne core = some t) : s.SameButLeases t := by
  unfold State.activateOne at h
  split at h
  · cases h
  · next w rest _ =>
    dsimp only at h
    have hs := s.mapLease_leases w.uid fun l => { l with headSince := some (w.lease.headSince.getD s.clock.toNat) }
    split at h
    · cases h
      exact hs.trans (State.mapLease_leases _ _ _)
    · split at h
      · obtain ⟨x, -, rfl⟩ := Option.map_eq_some_iff.1 h
        exact hs.trans (State.mapLease_leases _ _ _)
      · obtain ⟨us, -, rfl⟩ := Option.map_eq_some_iff.1 h
        exact hs.trans ((State.SameButLeases.foldl (fun s u => s.mapLease_leases u _) us _).trans
          (State.mapLease_leases _ _ _))

theorem State.activateAll_leases (core n : Nat) : ∀ s : State, s.SameButLeases (State.activateAll core n s) := by
  induction n with
  | zero => exact State.SameButLeases.refl
  | succ n ih =>
    intro s
    unfold State.activateAll
    split
    · next h => exact (State.activateOne_leases h).trans (ih _)
    · split
      · exact .refl s
      · exact s.mapLease_leases _ _

theorem State.scheduleCluster_leases (s : State) (site cl : Nat) : s.SameButLeases (s.scheduleCluster site cl) :=
  State.SameButLeases.foldl (fun s _ =>
    (State.SameButLeases.foldl State.refreshLease_leases _ s).trans (State.activateAll_leases _ _ _)) _ s

/-- A warp is still there after the scheduler has decided, with some lease. -/
theorem State.SameButLeases.mem_warps {s t : State} (h : s.SameButLeases t) {w : Warp} (hw : w ∈ s.warps) :
    ∃ l, { w with lease := l } ∈ t.warps := by
  have hm : w.unleased ∈ t.warps.map Warp.unleased := by
    rw [h.warps]
    exact List.mem_map_of_mem hw
  obtain ⟨x, hx, he⟩ := List.mem_map.1 hm
  have hxw : x = { w with lease := x.lease } := by
    calc x = { x.unleased with lease := x.lease } := rfl
      _ = { w with lease := x.lease } := by rw [he]; rfl
  exact ⟨x.lease, hxw ▸ hx⟩

/-! ## What a placed gang stands on -/

/-- What makes a gang started is kept: the gangs there are, zero bytes and clean granules, and every warp but for its
lease. -/
structure State.KeepsStarted (s t : State) : Prop where
  gangs : ∀ h ∈ s.gangs, h ∈ t.gangs
  zero : ∀ a, s.mem.read a = 0 → t.mem.read a = 0
  clean : ∀ g ∈ t.poison, g ∈ s.poison
  warps : ∀ w ∈ s.warps, ∃ l, { w with lease := l } ∈ t.warps

theorem State.KeepsStarted.trans {s t u : State} (h : s.KeepsStarted t) (g : t.KeepsStarted u) : s.KeepsStarted u := by
  refine ⟨fun x hx => g.gangs x (h.gangs x hx), fun a ha => g.zero a (h.zero a ha), fun x hx => h.clean x (g.clean x hx),
    fun w hw => ?_⟩
  obtain ⟨l, hl⟩ := h.warps w hw
  obtain ⟨k, hk⟩ := g.warps _ hl
  exact ⟨k, hk⟩

/-- Where neither gangs, warps, memory nor poison differ. -/
theorem State.KeepsStarted.of_same {s t : State} (hg : t.gangs = s.gangs) (hm : t.mem = s.mem) (hp : t.poison = s.poison)
    (hw : t.warp = s.warp) (ho : t.others = s.others) : s.KeepsStarted t := by
  refine ⟨fun h hh => hg ▸ hh, fun a ha => hm ▸ ha, fun g hgp => hp ▸ hgp, fun w hww => ⟨w.lease, ?_⟩⟩
  unfold State.warps at *
  rw [hw, ho]
  exact hww

theorem State.SameButLeases.keepsStarted {s t : State} (h : s.SameButLeases t) : s.KeepsStarted t :=
  ⟨fun g hg => by rw [h.rest]; exact hg, fun a ha => by rw [h.rest]; exact ha, fun g hg => by rw [h.rest] at hg; exact hg,
    fun _ hw => h.mem_warps hw⟩

theorem State.KeepsStarted.started {s t : State} (hk : s.KeepsStarted t) {g : Grid} {h : Gang} {ix stack : Nat}
    (hs : Started s g h ix stack) : Started t g h ix stack := by
  obtain ⟨⟨hgang, hrest⟩, hmatrix, hscratch, hwarps⟩ := hs
  refine ⟨⟨hk.gangs h hgang, hrest⟩, hmatrix, fun a h1 h2 => ?_, fun wg hwg i hi => ?_⟩
  · obtain ⟨hz, hp⟩ := hscratch a h1 h2
    exact ⟨hk.zero a hz, fun hm => hp (hk.clean _ hm)⟩
  · obtain ⟨w, hw, hfacts⟩ := hwarps wg hwg i hi
    obtain ⟨l, hl⟩ := hk.warps w hw
    exact ⟨_, hl, hfacts⟩

/-! ## A gang is placed for the first time (R21, R285) -/

/-- A warp has the entry state of R21, its stack where log 82 puts it. -/
theorem startWarp_entry (g : Grid) (gang uid ix wg i site cl core slot stack clock : Nat) :
    let w := startWarp g gang uid ix wg i site cl core slot stack clock
    (w.gang = gang ∧ w.wg = wg ∧ w.index = i ∧ w.live = true ∧ w.resident = true ∧ w.ctx = g.ctx ∧ w.site = site
      ∧ w.cluster = cl ∧ w.core = core)
    ∧ (w.frag.pc = BitVec.ofNat 57 g.record.entry ∧ w.frag.fetch = w.frag.pc ∧ w.frag.mask = BitVec.allOnes 32
      ∧ w.frag.hints = {} ∧ w.frags = [] ∧ w.park = [])
    ∧ (let b := fun n : Nat => BitVec.ofNat 64 n
       let r := g.record
       let low := stack + (wg * r.wgsize + i) * (32 * r.stack)
       (∀ k : Fin 64, w.s[k] = if k = 1 then b r.args else if k = 2 then b (ix % r.gx) else if k = 3 then b (ix / r.gx % r.gy)
         else if k = 4 then b (ix / r.gx / r.gy) else if k = 5 then b wg else if k = 6 then b i
         else if k = 62 then b (low + 32 * r.stack) else 0)
       ∧ w.stktop = b (low + 32 * r.stack) ∧ w.stklim = b low)
    ∧ (∀ (k : Fin 64) (l : Fin 32), w.v[k][l] =
        if k = 0 then BitVec.ofNat 32 l.val else if k = 1 then BitVec.ofNat 32 (32 * i + l.val) else 0)
    ∧ (∀ k : Fin 8, w.m[k] = 0) ∧ (∀ k : Fin 16, w.tsr[k] = 0 ∧ w.tsrPoison[k] = 0)
    ∧ (∀ k : Fin 64, w.full (.s k) = true ∧ w.full (.v k) = true ∧ w.sPoison[k] = false ∧ w.vPoison[k] = 0)
    ∧ w.mPoison = 0 ∧ w.csrPoison = 0
    ∧ (w.dead = 0 ∧ w.dsrc = 0 ∧ w.fpflags = 0 ∧ w.exited = 0 ∧ w.trapvec = 0 ∧ w.trapcause = none ∧ w.trappc = 0
      ∧ w.traplanes = 0 ∧ w.trap = none)
    ∧ w.pend = [] ∧ w.log = [] ∧ w.locks = [] ∧ w.out = [] ∧ w.heldFaults = [] ∧ w.heldTraps = [] ∧ w.raising = none
    ∧ w.barw = 0 ∧ w.barg = 0 ∧ w.stall = none ∧ w.debugStop = false ∧ w.stepping = false := by
  intro w
  have hstack : (wg * g.record.wgsize + i) * 32 * g.record.stack = (wg * g.record.wgsize + i) * (32 * g.record.stack) :=
    Nat.mul_assoc _ _ _
  refine ⟨⟨rfl, rfl, rfl, rfl, rfl, rfl, rfl, rfl, rfl⟩, ⟨rfl, rfl, rfl, rfl, rfl, rfl⟩, ⟨fun k => ?_, ?_, ?_⟩,
    fun k l => ?_, fun k => ?_, fun k => ?_, fun k => ?_, rfl, rfl, ⟨rfl, rfl, rfl, rfl, rfl, rfl, rfl, rfl, rfl⟩, rfl,
    rfl, rfl, rfl, rfl, rfl, rfl, rfl, rfl, rfl, rfl, rfl⟩
  · simp only [w, startWarp, gangCoords, hstack, Fin.getElem_fin, Vector.getElem_set, Vector.getElem_replicate,
      Fin.ext_iff, Fin.coe_ofNat_eq_mod, Nat.reduceMod]
    generalize k.val = n
    generalize BitVec.ofNat 64 (stack + _ + _) = top
    grind
  · simp only [w, startWarp, hstack]
  · simp only [w, startWarp, hstack]
  · simp only [w, startWarp, Fin.getElem_fin, Vector.getElem_set, Fin.ext_iff, Fin.coe_ofNat_eq_mod,
      Nat.reduceMod]
    grind
  · simp [w, startWarp, Warp.blank]
  · simp [w, startWarp, Warp.blank]
  · simp [w, startWarp, Warp.blank, Warp.full]

/-- A workgroup that starts joins the warps; nothing else of what has been placed changes. -/
theorem State.startWorkgroup_same (s : State) (g : Grid) (gang ix site cl stack wg core : Nat) :
    let t := s.startWorkgroup g gang ix site cl stack wg core
    t = { s with others := t.others, nextUid := t.nextUid } ∧ (∀ w ∈ s.warps, w ∈ t.warps)
    ∧ ∀ i < g.record.wgsize, ∃ uid slot, startWarp g gang uid ix wg i site cl core slot stack s.clock.toNat ∈ t.warps := by
  intro t
  have hothers : t.warps = s.warp :: (s.others ++ (List.range g.record.wgsize).map fun i =>
      startWarp g gang (s.nextUid + i) ix wg i site cl core
        ((s.slotsOf (64 * site + 4 * cl + core) g.record.wgsize).getD i 0) stack s.clock.toNat) := rfl
  refine ⟨rfl, fun w hw => ?_, fun i hi => ?_⟩
  · rw [hothers, ← List.cons_append]
    exact List.mem_append_left _ hw
  · refine ⟨s.nextUid + i, (s.slotsOf (64 * site + 4 * cl + core) g.record.wgsize).getD i 0, ?_⟩
    rw [hothers]
    exact List.mem_cons_of_mem _ (List.mem_append_right _ (List.mem_map.2 ⟨i, List.mem_range.2 hi, rfl⟩))

/-- The workgroups of a gang that start, one after another. -/
def State.startGang (s : State) (g : Grid) (gang ix site cl stack : Nat) (cores : List Nat) (wgs : List Nat) : State :=
  wgs.foldl (fun s i => s.startWorkgroup g gang ix site cl stack i (cores.getD i 0)) s

theorem State.startGang_same (g : Grid) (gang ix site cl stack : Nat) (cores wgs : List Nat) : ∀ s : State,
    let t := s.startGang g gang ix site cl stack cores wgs
    t = { s with others := t.others, nextUid := t.nextUid } ∧ (∀ w ∈ s.warps, w ∈ t.warps)
    ∧ ∀ wg ∈ wgs, ∀ i < g.record.wgsize, ∃ uid slot,
        startWarp g gang uid ix wg i site cl (cores.getD wg 0) slot stack s.clock.toNat ∈ t.warps := by
  induction wgs with
  | nil => exact fun s => ⟨rfl, fun _ hw => hw, by simp⟩
  | cons a wgs ih =>
    intro s t
    obtain ⟨h1, h2, h3⟩ := s.startWorkgroup_same g gang ix site cl stack a (cores.getD a 0)
    obtain ⟨g1, g2, g3⟩ := ih (s.startWorkgroup g gang ix site cl stack a (cores.getD a 0))
    have hclock : (s.startWorkgroup g gang ix site cl stack a (cores.getD a 0)).clock = s.clock := by rw [h1]
    refine ⟨g1.trans rfl, fun w hw => g2 w (h2 w hw), List.forall_mem_cons.2 ⟨fun i hi => ?_, ?_⟩⟩
    · obtain ⟨uid, slot, hm⟩ := h3 i hi
      exact ⟨uid, slot, g2 _ hm⟩
    · rw [hclock] at g3
      exact g3

theorem Memory.read_cons (b : Nat) (v : Byte) (m : Memory) (a : Nat) :
    Memory.read ((b, v) :: m) a = if b = a then v else m.read a := rfl

/-- A byte of memory after some addresses have been cleared. -/
theorem Memory.read_filter (m : Memory) (p : Nat → Bool) (a : Nat) :
    Memory.read (m.filter fun c => p c.1) a = if p a = true then m.read a else 0 := by
  induction m with
  | nil => simp [Memory.read, unlisted]
  | cons c m ih =>
    obtain ⟨b, v⟩ := c
    rw [List.filter_cons, Memory.read_cons]
    by_cases hb : b = a
    · subst hb
      by_cases hp : p b = true <;> simp [hp, Memory.read_cons, ih]
    · rw [if_neg hb, ← ih]
      split
      · rw [Memory.read_cons, if_neg hb]
      · rfl

/-- The scratchpads of a gang read zero once they have been cleared, and no other byte changes. -/
theorem State.clearScratch_read (s : State) (gang a : Nat) : (s.clearScratch gang).mem.read a =
    if scratchBase gang ≤ a ∧ a < scratchBase (gang + 1) then 0 else s.mem.read a := by
  have hend : scratchBase (gang + 1) = scratchBase gang + 2 ^ 21 := by unfold scratchBase; omega
  unfold State.clearScratch
  dsimp only
  rw [Memory.read_filter s.mem fun c => !(decide (scratchBase gang ≤ c) && decide (c < scratchBase gang + 2 ^ 21)), hend]
  have hout : (!(decide (scratchBase gang ≤ a) && decide (a < scratchBase gang + 2 ^ 21))) = true
      ↔ ¬ (scratchBase gang ≤ a ∧ a < scratchBase gang + 2 ^ 21) := by
    rw [← Bool.decide_and, Bool.not_eq_true', decide_eq_false_iff_not]
  by_cases h : scratchBase gang ≤ a ∧ a < scratchBase gang + 2 ^ 21
  · rw [if_pos h, if_neg fun hp => hout.1 hp h]
  · rw [if_neg h, if_pos (hout.2 h)]

/-- No granule of a gang's scratchpads is poisoned once they have been cleared. -/
theorem State.clearScratch_clean (s : State) (gang : Nat) {a : Nat} (h : scratchBase gang ≤ a)
    (h' : a < scratchBase (gang + 1)) : a / 8 ∉ (s.clearScratch gang).poison := by
  intro hm
  have hp := (List.mem_filter.1 hm).2
  unfold scratchBase at *
  simp only [Bool.not_eq_true', Bool.and_eq_false_iff, decide_eq_false_iff_not] at hp
  omega

/-- The gang that a placement makes. -/
def State.newGang (s : State) (g : Grid) (ix site cl : Nat) (cores : List Nat) : Gang :=
  { Gang.none with
    uid := s.nextUid, grid := g.ticket, index := ix, phase := .resident, site := site, cluster := cl, cores := cores
    placedAt := s.clock.toNat, scratch := g.record.scratch, wgs := g.record.gang, acc := g.record.acc
    nodes := List.replicate g.record.nodes Node.free }

/-- The new gang is listed, its scratchpads cleared and its cluster's gate opened. -/
def State.admitGang (s : State) (g : Grid) (ix site cl : Nat) (cores : List Nat) : State :=
  ({ s with nextUid := s.nextUid + 1, gangs := s.gangs ++ [s.newGang g ix site cl cores] }.clearScratch s.nextUid).setGate
    site cl .awake

/-- The grid counts one more gang placed and offers it no more. -/
def Grid.countPlaced (ix : Nat) (g : Grid) : Grid :=
  { g with placed := g.placed + 1, offers := g.offers.filter (·.index != ix) }

/-- A placement lists the gang, starts its warps, counts it and lets the scheduler decide. -/
theorem State.placeNew_eq (s : State) (g : Grid) (ix stack site cl : Nat) (cores : List Nat) :
    s.placeNew g ix stack site cl cores =
      ((((s.admitGang g ix site cl cores).startGang g s.nextUid ix site cl stack cores (List.range g.record.gang)).mapGrid
        g.ticket (Grid.countPlaced ix)).scheduleCluster site cl) := rfl

/-- A new gang that has been placed: it stands started, what was started before stays so, the gangs and grids are those before
with this one listed and counted, and only its scratchpads have changed in memory. -/
theorem State.placeNew_placed (s : State) (g : Grid) (ix stack site cl : Nat) (cores : List Nat) :
    let t := s.placeNew g ix stack site cl cores
    Started t g (s.newGang g ix site cl cores) ix stack ∧ s.KeepsStarted t
    ∧ t.gangs = s.gangs ++ [s.newGang g ix site cl cores]
    ∧ t.grids = (s.mapGrid g.ticket (Grid.countPlaced ix)).grids
    ∧ ∀ a, a < scratchBase s.nextUid ∨ scratchBase (s.nextUid + 1) ≤ a → t.mem.read a = s.mem.read a := by
  intro t
  set a := s.admitGang g ix site cl cores with ha
  set b := a.startGang g s.nextUid ix site cl stack cores (List.range g.record.gang) with hb
  obtain ⟨hsame, hkept, hstarted⟩ :=
    a.startGang_same g s.nextUid ix site cl stack cores (List.range g.record.gang)
  have hleases : (b.mapGrid g.ticket (Grid.countPlaced ix)).SameButLeases t :=
    State.scheduleCluster_leases _ site cl
  have hread : ∀ x, b.mem.read x =
      if scratchBase s.nextUid ≤ x ∧ x < scratchBase (s.nextUid + 1) then 0 else s.mem.read x := by
    intro x
    rw [hb, hsame]
    exact State.clearScratch_read _ s.nextUid x
  have hpoison : b.poison = ({ s with nextUid := s.nextUid + 1 }.clearScratch s.nextUid).poison := by
    rw [hb, hsame]
    rfl
  have hgangs : b.gangs = s.gangs ++ [s.newGang g ix site cl cores] := by
    rw [hb, hsame]
    rfl
  have hmapped : b.KeepsStarted (b.mapGrid g.ticket (Grid.countPlaced ix)) := .of_same rfl rfl rfl rfl rfl
  have hbt := hmapped.trans hleases.keepsStarted
  have hsb : s.KeepsStarted b := by
    refine ⟨fun h hh => ?_, fun x hx => ?_, fun p hp => ?_, fun w hw => ⟨w.lease, hkept w hw⟩⟩
    · rw [hgangs]
      exact List.mem_append_left _ hh
    · rw [hread, hx]
      split <;> rfl
    · rw [hpoison] at hp
      exact (List.mem_filter.1 hp).1
  refine ⟨hbt.started ⟨⟨?_, rfl, rfl, rfl, rfl, rfl, rfl, rfl, rfl⟩, ⟨fun _ => rfl, rfl, rfl, rfl, rfl, rfl, rfl, rfl⟩,
    fun x h1 h2 => ⟨?_, ?_⟩, fun wg hwg i hi => ?_⟩, hsb.trans hbt, ?_, ?_, fun x hx => ?_⟩
  · rw [hgangs]
    exact List.mem_append_right _ (List.mem_singleton.2 rfl)
  · rw [hread, if_pos ⟨h1, h2⟩]
  · rw [hpoison]
    exact State.clearScratch_clean _ _ h1 h2
  · obtain ⟨uid, slot, hm⟩ := hstarted wg (List.mem_range.2 hwg) i hi
    exact ⟨_, hm, startWarp_entry g s.nextUid uid ix wg i site cl (cores.getD wg 0) slot stack a.clock.toNat⟩
  · rw [hleases.rest]
    exact hgangs
  · rw [hleases.rest]
    show (b.grids.map _) = s.grids.map _
    rw [hb, hsame]
    rfl
  · rw [hleases.rest]
    exact (hread x).trans (if_neg (by omega))

/-! ## Grids and gangs by their numbers -/

def State.grid? (s : State) (n : Nat) : Option Grid := s.grids.find? (·.ticket == n)

theorem State.grid_eq (s : State) (n : Nat) : s.grid n = (s.grid? n).getD Grid.none := rfl

theorem State.grid?_mapGrid (s : State) (n : Nat) {f : Grid → Grid} (hf : ∀ g, (f g).ticket = g.ticket) (k : Nat) :
    (s.mapGrid n f).grid? k = if k = n then (s.grid? k).map f else s.grid? k :=
  find?_map_replace Grid.ticket f n k (fun g hg => (hf g).trans hg) s.grids

/-- A grid that is there is the one its number names. -/
theorem State.grid?_of_mem {s : State} {n : Nat} (h : ∃ g ∈ s.grids, g.ticket = n) :
    s.grid? n = some (s.grid n) ∧ (s.grid n).ticket = n := by
  obtain ⟨g, hg, hn⟩ := h
  have hs : (s.grid? n).isSome = true := List.find?_isSome.2 ⟨g, hg, by simpa using hn⟩
  obtain ⟨x, hx⟩ := Option.isSome_iff_exists.1 hs
  have hxn : x.ticket = n := by simpa using List.find?_some hx
  rw [s.grid_eq, hx]
  exact ⟨rfl, hxn⟩

theorem State.gang_mapGang (s : State) (n : Nat) {f : Gang → Gang} (hf : ∀ g, (f g).uid = g.uid) {h : Gang}
    (hh : h ∈ s.gangs) (hn : h.uid = n) : ∃ g, (s.mapGang n f).gang n = f g := by
  have hs : (s.gangs.find? (·.uid == n)).isSome = true := List.find?_isSome.2 ⟨h, hh, by simpa using hn⟩
  obtain ⟨x, hx⟩ := Option.isSome_iff_exists.1 hs
  refine ⟨x, ?_⟩
  have he := find?_map_replace Gang.uid f n n (fun g hg => (hf g).trans hg) s.gangs
  unfold State.gang State.mapGang
  rw [he, hx]
  simp

/-! ## The gangs of a CORES grid together (R287) -/

theorem foldl_bind_none {σ α : Type} (f : σ → α → Option σ) (l : List α) :
    l.foldl (fun b a => b.bind fun s => f s a) none = none := by
  induction l with
  | nil => rfl
  | cons a l ih => exact ih

/-- Gangs that are placed one after another all stand started at the end. -/
theorem State.placeEach_placed (g : Grid) (stack size : Nat) (patient : Bool) (ixs : List Nat) : ∀ {s t : State},
    ixs.foldl (fun (b : Option State) ix => b.bind fun s => (s.spotFor g g.record.footprint ix patient).map fun x =>
      s.placeNew g ix (stack + ix * size) x.1 x.2.1 x.2.2) (some s) = some t →
    s.KeepsStarted t ∧ (∀ i ∈ ixs, ∃ h, Started t g h i (stack + i * size))
    ∧ t.gangs.length = s.gangs.length + ixs.length
    ∧ (t.grid? g.ticket).map Grid.record = (s.grid? g.ticket).map Grid.record := by
  induction ixs with
  | nil =>
    intro s t h
    cases h
    exact ⟨.of_same rfl rfl rfl rfl rfl, by simp, rfl, rfl⟩
  | cons ix ixs ih =>
    intro s t h
    rw [List.foldl_cons, Option.bind_some] at h
    cases hspot : s.spotFor g g.record.footprint ix patient with
    | none =>
      rw [hspot, Option.map_none, foldl_bind_none] at h
      cases h
    | some x =>
      rw [hspot, Option.map_some] at h
      obtain ⟨hstart, hkeep, hgangs, hgrids, -⟩ := s.placeNew_placed g ix (stack + ix * size) x.1 x.2.1 x.2.2
      obtain ⟨k1, k2, k3, k4⟩ := ih h
      refine ⟨hkeep.trans k1, List.forall_mem_cons.2 ⟨⟨_, k1.started hstart⟩, k2⟩, ?_, ?_⟩
      · rw [k3, hgangs]
        simp only [List.length_append, List.length_cons, List.length_nil]
        omega
      · have hg := s.grid?_mapGrid g.ticket (f := Grid.countPlaced ix) (fun _ => rfl) g.ticket
        rw [k4, State.grid?, hgrids]
        refine (congrArg (Option.map Grid.record) hg).trans ?_
        rw [if_pos rfl, Option.map_map]
        rfl

/-! ## Gangs that come back (R273, R346) -/

/-- A lock request that arrives concerns warps, locks and memory alone. -/
theorem State.lockArrive_gangs (s : State) (q : LockRequest) : (s.lockArrive q).gangs = s.gangs := by
  have warp : ∀ (t : State) u f, (t.mapWarp u f).gangs = t.gangs := fun t u f => by
    unfold State.mapWarp
    split <;> rfl
  have grant : ∀ (t : State) l u k v, (t.grantLock l u k v).gangs = t.gangs := fun t l u k v => by
    unfold State.grantLock State.answer
    dsimp only
    rw [warp, warp, t.recall_same]
  unfold State.lockArrive State.answer
  dsimp only
  split
  · rfl
  split
  · exact grant _ _ _ _ _
  split
  · exact grant _ _ _ _ _
  split
  · rw [warp, warp]
  · rfl

theorem State.resumeWarp_gangs (s : State) (site cl core slot : Nat) (w : Warp) :
    (s.resumeWarp site cl core slot w).gangs = s.gangs := by
  have warp : ∀ (t : State) u f, (t.mapWarp u f).gangs = t.gangs := fun t u f => by
    unfold State.mapWarp
    split <;> rfl
  have locks : ∀ (t : State) x, (t.resumeLocks x).gangs = t.gangs := fun t x => by
    unfold State.resumeLocks
    exact foldl_keeps State.gangs (fun s y => (State.lockArrive_gangs _ _).trans (warp _ _ _)) _ t
  unfold State.resumeWarp
  dsimp only
  split
  · rw [locks, warp]
  · exact warp _ _ _

theorem State.reenter_gangs (s : State) (gang : Nat) : (s.reenter gang).gangs = s.gangs := by
  unfold State.reenter
  refine foldl_keeps State.gangs (fun t k => ?_) _ s
  rfl

/-- A gang as it comes back to a cluster. -/
def Gang.backOn (site cl : Nat) (cores : List Nat) (now : Nat) (h : Gang) : Gang :=
  { h with
    phase := .resident, site := site, cluster := cl, cores := cores, placedAt := now, moved := false
    mx := { h.mx with headSince := now, age := 0 } }

/-- Of the gangs, the one that comes back changes. -/
theorem State.placeAgain_gangs (s : State) (gang site cl : Nat) (cores : List Nat) :
    (s.placeAgain gang site cl cores).gangs = (s.mapGang gang (Gang.backOn site cl cores s.clock.toNat)).gangs := by
  unfold State.placeAgain
  dsimp only
  rw [(State.scheduleCluster_leases _ site cl).gangs, foldl_keeps State.gangs]
  · exact State.reenter_gangs _ gang
  · exact fun t w => t.resumeWarp_gangs _ _ _ _ w

/-- A gang that comes back is resident. -/
theorem State.resume_resident {s t : State} {h : Gang} (hh : h ∈ s.gangs) (hr : s.resume h = some t) :
    (t.gang h.uid).phase = .resident := by
  unfold State.resume at hr
  obtain ⟨⟨site, cl, cores⟩, -, rfl⟩ := Option.map_eq_some_iff.1 hr
  obtain ⟨g, hg⟩ := s.gang_mapGang h.uid (f := Gang.backOn site cl cores s.clock.toNat) (fun _ => rfl) hh rfl
  have ht := s.placeAgain_gangs h.uid site cl cores
  unfold State.gang at hg ⊢
  rw [ht, hg]
  rfl

/-! ## The event (R285–R288) -/

/-- A gang that has not been placed, of a grid that may place one now. -/
structure State.MayPlace (s : State) (grid ix : Nat) : Prop where
  settled : s.settleDeps = s
  absent : s.gangs.find? (fun h => h.grid == grid && h.index == ix && h.phase != .retired) = none
  running : (s.grid grid).status = none
  ready : (s.grid grid).ready = true
  first : s.yieldsTo (s.grid grid) = false

/-- The first offer of a gang, made now. -/
def State.offerNow (s : State) (ix : Nat) : Offer := { index := ix, since := s.clock.toNat, patience := false }

/-- A gang of a CORES grid is placed with its whole grid. -/
theorem gangPlacement_whole {s : State} {grid : Nat} (h : s.MayPlace grid 0) (hc : (s.grid grid).record.cores = true)
    (hp : (s.grid grid).placed = 0) (stack : Nat) :
    exec (.gangPlacement grid 0 stack) s = .next (s.offerWhole (s.grid grid) stack) := by
  have hexec : exec (.gangPlacement grid 0 stack) s = execGangPlacement grid 0 stack s := rfl
  rw [hexec]
  unfold execGangPlacement
  rw [h.settled]
  dsimp only
  rw [h.absent]
  simp [h.running, h.ready, h.first, hc, hp]

/-- The grid has offered one more gang. -/
def Grid.offerNext (o : Offer) (g : Grid) : Grid := { g with next := g.next + 1, offers := g.offers ++ [o] }

/-- The next gang of any other grid is offered, and placed where it finds room. -/
theorem gangPlacement_next {s : State} {grid ix : Nat} (h : s.MayPlace grid ix) (hc : (s.grid grid).record.cores = false)
    (hn : ix = (s.grid grid).next) (hl : ix < (s.grid grid).gangCount)
    (ho : (s.grid grid).offers.find? (·.index == ix) = none) (stack : Nat) :
    exec (.gangPlacement grid ix stack) s = .next ((s.mapGrid grid (Grid.offerNext (s.offerNow ix))).tryOffer (s.grid grid)
      (s.offerNow ix) stack) := by
  have hexec : exec (.gangPlacement grid ix stack) s = execGangPlacement grid ix stack s := rfl
  rw [hexec]
  unfold execGangPlacement
  rw [h.settled]
  dsimp only
  rw [h.absent]
  dsimp only
  rw [if_neg (by simp [h.running, h.ready, h.first]), if_neg (by simp [hc]), ho]
  dsimp only
  rw [if_pos (by simp [← hn, hl])]
  rfl

/-- A gang that waits to come back does, where no other comes first. -/
theorem gangPlacement_back {s : State} {grid ix : Nat} (hs : s.settleDeps = s) {h : Gang}
    (hf : s.gangs.find? (fun h => h.grid == grid && h.index == ix && h.phase != .retired) = some h)
    (hr : s.requeued h = true) (hw : s.waitsFor h = false) {t : State} (ht : s.comeBack h = some t) (stack : Nat) :
    exec (.gangPlacement grid ix stack) s = .next t := by
  have hexec : exec (.gangPlacement grid ix stack) s = execGangPlacement grid ix stack s := rfl
  rw [hexec]
  unfold execGangPlacement
  rw [hs]
  dsimp only
  rw [hf]
  simp [hr, hw, ht]

theorem State.tryOffer_none {s : State} {g : Grid} {o : Offer} (stack : Nat)
    (h : s.spotFor g g.record.footprint o.index (s.patient g o) = none) : s.tryOffer g o stack = s := by
  unfold State.tryOffer
  rw [h]

theorem State.tryOffer_some {s : State} {g : Grid} {o : Offer} (stack : Nat) {site cl : Nat} {cores : List Nat}
    (h : s.spotFor g g.record.footprint o.index (s.patient g o) = some (site, cl, cores)) :
    s.tryOffer g o stack = s.placeNew g o.index stack site cl cores := by
  unfold State.tryOffer
  rw [h]

/-- A gang that is offered: without room its offer stands; with room it is placed there. -/
theorem placed_next {s : State} {grid ix : Nat} (hg : ∃ g ∈ s.grids, g.ticket = grid) (stack : Nat) :
    let g := s.grid grid
    let o := s.offerNow ix
    let spot := s.spotFor g g.record.footprint ix (s.patient g o)
    let t := (s.mapGrid grid (Grid.offerNext o)).tryOffer g o stack
    (spot = none → t.gangs = s.gangs ∧ (t.grid grid).next = g.next + 1 ∧ (t.grid grid).offers = g.offers ++ [o])
    ∧ ∀ site cl cores, spot = some (site, cl, cores) →
        ∃ h, h.uid = s.nextUid ∧ h.site = site ∧ h.cluster = cl ∧ h.cores = cores ∧ Started t g h ix stack
          ∧ (t.grid grid).placed = g.placed + 1 ∧ (t.grid grid).next = g.next + 1
          ∧ ∀ a, a < scratchBase h.uid ∨ scratchBase (h.uid + 1) ≤ a → t.mem.read a = s.mem.read a := by
  intro g o spot t
  obtain ⟨hfound, hticket⟩ := State.grid?_of_mem hg
  set s' := s.mapGrid grid (Grid.offerNext o) with hs'
  have hoffered : s'.grid? grid = some (Grid.offerNext o g) := by
    rw [hs', s.grid?_mapGrid grid (f := Grid.offerNext o) (fun _ => rfl), if_pos rfl, hfound]
    rfl
  have hspot : s'.spotFor g g.record.footprint ix (s'.patient g o) = spot := s.spotFor_mapGrid _ _ _ _ _ _
  refine ⟨fun h => ?_, fun site cl cores h => ?_⟩
  · have ht : t = s' := State.tryOffer_none (o := o) stack (hspot.trans h)
    rw [ht, State.grid_eq, hoffered]
    exact ⟨rfl, rfl, rfl⟩
  · have ht : t = s'.placeNew g ix stack site cl cores := State.tryOffer_some (o := o) stack (hspot.trans h)
    obtain ⟨hstart, -, -, hgrids, hmem⟩ := s'.placeNew_placed g ix stack site cl cores
    have hcount : t.grid? grid = some (Grid.countPlaced ix (Grid.offerNext o g)) := by
      rw [ht, State.grid?, hgrids, hticket]
      refine (s'.grid?_mapGrid grid (f := Grid.countPlaced ix) (fun _ => rfl) grid).trans ?_
      rw [if_pos rfl, hoffered]
      rfl
    refine ⟨s'.newGang g ix site cl cores, rfl, rfl, rfl, rfl, ht ▸ hstart, ?_, ?_, fun a ha => ?_⟩
    · rw [State.grid_eq, hcount]
      rfl
    · rw [State.grid_eq, hcount]
      rfl
    · rw [ht]
      exact hmem a ha

/-- The offer that a CORES grid makes of its gangs. -/
def Grid.offerOnly (o : Offer) (g : Grid) : Grid := { g with offers := [o] }

/-- A grid whose gangs have all been placed. -/
def Grid.allPlaced (g : Grid) : Grid := { g with next := g.gangCount, offers := [] }

/-- A CORES grid that finds no room is offered, to wait. -/
theorem State.offerWhole_none {s : State} {grid : Nat} (hg : ∃ g ∈ s.grids, g.ticket = grid) (stack : Nat)
    (ho : (s.grid grid).offers = [])
    (h : s.placeWhole (s.grid grid) stack (s.patient (s.grid grid) (s.offerNow 0)) = none) :
    let t := s.offerWhole (s.grid grid) stack
    t = { s with grids := t.grids } ∧ (t.grid grid).offers = [s.offerNow 0] := by
  obtain ⟨hfound, hticket⟩ := State.grid?_of_mem hg
  have hoffer : s.offerOf (s.grid grid) 0 = s.offerNow 0 := by
    unfold State.offerOf
    rw [ho]
    rfl
  have hwhole : s.offerWhole (s.grid grid) stack = s.mapGrid grid (Grid.offerOnly (s.offerNow 0)) := by
    unfold State.offerWhole
    rw [hoffer, h]
    dsimp only
    rw [ho, hticket]
    rfl
  rw [hwhole]
  refine ⟨rfl, ?_⟩
  rw [State.grid_eq, s.grid?_mapGrid grid (f := Grid.offerOnly (s.offerNow 0)) (fun _ => rfl), if_pos rfl, hfound]
  rfl

/-- The gangs of a CORES grid that finds room are placed together. -/
theorem State.offerWhole_some {s t : State} {grid : Nat} (hg : ∃ g ∈ s.grids, g.ticket = grid) (stack : Nat)
    (h : s.placeWhole (s.grid grid) stack (s.patient (s.grid grid) (s.offerOf (s.grid grid) 0)) = some t) :
    let g := s.grid grid
    let t' := s.offerWhole g stack
    t'.gangs = t.gangs ∧ t'.gangs.length = s.gangs.length + g.gangCount ∧ (t'.grid grid).next = g.gangCount
    ∧ (t'.grid grid).offers = []
    ∧ ∀ i < g.gangCount, ∃ h, Started t' g h i
        (stack + i * (g.record.gang * g.record.wgsize * 32 * g.record.stack)) := by
  intro g t'
  obtain ⟨hfound, hticket⟩ := State.grid?_of_mem hg
  have ht' : t' = t.mapGrid grid Grid.allPlaced := by
    simp only [t', g]
    unfold State.offerWhole
    rw [h]
    dsimp only
    rw [hticket]
    rfl
  obtain ⟨-, hstart, hlength, hrecord⟩ := State.placeEach_placed g stack _ _ _ h
  rw [hticket, hfound, Option.map_some, Option.map_eq_some_iff] at hrecord
  obtain ⟨x, hx, hxr⟩ := hrecord
  have hmapped : t'.grid? grid = some x.allPlaced := by
    rw [ht', t.grid?_mapGrid grid (f := Grid.allPlaced) (fun _ => rfl), if_pos rfl, hx]
    rfl
  have hcount : x.gangCount = g.gangCount := by
    unfold Grid.gangCount
    rw [hxr]
  have hkeep : t.KeepsStarted t' := by
    rw [ht']
    exact .of_same rfl rfl rfl rfl rfl
  refine ⟨by rw [ht']; rfl, ?_, ?_, ?_, fun i hi => ?_⟩
  · rw [ht']
    exact hlength.trans (by rw [List.length_range])
  · rw [State.grid_eq, hmapped]
    exact hcount
  · rw [State.grid_eq, hmapped]
    rfl
  · obtain ⟨k, hk⟩ := hstart i (List.mem_range.2 hi)
    exact ⟨k, hkeep.started hk⟩

/-- Settles O52: a new gang, a gang that comes back, and a CORES grid without room and with it. -/
theorem gangsPlaced : Obligations.GangsPlaced := by
  unfold Obligations.GangsPlaced
  intro s grid ix stack hsettled _ hgrid g r out absent
  obtain ⟨hfound, hticket⟩ := State.grid?_of_mem hgrid
  refine ⟨fun habsent hrun hready hfirst hcores hnext hlt hoffers => ?_, fun h t hfind hreq hwait => ?_,
    fun habsent hrun hready hfirst hcores hix hplaced hnone hoffers => ?_,
    fun t habsent hrun hready hfirst hcores hix hplaced hsome => ?_⟩
  · have hout := gangPlacement_next ⟨hsettled, habsent, hrun, hready, hfirst⟩ hcores hnext hlt hoffers stack
    obtain ⟨h1, h2⟩ := placed_next (ix := ix) hgrid stack
    have hix : (s.grid grid).next + 1 = ix + 1 := by rw [hnext]
    rw [hix] at h1 h2
    refine ⟨fun hs => ⟨_, hout, h1 hs⟩, fun site cl cores hs => ?_⟩
    obtain ⟨h, k1, k2, k3, k4, k5, k6, k7, k8⟩ := h2 site cl cores hs
    exact ⟨_, h, hout, k1, k2, k3, k4, k5, k6, k7, k8⟩
  · have hmem : h ∈ s.gangs := List.mem_of_find?_eq_some hfind
    have hgrid' : h.grid = grid := by
      have := List.find?_some hfind
      simp only [Bool.and_eq_true, beq_iff_eq] at this
      exact this.1.1
    refine ⟨fun halone hres => ?_, fun hc hph hres => ?_⟩
    · have hback : s.comeBack h = some t := by
        unfold State.comeBack
        rw [hgrid', if_neg, hres]
        rcases halone with hc | hp
        · simp [g, r] at hc
          simp [hc]
        · simp [hp]
      exact ⟨gangPlacement_back hsettled hfind hreq hwait hback stack, State.resume_resident hmem hres⟩
    · have hback : s.comeBack h = some t := by
        unfold State.comeBack
        rw [hgrid', if_pos, hres]
        simp [hph]
        exact hc
      exact gangPlacement_back hsettled hfind hreq hwait hback stack
  · subst hix
    obtain ⟨h1, h2⟩ := State.offerWhole_none hgrid stack hoffers hnone
    exact ⟨_, gangPlacement_whole ⟨hsettled, habsent, hrun, hready, hfirst⟩ hcores hplaced stack, h1, h2⟩
  · subst hix
    obtain ⟨h1, h2, h3, h4, h5⟩ := State.offerWhole_some hgrid stack hsome
    exact ⟨_, gangPlacement_whole ⟨hsettled, habsent, hrun, hready, hfirst⟩ hcores hplaced stack, h1, h2, h3, h4, h5⟩

end Sys2Proof.Machine
end

section
/-! What the passing on of locks, answers to warps and posted records leave alone (R81, R244, R338, R357). -/

set_option Elab.async false

namespace Sys2Proof.Machine

/-! ## Locks pass on -/

/-- What no answer to a warp changes: its number, its context, whether it is live, and the lanes that its pending
instructions have killed. -/
def Warp.standing (w : Warp) : Nat × Nat × Bool × List Word32 := (w.uid, w.ctx, w.live, w.pend.map (·.killed))

/-- Locks, monitors and answers to warps alone may differ, and what a recall of partial values changes. -/
structure State.Relocked (s t : State) : Prop where
  rest : t = { s with
    warp := t.warp, others := t.others, locks := t.locks, lockWaits := t.lockWaits, monitors := t.monitors
    mem := t.mem, partials := t.partials }
  standing : t.warps.map Warp.standing = s.warps.map Warp.standing
  quiet : s.partials = [] → t.partials = [] ∧ t.mem = s.mem

theorem State.Relocked.refl (s : State) : s.Relocked s := ⟨rfl, rfl, fun h => ⟨h, rfl⟩⟩

theorem State.Relocked.trans {s t u : State} (h : s.Relocked t) (g : t.Relocked u) : s.Relocked u := by
  refine ⟨by rw [g.rest, h.rest], g.standing.trans h.standing, fun hs => ?_⟩
  obtain ⟨h1, h2⟩ := h.quiet hs
  obtain ⟨g1, g2⟩ := g.quiet h1
  exact ⟨g1, g2.trans h2⟩

theorem State.Relocked.foldl {α : Type} {f : State → α → State} (hf : ∀ (s : State) (a : α), s.Relocked (f s a))
    (l : List α) : ∀ s : State, s.Relocked (l.foldl f s) := by
  induction l with
  | nil => exact State.Relocked.refl
  | cons a l ih => exact fun s => (hf s a).trans (ih _)

/-- A change of a warp that leaves its standing as it is. -/
theorem State.mapWarp_relocked (s : State) (u : Nat) {f : Warp → Warp} (hf : ∀ w, (f w).standing = w.standing) :
    s.Relocked (s.mapWarp u f) := by
  have hmap : ∀ w : Warp, (if w.uid == u then f w else w).standing = w.standing := by
    intro w
    split
    · exact hf w
    · rfl
  unfold State.mapWarp
  split
  · exact ⟨rfl, by simp only [State.warps, List.map_cons, hf], fun h => ⟨h, rfl⟩⟩
  · exact ⟨rfl, by simp only [State.warps, List.map_cons, List.map_map, Function.comp_def, hmap], fun h => ⟨h, rfl⟩⟩

theorem State.answer_relocked (s : State) (u k : Nat) (v : Word64) : s.Relocked (s.answer u k v) := by
  refine s.mapWarp_relocked u fun w => ?_
  refine congrArg (fun l => (w.uid, w.ctx, w.live, l)) ?_
  rw [List.map_map]
  refine List.map_congr_left fun p _ => ?_
  dsimp only [Function.comp]
  split <;> rfl

theorem length_natToBytes (n v : Nat) : (natToBytes n v).length = n := by
  induction n generalizing v with
  | zero => rfl
  | succ n ih => exact congrArg (· + 1) (ih _)

/-- A write where nothing is poisoned clears no mark. -/
theorem State.poke_unpoisoned {s : State} {loc n : Nat} (h : s.poisoned loc n = false) {bs : List Byte}
    (hn : bs.length = n) : (s.poke loc bs).poison = s.poison := by
  refine List.filter_eq_self.2 fun g hg => ?_
  have hout : ¬ (8 * g < loc + n ∧ loc < 8 * g + 8) := by simpa using (List.any_eq_false.1 h) g hg
  rw [hn, ← Bool.decide_and, Bool.not_eq_true', decide_eq_false_iff_not]
  omega

/-- A partial value that meets poison is discarded: no mark clears. -/
theorem State.combine_poison (s : State) (p : Partial) : (s.combine p).poison = s.poison := by
  unfold State.combine State.reduceAt
  split
  · rfl
  · next h =>
    unfold State.atom
    dsimp only
    split
    · rfl
    · exact State.poke_unpoisoned (Bool.not_eq_true _ ▸ h) (length_natToBytes _ _)

theorem State.recall_relocked (s : State) (line : Nat) : s.Relocked (s.recall line) := by
  have hsame := s.recall_same line
  have hpoison : (s.recall line).poison = s.poison := by
    unfold State.recall
    rw [foldl_keeps State.poison State.combine_poison]
  refine ⟨?_, ?_, fun h => ?_⟩
  · unfold State.SameButMemory at hsame
    rw [hpoison] at hsame
    rw [hsame]
  · rw [hsame]
    rfl
  · rw [State.recall_clear (by simp [h])]
    exact ⟨h, rfl⟩

/-- A change of the books of locks and monitors. -/
theorem State.books_relocked (s : State) (ls : List Lock) (qs : List LockRequest) (ms : List Monitor) :
    s.Relocked { s with locks := ls, lockWaits := qs, monitors := ms } := ⟨rfl, rfl, fun h => ⟨h, rfl⟩⟩

theorem State.grantLock_relocked (s : State) (line u k : Nat) (v : Word64) : s.Relocked (s.grantLock line u k v) :=
  ((s.recall_relocked line).trans (State.answer_relocked _ u k v)).trans
    (State.mapWarp_relocked _ u fun _ => rfl)

theorem State.expireWaiter_relocked (s : State) (line u k : Nat) : s.Relocked (s.expireWaiter line u k) :=
  ((s.books_relocked _ _ s.monitors).trans (State.answer_relocked _ u k 2)).trans
    (State.mapWarp_relocked _ u fun _ => rfl)

theorem State.expireLine_relocked (s : State) (line : Nat) : s.Relocked (s.expireLine line) :=
  State.Relocked.foldl (fun s _ => s.expireWaiter_relocked _ _ _) _ s

theorem State.expireWaits_relocked (s : State) : s.Relocked s.expireWaits :=
  State.Relocked.foldl (fun s _ => s.expireWaiter_relocked _ _ _) _ s

theorem State.lockArrive_relocked (s : State) (q : LockRequest) : s.Relocked (s.lockArrive q) := by
  unfold State.lockArrive
  dsimp only
  split
  · exact s.books_relocked s.locks _ s.monitors
  split
  · exact (s.books_relocked _ s.lockWaits s.monitors).trans (State.grantLock_relocked _ _ _ _ _)
  split
  · exact (s.books_relocked _ s.lockWaits s.monitors).trans (State.grantLock_relocked _ _ _ _ _)
  split
  · exact (s.answer_relocked _ _ _).trans (State.mapWarp_relocked _ _ fun _ => rfl)
  · exact s.books_relocked _ s.lockWaits s.monitors

theorem State.admitLocks_relocked (s : State) : s.Relocked s.admitLocks :=
  (s.expireWaits_relocked.trans (s.expireWaits.books_relocked s.expireWaits.locks [] s.expireWaits.monitors)).trans
    (State.Relocked.foldl State.lockArrive_relocked _ _)

theorem State.passLock_relocked (s : State) (line : Nat) (v : Word64) (mark : Bool) :
    s.Relocked (s.passLock line v mark) := by
  refine (s.expireLine_relocked line).trans ?_
  unfold State.passLock
  generalize s.expireLine line = a
  dsimp only
  split
  · exact .refl a
  split
  · split
    · exact a.books_relocked _ a.lockWaits a.monitors
    · exact (a.books_relocked _ a.lockWaits a.monitors).trans (State.admitLocks_relocked _)
  · exact (a.books_relocked _ a.lockWaits a.monitors).trans (State.grantLock_relocked _ _ _ _ _)

theorem State.fillTable_relocked (s : State) : s.Relocked s.fillTable := by
  refine State.Relocked.foldl (fun s m => ?_) s.monitors s
  dsimp only
  split
  · exact .refl s
  · exact (s.recall_relocked _).trans (State.books_relocked _ _ _ _)

theorem State.dropMonitors_relocked (s : State) (u : Nat) : s.Relocked (s.dropMonitors u) :=
  (s.books_relocked s.locks s.lockWaits _).trans (State.fillTable_relocked _)

theorem State.abandon_relocked (s : State) (u : Nat) : s.Relocked (s.abandon u) :=
  ((s.books_relocked _ _ s.monitors).trans (State.dropMonitors_relocked _ u)).trans
    (State.Relocked.foldl (fun s _ => s.passLock_relocked _ _ _) _ _)

/-! ## Records are posted -/

/-- Besides what locks passed on may change, records may have been posted and shoot-downs ended. A disabled ring takes no
record, and no mark clears outside host memory. -/
structure State.Calm (s t : State) : Prop where
  rest : t = { s with
    warp := t.warp, others := t.others, locks := t.locks, lockWaits := t.lockWaits, monitors := t.monitors
    mem := t.mem, partials := t.partials, poison := t.poison, mailbox := t.mailbox, nextTag := t.nextTag
    shootdowns := t.shootdowns }
  standing : t.warps.map Warp.standing = s.warps.map Warp.standing
  marks : ∀ g, 8 * g + 8 ≤ hostBase → g ∈ s.poison → g ∈ t.poison
  disabled : s.mailbox.evsize = 0 → t.mailbox = s.mailbox

theorem State.Calm.refl (s : State) : s.Calm s := ⟨rfl, rfl, fun _ _ h => h, fun _ => rfl⟩

theorem State.Calm.trans {s t u : State} (h : s.Calm t) (g : t.Calm u) : s.Calm u := by
  refine ⟨by rw [g.rest, h.rest], g.standing.trans h.standing, fun x hx hs => g.marks x hx (h.marks x hx hs), fun hs => ?_⟩
  have ht := h.disabled hs
  exact (g.disabled (ht ▸ hs)).trans ht

theorem State.Calm.foldl {α : Type} {f : State → α → State} (hf : ∀ (s : State) (a : α), s.Calm (f s a)) (l : List α) :
    ∀ s : State, s.Calm (l.foldl f s) := by
  induction l with
  | nil => exact State.Calm.refl
  | cons a l ih => exact fun s => (hf s a).trans (ih _)

theorem State.Relocked.calm {s t : State} (h : s.Relocked t) : s.Calm t := by
  have hp : t.poison = s.poison := by rw [h.rest]
  have hm : t.mailbox = s.mailbox := by rw [h.rest]
  exact ⟨by rw [h.rest], h.standing, fun _ _ hg => hp ▸ hg, fun _ => hm⟩

/-- A write to host memory clears no mark outside it. -/
theorem mem_clearPoison {p : List Nat} {loc n g : Nat} (h : hostBase ≤ loc) (hg : 8 * g + 8 ≤ hostBase) (hm : g ∈ p) :
    g ∈ clearPoison p loc n := by
  refine List.mem_filter.2 ⟨hm, ?_⟩
  rw [← Bool.decide_and, Bool.not_eq_true', decide_eq_false_iff_not]
  omega

theorem State.pokeHost_calm {s : State} (h0 : s.mailbox.evsize ≠ 0) {loc : Nat} (hloc : hostBase ≤ loc) (bs : List Byte)
    (b : Mailbox) : s.Calm { s.poke loc bs with mailbox := b } := by
  refine ⟨rfl, rfl, fun g hg h => ?_, fun h => absurd h h0⟩
  rw [State.poke_poison]
  exact mem_clearPoison hloc hg h

theorem State.post_calm (s : State) (r : FaultRecord) : s.Calm (s.post r) := by
  unfold State.post
  dsimp only
  split
  · exact .refl s
  · next hsize =>
    split
    · exact ⟨rfl, rfl, fun _ _ h => h, fun h => absurd h hsize⟩
    · exact State.pokeHost_calm hsize (Nat.le_trans (Nat.le_add_right _ _) (Nat.le_add_right _ _)) _ _

theorem State.postTagged_calm (s : State) (r : FaultRecord) : s.Calm (s.postTagged r) := by
  have h := s.post_calm { r with tag := s.nextTag }
  exact h.trans ⟨rfl, rfl, fun _ _ h => h, fun _ => rfl⟩

theorem State.reportAll_calm (s : State) (w : Warp) : s.Calm (s.reportAll w) := by
  refine State.Calm.foldl (fun s p => ?_) w.pend s
  unfold State.reportKilled
  split
  · exact .refl s
  · exact s.postTagged_calm _

/-- A warp whose pending instructions have killed no lane has nothing to report. -/
theorem State.reportAll_none (s : State) {w : Warp} (h : ∀ p ∈ w.pend, p.killed = 0) : s.reportAll w = s := by
  unfold State.reportAll
  revert h
  induction w.pend with
  | nil => exact fun _ => rfl
  | cons p ps ih =>
    intro h
    have hp : State.reportKilled w s p = s := if_pos (h p List.mem_cons_self)
    rw [List.foldl_cons, hp]
    exact ih fun q hq => h q (List.mem_cons_of_mem _ hq)

theorem State.endShootdowns_calm (s : State) : s.Calm s.endShootdowns := by
  refine State.Calm.foldl (fun s k => ?_) _ s
  have hdrop : s.Calm { s with shootdowns := s.shootdowns.filter (·.id != k.id) } :=
    ⟨rfl, rfl, fun _ _ h => h, fun _ => rfl⟩
  refine hdrop.trans ?_
  unfold State.endShootdown
  dsimp only
  split
  · exact State.post_calm _ _
  · exact (State.answer_relocked _ _ _ 0).calm

theorem State.endShootdowns_none {s : State} (h : s.shootdowns = []) : s.endShootdowns = s := by
  unfold State.endShootdowns
  rw [h]
  rfl

end Sys2Proof.Machine
end

section
/-! Contexts that end with DIEFENCE, what survives them, and the records posted for them (R339, R349, R357). -/

set_option Elab.async false

namespace Sys2Proof.Machine

/-! ## What is lost with some contexts -/

/-- The contexts whose numbers pass a test are gone with what was theirs; all other contexts, live warps, commands and
grids are left. -/
structure State.Lost (p : Nat → Bool) (s t : State) : Prop where
  ended : ∀ n, p n = true → t.context? n = none
  left : ∀ n, p n = false → (t.context? n).map Context.unmetered = (s.context? n).map Context.unmetered
  live : ∀ w ∈ t.warps, w.live = true → p w.ctx = false ∧ ∃ v ∈ s.warps, v.standing = w.standing
  kept : ∀ v ∈ s.warps, v.live = true → p v.ctx = false → ∃ w ∈ t.warps, w.standing = v.standing
  cmds : t.cmds = s.cmds.filter fun k => !p k.ctx
  grids : t.grids = s.grids.filter fun g => !p g.ctx
  marks : ∀ g, 8 * g + 8 ≤ hostBase → g ∈ s.poison → g ∈ t.poison
  disabled : s.mailbox.evsize = 0 → t.mailbox = s.mailbox

theorem Warp.standing_live {v w : Warp} (h : v.standing = w.standing) : v.live = w.live :=
  congrArg (fun x => x.2.2.1) h

theorem Warp.standing_ctx {v w : Warp} (h : v.standing = w.standing) : v.ctx = w.ctx := congrArg (fun x => x.2.1) h

theorem Warp.standing_uid {v w : Warp} (h : v.standing = w.standing) : v.uid = w.uid := congrArg (fun x => x.1) h

theorem Warp.standing_unharmed {v w : Warp} (h : v.standing = w.standing) (hv : ∀ p ∈ v.pend, p.killed = 0) :
    ∀ p ∈ w.pend, p.killed = 0 := by
  have hk : v.pend.map (·.killed) = w.pend.map (·.killed) := congrArg (fun x => x.2.2.2) h
  intro p hp
  have hm : p.killed ∈ v.pend.map (·.killed) := hk ▸ List.mem_map_of_mem hp
  obtain ⟨q, hq, he⟩ := List.mem_map.1 hm
  exact he ▸ hv q hq

/-- A warp of either of two states whose warps have the same standings stands in the other. -/
theorem exists_standing {ws vs : List Warp} (h : ws.map Warp.standing = vs.map Warp.standing) {w : Warp} (hw : w ∈ ws) :
    ∃ v ∈ vs, v.standing = w.standing :=
  List.mem_map.1 (h ▸ List.mem_map_of_mem hw)

/-- Where the books of contexts, commands and grids are the same, nothing is lost. -/
theorem State.Lost.of_same {s t : State} (hc : ∀ n, (t.context? n).map Context.unmetered = (s.context? n).map Context.unmetered)
    (hw : t.warps.map Warp.standing = s.warps.map Warp.standing) (hk : t.cmds = s.cmds) (hg : t.grids = s.grids)
    (hp : ∀ g, 8 * g + 8 ≤ hostBase → g ∈ s.poison → g ∈ t.poison) (hm : s.mailbox.evsize = 0 → t.mailbox = s.mailbox) :
    State.Lost (fun _ => false) s t :=
  ⟨fun _ h => (Bool.false_ne_true h).elim, fun n _ => hc n, fun _ h _ => ⟨rfl, exists_standing hw h⟩,
    fun _ h _ _ => exists_standing hw.symm h, by simp [hk], by simp [hg], hp, hm⟩

theorem State.Calm.lost {s t : State} (h : s.Calm t) : State.Lost (fun _ => false) s t :=
  .of_same (fun _ => by rw [h.rest]; rfl) h.standing (by rw [h.rest]) (by rw [h.rest]) h.marks h.disabled

theorem State.Lost.trans {p q : Nat → Bool} {s t u : State} (h : State.Lost p s t) (g : State.Lost q t u) :
    State.Lost (fun n => p n || q n) s u := by
  have hboth : ∀ n, (p n || q n) = false → p n = false ∧ q n = false := fun n hn => by simpa using hn
  refine ⟨fun n hn => ?_, fun n hn => ?_, fun w hw hl => ?_, fun v hv hl hn => ?_, ?_, ?_,
    fun x hx hs => g.marks x hx (h.marks x hx hs), fun hs => ?_⟩
  · cases hq : q n with
    | true => exact g.ended n hq
    | false =>
      have hp : p n = true := by simpa [hq] using hn
      have hnone := g.left n hq
      rw [h.ended n hp] at hnone
      exact Option.map_eq_none_iff.1 hnone
  · obtain ⟨hp, hq⟩ := hboth n hn
    exact (g.left n hq).trans (h.left n hp)
  · obtain ⟨hq, v, hv, hvw⟩ := g.live w hw hl
    obtain ⟨hp, x, hx, hxv⟩ := h.live v hv (Warp.standing_live hvw ▸ hl)
    rw [Warp.standing_ctx hvw] at hp
    exact ⟨by rw [hp, hq]; rfl, x, hx, hxv.trans hvw⟩
  · obtain ⟨hp, hq⟩ := hboth _ hn
    obtain ⟨w, hw, hwv⟩ := h.kept v hv hl hp
    obtain ⟨x, hx, hxw⟩ := g.kept w hw (Warp.standing_live hwv ▸ hl) (Warp.standing_ctx hwv ▸ hq)
    exact ⟨x, hx, hxw.trans hwv⟩
  · rw [g.cmds, h.cmds, List.filter_filter]
    exact List.filter_congr fun k _ => by rw [Bool.not_or, Bool.and_comm]
  · rw [g.grids, h.grids, List.filter_filter]
    exact List.filter_congr fun k _ => by rw [Bool.not_or, Bool.and_comm]
  · have ht := h.disabled hs
    exact (g.disabled (ht ▸ hs)).trans ht

theorem State.Lost.congr {p q : Nat → Bool} {s t : State} (h : State.Lost p s t) (hpq : ∀ n, p n = q n) :
    State.Lost q s t := funext hpq ▸ h

/-! ## A context ends (R339) -/

/-- The live warps of a context. -/
def State.warpsIn (s : State) (ctx : Nat) : List Warp := s.warps.filter fun w => w.ctx == ctx && w.live

/-- The warps of a context report, and give up their locks and monitors. -/
def State.quit (s : State) (ctx : Nat) : State :=
  ((s.warpsIn ctx).map (·.uid)).foldl State.abandon ((s.warpsIn ctx).foldl State.reportAll s)

/-- A warp of a context retires. -/
def Warp.retiredWith (ctx : Nat) (w : Warp) : Warp := if w.ctx == ctx then { w with live := false, resident := false } else w

/-- A context is removed with all that is its own. -/
def State.without (s : State) (ctx : Nat) : State :=
  let gone := (s.grids.filter (·.ctx == ctx)).map (·.ticket)
  { s with
    warp := s.warp.retiredWith ctx
    others := (s.others.map (Warp.retiredWith ctx)).filter (·.live)
    cmds := s.cmds.filter (·.ctx != ctx)
    fabric := { s.fabric with tx := s.fabric.tx.filter (·.ctx != ctx) }
    gangs := s.gangs.map fun g => if gone.contains g.grid then { g with phase := .retired } else g
    grids := s.grids.filter (·.ctx != ctx)
    queues := s.queues.map fun q => if q.ctx == ctx then { q with head := q.tail } else q
    owners := s.owners.map fun o => { o with ctxs := o.ctxs.map fun n => if n = ctx then 64 else n }
    llc := s.llc.filter (·.ctx != ctx)
    contexts := s.contexts.filter (·.num != ctx) }

/-- The record of a context that ends. -/
def killRecord (ctx : Nat) (cause : Cause) (code : Nat) : FaultRecord :=
  { FaultRecord.empty with cause := some cause, kind := 2, code := code, ctx := ctx }

theorem State.endContext_eq (s : State) (ctx : Nat) (cause : Cause) (code : Nat) :
    s.endContext ctx cause code = (((s.quit ctx).without ctx).relevel).postTagged (killRecord ctx cause code) := rfl

theorem State.quit_calm (s : State) (ctx : Nat) : s.Calm (s.quit ctx) :=
  (State.Calm.foldl State.reportAll_calm _ s).trans (State.Calm.foldl (fun s u => (s.abandon_relocked u).calm) _ _)

theorem Warp.retiredWith_live {ctx : Nat} {w : Warp} (h : (w.retiredWith ctx).live = true) :
    w.retiredWith ctx = w ∧ w.ctx ≠ ctx := by
  unfold Warp.retiredWith at *
  split at h
  · cases h
  · next hc => exact ⟨if_neg hc, by simpa using hc⟩

theorem Warp.retiredWith_other {ctx : Nat} {w : Warp} (h : w.ctx ≠ ctx) : w.retiredWith ctx = w :=
  if_neg (by simpa using h)

theorem State.without_lost (s : State) (ctx : Nat) : State.Lost (· == ctx) s (s.without ctx) := by
  refine ⟨fun n hn => ?_, fun n hn => ?_, fun w hw hl => ?_, fun v hv hl hn => ?_, rfl, rfl, fun _ _ h => h, fun _ => rfl⟩
  · have hctx : n = ctx := by simpa using hn
    subst hctx
    refine List.find?_eq_none.2 fun c hc => ?_
    have hne := (List.mem_filter.1 hc).2
    simpa using hne
  · have hctx : n ≠ ctx := by simpa using hn
    have hfind : (s.without ctx).context? n = s.context? n := by
      show (s.contexts.filter (·.num != ctx)).find? (·.num == n) = s.contexts.find? (·.num == n)
      rw [List.find?_filter]
      refine congrArg (fun q => s.contexts.find? q) (funext fun c => ?_)
      by_cases hc : c.num = n
      · simp [hc, hctx]
      · simp [hc]
    rw [hfind]
  · have hmem : ∃ v ∈ s.warps, w = v.retiredWith ctx := by
      rcases List.mem_cons.1 hw with rfl | hw
      · exact ⟨s.warp, List.mem_cons_self, rfl⟩
      · obtain ⟨v, hv, rfl⟩ := List.mem_map.1 (List.mem_filter.1 hw).1
        exact ⟨v, List.mem_cons_of_mem _ hv, rfl⟩
    obtain ⟨v, hv, rfl⟩ := hmem
    obtain ⟨he, hc⟩ := Warp.retiredWith_live hl
    rw [he]
    exact ⟨by simpa using hc, v, hv, rfl⟩
  · have he : v.retiredWith ctx = v := Warp.retiredWith_other (by simpa using hn)
    refine ⟨v, ?_, rfl⟩
    rcases List.mem_cons.1 hv with rfl | hv
    · exact List.mem_cons.2 (.inl he.symm)
    · exact List.mem_cons_of_mem _ (List.mem_filter.2 ⟨List.mem_map.2 ⟨v, hv, he⟩, hl⟩)

theorem State.relevel_lost (s : State) : State.Lost (fun _ => false) s s.relevel := by
  unfold State.relevel
  split
  · exact .of_same (fun _ => rfl) rfl rfl rfl (fun _ _ h => h) fun _ => rfl
  · exact .of_same (fun _ => rfl) rfl rfl rfl (fun _ _ h => h) fun _ => rfl

theorem State.endContext_lost (s : State) (ctx : Nat) (cause : Cause) (code : Nat) :
    State.Lost (· == ctx) s (s.endContext ctx cause code) := by
  rw [State.endContext_eq]
  refine ((((s.quit_calm ctx).lost.trans (State.without_lost _ ctx)).trans (State.relevel_lost _)).trans
    (State.postTagged_calm _ _).lost).congr fun n => ?_
  simp

/-- What the end of some contexts leaves exactly as it was. -/
structure State.Spared (p : Nat → Bool) (s t : State) : Prop where
  contexts : t.contexts = s.contexts.filter fun c => !p c.num
  fenced : ∀ i, (t.site i).fenced = (s.site i).fenced
  llc : ∀ l ∈ t.llc, l ∈ s.llc
  rest : (t.tlb, t.homes, t.regs, t.memFenced, t.ioFenced, t.free) = (s.tlb, s.homes, s.regs, s.memFenced, s.ioFenced, s.free)

theorem State.Spared.of_same {s t : State} (hc : t.contexts = s.contexts) (hs : t.sites = s.sites) (hl : t.llc = s.llc)
    (hr : (t.tlb, t.homes, t.regs, t.memFenced, t.ioFenced, t.free) =
      (s.tlb, s.homes, s.regs, s.memFenced, s.ioFenced, s.free)) : State.Spared (fun _ => false) s t :=
  ⟨by simp [hc], fun _ => by unfold State.site; rw [hs], fun _ h => hl ▸ h, hr⟩

theorem State.Calm.spared {s t : State} (h : s.Calm t) : State.Spared (fun _ => false) s t :=
  .of_same (by rw [h.rest]) (by rw [h.rest]) (by rw [h.rest]) (by rw [h.rest])

theorem State.Spared.trans {p q : Nat → Bool} {s t u : State} (h : State.Spared p s t) (g : State.Spared q t u) :
    State.Spared (fun n => p n || q n) s u := by
  refine ⟨?_, fun i => (g.fenced i).trans (h.fenced i), fun l hl => h.llc l (g.llc l hl), g.rest.trans h.rest⟩
  rw [g.contexts, h.contexts, List.filter_filter]
  exact List.filter_congr fun k _ => by rw [Bool.not_or, Bool.and_comm]

theorem State.Spared.congr {p q : Nat → Bool} {s t : State} (h : State.Spared p s t) (hpq : ∀ n, p n = q n) :
    State.Spared q s t := funext hpq ▸ h

theorem State.relevel_spared (s : State) : State.Spared (fun _ => false) s s.relevel := by
  unfold State.relevel
  split
  · exact .of_same rfl rfl rfl rfl
  · refine ⟨by simp, fun i => ?_, fun _ h => h, rfl⟩
    unfold State.site
    dsimp only
    rw [Vector.getElem?_map]
    cases s.sites[i]? <;> rfl

theorem State.endContext_spared (s : State) (ctx : Nat) (cause : Cause) (code : Nat) :
    State.Spared (· == ctx) s (s.endContext ctx cause code) := by
  rw [State.endContext_eq]
  have hwithout : State.Spared (· == ctx) (s.quit ctx) ((s.quit ctx).without ctx) :=
    ⟨rfl, fun _ => rfl, fun _ h => (List.mem_filter.1 h).1, rfl⟩
  refine ((((s.quit_calm ctx).spared.trans hwithout).trans (State.relevel_spared _)).trans
    (State.postTagged_calm _ _).spared).congr fun n => ?_
  simp

theorem State.fenceKill_lost (cs : List Nat) : ∀ s : State, State.Lost cs.contains s (s.fenceKill cs) := by
  induction cs with
  | nil => exact fun s => (State.Calm.refl s).lost
  | cons c cs ih => exact fun s => ((s.endContext_lost c .diefence 0).trans (ih _)).congr fun n => List.contains_cons.symm

theorem State.fenceKill_spared (cs : List Nat) : ∀ s : State, State.Spared cs.contains s (s.fenceKill cs) := by
  induction cs with
  | nil => exact fun s => (State.Calm.refl s).spared
  | cons c cs ih =>
    exact fun s => ((s.endContext_spared c .diefence 0).trans (ih _)).congr fun n => List.contains_cons.symm

/-! ## The records of contexts that end (R339, R357) -/

/-- Nothing but the record of a context that ends is posted in such a state, and nothing else written. -/
structure State.Quiet (s : State) : Prop where
  wf : s.mem.wf
  partials : s.partials = []
  shootdowns : s.shootdowns = []
  unharmed : ∀ w ∈ s.warps, w.live = true → ∀ p ∈ w.pend, p.killed = 0

theorem State.quit_quiet {s : State} (h : s.Quiet) (ctx : Nat) : s.Relocked (s.quit ctx) := by
  have hreport : ∀ ws : List Warp, (∀ w ∈ ws, ∀ p ∈ w.pend, p.killed = 0) → ws.foldl State.reportAll s = s := by
    intro ws
    induction ws with
    | nil => exact fun _ => rfl
    | cons w ws ih =>
      intro hw
      rw [List.foldl_cons, s.reportAll_none (hw w List.mem_cons_self)]
      exact ih fun x hx => hw x (List.mem_cons_of_mem _ hx)
  have hmine : ∀ w ∈ s.warpsIn ctx, ∀ p ∈ w.pend, p.killed = 0 := by
    intro w hw
    obtain ⟨hm, hl⟩ := List.mem_filter.1 hw
    exact h.unharmed w hm (by simp only [Bool.and_eq_true] at hl; exact hl.2)
  unfold State.quit
  rw [hreport _ hmine]
  exact State.Relocked.foldl State.abandon_relocked _ s

theorem State.relevel_posts (s : State) : (s.relevel.mailbox, s.relevel.mem, s.relevel.partials, s.relevel.shootdowns) =
    (s.mailbox, s.mem, s.partials, s.shootdowns) := by
  unfold State.relevel
  split <;> rfl

/-- A record that the ring takes lies in its slot. -/
theorem State.postTagged_taken {s : State} (h0 : s.mailbox.evsize ≠ 0)
    (h1 : s.mailbox.evtail - s.mailbox.evhead ≠ BitVec.ofNat 64 (2 ^ s.mailbox.evsize.toNat)) (r : FaultRecord) :
    let t := s.postTagged r
    t.mailbox = { s.mailbox with evtail := s.mailbox.evtail + 1 }
    ∧ t.mem = s.mem.writeBytes (eventSlot s.mailbox) { r with tag := s.nextTag }.bytes
    ∧ t.partials = s.partials ∧ t.shootdowns = s.shootdowns := by
  unfold State.postTagged State.post eventSlot
  dsimp only
  rw [if_neg h0, if_neg h1]
  generalize FaultRecord.bytes _ = bs
  exact ⟨rfl, rfl, rfl, rfl⟩

/-- The end of a context posts its record. -/
theorem State.endContext_posts {s : State} (h : s.Quiet) (h0 : s.mailbox.evsize ≠ 0)
    (h1 : s.mailbox.evtail - s.mailbox.evhead ≠ BitVec.ofNat 64 (2 ^ s.mailbox.evsize.toNat)) (ctx : Nat) (cause : Cause)
    (code : Nat) :
    let t := s.endContext ctx cause code
    t.Quiet ∧ t.mailbox = { s.mailbox with evtail := s.mailbox.evtail + 1 }
    ∧ ∃ tag, t.mem = s.mem.writeBytes (eventSlot s.mailbox) { killRecord ctx cause code with tag := tag }.bytes := by
  intro t
  have hlost := s.endContext_lost ctx cause code
  have hquit := State.quit_quiet h ctx
  obtain ⟨hparts, hmem⟩ := hquit.quiet h.partials
  have hmail : (s.quit ctx).mailbox = s.mailbox := by rw [hquit.rest]
  have hshoot : (s.quit ctx).shootdowns = [] := by rw [hquit.rest]; exact h.shootdowns
  set a := ((s.quit ctx).without ctx).relevel with ha
  have hposts := State.relevel_posts ((s.quit ctx).without ctx)
  simp only [Prod.mk.injEq] at hposts
  obtain ⟨p1, p2, p3, p4⟩ := hposts
  have hmailbox : a.mailbox = s.mailbox := p1.trans hmail
  obtain ⟨t1, t2, t3, t4⟩ := State.postTagged_taken (s := a) (hmailbox ▸ h0) (hmailbox ▸ h1) (killRecord ctx cause code)
  rw [hmailbox] at t1 t2
  rw [p2.trans hmem] at t2
  refine ⟨⟨?_, t3.trans (p3.trans hparts), t4.trans (p4.trans hshoot), fun w hw hl => ?_⟩, t1, _, t2⟩
  · have hwf := Memory.wf_writeBytes { killRecord ctx cause code with tag := a.nextTag }.bytes h.wf (eventSlot s.mailbox)
    exact t2 ▸ hwf
  · obtain ⟨-, v, hv, hvw⟩ := hlost.live w hw hl
    exact Warp.standing_unharmed hvw (h.unharmed v hv (Warp.standing_live hvw ▸ hl))

end Sys2Proof.Machine
end

section
/-! Where the records of contexts that end lie in the event ring, and what they say (R339, R349, R357). -/

set_option Elab.async false

namespace Sys2Proof.Machine

/-! ## Bytes of a record -/

theorem bytesToNat_natToBytes (n v : Nat) : bytesToNat (natToBytes n v) = v % 256 ^ n := by
  induction n generalizing v with
  | zero => simp [natToBytes, bytesToNat, Nat.mod_one]
  | succ n ih =>
    have hbyte : (BitVec.ofNat 8 v).toNat = v % 256 := BitVec.toNat_ofNat v 8
    rw [natToBytes, bytesToNat, ih, hbyte, Nat.pow_succ', Nat.mod_mul]

/-- One block of a list made of blocks of one length. -/
theorem take_drop_flatMap {α β : Type} {f : α → List β} {k : Nat} (hf : ∀ x, (f x).length = k) (l : List α) :
    ∀ {i : Nat} {x : α}, l[i]? = some x → ((l.flatMap f).drop (k * i)).take k = f x := by
  induction l with
  | nil => intro i x h; simp at h
  | cons y l ih =>
    intro i x h
    rw [List.flatMap_cons]
    cases i with
    | zero =>
      cases h
      exact List.take_left' (hf y)
    | succ i =>
      have hdrop : k * (i + 1) = (f y).length + k * i := by rw [hf, Nat.mul_succ, Nat.add_comm]
      rw [hdrop, ← List.drop_drop, List.drop_left]
      exact ih h

/-- Doubleword `i` of a record, as bytes. -/
theorem FaultRecord.bytes_dword (r : FaultRecord) {i : Nat} (hi : i < 128) :
    (r.bytes.drop (8 * i)).take 8 = natToBytes 8 (r.dword i).toNat :=
  take_drop_flatMap (fun _ => length_natToBytes 8 _) _ (List.getElem?_range hi)

theorem FaultRecord.length_bytes (r : FaultRecord) : r.bytes.length = 1024 := by
  unfold FaultRecord.bytes
  rw [List.length_flatMap]
  simp [length_natToBytes]

theorem Memory.readBytes_congr {m m' : Memory} {n : Nat} : ∀ {a : Nat}, (∀ k < n, m.read (a + k) = m'.read (a + k)) →
    m.readBytes a n = m'.readBytes a n := by
  induction n with
  | zero => exact fun _ => rfl
  | succ n ih =>
    intro a h
    have h0 : m.read a = m'.read a := h 0 (Nat.succ_pos n)
    rw [Memory.readBytes, Memory.readBytes, h0, ih fun k hk => ?_]
    have h1 := h (k + 1) (Nat.succ_lt_succ hk)
    rwa [← Nat.add_assoc, Nat.add_right_comm] at h1

/-- The bytes read where a list of bytes lies. -/
theorem Memory.readBytes_of_read {m : Memory} {bs : List Byte} {n : Nat} : ∀ {a o : Nat}, o + n ≤ bs.length →
    (∀ k < n, m.read (a + k) = bs.getD (o + k) 0) → m.readBytes a n = (bs.drop o).take n := by
  induction n with
  | zero => intro a o _ _; simp [Memory.readBytes]
  | succ n ih =>
    intro a o ho h
    have hlt : o < bs.length := by omega
    have hrest : m.readBytes (a + 1) n = (bs.drop (o + 1)).take n := by
      refine ih (by omega) fun k hk => ?_
      have h1 := h (k + 1) (Nat.succ_lt_succ hk)
      rwa [← Nat.add_assoc, Nat.add_right_comm, ← Nat.add_assoc, Nat.add_right_comm o] at h1
    have hhead : m.read a = bs[o] := by
      have h0 := h 0 (Nat.succ_pos n)
      rwa [Nat.add_zero, Nat.add_zero, List.getD_eq_getElem _ _ hlt] at h0
    rw [Memory.readBytes, hrest, hhead, List.drop_eq_getElem_cons hlt, List.take_succ_cons]

/-- Doubleword `i` of a record that has been written. -/
theorem Memory.nat_dword {m : Memory} (h : m.wf) (a : Nat) (r : FaultRecord) {i : Nat} (hi : i < 128) :
    (m.writeBytes a r.bytes).nat (a + 8 * i) 8 = (r.dword i).toNat := by
  have hlen := r.length_bytes
  unfold Memory.nat
  rw [Memory.readBytes_of_read (bs := r.bytes) (o := 8 * i) (by omega) fun k hk => ?_, r.bytes_dword hi,
    bytesToNat_natToBytes]
  · exact Nat.mod_eq_of_lt (r.dword i).isLt
  rw [Memory.read_writeBytes _ h]
  unfold laid
  rw [if_pos (by omega)]
  congr 1
  omega

/-- The first four bytes of a record that has been written. -/
theorem Memory.nat_first {m : Memory} (h : m.wf) (a : Nat) (r : FaultRecord) :
    (m.writeBytes a r.bytes).nat a 4 = (r.dword 0).toNat % 2 ^ 32 := by
  have hlen := r.length_bytes
  have hfour : (r.bytes.drop 0).take 4 = natToBytes 4 (r.dword 0).toNat := by
    have h8 : (r.bytes.drop 0).take 8 = natToBytes 8 (r.dword 0).toNat := r.bytes_dword (i := 0) (by omega)
    calc (r.bytes.drop 0).take 4 = ((r.bytes.drop 0).take 8).take 4 := by rw [List.take_take]; rfl
      _ = (natToBytes 8 (r.dword 0).toNat).take 4 := by rw [h8]
      _ = natToBytes 4 (r.dword 0).toNat := rfl
  unfold Memory.nat
  rw [Memory.readBytes_of_read (bs := r.bytes) (o := 0) (by omega) fun k hk => ?_, hfour, bytesToNat_natToBytes]
  · rfl
  rw [Memory.read_writeBytes _ h]
  unfold laid
  rw [if_pos (by omega)]
  congr 1
  omega

/-- The slot of a ring holds the record of a context that a fence has ended. -/
def HoldsFenceKill (m : Memory) (slot ctx : Nat) : Prop :=
  m.nat slot 4 = 0x14 + 2 * 2 ^ 8 ∧ m.nat (slot + 16) 8 = ctx * 2 ^ 16

theorem holdsFenceKill_write {m : Memory} (h : m.wf) (slot tag : Nat) {ctx : Nat} (hc : ctx < 64) :
    HoldsFenceKill (m.writeBytes slot { killRecord ctx .diefence 0 with tag := tag }.bytes) slot ctx := by
  refine ⟨?_, ?_⟩
  · rw [Memory.nat_first h]
    show (BitVec.ofNat 64 (0x14 + 2 * 2 ^ 8 + 0 * 2 ^ 10 + 0 * 2 ^ 16 + 0 * 2 ^ 20 + 0 * 2 ^ 21 + 0 * 2 ^ 22 + 0 * 2 ^ 28
      + tag % 2 ^ 32 * 2 ^ 32)).toNat % 2 ^ 32 = _
    rw [BitVec.toNat_ofNat]
    omega
  · rw [Memory.nat_dword h slot _ (i := 2) (by omega)]
    show (BitVec.ofNat 64 (0 + ctx * 2 ^ 16 + 0 * 2 ^ 32)).toNat = _
    rw [BitVec.toNat_ofNat]
    omega

theorem HoldsFenceKill.congr {m m' : Memory} {slot ctx : Nat} (h : HoldsFenceKill m slot ctx)
    (hr : ∀ a, slot ≤ a → a < slot + 1024 → m'.read a = m.read a) : HoldsFenceKill m' slot ctx := by
  obtain ⟨h1, h2⟩ := h
  refine ⟨Eq.trans ?_ h1, Eq.trans ?_ h2⟩
  · exact congrArg bytesToNat (Memory.readBytes_congr fun k hk => hr _ (by omega) (by omega))
  · exact congrArg bytesToNat (Memory.readBytes_congr fun k hk => hr _ (by omega) (by omega))

/-! ## Slots of the ring -/

/-- The slot that the record after `j` others takes. -/
def Mailbox.slotAfter (b : Mailbox) (j : Nat) : Nat := eventSlot { b with evtail := b.evtail + BitVec.ofNat 64 j }

/-- The mailbox after `n` records. -/
def Mailbox.posted (b : Mailbox) (n : Nat) : Mailbox := { b with evtail := b.evtail + BitVec.ofNat 64 n }

theorem Mailbox.posted_zero (b : Mailbox) : b.posted 0 = b := by
  unfold Mailbox.posted
  rw [BitVec.add_zero]

theorem Mailbox.posted_posted (b : Mailbox) (m n : Nat) : (b.posted m).posted n = b.posted (m + n) := by
  unfold Mailbox.posted
  rw [BitVec.ofNat_add, BitVec.add_assoc]

theorem Mailbox.slotAfter_eq (b : Mailbox) (h : b.evsize.toNat ≤ 12) (j : Nat) : b.slotAfter j =
    hostBase + b.evbase.toNat + 1024 * ((b.evtail.toNat + j) % 2 ^ b.evsize.toNat) := by
  have hdvd : 2 ^ b.evsize.toNat ∣ 2 ^ 64 := Nat.pow_dvd_pow 2 (by omega)
  unfold Mailbox.slotAfter eventSlot
  dsimp only
  rw [BitVec.toNat_add, BitVec.toNat_ofNat, Nat.add_mod_mod, Nat.mod_mod_of_dvd _ hdvd]

/-- Slots that fewer records than the ring holds lie between are apart. -/
theorem Mailbox.slotAfter_apart (b : Mailbox) (h : b.evsize.toNat ≤ 12) {j : Nat} (h0 : 0 < j)
    (hj : j < 2 ^ b.evsize.toNat) : b.slotAfter j + 1024 ≤ b.slotAfter 0 ∨ b.slotAfter 0 + 1024 ≤ b.slotAfter j := by
  rw [b.slotAfter_eq h, b.slotAfter_eq h]
  generalize 2 ^ b.evsize.toNat = m at hj
  have hne : (b.evtail.toNat + j) % m ≠ (b.evtail.toNat + 0) % m := by
    intro he
    have hz : j % m = 0 % m := Nat.ModEq.add_left_cancel' b.evtail.toNat he
    rw [Nat.mod_eq_of_lt hj, Nat.zero_mod] at hz
    omega
  omega

/-- A ring with room for a record is not full. -/
theorem Mailbox.not_full {b : Mailbox} {n : Nat} (h4 : 4 ≤ b.evsize.toNat) (h12 : b.evsize.toNat ≤ 12)
    (hroom : (b.evtail - b.evhead).toNat + (n + 1) ≤ 2 ^ b.evsize.toNat) :
    b.evsize ≠ 0 ∧ b.evtail - b.evhead ≠ BitVec.ofNat 64 (2 ^ b.evsize.toNat) := by
  have hcap : 2 ^ b.evsize.toNat ≤ 2 ^ 12 := Nat.pow_le_pow_right (by omega) h12
  refine ⟨fun h => ?_, fun h => ?_⟩
  · rw [h] at h4
    cases h4
  · rw [h, BitVec.toNat_ofNat, Nat.mod_eq_of_lt (by omega)] at hroom
    omega

/-- A record takes at most one slot of a ring's room. -/
theorem Mailbox.room_posted {b : Mailbox} {n c : Nat} (hroom : (b.evtail - b.evhead).toNat + (n + 1) ≤ c) :
    ((b.posted 1).evtail - (b.posted 1).evhead).toNat + n ≤ c := by
  have hone : b.evtail + BitVec.ofNat 64 1 - b.evhead = b.evtail - b.evhead + 1 :=
    add_sub_right_comm _ _ _
  have hle : (b.evtail - b.evhead + 1).toNat ≤ (b.evtail - b.evhead).toNat + 1 := by
    rw [BitVec.toNat_add]
    exact Nat.mod_le _ _
  show (b.evtail + BitVec.ofNat 64 1 - b.evhead).toNat + n ≤ c
  rw [hone]
  omega

/-! ## Contexts end one after another -/

/-- Where nothing else is posted and the ring has room, a record for each context that a fence ends lies in the next slot,
and no other byte is written. -/
theorem State.fenceKill_posts (cs : List Nat) : ∀ {s : State}, s.Quiet → 4 ≤ s.mailbox.evsize.toNat →
    s.mailbox.evsize.toNat ≤ 12 →
    (s.mailbox.evtail - s.mailbox.evhead).toNat + cs.length ≤ 2 ^ s.mailbox.evsize.toNat →
    let t := s.fenceKill cs
    t.Quiet ∧ t.mailbox = s.mailbox.posted cs.length
    ∧ (∀ a, (∀ j < cs.length, a < s.mailbox.slotAfter j ∨ s.mailbox.slotAfter j + 1024 ≤ a) →
        t.mem.read a = s.mem.read a)
    ∧ ∀ j c, cs[j]? = some c → c < 64 → HoldsFenceKill t.mem (s.mailbox.slotAfter j) c := by
  induction cs with
  | nil => exact fun {s} hq _ _ _ => ⟨hq, s.mailbox.posted_zero.symm, fun _ _ => rfl, fun j c h => by simp at h⟩
  | cons c cs ih =>
    intro s hq h4 h12 hroom t
    rw [List.length_cons] at hroom
    obtain ⟨h0, h1⟩ := Mailbox.not_full h4 h12 hroom
    obtain ⟨hq', hmail, tag, hmem⟩ := State.endContext_posts hq h0 h1 c .diefence 0
    set u := s.endContext c .diefence 0 with hu
    have hpost : u.mailbox = s.mailbox.posted 1 := hmail
    have hslot : eventSlot s.mailbox = s.mailbox.slotAfter 0 := congrArg eventSlot s.mailbox.posted_zero.symm
    rw [hslot] at hmem
    have hnext : ∀ j, u.mailbox.slotAfter j = s.mailbox.slotAfter (j + 1) := fun j => by
      rw [hpost, Nat.add_comm]
      exact congrArg eventSlot (s.mailbox.posted_posted 1 j)
    have hsize : u.mailbox.evsize = s.mailbox.evsize := by rw [hpost]; rfl
    obtain ⟨k1, k2, k3, k4⟩ := ih hq' (hsize ▸ h4) (hsize ▸ h12) (by rw [hsize, hpost]; exact Mailbox.room_posted hroom)
    simp only [hnext] at k3 k4
    have hlen : ∀ bs : FaultRecord, bs.bytes.length = 1024 := FaultRecord.length_bytes
    have ht : t = u.fenceKill cs := rfl
    rw [ht]
    refine ⟨k1, ?_, fun a ha => ?_, fun j d hd hd64 => ?_⟩
    · rw [k2, hpost, s.mailbox.posted_posted, List.length_cons, Nat.add_comm]
    · rw [k3 a fun j hj => ha (j + 1) (by rw [List.length_cons]; omega), hmem]
      exact Memory.read_writeBytes_other _ _ hq.wf _ _ (hlen _ ▸ ha 0 (Nat.succ_pos _))
    · cases j with
      | zero =>
        cases hd
        refine HoldsFenceKill.congr (hmem ▸ holdsFenceKill_write hq.wf _ tag hd64) fun a h1 h2 => k3 a fun j hj => ?_
        have hapart := s.mailbox.slotAfter_apart h12 (j := j + 1) (by omega) (by omega)
        omega
      | succ j => exact k4 j d hd hd64

end Sys2Proof.Machine
end

section
/-! Die fences: what depends on a site, and what a fence takes (R349, R357). -/

set_option Elab.async false

namespace Sys2Proof.Machine

/-! ## What of a context is on a site (R349 step 3) -/

/-- A walk finds a leaf that a test accepts exactly where the table has one. -/
theorem State.anyLeaf_iff (s : State) (p : Nat → Nat → Bool) (level : Nat) : ∀ table : Nat,
    s.anyLeaf p level table = true ↔ ∃ place size, FindsLeaf s place size level table ∧ p place size = true := by
  induction level with
  | zero =>
    intro table
    unfold State.anyLeaf
    rw [List.any_eq_true]
    constructor
    · rintro ⟨i, hi, h⟩
      simp only [Bool.and_eq_true, beq_iff_eq, Option.any_eq_true] at h
      obtain ⟨hv, a, ha, hp⟩ := h
      exact ⟨a, _, .leaf (List.mem_range.1 hi) hv ha rfl, hp⟩
    · rintro ⟨place, size, h, hp⟩
      cases h with
      | leaf hi hv ha hs =>
        refine ⟨_, List.mem_range.2 hi, ?_⟩
        simp only [Bool.and_eq_true, beq_iff_eq, Option.any_eq_true]
        exact ⟨hv, place, ha, hs ▸ hp⟩
  | succ level ih =>
    intro table
    unfold State.anyLeaf
    rw [List.any_eq_true]
    constructor
    · rintro ⟨i, hi, h⟩
      have hi := List.mem_range.1 hi
      dsimp only at h
      split at h
      · cases h
      · next hv =>
        split at h
        · next hl =>
          obtain ⟨a, ha, hp⟩ := Option.any_eq_true _ _ |>.1 h
          exact ⟨a, _, .large hi (by omega) hl ha rfl, hp⟩
        · next hl =>
          obtain ⟨place, size, hf, hp⟩ := (ih _).1 h
          exact ⟨place, size, .under hi (by omega) (by omega) hf, hp⟩
    · rintro ⟨place, size, h, hp⟩
      cases h with
      | large hi hv hl ha hs =>
        refine ⟨_, List.mem_range.2 hi, ?_⟩
        dsimp only
        rw [if_neg (by omega), if_pos hl, Option.any_eq_true]
        exact ⟨place, ha, hs ▸ hp⟩
      | under hi hv hl hf =>
        refine ⟨_, List.mem_range.2 hi, ?_⟩
        dsimp only
        rw [if_neg (by omega), if_neg (by omega)]
        exact (ih _).2 ⟨place, size, hf, hp⟩

theorem State.anyLeaf_sameMemory {s t : State} (h : t.mem = s.mem) (p : Nat → Nat → Bool) (level : Nat) : ∀ table : Nat,
    t.anyLeaf p level table = s.anyLeaf p level table := by
  have hpeek : ∀ a n, t.peek a n = s.peek a n := fun a n => by unfold State.peek; rw [h]
  induction level with
  | zero => intro table; simp only [State.anyLeaf, hpeek]
  | succ level ih => intro table; simp only [State.anyLeaf, hpeek, ih]

theorem State.homedOn_iff (s : State) (i : Nat) (c : Context) : s.homedOn i c = true ↔
    ∃ h ∈ s.homes, h.site = i ∧ ∃ place size, FindsLeaf s place size 4 (c.ptbase.toNat / 4096 % 2 ^ 40 * 4096)
      ∧ h.page < place + 2 ^ size ∧ place < h.page + 2 ^ h.size := by
  have hroot : c.root = c.ptbase.toNat / 4096 % 2 ^ 40 * 4096 := rfl
  unfold State.homedOn
  dsimp only
  rw [Bool.and_eq_true, s.anyLeaf_iff, hroot]
  constructor
  · rintro ⟨-, place, size, hf, hp⟩
    obtain ⟨h, hh, hm⟩ := List.any_eq_true.1 hp
    obtain ⟨hmem, hsite⟩ := List.mem_filter.1 hh
    simp only [pagesMeet, Bool.and_eq_true, decide_eq_true_eq] at hm
    exact ⟨h, hmem, by simpa using hsite, place, size, hf, hm⟩
  · rintro ⟨h, hmem, hsite, place, size, hf, hm⟩
    have hh : h ∈ s.homes.filter (·.site == i) := List.mem_filter.2 ⟨hmem, by simpa using hsite⟩
    refine ⟨?_, place, size, hf, List.any_eq_true.2 ⟨h, hh, ?_⟩⟩
    · simpa using ⟨h, hmem, hsite⟩
    · simpa only [pagesMeet, Bool.and_eq_true, decide_eq_true_eq] using hm

/-- A live warp of this number belongs to the context. -/
def State.isOf (s : State) (n u : Nat) : Bool := match s.findWarp u with | some w => w.ctx == n | none => false

theorem State.isOf_iff (s : State) (n u : Nat) : s.isOf n u = true ↔ ∃ w, s.findWarp u = some w ∧ w.ctx = n := by
  unfold State.isOf
  cases s.findWarp u <;> simp

theorem State.lockedOn_eq (s : State) (i n : Nat) : s.lockedOn i n =
    s.locks.any fun l => s.homeOf l.line == some i && (l.holder.any (s.isOf n) || l.queue.any fun q => s.isOf n q.warp) :=
  rfl

theorem State.lockedOn_iff (s : State) (i n : Nat) : s.lockedOn i n = true ↔
    ∃ l ∈ s.locks, s.homeOf l.line = some i ∧ ∃ u w, (l.holder = some u ∨ ∃ q ∈ l.queue, q.warp = u)
      ∧ s.findWarp u = some w ∧ w.ctx = n := by
  simp only [State.lockedOn_eq, List.any_eq_true, Bool.and_eq_true, Bool.or_eq_true, Option.any_eq_true, State.isOf_iff,
    beq_iff_eq]
  constructor
  · rintro ⟨l, hl, hhome, ⟨u, hu, w, hw, hc⟩ | ⟨q, hq, w, hw, hc⟩⟩
    · exact ⟨l, hl, hhome, u, w, .inl hu, hw, hc⟩
    · exact ⟨l, hl, hhome, q.warp, w, .inr ⟨q, hq, rfl⟩, hw, hc⟩
  · rintro ⟨l, hl, hhome, u, w, hu | ⟨q, hq, rfl⟩, hw, hc⟩
    · exact ⟨l, hl, hhome, .inl ⟨u, hu, w, hw, hc⟩⟩
    · exact ⟨l, hl, hhome, .inr ⟨q, hq, w, hw, hc⟩⟩

theorem State.dependsOn_iff (s : State) (i : Nat) (c : Context) : s.dependsOn i c = true ↔ Depends s i c := by
  unfold State.dependsOn Depends
  rw [Bool.or_eq_true, Bool.or_eq_true, s.homedOn_iff, s.lockedOn_iff, List.any_eq_true, or_assoc]
  simp only [Bool.and_eq_true, beq_iff_eq, and_assoc]

/-! ## The contexts of a test end with DIEFENCE -/

/-- The numbers of the contexts that a test hits. -/
def State.hits (s : State) (hit : Context → Bool) : List Nat := (s.contexts.filter hit).map (·.num)

theorem State.mem_hits {s : State} {hit : Context → Bool} {n : Nat} :
    n ∈ s.hits hit ↔ ∃ c ∈ s.contexts, c.num = n ∧ hit c = true := by
  simp only [State.hits, List.mem_map, List.mem_filter, and_assoc]
  exact ⟨fun ⟨c, h1, h2, h3⟩ => ⟨c, h1, h3, h2⟩, fun ⟨c, h1, h2, h3⟩ => ⟨c, h1, h3, h2⟩⟩

/-- A record for each context that a test hits is in the ring, and nothing else has been posted. -/
def State.FencePosted (s t : State) (hit : Context → Bool) : Prop :=
  s.Quiet → 4 ≤ s.mailbox.evsize.toNat → s.mailbox.evsize.toNat ≤ 12 →
    (s.mailbox.evtail - s.mailbox.evhead).toNat + (s.hits hit).length ≤ 2 ^ s.mailbox.evsize.toNat →
    t.mailbox = s.mailbox.posted (s.hits hit).length
    ∧ ∀ j c, (s.hits hit)[j]? = some c → c < 64 → HoldsFenceKill t.mem (s.mailbox.slotAfter j) c

theorem fenceKills_of_lost {s t : State} {hit : Context → Bool} (h : State.Lost (s.hits hit).contains s t)
    (hp : s.FencePosted t hit) : FenceKills s t hit := by
  have hends : ∀ n, (∃ c ∈ s.contexts, c.num = n ∧ hit c = true) ↔ (s.hits hit).contains n = true := fun n => by
    rw [← State.mem_hits, List.contains_iff_mem]
  have hnot : ∀ n, (¬ ∃ c ∈ s.contexts, c.num = n ∧ hit c = true) ↔ (s.hits hit).contains n = false := fun n => by
    rw [hends, Bool.not_eq_true]
  have hlen : (s.hits hit).length = (s.contexts.filter hit).length := List.length_map _
  unfold FenceKills
  dsimp only
  simp only [hends]
  simp only [Bool.not_eq_true]
  refine ⟨h.ended, h.left, fun w hw hp => ?_, fun v hv hl hn => ?_, fun k => ?_, fun g => ?_, h.disabled,
    fun hwf h4 h12 hroom hsh hpart hkill => ?_⟩
  · by_contra hl
    rw [(h.live w hw (by simpa using hl)).1] at hp
    cases hp
  · obtain ⟨w, hw, hs⟩ := h.kept v hv hl hn
    exact ⟨w, hw, Warp.standing_uid hs, Warp.standing_ctx hs, Warp.standing_live hs ▸ hl⟩
  · rw [h.cmds, List.mem_filter, Bool.not_eq_true']
  · rw [h.grids, List.mem_filter, Bool.not_eq_true']
  · obtain ⟨k1, k2⟩ := hp ⟨hwf, hpart, hsh, fun w hw _ => hkill w hw⟩ h4 h12 (hlen ▸ hroom)
    rw [hlen] at k1
    refine ⟨k1, fun c hc hh h64 => ?_⟩
    obtain ⟨j, hj⟩ := List.mem_iff_getElem?.1 (State.mem_hits.2 ⟨c, hc, rfl, hh⟩)
    refine ⟨j, ?_, k2 j c.num hj h64⟩
    obtain ⟨hlt, -⟩ := List.getElem?_eq_some_iff.1 hj
    exact hlen ▸ hlt

/-- What a fence leaves of the state before contexts end, and after. -/
theorem fenceKills_of_steps {s a b t : State} {hit : Context → Bool} (h1 : State.Lost (fun _ => false) s a)
    (q1 : s.Quiet → a.Quiet ∧ a.mailbox = s.mailbox) (hb : b = a.fenceKill (s.hits hit))
    (h2 : State.Lost (fun _ => false) b t) (q2 : b.Quiet → t.mailbox = b.mailbox ∧ t.mem = b.mem) :
    State.Lost (s.hits hit).contains s t ∧ FenceKills s t hit := by
  subst hb
  have hlost : State.Lost (s.hits hit).contains s t := by
    refine ((h1.trans (a.fenceKill_lost (s.hits hit))).trans h2).congr fun n => ?_
    simp
  refine ⟨hlost, fenceKills_of_lost hlost fun hq h4 h12 hroom => ?_⟩
  obtain ⟨hqa, hm⟩ := q1 hq
  obtain ⟨hqb, p1, -, p2⟩ := State.fenceKill_posts (s.hits hit) hqa (hm ▸ h4) (hm ▸ h12) (hm ▸ hroom)
  obtain ⟨r1, r2⟩ := q2 hqb
  rw [hm] at p1 p2
  exact ⟨r1.trans p1, r2 ▸ p2⟩

/-! ## A site is fenced -/

theorem State.foldl_markPoison (ls : List Nat) : ∀ s : State,
    let t := ls.foldl State.markPoison s
    t = { s with poison := t.poison } ∧ ∀ g, g ∈ t.poison ↔ (∃ l ∈ ls, g = l / 8) ∨ g ∈ s.poison := by
  induction ls with
  | nil => exact fun s => ⟨rfl, by simp⟩
  | cons l ls ih =>
    intro s t
    obtain ⟨h1, h2⟩ := ih (s.markPoison l)
    refine ⟨h1, fun g => (h2 g).trans ?_⟩
    rw [List.exists_mem_cons_iff, or_assoc, or_left_comm]
    exact or_congr_right (mem_insertRising s.poison (l / 8) g)

/-- The words registered to the cores of a site and the partial values there are lost; their granules are marked. -/
theorem State.loseWords_marks (s : State) (i : Nat) :
    let t := s.loseWords i
    t = { s with regs := s.regs.filter fun r => r.core / 64 != i, partials := t.partials, poison := t.poison, free := t.free }
    ∧ t.partials = s.partials.filter (fun p => p.core / 64 != i)
    ∧ (∀ g ∈ s.poison, g ∈ t.poison)
    ∧ ∀ r ∈ s.regs, r.core / 64 = i → ∀ k < 32, r.words.getLsbD k = true → (r.line + 4 * k) / 8 ∈ t.poison := by
  intro t
  set locs := ((s.regs.filter fun r => r.core / 64 == i).flatMap Registration.granules)
    ++ (s.partials.filter fun p => p.core / 64 == i).map (·.loc) with hlocs
  set a : State := { s with
    regs := s.regs.filter fun r => r.core / 64 != i, partials := s.partials.filter fun p => p.core / 64 != i } with ha
  obtain ⟨h1, h2⟩ := State.foldl_markPoison locs a
  set b := locs.foldl State.markPoison a with hb
  have ht : t = b.loseLines i := rfl
  unfold State.loseLines at ht
  dsimp only at ht
  generalize ((List.range (b.linesHomed i).length).filter _).flatMap _ = ls at ht
  obtain ⟨g1, g2⟩ := State.foldl_markPoison ls { b with free := b.free + (b.linesHomed i).length }
  rw [← ht] at g1 g2
  have hall : ∀ g, g ∈ a.poison ∨ (∃ l ∈ locs, g = l / 8) → g ∈ t.poison := fun g hg => (g2 g).2 (.inr ((h2 g).2 hg.symm))
  refine ⟨?_, ?_, fun g hg => hall g (.inl hg), fun r hr hi k hk hw => hall _ (.inr ⟨_, ?_, rfl⟩)⟩
  · rw [g1, h1]
  · rw [g1, h1]
  · refine List.mem_append_left _ (List.mem_flatMap.2 ⟨r, List.mem_filter.2 ⟨hr, by simpa using hi⟩, ?_⟩)
    exact List.mem_map.2 ⟨k, List.mem_filter.2 ⟨List.mem_range.2 hk, hw⟩, rfl⟩

/-- The translations of a site, its locks, and moves of pages to it go. -/
def State.clearSite (s : State) (i : Nat) : State :=
  { s with
    tlb := s.tlb.filter fun e => e.unit.site != i
    shootdowns := s.shootdowns.map fun (k : Shootdown) => { k with units := k.units.filter fun u => u.site != i }
    locks := s.locks.filter fun l => s.homeOf l.line != some i
    homes := s.homes.map fun (h : PageHome) =>
      if h.moving == some i then { h with moving := none, asker := none } else h }

/-- Those that wait for the moves of some pages wait no more. -/
def State.unwaitAskers (s : State) (hs : List PageHome) : State :=
  hs.foldl (fun s h => match h.asker with | some (w, k) => s.unwait w k | none => s) s

theorem State.dropSite_eq (s : State) (i : Nat) : s.dropSite i =
    ((s.clearSite i).unwaitAskers (s.homes.filter fun h => h.moving == some i)).admitLocks.endShootdowns := rfl

theorem State.unwaitAskers_relocked (s : State) (hs : List PageHome) : s.Relocked (s.unwaitAskers hs) := by
  refine State.Relocked.foldl (fun s h => ?_) hs s
  split
  · exact s.answer_relocked _ _ 0
  · exact .refl s

theorem State.dropSite_calm (s : State) (i : Nat) : (s.clearSite i).Calm (s.dropSite i) := by
  rw [State.dropSite_eq]
  exact ((State.unwaitAskers_relocked _ _).trans (State.admitLocks_relocked _)).calm.trans (State.endShootdowns_calm _)

theorem State.dropSite_quiet {s : State} (h : s.Quiet) (i : Nat) :
    (s.dropSite i).mailbox = s.mailbox ∧ (s.dropSite i).mem = s.mem := by
  have hlocks := (State.unwaitAskers_relocked (s.clearSite i) (s.homes.filter fun h => h.moving == some i)).trans
    (State.admitLocks_relocked _)
  rw [State.dropSite_eq]
  set a := ((s.clearSite i).unwaitAskers (s.homes.filter fun h => h.moving == some i)).admitLocks with ha
  have hnone : a.shootdowns = [] := by
    rw [hlocks.rest]
    show s.shootdowns.map _ = []
    rw [h.shootdowns]
    rfl
  rw [State.endShootdowns_none hnone]
  refine ⟨?_, (hlocks.quiet h.partials).2⟩
  rw [hlocks.rest]
  rfl

end Sys2Proof.Machine
end

section
/-! The fence of a site, of a memory die and of I/O die 1 (R349). -/

set_option Elab.async false

namespace Sys2Proof.Machine

/-! ## A site -/

theorem State.site_mapSite {s : State} {i : Nat} (hi : i < 8) (f : Site → Site) (j : Nat) :
    (s.mapSite i f).site j = if j = i then f (s.site j) else s.site j := by
  unfold State.site State.mapSite
  dsimp only
  by_cases hj : j < 8
  · rw [Vector.getElem?_eq_getElem hj, Vector.getElem_ofFn, Vector.getElem?_eq_getElem hj]
    rfl
  · rw [Vector.getElem?_eq_none (by omega), Vector.getElem?_eq_none (by omega), if_neg (by omega)]

/-- The site shows as fenced, and what its cores had registered is lost. -/
def State.startFence (s : State) (i : Nat) : State := (s.mapSite i fun t => { t with fenced := true }).loseWords i

theorem State.fenceSite_eq {s : State} {i : Nat} (hi : i < 8) (hf : (s.site i).fenced = false) :
    s.fenceSite i =
      ((s.startFence i).fenceKill ((s.startFence i).hits ((s.startFence i).dependsOn i))).dropSite i := by
  unfold State.fenceSite
  rw [if_neg (by simp [hf, hi])]
  rfl

/-- What the start of a fence leaves. -/
theorem State.startFence_rest (s : State) (i : Nat) :
    let a := s.startFence i
    a = { s with
      sites := a.sites, regs := s.regs.filter fun r => r.core / 64 != i, partials := a.partials, poison := a.poison
      free := a.free }
    ∧ a.sites = (s.mapSite i fun t => { t with fenced := true }).sites
    ∧ a.partials = s.partials.filter (fun p => p.core / 64 != i) ∧ (∀ g ∈ s.poison, g ∈ a.poison)
    ∧ ∀ r ∈ s.regs, r.core / 64 = i → ∀ k < 32, r.words.getLsbD k = true → (r.line + 4 * k) / 8 ∈ a.poison := by
  intro a
  have ha : (s.mapSite i fun t => { t with fenced := true }).loseWords i = a := rfl
  have h := (s.mapSite i fun t => { t with fenced := true }).loseWords_marks i
  rw [ha] at h
  clear_value a
  obtain ⟨h1, h2, h3, h4⟩ := h
  have hsites : a.sites = (s.mapSite i fun t => { t with fenced := true }).sites := by rw [h1]
  refine ⟨?_, hsites, h2, h3, h4⟩
  rw [hsites]
  exact h1

/-- Whether a context depends on a site is told from gangs, grids, homes, locks, warps and memory alone. -/
theorem State.dependsOn_startFence (s : State) (i j : Nat) : (s.startFence i).dependsOn j = s.dependsOn j := by
  obtain ⟨h, -⟩ := s.startFence_rest i
  generalize s.startFence i = a at h
  have hmem : a.mem = s.mem := by rw [h]
  funext c
  have hhome : a.homedOn j c = s.homedOn j c := by
    unfold State.homedOn
    dsimp only
    rw [State.anyLeaf_sameMemory hmem, h]
  have hlock : a.lockedOn j c.num = s.lockedOn j c.num := by
    rw [h]
    rfl
  unfold State.dependsOn
  rw [hhome, hlock, h]
  rfl

theorem State.startFence_lost (s : State) (i : Nat) : State.Lost (fun _ => false) s (s.startFence i) := by
  obtain ⟨h, -, -, hmarks, -⟩ := s.startFence_rest i
  generalize s.startFence i = a at h hmarks
  refine .of_same (fun _ => ?_) ?_ ?_ ?_ (fun g _ hg => hmarks g hg) fun _ => ?_
  · rw [h]
    rfl
  · rw [h]
    rfl
  · rw [h]
  · rw [h]
  · rw [h]

theorem State.startFence_quiet {s : State} (h : s.Quiet) (i : Nat) :
    (s.startFence i).Quiet ∧ (s.startFence i).mailbox = s.mailbox := by
  obtain ⟨ha, -, hparts, -⟩ := s.startFence_rest i
  generalize s.startFence i = a at ha hparts
  have hnone : a.partials = [] := by
    rw [hparts, h.partials]
    rfl
  refine ⟨⟨?_, hnone, ?_, ?_⟩, ?_⟩
  · rw [ha]
    exact h.wf
  · rw [ha]
    exact h.shootdowns
  · rw [ha]
    exact h.unharmed
  · rw [ha]

theorem State.clearSite_lost (s : State) (i : Nat) : State.Lost (fun _ => false) s (s.clearSite i) :=
  .of_same (fun _ => rfl) rfl rfl rfl (fun _ _ h => h) fun _ => rfl

theorem State.dropSite_lost (s : State) (i : Nat) : State.Lost (fun _ => false) s (s.dropSite i) :=
  ((s.clearSite_lost i).trans (s.dropSite_calm i).lost).congr fun _ => rfl

/-- What a fenced site leaves, beside what contexts that end take with them. -/
theorem State.fenceSite_rest {s : State} {i : Nat} (hi : i < 8) (hf : (s.site i).fenced = false) :
    let t := s.fenceSite i
    (t.site i).fenced = true ∧ t.contexts = s.contexts.filter (fun c => !(s.hits (s.dependsOn i)).contains c.num)
    ∧ t.regs = s.regs.filter (fun r => r.core / 64 != i) ∧ (∀ e ∈ t.tlb, e.unit.site ≠ i)
    ∧ ∀ h ∈ t.homes, h.moving ≠ some i := by
  intro t
  obtain ⟨ha, hsites, -⟩ := s.startFence_rest i
  set a := s.startFence i with hadef
  have hcontexts : a.contexts = s.contexts := by rw [ha]
  have hhits : a.hits (a.dependsOn i) = s.hits (s.dependsOn i) := by
    unfold State.hits
    rw [s.dependsOn_startFence i i, hcontexts]
  have ht : t = (a.fenceKill (s.hits (s.dependsOn i))).dropSite i := by
    rw [← hhits]
    exact State.fenceSite_eq hi hf
  have hspared := a.fenceKill_spared (s.hits (s.dependsOn i))
  set b := a.fenceKill (s.hits (s.dependsOn i)) with hb
  have hcalm := b.dropSite_calm i
  rw [← ht] at hcalm
  clear_value t b
  have hrest := hspared.rest
  simp only [Prod.mk.injEq] at hrest
  obtain ⟨-, -, hregs, -⟩ := hrest
  refine ⟨?_, ?_, ?_, fun e he => ?_, fun h hh => ?_⟩
  · have hsite : t.site i = b.site i := by
      rw [hcalm.rest]
      rfl
    have hfenced : (a.site i).fenced = true := by
      have hmapped : a.site i = (s.mapSite i fun t => { t with fenced := true }).site i := by
        unfold State.site
        rw [hsites]
      rw [hmapped, State.site_mapSite hi, if_pos rfl]
    rw [hsite, hspared.fenced, hfenced]
  · have hsame : t.contexts = b.contexts := by
      rw [hcalm.rest]
      rfl
    rw [hsame, hspared.contexts, hcontexts]
  · have hsame : t.regs = b.regs := by
      rw [hcalm.rest]
      rfl
    rw [hsame, hregs, ha]
  · rw [hcalm.rest] at he
    simpa using (List.mem_filter.1 he).2
  · rw [hcalm.rest] at hh
    obtain ⟨x, -, rfl⟩ := List.mem_map.1 hh
    split
    · exact nofun
    · next hx => simpa using hx

/-- The fence of a site. -/
theorem State.fenceSite_kills {s : State} {i : Nat} (hi : i < 8) (hf : (s.site i).fenced = false) :
    State.Lost (s.hits (s.dependsOn i)).contains s (s.fenceSite i) ∧ FenceKills s (s.fenceSite i) (s.dependsOn i)
    ∧ ∀ r ∈ s.regs, r.core / 64 = i → r.line < 2 ^ 52 → ∀ k < 32, r.words.getLsbD k = true →
        (r.line + 4 * k) / 8 ∈ (s.fenceSite i).poison := by
  have hcontexts : (s.startFence i).contexts = s.contexts := by
    obtain ⟨ha, -⟩ := s.startFence_rest i
    rw [ha]
  have hhits : (s.startFence i).hits ((s.startFence i).dependsOn i) = s.hits (s.dependsOn i) := by
    unfold State.hits
    rw [s.dependsOn_startFence i i, hcontexts]
  rw [State.fenceSite_eq hi hf, hhits]
  obtain ⟨hlost, hkills⟩ := fenceKills_of_steps (s.startFence_lost i) (fun h => State.startFence_quiet h i) rfl
    (State.dropSite_lost _ i) (fun h => State.dropSite_quiet h i)
  refine ⟨hlost, hkills, fun r hr hcore hline k hk hw => ?_⟩
  obtain ⟨-, -, -, -, hmark⟩ := s.startFence_rest i
  have hhost : 8 * ((r.line + 4 * k) / 8) + 8 ≤ hostBase := by
    unfold hostBase
    omega
  exact (State.dropSite_lost _ i).marks _ hhost
    ((State.fenceKill_lost _ _).marks _ hhost (hmark r hr hcore k hk hw))

/-! ## A memory die -/

/-- Lines of the LLC may have left, and contexts have been charged for those that were dirty. -/
structure State.Trimmed (s t : State) : Prop where
  rest : t = { s with contexts := t.contexts, llc := t.llc }
  meters : ∀ n, (t.context? n).map Context.unmetered = (s.context? n).map Context.unmetered
  llc : ∀ l ∈ t.llc, l ∈ s.llc
  clean : (∀ l ∈ s.llc, l.dirty = false) → t.contexts = s.contexts

theorem State.Trimmed.refl (s : State) : s.Trimmed s := ⟨rfl, fun _ => rfl, fun _ h => h, fun _ => rfl⟩

theorem State.Trimmed.trans {s t u : State} (h : s.Trimmed t) (g : t.Trimmed u) : s.Trimmed u :=
  ⟨by rw [g.rest, h.rest], fun n => (g.meters n).trans (h.meters n), fun l hl => h.llc l (g.llc l hl),
    fun hc => (g.clean fun l hl => hc l (h.llc l hl)).trans (h.clean hc)⟩

theorem State.llcFlush_trimmed (s : State) (p : LlcLine → Bool) : s.Trimmed (s.llcFlush p) := by
  have hm := s.llcFlush_meters p
  refine ⟨?_, hm.meters, fun l hl => ?_, fun hc => ?_⟩
  · rw [hm.rest]
  · rw [hm.rest] at hl
    exact (List.mem_filter.1 hl).1
  · rw [State.llcFlush_clean hc]

theorem State.llcResplit_trimmed (s : State) : s.Trimmed s.llcResplit := by
  unfold State.llcResplit
  generalize s.contexts.map (·.num) = ns
  induction ns generalizing s with
  | nil => exact .refl s
  | cons n ns ih =>
    refine State.Trimmed.trans ?_ (ih (s.llcTrim n))
    unfold State.llcTrim
    dsimp only
    split
    · exact .refl s
    · exact s.llcFlush_trimmed _

/-- A context has a package scratchpad partition or a dirty line among those of a test. -/
def State.keepsOn (s : State) (on : LlcLine → Bool) (c : Context) : Bool :=
  c.psBytes != 0 || s.llc.any fun l => l.ctx == c.num && l.dirty && on l

/-- A memory die and the lines on it leave. -/
def State.dropDie (s : State) (on : LlcLine → Bool) (d : Nat) : State :=
  { s with llc := s.llc.filter fun l => !on l, memFenced := s.memFenced ||| ((1 : BitVec 8) <<< d) }

theorem State.fenceMemoryDie_eq {s : State} {d : Nat} (hd : d < 8) (hf : s.memFenced.getLsbD d = false) :
    s.fenceMemoryDie d = let on := fun l : LlcLine => s.dieOf l.line == some d
      ((s.fenceKill (s.hits (s.keepsOn on))).dropDie on d).llcResplit := by
  unfold State.fenceMemoryDie
  rw [hf, Bool.or_false, if_neg (by rw [decide_eq_true_eq]; omega)]
  rfl

theorem State.fenceMemoryDie_fenced {s : State} {d : Nat} (h : 8 ≤ d ∨ s.memFenced.getLsbD d = true) :
    s.fenceMemoryDie d = s := by
  unfold State.fenceMemoryDie
  rw [if_pos (by simpa using h)]

theorem State.keepsOn_iff (s : State) (d : Nat) (x : Context) : s.keepsOn (fun l => s.dieOf l.line == some d) x = true ↔
    x.psBytes ≠ 0 ∨ ∃ l ∈ s.llc, l.ctx = x.num ∧ l.dirty = true ∧ s.dieOf l.line = some d := by
  simp [State.keepsOn, and_assoc]

/-- The fence of a memory die. -/
theorem State.fenceMemoryDie_kills {s : State} {d : Nat} (hd : d < 8) (hf : s.memFenced.getLsbD d = false) :
    let on := fun l : LlcLine => s.dieOf l.line == some d
    let t := s.fenceMemoryDie d
    t.memFenced.getLsbD d = true ∧ (∀ l ∈ t.llc, l ∈ s.llc ∧ on l = false)
    ∧ FenceKills s t (s.keepsOn on)
    ∧ ((∀ l ∈ s.llc, l.dirty = false) →
        t.contexts = s.contexts.filter fun c => !(s.hits (s.keepsOn on)).contains c.num) := by
  intro on t
  have hspared := s.fenceKill_spared (s.hits (s.keepsOn on))
  set b := s.fenceKill (s.hits (s.keepsOn on)) with hb
  have htrim : (b.dropDie on d).Trimmed t := by
    have ht : t = (b.dropDie on d).llcResplit := State.fenceMemoryDie_eq hd hf
    rw [ht]
    exact State.llcResplit_trimmed _
  clear_value t b
  have hllc : ∀ l ∈ t.llc, l ∈ s.llc ∧ on l = false := fun l hl => by
    obtain ⟨h1, h2⟩ := List.mem_filter.1 (htrim.llc l hl)
    exact ⟨hspared.llc l h1, by simpa using h2⟩
  have hlost : State.Lost (fun _ => false) b t := by
    refine .of_same htrim.meters ?_ ?_ ?_ (fun g _ hg => ?_) fun _ => ?_
    · rw [htrim.rest]; rfl
    · rw [htrim.rest]; rfl
    · rw [htrim.rest]; rfl
    · rw [htrim.rest]; exact hg
    · rw [htrim.rest]; rfl
  obtain ⟨-, hkills⟩ := fenceKills_of_steps (State.Calm.refl s).lost (fun h => ⟨h, rfl⟩) hb hlost fun _ =>
    ⟨by rw [htrim.rest]; rfl, by rw [htrim.rest]; rfl⟩
  refine ⟨?_, hllc, hkills, fun hclean => ?_⟩
  · rw [htrim.rest]
    show (b.memFenced ||| ((1 : BitVec 8) <<< d)).getLsbD d = true
    simp [hd]
  · refine (htrim.clean fun l hl => ?_).trans hspared.contexts
    exact hclean l (hspared.llc l (List.mem_filter.1 hl).1)

/-! ## I/O die 1 -/

theorem State.fenceIoDie_kills {s : State} (hf : s.ioFenced = false) :
    let t := s.fenceIoDie
    let hit := fun c : Context => (Config.freeWord s.free).getLsbD c.num
    t.free = s.free + 1 ∧ t.ioFenced = true ∧ t.contexts = s.contexts.filter (fun c => !(s.hits hit).contains c.num)
    ∧ FenceKills s t hit := by
  intro t hit
  set a : State := { s with free := s.free + 1, ioFenced := true } with ha
  have ht : t = a.fenceKill (s.hits hit) := by
    simp only [t]
    unfold State.fenceIoDie
    rw [if_neg (by simp [hf])]
    rfl
  have hspared := a.fenceKill_spared (s.hits hit)
  rw [← ht] at hspared
  have hrest := hspared.rest
  simp only [Prod.mk.injEq] at hrest
  obtain ⟨-, -, -, -, hio, hfree⟩ := hrest
  have hlost : State.Lost (fun _ => false) s a := .of_same (fun _ => rfl) rfl rfl rfl (fun _ _ h => h) fun _ => rfl
  have hquiet : s.Quiet → a.Quiet := fun h => ⟨h.wf, h.partials, h.shootdowns, h.unharmed⟩
  obtain ⟨-, hkills⟩ := fenceKills_of_steps hlost (fun h => ⟨hquiet h, rfl⟩) ht (State.Calm.refl t).lost fun _ => ⟨rfl, rfl⟩
  exact ⟨hfree, hio, hspared.contexts, hkills⟩

theorem State.fenceIoDie_fenced {s : State} (h : s.ioFenced = true) : s.fenceIoDie = s := by
  unfold State.fenceIoDie
  rw [if_pos h]

end Sys2Proof.Machine
end

section
/-! Obligation O60: errors that cannot be corrected, die fences, dropped messages, re-admission and package reset (R27, R29,
R341, R349, R350, R358). -/

set_option Elab.async false

namespace Sys2Proof.Machine

/-! ## Marks in registers (R341) -/

/-- The one warp of a number after a change that leaves its number and liveness. -/
theorem State.findWarp_mapWarp {s : State} {u : Nat} {x : Warp} (h1 : s.Single u) (hx : s.findWarp u = some x) {f : Warp → Warp}
    (hf : ∀ w, (f w).uid = w.uid ∧ (f w).live = w.live) : (s.mapWarp u f).findWarp u = some (f x) := by
  have hxu : x.uid = u ∧ x.live = true := by simpa using List.find?_some hx
  have hmem : x ∈ s.warps := List.mem_of_find?_eq_some hx
  unfold State.mapWarp
  by_cases hw : s.warp.uid = u
  · have he : s.warp = x := h1 _ List.mem_cons_self _ hmem hw hxu.1
    subst he
    obtain ⟨f1, f2⟩ := hf s.warp
    have hfound : (f s.warp :: s.others).find? (fun w => w.uid == u && w.live) = some (f s.warp) :=
      List.find?_cons_of_pos (by simpa [f1, f2] using hxu)
    rw [if_pos hw]
    exact hfound
  · have hskip : ∀ ws : List Warp, (s.warp :: ws).find? (fun w => w.uid == u && w.live) =
        ws.find? (fun w => w.uid == u && w.live) := fun ws => List.find?_cons_of_neg (by simp [hw])
    have hsame : ∀ w : Warp, ((if w.uid == u then f w else w).uid == u && (if w.uid == u then f w else w).live) =
        (w.uid == u && w.live) := by
      intro w
      split
      · rw [(hf w).1, (hf w).2]
      · rfl
    have hrest : s.others.find? (fun w => w.uid == u && w.live) = some x := (hskip s.others).symm.trans hx
    rw [if_neg hw]
    refine (hskip _).trans ?_
    rw [List.find?_map]
    simp only [Function.comp_def, hsame, hrest, Option.map_some]
    rw [if_pos (by simpa using hxu.1)]

/-- An error marks something in a warp, which is there alone. -/
theorem warp_marked {s : State} {u : Nat} {x : Warp} (h1 : s.Single u) (hx : s.findWarp u = some x) {f : Warp → Warp}
    {e : ErrorSite} (he : exec (.uncorrectableError e) s = .next (s.mapWarp u f))
    (hf : ∀ w, (f w).uid = w.uid ∧ (f w).live = w.live) {p : Warp → Prop} (hp : p (f x)) :
    ∃ t y, exec (.uncorrectableError e) s = .next t ∧ t.findWarp u = some y ∧ p y :=
  ⟨_, _, he, State.findWarp_mapWarp h1 hx hf, hp⟩

/-- Two adjacent bits, the lower one even: a granule's mark. -/
theorem getLsbD_pair {n k l : Nat} (hk : k < n) : ((3 : BitVec n) <<< (l / 2 * 2)).getLsbD k = decide (k / 2 = l / 2) := by
  show (3#n <<< (l / 2 * 2)).getLsbD k = _
  have hthree : ∀ i, Nat.testBit 3 i = decide (i < 2) := Nat.testBit_two_pow_sub_one 2
  rw [BitVec.getLsbD_shiftLeft, BitVec.getLsbD_ofNat, hthree, Bool.eq_iff_iff]
  simp only [Bool.and_eq_true, Bool.not_eq_true', decide_eq_true_eq, decide_eq_false_iff_not]
  omega

/-- One bit. -/
theorem getLsbD_single {n k l : Nat} (hk : k < n) : ((1 : BitVec n) <<< l).getLsbD k = decide (k = l) := by
  show (1#n <<< l).getLsbD k = _
  have hone : ∀ i, Nat.testBit 1 i = decide (i < 1) := Nat.testBit_two_pow_sub_one 1
  rw [BitVec.getLsbD_shiftLeft, BitVec.getLsbD_ofNat, hone, Bool.eq_iff_iff]
  simp only [Bool.and_eq_true, Bool.not_eq_true', decide_eq_true_eq, decide_eq_false_iff_not]
  omega

theorem getElem_set_fin {α : Type} {n : Nat} (v : Vector α n) (r q : Fin n) (a : α) :
    (v.set r a)[q] = if q = r then a else v[q] := by
  rw [Fin.getElem_fin, Vector.getElem_set]
  exact if_congr (by rw [Fin.ext_iff, eq_comm]) rfl rfl

/-- Bits joined to one entry of a table. -/
theorem getLsbD_setOr {m n : Nat} (v : Vector (BitVec m) n) (r q : Fin n) (b : BitVec m) (k : Nat) :
    (v.set r (v[r] ||| b))[q].getLsbD k = (v[q].getLsbD k || (decide (q = r) && b.getLsbD k)) := by
  rw [getElem_set_fin]
  by_cases hq : q = r
  · simp [hq]
  · simp [hq]

/-- The granule of a vector register's lane is marked: two lanes bear the mark. -/
def Warp.hitVector (r : Fin 64) (l : Fin 32) (x : Warp) : Warp :=
  { x with vPoison := x.vPoison.set r (x.vPoison[r] ||| ((3 : Word32) <<< (l.val / 2 * 2))) }

def Warp.hitScalar (r : Fin 64) (x : Warp) : Warp := { x with sPoison := x.sPoison.set r true }

/-- The granule of a mask register is marked: two registers bear the mark. -/
def Warp.hitMask (m : Fin 8) (x : Warp) : Warp := { x with mPoison := x.mPoison ||| maskGranule m }

def Warp.hitCsr (n : Fin 256) (x : Warp) : Warp := { x with csrPoison := x.csrPoison ||| ((1 : BitVec 256) <<< n.val) }

/-- A doubleword of a TSR slot is marked. -/
def Warp.hitSlot (k d : Fin 16) (x : Warp) : Warp :=
  { x with tsrPoison := x.tsrPoison.set k (x.tsrPoison[k] ||| ((1 : BitVec 16) <<< d.val)) }

theorem register_marks {s : State} {w : Nat} {x : Warp} (r : Fin 64) (h1 : s.Single w) (hx : s.findWarp w = some x) :
    let marks := fun e (f : Warp → Prop) => ∃ t y, exec (.uncorrectableError e) s = .next t ∧ t.findWarp w = some y ∧ f y
    (∀ l : Fin 32, marks (.vector w r l) fun y => y = { x with vPoison := y.vPoison } ∧ ∀ (q : Fin 64) (k : Fin 32),
      inMask y.vPoison[q] k = (inMask x.vPoison[q] k || (decide (q = r) && decide (k.val / 2 = l.val / 2))))
    ∧ (r ≠ 0 → marks (.scalar w r) fun y => y = { x with sPoison := y.sPoison } ∧
        ∀ q : Fin 64, y.sPoison[q] = (x.sPoison[q] || decide (q = r)))
    ∧ (r = 0 → exec (.uncorrectableError (.scalar w r)) s = .next s)
    ∧ (∀ m : Fin 8, marks (.mask w m) fun y => y = { x with mPoison := y.mPoison } ∧
        ∀ q : Fin 8, y.mPoison.getLsbD q = (x.mPoison.getLsbD q || decide (q.val / 2 = m.val / 2)))
    ∧ (∀ n : Fin 256, marks (.csr w n) fun y => y = { x with csrPoison := y.csrPoison } ∧
        ∀ q : Fin 256, y.csrPoison.getLsbD q = (x.csrPoison.getLsbD q || decide (q = n)))
    ∧ ∀ k d : Fin 16, marks (.slot w k d) fun y => y = { x with tsrPoison := y.tsrPoison } ∧
        ∀ q i : Fin 16, y.tsrPoison[q].getLsbD i = (x.tsrPoison[q].getLsbD i || (decide (q = k) && decide (i = d))) := by
  intro marks
  have hscalar : exec (.uncorrectableError (.scalar w r)) s = .next (if r = 0 then s else
      s.mapWarp w (Warp.hitScalar r)) := rfl
  refine ⟨fun l => warp_marked h1 hx (f := Warp.hitVector r l) rfl (fun _ => ⟨rfl, rfl⟩) ⟨rfl, fun q k => ?_⟩,
    fun hr => ?_, fun hr => ?_,
    fun m => warp_marked h1 hx (f := Warp.hitMask m) rfl (fun _ => ⟨rfl, rfl⟩) ⟨rfl, fun q => ?_⟩,
    fun n => warp_marked h1 hx (f := Warp.hitCsr n) rfl (fun _ => ⟨rfl, rfl⟩) ⟨rfl, fun q => ?_⟩,
    fun k d => warp_marked h1 hx (f := Warp.hitSlot k d) rfl (fun _ => ⟨rfl, rfl⟩) ⟨rfl, fun q i => ?_⟩⟩
  · rw [← getLsbD_pair k.isLt]
    exact getLsbD_setOr x.vPoison r q _ k
  · rw [if_neg hr] at hscalar
    refine warp_marked h1 hx hscalar (fun _ => ⟨rfl, rfl⟩) ⟨rfl, fun q => ?_⟩
    refine (getElem_set_fin x.sPoison r q true).trans ?_
    by_cases hq : q = r <;> simp [hq]
  · rw [hscalar, if_pos hr]
  · show (x.mPoison ||| maskGranule m).getLsbD q = _
    rw [BitVec.getLsbD_or]
    exact congrArg _ (getLsbD_pair q.isLt)
  · show (x.csrPoison ||| ((1 : BitVec 256) <<< n.val)).getLsbD q = _
    rw [BitVec.getLsbD_or, getLsbD_single q.isLt, decide_eq_decide.2 Fin.ext_iff.symm]
  · rw [decide_eq_decide.2 (Fin.ext_iff (a := i)), ← getLsbD_single i.isLt]
    exact getLsbD_setOr x.tsrPoison k q _ i

theorem accumulator_marks {s : State} {g : Nat} (tile row col : Nat) (hg : ∃ h ∈ s.gangs, h.uid = g) :
    ∃ t, exec (.uncorrectableError (.accumulator g tile row col)) s = .next t ∧ t = { s with gangs := t.gangs }
      ∧ ∀ k, k ∈ (t.matrix g).accPoison ↔ k = 16384 * tile + 256 * row + col ∨ k ∈ (s.matrix g).accPoison := by
  refine ⟨_, rfl, rfl, fun k => ?_⟩
  set f : Matrix → Matrix := fun x => { x with accPoison := insertRising x.accPoison (16384 * tile + 256 * row + col) }
  show k ∈ ((s.setMatrix g f).matrix g).accPoison ↔ _
  obtain ⟨h, hh, hn⟩ := hg
  have hs : (s.gangs.find? (·.uid == g)).isSome = true := List.find?_isSome.2 ⟨h, hh, by simpa using hn⟩
  obtain ⟨y, hy⟩ := Option.isSome_iff_exists.1 hs
  have hfind := find?_map_replace Gang.uid (fun h => { h with mx := f h.mx }) g g (fun _ h => h) s.gangs
  have hafter : (s.setMatrix g f).matrix g = f y.mx := by
    unfold State.matrix State.gang State.setMatrix State.mapGang
    rw [hfind, hy]
    simp
  have hbefore : s.matrix g = y.mx := by
    unfold State.matrix State.gang
    rw [hy]
    rfl
  rw [hafter, hbefore]
  exact mem_insertRising _ _ _

/-! ## Messages of retired numbers, and re-admission (R29, R350) -/

/-- A site that is admitted and not fenced bears the number. -/
def State.admits (s : State) (n : BitVec 32) : Bool :=
  s.sites.toList.any fun t => t.admitted && !t.fenced && t.admission == n

theorem State.admits_iff (s : State) (n : BitVec 32) : s.admits n = true ↔
    ∃ j : Fin 8, s.sites[j].admitted = true ∧ s.sites[j].fenced = false ∧ s.sites[j].admission = n := by
  unfold State.admits
  rw [List.any_eq_true]
  simp only [Vector.mem_toList_iff, Bool.and_eq_true, Bool.not_eq_true', beq_iff_eq, and_assoc]
  constructor
  · rintro ⟨x, hx, h⟩
    obtain ⟨i, hi, rfl⟩ := Vector.getElem_of_mem hx
    exact ⟨⟨i, hi⟩, h⟩
  · rintro ⟨j, h⟩
    exact ⟨_, Vector.getElem_mem j.isLt, h⟩

theorem execFencedMessageDrop_eq (s : State) (i : Nat) (n : BitVec 32) : exec (.fencedMessageDrop i n) s =
    .next (if s.admits n || s.admissions.toNat < n.toNat then s
      else s.mapSite i fun t => { t with dropped := t.dropped + 1 }) := rfl

theorem message_drop (s : State) (i : Nat) (n : BitVec 32) :
    let live := ∃ j : Fin 8, s.sites[j].admitted = true ∧ s.sites[j].fenced = false ∧ s.sites[j].admission = n
    let out := exec (.fencedMessageDrop i n) s
    (live ∨ s.admissions < n → out = .next s)
    ∧ (i < 8 → ¬ live → n ≤ s.admissions → ∃ t, out = .next t ∧ t = { s with sites := t.sites }
        ∧ t.site i = { s.site i with dropped := (s.site i).dropped + 1 } ∧ ∀ j, j ≠ i → t.site j = s.site j) := by
  intro live out
  have hout : out = _ := execFencedMessageDrop_eq s i n
  rw [hout]
  refine ⟨fun h => ?_, fun hi hl hn => ⟨_, rfl, ?_⟩⟩
  · rw [if_pos]
    rw [Bool.or_eq_true, s.admits_iff, decide_eq_true_eq]
    exact h
  · rw [if_neg]
    · refine ⟨rfl, ?_, fun j hj => ?_⟩
      · rw [State.site_mapSite hi, if_pos rfl]
      · rw [State.site_mapSite hi, if_neg hj]
    · rw [Bool.or_eq_true, s.admits_iff, decide_eq_true_eq]
      rintro (h | h)
      · exact hl h
      · exact Nat.not_lt.2 hn h

theorem admissible_iff (r : SiteReport) : admissible r = true ↔
    r.verified = true ∧ ((r.gen = 1 ∧ r.level = 1) ∨ (r.gen = 2 ∧ r.level = 2)) := by
  simp [admissible]

theorem not_admissible_iff (r : SiteReport) : (!admissible r) = true ↔
    ¬ (r.verified = true ∧ ((r.gen = 1 ∧ r.level = 1) ∨ (r.gen = 2 ∧ r.level = 2))) := by
  rw [Bool.not_eq_true', ← Bool.not_eq_true, admissible_iff]

theorem readmission (s : State) (i : Nat) (r : SiteReport) :
    let u := s.site i
    let out := exec (.siteReadmission i r) s
    let ok := r.verified = true ∧ ((r.gen = 1 ∧ r.level = 1) ∨ (r.gen = 2 ∧ r.level = 2))
    (8 ≤ i ∨ (u.admitted = true ∧ u.fenced = false) ∨ ¬ ok → out = .next s)
    ∧ (i < 8 → (u.admitted = false ∨ u.fenced = true) → ok → ∃ t, out = .next t
        ∧ t = { s with sites := t.sites, admissions := s.admissions + 1, homes := s.homes.filter (·.site != i) }
        ∧ (∀ j, j ≠ i → t.site j = s.site j)
        ∧ t.site i = { Site.enumerate r (s.admissions + 1) with
            restricted := decide (r.level < s.pkglvl), dropped := u.dropped }) := by
  intro u out ok
  have hout : out = execSiteReadmission i r s := rfl
  rw [hout]
  unfold execSiteReadmission
  dsimp only
  refine ⟨fun h => ?_, fun hi hu hok => ⟨_, rfl, ?_⟩⟩
  · rw [if_pos]
    rw [not_admissible_iff, Bool.not_eq_true']
    exact h
  · rw [if_neg]
    · refine ⟨rfl, fun j hj => ?_, ?_⟩
      · rw [State.site_mapSite hi, if_neg hj]
        rfl
      · rw [State.site_mapSite hi, if_pos rfl]
        rfl
    · rw [not_admissible_iff, Bool.not_eq_true']
      rintro (h | ⟨h1, h2⟩ | h)
      · omega
      · rcases hu with hu | hu
        · simp only [u] at hu
          rw [hu] at h1
          cases h1
        · simp only [u] at hu
          rw [hu] at h2
          cases h2
      · exact h hok

/-! ## Package reset (R27, R358) -/

/-- How many of some reports are of sites that may be admitted. -/
def admissions (rs : List SiteReport) : Nat := (rs.filter admissible).length

theorem enumerate_eq (rs : List SiteReport) : ∀ n : BitVec 32,
    (enumerate n rs).2 = n + BitVec.ofNat 32 (admissions rs)
    ∧ (∀ i r, rs[i]? = some r → (enumerate n rs).1[i]? =
        some (Site.enumerate r (if admissible r then n + BitVec.ofNat 32 (admissions (rs.take (i + 1))) else 0)))
    ∧ ((enumerate n rs).1.filter fun t => t.admitted && !t.fenced && !t.restricted).map (·.level) =
        (rs.filter admissible).map (·.level) := by
  induction rs with
  | nil => exact fun n => ⟨by simp [enumerate, admissions], by simp, rfl⟩
  | cons r rs ih =>
    intro n
    obtain ⟨h1, h2, h3⟩ := ih (if admissible r then n + 1 else n)
    have hcount : ∀ rs', (if admissible r then n + 1 else n) + BitVec.ofNat 32 (admissions rs') =
        n + BitVec.ofNat 32 (admissions (r :: rs')) := by
      intro rs'
      unfold admissions
      by_cases hr : admissible r = true
      · rw [if_pos hr, List.filter_cons_of_pos hr, List.length_cons, Nat.add_comm, BitVec.ofNat_add, ← BitVec.add_assoc]
        rfl
      · rw [if_neg hr, List.filter_cons_of_neg hr]
    refine ⟨h1.trans (hcount rs), fun i x hx => ?_, ?_⟩
    · cases i with
      | zero =>
        cases hx
        have hone := hcount []
        show some (Site.enumerate r (if admissible r then (if admissible r then n + 1 else n) else 0)) = _
        rw [List.take_succ_cons, List.take_zero, ← hone]
        simp [admissions]
      | succ i =>
        rw [List.take_succ_cons, ← hcount]
        exact h2 i x hx
    · show ((Site.enumerate r _ :: (enumerate _ rs).1).filter _).map _ = _
      by_cases hr : admissible r = true
      · rw [List.filter_cons_of_pos (by simpa [Site.enumerate] using hr), List.filter_cons_of_pos hr, List.map_cons, h3]
        rfl
      · rw [List.filter_cons_of_neg (by simpa [Site.enumerate] using hr), List.filter_cons_of_neg hr, h3]

/-- PKGLVL is the least level there is among the sites that count. -/
theorem packageLevel_least {ts : List Site} {ls : List Nat}
    (h : (ts.filter fun t => t.admitted && !t.fenced && !t.restricted).map (·.level) = ls) :
    (ls = [] → packageLevel ts = 0) ∧ (ls ≠ [] → packageLevel ts ∈ ls ∧ ∀ l ∈ ls, packageLevel ts ≤ l) := by
  unfold packageLevel
  rw [h]
  cases ls with
  | nil => exact ⟨fun _ => rfl, fun h => absurd rfl h⟩
  | cons l ls =>
    have hmin : (l :: ls).min? = some (ls.foldl min l) := rfl
    exact ⟨nofun, fun _ => List.min?_eq_some_iff.1 hmin⟩

/-- What lies outside the package, and stays at a reset: CXL memory, host memory and what peers hold. -/
def staysAtReset (a : Nat) : Bool := decide (a < 2 ^ 51) || (decide (2 ^ 52 ≤ a) && decide (a < 2 ^ 70))

theorem packageReset_fields (s : State) (ok : Bool) (rs : List SiteReport) :
    let t := s.packageReset ok rs
    let e := enumerate s.admissions (rs.take 8)
    t.mem = s.mem.filter (fun c => staysAtReset c.1) ∧ t.admissions = e.2 ∧ t.pkglvl = packageLevel e.1
    ∧ t.sites = Vector.ofFn fun i => e.1.getD i.val (Site.enumerate { resetReport i.val with verified := false } 0) :=
  ⟨rfl, rfl, rfl, rfl⟩

theorem package_reset (s : State) (ok : Bool) {rs : List SiteReport} (h8 : rs.length = 8) :
    let t := s.packageReset ok rs
    (∀ a, t.mem.read a = if (2 ^ 51 ≤ a ∧ a < 2 ^ 52) ∨ 2 ^ 70 ≤ a then 0 else s.mem.read a)
      ∧ t.admissions = s.admissions + BitVec.ofNat 32 (rs.filter admissible).length
      ∧ (∀ i r, rs[i]? = some r → t.site i = Site.enumerate r (if admissible r then
            s.admissions + BitVec.ofNat 32 (((rs.take (i + 1)).filter admissible).length) else 0))
      ∧ let ls := (rs.filter admissible).map (·.level)
        (ls = [] → t.pkglvl = 0) ∧ (ls ≠ [] → t.pkglvl ∈ ls ∧ ∀ l ∈ ls, t.pkglvl ≤ l) := by
  intro t
  obtain ⟨hmem, hadm, hlvl, hsites⟩ := packageReset_fields s ok rs
  have hall : rs.take 8 = rs := List.take_of_length_le (Nat.le_of_eq h8)
  rw [hall] at hadm hlvl hsites
  obtain ⟨e1, e2, e3⟩ := enumerate_eq rs s.admissions
  refine ⟨fun a => ?_, hadm.trans e1, fun i r hr => ?_, ?_⟩
  · have hstays : staysAtReset a = true ↔ ¬ ((2 ^ 51 ≤ a ∧ a < 2 ^ 52) ∨ 2 ^ 70 ≤ a) := by
      simp only [staysAtReset, Bool.or_eq_true, Bool.and_eq_true, decide_eq_true_eq]
      omega
    have hread : t.mem.read a = _ := (congrArg (Memory.read · a) hmem).trans (Memory.read_filter s.mem staysAtReset a)
    rw [hread]
    by_cases h : (2 ^ 51 ≤ a ∧ a < 2 ^ 52) ∨ 2 ^ 70 ≤ a
    · rw [if_pos h, if_neg fun hs => hstays.1 hs h]
    · rw [if_neg h, if_pos (hstays.2 h)]
  · obtain ⟨hi, -⟩ := List.getElem?_eq_some_iff.1 hr
    have hi8 : i < 8 := h8 ▸ hi
    have hsite : t.site i = _ := congrArg (fun v : Vector Site 8 => v[i]?.getD (Site.enumerate (resetReport 0) 0)) hsites
    rw [hsite]
    dsimp only
    rw [Vector.getElem?_eq_getElem hi8, Vector.getElem_ofFn, Option.getD_some, List.getD_eq_getElem?_getD, e2 i r hr]
    rfl
  · have hlevel : t.pkglvl = _ := hlvl
    dsimp only
    rw [hlevel]
    exact packageLevel_least e3

/-! ## The obligation -/

/-- A context left by a filter on the numbers that a test hits. -/
theorem State.mem_spared {s : State} {hit : Context → Bool} {c : Context} :
    c ∈ s.contexts.filter (fun c => !(s.hits hit).contains c.num) ↔
      c ∈ s.contexts ∧ ∀ x ∈ s.contexts, x.num = c.num → ¬ hit x = true := by
  rw [List.mem_filter, Bool.not_eq_true', ← Bool.not_eq_true, List.contains_iff_mem, State.mem_hits]
  simp only [not_exists, not_and]

theorem site_fence {s : State} {i : Nat} (hi : i < 8) :
    let out := exec (.uncorrectableError (.site i)) s
    ((s.site i).fenced = true → out = .next s)
    ∧ ((s.site i).fenced = false → ∃ t, out = .next t ∧ (t.site i).fenced = true
      ∧ (∀ c ∈ t.contexts, c ∈ s.contexts) ∧ FenceKills s t (s.dependsOn i)
      ∧ (∀ w ∈ t.warps, w.live = true → (∃ c ∈ s.contexts, c.num = w.ctx) → ∃ c ∈ t.contexts, c.num = w.ctx)
      ∧ (∀ r ∈ t.regs, r.core / 64 ≠ i) ∧ (∀ e ∈ t.tlb, e.unit.site ≠ i) ∧ (∀ h ∈ t.homes, h.moving ≠ some i)
      ∧ ∀ r ∈ s.regs, r.core / 64 = i → r.line < 2 ^ 52 → ∀ k < 32, r.words.getLsbD k = true →
          (r.line + 4 * k) / 8 ∈ t.poison) := by
  intro out
  have hout : out = .next (s.fenceSite i) := rfl
  rw [hout]
  refine ⟨fun hf => ?_, fun hf => ⟨_, rfl, ?_⟩⟩
  · unfold State.fenceSite
    rw [if_pos (.inr hf)]
  · obtain ⟨h1, h2, h3, h4, h5⟩ := State.fenceSite_rest hi hf
    obtain ⟨hlost, hkills, hmarks⟩ := State.fenceSite_kills hi hf
    refine ⟨h1, fun c hc => ?_, hkills, fun w hw hl hc => ?_, fun r hr => ?_, h4, h5, hmarks⟩
    · rw [h2] at hc
      exact (List.mem_filter.1 hc).1
    · obtain ⟨c, hc, hn⟩ := hc
      obtain ⟨hkept, -⟩ := hlost.live w hw hl
      refine ⟨c, ?_, hn⟩
      rw [h2]
      exact List.mem_filter.2 ⟨hc, by rw [hn, hkept]; rfl⟩
    · rw [h3] at hr
      simpa using (List.mem_filter.1 hr).2

theorem memory_die_fence (s : State) (d : Nat) :
    let out := exec (.uncorrectableError (.memoryDie d)) s
    let on := fun l : LlcLine => s.dieOf l.line = some d
    let hit := fun x : Context => x.psBytes ≠ 0 ∨ ∃ l ∈ s.llc, l.ctx = x.num ∧ l.dirty = true ∧ on l
    let clean := ∀ l ∈ s.llc, l.dirty = false
    (8 ≤ d ∨ s.memFenced.getLsbD d = true → out = .next s)
    ∧ (d < 8 → s.memFenced.getLsbD d = false → ∃ t, out = .next t ∧ t.memFenced.getLsbD d = true
      ∧ (∀ l ∈ t.llc, l ∈ s.llc ∧ ¬ on l)
      ∧ FenceKills s t (fun x => decide (hit x))
      ∧ (clean → ∀ c, c ∈ t.contexts ↔ c ∈ s.contexts ∧ ∀ x ∈ s.contexts, x.num = c.num → ¬ hit x)) := by
  intro out on hit clean
  have hout : out = .next (s.fenceMemoryDie d) := rfl
  rw [hout]
  have hkeeps : (fun x => decide (hit x)) = s.keepsOn fun l => s.dieOf l.line == some d := by
    funext x
    rw [Bool.eq_iff_iff, decide_eq_true_eq]
    exact (s.keepsOn_iff d x).symm
  refine ⟨fun hf => by rw [State.fenceMemoryDie_fenced hf], fun hd hf => ⟨_, rfl, ?_⟩⟩
  obtain ⟨h1, h2, h3, h4⟩ := State.fenceMemoryDie_kills hd hf
  refine ⟨h1, fun l hl => ?_, hkeeps ▸ h3, fun hc c => ?_⟩
  · obtain ⟨k1, k2⟩ := h2 l hl
    exact ⟨k1, by simpa [on] using k2⟩
  · rw [h4 hc, State.mem_spared]
    simp only [State.keepsOn_iff]
    rfl

theorem io_die_fence (s : State) (d : Nat) :
    let out := exec (.uncorrectableError (.ioDie d)) s
    (2 ≤ d ∨ (d = 1 ∧ s.ioFenced = true) → out = .next s)
    ∧ (d = 1 → s.ioFenced = false → ∃ t, out = .next t ∧ t.free = s.free + 1 ∧ t.ioFenced = true
        ∧ (∀ c ∈ t.contexts, c ∈ s.contexts) ∧ FenceKills s t fun c => (Config.freeWord s.free).getLsbD c.num) := by
  intro out
  refine ⟨?_, ?_⟩
  · rintro (hd | ⟨rfl, hf⟩)
    · obtain ⟨k, rfl⟩ : ∃ k, d = k + 2 := ⟨d - 2, by omega⟩
      rfl
    · exact congrArg _ (State.fenceIoDie_fenced hf)
  · rintro rfl hf
    obtain ⟨h1, h2, h3, h4⟩ := State.fenceIoDie_kills hf
    refine ⟨_, rfl, h1, h2, fun c hc => ?_, h4⟩
    have hm : c ∈ s.fenceIoDie.contexts := hc
    rw [h3] at hm
    exact (List.mem_filter.1 hm).1

/-- Settles O60: marks in memory and registers, what depends on a site, the fences of the dies, dropped messages,
re-admission and reset. -/
theorem errorsAndReset : Obligations.ErrorsAndReset := by
  unfold Obligations.ErrorsAndReset
  exact ⟨fun s loc => ⟨_, rfl, rfl, fun g => mem_insertRising s.poison (loc / 8) g⟩,
    fun s w x r h1 hx => register_marks r h1 hx,
    fun s g tile row col hg => accumulator_marks tile row col hg,
    fun s => ⟨rfl, rfl⟩,
    State.dependsOn_iff,
    fun s i hi => site_fence hi,
    memory_die_fence,
    io_die_fence,
    message_drop,
    readmission,
    fun s ok rs h8 => ⟨_, rfl, rfl, rfl, rfl, rfl, rfl, rfl, rfl, rfl, rfl, rfl, rfl, rfl, rfl, rfl, package_reset s ok h8⟩⟩

end Sys2Proof.Machine
end

section
/-! Obligations O1 and O2: the round trip of words and instructions (R43, R46, R47, R56, R57). -/

set_option Elab.async false

namespace Sys2Proof.Laws.RoundTrip

/-- Every instruction has its round trip. -/
theorem statement_of_instr (i : Instr) : Statement i :=
  Instr.casesOn (motive := Statement) i
    himm hblk hmod hsch sadd ssub smul smulh smulhz sdiv sdivz srem sremz sand sor sxor sandn sshl sshr ssra
    smin smax sminz smaxz sceq sclt scltz sclz spopc sbrev saddi sandi sori sxori sshli sshri ssrai sclti sli
    slih saddpc enter leave beqz bnez bltz bgez blez bgtz bra call jmp nop jr callr ret exit brk trap yield brvt
    brvf fuse mset mget mand mor mxor mandn mnot mpopc mffs mlive vadd vsub vmul vmulh vmulhz vmin vmax vminz
    vmaxz vand vor vxor vandn vshl vshr vsra vabsd vsadd vssub vsaddz vssubz vclz vpopc vbrev vbfe vbfi vaddw
    vsubw vmulw vmulwz vdiv vdivz vrem vremz vmov vdot4 vdot4z vaddScalar vsubScalar vmulScalar vmulhScalar
    vmulhzScalar vminScalar vmaxScalar vminzScalar vmaxzScalar vandScalar vorScalar vxorScalar vandnScalar
    vshlScalar vshrScalar vsraScalar vabsdScalar vsaddScalar vssubScalar vsaddzScalar vssubzScalar vbfeScalar
    vbfiScalar vaddwScalar vsubwScalar vmulwScalar vmulwzScalar vdivScalar vdivzScalar vremScalar vremzScalar
    vmovScalar vaddr vdot4Scalar vdot4zScalar vaddi vandi vori vxori vshli vshri vsrai vmovi vceq vcne vclt vcle
    vcltz vclez fceq fcne fclt fcle fcun shfl shflup shfldn shflx qswz bcast vrdlane vwrlane ballot wradd wrmin
    wrmax wrminz wrmaxz wrfadd wrand wror wrxor fadd fsub fmul fmin fmax fabs fneg fsgnj frnd fscaleb hadd2
    hsub2 hmul2 badd2 bsub2 bmul2 dadd dsub dmul faddScalar fsubScalar fmulScalar fminScalar fmaxScalar
    fsgnjScalar fscalebScalar hadd2Scalar hsub2Scalar hmul2Scalar badd2Scalar bsub2Scalar bmul2Scalar daddScalar
    dsubScalar dmulScalar rcp rsq sqrtF log2F exp2F fdiv dsqrt ddiv ffma hfma2 bfma2 dfma exp2x vmad vsel ld
    ldNt ldAcq st stNt stRel ldp32 ldp64 ldp128 stp32 stp64 stp128 pref invl wbk zero cvt tsrld tsrst tsrset
    tsrget tload tstore tgather tscatter tzero tcopy gedge grel greset gbin gstat waitc rdcnt mlds mswap mshape
    mcfg mmul mmulz mmult mdrain mzero mrdrow mstat aadd amin amax aand aor axor aexch aincw acas adecw radd
    rmin rmax rand ror rxor llock ltry lunlock lstat lyield waitcmp barw barg pbarv pbarw pbarinit fence bindR
    unbind acq rel push put get cstep cstat launch lease setpl csrr csrw csrset csrclr tret frec replay lkill
    ctxkill tlbinv pglock pgswap homemv halt stepW watch waitcSatisfied matrixArbiterGrant matrixAgeStep
    bandWake bandRampStep lockTimerExpiry deadlockScan monitorTimeout overflowMonitorRecheck
    instructionCompletion operandLogReplay logEntryConversion shootdownAcknowledgement l1Eviction
    stackCacheSpill homeWriteWindowEnd pageHomeMoveEnd regionMerge pageCopy engineCommandRun
    enginePageFaultResume engineCommandRetire nodeLaunch launchQueueTail launchQueueErrorClear launchRecordRead
    gangPlacement affinityPatienceExpiry warpRetire preemption quantumExpiry gangSwapOut clusterGating
    clusterWake clusterWakeDone leaseWindowEnd leaseHeadWait leaseStarvation powerEvaluation
    performanceLevelChange tokenRefill fabricTransactionArrival pushReceipt cstepReceipt fabricAcknowledgement
    fabricRetransmission collfailNotice linkFlitResend portFailure hostSnoop backInvalidateSnoop hostMemAccess
    ctxnew ctxend qinit psgrant debugMark tlbflush faultdone attest evlostClear registerWrite uncorrectableError
    fencedMessageDrop packageReset siteReadmission engineReturnToService stalledPageFaultMapped
    activity1024Cycles gatingPowerRemoved

/-! ## The other direction: the fields of a number, put together, give the number -/

theorem fieldAt_val (lo n w : Nat) [NeZero n] : (fieldAt lo n w).val = w / 2 ^ lo % n := rfl

theorem bitAt_toNat (lo w : Nat) : (bitAt lo w).toNat = w / 2 ^ lo % 2 := by
  obtain h | h := Nat.mod_two_eq_zero_or_one (w / 2 ^ lo) <;> simp [bitAt, h]

/-! `layoutN_sum` is the converse of `layoutN`: a number of that major and code whose reserved bits are zero is the sum of
what stands in its fields. -/

section Layouts

variable {w m c : Nat}

theorem layout1_sum (k : w / 67108864 = m) (h : w / 4194304 % 16 = c) :
    m * 67108864 + c * 4194304 + (BitVec.ofNat 22 w).toNat = w := by
  simp only [BitVec.toNat_ofNat]
  omega

theorem layout2_sum (k : w / 67108864 = m) (h : w / 4 % 64 = c) :
    m * 67108864 + c * 4 + (fieldAt 20 64 w).val * 1048576 + (fieldAt 14 64 w).val * 16384 + (fieldAt 8 64 w).val
      * 256 + (bitAt 1 w).toNat * 2 + (bitAt 0 w).toNat = w := by
  simp only [fieldAt_val, bitAt_toNat]
  omega

theorem layout3_sum (k : w / 67108864 = m) (h : w / 4 % 64 = c)
    (q : w % 2 = 0 ∧ w / 256 % 64 = 0) :
    m * 67108864 + c * 4 + (fieldAt 20 64 w).val * 1048576 + (fieldAt 14 64 w).val * 16384 + (bitAt 1 w).toNat * 2
      = w := by
  simp only [fieldAt_val, bitAt_toNat]
  omega

theorem layout4_sum (k : w / 67108864 = m) (h : w / 2048 % 8 = c) :
    m * 67108864 + c * 2048 + (fieldAt 20 64 w).val * 1048576 + (fieldAt 14 64 w).val * 16384 + (BitVec.ofNat 10
      (w / 2)).toNat * 2 + (bitAt 0 w).toNat = w := by
  simp only [fieldAt_val, bitAt_toNat, BitVec.toNat_ofNat]
  omega

theorem layout5_sum (k : w / 67108864 = m) (h : w / 2048 % 8 = c)
    (q : w % 2 = 0 ∧ w / 16384 % 64 = 0) :
    m * 67108864 + c * 2048 + (fieldAt 20 64 w).val * 1048576 + (BitVec.ofNat 10 (w / 2)).toNat * 2 = w := by
  simp only [fieldAt_val, BitVec.toNat_ofNat]
  omega

theorem layout6_sum (k : w / 67108864 = m) (h : w / 2048 % 8 = c)
    (q : w % 2 = 0 ∧ w / 16384 % 4096 = 0) :
    m * 67108864 + c * 2048 + (BitVec.ofNat 10 (w / 2)).toNat * 2 = w := by
  simp only [BitVec.toNat_ofNat]
  omega

theorem layout7_sum (k : w / 67108864 = m) (h : w / 8388608 % 8 = c) :
    m * 67108864 + c * 8388608 + (fieldAt 17 64 w).val * 131072 + (BitVec.ofNat 17 w).toNat = w := by
  simp only [fieldAt_val, BitVec.toNat_ofNat]
  omega

theorem layout8_sum (k : w / 67108864 = m) (h : w / 8388608 % 8 = c)
    (q : w / 131072 % 64 = 0) :
    m * 67108864 + c * 8388608 + (BitVec.ofNat 17 w).toNat = w := by
  simp only [BitVec.toNat_ofNat]
  omega

theorem layout9_sum (k : w / 67108864 = m) :
    m * 67108864 + (BitVec.ofNat 26 w).toNat = w := by
  simp only [BitVec.toNat_ofNat]
  omega

theorem layout10_sum (k : w / 67108864 = m) (h : w / 4 % 64 = c)
    (q : w % 4 = 0 ∧ w / 256 % 262144 = 0) :
    m * 67108864 + c * 4 = w := by
  omega

theorem layout11_sum (k : w / 67108864 = m) (h : w / 4 % 64 = c)
    (q : w % 2 = 0 ∧ w / 256 % 64 = 0 ∧ w / 1048576 % 64 = 0) :
    m * 67108864 + c * 4 + (fieldAt 14 64 w).val * 16384 + (bitAt 1 w).toNat * 2 = w := by
  simp only [fieldAt_val, bitAt_toNat]
  omega

theorem layout12_sum (k : w / 67108864 = m) (h : w / 4 % 64 = c)
    (q : w % 4 = 0 ∧ w / 16384 % 4096 = 0) :
    m * 67108864 + c * 4 + (fieldAt 8 64 w).val * 256 = w := by
  simp only [fieldAt_val]
  omega

theorem layout13_sum (k : w / 67108864 = m) (h : w / 4194304 % 2 = c)
    (q : w / 131072 % 32 = 0) :
    m * 67108864 + c * 4194304 + (fieldAt 23 8 w).val * 8388608 + (BitVec.ofNat 17 w).toNat = w := by
  simp only [fieldAt_val, BitVec.toNat_ofNat]
  omega

theorem layout14_sum (k : w / 67108864 = m) (h : w / 4 % 64 = c)
    (q : w % 2 = 0 ∧ w / 256 % 64 = 0 ∧ w / 1048576 % 64 < 8) :
    m * 67108864 + c * 4 + (fieldAt 20 8 w).val * 1048576 + (fieldAt 14 64 w).val * 16384 + (bitAt 1 w).toNat * 2
      = w := by
  simp only [fieldAt_val, bitAt_toNat]
  omega

theorem layout15_sum (k : w / 67108864 = m) (h : w / 4 % 64 = c)
    (q : w % 4 = 0 ∧ w / 256 % 64 = 0 ∧ w / 16384 % 64 < 8) :
    m * 67108864 + c * 4 + (fieldAt 20 64 w).val * 1048576 + (fieldAt 14 8 w).val * 16384 = w := by
  simp only [fieldAt_val]
  omega

theorem layout16_sum (k : w / 67108864 = m) (h : w / 4 % 64 = c)
    (q : w % 4 = 0 ∧ w / 1048576 % 64 < 8 ∧ w / 16384 % 64 < 8 ∧ w / 256 % 64 < 8) :
    m * 67108864 + c * 4 + (fieldAt 20 8 w).val * 1048576 + (fieldAt 14 8 w).val * 16384 + (fieldAt 8 8 w).val *
      256 = w := by
  simp only [fieldAt_val]
  omega

theorem layout17_sum (k : w / 67108864 = m) (h : w / 4 % 64 = c)
    (q : w % 4 = 0 ∧ w / 256 % 64 = 0 ∧ w / 1048576 % 64 < 8 ∧ w / 16384 % 64 < 8) :
    m * 67108864 + c * 4 + (fieldAt 20 8 w).val * 1048576 + (fieldAt 14 8 w).val * 16384 = w := by
  simp only [fieldAt_val]
  omega

theorem layout18_sum (k : w / 67108864 = m) (h : w / 4 % 64 = c)
    (q : w / 2 % 2 = 0 ∧ w / 16384 % 64 = 0) :
    m * 67108864 + c * 4 + (fieldAt 20 64 w).val * 1048576 + (fieldAt 8 64 w).val * 256 + (bitAt 0 w).toNat = w :=
      by
  simp only [fieldAt_val, bitAt_toNat]
  omega

theorem layout19_sum (k : w / 67108864 = m) (h : w / 4 % 64 = c)
    (q : w / 8388608 % 8 = 0) :
    m * 67108864 + c * 4 + (fieldAt 20 8 w).val * 1048576 + (fieldAt 14 64 w).val * 16384 + (fieldAt 8 64 w).val *
      256 + (bitAt 1 w).toNat * 2 + (bitAt 0 w).toNat = w := by
  simp only [fieldAt_val, bitAt_toNat]
  omega

theorem layout20_sum (k : w / 67108864 = m) (h : w % 2 = c) :
    m * 67108864 + c * 1 + (fieldAt 20 64 w).val * 1048576 + (fieldAt 14 64 w).val * 16384 + (fieldAt 8 64 w).val
      * 256 + (fieldAt 2 64 w).val * 4 + (bitAt 1 w).toNat * 2 = w := by
  simp only [fieldAt_val, bitAt_toNat]
  omega

theorem layout21_sum (k : w / 67108864 = m)
    (q : w / 4 % 8 = 0) :
    m * 67108864 + (fieldAt 20 64 w).val * 1048576 + (fieldAt 14 64 w).val * 16384 + (fieldAt 8 64 w).val * 256 +
      (fieldAt 5 8 w).val * 32 + (bitAt 1 w).toNat * 2 + (bitAt 0 w).toNat = w := by
  simp only [fieldAt_val, bitAt_toNat]
  omega

theorem layout22_sum (k : w / 67108864 = m) (h : w / 2 % 4 = c) :
    m * 67108864 + c * 2 + (fieldAt 20 64 w).val * 1048576 + (fieldAt 14 64 w).val * 16384 + (fieldAt 8 64 w).val
      * 256 + (fieldAt 5 8 w).val * 32 + (fieldAt 3 4 w).val * 8 + (bitAt 0 w).toNat = w := by
  simp only [fieldAt_val, bitAt_toNat]
  omega

theorem layout23_sum (k : w / 67108864 = m) (h : w / 2048 % 8 = c)
    (q : w / 16384 % 64 = 0) :
    m * 67108864 + c * 2048 + (fieldAt 20 64 w).val * 1048576 + (BitVec.ofNat 10 (w / 2)).toNat * 2 + (bitAt 0
      w).toNat = w := by
  simp only [fieldAt_val, bitAt_toNat, BitVec.toNat_ofNat]
  omega

theorem layout24_sum (k : w / 67108864 = m) (h : w / 2 % 4 = c)
    (q : w / 8 % 32 = 0 ∧ w / 1048576 % 64 = 0) :
    m * 67108864 + c * 2 + (fieldAt 14 64 w).val * 16384 + (fieldAt 8 64 w).val * 256 + (bitAt 0 w).toNat = w :=
      by
  simp only [fieldAt_val, bitAt_toNat]
  omega

theorem layout25_sum (k : w / 67108864 = m) (h : w / 2 % 4 = c)
    (q : w / 32 % 8 = 0 ∧ w / 1048576 % 64 = 0) :
    m * 67108864 + c * 2 + (fieldAt 14 64 w).val * 16384 + (fieldAt 8 64 w).val * 256 + (fieldAt 3 4 w).val * 8 +
      (bitAt 0 w).toNat = w := by
  simp only [fieldAt_val, bitAt_toNat]
  omega

theorem layout26_sum (k : w / 67108864 = m) :
    m * 67108864 + (fieldAt 20 64 w).val * 1048576 + (fieldAt 14 64 w).val * 16384 + (fieldAt 9 32 w).val * 512 +
      (fieldAt 4 32 w).val * 16 + (fieldAt 2 4 w).val * 4 + (bitAt 1 w).toNat * 2 + (bitAt 0 w).toNat = w := by
  simp only [fieldAt_val, bitAt_toNat]
  omega

theorem layout27_sum (k : w / 67108864 = m) (h : w / 4194304 % 16 = c)
    (q : w % 2 = 0 ∧ w / 8 % 512 = 64) :
    m * 67108864 + c * 4194304 + 512 + (fieldAt 18 16 w).val * 262144 + (fieldAt 12 64 w).val * 4096 + (fieldAt 1
      4 w).val * 2 = w := by
  simp only [fieldAt_val]
  omega

theorem layout28_sum (k : w / 67108864 = m) (h : w / 4194304 % 16 = c)
    (q : w % 8 = 0 ∧ w / 512 % 8 = 1) :
    m * 67108864 + c * 4194304 + 512 + (fieldAt 18 16 w).val * 262144 + (fieldAt 12 64 w).val * 4096 + (fieldAt 3
      64 w).val * 8 = w := by
  simp only [fieldAt_val]
  omega

theorem layout29_sum (k : w / 67108864 = m) (h : w / 4194304 % 16 = c) :
    m * 67108864 + c * 4194304 + (fieldAt 18 16 w).val * 262144 + (fieldAt 12 64 w).val * 4096 + (fieldAt 9 8
      w).val * 512 + (fieldAt 3 64 w).val * 8 + (fieldAt 1 4 w).val * 2 + (bitAt 0 w).toNat = w := by
  simp only [fieldAt_val, bitAt_toNat]
  omega

theorem layout30_sum (k : w / 67108864 = m) (h : w / 4194304 % 16 = c)
    (q : w / 2 % 256 = 0) :
    m * 67108864 + c * 4194304 + (fieldAt 18 16 w).val * 262144 + (fieldAt 12 64 w).val * 4096 + (fieldAt 9 8
      w).val * 512 + (bitAt 0 w).toNat = w := by
  simp only [fieldAt_val, bitAt_toNat]
  omega

theorem layout31_sum (k : w / 67108864 = m) (h : w / 4194304 % 16 = c)
    (q : w / 2 % 4 = 0 ∧ w / 128 % 4 = 0) :
    m * 67108864 + c * 4194304 + (fieldAt 18 16 w).val * 262144 + (fieldAt 12 64 w).val * 4096 + (fieldAt 9 8
      w).val * 512 + (fieldAt 3 16 w).val * 8 + (bitAt 0 w).toNat = w := by
  simp only [fieldAt_val, bitAt_toNat]
  omega

theorem layout32_sum (k : w / 67108864 = m) (h : w / 4194304 % 16 = c)
    (q : w % 8 = 0 ∧ w / 512 % 8 = 1 ∧ w / 262144 % 16 = 0) :
    m * 67108864 + c * 4194304 + 512 + (fieldAt 12 64 w).val * 4096 + (fieldAt 3 64 w).val * 8 = w := by
  simp only [fieldAt_val]
  omega

theorem layout33_sum (k : w / 67108864 = m) (h : w / 4194304 % 16 = c)
    (q : w % 4096 = 512 ∧ w / 262144 % 16 = 0) :
    m * 67108864 + c * 4194304 + 512 + (fieldAt 12 64 w).val * 4096 = w := by
  simp only [fieldAt_val]
  omega

theorem layout34_sum (k : w / 67108864 = m) (h : w / 4194304 % 16 = c)
    (q : w / 8 % 512 = 64 ∧ w / 262144 % 16 = 0) :
    m * 67108864 + c * 4194304 + 512 + (fieldAt 12 64 w).val * 4096 + (fieldAt 1 4 w).val * 2 + (bitAt 0 w).toNat
      = w := by
  simp only [fieldAt_val, bitAt_toNat]
  omega

theorem layout35_sum (k : w / 67108864 = m) (h : w / 4194304 % 16 = c)
    (q : w / 4 % 16384 = 0) :
    m * 67108864 + c * 4194304 + (fieldAt 16 64 w).val * 65536 + (fieldAt 0 4 w).val = w := by
  simp only [fieldAt_val]
  omega

theorem layout36_sum (k : w / 67108864 = m) (h : w / 4194304 % 16 = c)
    (q : w / 4 % 4 = 0 ∧ w / 1024 % 4096 = 0) :
    m * 67108864 + c * 4194304 + (fieldAt 4 64 w).val * 16 + (fieldAt 0 4 w).val = w := by
  simp only [fieldAt_val]
  omega

theorem layout37_sum (k : w / 67108864 = m) (h : w / 4194304 % 16 = c)
    (q : w / 2 % 256 = 0 ∧ w / 524288 % 8 = 0) :
    m * 67108864 + c * 4194304 + (fieldAt 15 16 w).val * 32768 + (fieldAt 9 64 w).val * 512 + (bitAt 0 w).toNat =
      w := by
  simp only [fieldAt_val, bitAt_toNat]
  omega

theorem layout38_sum (k : w / 67108864 = m) (h : w / 4194304 % 16 = c)
    (q : w / 2 % 2097152 = 0) :
    m * 67108864 + c * 4194304 + (bitAt 0 w).toNat = w := by
  simp only [bitAt_toNat]
  omega

theorem layout39_sum (k : w / 67108864 = m) (h : w / 4194304 % 16 = c)
    (q : w / 2 % 256 = 0 ∧ w / 32768 % 128 = 0) :
    m * 67108864 + c * 4194304 + (fieldAt 9 64 w).val * 512 + (bitAt 0 w).toNat = w := by
  simp only [fieldAt_val, bitAt_toNat]
  omega

theorem layout40_sum (k : w / 67108864 = m) (h : w / 4194304 % 16 = c)
    (q : w / 32768 % 16 = 0) :
    m * 67108864 + c * 4194304 + (fieldAt 19 8 w).val * 524288 + (fieldAt 9 64 w).val * 512 + (fieldAt 3 64 w).val
      * 8 + (fieldAt 1 4 w).val * 2 + (bitAt 0 w).toNat = w := by
  simp only [fieldAt_val, bitAt_toNat]
  omega

theorem layout41_sum (k : w / 67108864 = m) (h : w / 4194304 % 16 = c)
    (q : w / 4 % 128 = 0) :
    m * 67108864 + c * 4194304 + (fieldAt 19 8 w).val * 524288 + (fieldAt 15 16 w).val * 32768 + (fieldAt 9 64
      w).val * 512 + (bitAt 1 w).toNat * 2 + (bitAt 0 w).toNat = w := by
  simp only [fieldAt_val, bitAt_toNat]
  omega

theorem layout42_sum (k : w / 67108864 = m) (h : w / 4194304 % 16 = c)
    (q : w / 2 % 262144 = 0) :
    m * 67108864 + c * 4194304 + (fieldAt 19 8 w).val * 524288 + (bitAt 0 w).toNat = w := by
  simp only [fieldAt_val, bitAt_toNat]
  omega

theorem layout43_sum (k : w / 67108864 = m) (h : w / 4194304 % 16 = c)
    (q : w % 2 = 0 ∧ w / 262144 % 2 = 0) :
    m * 67108864 + c * 4194304 + (fieldAt 19 8 w).val * 524288 + (fieldAt 15 8 w).val * 32768 + (fieldAt 9 64
      w).val * 512 + (fieldAt 3 64 w).val * 8 + (fieldAt 1 4 w).val * 2 = w := by
  simp only [fieldAt_val]
  omega

theorem layout44_sum (k : w / 67108864 = m) (h : w / 4194304 % 16 = c)
    (q : w % 512 = 0 ∧ w / 32768 % 128 = 0) :
    m * 67108864 + c * 4194304 + (fieldAt 9 64 w).val * 512 = w := by
  simp only [fieldAt_val]
  omega

theorem layout45_sum (k : w / 67108864 = m) (h : w / 32 % 8 = c) :
    m * 67108864 + c * 32 + (fieldAt 20 64 w).val * 1048576 + (fieldAt 14 64 w).val * 16384 + (fieldAt 8 64 w).val
      * 256 + (fieldAt 2 8 w).val * 4 + (bitAt 1 w).toNat * 2 + (bitAt 0 w).toNat = w := by
  simp only [fieldAt_val, bitAt_toNat]
  omega

theorem layout46_sum (k : w / 67108864 = m) (h : w / 32 % 8 = c)
    (q : w / 1048576 % 64 = 0) :
    m * 67108864 + c * 32 + (fieldAt 14 64 w).val * 16384 + (fieldAt 8 64 w).val * 256 + (fieldAt 2 8 w).val * 4 +
      (bitAt 1 w).toNat * 2 + (bitAt 0 w).toNat = w := by
  simp only [fieldAt_val, bitAt_toNat]
  omega

theorem layout47_sum (k : w / 67108864 = m) (h : w / 4194304 % 16 = c)
    (q : w % 16 = 0) :
    m * 67108864 + c * 4194304 + (fieldAt 16 64 w).val * 65536 + (fieldAt 10 64 w).val * 1024 + (fieldAt 4 64
      w).val * 16 = w := by
  simp only [fieldAt_val]
  omega

theorem layout48_sum (k : w / 67108864 = m) (h : w / 4194304 % 16 = c)
    (q : w % 16 = 0 ∧ w / 1024 % 64 = 0) :
    m * 67108864 + c * 4194304 + (fieldAt 16 64 w).val * 65536 + (fieldAt 4 64 w).val * 16 = w := by
  simp only [fieldAt_val]
  omega

theorem layout49_sum (k : w / 67108864 = m) (h : w / 4194304 % 16 = c)
    (q : w % 65536 = 0) :
    m * 67108864 + c * 4194304 + (fieldAt 16 64 w).val * 65536 = w := by
  simp only [fieldAt_val]
  omega

theorem layout50_sum (k : w / 67108864 = m) (h : w / 4194304 % 16 = c) :
    m * 67108864 + c * 4194304 + (fieldAt 16 64 w).val * 65536 + (fieldAt 10 64 w).val * 1024 + (fieldAt 4 64
      w).val * 16 + (fieldAt 0 16 w).val = w := by
  simp only [fieldAt_val]
  omega

theorem layout51_sum (k : w / 67108864 = m) (h : w / 4194304 % 16 = c)
    (q : w / 1024 % 64 = 0) :
    m * 67108864 + c * 4194304 + (fieldAt 16 64 w).val * 65536 + (fieldAt 4 64 w).val * 16 + (fieldAt 0 16 w).val
      = w := by
  simp only [fieldAt_val]
  omega

theorem layout52_sum (k : w / 67108864 = m) (h : w / 4194304 % 16 = c)
    (q : w / 8 % 2 = 0) :
    m * 67108864 + c * 4194304 + (fieldAt 16 64 w).val * 65536 + (fieldAt 10 64 w).val * 1024 + (fieldAt 4 64
      w).val * 16 + (fieldAt 0 8 w).val = w := by
  simp only [fieldAt_val]
  omega

theorem layout53_sum (k : w / 67108864 = m) (h : w / 4194304 % 16 = c)
    (q : w / 8 % 128 = 0) :
    m * 67108864 + c * 4194304 + (fieldAt 16 64 w).val * 65536 + (fieldAt 10 64 w).val * 1024 + (fieldAt 0 8
      w).val = w := by
  simp only [fieldAt_val]
  omega

theorem layout54_sum (k : w / 67108864 = m) (h : w / 4194304 % 16 = c)
    (q : w % 1024 = 0) :
    m * 67108864 + c * 4194304 + (fieldAt 16 64 w).val * 65536 + (fieldAt 10 64 w).val * 1024 = w := by
  simp only [fieldAt_val]
  omega

theorem layout55_sum (k : w / 67108864 = m) (h : w / 4194304 % 16 = c)
    (q : w % 4 = 0 ∧ w / 16 % 64 = 0 ∧ w / 65536 % 64 = 0) :
    m * 67108864 + c * 4194304 + (fieldAt 10 64 w).val * 1024 + (BitVec.ofNat 2 (w / 4)).toNat * 4 = w := by
  simp only [fieldAt_val, BitVec.toNat_ofNat]
  omega

theorem layout56_sum (k : w / 67108864 = m) (h : w / 4194304 % 16 = c)
    (q : w / 16 % 4096 = 0) :
    m * 67108864 + c * 4194304 + (fieldAt 16 64 w).val * 65536 + (fieldAt 0 16 w).val = w := by
  simp only [fieldAt_val]
  omega

theorem layout57_sum (k : w / 67108864 = m) (h : w / 4194304 % 16 = c)
    (q : w / 2 % 4 = 0) :
    m * 67108864 + c * 4194304 + (fieldAt 18 16 w).val * 262144 + (fieldAt 12 64 w).val * 4096 + (fieldAt 9 8
      w).val * 512 + (fieldAt 3 64 w).val * 8 + (bitAt 0 w).toNat = w := by
  simp only [fieldAt_val, bitAt_toNat]
  omega

theorem layout58_sum (k : w / 67108864 = m) (h : w / 4194304 % 16 = c)
    (q : w / 512 % 8 = 2 ∧ w / 262144 % 16 = 0) :
    m * 67108864 + c * 4194304 + 1024 + (fieldAt 12 64 w).val * 4096 + (fieldAt 3 64 w).val * 8 + (fieldAt 1 4
      w).val * 2 + (bitAt 0 w).toNat = w := by
  simp only [fieldAt_val, bitAt_toNat]
  omega

theorem layout59_sum (k : w / 67108864 = m) (h : w / 1048576 % 64 = c)
    (q : w / 256 % 64 = 0) :
    m * 67108864 + c * 1048576 + (fieldAt 14 64 w).val * 16384 + (fieldAt 0 256 w).val = w := by
  simp only [fieldAt_val]
  omega

theorem layout60_sum (k : w / 67108864 = m) (h : w / 1048576 % 64 = c) :
    m * 67108864 + c * 1048576 + (fieldAt 14 64 w).val * 16384 + (fieldAt 8 64 w).val * 256 + (fieldAt 0 256
      w).val = w := by
  simp only [fieldAt_val]
  omega

theorem layout61_sum (k : w / 67108864 = m) (h : w / 1048576 % 64 = c)
    (q : w % 256 = 0 ∧ w / 16384 % 64 = 0) :
    m * 67108864 + c * 1048576 + (fieldAt 8 64 w).val * 256 = w := by
  simp only [fieldAt_val]
  omega

theorem layout62_sum (k : w / 67108864 = m) (h : w / 1048576 % 64 = c)
    (q : w % 256 = 0) :
    m * 67108864 + c * 1048576 + (fieldAt 14 64 w).val * 16384 + (fieldAt 8 64 w).val * 256 = w := by
  simp only [fieldAt_val]
  omega

theorem layout63_sum (k : w / 67108864 = m) (h : w / 1048576 % 64 = c)
    (q : w / 64 % 4 = 0 ∧ w / 16384 % 64 = 0) :
    m * 67108864 + c * 1048576 + (fieldAt 8 64 w).val * 256 + (fieldAt 0 64 w).val = w := by
  simp only [fieldAt_val]
  omega

theorem layout64_sum (k : w / 67108864 = m) (h : w / 1048576 % 64 = c)
    (q : w / 4 % 64 = 0) :
    m * 67108864 + c * 1048576 + (fieldAt 14 64 w).val * 16384 + (fieldAt 8 64 w).val * 256 + (fieldAt 0 4 w).val
      = w := by
  simp only [fieldAt_val]
  omega

theorem layout65_sum (k : w / 67108864 = m) (h : w / 1048576 % 64 = c)
    (q : w / 8 % 32 = 0 ∧ w / 16384 % 64 = 0) :
    m * 67108864 + c * 1048576 + (fieldAt 8 64 w).val * 256 + (fieldAt 1 4 w).val * 2 + (bitAt 0 w).toNat = w :=
      by
  simp only [fieldAt_val, bitAt_toNat]
  omega

theorem layout66_sum (k : w / 67108864 = m) (h : w / 1048576 % 64 = c)
    (q : w / 2 % 128 = 0) :
    m * 67108864 + c * 1048576 + (fieldAt 14 64 w).val * 16384 + (fieldAt 8 64 w).val * 256 + (bitAt 0 w).toNat =
      w := by
  simp only [fieldAt_val, bitAt_toNat]
  omega

theorem layout67_sum (k : w / 67108864 = m) (h : w / 1048576 % 64 = c)
    (q : w % 2 = 0 ∧ w / 16384 % 64 = 0) :
    m * 67108864 + c * 1048576 + (fieldAt 8 64 w).val * 256 + (fieldAt 6 4 w).val * 64 + (fieldAt 3 8 w).val * 8 +
      (fieldAt 1 4 w).val * 2 = w := by
  simp only [fieldAt_val]
  omega

end Layouts

/-- What the decoder reads in the number `w`, the encoder writes as `w`. -/
def Reads (w : Nat) (o : Option Instr) : Prop := ∀ i, o = some i → word? i = some w

theorem Reads.none {w : Nat} : Reads w Option.none := by simp [Reads]

theorem Reads.some {w e : Nat} {i : Instr} (h : word? i = Option.some e) (he : e = w) : Reads w (Option.some i) := by
  subst he
  simpa [Reads] using h

theorem Reads.ite {w : Nat} {c : Prop} [Decidable c] {i : Instr} (h : c → Reads w (Option.some i)) :
    Reads w (if c then Option.some i else Option.none) := by
  by_cases hc : c
  · simpa [hc] using h hc
  · simpa [hc] using Reads.none

section Majors

variable {w : Nat}

theorem reads01 (k : w / 67108864 = 1) : Reads w (decode01 w) := by
  unfold decode01
  split
  case h_5 => exact .none
  all_goals next c => exact .some rfl (layout1_sum k c :)

theorem reads04 (k : w / 67108864 = 4) : Reads w (decode04 w) := by
  unfold decode04
  split
  case h_24 c | h_25 c | h_26 c => exact .ite fun q => .some rfl (layout3_sum k c q :)
  case h_27 => exact .none
  all_goals next c => exact .some rfl (layout2_sum k c :)

theorem reads05 (k : w / 67108864 = 5) : Reads w (decode05 w) := by
  unfold decode05
  split
  case h_9 => exact .none
  all_goals next c => exact .some rfl (layout4_sum k c :)

theorem reads06 (k : w / 67108864 = 6) : Reads w (decode06 w) := by
  unfold decode06
  split
  case h_1 c | h_3 c | h_4 c => exact .ite fun q => .some rfl (layout5_sum k c q :)
  case h_2 c => exact .some rfl (layout4_sum k c :)
  case h_5 c => exact .ite fun q => .some rfl (layout6_sum k c q :)
  case h_6 => exact .none

theorem reads08 (k : w / 67108864 = 8) : Reads w (decode08 w) := by
  unfold decode08
  split
  case h_7 c => exact .ite fun q => .some rfl (layout8_sum k c q :)
  case h_8 => exact .none
  all_goals next c => exact .some rfl (layout7_sum k c :)

theorem reads09 (k : w / 67108864 = 9) : Reads w (decode09 w) := by
  unfold decode09
  exact .some rfl (layout9_sum k :)

theorem reads0A (k : w / 67108864 = 10) : Reads w (decode0A w) := by
  unfold decode0A
  exact .some rfl (layout9_sum k :)

theorem reads0B (k : w / 67108864 = 11) : Reads w (decode0B w) := by
  unfold decode0B
  split
  case h_2 c | h_3 c => exact .ite fun q => .some rfl (layout11_sum k c q :)
  case h_7 c => exact .ite fun q => .some rfl (layout12_sum k c q :)
  case h_9 => exact .none
  all_goals next c => exact .ite fun q => .some rfl (layout10_sum k c q :)

theorem reads0C (k : w / 67108864 = 12) : Reads w (decode0C w) := by
  unfold decode0C
  split
  case h_1 c | h_2 c => exact .ite fun q => .some rfl (layout13_sum k c q :)
  case h_3 => exact .none

theorem reads0D (k : w / 67108864 = 13) : Reads w (decode0D w) := by
  unfold decode0D
  split
  case h_1 c => exact .ite fun q => .some rfl (layout12_sum k c q :)
  case h_2 c => exact .ite fun q => .some rfl (layout14_sum k c q :)
  case h_3 c | h_9 c | h_10 c => exact .ite fun q => .some rfl (layout15_sum k c q :)
  case h_8 c | h_11 c => exact .ite fun q => .some rfl (layout17_sum k c q :)
  case h_12 => exact .none
  all_goals next c => exact .ite fun q => .some rfl (layout16_sum k c q :)

theorem reads10 (k : w / 67108864 = 16) : Reads w (decode10 w) := by
  unfold decode10
  split
  case h_22 c | h_23 c | h_24 c | h_35 c => exact .ite fun q => .some rfl (layout3_sum k c q :)
  case h_38 => exact .none
  all_goals next c => exact .some rfl (layout2_sum k c :)

theorem reads11 (k : w / 67108864 = 17) : Reads w (decode11 w) := by
  unfold decode11
  split
  case h_32 c => exact .ite fun q => .some rfl (layout18_sum k c q :)
  case h_36 => exact .none
  all_goals next c => exact .some rfl (layout2_sum k c :)

theorem reads12 (k : w / 67108864 = 18) : Reads w (decode12 w) := by
  unfold decode12
  split
  case h_8 c => exact .ite fun q => .some rfl (layout5_sum k c q :)
  case h_9 => exact .none
  all_goals next c => exact .some rfl (layout4_sum k c :)

theorem reads13 (k : w / 67108864 = 19) : Reads w (decode13 w) := by
  unfold decode13
  split
  case h_12 => exact .none
  all_goals next c => exact .ite fun q => .some rfl (layout19_sum k c q :)

theorem reads14 (k : w / 67108864 = 20) : Reads w (decode14 w) := by
  unfold decode14
  split
  case h_1 c | h_2 c | h_3 c | h_4 c | h_5 c | h_6 c | h_7 c | h_8 c => exact .some rfl (layout2_sum k c :)
  case h_19 => exact .none
  all_goals next c => exact .ite fun q => .some rfl (layout3_sum k c q :)

theorem reads15 (k : w / 67108864 = 21) : Reads w (decode15 w) := by
  unfold decode15
  split
  case h_6 c | h_7 c | h_9 c => exact .ite fun q => .some rfl (layout3_sum k c q :)
  case h_20 => exact .none
  all_goals next c => exact .some rfl (layout2_sum k c :)

theorem reads16 (k : w / 67108864 = 22) : Reads w (decode16 w) := by
  unfold decode16
  split
  case h_17 => exact .none
  all_goals next c => exact .some rfl (layout2_sum k c :)

theorem reads17 (k : w / 67108864 = 23) : Reads w (decode17 w) := by
  unfold decode17
  split
  case h_6 c | h_8 c => exact .some rfl (layout2_sum k c :)
  case h_9 => exact .none
  all_goals next c => exact .ite fun q => .some rfl (layout3_sum k c q :)

theorem reads18 (k : w / 67108864 = 24) : Reads w (decode18 w) := by
  unfold decode18
  split
  case h_1 c | h_2 c => exact .some rfl (layout20_sum k c :)
  case h_3 => exact .none

theorem reads19 (k : w / 67108864 = 25) : Reads w (decode19 w) := by
  unfold decode19
  split
  case h_1 c | h_2 c => exact .some rfl (layout20_sum k c :)
  case h_3 => exact .none

theorem reads1A (k : w / 67108864 = 26) : Reads w (decode1A w) := by
  unfold decode1A
  split
  case h_1 c | h_2 c => exact .some rfl (layout20_sum k c :)
  case h_3 => exact .none

theorem reads1B (k : w / 67108864 = 27) : Reads w (decode1B w) := by
  unfold decode1B
  exact .ite fun q => .some rfl (layout21_sum k q :)

theorem reads1C (k : w / 67108864 = 28) : Reads w (decode1C w) := by
  unfold decode1C
  split
  case h_1 c | h_2 c | h_3 c => exact .some rfl (layout22_sum k c :)
  case h_4 => exact .none

theorem reads1D (k : w / 67108864 = 29) : Reads w (decode1D w) := by
  unfold decode1D
  split
  case h_1 c | h_2 c | h_3 c => exact .some rfl (layout22_sum k c :)
  case h_4 => exact .none

theorem reads1E (k : w / 67108864 = 30) : Reads w (decode1E w) := by
  unfold decode1E
  split
  case h_7 => exact .none
  all_goals next c => exact .ite fun q => .some rfl (layout23_sum k c q :)

theorem reads1F (k : w / 67108864 = 31) : Reads w (decode1F w) := by
  unfold decode1F
  split
  case h_1 c | h_2 c | h_3 c => exact .ite fun q => .some rfl (layout24_sum k c q :)
  case h_4 c => exact .ite fun q => .some rfl (layout25_sum k c q :)
  case h_5 => exact .none

theorem reads20 (k : w / 67108864 = 32) : Reads w (decode20 w) := by
  unfold decode20
  exact .some rfl (layout26_sum k :)

theorem reads22 (k : w / 67108864 = 34) : Reads w (decode22 w) := by
  unfold decode22
  split
  case h_1 c | h_2 c => exact .ite fun q => .some rfl (layout27_sum k c q :)
  case h_3 c | h_4 c => exact .ite fun q => .some rfl (layout28_sum k c q :)
  case h_5 => exact .none

theorem reads23 (k : w / 67108864 = 35) : Reads w (decode23 w) := by
  unfold decode23
  split
  case h_5 c => exact .ite fun q => .some rfl (layout30_sum k c q :)
  case h_6 c => exact .ite fun q => .some rfl (layout31_sum k c q :)
  case h_7 => exact .none
  all_goals next c => exact .some rfl (layout29_sum k c :)

theorem reads24 (k : w / 67108864 = 36) : Reads w (decode24 w) := by
  unfold decode24
  split
  case h_1 c | h_5 c => exact .ite fun q => .some rfl (layout32_sum k c q :)
  case h_2 c | h_3 c => exact .ite fun q => .some rfl (layout33_sum k c q :)
  case h_4 c => exact .ite fun q => .some rfl (layout34_sum k c q :)
  case h_6 => exact .none

theorem reads25 (k : w / 67108864 = 37) : Reads w (decode25 w) := by
  unfold decode25
  split
  case h_1 c => exact .ite fun q => .some rfl (layout35_sum k c q :)
  case h_2 c => exact .ite fun q => .some rfl (layout36_sum k c q :)
  case h_3 => exact .none

theorem reads26 (k : w / 67108864 = 38) : Reads w (decode26 w) := by
  unfold decode26
  split
  case h_1 c => exact .ite fun q => .some rfl (layout37_sum k c q :)
  case h_2 c => exact .ite fun q => .some rfl (layout38_sum k c q :)
  case h_3 c | h_4 c => exact .ite fun q => .some rfl (layout39_sum k c q :)
  case h_5 => exact .none

theorem reads27 (k : w / 67108864 = 39) : Reads w (decode27 w) := by
  unfold decode27
  split
  case h_1 c | h_2 c | h_3 c => exact .ite fun q => .some rfl (layout40_sum k c q :)
  case h_4 => exact .none

theorem reads28 (k : w / 67108864 = 40) : Reads w (decode28 w) := by
  unfold decode28
  split
  case h_1 c => exact .ite fun q => .some rfl (layout41_sum k c q :)
  case h_2 c => exact .ite fun q => .some rfl (layout42_sum k c q :)
  case h_3 c => exact .ite fun q => .some rfl (layout43_sum k c q :)
  case h_4 c => exact .ite fun q => .some rfl (layout44_sum k c q :)
  case h_5 => exact .none

theorem reads29 (k : w / 67108864 = 41) : Reads w (decode29 w) := by
  unfold decode29
  split
  case h_9 => exact .none
  all_goals next c => exact .some rfl (layout45_sum k c :)

theorem reads2A (k : w / 67108864 = 42) : Reads w (decode2A w) := by
  unfold decode2A
  split
  case h_1 c | h_2 c => exact .some rfl (layout45_sum k c :)
  case h_3 => exact .none

theorem reads2B (k : w / 67108864 = 43) : Reads w (decode2B w) := by
  unfold decode2B
  split
  case h_7 => exact .none
  all_goals next c => exact .ite fun q => .some rfl (layout46_sum k c q :)

theorem reads2C (k : w / 67108864 = 44) : Reads w (decode2C w) := by
  unfold decode2C
  split
  case h_1 c | h_5 c => exact .ite fun q => .some rfl (layout47_sum k c q :)
  case h_2 c | h_4 c => exact .ite fun q => .some rfl (layout48_sum k c q :)
  case h_3 c => exact .ite fun q => .some rfl (layout49_sum k c q :)
  case h_6 => exact .none

theorem reads2D (k : w / 67108864 = 45) : Reads w (decode2D w) := by
  unfold decode2D
  split
  case h_1 c => exact .some rfl (layout50_sum k c :)
  case h_2 => exact .none

theorem reads2E (k : w / 67108864 = 46) : Reads w (decode2E w) := by
  unfold decode2E
  split
  case h_1 c | h_2 c => exact .ite fun q => .some rfl (layout51_sum k c q :)
  case h_3 c => exact .ite fun q => .some rfl (layout52_sum k c q :)
  case h_4 c => exact .ite fun q => .some rfl (layout53_sum k c q :)
  case h_5 c => exact .ite fun q => .some rfl (layout54_sum k c q :)
  case h_6 => exact .none

theorem reads2F (k : w / 67108864 = 47) : Reads w (decode2F w) := by
  unfold decode2F
  split
  case h_1 c => exact .ite fun q => .some rfl (layout55_sum k c q :)
  case h_2 c | h_3 c => exact .ite fun q => .some rfl (layout54_sum k c q :)
  case h_4 c | h_5 c => exact .ite fun q => .some rfl (layout56_sum k c q :)
  case h_6 => exact .none

theorem reads30 (k : w / 67108864 = 48) : Reads w (decode30 w) := by
  unfold decode30
  split
  case h_1 c => exact .ite fun q => .some rfl (layout57_sum k c q :)
  case h_2 c | h_3 c => exact .ite fun q => .some rfl (layout58_sum k c q :)
  case h_4 c => exact .ite fun q => .some rfl (layout34_sum k c q :)
  case h_5 c => exact .ite fun q => .some rfl (layout32_sum k c q :)
  case h_6 => exact .none

theorem reads34 (k : w / 67108864 = 52) : Reads w (decode34 w) := by
  unfold decode34
  split
  case h_1 c => exact .ite fun q => .some rfl (layout47_sum k c q :)
  case h_2 c => exact .ite fun q => .some rfl (layout35_sum k c q :)
  case h_3 c => exact .ite fun q => .some rfl (layout49_sum k c q :)
  case h_4 => exact .none

theorem reads38 (k : w / 67108864 = 56) : Reads w (decode38 w) := by
  unfold decode38
  split
  case h_1 c => exact .ite fun q => .some rfl (layout59_sum k c q :)
  case h_2 c | h_3 c | h_4 c => exact .some rfl (layout60_sum k c :)
  case h_5 => exact .none

theorem reads39 (k : w / 67108864 = 57) : Reads w (decode39 w) := by
  unfold decode39
  split
  case h_1 c | h_4 c => exact .ite fun q => .some rfl (layout61_sum k c q :)
  case h_2 c | h_3 c => exact .ite fun q => .some rfl (layout62_sum k c q :)
  case h_5 c => exact .ite fun q => .some rfl (layout63_sum k c q :)
  case h_6 => exact .none

theorem reads3A (k : w / 67108864 = 58) : Reads w (decode3A w) := by
  unfold decode3A
  split
  case h_1 c => exact .ite fun q => .some rfl (layout64_sum k c q :)
  case h_2 c => exact .ite fun q => .some rfl (layout65_sum k c q :)
  case h_3 c | h_4 c => exact .ite fun q => .some rfl (layout62_sum k c q :)
  case h_5 => exact .none

theorem reads3B (k : w / 67108864 = 59) : Reads w (decode3B w) := by
  unfold decode3B
  split
  case h_1 c | h_2 c => exact .ite fun q => .some rfl (layout66_sum k c q :)
  case h_3 c => exact .ite fun q => .some rfl (layout67_sum k c q :)
  case h_4 => exact .none

/-- What the decoder lays out as fields, the encoder puts together again. -/
theorem reads_raw : Reads w (rawDecode w) := by
  unfold rawDecode
  split
  case h_1 k => exact reads01 k
  case h_2 k => exact reads04 k
  case h_3 k => exact reads05 k
  case h_4 k => exact reads06 k
  case h_5 k => exact reads08 k
  case h_6 k => exact reads09 k
  case h_7 k => exact reads0A k
  case h_8 k => exact reads0B k
  case h_9 k => exact reads0C k
  case h_10 k => exact reads0D k
  case h_11 k => exact reads10 k
  case h_12 k => exact reads11 k
  case h_13 k => exact reads12 k
  case h_14 k => exact reads13 k
  case h_15 k => exact reads14 k
  case h_16 k => exact reads15 k
  case h_17 k => exact reads16 k
  case h_18 k => exact reads17 k
  case h_19 k => exact reads18 k
  case h_20 k => exact reads19 k
  case h_21 k => exact reads1A k
  case h_22 k => exact reads1B k
  case h_23 k => exact reads1C k
  case h_24 k => exact reads1D k
  case h_25 k => exact reads1E k
  case h_26 k => exact reads1F k
  case h_27 k => exact reads20 k
  case h_28 k => exact reads22 k
  case h_29 k => exact reads23 k
  case h_30 k => exact reads24 k
  case h_31 k => exact reads25 k
  case h_32 k => exact reads26 k
  case h_33 k => exact reads27 k
  case h_34 k => exact reads28 k
  case h_35 k => exact reads29 k
  case h_36 k => exact reads2A k
  case h_37 k => exact reads2B k
  case h_38 k => exact reads2C k
  case h_39 k => exact reads2D k
  case h_40 k => exact reads2E k
  case h_41 k => exact reads2F k
  case h_42 k => exact reads30 k
  case h_43 k => exact reads34 k
  case h_44 k => exact reads38 k
  case h_45 k => exact reads39 k
  case h_46 k => exact reads3A k
  case h_47 k => exact reads3B k
  case h_48 => exact .none

end Majors

/-- A word that decodes is the word of a well-formed instruction. -/
theorem encode_of_decodeWord {w : BitVec 32} {i : Instr} (h : decodeWord w = some i) :
    encode i = [w] ∧ i.wellFormed = true := by
  obtain ⟨hr, hf⟩ := Option.filter_eq_some_iff.1 h
  have he : word? i = some w.toNat := reads_raw i hr
  simp [encode, he, hf]

theorem wordOfBytes_bytesOfWord (w : BitVec 32) :
    wordOfBytes (BitVec.ofNat 8 w.toNat) (BitVec.ofNat 8 (w.toNat / 256)) (BitVec.ofNat 8 (w.toNat / 65536))
      (BitVec.ofNat 8 (w.toNat / 16777216)) = w := by
  have h := w.isLt
  apply BitVec.eq_of_toNat_eq
  simp only [wordOfBytes, BitVec.toNat_ofNat]
  omega

/-- The bytes of a word are read back as the word, whatever follows them. -/
theorem decodeBytes_bytesOfWord (w : BitVec 32) (rest : List (BitVec 8)) :
    decodeBytes (bytesOfWord w ++ rest) = (decodeWord w).map fun i => (i, rest) := by
  rw [bytesOfWord, List.cons_append, List.cons_append, List.cons_append, List.cons_append, decodeBytes,
    wordOfBytes_bytesOfWord, List.nil_append]

end Sys2Proof.Laws.RoundTrip

namespace Sys2Proof.Machine

open Laws.RoundTrip

/-- Settles O1, by the round trip of each instruction. -/
theorem decodeEncode : Obligations.DecodeEncode := by
  unfold Obligations.DecodeEncode
  intro i w rest hf he
  have hw : decodeWord w = some i := statement_of_instr i hf w he
  exact ⟨hw, by rw [decodeBytes_bytesOfWord, hw]; rfl⟩

/-- Settles O2: each layout's fields, put together, are the word. -/
theorem encodeDecode : Obligations.EncodeDecode := by
  unfold Obligations.EncodeDecode
  exact fun w i h => encode_of_decodeWord h

end Sys2Proof.Machine
end

section
/-! Obligations O3 and O4: words decoded, and the step of a unit that decodes (R43, R56, R57, R354). -/

set_option Elab.async false

namespace Sys2Proof.Machine

/-! ## Reserved majors (R56) -/

/-- The majors that the map of R56 reserves, major 0 among them. -/
def reservedMajors : List Nat :=
  [0x00, 0x02, 0x03, 0x07, 0x0E, 0x0F, 0x21, 0x31, 0x32, 0x33, 0x35, 0x36, 0x37, 0x3C, 0x3D, 0x3E, 0x3F]

/-- The decoder has no layout for a reserved major. -/
theorem rawDecode_reserved {w : Nat} (h : w / 67108864 ∈ reservedMajors) : rawDecode w = none := by
  unfold rawDecode
  split
  case h_48 => rfl
  all_goals next k => exact absurd h (by rw [k]; decide)

theorem decodeWord_reserved {w : BitVec 32} (h : w.toNat / 67108864 ∈ reservedMajors) : decodeWord w = none := by
  rw [decodeWord, rawDecode_reserved h]
  rfl

/-- Settles O3. -/
theorem decodeExamples : Obligations.DecodeExamples := by
  unfold Obligations.DecodeExamples
  exact ⟨by decide, fun w h => decodeWord_reserved h⟩

/-! ## The step is the chosen unit's turn, whatever its outcome -/

/-- What a turn makes of the outcome of its unit. -/
noncomputable def turnOf (b f : State) (w : Warp) (e : Nat) :
    Host.Outcome State Fault Refusal → Host.Outcome State Fault Refusal
  | .next t => .next (Turned b f w e t)
  | stop => stop

/-- Trying a fragment gives its unit's turn. -/
theorem State.tryIssue_eq (b : State) (w : Warp) (e : Nat) :
    b.tryIssue w e = turnOf b (b.choose w.uid e) w e (b.choose w.uid e).runUnit := by
  cases h : (b.choose w.uid e).runUnit with
  | next t => exact State.tryIssue_next h
  | fault c => simp only [State.tryIssue, State.runTurn, h, turnOf]
  | refused c => simp only [State.tryIssue, State.runTurn, h, turnOf]

/-- The first fragment to be tried settles the step unless it waits. -/
theorem State.tryAll_cons {b : State} {w : Warp} {e : Nat} {rest : List (Nat × Nat)} (hw : b.findWarp w.uid = some w)
    (h : ∀ t, b.tryIssue w e = .next t → t.warp.frag.held = false) :
    b.tryAll ((w.uid, e) :: rest) = b.tryIssue w e := by
  rw [State.tryAll, hw]
  cases ht : b.tryIssue w e with
  | next t => simp only [ht, h t ht, Bool.false_eq_true, if_false]
  | fault c => simp only [ht]
  | refused c => simp only [ht]

/-- The step of a chosen fragment is its unit's turn; where fragments are tried in order, of the first that does not
wait. -/
theorem step_of_turn {s b f : State} {w : Warp} {e : Nat} (h : Issues s b f w e)
    (hh : s.agenda = [] → ∀ t, f.runUnit = .next t → (Turned b f w e t).warp.frag.held = false) :
    step s = turnOf b f w e f.runUnit := by
  obtain ⟨hreset, hw, rfl, ⟨rest, g, ha, hb, hg, hm⟩ | ⟨ha, hd, rest, ht⟩⟩ := h
  · have hstep : step s = b.perform (.issue w.uid e) := by
      simp only [step, ha, hreset, Bool.false_and, Bool.false_eq_true, if_false, hb]
    rw [hstep, State.perform_issue hw hg hm, State.tryIssue_eq]
  · have hstep : step s = b.tryAll ((w.uid, e) :: rest) := by
      simp only [step, ha, hreset, Bool.false_eq_true, if_false, State.stepDefault, hd]
      exact State.tryAll_tried ht
    rw [hstep, State.tryAll_cons hw, State.tryIssue_eq]
    intro t hn
    rw [State.tryIssue_eq] at hn
    cases hr : (b.choose w.uid e).runUnit with
    | next u =>
      rw [hr, turnOf, Host.Outcome.next.injEq] at hn
      exact hn ▸ hh ha u hr
    | fault c => simp [hr, turnOf] at hn
    | refused c => simp [hr, turnOf] at hn

/-- A unit whose bytes decode to an instruction is that instruction's execution. -/
theorem State.runUnit_decoded {f g : State} {loc : Nat} {i : Instr} (hf : Fetches f g loc)
    (hd : decodeBytes (g.mem.readBytes loc 4) = some (i, [])) : f.runUnit = exec i g := by
  have hw : decodeWord (wordOfBytes (g.mem.read loc) (g.mem.read (loc + 1)) (g.mem.read (loc + 2))
      (g.mem.read (loc + 3))) = some i := by
    simpa [Memory.readBytes, decodeBytes, Nat.add_assoc] using hd
  rw [State.runUnit_of_fetches hf, State.runWord, hw]

/-- Settles O4. -/
theorem stepRunsDecoded : Obligations.StepRunsDecoded := by
  unfold Obligations.StepRunsDecoded
  intro s b f g w e loc i hi hf hd hh
  have hr : f.runUnit = exec i g := State.runUnit_decoded hf hd
  rw [step_of_turn hi (by rwa [hr]), hr]
  cases exec i g <;> rfl

end Sys2Proof.Machine
end

section
/-! Obligations O6 and O23: reset values, and effective addresses (R64, R141, R149, R221, R274, R357). -/

set_option Elab.async false

namespace Sys2Proof.Machine

/-! ## Reset -/

/-- Every launch queue, and every number that names none, is the empty queue at reset. -/
theorem State.reset_queue (q : Nat) : State.reset.queue q = Queue.start := by
  simp only [State.queue, State.reset, Vector.getElem?_replicate]
  split <;> rfl

/-- Settles O6. -/
theorem resetValues : Obligations.ResetValues := by
  unfold Obligations.ResetValues
  refine ⟨by decide, by decide, by decide, fun q _ => ?_⟩
  rw [State.reset_queue]
  exact ⟨rfl, rfl⟩

/-! ## Effective addresses -/

/-- A value carried into 64 bits with its sign. -/
theorem word64_toInt {n : Nat} (x : BitVec n) : word64 x.toInt = x.signExtend 64 := rfl

theorem word64_toNat (x : Word64) : word64 x.toNat = x := by simp [word64]

theorem word64_add (i j : Int) : word64 (i + j) = word64 i + word64 j := BitVec.ofInt_add i j

theorem word64_mul (i j : Int) : word64 (i * j) = word64 i * word64 j := BitVec.ofInt_mul i j

theorem word64_natCast (n : Nat) : word64 n = BitVec.ofNat 64 n := by simp [word64]

/-- A size without sub-byte elements: base, lane offset and HIMM's offset, in bytes (R141). -/
theorem effective_bytes (base : Word64) (v : Word32) (off : BitVec 22) {z : Nat} (hz : z ≤ 4) :
    (effective base v off.toInt z).1 = base + v.signExtend 64 + off.signExtend 64 := by
  have h : subBits z = 0 := by simp [subBits, show z ≠ 5 by omega, show z ≠ 6 by omega]
  rw [effective, if_pos h, word64_add, word64_add, word64_toNat, word64_toInt, word64_toInt]

/-- A sub-byte size: the place counted in bits, as a byte address and a bit in it (R141). -/
theorem effective_bits (base : Word64) (v : Word32) (off : BitVec 22) {z n : Nat} (hn : subBits z = n) (h0 : n ≠ 0) :
    let pos : Int := 8 * (base.toNat + (off.signExtend 64 : Word64).toInt) + n * v.toInt
    (effective base v off.toInt z).1.toInt % 2 ^ 64 = pos / 8 % 2 ^ 64
      ∧ ((effective base v off.toInt z).2.toNat : Int) = pos % 8 := by
  have ho : (off.signExtend 64 : Word64).toInt = off.toInt := BitVec.toInt_signExtend_of_le (by decide)
  have hs : ¬ subBits z = 0 := hn ▸ h0
  rw [ho, effective, if_neg hs, hn]
  refine ⟨?_, ?_⟩
  · dsimp only [word64]
    rw [BitVec.toInt_ofInt]
    exact Int.bmod_emod
  · rw [BitVec.toNat_ofInt]
    omega

/-- The immediate of a stack access: imm10 with its sign, or HIMM's payload above it (R51). -/
theorem Hints.imm_eq (h : Hints) (i : BitVec 10) : word64 (h.imm i).toInt = match h.himm with
    | none => i.signExtend 64
    | some p => (p ++ i : BitVec 32).signExtend 64 := by
  rw [word64_toInt, Hints.imm]
  cases h.himm with
  | none => exact congrArg (BitVec.ofInt 64) (BitVec.toInt_signExtend_of_le (by decide))
  | some p =>
    have hp : BitVec.ofNat 32 (p.toNat * 1024 + i.toNat) = (p ++ i : BitVec 32) := by
      apply BitVec.eq_of_toNat_eq
      have h1 := p.isLt
      have h2 := i.isLt
      rw [toNat_append_eq_add, BitVec.toNat_ofNat, Nat.mod_eq_of_lt (by omega)]
      rfl
    exact congrArg (BitVec.signExtend 64) hp

theorem Job.accesses_stack {j : Job} (h : j.stack = true) (l : Fin 32) : j.accesses l =
    (List.range (j.kind.bytes / 4)).map fun k => (j.ea[l] + BitVec.ofNat 64 (128 * k), 4) := by
  rw [Job.accesses, if_pos h]

/-- The size of a stack access in bytes. -/
theorem stackJob_bytes (st : Bool) (t : Fin 64) {n : Nat} (hn : n = 1 ∨ n = 2 ∨ n = 4) (i : BitVec 10) (w : Warp)
    (h : Hints) : (stackJob st t n i w h).kind.bytes = 4 * n := by
  rcases hn with rfl | rfl | rfl <;> cases st <;> rfl

/-- Word `k` of a lane of a stack access (R149). -/
theorem stackJob_accesses (st : Bool) (t : Fin 64) {n : Nat} (hn : n = 1 ∨ n = 2 ∨ n = 4) (i : BitVec 10) (w : Warp)
    (h : Hints) (l : Fin 32) {k : Nat} (hk : k < n) : ((stackJob st t n i w h).accesses l)[k]? =
      some (w.readS 62 + 32 * word64 (h.imm i).toInt + BitVec.ofNat 64 (128 * k + 4 * l.val), 4) := by
  have hea : (stackJob st t n i w h).ea[l] =
      w.readS 62 + 32 * word64 (h.imm i).toInt + BitVec.ofNat 64 (4 * l.val) := by
    simp only [stackJob, Fin.getElem_fin, Vector.getElem_ofFn, word64_add, word64_mul, word64_toNat]
    rw [← word64_natCast (4 * l.val), Nat.cast_mul, word64_mul]
    rfl
  have hb : (stackJob st t n i w h).kind.bytes / 4 = n := by rw [stackJob_bytes st t hn]; omega
  have hacc : (stackJob st t n i w h).accesses l =
      (List.range n).map fun k => ((stackJob st t n i w h).ea[l] + BitVec.ofNat 64 (128 * k), 4) := by
    rw [Job.accesses_stack rfl, hb]
  rw [hacc, List.getElem?_map, List.getElem?_range hk, Option.map_some, hea]
  rw [BitVec.add_assoc, ← BitVec.ofNat_add, Nat.add_comm (4 * l.val)]

/-- The address of a lane of an atomic (R221). -/
theorem atomEa_eq (w : Warp) (a : Fin 64) (loc : Bool) (h : Hints) (l : Fin 32) : atomEa w a loc h l =
    (if loc then (w.v[a][l]).setWidth 64 else (w.v[regAt a 1][l] ++ w.v[a][l] : BitVec 64))
      + (h.himm.getD 0).signExtend 64 := by
  have hoff : word64 h.offset = (h.himm.getD 0).signExtend 64 := word64_toInt _
  rw [atomEa, word64_add, hoff]
  cases loc with
  | false => rw [if_neg Bool.false_ne_true, if_neg Bool.false_ne_true, word64_toNat, Warp.pair]
  | true => rw [if_pos rfl, if_pos rfl, word64_natCast, BitVec.ofNat_toNat]

/-- Settles O23. -/
theorem effectiveAddresses : Obligations.EffectiveAddresses := by
  unfold Obligations.EffectiveAddresses
  refine ⟨fun st nt t a b z p w h l => ?_, fun st t n i w h l k hn hk => ?_, fun op d a b ty loc ret w h l => ?_⟩
  · have hea : (mJob st nt t a b z p w h).ea[l] = (effective (w.readS b) (w.v[a][l]) h.offset z.val).1 := by
      simp only [mJob, Fin.getElem_fin, Vector.getElem_ofFn]
    have hbits : (mJob st nt t a b z p w h).bits[l] = (effective (w.readS b) (w.v[a][l]) h.offset z.val).2 := by
      simp only [mJob, Fin.getElem_fin, Vector.getElem_ofFn]
    intro j off
    refine ⟨fun hz => hea.trans (effective_bytes _ _ _ hz), fun hz => ?_⟩
    rw [hea, hbits]
    rcases hz with hz | hz
    · rw [if_pos hz]
      exact effective_bits _ _ _ (by rw [hz]; rfl) (by decide)
    · rw [if_neg (by omega)]
      exact effective_bits _ _ _ (by rw [hz]; rfl) (by decide)
  · have hacc := stackJob_accesses st t hn i w h l hk
    rw [Hints.imm_eq] at hacc
    exact hacc
  · simp only [atomJob, Fin.getElem_fin, Vector.getElem_ofFn]
    exact atomEa_eq w a loc h l

end Sys2Proof.Machine
end

section
/-! The values of FP32 codes, and what the model's comparisons of them see (R101, R102, R110–R112). -/

set_option Elab.async false

namespace Sys2Proof.Machine

/-- The value that an exact value without a remainder is. -/
def Exact.value : Exact → Value
  | .nan => .nan
  | .inf s => .inf s
  | .fin s m e _ => .num s ((if s then -1 else 1) * (m * (2 : ℚ) ^ e))

theorem Exact.value_eq_nan (a : Exact) : a.value = .nan ↔ a = .nan := by cases a <;> simp [Exact.value]

/-! ## Comparisons -/

theorem scaleTo_cast (m : Nat) {e low : Int} (h : low ≤ e) : (scaleTo m e low : ℚ) * 2 ^ low = m * 2 ^ e := by
  have he : (2 : ℚ) ^ (e - low).toNat = 2 ^ (e - low) := by rw [← zpow_natCast, Int.toNat_of_nonneg (by omega)]
  rw [scaleTo, Nat.cast_mul, Nat.cast_pow, Nat.cast_ofNat, he, mul_assoc, ← zpow_add₀ two_ne_zero, sub_add_cancel]

theorem magLt_iff (m : Nat) (e : Int) (n : Nat) (f : Int) :
    magLt m e n f = decide ((m : ℚ) * 2 ^ e < n * 2 ^ f) := by
  have h2 : (0 : ℚ) < 2 ^ min e f := by positivity
  rw [magLt, Bool.eq_iff_iff, decide_eq_true_eq, decide_eq_true_eq, ← scaleTo_cast m (min_le_left e f),
    ← scaleTo_cast n (min_le_right e f), mul_lt_mul_iff_left₀ h2, Nat.cast_lt]

/-- The model's order is that of the values; the zeros are equal. -/
theorem Exact.lt_value (a b : Exact) : a.lt false b = a.value.less b.value := by
  cases a with
  | nan => cases b <;> rfl
  | inf s => cases b <;> rfl
  | fin s m e k =>
    cases b with
    | nan => rfl
    | inf t => rfl
    | fin t n f j =>
      have hm : (0 : ℚ) ≤ m * 2 ^ e := by positivity
      have hn : (0 : ℚ) ≤ n * 2 ^ f := by positivity
      have hm0 : (m : ℚ) * 2 ^ e = 0 ↔ m = 0 := by
        rw [mul_eq_zero_iff_right (zpow_ne_zero e two_ne_zero), Nat.cast_eq_zero]
      have hn0 : (n : ℚ) * 2 ^ f = 0 ↔ n = 0 := by
        rw [mul_eq_zero_iff_right (zpow_ne_zero f two_ne_zero), Nat.cast_eq_zero]
      simp only [Exact.lt, Exact.value, Value.less, magLt_iff, Bool.and_eq_true, decide_eq_true_eq, Bool.false_and]
      generalize (m : ℚ) * 2 ^ e = p at *
      generalize (n : ℚ) * 2 ^ f = q at *
      split
      next h =>
        have hp := hm0.2 h.1
        have hq := hn0.2 h.2
        simp [hp, hq]
      next h =>
        have hpq : ¬ (p = 0 ∧ q = 0) := by rwa [hm0, hn0]
        cases s <;> cases t
        · simp
        · have : ¬ p < -q := by linarith
          simpa using this
        · have : -p < q := lt_of_le_of_ne (by linarith) fun he => hpq (by constructor <;> linarith)
          simpa using this
        · simp

theorem exactNan_value (a b : Exact) : exactNan a b = (decide (a.value = .nan) || decide (b.value = .nan)) := by
  simp only [exactNan, Exact.value_eq_nan]
  cases a <;> cases b <;> rfl

/-- Of values that are not NaN, one is less, or the other, or they are equal. -/
theorem Value.same_eq {v w : Value} (hv : v ≠ .nan) (hw : w ≠ .nan) : v.same w = (!v.less w && !w.less v) := by
  cases v with
  | nan => exact absurd rfl hv
  | inf s =>
    cases w with
    | nan => exact absurd rfl hw
    | inf t => cases s <;> cases t <;> rfl
    | num t q => cases s <;> rfl
  | num s p =>
    cases w with
    | nan => exact absurd rfl hw
    | inf t => cases t <;> rfl
    | num t q =>
      rw [Bool.eq_iff_iff]
      simp only [Value.same, Value.less, Bool.and_eq_true, Bool.not_eq_true', decide_eq_false_iff_not,
        decide_eq_true_eq, not_lt]
      exact ⟨fun h => ⟨h.ge, h.le⟩, fun h => le_antisymm h.2 h.1⟩

theorem Value.less_nan (v : Value) : v.less .nan = false := by cases v <;> rfl
theorem Value.same_nan (v : Value) : v.same .nan = false := by cases v <;> rfl

theorem exactEq_value (a b : Exact) : exactEq a b = a.value.same b.value := by
  rw [exactEq, exactNan_value, Exact.lt_value, Exact.lt_value]
  by_cases ha : a.value = .nan
  · rw [ha]; rfl
  by_cases hb : b.value = .nan
  · rw [hb, Value.same_nan]; simp
  · simp [Value.same_eq ha hb, ha, hb]

theorem exactLt_value (a b : Exact) : (!exactNan a b && a.lt false b) = a.value.less b.value := by
  rw [exactNan_value, Exact.lt_value]
  by_cases ha : a.value = .nan
  · rw [ha]; rfl
  by_cases hb : b.value = .nan
  · rw [hb, Value.less_nan]; simp
  · simp [ha, hb]

theorem Value.less_or_same {v w : Value} (hv : v ≠ .nan) (hw : w ≠ .nan) :
    (v.less w || v.same w) = !w.less v := by
  cases v with
  | nan => exact absurd rfl hv
  | inf s =>
    cases w with
    | nan => exact absurd rfl hw
    | inf t => cases s <;> cases t <;> rfl
    | num t q => cases s <;> rfl
  | num s p =>
    cases w with
    | nan => exact absurd rfl hw
    | inf t => cases t <;> rfl
    | num t q =>
      rw [Bool.eq_iff_iff]
      simp only [Value.same, Value.less, Bool.or_eq_true, Bool.not_eq_true', decide_eq_false_iff_not,
        decide_eq_true_eq, not_lt]
      exact le_iff_lt_or_eq.symm

theorem exactLe_value (a b : Exact) :
    (!exactNan a b && !b.lt false a) = (a.value.less b.value || a.value.same b.value) := by
  rw [exactNan_value, Exact.lt_value]
  by_cases ha : a.value = .nan
  · rw [ha]; rfl
  by_cases hb : b.value = .nan
  · rw [hb, Value.less_nan, Value.same_nan]; simp
  · simp [Value.less_or_same ha hb, ha, hb]

/-! ## FP32 codes -/

/-- FP32 as R111 lays it out. -/
def fp32 : BinaryFormat := .mk 8 23 127 true ((2 - 1 / 2 ^ 23) * 2 ^ 127) (some 0x7FC00000)

theorem valueOf_fp32 (c z : Nat) : valueOf 0 c z = fp32.value c := rfl

/-- What the decoder reads in an FP32 code: sign and magnitude (R111, R112). -/
theorem decodeFp_fp32 (c : Nat) : decodeFp 0 c =
    if c % 2 ^ 31 = 255 * 2 ^ 23 then (.inf (c.testBit 31), 0)
    else if 255 * 2 ^ 23 < c % 2 ^ 31 then (.nan, flagIf (decide (c % 2 ^ 31 % 2 ^ 23 < 2 ^ 22)) fNV)
    else (.fin (c.testBit 31) (fpMagnitude 0 (c % 2 ^ 31)).1 (fpMagnitude 0 (c % 2 ^ 31)).2 false, 0) := by
  have hs : c.testBit 31 = (c / 2 ^ 31 % 2 == 1) := Nat.testBit_eq_decide_div_mod_eq
  rw [hs]
  simp [decodeFp, fpParams, hasInf]

/-- The value of an FP32 code, by its magnitude. -/
theorem fp32_value (c : Nat) : fp32.value c =
    let g := c % 2 ^ 31
    let sign : ℚ := if c.testBit 31 then -1 else 1
    if g / 2 ^ 23 = 255 then
      if g % 2 ^ 23 = 0 then (.inf (c.testBit 31), false) else (.nan, decide (g % 2 ^ 23 < 2 ^ 22))
    else (.num (c.testBit 31) (if g / 2 ^ 23 = 0 then sign * 2 ^ (1 - 127 : ℤ) * ((g % 2 ^ 23 : ℕ) / 2 ^ 23)
        else sign * 2 ^ ((g / 2 ^ 23 : ℕ) - 127 : ℤ) * (1 + (g % 2 ^ 23 : ℕ) / 2 ^ 23)), false) := by
  have he : c / 2 ^ 23 % 2 ^ 8 = c % 2 ^ 31 / 2 ^ 23 := by omega
  have hf : c % 2 ^ 23 = c % 2 ^ 31 % 2 ^ 23 := by omega
  obtain ⟨s, hs⟩ : ∃ s, c.testBit 31 = s := ⟨_, rfl⟩
  simp only [BinaryFormat.value, fp32, he, hf, Nat.reduceAdd, hs]
  generalize c % 2 ^ 31 / 2 ^ 23 = e
  generalize c % 2 ^ 31 % 2 ^ 23 = r
  by_cases htop : e = 255
  · subst htop
    simp
  · by_cases h0 : e = 0
    · subst h0
      cases s <;> simp
    · cases s <;> simp [htop, h0]

/-- A finite code: subnormal where its exponent is 0, else with the hidden bit. -/
theorem fpMagnitude_value (s : Bool) (g : Nat) :
    (Exact.fin s (fpMagnitude 0 g).1 (fpMagnitude 0 g).2 false).value = .num s (if g / 2 ^ 23 = 0
      then (if s then -1 else 1) * 2 ^ (1 - 127 : ℤ) * ((g % 2 ^ 23 : ℕ) / 2 ^ 23)
      else (if s then -1 else 1) * 2 ^ ((g / 2 ^ 23 : ℕ) - 127 : ℤ) * (1 + (g % 2 ^ 23 : ℕ) / 2 ^ 23)) := by
  have h2 : (2 : ℚ) ^ (-23 : ℤ) = 1 / 2 ^ 23 := by norm_num
  by_cases h : g / 2 ^ 23 = 0
  · simp only [fpMagnitude, fpParams, h, if_true, Exact.value, Value.num.injEq, true_and]
    rw [show (1 - ((127 : ℕ) : ℤ) - ((23 : ℕ) : ℤ) : ℤ) = (1 - 127) + (-23) by norm_num, zpow_add₀ two_ne_zero, h2]
    ring
  · simp only [fpMagnitude, fpParams, h, if_false, Exact.value, Value.num.injEq, true_and]
    rw [show (((g / 2 ^ 23 : ℕ) : ℤ) - ((127 : ℕ) : ℤ) - ((23 : ℕ) : ℤ) : ℤ) = ((g / 2 ^ 23 : ℕ) - 127) + (-23) by
      push_cast; ring, zpow_add₀ two_ne_zero, h2]
    push_cast
    ring

/-- The decoder of FP32: the value of a code, and invalid where it is a signalling NaN. -/
theorem decode32_eq (x : Word32) : (decode32 x).1.value = (valueOf 0 x.toNat 0).1
    ∧ (decode32 x).2 = if (valueOf 0 x.toNat 0).2 then fNV else 0 := by
  rw [valueOf_fp32, decode32, decodeFp_fp32, fp32_value]
  generalize x.toNat.testBit 31 = s
  have hg : x.toNat % 2 ^ 31 < 2 ^ 31 := Nat.mod_lt _ (by decide)
  generalize x.toNat % 2 ^ 31 = g at *
  dsimp only
  by_cases htop : g / 2 ^ 23 = 255
  · by_cases hfrac : g % 2 ^ 23 = 0
    · rw [if_pos (by omega), if_pos htop, if_pos hfrac]
      exact ⟨rfl, rfl⟩
    · rw [if_neg (by omega), if_pos (by omega), if_pos htop, if_neg hfrac]
      exact ⟨rfl, rfl⟩
  · rw [if_neg (by omega), if_neg (by omega), if_neg htop]
    exact ⟨fpMagnitude_value s g, rfl⟩

/-- A comparison of two FP32 elements, in the values that they stand for. -/
theorem fpCompare_eq (quiet : Bool) {f : Exact → Exact → Bool} {v : Value → Value → Bool}
    (hf : ∀ a b, f a b = v a.value b.value) (p q : Word32) : fpCompare quiet f p q =
      (let x := valueOf 0 p.toNat 0
       let y := valueOf 0 q.toNat 0
       (v x.1 y.1, if x.2 ∨ y.2 ∨ (quiet = false ∧ (x.1 = .nan ∨ y.1 = .nan)) then fNV else 0)) := by
  obtain ⟨hp, hp2⟩ := decode32_eq p
  obtain ⟨hq, hq2⟩ := decode32_eq q
  dsimp only
  rw [← hp, ← hq]
  simp only [fpCompare, hf, hp2, hq2, Exact.value_eq_nan]
  congr 1
  generalize (valueOf 0 p.toNat 0).2 = i
  generalize (valueOf 0 q.toNat 0).2 = j
  have hn : ∀ a : Exact, (a == .nan) = decide (a = .nan) := fun a => rfl
  simp only [hn]
  by_cases h1 : (decode32 p).1 = .nan <;> by_cases h2 : (decode32 q).1 = .nan <;> cases quiet <;> cases i <;> cases j <;>
    simp [h1, h2, flagIf]

end Sys2Proof.Machine
end

section
/-! Obligation O18: the instructions on mask registers, and the vector compares (R90, R101, R102). -/

set_option Elab.async false

namespace Sys2Proof.Machine

/-! ## Issue -/

/-- Whether a unit is ready does not turn on the conditions that it has been found to meet. -/
theorem State.Ready.of_legal {s : State} {n : Need} (h : s.Ready n) {b : Bool} (hb : b = true) :
    s.Ready { n with legal := b } := by
  obtain ⟨h1, h2, _, h4, h5, h6, h7, h8⟩ := h
  exact ⟨h1, (hintsLegal_congr _ rfl rfl rfl rfl).trans h2, hb, h4, h5, h6, h7, h8⟩

/-- A unit that reads fewer registers needs no more. -/
theorem State.Ready.of_srcs {s : State} {qs rs : List (Reg × Bool)} (h : s.Ready { srcs := qs }) (hr : ∀ q ∈ rs, q ∈ qs) :
    s.Ready { srcs := rs } := by
  obtain ⟨h1, h2, h3, h4, h5, h6, h7, h8⟩ := h
  exact ⟨h1, (hintsLegal_congr _ rfl rfl rfl rfl).trans h2, h3, h4, h5, h6, fun q hq => h7 q (hr q hq),
    h8.imp_right fun hc q hq => hc q (hr q hq)⟩

/-- A unit that fails a condition of R57 is no instruction. -/
theorem State.gate_illegal (s : State) {n : Need} (h : n.denied = false) (hl : n.legal = false) :
    s.gate n = .trap .illenc := by
  simp [State.gate, h, hl]

/-! ## Lanes of a mask -/

theorem lanesOf_val (m : Word32) : (lanesOf m).map Fin.val = (List.range 32).filter fun i => m.getLsbD i := by
  rw [← List.map_coe_finRange_eq_range, List.filter_map]
  rfl

theorem popCount_eq_length (m : Word32) : popCount m = (lanesOf m).length := by
  rw [← List.length_map (as := lanesOf m) Fin.val, lanesOf_val]
  rfl

theorem firstSet_eq_head (m : Word32) : firstSet m = ((lanesOf m).head?.map Fin.val).getD 32 := by
  rw [← List.head?_map, lanesOf_val, List.head?_filter]
  rfl

/-! ## Results in mask registers -/

/-- A unit that writes a mask register, where its sources are ready. -/
theorem maskUnit_did {s : State} {n : Need} (h : s.Ready n) (d : Fin 8) (x : State → Word32) :
    MaskDid s (s.issue { n with legal := d != 0 } fun s => s.maskResult d (x s)) d (x s) := by
  refine ⟨fun hd => ?_, ?_⟩
  · rw [State.issue_ready (h.of_legal (by simpa using hd))]
    simp only [State.maskResult, State.onWarp, Warp.writeM, if_neg hd]
    exact ⟨_, rfl, rfl, rfl⟩
  · rintro rfl hh
    exact State.issue_traps hh (s.gate_illegal (n := { n with legal := (0 : Fin 8) != 0 }) h.allowed.1 rfl) _

/-- A mask delivered to a scalar register. -/
theorem maskToScalar_did {s : State} (hp : s.Prompt) {d : Fin 64} {a : Fin 8}
    (h : s.Ready { dests := [.s d], srcs := [(.m a, false)] }) (f : Word32 → Word64) :
    ScalarDid s (maskToScalar f d a s) d (f (s.mask a)) := by
  obtain ⟨h1, h2, h3⟩ := State.scalarResult_did hp d (f (s.mask a))
  exact ⟨_, State.issue_ready h _, h1, h2, h3⟩

theorem exec_maskTable : ∀ e ∈ maskTable, ∀ (s : State) (d a b : Fin 8),
    s.Ready { srcs := [(.m a, false), (.m b, false)] } → MaskDid s (exec (e.1 d a b) s) d (e.2 (s.mask a) (s.mask b)) := by
  have both : ∀ (f : Word32 → Word32 → Word32) (s : State) (d a b : Fin 8),
      s.Ready { srcs := [(.m a, false), (.m b, false)] } → MaskDid s (mask2 f d a b s) d (f (s.mask a) (s.mask b)) :=
    fun f s d a b h => maskUnit_did h d fun s => f (s.warp.readM a) (s.warp.readM b)
  simp only [maskTable, List.forall_mem_cons]
  exact ⟨both (fun p q => p &&& q), both (fun p q => p ||| q), both (fun p q => p ^^^ q), both (fun p q => p &&& ~~~q),
    fun s d a b h => both (fun p _ => ~~~p) s d a a (h.of_srcs (by simp)), by simp⟩

/-! ## Words -/

theorem encode_s3 {i : Instr} {e op sd sa sb fn : Nat} {xa xb : Bool} (h : word? i = some e)
    (he : e = op * 2 ^ 26 + sd * 2 ^ 20 + sa * 2 ^ 14 + sb * 2 ^ 8 + fn * 2 ^ 2 + xa.toNat * 2 + xb.toNat) :
    encode i = [s3Word op sd sa sb fn xa xb] := by
  simp only [encode, h, he, s3Word]

/-- A word outside the privileged majors that decodes to nothing raises ILLENC where it is fetched. -/
theorem illegal_of_undecoded {w : BitVec 32} (hd : decodeWord w = none) (hm : w.toNat / 2 ^ 26 ∉ [0x3A, 0x3B]) :
    Illegal w := by
  refine ⟨hd, fun s b f g x e loc hi hf hb hh => ?_⟩
  have hn : decodeBytes (g.mem.readBytes loc 4) = none := by
    rw [hb, ← List.append_nil (bytesOfWord w), Laws.RoundTrip.decodeBytes_bytesOfWord, hd]
    rfl
  have hlast : g.mem.read (loc + 3) = BitVec.ofNat 8 (w.toNat / 16777216) := by
    simp only [Memory.readBytes, bytesOfWord, List.cons.injEq] at hb
    obtain ⟨-, -, -, h3, -⟩ := hb
    exact h3
  have hmajor : (g.mem.read (loc + 3)).toNat / 4 = w.toNat / 2 ^ 26 := by
    have := w.isLt
    rw [hlast, BitVec.toNat_ofNat]
    omega
  obtain ⟨t, c, hs, ht, hc, -⟩ := step_undecoded hi hf hn hh
  rw [hmajor] at hc
  obtain rfl := hc (.inr hm)
  exact ⟨t, hs, ht⟩

/-- The codes and the fields that major 0x0D leaves without an instruction (R90). -/
theorem decode0D_reserved {w : Nat} (h :
    let fn := w / 2 ^ 2 % 2 ^ 6
    11 ≤ fn ∨ (1 ≤ fn ∧ ((fn ∈ [1, 3, 4, 5, 6, 7, 10] ∧ 8 ≤ w / 2 ^ 20 % 2 ^ 6) ∨ (fn ≠ 1 ∧ 8 ≤ w / 2 ^ 14 % 2 ^ 6)
      ∨ (fn ∈ [3, 4, 5, 6] ∧ 8 ≤ w / 2 ^ 8 % 2 ^ 6) ∨ (fn ∉ [3, 4, 5, 6] ∧ w / 2 ^ 8 % 2 ^ 6 ≠ 0)
      ∨ (fn ≠ 1 ∧ w / 2 ^ 1 % 2 ^ 1 ≠ 0) ∨ w / 2 ^ 0 % 2 ^ 1 ≠ 0))) : decode0D w = none := by
  simp only [List.mem_cons, List.not_mem_nil, or_false] at h
  unfold decode0D
  split
  case h_12 => rfl
  case h_1 k => omega
  all_goals next k => exact if_neg (by omega)

/-! ## Compares -/

theorem foldl_or_eq_orFlags {α : Type} (g : α → BitVec 5) (l : List α) (c : BitVec 5) :
    l.foldl (fun f x => f ||| g x) c = c ||| orFlags (l.map g) := by
  have key : ∀ (l : List (BitVec 5)) (a : BitVec 5), l.foldl (fun a b => a ||| b) a = a ||| orFlags l := by
    intro l
    induction l with
    | nil => intro a; simp [orFlags]
    | cons b l ih =>
      intro a
      have hb : orFlags (b :: l) = b ||| orFlags l := by
        rw [orFlags, List.foldl_cons, ih, show (0 : BitVec 5) ||| b = b from BitVec.zero_or]
      rw [List.foldl_cons, ih, hb, BitVec.or_assoc]
  rw [← key, List.foldl_map]

/-- What a comparison of FP32 elements holds and raises, in the values that they stand for (R101, R102). -/
def valueCompare (quiet : Bool) (v : Value → Value → Bool) (p q : Word32) : Bool × BitVec 5 :=
  let x := valueOf 0 p.toNat 0
  let y := valueOf 0 q.toNat 0
  (v x.1 y.1, if x.2 ∨ y.2 ∨ (quiet = false ∧ (x.1 = .nan ∨ y.1 = .nan)) then fNV else 0)

theorem fpCompare_eq_valueCompare (quiet : Bool) {f : Exact → Exact → Bool} {v : Value → Value → Bool}
    (hf : ∀ a b, f a b = v a.value b.value) : fpCompare quiet f = valueCompare quiet v :=
  funext fun p => funext fun q => fpCompare_eq quiet hf p q

theorem compareTable_eq : compareTable =
    [(.vceq, fun p q => (p == q, 0)), (.vcne, fun p q => (p != q, 0)), (.vclt, fun p q => (p.slt q, 0)),
     (.vcle, fun p q => (p.sle q, 0)), (.vcltz, fun p q => (p.ult q, 0)), (.vclez, fun p q => (p.ule q, 0)),
     (.fceq, valueCompare true Value.same), (.fcne, valueCompare true fun p q => !p.same q),
     (.fclt, valueCompare false Value.less), (.fcle, valueCompare false fun p q => p.less q || p.same q),
     (.fcun, valueCompare true fun p q => decide (p = .nan) || decide (q = .nan))] := rfl

/-- The compares of the table are compares of the function that it gives. -/
theorem exec_compareTable : ∀ e ∈ compareTable, ∀ (s : State) (m : Fin 8) (a b : Fin 64) (x y : Bool),
    exec (e.1 m a b x y) s = compare e.2 m a b x y s := by
  have ne : fpCompare true (fun p q => !exactEq p q) = valueCompare true fun p q => !p.same q :=
    fpCompare_eq_valueCompare true fun a b => congrArg not (exactEq_value a b)
  have le : fpCompare false (fun p q => !exactNan p q && !q.lt false p) =
      valueCompare false fun p q => p.less q || p.same q := fpCompare_eq_valueCompare false exactLe_value
  have un : fpCompare true exactNan = valueCompare true fun p q => decide (p = .nan) || decide (q = .nan) :=
    fpCompare_eq_valueCompare true exactNan_value
  simp only [compareTable_eq, List.forall_mem_cons]
  refine ⟨?_, ?_, ?_, ?_, ?_, ?_, ?_, ?_, ?_, ?_, ?_, by simp⟩ <;> intro s m a b x y
  · rfl
  · rfl
  · rfl
  · rfl
  · rfl
  · rfl
  · exact congrArg (compare · m a b x y s) (fpCompare_eq_valueCompare true exactEq_value)
  · exact congrArg (compare · m a b x y s) ne
  · exact congrArg (compare · m a b x y s) (fpCompare_eq_valueCompare false exactLt_value)
  · exact congrArg (compare · m a b x y s) le
  · exact congrArg (compare · m a b x y s) un

section Compare

variable {s : State} {m : Fin 8} {a b : Fin 64} {x y : Bool} (f : Word32 → Word32 → Bool × BitVec 5)

/-- What a compare needs of a fragment whose hints are legal and whose sources are full. -/
theorem compare_ready (hh : hintsLegal s.warp.frag.hints {} = true) (ha : s.warp.full (.v a) = true)
    (hb : s.warp.full (.v b) = true) : s.Ready { srcs := [(.v a, x), (.v b, y)] } := by
  refine ⟨⟨rfl, rfl⟩, (hintsLegal_congr _ rfl rfl rfl rfl).trans hh, rfl, nofun, rfl, nofun, ?_, .inr ?_⟩
  · simp [ha, hb]
  · simp [Warp.scalarPoison]

theorem Warp.poisonIn_two (w : Warp) (a b : Fin 64) : w.poisonIn [.v a, .v b] = w.vPoison[a] ||| w.vPoison[b] := by
  simp [Warp.poisonIn]

/-- A compare whose lanes read no poison writes their bits of its mask register. -/
theorem compare_writes (h : s.Ready { srcs := [(.v a, x), (.v b, y)] }) (hm : m ≠ 0)
    (hp : (s.warp.vPoison[a] ||| s.warp.vPoison[b]) &&& s.warp.active = 0) (hs : s.Prompt) :
    ∃ t, compare f m a b x y s = .next t
      ∧ t = { s with delays := s.delays.tail, warp := { s.warp with
          m := t.warp.m, fpflags := t.warp.fpflags, frag := t.warp.frag } }
      ∧ s.warp.frag.MovedTo t.warp.frag s.next
      ∧ (∀ k, k ≠ m → t.warp.m[k] = s.warp.m[k])
      ∧ (∀ l : Fin 32, t.warp.m[m][l] =
          if s.warp.active[l] then (f s.warp.v[a][l] s.warp.v[b][l]).1 else s.warp.m[m][l])
      ∧ t.warp.fpflags = (lanesOf s.warp.active).foldl (fun f' l => f' ||| (f s.warp.v[a][l] s.warp.v[b][l]).2)
          s.warp.fpflags := by
  have hr : s.Ready { srcs := [(.v a, x), (.v b, y)], legal := m != 0 } := h.of_legal (by simpa using hm)
  rw [compare, State.issue_ready hr]
  dsimp only
  rw [Warp.poisonIn_two, if_neg (by simpa using hp), State.finish_prompt hs, foldl_or_eq_orFlags]
  simp only [Warp.applyAll, List.foldl_nil, State.onWarp, Warp.mergeM, Warp.writeM, if_neg hm]
  refine ⟨_, rfl, rfl, rfl, fun k hk => ?_, fun l => ?_, rfl⟩
  · simp only [State.advance, State.onWarp, Warp.advance, Warp.goto, Fin.getElem_fin]
    exact Vector.getElem_set_ne _ _ fun e => hk (Fin.ext e.symm)
  · simp only [State.advance, State.onWarp, Warp.advance, Warp.goto, Fin.getElem_fin, Vector.getElem_set_self]
    have hl := getLsbD_maskOf (fun l : Fin 32 => (f s.warp.v[a][l] s.warp.v[b][l]).1) l
    cases hact : s.warp.active[l] <;> simp_all [BitVec.getLsbD_eq_getElem]

/-- A compare that reads poison in a lane that takes part raises POISON. -/
theorem compare_poison (h : s.Ready { srcs := [(.v a, x), (.v b, y)] }) (hm : m ≠ 0)
    (hp : (s.warp.vPoison[a] ||| s.warp.vPoison[b]) &&& s.warp.active ≠ 0) (hs : s.Handles) :
    Traps s (compare f m a b x y s) .poison := by
  refine State.issue_ready_traps hs (n := { srcs := [(.v a, x), (.v b, y)], legal := m != 0 })
    (h.of_legal (by simpa using hm)) _ ?_
  dsimp only
  rw [Warp.poisonIn_two, if_pos hp]

/-- m0 is no destination of a compare. -/
theorem compare_illegal (h : s.Handles) : Traps s (compare f 0 a b x y s) .illenc :=
  State.issue_traps h (s.gate_illegal rfl rfl) _

end Compare

/-- Settles O18: each mask instruction, the words of major 0x0D, and each compare. -/
theorem comparesAndMasks : Obligations.ComparesAndMasks := by
  unfold Obligations.ComparesAndMasks
  refine ⟨⟨exec_maskTable, fun s d a h => maskUnit_did h d fun s => s.warp.readM a &&& ~~~s.warp.dead,
      fun s d a x h => maskUnit_did h d fun s => (s.warp.readS a).setWidth 32, fun s d a hp h => ⟨?_, ?_, ?_⟩⟩,
    ⟨fun s => ⟨rfl, fun k hk => if_neg hk⟩, fun d a b r x => ?_, fun w hw => ?_⟩, fun e he s m a b x y hh ha hb => ?_⟩
  · exact maskToScalar_did hp h fun m => m.setWidth 64
  · rw [← popCount_eq_length]
    exact maskToScalar_did hp h fun m => BitVec.ofNat 64 (popCount m)
  · rw [← firstSet_eq_head]
    exact maskToScalar_did hp h fun m => BitVec.ofNat 64 (firstSet m)
  · refine ⟨encode_s3 rfl ?_, encode_s3 rfl ?_, encode_s3 rfl ?_, encode_s3 rfl ?_, encode_s3 rfl ?_, encode_s3 rfl ?_,
      encode_s3 rfl ?_, encode_s3 rfl ?_, encode_s3 rfl ?_, encode_s3 rfl ?_⟩ <;>
    · simp only [Bool.toNat_false]
      omega
  · intro fn toMask pair h
    have hmajor : w.toNat / 67108864 = 13 := by
      have := w.isLt
      unfold bits at hw
      omega
    refine illegal_of_undecoded ?_ (by rw [show w.toNat / 2 ^ 26 = 13 from hmajor]; decide)
    rw [decodeWord, Laws.RoundTrip.raw0D hmajor, decode0D_reserved h]
    rfl
  · intro poison
    rw [exec_compareTable e he]
    have h : s.Ready { srcs := [(.v a, x), (.v b, y)] } := compare_ready hh ha hb
    refine ⟨fun hm hp hs => compare_writes e.2 h hm hp hs, fun hm hp hs => compare_poison e.2 h hm hp hs, ?_⟩
    rintro rfl hs
    exact compare_illegal e.2 hs

end Sys2Proof.Machine
end

section
/-! Obligation O39: CSRR, CSRW, CSRSET and CSRCLR (R64–R66, R301, R327, R328). -/

set_option Elab.async false

namespace Sys2Proof.Machine

/-! ## The registers of a context -/

/-- The value of a register of the context, as the map gives it: the numbers from 0x40 to 0x5F. -/
def Context.csrVal (x : Context) (now c : Nat) : Word64 :=
  let bucket := fun k => (((x.buckets[k]?).getD Bucket.start).settle now).word
  match c with
  | 0x40 => x.plcap.setWidth 64
  | 0x41 => bucket 0
  | 0x42 => bucket 1
  | 0x43 => bucket 2
  | 0x44 => bucket 3
  | 0x48 => x.retrymax.setWidth 64
  | 0x49 => x.affpat.setWidth 64
  | 0x4A => x.dlkperiod.setWidth 64
  | 0x4B => x.parkthr.setWidth 64
  | 0x50 => x.asid.setWidth 64
  | 0x51 => x.ptbase
  | 0x52 => x.landtbl
  | _ => 0

/-- A context whose register has been written. -/
def Context.csrWrite (x : Context) (now c : Nat) (v : Word64) : Context :=
  match c with
  | 0x40 => { x with plcap := v.setWidth 3 }
  | 0x41 | 0x42 | 0x43 | 0x44 =>
    { x with buckets := Vector.ofFn fun i =>
        if i.val + 0x41 = c then (x.buckets[i].settle now).write v.toNat else x.buckets[i] }
  | 0x48 => { x with retrymax := v.setWidth 4 }
  | 0x49 => { x with affpat := v.setWidth 32 }
  | 0x4A => { x with dlkperiod := v.setWidth 32 }
  | 0x4B => { x with parkthr := v.setWidth 32 }
  | 0x50 => { x with asid := v.setWidth 16 }
  | 0x51 => { x with ptbase := v }
  | 0x52 => { x with landtbl := BitVec.ofNat 64 (bitsOf v.toNat 0 57) }
  | _ => x

/-- The numbers of the context's registers. -/
def contextCsrs : List Nat := [0x40, 0x41, 0x42, 0x43, 0x44, 0x48, 0x49, 0x4A, 0x4B, 0x50, 0x51, 0x52]

theorem State.csrVal_context (s : State) {c : Nat} (h : c ∈ contextCsrs) :
    s.csrVal c = s.myContext.csrVal s.clock.toNat c := by
  simp only [contextCsrs, List.mem_cons, List.not_mem_nil, or_false] at h
  rcases h with rfl | rfl | rfl | rfl | rfl | rfl | rfl | rfl | rfl | rfl | rfl | rfl <;> rfl

theorem State.csrWrite_context (s : State) {c : Nat} (h : c ∈ contextCsrs) (v src : Word64) :
    s.csrWrite c v src = s.setContext (s.myContext.csrWrite s.clock.toNat c v) := by
  simp only [contextCsrs, List.mem_cons, List.not_mem_nil, or_false] at h
  rcases h with rfl | rfl | rfl | rfl | rfl | rfl | rfl | rfl | rfl | rfl | rfl | rfl <;> rfl

theorem Context.csrWrite_num (x : Context) (now c : Nat) (v : Word64) : (x.csrWrite now c v).num = x.num := by
  unfold Context.csrWrite
  split <;> rfl

/-- The buckets of a context change by a write to their own register alone. -/
theorem Context.csrWrite_bucket (x : Context) (now c : Nat) (v : Word64) (k : Fin 4) :
    (x.csrWrite now c v).buckets[k] =
      if k.val + 0x41 = c then (x.buckets[k].settle now).write v.toNat else x.buckets[k] := by
  by_cases h : k.val + 0x41 = c
  · subst h
    fin_cases k <;> exact Vector.getElem_ofFn _
  · rw [if_neg h]
    unfold Context.csrWrite
    split
    case h_2 | h_3 | h_4 | h_5 => exact (Vector.getElem_ofFn _).trans (if_neg h)
    all_goals rfl

theorem Context.csrVal_bucket (x : Context) (now : Nat) (k : Fin 4) :
    x.csrVal now (k.val + 0x41) = (x.buckets[k].settle now).word := by
  fin_cases k <;> rfl

/-- A write leaves the context's other registers as they were. -/
theorem Context.csrVal_csrWrite_ne (x : Context) (now : Nat) {c r : Nat} (v : Word64) (h : r ≠ c) :
    (x.csrWrite now c v).csrVal now r = x.csrVal now r := by
  by_cases hk : ∃ k : Fin 4, r = k.val + 0x41
  · obtain ⟨k, rfl⟩ := hk
    rw [csrVal_bucket, csrVal_bucket, csrWrite_bucket, if_neg h]
  · unfold Context.csrWrite
    split
    all_goals
      unfold Context.csrVal
      split <;> simp_all

/-- The low bits of a word, as a field that keeps them shows them. -/
theorem setWidth_setWidth_eq_and (k : Nat) (v : Word64) :
    (v.setWidth k).setWidth 64 = v &&& BitVec.ofNat 64 (2 ^ k - 1) := by
  refine BitVec.eq_of_getLsbD_eq fun i hi => ?_
  simp only [BitVec.getLsbD_setWidth, BitVec.getLsbD_and, BitVec.getLsbD_ofNat, Nat.testBit_two_pow_sub_one, hi,
    decide_true, Bool.true_and, Bool.and_comm]

/-- The bits of a word from one place on, where they stand. -/
theorem ofNat_bitsOf_eq_and (v : Word64) (lo n : Nat) :
    BitVec.ofNat 64 (bitsOf v.toNat lo n * 2 ^ lo) = v &&& BitVec.ofNat 64 ((2 ^ n - 1) * 2 ^ lo) := by
  refine BitVec.eq_of_getLsbD_eq fun i hi => ?_
  simp only [bitsOf, BitVec.getLsbD_and, BitVec.getLsbD_ofNat, Nat.testBit_mul_two_pow, Nat.testBit_mod_two_pow,
    Nat.testBit_div_two_pow, Nat.testBit_two_pow_sub_one]
  by_cases hl : lo ≤ i
  · simp [hl, hi, Bool.and_comm, BitVec.testBit_toNat]
  · simp [hl]

/-- The writable bits of a register of the context are the bits of the word written. -/
theorem Context.csrVal_csrWrite_same (x : Context) (now : Nat) (v : Word64) {c bits : Nat} (h : (c, bits) ∈ writableBits)
    (hc : c ∈ contextCsrs) : (x.csrWrite now c v).csrVal now c = v &&& BitVec.ofNat 64 bits := by
  simp only [writableBits, List.mem_cons, Prod.mk.injEq, List.not_mem_nil, or_false] at h
  rcases h with h | h | h | h | h | h | h | h | h | h
  all_goals obtain ⟨rfl, rfl⟩ := h
  · simp [contextCsrs] at hc
  · simp [contextCsrs] at hc
  · exact setWidth_setWidth_eq_and 3 v
  · exact setWidth_setWidth_eq_and 4 v
  · exact setWidth_setWidth_eq_and 32 v
  · exact setWidth_setWidth_eq_and 32 v
  · exact setWidth_setWidth_eq_and 32 v
  · exact setWidth_setWidth_eq_and 16 v
  · exact (BitVec.and_allOnes (x := v)).symm
  · show BitVec.ofNat 64 (bitsOf v.toNat 0 57) = _
    simpa using ofNat_bitsOf_eq_and v 0 57

/-! ## Token buckets -/

/-- A bucket is up to date: nothing more has come in by `now`. -/
structure Bucket.Settled (b : Bucket) (now : Nat) : Prop where
  since : b.since = now
  frac : b.frac < 256
  empty : b.depth = 0 → b.frac = 0
  fill : b.depth ≠ 0 → b.fill ≤ b.depth
  full : b.depth ≠ 0 → b.fill = b.depth → b.frac = 0

theorem Bucket.settle_settled (b : Bucket) (now : Nat) : (b.settle now).Settled now := by
  unfold settle
  split
  case isTrue h => exact ⟨rfl, by simp, fun _ => rfl, fun hd => absurd h hd, fun hd => absurd h hd⟩
  case isFalse h =>
    refine ⟨rfl, ?_, fun hd => absurd hd h, fun _ => Int.min_le_left _ _, fun _ hf => if_pos hf⟩
    dsimp only
    split <;> omega

theorem Bucket.Settled.settle_eq {b : Bucket} {now : Nat} (h : b.Settled now) : b.settle now = b := by
  obtain ⟨rfl, hfrac, hempty, hfill, hfull⟩ := h
  unfold settle
  split
  case isTrue hd => rw [← hempty hd]
  case isFalse hd =>
    have hmin : min (b.depth : Int) b.fill = b.fill := min_eq_right (hfill hd)
    simp only [Nat.sub_self, Nat.zero_mul, Nat.add_zero, Nat.div_eq_of_lt hfrac, Nat.mod_eq_of_lt hfrac,
      Int.natCast_zero, Int.add_zero, hmin]
    split
    case isTrue hf => rw [← hfull hd hf]
    case isFalse => rfl

/-- What a write of RATE and DEPTH makes of a bucket that is up to date. -/
theorem Bucket.Settled.write_eq {b : Bucket} {now : Nat} (h : b.Settled now) (v : Nat) :
    let depth := v / 2 ^ 16 % 2 ^ 16
    b.write v =
      { rate := v % 2 ^ 16, depth := depth
        fill := if depth = b.depth then b.fill else depth
        frac := if depth = b.depth then b.frac else 0
        since := now } := by
  obtain ⟨rfl, hfrac, hempty, hfill, hfull⟩ := h
  intro depth
  have hb : bitsOf v 16 16 = depth := rfl
  have hr : bitsOf v 0 16 = v % 2 ^ 16 := by simp [bitsOf]
  unfold write
  simp only [hb, hr, Bucket.mk.injEq, true_and, and_true]
  clear_value depth
  by_cases hd : depth = b.depth
  · simp only [hd, if_true]
    split
    case isTrue hf =>
      by_cases h0 : b.depth = 0
      · exact (hempty h0).symm
      · exact (hfull h0 hf).symm
    case isFalse => rfl
  · simp [hd]

theorem Bucket.Settled.write_settled {b : Bucket} {now : Nat} (h : b.Settled now) (v : Nat) : (b.write v).Settled now := by
  obtain ⟨rfl, hfrac, hempty, hfill, hfull⟩ := id h
  rw [h.write_eq v]
  by_cases hd : v / 2 ^ 16 % 2 ^ 16 = b.depth
  · simp only [hd, if_true]
    exact ⟨rfl, hfrac, hempty, hfill, hfull⟩
  · simp only [hd, if_false]
    exact ⟨rfl, by simp, fun _ => rfl, fun _ => le_refl _, fun _ _ => rfl⟩

/-! ## A register read and written -/

/-- Nothing differs but what a CSR instruction may change. -/
structure State.CsrFrame (s t : State) : Prop where
  world : t = { s with warp := t.warp, contexts := t.contexts }
  warp : t.warp = { s.warp with
    s := t.warp.s, sFull := t.warp.sFull, sPoison := t.warp.sPoison, fpflags := t.warp.fpflags
    dsrc := t.warp.dsrc, trapvec := t.warp.trapvec, frag := t.warp.frag }

/-- A register reads as before where the field that it shows is as before. -/
theorem State.CsrFrame.csrVal_eq {s t : State} (h : s.CsrFrame t) {r : Nat}
    (hA : r = 0x0A → t.warp.dsrc = s.warp.dsrc) (hB : r = 0x0B → t.warp.fpflags = s.warp.fpflags)
    (hT : r = 0x14 → t.warp.trapvec = s.warp.trapvec)
    (hx : r ∈ contextCsrs → t.myContext.csrVal s.clock.toNat r = s.myContext.csrVal s.clock.toNat r) :
    t.csrVal r = s.csrVal r := by
  obtain ⟨hw, hu⟩ := h
  by_cases hr : r ∈ contextCsrs
  · have hc : t.clock = s.clock := by rw [hw]
    rw [csrVal_context t hr, csrVal_context s hr, hc, hx hr]
  · generalize t.warp = u at *
    generalize t.contexts = xs at *
    generalize u.s = u1, u.sFull = u2, u.sPoison = u3, u.fpflags = u4, u.dsrc = u5, u.trapvec = u6,
      u.frag = u7 at hu hA hB hT
    subst hu hw
    unfold State.csrVal
    split
    case h_10 => exact congrArg (BitVec.setWidth 64) (hA rfl)
    case h_11 => exact congrArg (BitVec.setWidth 64) (hB rfl)
    case h_19 => exact hT rfl
    case h_26 | h_27 | h_28 | h_29 | h_30 | h_31 | h_32 | h_33 | h_34 | h_35 | h_36 | h_37 => exact absurd (by decide) hr
    all_goals rfl

theorem State.myContext_setContext {s : State} (hx : (s.context? s.warp.ctx).isSome = true) {x : Context}
    (hn : x.num = s.warp.ctx) : (s.setContext x).myContext = x := by
  obtain ⟨y, hy⟩ := Option.isSome_iff_exists.mp hx
  simp only [State.myContext, State.context, State.setContext_warp, State.context?_setContext, hn, if_true, hy,
    Option.map_some, Option.getD_some]

/-- A write changes the issuing warp's flags, source mask or handler, or its context. -/
structure State.CsrWrote (s t : State) (c : Nat) (v src : Word64) : Prop where
  frame : s.CsrFrame t
  dsrc : t.warp.dsrc = if c = 0x0A then s.warp.dsrc &&& ~~~src.setWidth 32 else s.warp.dsrc
  flags : t.warp.fpflags = if c = 0x0B then v.setWidth 5 else s.warp.fpflags
  trapvec : t.warp.trapvec = if c = 0x14 then BitVec.ofNat 64 (bitsOf v.toNat 2 55 * 4) else s.warp.trapvec
  mine : t.myContext = if c ∈ contextCsrs then s.myContext.csrWrite s.clock.toNat c v else s.myContext
  others : ∀ n, n ≠ s.warp.ctx → t.context? n = s.context? n

theorem State.csrWrote {s : State} (hx : (s.context? s.warp.ctx).isSome = true) (c : Nat) (v src : Word64) :
    s.CsrWrote (s.csrWrite c v src) c v src := by
  by_cases hc : c ∈ contextCsrs
  · have hn : (s.myContext.csrWrite s.clock.toNat c v).num = s.warp.ctx :=
      (Context.csrWrite_num _ _ _ _).trans (s.context_num _)
    have hA : c ≠ 0x0A ∧ c ≠ 0x0B ∧ c ≠ 0x14 := by
      refine ⟨?_, ?_, ?_⟩ <;> rintro rfl <;> exact absurd hc (by decide)
    rw [State.csrWrite_context s hc]
    refine ⟨⟨rfl, rfl⟩, (if_neg hA.1).symm, (if_neg hA.2.1).symm, (if_neg hA.2.2).symm, ?_, ?_⟩
    · rw [if_pos hc, State.myContext_setContext hx hn]
    · intro n hne
      rw [State.context?_setContext, if_neg (hn ▸ hne)]
  · unfold State.csrWrite
    split
    case h_1 | h_2 | h_3 => exact ⟨⟨rfl, rfl⟩, rfl, rfl, rfl, rfl, fun _ _ => rfl⟩
    case h_16 hA hB hT _ _ _ _ _ _ _ _ _ _ _ _ =>
      exact ⟨⟨rfl, rfl⟩, (if_neg hA).symm, (if_neg hB).symm, (if_neg hT).symm, (if_neg hc).symm, fun _ _ => rfl⟩
    all_goals exact absurd (by decide) hc

theorem State.csrWrite_keeps (s : State) (c : Nat) (v src : Word64) :
    let t := s.csrWrite c v src
    t.warp.s = s.warp.s ∧ t.warp.sFull = s.warp.sFull ∧ t.warp.sPoison = s.warp.sPoison ∧ t.warp.frag = s.warp.frag := by
  unfold State.csrWrite
  split <;> exact ⟨rfl, rfl, rfl, rfl⟩

/-- A number that no register has: nothing is written. -/
theorem State.csrWrote_none (s : State) (v src : Word64) : s.CsrWrote s 256 v src :=
  ⟨⟨rfl, rfl⟩, rfl, rfl, rfl, rfl, fun _ _ => rfl⟩

theorem State.CsrWrote.csrVal_ne {s t : State} {c : Nat} {v src : Word64} (h : s.CsrWrote t c v src) {r : Nat}
    (hr : r ≠ c) : t.csrVal r = s.csrVal r := by
  obtain ⟨hf, hd, hb, ht, hm, -⟩ := h
  refine hf.csrVal_eq ?_ ?_ ?_ fun _ => ?_
  · rintro rfl; exact hd.trans (if_neg hr.symm)
  · rintro rfl; exact hb.trans (if_neg hr.symm)
  · rintro rfl; exact ht.trans (if_neg hr.symm)
  · rw [hm]
    split
    · exact Context.csrVal_csrWrite_ne _ _ _ hr
    · rfl

theorem State.CsrWrote.clock {s t : State} {c : Nat} {v src : Word64} (h : s.CsrWrote t c v src) : t.clock = s.clock := by
  rw [h.frame.world]

/-- The writable bits of the register are those of the word written. -/
theorem State.CsrWrote.csrVal_writable {s t : State} {c : Nat} {v src : Word64} (h : s.CsrWrote t c v src) {bits : Nat}
    (hc : (c, bits) ∈ writableBits) : t.csrVal c = v &&& BitVec.ofNat 64 bits := by
  by_cases hx : c ∈ contextCsrs
  · rw [State.csrVal_context t hx, h.mine, if_pos hx, h.clock, Context.csrVal_csrWrite_same _ _ _ hc hx]
  · simp only [writableBits, List.mem_cons, Prod.mk.injEq, List.not_mem_nil, or_false] at hc
    rcases hc with hc | hc | hc
    · obtain ⟨rfl, rfl⟩ := hc
      exact (congrArg (BitVec.setWidth 64) h.flags).trans (setWidth_setWidth_eq_and 5 v)
    · obtain ⟨rfl, rfl⟩ := hc
      exact h.trapvec.trans (ofNat_bitsOf_eq_and v 2 55)
    · refine absurd ?_ hx
      simp only [contextCsrs, List.mem_cons]
      omega

theorem State.CsrWrote.csrVal_dsrcmask {s t : State} {c : Nat} {v src : Word64} (h : s.CsrWrote t c v src)
    (hc : c = 0x0A) : t.csrVal c = s.csrVal c &&& ~~~src := by
  subst hc
  show t.warp.dsrc.setWidth 64 = s.warp.dsrc.setWidth 64 &&& ~~~src
  rw [h.dsrc, if_pos rfl]
  refine BitVec.eq_of_getLsbD_eq fun i hi => ?_
  simp only [BitVec.getLsbD_setWidth, BitVec.getLsbD_and, BitVec.getLsbD_not, hi, decide_true, Bool.true_and]
  by_cases h32 : i < 32
  · simp [h32]
  · simp [BitVec.getLsbD_of_ge _ _ (Nat.le_of_not_lt h32)]

theorem State.bucket_eq (s : State) (k : Fin 4) : s.bucket k = s.myContext.buckets[k].settle s.clock.toNat := by
  simp [State.bucket]

theorem State.bucket_settled (s : State) (k : Nat) : (s.bucket k).Settled s.clock.toNat := Bucket.settle_settled _ _

theorem State.CsrWrote.bucket {s t : State} {c : Nat} {v src : Word64} (h : s.CsrWrote t c v src)
    (hc : 0x41 ≤ c ∧ c ≤ 0x44) : t.bucket (c - 0x41) = (s.bucket (c - 0x41)).write v.toNat := by
  obtain ⟨k, rfl⟩ : ∃ k : Fin 4, c = k.val + 0x41 := ⟨⟨c - 0x41, by omega⟩, by simp; omega⟩
  have hk : k.val + 0x41 ∈ contextCsrs := by clear h hc; revert k; decide
  rw [Nat.add_sub_cancel, t.bucket_eq, h.mine, if_pos hk, h.clock, Context.csrWrite_bucket, if_pos rfl, ← s.bucket_eq,
    ((s.bucket_settled k).write_settled v.toNat).settle_eq]

/-- What a register without writable bits shows stays. -/
theorem State.CsrWrote.csrVal_fixed {s t : State} {c : Nat} {v src : Word64} (h : s.CsrWrote t c v src)
    (hw : c ∉ writableBits.map (·.1)) (hd : c ≠ 0x0A) (hb : ¬ (0x41 ≤ c ∧ c ≤ 0x44)) : t.csrVal c = s.csrVal c := by
  have hx : c ∉ contextCsrs := by
    simp only [writableBits, contextCsrs, List.map_cons, List.map_nil, List.mem_cons, List.not_mem_nil, or_false] at hw ⊢
    omega
  refine h.frame.csrVal_eq (fun hc => absurd hc hd) ?_ ?_ fun hc => absurd hc hx
  all_goals
    rintro rfl
    exact absurd (by decide) hw

theorem Warp.writeS_eq (w : Warp) (d : Fin 64) (x : Word64) : w.writeS d x =
    { w with s := (w.writeS d x).s, sFull := (w.writeS d x).sFull, sPoison := (w.writeS d x).sPoison } := by
  unfold Warp.writeS
  split <;> rfl

/-- The old value delivered: the register and the fragment's place change besides. -/
theorem State.CsrWrote.deliver {s t : State} {c : Nat} {v src : Word64} (h : s.CsrWrote t c v src)
    (hr : t.warp.s = s.warp.s ∧ t.warp.sFull = s.warp.sFull ∧ t.warp.sPoison = s.warp.sPoison ∧ t.warp.frag = s.warp.frag)
    (d : Fin 64) (x : Word64) :
    let u := (t.onWarp fun w => w.writeS d x).advance
    s.CsrWrote u c v src ∧ s.warp.Keeps u.warp [.s d] ∧ u.warp.HoldsS d x ∧ s.warp.frag.MovedTo u.warp.frag s.next := by
  have hkeeps := Warp.writeS_keeps t.warp d x
  have hholds := Warp.holdsS_writeS t.warp d x
  have hz := Warp.writeS_eq t.warp d x
  have hw : ((t.onWarp fun w => w.writeS d x).advance).warp = (t.warp.writeS d x).advance := rfl
  generalize t.warp.writeS d x = z at *
  intro u
  obtain ⟨⟨hworld, hwarp⟩, hd, hb, ht, hm, ho⟩ := h
  obtain ⟨h1, h2, h3, h4⟩ := hr
  have hu : u = { t with warp := z.advance } := congrArg (fun y => { t with warp := y }) hw
  clear_value u
  refine ⟨⟨⟨?_, ?_⟩, ?_, ?_, ?_, ?_, ?_⟩, ⟨?_, ?_⟩, ⟨?_, ?_, ?_⟩, ?_⟩
  · rw [hu, hworld]
  · rw [hu, hz, hwarp]; rfl
  · rw [hu, hz]; exact hd
  · rw [hu, hz]; exact hb
  · rw [hu, hz]; exact ht
  · rw [hu, hz]; exact hm
  · rw [hu]; exact ho
  · rw [hu, ← h1, ← h2, ← h3]; exact hkeeps.scalar
  · have hv : s.warp.v = t.warp.v ∧ s.warp.vFull = t.warp.vFull ∧ s.warp.vPoison = t.warp.vPoison := by
      rw [hwarp]; exact ⟨rfl, rfl, rfl⟩
    rw [hu, hv.1, hv.2.1, hv.2.2]; exact hkeeps.vector
  · rw [hu]; exact hholds.value
  · rw [hu]; exact hholds.full
  · rw [hu]; exact hholds.clean
  · have hzf : z.frag = s.warp.frag := by rw [hz]; exact h4
    rw [hu, State.next, ← hzf]; rfl

/-! ## The instructions -/

/-- A CSR instruction with its registers at hand is ready: a privileged register is reached from context 0 alone. -/
theorem State.Ready.of_csr {s : State} {ds : List Reg} {qs : List (Reg × Bool)} (h : s.Ready { dests := ds, srcs := qs })
    {c : Fin 256} (hc : csrAssigned c = true) (hp : 0x40 ≤ c.val → s.warp.ctx = 0) :
    s.Ready { dests := ds, srcs := qs, legal := csrAssigned c, csrDenied := csrPrivileged c.val && !s.privileged } := by
  have hd : (csrPrivileged c.val && !s.privileged) = false := by
    simp only [csrPrivileged, State.privileged, Bool.and_eq_false_imp, decide_eq_true_eq]
    intro h4
    simp [hp h4]
  obtain ⟨h1, h2, _, h4, h5, h6, h7, h8⟩ := h
  exact ⟨⟨rfl, hd⟩, (hintsLegal_congr _ rfl rfl rfl rfl).trans h2, hc, h4, h5, h6, h7, h8⟩

/-- Settles O39: a write is followed field by field, into the issuing warp or into its context. -/
theorem controlRegisters : Obligations.ControlRegisters := by
  intro s d a c hx hp old src w held did
  have key : ∀ (write : Option (Word64 → Word64 → Word64)),
      s.Ready { dests := [.s d], srcs := if write.isSome then [(.s a, false)] else [] } → csrAssigned c = true →
      did (csrUnit write d a c s) (write.map fun f => f old src) := by
    intro write hr hc
    have hready := hr.of_csr hc hp
    unfold csrUnit
    refine ⟨fun hh => ?_, fun hn hpo hh => ?_, fun hn hpo => ?_⟩
    · rw [State.issue_ready hready, if_pos hh]
      rfl
    · refine State.issue_ready_traps hh hready _ ?_
      rw [if_neg hn, if_pos hpo]
    · rw [State.issue_ready hready, if_neg hn, if_neg (by rw [hpo]; exact Bool.false_ne_true)]
      cases write with
      | none =>
        obtain ⟨hw, hkeeps, hholds, hmoved⟩ := (s.csrWrote_none 0 0).deliver ⟨rfl, rfl, rfl, rfl⟩ d old
        exact ⟨_, rfl, hw.frame.world, hw.frame.warp, hkeeps, hholds, hmoved, hw.others,
          fun r hr _ => hw.csrVal_ne (by omega), fun v hv => nomatch hv⟩
      | some f =>
        obtain ⟨hw, hkeeps, hholds, hmoved⟩ :=
          (State.csrWrote hx c.val (f old src) src).deliver (s.csrWrite_keeps _ _ _) d old
        refine ⟨_, rfl, hw.frame.world, hw.frame.warp, hkeeps, hholds, hmoved, hw.others,
          fun r _ hr => hw.csrVal_ne (hr.resolve_right (by simp)), fun v hv => ?_⟩
        obtain rfl : f old src = v := by simpa using hv
        refine ⟨?_, fun hA => ?_, fun hb => ?_, fun hw' hA hb => hw.csrVal_fixed hw' hA hb⟩
        · rintro ⟨m, bits⟩ hm (hmc : m = c.val)
          exact hw.csrVal_writable (hmc ▸ hm)
        · exact hw.csrVal_dsrcmask hA
        · exact (hw.bucket hb).trans ((s.bucket_settled _).write_eq _)
  refine ⟨fun hc => ⟨fun hr => key none hr hc, fun hr => ⟨key (some fun _ x => x) hr hc, ?_, ?_⟩⟩, ?_⟩
  · exact key (some fun old x => old ||| x) hr hc
  · exact key (some fun old x => old &&& ~~~x) hr hc
  · intro hc hh i hi
    have trap : ∀ write, Traps s (csrUnit write d a c s) .illenc := fun write => by
      unfold csrUnit
      exact State.issue_traps hh (s.gate_illegal rfl hc) _
    simp only [List.mem_cons, List.not_mem_nil, or_false] at hi
    rcases hi with rfl | rfl | rfl | rfl
    · exact trap none
    · exact trap _
    · exact trap _
    · exact trap _

end Sys2Proof.Machine
end

section
/-! Obligation O13: NOP, YIELD, the hint words, EXIT and the RET that exits (R48, R80–R82, R88, R337). -/

set_option Elab.async false

namespace Sys2Proof.Machine

/-! ## What posting and disarming leave alone -/

theorem State.recall_warp (s : State) (line : Nat) : (s.recall line).warp = s.warp := by
  rw [s.recall_same line]

/-- A write fires monitors, and moves none. -/
theorem State.poke_monitorWarps (s : State) (loc : Nat) (bs : List Byte) :
    (s.poke loc bs).monitors.map (·.warp) = s.monitors.map (·.warp) := by
  unfold State.poke
  rw [List.map_map]
  refine List.map_congr_left fun m _ => ?_
  dsimp only [Function.comp]
  unfold Monitor.afterWrite
  split <;> rfl

theorem State.combine_monitorWarps (s : State) (p : Partial) :
    (s.combine p).monitors.map (·.warp) = s.monitors.map (·.warp) := by
  unfold State.combine State.reduceAt
  split
  · rfl
  · unfold State.atom
    dsimp only
    split
    · rfl
    · exact s.poke_monitorWarps _ _

theorem State.recall_monitorWarps (s : State) (line : Nat) :
    (s.recall line).monitors.map (·.warp) = s.monitors.map (·.warp) :=
  foldl_keeps (fun s : State => s.monitors.map (·.warp)) State.combine_monitorWarps _ _

theorem State.post_warp (s : State) (r : FaultRecord) : (s.post r).warp = s.warp := by
  unfold State.post
  dsimp only
  split
  · rfl
  · split
    · rfl
    · simp only [State.poke]

theorem State.reportAll_warp (s : State) (w : Warp) : (s.reportAll w).warp = s.warp := by
  refine foldl_keeps State.warp (fun s p => ?_) w.pend s
  unfold State.reportKilled
  split
  · rfl
  · exact s.post_warp _

theorem State.fillTable_warp (s : State) : s.fillTable.warp = s.warp := by
  refine foldl_keeps State.warp (fun s m => ?_) s.monitors s
  dsimp only
  split
  · rfl
  · exact s.recall_warp _

theorem State.dropMonitors_warp (s : State) (u : Nat) : (s.dropMonitors u).warp = s.warp := State.fillTable_warp _

/-- Monitors move into the table, and belong to whom they did. -/
theorem State.fillTable_monitorWarps (s : State) : s.fillTable.monitors.map (·.warp) = s.monitors.map (·.warp) := by
  refine foldl_keeps (fun s : State => s.monitors.map (·.warp)) (fun s m => ?_) s.monitors s
  dsimp only
  split
  · rfl
  · rw [← s.recall_monitorWarps (lineOf m.loc)]
    generalize s.recall (lineOf m.loc) = r
    unfold State.mapMonitor
    rw [List.map_map]
    refine List.map_congr_left fun n _ => ?_
    dsimp only [Function.comp]
    split
    · unfold State.checkMonitor
      split <;> rfl
    · rfl

theorem State.dropMonitors_monitorWarps {s : State} {u : Nat} {m : Monitor} (h : m ∈ (s.dropMonitors u).monitors) :
    m.warp ≠ u := by
  have hm : m.warp ∈ (s.dropMonitors u).monitors.map (·.warp) := List.mem_map_of_mem h
  unfold State.dropMonitors at hm
  rw [State.fillTable_monitorWarps] at hm
  obtain ⟨n, hn, hw⟩ := List.mem_map.1 hm
  rw [← hw]
  simpa using (List.mem_filter.1 hn).2

/-! ## Fragments settle (R84, R88) -/

/-- R88 changes the fragments and the parked records of a warp alone. -/
theorem Warp.unpark_frame (n : Nat) (w : Warp) :
    Warp.unpark n w = { w with frags := (Warp.unpark n w).frags, park := (Warp.unpark n w).park } := by
  induction n generalizing w with
  | zero => rfl
  | succ n ih =>
    unfold Warp.unpark
    split
    · rw [ih]
    · rfl

theorem Warp.releaseOne_frame (w : Warp) :
    w.releaseOne = { w with frag := w.releaseOne.frag, frags := w.releaseOne.frags } := by
  unfold Warp.releaseOne
  split
  · rfl
  · split <;> rfl

theorem Warp.settleFrags_frame (w : Warp) :
    w.settleFrags = { w with frag := w.settleFrags.frag, frags := w.settleFrags.frags, park := w.settleFrags.park } := by
  unfold Warp.settleFrags
  rw [Warp.releaseOne_frame, Warp.unpark_frame]
  rfl

theorem Warp.unpark_nil {w : Warp} (h : w.park = []) (n : Nat) : Warp.unpark n w = w := by
  cases n with
  | zero => rfl
  | succ n => simp [Warp.unpark, h]

theorem Warp.dropDead_same {w : Warp} (hf : ∀ f ∈ w.frags, w.holds f = true)
    (hp : ∀ p ∈ w.park, (p.mask &&& w.live32 != 0) = true) : w.dropDead = w := by
  unfold Warp.dropDead
  rw [List.filter_eq_self.2 hf, List.filter_eq_self.2 hp]

theorem Warp.releaseOne_ready {w : Warp} (h : ∃ f ∈ w.usedFrags, f.state = .ready) : w.releaseOne = w := by
  obtain ⟨f, hf, hr⟩ := h
  unfold Warp.releaseOne
  rw [if_pos (List.any_eq_true.2 ⟨f, hf, by simp [Fragment.isReady, hr]⟩)]

/-- A table in which the issuing fragment has no live lane and every other has one. -/
theorem Warp.usedFrags_others {w : Warp} (h : w.holds w.frag = false) (hf : ∀ f ∈ w.frags, w.holds f = true) :
    w.usedFrags = w.frags := by
  unfold Warp.usedFrags Warp.allFrags
  rw [List.filter_cons_of_neg (by simp [h]), List.filter_eq_self.2 hf]

/-- Where nothing is left, nothing settles. -/
theorem Warp.settleFrags_empty {w : Warp} (h : w.holds w.frag = false) (hf : w.frags = []) (hp : w.park = []) :
    w.settleFrags = w := by
  have hu : w.usedFrags = w.frags := Warp.usedFrags_others h (by simp [hf])
  unfold Warp.settleFrags
  rw [Warp.dropDead_same (by simp [hf]) (by simp [hp]), Warp.unpark_nil hp]
  simp [Warp.releaseOne, hu, hf, lowestWaiting]

/-- The one parked record takes a free entry of the table. -/
theorem Warp.settleFrags_unparks {w : Warp} (h : w.holds w.frag = false) (hf : ∀ f ∈ w.frags, w.holds f = true)
    (hr : ∃ f ∈ w.frags, f.state = .ready) {p : Parked} (hp : w.park = [p]) (hl : p.mask &&& w.live32 ≠ 0)
    (he : ∃ e < 16, ∀ f ∈ w.frags, f.entry ≠ e) :
    ∃ e, (∀ f ∈ w.frags, f.entry ≠ e) ∧ w.settleFrags =
      { w with park := [], frags := w.frags ++ [{ Fragment.start p.pc with entry := e, mask := p.mask }] } := by
  have hu := Warp.usedFrags_others h hf
  obtain ⟨e, hfree⟩ : ∃ e, w.freeEntry = some e := by
    obtain ⟨e, he16, hne⟩ := he
    refine Option.isSome_iff_exists.1 (List.find?_isSome.2 ⟨e, List.mem_range.2 he16, ?_⟩)
    rw [hu]
    simpa using hne
  have hne : ∀ f ∈ w.frags, f.entry ≠ e := by
    have := List.find?_some hfree
    rw [hu] at this
    simpa using this
  refine ⟨e, hne, ?_⟩
  have hun : Warp.unpark 16 w =
      { w with park := [], frags := w.frags ++ [{ Fragment.start p.pc with entry := e, mask := p.mask }] } := by
    unfold Warp.unpark
    rw [hp, hfree]
    exact Warp.unpark_nil rfl _
  unfold Warp.settleFrags
  rw [Warp.dropDead_same hf (by simpa [hp] using hl), hun]
  obtain ⟨f, hm, hfr⟩ := hr
  refine Warp.releaseOne_ready ⟨f, ?_, hfr⟩
  exact List.mem_filter.2 ⟨List.mem_cons_of_mem _ (List.mem_append_left _ hm), hf f hm⟩

/-! ## The end of a fragment (R81) -/

/-- The warp whose issuing fragment's lanes have exited. -/
def Warp.leave (w : Warp) : Warp := { w with exited := w.exited ||| w.frag.mask }

theorem Warp.leave_live (w : Warp) : w.leave.live32 = w.live32 &&& ~~~w.frag.mask := by
  show ~~~w.dead &&& ~~~(w.exited ||| w.frag.mask) = ~~~w.dead &&& ~~~w.exited &&& ~~~w.frag.mask
  rw [BitVec.not_or, BitVec.and_assoc]

theorem Warp.leave_gone (w : Warp) : w.leave.holds w.leave.frag = false := by
  show (w.frag.mask &&& w.leave.live32 != 0) = false
  rw [Warp.leave_live, BitVec.and_comm w.live32, ← BitVec.and_assoc, BitVec.and_not_self]
  simp

theorem Warp.exitWaits_iff (w : Warp) (p : Pending) : w.exitWaits p = true ↔
    (w.trap = none ∨ p.gen = w.traps) ∧ p.mask &&& w.frag.mask ≠ 0
      ∧ (p.kind = .result ∨ p.kind = .lanes ∨ ∃ k, p.kind = .command k) := by
  unfold Warp.exitWaits
  cases hk : p.kind <;> simp

theorem State.exitFragment_waits {s : State} (h : ∃ p ∈ s.warp.pend, s.warp.exitWaits p = true) :
    s.exitFragment = s.hold := if_pos (List.any_eq_true.2 h)

theorem State.exitFragment_leaves {s : State} (h : ∀ p ∈ s.warp.pend, ¬ s.warp.exitWaits p = true)
    (ht : s.warp.trap = none) : s.exitFragment = s.onWarp fun w => w.leave.settleFrags := by
  unfold State.exitFragment
  rw [if_neg (by simpa using h), if_neg (by simp [ht])]
  rfl

theorem State.exitFragment_handler {s : State} (h : ∀ p ∈ s.warp.pend, ¬ s.warp.exitWaits p = true)
    (ht : s.warp.trap.isSome = true) (hh : s.warp.heldTraps = []) (hf : s.warp.heldFaults = []) :
    s.exitFragment =
      (((s.reportAll s.warp).dropWaiter s.warp.uid).dropMonitors s.warp.uid).onWarp Warp.discardTrap := by
  unfold State.exitFragment
  rw [if_neg (by simpa using h), if_pos ht]
  unfold State.handlerExit
  rw [hh, hf]
  split <;> simp_all

theorem Warp.leave_holds {w : Warp} {f : Fragment} (h : f.mask &&& w.live32 &&& ~~~w.frag.mask ≠ 0) :
    w.leave.holds f = true := by
  rw [Warp.holds, Warp.leave_live, ← BitVec.and_assoc]
  simpa using h

theorem Warp.settleFrags_exited (w : Warp) : w.settleFrags.exited = w.exited := by
  rw [Warp.settleFrags_frame]

theorem Warp.leave_frame (w : Warp) : w.leave.settleFrags = { w with
    exited := w.leave.settleFrags.exited, frag := w.leave.settleFrags.frag, frags := w.leave.settleFrags.frags
    park := w.leave.settleFrags.park } := by
  rw [Warp.settleFrags_frame]
  rfl

/-- The warp that its handler has ended has no fragment left. -/
theorem Warp.discardTrap_usedFrags (w : Warp) : w.discardTrap.usedFrags = [] := by
  have h : w.discardTrap.live32 = 0 := by
    show ~~~w.dead &&& ~~~(w.exited ||| ~~~w.dead) = 0
    rw [BitVec.not_or, BitVec.not_not, BitVec.and_comm (~~~w.exited), ← BitVec.and_assoc, BitVec.and_comm (~~~w.dead),
      BitVec.and_not_self]
    simp
  unfold Warp.usedFrags Warp.allFrags Warp.holds
  rw [h]
  simp [Warp.discardTrap]

/-- A fragment that ends outside trap mode leaves a table in which R88 has nothing to do, or one place for one record. -/
theorem Warp.leave_settles {w : Warp} (hf : ∀ f ∈ w.frags, f.mask &&& w.live32 &&& ~~~w.frag.mask ≠ 0)
    (hr : ∃ f ∈ w.frags, f.state = .ready) :
    (w.park = [] → w.leave.settleFrags = w.leave ∧ w.leave.usedFrags = w.frags)
    ∧ ∀ p, w.park = [p] → p.mask &&& w.live32 &&& ~~~w.frag.mask ≠ 0 → (∃ e < 16, ∀ f ∈ w.frags, f.entry ≠ e) →
      ∃ e, (∀ f ∈ w.frags, f.entry ≠ e) ∧ w.leave.settleFrags =
        { w.leave with park := [], frags := w.frags ++ [{ Fragment.start p.pc with entry := e, mask := p.mask }] } := by
  have hl : ∀ f ∈ w.leave.frags, w.leave.holds f = true := fun f hm => Warp.leave_holds (hf f hm)
  refine ⟨fun hp => ⟨Warp.settleFrags_same hp hl ?_, Warp.usedFrags_others w.leave_gone hl⟩, fun p hp hm he => ?_⟩
  · obtain ⟨f, hm, hs⟩ := hr
    exact ⟨f, List.mem_cons_of_mem _ hm, hl f hm, hs⟩
  · refine Warp.settleFrags_unparks w.leave_gone hl hr hp ?_ he
    rw [Warp.leave_live, ← BitVec.and_assoc]
    exact hm

/-- The warp and the memory that the handler's EXIT leaves. -/
theorem State.handler_leaves (s : State) :
    let t := (((s.reportAll s.warp).dropWaiter s.warp.uid).dropMonitors s.warp.uid).onWarp Warp.discardTrap
    t.warp = s.warp.discardTrap ∧ (∀ m ∈ t.monitors, m.warp ≠ s.warp.uid)
      ∧ (s.partials = [] → (∀ p ∈ s.warp.pend, p.killed = 0) → t.mem = s.mem) := by
  refine ⟨?_, fun m hm => State.dropMonitors_monitorWarps hm, fun hp hk => ?_⟩
  · refine congrArg Warp.discardTrap ((State.dropMonitors_warp _ _).trans ?_)
    exact s.reportAll_warp s.warp
  · rw [s.reportAll_none hk]
    obtain ⟨-, hmem⟩ := ((s.dropWaiter s.warp.uid).dropMonitors_relocked s.warp.uid).quiet hp
    exact hmem

/-- A hint word takes its place where that is free, and marks the unit where it is not. -/
theorem State.hint_eq (s : State) (set : Hints → Hints) (place : Hints → Option (BitVec 22)) :
    s.hint set (fun h => (place h).isSome) = { s with warp := { s.warp with frag := { s.warp.frag with
      hints := if place s.warp.frag.hints = none then set s.warp.frag.hints else { s.warp.frag.hints with dup := true }
      fetch := s.warp.frag.fetch + 4 } } } := by
  have hif : (if (place s.warp.frag.hints).isSome = true then { s.warp.frag.hints with dup := true }
      else set s.warp.frag.hints) =
      if place s.warp.frag.hints = none then set s.warp.frag.hints else { s.warp.frag.hints with dup := true } := by
    cases place s.warp.frag.hints <;> rfl
  exact congrArg (fun hs => { s with warp := { s.warp with frag := { s.warp.frag with
    hints := hs, fetch := s.warp.frag.fetch + 4 } } }) hif

/-- Settles O13: EXIT is R81 on the fragment table, by what R88 does of a table whose issuing fragment has gone. -/
theorem exitYieldHints : Obligations.ExitYieldHints := by
  refine ⟨fun s => ⟨fun h => ⟨?_, ?_, fun t ht => ?_⟩, fun p => ?_⟩, fun s => ?_⟩
  · exact ⟨_, s.issue_ready h _, rfl, rfl, rfl⟩
  · change Goes s (execYield s) s.next
    unfold execYield
    exact ⟨_, s.issue_ready h _, rfl, rfl, rfl⟩
  · change execYield s = .next t at ht
    unfold execYield at ht
    rw [s.issue_ready h] at ht
    cases ht
    rfl
  · exact ⟨congrArg _ (s.hint_eq _ (·.himm)), congrArg _ (s.hint_eq _ (·.hblk)), congrArg _ (s.hint_eq _ (·.hmod)),
      congrArg _ (s.hint_eq _ (·.hsch))⟩
  · intro waits ends
    have none_waits : (∀ p ∈ s.warp.pend, ¬ waits p) → ∀ p ∈ s.warp.pend, ¬ s.warp.exitWaits p = true :=
      fun hw p hp hpw => hw p hp ((s.warp.exitWaits_iff p).1 hpw)
    have key : ends (.next s.exitFragment) := by
      refine ⟨fun hw => ?_, fun hw ht => ?_, fun hw ht hh hf => ?_⟩
      · obtain ⟨p, hp, hpw⟩ := hw
        rw [State.exitFragment_waits ⟨p, hp, (s.warp.exitWaits_iff p).2 hpw⟩]
        rfl
      · rw [State.exitFragment_leaves (none_waits hw) ht]
        refine ⟨_, rfl, s.warp.leave.settleFrags_exited, congrArg (fun w => { s with warp := w }) s.warp.leave_frame,
          fun hf hp => ?_, fun hf hr => ?_⟩
        · change s.warp.leave.settleFrags.usedFrags = [] ∧ s.warp.leave.settleFrags.frags = []
            ∧ s.warp.leave.settleFrags.park = []
          rw [Warp.settleFrags_empty s.warp.leave_gone hf hp]
          exact ⟨(Warp.usedFrags_others s.warp.leave_gone (by simp [Warp.leave, hf])).trans hf, hf, hp⟩
        · obtain ⟨hnone, hone⟩ := Warp.leave_settles hf hr
          refine ⟨fun hp => ?_, fun p hp hm he => ?_⟩
          · obtain ⟨hs, hu⟩ := hnone hp
            change s.warp.leave.settleFrags.frags = s.warp.frags ∧ s.warp.leave.settleFrags.park = []
              ∧ s.warp.leave.settleFrags.usedFrags = s.warp.frags
            rw [hs]
            exact ⟨rfl, hp, hu⟩
          · obtain ⟨e, hne, hs⟩ := hone p hp hm he
            exact ⟨congrArg Warp.park hs, e, hne, congrArg Warp.frags hs⟩
      · rw [State.exitFragment_handler (none_waits hw) ht hh hf]
        obtain ⟨hwarp, hmon, hmem⟩ := s.handler_leaves
        refine ⟨_, rfl, ?_, ?_, ?_, fun ho => ?_, hmon, fun hp hk a => by rw [hmem hp hk]⟩
        · rw [hwarp]
          rfl
        · rw [hwarp, Warp.discardTrap_usedFrags]
        · rw [hwarp]
          rfl
        · rw [hwarp]
          exact if_pos (by simp [ho])
    refine ⟨fun h => ?_, fun h h0 => ?_⟩
    · change ends (execExit s)
      unfold execExit
      rw [s.issue_ready h]
      exact key
    · change ends (execRet s)
      unfold execRet
      rw [s.issue_ready h, if_pos h0]
      exact key

end Sys2Proof.Machine
end

section
/-! The functions of the two-source scalars, as the table of R70 gives them. -/

set_option Elab.async false

namespace Sys2Proof.Machine

/-! ## The values of the two-source scalars (R70) -/

theorem mulHigh_eq (p q : Word64) : mulHigh p q = (p.signExtend 128 * q.signExtend 128).extractLsb' 64 64 := by
  have hprod : p.signExtend 128 * q.signExtend 128 = BitVec.ofInt 128 (p.toInt * q.toInt) := (BitVec.ofInt_mul _ _).symm
  rw [hprod]
  unfold mulHigh
  generalize p.toInt * q.toInt = n
  apply BitVec.eq_of_toNat_eq
  rw [BitVec.extractLsb'_toNat, BitVec.toNat_ofInt, BitVec.toNat_ofInt, Nat.shiftRight_eq_div_pow]
  omega

theorem mulHighU_eq (p q : Word64) : mulHighU p q = (p.setWidth 128 * q.setWidth 128).extractLsb' 64 64 := by
  unfold mulHighU
  have hp := p.isLt
  have hq := q.isLt
  apply BitVec.eq_of_toNat_eq
  rw [BitVec.extractLsb'_toNat, BitVec.toNat_ofNat, BitVec.toNat_mul, BitVec.toNat_setWidth, BitVec.toNat_setWidth,
    Nat.mod_eq_of_lt (a := p.toNat) (by omega), Nat.mod_eq_of_lt (a := q.toNat) (by omega), Nat.shiftRight_eq_div_pow]
  generalize p.toNat * q.toNat = n
  omega

theorem sdivQ_eq (p q : Word64) : sdivQ p q = if q = 0 then BitVec.allOnes 64 else p.sdiv q := by
  have h : BitVec.ofInt 64 (p.toInt.tdiv q.toInt) = p.sdiv q := by
    apply BitVec.eq_of_toInt_eq
    rw [BitVec.toInt_ofInt, BitVec.toInt_sdiv]
  rw [sdivQ, h]

theorem udivQ_eq (p q : Word64) : udivQ p q = if q = 0 then BitVec.allOnes 64 else p / q := by
  have h : BitVec.ofNat 64 (p.toNat / q.toNat) = p / q := by
    rw [← BitVec.toNat_udiv, BitVec.ofNat_toNat, BitVec.setWidth_eq]
  rw [udivQ, h]

theorem sremQ_eq (p q : Word64) : sremQ p q = if q = 0 then p else p.srem q := by
  rw [sremQ, ← BitVec.toInt_srem, BitVec.ofInt_toInt]

theorem uremQ_eq (p q : Word64) : uremQ p q = if q = 0 then p else p % q := by
  rw [uremQ, ← BitVec.toNat_umod, BitVec.ofNat_toNat, BitVec.setWidth_eq]

theorem toNat_and_63 (q : Word64) : (q &&& 63).toNat = q.toNat % 64 := Nat.and_two_pow_sub_one_eq_mod q.toNat 6

theorem shiftLeft_eq (p q : Word64) : p <<< (q.toNat % 64) = p <<< (q &&& 63) := by
  rw [BitVec.shiftLeft_eq', toNat_and_63]

theorem ushiftRight_eq (p q : Word64) : p >>> (q.toNat % 64) = p >>> (q &&& 63) := by
  rw [BitVec.ushiftRight_eq', toNat_and_63]

theorem sshiftRight_eq (p q : Word64) : p.sshiftRight (q.toNat % 64) = p.sshiftRight (q &&& 63).toNat := by
  rw [toNat_and_63]

/-- Which of two values is kept is no matter where they are equal. -/
theorem ite_le_eq_ite_lt {α β : Type} [LinearOrder β] {f : α → β} (hf : Function.Injective f) (a b : α) :
    (if f a ≤ f b then a else b) = (if f a < f b then a else b)
      ∧ (if f a ≤ f b then b else a) = if f a < f b then b else a := by
  rcases lt_trichotomy (f a) (f b) with h | h | h
  · simp [h, h.le]
  · obtain rfl := hf h
    simp
  · simp [not_le.2 h, not_lt.2 h.le]

theorem toInt_injective : Function.Injective (BitVec.toInt : Word64 → Int) := fun _ _ => BitVec.eq_of_toInt_eq
theorem toNat_injective : Function.Injective (BitVec.toNat : Word64 → Nat) := fun _ _ => BitVec.eq_of_toNat_eq

theorem sminQ_eq (p q : Word64) : sminQ p q = if p.slt q then p else q := by
  simp only [BitVec.slt_iff_toInt_lt]
  exact (ite_le_eq_ite_lt toInt_injective p q).1

theorem smaxQ_eq (p q : Word64) : smaxQ p q = if p.slt q then q else p := by
  simp only [BitVec.slt_iff_toInt_lt]
  exact (ite_le_eq_ite_lt toInt_injective p q).2

theorem uminQ_eq (p q : Word64) : uminQ p q = if p.ult q then p else q := by
  simp only [BitVec.ult_iff_toNat_lt]
  exact (ite_le_eq_ite_lt toNat_injective p q).1

theorem umaxQ_eq (p q : Word64) : umaxQ p q = if p.ult q then q else p := by
  simp only [BitVec.ult_iff_toNat_lt]
  exact (ite_le_eq_ite_lt toNat_injective p q).2

theorem boolWord_beq (p q : Word64) : boolWord (p == q) = if p = q then 1 else 0 := by simp [boolWord]

theorem boolWord_slt (p q : Word64) : boolWord (decide (p.toInt < q.toInt)) = if p.slt q then 1 else 0 := by
  simp [boolWord, BitVec.slt_iff_toInt_lt]

theorem boolWord_ult (p q : Word64) : boolWord (decide (p.toNat < q.toNat)) = if p.ult q then 1 else 0 := by
  simp [boolWord, BitVec.ult_iff_toNat_lt]

/-- Every instruction of the table is the two-source scalar of the function that stands beside it. -/
theorem exec_scalarTable_eq : ∀ e ∈ scalarTable, ∀ (s : State) (d a b : Fin 64) (x y : Bool),
    exec (e.1 d a b x y) s = scalar2 e.2 d a b x y s := by
  have of_eq : ∀ {i : Fin 64 → Fin 64 → Fin 64 → Bool → Bool → Instr} (f : Word64 → Word64 → Word64)
      {g : Word64 → Word64 → Word64}, (∀ p q, f p q = g p q) →
      (∀ s d a b x y, exec (i d a b x y) s = scalar2 f d a b x y s) →
      ∀ (s : State) (d a b : Fin 64) (x y : Bool), exec (i d a b x y) s = scalar2 g d a b x y s := by
    intro i f g h hx s d a b x y
    rw [hx, funext fun p => funext (h p)]
  simp only [scalarTable, List.forall_mem_cons]
  refine ⟨of_eq _ (fun _ _ => rfl) ?_, of_eq _ (fun _ _ => rfl) ?_, of_eq _ (fun _ _ => rfl) ?_, of_eq _ mulHigh_eq ?_,
    of_eq _ mulHighU_eq ?_, of_eq _ sdivQ_eq ?_, of_eq _ udivQ_eq ?_, of_eq _ sremQ_eq ?_, of_eq _ uremQ_eq ?_,
    of_eq _ (fun _ _ => rfl) ?_, of_eq _ (fun _ _ => rfl) ?_, of_eq _ (fun _ _ => rfl) ?_, of_eq _ (fun _ _ => rfl) ?_,
    of_eq _ shiftLeft_eq ?_, of_eq _ ushiftRight_eq ?_, of_eq _ sshiftRight_eq ?_, of_eq _ sminQ_eq ?_, of_eq _ smaxQ_eq ?_,
    of_eq _ uminQ_eq ?_, of_eq _ umaxQ_eq ?_, of_eq _ boolWord_beq ?_, of_eq _ boolWord_slt ?_, of_eq _ boolWord_ult ?_,
    by simp⟩
  all_goals exact fun _ _ _ _ _ _ => rfl

end Sys2Proof.Machine
end

section
/-! Obligation O44: instructions that were out complete (R37, R181, R184, R251, R256, R257). -/

set_option Elab.async false

namespace Sys2Proof.Machine

/-! ## Registers go full -/

theorem Warp.setFull_registers (w : Warp) (r : Reg) : w.OnlyRegisters (w.setFull r) := by cases r <;> rfl

theorem Warp.setFull_keeps (w : Warp) (r : Reg) : w.Keeps (w.setFull r) [r] := by
  cases r with
  | s r =>
    refine ⟨fun q hq => ?_, fun _ _ => ⟨rfl, rfl, rfl⟩⟩
    have hne : r.val ≠ q.val := fun h => hq (by simp [Fin.ext h.symm])
    simp [Warp.setFull, Vector.getElem_set_ne, hne]
  | v r =>
    refine ⟨fun _ _ => ⟨rfl, rfl, rfl⟩, fun q hq => ?_⟩
    have hne : r.val ≠ q.val := fun h => hq (by simp [Fin.ext h.symm])
    simp [Warp.setFull, Vector.getElem_set_ne, hne]
  | m r => exact .refl w _
  | t r => exact .refl w _

theorem Warp.setFull_full (w : Warp) (r : Reg) : (w.setFull r).full r = true := by
  cases r <;> simp [Warp.setFull, Warp.full]

/-- A register that goes full empties no other. -/
theorem Warp.full_setFull {w : Warp} {r : Reg} (h : w.full r = true) (q : Reg) : (w.setFull q).full r = true := by
  cases q <;> cases r <;> simp_all [Warp.setFull, Warp.full, Vector.getElem_set]
  all_goals exact h.imp_right .inr

theorem Warp.full_apply {w : Warp} {r : Reg} (h : w.full r = true) (a : RegWrite) : (w.apply a).full r = true := by
  cases a with
  | s q x =>
    unfold Warp.apply Warp.writeS
    dsimp only
    split
    · exact h
    · exact Warp.full_setFull (w := { w with s := w.s.set q x, sPoison := w.sPoison.set q false }) h (.s q)
  | v q m x => exact Warp.full_setFull (w := { w with v := _, vPoison := _ }) h (.v q)

theorem Warp.fillAll_registers (rs : List Reg) : ∀ w : Warp, w.OnlyRegisters (w.fillAll rs) := by
  induction rs with
  | nil => exact Warp.OnlyRegisters.refl
  | cons r rs ih => exact fun w => (w.setFull_registers r).trans (ih _)

theorem Warp.fillAll_keeps (rs : List Reg) : ∀ w : Warp, w.Keeps (w.fillAll rs) rs := by
  induction rs with
  | nil => exact fun w => .refl w _
  | cons r rs ih => exact fun w => (w.setFull_keeps r).trans (ih _)

theorem Warp.full_fillAll {r : Reg} (rs : List Reg) :
    ∀ w : Warp, w.full r = true ∨ r ∈ rs → (w.fillAll rs).full r = true := by
  induction rs with
  | nil => exact fun w h => h.resolve_right (List.not_mem_nil)
  | cons q rs ih =>
    intro w h
    refine ih _ ?_
    rcases h with h | h
    · exact .inl (Warp.full_setFull h q)
    · rcases List.mem_cons.1 h with rfl | h
      · exact .inl (w.setFull_full r)
      · exact .inr h

theorem Warp.full_applyAll {r : Reg} (ws : List RegWrite) :
    ∀ w : Warp, w.full r = true → (w.applyAll ws).full r = true := by
  induction ws with
  | nil => exact fun _ h => h
  | cons a ws ih => exact fun w h => ih _ (Warp.full_apply h a)

theorem Warp.fillAll_fpflags (w : Warp) (rs : List Reg) : (w.fillAll rs).fpflags = w.fpflags :=
  foldl_keeps Warp.fpflags (fun _ r => by cases r <;> rfl) rs w

theorem Warp.applyAll_fpflags (w : Warp) (ws : List RegWrite) : (w.applyAll ws).fpflags = w.fpflags := by
  refine foldl_keeps Warp.fpflags (fun w a => ?_) ws w
  cases a with
  | s r x => unfold Warp.apply Warp.writeS; dsimp only; split <;> rfl
  | v r m x => rfl

/-! ## A pending instruction completes (R37) -/

/-- What a completion may change of a warp. -/
def Warp.OnlyCompleted (w u : Warp) : Prop :=
  u = { w with
    s := u.s, sFull := u.sFull, sPoison := u.sPoison, v := u.v, vFull := u.vFull, vPoison := u.vPoison
    fpflags := u.fpflags, frag := u.frag, frags := u.frags, trap := u.trap, pend := u.pend }

theorem Warp.OnlyCompleted.trans {a b c : Warp} (h : a.OnlyCompleted b) (g : b.OnlyCompleted c) : a.OnlyCompleted c := by
  unfold Warp.OnlyCompleted at *
  rw [g, h]

theorem Warp.complete_only (w : Warp) (p : Pending) : w.OnlyCompleted (w.complete p) := by
  have h : w.OnlyRegisters ((w.fillAll p.dests).applyAll p.writes) :=
    (Warp.fillAll_registers _ w).trans (Warp.applyAll_registers _ _)
  unfold Warp.OnlyRegisters at h
  unfold Warp.OnlyCompleted Warp.complete
  generalize (w.fillAll p.dests).applyAll p.writes = z at *
  rw [h]
  rfl

theorem Warp.complete_pend (w : Warp) (p : Pending) : (w.complete p).pend = w.pend.filter (·.id != p.id) := by
  have h : w.OnlyRegisters ((w.fillAll p.dests).applyAll p.writes) :=
    (Warp.fillAll_registers _ w).trans (Warp.applyAll_registers _ _)
  exact congrArg (fun z : Warp => z.pend.filter (·.id != p.id)) h

theorem Warp.settle_only (w : Warp) : w.OnlyCompleted w.settle := by
  unfold Warp.settle
  generalize List.filter _ _ = l
  induction l generalizing w with
  | nil => rfl
  | cons p l ih => exact (w.complete_only p).trans (ih _)

theorem State.completeNow_eq {s : State} {q : Pending} (h : q.killed = 0) :
    s.completeNow q = { s with warp := s.warp.complete q } := if_pos h

theorem State.completeNow_completed {f : State} {q : Pending} (h : q.killed = 0) : Completed f (f.completeNow q) q := by
  rw [State.completeNow_eq h]
  have hregs : f.warp.OnlyRegisters ((f.warp.fillAll q.dests).applyAll q.writes) :=
    (Warp.fillAll_registers _ _).trans (Warp.applyAll_registers _ _)
  have hkeeps := (Warp.fillAll_keeps q.dests f.warp).trans (Warp.applyAll_keeps q.writes (f.warp.fillAll q.dests))
  refine ⟨rfl, f.warp.complete_pend q, ?_, fun r hr => ?_, ⟨hkeeps.scalar, hkeeps.vector⟩, ?_, ?_, ?_⟩
  · show ((f.warp.fillAll q.dests).applyAll q.writes).fpflags ||| q.flags = f.warp.fpflags ||| q.flags
    rw [Warp.applyAll_fpflags, Warp.fillAll_fpflags]
  · exact Warp.full_applyAll q.writes _ (Warp.full_fillAll q.dests _ (.inr hr))
  · intro d x hw
    have h1 := Warp.holdsS_writeS (f.warp.fillAll q.dests) d x
    unfold Warp.complete
    rw [hw]
    exact ⟨h1.value, h1.full, h1.clean⟩
  · intro g hg
    obtain ⟨h, -, rfl⟩ : ∃ h ∈ ((f.warp.fillAll q.dests).applyAll q.writes).allFrags,
        { h with block := if h.block = some q.id then none else h.block, held := false } = g := by
      rcases List.mem_cons.1 hg with rfl | hg
      · exact ⟨_, List.mem_cons_self, rfl⟩
      · obtain ⟨h, hm, rfl⟩ := List.mem_map.1 hg
        exact ⟨h, List.mem_cons_of_mem _ hm, rfl⟩
    dsimp only
    split
    · simp
    · assumption
  · have hf : ((f.warp.fillAll q.dests).applyAll q.writes).frag = f.warp.frag :=
      (Warp.applyAll_other _ _).2.2.1.trans (Warp.fillAll_other _ _).2.2.1
    have hpc : ((f.warp.fillAll q.dests).applyAll q.writes).frag.pc = f.warp.frag.pc := congrArg Fragment.pc hf
    have hmask : ((f.warp.fillAll q.dests).applyAll q.writes).frag.mask = f.warp.frag.mask := congrArg Fragment.mask hf
    exact ⟨hpc, hmask⟩

/-! ## A fault that a handler takes (R83, R329) -/

theorem Warp.foldl_complete_pend (l : List Pending) : ∀ w : Warp,
    (l.foldl Warp.complete w).pend = w.pend.filter fun p => l.all fun r => p.id != r.id := by
  induction l with
  | nil => intro w; simp
  | cons r l ih =>
    intro w
    rw [List.foldl_cons, ih, Warp.complete_pend, List.filter_filter]
    refine List.filter_congr fun p _ => ?_
    rw [List.all_cons, Bool.and_comm]

theorem Warp.settle_pend (w : Warp) : w.settle.pend =
    w.pend.filter fun p => (w.pend.filter (·.kind == .result)).all fun r => p.id != r.id := Warp.foldl_complete_pend _ w

/-- What is left when one more instruction has completed was left before. -/
theorem Warp.mem_settle_of_complete {w : Warp} {q p : Pending} (h : p ∈ (w.complete q).settle.pend) :
    p ∈ w.settle.pend := by
  rw [Warp.settle_pend, Warp.complete_pend] at h
  obtain ⟨hm, hr⟩ := List.mem_filter.1 h
  obtain ⟨hp, hid⟩ := List.mem_filter.1 hm
  rw [Warp.settle_pend]
  refine List.mem_filter.2 ⟨hp, List.all_eq_true.2 fun r hrm => ?_⟩
  obtain ⟨hrp, hk⟩ := List.mem_filter.1 hrm
  by_cases hrq : r.id = q.id
  · rw [hrq]
    exact hid
  · exact List.all_eq_true.1 hr r (List.mem_filter.2 ⟨List.mem_filter.2 ⟨hrp, by simpa using hrq⟩, hk⟩)

theorem Warp.complete_uid (w : Warp) (p : Pending) : (w.complete p).uid = w.uid := by rw [w.complete_only p]

theorem Warp.settle_uid (w : Warp) : w.settle.uid = w.uid := by rw [w.settle_only]

/-- A handler that can be entered at once still can where fewer instructions are out. -/
theorem State.Handles.of_fewer {s t : State} (h : s.Handles) (hv : t.warp.trapvec = s.warp.trapvec)
    (ht : t.warp.trap.isSome = s.warp.trap.isSome) (hu : t.warp.uid = s.warp.uid) (ha : t.laneAway = s.laneAway)
    (hp : ∀ p ∈ t.warp.settle.pend, p ∈ s.warp.settle.pend) : t.Handles := by
  obtain ⟨h0, hnone, hq⟩ := h
  refine ⟨by rw [hv]; exact h0, by rw [hnone] at ht; simpa using ht, List.all_eq_true.2 fun p hm => ?_⟩
  have hold := List.all_eq_true.1 hq p (hp p hm)
  unfold State.mustEnd at hold ⊢
  rw [Warp.settle_uid] at hold ⊢
  rw [hu, ha]
  exact hold

theorem State.Handles.complete {s : State} (h : s.Handles) (q : Pending) :
    State.Handles { s with warp := s.warp.complete q } := by
  obtain ⟨h1, h2, -, -⟩ := s.warp.complete_other q
  exact h.of_fewer h1 h2 (s.warp.complete_uid q) rfl fun p hp => Warp.mem_settle_of_complete hp

/-- The warp that a fault brings into trap mode: at the address and with the lanes that the fault names. -/
theorem State.raise_inTrap {s : State} (h : s.Handles) {r : Raised} (hl : r.logged = false) :
    (s.raise r).warp.InTrap r.cause r.code r.pc r.lanes r.rpc r.addr ∧ (s.raise r).warp.raising = s.warp.raising
      ∧ (s.raise r).warp.heldFaults = s.warp.heldFaults := by
  obtain ⟨h1, h2, -, -⟩ := s.warp.settle_other
  have hraising : s.warp.settle.raising = s.warp.raising := by rw [s.warp.settle_only]
  have hheld : s.warp.settle.heldFaults = s.warp.heldFaults := by rw [s.warp.settle_only]
  obtain ⟨h0, ht, hq⟩ := h
  rw [ht] at h2
  have hq' : (State.quiet { s with warp := s.warp.settle } s.warp.settle) = true := hq
  unfold State.raise
  dsimp only [State.onWarp]
  rw [if_pos hq']
  unfold State.takeTrap
  dsimp only [State.onWarp]
  rw [if_neg (by simpa [h1, h2] using h0)]
  refine ⟨⟨rfl, rfl, rfl, ⟨_, rfl, rfl, rfl, rfl, rfl, rfl, rfl, ?_, ?_⟩, ⟨rfl, rfl⟩, rfl, rfl⟩, hraising, hheld⟩
  · simp [State.recordOf, h2]
  · intro _
    simp [State.recordOf, hl]

/-! ## The event (R37) -/

theorem State.focus_only (s : State) (u : Nat) :
    s.focus u = { s with warp := (s.focus u).warp, others := (s.focus u).others } := by
  unfold State.focus
  split
  · rfl
  · split <;> rfl

theorem State.Focused.only {s f : State} {w : Nat} (h : s.Focused f w) :
    f = { s with warp := f.warp, others := f.others } := by
  obtain ⟨rfl, -⟩ := h
  exact s.focus_only w

/-- No generation is full: nothing changes. -/
theorem State.settleBarriers_none {s : State} {g : Nat} (h : ∀ b ∈ (s.gang g).barriers, s.barrierFull g b = false) :
    s.settleBarriers g = s := by
  unfold State.settleBarriers
  rw [List.filter_eq_nil_iff.2 fun b hb => by simp [h b hb]]
  rfl

/-- Page locks that have started start no more. -/
theorem State.startLocks_started {s : State} {l : List PageLock} (h : ∀ p ∈ l, p.started = true) :
    l.foldl State.startLock s = s := by
  induction l with
  | nil => rfl
  | cons p l ih =>
    have hp : s.startLock p = s := if_pos (by simp [h p List.mem_cons_self])
    rw [List.foldl_cons, hp]
    exact ih fun q hq => h q (List.mem_cons_of_mem _ hq)

section
variable {s f : State} {w p : Nat} {q : Pending}

/-- An instruction completes in the warp in focus, where what it waits for has come. -/
theorem State.completion_event (h : s.Focused f w) (hq : f.warp.pend.find? (·.id == p) = some q)
    (hb : ∀ b ∈ (s.gang f.warp.gang).barriers, s.barrierFull f.warp.gang b = false)
    (hl : ∀ k ∈ s.pageLocks, k.warp = w → k.pend = p → k.started = true) (hc : s.completes f.warp q = true)
    (ha : s.abortGating f.warp q = s) (hd : s.delivers f.warp q = true) :
    exec (.instructionCompletion w p) s = .next (f.completion q).takeRaised := by
  obtain ⟨hf, hw, -⟩ := h
  have hlocks : (s.pageLocks.filter fun k => k.warp == w && k.pend == p).foldl State.startLock s = s := by
    refine State.startLocks_started fun k hk => ?_
    obtain ⟨hm, hk⟩ := List.mem_filter.1 hk
    simp only [Bool.and_eq_true, beq_iff_eq] at hk
    exact hl k hm hk.1 hk.2
  show execInstructionCompletion w p s = _
  unfold execInstructionCompletion
  simp only [hw, State.settleBarriers_none hb, hlocks, hq, hc, Bool.not_true, Bool.false_eq_true, if_false, ha, hd, if_true,
    ← hf]

theorem State.takeRaised_none (h : s.warp.raising = none) : s.takeRaised = s := by
  unfold State.takeRaised
  rw [h]

/-- The warp is on a core that runs. -/
def State.Runs (f : State) : Prop :=
  f.warp.resident = true ∧ (f.site f.warp.site).halted = false ∧ ((f.site f.warp.site).cluster f.warp.cluster).gate = .awake

theorem State.Focused.site (h : s.Focused f w) (i : Nat) : s.site i = f.site i := by
  rw [h.only]
  rfl

theorem State.Runs.reachable (hr : f.Runs) (h : s.Focused f w) : s.reachable f.warp = true := by
  obtain ⟨h1, h2, h3⟩ := hr
  simp [State.reachable, h.site, h1, h2, h3]

theorem State.Runs.delivers (hr : f.Runs) (h : s.Focused f w) (q : Pending) : s.delivers f.warp q = true := by
  simp [State.delivers, hr.reachable h]

theorem State.Runs.abortGating (hr : f.Runs) (h : s.Focused f w) (q : Pending) : s.abortGating f.warp q = s := by
  obtain ⟨-, -, h3⟩ := hr
  unfold State.abortGating
  split
  · refine if_neg ?_
    simp [h.site, Cluster.givesWay, h3]
  · rfl

/-- What a pending instruction waits for has come: it completes, and nothing else does. -/
theorem Come.completes (hc : Come s f q) (h : s.Focused f w) : s.completes f.warp q = true := by
  have hlanes : f.lanesDone f.warp q.id = s.lanesDone f.warp q.id := by
    rw [h.only]
    rfl
  unfold Come at hc
  unfold State.completes
  cases hk : q.kind <;> simp only [hk] at hc ⊢
  case lock | ltry | command | page | node => exact hc
  case barrier => simp [hc.1]
  case lanes => rw [← hlanes, hc.1]
  case step u =>
    obtain ⟨hready, hsteps⟩ := hc
    rw [hready]
    cases hx : s.findWarp u with
    | none => rfl
    | some x =>
      obtain ⟨h1, h2, h3⟩ := hsteps x hx
      have hnone : (x.pend.any fun q => q.stepped && s.mustEnd x q) = false :=
        List.any_eq_false.2 fun p hp => by simp [h3 p hp]
      simp [h1, h2, hnone]

theorem Come.completion (hc : Come s f q) : f.completion q = f.completeNow q := by
  unfold Come at hc
  unfold State.completion
  cases hk : q.kind <;> simp only [hk] at hc ⊢
  case barrier => rw [hc.2]
  case lanes => simp [Warp.refused, hc.2]

theorem Come.abortGating (hc : Come s f q) : s.abortGating f.warp q = s := by
  unfold Come at hc
  unfold State.abortGating
  split
  · next k hk => simp [hk] at hc
  · rfl

theorem State.completeNow_raising (h : q.killed = 0) : (s.completeNow q).warp.raising = s.warp.raising := by
  rw [State.completeNow_eq h]
  show (s.warp.complete q).raising = s.warp.raising
  rw [s.warp.complete_only q]

theorem State.raiseLate_eq (hh : s.Handles) (hr : s.warp.raising = none) (gen : Nat) (r : Raised) :
    s.raiseLate gen r = s.raise r := by
  obtain ⟨-, ht, -⟩ := hh
  exact if_neg (by simp [hr, ht])

/-- A poisoned barrier's instruction leaves the warp, and its cause is raised (R257). -/
theorem State.raisePending_inTrap (hk : q.killed = 0) (hr : s.warp.raising = none) (hh : s.Handles) (c : Cause) :
    let g := (s.warp.blocked q.id).getD s.warp.frag
    (s.raisePending q c).warp.InTrap c 0 q.pc (g.mask &&& ~~~s.warp.dead) g.pc 0
      ∧ (s.raisePending q c).warp.raising = none := by
  unfold State.raisePending
  dsimp only
  generalize hq' : { q with writes := [], flags := 0 } = q'
  have hk' : q'.killed = 0 := by rw [← hq']; exact hk
  have hr' : (s.completeNow q').warp.raising = none := (State.completeNow_raising hk').trans hr
  have hh' : (s.completeNow q').Handles := by rw [State.completeNow_eq hk']; exact hh.complete q'
  rw [State.raiseLate_eq hh' hr']
  obtain ⟨h1, h2, -⟩ := State.raise_inTrap hh' (r :=
    { cause := c, pc := q.pc, entry := ((s.warp.blocked q.id).getD s.warp.frag).entry,
      lanes := ((s.warp.blocked q.id).getD s.warp.frag).mask &&& ~~~s.warp.dead,
      rpc := ((s.warp.blocked q.id).getD s.warp.frag).pc, stepped := q.stepped }) rfl
  exact ⟨h1, h2.trans hr'⟩

theorem State.deliver_only (s : State) (fs : List HeldFault) : s.deliver fs = { s with
    warp := { s.warp with heldFaults := s.warp.heldFaults.filter fun h => !fs.contains h }
    gangs := (s.deliver fs).gangs } := by
  unfold State.deliver
  dsimp only
  split <;> rfl

theorem State.Handles.deliver (h : s.Handles) (fs : List HeldFault) : (s.deliver fs).Handles := by
  rw [s.deliver_only]
  refine h.of_fewer rfl rfl rfl rfl fun p hp => ?_
  rw [Warp.settle_pend] at hp ⊢
  exact hp

/-- Engine faults delivered by an instruction that has completed: the oldest brings the warp into trap mode (R181). -/
theorem State.deliver_inTrap (hk : q.killed = 0) (hr : s.warp.raising = none) (hh : s.Handles) (fs : List HeldFault)
    {gen : Nat} {r : Raised} (hl : r.logged = false) :
    let t := ((s.completeNow q).deliver fs).raiseLate gen r
    t.warp.InTrap r.cause r.code r.pc r.lanes r.rpc r.addr
      ∧ t.warp.heldFaults = s.warp.heldFaults.filter fun h => !fs.contains h := by
  have hh' : ((s.completeNow q).deliver fs).Handles := by
    rw [State.completeNow_eq hk]
    exact (hh.complete q).deliver fs
  have hraise : ((s.completeNow q).deliver fs).warp.raising = none := by
    rw [State.deliver_only]
    exact (State.completeNow_raising hk).trans hr
  have hheld : ((s.completeNow q).deliver fs).warp.heldFaults = s.warp.heldFaults.filter fun h => !fs.contains h := by
    rw [State.deliver_only, State.completeNow_eq hk]
    show (s.warp.complete q).heldFaults.filter _ = _
    rw [s.warp.complete_only q]
  intro t
  obtain ⟨h1, -, h3⟩ := State.raise_inTrap hh' hl
  have ht : t = ((s.completeNow q).deliver fs).raise r := State.raiseLate_eq hh' hraise gen r
  rw [ht]
  exact ⟨h1, h3.trans hheld⟩

/-- A WAITC in the warp in focus whose counter has come down. -/
theorem State.waitc_event (h : s.Focused f w) (hq : f.warp.pend.find? (·.id == p) = some q) {cls : Fin 4} {limit upto : Nat}
    (hk : q.kind = .waitc cls limit upto) (hr : f.Runs) (hn : f.warp.cnt cls ≤ limit) :
    let g := (f.warp.blocked p).getD f.warp.frag
    exec (.waitcSatisfied w p) s = .next (match f.warp.deliverable cls upto p with
      | [] => f.completeNow q
      | x :: more => ((f.completeNow q).deliver (x :: more)).raiseLate q.gen
          { engineRaised q.pc g.entry (g.mask &&& ~~~f.warp.dead) g.pc x more.length with stepped := q.stepped }) := by
  obtain ⟨hf, hw, -⟩ := id h
  intro g
  show execWaitcSatisfied w p s = _
  unfold execWaitcSatisfied
  have hreach := hr.reachable h
  simp only [hw, hq, hk, hreach, ← hf, Nat.not_lt.2 hn, decide_false, Bool.not_true, Bool.or_self, Bool.false_eq_true,
    if_false] <;> rfl

end

/-! ## A monitor that has matched (R251) -/

/-- One overflow monitor moves into the table where that has room. -/
def State.tabled (s : State) (m : Monitor) : State :=
  if m.table || !s.monitorRoom m.loc then s
  else (s.recall (lineOf m.loc)).mapMonitor m.id fun n => (s.recall (lineOf m.loc)).checkMonitor { n with table := true }

theorem State.fillTable_eq (s : State) : s.fillTable = s.monitors.foldl State.tabled s := rfl

/-- Where no partial value lies at the monitor's line, the monitors alone change, and stay the monitors that they are. -/
theorem State.tabled_only {s : State} {m : Monitor} (h : ∀ r ∈ s.partials, lineOf r.loc ≠ lineOf m.loc) :
    s.tabled m = { s with monitors := (s.tabled m).monitors }
      ∧ (s.tabled m).monitors.map (·.id) = s.monitors.map (·.id) := by
  unfold State.tabled
  rw [State.recall_clear h]
  split
  · exact ⟨rfl, rfl⟩
  · refine ⟨rfl, ?_⟩
    unfold State.mapMonitor
    rw [List.map_map]
    refine List.map_congr_left fun n _ => ?_
    dsimp only [Function.comp]
    split
    · unfold State.checkMonitor
      split <;> rfl
    · rfl

theorem State.foldl_tabled_only (l : List Monitor) : ∀ s : State, (∀ n ∈ l, ∀ r ∈ s.partials, lineOf r.loc ≠ lineOf n.loc) →
    l.foldl State.tabled s = { s with monitors := (l.foldl State.tabled s).monitors }
      ∧ (l.foldl State.tabled s).monitors.map (·.id) = s.monitors.map (·.id) := by
  induction l with
  | nil => exact fun s _ => ⟨rfl, rfl⟩
  | cons m l ih =>
    intro s h
    obtain ⟨h1, h2⟩ := State.tabled_only (h m List.mem_cons_self)
    have hp : (s.tabled m).partials = s.partials := by rw [h1]
    obtain ⟨g1, g2⟩ := ih (s.tabled m) fun n hn => hp ▸ h n (List.mem_cons_of_mem _ hn)
    exact ⟨by rw [List.foldl_cons, g1, h1], g2.trans h2⟩

/-- The pending instruction that a status reaches. -/
def Pending.answered (p : Pending) (v : Word64) : Pending :=
  { p with ready := true, writes := p.dests.map fun d => match d with
    | .s r => RegWrite.s r v
    | .v r => RegWrite.v r 0 (Vector.replicate 32 0)
    | .m _ | .t _ => RegWrite.s 0 0 }

/-- A monitor disarmed with a status for the warp in focus. -/
theorem State.disarm_only {s : State} {m : Monitor} (hm : m.warp = s.warp.uid)
    (h : ∀ n ∈ s.monitors, ∀ r ∈ s.partials, lineOf r.loc ≠ lineOf n.loc) (v : Word64) :
    s.disarm m v = { s with
      warp := { s.warp with pend := s.warp.pend.map fun p => if p.id == m.pend then p.answered v else p }
      monitors := (s.disarm m v).monitors } ∧ ∀ n ∈ (s.disarm m v).monitors, n.id ≠ m.id := by
  have ha : s.answer m.warp m.pend v = { s with
      warp := { s.warp with pend := s.warp.pend.map fun p => if p.id == m.pend then p.answered v else p } } := by
    rw [hm]
    exact if_pos rfl
  unfold State.disarm
  rw [ha, State.fillTable_eq]
  obtain ⟨h1, h2⟩ := State.foldl_tabled_only (s.monitors.filter (·.id != m.id)) { s with
    warp := { s.warp with pend := s.warp.pend.map fun p => if p.id == m.pend then p.answered v else p }
    monitors := s.monitors.filter (·.id != m.id) } fun n hn => h n (List.mem_filter.1 hn).1
  refine ⟨h1, fun n hn => ?_⟩
  have hid := List.mem_map_of_mem (f := (·.id)) hn
  rw [h2] at hid
  obtain ⟨k, hk, he⟩ := List.mem_map.1 hid
  rw [← he]
  simpa using (List.mem_filter.1 hk).2

/-- A status changes what an instruction has, not which it is. -/
def answeredAt (k : Nat) (v : Word64) (p : Pending) : Pending := if p.id == k then p.answered v else p

theorem answeredAt_id (k : Nat) (v : Word64) (p : Pending) : (answeredAt k v p).id = p.id := by
  unfold answeredAt
  split <;> rfl

theorem find?_answeredAt {l : List Pending} {k : Nat} {q : Pending} (h : l.find? (·.id == k) = some q) (v : Word64) :
    (l.map (answeredAt k v)).find? (·.id == k) = some (q.answered v) := by
  have hk : (q.id == k) = true := by simpa using List.find?_some h
  have hsame : ((fun p : Pending => p.id == k) ∘ answeredAt k v) = fun p => p.id == k :=
    funext fun p => by rw [Function.comp, answeredAt_id]
  rw [List.find?_map, hsame, h, Option.map_some, answeredAt, if_pos hk]

theorem filter_answeredAt (l : List Pending) (k : Nat) (v : Word64) :
    (l.map (answeredAt k v)).filter (·.id != k) = l.filter (·.id != k) := by
  have hsame : ((fun p : Pending => p.id != k) ∘ answeredAt k v) = fun p => p.id != k :=
    funext fun p => by rw [Function.comp, answeredAt_id]
  rw [List.filter_map, hsame]
  refine (List.map_congr_left fun p hp => ?_).trans (List.map_id _)
  have hne := (List.mem_filter.1 hp).2
  exact if_neg (by simpa using hne)

/-- The instruction of a monitor that has fired completes with MATCHED, which is 0. -/
theorem State.completeMonitor_matched {f : State} {q : Pending} {k : Nat} {m : Monitor} {d : Fin 64}
    (hm : f.monitors.find? (fun m => m.id == k && m.fired) = some m) (hw : m.warp = f.warp.uid) (hp : m.pend = q.id)
    (hq : f.warp.pend.find? (·.id == q.id) = some q) (hd : q.dests = [.s d]) (hk : q.killed = 0)
    (hc : ∀ n ∈ f.monitors, ∀ r ∈ f.partials, lineOf r.loc ≠ lineOf n.loc) :
    let t := f.completeMonitor k q
    t.warp.HoldsS d 0 ∧ t.warp.pend = f.warp.pend.filter (·.id != q.id) ∧ (∀ n ∈ t.monitors, n.id ≠ k)
      ∧ f.warp.Keeps t.warp [.s d] ∧ t.mem = f.mem ∧ t.warp.raising = f.warp.raising := by
  have hid : m.id = k := by
    have h := List.find?_some hm
    simp only [Bool.and_eq_true, beq_iff_eq] at h
    exact h.1
  obtain ⟨hdis, hmon⟩ := State.disarm_only hw hc 0
  have hfind : (f.disarm m 0).warp.pend.find? (·.id == q.id) = some (q.answered 0) := by
    rw [hdis]
    rw [hp]
    exact find?_answeredAt hq 0
  have ht : f.completeMonitor k q = (f.disarm m 0).completeNow (q.answered 0) := by
    unfold State.completeMonitor
    rw [hm]
    dsimp only
    rw [hfind]
  have hdone := State.completeNow_completed (f := f.disarm m 0) (q := q.answered 0) hk
  have hraise := State.completeNow_raising (s := f.disarm m 0) (q := q.answered 0) hk
  intro t
  rw [← ht] at hdone hraise
  change Completed (f.disarm m 0) t (q.answered 0) at hdone
  obtain ⟨hworld, hpend, -, -, hkeeps, hvalue, -, -⟩ := hdone
  have hwarp : (f.disarm m 0).warp = { f.warp with pend := f.warp.pend.map (answeredAt m.pend 0) } := by
    rw [hdis]
    rfl
  have hwr : (q.answered 0).writes = [.s d 0] := by simp [Pending.answered, hd]
  refine ⟨hvalue d 0 hwr, ?_, ?_, ?_, ?_, ?_⟩
  · rw [hpend, hwarp, hp]
    exact filter_answeredAt _ _ _
  · intro n hn
    rw [hworld] at hn
    rw [← hid]
    exact hmon n hn
  · rw [hwarp] at hkeeps
    have hk' := hkeeps.mono (es := [.s d]) (by simp [Pending.answered, hd, RegWrite.reg])
    exact ⟨hk'.scalar, hk'.vector⟩
  · rw [hworld, hdis]
  · rw [hraise, hwarp]

/-! ## The three completions of the event -/

section
variable {s f : State} {w : Nat} {q : Pending}

/-- What the instruction waits for has come: it completes. -/
theorem State.come_event (h : s.Focused f w) (hq : f.warp.pend.find? (·.id == q.id) = some q) (hr : f.warp.raising = none)
    (hk : q.killed = 0) (hb : ∀ b ∈ (s.gang f.warp.gang).barriers, s.barrierFull f.warp.gang b = false)
    (hl : ∀ k ∈ s.pageLocks, k.warp = w → k.pend = q.id → k.started = true) (hc : Come s f q)
    (hrun : q.kind = .result ∨ f.Runs) : exec (.instructionCompletion w q.id) s = .next (f.completeNow q) := by
  have hdel : s.delivers f.warp q = true := by
    rcases hrun with hres | hrun
    · simp [State.delivers, hres]
    · exact hrun.delivers h q
  have hev := State.completion_event h hq hb hl (hc.completes h) hc.abortGating hdel
  rw [hc.completion, State.takeRaised_none ((State.completeNow_raising hk).trans hr)] at hev
  exact hev

/-- The instruction's monitor has fired. -/
theorem State.matched_event (h : s.Focused f w) (hq : f.warp.pend.find? (·.id == q.id) = some q)
    (hr : (f.completion q).warp.raising = none)
    (hb : ∀ b ∈ (s.gang f.warp.gang).barriers, s.barrierFull f.warp.gang b = false)
    (hl : ∀ k ∈ s.pageLocks, k.warp = w → k.pend = q.id → k.started = true) {k : Nat} {m : Monitor}
    (hkind : q.kind = .monitor k) (hm : s.monitors.find? (fun m => m.id == k && m.fired) = some m) (hrun : f.Runs) :
    exec (.instructionCompletion w q.id) s = .next (f.completion q) := by
  have hcomes : s.completes f.warp q = true := by
    have hfired := List.find?_some (p := fun m : Monitor => m.id == k && m.fired) hm
    unfold State.completes
    rw [hkind]
    exact Bool.or_eq_true_iff.2 (.inr (List.any_eq_true.2 ⟨m, List.mem_of_find?_eq_some hm, hfired⟩))
  have hev := State.completion_event h hq hb hl hcomes (hrun.abortGating h q) (hrun.delivers h q)
  rw [State.takeRaised_none hr] at hev
  exact hev

/-- The instruction's barrier is poisoned. -/
theorem State.poisoned_event (h : s.Focused f w) (hq : f.warp.pend.find? (·.id == q.id) = some q)
    (hr : (f.completion q).warp.raising = none)
    (hb : ∀ b ∈ (s.gang f.warp.gang).barriers, s.barrierFull f.warp.gang b = false)
    (hl : ∀ k ∈ s.pageLocks, k.warp = w → k.pend = q.id → k.started = true) {c : Cause}
    (hkind : q.kind = .barrier) (hfault : q.fault = some c) (hrun : f.Runs) :
    exec (.instructionCompletion w q.id) s = .next (f.completion q) := by
  have hcomes : s.completes f.warp q = true := by
    unfold State.completes
    rw [hkind]
    simp [hfault]
  have hev := State.completion_event h hq hb hl hcomes (hrun.abortGating h q) (hrun.delivers h q)
  rw [State.takeRaised_none hr] at hev
  exact hev

theorem State.completion_monitor {k : Nat} (hkind : q.kind = .monitor k) : f.completion q = f.completeMonitor k q := by
  unfold State.completion
  rw [hkind]

theorem State.completion_poisoned {c : Cause} (hkind : q.kind = .barrier) (hfault : q.fault = some c) :
    f.completion q = f.raisePending q c := by
  unfold State.completion
  rw [hkind]
  dsimp only
  rw [hfault]

end

/-! ## A late result (R37, log 2) -/

/-- The pending instruction that a late scalar result leaves behind. -/
def Warp.latePend (w : Warp) (d : Fin 64) (x : Word64) : Pending :=
  { id := w.nextPend, pc := w.frag.pc, gen := w.traps, mask := w.frag.mask, kind := .result, dests := [.s d],
    writes := [.s d x], flags := 0, floats := true, killed := 0, killedAt := 0, ready := false, fault := none, faults := [],
    unit := none, acq := false, stepped := w.stepping }

/-- A scalar result whose completion is late: its register is empty, and it waits among the pending instructions. -/
theorem State.scalarResult_late {s : State} {d : Fin 64} (hd : d ≠ 0) (hl : s.delays.head? = some true) (x : Word64) :
    s.scalarResult d x = { s with
      delays := s.delays.tail
      warp := Warp.advance { s.warp with
        sFull := s.warp.sFull.set d false, pend := s.warp.pend ++ [s.warp.latePend d x]
        nextPend := s.warp.nextPend + 1 } } := by
  obtain ⟨ds, hds⟩ : ∃ ds, s.delays = true :: ds := by
    cases hs : s.delays with
    | nil => simp [hs] at hl
    | cons b ds => exact ⟨ds, by simpa [hs] using hl⟩
  have hempty : s.warp.emptyAll ([RegWrite.s d x].map RegWrite.reg) =
      { s.warp with sFull := s.warp.sFull.set d false } := if_neg hd
  unfold State.scalarResult State.finish
  rw [hds]
  dsimp only [List.tail_cons]
  unfold Warp.addPend
  dsimp only
  rw [hempty]
  rfl

/-- A late result completes, and the register holds it. -/
theorem State.late_completes {s : State} {d : Fin 64} (hd : d ≠ 0) (hl : s.delays.head? = some true) (x : Word64)
    (hlive : s.warp.live = true) (hf : s.warp.Fresh) (hr : s.warp.raising = none)
    (hb : ∀ q ∈ (s.gang s.warp.gang).barriers, s.barrierFull s.warp.gang q = false)
    (hp : ∀ p ∈ s.pageLocks, ¬ (p.warp = s.warp.uid ∧ p.pend = s.warp.nextPend)) :
    let t := s.scalarResult d x
    ∃ u, exec (.instructionCompletion s.warp.uid s.warp.nextPend) t = .next u ∧ u.warp.HoldsS d x
      ∧ u.warp.pend = s.warp.pend ∧ s.warp.Keeps u.warp [.s d] ∧ u.mem = s.mem := by
  intro t
  have ht := State.scalarResult_late hd hl x
  change t = _ at ht
  clear_value t
  have hold : s.warp.pend.filter (·.id != s.warp.nextPend) = s.warp.pend :=
    List.filter_eq_self.2 fun p hm => by simpa using (hf p hm).ne
  have hfind : t.warp.pend.find? (·.id == s.warp.nextPend) = some (s.warp.latePend d x) := by
    rw [ht]
    show (s.warp.pend ++ [s.warp.latePend d x]).find? (·.id == s.warp.nextPend) = _
    have hnone : s.warp.pend.find? (·.id == s.warp.nextPend) = none :=
      List.find?_eq_none.2 fun p hm => by simpa using (hf p hm).ne
    rw [List.find?_append, hnone]
    simp [Warp.latePend]
  have hfocus : t.Focused t s.warp.uid := by
    rw [ht]
    refine ⟨(if_pos rfl).symm, ?_, rfl⟩
    exact List.find?_cons_of_pos (by simp [hlive])
  have hev := State.completion_event hfocus hfind (by rw [ht]; exact hb)
    (fun k hk hw hk' => absurd ⟨hw, hk'⟩ (hp k (by rw [ht] at hk; exact hk))) rfl rfl
    (by simp [State.delivers, Warp.latePend])
  have hraise : (t.completeNow (s.warp.latePend d x)).warp.raising = none := by
    rw [State.completeNow_raising rfl, ht]
    exact hr
  have hdone : (t.completion (s.warp.latePend d x)).takeRaised = t.completeNow (s.warp.latePend d x) :=
    State.takeRaised_none hraise
  rw [hdone] at hev
  obtain ⟨hworld, hpend, -, -, hkeeps, hvalue, -, -⟩ := State.completeNow_completed (f := t) (q := s.warp.latePend d x) rfl
  refine ⟨_, hev, hvalue d x rfl, ?_, ?_, ?_⟩
  · rw [hpend, ht]
    show (s.warp.pend ++ [s.warp.latePend d x]).filter (·.id != s.warp.nextPend) = s.warp.pend
    rw [List.filter_append, hold]
    simp [Warp.latePend]
  · have hempty : s.warp.Keeps t.warp [.s d] := by
      rw [ht]
      refine ⟨fun r hr => ⟨rfl, ?_, rfl⟩, fun _ _ => ⟨rfl, rfl, rfl⟩⟩
      have hne : d.val ≠ r.val := fun h => hr (by simp [Fin.ext h.symm])
      show (s.warp.sFull.set d false)[r] = s.warp.sFull[r]
      simp [Vector.getElem_set_ne, hne]
    exact (hempty.trans hkeeps).mono (by simp [Warp.latePend, RegWrite.reg])
  · rw [hworld, ht]

/-- Settles O44: each completion is the event on the warp in focus, then one instruction leaving that warp. -/
theorem completions : Obligations.Completions := by
  unfold Obligations.Completions
  refine ⟨fun e he s d a b x y hd hready hl hlive hf hr hb hp => ?_, fun s f w p q h hq hr hk => ?_⟩
  · obtain ⟨u, hev, hholds, hpend, hkeeps, hmem⟩ :=
      State.late_completes hd hl (e.2 (s.warp.readS a) (s.warp.readS b)) hlive hf hr hb hp
    refine ⟨_, u, (exec_scalarTable_eq e he s d a b x y).trans (s.issue_ready hready _), ?_, ?_, hev, hholds, hpend, hkeeps,
      hmem⟩
    · rw [State.scalarResult_late hd hl]
      simp [Warp.full, hd, Warp.advance, Warp.goto]
    · rw [State.scalarResult_late hd hl]
      rfl
  · obtain rfl : q.id = p := by simpa using List.find?_some hq
    intro runs g
    refine ⟨fun hb hlk => ⟨fun hc hrun => ?_, fun k m d hkind hm hmw hmp hdest hnot hrun hclear => ?_,
      fun c hkind hfault hrun hh => ?_⟩, fun cls limit upto hkind hrun hn => ?_⟩
    · exact ⟨_, State.come_event h hq hr hk hb hlk hc hrun, State.completeNow_completed hk⟩
    · have hfm : f.monitors = s.monitors := by rw [h.only]
      have hfp : f.partials = s.partials := by rw [h.only]
      obtain ⟨h1, h2, h3, h4, h5, h6⟩ := State.completeMonitor_matched (hfm ▸ hm) (hmw.trans h.2.2.symm) hmp hq hdest hk
        (by rw [hfm, hfp]; exact hclear)
      rw [← State.completion_monitor hkind] at h1 h2 h3 h4 h5 h6
      exact ⟨_, State.matched_event h hq (h6.trans hr) hb hlk hkind hm hrun, h1, h2, h3, h4, h5⟩
    · obtain ⟨h1, h2⟩ := State.raisePending_inTrap hk hr hh c
      rw [← State.completion_poisoned hkind hfault] at h1 h2
      exact ⟨_, State.poisoned_event h hq h2 hb hlk hkind hfault hrun, h1⟩
    · intro out covered
      have hcov : f.warp.deliverable cls upto q.id = covered := by
        refine List.filter_congr fun x _ => ?_
        rw [List.not_any_eq_all_not]
        congr 2
        funext r
        cases r.kind <;> simp [Bool.not_and, bne, ← decide_not]
      have hev := State.waitc_event h hq hkind hrun hn
      rw [hcov] at hev
      clear_value covered
      refine ⟨fun hnone => ?_, fun x more hsome hh => ?_⟩
      · subst hnone
        exact ⟨_, hev, State.completeNow_completed hk⟩
      · subst hsome
        obtain ⟨h1, h2⟩ := State.deliver_inTrap hk hr hh (x :: more) (gen := q.gen)
          (r := { engineRaised q.pc g.entry (g.mask &&& ~~~f.warp.dead) g.pc x more.length with stepped := q.stepped }) rfl
        exact ⟨_, hev, h1, h2⟩

end Sys2Proof.Machine
end

section
/-! Obligations O10 and O11: the scalar instructions of majors 0x04 to 0x06 (R48, R51, R70–R76). -/

set_option Elab.async false

namespace Sys2Proof.Machine

/-! ## The values of the one-source scalars (R70) -/

/-- The leading zeros of a word that is not zero are what the logarithm of its value leaves of 63. -/
theorem leadingZeros_eq (p : Word64) : BitVec.ofNat 64 (leadingZeros p) = p.clz := by
  by_cases hp : p = 0
  · subst hp
    decide
  · have hlo := BitVec.two_pow_sub_clz_le_toNat_of_ne_zero (x := p) (by omega) hp
    have hhi := BitVec.toNat_lt_two_pow_sub_clz (x := p)
    have hlt : p.clz.toNat < 64 := BitVec.lt_def.1 (BitVec.clz_lt_iff_ne_zero.2 hp)
    have hne : p.toNat ≠ 0 := fun h => hp (BitVec.eq_of_toNat_eq h)
    have hlog : Nat.log2 p.toNat = 63 - p.clz.toNat := by
      refine (Nat.log2_eq_iff hne).2 ⟨hlo, ?_⟩
      rwa [show 63 - p.clz.toNat + 1 = 64 - p.clz.toNat by omega]
    rw [leadingZeros, if_neg hp, hlog]
    apply BitVec.eq_of_toNat_eq
    rw [BitVec.toNat_ofNat]
    omega

theorem popCount_eq (p : Word64) : popCount p = (List.finRange 64).countP fun i => p[i] := by
  rw [popCount, ← List.map_coe_finRange_eq_range, List.filter_map, List.length_map, List.countP_eq_length_filter]
  rfl

/-- The bits of a word weighed from the other end are the value of the word reversed. -/
theorem sum_bits_reversed {w : Nat} (p : BitVec w) :
    ((List.range w).map fun i => if p.getLsbD i then 2 ^ (w - 1 - i) else 0).sum = p.reverse.toNat := by
  induction w with
  | zero => simp [BitVec.of_length_zero]
  | succ w ih =>
    have hlow : ∀ i ∈ List.range w, (if p.getLsbD i then 2 ^ (w + 1 - 1 - i) else 0) =
        2 * if (p.setWidth w).getLsbD i then 2 ^ (w - 1 - i) else 0 := by
      intro i hi
      have hi : i < w := List.mem_range.1 hi
      have hpow : 2 ^ (w - i) = 2 * 2 ^ (w - 1 - i) := by
        rw [← Nat.pow_succ']
        congr 1
        omega
      simp [hi, hpow]
    have hrev : p.reverse = BitVec.concat (p.setWidth w).reverse p.msb := rfl
    rw [List.range_succ, List.map_append, List.sum_append, List.map_congr_left hlow, List.sum_map_mul_left, ih, hrev,
      BitVec.toNat_concat]
    simp [BitVec.msb_eq_getLsbD_last, Nat.mul_comm, Bool.toNat, Bool.cond_eq_ite]

theorem bitReverse_eq (p : Word64) : bitReverse p = p.reverse := by
  rw [bitReverse, sum_bits_reversed, BitVec.ofNat_toNat, BitVec.setWidth_eq]

/-- Every instruction of the table is the one-source scalar of the function that stands beside it. -/
theorem exec_scalarTable1_eq : ∀ e ∈ scalarTable1, ∀ (s : State) (d a : Fin 64) (x : Bool),
    exec (e.1 d a x) s = scalar1 e.2 d a x s := by
  have of_eq : ∀ {i : Fin 64 → Fin 64 → Bool → Instr} {f g : Word64 → Word64}, (∀ p, f p = g p) →
      (∀ s d a x, exec (i d a x) s = scalar1 f d a x s) →
      ∀ (s : State) (d a : Fin 64) (x : Bool), exec (i d a x) s = scalar1 g d a x s :=
    fun h hx => funext h ▸ hx
  simp only [scalarTable1, List.forall_mem_cons]
  exact ⟨of_eq leadingZeros_eq fun _ _ _ _ => rfl, of_eq (fun p => congrArg _ (popCount_eq p)) fun _ _ _ _ => rfl,
    of_eq bitReverse_eq fun _ _ _ _ => rfl, by simp⟩

/-! ## Immediates (R51, R72) -/

theorem Warp.imm64_eq (s : State) (i : BitVec 10) : s.warp.imm64 i = s.immediate i := s.warp.frag.hints.imm_eq i

theorem shiftLegal_iff (v : Word64) : shiftLegal v = true ↔ v.toNat < 64 := decide_eq_true_iff

/-- Two words side by side. -/
theorem shiftLeft_or_low (p q : Word64) : q <<< 32 ||| p &&& 0xFFFFFFFF = (q.setWidth 32 ++ p.setWidth 32 : BitVec 64) := by
  have hp : p.toNat &&& 4294967295 = p.toNat % 2 ^ 32 := Nat.and_two_pow_sub_one_eq_mod p.toNat 32
  have hq : q.toNat <<< 32 % 2 ^ 64 = 2 ^ 32 * (q.toNat % 2 ^ 32) := by
    rw [Nat.shiftLeft_eq]
    omega
  apply BitVec.eq_of_toNat_eq
  rw [BitVec.toNat_or, BitVec.toNat_and, BitVec.toNat_shiftLeft, BitVec.toNat_append, BitVec.toNat_setWidth,
    BitVec.toNat_setWidth, show (0xFFFFFFFF : Word64).toNat = 4294967295 from rfl, hp, hq, Nat.shiftLeft_eq, Nat.mul_comm]

/-- Every instruction of the table is the scalar of the function that stands beside it; the shifts alone turn an immediate
away. -/
theorem exec_immediateTable_eq : ∀ e ∈ immediateTable, ∀ (s : State) (d a : Fin 64) (i : BitVec 10) (x : Bool),
    exec (e.1 d a i x) s = scalarImm (fun v => !e.2.1 || shiftLegal v) e.2.2 d a i x s := by
  have of_eq : ∀ {n : Fin 64 → Fin 64 → BitVec 10 → Bool → Instr} {legal : Word64 → Bool}
      {f g : Word64 → Word64 → Word64}, (∀ p q, f p q = g p q) →
      (∀ s d a i x, exec (n d a i x) s = scalarImm legal f d a i x s) →
      ∀ (s : State) (d a : Fin 64) (i : BitVec 10) (x : Bool), exec (n d a i x) s = scalarImm legal g d a i x s := by
    intro n legal f g h hx s d a i x
    rw [hx, funext fun p => funext (h p)]
  have same : ∀ (f : Word64 → Word64 → Word64) (p q : Word64), f p q = f p q := fun _ _ _ => rfl
  simp only [immediateTable, List.forall_mem_cons]
  exact ⟨of_eq (same _) fun _ _ _ _ _ => rfl, of_eq (same _) fun _ _ _ _ _ => rfl, of_eq (same _) fun _ _ _ _ _ => rfl,
    of_eq (same _) fun _ _ _ _ _ => rfl, of_eq (fun _ _ => (BitVec.shiftLeft_eq' ..).symm) fun _ _ _ _ _ => rfl,
    of_eq (fun _ _ => (BitVec.ushiftRight_eq' ..).symm) fun _ _ _ _ _ => rfl, of_eq (same _) fun _ _ _ _ _ => rfl,
    of_eq boolWord_slt fun _ _ _ _ _ => rfl, of_eq shiftLeft_or_low fun _ _ _ _ _ => rfl, by simp⟩

/-! ## Units that deliver a scalar -/

/-- A unit that is ready and whose effect is a scalar result. -/
theorem State.issue_ready_scalarDid {s : State} (hp : s.Prompt) {n : Need} (h : s.Ready n) {e : State → State} {d : Fin 64}
    {x : Word64} (he : e s = s.scalarResult d x) : ScalarDid s (s.issue n e) d x := by
  obtain ⟨hdid, hholds, hflags⟩ := State.scalarResult_did hp d x
  exact ⟨_, by rw [State.issue_ready h, he], hdid, hholds, hflags⟩

/-- A unit with a hint that no plain unit accepts is no instruction. -/
theorem State.issue_extraHint {s : State} (h : s.Handles)
    (hx : s.warp.frag.hints.dup = true ∨ s.warp.frag.hints.himm ≠ none ∨ s.warp.frag.hints.hblk ≠ none
      ∨ s.warp.frag.hints.hmod ≠ none) {n : Need} (hd : n.denied = false) (hn : n.himm = false ∧ n.hblk = false ∧ n.hmod = none)
    (e : State → State) : Traps s (s.issue n e) .illenc := by
  have hl : hintsLegal s.warp.frag.hints n = false := by
    obtain ⟨h1, h2, h3⟩ := hn
    unfold hintsLegal
    rw [h1, h2, h3]
    generalize s.warp.frag.hints = k at hx
    obtain ⟨himm, hblk, hmod, hsch, dup⟩ := k
    rcases hx with hx | hx | hx | hx
    · simp_all
    · cases himm <;> simp_all
    · cases hblk <;> simp_all
    · cases hmod <;> simp_all
  exact State.issue_traps h (by simp [State.gate, hd, hl]) e

theorem scalarImm_did {s : State} (hp : s.Prompt) {legal : Word64 → Bool} {d a : Fin 64} {i : BitVec 10} {x : Bool}
    (hl : legal (s.immediate i) = true) (h : s.Ready { himm := true, dests := [.s d], srcs := [(.s a, x)] })
    (f : Word64 → Word64 → Word64) :
    ScalarDid s (scalarImm legal f d a i x s) d (f (s.warp.readS a) (s.immediate i)) := by
  rw [← Warp.imm64_eq] at hl ⊢
  exact State.issue_ready_scalarDid hp (h.of_legal hl) rfl

theorem scalarImm_illegal {s : State} (h : s.Handles) {legal : Word64 → Bool} {i : BitVec 10}
    (hl : legal (s.immediate i) = false) (d a : Fin 64) (x : Bool) (f : Word64 → Word64 → Word64) :
    Traps s (scalarImm legal f d a i x s) .illenc := by
  rw [← Warp.imm64_eq] at hl
  exact State.issue_traps h (s.gate_illegal rfl hl) _

/-! ## Words -/

/-- What holds of each place of a list holds of the first one and of the places after it. -/
theorem forall_getElem?_cons {α : Type} {P : Nat → α → Prop} {a : α} {l : List α} :
    (∀ k e, (a :: l)[k]? = some e → P k e) ↔ P 0 a ∧ ∀ k e, l[k]? = some e → P (k + 1) e := by
  refine ⟨fun h => ⟨h 0 a rfl, fun k e hk => h (k + 1) e hk⟩, fun ⟨h0, h⟩ k e hk => ?_⟩
  cases k with
  | zero => exact Option.some.inj hk ▸ h0
  | succ k => exact h k e hk

theorem encode_imm {n : Instr} {e op d a fn : Nat} {i : BitVec 10} {x : Bool} (h : word? n = some e)
    (he : e = op * 2 ^ 26 + d * 2 ^ 20 + a * 2 ^ 14 + fn * 2 ^ 11 + i.toNat * 2 + x.toNat) :
    encode n = [immWord op d a fn i x] := by
  simp only [encode, h, he, immWord]

theorem encode_scalarTable : ∀ k e, scalarTable[k]? = some e → ∀ (d a b : Fin 64) (x y : Bool),
    encode (e.1 d a b x y) = [s3Word 4 d a b k x y] := by
  simp only [scalarTable, forall_getElem?_cons]
  refine ⟨?_, ?_, ?_, ?_, ?_, ?_, ?_, ?_, ?_, ?_, ?_, ?_, ?_, ?_, ?_, ?_, ?_, ?_, ?_, ?_, ?_, ?_, ?_, by simp⟩ <;>
    exact fun d a b x y => encode_s3 rfl (by omega)

theorem encode_scalarTable1 : ∀ k e, scalarTable1[k]? = some e → ∀ (d a : Fin 64) (x : Bool),
    encode (e.1 d a x) = [s3Word 4 d a 0 (23 + k) x false] := by
  simp only [scalarTable1, forall_getElem?_cons]
  refine ⟨?_, ?_, ?_, by simp⟩ <;> exact fun d a x => encode_s3 rfl (by simp only [Bool.toNat_false]; omega)

/-- A word outside the privileged majors whose major's table has no line for it. -/
theorem illegal_of_major {w : BitVec 32} {m : Nat} (hw : bits w 26 6 = m) (hm : m ∉ [0x3A, 0x3B])
    (hr : w.toNat / 67108864 = m → rawDecode w.toNat = none) : Illegal w := by
  have hmajor : w.toNat / 67108864 = m := by
    have := w.isLt
    unfold bits at hw
    omega
  refine illegal_of_undecoded ?_ (by rw [show w.toNat / 2 ^ 26 = m from hmajor]; exact hm)
  rw [decodeWord, hr hmajor]
  rfl

/-- The codes of major 0x04 past its last instruction, and a unary one with a second source (R70). -/
theorem decode04_reserved {w : Nat} (h : 26 ≤ w / 2 ^ 2 % 2 ^ 6
    ∨ (23 ≤ w / 2 ^ 2 % 2 ^ 6 ∧ (w / 2 ^ 8 % 2 ^ 6 ≠ 0 ∨ w / 2 ^ 0 % 2 ^ 1 ≠ 0))) : decode04 w = none := by
  unfold decode04
  split
  case h_27 => rfl
  case h_24 k => exact if_neg (by omega)
  case h_25 k => exact if_neg (by omega)
  case h_26 k => exact if_neg (by omega)
  all_goals next k => omega

/-- ENTER with a source, LEAVE with a source or a destination, and the codes of major 0x06 past them (R75, R76). -/
theorem decode06_reserved {w : Nat} (h :
    (w / 2 ^ 11 % 2 ^ 3 = 3 ∧ (w / 2 ^ 14 % 2 ^ 6 ≠ 0 ∨ w / 2 ^ 0 % 2 ^ 1 ≠ 0))
    ∨ (w / 2 ^ 11 % 2 ^ 3 = 4 ∧ (w / 2 ^ 14 % 2 ^ 12 ≠ 0 ∨ w / 2 ^ 0 % 2 ^ 1 ≠ 0))
    ∨ 5 ≤ w / 2 ^ 11 % 2 ^ 3) : decode06 w = none := by
  unfold decode06
  split
  case h_6 => rfl
  case h_4 k => exact if_neg (by omega)
  case h_5 k => exact if_neg (by omega)
  all_goals next k => omega

/-- Settles O10: each table's instructions are the shared units of the functions that stand beside them. -/
theorem scalarArithmetic : Obligations.ScalarArithmetic := by
  unfold Obligations.ScalarArithmetic
  refine ⟨⟨fun e he s d a b x y hp h => ?_, fun e he s d a x hp h => ?_⟩,
    ⟨encode_scalarTable, encode_scalarTable1, fun w hw h => ?_⟩, fun s h hx => ⟨fun e he d a b x y => ?_, fun e he d a x => ?_⟩,
    fun e he s d a i x => ⟨fun hp hl h => ?_, fun h hs hi => ?_⟩, fun s d i hp h => ⟨?_, ?_⟩⟩
  · rw [exec_scalarTable_eq e he]
    exact State.issue_ready_scalarDid hp h rfl
  · rw [exec_scalarTable1_eq e he]
    exact State.issue_ready_scalarDid hp h rfl
  · exact illegal_of_major hw (by decide) fun k => (Laws.RoundTrip.raw04 k).trans (decode04_reserved h)
  · rw [exec_scalarTable_eq e he]
    exact State.issue_extraHint h hx rfl ⟨rfl, rfl, rfl⟩ _
  · rw [exec_scalarTable1_eq e he]
    exact State.issue_extraHint h hx rfl ⟨rfl, rfl, rfl⟩ _
  · rw [exec_immediateTable_eq e he]
    refine scalarImm_did hp ?_ h _
    cases hs : e.2.1 with
    | false => rfl
    | true => exact (shiftLegal_iff _).2 (hl hs)
  · rw [exec_immediateTable_eq e he]
    refine scalarImm_illegal h ?_ d a x _
    rw [hs]
    exact decide_eq_false (by omega)
  · rw [← Warp.imm64_eq]
    exact State.issue_ready_scalarDid hp h (e := fun s => s.scalarResult d (s.warp.imm64 i)) rfl
  · rw [← Warp.imm64_eq]
    exact State.issue_ready_scalarDid hp h
      (e := fun s => s.scalarResult d (s.warp.frag.fetch.setWidth 64 + s.warp.imm64 i)) rfl

/-! ## Frames (R75, R76) -/

theorem frameLegal_iff (v : Word64) : frameLegal v = true ↔ 0 < v.toInt ∧ v.toInt % 16 = 0 := by
  have h := v.isLt
  unfold frameLegal
  simp only [Bool.and_eq_true, decide_eq_true_eq, beq_iff_eq, BitVec.toInt_eq_toNat_cond]
  split <;> omega

/-- A write of another scalar register leaves a result standing. -/
theorem Warp.HoldsS.writeS_other {w : Warp} {r q : Fin 64} {x : Word64} (h : w.HoldsS r x) (hq : q ≠ r) (y : Word64) :
    (w.writeS q y).HoldsS r x := by
  obtain ⟨hs, hf, hp⟩ := (w.writeS_keeps q y).scalar r (by simpa using hq.symm)
  obtain ⟨h1, h2, h3⟩ := h
  refine ⟨?_, ?_, fun h0 => hp.trans (h3 h0)⟩
  · unfold Warp.readS at h1 ⊢
    rw [hs]
    exact h1
  · simp only [Warp.full] at h2 ⊢
    rw [hf]
    exact h2

/-- A result in time stands in its warp after the move to the next unit. -/
theorem State.finish_advance_holds {s : State} (hp : s.Prompt) {ws : List RegWrite} {r : Fin 64} {x : Word64}
    (h : (s.warp.applyAll ws).HoldsS r x) : (s.finish ws).advance.warp.HoldsS r x := by
  rw [State.finish_prompt hp]
  exact ⟨h.value, h.full, h.clean⟩

section Frames

variable {s : State} {i : BitVec 10}

theorem exec_enter (d : Fin 64) : exec (.enter d i) s =
    s.issue { himm := true, legal := frameLegal (s.warp.imm64 i), dests := [.s 62, .s d], srcs := [(.s 62, false)] } fun s =>
      if (s.warp.readS 62).toNat - 32 * (s.warp.imm64 i).toInt < s.warp.stklim.toNat then s.trap .stkovf
      else (s.finish [.s 62 (word64 ((s.warp.readS 62).toNat - 32 * (s.warp.imm64 i).toInt)), .s d (s.warp.readS 62)]).advance :=
  rfl

theorem exec_leave : exec (.leave i) s =
    s.issue { himm := true, legal := frameLegal (s.warp.imm64 i), dests := [.s 62], srcs := [(.s 62, false)] } fun s =>
      if (s.warp.stktop.toNat : Int) < (s.warp.readS 62).toNat + 32 * (s.warp.imm64 i).toInt then s.trap .stkovf
      else (s.finish [.s 62 (word64 ((s.warp.readS 62).toNat + 32 * (s.warp.imm64 i).toInt))]).advance := rfl

/-- Where the new stack pointer stays at STKLIM or above it, ENTER moves it and delivers the old one. -/
theorem enter_did {d : Fin 64} (hp : s.Prompt) (hn : 0 < (s.immediate i).toInt ∧ (s.immediate i).toInt % 16 = 0)
    (h : s.Ready { himm := true, dests := [.s 62, .s d], srcs := [(.s 62, false)] })
    (hroom : s.warp.stklim.toNat ≤ (s.warp.readS 62).toNat - 32 * (s.immediate i).toInt) :
    ∃ t, exec (.enter d i) s = .next t ∧ Did s t [.s 62, .s d] s.next ∧ t.warp.HoldsS d (s.warp.readS 62)
      ∧ (d ≠ 62 → t.warp.HoldsS 62 (BitVec.ofInt 64 ((s.warp.readS 62).toNat - 32 * (s.immediate i).toInt))) := by
  rw [← Warp.imm64_eq] at hn hroom ⊢
  refine ⟨_, (exec_enter d).trans (State.issue_ready (h.of_legal ((frameLegal_iff _).2 hn)) _), ?_⟩
  rw [if_neg (by omega)]
  refine ⟨State.finish_advance_did hp _ 0, State.finish_advance_holds hp (Warp.holdsS_writeS _ _ _), fun hd => ?_⟩
  exact State.finish_advance_holds hp ((Warp.holdsS_writeS _ _ _).writeS_other hd _)

theorem enter_overflows {d : Fin 64} (hn : 0 < (s.immediate i).toInt ∧ (s.immediate i).toInt % 16 = 0)
    (h : s.Ready { himm := true, dests := [.s 62, .s d], srcs := [(.s 62, false)] }) (hh : s.Handles)
    (hover : (s.warp.readS 62).toNat - 32 * (s.immediate i).toInt < s.warp.stklim.toNat) :
    Traps s (exec (.enter d i) s) .stkovf := by
  rw [← Warp.imm64_eq] at hn hover
  rw [exec_enter]
  exact State.issue_ready_traps hh (h.of_legal ((frameLegal_iff _).2 hn)) _ (if_pos hover)

/-- Where the new stack pointer stays at its value at entry or below it, LEAVE moves it. -/
theorem leave_did (hp : s.Prompt) (hn : 0 < (s.immediate i).toInt ∧ (s.immediate i).toInt % 16 = 0)
    (h : s.Ready { himm := true, dests := [.s 62], srcs := [(.s 62, false)] })
    (hroom : (s.warp.readS 62).toNat + 32 * (s.immediate i).toInt ≤ s.warp.stktop.toNat) :
    ∃ t, exec (.leave i) s = .next t ∧ Did s t [.s 62] s.next
      ∧ t.warp.HoldsS 62 (BitVec.ofInt 64 ((s.warp.readS 62).toNat + 32 * (s.immediate i).toInt)) := by
  rw [← Warp.imm64_eq] at hn hroom ⊢
  refine ⟨_, exec_leave.trans (State.issue_ready (h.of_legal ((frameLegal_iff _).2 hn)) _), ?_⟩
  rw [if_neg (by omega)]
  refine ⟨State.finish_advance_did hp _ 0, State.finish_advance_holds hp ?_⟩
  exact Warp.holdsS_writeS s.warp 62 _

theorem leave_overflows (hn : 0 < (s.immediate i).toInt ∧ (s.immediate i).toInt % 16 = 0)
    (h : s.Ready { himm := true, dests := [.s 62], srcs := [(.s 62, false)] }) (hh : s.Handles)
    (hover : (s.warp.stktop.toNat : Int) < (s.warp.readS 62).toNat + 32 * (s.immediate i).toInt) :
    Traps s (exec (.leave i) s) .stkovf := by
  rw [← Warp.imm64_eq] at hn hover
  rw [exec_leave]
  exact State.issue_ready_traps hh (h.of_legal ((frameLegal_iff _).2 hn)) _ (if_pos hover)

/-- A frame of any other size is no instruction. -/
theorem frame_illegal (h : s.Handles) (hn : (s.immediate i).toInt ≤ 0 ∨ (s.immediate i).toInt % 16 ≠ 0) (d : Fin 64) :
    Traps s (exec (.enter d i) s) .illenc ∧ Traps s (exec (.leave i) s) .illenc := by
  have hl : frameLegal (s.warp.imm64 i) = false := by
    rw [← Bool.not_eq_true, frameLegal_iff, Warp.imm64_eq]
    omega
  rw [exec_enter, exec_leave]
  exact ⟨State.issue_traps h (s.gate_illegal rfl hl) _, State.issue_traps h (s.gate_illegal rfl hl) _⟩

end Frames

/-- Settles O11: ENTER and LEAVE with room, without it, and with a size that is none; then the words. -/
theorem stackFrames : Obligations.StackFrames := by
  unfold Obligations.StackFrames
  refine ⟨fun s d i hp => ⟨fun hn h => ⟨enter_did hp hn h, enter_overflows hn h⟩,
    fun hn h => ⟨leave_did hp hn h, leave_overflows hn h⟩, fun h hn => frame_illegal h hn d⟩,
    ⟨fun d i => ⟨encode_imm rfl ?_, encode_imm rfl ?_⟩, fun w hw h => ?_⟩⟩
  · simp only [Bool.toNat_false]
    omega
  · simp only [Bool.toNat_false]
    omega
  · exact illegal_of_major hw (by decide) fun k => (Laws.RoundTrip.raw06 k).trans (decode06_reserved h)

end Sys2Proof.Machine
end

section
/-! Obligation O12: branches, jumps, calls and returns (R44, R78–R80). -/

set_option Elab.async false

namespace Sys2Proof.Machine

/-! ## Targets and conditions (R44, R78) -/

theorem branchTarget_eq {n : Nat} (pc : Pc) (o : BitVec n) : branchTarget pc o = pc + 4 * o.signExtend 57 :=
  congrArg (pc + ·) (BitVec.ofInt_mul 4 o.toInt)

theorem toInt_beq_zero (v : Word64) : (v.toInt == 0) = (v == 0) := by
  rw [Bool.eq_iff_iff, beq_iff_eq, beq_iff_eq, ← BitVec.toInt_inj]
  rfl

theorem decide_toInt_neg (v : Word64) : decide (v.toInt < 0) = v.msb := BitVec.msb_eq_toInt.symm

theorem decide_toInt_nonneg (v : Word64) : decide (0 ≤ v.toInt) = !v.msb := by
  rw [← decide_toInt_neg, ← decide_not, decide_eq_decide]
  omega

theorem decide_toInt_nonpos (v : Word64) : decide (v.toInt ≤ 0) = (v == 0 || v.msb) := by
  rw [← decide_toInt_neg, ← toInt_beq_zero, Bool.eq_iff_iff]
  simp only [Bool.or_eq_true, decide_eq_true_eq, beq_iff_eq]
  omega

theorem decide_toInt_pos (v : Word64) : decide (0 < v.toInt) = (v != 0 && !v.msb) := by
  rw [bne, ← Bool.not_or, ← decide_toInt_nonpos, ← decide_not, decide_eq_decide]
  omega

/-- Every instruction of the table is a branch on the condition that stands beside it. -/
theorem exec_branchTable : ∀ e ∈ branchTable, ∃ test : Int → Bool, (∀ v : Word64, test v.toInt = e.2 v)
    ∧ ∀ (s : State) (a : Fin 64) (o : BitVec 17), exec (e.1 a o) s = branchOn test a o s := by
  simp only [branchTable, List.forall_mem_cons]
  exact ⟨⟨fun v => v == 0, toInt_beq_zero, fun _ _ _ => rfl⟩,
    ⟨fun v => v != 0, fun v => congrArg not (toInt_beq_zero v), fun _ _ _ => rfl⟩,
    ⟨fun v => decide (v < 0), decide_toInt_neg, fun _ _ _ => rfl⟩,
    ⟨fun v => decide (0 ≤ v), decide_toInt_nonneg, fun _ _ _ => rfl⟩,
    ⟨fun v => decide (v ≤ 0), decide_toInt_nonpos, fun _ _ _ => rfl⟩,
    ⟨fun v => decide (0 < v), decide_toInt_pos, fun _ _ _ => rfl⟩, by simp⟩

/-! ## Units that move their fragment -/

section Exec

variable (s : State) (a : Fin 64) (x : Bool)

theorem exec_bra (o : BitVec 17) :
    exec (.bra o) s = s.issue {} fun s => s.goto (s.warp.frag.fetch + 4 * o.signExtend 57) := by
  simp only [← branchTarget_eq]
  rfl

theorem exec_jmp (o : BitVec 26) :
    exec (.jmp o) s = s.issue {} fun s => s.goto (s.warp.frag.fetch + 4 * o.signExtend 57) := by
  simp only [← branchTarget_eq]
  rfl

theorem exec_call (o : BitVec 26) : exec (.call o) s = s.issue { dests := [.s 63] } fun s =>
    (s.finish [.s 63 s.warp.returnAddress]).goto (s.warp.frag.fetch + 4 * o.signExtend 57) := by
  simp only [← branchTarget_eq]
  rfl

theorem exec_jr : exec (.jr a x) s = s.issue { srcs := [(.s a, x)] } fun s => s.jumpTo (s.warp.readS a) id := rfl

theorem exec_callr : exec (.callr a x) s = s.issue { dests := [.s 63], srcs := [(.s a, x)] } fun s =>
    s.jumpTo (s.warp.readS a) fun s => s.finish [.s 63 s.warp.returnAddress] := rfl

theorem exec_ret : exec .ret s = s.issue { srcs := [(.s 63, false)] } fun s =>
    if s.warp.readS 63 = 0 then s.exitFragment else s.jumpTo (s.warp.readS 63) id := rfl

end Exec

/-- A unit that is ready and whose effect is to go on at an address. -/
theorem State.issue_ready_goes {s : State} {n : Need} (h : s.Ready n) {e : State → State} {pc : Pc} (he : e s = s.goto pc) :
    Goes s (s.issue n e) pc :=
  ⟨s.goto pc, by rw [State.issue_ready h, he], rfl, rfl, rfl⟩

theorem branchOn_goes {s : State} {a : Fin 64} (h : s.Ready { srcs := [(.s a, false)] }) (test : Int → Bool)
    (o : BitVec 17) : Goes s (branchOn test a o s)
      (if test (s.warp.readS a).toInt then s.warp.frag.fetch + 4 * o.signExtend 57 else s.next) := by
  refine State.issue_ready_goes h ?_
  rw [branchTarget_eq]
  split <;> rfl

/-- A branch waits while its source is empty. -/
theorem branchOn_waits {s : State} (hh : hintsLegal s.warp.frag.hints {} = true) {a : Fin 64}
    (ha : s.warp.full (.s a) = false) (test : Int → Bool) (o : BitVec 17) : Waits s (branchOn test a o s) := by
  have hl : hintsLegal s.warp.frag.hints { srcs := [(.s a, false)] } = true := (hintsLegal_congr _ rfl rfl rfl rfl).trans hh
  exact State.issue_waits (by simp [State.gate, hl, ha]) _

/-- Results in time, flags, and the move to an address. -/
theorem State.finish_goto_did {s : State} (h : s.Prompt) (ws : List RegWrite) (pc : Pc) :
    Did s ((s.finish ws).goto pc) (ws.map RegWrite.reg) pc := by
  have hkeeps := Warp.applyAll_keeps ws s.warp
  obtain ⟨-, -, hfrag, -⟩ := Warp.applyAll_other ws s.warp
  rw [State.finish_prompt h]
  refine ⟨⟨rfl, fun _ => rfl⟩, (Warp.applyAll_registers ws s.warp).moved _ _, ⟨hkeeps.scalar, hkeeps.vector⟩, ?_⟩
  unfold Fragment.MovedTo State.goto State.onWarp Warp.goto
  dsimp only
  rw [hfrag]

/-- A call goes to its target and leaves the address of the next unit in register 63 (R79). -/
theorem State.call_did {s : State} (h : s.Prompt) (pc : Pc) :
    let t := (s.finish [.s 63 s.warp.returnAddress]).goto pc
    Did s t [.s 63] pc ∧ t.warp.HoldsS 63 (s.warp.frag.fetch.setWidth 64 + 4) := by
  have hlink : s.warp.returnAddress = s.warp.frag.fetch.setWidth 64 + 4 := by
    rw [Warp.returnAddress, BitVec.ofNat_add, BitVec.ofNat_toNat]
    rfl
  refine ⟨State.finish_goto_did h _ pc, ?_⟩
  have hholds := Warp.holdsS_writeS s.warp 63 s.warp.returnAddress
  rw [State.finish_prompt h, ← hlink]
  exact ⟨hholds.value, hholds.full, hholds.clean⟩

/-! ## Jumps to a register's value (R80) -/

/-- A multiple of 4 within the address space is gone to. -/
theorem State.jumpTo_target {s : State} {pc : Pc} (hpc : pc.toNat % 4 = 0) (e : State → State) :
    s.jumpTo (pc.setWidth 64) e = (e s).goto pc := by
  have hlt := pc.isLt
  have hval : (pc.setWidth 64).toNat = pc.toNat := by
    rw [BitVec.toNat_setWidth]
    omega
  unfold State.jumpTo
  rw [if_neg (by omega), if_neg (by omega), BitVec.setWidth_setWidth_of_le _ (by decide), BitVec.setWidth_eq]

/-- Any other value raises ALIGN or RANGE. -/
theorem State.jumpTo_faults (s : State) (v : Word64) (e : State → State) :
    (v.toNat % 4 ≠ 0 → s.jumpTo v e = s.trap .align v)
    ∧ (v.toNat % 4 = 0 → 2 ^ 57 ≤ v.toNat → s.jumpTo v e = s.trap .range v) := by
  unfold State.jumpTo
  refine ⟨fun h => if_pos h, fun h hr => ?_⟩
  rw [if_neg (by omega), if_pos hr]

/-- A unit that jumps to a value which is no target. -/
theorem jump_checked {s : State} (hh : s.Handles) {n : Need} (h : s.Ready n) {e f : State → State} {v : Word64}
    (he : v.toNat % 4 ≠ 0 ∨ 2 ^ 57 ≤ v.toNat → e s = s.jumpTo v f) :
    (v.toNat % 4 ≠ 0 → Traps s (s.issue n e) .align v)
    ∧ (v.toNat % 4 = 0 → 2 ^ 57 ≤ v.toNat → Traps s (s.issue n e) .range v) := by
  obtain ⟨halign, hrange⟩ := s.jumpTo_faults v f
  exact ⟨fun ha => State.issue_ready_traps hh h e ((he (.inl ha)).trans (halign ha)),
    fun ha hr => State.issue_ready_traps hh h e ((he (.inr hr)).trans (hrange ha hr))⟩

/-! ## Words -/

theorem encode_cond {i : Instr} {e op cond sa : Nat} {o : BitVec 17} (h : word? i = some e)
    (he : e = op * 2 ^ 26 + cond * 2 ^ 23 + sa * 2 ^ 17 + o.toNat) : encode i = [condWord op cond sa o] := by
  simp only [encode, h, he, condWord]

theorem encode_branchTable : ∀ k e, branchTable[k]? = some e → ∀ (a : Fin 64) (o : BitVec 17),
    encode (e.1 a o) = [condWord 8 k a o] := by
  simp only [branchTable, forall_getElem?_cons]
  refine ⟨?_, ?_, ?_, ?_, ?_, ?_, by simp⟩ <;> exact fun a o => encode_cond rfl (by omega)

/-- Condition 7 of major 0x08, and BRA with a source (R78). -/
theorem decode08_reserved {w : Nat} (h : w / 2 ^ 23 % 2 ^ 3 = 7 ∨ (w / 2 ^ 23 % 2 ^ 3 = 6 ∧ w / 2 ^ 17 % 2 ^ 6 ≠ 0)) :
    decode08 w = none := by
  unfold decode08
  split
  case h_8 => rfl
  case h_7 k => exact if_neg (by omega)
  all_goals next k => omega

/-- Settles O12: where each unit goes, the words of major 0x08, calls and jumps to a target, and jumps to none. -/
theorem branchesAndCalls : Obligations.BranchesAndCalls := by
  unfold Obligations.BranchesAndCalls
  refine ⟨⟨fun e he s a o h => ?_, fun s h => ⟨fun o => ?_, fun o => ?_⟩⟩,
    ⟨fun k e hk a o => ⟨encode_branchTable k e hk a o, fun s hh ha => ?_⟩, fun o => encode_cond rfl (by simp), fun w hw h => ?_⟩,
    fun s a x o pc hp => ?_, fun s a x hh => ⟨fun h => ?_, fun h => ?_, fun h => ?_⟩⟩
  · obtain ⟨test, htest, hexec⟩ := exec_branchTable e he
    rw [hexec, ← htest]
    exact branchOn_goes h test o
  · rw [exec_bra]
    exact State.issue_ready_goes h rfl
  · rw [exec_jmp]
    exact State.issue_ready_goes h rfl
  · obtain ⟨test, -, hexec⟩ := exec_branchTable e (List.mem_of_getElem? hk)
    rw [hexec]
    exact branchOn_waits hh ha test o
  · exact illegal_of_major hw (by decide) fun k => (Laws.RoundTrip.raw08 k).trans (decode08_reserved h)
  · intro calls
    refine ⟨fun h => ⟨_, ?_, State.call_did hp _⟩, fun hpc ha => ⟨fun h => ⟨_, ?_, State.call_did hp pc⟩, fun h => ?_⟩,
      fun hpc h0 hlink h => ?_⟩
    · rw [exec_call, State.issue_ready h]
    · rw [exec_callr, State.issue_ready h, ha, State.jumpTo_target hpc]
    · rw [exec_jr]
      refine State.issue_ready_goes h ?_
      rw [ha, State.jumpTo_target hpc]
      rfl
    · have hne : ¬ s.warp.readS 63 = 0 := fun hz =>
        h0 ((BitVec.setWidth_setWidth_of_le pc (by decide)).symm.trans (congrArg (BitVec.setWidth 57) (hlink.symm.trans hz)))
      rw [exec_ret]
      refine State.issue_ready_goes h ?_
      rw [if_neg hne, hlink, State.jumpTo_target hpc]
      rfl
  · rw [exec_jr]
    exact jump_checked hh h fun _ => rfl
  · rw [exec_callr]
    exact jump_checked hh h fun _ => rfl
  · rw [exec_ret]
    refine jump_checked hh h fun hv => if_neg fun hz => ?_
    rw [hz] at hv
    simp at hv

end Sys2Proof.Machine
end

section
/-! Obligation O14: divergent branches and FUSE (R84–R88). -/

set_option Elab.async false

namespace Sys2Proof.Machine

/-! ## Divergence (R86) -/

/-- The issuing fragment goes on with some of its lanes. -/
def Warp.stay (w : Warp) (mask : Word32) (pc : Pc) : Warp := { w with frag := { w.frag with mask := mask } }.goto pc

theorem Warp.stay_moved (w : Warp) (mask : Word32) (pc : Pc) :
    ({ w.frag with mask := mask } : Fragment).MovedTo (w.stay mask pc).frag pc := rfl

section Split

variable {w : Warp} {c : Word32} (target : Pc)

theorem Warp.split_allTaken (h : w.active &&& ~~~c = 0) : w.split c target = w.stay (w.active &&& c) target := if_pos h

theorem Warp.split_noneTaken (h : w.active &&& ~~~c ≠ 0) (ht : w.active &&& c = 0) :
    w.split c target = w.stay (w.active &&& ~~~c) (w.frag.fetch + 4) := (if_neg h).trans (if_pos ht)

/-- Both sides have lanes, and the table has a free entry: the taken side gets it. -/
theorem Warp.split_forks (h : w.active &&& ~~~c ≠ 0) (ht : w.active &&& c ≠ 0) {e : Nat} (he : w.freeEntry = some e) :
    w.split c target = { w.stay (w.active &&& ~~~c) (w.frag.fetch + 4) with
      frags := w.frags ++ [{ Fragment.start target with entry := e, mask := w.active &&& c }] } := by
  refine ((if_neg h).trans (if_neg ht)).trans ?_
  rw [he]
  rfl

/-- Both sides have lanes, and the table is full: the other side is parked. -/
theorem Warp.split_parks (h : w.active &&& ~~~c ≠ 0) (ht : w.active &&& c ≠ 0) (he : w.freeEntry = none) :
    w.split c target = { w.stay (w.active &&& c) target with
      park := { pc := w.frag.fetch + 4, mask := w.active &&& ~~~c } :: w.park } := by
  refine ((if_neg h).trans (if_neg ht)).trans ?_
  rw [he]
  rfl

/-- A divergent branch changes its fragment, the table and the parked records alone. -/
theorem Warp.split_frame (w : Warp) (c : Word32) (target : Pc) : w.split c target =
    { w with frag := (w.split c target).frag, frags := (w.split c target).frags, park := (w.split c target).park } := by
  by_cases h : w.active &&& ~~~c = 0
  · rw [Warp.split_allTaken target h]
    rfl
  by_cases ht : w.active &&& c = 0
  · rw [Warp.split_noneTaken target h ht]
    rfl
  cases he : w.freeEntry with
  | some e =>
    rw [Warp.split_forks target h ht he]
    rfl
  | none =>
    rw [Warp.split_parks target h ht he]
    rfl

end Split

/-! ## FUSE (R87, R88) -/

/-- The issuing fragment as it waits at a fuse point. -/
def Warp.atPoint (w : Warp) (n : Nat) : Fragment :=
  { w.frag with
    pc := w.frag.fetch, fetch := w.frag.fetch, hints := {}, state := .waiting n
    yielded := (w.frag.hints.hsch.getD 0).getLsbD 21 }

/-- No fragment waits at the point yet. -/
theorem Warp.fuseAt_first {w : Warp} {n : Nat} (h : ∀ f ∈ w.frags, f.state ≠ .waiting n) :
    w.fuseAt n = { w with frag := w.atPoint n }.settleFrags := by
  have hnone : (w.frags.find? fun f => f.state == .waiting n && w.holds f) = none :=
    List.find?_eq_none.2 fun f hf => by simp [h f hf]
  unfold Warp.fuseAt
  dsimp only
  rw [hnone]
  rfl

/-- The fragment merges with the one that waits at the point. -/
def Warp.merged (w : Warp) (n : Nat) (g : Fragment) : Fragment :=
  let low := if g.pc.toNat < w.frag.fetch.toNat then g.pc else w.frag.fetch
  { w.atPoint n with
    entry := min w.frag.entry g.entry, mask := w.frag.mask ||| g.mask, pc := low, fetch := low }

/-- A fragment keeps its live lanes when it takes up another. -/
theorem or_and_ne_zero {a c : Word32} (b : Word32) (h : a &&& c ≠ 0) : (a ||| b) &&& c ≠ 0 := by
  rw [BitVec.and_comm (a ||| b) c, BitVec.and_or_distrib_left, BitVec.and_comm c a]
  exact fun hz => h (BitVec.or_eq_zero_iff.1 hz).1

theorem Warp.fuseAt_merges {w : Warp} {n : Nat} {g : Fragment} (hg : w.frags = [g]) (hs : g.state = .waiting n)
    (hh : w.holds g = true) : w.fuseAt n = { w with frag := w.merged n g, frags := [] }.settleFrags := by
  have hsome : (w.frags.find? fun f => f.state == .waiting n && w.holds f) = some g := by simp [hg, hs, hh]
  unfold Warp.fuseAt
  dsimp only
  rw [hsome]
  dsimp only
  rw [hg]
  simp only [List.filter_cons, List.filter_nil, bne_self_eq_false, Bool.false_eq_true, if_false]
  rfl

/-- The only fragment left, waiting at its point, is released at the word after. -/
theorem Warp.settleFrags_releases {w : Warp} (hp : w.park = []) (hf : w.frags = []) (hh : w.holds w.frag = true) {n : Nat}
    (hs : w.frag.state = .waiting n) : w.settleFrags = { w with frag := w.frag.release } := by
  have hu : w.usedFrags = [w.frag] := by simp [Warp.usedFrags, Warp.allFrags, hf, hh]
  unfold Warp.settleFrags
  rw [Warp.dropDead_same (by simp [hf]) (by simp [hp]), Warp.unpark_nil hp, Warp.releaseOne, hu]
  simp [Fragment.isReady, lowestWaiting, hs, hh, hf]

/-- FUSE changes its fragment and the table alone where nothing is parked. -/
theorem Warp.fuseAt_frame {w : Warp} (hp : w.park = []) (n : Nat) :
    w.fuseAt n = { w with frag := (w.fuseAt n).frag, frags := (w.fuseAt n).frags } := by
  have settled : ∀ u : Warp, u.park = [] → u.settleFrags.park = [] := by
    intro u hu
    have hd : u.dropDead.park = [] := by simp [Warp.dropDead, hu]
    unfold Warp.settleFrags
    rw [Warp.unpark_nil hd, Warp.releaseOne_frame]
    exact hd
  have frame : ∀ (f : Fragment) (fs : List Fragment),
      let u := { w with frag := f, frags := fs }.settleFrags
      u = { w with frag := u.frag, frags := u.frags } := by
    intro f fs u
    have hu : u.park = w.park := (settled { w with frag := f, frags := fs } hp).trans hp.symm
    have hframe : u = { w with frag := u.frag, frags := u.frags, park := u.park } := Warp.settleFrags_frame _
    rwa [hu] at hframe
  unfold Warp.fuseAt
  dsimp only
  split
  · exact frame _ _
  · exact frame _ _

/-- Settles O14: the four ways a divergent branch splits, and the three ways FUSE leaves its fragment. -/
theorem divergenceAndFusion : Obligations.DivergenceAndFusion := by
  unfold Obligations.DivergenceAndFusion
  refine ⟨fun s m o neg h => ?_, fun s n h hp hmine hothers => ?_⟩
  · intro c taken other target moved
    have hexec : exec (if neg then .brvf m o else .brvt m o) s = .next (s.onWarp fun w => w.split c target) := by
      have htarget : branchTarget s.warp.frag.fetch o = target := branchTarget_eq _ o
      rw [← htarget]
      cases neg with
      | false =>
        change execBrvt m o s = _
        rw [execBrvt, State.issue_ready h]
        rfl
      | true =>
        change execBrvf m o s = _
        rw [execBrvf, State.issue_ready h]
        rfl
    refine ⟨_, hexec, rfl, s.warp.split_frame c target, fun ho => ?_, fun ho ht => ?_, fun ho ht e he => ?_,
      fun ho ht he => ?_⟩
    all_goals dsimp only [moved, State.onWarp]
    · rw [Warp.split_allTaken target ho]
      exact ⟨s.warp.stay_moved _ _, rfl, rfl⟩
    · rw [Warp.split_noneTaken target ho ht]
      exact ⟨s.warp.stay_moved _ _, rfl, rfl⟩
    · rw [Warp.split_forks target ho ht he]
      exact ⟨s.warp.stay_moved _ _, rfl, rfl⟩
    · rw [Warp.split_parks target ho ht he]
      exact ⟨s.warp.stay_moved _ _, rfl, rfl⟩
  · intro pc yields
    have hexec : exec (.fuse n) s = .next (s.onWarp fun w => w.fuseAt n.val) := by
      change execFuse n s = _
      rw [execFuse, State.issue_ready h]
    refine ⟨_, hexec,
      congrArg (fun w => { s with warp := w }) (Warp.fuseAt_frame hp n.val), fun hnone hready => ?_, fun hf => ?_,
      fun g hg hs hne => ?_⟩
    all_goals dsimp only [State.onWarp]
    · obtain ⟨f, hf, hr⟩ := hready
      rw [Warp.fuseAt_first hnone, Warp.settleFrags_same (w := { s.warp with frag := s.warp.atPoint n.val }) hp hothers
        ⟨f, List.mem_cons_of_mem _ hf, hothers f hf, hr⟩]
      exact ⟨rfl, rfl⟩
    · rw [Warp.fuseAt_first (by simp [hf]),
        Warp.settleFrags_releases (w := { s.warp with frag := s.warp.atPoint n.val }) hp hf hmine rfl]
      exact ⟨hf, rfl⟩
    · have hmask : ({ s.warp with frag := s.warp.merged n.val g, frags := [] } : Warp).holds (s.warp.merged n.val g) = true := by
        have hm : s.warp.frag.mask &&& s.warp.live32 ≠ 0 := bne_iff_ne.1 hmine
        exact bne_iff_ne.2 (or_and_ne_zero g.mask hm)
      rw [Warp.fuseAt_merges hg hs (hothers g (by simp [hg])),
        Warp.settleFrags_releases (w := { s.warp with frag := s.warp.merged n.val g, frags := [] }) hp rfl hmask rfl]
      exact ⟨rfl, rfl, rfl, rfl, rfl⟩

end Sys2Proof.Machine
end

section
/-! Obligation O8: BRK and TRAP (R83, R329–R331, R351, R354). -/

set_option Elab.async false

namespace Sys2Proof.Machine

/-! ## What a warp keeps while locks pass on and a context ends (R244, R339) -/

/-- A part of a warp that answers to its instructions, locks and leases leave alone. -/
def Warp.Aside {β : Type} (p : Warp → β) : Prop :=
  ∀ (w : Warp) (ps : List Pending) (ls : List LockSlot) (l : Lease), p { w with pend := ps, locks := ls, lease := l } = p w

section Aside

variable {β : Type} {p : Warp → β} (hp : Warp.Aside p)
include hp

theorem State.answer_aside (s : State) (u k : Nat) (v : Word64) : p (s.answer u k v).warp = p s.warp :=
  s.mapWarp_warp_keeps p (fun w => hp w _ w.locks w.lease) u

theorem State.grantLock_aside (s : State) (line u k : Nat) (v : Word64) : p (s.grantLock line u k v).warp = p s.warp := by
  refine (State.mapWarp_warp_keeps p (fun w => hp w w.pend _ _) _ u).trans ((State.answer_aside hp _ u k v).trans ?_)
  rw [s.recall_warp]

theorem State.expireWaiter_aside (s : State) (line u k : Nat) : p (s.expireWaiter line u k).warp = p s.warp :=
  (State.mapWarp_warp_keeps p (fun w => hp w w.pend _ w.lease) _ u).trans (State.answer_aside hp _ u k 2)

theorem State.expireLine_aside (s : State) (line : Nat) : p (s.expireLine line).warp = p s.warp :=
  foldl_keeps (fun s : State => p s.warp) (fun s _ => State.expireWaiter_aside hp s _ _ _) _ s

theorem State.expireWaits_aside (s : State) : p s.expireWaits.warp = p s.warp :=
  foldl_keeps (fun s : State => p s.warp) (fun s _ => State.expireWaiter_aside hp s _ _ _) _ s

theorem State.lockArrive_aside (s : State) (q : LockRequest) : p (s.lockArrive q).warp = p s.warp := by
  unfold State.lockArrive
  dsimp only
  split
  · rfl
  split
  · exact State.grantLock_aside hp _ _ _ _ _
  split
  · exact State.grantLock_aside hp _ _ _ _ _
  split
  · exact (State.mapWarp_warp_keeps p (fun w => hp w w.pend _ w.lease) _ _).trans (State.answer_aside hp s _ _ _)
  · rfl

theorem State.passLock_aside (s : State) (line : Nat) (v : Word64) (mark : Bool) :
    p (s.passLock line v mark).warp = p s.warp := by
  refine Eq.trans ?_ (State.expireLine_aside hp s line)
  unfold State.passLock
  generalize s.expireLine line = a
  dsimp only
  split
  · rfl
  split
  · split
    · rfl
    · exact (foldl_keeps (fun s : State => p s.warp) (State.lockArrive_aside hp) _ _).trans
        (State.expireWaits_aside hp (a.dropLock line))
  · exact State.grantLock_aside hp _ _ _ _ _

theorem State.abandon_aside (s : State) (u : Nat) : p (s.abandon u).warp = p s.warp := by
  unfold State.abandon
  dsimp only
  refine (foldl_keeps (fun s : State => p s.warp) (fun s _ => State.passLock_aside hp s _ _ _) _ _).trans ?_
  rw [State.dropMonitors_warp]
  rfl

end Aside

/-- What names the fault that a warp has taken last (R83). -/
def Warp.faultRegs (w : Warp) : Option Cause × Pc × Word32 := (w.trapcause, w.trappc, w.traplanes)

theorem Warp.faultRegs_aside : Warp.Aside Warp.faultRegs := fun _ _ _ _ => rfl

theorem State.relevel_warp (s : State) : s.relevel.warp = s.warp := by
  unfold State.relevel
  split <;> rfl

theorem State.postTagged_warp (s : State) (r : FaultRecord) : (s.postTagged r).warp = s.warp := s.post_warp _

/-- The warp in focus names its fault also after its context has ended. -/
theorem State.endContext_faultRegs (s : State) (ctx : Nat) (cause : Cause) (code : Nat) :
    (s.endContext ctx cause code).warp.faultRegs = s.warp.faultRegs := by
  have hquit : (s.quit ctx).warp.faultRegs = s.warp.faultRegs :=
    (foldl_keeps (fun s : State => s.warp.faultRegs) (State.abandon_aside Warp.faultRegs_aside) _ _).trans
      (foldl_keeps (fun s : State => s.warp.faultRegs) (fun s w => congrArg Warp.faultRegs (s.reportAll_warp w)) _ _)
  rw [State.endContext_eq, State.postTagged_warp, State.relevel_warp, ← hquit]
  show (Warp.retiredWith ctx _).faultRegs = _
  unfold Warp.retiredWith
  split <;> rfl

/-! ## A fault is given to the supervisor (R330, R351, R354) -/

/-- The warp names the fault that it takes. -/
def Warp.noted (r : Raised) (w : Warp) : Warp := { w with trapcause := some r.cause, trappc := r.pc, traplanes := r.lanes }

/-- The record of a fault is posted. -/
def State.reported (s : State) (r : Raised) : State := (s.onWarp (Warp.noted r)).postTagged ((s.onWarp (Warp.noted r)).recordOf r)

theorem State.reported_warp (s : State) (r : Raised) : (s.reported r).warp = s.warp.noted r := State.postTagged_warp _ _

theorem State.reported_ctx (s : State) (r : Raised) : (s.reported r).warp.ctx = s.warp.ctx := by
  rw [s.reported_warp r]
  rfl

theorem State.reported_myContext (s : State) (r : Raised) : (s.reported r).myContext = s.myContext := by
  have hc : (s.reported r).contexts = s.contexts := by
    rw [State.reported, (State.postTagged_calm _ _).rest]
    rfl
  unfold State.myContext State.context State.context?
  rw [s.reported_ctx r, hc]

/-- A context marked for debugging, or a STEP that let the unit issue, holds the warp (R330, R354). -/
def State.stopsFor (s : State) (r : Raised) : Bool := s.myContext.debug || r.stepped

theorem State.toSupervisor_eq (s : State) (r : Raised) : s.toSupervisor r =
    if s.stopsFor r then (s.reported r).onWarp fun w => { w with debugStop := true }
    else (s.reported r).endContext s.warp.ctx r.cause r.code := by
  rw [State.stopsFor, ← s.reported_myContext r, ← s.reported_ctx r]
  rfl

/-- Where no fault is held behind it, or the warp is in trap mode, nothing more goes to the supervisor. -/
theorem State.flushHeld_same {s : State} (h : s.warp.heldTraps = [] ∨ s.warp.trap.isSome = true) : s.flushHeld = s := by
  unfold State.flushHeld
  split
  · rfl
  · next hc =>
    have hnone : s.warp.heldTraps = [] := h.resolve_right fun ht => hc (by simp [ht])
    have hw : { s.warp with heldTraps := [] } = s.warp := by rw [← hnone]
    rw [hnone, List.foldl_nil, State.onWarp, hw]

/-- The warp in debug stop: its fragments before their units, the faulting one at its resume address. -/
def Warp.stopped (r : Raised) (w : Warp) : Warp := ({ w.noted r with debugStop := true }.mapFrags Fragment.rewind).resumeAt r

theorem Warp.stopped_faultRegs (w : Warp) (r : Raised) : (w.stopped r).faultRegs = (some r.cause, r.pc, r.lanes) := rfl

theorem Warp.stopped_debugStop (w : Warp) (r : Raised) : (w.stopped r).debugStop = true := rfl

theorem Warp.stopped_trap (w : Warp) (r : Raised) : (w.stopped r).trap = w.trap := rfl

theorem Warp.noted_trap (w : Warp) (r : Raised) : (w.noted r).trap = w.trap := rfl

theorem Warp.noted_faultRegs (w : Warp) (r : Raised) : (w.noted r).faultRegs = (some r.cause, r.pc, r.lanes) := rfl

theorem State.stopWith_stops {s : State} {r : Raised} (h : s.stopsFor r = true)
    (hh : s.warp.heldTraps = [] ∨ s.warp.trap.isSome = true) : (s.stopWith r).warp = s.warp.stopped r := by
  have hstop : s.stopWith r = ((s.toSupervisor r).onWarp fun w => (w.mapFrags Fragment.rewind).resumeAt r).flushHeld := if_pos h
  have hw : ((s.toSupervisor r).onWarp fun w => (w.mapFrags Fragment.rewind).resumeAt r).warp = s.warp.stopped r := by
    rw [State.toSupervisor_eq, if_pos h, State.onWarp_warp, State.onWarp_warp, s.reported_warp r]
    rfl
  rw [hstop, State.flushHeld_same (by rw [hw]; exact hh), hw]

theorem State.stopWith_ends {s : State} {r : Raised} (h : s.stopsFor r = false) :
    s.stopWith r = (s.reported r).endContext s.warp.ctx r.cause r.code := by
  have hstop : s.stopWith r = s.toSupervisor r := if_neg (by rw [← State.stopsFor, h]; simp)
  rw [hstop, State.toSupervisor_eq, h]
  rfl

/-- The faulting fragment stands at its resume address. -/
theorem Warp.stopped_pc {w : Warp} {r : Raised} (hl : r.logged = false) (he : w.frag.entry = r.entry) :
    (w.stopped r).frag.pc = r.rpc := by
  show (if !r.logged && w.frag.entry == r.entry then _ else _ : Fragment).pc = r.rpc
  rw [if_pos (by simp [hl, he])]

/-! ## BRK and TRAP (R83) -/

/-- The fault of a completed unit. -/
def State.softRaised (s : State) (c : Cause) (code : Nat) : Raised := { s.raised c with code := code, rpc := s.next }

/-- A fault as it is raised: it notes whether a STEP let its unit issue. -/
def Warp.tagged (w : Warp) (r : Raised) : Raised := { r with stepped := r.stepped || w.stepping }

theorem exec_softTraps {c : Fin 64} {s : State} (h : s.Ready {}) : ∀ k ∈ softTraps c,
    exec k.1 s = .next (s.raise (s.softRaised k.2.1 k.2.2)) := by
  have hbrk : exec .brk s = s.issue {} fun s => s.softTrap .brkpt 0 := rfl
  have htrap : exec (.trap c) s = s.issue {} fun s => s.softTrap .trapinsn c.val := rfl
  simp only [softTraps, List.forall_mem_cons]
  refine ⟨?_, ?_, by simp⟩
  · rw [hbrk, State.issue_ready h]
    rfl
  · rw [htrap, State.issue_ready h]
    rfl

/-- While an issued instruction that a trap waits for is out, the fault waits with the warp. -/
theorem State.raise_waits {s : State} (h : s.quiet s.warp.settle = false) (r : Raised) :
    s.raise r = { s with warp := { s.warp.settle with raising := some (s.warp.tagged r) } } := by
  have hq : ¬ State.quiet { s with warp := s.warp.settle } s.warp.settle = true := fun hq => Bool.false_ne_true (h.symm.trans hq)
  exact if_neg hq

/-- A fault that no handler takes, once the issued instructions have completed. -/
theorem State.raise_unhandled {s : State} (hq : s.quiet s.warp.settle = true)
    (h : s.warp.trapvec.toNat / 4 % 2 ^ 55 = 0 ∨ s.warp.trap.isSome = true) (r : Raised) :
    s.raise r = (State.onWarp { s with warp := s.warp.settle } (Warp.noted (s.warp.tagged r))).stopWith (s.warp.tagged r) := by
  obtain ⟨hvec, htrap, -, -⟩ := s.warp.settle_other
  have hquiet : State.quiet { s with warp := s.warp.settle } s.warp.settle = true := hq
  have hraise : s.raise r = State.takeTrap { s with warp := s.warp.settle } (s.warp.tagged r) := if_pos hquiet
  rw [hraise]
  refine if_pos ?_
  show (decide (s.warp.settle.trapvec.toNat / 4 % 2 ^ 55 = 0) || s.warp.settle.trap.isSome) = true
  rw [hvec, htrap]
  simpa using h

/-- What a completed unit's fault without a handler leaves, once it is with the supervisor. -/
theorem State.stopWith_unhandled {u : State} {w : Warp} {r : Raised} (hu : u.warp = w.noted r)
    (hh : w.heldTraps = [] ∨ w.trap.isSome = true) :
    (u.stopWith r).warp.faultRegs = (some r.cause, r.pc, r.lanes) ∧
    (u.stopsFor r = true → (u.stopWith r).warp = u.warp.stopped r) := by
  have hheld : u.warp.heldTraps = [] ∨ u.warp.trap.isSome = true := by
    rw [hu]
    exact hh
  refine ⟨?_, fun hs => State.stopWith_stops hs hheld⟩
  cases hs : u.stopsFor r with
  | true => rw [State.stopWith_stops hs hheld, Warp.stopped_faultRegs]
  | false => rw [State.stopWith_ends hs, State.endContext_faultRegs, u.reported_warp r, Warp.noted_faultRegs]

/-- Settles O8: the handler, the wait, and the supervisor with debug stop or the end of the context. -/
theorem trapInstructions : Obligations.TrapInstructions := by
  unfold Obligations.TrapInstructions
  refine ⟨fun s c h k hk => ⟨fun hh => ⟨_, exec_softTraps h k hk, State.raise_trapped hh _ rfl rfl rfl⟩, fun hq => ?_⟩,
    fun s c h hq hnone k hk => ?_⟩
  · exact ⟨_, _, exec_softTraps h k hk, State.raise_waits hq _, rfl, rfl, rfl, rfl, rfl⟩
  · obtain ⟨-, htrap, hentry, -⟩ := s.warp.settle_other
    have hheld : s.warp.settle.heldTraps = s.warp.heldTraps := by rw [s.warp.settle_only]
    have hctx : s.warp.settle.ctx = s.warp.ctx := by rw [s.warp.settle_only]
    set r := s.warp.tagged (s.softRaised k.2.1 k.2.2) with hr
    set u := State.onWarp { s with warp := s.warp.settle } (Warp.noted r) with hu
    have hstops : u.stopsFor r = (s.myContext.debug || s.warp.stepping) := by
      show ((s.context s.warp.settle.ctx).debug || (false || s.warp.stepping)) = _
      rw [hctx, Bool.false_or]
      rfl
    have hexec : exec k.1 s = .next (u.stopWith r) :=
      (exec_softTraps h k hk).trans (congrArg _ (State.raise_unhandled hq (hnone.imp_left And.left) _))
    have huw : u.warp = s.warp.settle.noted r := rfl
    have hucx : u.warp.ctx = s.warp.ctx := hctx
    have hcause : r.cause = k.2.1 := rfl
    have hpc : r.pc = s.warp.frag.pc := rfl
    have hlanes : r.lanes = s.warp.active := rfl
    have hrpc : r.rpc = s.next := rfl
    have hlogged : r.logged = false := rfl
    have hrentry : r.entry = s.warp.frag.entry := rfl
    rw [← htrap, ← hheld] at hnone
    obtain ⟨hregs, hstopped⟩ := State.stopWith_unhandled huw (hnone.imp_left And.right)
    rw [hcause, hpc, hlanes] at hregs
    clear_value u r
    refine ⟨_, hexec, congrArg (·.1) hregs, congrArg (·.2.1) hregs, congrArg (·.2.2) hregs, fun hd => ?_, fun hd hst => ?_⟩
    · have hs : u.stopsFor r = true := by rw [hstops]; simpa using hd
      have hentry' : u.warp.frag.entry = r.entry := by
        rw [huw, hrentry, ← hentry]
        rfl
      rw [hstopped hs]
      refine ⟨Warp.stopped_debugStop _ _, ?_, (Warp.stopped_pc hlogged hentry').trans hrpc⟩
      rw [Warp.stopped_trap, huw, Warp.noted_trap, htrap]
    · have hs : u.stopsFor r = false := by rw [hstops, hd, hst]; rfl
      have hlost := (u.reported r).endContext_lost u.warp.ctx r.cause r.code
      rw [hucx] at hlost
      rw [State.stopWith_ends hs, hucx]
      refine ⟨fun x hx hn => ?_, fun w hw hwc => ?_⟩
      · have hended := hlost.ended s.warp.ctx (beq_self_eq_true _)
        exact absurd hn (by simpa using List.find?_eq_none.1 hended x hx)
      · by_contra hl
        obtain ⟨hother, -⟩ := hlost.live w hw (by simpa using hl)
        simp [hwc] at hother

end Sys2Proof.Machine
end

section
/-! Obligation O53: pre-emption, quanta, swap-out and retirement (R81, R244–R246, R273, R288, R345). -/

set_option Elab.async false

namespace Sys2Proof.Machine

/-! ## A timer that has run out at a pre-emption (R244, R246) -/

/-- A warp of gang 2 whose LLOCK of line 0, at its slice since before its timer ran out, has not been answered. -/
def lateLocker : Warp :=
  { Warp.blank with
    uid := 2, gang := 2, live := true
    pend := [{ id := 0, pc := 0, gen := 0, mask := 1, kind := .lock 0, dests := [], writes := [], flags := 0, floats := false
               killed := 0, killedAt := 0, ready := false, fault := none, faults := [], unit := none, acq := false
               stepped := false }]
    locks := [{ va := 0, line := 0, held := false, saved := none, left := none }] }

/-- Gang 1 with one warp on its cluster at cycle 1, when that timer ran out at cycle 0. -/
def lateLockState : State :=
  { State.reset with
    warp := { Warp.blank with uid := 1, gang := 1, live := true, resident := true }
    others := [lateLocker]
    gangs := [{ Gang.none with uid := 1, phase := .resident }]
    lockWaits := [{ line := 0, va := 0, warp := 2, pend := 0, try_ := false, deadline := some 0 }]
    clock := 1 }

/-- Pre-empting gang 1 takes the request's TIMEOUT to its warp. -/
theorem lateLockState_answers :
    ∀ u ∈ (lateLockState.preempt 1 .preempted).warps, u.pend.map (·.ready) ≠ [false] := by decide +kernel

theorem lateLockState_distinct : lateLockState.Distinct := by
  unfold State.Distinct State.Single
  decide +kernel

theorem lateLockState_settled : lateLockState.Settled 1 := by
  unfold State.Settled
  decide +kernel

/-- Refutes O53: the pre-emption of a gang also expires the timers of other warps' lock requests (R244), which answers
those warps; the statement allows their leases alone to change. -/
theorem not_gangsLeave : ¬ Obligations.GangsLeave := by
  unfold Obligations.GangsLeave
  intro h
  obtain ⟨-, hleaves, -⟩ := h lateLockState 1 lateLockState_distinct
  obtain ⟨t, hexec, hout⟩ := hleaves (by decide +kernel) (by decide +kernel) lateLockState_settled
  have hnext : Host.Outcome.next (lateLockState.preempt 1 .preempted) = .next t := hexec
  have ht : lateLockState.preempt 1 .preempted = t := by injection hnext
  obtain ⟨u, hu, hsame⟩ := hout.others lateLocker (by simp [State.warps, lateLockState]) (by decide)
  have hpend : u.pend = lateLocker.pend := (congrArg (fun w : Warp => w.pend) hsame : u.unleased.pend = _)
  exact lateLockState_answers u (ht ▸ hu) (by rw [hpend]; rfl)

end Sys2Proof.Machine
end

section
/-! The 32-bit functions of the vector integer instructions, as the tables of R97 to R100 give them. -/

set_option Elab.async false

namespace Sys2Proof.Machine

/-! ## Products, extremes, quotients and remainders (R97) -/

theorem mulHigh32_eq (p q : Word32) : mulHigh p q = (p.signExtend 64 * q.signExtend 64).extractLsb' 32 32 := by
  have hprod : p.signExtend 64 * q.signExtend 64 = BitVec.ofInt 64 (p.toInt * q.toInt) := (BitVec.ofInt_mul _ _).symm
  rw [hprod, mulHigh]
  generalize p.toInt * q.toInt = n
  apply BitVec.eq_of_toNat_eq
  rw [BitVec.extractLsb'_toNat, BitVec.toNat_ofInt, BitVec.toNat_ofInt, Nat.shiftRight_eq_div_pow]
  omega

theorem mulHighU32_eq (p q : Word32) : mulHighU p q = (p.setWidth 64 * q.setWidth 64).extractLsb' 32 32 := by
  have hp : p.toNat % 2 ^ 64 = p.toNat := Nat.mod_eq_of_lt (by omega)
  have hq : q.toNat % 2 ^ 64 = q.toNat := Nat.mod_eq_of_lt (by omega)
  apply BitVec.eq_of_toNat_eq
  rw [mulHighU, BitVec.extractLsb'_toNat, BitVec.toNat_ofNat, BitVec.toNat_mul, BitVec.toNat_setWidth,
    BitVec.toNat_setWidth, hp, hq, Nat.shiftRight_eq_div_pow]
  generalize p.toNat * q.toNat = n
  omega

section AnyWidth

variable {w : Nat} (p q : BitVec w)

theorem sdivQ_eq_sdiv : sdivQ p q = if q = 0 then BitVec.allOnes w else p.sdiv q := by
  have h : BitVec.ofInt w (p.toInt.tdiv q.toInt) = p.sdiv q := by
    apply BitVec.eq_of_toInt_eq
    rw [BitVec.toInt_ofInt, BitVec.toInt_sdiv]
  rw [sdivQ, h]

theorem udivQ_eq_udiv : udivQ p q = if q = 0 then BitVec.allOnes w else p / q := by
  rw [udivQ, ← BitVec.toNat_udiv, BitVec.ofNat_toNat, BitVec.setWidth_eq]

theorem sremQ_eq_srem : sremQ p q = if q = 0 then p else p.srem q := by
  rw [sremQ, ← BitVec.toInt_srem, BitVec.ofInt_toInt]

theorem uremQ_eq_umod : uremQ p q = if q = 0 then p else p % q := by
  rw [uremQ, ← BitVec.toNat_umod, BitVec.ofNat_toNat, BitVec.setWidth_eq]

theorem sminQ_eq_slt : sminQ p q = if p.slt q then p else q := by
  simp only [BitVec.slt_iff_toInt_lt]
  exact (ite_le_eq_ite_lt (fun _ _ => BitVec.eq_of_toInt_eq) p q).1

theorem smaxQ_eq_slt : smaxQ p q = if p.slt q then q else p := by
  simp only [BitVec.slt_iff_toInt_lt]
  exact (ite_le_eq_ite_lt (fun _ _ => BitVec.eq_of_toInt_eq) p q).2

theorem uminQ_eq_ult : uminQ p q = if p.ult q then p else q := by
  simp only [BitVec.ult_iff_toNat_lt]
  exact (ite_le_eq_ite_lt (fun _ _ => BitVec.eq_of_toNat_eq) p q).1

theorem umaxQ_eq_ult : umaxQ p q = if p.ult q then q else p := by
  simp only [BitVec.ult_iff_toNat_lt]
  exact (ite_le_eq_ite_lt (fun _ _ => BitVec.eq_of_toNat_eq) p q).2

end AnyWidth

/-! ## Shifts, distances and saturation (R97, R99) -/

theorem toNat_and_31 (q : Word32) : (q &&& 31).toNat = q.toNat % 32 := Nat.and_two_pow_sub_one_eq_mod q.toNat 5

theorem shiftLeft32_eq (p q : Word32) : p <<< (q.toNat % 32) = p <<< (q &&& 31) := by
  rw [BitVec.shiftLeft_eq', toNat_and_31]

theorem ushiftRight32_eq (p q : Word32) : p >>> (q.toNat % 32) = p >>> (q &&& 31) := by
  rw [BitVec.ushiftRight_eq', toNat_and_31]

theorem sshiftRight32_eq (p q : Word32) : p.sshiftRight (q.toNat % 32) = p.sshiftRight (q &&& 31).toNat := by
  rw [toNat_and_31]

theorem word32_sub_toInt (p q : Word32) : word32 (p.toInt - q.toInt) = p - q := by
  apply BitVec.eq_of_toInt_eq
  rw [word32, BitVec.toInt_ofInt, BitVec.toInt_sub]

theorem word32_add_toInt (p q : Word32) : word32 (p.toInt + q.toInt) = p + q := by
  rw [word32, BitVec.ofInt_add, BitVec.ofInt_toInt, BitVec.ofInt_toInt]

theorem word32_distance (p q : Word32) : word32 (p.toInt - q.toInt).natAbs = if p.slt q then q - p else p - q := by
  rw [← word32_sub_toInt p q, ← word32_sub_toInt q p]
  simp only [BitVec.slt_iff_toInt_lt]
  split
  · next h => congr 1; omega
  · next h => congr 1; omega

/-- A value beyond an end of the signed range stops there, and any other is itself. -/
theorem clampS_cases (i : Int) : clampS i =
    if 2 ^ 31 ≤ i then BitVec.intMax 32 else if i < -2 ^ 31 then BitVec.intMin 32 else word32 i := by
  have hmax : word32 (2 ^ 31 - 1) = BitVec.intMax 32 := by decide
  have hmin : word32 (-(2 ^ 31)) = BitVec.intMin 32 := by decide
  rw [← hmax, ← hmin, clampS]
  split
  · congr 1; omega
  · split <;> congr 1 <;> omega

theorem satAdd_eq (p q : Word32) : clampS (p.toInt + q.toInt) = satAdd p q := by
  have hp := p.le_toInt
  have hp' := p.toInt_lt
  have hq := q.le_toInt
  have hq' := q.toInt_lt
  rw [clampS_cases, word32_add_toInt, satAdd, BitVec.msb_eq_toInt, BitVec.saddOverflow]
  simp only [Bool.or_eq_true, decide_eq_true_eq]
  split
  · next h => rw [if_pos (.inl h), if_neg (by omega)]
  · split
    · next h => rw [if_pos (.inr h), if_pos (by omega)]
    · rw [if_neg (by omega)]

theorem satSub_eq (p q : Word32) : clampS (p.toInt - q.toInt) = satSub p q := by
  have hp := p.le_toInt
  have hp' := p.toInt_lt
  have hq := q.le_toInt
  have hq' := q.toInt_lt
  rw [clampS_cases, word32_sub_toInt, satSub, BitVec.msb_eq_toInt, BitVec.ssubOverflow]
  simp only [Bool.or_eq_true, decide_eq_true_eq]
  split
  · next h => rw [if_pos (.inl h), if_neg (by omega)]
  · split
    · next h => rw [if_pos (.inr h), if_pos (by omega)]
    · rw [if_neg (by omega)]

theorem clampZ_add (p q : Word32) :
    clampZ (p.toNat + q.toNat) = if p.uaddOverflow q then BitVec.allOnes 32 else p + q := by
  simp only [BitVec.uaddOverflow, decide_eq_true_eq]
  split
  · next h =>
    rw [clampZ, Nat.min_eq_left (by omega)]
    rfl
  · next h =>
    apply BitVec.eq_of_toNat_eq
    rw [clampZ, BitVec.toNat_ofNat, BitVec.toNat_add]
    omega

theorem clampZ_sub (p q : Word32) : clampZ (p.toNat - q.toNat) = if p.ult q then 0 else p - q := by
  simp only [BitVec.ult_iff_toNat_lt]
  split
  · next h =>
    rw [Nat.sub_eq_zero_of_le h.le]
    rfl
  · next h =>
    apply BitVec.eq_of_toNat_eq
    rw [clampZ, BitVec.toNat_ofNat, BitVec.toNat_sub]
    omega

/-! ## Fields (R97, R98) -/

/-- The width of the field that VBFE and VBFI name. -/
def fieldWidth (q : Word32) : Nat := min ((q >>> 8).toNat % 64) (32 - fieldPos q)

theorem fieldOf_eq (q : Word32) : fieldOf q = (fieldPos q, fieldWidth q) := by
  simp only [fieldOf, fieldWidth, fieldPos, BitVec.toNat_ushiftRight, Nat.shiftRight_eq_div_pow]

theorem fieldPos_add_fieldWidth_le (q : Word32) : fieldPos q + fieldWidth q ≤ 32 := by
  unfold fieldWidth fieldPos; omega

theorem toNat_fieldMask (q : Word32) : (fieldMask q).toNat = 2 ^ fieldWidth q - 1 := by
  have hw : 2 ^ fieldWidth q ≤ 2 ^ 32 :=
    Nat.pow_le_pow_right (by decide) ((Nat.le_add_left _ _).trans (fieldPos_add_fieldWidth_le q))
  have hpos : 0 < 2 ^ fieldWidth q := Nat.two_pow_pos _
  exact Nat.mod_eq_of_lt (show 2 ^ fieldWidth q - 1 < 2 ^ 32 by omega)

theorem getLsbD_fieldMask (q : Word32) (k : Nat) : (fieldMask q).getLsbD k = decide (k < fieldWidth q) := by
  rw [BitVec.getLsbD, toNat_fieldMask, Nat.testBit_two_pow_sub_one]

theorem bitExtract_eq (p q : Word32) : bitExtract p q = p >>> fieldPos q &&& fieldMask q := by
  unfold bitExtract
  rw [fieldOf_eq]
  apply BitVec.eq_of_toNat_eq
  rw [BitVec.toNat_and, toNat_fieldMask, Nat.and_two_pow_sub_one_eq_mod, BitVec.toNat_ushiftRight,
    Nat.shiftRight_eq_div_pow, BitVec.toNat_ofNat]
  exact Nat.mod_eq_of_lt ((Nat.mod_le _ _).trans_lt ((Nat.div_le_self _ _).trans_lt p.isLt))

/-- Replacing the field of `n` bits from bit `k` on, seen bit by bit. -/
theorem testBit_replaceField (d a k n i : Nat) :
    (d - d / 2 ^ k % 2 ^ n * 2 ^ k + a % 2 ^ n * 2 ^ k).testBit i =
      if i < k then d.testBit i else if i - k < n then a.testBit (i - k) else d.testBit i := by
  have hlow := Nat.div_add_mod d (2 ^ k)
  have hhigh := Nat.div_add_mod (d / 2 ^ k) (2 ^ n)
  have hsplit : d - d / 2 ^ k % 2 ^ n * 2 ^ k + a % 2 ^ n * 2 ^ k =
      2 ^ k * (2 ^ n * (d / 2 ^ k / 2 ^ n) + a % 2 ^ n) + d % 2 ^ k := by
    have hd : d = 2 ^ k * (2 ^ n * (d / 2 ^ k / 2 ^ n)) + d / 2 ^ k % 2 ^ n * 2 ^ k + d % 2 ^ k := by
      conv_lhs => rw [← hlow, ← hhigh]
      ring
    rw [Nat.sub_eq_of_eq_add (c := 2 ^ k * (2 ^ n * (d / 2 ^ k / 2 ^ n)) + d % 2 ^ k) (by omega)]
    ring
  rw [hsplit, Nat.testBit_two_pow_mul_add _ (Nat.mod_lt _ (Nat.two_pow_pos k)), Nat.testBit_mod_two_pow]
  split
  · next h => simp [h]
  · next h =>
    rw [Nat.testBit_two_pow_mul_add _ (Nat.mod_lt _ (Nat.two_pow_pos n)), Nat.testBit_mod_two_pow]
    split
    · next h' => simp [h']
    · next h' =>
      rw [Nat.testBit_div_two_pow, Nat.testBit_div_two_pow]
      congr 1
      omega

theorem bitInsert_eq (d p q : Word32) : bitInsert d p q =
    d &&& ~~~(fieldMask q <<< fieldPos q) ||| (p &&& fieldMask q) <<< fieldPos q := by
  unfold bitInsert
  rw [fieldOf_eq]
  apply BitVec.eq_of_getLsbD_eq
  intro i hi
  have hfits := fieldPos_add_fieldWidth_le q
  dsimp only
  rw [BitVec.getLsbD_ofNat, testBit_replaceField]
  simp only [BitVec.getLsbD_or, BitVec.getLsbD_and, BitVec.getLsbD_not, BitVec.getLsbD_shiftLeft, getLsbD_fieldMask, hi,
    decide_true, Bool.true_and]
  by_cases hk : i < fieldPos q
  · simp [hk, BitVec.getLsbD]
  · by_cases hw : i - fieldPos q < fieldWidth q
    · simp [hk, hw, BitVec.getLsbD]
    · simp [hk, hw, BitVec.getLsbD]

/-! ## Dot products (R98) -/

theorem byteAt_eq (a : Word32) (k : Nat) : byteAt a k = a.extractLsb' (8 * k) 8 := by
  apply BitVec.eq_of_toNat_eq
  rw [byteAt, BitVec.extractLsb'_toNat, Nat.shiftRight_eq_div_pow, BitVec.toNat_ofNat]

/-- A sum of integers wraps as the sum of words does. -/
theorem word32_add_sum (f : Nat → Int) (l : List Nat) (d : Word32) :
    word32 (d.toInt + (l.map f).sum) = l.foldl (fun t k => t + word32 (f k)) d := by
  have key : ∀ i : Int, word32 (i + (l.map f).sum) = l.foldl (fun t k => t + word32 (f k)) (word32 i) := by
    induction l with
    | nil => intro i; simp
    | cons k l ih => intro i; rw [List.map_cons, List.sum_cons, ← Int.add_assoc, ih, word32, BitVec.ofInt_add]; rfl
  rw [key, word32, BitVec.ofInt_toInt]

theorem dot4_eq (d p q : Word32) : dot4 d p q = (List.range 4).foldl (fun t k =>
    t + (p.extractLsb' (8 * k) 8).signExtend 32 * (q.extractLsb' (8 * k) 8).signExtend 32) d := by
  unfold dot4
  rw [word32_add_sum]
  simp only [byteAt_eq, word32, BitVec.ofInt_mul]
  rfl

theorem dot4z_eq (d p q : Word32) : dot4z d p q = (List.range 4).foldl (fun t k =>
    t + (p.extractLsb' (8 * k) 8).setWidth 32 * (q.extractLsb' (8 * k) 8).setWidth 32) d := by
  have hcast : (((List.range 4).map fun k => (byteAt p k).toNat * (byteAt q k).toNat).sum : Int) =
      ((List.range 4).map fun k => (((byteAt p k).toNat : Int) * ((byteAt q k).toNat : Int))).sum := by
    rw [Nat.cast_list_sum, List.map_map]
    simp [Function.comp_def]
  unfold dot4z
  rw [hcast, word32_add_sum]
  simp only [byteAt_eq, word32, BitVec.ofInt_mul, BitVec.ofInt_natCast, BitVec.ofNat_toNat]

/-! ## One source, and immediates (R97, R100) -/

theorem ofNat_leadingZeros {w : Nat} (hw : 0 < w) (p : BitVec w) : BitVec.ofNat w (leadingZeros p) = p.clz := by
  by_cases hp : p = 0
  · rw [leadingZeros, if_pos hp]
    exact (BitVec.clz_eq_iff_eq_zero.2 hp).symm
  · have hlo := BitVec.two_pow_sub_clz_le_toNat_of_ne_zero hw hp
    have hhi := BitVec.toNat_lt_two_pow_sub_clz (x := p)
    have hlt : p.clz.toNat < w := by
      have h := BitVec.lt_def.1 (BitVec.clz_lt_iff_ne_zero.2 hp)
      rwa [BitVec.natCast_eq_ofNat, BitVec.toNat_ofNat, Nat.mod_eq_of_lt Nat.lt_two_pow_self] at h
    have hne : p.toNat ≠ 0 := fun h => hp (BitVec.eq_of_toNat_eq h)
    have hlog : Nat.log2 p.toNat = w - 1 - p.clz.toNat := by
      refine (Nat.log2_eq_iff hne).2 ⟨hlo, ?_⟩
      rwa [show w - 1 - p.clz.toNat + 1 = w - p.clz.toNat by omega]
    rw [leadingZeros, if_neg hp, hlog, show w - 1 - (w - 1 - p.clz.toNat) = p.clz.toNat by omega, BitVec.ofNat_toNat,
      BitVec.setWidth_eq]

theorem popCount32_eq (p : Word32) : popCount p = (List.finRange 32).countP fun i => p[i] := by
  rw [popCount_eq_length, List.countP_eq_length_filter]
  rfl

theorem bitReverse32_eq (p : Word32) : bitReverse p = p.reverse := by
  rw [bitReverse, sum_bits_reversed, BitVec.ofNat_toNat, BitVec.setWidth_eq]

/-- A 32-bit destination takes the immediate's low word (R51). -/
theorem Hints.imm_eq_low (s : State) (i : BitVec 10) : s.warp.frag.hints.imm i = (s.immediate i).setWidth 32 := by
  rw [← Warp.imm64_eq, Warp.imm64]
  apply BitVec.eq_of_getLsbD_eq
  intro k hk
  have hk' : k < 64 := by omega
  rw [BitVec.getLsbD_setWidth, BitVec.getLsbD_signExtend]
  simp [hk, hk']

end Sys2Proof.Machine
end

section
/-! Obligations O15, O16 and O17: the vector integer instructions and VSEL (R93, R96–R100, R103, R104, R108, R342). -/

set_option Elab.async false

namespace Sys2Proof.Machine

/-! ## Units whose elements raise nothing -/

@[simp] theorem regAt_zero (r : Fin 64) : regAt r 0 = r := Fin.ext (Nat.mod_eq_of_lt r.isLt)

theorem inMask_eq_getElem (m : Word32) (l : Fin 32) : inMask m l = m[l] := BitVec.getLsbD_eq_getElem l.isLt

theorem orFlags_eq_zero {fs : List (BitVec 5)} (h : ∀ f ∈ fs, f = 0) : orFlags fs = 0 := by
  unfold orFlags
  induction fs with
  | nil => rfl
  | cons f fs ih =>
    rw [List.foldl_cons, h f List.mem_cons_self]
    exact ih fun g hg => h g (List.mem_cons_of_mem _ hg)

/-- The conditions of a vector instruction none of whose elements raises one. -/
theorem orFlags_elements {g : Nat → Fin 32 → BitVec 5} (h : ∀ o l, g o l = 0) (os : List Nat) (ls : List (Fin 32)) :
    orFlags (os.flatMap fun o => ls.map fun l => g o l) = 0 := by
  refine orFlags_eq_zero fun f hf => ?_
  obtain ⟨o, -, hm⟩ := List.mem_flatMap.1 hf
  obtain ⟨l, -, rfl⟩ := List.mem_map.1 hm
  exact h o l

/-- The effect of an instruction on single registers whose lanes read no poison and whose elements raise nothing. -/
theorem State.vecResult_quiet_did {s : State} (hp : s.Prompt) {v : VOp} {poison : Warp → Nat → Word32} {f : LaneFn}
    (hs : v.step = 1) (hd : v.dw = 1) (hl : s.warp.frag.hints.blockFits v.step v.d = true)
    (hc : ∀ o ∈ s.elems v, poison s.warp o &&& s.warp.active = 0) (hf : ∀ o l, (f s.warp o l).2 = 0) :
    VecDid s (.next (s.vecResult v poison f)) v (fun o l => (f s.warp o l).1) 0 := by
  have h := State.vecResult_did hp v poison f (.inl hs) (.inl (hd.trans hs.symm)) hl hc
  rwa [orFlags_elements hf] at h

/-- The destination block of a legal instruction fits. -/
theorem VOp.blockFits_of_legal {v : VOp} {n : Need} {h : Hints} (hl : (v.need n h).legal = true) :
    h.blockFits v.step v.d = true := by
  simp only [VOp.need, Bool.and_eq_true] at hl
  exact hl.1.2

/-- A vector instruction that is ready and legal, whose lanes read no poison and whose elements raise nothing. -/
theorem vecUnit_quiet_did {s : State} (hp : s.Prompt) {v : VOp} {n : Need} {f : LaneFn} {legal : Bool} (hl : legal = true)
    (hr : s.Ready (v.need n s.warp.frag.hints)) (hs : v.step = 1)
    (hd : v.dw = 1 ∨ n.hblk = false ∧ v.dw = 2) (hc : s.Clean v) (hf : ∀ o l, (f s.warp o l).2 = 0) :
    VecDid s (vecUnit v { n with legal := legal } f s) v (fun o l => (f s.warp o l).1) 0 := by
  have hn : n.legal = true := by
    have h := hr.legal
    simp only [VOp.need, Bool.and_eq_true] at h
    exact h.1.1
  have hsame : { n with legal := legal } = n := by rw [hl, ← hn]
  have hdw : v.dw = v.step ∨ n.hblk = false ∧ (v.dw = 1 ∨ v.dw = 2) := by
    rw [hs]
    exact hd.imp_right fun h => ⟨h.1, .inr h.2⟩
  have h := vecUnit_did hp v n f hr (.inl hs) hdw hc
  rw [orFlags_elements hf] at h
  rw [hsame]
  exact h

/-- The value that a unit delivers, said in another way. -/
theorem VecDid.of_eq {s : State} {out : Host.Outcome State Fault Refusal} {v : VOp} {f g : Nat → Fin 32 → Word64}
    {flags : BitVec 5} (h : VecDid s out v f flags) (hfg : ∀ o l, f o l = g o l) : VecDid s out v g flags := by
  rwa [← funext fun o => funext (hfg o)]

/-- Without a vector source there is no poison to read. -/
theorem State.clean_of_none (s : State) {v : VOp} (h : v.vs = []) (hd : v.readsD = false) : s.Clean v := by
  intro o _
  simp [VOp.ownPoison, VOp.sourceRegs, h, hd, Warp.poisonIn]

/-! ## The instructions of the tables -/

/-- The instructions of the table are the two-source units of the function that stands beside them. -/
theorem exec_vectorTable_eq : ∀ e ∈ vectorTable, ∀ (s : State) (d a b : Fin 64) (x y : Bool),
    exec (e.1 d a b x y) s = vec2 e.2.2 d a b x y s ∧ exec (e.2.1 d a b x y) s = vec2s e.2.2 d a b x y s := by
  have of_eq : ∀ {i j : Fin 64 → Fin 64 → Fin 64 → Bool → Bool → Instr} (f : Word32 → Word32 → Word32)
      {g : Word32 → Word32 → Word32}, (∀ p q, f p q = g p q) →
      (∀ s d a b x y, exec (i d a b x y) s = vec2 f d a b x y s ∧ exec (j d a b x y) s = vec2s f d a b x y s) →
      ∀ (s : State) (d a b : Fin 64) (x y : Bool),
        exec (i d a b x y) s = vec2 g d a b x y s ∧ exec (j d a b x y) s = vec2s g d a b x y s := by
    intro i j f g h hx
    rwa [funext fun p => funext (h p)] at hx
  have same : ∀ (f : Word32 → Word32 → Word32) (p q : Word32), f p q = f p q := fun _ _ _ => rfl
  simp only [vectorTable, List.forall_mem_cons]
  refine ⟨of_eq _ (same _) ?_, of_eq _ (same _) ?_, of_eq _ (same _) ?_, of_eq _ mulHigh32_eq ?_, of_eq _ mulHighU32_eq ?_,
    of_eq _ sminQ_eq_slt ?_, of_eq _ smaxQ_eq_slt ?_, of_eq _ uminQ_eq_ult ?_, of_eq _ umaxQ_eq_ult ?_,
    of_eq _ (same _) ?_, of_eq _ (same _) ?_, of_eq _ (same _) ?_, of_eq _ (same _) ?_,
    of_eq _ shiftLeft32_eq ?_, of_eq _ ushiftRight32_eq ?_, of_eq _ sshiftRight32_eq ?_, of_eq _ word32_distance ?_,
    of_eq _ satAdd_eq ?_, of_eq _ satSub_eq ?_, of_eq _ clampZ_add ?_, of_eq _ clampZ_sub ?_, of_eq _ bitExtract_eq ?_,
    of_eq _ sdivQ_eq_sdiv ?_, of_eq _ udivQ_eq_udiv ?_, of_eq _ sremQ_eq_srem ?_, of_eq _ uremQ_eq_umod ?_, by simp⟩
  all_goals exact fun _ _ _ _ _ _ => ⟨rfl, rfl⟩

/-- Those of the next table are the units that read their destination too. -/
theorem exec_accumulateTable_eq : ∀ e ∈ accumulateTable, ∀ (s : State) (d a b : Fin 64) (x y : Bool),
    exec (e.1 d a b x y) s = vec3 e.2.2.1 e.2.2.2 d a b x y s
    ∧ exec (e.2.1 d a b x y) s = vec3s e.2.2.1 e.2.2.2 d a b x y s := by
  have of_eq : ∀ {i j : Fin 64 → Fin 64 → Fin 64 → Bool → Bool → Instr} (lvl : Bool)
      (f : Word32 → Word32 → Word32 → Word32) {g : Word32 → Word32 → Word32 → Word32}, (∀ d p q, f d p q = g d p q) →
      (∀ s d a b x y, exec (i d a b x y) s = vec3 lvl f d a b x y s ∧ exec (j d a b x y) s = vec3s lvl f d a b x y s) →
      ∀ (s : State) (d a b : Fin 64) (x y : Bool),
        exec (i d a b x y) s = vec3 lvl g d a b x y s ∧ exec (j d a b x y) s = vec3s lvl g d a b x y s := by
    intro i j lvl f g h hx
    rwa [funext fun d => funext fun p => funext (h d p)] at hx
  simp only [accumulateTable, List.forall_mem_cons]
  exact ⟨of_eq _ _ bitInsert_eq fun _ _ _ _ _ _ => ⟨rfl, rfl⟩, of_eq _ _ dot4_eq fun _ _ _ _ _ _ => ⟨rfl, rfl⟩,
    of_eq _ _ dot4z_eq fun _ _ _ _ _ _ => ⟨rfl, rfl⟩, by simp⟩

theorem exec_wideTable_eq : ∀ e ∈ wideTable, ∀ (s : State) (d a b : Fin 64) (x y : Bool),
    exec (e.1 d a b x y) s = wide e.2.2 d a b x y s ∧ exec (e.2.1 d a b x y) s = wides e.2.2 d a b x y s := by
  simp only [wideTable, List.forall_mem_cons]
  exact ⟨fun _ _ _ _ _ _ => ⟨rfl, rfl⟩, fun _ _ _ _ _ _ => ⟨rfl, rfl⟩, by simp⟩

theorem exec_productTable_eq : ∀ e ∈ productTable, ∀ (s : State) (d a b : Fin 64) (x y : Bool),
    exec (e.1 d a b x y) s = mulWide e.2.2 d a b x y s ∧ exec (e.2.1 d a b x y) s = mulWides e.2.2 d a b x y s := by
  simp only [productTable, List.forall_mem_cons]
  exact ⟨fun _ _ _ _ _ _ => ⟨rfl, rfl⟩, fun _ _ _ _ _ _ => ⟨rfl, rfl⟩, by simp⟩

theorem exec_vectorTable1_eq : ∀ e ∈ vectorTable1, ∀ (s : State) (d a : Fin 64) (x : Bool),
    exec (e.1 d a x) s = vec1 e.2 d a x s := by
  have of_eq : ∀ {i : Fin 64 → Fin 64 → Bool → Instr} {f g : Word32 → Word32}, (∀ p, f p = g p) →
      (∀ s d a x, exec (i d a x) s = vec1 f d a x s) →
      ∀ (s : State) (d a : Fin 64) (x : Bool), exec (i d a x) s = vec1 g d a x s :=
    fun h hx => funext h ▸ hx
  simp only [vectorTable1, List.forall_mem_cons]
  exact ⟨of_eq (ofNat_leadingZeros (by decide)) fun _ _ _ _ => rfl,
    of_eq (fun p => congrArg _ (popCount32_eq p)) fun _ _ _ _ => rfl, of_eq bitReverse32_eq fun _ _ _ _ => rfl,
    fun _ _ _ _ => rfl, by simp⟩

/-- The shifts alone turn an immediate away. -/
theorem exec_vectorImmediates_eq : ∀ e ∈ vectorImmediates, ∀ (s : State) (d a : Fin 64) (i : BitVec 10) (x : Bool),
    exec (e.1 d a i x) s = vecImm (fun v => !e.2.1 || shiftLegal32 v) e.2.2 d a i x s := by
  have of_eq : ∀ {n : Fin 64 → Fin 64 → BitVec 10 → Bool → Instr} {legal : Word32 → Bool}
      {f g : Word32 → Word32 → Word32}, (∀ p q, f p q = g p q) →
      (∀ s d a i x, exec (n d a i x) s = vecImm legal f d a i x s) →
      ∀ (s : State) (d a : Fin 64) (i : BitVec 10) (x : Bool), exec (n d a i x) s = vecImm legal g d a i x s := by
    intro n legal f g h hx
    rwa [funext fun p => funext (h p)] at hx
  have same : ∀ (f : Word32 → Word32 → Word32) (p q : Word32), f p q = f p q := fun _ _ _ => rfl
  simp only [vectorImmediates, List.forall_mem_cons]
  exact ⟨of_eq (same _) fun _ _ _ _ _ => rfl, of_eq (same _) fun _ _ _ _ _ => rfl, of_eq (same _) fun _ _ _ _ _ => rfl,
    of_eq (same _) fun _ _ _ _ _ => rfl, of_eq (fun _ _ => (BitVec.shiftLeft_eq' ..).symm) fun _ _ _ _ _ => rfl,
    of_eq (fun _ _ => (BitVec.ushiftRight_eq' ..).symm) fun _ _ _ _ _ => rfl, of_eq (same _) fun _ _ _ _ _ => rfl,
    by simp⟩

/-! ## Accumulation, pairs and addresses (R97–R99, R104) -/

theorem pairBase_of_even {r : Fin 64} (h : r.val % 2 = 0) : pairBase r = true := by simp [pairBase, h]

theorem Warp.pair_eq (s : State) (r : Fin 64) (l : Fin 32) : s.warp.pair r l = s.pairOf r l := by
  simp only [Warp.pair, State.pairOf, State.elem, regAt_zero]

theorem State.elem_zero (s : State) (r : Fin 64) (l : Fin 32) : s.elem r 0 l = s.warp.v[r][l] := by
  simp only [State.elem, regAt_zero]

/-- Settles O15: each table's instructions are the shared units of the functions that stand beside them. -/
theorem vectorAccumulate : Obligations.VectorAccumulate := by
  unfold Obligations.VectorAccumulate
  refine ⟨⟨fun e he s d a b x y hp => ⟨fun hr hc => ?_, fun hr hc => ?_⟩, fun s d a b c x hp hr hc => ?_⟩,
    fun e he s d a b x y hp hd ha => ⟨fun hr hc => ?_, fun hr hc => ?_⟩,
    fun e he s d a b x y hp hd => ⟨fun hr hc => ?_, fun hr hc => ?_⟩, fun s d a b x y hp hd hr hc => ?_⟩
  · rw [(exec_accumulateTable_eq e he s d a b x y).1]
    exact vecUnit_quiet_did hp rfl hr rfl (.inl rfl) hc fun _ _ => rfl
  · rw [(exec_accumulateTable_eq e he s d a b x y).2]
    exact vecUnit_quiet_did hp rfl hr rfl (.inl rfl) hc fun _ _ => rfl
  · exact vecUnit_quiet_did hp rfl hr rfl (.inl rfl) hc fun _ _ => rfl
  · rw [(exec_wideTable_eq e he s d a b x y).1]
    refine (vecUnit_quiet_did hp ?_ hr rfl (.inr ⟨rfl, rfl⟩) hc fun _ _ => rfl).of_eq fun _ l => ?_
    · rw [pairBase_of_even hd, pairBase_of_even ha]; rfl
    · rw [State.elem_zero, ← Warp.pair_eq]
  · rw [(exec_wideTable_eq e he s d a b x y).2]
    refine (vecUnit_quiet_did hp ?_ hr rfl (.inr ⟨rfl, rfl⟩) hc fun _ _ => rfl).of_eq fun _ l => ?_
    · rw [pairBase_of_even hd, pairBase_of_even ha]; rfl
    · rw [← Warp.pair_eq]; rfl
  · rw [(exec_productTable_eq e he s d a b x y).1]
    refine (vecUnit_quiet_did hp (pairBase_of_even hd) hr rfl (.inr ⟨rfl, rfl⟩) hc fun _ _ => rfl).of_eq fun _ l => ?_
    rw [State.elem_zero, State.elem_zero]
  · rw [(exec_productTable_eq e he s d a b x y).2]
    refine (vecUnit_quiet_did hp (pairBase_of_even hd) hr rfl (.inr ⟨rfl, rfl⟩) hc fun _ _ => rfl).of_eq fun _ l => ?_
    rw [State.elem_zero]; rfl
  · refine (vecUnit_quiet_did (n := {}) hp (pairBase_of_even hd) hr rfl (.inr ⟨rfl, rfl⟩) hc fun _ _ => rfl).of_eq
      fun _ l => ?_
    rw [State.elem_zero]

/-! ## One source, immediates, broadcasts and VSEL (R97, R98, R100, R103) -/

theorem shiftLegal32_iff (v : Word32) : shiftLegal32 v = true ↔ v.toNat < 32 := decide_eq_true_iff

/-- Settles O16: the units of one source and of an immediate, a value for every lane, and VSEL's own poison. -/
theorem vectorUnary : Obligations.VectorUnary := by
  unfold Obligations.VectorUnary
  refine ⟨⟨fun e he s d a x hp hr hc => ?_, fun e he s d a i x => ⟨fun hp hl hr hc => ?_, fun h hs hi => ?_⟩,
    fun s d i hp hr => ?_, fun s d b y hp hr => ?_⟩, fun s d a b k x y hp hr hc => ?_⟩
  · rw [exec_vectorTable1_eq e he]
    exact vecUnit_quiet_did hp rfl hr rfl (.inl rfl) hc fun _ _ => rfl
  · rw [exec_vectorImmediates_eq e he]
    refine (vecUnit_quiet_did hp ?_ hr rfl (.inl rfl) hc fun _ _ => rfl).of_eq fun o l => ?_
    · rw [Hints.imm_eq_low]
      cases hs : e.2.1 with
      | false => rfl
      | true => exact (shiftLegal32_iff _).2 (hl hs)
    · rw [Hints.imm_eq_low]; rfl
  · rw [exec_vectorImmediates_eq e he, vecImm, Hints.imm_eq_low]
    refine State.issue_traps h (s.gate_illegal rfl ?_) _
    simp only [VOp.need, Bool.and_eq_false_iff]
    left; left
    rw [hs]
    exact decide_eq_false (by omega)
  · refine (vecUnit_quiet_did (n := { himm := true, hblk := true }) hp rfl hr rfl (.inl rfl) (s.clean_of_none rfl rfl)
      fun _ _ => rfl).of_eq fun o l => ?_
    rw [Hints.imm_eq_low]; rfl
  · exact vecUnit_quiet_did hp rfl hr rfl (.inl rfl) (s.clean_of_none rfl rfl) fun _ _ => rfl
  · show VecDid s (execVsel d a b k x y s) _ _ _
    unfold execVsel
    rw [State.issue_ready hr]
    exact State.vecResult_quiet_did hp rfl rfl (VOp.blockFits_of_legal hr.legal) hc fun _ _ => rfl

/-! ## Lanes that poison kills (R108, R342) -/

/-- A fragment that is ready is not released, and stands where it stood (R88). -/
theorem Warp.settleFrags_frag {w : Warp} (h : w.frag.state = .ready) : w.settleFrags.frag = w.frag := by
  have hf : (Warp.unpark 16 w.dropDead).frag = w.frag := by rw [Warp.unpark_frame]; rfl
  unfold Warp.settleFrags
  generalize Warp.unpark 16 w.dropDead = u at hf
  rw [← hf] at h ⊢
  unfold Warp.releaseOne
  split
  · rfl
  · next hnone =>
    split
    · rfl
    · next g hg =>
      have hgone : u.holds u.frag = false := by
        by_contra hlive
        refine hnone (List.any_eq_true.2 ⟨u.frag, List.mem_filter.2 ⟨List.mem_cons_self, ?_⟩, ?_⟩)
        · simpa using hlive
        · simp [Fragment.isReady, h]
      simp [hgone]

/-- Besides the dead lanes, lanes killed change the log, trap mode's lanes, and the other fragments. -/
theorem Warp.kill_frame {w : Warp} (h : w.frag.state = .ready) (lanes : Word32) : w.kill lanes = { w with
    dead := w.dead ||| lanes, log := (w.kill lanes).log, trap := (w.kill lanes).trap, frags := (w.kill lanes).frags
    park := (w.kill lanes).park } := by
  have hf := Warp.settleFrags_frag (w := { w with
    dead := w.dead ||| lanes
    log := (w.log.map fun e => { e with lanes := e.lanes &&& ~~~lanes }).filter (·.lanes != 0)
    trap := w.trap.map fun t => { t with lanes := t.lanes &&& ~~~lanes } }) h
  unfold Warp.kill
  dsimp only
  rw [Warp.settleFrags_frame, hf]

theorem State.post_others (s : State) (r : FaultRecord) : (s.post r).others = s.others := by
  unfold State.post
  dsimp only
  split
  · rfl
  · split
    · rfl
    · simp only [State.poke]

/-- A disabled ring takes no record (log 23). -/
theorem State.post_disabled {s : State} (h : s.mailbox.evsize = 0) (r : FaultRecord) : s.post r = s := if_pos h

/-- An instruction has killed lanes, with their LANEDEAD record, and gone on; it has written at most the registers of the
list (R342). Without a ring memory stays, and a ring with room takes the record. -/
structure LanesKilled (s t : State) (killed : Word32) (ds : List Reg) : Prop where
  dead : t.warp.dead = s.warp.dead ||| killed
  keeps : s.warp.Keeps t.warp ds
  place : t.warp.frag.pc = s.next
  others : t.others = s.others
  tag : t.nextTag = s.nextTag + 1
  dropped : s.mailbox.evsize = 0 → t.mem = s.mem
  posted : s.mailbox.evsize ≠ 0 → s.mailbox.evtail - s.mailbox.evhead ≠ BitVec.ofNat 64 (2 ^ s.mailbox.evsize.toNat) →
    t.mailbox = { s.mailbox with evtail := s.mailbox.evtail + 1 }

theorem State.killLanes_advance_warp {s : State} {lanes : Word32} (hk : lanes ≠ 0) (hs : s.warp.frag.state = .ready)
    (addr : Word64) : ((s.killLanes lanes addr).advance).warp = { s.warp with
      dead := s.warp.dead ||| lanes, log := (s.warp.kill lanes).log, trap := (s.warp.kill lanes).trap
      frag := s.warp.advance.frag, frags := (s.warp.kill lanes).frags, park := (s.warp.kill lanes).park } := by
  unfold State.killLanes State.killAt
  rw [if_neg hk]
  simp only [State.advance, State.onWarp_warp, State.postTagged_warp]
  rw [Warp.kill_frame hs]
  rfl

/-- The issuing warp's lanes die, and the unit goes on. -/
theorem State.killLanes_advance {s : State} {lanes : Word32} (hk : lanes ≠ 0) (hs : s.warp.frag.state = .ready)
    (addr : Word64) : LanesKilled s (s.killLanes lanes addr).advance lanes [] := by
  have hwarp := State.killLanes_advance_warp hk hs addr
  refine ⟨by rw [hwarp], ?_, by rw [hwarp]; rfl, ?_, ?_, fun h0 => ?_, fun h0 h1 => ?_⟩
  · rw [hwarp]
    exact ⟨fun _ _ => ⟨rfl, rfl, rfl⟩, fun _ _ => ⟨rfl, rfl, rfl⟩⟩
  all_goals
    unfold State.killLanes State.killAt
    rw [if_neg hk]
  · exact State.post_others _ _
  · rfl
  · show ((s.onWarp fun w => w.kill lanes).post _).mem = s.mem
    rw [State.post_disabled (s := s.onWarp fun w => w.kill lanes) h0]
    rfl
  · exact (State.postTagged_taken (s := s.onWarp fun w => w.kill lanes) h0 h1 _).1

/-- What results written in time leave of the issuing warp. -/
theorem State.finish_written {s : State} (hp : s.Prompt) (ws : List RegWrite) (flags : BitVec 5) :
    let u := (s.finish ws flags).warp
    u.dead = s.warp.dead ∧ u.frag = s.warp.frag ∧ s.warp.Keeps u (ws.map RegWrite.reg)
    ∧ ((ws.map RegWrite.reg).Nodup → ∀ r m x, RegWrite.v r m x ∈ ws → s.warp.HoldsV u r m fun l => x[l]) := by
  have hregs := Warp.applyAll_registers ws s.warp
  unfold Warp.OnlyRegisters at hregs
  have hkeeps := Warp.applyAll_keeps ws s.warp
  rw [State.finish_prompt hp]
  refine ⟨by rw [hregs], (Warp.applyAll_other ws s.warp).2.2.1, ⟨hkeeps.scalar, hkeeps.vector⟩, fun hn r m x hx => ?_⟩
  have hholds := Warp.applyAll_holds ws s.warp hn r m x hx
  exact ⟨hholds.value, hholds.full⟩

/-- A vector instruction of one element some of whose lanes read poison: they die and keep their elements, and the others
are written. -/
theorem State.vecResult_kills {s : State} (hp : s.Prompt) {v : VOp} {poison : Warp → Nat → Word32} {f : LaneFn}
    (hd : v.dw = 1) (hone : s.elems v = [0]) {killed : Word32} (hkilled : poison s.warp 0 &&& s.warp.active = killed)
    (hk : killed ≠ 0) (hs : s.warp.frag.state = .ready) :
    LanesKilled s (s.vecResult v poison f) killed [.v v.d]
    ∧ s.warp.HoldsV (s.vecResult v poison f).warp v.d (s.warp.active &&& ~~~killed) fun l =>
        (f s.warp 0 l).1.setWidth 32 := by
  have hzero : (0 : Word32) ||| poison s.warp 0 = poison s.warp 0 := BitVec.zero_or
  obtain ⟨flags, hres⟩ : ∃ flags, s.vecResult v poison f =
      ((s.finish (v.writes f s.warp (s.warp.active &&& ~~~killed) 0) flags).killLanes killed 0).advance := by
    unfold State.vecResult
    simp only [show s.warp.frag.hints.elems v.step = [0] from hone, List.foldl_cons, List.foldl_nil, List.flatMap_cons,
      List.flatMap_nil, List.append_nil, hzero, hkilled]
    exact ⟨_, rfl⟩
  obtain ⟨x, hx, hxl⟩ := v.mem_writes f s.warp (s.warp.active &&& ~~~killed) 0 0 (.inl hd) (by omega)
  have hregs := v.writes_reg f s.warp (s.warp.active &&& ~~~killed) 0 (.inl hd)
  simp only [hd, List.range_one, List.map_cons, List.map_nil, Nat.add_zero, regAt_zero] at hregs hx
  rw [hres]
  generalize v.writes f s.warp (s.warp.active &&& ~~~killed) 0 = ws at hregs hx
  obtain ⟨hdead, hfrag, hkeeps, hholds⟩ := State.finish_written hp ws flags
  have hl := State.killLanes_advance (s := s.finish ws flags) hk (hfrag ▸ hs) 0
  have hd' := hholds (by simp [hregs]) _ _ x hx
  obtain ⟨hv, hfull, -⟩ := hl.keeps.vector v.d List.not_mem_nil
  refine ⟨⟨hdead ▸ hl.dead, by simpa [hregs] using hkeeps.trans hl.keeps, ?_, by rw [hl.others, State.finish_others],
    by rw [hl.tag, State.finish_nextTag], fun h0 => ?_, fun h0 h1 => ?_⟩, fun l => ?_, hfull.trans hd'.full⟩
  · rw [hl.place, State.next, hfrag]
    rfl
  · rw [hl.dropped (by rwa [State.finish_mailbox]), State.finish_mem]
  · rw [hl.posted (by rwa [State.finish_mailbox]) (by rwa [State.finish_mailbox]), State.finish_mailbox]
  · rw [hv]
    refine (hd'.value l).trans (if_ctx_congr Iff.rfl (fun hin => ?_) fun _ => rfl)
    exact (hxl l hin).trans (by simp)

/-- Settles O17: each table's instructions are the shared units of the functions that stand beside them; what the units
leave where lanes read poison is a write to the others, and a kill. -/
theorem vectorArithmetic : Obligations.VectorArithmetic := by
  unfold Obligations.VectorArithmetic
  refine ⟨fun e he s d a b x y hp => ⟨fun hr hc => ?_, fun hr hc => ?_⟩, fun e he s d a b x y hp hr hb hk hs => ?_⟩
  · rw [(exec_vectorTable_eq e he s d a b x y).1]
    exact vecUnit_quiet_did hp rfl hr rfl (.inl rfl) hc fun _ _ => rfl
  · rw [(exec_vectorTable_eq e he s d a b x y).2]
    exact vecUnit_quiet_did hp rfl hr rfl (.inl rfl) hc fun _ _ => rfl
  · rw [(exec_vectorTable_eq e he s d a b x y).1]
    have hone : s.warp.frag.hints.elems 1 = [0] := by simp [Hints.elems, hb]
    have hown : VOp.ownPoison { d := d, vs := [{ base := a, x := x }, { base := b, x := y }] } s.warp 0 =
        s.warp.vPoison[a] ||| s.warp.vPoison[b] := by
      simp [VOp.ownPoison, VOp.sourceRegs, blockRegs, Warp.poisonIn_two]
    obtain ⟨h, hv⟩ := State.vecResult_kills hp (v := { d := d, vs := [{ base := a, x := x }, { base := b, x := y }] })
      (poison := VOp.ownPoison _) (f := fun w o l => word (e.2.2 w.v[regAt a o][l] w.v[regAt b o][l])) rfl hone
      (by rw [hown]) hk hs
    refine ⟨_, by rw [vec2, vecUnit, State.issue_ready hr], h.dead, fun l => ?_, h.keeps, h.place, h.others, h.tag, h.dropped,
      h.posted⟩
    refine (hv.value l).trans ?_
    simp [word, inMask_eq_getElem]

end Sys2Proof.Machine
end

section
/-! Obligation O22: lane exchange, warp reductions, and single lanes (R94, R105–R108). -/

set_option Elab.async false

namespace Sys2Proof.Machine

/-! ## Exchange (R94, R105) -/

/-- A source lane, or none, as the model names it. -/
def Source.ofLane : Option Nat → Source
  | none => .own
  | some j => .lane j

theorem getLsbD_of_and_eq_zero {n : Nat} {m a : BitVec n} (h : m &&& a = 0) {j : Nat} (ha : a.getLsbD j = true) :
    m.getLsbD j = false := by
  have hj := congrArg (fun x : BitVec n => x.getLsbD j) h
  simpa [ha] using hj

theorem or_and_eq_zero {n : Nat} {p q a : BitVec n} : (p ||| q) &&& a = 0 ↔ p &&& a = 0 ∧ q &&& a = 0 := by
  rw [BitVec.and_comm, BitVec.and_or_distrib_left, BitVec.and_comm a, BitVec.and_comm a]
  exact BitVec.or_eq_zero_iff

/-- No lane receives poison where no lane that takes part holds any. -/
theorem poisonReaders_clean {w : Warp} {a : Fin 64} (h : w.vPoison[a] &&& w.active = 0) (src : Fin 32 → Source) :
    poisonReaders w a src &&& w.active = 0#32 := by
  apply BitVec.eq_of_getLsbD_eq
  intro i hi
  rw [BitVec.getLsbD_and, BitVec.getLsbD_zero]
  cases ha : w.active.getLsbD i with
  | false => exact Bool.and_false _
  | true =>
    rw [Bool.and_true, poisonReaders, getLsbD_maskOf _ ⟨i, hi⟩]
    cases src ⟨i, hi⟩ with
    | own => exact getLsbD_of_and_eq_zero h ha
    | lane j =>
      cases hj : w.active.getLsbD j with
      | false => simp only [hj, Bool.false_and]
      | true => simp only [hj, getLsbD_of_and_eq_zero h hj, Bool.and_false]

theorem deadReaders_eq (w : Warp) (src : Fin 32 → Option Nat) : deadReaders w (fun l => .ofLane (src l)) =
    maskOf fun l => w.active[l] && (src l).any fun j => !w.active.getLsbD j := by
  refine maskOf_congr fun l => congrArg (w.active[l] && ·) ?_
  dsimp only
  cases src l <;> rfl

theorem shuffled_own {w : Warp} {a : Fin 64} {src : Fin 32 → Source} {l : Fin 32} (h : src l = .own) :
    shuffled w a src l = w.v[a][l] := by
  rw [shuffled, h]

theorem shuffled_lane {w : Warp} {a : Fin 64} {src : Fin 32 → Source} {l : Fin 32} {j : Nat} (h : src l = .lane j) :
    shuffled w a src l = if w.active.getLsbD j then w.v[a][Fin.ofNat 32 j] else 0 := by
  rw [shuffled, h]
  refine if_ctx_congr Iff.rfl (fun hj => ?_) fun _ => rfl
  have hlt : j < 32 := BitVec.lt_of_getLsbD hj
  simp [hlt, Nat.mod_eq_of_lt hlt]

/-- Reading other lanes changes nothing of what a unit needs but its sources. -/
theorem Need.shuffles_legal (n : Need) (w : Warp) (a : Fin 64) : (n.shuffles w a).legal = n.legal := by
  unfold Need.shuffles
  split <;> rfl

/-- An exchange whose lanes read no poison. -/
theorem exchange_did {s : State} (hp : s.Prompt) {i : Instr} {d a : Fin 64} {x : Bool} {vs : List VSrc}
    {ss : List (Fin 64 × Bool)} {src : Warp → Fin 32 → Source} {lanes : Fin 32 → Option Nat}
    (hi : exec i s = exchange d a x vs ss src s)
    (hsrc : ∀ dead : Word32, src { s.warp with dsrc := dead } = fun l => .ofLane (lanes l))
    (hr : s.Ready ((({ d := d, vs := { base := a, x := x } :: vs, ss := ss } : VOp).need {} s.warp.frag.hints).shuffles
      s.warp a))
    (ha : s.warp.vPoison[a] &&& s.warp.active = 0)
    (hvs : vs.foldl (fun m q => m ||| s.warp.vPoison[q.base]) 0 &&& s.warp.active = 0) :
    Exchanged s i { d := d, vs := { base := a, x := x } :: vs, ss := ss } a lanes := by
  have hfits : s.warp.frag.hints.blockFits 1 d = true := by
    have hl := hr.legal
    rw [Need.shuffles_legal] at hl
    exact VOp.blockFits_of_legal hl
  have hdead : deadReaders s.warp (src s.warp) =
      maskOf fun l => s.warp.active[l] && (lanes l).any fun j => !s.warp.active.getLsbD j :=
    (congrArg (deadReaders s.warp) (hsrc s.warp.dsrc)).trans (deadReaders_eq _ _)
  unfold Exchanged
  dsimp only
  rw [hi, exchange, State.issue_ready hr, ← hdead]
  refine (State.vecResult_quiet_did (v := { d := d, vs := { base := a, x := x } :: vs, ss := ss }) (s := s.noteDeadSource (deadReaders s.warp (src s.warp))) hp rfl rfl hfits
    (fun _ _ => or_and_eq_zero.2 ⟨poisonReaders_clean ha _, hvs⟩) fun _ _ => rfl).of_eq fun _ l => ?_
  have hl : src (s.noteDeadSource (deadReaders s.warp (src s.warp))).warp l = .ofLane (lanes l) := congrFun (hsrc _) l
  simp only [State.elem_zero]
  cases hlane : lanes l with
  | none =>
    rw [hlane] at hl
    rw [word, shuffled_own hl]
    rfl
  | some j =>
    rw [hlane] at hl
    rw [word, shuffled_lane hl]
    exact apply_ite (fun p : Word32 => (p.setWidth 64 : Word64)) (s.warp.active.getLsbD j = true) _ _

/-- The exchanges by a per-lane index. -/
theorem exec_exchangeTable_eq : ∀ e ∈ exchangeTable, ∃ f : Nat → Nat → Source, (∀ l i, f l i = .ofLane (e.2 l i))
    ∧ ∀ (s : State) (d a b : Fin 64) (x y : Bool),
      exec (e.1 d a b x y) s = exchange d a x [{ base := b, x := y }] [] (indexed b f) s := by
  simp only [exchangeTable, List.forall_mem_cons]
  refine ⟨⟨_, ?_, fun _ _ _ _ _ _ => rfl⟩, ⟨_, ?_, fun _ _ _ _ _ _ => rfl⟩, ⟨_, ?_, fun _ _ _ _ _ _ => rfl⟩,
    ⟨_, ?_, fun _ _ _ _ _ _ => rfl⟩, ⟨_, ?_, fun _ _ _ _ _ _ => rfl⟩, by simp⟩
  · exact fun _ _ => rfl
  · exact fun l i => (apply_ite Source.ofLane (l < i % 32) none (some (l - i % 32))).symm
  · exact fun l i => (apply_ite Source.ofLane (31 < l + i % 32) none (some (l + i % 32))).symm
  · exact fun _ _ => rfl
  · exact fun _ _ => rfl

/-! ## Reductions (R107) -/

/-- An instruction delivers a function of the elements of the lanes that take part, and 0 from none. -/
def ReducesAs (i : Fin 64 → Fin 64 → Bool → Instr) (g : List Word32 → Word64 × BitVec 5) : Prop :=
  ∃ f : Word32 → List Word32 → Word64 × BitVec 5, g [] = (0, 0) ∧ (∀ p ps, g (p :: ps) = f p ps)
    ∧ ∀ (s : State) (d a : Fin 64) (x : Bool), exec (i d a x) s = warpReduce f d a x s

/-- Elements combined one after another, and widened; 0 from none. -/
def foldWords (f : Word32 → Word32 → Word32) (g : Word32 → Word64) : List Word32 → Word64
  | [] => 0
  | p :: ps => g (ps.foldl f p)

/-- A chain of rounded sums, and the conditions of all its roundings; 0 from no element. -/
def sumWords : List Word32 → Word64 × BitVec 5
  | [] => (0, 0)
  | p :: ps => ((sumChain p ps).1.setWidth 64, (sumChain p ps).2)

theorem reduceTable_eq : reduceTable =
    [(.wradd, fun xs => (xs.foldl (fun t p => t + p.signExtend 64) 0, 0)),
     (.wrmin, fun xs => (foldWords (fun p q => if q.slt p then q else p) (·.signExtend 64) xs, 0)),
     (.wrmax, fun xs => (foldWords (fun p q => if p.slt q then q else p) (·.signExtend 64) xs, 0)),
     (.wrminz, fun xs => (foldWords (fun p q => if q.ult p then q else p) (·.setWidth 64) xs, 0)),
     (.wrmaxz, fun xs => (foldWords (fun p q => if p.ult q then q else p) (·.setWidth 64) xs, 0)),
     (.wrand, fun xs => (foldWords (fun p q => p &&& q) (·.setWidth 64) xs, 0)),
     (.wror, fun xs => (foldWords (fun p q => p ||| q) (·.setWidth 64) xs, 0)),
     (.wrxor, fun xs => (foldWords (fun p q => p ^^^ q) (·.setWidth 64) xs, 0)),
     (.wrfadd, sumWords)] := rfl

theorem reducesAs_fold {i : Fin 64 → Fin 64 → Bool → Instr} (f : Word32 → Word32 → Word32) {f' : Word32 → Word32 → Word32}
    {g : Word32 → Word64} (hf : ∀ p q, f p q = f' p q)
    (h : ∀ (s : State) (d a : Fin 64) (x : Bool), exec (i d a x) s = warpReduce (reduceWith f g) d a x s) :
    ReducesAs i fun xs => (foldWords f' g xs, 0) := by
  obtain rfl : f = f' := funext fun p => funext fun q => hf p q
  exact ⟨reduceWith f g, rfl, fun _ _ => rfl, h⟩

theorem sminQ_eq_slt_swap (p q : Word32) : sminQ p q = if q.slt p then q else p := by
  simp only [BitVec.slt_iff_toInt_lt, sminQ, ← not_le, ite_not]

theorem uminQ_eq_ult_swap (p q : Word32) : uminQ p q = if q.ult p then q else p := by
  simp only [BitVec.ult_iff_toNat_lt, uminQ, ← not_le, ite_not]

theorem reducesAs_wradd : ReducesAs .wradd fun xs => (xs.foldl (fun t p => t + p.signExtend 64) 0, 0) := by
  refine ⟨fun r rest => (rest.foldl (fun t q => t + q.signExtend 64) (r.signExtend 64), 0), rfl, fun p ps => ?_,
    fun s d a x => ?_⟩
  · dsimp only
    rw [List.foldl_cons, show (0 : Word64) + p.signExtend 64 = p.signExtend 64 from BitVec.zero_add _]
  · show execWradd d a x s = _
    rfl

theorem reducesAs_wrfadd : ReducesAs .wrfadd sumWords := by
  refine ⟨fun r rest => let (t, f) := sumChain r rest; (t.setWidth 64, f), rfl, fun p ps => ?_, fun s d a x => ?_⟩
  · rw [sumWords]
  · show execWrfadd d a x s = _
    rfl

/-- The reductions of the table are functions of the elements of the lanes that take part. -/
theorem reducesAs_reduceTable : ∀ e ∈ reduceTable, ReducesAs e.1 e.2 := by
  simp only [reduceTable_eq, List.forall_mem_cons]
  exact ⟨reducesAs_wradd, reducesAs_fold _ sminQ_eq_slt_swap fun _ _ _ _ => rfl,
    reducesAs_fold _ smaxQ_eq_slt fun _ _ _ _ => rfl, reducesAs_fold _ uminQ_eq_ult_swap fun _ _ _ _ => rfl,
    reducesAs_fold _ umaxQ_eq_ult fun _ _ _ _ => rfl,
    reducesAs_fold (fun p q => p &&& q) (fun _ _ => rfl) fun _ _ _ _ => rfl,
    reducesAs_fold (fun p q => p ||| q) (fun _ _ => rfl) fun _ _ _ _ => rfl,
    reducesAs_fold (fun p q => p ^^^ q) (fun _ _ => rfl) fun _ _ _ _ => rfl, reducesAs_wrfadd, by simp⟩

/-- A scalar and conditions are delivered, and the unit goes on. -/
theorem State.finish_scalar_did {s : State} (hp : s.Prompt) (d : Fin 64) (v : Word64) (flags : BitVec 5) :
    let t := (s.finish [.s d v] flags).advance
    Did s t [.s d] s.next ∧ t.warp.HoldsS d v ∧ t.warp.fpflags = s.warp.fpflags ||| flags := by
  refine ⟨State.finish_advance_did hp [.s d v] flags, ?_, ?_⟩
  · have h := Warp.holdsS_writeS s.warp d v
    rw [State.finish_prompt hp]
    exact ⟨h.value, h.full, h.clean⟩
  · rw [State.finish_prompt hp]
    rfl

/-- A reduction whose lanes read no poison. -/
theorem ReducesAs.did {i : Fin 64 → Fin 64 → Bool → Instr} {g : List Word32 → Word64 × BitVec 5} (h : ReducesAs i g)
    {s : State} (hp : s.Prompt) {d a : Fin 64} {x : Bool} (hr : s.Ready { dests := [.s d], srcs := [(.v a, x)] })
    (hc : s.warp.vPoison[a] &&& s.warp.active = 0) :
    let r := g ((lanesOf s.warp.active).map fun l => s.warp.v[a][l])
    ∃ t, exec (i d a x) s = .next t ∧ Did s t [.s d] s.next ∧ t.warp.HoldsS d r.1
      ∧ t.warp.fpflags = s.warp.fpflags ||| r.2 := by
  obtain ⟨f, hnil, hcons, hexec⟩ := h
  rw [hexec, warpReduce, State.issue_ready hr]
  dsimp only
  rw [if_neg (not_not.2 hc)]
  refine ⟨_, rfl, ?_⟩
  cases (lanesOf s.warp.active).map fun l => s.warp.v[a][l] with
  | nil =>
    rw [hnil]
    exact State.finish_scalar_did hp d 0 0
  | cons p ps =>
    rw [hcons]
    exact State.finish_scalar_did hp d _ _

/-- One that reads poison in a lane that takes part raises POISON (R108). -/
theorem ReducesAs.poison {i : Fin 64 → Fin 64 → Bool → Instr} {g : List Word32 → Word64 × BitVec 5} (h : ReducesAs i g)
    {s : State} (hh : s.Handles) {d a : Fin 64} {x : Bool} (hr : s.Ready { dests := [.s d], srcs := [(.v a, x)] })
    (hc : s.warp.vPoison[a] &&& s.warp.active ≠ 0) : Traps s (exec (i d a x) s) .poison := by
  obtain ⟨f, -, -, hexec⟩ := h
  rw [hexec]
  exact State.issue_ready_traps hh hr _ (if_pos hc)

/-! ## One lane (R106) -/

theorem maskOf_eq_shiftLeft (k : Fin 32) : (maskOf fun l => l == k) = 1#32 <<< k.val := by
  apply BitVec.eq_of_getLsbD_eq
  intro i hi
  have hone : (1#32 <<< k.val).getLsbD i = decide (i = k.val) := getLsbD_single hi
  rw [getLsbD_maskOf _ ⟨i, hi⟩, hone, Bool.eq_iff_iff, beq_iff_eq, decide_eq_true_eq, Fin.ext_iff]

theorem exec_bcast_eq (s : State) (d a b : Fin 64) (x y : Bool) : exec (.bcast d a b x y) s =
    exchange d a x [] [(b, y)] (fun w _ => .lane ((w.readS b).toNat % 32)) s := rfl

/-- Settles O22: each exchange is one function of source lanes, each reduction one fold; VRDLANE by its three cases. -/
theorem laneExchange : Obligations.LaneExchange := by
  unfold Obligations.LaneExchange
  refine ⟨⟨fun e he s d a b x y hp hr hc => ?_, fun s d a b x y hp hr hc => ?_⟩,
    fun e he s d a x hr => ⟨fun hc hp => ?_, fun hc hh => ?_⟩, fun s d a x hr hp hc => ?_,
    fun s d a b x y hp => ⟨fun hr => ⟨fun hk hc => ?_, fun hk hc hh => ?_, fun hk => ?_⟩, fun hr => ?_⟩⟩
  · obtain ⟨f, hf, hexec⟩ := exec_exchangeTable_eq e he
    obtain ⟨ha, hb⟩ := or_and_eq_zero.1 hc
    refine exchange_did hp (hexec s d a b x y) (fun dead => funext fun l => ?_) hr ha ?_
    · rw [State.elem_zero]
      exact hf _ _
    · rw [List.foldl_cons, List.foldl_nil]
      exact or_and_eq_zero.2 ⟨BitVec.zero_and, hb⟩
  · exact exchange_did hp (exec_bcast_eq s d a b x y) (fun _ => rfl) hr hc BitVec.zero_and
  · exact (reducesAs_reduceTable e he).did hp hr hc
  · exact (reducesAs_reduceTable e he).poison hh hr hc
  · show ScalarDid s (execBallot d a x s) _ _
    refine State.issue_ready_scalarDid hp hr ?_
    dsimp only
    rw [if_neg (not_not.2 hc)]
    rfl
  · show ScalarDid s (execVrdlane d a b x y s) _ _
    rw [← inMask_eq_getElem] at hk hc
    exact State.issue_ready_scalarDid hp hr ((if_pos hk).trans (if_neg (Bool.eq_false_iff.1 hc)))
  · show Traps s (execVrdlane d a b x y s) _ _
    rw [← inMask_eq_getElem] at hk hc
    exact State.issue_ready_traps hh hr _ ((if_pos hk).trans (if_pos hc))
  · rw [← inMask_eq_getElem] at hk
    show ScalarDid _ (execVrdlane d a b x y s) _ _
    obtain ⟨hdid, hholds, hflags⟩ := State.scalarResult_did (s := s.noteDeadSource s.warp.active) hp d 0
    refine ⟨_, ?_, hdid, hholds, hflags⟩
    rw [execVrdlane, State.issue_ready hr]
    exact congrArg _ (if_neg (Bool.eq_false_iff.1 hk))
  · show ∃ t, execVwrlane d a b x y s = .next t ∧ _
    rw [← maskOf_eq_shiftLeft, execVwrlane, State.issue_ready hr]
    obtain ⟨-, -, -, hholds⟩ := State.finish_written hp [.v d ((maskOf fun l => l == laneIndex s.warp b) &&& s.warp.active)
      (splat (s.low a))] 0
    have hv := hholds (List.nodup_singleton _) d _ _ List.mem_cons_self
    refine ⟨_, rfl, State.finish_advance_did hp [.v d _ _] 0, fun l => ?_, hv.full⟩
    refine (hv.value l).trans (if_ctx_congr Iff.rfl (fun _ => ?_) fun _ => rfl)
    simp [splat]

end Sys2Proof.Machine
end

section
/-! Rounding of signed rational numbers, and the model's rounding of a magnitude at a power of two (R113, R118). -/

set_option Elab.async false

namespace Sys2Proof.Machine

/-! ## Rounding of magnitudes -/

/-- A magnitude with its sign. -/
def signedBy (neg : Bool) (x : ℚ) : ℚ := (if neg then -1 else 1) * x

/-- Whether the magnitude `n + φ` goes up to `n + 1`: the modes of `roundedInt`, seen from zero. -/
def roundsUp (rm : Nat) (neg : Bool) (n : Nat) (φ : ℚ) : Bool :=
  match rm with
  | 0 => decide (1 / 2 < φ) || (decide (φ = 1 / 2) && n % 2 == 1)
  | 1 => false
  | 2 => decide (φ ≠ 0) && !neg
  | _ => decide (φ ≠ 0) && neg

theorem ceil_natCast_add (n : Nat) {φ : ℚ} (h0 : 0 ≤ φ) (h1 : φ < 1) : ⌈(n : ℚ) + φ⌉ = if φ = 0 then (n : ℤ) else n + 1 := by
  split
  next h => simp [h]
  next h =>
    have := lt_of_le_of_ne h0 (Ne.symm h)
    rw [Int.ceil_eq_iff]
    push_cast
    constructor <;> linarith

theorem floor_natCast_add (n : Nat) {φ : ℚ} (h0 : 0 ≤ φ) (h1 : φ < 1) : ⌊(n : ℚ) + φ⌋ = n := by
  rw [Int.floor_eq_iff, Int.cast_natCast]
  constructor <;> linarith

theorem roundsUp_nearest (neg : Bool) (n : Nat) (φ : ℚ) :
    roundsUp 0 neg n φ = true ↔ 1 / 2 < φ ∨ (φ = 1 / 2 ∧ n % 2 = 1) := by
  simp only [roundsUp, Bool.or_eq_true, Bool.and_eq_true, decide_eq_true_eq, beq_iff_eq]

/-- Rounding of a magnitude, from below. -/
theorem roundedInt_pos (rm : Nat) (n : Nat) {φ : ℚ} (h0 : 0 ≤ φ) (h1 : φ < 1) :
    roundedInt rm (n + φ) = if roundsUp rm false n φ then (n : ℤ) + 1 else n := by
  match rm with
  | 0 =>
    have hup : (φ < 1 / 2 ∨ φ = 1 / 2 ∧ (n : ℤ) % 2 = 0) ↔ ¬ roundsUp 0 false n φ = true := by
      rw [roundsUp_nearest]
      rcases lt_trichotomy φ (1 / 2) with h | rfl | h
      · simp only [h, h.ne, h.not_gt, false_and, or_false, not_false_eq_true]
      · simp only [lt_irrefl, true_and, false_or]; omega
      · simp only [h, h.ne', h.not_gt, false_and, or_false, not_true_eq_false]
    simp only [roundedInt, floor_natCast_add n h0 h1, Int.cast_natCast, add_sub_cancel_left, hup, ite_not]
  | 1 => simp [roundedInt, roundsUp, floor_natCast_add n h0 h1, (add_nonneg n.cast_nonneg h0).not_gt]
  | 2 => by_cases hz : φ = 0 <;> simp [roundedInt, roundsUp, ceil_natCast_add n h0 h1, hz]
  | k + 3 => simp [roundedInt, roundsUp, floor_natCast_add n h0 h1]

/-- Rounding of a negative number is rounding of its magnitude in the mirrored mode. -/
theorem roundedInt_neg (rm : Nat) (n : Nat) {φ : ℚ} (h0 : 0 ≤ φ) (h1 : φ < 1) :
    roundedInt rm (-(n + φ)) = -if roundsUp rm true n φ then (n : ℤ) + 1 else n := by
  have hfl : ⌊-((n : ℚ) + φ)⌋ = -(if φ = 0 then (n : ℤ) else n + 1) := by
    rw [Int.floor_neg, ceil_natCast_add n h0 h1]
  have hc : ⌈-((n : ℚ) + φ)⌉ = -n := by rw [Int.ceil_neg, floor_natCast_add n h0 h1]
  by_cases hz : φ = 0
  · have hup : roundsUp rm true n φ = false := by
      match rm with
      | 0 => norm_num [roundsUp, hz]
      | 1 => rfl
      | 2 => simp [roundsUp]
      | k + 3 => simp [roundsUp, hz]
    rw [if_pos hz] at hfl
    have hd : -((n : ℚ) + φ) - ((-(n : ℤ) : ℤ) : ℚ) = 0 := by rw [hz]; push_cast; ring
    match rm with
    | 0 => simp only [roundedInt, hfl, hd, hup]; norm_num
    | 1 => simp only [roundedInt, hfl, hc, hup, ite_self]; rfl
    | 2 => simp only [roundedInt, hc, hup]; rfl
    | k + 3 => simp only [roundedInt, hfl, hup]; rfl
  · have hpos : 0 < φ := lt_of_le_of_ne h0 (Ne.symm hz)
    rw [if_neg hz] at hfl
    match rm with
    | 0 =>
      have hd : -((n : ℚ) + φ) - ((-((n : ℤ) + 1) : ℤ) : ℚ) = 1 - φ := by push_cast; ring
      have hup : (1 - φ < 1 / 2 ∨ 1 - φ = 1 / 2 ∧ -((n : ℤ) + 1) % 2 = 0) ↔ roundsUp 0 true n φ = true := by
        have hlt : 1 - φ < 1 / 2 ↔ 1 / 2 < φ := by constructor <;> intro <;> linarith
        have heq : 1 - φ = 1 / 2 ↔ φ = 1 / 2 := by constructor <;> intro <;> linarith
        have hodd : -((n : ℤ) + 1) % 2 = 0 ↔ n % 2 = 1 := by omega
        rw [roundsUp_nearest, hlt, heq, hodd]
      simp only [roundedInt, hfl, hd, hup]
      split <;> ring
    | 1 =>
      have hneg : -((n : ℚ) + φ) < 0 := by have := n.cast_nonneg (α := ℚ); linarith
      simp only [roundedInt, if_pos hneg, hc, roundsUp, Bool.false_eq_true, if_false]
    | 2 => simp only [roundedInt, hc, roundsUp, Bool.not_true, Bool.and_false, Bool.false_eq_true, if_false]
    | k + 3 => simp only [roundedInt, hfl, roundsUp, hz, ne_eq, not_false_eq_true, decide_true, Bool.and_true, if_true]

/-- Rounding is rounding of the magnitude, with the sign. -/
theorem roundedInt_signedBy (rm : Nat) (neg : Bool) (n : Nat) {φ : ℚ} (h0 : 0 ≤ φ) (h1 : φ < 1) :
    (roundedInt rm (signedBy neg (n + φ)) : ℚ) = signedBy neg (if roundsUp rm neg n φ then n + 1 else n : ℕ) := by
  cases neg with
  | false =>
    simp only [signedBy, Bool.false_eq_true, if_false, one_mul, roundedInt_pos rm n h0 h1]
    split <;> simp
  | true =>
    simp only [signedBy, if_true, neg_one_mul, roundedInt_neg rm n h0 h1]
    split <;> simp

/-- A magnitude `x` that an exact value stands for: `m × 2^e`, or with more, one between that and `(m + 1) × 2^e`. -/
def Exact.Mag (m : Nat) (e : Int) (more : Bool) (x : ℚ) : Prop :=
  if more then m * (2 : ℚ) ^ e < x ∧ x < (m + 1) * (2 : ℚ) ^ e else x = m * (2 : ℚ) ^ e

theorem Exact.fin_for_iff (neg : Bool) (m : Nat) (e : Int) (more : Bool) (v : Value) :
    (Exact.fin neg m e more).For v ↔ ∃ x, Exact.Mag m e more x ∧ v = .num neg (signedBy neg x) := by
  have hm : (0 : ℚ) ≤ m * 2 ^ e := by positivity
  cases more with
  | false =>
    simp only [Exact.For, Exact.Mag, signedBy, Bool.false_eq_true, if_false]
    constructor
    · rintro ⟨q, rfl, rfl⟩
      exact ⟨_, rfl, by rw [mul_assoc]⟩
    · rintro ⟨x, rfl, rfl⟩
      exact ⟨_, rfl, by rw [mul_assoc]⟩
  | true =>
    simp only [Exact.For, Exact.Mag, signedBy, if_true]
    constructor
    · rintro ⟨q, rfl, hl, hu, hs⟩
      refine ⟨|q|, ⟨hl, hu⟩, ?_⟩
      rcases lt_or_ge q 0 with h | h
      · simp [hs, h, abs_of_neg]
      · simp [hs, h.not_gt, abs_of_nonneg h]
    · rintro ⟨x, ⟨hl, hu⟩, rfl⟩
      have hx : 0 < x := hm.trans_lt hl
      have ha : |(if neg then -1 else 1) * x| = x := by cases neg <;> simp [abs_of_pos hx]
      refine ⟨_, rfl, by rwa [ha], by rwa [ha], ?_⟩
      cases neg <;> simp [hx, hx.le]

/-! ## The model's rounding of a magnitude -/

theorem Exact.Mag.nonneg {m : Nat} {e : Int} {more : Bool} {x : ℚ} (h : Exact.Mag m e more x) : 0 ≤ x := by
  have hm : (0 : ℚ) ≤ m * 2 ^ e := by positivity
  cases more with
  | false => exact hm.trans_eq h.symm
  | true => exact hm.trans h.1.le

/-- What lies below the last bit of an exact value: nothing, or with more a part of one. -/
def Exact.Part (more : Bool) (δ : ℚ) : Prop := if more then 0 < δ ∧ δ < 1 else δ = 0

theorem Exact.Part.bounds {more : Bool} {δ : ℚ} (h : Exact.Part more δ) : 0 ≤ δ ∧ δ < 1 := by
  cases more with
  | false => rw [show δ = 0 from h]; exact ⟨le_rfl, one_pos⟩
  | true => exact ⟨h.1.le, h.2⟩

/-- A magnitude in units of `2^e`: `m`, and less than one with more. -/
theorem Exact.Mag.units {m : Nat} {e : Int} {more : Bool} {x : ℚ} (h : Exact.Mag m e more x) :
    ∃ δ : ℚ, x = (m + δ) * 2 ^ e ∧ Exact.Part more δ := by
  have he : (0 : ℚ) < 2 ^ e := by positivity
  cases more with
  | false => exact ⟨0, by rw [add_zero]; exact h, rfl⟩
  | true =>
    obtain ⟨hl, hu⟩ := h
    refine ⟨x / 2 ^ e - m, by field_simp; ring, ?_, ?_⟩
    · rw [sub_pos, lt_div_iff₀ he]; exact hl
    · rw [sub_lt_iff_lt_add', div_lt_iff₀ he]; exact hu

section

variable {more : Bool} {δ : ℚ} (hδ : Exact.Part more δ) (r : Nat) {d : Nat}
include hδ

theorem part_ne_zero (hd : 0 < d) : decide (((r : ℚ) + δ) / d ≠ 0) = (r != 0 || more) := by
  have hd' : (d : ℚ) ≠ 0 := by positivity
  have hr : (0 : ℚ) ≤ r := r.cast_nonneg
  rw [Bool.eq_iff_iff, decide_eq_true_eq, ne_eq, div_eq_zero_iff, or_iff_left hd']
  cases more with
  | false => rw [show δ = 0 from hδ]; simp
  | true =>
    have : (r : ℚ) + δ ≠ 0 := by linarith [hδ.1]
    simp [this]

/-- Of an even divisor, a part is above the half where the rest is, or is the half and there is more. -/
theorem half_lt_part (hd : 0 < d) (hev : d % 2 = 0) :
    1 / 2 < ((r : ℚ) + δ) / d ↔ d < 2 * r ∨ (2 * r = d ∧ more = true) := by
  rw [lt_div_iff₀ (by positivity)]
  obtain ⟨h0, h1⟩ := hδ.bounds
  constructor
  · intro h
    have hlt : (d : ℚ) < (2 * r + 2 : ℕ) := by push_cast; linarith
    rw [Nat.cast_lt] at hlt
    rcases Nat.lt_or_ge d (2 * r) with hl | hl
    · exact .inl hl
    · have he : 2 * r = d := by omega
      refine .inr ⟨he, Bool.of_not_eq_false ?_⟩
      rintro rfl
      rw [show δ = 0 from hδ, ← he] at h
      push_cast at h
      linarith
  · rintro (h | ⟨rfl, rfl⟩)
    · have hlt : (d : ℚ) + 1 ≤ (2 * r : ℕ) := by exact_mod_cast h
      push_cast at hlt
      linarith
    · push_cast
      linarith [hδ.1]

theorem part_eq_half (hd : 0 < d) (hev : d % 2 = 0) : ((r : ℚ) + δ) / d = 1 / 2 ↔ 2 * r = d ∧ more = false := by
  rw [div_eq_iff (by positivity)]
  obtain ⟨h0, h1⟩ := hδ.bounds
  constructor
  · intro h
    have hlt : (d : ℚ) < (2 * r + 2 : ℕ) := by push_cast; linarith
    have hle : ((2 * r : ℕ) : ℚ) ≤ d := by push_cast; linarith
    rw [Nat.cast_lt] at hlt
    rw [Nat.cast_le] at hle
    have he : 2 * r = d := by omega
    refine ⟨he, Bool.eq_false_iff.2 ?_⟩
    rintro rfl
    rw [← he] at h
    push_cast at h
    linarith [hδ.1]
  · rintro ⟨rfl, rfl⟩
    rw [show δ = 0 from hδ]
    push_cast
    ring

end

theorem roundsUp_zero (rm : Nat) (neg : Bool) (n : Nat) : roundsUp rm neg n 0 = false := by
  match rm with
  | 0 => norm_num [roundsUp]
  | 1 => rfl
  | 2 => simp [roundsUp]
  | k + 3 => simp [roundsUp]

/-- The model's rounding in units of `2^q`: it looks at the part below one unit as `roundsUp` does. -/
theorem roundAt_parts (rm : Nat) (neg : Bool) {m : Nat} {e q : Int} {more : Bool} {x : ℚ} (hx : Exact.Mag m e more x)
    (hq : more = true → e < q) : ∃ (k : Nat) (φ : ℚ), 0 ≤ φ ∧ φ < 1 ∧ x = (k + φ) * 2 ^ q
      ∧ roundAt rm neg m e more q = (if roundsUp rm neg k φ then k + 1 else k, decide (φ ≠ 0)) := by
  by_cases hqe : q ≤ e
  · obtain rfl : more = false := Bool.eq_false_iff.2 fun h => absurd (hq h) (not_lt.2 hqe)
    refine ⟨m * 2 ^ (e - q).toNat, 0, le_rfl, one_pos, ?_, ?_⟩
    · rw [add_zero]
      exact hx.trans (scaleTo_cast m hqe).symm
    · simp only [roundAt, if_pos hqe, roundsUp_zero, Bool.false_and, Bool.false_eq_true, if_false, ne_eq,
        not_true_eq_false, decide_false]
  · obtain ⟨δ, rfl, hδ⟩ := hx.units
    obtain ⟨j, hj⟩ : ∃ j : Nat, (q - e).toNat = j + 1 := ⟨(q - e).toNat - 1, by omega⟩
    have hdiv : ((m / 2 ^ (j + 1) : ℕ) : ℚ) * (2 ^ (j + 1) : ℕ) + (m % 2 ^ (j + 1) : ℕ) = m := by
      exact_mod_cast Nat.div_add_mod' m (2 ^ (j + 1))
    have hr : m % 2 ^ (j + 1) < 2 ^ (j + 1) := Nat.mod_lt _ (by positivity)
    have hev : 2 ^ (j + 1) % 2 = 0 := by omega
    have hscale : (2 : ℚ) ^ q = 2 ^ e * (2 ^ (j + 1) : ℕ) := by
      rw [show q = e + (j + 1 : ℕ) by omega, zpow_add₀ two_ne_zero, zpow_natCast]; push_cast; ring
    simp only [roundAt, if_neg hqe, hj]
    generalize m / 2 ^ (j + 1) = k at hdiv
    generalize m % 2 ^ (j + 1) = r at hdiv hr
    generalize 2 ^ (j + 1) = d at *
    obtain ⟨h0, h1⟩ := hδ.bounds
    have hd : 0 < d := by omega
    have hr1 : (r : ℚ) + 1 ≤ d := by exact_mod_cast hr
    have hne := part_ne_zero hδ r hd
    refine ⟨k, (r + δ) / d, by positivity, by rw [div_lt_one (by positivity)]; linarith, ?_, ?_⟩
    · rw [hscale, ← hdiv]; field_simp; ring
    · rw [Prod.mk.injEq]
      refine ⟨?_, hne.symm⟩
      congr 1
      match rm with
      | 0 =>
        rw [roundsUp_nearest, half_lt_part hδ r hd hev, part_eq_half hδ r hd hev, eq_iff_iff]
        cases more <;> simp
      | 1 => rfl
      | 2 => simp only [roundsUp, hne]
      | k + 3 => simp only [roundsUp, hne]

section

variable {rm : Nat} {neg : Bool} {m : Nat} {e q : Int} {more : Bool} {x : ℚ}

/-- The model rounds a magnitude as the rules round its number. -/
theorem roundedInt_eq_roundAt (hx : Exact.Mag m e more x) (hq : more = true → e < q) :
    (roundedInt rm (signedBy neg x / 2 ^ q) : ℚ) = signedBy neg (roundAt rm neg m e more q).1 := by
  obtain ⟨k, φ, h0, h1, rfl, hr⟩ := roundAt_parts rm neg hx hq
  have h2 : (2 : ℚ) ^ q ≠ 0 := by positivity
  rw [hr, ← roundedInt_signedBy rm neg k h0 h1, signedBy, signedBy, ← mul_assoc, mul_div_cancel_right₀ _ h2]

/-- Inexact is that the rounded magnitude is another. -/
theorem roundAt_inexact (hx : Exact.Mag m e more x) (hq : more = true → e < q) :
    (roundAt rm neg m e more q).2 = decide ((roundAt rm neg m e more q).1 * 2 ^ q ≠ x) := by
  obtain ⟨k, φ, h0, h1, rfl, hr⟩ := roundAt_parts rm neg hx hq
  have h2 : (2 : ℚ) ^ q ≠ 0 := by positivity
  rw [hr]
  simp only [decide_eq_decide, ne_eq, mul_left_inj' h2, not_iff_not]
  by_cases hz : φ = 0
  · simp [hz, roundsUp_zero]
  · cases roundsUp rm neg k φ <;> simp [hz, h1.ne, eq_comm]

theorem roundAt_le (hx : Exact.Mag m e more x) (hq : more = true → e < q) {n : Nat} (hn : x < n * 2 ^ q) :
    (roundAt rm neg m e more q).1 ≤ n := by
  obtain ⟨k, φ, h0, h1, rfl, hr⟩ := roundAt_parts rm neg hx hq
  have hk : (k : ℚ) < n := by
    have := lt_of_mul_lt_mul_right hn (by positivity)
    linarith
  rw [Nat.cast_lt] at hk
  rw [hr]
  dsimp only
  split <;> omega

theorem le_roundAt (hx : Exact.Mag m e more x) (hq : more = true → e < q) {n : Nat} (hn : n * 2 ^ q ≤ x) :
    n ≤ (roundAt rm neg m e more q).1 := by
  obtain ⟨k, φ, h0, h1, rfl, hr⟩ := roundAt_parts rm neg hx hq
  have hk : (n : ℚ) < k + 1 := by
    have := le_of_mul_le_mul_right hn (by positivity)
    linarith
  have hk' : n < k + 1 := by exact_mod_cast hk
  rw [hr]
  dsimp only
  split <;> omega

end

end Sys2Proof.Machine
end

section
/-! The binary formats: their codes, and RoundTo (R111–R113). -/

set_option Elab.async false

namespace Sys2Proof.Machine

/-! ## The binary formats of the rules and of the model (R111) -/

/-- The value of a magnitude field, as if exponents had no end. -/
def BinaryFormat.magnitude (b : BinaryFormat) (g : Nat) : ℚ :=
  if g / 2 ^ b.fracBits = 0 then (g % 2 ^ b.fracBits : ℕ) * 2 ^ (1 - b.bias - b.fracBits : ℤ)
  else (2 ^ b.fracBits + g % 2 ^ b.fracBits : ℕ) * 2 ^ ((g / 2 ^ b.fracBits : ℕ) - b.bias - b.fracBits : ℤ)

/-- The code of a sign and a magnitude field. -/
def BinaryFormat.code (b : BinaryFormat) (neg : Bool) (g : Nat) : Nat :=
  (if neg then 2 ^ (b.expBits + b.fracBits) else 0) + g

/-- What the codes above the finite ones are: an infinity and NaNs, FP8E4M3's one NaN, or there are none. -/
inductive BinaryFormat.Special (b : BinaryFormat) (f : Nat) : Prop
  | ieee (hi : b.infinities = true) (hn : b.nan.isSome = true) (h4 : f ≠ 4)
      (hmax : maxFinite f + 1 = (2 ^ b.expBits - 1) * 2 ^ b.fracBits)
  | e4m3 (hf : f = 4) (hi : b.infinities = false) (he : b.expBits = 4) (hfr : b.fracBits = 3) (hn : b.nan = some 0x7F)
  | none (hi : b.infinities = false) (hn : b.nan = Option.none) (h4 : f ≠ 4)
      (hmax : maxFinite f + 1 = 2 ^ (b.expBits + b.fracBits))

/-- The model's parameters of a format are those of its row in the table of R111. -/
structure BinaryFormat.Of (b : BinaryFormat) (f : Nat) : Prop where
  isFp : isFp f = true
  params : fpParams f = (b.expBits, b.fracBits, b.bias)
  hasInf : hasInf f = b.infinities
  noNan : noNan f = b.nan.isNone
  nan : b.nan.isSome = true → canonicalNan f = b.nan.getD 0
  canonical : ∀ c, b.nan = some c → c < 2 ^ (b.expBits + b.fracBits)
  e4m3 : (b.fracBits = 3 ∧ b.expBits = 4) ↔ f = 4
  e5m2 : b.infinities = true → (b.fracBits = 2 ↔ f = 5)
  expBits : 2 ≤ b.expBits
  fracBits : 1 ≤ b.fracBits
  special : b.Special f
  largest : b.largest = b.magnitude (maxFinite f)

/-- The largest finite value of a format with an infinity above it. -/
theorem BinaryFormat.magnitude_ieee (b : BinaryFormat) (he : 2 ≤ b.expBits) (hb : b.bias = 2 ^ (b.expBits - 1) - 1) :
    b.magnitude ((2 ^ b.expBits - 1) * 2 ^ b.fracBits - 1) = (2 - 1 / 2 ^ b.fracBits) * 2 ^ b.bias := by
  obtain ⟨e, n, k, i, l, c⟩ := b
  dsimp only at he hb ⊢
  obtain ⟨j, rfl⟩ : ∃ j, e = j + 2 := ⟨e - 2, by omega⟩
  have h2 : 0 < 2 ^ n := by positivity
  have hpow : 2 ^ (j + 2) = 2 * 2 ^ (j + 1) := by ring
  have hj : 0 < 2 ^ j := by positivity
  have hk : 2 ^ (j + 2) - 2 = 2 * k := by
    rw [hpow, hb, Nat.add_succ_sub_one]
    omega
  have hg : (2 ^ (j + 2) - 1) * 2 ^ n - 1 = 2 * k * 2 ^ n + (2 ^ n - 1) := by
    rw [show 2 ^ (j + 2) - 1 = 2 * k + 1 by omega, add_mul, one_mul]
    omega
  have hq : (2 * k * 2 ^ n + (2 ^ n - 1)) / 2 ^ n = 2 * k := by
    rw [mul_comm, Nat.mul_add_div h2, Nat.div_eq_of_lt (by omega), add_zero]
  have hr : (2 * k * 2 ^ n + (2 ^ n - 1)) % 2 ^ n = 2 ^ n - 1 := by
    rw [mul_comm, Nat.mul_add_mod, Nat.mod_eq_of_lt (by omega)]
  have hk0 : 2 * k ≠ 0 := by omega
  rw [hg, magnitude, hq, hr, if_neg hk0, show ((2 * k : ℕ) - k - n : ℤ) = k - n by push_cast; ring,
    zpow_sub₀ two_ne_zero, zpow_natCast, zpow_natCast, Nat.cast_add, Nat.cast_pred h2]
  push_cast
  field_simp
  ring

theorem binaryFormat_of {f : Nat} {b : BinaryFormat} (h : binaryFormat f = some b) : b.Of f := by
  have ieee : ∀ b : BinaryFormat, 2 ≤ b.expBits → b.bias = 2 ^ (b.expBits - 1) - 1 →
      maxFinite f = (2 ^ b.expBits - 1) * 2 ^ b.fracBits - 1 →
      b.largest = (2 - 1 / 2 ^ b.fracBits) * 2 ^ b.bias → b.largest = b.magnitude (maxFinite f) := by
    intro b he hb hf hl
    rw [hf, hl, b.magnitude_ieee he hb]
  unfold binaryFormat at h
  split at h
  all_goals cases h
  case h_6.refl =>
    refine ⟨rfl, rfl, rfl, rfl, by decide, by decide, by decide, by decide, by decide, by decide,
      .e4m3 rfl rfl rfl rfl rfl, ?_⟩
    norm_num [BinaryFormat.magnitude, maxFinite, fpParams, Machine.hasInf]
  case h_8.refl | h_9.refl | h_10.refl =>
    refine ⟨rfl, rfl, rfl, rfl, by decide, by decide, by decide, by decide, by decide, by decide,
      .none rfl rfl (by decide) (by decide), ?_⟩
    norm_num [BinaryFormat.magnitude, maxFinite, fpParams, Machine.hasInf]
  all_goals
    exact ⟨rfl, rfl, rfl, rfl, by decide, by decide, by decide, by decide, by decide, by decide,
      .ieee rfl rfl (by decide) (by decide), ieee _ (by decide) (by decide) (by decide) rfl⟩

section

variable (b : BinaryFormat)

/-- A magnitude field is a number of units of an exponent, the hidden bit among them where the exponent is above the least. -/
theorem BinaryFormat.magnitude_add {n k : Nat} (hn : n ≤ 2 ^ (b.fracBits + 1)) (hk : k = 0 ∨ 2 ^ b.fracBits ≤ n) :
    b.magnitude (n + k * 2 ^ b.fracBits) = n * 2 ^ (k + 1 - b.bias - b.fracBits : ℤ) := by
  have h2 : 0 < 2 ^ b.fracBits := by positivity
  have hp : 2 ^ (b.fracBits + 1) = 2 * 2 ^ b.fracBits := by ring
  unfold magnitude
  generalize hd : 2 ^ b.fracBits = d at *
  rw [Nat.add_mul_mod_self_right, Nat.add_mul_div_right _ _ h2]
  rcases Nat.lt_or_ge n d with hl | hl
  · obtain rfl : k = 0 := by omega
    simp [Nat.div_eq_of_lt hl, Nat.mod_eq_of_lt hl]
  · rcases Nat.lt_or_eq_of_le hn with hlt | rfl
    · have hq : n / d = 1 := by rw [Nat.div_eq_iff h2]; omega
      have hr : n % d = n - d := by rw [Nat.mod_eq_sub_mul_div, hq, mul_one]
      rw [hq, hr, if_neg (by omega), Nat.add_sub_cancel' hl]
      congr 2
      push_cast; ring
    · rw [hp, Nat.mul_div_cancel _ h2, Nat.mul_mod_left, if_neg (by omega)]
      rw [show ((2 + k : ℕ) - b.bias - b.fracBits : ℤ) = 1 + (k + 1 - b.bias - b.fracBits) by push_cast; ring,
        zpow_add₀ two_ne_zero]
      push_cast; ring

/-- Every magnitude field is such a number. -/
theorem BinaryFormat.magnitude_parts (g : Nat) : ∃ n k, g = n + k * 2 ^ b.fracBits ∧ n < 2 ^ (b.fracBits + 1)
    ∧ (k = 0 ∨ 2 ^ b.fracBits ≤ n) := by
  have h2 : 0 < 2 ^ b.fracBits := by positivity
  have hp : 2 ^ (b.fracBits + 1) = 2 * 2 ^ b.fracBits := by ring
  have hg := Nat.div_add_mod' g (2 ^ b.fracBits)
  have hr := Nat.mod_lt g h2
  rw [hp]
  generalize 2 ^ b.fracBits = d at *
  generalize g / d = q at *
  generalize g % d = r at *
  cases q with
  | zero => exact ⟨r, 0, by omega, by omega, .inl rfl⟩
  | succ q => exact ⟨d + r, q, by rw [← hg, add_mul]; omega, by omega, .inr (by omega)⟩

theorem BinaryFormat.magnitude_strictMono : StrictMono b.magnitude := by
  refine strictMono_nat_of_lt_succ fun g => ?_
  obtain ⟨n, k, rfl, hn, hk⟩ := b.magnitude_parts g
  rw [show n + k * 2 ^ b.fracBits + 1 = (n + 1) + k * 2 ^ b.fracBits by ring, b.magnitude_add hn.le hk,
    b.magnitude_add hn (hk.imp_right fun h => by omega)]
  have : (0 : ℚ) < 2 ^ (k + 1 - b.bias - b.fracBits : ℤ) := by positivity
  rw [mul_lt_mul_iff_left₀ this]
  push_cast
  linarith

theorem BinaryFormat.magnitude_zero : b.magnitude 0 = 0 := by simp [magnitude]

end

/-! ## Codes of a binary format -/

theorem BinaryFormat.testBit_code (b : BinaryFormat) (neg : Bool) {g : Nat} (hg : g < 2 ^ (b.expBits + b.fracBits)) :
    (b.code neg g).testBit (b.expBits + b.fracBits) = neg := by
  cases neg with
  | false => simpa [code] using Nat.testBit_lt_two_pow hg
  | true => simp [code, Nat.testBit_two_pow_add_eq, Nat.testBit_lt_two_pow hg]

theorem BinaryFormat.code_mod (b : BinaryFormat) (neg : Bool) {g : Nat} (hg : g < 2 ^ (b.expBits + b.fracBits)) :
    b.code neg g % 2 ^ (b.expBits + b.fracBits) = g := by
  cases neg <;> simp [code, Nat.mod_eq_of_lt hg]

theorem BinaryFormat.code_div (b : BinaryFormat) (neg : Bool) {g : Nat} (hg : g < 2 ^ (b.expBits + b.fracBits)) :
    b.code neg g / 2 ^ (b.expBits + b.fracBits) % 2 = neg.toNat := by
  have h := b.testBit_code neg hg
  rw [Nat.testBit_eq_decide_div_mod_eq] at h
  have := Nat.mod_lt (b.code neg g / 2 ^ (b.expBits + b.fracBits)) two_pos
  cases neg <;> simp at h ⊢ <;> omega

theorem BinaryFormat.code_lt (b : BinaryFormat) (neg : Bool) {g : Nat} (hg : g < 2 ^ (b.expBits + b.fracBits)) :
    b.code neg g < 2 ^ (1 + b.expBits + b.fracBits) := by
  have : 2 ^ (1 + b.expBits + b.fracBits) = 2 * 2 ^ (b.expBits + b.fracBits) := by ring
  cases neg <;> simp [code] <;> omega

/-- Every code has a sign and a magnitude field. -/
theorem BinaryFormat.exists_code (b : BinaryFormat) {c : Nat} (hc : c < 2 ^ (1 + b.expBits + b.fracBits)) :
    ∃ neg g, g < 2 ^ (b.expBits + b.fracBits) ∧ c = b.code neg g := by
  have h2 : 2 ^ (1 + b.expBits + b.fracBits) = 2 * 2 ^ (b.expBits + b.fracBits) := by ring
  rcases Nat.lt_or_ge c (2 ^ (b.expBits + b.fracBits)) with h | h
  · exact ⟨false, c, h, by simp [code]⟩
  · exact ⟨true, c - 2 ^ (b.expBits + b.fracBits), by omega, by simp [code]; omega⟩

/-- The value of a code, by its sign and its magnitude field. -/
theorem BinaryFormat.value_code (b : BinaryFormat) (neg : Bool) {g : Nat} (hg : g < 2 ^ (b.expBits + b.fracBits)) :
    b.value (b.code neg g) =
      if b.infinities ∧ g / 2 ^ b.fracBits = 2 ^ b.expBits - 1 then
        if g % 2 ^ b.fracBits = 0 then (.inf neg, false)
        else (.nan, b.fracBits ≠ 2 ∧ g % 2 ^ b.fracBits < 2 ^ (b.fracBits - 1))
      else if b.fracBits = 3 ∧ b.expBits = 4 ∧ g / 2 ^ b.fracBits = 15 ∧ g % 2 ^ b.fracBits = 7 then (.nan, false)
      else (.num neg (signedBy neg (b.magnitude g)), false) := by
  have hm := b.code_mod neg hg
  have hexp : b.code neg g / 2 ^ b.fracBits % 2 ^ b.expBits = g / 2 ^ b.fracBits := by
    rw [← Nat.mod_mul_right_div_self, ← pow_add, Nat.add_comm b.fracBits, hm]
  have hfrac : b.code neg g % 2 ^ b.fracBits = g % 2 ^ b.fracBits := by
    rw [← Nat.mod_mod_of_dvd _ (pow_dvd_pow 2 (Nat.le_add_left b.fracBits b.expBits)), hm]
  simp only [value, b.testBit_code neg hg, hexp, hfrac]
  split
  · rfl
  · split
    · rfl
    · by_cases h0 : g / 2 ^ b.fracBits = 0
      · rw [if_pos h0, magnitude, if_pos h0]
        rw [zpow_sub₀ two_ne_zero _ (b.fracBits : ℤ), zpow_natCast, signedBy]
        congr 2
        ring
      · rw [if_neg h0, magnitude, if_neg h0, zpow_sub₀ two_ne_zero _ (b.fracBits : ℤ), zpow_natCast, signedBy]
        congr 2
        push_cast
        field_simp

section

variable {b : BinaryFormat} {f : Nat} (h : b.Of f)
include h

theorem BinaryFormat.Of.maxFinite_lt : maxFinite f < 2 ^ (b.expBits + b.fracBits) := by
  have hp : 2 ^ b.expBits * 2 ^ b.fracBits = 2 ^ (b.expBits + b.fracBits) := (pow_add ..).symm
  rcases h.special with ⟨-, -, -, hmax⟩ | ⟨rfl, -, he, hfr, -⟩ | ⟨-, -, -, hmax⟩
  · rw [Nat.sub_mul, hp] at hmax
    omega
  · rw [he, hfr]; decide
  · omega

/-- The finite magnitude fields are those up to the largest. -/
theorem BinaryFormat.Of.not_special {g : Nat} (hg : g ≤ maxFinite f) :
    ¬ (b.infinities = true ∧ g / 2 ^ b.fracBits = 2 ^ b.expBits - 1)
    ∧ ¬ (b.fracBits = 3 ∧ b.expBits = 4 ∧ g / 2 ^ b.fracBits = 15 ∧ g % 2 ^ b.fracBits = 7) := by
  rw [← and_assoc, h.e4m3]
  rcases h.special with ⟨hi, -, h4, hmax⟩ | ⟨rfl, hi, he, hfr, -⟩ | ⟨hi, -, h4, hmax⟩
  · have : g / 2 ^ b.fracBits < 2 ^ b.expBits - 1 := by rw [Nat.div_lt_iff_lt_mul (by positivity)]; omega
    exact ⟨by omega, fun hc => h4 hc.1⟩
  · have : maxFinite 4 = 126 := rfl
    rw [hi, hfr]
    exact ⟨nofun, by omega⟩
  · rw [hi]
    exact ⟨nofun, fun hc => h4 hc.1⟩

theorem BinaryFormat.Of.value_finite (neg : Bool) {g : Nat} (hg : g ≤ maxFinite f) :
    b.value (b.code neg g) = (.num neg (signedBy neg (b.magnitude g)), false) := by
  obtain ⟨h1, h2⟩ := h.not_special hg
  rw [b.value_code neg (hg.trans_lt h.maxFinite_lt), if_neg h1, if_neg h2]

theorem BinaryFormat.Of.decodeFp_code (neg : Bool) {g : Nat} (hg : g < 2 ^ (b.expBits + b.fracBits)) :
    decodeFp f (b.code neg g) =
      if b.infinities && g == (2 ^ b.expBits - 1) * 2 ^ b.fracBits then (.inf neg, 0)
      else if (b.infinities && decide ((2 ^ b.expBits - 1) * 2 ^ b.fracBits < g)) || (f == 4 && g == 0x7F) then
        (.nan, flagIf (f != 5 && f != 4 && decide (g % 2 ^ b.fracBits < 2 ^ (b.fracBits - 1))) fNV)
      else (.fin neg (fpMagnitude f g).1 (fpMagnitude f g).2 false, 0) := by
  have hs : (neg.toNat == 1) = neg := by cases neg <;> rfl
  simp only [decodeFp, h.params, h.hasInf, b.code_mod neg hg, b.code_div neg hg, hs]

theorem BinaryFormat.Of.decodeFp_finite (neg : Bool) {g : Nat} (hg : g ≤ maxFinite f) :
    decodeFp f (b.code neg g) = (.fin neg (fpMagnitude f g).1 (fpMagnitude f g).2 false, 0) := by
  rw [h.decodeFp_code neg (hg.trans_lt h.maxFinite_lt)]
  rcases h.special with ⟨hi, -, h4, hmax⟩ | ⟨rfl, hi, he, hfr, -⟩ | ⟨hi, -, h4, hmax⟩
  · have h1 : g ≠ (2 ^ b.expBits - 1) * 2 ^ b.fracBits := by omega
    have h2 : ¬ (2 ^ b.expBits - 1) * 2 ^ b.fracBits < g := by omega
    simp [h1, h2, h4]
  · have h1 : maxFinite 4 = 126 := rfl
    have h2 : g ≠ 127 := by omega
    simp [hi, h2]
  · simp [hi, h4]

/-- The magnitude of a code in the model. -/
theorem BinaryFormat.Of.fpMagnitude_eq (g : Nat) :
    ((fpMagnitude f g).1 : ℚ) * 2 ^ (fpMagnitude f g).2 = b.magnitude g := by
  simp only [fpMagnitude, h.params, BinaryFormat.magnitude]
  split <;> rfl

/-- Above the largest finite magnitude field stand an infinity, where there is one, and NaNs. -/
theorem BinaryFormat.Of.value_special (neg : Bool) {g : Nat} (hg : maxFinite f < g)
    (hl : g < 2 ^ (b.expBits + b.fracBits)) : b.value (b.code neg g) =
      if b.infinities ∧ g = maxFinite f + 1 then (.inf neg, false)
      else (.nan, b.infinities && decide (b.fracBits ≠ 2 ∧ g % 2 ^ b.fracBits < 2 ^ (b.fracBits - 1))) := by
  rw [b.value_code neg hl]
  rcases h.special with ⟨hi, -, h4, hmax⟩ | ⟨rfl, hi, he, hfr, -⟩ | ⟨hi, -, h4, hmax⟩
  · have h2 : 0 < 2 ^ b.fracBits := by positivity
    have hq : g / 2 ^ b.fracBits = 2 ^ b.expBits - 1 := by
      rw [pow_add] at hl
      have h1 := Nat.one_le_two_pow (n := b.expBits)
      rw [Nat.div_eq_iff h2]
      rw [Nat.sub_mul, one_mul] at hmax ⊢
      omega
    have hr : g % 2 ^ b.fracBits = 0 ↔ g = maxFinite f + 1 := by
      have := Nat.div_add_mod' g (2 ^ b.fracBits)
      rw [hq] at this
      omega
    simp [hi, hq, hr]
  · have h1 : maxFinite 4 = 126 := rfl
    rw [he, hfr] at hl
    obtain rfl : g = 127 := by omega
    simp [hi, he, hfr]
  · omega

theorem BinaryFormat.Of.decodeFp_special (neg : Bool) {g : Nat} (hg : maxFinite f < g)
    (hl : g < 2 ^ (b.expBits + b.fracBits)) : decodeFp f (b.code neg g) =
      if b.infinities ∧ g = maxFinite f + 1 then (.inf neg, 0)
      else (.nan, if b.infinities && decide (b.fracBits ≠ 2 ∧ g % 2 ^ b.fracBits < 2 ^ (b.fracBits - 1)) then fNV else 0) := by
  rw [h.decodeFp_code neg hl]
  rcases h.special with ⟨hi, -, h4, hmax⟩ | ⟨rfl, hi, he, hfr, -⟩ | ⟨hi, -, h4, hmax⟩
  · have h5 : (f != 5) = decide (b.fracBits ≠ 2) := by
      rw [Bool.eq_iff_iff, bne_iff_ne, decide_eq_true_eq, ne_eq, ne_eq, h.e5m2 hi]
    rw [← hmax]
    by_cases he : g = maxFinite f + 1
    · simp [hi, he]
    · have : maxFinite f + 1 < g := by omega
      simp [hi, he, this, h4, h5, flagIf]
  · have h1 : maxFinite 4 = 126 := rfl
    rw [he, hfr] at hl
    obtain rfl : g = 127 := by omega
    simp [hi, flagIf]
  · omega

/-- Decoding of a binary format (R111, R112). -/
theorem BinaryFormat.Of.decodeFp_for {c : Nat} (hc : c < 2 ^ (1 + b.expBits + b.fracBits)) :
    (decodeFp f c).1.For (b.value c).1 ∧ (decodeFp f c).2 = if (b.value c).2 then fNV else 0 := by
  obtain ⟨neg, g, hg, rfl⟩ := b.exists_code hc
  rcases Nat.lt_or_ge (maxFinite f) g with hl | hl
  · rw [h.decodeFp_special neg hl hg, h.value_special neg hl hg]
    split
    · exact ⟨rfl, rfl⟩
    · exact ⟨rfl, rfl⟩
  · rw [h.decodeFp_finite neg hl, h.value_finite neg hl]
    exact ⟨(Exact.fin_for_iff ..).2 ⟨_, (h.fpMagnitude_eq g).symm, rfl⟩, rfl⟩

end

/-! ## RoundTo for a binary format (R113) -/

theorem signedBy_neg_iff (neg : Bool) {x : ℚ} (hx : 0 < x) : signedBy neg x < 0 ↔ neg = true := by
  cases neg <;> simp [signedBy, hx, hx.le]

theorem signedBy_pos_iff (neg : Bool) {x : ℚ} (hx : 0 < x) : 0 < signedBy neg x ↔ neg = false := by
  cases neg <;> simp [signedBy, hx, hx.le]

theorem abs_signedBy (neg : Bool) (x : ℚ) : |signedBy neg x| = |x| := by cases neg <;> simp [signedBy]

theorem signedBy_inj (neg : Bool) {x y : ℚ} : signedBy neg x = signedBy neg y ↔ x = y := by
  cases neg <;> simp [signedBy]

theorem signedBy_mul (neg : Bool) (x y : ℚ) : signedBy neg x * y = signedBy neg (x * y) := by
  simp only [signedBy, mul_assoc]

/-- The highest bit of a magnitude. -/
theorem Exact.Mag.bounds {m : Nat} {e : Int} {more : Bool} {x : ℚ} (hx : Exact.Mag m e more x) (hm : m ≠ 0) :
    (2 : ℚ) ^ (Nat.log2 m + e : ℤ) ≤ x ∧ x < 2 ^ (Nat.log2 m + e + 1 : ℤ) := by
  obtain ⟨δ, rfl, hδ⟩ := hx.units
  obtain ⟨h0, h1⟩ := hδ.bounds
  have he : (0 : ℚ) < 2 ^ e := by positivity
  have hl : ((2 ^ Nat.log2 m : ℕ) : ℚ) ≤ m := Nat.cast_le.2 (Nat.log2_self_le hm)
  have hu : (m : ℚ) + 1 ≤ (2 ^ (Nat.log2 m + 1) : ℕ) := by exact_mod_cast Nat.lt_log2_self
  rw [show (Nat.log2 m + e + 1 : ℤ) = (Nat.log2 m + 1 : ℕ) + e by push_cast; ring, zpow_add₀ two_ne_zero,
    zpow_add₀ two_ne_zero, zpow_natCast, zpow_natCast, mul_le_mul_iff_left₀ he, mul_lt_mul_iff_left₀ he]
  push_cast at hl hu ⊢
  constructor <;> linarith

theorem Exact.Mag.pos {m : Nat} {e : Int} {more : Bool} {x : ℚ} (hx : Exact.Mag m e more x) (hm : m ≠ 0) : 0 < x :=
  lt_of_lt_of_le (by positivity) (hx.bounds hm).1

theorem log_eq_of_bounds {x : ℚ} {k : ℤ} (hl : 2 ^ k ≤ x) (hu : x < 2 ^ (k + 1)) : Int.log 2 x = k := by
  have hx : 0 < x := lt_of_lt_of_le (by positivity) hl
  have h1 : k ≤ Int.log 2 x := (Int.zpow_le_iff_le_log (by decide) hx).1 (by exact_mod_cast hl)
  have h2 : Int.log 2 x < k + 1 := (Int.lt_zpow_iff_log_lt (by decide) hx).1 (by exact_mod_cast hu)
  omega

/-- Whether a rounded number lies below the least normal one. -/
theorem tiny_eq {n p : Nat} {top low : ℤ} (hl : 2 ^ p ≤ n) (hu : n ≤ 2 ^ (p + 1)) :
    (decide (top < low) && !(top == low - 1 && n == 2 ^ (p + 1))) = decide ((n : ℚ) * 2 ^ (top - p) < 2 ^ low) := by
  have hpos : (0 : ℚ) < 2 ^ (top - p) := by positivity
  have hl' : (2 : ℚ) ^ top ≤ n * 2 ^ (top - p) := by
    calc (2 : ℚ) ^ top = (2 ^ p : ℕ) * 2 ^ (top - p) := by
          rw [Nat.cast_pow, Nat.cast_ofNat, ← zpow_natCast, ← zpow_add₀ two_ne_zero]; congr 1; ring
      _ ≤ n * 2 ^ (top - p) := mul_le_mul_of_nonneg_right (Nat.cast_le.2 hl) hpos.le
  have htwo : ((2 ^ (p + 1) : ℕ) : ℚ) * 2 ^ (top - p) = 2 ^ (top + 1) := by
    rw [Nat.cast_pow, Nat.cast_ofNat, ← zpow_natCast, ← zpow_add₀ two_ne_zero]; congr 1; push_cast; ring
  rcases lt_trichotomy top (low - 1) with ht | rfl | ht
  · have hlt : (n : ℚ) * 2 ^ (top - p) < 2 ^ low := by
      calc (n : ℚ) * 2 ^ (top - p) ≤ (2 ^ (p + 1) : ℕ) * 2 ^ (top - p) :=
            mul_le_mul_of_nonneg_right (Nat.cast_le.2 hu) hpos.le
        _ = 2 ^ (top + 1) := htwo
        _ < 2 ^ low := zpow_lt_zpow_right₀ one_lt_two (by omega)
    simp [hlt, ht.ne, show top < low by omega]
  · rw [sub_add_cancel] at htwo
    have hiff : (n : ℚ) * 2 ^ (low - 1 - p) < 2 ^ low ↔ n ≠ 2 ^ (p + 1) := by
      rw [← htwo, mul_lt_mul_iff_left₀ hpos, Nat.cast_lt]
      omega
    simp [hiff, Bool.beq_eq_decide_eq]
  · have hge : ¬ (n : ℚ) * 2 ^ (top - p) < 2 ^ low :=
      not_lt.2 (hl'.trans' (zpow_le_zpow_right₀ one_le_two (by omega)))
    simp [hge, show ¬ top < low by omega]

theorem flags_of_rounding (inexact tiny : Bool) : flagIf inexact fNX ||| flagIf (inexact && tiny) fUF =
    if inexact = true then (if tiny = true then fUF ||| fNX else fNX) else 0 := by
  revert inexact tiny; decide

/-- The modes in which a number beyond the largest goes to an infinity. -/
def towardsInfinity (rm : Nat) (neg : Bool) : Bool := rm == 0 || (rm == 2 && !neg) || (rm == 3 && neg)

section

variable {b : BinaryFormat} {f : Nat} {neg : Bool} {m : Nat} {e : Int} {more : Bool} {x : ℚ}

/-- A number rounded at an exponent, as the model rounds it. -/
theorem near_eq {rm : Nat} {q : ℤ} (hx : Exact.Mag m e more x) (hq : more = true → e < q) :
    roundedInt rm (signedBy neg x / 2 ^ q) * (2 : ℚ) ^ q = signedBy neg ((roundAt rm neg m e more q).1 * 2 ^ q) := by
  rw [roundedInt_eq_roundAt hx hq, signedBy_mul]

theorem two_pow_mul_zpow (n : ℕ) (k : ℤ) : ((2 ^ n : ℕ) : ℚ) * 2 ^ k = 2 ^ (n + k) := by
  rw [Nat.cast_pow, Nat.cast_ofNat, ← zpow_natCast, ← zpow_add₀ two_ne_zero]

/-- The magnitude field that a number is rounded to, at its own exponent or the least one. -/
theorem BinaryFormat.rounded_magnitude (b : BinaryFormat) {rm : Nat} (hx : Exact.Mag m e more x) (hm : m ≠ 0)
    (hmax : more = true → e < max (Nat.log2 m + e : ℤ) (1 - b.bias) - b.fracBits) :
    let a : ℤ := max (Nat.log2 m + e) (1 - b.bias)
    let n := (roundAt rm neg m e more (a - b.fracBits)).1
    b.magnitude (n + (a + b.bias - 1).toNat * 2 ^ b.fracBits) = n * 2 ^ (a - b.fracBits) := by
  obtain ⟨hl, hu⟩ := hx.bounds hm
  generalize hlow : (1 - b.bias : ℤ) = low at *
  generalize (Nat.log2 m + e : ℤ) = top at *
  have hn : (roundAt rm neg m e more (max top low - b.fracBits)).1 ≤ 2 ^ (b.fracBits + 1) := by
    refine roundAt_le hx hmax (hu.trans_le ?_)
    rw [two_pow_mul_zpow]
    exact zpow_le_zpow_right₀ one_le_two (by push_cast; omega)
  have hk : (max top low + b.bias - 1).toNat = 0
      ∨ 2 ^ b.fracBits ≤ (roundAt rm neg m e more (max top low - b.fracBits)).1 := by
    rcases le_or_gt top low with hle | hlt
    · left; omega
    · refine .inr (le_roundAt hx hmax (le_trans (le_of_eq ?_) hl))
      rw [max_eq_left hlt.le, two_pow_mul_zpow, add_sub_cancel]
  refine (b.magnitude_add hn hk).trans ?_
  congr 2
  omega

/-- Underflow: the number, rounded with an exponent of its own, lies below the least normal one (R9). -/
theorem rounded_tiny {rm p : Nat} {low : ℤ} (hx : Exact.Mag m e more x) (hm : m ≠ 0)
    (htop : more = true → e < Nat.log2 m + e - p) :
    let top : ℤ := Nat.log2 m + e
    let n := (roundAt rm neg m e more (top - p)).1
    (decide (top < low) && !(top == low - 1 && n == 2 ^ (p + 1))) = true ↔ (n : ℚ) * 2 ^ (top - p) < 2 ^ low := by
  obtain ⟨hl, hu⟩ := hx.bounds hm
  dsimp only
  rw [tiny_eq, decide_eq_true_eq]
  · refine le_roundAt hx htop (le_trans (le_of_eq ?_) hl)
    rw [two_pow_mul_zpow, add_sub_cancel]
  · refine roundAt_le hx htop (lt_of_lt_of_eq hu ?_)
    rw [two_pow_mul_zpow]
    congr 1
    push_cast
    ring

variable (h : b.Of f)
include h

theorem BinaryFormat.Of.overflowCode_eq {rm : Nat} (hrm : rm < 4) (sat neg : Bool) : overflowCode f rm sat neg =
    if towardsInfinity rm neg = true ∧ sat = false ∧ b.nan.isSome = true then
      if b.infinities then b.code neg (maxFinite f + 1) else b.nan.getD 0
    else b.code neg (maxFinite f) := by
  have heq : overflowCode f rm sat neg = if (b.nan.isNone || sat || !towardsInfinity rm neg) = true
      then b.code neg (maxFinite f) else if f = 4 then canonicalNan 4
      else (if neg then 2 ^ (b.expBits + b.fracBits) else 0) + (2 ^ b.expBits - 1) * 2 ^ b.fracBits := by
    simp only [overflowCode, h.params, h.noNan, BinaryFormat.code]
    match rm, hrm with
    | 0, _ => rfl
    | 1, _ => rfl
    | 2, _ => cases neg <;> rfl
    | 3, _ => cases neg <;> rfl
  rw [heq]
  cases ht : towardsInfinity rm neg with
  | false => simp
  | true =>
    cases sat with
    | true => simp
    | false =>
      rcases h.special with ⟨hi, hn, h4, hmax⟩ | ⟨rfl, hi, -, -, hn⟩ | ⟨hi, hn, h4, -⟩
      · simp [Option.isNone_eq_false_iff.2 hn, hn, h4, hi, BinaryFormat.code, hmax]
      · simp [hn, hi]; rfl
      · simp [hn]

theorem BinaryFormat.Of.largest_pos : 0 < b.largest := by
  have h0 : 0 < maxFinite f := by
    have h2 := h.expBits
    have hp : 2 ^ 2 ≤ 2 ^ b.expBits := Nat.pow_le_pow_right two_pos h2
    have h1 : 1 ≤ 2 ^ b.fracBits := Nat.one_le_two_pow
    rcases h.special with ⟨-, -, -, hmax⟩ | ⟨rfl, -⟩ | ⟨-, -, -, hmax⟩
    · have : 3 * 1 ≤ (2 ^ b.expBits - 1) * 2 ^ b.fracBits := Nat.mul_le_mul (by omega) h1
      omega
    · decide
    · rw [pow_add] at hmax
      have : 4 * 1 ≤ 2 ^ b.expBits * 2 ^ b.fracBits := Nat.mul_le_mul hp h1
      omega
  rw [h.largest, ← b.magnitude_zero]
  exact b.magnitude_strictMono h0

/-- What stands for a number beyond the largest (R113). -/
theorem BinaryFormat.Of.overflowCode_value {rm : Nat} (hrm : rm < 4) (sat neg : Bool) :
    overflowCode f rm sat neg < 2 ^ (1 + b.expBits + b.fracBits)
    ∧ (b.value (overflowCode f rm sat neg)).1 =
        (if towardsInfinity rm neg = true ∧ sat = false ∧ b.nan.isSome = true then
          if b.infinities then .inf neg else .nan
        else .num neg (signedBy neg b.largest))
    ∧ ((b.value (overflowCode f rm sat neg)).1 = .nan → overflowCode f rm sat neg = b.nan.getD 0) := by
  have hlt := h.maxFinite_lt
  rw [h.overflowCode_eq hrm]
  split
  next ht =>
    obtain ⟨-, -, hn⟩ := ht
    rcases h.special with ⟨hi, -, h4, hmax⟩ | ⟨rfl, hi, he, hfr, hn'⟩ | ⟨-, hn', -⟩
    · have hlt' : maxFinite f + 1 < 2 ^ (b.expBits + b.fracBits) := by
        rw [hmax, pow_add]
        exact Nat.mul_lt_mul_of_pos_right (Nat.sub_lt (by positivity) one_pos) (by positivity)
      rw [if_pos hi, if_pos hi, h.value_special neg (Nat.lt_succ_self _) hlt', if_pos ⟨hi, rfl⟩]
      exact ⟨b.code_lt neg hlt', rfl, nofun⟩
    · have hc : b.nan.getD 0 = b.code false 127 := by rw [hn']; rfl
      have h127 : 127 < 2 ^ (b.expBits + b.fracBits) := by rw [he, hfr]; decide
      have hv : b.value (b.code false 127) = (.nan, false) := by
        rw [h.value_special false (by decide) h127, hi]
        rfl
      rw [hi, hc, if_neg nofun, if_neg nofun, hv]
      exact ⟨b.code_lt false h127, rfl, fun _ => rfl⟩
    · rw [hn'] at hn; cases hn
  next ht =>
    rw [h.value_finite neg le_rfl, h.largest]
    exact ⟨b.code_lt neg hlt, rfl, nofun⟩

/-- The equation of RoundTo for a nonzero number, in the parts that its proof speaks of. -/
theorem BinaryFormat.Of.roundFp_fin (rm : Nat) (sat : Bool) (hm : m ≠ 0) : roundFp (.fin neg m e more) f rm sat =
    let top : ℤ := Nat.log2 m + e
    let low : ℤ := 1 - b.bias
    let r := roundAt rm neg m e more (max top low - b.fracBits)
    let g := r.1 + (max top low + b.bias - 1).toNat * 2 ^ b.fracBits
    if maxFinite f < g then (overflowCode f rm sat neg, fOF ||| fNX)
    else (b.code neg g, flagIf r.2 fNX ||| flagIf (r.2 && (decide (top < low)
      && !(top == low - 1 && (roundAt rm neg m e more (top - b.fracBits)).1 == 2 ^ (b.fracBits + 1)))) fUF) := by
  simp only [roundFp, h.params, if_neg hm, BinaryFormat.code]

/-- A nonzero number goes to the magnitude field that rounding gives, with the conditions of the rounding. -/
theorem BinaryFormat.Of.roundFp_field (rm : Nat) (sat : Bool) (hx : Exact.Mag m e more x) (hm : m ≠ 0)
    (hmore : more = true → 2 ^ (b.fracBits + 2) ≤ m) :
    let near := fun k : ℤ => roundedInt rm (signedBy neg x / 2 ^ (k - b.fracBits)) * (2 : ℚ) ^ (k - b.fracBits)
    let low : ℤ := 1 - b.bias
    ∃ g, near (max (Int.log 2 x) low) = signedBy neg (b.magnitude g)
      ∧ roundFp (.fin neg m e more) f rm sat = if maxFinite f < g then (overflowCode f rm sat neg, fOF ||| fNX)
        else (b.code neg g, if b.magnitude g = x then 0
          else if |near (Int.log 2 x)| < 2 ^ low then fUF ||| fNX else fNX) := by
  obtain ⟨hl, hu⟩ := hx.bounds hm
  have htop : more = true → e < Nat.log2 m + e - b.fracBits := fun hk => by
    have := (Nat.le_log2 hm).2 (hmore hk)
    omega
  have hmax : more = true → e < max (Nat.log2 m + e : ℤ) (1 - b.bias) - b.fracBits := fun hk =>
    (htop hk).trans_le (by omega)
  have hfree : (0 : ℚ) ≤ (roundAt rm neg m e more (Nat.log2 m + e - b.fracBits)).1 * 2 ^ (Nat.log2 m + e - b.fracBits : ℤ) := by
    positivity
  have hmag := b.rounded_magnitude (rm := rm) (neg := neg) hx hm hmax
  have hinex := roundAt_inexact (rm := rm) (neg := neg) hx hmax
  rw [← hmag] at hinex
  dsimp only
  simp only [log_eq_of_bounds hl hu, near_eq hx htop, near_eq hx hmax, abs_signedBy, abs_of_nonneg hfree, ← hmag,
    ← rounded_tiny hx hm htop, h.roundFp_fin rm sat hm, hinex]
  refine ⟨_, rfl, ?_⟩
  rw [flags_of_rounding]
  simp only [ne_eq, decide_eq_true_eq, ite_not]

/-- RoundTo of a nonzero number (R113). -/
theorem BinaryFormat.Of.roundFp_rounds {rm : Nat} (hrm : rm < 4) (sat : Bool) (hx : Exact.Mag m e more x) (hm : m ≠ 0)
    (hmore : more = true → 2 ^ (b.fracBits + 2) ≤ m) :
    let r := roundFp (.fin neg m e more) f rm sat
    r.1 < 2 ^ (1 + b.expBits + b.fracBits)
    ∧ ∃ v, b.Rounds rm sat (signedBy neg x) v r.2 ∧ (b.value r.1).1 = v ∧ (v = .nan → r.1 = b.nan.getD 0) := by
  have hpos := hx.pos hm
  have hs : decide (signedBy neg x < 0) = neg := by
    rw [Bool.eq_iff_iff, decide_eq_true_eq]; exact signedBy_neg_iff neg hpos
  have hto : (rm = 0 ∨ (rm = 2 ∧ 0 < signedBy neg x) ∨ (rm = 3 ∧ signedBy neg x < 0)) ↔ towardsInfinity rm neg = true := by
    rw [signedBy_pos_iff neg hpos, signedBy_neg_iff neg hpos]
    simp [towardsInfinity, or_assoc]
  obtain ⟨g, hnear, hround⟩ := h.roundFp_field (neg := neg) rm sat hx hm hmore
  have hg0 : 0 ≤ b.magnitude g := b.magnitude_zero ▸ b.magnitude_strictMono.monotone g.zero_le
  dsimp only
  rw [hround]
  unfold BinaryFormat.Rounds
  simp only [abs_signedBy neg x, abs_of_pos hpos, hnear, abs_signedBy neg (b.magnitude g), abs_of_nonneg hg0, hs, hto,
    signedBy_inj]
  by_cases hg : maxFinite f < g
  · obtain ⟨h1, h2, h3⟩ := h.overflowCode_value hrm sat neg
    have hlt : b.largest < b.magnitude g := h.largest.trans_lt (b.magnitude_strictMono hg)
    rw [if_pos hg]
    refine ⟨h1, _, ?_, rfl, h3⟩
    rw [if_pos hlt, h2]
    refine ⟨rfl, ?_⟩
    cases neg <;> simp [signedBy]
  · have hg := not_lt.1 hg
    have hle : ¬ b.largest < b.magnitude g := not_lt.2 ((b.magnitude_strictMono.monotone hg).trans_eq h.largest.symm)
    rw [if_neg (not_lt.2 hg)]
    refine ⟨b.code_lt neg (hg.trans_lt h.maxFinite_lt), _, ?_, rfl, ?_⟩
    · rw [if_neg hle, h.value_finite neg hg]
      exact ⟨rfl, rfl⟩
    · rw [h.value_finite neg hg]
      exact nofun
end

theorem formatWidth_binary {f : Nat} {b : BinaryFormat} (hb : binaryFormat f = some b) :
    formatWidth f = 1 + b.expBits + b.fracBits := by simp only [formatWidth, hb]

theorem rounded_binary {f : Nat} {b : BinaryFormat} (hb : binaryFormat f = some b) (rm : Nat) (sat : Bool) (z : Nat) (y : Value)
    (c : Nat) (flags : BitVec 5) : Rounded f rm sat z y c flags ↔ c < 2 ^ (1 + b.expBits + b.fracBits) ∧
    match y with
    | .nan => (c, flags) = (b.nan.getD 0, if b.nan.isSome then 0 else fNV)
    | .inf s =>
      if b.infinities ∧ sat = false then (b.value c).1 = .inf s ∧ flags = 0
      else if b.nan.isSome ∧ sat = false then c = b.nan.getD 0 ∧ flags = fNV
      else (b.value c).1 = .num s (if s then -b.largest else b.largest) ∧ flags = fNV
    | .num s q =>
      if q = 0 then (b.value c).1 = .num s 0 ∧ flags = 0
      else ∃ v, b.Rounds rm sat q v flags ∧ (b.value c).1 = v ∧ (v = .nan → c = b.nan.getD 0) := by
  rw [Rounded, formatWidth_binary hb]
  simp only [hb] <;> exact Iff.rfl

section

variable {b : BinaryFormat} {f : Nat} (h : b.Of f)
include h

theorem BinaryFormat.Of.nan_lt (c : Nat) (hc : b.nan = some c) : c < 2 ^ (1 + b.expBits + b.fracBits) :=
  (h.canonical c hc).trans_le (Nat.pow_le_pow_right two_pos (by omega))

/-- RoundTo of a NaN and of an infinity (R113). -/
theorem BinaryFormat.Of.roundFp_nan (rm : Nat) (sat : Bool) : roundFp .nan f rm sat =
    (b.nan.getD 0, if b.nan.isSome then 0 else fNV) := by
  simp only [roundFp, h.noNan]
  cases hn : b.nan with
  | none => rfl
  | some c => simp [h.nan (by rw [hn]; rfl), hn]

theorem BinaryFormat.Of.roundFp_inf (rm : Nat) (sat neg : Bool) : roundFp (.inf neg) f rm sat =
    (overflowCode f 0 sat neg, if b.infinities = true ∧ sat = false then 0 else fNV) := by
  have hcode : roundFp (.inf neg) f rm sat = (overflowCode f 0 sat neg, flagIf (overflowCode f 0 sat neg
      != (if neg then 2 ^ (b.expBits + b.fracBits) else 0) + (2 ^ b.expBits - 1) * 2 ^ b.fracBits || !b.infinities) fNV) := by
    simp only [roundFp, h.params, h.hasInf]
  rw [hcode]
  rcases h.special with ⟨hi, hn, -, hmax⟩ | ⟨-, hi, -⟩ | ⟨hi, -⟩
  · rw [← hmax, h.overflowCode_eq (by decide : 0 < 4), hi]
    cases sat with
    | false => simp [towardsInfinity, hn, BinaryFormat.code, flagIf]
    | true => simp [BinaryFormat.code, flagIf]
  · simp [hi, flagIf]
  · simp [hi, flagIf]

theorem BinaryFormat.Of.value_zero (neg : Bool) : b.value (b.code neg 0) = (.num neg 0, false) := by
  rw [h.value_finite neg (Nat.zero_le _), b.magnitude_zero, signedBy, mul_zero]

end

/-- RoundTo for a binary format (R113). -/
theorem roundFp_rounded {f rm : Nat} {b : BinaryFormat} (hb : binaryFormat f = some b) (hrm : rm < 4) (sat : Bool) (z : Nat)
    {y : Exact} {v : Value} (hv : y.For v) (hmore : ∀ s m e, y = .fin s m e true → 2 ^ (b.fracBits + 2) ≤ m) :
    Rounded f rm sat z v (roundFp y f rm sat).1 (roundFp y f rm sat).2 := by
  have h := binaryFormat_of hb
  rw [rounded_binary hb]
  cases y with
  | nan =>
    rw [show v = .nan from hv, h.roundFp_nan]
    refine ⟨?_, rfl⟩
    cases hn : b.nan with
    | none => simp
    | some c => exact h.nan_lt c hn
  | inf neg =>
    obtain ⟨h1, h2, h3⟩ := h.overflowCode_value (by decide : 0 < 4) sat neg
    rw [show v = .inf neg from hv, h.roundFp_inf]
    refine ⟨h1, ?_⟩
    dsimp only
    split
    next hi =>
      rcases h.special with ⟨-, hn, -⟩ | ⟨-, hi', -⟩ | ⟨hi', -⟩
      · exact ⟨by rw [h2, if_pos ⟨rfl, hi.2, hn⟩, if_pos hi.1], rfl⟩
      · rw [hi'] at hi; cases hi.1
      · rw [hi'] at hi; cases hi.1
    next hi =>
      split
      next hn =>
        have hinf : b.infinities = false := Bool.eq_false_iff.2 fun hc => hi ⟨hc, hn.2⟩
        refine ⟨h3 ?_, rfl⟩
        rw [h2, if_pos ⟨rfl, hn.2, hn.1⟩, hinf]
        rfl
      next hn =>
        refine ⟨?_, rfl⟩
        rw [h2, if_neg fun hc => hn ⟨hc.2.2, hc.2.1⟩]
        cases neg <;> simp [signedBy]
  | fin neg m e more =>
    obtain ⟨x, hx, rfl⟩ := (Exact.fin_for_iff ..).1 hv
    by_cases hm : m = 0
    · obtain rfl : more = false := by
        refine Bool.eq_false_iff.2 fun hk => ?_
        have := hmore neg m e (by rw [hk])
        have := Nat.one_le_two_pow (n := b.fracBits + 2)
        omega
      have hx0 : signedBy neg x = 0 := by rw [show x = m * 2 ^ e from hx, hm, Nat.cast_zero, zero_mul, signedBy, mul_zero]
      have hr : roundFp (.fin neg m e false) f rm sat = (b.code neg 0, 0) := by
        simp only [roundFp, h.params, if_pos hm]
        rfl
      rw [hr, hx0]
      dsimp only
      rw [if_pos rfl, h.value_zero]
      exact ⟨b.code_lt neg (by positivity), rfl, rfl⟩
    · have hx0 : signedBy neg x ≠ 0 := by
        have := hx.pos hm
        cases neg <;> simp [signedBy, this.ne']
      obtain ⟨h1, h2⟩ := h.roundFp_rounds (neg := neg) hrm sat hx hm fun hk => hmore neg m e (by rw [hk])
      dsimp only
      exact ⟨h1, by rw [if_neg hx0]; exact h2⟩

/-! ## Numbers that a binary format holds -/

/-- A number of a format is rounded at the exponent of its own field. -/
theorem BinaryFormat.max_log_magnitude (b : BinaryFormat) {n k : Nat} (hn : n < 2 ^ (b.fracBits + 1))
    (hk : k = 0 ∨ 2 ^ b.fracBits ≤ n) (h0 : 0 < n) :
    max (Int.log 2 ((n : ℚ) * 2 ^ (k + 1 - b.bias - b.fracBits : ℤ))) (1 - b.bias) = k + 1 - b.bias := by
  have hup : (n : ℚ) * 2 ^ (k + 1 - b.bias - b.fracBits : ℤ) < 2 ^ (k + 1 - b.bias + 1 : ℤ) := by
    calc (n : ℚ) * 2 ^ (k + 1 - b.bias - b.fracBits : ℤ)
        < (2 ^ (b.fracBits + 1) : ℕ) * 2 ^ (k + 1 - b.bias - b.fracBits : ℤ) :=
          mul_lt_mul_of_pos_right (Nat.cast_lt.2 hn) (by positivity)
      _ = 2 ^ (k + 1 - b.bias + 1 : ℤ) := by rw [two_pow_mul_zpow]; congr 1; push_cast; ring
  have hpos : (0 : ℚ) < n * 2 ^ (k + 1 - b.bias - b.fracBits : ℤ) := by positivity
  have hlog : Int.log 2 ((n : ℚ) * 2 ^ (k + 1 - b.bias - b.fracBits : ℤ)) < k + 1 - b.bias + 1 :=
    (Int.lt_zpow_iff_log_lt (by decide) hpos).1 (by exact_mod_cast hup)
  rcases Nat.lt_or_ge n (2 ^ b.fracBits) with hl | hl
  · obtain rfl : k = 0 := hk.resolve_right (by omega)
    omega
  · have hlow : (2 : ℚ) ^ (k + 1 - b.bias : ℤ) ≤ n * 2 ^ (k + 1 - b.bias - b.fracBits : ℤ) := by
      calc (2 : ℚ) ^ (k + 1 - b.bias : ℤ) = (2 ^ b.fracBits : ℕ) * 2 ^ (k + 1 - b.bias - b.fracBits : ℤ) := by
            rw [two_pow_mul_zpow]; congr 1; ring
        _ ≤ n * 2 ^ (k + 1 - b.bias - b.fracBits : ℤ) := mul_le_mul_of_nonneg_right (Nat.cast_le.2 hl) (by positivity)
    rw [log_eq_of_bounds hlow hup]
    omega

/-- A number that a binary format holds is its own rounding. -/
theorem BinaryFormat.Of.roundFp_magnitude {f m g rm : Nat} {e : Int} {b : BinaryFormat} (h : b.Of f) (hg : g ≤ maxFinite f)
    (hx : (m : ℚ) * 2 ^ e = b.magnitude g) (neg sat : Bool) :
    roundFp (.fin neg m e false) f rm sat = (b.code neg g, 0) := by
  by_cases hm : m = 0
  · have : g = 0 := by
      rw [hm, Nat.cast_zero, zero_mul, ← b.magnitude_zero] at hx
      exact (b.magnitude_strictMono.injective hx).symm
    simp only [roundFp, h.params, if_pos hm, this]
    rfl
  · obtain ⟨g', hnear, hround⟩ := h.roundFp_field (neg := neg) rm sat (x := b.magnitude g) (more := false) hx.symm hm nofun
    have hsame : b.magnitude g' = b.magnitude g := by
      obtain ⟨n, k, hgn, hn, hk⟩ := b.magnitude_parts g
      have hval := b.magnitude_add hn.le hk
      rw [← hgn] at hval
      have h0 : 0 < n := by
        refine Nat.pos_of_ne_zero fun hz => hm ?_
        rw [hz, Nat.cast_zero, zero_mul] at hval
        rw [hval, mul_eq_zero_iff_right (zpow_ne_zero _ two_ne_zero)] at hx
        exact_mod_cast hx
      have h2 : (2 : ℚ) ^ (k + 1 - b.bias - b.fracBits : ℤ) ≠ 0 := by positivity
      have hr := roundedInt_signedBy rm neg n le_rfl one_pos
      rw [roundsUp_zero, add_zero] at hr
      dsimp only at hnear
      rw [hval, b.max_log_magnitude hn hk h0, ← hval, hval, ← signedBy_mul, mul_div_cancel_right₀ _ h2, hr, signedBy_mul,
        signedBy_inj] at hnear
      rw [hval, ← hnear]
      rfl
    rw [hround, b.magnitude_strictMono.injective hsame, if_neg (not_lt.2 hg), if_pos rfl]

end Sys2Proof.Machine
end

section
/-! The tapered formats: TapDecode, the order of their codes, and RoundTo (R114–R116). -/

set_option Elab.async false

namespace Sys2Proof.Machine

/-! ## Tapered formats (R114–R116) -/

/-- The model's run is the run of the rule, counted from the top of the field. -/
theorem runLength_eq (b : Bool) (v w : Nat) :
    runLength b v w = ((List.range w).takeWhile fun i => v.testBit (w - 1 - i) == b).length := by
  induction w with
  | zero => rfl
  | succ w ih =>
    have hbit : v.testBit w = (v / 2 ^ w % 2 == 1) := Nat.testBit_eq_decide_div_mod_eq
    have hshift : (fun i => v.testBit (w + 1 - 1 - i) == b) ∘ Nat.succ = fun i => v.testBit (w - 1 - i) == b := by
      funext i
      simp only [Function.comp, show w + 1 - 1 - Nat.succ i = w - 1 - i by omega]
    rw [List.range_succ_eq_map, List.takeWhile_cons, runLength, List.takeWhile_map, hshift, ih]
    simp only [Nat.add_sub_cancel, Nat.sub_zero, hbit]
    split
    · rw [List.length_cons, List.length_map, Nat.add_comm]
    · rfl

/-- The number that a nonzero magnitude field of a tapered format stands for. -/
def tapSize (f c : Nat) : ℚ := (tapMagnitude f c).1 * 2 ^ (tapMagnitude f c).2

theorem tapParams_eq {f n es : Nat} (h : taperedFormat f = some (n, es)) : tapParams f = (n, es) := by
  unfold taperedFormat at h
  split at h
  all_goals cases h
  all_goals rfl

/-- The value of a tapered code, by its sign and magnitude field. -/
theorem tapValue_eq {f n es : Nat} (h : taperedFormat f = some (n, es)) (c : Nat) : tapValue n es c =
    let g := c % 2 ^ (n - 1)
    if g = 0 then (if c.testBit (n - 1) then .nan else .num false 0)
    else .num (c.testBit (n - 1)) (signedBy (c.testBit (n - 1)) (tapSize f g)) := by
  simp only [tapValue, tapSize, tapMagnitude, tapParams_eq h]
  generalize c % 2 ^ (n - 1) = g
  have hbit : g.testBit (n - 1 - 1) = (g / 2 ^ (n - 1 - 1) % 2 == 1) := Nat.testBit_eq_decide_div_mod_eq
  by_cases hg : g = 0
  · simp only [hg, if_true]
  · simp only [hg, if_false, hbit, runLength_eq, signedBy, Value.num.injEq, true_and]
    generalize ((List.range (n - 1)).takeWhile _).length = m
    rw [zpow_sub₀ two_ne_zero, zpow_natCast]
    push_cast
    field_simp

theorem taperedFormat_code {f : Nat} {t : Nat × Nat} (h : taperedFormat f = some t) : 9 ≤ f ∧ f ≤ 13 := by
  unfold taperedFormat at h
  split at h
  all_goals cases h
  all_goals decide

/-- Larger fields stand for larger numbers (R115). -/
theorem tapMagnitude_increases : ∀ f < 14, 9 ≤ f → ∀ c < 2 ^ ((tapParams f).1 - 1) - 1, 1 ≤ c →
    magLt (tapMagnitude f c).1 (tapMagnitude f c).2 (tapMagnitude f (c + 1)).1 (tapMagnitude f (c + 1)).2 = true := by
  decide +kernel

section

variable {f n es : Nat} (h : taperedFormat f = some (n, es))
include h

theorem tapSize_strictMonoOn : StrictMonoOn (tapSize f) (Set.Icc 1 (2 ^ (n - 1) - 1)) := by
  obtain ⟨h9, h13⟩ := taperedFormat_code h
  refine strictMonoOn_of_lt_add_one Set.ordConnected_Icc fun c _ hc hc' => ?_
  have hlt := tapMagnitude_increases f (by omega) h9 c
    (by rw [tapParams_eq h]; exact Nat.lt_of_succ_le hc'.2) hc.1
  rw [magLt_iff, decide_eq_true_eq] at hlt
  exact hlt

theorem tapParams_bits : 2 ≤ n - 1 := by
  unfold taperedFormat at h
  split at h
  all_goals cases h
  all_goals decide

theorem tapSize_pos (c : Nat) : 0 < tapSize f c := by
  have : 0 < (tapMagnitude f c).1 := by
    simp only [tapMagnitude, tapParams_eq h]
    positivity
  unfold tapSize
  positivity

end

/-- The field that `tapFloor` finds: the last one, up to `c`, whose number is at most `x`. -/
theorem tapFloor_spec {f m : Nat} {e : Int} {x : ℚ} (hx : x = m * 2 ^ e) (h1 : tapSize f 1 ≤ x) (c : Nat) :
    let k := tapFloor f m e c
    1 ≤ k ∧ k ≤ max c 1 ∧ tapSize f k ≤ x ∧ ∀ j, k < j → j ≤ c → x < tapSize f j := by
  induction c with
  | zero => exact ⟨le_rfl, le_rfl, h1, fun j hj hj0 => by omega⟩
  | succ c ih =>
    have hlt : magLt m e (tapMagnitude f (c + 1)).1 (tapMagnitude f (c + 1)).2 = decide (x < tapSize f (c + 1)) := by
      rw [magLt_iff, hx]; rfl
    obtain ⟨h2, h3, h4, h5⟩ := ih
    simp only [tapFloor, hlt, decide_eq_true_eq]
    split
    next hl =>
      refine ⟨h2, by omega, h4, fun j hj hjc => ?_⟩
      rcases Nat.lt_or_eq_of_le hjc with hj' | rfl
      · exact h5 j hj (by omega)
      · exact hl
    next hl => exact ⟨by omega, by omega, not_lt.1 hl, fun j hj hjc => by omega⟩

/-- A magnitude goes to the upper of its two neighbours in a tapered format. -/
def tapUp (rm : Nat) (neg : Bool) (c : Nat) (v u x : ℚ) : Bool :=
  match rm with
  | 0 => decide (v + u < 2 * x) || (decide (v + u = 2 * x) && c % 2 == 1)
  | 1 => false
  | 2 => !neg
  | _ => neg

section

variable {val : Nat → ℚ} {top c : Nat} {x : ℚ}

/-- The nearest of the numbers of a growing sequence is one of the two neighbours (R116). -/
theorem nearest_of_neighbours (hmono : StrictMonoOn val (Set.Icc 1 top)) (hc : 1 ≤ c) (hct : c + 1 ≤ top) (hl : val c < x)
    (hu : x < val (c + 1)) (neg : Bool) :
    let mag := if tapUp 0 neg c (val c) (val (c + 1)) x then c + 1 else c
    ∀ j, 0 < j → j ≤ top → |val mag - x| ≤ |val j - x| ∧ (|val mag - x| = |val j - x| → j = mag ∨ mag % 2 = 0) := by
  intro mag j hj hjt
  have hup : tapUp 0 neg c (val c) (val (c + 1)) x = true ↔
      val c + val (c + 1) < 2 * x ∨ (val c + val (c + 1) = 2 * x ∧ c % 2 = 1) := by
    simp only [tapUp, Bool.or_eq_true, Bool.and_eq_true, decide_eq_true_eq, beq_iff_eq]
  have hlow : |val c - x| = x - val c := by rw [abs_sub_comm, abs_of_pos (by linarith)]
  have hhigh : |val (c + 1) - x| = val (c + 1) - x := abs_of_pos (by linarith)
  have hsides : (j < c ∧ val j < val c ∧ |val j - x| = x - val j) ∨ j = c ∨ j = c + 1
      ∨ (c + 1 < j ∧ val (c + 1) < val j ∧ |val j - x| = val j - x) := by
    rcases Nat.lt_trichotomy j c with hjc | hjc | hjc
    · have := hmono ⟨hj, hjt⟩ ⟨hc, by omega⟩ hjc
      exact .inl ⟨hjc, this, by rw [abs_sub_comm, abs_of_pos (by linarith)]⟩
    · exact .inr (.inl hjc)
    · rcases Nat.lt_or_eq_of_le (Nat.succ_le_of_lt hjc) with hj' | hj'
      · have := hmono ⟨by omega, hct⟩ ⟨hj, hjt⟩ hj'
        exact .inr (.inr (.inr ⟨hj', this, abs_of_pos (by linarith)⟩))
      · exact .inr (.inr (.inl hj'.symm))
  by_cases hcase : tapUp 0 neg c (val c) (val (c + 1)) x = true
  · have hle : val (c + 1) - x ≤ x - val c := by
      rcases hup.1 hcase with h | ⟨h, -⟩ <;> linarith
    have hodd : val (c + 1) - x = x - val c → (c + 1) % 2 = 0 := fun he => by
      rcases hup.1 hcase with h | ⟨-, h⟩
      · linarith
      · omega
    rw [show mag = c + 1 from if_pos hcase, hhigh]
    rcases hsides with ⟨-, hlt, ho⟩ | rfl | rfl | ⟨-, hlt, ho⟩
    · rw [ho]
      exact ⟨by linarith, fun he => by linarith⟩
    · rw [hlow]
      exact ⟨hle, fun he => .inr (hodd he)⟩
    · rw [hhigh]
      exact ⟨le_rfl, fun _ => .inl rfl⟩
    · rw [ho]
      exact ⟨by linarith, fun he => by linarith⟩
  · have hle : x - val c ≤ val (c + 1) - x := by
      by_contra hn
      exact hcase (hup.2 (.inl (by linarith)))
    have heven : x - val c = val (c + 1) - x → c % 2 = 0 := fun he => by
      by_contra hn
      exact hcase (hup.2 (.inr ⟨by linarith, by omega⟩))
    rw [show mag = c from if_neg hcase, hlow]
    rcases hsides with ⟨-, hlt, ho⟩ | rfl | rfl | ⟨-, hlt, ho⟩
    · rw [ho]
      exact ⟨by linarith, fun he => by linarith⟩
    · rw [hlow]
      exact ⟨le_rfl, fun _ => .inl rfl⟩
    · rw [hhigh]
      exact ⟨hle, fun he => .inr (heven he)⟩
    · rw [ho]
      exact ⟨by linarith, fun he => by linarith⟩

/-- The lower neighbour is the last number at most `x`, the upper one the first that is at least `x`. -/
theorem directed_of_neighbours (hmono : StrictMonoOn val (Set.Icc 1 top)) (hc : 1 ≤ c) (hct : c + 1 ≤ top) (hl : val c < x)
    (hu : x < val (c + 1)) {j : Nat} (hj : 0 < j) (hjt : j ≤ top) :
    (val j ≤ x → val j ≤ val c) ∧ (x ≤ val j → val (c + 1) ≤ val j) := by
  rcases Nat.lt_or_ge c j with hjc | hjc
  · have := hmono.monotoneOn ⟨by omega, hct⟩ ⟨hj, hjt⟩ hjc
    exact ⟨fun h => by linarith, fun _ => this⟩
  · have := hmono.monotoneOn ⟨hj, hjt⟩ ⟨hc, by omega⟩ hjc
    exact ⟨fun _ => this, fun h => by linarith⟩

end

/-- Twice a magnitude against the sum of two others, at the least of their exponents. -/
theorem twice_against_neighbours (m : Nat) (e : Int) (v : Nat) (q : Int) (u : Nat) (r : Int) :
    let low := min (min q r) e
    let mid := scaleTo v q low + scaleTo u r low
    let twice := 2 * scaleTo m e low
    decide (mid < twice) = decide ((v : ℚ) * 2 ^ q + u * 2 ^ r < 2 * (m * 2 ^ e))
    ∧ (mid == twice) = decide ((v : ℚ) * 2 ^ q + u * 2 ^ r = 2 * (m * 2 ^ e)) := by
  intro low mid twice
  have h2 : (0 : ℚ) < 2 ^ low := by positivity
  have hmid : (v : ℚ) * 2 ^ q + u * 2 ^ r = mid * 2 ^ low := by
    rw [← scaleTo_cast v (show low ≤ q by omega), ← scaleTo_cast u (show low ≤ r by omega), ← add_mul, ← Nat.cast_add]
  have htwice : 2 * ((m : ℚ) * 2 ^ e) = twice * 2 ^ low := by
    rw [← scaleTo_cast m (show low ≤ e by omega), ← mul_assoc, ← Nat.cast_ofNat, ← Nat.cast_mul]
  refine ⟨?_, ?_⟩
  · rw [decide_eq_decide, hmid, htwice, mul_lt_mul_iff_left₀ h2, Nat.cast_lt]
  · rw [Bool.beq_eq_decide_eq, decide_eq_decide, hmid, htwice, mul_left_inj' h2.ne', Nat.cast_inj]

/-- The equation of RoundTo for a nonzero number without a rest, over the numbers of the fields. -/
theorem roundTap_fin {f n es m : Nat} (h : taperedFormat f = some (n, es)) (rm : Nat) (neg : Bool) {e : Int} {x : ℚ}
    (hx : x = m * 2 ^ e) (hm : m ≠ 0) : roundTap (.fin neg m e false) f rm =
    let top := 2 ^ (n - 1) - 1
    let c := tapFloor f m e top
    let r : Nat × BitVec 5 :=
      if tapSize f top ≤ x then (top, if tapSize f top < x then fOF ||| fNX else 0)
      else if x < tapSize f 1 then (1, fUF ||| fNX)
      else if x ≤ tapSize f c then (c, 0)
      else (if tapUp rm neg c (tapSize f c) (tapSize f (c + 1)) x then c + 1 else c, fNX)
    ((if neg then 2 ^ (n - 1) else 0) + r.1, r.2) := by
  have hlt : ∀ c, magLt m e (tapMagnitude f c).1 (tapMagnitude f c).2 = decide (x < tapSize f c) := fun c => by
    rw [magLt_iff, hx]; rfl
  have hgt : ∀ c, magLt (tapMagnitude f c).1 (tapMagnitude f c).2 m e = decide (tapSize f c < x) := fun c => by
    rw [magLt_iff, hx]; rfl
  simp only [roundTap, tapParams_eq h, if_neg hm, hlt, hgt, Bool.or_false, Bool.and_true, Bool.not_eq_true',
    decide_eq_false_iff_not, not_lt, decide_eq_true_eq, Bool.not_false, flagIf]
  split
  · rfl
  · split
    · rfl
    · split
      · rfl
      · rw [Prod.mk.injEq]
        refine ⟨?_, rfl⟩
        congr 1
        obtain ⟨hmid, htie⟩ := twice_against_neighbours m e (tapMagnitude f (tapFloor f m e (2 ^ (n - 1) - 1))).1
          (tapMagnitude f (tapFloor f m e (2 ^ (n - 1) - 1))).2 (tapMagnitude f (tapFloor f m e (2 ^ (n - 1) - 1) + 1)).1
          (tapMagnitude f (tapFloor f m e (2 ^ (n - 1) - 1) + 1)).2
        rw [hmid, htie, ← hx]
        match rm with
        | 0 => rfl
        | 1 => rfl
        | 2 => rfl
        | k + 3 => rfl

theorem rounded_tapered {f n es : Nat} (h : taperedFormat f = some (n, es)) (rm : Nat) (sat : Bool) (z : Nat) (y : Value) (c : Nat)
    (flags : BitVec 5) : Rounded f rm sat z y c flags ↔ c < 2 ^ n ∧
    match y with
    | .nan => c = 2 ^ (n - 1) ∧ flags = 0
    | .inf s => c = (if s then 2 ^ (n - 1) else 0) + (2 ^ (n - 1) - 1) ∧ flags = fNV
    | .num _ q =>
      if q = 0 then c = 0 ∧ flags = 0
      else c / 2 ^ (n - 1) = (if q < 0 then 1 else 0) ∧ TapRounds n es rm q (c % 2 ^ (n - 1)) flags := by
  have hb : binaryFormat f = none := by
    obtain ⟨h9, h13⟩ := taperedFormat_code h
    interval_cases f <;> rfl
  simp only [Rounded, formatWidth, hb, h] <;> exact Iff.rfl

/-- The rule of R116 for a nonzero number, over the numbers `val` of the fields up to `top`. -/
def FieldRounds (val : Nat → ℚ) (top rm : Nat) (q : ℚ) (mag : Nat) (flags : BitVec 5) : Prop :=
  let big := |q|
  0 < mag ∧ mag ≤ top ∧
  if val top ≤ big then mag = top ∧ flags = if val top < big then fOF ||| fNX else 0
  else if big ≤ val 1 then mag = 1 ∧ flags = if big < val 1 then fUF ||| fNX else 0
  else
    let towards := rm = 1 ∨ (rm = 2 ∧ q < 0) ∨ (rm = 3 ∧ 0 < q)
    let off := fun c => |val c - big|
    (flags = if val mag = big then 0 else fNX)
    ∧ ∀ c, 0 < c → c ≤ top →
      if rm = 0 then off mag ≤ off c ∧ (off mag = off c → c = mag ∨ mag % 2 = 0)
      else if towards then val mag ≤ big ∧ (val c ≤ big → val c ≤ val mag)
      else big ≤ val mag ∧ (big ≤ val c → val mag ≤ val c)

theorem tapRounds_eq (n es rm : Nat) (q : ℚ) (mag : Nat) (flags : BitVec 5) : TapRounds n es rm q mag flags =
    FieldRounds (fun c => match tapValue n es c with | .num _ x => x | _ => 0) (2 ^ (n - 1) - 1) rm q mag flags := rfl

theorem FieldRounds.congr {val val' : Nat → ℚ} {top rm : Nat} {q : ℚ} {mag : Nat} {flags : BitVec 5}
    (hv : ∀ c, 0 < c → c ≤ top → val' c = val c) (h : FieldRounds val top rm q mag flags) :
    FieldRounds val' top rm q mag flags := by
  obtain ⟨h0, hm, h⟩ := h
  have htop := h0.trans_le hm
  refine ⟨h0, hm, ?_⟩
  dsimp only at h ⊢
  rw [hv top htop le_rfl, hv 1 one_pos htop, hv mag h0 hm]
  split
  next hc => rwa [if_pos hc] at h
  next hc =>
    rw [if_neg hc] at h
    split
    next hc => rwa [if_pos hc] at h
    next hc =>
      rw [if_neg hc] at h
      refine ⟨h.1, fun c hc hct => ?_⟩
      rw [hv c hc hct]
      exact h.2 c hc hct

section

variable {f n es : Nat} (h : taperedFormat f = some (n, es))
include h

theorem tapValue_field {c : Nat} (hc : 0 < c) (hct : c ≤ 2 ^ (n - 1) - 1) :
    tapValue n es c = .num false (tapSize f c) := by
  have hp : 0 < 2 ^ (n - 1) := by positivity
  have hmod : c % 2 ^ (n - 1) = c := Nat.mod_eq_of_lt (by omega)
  simp only [tapValue_eq h, hmod, hc.ne', if_false, Nat.testBit_lt_two_pow (show c < 2 ^ (n - 1) by omega), signedBy,
    Bool.false_eq_true, one_mul]

theorem tapRounds_of_field {rm mag : Nat} {q : ℚ} {flags : BitVec 5}
    (hr : FieldRounds (tapSize f) (2 ^ (n - 1) - 1) rm q mag flags) : TapRounds n es rm q mag flags := by
  rw [tapRounds_eq]
  refine hr.congr fun c hc hct => ?_
  rw [tapValue_field h hc hct]

/-- RoundTo of a nonzero number, as R116 says it. -/
theorem roundTap_rounds {m : Nat} (rm : Nat) (hrm : rm < 4) (neg : Bool) {e : Int} {x : ℚ} (hx : x = m * 2 ^ e) (hm : m ≠ 0) :
    ∃ mag flags, roundTap (.fin neg m e false) f rm = ((if neg then 2 ^ (n - 1) else 0) + mag, flags)
      ∧ FieldRounds (tapSize f) (2 ^ (n - 1) - 1) rm (signedBy neg x) mag flags := by
  have hpos : 0 < x := by rw [hx]; positivity
  have hmono := tapSize_strictMonoOn h
  have hbits : 2 ^ 2 ≤ 2 ^ (n - 1) := Nat.pow_le_pow_right two_pos (tapParams_bits h)
  have htop : 1 ≤ 2 ^ (n - 1) - 1 := by omega
  have habs : |signedBy neg x| = x := by rw [abs_signedBy, abs_of_pos hpos]
  unfold FieldRounds
  simp only [habs, signedBy_neg_iff neg hpos, signedBy_pos_iff neg hpos]
  refine ⟨_, _, roundTap_fin h rm neg hx hm, ?_⟩
  by_cases hbig : tapSize f (2 ^ (n - 1) - 1) ≤ x
  · rw [if_pos hbig]
    refine ⟨htop, le_rfl, ?_⟩
    rw [if_pos hbig]
    exact ⟨rfl, rfl⟩
  by_cases hsmall : x < tapSize f 1
  · rw [if_neg hbig, if_pos hsmall]
    refine ⟨one_pos, htop, ?_⟩
    rw [if_neg hbig, if_pos hsmall.le, if_pos hsmall]
    exact ⟨rfl, rfl⟩
  obtain ⟨h1, h2, h3, h4⟩ := tapFloor_spec hx (not_lt.1 hsmall) (2 ^ (n - 1) - 1)
  rw [if_neg hbig, if_neg hsmall]
  generalize tapFloor f m e (2 ^ (n - 1) - 1) = c at *
  have hct : c < 2 ^ (n - 1) - 1 := by
    refine lt_of_le_of_ne (by omega) ?_
    rintro rfl
    exact hbig h3
  have hnext := h4 (c + 1) (by omega) (by omega)
  by_cases hexact : x ≤ tapSize f c
  · have heq := le_antisymm h3 hexact
    rw [if_pos hexact]
    refine ⟨h1, hct.le, ?_⟩
    rw [if_neg hbig]
    by_cases hone : x ≤ tapSize f 1
    · have hc1 : c = 1 := hmono.injOn ⟨h1, hct.le⟩ ⟨le_rfl, htop⟩ (by linarith)
      rw [if_pos hone, if_neg hsmall]
      exact ⟨hc1, rfl⟩
    · rw [if_neg hone, if_pos heq]
      refine ⟨rfl, fun j hj hjt => ?_⟩
      have hj' : tapSize f j = x → j = c := fun he => hmono.injOn ⟨hj, hjt⟩ ⟨h1, hct.le⟩ (he.trans heq.symm)
      rw [heq, sub_self, abs_zero]
      split
      · refine ⟨abs_nonneg _, fun he => .inl (hj' ?_)⟩
        rw [eq_comm, abs_eq_zero, sub_eq_zero] at he
        exact he
      · split
        · exact ⟨le_rfl, id⟩
        · exact ⟨le_rfl, id⟩
  · have hlt := not_le.1 hexact
    have hone : ¬ x ≤ tapSize f 1 := fun hle => by
      have := hmono.monotoneOn ⟨le_rfl, htop⟩ ⟨h1, hct.le⟩ h1
      linarith
    have hmag : ∀ up : Bool, 0 < (if up then c + 1 else c) ∧ (if up then c + 1 else c) ≤ 2 ^ (n - 1) - 1
        ∧ tapSize f (if up then c + 1 else c) ≠ x := by
      rintro (_ | _)
      · exact ⟨h1, hct.le, hlt.ne⟩
      · exact ⟨c.succ_pos, hct, hnext.ne'⟩
    rw [if_neg hexact]
    obtain ⟨hm0, hm1, hne⟩ := hmag (tapUp rm neg c (tapSize f c) (tapSize f (c + 1)) x)
    refine ⟨hm0, hm1, ?_⟩
    rw [if_neg hbig, if_neg hone, if_neg hne]
    refine ⟨rfl, fun j hj hjt => ?_⟩
    obtain ⟨hdown, hupw⟩ := directed_of_neighbours hmono h1 hct hlt hnext hj hjt
    match rm, hrm with
    | 0, _ => exact nearest_of_neighbours hmono h1 hct hlt hnext neg j hj hjt
    | 1, _ => exact ⟨hlt.le, hdown⟩
    | 2, _ => cases neg
              · exact ⟨hnext.le, hupw⟩
              · exact ⟨hlt.le, hdown⟩
    | 3, _ => cases neg
              · exact ⟨hlt.le, hdown⟩
              · exact ⟨hnext.le, hupw⟩

end

theorem two_pow_pred {n : Nat} (h : 1 ≤ n) : 2 ^ n = 2 * 2 ^ (n - 1) := by
  obtain ⟨k, rfl⟩ : ∃ k, n = k + 1 := ⟨n - 1, by omega⟩
  rw [Nat.add_sub_cancel, pow_succ, mul_comm]

/-- RoundTo for a tapered format (R116); its operands have no rest. -/
theorem roundTap_rounded {f n es rm : Nat} (h : taperedFormat f = some (n, es)) (hrm : rm < 4) (sat : Bool) (z : Nat)
    {y : Exact} {v : Value} (hv : y.For v) (hmore : ∀ s m e, y ≠ .fin s m e true) :
    Rounded f rm sat z v (roundTap y f rm).1 (roundTap y f rm).2 := by
  have hbits : 2 ^ 2 ≤ 2 ^ (n - 1) := Nat.pow_le_pow_right two_pos (tapParams_bits h)
  have hn : 2 ^ n = 2 * 2 ^ (n - 1) := two_pow_pred (by have := tapParams_bits h; omega)
  rw [rounded_tapered h]
  cases y with
  | nan =>
    have hr : roundTap .nan f rm = (2 ^ (n - 1), 0) := by simp only [roundTap, tapParams_eq h]
    rw [show v = .nan from hv, hr]
    exact ⟨by omega, rfl, rfl⟩
  | inf neg =>
    have hr : roundTap (.inf neg) f rm = ((if neg then 2 ^ (n - 1) else 0) + (2 ^ (n - 1) - 1), fNV) := by
      simp only [roundTap, tapParams_eq h]
    rw [show v = .inf neg from hv, hr]
    exact ⟨by cases neg <;> simp <;> omega, rfl, rfl⟩
  | fin neg m e more =>
    obtain rfl : more = false := Bool.eq_false_iff.2 fun hk => hmore neg m e (by rw [hk])
    obtain ⟨x, hx, rfl⟩ := (Exact.fin_for_iff ..).1 hv
    have hx : x = m * 2 ^ e := hx
    by_cases hm : m = 0
    · have hr : roundTap (.fin neg m e false) f rm = (0, 0) := by simp only [roundTap, tapParams_eq h, if_pos hm]
      have hx0 : signedBy neg x = 0 := by rw [hx, hm, Nat.cast_zero, zero_mul, signedBy, mul_zero]
      rw [hr, hx0]
      dsimp only
      rw [if_pos rfl]
      exact ⟨by positivity, rfl, rfl⟩
    · have hpos : 0 < x := by rw [hx]; positivity
      have hx0 : signedBy neg x ≠ 0 := by cases neg <;> simp [signedBy, hpos.ne']
      obtain ⟨mag, flags, hr, hfield⟩ := roundTap_rounds h rm hrm neg hx hm
      have hmag : mag < 2 ^ (n - 1) := by have := hfield.2.1; omega
      rw [hr]
      dsimp only
      rw [if_neg hx0]
      refine ⟨by cases neg <;> simp <;> omega, ?_, ?_⟩
      · simp only [signedBy_neg_iff neg hpos]
        cases neg with
        | false => simpa using Nat.div_eq_of_lt hmag
        | true => simp [Nat.div_eq_of_lt hmag]
      · have hmod : ((if neg then 2 ^ (n - 1) else 0) + mag) % 2 ^ (n - 1) = mag := by
          cases neg <;> simp [Nat.mod_eq_of_lt hmag]
        rw [hmod]
        exact tapRounds_of_field h hfield

/-- TapDecode (R114). -/
theorem decodeTap_eq {f n es : Nat} (h : taperedFormat f = some (n, es)) (c : Nat) : decodeTap f c =
    let g := c % 2 ^ (n - 1)
    if g = 0 then (if c.testBit (n - 1) then .nan else .zero false)
    else .fin (c.testBit (n - 1)) (tapMagnitude f g).1 (tapMagnitude f g).2 false := by
  simp only [decodeTap, tapParams_eq h, Nat.testBit_eq_decide_div_mod_eq, Bool.beq_eq_decide_eq, decide_eq_true_eq]

theorem decodeTap_for {f n es : Nat} (h : taperedFormat f = some (n, es)) (c : Nat) : (decodeTap f c).For (tapValue n es c) := by
  rw [decodeTap_eq h, tapValue_eq h]
  dsimp only
  split
  · cases c.testBit (n - 1)
    · exact (Exact.fin_for_iff ..).2 ⟨0, by simp [Exact.Mag], by simp [signedBy]⟩
    · rfl
  · exact (Exact.fin_for_iff ..).2 ⟨_, rfl, rfl⟩

/-- A number that a tapered format holds is its own rounding. -/
theorem roundTap_field {f n es m g : Nat} {e : Int} (h : taperedFormat f = some (n, es)) (rm : Nat) (neg : Bool)
    (hg : g ∈ Set.Icc 1 (2 ^ (n - 1) - 1)) (hx : tapSize f g = m * 2 ^ e) :
    roundTap (.fin neg m e false) f rm = ((if neg then 2 ^ (n - 1) else 0) + g, 0) := by
  have hmono := tapSize_strictMonoOn h
  obtain ⟨hg1, hgt⟩ := hg
  have htop : 2 ^ (n - 1) - 1 ∈ Set.Icc 1 (2 ^ (n - 1) - 1) := ⟨hg1.trans hgt, le_rfl⟩
  have hm : m ≠ 0 := by
    rintro rfl
    have := tapSize_pos h g
    rw [hx, Nat.cast_zero, zero_mul] at this
    exact this.ne rfl
  have h1 : tapSize f 1 ≤ tapSize f g := hmono.monotoneOn ⟨le_rfl, htop.1⟩ ⟨hg1, hgt⟩ hg1
  obtain ⟨h2, h3, h4, h5⟩ := tapFloor_spec hx h1 (2 ^ (n - 1) - 1)
  rw [roundTap_fin h rm neg hx hm]
  dsimp only
  rcases Nat.lt_or_eq_of_le hgt with hlt | rfl
  · have hfl : tapFloor f m e (2 ^ (n - 1) - 1) = g := by
      refine le_antisymm ((hmono.le_iff_le ⟨h2, by omega⟩ ⟨hg1, hgt⟩).1 h4) (not_lt.1 fun hl => ?_)
      exact (h5 g hl hgt).ne rfl
    rw [if_neg (not_le.2 (hmono ⟨hg1, hgt⟩ htop hlt)), if_neg (not_lt.2 h1), hfl, if_pos le_rfl]
  · rw [if_pos le_rfl, if_neg (lt_irrefl _)]

theorem roundTap_decodeTap {f n es rm : Nat} (h : taperedFormat f = some (n, es)) {c : Nat} (hc : c < 2 ^ n)
    (hnum : tapValue n es c ≠ .nan) : roundTap (decodeTap f c) f rm = (c, 0) := by
  have hn : 2 ^ n = 2 * 2 ^ (n - 1) := two_pow_pred (by have := tapParams_bits h; omega)
  have hsign : (if c.testBit (n - 1) then 2 ^ (n - 1) else 0) + c % 2 ^ (n - 1) = c := by
    rw [Nat.testBit_eq_decide_div_mod_eq]
    rcases Nat.lt_or_ge c (2 ^ (n - 1)) with hl | hl
    · simp [Nat.div_eq_of_lt hl, Nat.mod_eq_of_lt hl]
    · have hq : c / 2 ^ (n - 1) = 1 := by rw [Nat.div_eq_iff (by positivity)]; omega
      have hr := Nat.div_add_mod' c (2 ^ (n - 1))
      rw [hq] at hr ⊢
      simpa using hr
  rw [tapValue_eq h] at hnum
  rw [decodeTap_eq h]
  dsimp only at hnum ⊢
  by_cases hg : c % 2 ^ (n - 1) = 0
  · rw [if_pos hg] at hnum ⊢
    rw [hg] at hsign
    cases hs : c.testBit (n - 1) with
    | false =>
      rw [hs] at hsign
      simp [Exact.zero, roundTap, ← hsign]
    | true =>
      rw [hs] at hnum
      exact absurd rfl hnum
  · have hlt : c % 2 ^ (n - 1) < 2 ^ (n - 1) := Nat.mod_lt _ (by positivity)
    rw [if_neg hg, roundTap_field h rm _ ⟨by omega, by omega⟩ rfl, hsign]

end Sys2Proof.Machine
end

section
/-! The integer and offset-binary formats (R117, R118). -/

set_option Elab.async false

namespace Sys2Proof.Machine

/-! ## Integer and offset-binary formats (R117, R118) -/

section

variable {f n : Nat} {signed zero : Bool} (h : integerFormat f = some (n, signed, zero))
include h

/-- The model's parameters of an integer format, and that it is of no other kind. -/
theorem integerFormat_of : codeBits f = n ∧ isSigned f = signed ∧ isOb f = zero ∧ isFp f = false ∧ isTap f = false
    ∧ binaryFormat f = none ∧ taperedFormat f = none ∧ 2 ≤ n ∧ (zero = true → signed = false) := by
  unfold integerFormat at h
  split at h
  all_goals cases h
  all_goals decide

/-- What a code of an integer format stands for (R117). -/
def integerOf (n : Nat) (signed zero : Bool) (c z : Nat) : ℤ :=
  if zero then c - z else if signed ∧ c.testBit (n - 1) then c - 2 ^ n else c

theorem valueOf_integer (c z : Nat) : valueOf f c z =
    (.num (decide (integerOf n signed zero c z < 0)) (integerOf n signed zero c z), false) := by
  obtain ⟨-, -, -, -, -, hb, ht, -, -⟩ := integerFormat_of h
  simp only [valueOf, hb, ht, h, integerOf] <;> rfl

theorem decodeElem_integer {c : Nat} (hc : c < 2 ^ n) (z : Nat) :
    decodeElem f c z = (.ofInt (integerOf n signed zero c z), 0) := by
  obtain ⟨hn, hs, hz, hfp, htap, -, -, h2, hzs⟩ := integerFormat_of h
  simp only [decodeElem, hfp, htap, hz, hs, hn, integerOf, Bool.false_eq_true, if_false]
  cases zero with
  | true => rfl
  | false =>
    cases signed with
    | false => rfl
    | true =>
      have hsext : sext n c = if c.testBit (n - 1) then (c : ℤ) - 2 ^ n else c := by
        rw [sext, BitVec.toInt_eq_msb_cond, BitVec.toNat_ofNat, Nat.mod_eq_of_lt hc, BitVec.msb_eq_getLsbD_last,
          BitVec.getLsbD_ofNat]
        simp [show n - 1 < n by omega]
      simp [hsext]

end

theorem Exact.ofInt_for (i : ℤ) : (Exact.ofInt i).For (.num (decide (i < 0)) i) := by
  refine (Exact.fin_for_iff ..).2 ⟨i.natAbs, by simp [Exact.Mag], ?_⟩
  rw [Value.num.injEq, signedBy, Nat.cast_natAbs]
  refine ⟨rfl, ?_⟩
  rcases lt_or_ge i 0 with hi | hi
  · simp [hi, abs_of_neg hi]
  · simp [hi.not_gt, abs_of_nonneg hi]

/-- The ends of the code range of an integer format. -/
def integerLow (n : Nat) (signed : Bool) : ℤ := if signed then -2 ^ (n - 1) else 0
def integerHigh (n : Nat) (signed : Bool) : ℤ := if signed then 2 ^ (n - 1) - 1 else 2 ^ n - 1

theorem integerRange {n : Nat} (hn : 2 ≤ n) (signed : Bool) :
    -2 ^ n ≤ integerLow n signed ∧ integerLow n signed ≤ 0 ∧ 0 ≤ integerHigh n signed ∧ integerHigh n signed < 2 ^ n := by
  have h2 : (2 : ℤ) ^ n = 2 * 2 ^ (n - 1) := by exact_mod_cast two_pow_pred (by omega : 1 ≤ n)
  have hp : (0 : ℤ) < 2 ^ (n - 1) := by positivity
  cases signed <;> simp only [integerLow, integerHigh, Bool.false_eq_true, if_true, if_false] <;> omega

/-- The code of an integer in range. -/
theorem toNat_emod_eq {n : Nat} {i : ℤ} (hl : -2 ^ n ≤ i) (hu : i < 2 ^ n) :
    (i % 2 ^ n).toNat < 2 ^ n ∧ ((i % 2 ^ n).toNat : ℤ) = if i < 0 then i + 2 ^ n else i := by
  have hp : (0 : ℤ) < 2 ^ n := by positivity
  have hm : i % 2 ^ n = if i < 0 then i + 2 ^ n else i := by
    split
    · rw [← Int.add_emod_right, Int.emod_eq_of_lt (by omega) (by omega)]
    · exact Int.emod_eq_of_lt (by omega) hu
  have hc : ((2 ^ n : ℕ) : ℤ) = 2 ^ n := by push_cast; rfl
  rw [hm]
  split <;> omega

section

variable {f n : Nat} {signed zero : Bool} (h : integerFormat f = some (n, signed, zero))
include h

theorem rounded_integer (rm : Nat) (sat : Bool) (z : Nat) (y : Value) (c : Nat) (flags : BitVec 5) :
    Rounded f rm sat z y c flags ↔ c < 2 ^ n ∧
    let low := integerLow n signed
    let high := integerHigh n signed
    let shift : ℤ := if zero then z else 0
    let is := fun i : ℤ => (c : ℤ) = if i < 0 then i + 2 ^ n else i
    match y with
    | .nan => is shift ∧ flags = fNV
    | .inf s => is (if s then low else high) ∧ flags = fNV
    | .num _ q =>
      let r := roundedInt rm q
      is (max low (min high (r + shift)))
        ∧ flags = if r + shift < low ∨ high < r + shift then fNV else if r = q then 0 else fNX := by
  obtain ⟨-, -, -, -, -, hb, ht, -, -⟩ := integerFormat_of h
  simp only [Rounded, formatWidth, hb, ht, h] <;> exact Iff.rfl

/-- RoundTo for an integer or offset-binary format (R118); its operands have no rest. -/
theorem roundInt_rounded {rm z : Nat} (sat : Bool) (hz : zero = true → z < 2 ^ n) {y : Exact} {v : Value} (hv : y.For v)
    (hmore : ∀ s m e, y ≠ .fin s m e true) : Rounded f rm sat z v (roundInt y f rm z).1 (roundInt y f rm z).2 := by
  obtain ⟨hn, hs, hob, -, -, -, -, h2, -⟩ := integerFormat_of h
  obtain ⟨hl, hl0, hh0, hh⟩ := integerRange h2 signed
  have hz' : (0 : ℤ) ≤ (if zero then (z : ℤ) else 0) ∧ (if zero then (z : ℤ) else 0) < 2 ^ n := by
    cases zero with
    | false => simp
    | true => simpa using (by exact_mod_cast hz rfl : (z : ℤ) < 2 ^ n)
  rw [rounded_integer h]
  generalize hshift : (if zero then (z : ℤ) else 0) = shift at *
  cases y with
  | nan =>
    have hr : roundInt .nan f rm z = ((shift % 2 ^ n).toNat, fNV) := by simp only [roundInt, hn, hob, hshift]
    obtain ⟨h3, h4⟩ := toNat_emod_eq (n := n) (i := shift) (by omega) (by omega)
    rw [show v = .nan from hv, hr]
    exact ⟨h3, h4, rfl⟩
  | inf neg =>
    have hr : roundInt (.inf neg) f rm z =
        (((if neg then integerLow n signed else integerHigh n signed) % 2 ^ n).toNat, fNV) := by
      simp only [roundInt, hn, hs]; rfl
    obtain ⟨h3, h4⟩ := toNat_emod_eq (n := n) (i := if neg then integerLow n signed else integerHigh n signed)
      (by cases neg <;> simp <;> omega) (by cases neg <;> simp <;> omega)
    rw [show v = .inf neg from hv, hr]
    exact ⟨h3, h4, rfl⟩
  | fin neg m e more =>
    obtain rfl : more = false := Bool.eq_false_iff.2 fun hk => hmore neg m e (by rw [hk])
    obtain ⟨x, hx, rfl⟩ := (Exact.fin_for_iff ..).1 hv
    have hr : roundInt (.fin neg m e false) f rm z =
        (let q : ℤ := (if neg then -((roundAt rm neg m e false 0).1 : ℤ) else (roundAt rm neg m e false 0).1) + shift
         if q < integerLow n signed then ((integerLow n signed % 2 ^ n).toNat, fNV)
         else if integerHigh n signed < q then ((integerHigh n signed % 2 ^ n).toNat, fNV)
         else ((q % 2 ^ n).toNat, flagIf (roundAt rm neg m e false 0).2 fNX)) := by
      simp only [roundInt, hn, hs, hob, hshift]; rfl
    have hint : roundedInt rm (signedBy neg x) =
        if neg then -((roundAt rm neg m e false 0).1 : ℤ) else (roundAt rm neg m e false 0).1 := by
      have := roundedInt_eq_roundAt (rm := rm) (neg := neg) (q := 0) hx nofun
      rw [zpow_zero, div_one] at this
      have hc : (roundedInt rm (signedBy neg x) : ℚ) =
          ((if neg then -((roundAt rm neg m e false 0).1 : ℤ) else (roundAt rm neg m e false 0).1 : ℤ) : ℚ) := by
        rw [this]
        cases neg <;> simp [signedBy]
      exact_mod_cast hc
    have hflag : (roundedInt rm (signedBy neg x) = signedBy neg x) ↔ (roundAt rm neg m e false 0).2 = false := by
      have := roundedInt_eq_roundAt (rm := rm) (neg := neg) (q := 0) hx nofun
      rw [zpow_zero, div_one] at this
      rw [this, signedBy_inj, roundAt_inexact hx nofun, decide_eq_false_iff_not, not_not, zpow_zero, mul_one]
    rw [hint] at hflag
    rw [hr]
    dsimp only
    simp only [hint, hflag]
    generalize ((if neg then -((roundAt rm neg m e false 0).1 : ℤ) else (roundAt rm neg m e false 0).1) + shift) = q
    by_cases h3 : q < integerLow n signed
    · obtain ⟨h4, h5⟩ := toNat_emod_eq (n := n) hl (by omega)
      rw [if_pos h3, max_eq_left (by omega)]
      exact ⟨h4, h5, (if_pos (.inl h3)).symm⟩
    by_cases h4 : integerHigh n signed < q
    · obtain ⟨h5, h6⟩ := toNat_emod_eq (n := n) (i := integerHigh n signed) (by omega) hh
      rw [if_neg h3, if_pos h4, min_eq_left h4.le, max_eq_right (by omega)]
      exact ⟨h5, h6, (if_pos (.inr h4)).symm⟩
    · obtain ⟨h5, h6⟩ := toNat_emod_eq (n := n) (i := q) (by omega) (by omega)
      rw [if_neg h3, if_neg h4, min_eq_right (by omega), max_eq_right (by omega)]
      refine ⟨h5, h6, .trans ?_ (if_neg (by omega)).symm⟩
      cases (roundAt rm neg m e false 0).2 <;> rfl

/-- A number that an integer format holds is its own rounding. -/
theorem roundInt_ofInt {c z : Nat} (hc : c < 2 ^ n) (rm : Nat) :
    roundInt (.ofInt (integerOf n signed zero c z)) f rm z = (c, 0) := by
  obtain ⟨hn, hs, hob, -, -, -, -, h2, hzs⟩ := integerFormat_of h
  have hpow : (2 : ℤ) ^ n = 2 * 2 ^ (n - 1) := by exact_mod_cast two_pow_pred (by omega : 1 ≤ n)
  have hc' : (c : ℤ) < 2 ^ n := by exact_mod_cast hc
  have hround : ∀ (neg : Bool) (k : Nat), roundAt rm neg k 0 false 0 = (k, false) := fun neg k => by simp [roundAt]
  have hval : (if decide (integerOf n signed zero c z < 0) then -((integerOf n signed zero c z).natAbs : ℤ)
      else (integerOf n signed zero c z).natAbs) = integerOf n signed zero c z := by
    simp only [decide_eq_true_eq]
    split <;> omega
  have hr : roundInt (.ofInt (integerOf n signed zero c z)) f rm z =
      (let q : ℤ := integerOf n signed zero c z + if zero then (z : ℤ) else 0
       if q < integerLow n signed then ((integerLow n signed % 2 ^ n).toNat, fNV)
       else if integerHigh n signed < q then ((integerHigh n signed % 2 ^ n).toNat, fNV)
       else ((q % 2 ^ n).toNat, 0)) := by
    simp only [roundInt, Exact.ofInt, hn, hs, hob, hround, hval]; rfl
  have hbit : c.testBit (n - 1) = decide (2 ^ (n - 1) ≤ c) := by
    have hlt : c / 2 ^ (n - 1) < 2 := by
      rw [Nat.div_lt_iff_lt_mul (by positivity), ← two_pow_pred (by omega : 1 ≤ n)]
      exact hc
    have hone : 1 ≤ c / 2 ^ (n - 1) ↔ 2 ^ (n - 1) ≤ c := by rw [Nat.le_div_iff_mul_le (by positivity), one_mul]
    rw [Nat.testBit_eq_decide_div_mod_eq, decide_eq_decide, ← hone]
    generalize c / 2 ^ (n - 1) = t at hlt
    omega
  obtain ⟨q, hq, hl, hh, hm⟩ : ∃ q : ℤ, integerOf n signed zero c z + (if zero then (z : ℤ) else 0) = q
      ∧ integerLow n signed ≤ q ∧ q ≤ integerHigh n signed ∧ (q = c ∨ q = c - 2 ^ n) := by
    refine ⟨_, rfl, ?_⟩
    cases zero with
    | true =>
      obtain rfl := hzs rfl
      simp only [integerOf, integerLow, integerHigh, Bool.false_eq_true, if_true, if_false]
      omega
    | false =>
      cases signed with
      | false =>
        simp only [integerOf, integerLow, integerHigh, Bool.false_eq_true, false_and, if_false]
        omega
      | true =>
        have hcast : ((2 ^ (n - 1) : ℕ) : ℤ) = 2 ^ (n - 1) := by push_cast; rfl
        simp only [integerOf, integerLow, integerHigh, Bool.false_eq_true, true_and, if_true, if_false, hbit,
          decide_eq_true_eq]
        split <;> omega
  have hmod : (q % 2 ^ n).toNat = c := by
    have : q % 2 ^ n = (c : ℤ) % 2 ^ n := by
      rcases hm with rfl | rfl
      · rfl
      · rw [Int.sub_emod_right]
    rw [this, Int.emod_eq_of_lt (by omega) hc', Int.toNat_natCast]
  rw [hr, hq]
  dsimp only
  rw [if_neg (not_lt.2 hl), if_neg (not_lt.2 hh), hmod]

end

end Sys2Proof.Machine
end

section
/-! Obligation O20: decoding and rounding over every format, and exact arithmetic (R110–R118, R128, R129). -/

set_option Elab.async false

namespace Sys2Proof.Machine

/-! ## Every format -/

/-- A format of CVT is binary, tapered or an integer one. -/
inductive FormatKind (f : Nat) : Prop
  | binary (b : BinaryFormat) (h : binaryFormat f = some b)
  | tapered (n es : Nat) (h : taperedFormat f = some (n, es))
  | integer (n : Nat) (signed zero : Bool) (h : integerFormat f = some (n, signed, zero))

theorem formatKind {f : Nat} (h : f < 25) : FormatKind f := by
  have hkinds : ∀ g < 25, (binaryFormat g).isSome = true ∨ (taperedFormat g).isSome = true ∨ (integerFormat g).isSome = true := by
    decide
  rcases hkinds f h with hb | ht | hi
  · exact .binary _ (Option.some_get hb).symm
  · exact .tapered _ _ (Option.some_get ht).symm
  · exact .integer _ _ _ (Option.some_get hi).symm

theorem tapered_kinds {f n es : Nat} (h : taperedFormat f = some (n, es)) :
    isFp f = false ∧ isTap f = true ∧ binaryFormat f = none := by
  obtain ⟨h9, h13⟩ := taperedFormat_code h
  interval_cases f <;> exact ⟨rfl, rfl, rfl⟩

theorem formatWidth_tapered {f n es : Nat} (h : taperedFormat f = some (n, es)) : formatWidth f = n := by
  simp only [formatWidth, (tapered_kinds h).2.2, h]

theorem formatWidth_integer {f n : Nat} {signed zero : Bool} (h : integerFormat f = some (n, signed, zero)) :
    formatWidth f = n := by
  obtain ⟨-, -, -, -, -, hb, ht, -, -⟩ := integerFormat_of h
  simp only [formatWidth, hb, ht, h]

theorem valueOf_binary {f : Nat} {b : BinaryFormat} (h : binaryFormat f = some b) (c z : Nat) : valueOf f c z = b.value c := by
  simp only [valueOf, h]

theorem valueOf_tapered {f n es : Nat} (h : taperedFormat f = some (n, es)) (c z : Nat) :
    valueOf f c z = (tapValue n es c, false) := by
  simp only [valueOf, (tapered_kinds h).2.2, h]

/-- Decode, by the kind of the format. -/
theorem decodeElem_binary {f : Nat} {b : BinaryFormat} (h : binaryFormat f = some b) (c z : Nat) :
    decodeElem f c z = decodeFp f c := by
  simp only [decodeElem, (binaryFormat_of h).isFp, if_true]

theorem decodeElem_tapered {f n es : Nat} (h : taperedFormat f = some (n, es)) (c z : Nat) :
    decodeElem f c z = (decodeTap f c, 0) := by
  obtain ⟨h1, h2, -⟩ := tapered_kinds h
  simp only [decodeElem, h1, h2, if_true, Bool.false_eq_true, if_false]

/-- Decode gives the value of the code, and invalid where it is a signalling NaN (R110–R117). -/
theorem decodeElem_for {f c : Nat} (hf : f < 25) (hc : c < 2 ^ formatWidth f) (z : Nat) :
    (decodeElem f c z).1.For (valueOf f c z).1 ∧ (decodeElem f c z).2 = if (valueOf f c z).2 then fNV else 0 := by
  cases formatKind hf with
  | binary b h =>
    rw [decodeElem_binary h, valueOf_binary h]
    exact (binaryFormat_of h).decodeFp_for (formatWidth_binary h ▸ hc)
  | tapered n es h =>
    rw [decodeElem_tapered h, valueOf_tapered h]
    exact ⟨decodeTap_for h c, rfl⟩
  | integer n signed zero h =>
    rw [decodeElem_integer h (formatWidth_integer h ▸ hc), valueOf_integer h]
    exact ⟨Exact.ofInt_for _, rfl⟩

/-- RoundTo answers as the rules say; a rest is known only of numbers long enough for a binary format. The zero point is
one of the format where it has one. -/
theorem roundElem_rounded {f rm z : Nat} (hf : f < 25) (hrm : rm < 4) (sat : Bool) (hz : isOb f = true → z < 2 ^ formatWidth f)
    {y : Exact} {v : Value} (hv : y.For v)
    (hmore : ∀ s m e, y = .fin s m e true → ∃ b, binaryFormat f = some b ∧ 2 ^ (b.fracBits + 2) ≤ m) :
    Rounded f rm sat z v (roundElem y f rm sat z).1 (roundElem y f rm sat z).2 := by
  cases formatKind hf with
  | binary b h =>
    have hr : roundElem y f rm sat z = roundFp y f rm sat := by
      simp only [roundElem, (binaryFormat_of h).isFp, if_true]
    rw [hr]
    refine roundFp_rounded h hrm sat z hv fun s m e he => ?_
    obtain ⟨b', hb', hm⟩ := hmore s m e he
    rw [h] at hb'
    cases hb'
    exact hm
  | tapered n es h =>
    obtain ⟨h1, h2, h3⟩ := tapered_kinds h
    have hr : roundElem y f rm sat z = roundTap y f rm := by
      simp only [roundElem, h1, h2, if_true, Bool.false_eq_true, if_false]
    rw [hr]
    refine roundTap_rounded h hrm sat z hv fun s m e he => ?_
    obtain ⟨b, hb, -⟩ := hmore s m e he
    rw [h3] at hb
    cases hb
  | integer n signed zero h =>
    obtain ⟨-, -, hob, h1, h2, h3, -, -, -⟩ := integerFormat_of h
    have hr : roundElem y f rm sat z = roundInt y f rm z := by
      simp only [roundElem, h1, h2, Bool.false_eq_true, if_false]
    rw [hr]
    refine roundInt_rounded h sat (fun hzero => ?_) hv fun s m e he => ?_
    · rw [← formatWidth_integer h]
      exact hz (hob.trans hzero)
    · obtain ⟨b, hb, -⟩ := hmore s m e he
      rw [h3] at hb
      cases hb

theorem BinaryFormat.Of.finite_of_num {f : Nat} {b : BinaryFormat} (h : b.Of f) {neg : Bool} {g : Nat}
    (hg : g < 2 ^ (b.expBits + b.fracBits)) {s : Bool} {q : ℚ} (hv : (b.value (b.code neg g)).1 = .num s q) :
    g ≤ maxFinite f := by
  by_contra hlt
  rw [h.value_special neg (not_le.1 hlt) hg] at hv
  split at hv <;> cases hv

/-- A number that a format holds is its own rounding. -/
theorem roundElem_decodeElem {f c z : Nat} (hf : f < 25) (hc : c < 2 ^ formatWidth f) (rm : Nat) (sat : Bool) {s : Bool} {q : ℚ}
    (hv : (valueOf f c z).1 = .num s q) : roundElem (decodeElem f c z).1 f rm sat z = (c, 0) := by
  cases formatKind hf with
  | binary b h =>
    have hb := binaryFormat_of h
    rw [formatWidth_binary h] at hc
    obtain ⟨neg, g, hg, rfl⟩ := b.exists_code hc
    rw [valueOf_binary h] at hv
    have hfin := hb.finite_of_num hg hv
    rw [decodeElem_binary h, hb.decodeFp_finite neg hfin]
    simp only [roundElem, hb.isFp, if_true]
    exact hb.roundFp_magnitude hfin (hb.fpMagnitude_eq g) neg sat
  | tapered n es h =>
    obtain ⟨h1, h2, -⟩ := tapered_kinds h
    rw [valueOf_tapered h] at hv
    rw [decodeElem_tapered h]
    simp only [roundElem, h1, h2, if_true, Bool.false_eq_true, if_false]
    refine roundTap_decodeTap h (formatWidth_tapered h ▸ hc) fun hn => ?_
    rw [hn] at hv
    cases hv
  | integer n signed zero h =>
    obtain ⟨-, -, -, h1, h2, -, -, -, -⟩ := integerFormat_of h
    have hc' : c < 2 ^ n := formatWidth_integer h ▸ hc
    rw [decodeElem_integer h hc']
    simp only [roundElem, h1, h2, Bool.false_eq_true, if_false]
    exact roundInt_ofInt h hc' rm

/-! ## Exact arithmetic (R128, R129) -/

/-- An exact value without a rest. -/
def Exact.Whole (x : Exact) : Prop := ∀ s m e, x ≠ .fin s m e true

/-- An exact value without a rest that stands for a number. -/
theorem Exact.Whole.for_num {x : Exact} (hw : x.Whole) {s : Bool} {q : ℚ} (hx : x.For (.num s q)) :
    ∃ m e, x = .fin s m e false ∧ q = signedBy s (m * 2 ^ e) := by
  cases x with
  | nan => cases hx
  | inf t => cases hx
  | fin t m e more =>
    obtain rfl : more = false := Bool.eq_false_iff.2 fun hk => hw t m e (by rw [hk])
    obtain ⟨y, hy, hv⟩ := (Exact.fin_for_iff ..).1 hx
    cases hv
    exact ⟨m, e, rfl, by rw [show y = m * 2 ^ e from hy]⟩

theorem Exact.fin_for (s : Bool) (m : Nat) (e : Int) : (Exact.fin s m e false).For (.num s (signedBy s (m * 2 ^ e))) :=
  (Exact.fin_for_iff ..).2 ⟨_, rfl, rfl⟩

theorem signedBy_eq_zero (s : Bool) (m : Nat) (e : Int) : signedBy s (m * 2 ^ e) = 0 ↔ m = 0 := by
  have h2 : (2 : ℚ) ^ e ≠ 0 := by positivity
  cases s <;> simp [signedBy, h2]

theorem signedBy_natAbs (t : ℤ) : signedBy (decide (t < 0)) (t.natAbs : ℕ) = t := by
  rw [signedBy, Nat.cast_natAbs]
  rcases lt_or_ge t 0 with ht | ht
  · simp [ht, abs_of_neg ht]
  · simp [ht.not_gt, abs_of_nonneg ht]

/-- A signed magnitude at a lower exponent, as an integer. -/
theorem scaled_signedBy (s : Bool) (m : Nat) {e low : Int} (h : low ≤ e) :
    (((if s then -1 else 1) * (scaleTo m e low : ℤ) : ℤ) : ℚ) * 2 ^ low = signedBy s (m * 2 ^ e) := by
  rw [signedBy, ← scaleTo_cast m h]
  cases s <;> simp

section

variable {x y : Exact} {a b : Bool} {p q : ℚ} (hx : x.Whole) (hy : y.Whole) (hxp : x.For (.num a p)) (hyq : y.For (.num b q))
include hx hy hxp hyq

theorem Exact.add_for (rdn : Bool) : (x.add rdn y).1.For
    (.num (if p + q = 0 then (a && b) || (rdn && !(p == 0 && q == 0 && !a && !b)) else decide (p + q < 0)) (p + q)) := by
  obtain ⟨m, e, rfl, rfl⟩ := hx.for_num hxp
  obtain ⟨n, f, rfl, rfl⟩ := hy.for_num hyq
  have hsum : signedBy a (m * 2 ^ e) + signedBy b (n * 2 ^ f) = (((if a then -1 else 1) * (scaleTo m e (min e f) : ℤ)
      + (if b then -1 else 1) * (scaleTo n f (min e f) : ℤ) : ℤ) : ℚ) * 2 ^ min e f := by
    rw [Int.cast_add, add_mul, scaled_signedBy a m (min_le_left e f), scaled_signedBy b n (min_le_right e f)]
  have hm : (signedBy a (m * 2 ^ e) == 0) = (m == 0) := by
    rw [Bool.eq_iff_iff, beq_iff_eq, beq_iff_eq, signedBy_eq_zero]
  have hn : (signedBy b (n * 2 ^ f) == 0) = (n == 0) := by
    rw [Bool.eq_iff_iff, beq_iff_eq, beq_iff_eq, signedBy_eq_zero]
  have h2 : (0 : ℚ) < 2 ^ min e f := by positivity
  rw [hm, hn, hsum]
  simp only [Exact.add, Bool.or_false, mul_eq_zero, h2.ne', or_false, Int.cast_eq_zero, mul_neg_iff, h2, h2.not_gt, and_true,
    and_false, Int.cast_lt_zero, false_or]
  generalize (if a then -1 else 1) * (scaleTo m e (min e f) : ℤ) + (if b then -1 else 1) * (scaleTo n f (min e f) : ℤ) = t
  by_cases ht : t = 0
  · rw [if_pos ht, if_pos ht, ht, Int.cast_zero, zero_mul]
    exact (Exact.fin_for_iff ..).2 ⟨0, by simp [Exact.Mag], by simp [signedBy]⟩
  · rw [if_neg ht, if_neg ht]
    exact (Exact.fin_for_iff ..).2 ⟨_, rfl, by rw [← signedBy_mul, signedBy_natAbs]⟩

theorem Exact.mul_for : (x.mul y).1.For (.num (a != b) (p * q)) := by
  obtain ⟨m, e, rfl, rfl⟩ := hx.for_num hxp
  obtain ⟨n, f, rfl, rfl⟩ := hy.for_num hyq
  refine (Exact.fin_for_iff ..).2 ⟨m * n * 2 ^ (e + f), by simp [Exact.Mag], ?_⟩
  rw [Value.num.injEq, zpow_add₀ two_ne_zero]
  refine ⟨rfl, ?_⟩
  cases a <;> cases b <;> simp [signedBy] <;> ring

theorem Exact.div_for (hq : q ≠ 0) : (x.div y).1.For (.num (a != b) (p / q)) := by
  obtain ⟨m, e, rfl, rfl⟩ := hx.for_num hxp
  obtain ⟨n, f, rfl, rfl⟩ := hy.for_num hyq
  have hn : n ≠ 0 := fun h => hq ((signedBy_eq_zero ..).2 h)
  have hsign : signedBy a (m * 2 ^ e) / signedBy b (n * 2 ^ f) = signedBy (a != b) (m * 2 ^ e / (n * 2 ^ f)) := by
    cases a <;> cases b <;> simp [signedBy, neg_div, div_neg]
  rw [hsign]
  simp only [Exact.div, if_neg hn]
  by_cases hm : m = 0
  · simp only [hm]
    exact (Exact.fin_for_iff ..).2 ⟨0, by simp [Exact.Mag], by simp⟩
  · simp only [if_neg hm]
    refine (Exact.fin_for_iff ..).2 ⟨_, ?_, rfl⟩
    generalize hk : 200 + Nat.log2 n = k
    have hdiv : ((m * 2 ^ k / n : ℕ) : ℚ) * n + (m * 2 ^ k % n : ℕ) = m * 2 ^ k := by
      exact_mod_cast Nat.div_add_mod' (m * 2 ^ k) n
    have hr := Nat.mod_lt (m * 2 ^ k) (Nat.pos_of_ne_zero hn)
    have hn' : (0 : ℚ) < n := by positivity
    have hscale : (m : ℚ) * 2 ^ e / (n * 2 ^ f) = (m * 2 ^ k) / n * 2 ^ (e - f - k : ℤ) := by
      rw [zpow_sub₀ two_ne_zero, zpow_sub₀ two_ne_zero, zpow_natCast]
      field_simp
    have h2 : (0 : ℚ) < 2 ^ (e - f - k : ℤ) := by positivity
    rw [hscale, ← hdiv]
    generalize m * 2 ^ k / n = d at *
    generalize m * 2 ^ k % n = r at *
    by_cases hr0 : r = 0
    · simp [hr0, Exact.Mag, hn'.ne']
    · have hr1 : (r : ℚ) < n := Nat.cast_lt.2 hr
      have hr2 : (0 : ℚ) < r := by positivity
      simp only [bne_iff_ne, ne_eq, hr0, not_false_eq_true, Exact.Mag, if_true]
      rw [mul_lt_mul_iff_left₀ h2, mul_lt_mul_iff_left₀ h2, lt_div_iff₀ hn', div_lt_iff₀ hn']
      constructor <;> linarith

end

/-- Settles O20: decoding and rounding by the kind of the format, and sums, products and quotients of exact values. -/
theorem numberFormats : Obligations.NumberFormats := by
  unfold Obligations.NumberFormats
  refine ⟨fun f hf c hc z => decodeElem_for hf hc z,
    fun f hf rm hrm sat z hz y v hv hmore => roundElem_rounded hf hrm sat (fun _ => hz) hv hmore,
    fun f hf c hc rm hrm sat z hz ⟨s, q, hv⟩ => roundElem_decodeElem hf hc rm sat hv, ?_⟩
  intro x y a b p q hx hy hw
  have hxw : x.Whole := fun s m e => (hw s m e).1
  have hyw : y.Whole := fun s m e => (hw s m e).2
  exact ⟨Exact.add_for hxw hyw hx hy, Exact.mul_for hxw hyw hx hy, Exact.div_for hxw hyw hx hy⟩

end Sys2Proof.Machine
end

section
/-! Obligation O21: CVT (R121, R124–R126). -/

set_option Elab.async false

namespace Sys2Proof.Machine

/-! ## Where the elements of a group lie (R109, R121) -/

/-- The layout of a format in registers: FP64 takes a pair, FP19 a container, every other as many elements as a register
holds whole. -/
theorem formatLayout : ∀ f < 25, codeBits f = formatWidth f ∧ (f ≠ 1 → regBits f = formatWidth f)
    ∧ (f ≠ 20 → elemsPerReg2 f = 2 * (32 / formatWidth f) ∧ 1 ≤ 32 / formatWidth f
        ∧ 32 / formatWidth f * formatWidth f ≤ 32)
    ∧ (formatWidth f ∈ [3, 6] → 32 / formatWidth f * formatWidth f = 30) := by
  decide

theorem cvtG_eq {sf df : Nat} (hs : sf < 25) (hd : df < 25) : cvtG sf df = cvtCount sf df := by
  have two : ∀ f < 25, max (elemsPerReg2 f) 2 = 2 * max (32 / formatWidth f) 1 := by decide
  have h1 := two sf hs
  have h2 := two df hd
  unfold cvtG cvtGroup2 cvtCount
  omega

theorem Exact.fin_whole (s : Bool) (m : Nat) (e : Int) : (Exact.fin s m e false).Whole := fun _ _ _ h => by cases h
theorem Exact.nan_whole : Exact.nan.Whole := fun _ _ _ h => by cases h
theorem Exact.inf_whole (s : Bool) : (Exact.inf s).Whole := fun _ _ _ h => by cases h

theorem decodeFp_whole (f c : Nat) : (decodeFp f c).1.Whole := by
  unfold decodeFp
  dsimp only
  split
  · exact Exact.inf_whole _
  · split
    · exact Exact.nan_whole
    · exact Exact.fin_whole _ _ _

theorem decodeTap_whole (f c : Nat) : (decodeTap f c).Whole := by
  unfold decodeTap
  dsimp only
  split
  · split
    · exact Exact.nan_whole
    · exact Exact.fin_whole _ _ _
  · exact Exact.fin_whole _ _ _

/-- A code stands for a number without a rest. -/
theorem decodeElem_whole (f c z : Nat) : (decodeElem f c z).1.Whole := by
  unfold decodeElem
  split
  · exact decodeFp_whole f c
  · split
    · exact decodeTap_whole f c
    · split
      · exact Exact.fin_whole _ _ _
      · split <;> exact Exact.fin_whole _ _ _

/-- The code that the model reads is the element of the group. -/
theorem codeOfStored_groupElem {f : Nat} (hf : f < 25) (w : Warp) (a : Fin 64) (g : Nat) (l : Fin 32) :
    codeOfStored f (groupElem w a f g l) = elementAt w a f g l := by
  obtain ⟨hcode, hreg, hper, -⟩ := formatLayout f hf
  by_cases h20 : f = 20
  · subst h20
    have : codeOfStored 20 (groupElem w a 20 g l) = (w.pair (regAt a (2 * g)) l).toNat % 2 ^ 64 := rfl
    rw [this, Nat.mod_eq_of_lt (w.pair (regAt a (2 * g)) l).isLt]
    simp only [Warp.pair, regAt_regAt]
    rfl
  by_cases h1 : f = 1
  · subst h1
    have hlt := (w.v[regAt a g][l]).isLt
    have hread : groupElem w a 1 g l = (w.v[regAt a (g / 1)][l]).toNat / 2 ^ (g % 1 * 32) % 2 ^ 32 := rfl
    have helem : elementAt w a 1 g l = (w.v[regAt a g][l]).toNat / 2 ^ 13 := rfl
    simp only [hread, helem, Nat.div_one, Nat.mod_one, codeOfStored, if_true]
    omega
  · obtain ⟨hpr, -, -⟩ := hper h20
    have hspot : elemSpot f g = (g / (32 / formatWidth f), g % (32 / formatWidth f) * formatWidth f) := by
      simp only [elemSpot, h20, if_false, hpr, hreg h1, Nat.mul_div_cancel_left _ two_pos]
    simp only [codeOfStored, groupElem, elementAt, h20, h1, if_false, hspot, hreg h1, hcode, Nat.mod_mod, Nat.mul_comm (formatWidth f)]

theorem elementAt_lt {f : Nat} (hf : f < 25) (w : Warp) (a : Fin 64) (g : Nat) (l : Fin 32) :
    elementAt w a f g l < 2 ^ formatWidth f := by
  unfold elementAt
  dsimp only
  split
  next h => subst h; exact BitVec.isLt _
  next h =>
    split
    next h1 =>
      subst h1
      have := (w.v[regAt a g][l]).isLt
      show _ < 2 ^ 19
      omega
    next h1 => exact Nat.mod_lt _ (by positivity)

/-! ## Packing -/

/-- Codes of one width, each above the one before. -/
def packed (w : Nat) (c : Nat → Nat) (n : Nat) : Nat := ((List.range n).map fun j => c j * 2 ^ (j * w)).sum

theorem packed_succ (w : Nat) (c : Nat → Nat) (n : Nat) : packed w c (n + 1) = packed w c n + c n * 2 ^ (n * w) := by
  simp [packed, List.range_succ]

theorem packed_lt {w : Nat} {c : Nat → Nat} (hc : ∀ j, c j < 2 ^ w) (n : Nat) : packed w c n < 2 ^ (n * w) := by
  induction n with
  | zero => simp [packed]
  | succ n ih =>
    rw [packed_succ, Nat.add_mul, one_mul, pow_add]
    have := Nat.mul_le_mul_right (2 ^ (n * w)) (hc n)
    rw [Nat.succ_mul, Nat.mul_comm (2 ^ w)] at this
    omega

/-- Each code is found again at its place. -/
theorem packed_element {w : Nat} {c : Nat → Nat} (hc : ∀ j, c j < 2 ^ w) {n j : Nat} (hj : j < n) :
    packed w c n / 2 ^ (w * j) % 2 ^ w = c j := by
  induction n with
  | zero => omega
  | succ n ih =>
    rw [packed_succ]
    rcases Nat.lt_or_eq_of_le (Nat.le_of_lt_succ hj) with hlt | rfl
    · obtain ⟨i, rfl⟩ : ∃ i, n = j + 1 + i := ⟨n - (j + 1), by omega⟩
      have hp : c (j + 1 + i) * 2 ^ ((j + 1 + i) * w) = 2 ^ (w * j) * (2 ^ w * (c (j + 1 + i) * 2 ^ (i * w))) := by ring
      rw [hp, Nat.add_mul_div_left _ _ (by positivity), Nat.add_mul_mod_self_left]
      exact ih hlt
    · have := packed_lt hc j
      rw [Nat.mul_comm w, Nat.add_mul_div_right _ _ (by positivity), Nat.div_eq_of_lt this, zero_add,
        Nat.mod_eq_of_lt (hc j)]

section

variable {codes : List Nat}

/-- A register of whole elements, as a number. -/
theorem packReg_toNat {f : Nat} (hf : f < 25) (h20 : f ≠ 20) (h1 : f ≠ 1) (hc : ∀ j, codes.getD j 0 < 2 ^ formatWidth f)
    (k : Nat) : (packReg f codes k).toNat
      = packed (formatWidth f) (fun j => codes.getD (k * (32 / formatWidth f) + j) 0) (32 / formatWidth f) := by
  obtain ⟨-, hreg, hper, -⟩ := formatLayout f hf
  obtain ⟨hpr, -, hle⟩ := hper h20
  have hlt := packed_lt (c := fun j => codes.getD (k * (32 / formatWidth f) + j) 0) (fun j => hc _) (32 / formatWidth f)
  simp only [packReg, h20, if_false, hpr, Nat.mul_div_cancel_left _ two_pos, storedOfCode, h1, hreg h1]
  rw [BitVec.toNat_ofNat]
  exact Nat.mod_eq_of_lt (hlt.trans_le (Nat.pow_le_pow_right two_pos hle))

/-- A container of FP19. -/
theorem packReg_container (hc : ∀ j, codes.getD j 0 < 2 ^ formatWidth 1) (k : Nat) :
    (packReg 1 codes k).toNat = codes.getD k 0 * 2 ^ 13 := by
  have hk : codes.getD k 0 < 2 ^ 19 := hc k
  have hreg : packReg 1 codes k = BitVec.ofNat 32 (codes.getD (k * 1 + 0) 0 * 2 ^ 13 * 2 ^ (0 * 32) + 0) := rfl
  rw [hreg, BitVec.toNat_ofNat, Nat.mul_one, Nat.add_zero, Nat.zero_mul, pow_zero, Nat.mul_one, Nat.add_zero]
  omega

/-- The halves of an FP64 element. -/
theorem packReg_pair (hc : ∀ j, codes.getD j 0 < 2 ^ formatWidth 20) (g : Nat) :
    (packReg 20 codes (2 * g + 1) ++ packReg 20 codes (2 * g)).toNat = codes.getD g 0 := by
  have hg : codes.getD g 0 < 2 ^ 64 := hc g
  have hlow : packReg 20 codes (2 * g) = BitVec.ofNat 32 (codes.getD (2 * g / 2) 0 / 2 ^ (32 * (2 * g % 2))) := rfl
  have hhigh : packReg 20 codes (2 * g + 1) = BitVec.ofNat 32 (codes.getD ((2 * g + 1) / 2) 0 / 2 ^ (32 * ((2 * g + 1) % 2))) :=
    rfl
  rw [toNat_append_eq_add, hlow, hhigh, show 2 * g / 2 = g by omega, show 2 * g % 2 = 0 by omega,
    show (2 * g + 1) / 2 = g by omega, show (2 * g + 1) % 2 = 1 by omega, BitVec.toNat_ofNat, BitVec.toNat_ofNat]
  omega

/-- The elements of a group of registers that was packed are its codes. -/
theorem elementAt_packReg {f : Nat} (hf : f < 25) (hc : ∀ j, codes.getD j 0 < 2 ^ formatWidth f) {w : Warp} {d : Fin 64}
    {l : Fin 32} {n g : Nat} (hw : ∀ k < n, w.v[regAt d k][l] = packReg f codes k)
    (hg : if f = 20 then 2 * g + 1 < n else g / (32 / formatWidth f) < n) : elementAt w d f g l = codes.getD g 0 := by
  by_cases h20 : f = 20
  · subst h20
    have h1 := hw (2 * g + 1) hg
    have h2 := hw (2 * g) (by simp at hg; omega)
    simp only [elementAt, if_true, h1, h2]
    exact packReg_pair hc g
  rw [if_neg h20] at hg
  by_cases h1 : f = 1
  · subst h1
    have hg' : g / 1 < n := hg
    rw [Nat.div_one] at hg'
    have h2 := hw g hg'
    simp only [elementAt, h20, if_true, if_false, h2, packReg_container hc]
    exact Nat.mul_div_cancel _ (by decide)
  · have hpos : 0 < 32 / formatWidth f := ((formatLayout f hf).2.2.1 h20).2.1
    have h2 := hw _ hg
    simp only [elementAt, h20, h1, if_false, h2, packReg_toNat hf h20 h1 hc]
    rw [packed_element (c := fun j => codes.getD (g / (32 / formatWidth f) * (32 / formatWidth f) + j) 0) (fun j => hc _)
      (Nat.mod_lt g hpos)]
    rw [Nat.div_add_mod']

/-- Unused bits are zero. -/
theorem packReg_unused {f : Nat} (hf : f < 25) (hc : ∀ j, codes.getD j 0 < 2 ^ formatWidth f) (k : Nat) :
    (f = 1 → (packReg f codes k).toNat % 2 ^ 13 = 0) ∧ (formatWidth f ∈ [3, 6] → (packReg f codes k).toNat < 2 ^ 30) := by
  constructor
  · rintro rfl
    rw [packReg_container hc]
    exact Nat.mul_mod_left _ _
  · intro hw
    have h20 : f ≠ 20 := by rintro rfl; revert hw; decide
    have h1 : f ≠ 1 := by rintro rfl; revert hw; decide
    rw [packReg_toNat hf h20 h1 hc, ← (formatLayout f hf).2.2.2 hw]
    exact packed_lt (fun j => hc _) _

end

/-! ## The conversion -/

/-- The zero point of an offset-binary format is one of its codes (R124). -/
theorem zeroPoint_lt {h : Hints} {sf df : Nat} (hh : cvtHints h sf df = true) (hd : df < 25) (hob : isOb df = true) :
    zeroPoint h df < 2 ^ formatWidth df := by
  simp only [cvtHints, Bool.and_eq_true, hob, Bool.not_true, Bool.false_or, decide_eq_true_eq] at hh
  rw [← (formatLayout df hd).1]
  exact hh.1.2

/-- An element of the source, decoded and rounded to the format of the destination. -/
def cvtElem (h : Hints) (sf df rm : Nat) (sat : Bool) (c : Nat) : Nat × BitVec 5 :=
  roundElem (decodeElem sf c (zeroPoint h sf)).1 df rm sat (zeroPoint h df)

theorem cvtElem_rounded {h : Hints} {sf df rm : Nat} (hh : cvtHints h sf df = true) (hs : sf < 25) (hd : df < 25) (hrm : rm < 4)
    (sat : Bool) {c : Nat} (hc : c < 2 ^ formatWidth sf) : Rounded df rm sat (zeroPoint h df) (valueOf sf c (zeroPoint h sf)).1
      (cvtElem h sf df rm sat c).1 (cvtElem h sf df rm sat c).2 :=
  roundElem_rounded hd hrm sat (zeroPoint_lt hh hd) (decodeElem_for hs hc _).1 fun s m e he =>
    absurd he (decodeElem_whole sf c _ s m e)

/-- The converted group: the codes of its elements, and what decoding and rounding them raise. -/
theorem cvtGroup_eq {sf df : Nat} (hs : sf < 25) (hd : df < 25) (w : Warp) (a : Fin 64) (rm : Nat) (sat : Bool) (l : Fin 32) :
    cvtGroup w a sf df rm sat l =
      ((List.range (cvtCount sf df)).map fun g => (cvtElem w.frag.hints sf df rm sat (elementAt w a sf g l)).1,
       orFlags ((List.range (cvtCount sf df)).map fun g => (cvtElem w.frag.hints sf df rm sat (elementAt w a sf g l)).2 |||
         if (valueOf sf (elementAt w a sf g l) (zeroPoint w.frag.hints sf)).2 then fNV else 0)) := by
  have hflag : ∀ g, (decodeElem sf (elementAt w a sf g l) (zeroPoint w.frag.hints sf)).2 =
      if (valueOf sf (elementAt w a sf g l) (zeroPoint w.frag.hints sf)).2 then fNV else 0 := fun g =>
    (decodeElem_for hs (elementAt_lt hs w a g l) _).2
  simp only [cvtGroup, cvtG_eq hs hd, codeOfStored_groupElem hs, List.map_map, Function.comp_def, cvtElem, hflag,
    BitVec.or_comm]

theorem orFlags_cons (f : BitVec 5) (fs : List (BitVec 5)) : orFlags (f :: fs) = f ||| orFlags fs := by
  have h := foldl_or_eq_orFlags (fun x : BitVec 5 => x) fs f
  rw [List.map_id'] at h
  rw [← h, orFlags, List.foldl_cons, show (0 : BitVec 5) ||| f = f from BitVec.zero_or]

theorem orFlags_append (fs gs : List (BitVec 5)) : orFlags (fs ++ gs) = orFlags fs ||| orFlags gs := by
  induction fs with
  | nil => exact BitVec.zero_or.symm
  | cons f fs ih => rw [List.cons_append, orFlags_cons, orFlags_cons, ih, BitVec.or_assoc]

/-- Conditions raised in groups are the conditions raised. -/
theorem orFlags_flatMap {α : Type} (xs : List α) (g : α → List (BitVec 5)) :
    orFlags (xs.flatMap g) = orFlags (xs.map fun x => orFlags (g x)) := by
  induction xs with
  | nil => rfl
  | cons x xs ih => rw [List.flatMap_cons, List.map_cons, orFlags_append, orFlags_cons, ih]

theorem orFlags_groups {α β : Type} (xs : List α) (ys : List β) (g : α → β → List (BitVec 5)) :
    orFlags (xs.flatMap fun x => ys.flatMap fun y => g x y) =
      orFlags (xs.flatMap fun x => ys.map fun y => orFlags (g x y)) := by
  rw [orFlags_flatMap, orFlags_flatMap]
  simp only [orFlags_flatMap ys]

theorem inMask_of_mem_lanesOf {m : Word32} {l : Fin 32} (h : l ∈ lanesOf m) : inMask m l = true :=
  (List.mem_filter.1 h).2

section

variable {h : Hints} {d a : Fin 64} {sf df : Fin 32}

/-- What R124 asks of the operands. -/
theorem cvtLegal_parts (hl : cvtLegal d a sf df = true) : sf.val < 25 ∧ df.val < 25
    ∧ cvtGroup2 sf df % elemsPerReg2 df = 0 ∧ d.val + cvtRegs sf df df ≤ 64 := by
  simp only [cvtLegal, Bool.and_eq_true, decide_eq_true_eq, beq_iff_eq] at hl
  obtain ⟨⟨⟨⟨⟨⟨⟨⟨⟨h1, h2⟩, -⟩, h3⟩, -⟩, -⟩, -⟩, h4⟩, -⟩, -⟩ := hl
  exact ⟨by omega, by omega, h3, h4⟩

/-- A block converts register to register (R124). -/
theorem cvtHints_block (hh : cvtHints h sf df = true) (hb : h.hblk ≠ none) : cvtRegs sf df df = 1 := by
  simp only [cvtHints, Bool.and_eq_true, Bool.or_eq_true, Option.isNone_iff_eq_none, hb, false_or, beq_iff_eq] at hh
  exact hh.2.2

/-- The registers of the destination are distinct. -/
theorem cvt_dests_nodup (hl : cvtLegal d a sf df = true) (hh : cvtHints h sf df = true) (hf : h.blockFits 1 d = true) :
    (blockRegs d (h.elems 1) (cvtRegs sf df df)).Nodup := by
  obtain ⟨-, -, -, hfit⟩ := cvtLegal_parts hl
  by_cases hb : h.hblk = none
  · have he : h.elems 1 = [0] := by simp [Hints.elems, hb]
    have hregs : blockRegs d [0] (cvtRegs sf df df) = (List.range (cvtRegs sf df df)).map fun k => Reg.v (regAt d k) := by
      simp [blockRegs]
    rw [he, hregs]
    exact nodup_regs d _ List.nodup_range fun k hk => by have := List.mem_range.1 hk; omega
  · exact blockRegs_nodup h d 1 _ (.inl rfl) (.inl (cvtHints_block hh hb)) hf

/-- Every element of the group has its registers. -/
theorem cvt_element_fits (hl : cvtLegal d a sf df = true) {g : Nat} (hg : g < cvtCount sf df) :
    if df.val = 20 then 2 * g + 1 < cvtRegs sf df df else g / (32 / formatWidth df) < cvtRegs sf df df := by
  obtain ⟨hs, hd, hdiv, -⟩ := cvtLegal_parts hl
  rw [← cvtG_eq hs hd, cvtG] at hg
  have hregs : cvtRegs sf df df * elemsPerReg2 df = cvtGroup2 sf df := Nat.div_mul_cancel (Nat.dvd_of_mod_eq_zero hdiv)
  split
  next h20 =>
    have : elemsPerReg2 df = 1 := by rw [h20]; rfl
    rw [this] at hregs
    omega
  next h20 =>
    obtain ⟨hpr, hpos, -⟩ := (formatLayout df hd).2.2.1 h20
    rw [hpr] at hregs
    rw [Nat.div_lt_iff_lt_mul hpos]
    generalize 32 / formatWidth df = e at *
    rw [show cvtRegs sf df df * (2 * e) = 2 * (cvtRegs sf df df * e) by ring] at hregs
    omega

end

section

variable {s : State} {d a : Fin 64} {sf df : Fin 32} {r : Fin 4} {u : Bool}

/-- The writes of a conversion. -/
def cvtWrites (s : State) (d a : Fin 64) (sf df : Fin 32) (r : Fin 4) (u : Bool) : List RegWrite :=
  (s.warp.frag.hints.elems 1).flatMap fun o => (List.range (cvtRegs sf df df)).map fun k =>
    .v (regAt d (o + k)) s.warp.active (lanes32 fun l =>
      packReg df (if inMask s.warp.active l then cvtGroup s.warp (regAt a o) sf df r u l else ([], 0)).1 k)

theorem cvtWrites_regs : (cvtWrites s d a sf df r u).map RegWrite.reg =
    blockRegs d (s.warp.frag.hints.elems 1) (cvtRegs sf df df) := by
  simp [cvtWrites, blockRegs, List.map_flatMap, Function.comp_def, RegWrite.reg]

/-- The conditions that a conversion raises, element by element. -/
def cvtFlags (s : State) (a : Fin 64) (sf df : Fin 32) (r : Fin 4) (u : Bool) : BitVec 5 :=
  orFlags ((s.warp.frag.hints.elems 1).flatMap fun o => (lanesOf s.warp.active).map fun l =>
    (if inMask s.warp.active l then cvtGroup s.warp (regAt a o) sf df r u l else ([], 0)).2)

/-- A conversion that is ready and reads no poison. -/
theorem exec_cvt_eq {x : Bool} (hl : cvtLegal d a sf df = true) (hh : cvtHints s.warp.frag.hints sf df = true)
    (hd : s.warp.frag.hints.blockFits 1 d = true) (ha : s.warp.frag.hints.blockFits 1 a = true)
    (hr : s.Ready { himm := true, hblk := true, dests := blockRegs d (s.warp.frag.hints.elems 1) (cvtRegs sf df df)
                    srcs := (blockRegs a (s.warp.frag.hints.elems 1) (cvtRegs sf df sf)).map fun q => (q, x) })
    (hp : s.warp.poisonIn (blockRegs a (s.warp.frag.hints.elems 1) (cvtRegs sf df sf)) &&& s.warp.active = 0) :
    exec (.cvt d a sf df r u x) s = .next (s.finish (cvtWrites s d a sf df r u) (cvtFlags s a sf df r u)).advance := by
  have hlegal : (cvtLegal d a sf df && cvtHints s.warp.frag.hints sf df && s.warp.frag.hints.blockFits 1 d
      && s.warp.frag.hints.blockFits 1 a) = true := by simp [hl, hh, hd, ha]
  show execCvt d a sf df r u x s = _
  unfold execCvt
  dsimp only
  have hact : s.warp.active &&& ~~~(0 : Word32) = s.warp.active := BitVec.and_allOnes
  rw [State.issue_ready (hr.of_legal hlegal), hp, hact]
  rfl

/-- The code that a conversion gives element `g` of a lane. -/
def cvtCode (s : State) (a : Fin 64) (sf df : Fin 32) (r : Fin 4) (u : Bool) (o : Nat) (l : Fin 32) (g : Nat) :
    Nat × BitVec 5 :=
  cvtElem s.warp.frag.hints sf df r u (elementAt s.warp (regAt a o) sf g l)

theorem cvtCode_rounded (hl : cvtLegal d a sf df = true) (hh : cvtHints s.warp.frag.hints sf df = true) (o : Nat) (l : Fin 32)
    (g : Nat) : Rounded df r u (zeroPoint s.warp.frag.hints df)
      (valueOf sf (elementAt s.warp (regAt a o) sf g l) (zeroPoint s.warp.frag.hints sf)).1
      (cvtCode s a sf df r u o l g).1 (cvtCode s a sf df r u o l g).2 := by
  obtain ⟨hs, hd, -, -⟩ := cvtLegal_parts hl
  exact cvtElem_rounded hh hs hd r.isLt u (elementAt_lt hs ..)

/-- The codes of a lane's group. -/
def cvtCodes (s : State) (a : Fin 64) (sf df : Fin 32) (r : Fin 4) (u : Bool) (o : Nat) (l : Fin 32) : List Nat :=
  (List.range (cvtCount sf df)).map fun g => (cvtCode s a sf df r u o l g).1

theorem cvtCodes_getD {o : Nat} {l : Fin 32} {g : Nat} (hg : g < cvtCount sf df) :
    (cvtCodes s a sf df r u o l).getD g 0 = (cvtCode s a sf df r u o l g).1 := by
  rw [List.getD_eq_getElem _ _ (by simpa [cvtCodes] using hg)]
  simp [cvtCodes]

theorem cvtCodes_lt (hl : cvtLegal d a sf df = true) (hh : cvtHints s.warp.frag.hints sf df = true) (o : Nat) (l : Fin 32)
    (j : Nat) : (cvtCodes s a sf df r u o l).getD j 0 < 2 ^ formatWidth df := by
  rcases Nat.lt_or_ge j (cvtCount sf df) with hj | hj
  · rw [cvtCodes_getD hj]
    exact (cvtCode_rounded hl hh o l j).1
  · rw [List.getD_eq_default _ _ (by simpa [cvtCodes] using hj)]
    positivity

/-- A register of the destination after a conversion. -/
theorem cvt_holds (hp : s.Prompt) (hl : cvtLegal d a sf df = true) (hh : cvtHints s.warp.frag.hints sf df = true)
    (hd : s.warp.frag.hints.blockFits 1 d = true) {o k : Nat} (ho : o ∈ s.warp.frag.hints.elems 1)
    (hk : k < cvtRegs sf df df) (flags : BitVec 5) :
    let t := (s.finish (cvtWrites s d a sf df r u) flags).advance
    t.warp.full (.v (regAt d (o + k))) = true ∧ ∀ l : Fin 32, t.warp.v[regAt d (o + k)][l] =
      if s.warp.active[l] then packReg df (cvtCodes s a sf df r u o l) k else s.warp.v[regAt d (o + k)][l] := by
  obtain ⟨hs, hdf, -, -⟩ := cvtLegal_parts hl
  obtain ⟨-, -, -, hholds⟩ := State.finish_written hp (cvtWrites s d a sf df r u) flags
  have hv := hholds (cvtWrites_regs ▸ cvt_dests_nodup hl hh hd) (regAt d (o + k)) _ _
    (List.mem_flatMap.2 ⟨o, ho, List.mem_map.2 ⟨k, List.mem_range.2 hk, rfl⟩⟩)
  refine ⟨hv.full, fun l => (hv.value l).trans ?_⟩
  rw [inMask_eq_getElem]
  refine if_ctx_congr Iff.rfl (fun hact => ?_) fun _ => rfl
  have hin : inMask s.warp.active l = true := (inMask_eq_getElem ..).trans hact
  refine (Vector.getElem_ofFn l.isLt).trans ?_
  rw [if_pos hin, cvtGroup_eq hs hdf]
  rfl

theorem cvtFlags_eq (hl : cvtLegal d a sf df = true) : cvtFlags s a sf df r u =
    orFlags ((s.warp.frag.hints.elems 1).flatMap fun o => (lanesOf s.warp.active).flatMap fun l =>
      (List.range (cvtCount sf df)).map fun g => (cvtCode s a sf df r u o l g).2 |||
        if (valueOf sf (elementAt s.warp (regAt a o) sf g l) (zeroPoint s.warp.frag.hints sf)).2 then fNV else 0) := by
  obtain ⟨hs, hd, -, -⟩ := cvtLegal_parts hl
  rw [orFlags_groups, cvtFlags]
  congr 2
  funext o
  refine List.map_congr_left fun l hm => ?_
  rw [if_pos (inMask_of_mem_lanesOf hm), cvtGroup_eq hs hd]
  rfl

end

/-- Settles O21: the destination registers hold the packed codes, in which each element is found again. -/
theorem conversions : Obligations.Conversions := by
  unfold Obligations.Conversions
  intro s d a sf df r u x h offs ns nd legal n
  refine ⟨fun _ hl hh => ?_, fun hp hr hlegal hc => ?_⟩
  · show Traps s (execCvt d a sf df r u x s) .illenc
    unfold execCvt
    refine State.issue_traps hh (s.gate_illegal ?_ ?_) _
    · rfl
    · exact hl
  · simp only [legal, Bool.and_eq_true] at hlegal
    obtain ⟨⟨⟨hl, hh⟩, hd⟩, ha⟩ := hlegal
    obtain ⟨hs, hdf, -, -⟩ := cvtLegal_parts hl
    have hholds : ∀ o ∈ offs, ∀ k < nd, _ := fun o ho k hk =>
      cvt_holds (r := r) (u := u) hp hl hh hd ho hk (cvtFlags s a sf df r u)
    refine ⟨_, fun o l g => (cvtCode s a sf df r u o l g).2, exec_cvt_eq hl hh hd ha hr hc, ?_, fun o ho l hact g hg => ?_,
      fun o ho k hk => ?_, ?_⟩
    · have hdid := State.finish_advance_did hp (cvtWrites s d a sf df r u) (cvtFlags s a sf df r u)
      rwa [cvtWrites_regs] at hdid
    · have hcode : elementAt (s.finish (cvtWrites s d a sf df r u) (cvtFlags s a sf df r u)).advance.warp (regAt d o) df g l =
          (cvtCode s a sf df r u o l g).1 := by
        rw [← cvtCodes_getD hg]
        refine elementAt_packReg hdf (cvtCodes_lt hl hh o l) (fun k hk => ?_) (cvt_element_fits hl hg)
        have hv := (hholds o ho k hk).2 l
        rw [if_pos hact] at hv
        simpa only [regAt_regAt] using hv
      rw [hcode]
      exact cvtCode_rounded hl hh o l g
    · obtain ⟨hfull, hv⟩ := hholds o ho k hk
      refine ⟨hfull, fun l => ?_⟩
      rw [hv l]
      split
      next hact => exact packReg_unused hdf (cvtCodes_lt hl hh o l) k
      next hact => rfl
    · refine Eq.trans ?_ (congrArg (s.warp.fpflags ||| ·) (cvtFlags_eq hl))
      rw [State.finish_prompt hp]
      rfl

end Sys2Proof.Machine
end

section
/-! Exact operations over the values of the rules (R128, R129), and the floating-point operations that round once. -/

set_option Elab.async false

namespace Sys2Proof.Machine

/-! ## Exact operations over values (R128, R129) -/

/-- Invalid where an operation gives a NaN that none of its operands is. -/
def invalidOf (y : Value) (args : List Value) : BitVec 5 := if y = .nan ∧ .nan ∉ args then fNV else 0

theorem invalidOf_nan_mem {y : Value} {args : List Value} (h : .nan ∈ args) : invalidOf y args = 0 :=
  if_neg fun hc => hc.2 h

theorem invalidOf_ne_nan {y : Value} (h : y ≠ .nan) (args : List Value) : invalidOf y args = 0 := if_neg fun hc => h hc.1

theorem Exact.add_fin_flags (rdn s t : Bool) (m n : Nat) (e f : Int) (j k : Bool) :
    (Exact.add rdn (.fin s m e j) (.fin t n f k)).2 = 0 := by
  simp only [Exact.add]
  rw [apply_ite Prod.snd, ite_self]

theorem Exact.add_fin_whole (rdn s t : Bool) (m n : Nat) (e f : Int) :
    (Exact.add rdn (.fin s m e false) (.fin t n f false)).1.Whole := by
  simp only [Exact.add]
  rw [apply_ite Prod.fst]
  exact iteInduction (motive := Exact.Whole) (fun _ => Exact.fin_whole _ _ _) fun _ => Exact.fin_whole _ _ _

theorem Exact.zero_for (s : Bool) : (Exact.zero s).For (.num s 0) :=
  (Exact.fin_for_iff ..).2 ⟨0, by simp [Exact.Mag], by simp [signedBy]⟩

/-- The division by zero of a quotient. -/
def divZeroOf (v w : Value) : BitVec 5 :=
  match v, w with | .num _ p, .num _ q => if p ≠ 0 ∧ q = 0 then fDZ else 0 | _, _ => 0

theorem divZeroOf_nan_left (w : Value) : divZeroOf .nan w = 0 := by cases w <;> rfl
theorem divZeroOf_nan_right (v : Value) : divZeroOf v .nan = 0 := by cases v <;> rfl
theorem divZeroOf_inf_left (s : Bool) (w : Value) : divZeroOf (.inf s) w = 0 := by cases w <;> rfl
theorem divZeroOf_inf_right (v : Value) (t : Bool) : divZeroOf v (.inf t) = 0 := by cases v <;> rfl
theorem divZeroOf_num (s t : Bool) (p q : ℚ) : divZeroOf (.num s p) (.num t q) = if p ≠ 0 ∧ q = 0 then fDZ else 0 := rfl

/-- The bits of a quotient before its rest. -/
theorem two_pow_le_quotient {m n : Nat} (hm : m ≠ 0) (hn : n ≠ 0) : 2 ^ 199 ≤ m * 2 ^ (200 + Nat.log2 n) / n := by
  rw [Nat.le_div_iff_mul_le (Nat.pos_of_ne_zero hn)]
  calc 2 ^ 199 * n ≤ 2 ^ 199 * 2 ^ (Nat.log2 n + 1) := Nat.mul_le_mul_left _ Nat.lt_log2_self.le
    _ = 2 ^ (200 + Nat.log2 n) := by rw [← pow_add]; congr 1; omega
    _ ≤ m * 2 ^ (200 + Nat.log2 n) := Nat.le_mul_of_pos_left _ (Nat.pos_of_ne_zero hm)

section

variable {x y : Exact} {v w : Value} (hx : x.Whole) (hy : y.Whole) (hv : x.For v) (hw : y.For w)

/-- A number that an exact value without a rest stands for. -/
theorem Exact.fin_for_num {s : Bool} {m : Nat} {e : Int} {more : Bool} (hv : (Exact.fin s m e more).For v) :
    ∃ q, v = .num s q := by
  obtain ⟨z, -, rfl⟩ := (Exact.fin_for_iff ..).1 hv
  exact ⟨_, rfl⟩

include hx in
theorem Exact.Whole.zero_iff {s : Bool} {m : Nat} {e : Int} {more : Bool} {q : ℚ} (he : x = .fin s m e more)
    (hq : x.For (.num s q)) : q = 0 ↔ m = 0 := by
  obtain ⟨n, f, hf, rfl⟩ := hx.for_num hq
  rw [hf] at he
  cases he
  exact signedBy_eq_zero ..

theorem Exact.neg_for (h : y.For w) (hy : y.Whole) : y.neg.For w.neg ∧ y.neg.Whole := by
  cases y with
  | nan => cases h; exact ⟨rfl, fun _ _ _ h => by cases h⟩
  | inf t => cases h; exact ⟨rfl, fun _ _ _ h => by cases h⟩
  | fin t n f k =>
    obtain ⟨q, rfl⟩ := Exact.fin_for_num h
    obtain ⟨m, e, he, rfl⟩ := hy.for_num h
    cases he
    refine ⟨(Exact.fin_for_iff ..).2 ⟨_, rfl, ?_⟩, fun _ _ _ h => by cases h⟩
    cases t <;> simp [Value.neg, signedBy]

include hx hy hv hw

theorem Exact.add_value (rdn : Bool) : (x.add rdn y).1.For (v.plus rdn w)
    ∧ (x.add rdn y).2 = invalidOf (v.plus rdn w) [v, w] ∧ (x.add rdn y).1.Whole := by
  cases x with
  | nan =>
    obtain rfl : v = .nan := hv
    refine ⟨?_, (invalidOf_nan_mem (by simp)).symm, ?_⟩
    · cases y <;> rfl
    · cases y <;> exact fun _ _ _ h => by cases h
  | inf s =>
    obtain rfl : v = .inf s := hv
    cases y with
    | nan =>
      obtain rfl : w = .nan := hw
      exact ⟨rfl, (invalidOf_nan_mem (by simp)).symm, fun _ _ _ h => by cases h⟩
    | inf t =>
      obtain rfl : w = .inf t := hw
      cases s <;> cases t <;> exact ⟨rfl, rfl, fun _ _ _ h => by cases h⟩
    | fin t n f k =>
      obtain ⟨q, rfl⟩ := Exact.fin_for_num hw
      exact ⟨rfl, (invalidOf_ne_nan (y := .inf _) (by simp) _).symm, fun _ _ _ h => by cases h⟩
  | fin s m e j =>
    obtain ⟨p, rfl⟩ := Exact.fin_for_num hv
    cases y with
    | nan =>
      obtain rfl : w = .nan := hw
      exact ⟨rfl, (invalidOf_nan_mem (by simp)).symm, fun _ _ _ h => by cases h⟩
    | inf t =>
      obtain rfl : w = .inf t := hw
      exact ⟨rfl, (invalidOf_ne_nan (y := .inf _) (by simp) _).symm, fun _ _ _ h => by cases h⟩
    | fin t n f k =>
      obtain ⟨q, rfl⟩ := Exact.fin_for_num hw
      have hsum := Exact.add_for hx hy hv hw rdn
      have hsign : (if p + q = 0 then (s && t) || (rdn && !(p == 0 && q == 0 && !s && !t)) else decide (p + q < 0)) =
          if p + q = 0 then (s && t) || (rdn && (s || t || decide (p ≠ 0))) else decide (p + q < 0) := by
        refine if_ctx_congr Iff.rfl (fun h0 => ?_) fun _ => rfl
        have hpq : (q == 0) = (p == 0) := by
          rw [Bool.eq_iff_iff, beq_iff_eq, beq_iff_eq]
          constructor <;> intro <;> linarith
        rw [hpq]
        by_cases hp : p = 0 <;> cases s <;> cases t <;> simp [hp]
      rw [hsign] at hsum
      refine ⟨hsum, ?_, ?_⟩
      · rw [invalidOf_ne_nan (by simp [Value.plus]), Exact.add_fin_flags]
      · obtain ⟨_, _, he, _⟩ := hx.for_num hv
        obtain ⟨_, _, he', _⟩ := hy.for_num hw
        cases he
        cases he'
        exact Exact.add_fin_whole _ _ _ _ _ _ _

theorem Exact.mul_value : (x.mul y).1.For (v.times w)
    ∧ (x.mul y).2 = invalidOf (v.times w) [v, w] ∧ (x.mul y).1.Whole := by
  cases x with
  | nan =>
    obtain rfl : v = .nan := hv
    refine ⟨?_, (invalidOf_nan_mem (by simp)).symm, ?_⟩
    · cases y <;> rfl
    · cases y <;> exact Exact.nan_whole
  | inf s =>
    obtain rfl : v = .inf s := hv
    cases y with
    | nan =>
      obtain rfl : w = .nan := hw
      exact ⟨rfl, (invalidOf_nan_mem (by simp)).symm, Exact.nan_whole⟩
    | inf t =>
      obtain rfl : w = .inf t := hw
      exact ⟨rfl, (invalidOf_ne_nan (y := .inf _) (by simp) _).symm, Exact.inf_whole _⟩
    | fin t n f k =>
      obtain ⟨q, rfl⟩ := Exact.fin_for_num hw
      simp only [Exact.mul, Value.times, hy.zero_iff rfl hw]
      split
      · exact ⟨rfl, rfl, Exact.nan_whole⟩
      · exact ⟨rfl, (invalidOf_ne_nan (by simp) _).symm, Exact.inf_whole _⟩
  | fin s m e j =>
    obtain ⟨p, rfl⟩ := Exact.fin_for_num hv
    cases y with
    | nan =>
      obtain rfl : w = .nan := hw
      exact ⟨rfl, (invalidOf_nan_mem (by simp)).symm, Exact.nan_whole⟩
    | inf t =>
      obtain rfl : w = .inf t := hw
      have hsign : (t != s) = (s != t) := by cases s <;> cases t <;> rfl
      simp only [Exact.mul, Value.times, hx.zero_iff rfl hv, hsign]
      split
      · exact ⟨rfl, rfl, Exact.nan_whole⟩
      · exact ⟨rfl, (invalidOf_ne_nan (by simp) _).symm, Exact.inf_whole _⟩
    | fin t n f k =>
      obtain ⟨q, rfl⟩ := Exact.fin_for_num hw
      refine ⟨Exact.mul_for hx hy hv hw, (invalidOf_ne_nan (by simp [Value.times]) _).symm, ?_⟩
      obtain ⟨_, _, he, _⟩ := hx.for_num hv
      obtain ⟨_, _, he', _⟩ := hy.for_num hw
      cases he
      cases he'
      exact Exact.fin_whole _ _ _

/-- A quotient; what lies between two integers there has 200 bits and more. -/
theorem Exact.div_value : (x.div y).1.For (v.over w)
    ∧ (x.div y).2 = invalidOf (v.over w) [v, w] ||| divZeroOf v w
    ∧ ∀ s m e, (x.div y).1 = .fin s m e true → 2 ^ 199 ≤ m := by
  have hw0 : ∀ {z : Exact}, z.Whole → ∀ s m e, z = .fin s m e true → 2 ^ 199 ≤ m :=
    fun h s m e he => absurd he (h s m e)
  cases x with
  | nan =>
    obtain rfl : v = .nan := hv
    refine ⟨?_, ?_, ?_⟩
    · cases y <;> rfl
    · rw [invalidOf_nan_mem (by simp), divZeroOf_nan_left]; cases y <;> rfl
    · cases y <;> exact hw0 Exact.nan_whole
  | inf s =>
    obtain rfl : v = .inf s := hv
    cases y with
    | nan =>
      obtain rfl : w = .nan := hw
      exact ⟨rfl, by rw [invalidOf_nan_mem (by simp), divZeroOf_nan_right]; rfl, hw0 Exact.nan_whole⟩
    | inf t =>
      obtain rfl : w = .inf t := hw
      exact ⟨rfl, by rw [divZeroOf_inf_left]; simp [Exact.div, invalidOf, Value.over], hw0 Exact.nan_whole⟩
    | fin t n f k =>
      obtain ⟨q, rfl⟩ := Exact.fin_for_num hw
      exact ⟨rfl, by rw [invalidOf_ne_nan (by simp [Value.over]), divZeroOf_inf_left]; rfl, hw0 (Exact.inf_whole _)⟩
  | fin s m e j =>
    obtain ⟨p, rfl⟩ := Exact.fin_for_num hv
    cases y with
    | nan =>
      obtain rfl : w = .nan := hw
      exact ⟨rfl, by rw [invalidOf_nan_mem (by simp), divZeroOf_nan_right]; rfl, hw0 Exact.nan_whole⟩
    | inf t =>
      obtain rfl : w = .inf t := hw
      exact ⟨Exact.zero_for _, by rw [invalidOf_ne_nan (by simp [Value.over]), divZeroOf_inf_right]; rfl,
        hw0 (Exact.fin_whole _ _ _)⟩
    | fin t n f k =>
      obtain ⟨q, rfl⟩ := Exact.fin_for_num hw
      have hp := hx.zero_iff rfl hv
      have hq := hy.zero_iff rfl hw
      by_cases hn : n = 0
      · obtain rfl : q = 0 := hq.2 hn
        simp only [Exact.div, Value.over, divZeroOf_num, if_pos hn, if_true, and_true]
        by_cases hm : m = 0
        · obtain rfl : p = 0 := hp.2 hm
          simp only [hm, if_true, ne_eq, not_true_eq_false, if_false]
          exact ⟨rfl, by simp [invalidOf], hw0 Exact.nan_whole⟩
        · have hp0 : p ≠ 0 := mt hp.1 hm
          simp only [hm, hp0, if_false, ne_eq, not_false_eq_true, if_true]
          exact ⟨rfl, by simp [invalidOf], hw0 (Exact.inf_whole _)⟩
      · have hq0 : q ≠ 0 := mt hq.1 hn
        have hdiv := Exact.div_for hx hy hv hw hq0
        refine ⟨by simpa only [Value.over, if_neg hq0] using hdiv, ?_, ?_⟩
        · rw [invalidOf_ne_nan (by simp [Value.over, hq0])]
          simp only [Exact.div, if_neg hn, divZeroOf_num, hq0, and_false, if_false]
          split <;> rfl
        · intro s' m' e' he
          simp only [Exact.div, if_neg hn] at he
          split at he
          · cases he
          next hm =>
            obtain ⟨-, rfl, -⟩ := Exact.fin.inj he
            exact two_pow_le_quotient hm hn

end

/-! ## Operations that round once (R128, R129, R138) -/

/-- What a code of a binary format decodes to, and the invalid of a signalling NaN. -/
theorem decodeFp_value {f c : Nat} {b : BinaryFormat} (hb : binaryFormat f = some b) (hc : c < 2 ^ formatWidth f) :
    (decodeFp f c).1.For (valueOf f c 0).1 ∧ (decodeFp f c).2 = if (valueOf f c 0).2 then fNV else 0 := by
  rw [formatWidth_binary hb] at hc
  rw [valueOf_binary hb]
  exact (binaryFormat_of hb).decodeFp_for hc

theorem decodeFp_flags {f : Nat} {b : BinaryFormat} (hb : binaryFormat f = some b) {codes : List Nat}
    (hc : ∀ c ∈ codes, c < 2 ^ formatWidth f) :
    orFlags ((codes.map (decodeFp f)).map (·.2)) = if codes.any fun c => (valueOf f c 0).2 then fNV else 0 := by
  induction codes with
  | nil => rfl
  | cons c cs ih =>
    obtain ⟨hhead, htail⟩ := List.forall_mem_cons.1 hc
    rw [List.map_cons, List.map_cons, orFlags_cons, ih htail, (decodeFp_value hb hhead).2, List.any_cons]
    cases (valueOf f c 0).2 <;> cases cs.any fun c => (valueOf f c 0).2 <;> rfl

theorem binaryFormat_fracBits {f : Nat} {b : BinaryFormat} (hb : binaryFormat f = some b) : b.fracBits + 2 ≤ 54 := by
  unfold binaryFormat at hb
  split at hb <;> cases hb <;> decide

theorem rounded_eq (f rm : Nat) (sat : Bool) (codes : List Nat) (op : Nat → List Exact → Exact × BitVec 5) :
    rounded f op rm sat codes = ((roundFp (op rm (codes.map fun c => (decodeFp f c).1)).1 f rm sat).1,
      orFlags ((codes.map (decodeFp f)).map (·.2)) ||| (op rm (codes.map fun c => (decodeFp f c).1)).2
        ||| (roundFp (op rm (codes.map fun c => (decodeFp f c).1)).1 f rm sat).2) := by
  simp only [rounded, List.map_map, Function.comp_def]

/-- RoundTo of an operation's exact value. -/
theorem rounded_delivers {f rm : Nat} {b : BinaryFormat} (hb : binaryFormat f = some b) (hrm : rm < 4) (sat : Bool)
    {codes : List Nat} (hc : ∀ c ∈ codes, c < 2 ^ formatWidth f) {op : Nat → List Exact → Exact × BitVec 5} {w : Value}
    {raised : BitVec 5} (hv : (op rm (codes.map fun c => (decodeFp f c).1)).1.For w)
    (hr : (op rm (codes.map fun c => (decodeFp f c).1)).2 = raised)
    (hmore : ∀ s m e, (op rm (codes.map fun c => (decodeFp f c).1)).1 = .fin s m e true → 2 ^ (b.fracBits + 2) ≤ m) :
    Delivers f rm sat codes (rounded f op rm sat codes) w raised := by
  rw [rounded_eq]
  refine ⟨_, roundFp_rounded hb hrm sat 0 hv hmore, ?_⟩
  rw [← decodeFp_flags hb hc, ← hr]
  ac_rfl

theorem two_pow_fracBits_le {f m : Nat} {b : BinaryFormat} (hb : binaryFormat f = some b) (h : 2 ^ 54 ≤ m) :
    2 ^ (b.fracBits + 2) ≤ m := (Nat.pow_le_pow_right two_pos (binaryFormat_fracBits hb)).trans h

/-- An operation whose exact value has no rest. -/
theorem rounded_delivers_whole {f rm : Nat} {b : BinaryFormat} (hb : binaryFormat f = some b) (hrm : rm < 4) (sat : Bool)
    {codes : List Nat} (hc : ∀ c ∈ codes, c < 2 ^ formatWidth f) {op : Nat → List Exact → Exact × BitVec 5} {w : Value}
    {raised : BitVec 5} (h : (op rm (codes.map fun c => (decodeFp f c).1)).1.For w
      ∧ (op rm (codes.map fun c => (decodeFp f c).1)).2 = raised
      ∧ (op rm (codes.map fun c => (decodeFp f c).1)).1.Whole) :
    Delivers f rm sat codes (rounded f op rm sat codes) w raised :=
  rounded_delivers hb hrm sat hc h.1 h.2.1 fun s m e he => absurd he (h.2.2 s m e)

theorem invalidOf_neg (y v w : Value) : invalidOf y [v, w.neg] = invalidOf y [v, w] := by
  have : w.neg = .nan ↔ w = .nan := by cases w <;> simp [Value.neg]
  simp [invalidOf, eq_comm (a := Value.nan), this]

theorem binaryFormat_float : ∀ f ∈ [0, 2, 3, 20], ∃ b, binaryFormat f = some b := by
  simp only [List.forall_mem_cons]
  exact ⟨⟨_, rfl⟩, ⟨_, rfl⟩, ⟨_, rfl⟩, ⟨_, rfl⟩, by simp⟩

/-- The operations that round, in every format that has them. -/
theorem floatRounds : FloatRounds := by
  intro f hf rm hrm sat a ha b hb c hc
  obtain ⟨B, hB⟩ := binaryFormat_float f hf
  have hab : ∀ x ∈ [a, b], x < 2 ^ formatWidth f := by simp [ha, hb]
  have habc : ∀ x ∈ [a, b, c], x < 2 ^ formatWidth f := by simp [ha, hb, hc]
  have va := (decodeFp_value hB ha).1
  have vb := (decodeFp_value hB hb).1
  have vc := (decodeFp_value hB hc).1
  have wa := decodeFp_whole f a
  have wb := decodeFp_whole f b
  have wc := decodeFp_whole f c
  refine ⟨rounded_delivers_whole hB hrm sat hab (Exact.add_value wa wb va vb _), ?_,
    rounded_delivers_whole hB hrm sat hab (Exact.mul_value wa wb va vb), ?_, ?_⟩
  · obtain ⟨nb, wn⟩ := Exact.neg_for vb wb
    obtain ⟨hv, hr, hw⟩ := Exact.add_value wa wn va nb (rm == 3)
    rw [invalidOf_neg] at hr
    exact rounded_delivers_whole hB hrm sat hab ⟨hv, hr, hw⟩
  · obtain ⟨hv, hr, hm⟩ := Exact.div_value wa wb va vb
    exact rounded_delivers hB hrm sat hab hv hr fun s m e he =>
      two_pow_fracBits_le hB ((Nat.pow_le_pow_right two_pos (by decide)).trans (hm s m e he))
  · obtain ⟨hv, hr, hw⟩ := Exact.mul_value wa wb va vb
    obtain ⟨hv', hr', hw'⟩ := Exact.add_value hw wc hv vc (rm == 3)
    refine rounded_delivers_whole hB hrm sat habc ⟨hv', ?_, hw'⟩
    exact congrArg₂ (· ||| ·) hr hr'

end Sys2Proof.Machine
end

section
/-! The floating-point forms that do not round, and FSCALEB (R134). -/

set_option Elab.async false

namespace Sys2Proof.Machine

/-! ## FP32 codes and their values -/

theorem Exact.For.nan_iff {x : Exact} {v : Value} (h : x.For v) : x = .nan ↔ v = .nan := by
  cases x with
  | nan => exact iff_of_true rfl h
  | inf s => exact iff_of_false nofun fun hv => by rw [hv] at h; cases h
  | fin s m e k =>
    obtain ⟨q, rfl⟩ := Exact.fin_for_num h
    exact iff_of_false nofun nofun

/-- An exact value without a rest stands for its value. -/
theorem Exact.Whole.value_eq {x : Exact} {v : Value} (hx : x.Whole) (h : x.For v) : x.value = v := by
  cases x with
  | nan => exact h.symm
  | inf s => exact h.symm
  | fin s m e k =>
    obtain ⟨q, rfl⟩ := Exact.fin_for_num h
    obtain ⟨m', e', he, rfl⟩ := hx.for_num h
    cases he
    rfl

/-- The values of a format's codes that are not NaN differ. -/
theorem BinaryFormat.Of.value_inj {b : BinaryFormat} {f : Nat} (h : b.Of f) {c c' : Nat}
    (hc : c < 2 ^ (1 + b.expBits + b.fracBits)) (hc' : c' < 2 ^ (1 + b.expBits + b.fracBits))
    (hv : (b.value c).1 = (b.value c').1) (hn : (b.value c).1 ≠ .nan) : c = c' := by
  obtain ⟨s, g, hg, rfl⟩ := b.exists_code hc
  obtain ⟨s', g', hg', rfl⟩ := b.exists_code hc'
  rcases Nat.lt_or_ge (maxFinite f) g with hl | hl
  · rw [h.value_special s hl hg] at hn hv
    split at hn
    next hi =>
      rcases Nat.lt_or_ge (maxFinite f) g' with hl' | hl'
      · rw [h.value_special s' hl' hg', if_pos hi] at hv
        split at hv
        next hi' =>
          obtain rfl : s = s' := Value.inf.inj hv
          rw [hi.2, hi'.2]
        next => cases hv
      · rw [h.value_finite s' hl', if_pos hi] at hv
        cases hv
    next => exact absurd rfl hn
  · rw [h.value_finite s hl] at hv
    rcases Nat.lt_or_ge (maxFinite f) g' with hl' | hl'
    · rw [h.value_special s' hl' hg'] at hv
      split at hv <;> cases hv
    · rw [h.value_finite s' hl'] at hv
      obtain ⟨rfl, hq⟩ := Value.num.inj hv
      rw [b.magnitude_strictMono.injective ((signedBy_inj s).1 hq)]

/-- An exact value stands for numbers of its sign. -/
theorem Exact.For.num_signed {x : Exact} {s : Bool} {q : ℚ} (h : x.For (.num s q)) : ∃ y, 0 ≤ y ∧ q = signedBy s y := by
  cases x with
  | nan => cases h
  | inf t => cases h
  | fin t m e k =>
    obtain ⟨y, hy, hv⟩ := (Exact.fin_for_iff ..).1 h
    cases hv
    exact ⟨y, hy.nonneg, rfl⟩

/-- The sign of a number that is not zero. -/
theorem sign_eq_of_signedBy_eq {s t : Bool} {x y : ℚ} (hx : 0 ≤ x) (hy : 0 ≤ y) (h : signedBy s x = signedBy t y)
    (h0 : signedBy s x ≠ 0) : s = t := by
  have pos : ∀ {a : Bool} {z : ℚ}, 0 ≤ z → signedBy a z ≠ 0 → 0 < z := fun hz hn =>
    lt_of_le_of_ne hz fun he => hn (by rw [← he, signedBy, mul_zero])
  rw [Bool.eq_iff_iff, ← signedBy_neg_iff s (pos hx h0), h, signedBy_neg_iff t (pos hy (h ▸ h0))]

/-! ## minimumNumber and maximumNumber (R134) -/

/-- The order of minimumNumber and maximumNumber: −0 is below +0. -/
def Value.below (v w : Value) : Bool := v.less w || decide (v = .num true 0 ∧ w = .num false 0)

theorem Exact.Whole.lt_below {x y : Exact} {v w : Value} (hx : x.Whole) (hy : y.Whole) (hv : x.For v) (hw : y.For w) :
    x.lt true y = v.below w := by
  have hless := Exact.lt_value x y
  rw [hx.value_eq hv, hy.value_eq hw] at hless
  rw [Value.below, ← hless]
  cases x with
  | nan => obtain rfl : v = .nan := hv; cases y <;> simp [Exact.lt]
  | inf s => obtain rfl : v = .inf s := hv; cases y <;> simp [Exact.lt]
  | fin s m e j =>
    obtain ⟨p, rfl⟩ := Exact.fin_for_num hv
    cases y with
    | nan => obtain rfl : w = .nan := hw; simp [Exact.lt]
    | inf t => obtain rfl : w = .inf t := hw; simp [Exact.lt]
    | fin t n f k =>
      obtain ⟨q, rfl⟩ := Exact.fin_for_num hw
      have hp := hx.zero_iff rfl hv
      have hq := hy.zero_iff rfl hw
      simp only [Exact.lt, Value.num.injEq, hp, hq, Bool.true_and, Bool.false_and]
      by_cases hmn : m = 0 ∧ n = 0
      · obtain ⟨rfl, rfl⟩ := hmn
        cases s <;> cases t <;> rfl
      · have hz : ¬ ((s = true ∧ m = 0) ∧ t = false ∧ n = 0) := fun hc => hmn ⟨hc.1.2, hc.2.2⟩
        have hb : ¬ (decide (m = 0) && decide (n = 0)) = true := by
          rwa [Bool.and_eq_true, decide_eq_true_eq, decide_eq_true_eq]
        simp only [hz, decide_false, Bool.or_false]
        rw [if_neg hb, if_neg hb]

theorem Value.below_asymm {v w : Value} (h : v.below w = true) : w.below v = false := by
  cases v with
  | nan => cases w <;> simp [Value.below, Value.less] at h
  | inf s => cases w <;> simp_all [Value.below, Value.less]
  | num s p =>
    cases w with
    | nan => simp [Value.below, Value.less] at h
    | inf t => simp_all [Value.below, Value.less]
    | num t q =>
      simp only [Value.below, Value.less, Bool.or_eq_true, decide_eq_true_eq, Value.num.injEq, Bool.or_eq_false_iff,
        decide_eq_false_iff_not] at h ⊢
      rcases h with h | ⟨⟨rfl, rfl⟩, rfl, rfl⟩
      · refine ⟨h.not_gt, ?_⟩
        rintro ⟨⟨-, rfl⟩, -, rfl⟩
        exact lt_irrefl _ h
      · exact ⟨lt_irrefl _, nofun⟩

/-- Of the values of two exact values that are not NaN, one is below the other, or they are the same. -/
theorem Value.eq_of_not_below {x y : Exact} {v w : Value} (hx : x.For v) (hy : y.For w) (hv : v ≠ .nan) (hw : w ≠ .nan)
    (h1 : v.below w = false) (h2 : w.below v = false) : v = w := by
  rw [Value.below, Bool.or_eq_false_iff, decide_eq_false_iff_not] at h1 h2
  have hsame : v.same w = true := by rw [Value.same_eq hv hw, h1.1, h2.1]; rfl
  cases v with
  | nan => exact absurd rfl hv
  | inf s =>
    cases w with
    | nan => exact absurd rfl hw
    | inf t => simpa [Value.same] using hsame
    | num t q => cases hsame
  | num s p =>
    cases w with
    | nan => exact absurd rfl hw
    | inf t => cases hsame
    | num t q =>
      obtain rfl : p = q := by simpa [Value.same] using hsame
      obtain ⟨a, ha, hpa⟩ := hx.num_signed
      obtain ⟨b, hb, hpb⟩ := hy.num_signed
      by_cases hp : p = 0
      · subst hp
        cases s <;> cases t <;> simp_all
      · rw [sign_eq_of_signedBy_eq ha hb (hpa.symm.trans hpb) (hpa ▸ hp)]


/-! ## Results on codes (R134) -/

theorem canonicalNan_fp32 : canonicalNan 0 = 0x7FC00000 := rfl

theorem signalling_pair (f a b : Nat) : ((if (valueOf f a 0).2 then fNV else 0) ||| if (valueOf f b 0).2 then fNV else 0) =
    if [a, b].any fun c => (valueOf f c 0).2 then fNV else 0 := by
  rw [List.any_cons, List.any_cons, List.any_nil]
  cases (valueOf f a 0).2 <;> cases (valueOf f b 0).2 <;> rfl

/-- Which of two codes is taken, by either order: of codes neither of which is below the other, both are the same. -/
theorem pick_eq {v w : Value} {a b : Nat} (tie : v.below w = false → w.below v = false → a = b) (least : Bool) :
    (if (if least then v.below w else w.below v) then a else b) =
      if w.below v then (if least then b else a) else (if least then a else b) := by
  cases h2 : w.below v with
  | true => cases least <;> simp [Value.below_asymm h2]
  | false =>
    cases h1 : v.below w with
    | true => cases least <;> rfl
    | false => rw [tie h1 h2, ite_self, ite_self, ite_self]

/-- The lesser or the greater of two codes. -/
theorem numberPick_eq {f a b : Nat} {B : BinaryFormat} (hB : binaryFormat f = some B) (ha : a < 2 ^ formatWidth f)
    (hb : b < 2 ^ formatWidth f) (least : Bool) : numberPick f least a b =
      (let v := fun c => (valueOf f c 0).1
       if v a = .nan ∧ v b = .nan then canonicalNan f else if v a = .nan then b else if v b = .nan then a
        else if (v b).below (v a) then (if least then b else a) else (if least then a else b),
        if [a, b].any fun c => (valueOf f c 0).2 then fNV else 0) := by
  obtain ⟨va, ka⟩ := decodeFp_value hB ha
  obtain ⟨vb, kb⟩ := decodeFp_value hB hb
  have hab := (decodeFp_whole f a).lt_below (decodeFp_whole f b) va vb
  have hba := (decodeFp_whole f b).lt_below (decodeFp_whole f a) vb va
  have tie (hn : (valueOf f a 0).1 ≠ .nan) (hn' : (valueOf f b 0).1 ≠ .nan)
      (h1 : (valueOf f a 0).1.below (valueOf f b 0).1 = false) (h2 : (valueOf f b 0).1.below (valueOf f a 0).1 = false) :
      a = b := by
    have heq := Value.eq_of_not_below va vb hn hn' h1 h2
    rw [valueOf_binary hB] at hn
    rw [valueOf_binary hB, valueOf_binary hB] at heq
    rw [formatWidth_binary hB] at ha hb
    exact (binaryFormat_of hB).value_inj ha hb heq hn
  rw [← signalling_pair, ← ka, ← kb]
  simp only [numberPick, hab, hba, ← va.nan_iff, ← vb.nan_iff]
  rw [Prod.mk.injEq]
  refine ⟨?_, rfl⟩
  rw [ne_eq, ← va.nan_iff, ne_eq, ← vb.nan_iff] at tie
  generalize (decodeFp f a).1 = x at tie
  generalize (decodeFp f b).1 = y at tie
  cases x with
  | nan => cases y <;> simp
  | inf s =>
    cases y with
    | nan => simp
    | inf t => simpa using pick_eq (tie nofun nofun) least
    | fin t n g k => simpa using pick_eq (tie nofun nofun) least
  | fin s m e j =>
    cases y with
    | nan => simp
    | inf t => simpa using pick_eq (tie nofun nofun) least
    | fin t n g k => simpa using pick_eq (tie nofun nofun) least

/-- A new sign bit. -/
theorem withSign_eq {a : Nat} (ha : a < 2 ^ 32) (cs : List Nat) (sign : List Nat → Bool) (rm : Nat) (sat : Bool) (k : Nat)
    (hk : sign (a :: cs) = (k % 2 == 1)) : withSign sign rm sat (a :: cs) =
      (if (valueOf 0 a 0).1 = .nan then 0x7FC00000 else a % 2 ^ 31 + 2 ^ 31 * (k % 2),
        if [a].any fun c => (valueOf 0 c 0).2 then fNV else 0) := by
  obtain ⟨va, ka⟩ := decodeFp_value (f := 0) rfl ha
  have hbit : (if sign (a :: cs) then 2 ^ 31 else 0) = 2 ^ 31 * (k % 2) := by
    rw [hk]
    rcases Nat.mod_two_eq_zero_or_one k with h | h <;> rw [h] <;> rfl
  rw [List.any_cons, List.any_nil, Bool.or_false, ← ka]
  simp only [withSign, List.getD_cons_zero, va.nan_iff, hbit, canonicalNan_fp32]

/-! ## FRND (R134) -/

theorem binaryFormat_fp32 : binaryFormat 0 = some fp32 := rfl

theorem fp32_of : fp32.Of 0 := binaryFormat_of binaryFormat_fp32

theorem maxFinite_fp32 : maxFinite 0 = 255 * 2 ^ 23 - 1 := rfl

/-- FP32 holds the natural numbers up to `2^24`. -/
theorem fp32_natural {N : Nat} (h : N ≤ 2 ^ 24) : ∃ g ≤ maxFinite 0, fp32.magnitude g = N := by
  by_cases h0 : N = 0
  · exact ⟨0, Nat.zero_le _, by rw [fp32.magnitude_zero, h0, Nat.cast_zero]⟩
  have hlow := Nat.log2_self_le h0
  have hup := Nat.lt_log2_self (n := N)
  have hlog : Nat.log2 N ≤ 24 := Nat.lt_succ_iff.1 ((Nat.log2_lt h0).2 (h.trans_lt (by norm_num)))
  obtain ⟨t, ht⟩ : ∃ t, t = 23 - Nat.log2 N := ⟨_, rfl⟩
  have hn : N * 2 ^ t ≤ 2 ^ 24 := by
    rcases Nat.lt_or_eq_of_le hlog with hl | hl
    · calc N * 2 ^ t ≤ 2 ^ (Nat.log2 N + 1) * 2 ^ t := Nat.mul_le_mul_right _ hup.le
        _ = 2 ^ 24 := by rw [← pow_add]; congr 1; omega
    · rw [ht, hl, pow_zero, mul_one]; exact h
  have hk : 2 ^ 23 ≤ N * 2 ^ t := by
    calc 2 ^ 23 ≤ 2 ^ (Nat.log2 N + t) := Nat.pow_le_pow_right two_pos (by omega)
      _ ≤ N * 2 ^ t := by rw [pow_add]; exact Nat.mul_le_mul_right _ hlow
  refine ⟨N * 2 ^ t + (149 - t) * 2 ^ 23, ?_, (fp32.magnitude_add hn (.inr hk)).trans ?_⟩
  · rw [maxFinite_fp32]
    omega
  · have he : (((149 - t : ℕ) : ℤ) + 1 - fp32.bias - fp32.fracBits : ℤ) = -t := by
      simp only [fp32]; omega
    rw [he, zpow_neg, zpow_natCast, Nat.cast_mul, Nat.cast_pow, Nat.cast_ofNat]
    exact mul_div_cancel_right₀ _ (by positivity)

/-- A number of FP32 rounds to an integer that FP32 holds. -/
theorem fp32_roundAt {g m : Nat} {e : Int} (hg : g ≤ maxFinite 0) (hx : Exact.Mag m e false (fp32.magnitude g)) (rm : Nat)
    (neg : Bool) : ∃ g' ≤ maxFinite 0, fp32.magnitude g' = (roundAt rm neg m e false 0).1 := by
  obtain ⟨n, k, hgn, hn, hk⟩ := fp32.magnitude_parts g
  have hval : fp32.magnitude g = n * 2 ^ (k - 149 : ℤ) := by
    rw [hgn, fp32.magnitude_add hn.le hk]
    congr 2
    simp only [fp32]
    ring
  rcases Nat.lt_or_ge k 149 with hlt | hge
  · refine fp32_natural (roundAt_le hx nofun ?_)
    rw [hval, zpow_zero, mul_one]
    calc (n : ℚ) * 2 ^ (k - 149 : ℤ) ≤ n * 1 :=
          mul_le_mul_of_nonneg_left (zpow_le_one_of_nonpos₀ one_le_two (by omega)) (Nat.cast_nonneg n)
      _ < (2 ^ 24 : ℕ) := by rw [mul_one]; exact Nat.cast_lt.2 hn
  · obtain ⟨j, rfl⟩ := Nat.exists_eq_add_of_le hge
    have hint : fp32.magnitude g = (n * 2 ^ j : ℕ) + 0 := by
      rw [hval, show ((149 + j : ℕ) - 149 : ℤ) = (j : ℕ) by omega, zpow_natCast]
      push_cast
      ring
    have hround := roundedInt_eq_roundAt (rm := rm) (neg := neg) hx (q := 0) nofun
    rw [zpow_zero, div_one, hint, roundedInt_signedBy rm neg _ le_rfl one_pos, roundsUp_zero, if_neg Bool.false_ne_true,
      signedBy_inj] at hround
    exact ⟨g, hg, by rw [hint, hround, add_zero]⟩

theorem frndOp_nan {a rm : Nat} {sat : Bool} (ha : a < 2 ^ 32) (h : (valueOf 0 a 0).1 = .nan) :
    frndOp rm sat [a] = (0x7FC00000, if [a].any fun c => (valueOf 0 c 0).2 then fNV else 0) := by
  obtain ⟨va, ka⟩ := decodeFp_value (f := 0) rfl ha
  simp only [frndOp, List.getD_cons_zero, va.nan_iff.2 h, ka, List.any_cons, List.any_nil, Bool.or_false]
  rfl

theorem frndOp_inf {a rm : Nat} {sat s : Bool} (ha : a < 2 ^ 32) (h : (valueOf 0 a 0).1 = .inf s) :
    frndOp rm sat [a] = (a, 0) := by
  have va := (decodeFp_value (f := 0) rfl ha).1
  rw [h] at va
  have hx : (decodeFp 0 a).1 = .inf s := by
    generalize (decodeFp 0 a).1 = x at va
    cases x with
    | nan => cases va
    | inf t => cases va; rfl
    | fin t m e k => obtain ⟨q, hq⟩ := Exact.fin_for_num va; cases hq
  simp only [frndOp, List.getD_cons_zero, hx]

theorem frndOp_num {a rm : Nat} {sat s : Bool} {q : ℚ} (ha : a < 2 ^ 32) (h : (valueOf 0 a 0).1 = .num s q) :
    (valueOf 0 (frndOp rm sat [a]).1 0).1 = .num s (roundedInt rm q) ∧ (frndOp rm sat [a]).2 = 0 := by
  rw [valueOf_binary binaryFormat_fp32] at h ⊢
  obtain ⟨t, g, hg, rfl⟩ := fp32.exists_code ha
  have hfin := fp32_of.finite_of_num hg h
  rw [fp32_of.value_finite t hfin] at h
  obtain ⟨rfl, rfl⟩ := Value.num.inj h
  have hx : Exact.Mag (fpMagnitude 0 g).1 (fpMagnitude 0 g).2 false (fp32.magnitude g) := (fp32_of.fpMagnitude_eq g).symm
  obtain ⟨g', hg', hround⟩ := fp32_roundAt hfin hx rm t
  have hresult := fp32_of.roundFp_magnitude (m := (roundAt rm t (fpMagnitude 0 g).1 (fpMagnitude 0 g).2 false 0).1) (e := 0)
    (rm := 0) hg' (by rw [zpow_zero, mul_one, hround]) t false
  have hint := roundedInt_eq_roundAt (rm := rm) (neg := t) hx (q := 0) nofun
  rw [zpow_zero, div_one] at hint
  simp only [frndOp, List.getD_cons_zero, fp32_of.decodeFp_finite t hfin, hresult, fp32_of.value_finite t hg', hround, hint,
    and_self]

/-! ## FSCALEB (R134) -/

theorem roundFp_huge {m rm : Nat} {e : Int} (hm : m ≠ 0) (he : 129 ≤ Nat.log2 m + e) (sat neg : Bool) :
    roundFp (.fin neg m e false) 0 rm sat = (overflowCode 0 rm sat neg, fOF ||| fNX) := by
  rw [fp32_of.roundFp_fin rm sat hm]
  dsimp only
  refine if_pos ?_
  rw [maxFinite_fp32]
  simp only [fp32]
  omega

theorem roundsUp_small (rm : Nat) (neg : Bool) {φ : ℚ} (h0 : 0 < φ) (h1 : φ < 1 / 2) :
    roundsUp rm neg 0 φ = roundsUp rm neg 0 (1 / 4) := by
  have h4 : (4 : ℚ)⁻¹ ≠ 0 := by norm_num
  match rm with
  | 0 => norm_num [roundsUp, h1.ne, h1.not_gt, h1.le]
  | 1 => rfl
  | 2 => simp [roundsUp, h0.ne']
  | k + 3 => simp [roundsUp, h0.ne']

theorem roundFp_tiny {m rm : Nat} {e : Int} (hm : m ≠ 0) (he : Nat.log2 m + e < -151) (sat neg : Bool) :
    roundFp (.fin neg m e false) 0 rm sat = (fp32.code neg (if roundsUp rm neg 0 (1 / 4) then 1 else 0), fNX ||| fUF) := by
  have hx : Exact.Mag m e false (m * 2 ^ e) := rfl
  obtain ⟨k, φ, h0, h1, hval, hr⟩ := roundAt_parts rm neg (q := -149) hx nofun
  have hsmall : (k : ℚ) + φ < 1 / 2 := by
    have hb := (hx.bounds hm).2
    have hpow : (2 : ℚ) ^ (Nat.log2 m + e + 1 : ℤ) ≤ 1 / 2 * 2 ^ (-149 : ℤ) := by
      calc (2 : ℚ) ^ (Nat.log2 m + e + 1 : ℤ) ≤ 2 ^ (-150 : ℤ) := zpow_le_zpow_right₀ one_le_two (by omega)
        _ = 1 / 2 * 2 ^ (-149 : ℤ) := by norm_num
    rw [hval] at hb
    exact lt_of_mul_lt_mul_right (hb.trans_le hpow) (by positivity)
  have hk : k = 0 := by
    have : (k : ℚ) < 1 := by linarith
    exact Nat.lt_one_iff.1 (by exact_mod_cast this)
  subst hk
  have hφ : 0 < φ := by
    refine lt_of_le_of_ne h0 fun hz => ?_
    have := hx.pos hm
    rw [hval, ← hz, Nat.cast_zero, add_zero, zero_mul] at this
    exact lt_irrefl _ this
  rw [roundsUp_small rm neg hφ (by simpa using hsmall)] at hr
  have hmax : max (Nat.log2 m + e) (1 - fp32.bias : ℤ) = -126 := by simp only [fp32]; omega
  have hq : (-126 - fp32.fracBits : ℤ) = -149 := rfl
  have ht : (-126 + fp32.bias - 1 : ℤ).toNat = 0 := rfl
  have hlow : (Nat.log2 m + e : ℤ) < 1 - fp32.bias := by simp only [fp32]; omega
  have hlow' : (Nat.log2 m + e : ℤ) ≠ -fp32.bias := by simp only [fp32]; omega
  rw [fp32_of.roundFp_fin rm sat hm]
  simp only [hmax, hq, ht, hr, Nat.zero_mul, add_zero, zero_add]
  rw [if_neg (by rw [maxFinite_fp32]; split <;> omega)]
  simp [hφ.ne', hlow, hlow', flagIf]

/-- Beyond 1,000 places either way every finite result rounds alike. -/
theorem roundFp_clamped {m rm : Nat} {e : Int} (hm : m < 2 ^ 24) (hel : -149 ≤ e) (heu : e ≤ 104) (k : Int) (sat neg : Bool) :
    roundFp (.fin neg m (e + max (-1000) (min 1000 k)) false) 0 rm sat = roundFp (.fin neg m (e + k) false) 0 rm sat := by
  by_cases h0 : m = 0
  · simp only [roundFp, if_pos h0]
  have hlog : Nat.log2 m < 24 := (Nat.log2_lt h0).2 hm
  rcases lt_or_ge 1000 k with hk | hk
  · rw [roundFp_huge h0 (by omega), roundFp_huge h0 (by omega)]
  rcases lt_or_ge k (-1000) with hk' | hk'
  · rw [roundFp_tiny h0 (by omega), roundFp_tiny h0 (by omega)]
  · rw [min_eq_right hk, max_eq_right hk']

theorem fpMagnitude_fp32 {g : Nat} (hg : g ≤ maxFinite 0) :
    (fpMagnitude 0 g).1 < 2 ^ 24 ∧ -149 ≤ (fpMagnitude 0 g).2 ∧ (fpMagnitude 0 g).2 ≤ 104 := by
  rw [maxFinite_fp32] at hg
  simp only [fpMagnitude, fpParams]
  split
  · dsimp only; omega
  · dsimp only; omega

theorem scalebOp_delivers {a b rm : Nat} (ha : a < 2 ^ 32) (hb : b < 2 ^ 32) (hrm : rm < 4) (sat : Bool) :
    Delivers 0 rm sat [a] (scalebOp rm sat [a, b])
      (match (valueOf 0 a 0).1 with | .num s q => .num s (q * 2 ^ (BitVec.ofNat 32 b).toInt) | y => y) 0 := by
  obtain ⟨va, ka⟩ := decodeFp_value (f := 0) rfl ha
  have hk : sext 32 (b % 2 ^ 32) = (BitVec.ofNat 32 b).toInt := by rw [Nat.mod_eq_of_lt hb, sext]
  have hresult : scalebOp rm sat [a, b] =
      ((roundFp ((decodeFp 0 a).1.scale (BitVec.ofNat 32 b).toInt) 0 rm sat).1, (decodeFp 0 a).2
        ||| (roundFp ((decodeFp 0 a).1.scale (BitVec.ofNat 32 b).toInt) 0 rm sat).2) := by
    simp only [scalebOp, List.getD_cons_zero, List.getD_cons_succ, hk]
  have hquiet : (decodeFp 0 a).2 = if [a].any fun c => (valueOf 0 c 0).2 then fNV else 0 := by
    rw [ka, List.any_cons, List.any_nil, Bool.or_false]
  rw [hresult, hquiet]
  generalize (BitVec.ofNat 32 b).toInt = k
  suffices h : ∃ y : Exact, y.Whole ∧ y.For (match (valueOf 0 a 0).1 with | .num s q => .num s (q * 2 ^ k) | y => y)
      ∧ roundFp ((decodeFp 0 a).1.scale k) 0 rm sat = roundFp y 0 rm sat by
    obtain ⟨y, hw, hv, hy⟩ := h
    rw [hy]
    refine ⟨_, roundFp_rounded binaryFormat_fp32 hrm sat 0 hv fun s m e he => absurd he (hw s m e), ?_⟩
    exact (BitVec.or_comm _ _).trans (congrArg (· ||| _) BitVec.or_zero.symm)
  obtain ⟨t, g, hg, rfl⟩ := fp32.exists_code ha
  rcases Nat.lt_or_ge (maxFinite 0) g with hl | hl
  · rw [valueOf_binary binaryFormat_fp32, fp32_of.decodeFp_special t hl hg, fp32_of.value_special t hl hg]
    by_cases hi : fp32.infinities = true ∧ g = maxFinite 0 + 1
    · rw [if_pos hi, if_pos hi]
      exact ⟨.inf t, Exact.inf_whole t, rfl, rfl⟩
    · rw [if_neg hi, if_neg hi]
      exact ⟨.nan, Exact.nan_whole, rfl, rfl⟩
  · obtain ⟨hm, hel, heu⟩ := fpMagnitude_fp32 hl
    rw [valueOf_binary binaryFormat_fp32, fp32_of.decodeFp_finite t hl, fp32_of.value_finite t hl]
    refine ⟨.fin t (fpMagnitude 0 g).1 ((fpMagnitude 0 g).2 + k) false, Exact.fin_whole _ _ _,
      (Exact.fin_for_iff ..).2 ⟨_, rfl, ?_⟩, roundFp_clamped hm hel heu k sat t⟩
    dsimp only
    rw [signedBy_mul, ← fp32_of.fpMagnitude_eq, zpow_add₀ two_ne_zero, mul_assoc]

theorem floatPicks : FloatPicks := by
  intro rm hrm sat a ha b hb
  refine ⟨fun least => numberPick_eq binaryFormat_fp32 ha hb least, withSign_eq ha [] _ rm sat 0 rfl,
    withSign_eq ha [] _ rm sat (1 + a / 2 ^ 31) ?_, withSign_eq ha [b] _ rm sat (b / 2 ^ 31) rfl, frndOp_nan ha,
    fun s => frndOp_inf ha, fun s q => frndOp_num ha, scalebOp_delivers ha hb hrm sat⟩
  simp only [signOf, List.getD_cons_zero]
  generalize a / 2 ^ 31 = n
  rcases Nat.mod_two_eq_zero_or_one n with h | h
  · rw [h, show (1 + n) % 2 = 1 by omega]; rfl
  · rw [h, show (1 + n) % 2 = 0 by omega]; rfl

end Sys2Proof.Machine
end

section
/-! The integer square root and the roots (R136). -/

set_option Elab.async false

namespace Sys2Proof.Machine

/-! ## The integer square root: Newton's steps -/

/-- A Newton step from above stays above the root. -/
theorem sqrt_le_newton {n x : Nat} (hx : 0 < x) : Nat.sqrt n ≤ (x + n / x) / 2 := by
  by_contra hlt
  have hn : n < (n / x + 1) * x := Nat.lt_mul_of_div_lt (Nat.lt_succ_self _) hx
  have hr : Nat.sqrt n * Nat.sqrt n ≤ n := Nat.sqrt_le n
  have hsum : x + (n / x + 1) ≤ 2 * Nat.sqrt n := by omega
  have hmean := four_mul_le_sq_add x (n / x + 1)
  nlinarith [Nat.pow_le_pow_left hsum 2]

/-- Where a step goes no lower, the root is reached. -/
theorem le_sqrt_of_le_newton {n x : Nat} (hx : 0 < x) (h : x ≤ (x + n / x) / 2) : x ≤ Nat.sqrt n := by
  have hq : x ≤ n / x := by omega
  exact Nat.le_sqrt.2 ((Nat.le_div_iff_mul_le hx).1 hq)

section

variable {n : Nat} (hr : 0 < Nat.sqrt n)
include hr

/-- How far above the root a step ends, by how far above it begins. -/
theorem newton_gap (d : Nat) : ∃ g, (Nat.sqrt n + d + n / (Nat.sqrt n + d)) / 2 = Nat.sqrt n + g
    ∧ 2 * g * (Nat.sqrt n + d) ≤ d * d + 2 * Nat.sqrt n := by
  obtain ⟨g, hg⟩ := Nat.exists_eq_add_of_le (sqrt_le_newton (n := n) (x := Nat.sqrt n + d) (by omega))
  have hn := Nat.lt_succ_sqrt n
  have hq := Nat.div_mul_le_self n (Nat.sqrt n + d)
  have hy := Nat.div_mul_le_self (Nat.sqrt n + d + n / (Nat.sqrt n + d)) 2
  refine ⟨g, hg, ?_⟩
  rw [hg] at hy
  generalize n / (Nat.sqrt n + d) = q at *
  generalize Nat.sqrt n = r at *
  rw [Nat.succ_eq_add_one] at hn
  nlinarith [Nat.mul_le_mul_right (r + d) hy]

theorem isqrtFrom_root (fuel : Nat) : isqrtFrom fuel n (Nat.sqrt n) = Nat.sqrt n := by
  cases fuel with
  | zero => rfl
  | succ k => simp only [isqrtFrom, if_neg (sqrt_le_newton hr).not_gt]

/-- A step reaches the root, or comes nearer to it. -/
theorem isqrtFrom_step (fuel d : Nat) : isqrtFrom (fuel + 1) n (Nat.sqrt n + d) = Nat.sqrt n
    ∨ ∃ g < d, 2 * g * (Nat.sqrt n + d) ≤ d * d + 2 * Nat.sqrt n
      ∧ isqrtFrom (fuel + 1) n (Nat.sqrt n + d) = isqrtFrom fuel n (Nat.sqrt n + g) := by
  obtain ⟨g, hg, hgap⟩ := newton_gap hr d
  simp only [isqrtFrom, hg]
  split
  next hlt => exact .inr ⟨g, by omega, hgap, rfl⟩
  next hge =>
    have := le_sqrt_of_le_newton (n := n) (x := Nat.sqrt n + d) (by omega) (by omega)
    exact .inl (by omega)

/-- Against the root, a step squares the gap. -/
theorem gap_squares {d g k : Nat} (hg : 2 * g * (Nat.sqrt n + d) ≤ d * d + 2 * Nat.sqrt n)
    (hd : d ^ 2 ^ (k + 1) * Nat.sqrt n ≤ Nat.sqrt n ^ 2 ^ (k + 1)) : g ^ 2 ^ k * Nat.sqrt n ≤ Nat.sqrt n ^ 2 ^ k := by
  generalize Nat.sqrt n = r at *
  rcases Nat.lt_or_ge g 2 with h | h
  · have hK : 2 ^ k ≠ 0 := by positivity
    calc g ^ 2 ^ k * r ≤ 1 ^ 2 ^ k * r := Nat.mul_le_mul_right _ (Nat.pow_le_pow_left (by omega) _)
      _ = r := by rw [one_pow, one_mul]
      _ ≤ r ^ 2 ^ k := Nat.le_self_pow hK r
  · have hsq : g * r ≤ d ^ 2 := by nlinarith
    have hpos : 0 < r ^ 2 ^ k := by positivity
    refine Nat.le_of_mul_le_mul_right ?_ hpos
    calc g ^ 2 ^ k * r * r ^ 2 ^ k = (g * r) ^ 2 ^ k * r := by rw [mul_pow]; ring
      _ ≤ (d ^ 2) ^ 2 ^ k * r := Nat.mul_le_mul_right _ (Nat.pow_le_pow_left hsq _)
      _ = d ^ 2 ^ (k + 1) * r := by rw [← pow_mul, pow_succ' 2 k]
      _ ≤ r ^ 2 ^ (k + 1) := hd
      _ = r ^ 2 ^ k * r ^ 2 ^ k := by rw [← pow_add, pow_succ, mul_two]

theorem isqrtFrom_of_gap (k : Nat) : ∀ (fuel d : Nat), k < fuel → d ^ 2 ^ k * Nat.sqrt n ≤ Nat.sqrt n ^ 2 ^ k →
    isqrtFrom fuel n (Nat.sqrt n + d) = Nat.sqrt n := by
  induction k with
  | zero =>
    intro fuel d hf hd
    obtain ⟨j, rfl⟩ := Nat.exists_eq_add_of_lt hf
    have hd1 : d ≤ 1 := by
      refine Nat.le_of_mul_le_mul_right ?_ hr
      simpa using hd
    rw [zero_add]
    rcases isqrtFrom_step hr j d with h | ⟨g, hlt, -, h⟩
    · exact h
    · obtain rfl : g = 0 := by omega
      rw [h]
      exact isqrtFrom_root hr j
  | succ k ih =>
    intro fuel d hf hd
    obtain ⟨j, rfl⟩ := Nat.exists_eq_add_of_lt hf
    rcases isqrtFrom_step hr (k + 1 + j) d with h | ⟨g, -, hg, h⟩
    · exact h
    · rw [h]
      exact ih _ g (by omega) (gap_squares hr hg hd)

end

/-- The start of the steps: above the root, by no more than the root. -/
theorem isqrt_start {n : Nat} (hn : n ≠ 0) : ∃ d ≤ Nat.sqrt n, 2 ^ (Nat.log2 n / 2 + 1) = Nat.sqrt n + d := by
  have hlow : 2 ^ (Nat.log2 n / 2) ≤ Nat.sqrt n := by
    rw [Nat.le_sqrt, ← pow_add]
    exact (Nat.pow_le_pow_right two_pos (by omega)).trans (Nat.log2_self_le hn)
  have hup : Nat.sqrt n < 2 ^ (Nat.log2 n / 2 + 1) := by
    rw [Nat.sqrt_lt, ← pow_add]
    exact (Nat.lt_log2_self (n := n)).trans_le (Nat.pow_le_pow_right two_pos (by omega))
  refine ⟨2 ^ (Nat.log2 n / 2 + 1) - Nat.sqrt n, ?_, by omega⟩
  rw [pow_succ]
  omega

/-- The model's integer square root, as far as its steps suffice. -/
theorem isqrt_eq_sqrt {n : Nat} (hl : 4 ≤ n) (hu : n < 2 ^ 256 * 2 ^ 256) : isqrt n = Nat.sqrt n := by
  have hr : 2 ≤ Nat.sqrt n := Nat.le_sqrt.2 hl
  have hr' : Nat.sqrt n < 2 ^ 2 ^ 8 := Nat.sqrt_lt.2 hu
  have h0 : 0 < Nat.sqrt n := two_pos.trans_le hr
  obtain ⟨d, hd, hstart⟩ := isqrt_start (n := n) (by omega)
  rw [isqrt, if_neg (by omega), hstart]
  rcases isqrtFrom_step h0 63 d with h | ⟨g, -, hg, h⟩
  · exact h
  · rw [h]
    have hhalf : 2 * g ≤ Nat.sqrt n := by nlinarith
    refine isqrtFrom_of_gap h0 8 63 g (by decide) ?_
    calc g ^ 2 ^ 8 * Nat.sqrt n ≤ g ^ 2 ^ 8 * 2 ^ 2 ^ 8 := Nat.mul_le_mul_left _ hr'.le
      _ = (2 * g) ^ 2 ^ 8 := by rw [mul_pow, mul_comm]
      _ ≤ Nat.sqrt n ^ 2 ^ 8 := Nat.pow_le_pow_left hhalf _

/-! ## Roots (R136) -/

/-- A root's numbers, as `FloatRoots` speaks of them. -/
def NearRoot (square : ℚ → ℚ) (y : Exact) : Prop :=
  ∃ ε : ℚ, 0 < ε ∧ ∀ q, 0 < q → |square q - 1| < ε → ((∃ t, 0 < t ∧ square t = 1) → square q = 1) → y.For (.num false q)

/-- The numbers near a root between two natural numbers of units, and where it is a natural number, the root itself. -/
theorem root_for {S u : ℚ} {r : Nat} {E : Int} {more : Bool} {square : ℚ → ℚ} (hu : u = 2 ^ E) (hS : 0 < S)
    (hsq : ∀ q, square q * (S * (u * u)) = q * q) (hl : (r * r : ℚ) ≤ S) (hr : S < (r + 1) * (r + 1))
    (hmore : more = false ↔ (r * r : ℚ) = S) : NearRoot square (.fin false r E more) := by
  unfold NearRoot
  have hu0 : 0 < u := hu ▸ by positivity
  have hSu : 0 < S * (u * u) := by positivity
  have hr0 : (0 : ℚ) ≤ r := Nat.cast_nonneg r
  have habs : ∀ q : ℚ, .num false q = Value.num false (signedBy false q) := fun q => by
    rw [signedBy, if_neg Bool.false_ne_true, one_mul]
  cases more with
  | false =>
    have heq := hmore.1 rfl
    refine ⟨1, one_pos, fun q hq _ hex => (Exact.fin_for_iff ..).2 ⟨q, ?_, habs q⟩⟩
    have hrpos : (0 : ℚ) < r := lt_of_le_of_ne hr0 fun h => by rw [← heq, ← h, mul_zero] at hS; exact lt_irrefl _ hS
    have hone := hex ⟨r * u, by positivity, mul_right_cancel₀ hSu.ne' (by rw [hsq, ← heq]; ring)⟩
    have hqq : q ^ 2 = (r * u) ^ 2 := by rw [sq, ← hsq q, hone, ← heq]; ring
    show q = r * 2 ^ E
    rw [← hu]
    exact (pow_left_inj₀ hq.le (by positivity) two_ne_zero).1 hqq
  | true =>
    have hlt : (r * r : ℚ) < S := lt_of_le_of_ne hl fun h => Bool.noConfusion (hmore.2 h)
    have hlow : 0 < 1 - r * r / S := by rw [sub_pos, div_lt_one hS]; exact hlt
    have hup : 0 < (r + 1) * (r + 1) / S - 1 := by rw [sub_pos, one_lt_div hS]; exact hr
    refine ⟨min (1 - r * r / S) ((r + 1) * (r + 1) / S - 1), lt_min hlow hup, fun q hq hnear _ =>
      (Exact.fin_for_iff ..).2 ⟨q, ?_, habs q⟩⟩
    obtain ⟨h1, h2⟩ := lt_min_iff.1 hnear
    have hq1 : r * r / S < square q := by linarith [(abs_lt.1 h1).1]
    have hq2 : square q < (r + 1) * (r + 1) / S := by linarith [(abs_lt.1 h2).2]
    rw [div_lt_iff₀ hS] at hq1
    rw [lt_div_iff₀ hS] at hq2
    have huu : 0 < u * u := mul_pos hu0 hu0
    have hsq' : square q * S * (u * u) = q * q := by rw [mul_assoc]; exact hsq q
    have hlo : (r * u) ^ 2 < q ^ 2 := by
      calc (r * u) ^ 2 = r * r * (u * u) := by ring
        _ < square q * S * (u * u) := mul_lt_mul_of_pos_right hq1 huu
        _ = q ^ 2 := by rw [hsq', sq]
    have hhi : q ^ 2 < ((r + 1) * u) ^ 2 := by
      calc q ^ 2 = square q * S * (u * u) := by rw [hsq', sq]
        _ < (r + 1) * (r + 1) * (u * u) := mul_lt_mul_of_pos_right hq2 huu
        _ = ((r + 1) * u) ^ 2 := by ring
    show r * (2 : ℚ) ^ E < q ∧ q < (r + 1) * (2 : ℚ) ^ E
    rw [← hu]
    exact ⟨lt_of_pow_lt_pow_left₀ 2 hq.le hlo, lt_of_pow_lt_pow_left₀ 2 (by positivity) hhi⟩

/-- The even part of an exponent. -/
theorem exponent_parts (e : Int) :
    ∃ (odd : Nat) (h : Int), (e % 2).toNat = odd ∧ odd ≤ 1 ∧ (e - odd) / 2 = h ∧ e = odd + 2 * h := by
  refine ⟨(e % 2).toNat, (e - (e % 2).toNat) / 2, rfl, ?_, rfl, ?_⟩ <;> omega

theorem sqrt_cast_bounds (n : Nat) : ((Nat.sqrt n : ℚ) * Nat.sqrt n ≤ n) ∧ (n : ℚ) < (Nat.sqrt n + 1) * (Nat.sqrt n + 1) :=
  ⟨by exact_mod_cast Nat.sqrt_le n, by exact_mod_cast Nat.lt_succ_sqrt n⟩

theorem Exact.sqrt_root {m : Nat} {e : Int} {k : Bool} (hm : m ≠ 0) (hb : m < 2 ^ 53) :
    ∃ r E more, (Exact.fin false m e k).sqrt = (.fin false r E more, 0) ∧ 2 ^ 54 ≤ r
      ∧ NearRoot (fun q => q * q / (m * 2 ^ e)) (.fin false r E more) := by
  obtain ⟨odd, h, hodd, hle, hh, he⟩ := exponent_parts e
  have hpow : 2 ^ odd ≤ 2 := (Nat.pow_le_pow_right two_pos hle).trans_eq (pow_one 2)
  have hpos : 1 ≤ 2 ^ odd := Nat.one_le_two_pow
  obtain ⟨X, hX⟩ : ∃ X, X = m * 2 ^ odd * 2 ^ 240 := ⟨_, rfl⟩
  have hXl : 2 ^ 240 ≤ X := by rw [hX]; exact Nat.le_mul_of_pos_left _ (by positivity)
  have hXu : X < 2 ^ 256 * 2 ^ 256 := by
    have : m * 2 ^ odd ≤ 2 ^ 53 * 2 := Nat.mul_le_mul hb.le hpow
    rw [hX]
    omega
  have hroot : isqrt X = Nat.sqrt X := isqrt_eq_sqrt (by omega) hXu
  refine ⟨Nat.sqrt X, h - 120, Nat.sqrt X * Nat.sqrt X != X, ?_, ?_, ?_⟩
  · simp only [Exact.sqrt, if_neg hm, Bool.false_eq_true, if_false, hodd, hh, ← hX, hroot]
  · exact Nat.le_sqrt.2 (le_trans (by norm_num) hXl)
  · obtain ⟨hl, hr⟩ := sqrt_cast_bounds X
    have hXpos : (0 : ℚ) < X := by positivity
    refine root_for rfl hXpos (fun q => ?_) hl hr ?_
    · have hval : (X : ℚ) * (2 ^ (h - 120) * 2 ^ (h - 120)) = m * 2 ^ e := by
        rw [hX, he, zpow_add₀ two_ne_zero, zpow_natCast, two_mul h, zpow_add₀ two_ne_zero, zpow_sub₀ two_ne_zero]
        push_cast
        field_simp
        norm_num
      have hne : (m : ℚ) * 2 ^ e ≠ 0 := by positivity
      rw [hval]
      exact div_mul_cancel₀ _ hne
    · rw [bne_eq_false_iff_eq]
      exact_mod_cast Iff.rfl

theorem Exact.rsqrt_root {m : Nat} {e : Int} {k : Bool} (hm : m ≠ 0) (hb : m < 2 ^ 24) :
    ∃ r E more, (Exact.fin false m e k).rsqrt = (.fin false r E more, 0) ∧ 2 ^ 54 ≤ r
      ∧ NearRoot (fun q => q * q * (m * 2 ^ e)) (.fin false r E more) := by
  obtain ⟨odd, h, hodd, hle, hh, he⟩ := exponent_parts e
  have hpow : 2 ^ odd ≤ 2 := (Nat.pow_le_pow_right two_pos hle).trans_eq (pow_one 2)
  obtain ⟨n, hn⟩ : ∃ n, n = m * 2 ^ odd := ⟨_, rfl⟩
  have hn0 : 0 < n := by rw [hn]; positivity
  have hnu : n ≤ 2 ^ 25 := by
    have : m * 2 ^ odd ≤ 2 ^ 24 * 2 := Nat.mul_le_mul hb.le hpow
    rw [hn]
    omega
  obtain ⟨p, hp⟩ : ∃ p : Nat, p = 2 ^ 400 := ⟨_, rfl⟩
  have hpQ : (p : ℚ) = 2 ^ 200 * 2 ^ 200 := by rw [hp, Nat.cast_pow, Nat.cast_ofNat, ← pow_add]
  have hQl : 2 ^ 200 ≤ p / n := by
    rw [Nat.le_div_iff_mul_le hn0, hp]
    calc 2 ^ 200 * n ≤ 2 ^ 200 * 2 ^ 200 := Nat.mul_le_mul_left _ (hnu.trans (by norm_num))
      _ = 2 ^ 400 := by rw [← pow_add]
  have hQu : p / n < 2 ^ 256 * 2 ^ 256 := by
    refine (Nat.div_le_self p n).trans_lt ?_
    calc p = 2 ^ 200 * 2 ^ 200 := by rw [hp, ← pow_add]
      _ < 2 ^ 256 * 2 ^ 256 := Nat.mul_lt_mul'' (by norm_num) (by norm_num)
  have hQ4 : 4 ≤ p / n := le_trans (by norm_num) hQl
  have hroot : isqrt (p / n) = Nat.sqrt (p / n) := isqrt_eq_sqrt hQ4 hQu
  refine ⟨Nat.sqrt (p / n), -h - 200, Nat.sqrt (p / n) * Nat.sqrt (p / n) != p / n || p % n != 0, ?_, ?_, ?_⟩
  · simp only [Exact.rsqrt, if_neg hm, Bool.false_eq_true, if_false, hodd, hh, ← hn, ← hp, hroot]
  · exact Nat.le_sqrt.2 (le_trans (by norm_num) hQl)
  · obtain ⟨hl, hr⟩ := sqrt_cast_bounds (p / n)
    have hn' : (0 : ℚ) < n := Nat.cast_pos.2 hn0
    have hdiv : ((p / n : ℕ) : ℚ) * n + (p % n : ℕ) = p := by exact_mod_cast Nat.div_add_mod' p n
    have hmod : ((p % n : ℕ) : ℚ) < n := Nat.cast_lt.2 (Nat.mod_lt p hn0)
    have hmod0 : (0 : ℚ) ≤ (p % n : ℕ) := Nat.cast_nonneg _
    have hnat : (Nat.sqrt (p / n) * Nat.sqrt (p / n) != p / n || p % n != 0) = false ↔
        Nat.sqrt (p / n) * Nat.sqrt (p / n) * n = p := by
      rw [Bool.or_eq_false_iff, bne_eq_false_iff_eq, bne_eq_false_iff_eq]
      constructor
      · rintro ⟨h1, h2⟩
        rw [h1]
        exact Nat.div_mul_cancel (Nat.dvd_of_mod_eq_zero h2)
      · intro heq
        generalize Nat.sqrt (p / n) * Nat.sqrt (p / n) = R at heq
        rw [← heq]
        exact ⟨(Nat.mul_div_cancel R hn0).symm, Nat.mul_mod_left R n⟩
    refine root_for (S := p / n) rfl (by rw [hpQ]; positivity) (fun q => ?_) ?_ ?_ ?_
    · rw [hpQ, he, zpow_add₀ two_ne_zero, zpow_natCast, two_mul h, zpow_add₀ two_ne_zero,
        zpow_sub₀ two_ne_zero, zpow_neg, zpow_ofNat, hn]
      push_cast
      have hw : (2 : ℚ) ^ 200 ≠ 0 := by positivity
      generalize (2 : ℚ) ^ 200 = w at hw
      field_simp
    · exact hl.trans (by rw [le_div_iff₀ hn']; linarith)
    · refine lt_of_lt_of_le (b := ((p / n : ℕ) : ℚ) + 1) ?_ ?_
      · rw [div_lt_iff₀ hn', add_mul, one_mul]; linarith
      · exact_mod_cast hr
    · rw [hnat, eq_div_iff hn'.ne']
      exact_mod_cast Iff.rfl

end Sys2Proof.Machine
end

section
/-! Obligation O19: special operands, and the floating-point units (R127, R131–R136). -/

set_option Elab.async false

namespace Sys2Proof.Machine

/-! ## RCP, the roots and the special operands (R136) -/

section

variable {f a rm : Nat} {b : BinaryFormat} (hB : binaryFormat f = some b) (ha : a < 2 ^ formatWidth f) (hrm : rm < 4) (sat : Bool)
include hB ha

theorem decodeFp_of_nan (h : (valueOf f a 0).1 = .nan) : (decodeFp f a).1 = .nan := (decodeFp_value hB ha).1.nan_iff.2 h

theorem decodeFp_of_inf {s : Bool} (h : (valueOf f a 0).1 = .inf s) : (decodeFp f a).1 = .inf s := by
  have hv := (decodeFp_value hB ha).1
  rw [h] at hv
  generalize (decodeFp f a).1 = x at hv
  cases x with
  | nan => cases hv
  | inf t => cases hv; rfl
  | fin t m e k =>
    obtain ⟨q, hq⟩ := Exact.fin_for_num hv
    cases hq

/-- A number's code decodes to a magnitude with the significand's bits. -/
theorem decodeFp_of_num {s : Bool} {q : ℚ} (h : (valueOf f a 0).1 = .num s q) :
    ∃ m e, (decodeFp f a).1 = .fin s m e false ∧ q = signedBy s (m * 2 ^ e) ∧ m < 2 ^ (b.fracBits + 1) := by
  have hb := binaryFormat_of hB
  rw [valueOf_binary hB] at h
  rw [formatWidth_binary hB] at ha
  obtain ⟨t, g, hg, rfl⟩ := b.exists_code ha
  have hfin := hb.finite_of_num hg h
  rw [hb.value_finite t hfin] at h
  obtain ⟨rfl, rfl⟩ := Value.num.inj h
  refine ⟨(fpMagnitude f g).1, (fpMagnitude f g).2, by rw [hb.decodeFp_finite t hfin], by rw [hb.fpMagnitude_eq], ?_⟩
  have h2 : 2 ^ (b.fracBits + 1) = 2 * 2 ^ b.fracBits := by ring
  have hr := Nat.mod_lt g (show 0 < 2 ^ b.fracBits by positivity)
  simp only [fpMagnitude, hb.params]
  split
  · dsimp only; omega
  · dsimp only; omega

include hrm

/-- An operation of one operand that is rounded once. -/
theorem unary_delivers {op : Exact → Exact × BitVec 5} {x y : Exact} {w : Value} {raised : BitVec 5} (hx : (decodeFp f a).1 = x)
    (hop : op x = (y, raised)) (hv : y.For w) (hmore : ∀ s m e, y = .fin s m e true → 2 ^ 54 ≤ m) :
    Delivers f rm sat [a] (rounded f (fun _ xs => op (argAt xs 0)) rm sat [a]) w raised := by
  have harg : op (argAt ([a].map fun c => (decodeFp f c).1) 0) = (y, raised) := by rw [← hop, ← hx]; rfl
  refine rounded_delivers hB hrm sat (by simpa using ha) ?_ ?_ ?_
  · rw [harg]; exact hv
  · rw [harg]
  · rw [harg]; exact fun s m e he => two_pow_fracBits_le hB (hmore s m e he)

theorem unary_delivers_whole {op : Exact → Exact × BitVec 5} {x y : Exact} {w : Value} {raised : BitVec 5}
    (hx : (decodeFp f a).1 = x) (hop : op x = (y, raised)) (hv : y.For w) (hy : y.Whole) :
    Delivers f rm sat [a] (rounded f (fun _ xs => op (argAt xs 0)) rm sat [a]) w raised :=
  unary_delivers hB ha hrm sat hx hop hv fun s m e he => absurd he (hy s m e)

theorem sqrtOp_special : let x := (valueOf f a 0).1
    let gives := fun (y : Value) (raised : BitVec 5) => Delivers f rm sat [a] (sqrtOp f rm sat [a]) y raised
    (x = .nan → gives .nan 0) ∧ (x = .inf true → gives .nan fNV) ∧ (∀ s, x = .num s 0 → gives (.num s 0) 0)
      ∧ (x = .inf false → gives (.inf false) 0) ∧ (∀ q, x = .num true q → q < 0 → gives .nan fNV) := by
  have whole := fun {y w raised x} => unary_delivers_whole hB ha hrm sat (op := Exact.sqrt) (x := x) (y := y) (w := w)
    (raised := raised)
  refine ⟨fun h => whole (decodeFp_of_nan hB ha h) rfl rfl Exact.nan_whole,
    fun h => whole (decodeFp_of_inf hB ha h) rfl rfl Exact.nan_whole, fun s h => ?_,
    fun h => whole (decodeFp_of_inf hB ha h) rfl rfl (Exact.inf_whole _), fun q h hq => ?_⟩
  · obtain ⟨m, e, hx, hm, -⟩ := decodeFp_of_num hB ha h
    exact whole hx (if_pos ((signedBy_eq_zero s m e).1 hm.symm)) (Exact.zero_for s) (Exact.fin_whole _ _ _)
  · obtain ⟨m, e, hx, rfl, -⟩ := decodeFp_of_num hB ha h
    refine whole hx (y := .nan) ?_ rfl Exact.nan_whole
    simp only [Exact.sqrt, if_neg (mt (signedBy_eq_zero true m e).2 hq.ne), if_true]

/-- The square root of a positive number. -/
theorem sqrtOp_root (hm : b.fracBits + 1 ≤ 53) {p : ℚ} (h : (valueOf f a 0).1 = .num false p) (hp : 0 < p) :
    ∃ ε : ℚ, 0 < ε ∧ ∀ q, 0 < q → |q * q / p - 1| < ε → ((∃ t, 0 < t ∧ t * t / p = 1) → q * q / p = 1) →
      Delivers f rm sat [a] (sqrtOp f rm sat [a]) (.num false q) 0 := by
  obtain ⟨m, e, hx, rfl, hlt⟩ := decodeFp_of_num hB ha h
  obtain ⟨r, E, more, hop, hr, ε, hε, hroot⟩ := Exact.sqrt_root (e := e) (k := false)
    (mt (signedBy_eq_zero false m e).2 hp.ne') (hlt.trans_le (Nat.pow_le_pow_right two_pos hm))
  have hsigned : signedBy false (m * 2 ^ e) = m * 2 ^ e := by rw [signedBy, if_neg Bool.false_ne_true, one_mul]
  rw [hsigned]
  exact ⟨ε, hε, fun q hq hnear hex => unary_delivers hB ha hrm sat (op := Exact.sqrt) hx hop (hroot q hq hnear hex)
    fun s n k he => by cases he; exact hr⟩

/-- The reciprocal square root of a positive number. -/
theorem rsqrt_root (hm : b.fracBits + 1 ≤ 24) {p : ℚ} (h : (valueOf f a 0).1 = .num false p) (hp : 0 < p) :
    ∃ ε : ℚ, 0 < ε ∧ ∀ q, 0 < q → |q * q * p - 1| < ε → ((∃ t, 0 < t ∧ t * t * p = 1) → q * q * p = 1) →
      Delivers f rm sat [a] (rounded f (fun _ xs => (argAt xs 0).rsqrt) rm sat [a]) (.num false q) 0 := by
  obtain ⟨m, e, hx, rfl, hlt⟩ := decodeFp_of_num hB ha h
  obtain ⟨r, E, more, hop, hr, ε, hε, hroot⟩ := Exact.rsqrt_root (e := e) (k := false)
    (mt (signedBy_eq_zero false m e).2 hp.ne') (hlt.trans_le (Nat.pow_le_pow_right two_pos hm))
  have hsigned : signedBy false (m * 2 ^ e) = m * 2 ^ e := by rw [signedBy, if_neg Bool.false_ne_true, one_mul]
  rw [hsigned]
  exact ⟨ε, hε, fun q hq hnear hex => unary_delivers hB ha hrm sat (op := Exact.rsqrt) hx hop (hroot q hq hnear hex)
    fun s n k he => by cases he; exact hr⟩

end

section

variable {a rm : Nat} (ha : a < 2 ^ 32) (hrm : rm < 4) (sat : Bool)
include ha hrm

/-- The reciprocal is one divided by the operand. -/
theorem rcpOp_delivers {v : Value} (h : (valueOf 0 a 0).1 = v) : Delivers 0 rm sat [a] (rcpOp rm sat [a])
    ((Value.num false 1).over v) (invalidOf ((Value.num false 1).over v) [.num false 1, v] ||| divZeroOf (.num false 1) v) := by
  have hone : (Exact.ofInt 1).For (.num false 1) := by simpa using Exact.ofInt_for 1
  have hv := (decodeFp_value binaryFormat_fp32 ha).1
  rw [h] at hv
  obtain ⟨hq, hr, hm⟩ := Exact.div_value (Exact.fin_whole _ _ _) (decodeFp_whole 0 a) hone hv
  exact unary_delivers binaryFormat_fp32 ha hrm sat (op := fun x => (Exact.ofInt 1).div x) rfl (Prod.ext rfl hr) hq
    fun s m e he => (Nat.pow_le_pow_right two_pos (by decide)).trans (hm s m e he)

theorem unary_nan (h : (valueOf 0 a 0).1 = .nan) : ∀ op ∈ [rcpOp, rsqOp, log2Op, exp2Op],
    Delivers 0 rm sat [a] (op rm sat [a]) .nan 0 := by
  have hx := decodeFp_of_nan binaryFormat_fp32 ha h
  simp only [List.forall_mem_cons]
  refine ⟨?_, ?_, ?_, ?_, by simp⟩
  · exact unary_delivers_whole binaryFormat_fp32 ha hrm sat (op := fun x => (Exact.ofInt 1).div x) hx rfl rfl Exact.nan_whole
  · exact unary_delivers_whole binaryFormat_fp32 ha hrm sat (op := Exact.rsqrt) hx rfl rfl Exact.nan_whole
  · exact unary_delivers_whole binaryFormat_fp32 ha hrm sat (op := Exact.log2) hx rfl rfl Exact.nan_whole
  · exact unary_delivers_whole binaryFormat_fp32 ha hrm sat (op := fun x => (x.exp2, 0)) hx rfl rfl Exact.nan_whole

theorem unary_inf {s : Bool} (h : (valueOf 0 a 0).1 = .inf s) :
    Delivers 0 rm sat [a] (rcpOp rm sat [a]) (.num s 0) 0
    ∧ Delivers 0 rm sat [a] (rsqOp rm sat [a]) (if s then .nan else .num false 0) (if s then fNV else 0)
    ∧ Delivers 0 rm sat [a] (log2Op rm sat [a]) (if s then .nan else .inf false) (if s then fNV else 0)
    ∧ Delivers 0 rm sat [a] (exp2Op rm sat [a]) (if s then .num false 0 else .inf false) 0 := by
  have hx := decodeFp_of_inf binaryFormat_fp32 ha h
  have whole := fun {y w raised} op => unary_delivers_whole binaryFormat_fp32 ha hrm sat (op := op) (y := y) (w := w)
    (raised := raised) hx
  refine ⟨?_, ?_, ?_, ?_⟩
  · exact whole (fun x => (Exact.ofInt 1).div x) rfl (by cases s <;> exact Exact.zero_for _) (Exact.fin_whole _ _ _)
  all_goals cases s
  · exact whole Exact.rsqrt rfl (Exact.zero_for _) (Exact.fin_whole _ _ _)
  · exact whole Exact.rsqrt rfl rfl Exact.nan_whole
  · exact whole Exact.log2 rfl rfl (Exact.inf_whole _)
  · exact whole Exact.log2 rfl rfl Exact.nan_whole
  · exact whole (fun x => (x.exp2, 0)) rfl rfl (Exact.inf_whole _)
  · exact whole (fun x => (x.exp2, 0)) rfl (Exact.zero_for _) (Exact.fin_whole _ _ _)

theorem unary_negative {q : ℚ} (h : (valueOf 0 a 0).1 = .num true q) (hq : q < 0) :
    Delivers 0 rm sat [a] (rsqOp rm sat [a]) .nan fNV ∧ Delivers 0 rm sat [a] (log2Op rm sat [a]) .nan fNV := by
  obtain ⟨m, e, hx, rfl, -⟩ := decodeFp_of_num binaryFormat_fp32 ha h
  have hm : m ≠ 0 := mt (signedBy_eq_zero true m e).2 hq.ne
  have whole := fun op hop => unary_delivers_whole binaryFormat_fp32 ha hrm sat (op := op) (y := .nan) (w := .nan) (raised := fNV)
    hx hop rfl Exact.nan_whole
  exact ⟨whole Exact.rsqrt (by simp only [Exact.rsqrt, if_neg hm, if_true]),
    whole Exact.log2 (by simp only [Exact.log2, if_neg hm, if_true])⟩

theorem unary_zero {s : Bool} (h : (valueOf 0 a 0).1 = .num s 0) :
    Delivers 0 rm sat [a] (rcpOp rm sat [a]) (.inf s) fDZ ∧ Delivers 0 rm sat [a] (rsqOp rm sat [a]) (.inf s) fDZ
    ∧ Delivers 0 rm sat [a] (log2Op rm sat [a]) (.inf true) fDZ ∧ Delivers 0 rm sat [a] (exp2Op rm sat [a]) (.num false 1) 0 := by
  obtain ⟨m, e, hx, hz, -⟩ := decodeFp_of_num binaryFormat_fp32 ha h
  obtain rfl : m = 0 := (signedBy_eq_zero s m e).1 hz.symm
  have whole := fun {y w raised} op => unary_delivers_whole binaryFormat_fp32 ha hrm sat (op := op) (y := y) (w := w)
    (raised := raised) hx
  refine ⟨?_, whole Exact.rsqrt rfl rfl (Exact.inf_whole s), whole Exact.log2 rfl rfl (Exact.inf_whole true), ?_⟩
  · exact whole (fun x => (Exact.ofInt 1).div x) rfl (by cases s <;> rfl) (Exact.inf_whole _)
  · refine whole (fun x => (x.exp2, 0)) rfl (y := .fin false 1 0 false) ?_ (Exact.fin_whole _ _ _)
    simpa [signedBy] using Exact.fin_for false 1 0

end

theorem binaryFormat_roots : ∀ f ∈ [0, 20], ∃ b, binaryFormat f = some b ∧ b.fracBits + 1 ≤ 53 := by
  simp only [List.forall_mem_cons]
  exact ⟨⟨_, rfl, by decide⟩, ⟨_, rfl, by decide⟩, by simp⟩

theorem floatRoots : FloatRoots := by
  intro rm hrm sat f hf a ha
  obtain ⟨b, hB, hfrac⟩ := binaryFormat_roots f hf
  obtain ⟨h1, h2, h3, h4, h5⟩ := sqrtOp_special hB ha hrm sat
  refine ⟨h1, h2, h3, h4, h5, fun p h hp => sqrtOp_root hB ha hrm sat hfrac h hp, ?_⟩
  rintro rfl
  refine ⟨unary_nan ha hrm sat, fun h => ?_, fun q h hq => unary_negative ha hrm sat h hq, fun s h => unary_zero ha hrm sat h,
    fun h => ?_, fun s q h hq => ?_, fun p h hp => rsqrt_root binaryFormat_fp32 ha hrm sat le_rfl h hp⟩
  · exact unary_inf ha hrm sat h
  · exact unary_inf ha hrm sat h
  · have hover : (Value.num false 1).over (.num s q) = .num s (1 / q) := by simp [Value.over, hq]
    have hr := rcpOp_delivers ha hrm sat h
    rw [hover, invalidOf_ne_nan (by simp), divZeroOf_num, if_neg fun hc => hq hc.2] at hr
    exact hr

/-! ## The floating-point units (R127, R131–R133) -/

theorem Warp.fpOperand_eq (s : State) (f : Nat) (r : Fin 64) (o : Nat) (l : Fin 32) : s.warp.fpOperand f (regAt r o) l =
    if f = 20 then s.pairOf (regAt r o) l else (s.elem r o l).setWidth 64 := by
  rw [Warp.fpOperand, Warp.pair_eq]
  rfl

/-- A unit's element operation is done on every element of every live active lane. -/
theorem floatDid_of_unit {s : State} (hp : s.Prompt) {i : Instr} {f : Nat} {op : FpFn} {d : Fin 64} {vs ss : List (Fin 64 × Bool)}
    (he : exec i s = fpUnit f op d vs ss s) : FloatDid s i f op d vs ss := by
  unfold FloatDid
  intro n v xs r hr hc heven
  have hlegal : (f != 20 || (pairBase d && vs.all fun q => pairBase q.1)) = true := by
    by_cases hf : f = 20
    · obtain ⟨hd, hvs⟩ := heven hf
      rw [pairBase_of_even hd, List.all_eq_true.2 fun q hq => pairBase_of_even (hvs q hq), Bool.and_self, Bool.or_true]
    · simp [hf]
  have hstep : v.step = 1 ∨ v.step = 2 := by
    show (if f = 20 then 2 else 1) = 1 ∨ (if f = 20 then 2 else 1) = 2
    split
    · exact .inr rfl
    · exact .inl rfl
  have hdid := vecUnit_did hp v { hblk := true, hmod := some roundFields }
    (fun w o l => fpLane f op w.frag.hints.rm w.frag.hints.sat
      (vs.map (fun q => w.fpOperand f (regAt q.1 o) l) ++ ss.map fun q => w.readS q.1)) hr hstep (.inl rfl) hc
  simp only [Warp.fpOperand_eq] at hdid
  rw [he, fpUnit, hlegal]
  exact hdid

/-! ## The instructions of the tables -/

/-- The instructions of the tables are the units of the operations that stand beside them. -/
theorem exec_floatTable2 : ∀ e ∈ floatTable2, ∀ (s : State) (d a b : Fin 64) (x y : Bool),
    exec (e.1 d a b x y) s = fp2 e.2.2.1 e.2.2.2 d a b x y s := by
  simp only [floatTable2, List.forall_mem_cons, List.not_mem_nil, false_implies, implies_true, and_true]
  and_intros
  all_goals exact fun _ _ _ _ _ _ => rfl

theorem exec_floatTable2_scalar : ∀ e ∈ floatTable2, ∀ sc, e.2.1 = some sc → ∀ (s : State) (d a b : Fin 64) (x y : Bool),
    exec (sc d a b x y) s = fp2s e.2.2.1 e.2.2.2 d a b x y s := by
  simp only [floatTable2, List.forall_mem_cons, List.not_mem_nil, false_implies, implies_true, and_true,
    Option.some.injEq, forall_eq', reduceCtorEq]
  and_intros
  all_goals exact fun _ _ _ _ _ _ => rfl

theorem exec_floatTable1 : ∀ e ∈ floatTable1, ∀ (s : State) (d a : Fin 64) (x : Bool),
    exec (e.1 d a x) s = fp1 e.2.1 e.2.2 d a x s := by
  simp only [floatTable1, List.forall_mem_cons, List.not_mem_nil, false_implies, implies_true, and_true]
  and_intros
  all_goals exact fun _ _ _ _ => rfl

theorem exec_floatTable3 : ∀ e ∈ floatTable3, ∀ (s : State) (d a b c : Fin 64) (x : Bool),
    exec (e.1 d a b c x) s = fp3 e.2.1 e.2.2 d a b c x s := by
  simp only [floatTable3, List.forall_mem_cons, List.not_mem_nil, false_implies, implies_true, and_true]
  and_intros
  all_goals exact fun _ _ _ _ _ _ => rfl

/-- Settles O19: the operations on values by exact arithmetic and RoundTo, the instructions by the rule of the vector units. -/
theorem floatArithmetic : Obligations.FloatArithmetic := by
  unfold Obligations.FloatArithmetic
  refine ⟨floatRounds, floatPicks, floatRoots, fun e he s d a b x y hp => ?_, fun e he s d a x hp => ?_,
    fun e he s d a b c x hp => ?_⟩
  · exact ⟨floatDid_of_unit hp (exec_floatTable2 e he s d a b x y),
      fun sc h => floatDid_of_unit hp (exec_floatTable2_scalar e he sc h s d a b x y)⟩
  · exact floatDid_of_unit hp (exec_floatTable1 e he s d a x)
  · exact floatDid_of_unit hp (exec_floatTable3 e he s d a b c x)

end Sys2Proof.Machine
end

section
/-! What an access notes in the books of coherence, ownership and tokens (R152–R157, R301): its rules, used by every
statement about accesses to memory. -/

set_option Elab.async false

namespace Sys2Proof.Machine

/-! ## Lists -/

/-- What a list is searched for, where it holds it once. -/
theorem find?_unique {α : Type} {f : α → Bool} {l : List α} {a : α} (ha : a ∈ l) (hf : f a = true)
    (h : ∀ b ∈ l, f b = true → b = a) : l.find? f = some a := by
  cases hb : l.find? f with
  | none => exact absurd hf (List.find?_eq_none.1 hb a ha)
  | some b => rw [h b (List.mem_of_find?_eq_some hb) (List.find?_some hb)]

/-! ## The books (R152–R156) -/

/-- Nothing differs but meters, lines of the LLC, and the books of homes, registrations, regions and sectors. -/
structure State.Noted (s t : State) : Prop where
  rest : t = { s with
    contexts := t.contexts, llc := t.llc, homes := t.homes, regs := t.regs, regions := t.regions, sectors := t.sectors }
  meters : ∀ n, (t.context? n).map Context.unmetered = (s.context? n).map Context.unmetered

namespace State.Noted

variable {s t u : State}

theorem refl (s : State) : s.Noted s := ⟨rfl, fun _ => rfl⟩

theorem trans (h : s.Noted t) (g : t.Noted u) : s.Noted u :=
  ⟨by rw [g.rest, h.rest], fun n => (g.meters n).trans (h.meters n)⟩

theorem foldl {α : Type} {f : State → α → State} (hf : ∀ (s : State) (a : α), s.Noted (f s a)) (l : List α) :
    ∀ s : State, s.Noted (l.foldl f s) := by
  induction l with
  | nil => exact refl
  | cons a l ih => exact fun s => (hf s a).trans (ih _)

theorem mem (h : s.Noted t) : t.mem = s.mem := by rw [h.rest]
theorem poison (h : s.Noted t) : t.poison = s.poison := by rw [h.rest]
theorem partials (h : s.Noted t) : t.partials = s.partials := by rw [h.rest]
theorem pageLocks (h : s.Noted t) : t.pageLocks = s.pageLocks := by rw [h.rest]
theorem warp (h : s.Noted t) : t.warp = s.warp := by rw [h.rest]

/-- A change of the books of homes, registrations, regions and sectors. -/
theorem books (s : State) (hs : List PageHome) (rs : List Registration) (qs : List Region) (ss : List Nat) :
    s.Noted { s with homes := hs, regs := rs, regions := qs, sectors := ss } := ⟨rfl, fun _ => rfl⟩

end State.Noted

/-- Nothing differs but meters and lines of the LLC. -/
structure State.Counted (s t : State) : Prop where
  rest : t = { s with contexts := t.contexts, llc := t.llc }
  meters : ∀ n, (t.context? n).map Context.unmetered = (s.context? n).map Context.unmetered

namespace State.Counted

variable {s t u : State}

theorem refl (s : State) : s.Counted s := ⟨rfl, fun _ => rfl⟩

theorem trans (h : s.Counted t) (g : t.Counted u) : s.Counted u :=
  ⟨by rw [g.rest, h.rest], fun n => (g.meters n).trans (h.meters n)⟩

theorem noted (h : s.Counted t) : s.Noted t := ⟨by rw [h.rest], h.meters⟩

end State.Counted

theorem State.SameButMeters.counted {s t : State} (h : s.SameButMeters t) : s.Counted t :=
  ⟨by rw [h.rest], h.meters⟩

/-- A change of the lines that the LLC holds. -/
theorem State.counted_llc (s : State) (ls : List LlcLine) : s.Counted { s with llc := ls } := ⟨rfl, fun _ => rfl⟩

theorem State.charge_counted (s : State) (ctx cls n : Nat) : s.Counted (s.charge ctx cls n) :=
  (s.charge_meters ctx cls n).counted

theorem State.llcTrim_counted (s : State) (ctx : Nat) : s.Counted (s.llcTrim ctx) := by
  unfold State.llcTrim
  dsimp only
  split
  · exact .refl s
  · exact (s.counted_llc _).trans (s.llcFlush_meters _).counted

theorem State.llcAccess_counted (s : State) (ctx line : Nat) (write : Bool) : s.Counted (s.llcAccess ctx line write) := by
  have hset := (s.setContext_meters ctx { s.context ctx with
    llcReads := (s.context ctx).llcReads + 1, llcMisses := (s.context ctx).llcMisses + (!s.llcHolds line).toNat } rfl).counted
  unfold State.llcAccess
  dsimp only
  split
  · exact hset.trans (State.counted_llc _ _)
  · exact (hset.trans (State.counted_llc _ _)).trans (State.llcTrim_counted _ ctx)

theorem State.llcRead_counted (s : State) (ctx line : Nat) : s.Counted (s.llcRead ctx line) := by
  unfold State.llcRead
  split
  · exact s.llcAccess_counted _ _ _
  · exact (s.charge_counted _ _ _).trans (State.llcAccess_counted _ _ _ _)

theorem State.passLlc_noted (s : State) (a : Agent) (kind loc : Nat) (write : Bool) : s.Noted (s.passLlc a kind loc write) := by
  unfold State.passLlc
  split
  · exact (s.llcAccess_counted _ _ _).noted
  · exact .refl s

theorem State.ownSectors_noted (s : State) (kind loc n : Nat) : s.Noted (s.ownSectors kind loc n) := by
  unfold State.ownSectors
  split
  · exact .books s s.homes s.regs s.regions _
  · exact .refl s

theorem State.touchHome_noted (s : State) (loc site : Nat) : s.Noted (s.touchHome loc site) := by
  unfold State.touchHome
  dsimp only
  split
  · exact .refl s
  · exact .books s _ s.regs s.regions s.sectors

theorem State.countWrite_noted (s : State) (loc site : Nat) : s.Noted (s.countWrite loc site) :=
  .books s _ s.regs s.regions s.sectors

theorem State.noteRead_noted (s : State) (loc site : Nat) : s.Noted (s.noteRead loc site) := by
  unfold State.noteRead
  split <;> exact .books s s.homes s.regs _ s.sectors

theorem State.noteWrite_noted (s : State) (loc site : Nat) : s.Noted (s.noteWrite loc site) := by
  unfold State.noteWrite
  split
  · exact .books s s.homes s.regs _ s.sectors
  · split <;> exact .books s s.homes s.regs _ s.sectors

theorem State.pushWords_noted (s : State) (loc n : Nat) : s.Noted (s.pushWords loc n) :=
  .books s s.homes _ s.regions s.sectors

theorem State.pushCore_noted (s : State) (line core : Nat) : s.Noted (s.pushCore line core) :=
  .books s s.homes _ s.regions s.sectors

/-- What a read notes. -/
theorem State.noteReadBy_noted (s : State) (a : Agent) (kind loc : Nat) : s.Noted (s.noteReadBy a kind loc) := by
  have h := s.passLlc_noted a kind loc false
  unfold State.noteReadBy
  dsimp only
  split
  · exact (h.trans (State.touchHome_noted _ _ _)).trans (State.noteRead_noted _ _ _)
  · exact h

/-- What a write notes. -/
theorem State.noteWriteBy_noted (s : State) (a : Agent) (kind loc n : Nat) : s.Noted (s.noteWriteBy a kind loc n) := by
  have hpass := (s.passLlc_noted a kind loc true).trans (State.ownSectors_noted _ kind loc n)
  have hhome : ∀ t : State, t.Noted
      (if a.outside then t else ((t.touchHome loc a.site).countWrite loc a.site).noteWrite loc a.site) := fun t => by
    split
    · exact .refl t
    · exact ((t.touchHome_noted _ _).trans (State.countWrite_noted _ _ _)).trans (State.noteWrite_noted _ _ _)
  have hwords : ∀ t : State, t.Noted (match a.core with
      | some c => if 4 ≤ n then { t with regs := register t.regs (lineOf loc) c (wordMask loc n) } else t.pushWords loc n
      | none => t.pushWords loc n) := fun t => by
    split
    · split
      · exact .books t t.homes _ t.regions t.sectors
      · exact t.pushWords_noted _ _
    · exact t.pushWords_noted _ _
  unfold State.noteWriteBy
  split
  · exact (hpass.trans (hhome _)).trans (hwords _)
  · exact .refl s

/-- What is charged for accesses. -/
theorem State.chargeAll_noted (s : State) (ctx site : Nat) (ts : List (Nat × Nat × Nat)) : s.Noted (s.chargeAll ctx site ts) := by
  refine State.Noted.foldl (fun t c => ?_) _ s
  split
  · exact (t.charge_counted _ _ _).noted
  · exact .refl t

theorem State.chargeLanes_noted (s : State) (ctx site : Nat) (ts : List (Nat × Nat × Nat)) :
    s.Noted (s.chargeLanes ctx site ts) := by
  unfold State.chargeLanes
  dsimp only
  split
  · exact s.chargeAll_noted _ _ _
  · exact (s.chargeAll_noted _ _ _).trans (State.charge_counted _ _ _ _).noted

/-! ## One access that nothing delays (R152) -/

/-- A read of a place whose lines hold no partial value. -/
theorem State.readAt_clear {s : State} (a : Agent) (kind : Nat) {loc n : Nat}
    (h : ∀ p ∈ s.partials, lineOf p.loc ∉ linesOf loc n) :
    s.readAt a kind loc n = (s.noteReadBy a kind loc, s.mem.readBytes loc n) := by
  unfold State.readAt
  rw [State.recallLines_clear h]
  exact congrArg (fun m : Memory => (s.noteReadBy a kind loc, m.readBytes loc n)) (s.noteReadBy_noted a kind loc).mem

/-- A write to such a place, outside pages under migration. -/
theorem State.writeAt_clear {s : State} (a : Agent) (kind : Nat) {loc : Nat} {bs : List Byte}
    (hl : s.pageLockOf loc = none) (h : ∀ p ∈ s.partials, lineOf p.loc ∉ linesOf loc bs.length) :
    s.writeAt a kind loc bs = (s.noteWriteBy a kind loc bs.length).poke loc bs := by
  unfold State.writeAt
  rw [hl, State.recallLines_clear h]
  exact if_neg Bool.false_ne_true

/-- A write of bits to such a place. -/
theorem State.writeBitsAt_clear {s : State} (a : Agent) (kind : Nat) {loc : Nat} (o n v : Nat)
    (hl : s.pageLockOf loc = none) (h : ∀ p ∈ s.partials, lineOf p.loc ≠ lineOf loc) :
    s.writeBitsAt a kind loc o n v = (s.noteWriteBy a kind loc 1).pokeBits loc o n v := by
  unfold State.writeBitsAt
  rw [hl, State.recall_clear h]
  exact if_neg Bool.false_ne_true

end Sys2Proof.Machine
end

section
/-! Obligation O41: TLBINV and HOMEMV (R156, R164, R348). -/

set_option Elab.async false

namespace Sys2Proof.Machine

/-! ## Privileged units that leave a pending instruction -/

section
variable {s t : State}

/-- A unit of major 0x3A in a warp of context 0 takes its effect where it is ready. -/
theorem pageIssue_go (hc : s.warp.ctx = 0) {rs : List (Fin 64)} (h : s.Ready { srcs := rs.map fun r => (.s r, false) })
    (e : State → State) : pageIssue rs e s = .next (e s) := by
  have hp : s.privileged = true := by simp [State.privileged, hc]
  have hr : s.Ready { denied := !s.privileged, srcs := rs.map fun r => (.s r, false) } := by rw [hp]; exact h
  exact State.issue_ready hr e

/-- So does one with a further condition of R57 that it meets. -/
theorem pageIssue_go_legal (hc : s.warp.ctx = 0) {rs : List (Fin 64)} (h : s.Ready { srcs := rs.map fun r => (.s r, false) })
    {b : Bool} (hb : b = true) (e : State → State) :
    s.issue { denied := !s.privileged, legal := b, srcs := rs.map fun r => (.s r, false) } e = .next (e s) := by
  have hp : s.privileged = true := by simp [State.privileged, hc]
  have hr : s.Ready { denied := !s.privileged, legal := b, srcs := rs.map fun r => (.s r, false) } := by
    rw [hp]
    exact h.of_legal hb
  exact State.issue_ready hr e

/-- A unit whose effect is a trap. -/
theorem pageIssue_traps (hc : s.warp.ctx = 0) {rs : List (Fin 64)} (h : s.Ready { srcs := rs.map fun r => (.s r, false) })
    (hh : s.Handles) {e : State → State} {c : Cause} (he : e s = s.trap c) : Traps s (pageIssue rs e s) c :=
  ⟨_, pageIssue_go hc h e, by rw [he]; exact State.trap_trapped hh c 0⟩

/-- A unit whose effect is to go on at the next unit. -/
theorem State.advance_goes : Goes s (.next s.advance) s.next := ⟨_, rfl, rfl, rfl, rfl⟩

/-- The pending instruction of a unit of major 0x3A. -/
def State.pagePending (s : State) : Pending :=
  { id := s.warp.nextPend, pc := s.warp.frag.pc, gen := s.warp.traps, mask := s.warp.frag.mask, kind := .page, dests := []
    writes := [], flags := 0, floats := false, killed := 0, killedAt := 0, ready := false, fault := none, faults := []
    unit := none, acq := false, stepped := s.warp.stepping }

theorem State.blockOnPage_warp (s : State) : s.blockOnPage.warp = { s.warp with
    pend := s.warp.pend ++ [s.pagePending], nextPend := s.warp.nextPend + 1, frag := s.blockOnPage.warp.frag } := rfl

theorem State.blockOnPage_pend (s : State) : s.blockOnPage.warp.pend = s.warp.pend ++ [s.pagePending] := rfl

/-- The unit waits for its instruction, which nothing has answered. -/
theorem State.blockOnPage_leaves (hw : t.warp = s.blockOnPage.warp) (hm : t.mem = s.mem) :
    Leaves s t .page none true none := by
  refine ⟨⟨s.pagePending, by rw [hw]; rfl, rfl, rfl, rfl, rfl, rfl, rfl, fun _ h => (by cases h)⟩, ?_,
    fun r hr => absurd hr List.not_mem_nil, ⟨?_, ?_, fun a => by rw [hm]⟩⟩
  · rw [hw]
    exact ⟨rfl, rfl, rfl⟩
  · rw [hw, State.blockOnPage_warp]
    exact ⟨fun _ _ => ⟨rfl, rfl, rfl⟩, fun _ _ => ⟨rfl, rfl, rfl⟩⟩
  · rw [hw, State.blockOnPage_warp]
    exact ⟨rfl, rfl, rfl, rfl, rfl, rfl, rfl, rfl, rfl, rfl⟩

/-- An answer to the warp in focus. -/
theorem State.answer_self (s : State) (k : Nat) (v : Word64) : s.answer s.warp.uid k v =
    { s with warp := { s.warp with pend := s.warp.pend.map (answeredAt k v) } } := if_pos rfl

/-- What an instruction leaves does not turn on the pending instructions of the warp, those apart that the statement names. -/
theorem Leaves.of_pend {kind : PendKind} {d : Option (Fin 64)} {b : Bool} {v v' : Option Word64} {ps : List Pending}
    {u : State} (h : Leaves s u kind d b v) (hw : t.warp = { u.warp with pend := ps }) (hm : t.mem = u.mem)
    (hp : ∃ p, ps = s.warp.pend ++ [p] ∧ p.id = s.warp.nextPend ∧ p.kind = kind ∧ p.pc = s.warp.frag.pc
      ∧ p.dests = d.toList.map Reg.s ∧ p.fault = none ∧ p.ready = v'.isSome
      ∧ ∀ x, v' = some x → p.writes = d.toList.map fun r => .s r x) : Leaves s t kind d b v' := by
  obtain ⟨-, hplace, hempty, hcalm⟩ := h
  obtain ⟨hkeeps, hwarp, hbytes⟩ := hcalm
  refine ⟨by rw [hw]; exact hp, by rw [hw]; exact hplace, fun r hr h0 => ?_, ⟨?_, by rw [hw]; exact hwarp, fun a => ?_⟩⟩
  · rw [hw]
    exact hempty r hr h0
  · rw [hw]
    exact ⟨hkeeps.scalar, hkeeps.vector⟩
  · rw [hm]
    exact hbytes a

/-- An instruction answered at once may complete; those before it are as they were. -/
theorem State.blockOnPage_leaves_answered (hf : s.warp.Fresh)
    (hw : t.warp = { s.blockOnPage.warp with pend := s.blockOnPage.warp.pend.map (answeredAt s.warp.nextPend 0) })
    (hm : t.mem = s.mem) : Leaves s t .page none true (some 0) := by
  have hold : s.warp.pend.map (answeredAt s.warp.nextPend 0) = s.warp.pend := by
    refine (List.map_congr_left fun p hp => ?_).trans (List.map_id _)
    have hlt := hf p hp
    exact if_neg (by simp; omega)
  have hnew : answeredAt s.warp.nextPend 0 s.pagePending = { s.pagePending with ready := true } :=
    if_pos (beq_self_eq_true s.warp.nextPend)
  refine (State.blockOnPage_leaves (s := s) (t := s.blockOnPage) rfl rfl).of_pend hw hm
    ⟨{ s.pagePending with ready := true }, ?_, rfl, rfl, rfl, rfl, rfl, rfl, fun _ _ => rfl⟩
  rw [State.blockOnPage_pend, List.map_append, hold, List.map_singleton, hnew]

end

/-! ## TLBINV (R164) -/

/-- The shoot-down that a unit of the warp in focus starts. -/
def State.shootdown (s : State) (asid : Option (BitVec 16)) (va : Option Nat) : Shootdown :=
  let k : Shootdown := { id := s.nextUid, units := [], asid := asid, va := va, warp := s.warp.uid, pend := s.warp.nextPend
                         tag := none, ctx := 0 }
  { k with units := ((s.tlb.filter k.names).map (·.unit) ++ ((List.range 648).map tlbUnitAt).filter s.unitBusy).eraseDups }

theorem State.unitBusy_blockOnPage (s : State) : s.blockOnPage.unitBusy = s.unitBusy := rfl

theorem State.blockOnPage_startShootdown (s : State) (asid : Option (BitVec 16)) (va : Option Nat) :
    s.blockOnPage.startShootdown asid va s.warp.uid s.warp.nextPend none 0 =
      { s.blockOnPage with nextUid := s.nextUid + 1, shootdowns := s.shootdowns ++ [s.shootdown asid va] } := by
  unfold State.startShootdown State.shootdown
  rw [State.unitBusy_blockOnPage]
  rfl

/-- The units of a shoot-down: those that hold an entry it names, and those with accesses under way. -/
theorem State.mem_shootdown_units (s : State) (asid : Option (BitVec 16)) (va : Option Nat) (u : TlbUnit) :
    u ∈ (s.shootdown asid va).units ↔ (∃ e ∈ s.tlb, (s.shootdown asid va).names e = true ∧ e.unit = u)
      ∨ s.unitBusy u = true ∧ ∃ i < 648, u = tlbUnitAt i := by
  simp only [State.shootdown, List.mem_eraseDups, List.mem_append, List.mem_map, List.mem_filter, List.mem_range]
  refine or_congr ⟨fun ⟨e, ⟨h1, h2⟩, h3⟩ => ⟨e, h1, h2, h3⟩, fun ⟨e, h1, h2, h3⟩ => ⟨e, ⟨h1, h2⟩, h3⟩⟩ ?_
  exact ⟨fun ⟨⟨i, hi, he⟩, hb⟩ => ⟨hb, i, hi, he.symm⟩, fun ⟨hb, i, hi, he⟩ => ⟨⟨i, hi, he.symm⟩, hb⟩⟩

/-- Where each shoot-down waits for some unit, none ends. -/
theorem State.endShootdowns_waiting {s : State} (h : ∀ k ∈ s.shootdowns, k.units ≠ []) : s.endShootdowns = s := by
  have hnone : s.shootdowns.filter (·.units.isEmpty) = [] :=
    List.filter_eq_nil_iff.2 fun k hk => by simp [h k hk]
  unfold State.endShootdowns
  rw [hnone]
  rfl

/-- The last of the shoot-downs, which no unit has to acknowledge, ends at once with an answer. -/
theorem State.endShootdowns_last {s : State} {k : Shootdown} {ks : List Shootdown} (hs : s.shootdowns = ks ++ [k])
    (h : ∀ x ∈ ks, x.units ≠ [] ∧ x.id ≠ k.id) (hk : k.units = []) (ht : k.tag = none) :
    s.endShootdowns = State.unwait { s with shootdowns := ks } k.warp k.pend := by
  have hdone : s.shootdowns.filter (·.units.isEmpty) = [k] := by
    have hnone : ks.filter (·.units.isEmpty) = [] := List.filter_eq_nil_iff.2 fun x hx => by simp [(h x hx).1]
    rw [hs, List.filter_append, hnone]
    simp [hk]
  have hrest : s.shootdowns.filter (·.id != k.id) = ks := by
    have hall : ks.filter (·.id != k.id) = ks := List.filter_eq_self.2 fun x hx => by simp [(h x hx).2]
    rw [hs, List.filter_append, hall]
    simp
  unfold State.endShootdowns
  rw [hdone]
  show s.endShootdown k = _
  unfold State.endShootdown
  rw [hrest, ht]

/-! ## HOMEMV (R156) -/

theorem badPage_iff (loc size : Nat) : badPage loc size = true ↔ ¬ (loc < 2 ^ 52 ∧ loc % 2 ^ size = 0) := by
  rw [badPage, Bool.or_eq_true, decide_eq_true_eq, bne_iff_ne, localLimit]
  omega

/-- A page that has a home, or that takes none. -/
theorem State.touchHome_kept {s : State} {loc : Nat} (site : Nat) (h : s.housed loc = true ∨ homed loc = false) :
    s.touchHome loc site = s := by
  unfold State.touchHome
  exact if_pos (by rcases h with h | h <;> simp [h])

/-- Places of local memory from 2^51 on have no home. -/
theorem homed_scratch {loc : Nat} (h : 2 ^ 51 ≤ loc) (h' : loc < 2 ^ 52) : homed loc = false := by
  have hb : ¬ hostBase ≤ loc := by unfold hostBase; omega
  simp [homed, hb]
  omega

/-- The home that a page gets at its first access. -/
def State.firstHome (s : State) (page site : Nat) : PageHome :=
  { page := page, size := s.pageSize page, site := site, moving := none, asker := none, writes := [], since := s.clock.toNat }

/-- A page of local memory without a home, which meets no page that has one. -/
theorem State.touchHome_new {s : State} {page : Nat} (site : Nat) (hpage : page < 2 ^ 51)
    (hal : page % 2 ^ s.pageSize page = 0) (hnone : s.homeAt page = none)
    (hapart : ∀ h ∈ s.homes, ¬ (h.page < page + 2 ^ s.pageSize page ∧ page < h.page + 2 ^ h.size)) :
    s.touchHome page site = { s with homes := s.homes ++ [s.firstHome page site] } := by
  have hbase : page / 2 ^ s.pageSize page * 2 ^ s.pageSize page = page := Nat.div_mul_cancel (Nat.dvd_of_mod_eq_zero hal)
  have hmeet : ∀ h ∈ s.homes, pagesMeet h.page h.size page (s.pageSize page) = false := fun h hh => by
    have := hapart h hh
    simp only [pagesMeet, Bool.and_eq_false_iff, decide_eq_false_iff_not]
    omega
  have hmoving : (s.homes.any fun h => pagesMeet h.page h.size page (s.pageSize page) && h.moving.isSome) = false :=
    List.any_eq_false.2 fun h hh => by simp [hmeet h hh]
  have hkeep : s.homes.filter (fun h => !pagesMeet h.page h.size page (s.pageSize page)) = s.homes :=
    List.filter_eq_self.2 fun h hh => by simp [hmeet h hh]
  have hhomed : homed page = true := by simp only [homed, hpage, decide_true, Bool.true_or]
  have hhoused : s.housed page = false := by simp [State.housed, State.homeOf, hnone]
  unfold State.touchHome
  dsimp only
  rw [hbase, hhomed, hhoused, hmoving, hkeep]
  rfl

/-- A page's home moves to a site, which the unit waits for. -/
def State.asksMove (s : State) (page site : Nat) : State :=
  { s.blockOnPage with homes := s.homes.map fun (g : PageHome) =>
      if g.page == page then { g with moving := some site, asker := some (s.warp.uid, s.warp.nextPend) } else g }

theorem State.asksMove_leaves (s : State) (page site : Nat) : Leaves s (s.asksMove page site) .page none true none :=
  State.blockOnPage_leaves rfl rfl

theorem State.asksMove_eq (s : State) (page site : Nat) : s.asksMove page site = { s with
    warp := (s.asksMove page site).warp
    homes := s.homes.map fun g => if g.page = page then
      { g with moving := some site, asker := some (s.warp.uid, s.warp.nextPend) } else g } := by
  have hif : ∀ (g h : PageHome), (if g.page == page then h else g) = if g.page = page then h else g :=
    fun g h => if_congr beq_iff_eq rfl rfl
  simp only [← hif]
  rfl

/-- HOMEMV of a legal page. -/
theorem homemv_go {s u : State} {a b : Fin 64} (hc : s.warp.ctx = 0)
    (hr : s.Ready { srcs := [(.s a, false), (.s b, false)] }) {loc site : Nat} (hloc : (s.warp.readS a).toNat = loc)
    (hsite : (s.warp.readS b).toNat % 8 = site)
    (hok : badPage loc (((s.homeAt loc).map (·.size)).getD (s.pageSize loc)) = false)
    (hin : (s.site site).inService = true) (hu : s.touchHome loc site = u) : exec (.homemv b a) s = .next (
      match u.homeAt loc with
      | none => u.advance
      | some h => if h.moving.isSome then u.hold else u.asksMove h.page site) := by
  show execHomemv b a s = _
  unfold execHomemv
  refine (pageIssue_go hc (rs := [a, b]) hr _).trans (congrArg Host.Outcome.next ?_)
  dsimp only
  rw [hloc, hsite, hok, hin, hu]
  rfl

/-- Settles O41: where a unit has nothing to acknowledge, where some has; then HOMEMV of what is no page, of a page with a
home, of one that gets its first, and of one that takes none. -/
theorem translationInstructions : Obligations.TranslationInstructions := by
  unfold Obligations.TranslationInstructions
  intro s a b m hc hfresh hready w va v site named busy
  refine ⟨fun hm hks => ?_, ?_⟩
  · set k := s.shootdown (if m.val = 2 then none else some ((s.warp.readS b).setWidth 16))
      (if m.val = 0 then some (s.warp.readS a).toNat else none) with hk
    have hnamed : ∀ e, k.names e = true ↔ named e := by
      intro e
      have h2 : m.val = 2 → m.val ≠ 0 := by omega
      simp only [hk, State.shootdown, Shootdown.names, Bool.and_eq_true, named]
      refine and_congr ?_ ?_
      · by_cases hm2 : m.val = 2 <;> simp [hm2, w]
      · by_cases hm0 : m.val = 0 <;> simp [hm0, va, w]
    have hunits : ∀ u, u ∈ k.units ↔ (∃ e ∈ s.tlb, named e ∧ e.unit = u) ∨ busy u := fun u => by
      rw [hk, State.mem_shootdown_units, ← hk]
      simp only [hnamed, busy]
    have hexec : exec (.tlbinv b a m) s = .next (State.endShootdowns
        { s.blockOnPage with nextUid := s.nextUid + 1, shootdowns := s.shootdowns ++ [k] }) := by
      show execTlbinv b a m s = _
      unfold execTlbinv
      refine (pageIssue_go_legal hc (rs := [a, b]) hready (decide_eq_true hm) _).trans (congrArg Host.Outcome.next ?_)
      exact congrArg State.endShootdowns (s.blockOnPage_startShootdown _ _)
    refine ⟨fun hnone hidle => ?_, fun hsome => ?_⟩
    · have hempty : k.units = [] := List.eq_nil_iff_forall_not_mem.2 fun u hu => by
        rcases (hunits u).1 hu with ⟨e, he, hn, -⟩ | hb
        · exact hnone e he hn
        · exact hidle u hb
      rw [hexec, State.endShootdowns_last (k := k) (ks := s.shootdowns) rfl hks hempty rfl]
      have ha := State.answer_self { s.blockOnPage with nextUid := s.nextUid + 1 } s.warp.nextPend 0
      exact ⟨_, congrArg Host.Outcome.next ha, State.blockOnPage_leaves_answered hfresh rfl rfl, rfl⟩
    · have hwait : ∀ x ∈ s.shootdowns ++ [k], x.units ≠ [] := by
        intro x hx
        rcases List.mem_append.1 hx with hx | hx
        · exact (hks x hx).1
        · rw [List.mem_singleton.1 hx]
          rcases hsome with ⟨e, he, hn⟩ | ⟨u, hu⟩
          · exact List.ne_nil_of_mem ((hunits e.unit).2 (.inl ⟨e, he, hn, rfl⟩))
          · exact List.ne_nil_of_mem ((hunits u).2 (.inr hu))
      rw [hexec, State.endShootdowns_waiting hwait]
      exact ⟨_, k, rfl, State.blockOnPage_leaves rfl rfl, rfl, rfl, rfl, rfl, rfl, hnamed, hunits⟩
  · intro out at_ size legal kept
    have hbad : badPage va size = false ∧ (s.site site).inService = true ↔ legal := by
      rw [← Bool.not_eq_true, badPage_iff, not_not, and_assoc]
    have hgo := fun (hl : legal) {u} => homemv_go (u := u) hc hready (loc := va) (site := site) rfl rfl (hbad.2 hl).1 (hbad.2 hl).2
    refine ⟨fun hl hh => ?_, fun h hl hat hkept => ?_, fun hl hlt hat hapart => ?_, fun hl hge hat => ?_⟩
    · show Traps s (execHomemv b a s) .range
      unfold execHomemv
      refine pageIssue_traps hc (rs := [a, b]) hready hh (if_pos ?_)
      have hno : ¬ (badPage va size = false ∧ (s.site site).inService = true) := fun hh => hl (hbad.1 hh)
      show (badPage va size || !(s.site site).inService) = true
      cases h1 : badPage va size
      · cases h2 : (s.site site).inService
        · rfl
        · exact absurd ⟨h1, h2⟩ hno
      · rfl
    · have htouch : s.touchHome va site = s :=
        State.touchHome_kept site (hkept.imp_right fun h51 => homed_scratch h51 hl.1)
      have hfound : s.homeAt va = some h := hat
      have hout := hgo hl htouch
      rw [hfound] at hout
      refine ⟨fun hmv => ?_, fun hmv => ?_⟩
      · exact hout.trans (congrArg Host.Outcome.next (if_pos hmv))
      · exact ⟨_, hout.trans (congrArg Host.Outcome.next (if_neg (by simp [hmv]))), s.asksMove_leaves _ _, s.asksMove_eq _ _⟩
    · have hfound : s.homeAt va = none := hat
      have hsize : size = s.pageSize va := by
        show ((s.homeAt va).map (·.size)).getD (s.pageSize va) = _
        rw [hfound]
        rfl
      have hal : va % 2 ^ s.pageSize va = 0 := hsize ▸ hl.2.1
      have htouch : s.touchHome va site = { s with homes := s.homes ++ [s.firstHome va site] } :=
        State.touchHome_new site hlt hal hfound (hsize ▸ hapart)
      have hnew : State.homeAt { s with homes := s.homes ++ [s.firstHome va site] } va = some (s.firstHome va site) := by
        have hno : s.homes.find? (·.holds va) = none := hat
        show (s.homes ++ [s.firstHome va site]).find? (·.holds va) = _
        rw [List.find?_append, hno]
        simp [State.firstHome, PageHome.holds, inPage]
      have hold : (s.homes.map fun g => if g.page = va then
          { g with moving := some site, asker := some (s.warp.uid, s.warp.nextPend) } else g) = s.homes := by
        refine (List.map_congr_left fun g hg => if_neg fun he => ?_).trans (List.map_id _)
        have hpos : ∀ n, 0 < 2 ^ n := fun n => Nat.two_pow_pos n
        exact hapart g hg (by rw [he]; have h1 := hpos size; have h2 := hpos g.size; omega)
      have hout := hgo hl htouch
      rw [hnew] at hout
      have hmoved : (State.asksMove { s with homes := s.homes ++ [s.firstHome va site] } va site).homes = s.homes ++ [
          { page := va, size := size, site := site, moving := some site, asker := some (s.warp.uid, s.warp.nextPend)
            writes := [], since := s.clock.toNat }] := by
        rw [State.asksMove_eq]
        dsimp only
        rw [List.map_append, hold, hsize]
        simp [State.firstHome]
      refine ⟨_, hout, State.blockOnPage_leaves rfl rfl, ?_⟩
      rw [← hmoved]
      rfl
    · have htouch : s.touchHome va site = s := State.touchHome_kept site (.inr (homed_scratch hge hl.1))
      have hfound : s.homeAt va = none := hat
      have hout := hgo hl htouch
      rw [hfound] at hout
      show Goes s (exec (.homemv b a) s) s.next
      rw [hout]
      exact State.advance_goes

end Sys2Proof.Machine
end

section
/-! Obligation O42: PGLOCK and PGSWAP (R165, R166, R348). -/

set_option Elab.async false

namespace Sys2Proof.Machine

/-! ## Pages -/

/-- A place lies in an aligned page where it lies between its ends. -/
theorem inPage_iff {page size : Nat} (h : page % 2 ^ size = 0) (loc : Nat) :
    inPage page size loc = true ↔ page ≤ loc ∧ loc < page + 2 ^ size := by
  have hpos : 0 < 2 ^ size := Nat.two_pow_pos size
  obtain ⟨q, rfl⟩ := Nat.dvd_of_mod_eq_zero h
  rw [inPage, beq_iff_eq, Nat.mul_div_cancel_left q hpos, Nat.div_eq_iff hpos, Nat.mul_comm (2 ^ size) q]
  have hsucc : (q + 1) * 2 ^ size = q * 2 ^ size + 2 ^ size := Nat.succ_mul q _
  omega

theorem pagesMeet_iff (page size page' size' : Nat) :
    pagesMeet page size page' size' = true ↔ page < page' + 2 ^ size' ∧ page' < page + 2 ^ size := by
  simp [pagesMeet]

/-- A page of which cores hold no partial value is recalled to its home: its registrations end. -/
theorem State.recallPage_clear {s : State} {page size : Nat} (h : ∀ p ∈ s.partials, inPage page size p.loc = false) :
    s.recallPage page size = { s with regs := s.regs.filter fun r => !inPage page size r.line } := by
  have hnone : s.partials.filter (fun p => inPage page size p.loc) = [] :=
    List.filter_eq_nil_iff.2 fun p hp => by simp [h p hp]
  have hall : s.partials.filter (fun p => !inPage page size p.loc) = s.partials :=
    List.filter_eq_self.2 fun p hp => by simp [h p hp]
  unfold State.recallPage
  rw [hnone, hall]
  rfl

/-! ## What waits at the end of a migration -/

theorem State.admitLocks_none {s : State} (h : s.lockWaits = []) : s.admitLocks = s := by
  have hexp : s.expireWaits = s := by
    unfold State.expireWaits
    rw [h]
    rfl
  unfold State.admitLocks
  dsimp only
  rw [hexp, h]
  show { s with lockWaits := [] } = s
  rw [← h]

/-- Where nothing waits for held writes, nothing goes on. -/
theorem State.settleHeld_none {s : State} (h : s.Unheld) : s.settleHeld = s := by
  obtain ⟨hfin, hcmds⟩ := h
  have hfabric : { s with fabric := { s.fabric with finishing := [] } } = s := by rw [← hfin]
  unfold State.settleHeld
  simp only [hfin, List.filter_nil, List.foldl_nil]
  rw [hfabric]
  revert hcmds
  generalize s.cmds = cs
  induction cs with
  | nil => exact fun _ => rfl
  | cons c cs ih =>
    intro hc
    obtain ⟨h1, h2⟩ := hc c List.mem_cons_self
    rw [List.foldl_cons]
    refine Eq.trans (congrArg (fun u => List.foldl _ u cs) ?_) (ih fun d hd => hc d (List.mem_cons_of_mem _ hd))
    split
    · next hp => exact absurd hp h1
    · next hp => exact absurd hp (h2 _ _)
    · rfl

/-- A migration that holds no write ends where nothing else waits: the page is unlocked. -/
theorem State.endLock_quiet {s : State} {p : PageLock} (page : Nat) (hp : p.held = []) (hl : s.lockWaits = []) (hu : s.Unheld) :
    s.endLock p page = { s with pageLocks := s.pageLocks.filter fun q => !(q.page == p.page && q.size == p.size) } := by
  unfold State.endLock
  dsimp only
  rw [hp, List.foldl_nil]
  have hadmit := State.admitLocks_none (s := { s with
    pageLocks := s.pageLocks.filter fun q => !(q.page == p.page && q.size == p.size) }) hl
  exact (congrArg State.settleHeld hadmit).trans (State.settleHeld_none hu)

/-! ## Answers to warps -/

/-- An answer to a warp changes the pending instructions of warps alone. -/
theorem State.answer_only (s : State) (u k : Nat) (v : Word64) : s.answer u k v = { s with
    warp := { s.warp with pend := (s.answer u k v).warp.pend }, others := (s.answer u k v).others } := by
  unfold State.answer State.mapWarp
  split <;> rfl

/-! ## PGLOCK (R165) -/

/-- The lock that PGLOCK asks for. -/
def State.askedLock (s : State) (page size : Nat) : PageLock :=
  { page := page, size := size, started := false, warp := s.warp.uid, pend := s.warp.nextPend, copied := none, held := [] }

/-- PGLOCK while another page lock is in the way waits. -/
theorem State.pgLock_waits {s : State} {page size : Nat}
    (hno : ∀ p ∈ s.pageLocks, p.page = page → p.size = size → p.started = false)
    (h : ∃ p ∈ s.pageLocks, p.meets page size = true) : s.pgLock page size = s.hold := by
  have h1 : (s.pageLocks.any fun p => p.page == page && p.size == size && p.started) = false :=
    List.any_eq_false.2 fun p hp => by
      have := hno p hp
      simp only [Bool.and_eq_true, beq_iff_eq, not_and, Bool.not_eq_true]
      exact fun hps => this hps.1 hps.2
  have h2 : (s.pageLocks.any fun p => p.meets page size) = true := List.any_eq_true.2 h
  unfold State.pgLock
  rw [h1, h2]
  rfl

/-- PGLOCK of a page that is locked goes on. -/
theorem State.pgLock_locked {s : State} {page size : Nat} {p : PageLock} (hp : p ∈ s.pageLocks) (h1 : p.page = page)
    (h2 : p.size = size) (h3 : p.started = true) : s.pgLock page size = s.advance :=
  if_pos (List.any_eq_true.2 ⟨p, hp, by simp [h1, h2, h3]⟩)

/-- PGLOCK of a page that meets no other locked page asks for the lock. -/
theorem State.pgLock_asks {s : State} {page size : Nat} (h : ∀ p ∈ s.pageLocks, p.meets page size = false) :
    s.pgLock page size = State.startLock
      { s.blockOnPage with pageLocks := s.pageLocks ++ [s.askedLock page size] } (s.askedLock page size) := by
  have hsame : (s.pageLocks.any fun p => p.page == page && p.size == size && p.started) = false :=
    List.any_eq_false.2 fun p hp => by
      intro hps
      simp only [Bool.and_eq_true, beq_iff_eq] at hps
      obtain ⟨⟨h1, h2⟩, -⟩ := hps
      have hpos : 0 < 2 ^ size := Nat.two_pow_pos size
      have hmeet : p.meets page size = true := by
        rw [PageLock.meets, pagesMeet_iff, h1, h2]
        omega
      rw [h p hp] at hmeet
      cases hmeet
  have hmeets : (s.pageLocks.any fun p => p.meets page size) = false :=
    List.any_eq_false.2 fun p hp => by simp [h p hp]
  unfold State.pgLock
  rw [hsame, hmeets]
  rfl

/-- Of the locks, the one that has been asked for last starts. -/
theorem State.started_last {s : State} {page size : Nat} (h : ∀ p ∈ s.pageLocks, p.meets page size = false) :
    ((s.pageLocks ++ [s.askedLock page size]).map fun (q : PageLock) =>
      if q.page == page && q.size == size then { q with started := true } else q) =
    s.pageLocks ++ [{ s.askedLock page size with started := true }] := by
  have hold : (s.pageLocks.map fun (q : PageLock) =>
      if q.page == page && q.size == size then { q with started := true } else q) = s.pageLocks := by
    refine (List.map_congr_left fun p hp => if_neg fun hps => ?_).trans (List.map_id _)
    simp only [Bool.and_eq_true, beq_iff_eq] at hps
    have hpos : 0 < 2 ^ size := Nat.two_pow_pos size
    have hmeet : p.meets page size = true := by
      rw [PageLock.meets, pagesMeet_iff, hps.1, hps.2]
      omega
    rw [h p hp] at hmeet
    cases hmeet
  rw [List.map_append, hold]
  simp [State.askedLock]

/-- A lock that is asked for waits while a line lock of its page is held or queued. -/
theorem State.startLock_waits {s : State} {p : PageLock} (h : s.locksIn p.page p.size = true) : s.startLock p = s :=
  if_pos (by simp [h])

/-- A lock that can start does so with the page's words recalled, and its instruction is answered. -/
theorem State.startLock_starts {s : State} {p : PageLock} (hs : p.started = false) (h : s.locksIn p.page p.size = false)
    (hp : ∀ r ∈ s.partials, inPage p.page p.size r.loc = false) : s.startLock p = State.unwait
      { s with
        regs := s.regs.filter fun r => !inPage p.page p.size r.line
        pageLocks := s.pageLocks.map fun (q : PageLock) =>
          if q.page == p.page && q.size == p.size then { q with started := true } else q } p.warp p.pend := by
  unfold State.startLock
  rw [hs, h, State.recallPage_clear hp]
  rfl

theorem State.locksIn_iff {s : State} {page size : Nat} (hal : page % 2 ^ size = 0) : s.locksIn page size = true ↔
    ∃ l ∈ s.locks, (page ≤ l.line ∧ l.line < page + 2 ^ size) ∧ (l.holder.isSome = true ∨ l.queue ≠ []) := by
  unfold State.locksIn
  simp only [List.any_eq_true, Bool.and_eq_true, inPage_iff hal, Bool.or_eq_true, Bool.not_eq_true', List.isEmpty_eq_false_iff]

/-! ## PGLOCK and its abort, at issue -/

theorem pglock_go {s : State} {a : Fin 64} (hc : s.warp.ctx = 0) (hr : s.Ready { srcs := [(.s a, false)] }) {z : Fin 4}
    {page : Nat} (hpage : (s.warp.readS a).toNat = page) (hok : badPage page (pageCode z) = false) (l : Bool) :
    exec (.pglock a z l) s = .next (if l then s.pgLock page (pageCode z) else s.pgAbort page (pageCode z)) := by
  show execPglock a z l s = _
  unfold execPglock
  refine (pageIssue_go hc (rs := [a]) hr _).trans (congrArg Host.Outcome.next ?_)
  dsimp only
  rw [hpage, hok]
  rfl

/-- PGLOCK of a page that meets no locked page, where no line lock is in the way. -/
theorem State.pgLock_starts {s : State} {page size : Nat} (h : ∀ p ∈ s.pageLocks, p.meets page size = false)
    (hl : s.locksIn page size = false) (hp : ∀ r ∈ s.partials, inPage page size r.loc = false) :
    s.pgLock page size = { s with
      warp := { s.blockOnPage.warp with pend := s.blockOnPage.warp.pend.map (answeredAt s.warp.nextPend 0) }
      regs := s.regs.filter fun r => !inPage page size r.line
      pageLocks := s.pageLocks ++ [{ s.askedLock page size with started := true }] } := by
  have hstart := State.startLock_starts (p := s.askedLock page size)
    (s := { s.blockOnPage with pageLocks := s.pageLocks ++ [s.askedLock page size] }) rfl hl hp
  refine ((State.pgLock_asks h).trans hstart).trans ?_
  rw [← State.started_last h]
  exact State.answer_self _ _ _

/-- Where one is, the page is asked for. -/
theorem State.pgLock_queues {s : State} {page size : Nat} (h : ∀ p ∈ s.pageLocks, p.meets page size = false)
    (hl : s.locksIn page size = true) :
    s.pgLock page size = { s.blockOnPage with pageLocks := s.pageLocks ++ [s.askedLock page size] } :=
  (State.pgLock_asks h).trans (State.startLock_waits hl)

/-- The abort of a migration that holds no write. -/
theorem State.pgAbort_found {s : State} {page size : Nat} {p : PageLock}
    (h : s.pageLocks.find? (fun p => p.page == page && p.size == size) = some p) (hp : p.held = []) (hl : s.lockWaits = [])
    (hu : s.Unheld) : s.pgAbort page size = (State.unwait
      { s with pageLocks := s.pageLocks.filter fun q => !(q.page == page && q.size == size) } p.warp p.pend).advance := by
  have hmine := List.find?_some h
  simp only [Bool.and_eq_true, beq_iff_eq] at hmine
  obtain ⟨rfl, rfl⟩ := hmine
  unfold State.pgAbort
  rw [h]
  exact congrArg (fun u : State => (u.unwait p.warp p.pend).advance) (State.endLock_quiet p.page hp hl hu)

/-! ## PGSWAP (R165, R166) -/

/-- A doubleword lies in one line. -/
theorem linesOf_doubleword {loc : Nat} (h : loc % 8 = 0) : linesOf loc 8 = [lineOf loc] := by
  have hn : (loc % 128 + 8 + 127) / 128 = 1 := by omega
  rw [linesOf, hn]
  rfl

/-- What an access notes turns no trap away. -/
theorem State.Noted.handles {s t : State} (h : s.Noted t) (hh : s.Handles) : t.Handles :=
  hh.of_fewer (by rw [h.rest]) (by rw [h.rest]) (by rw [h.rest]) (by rw [h.rest]; rfl) (by rw [h.rest]; exact fun _ hp => hp)

theorem State.handOver_only (s : State) (p : PageLock) (page : Nat) :
    s.handOver p page = { s with owners := (s.handOver p page).owners } := by
  unfold State.handOver
  dsimp only
  split <;> rfl

/-- A monitor that a write reaches stays at its place. -/
theorem Monitor.afterWrite_place (now : Nat) (m : Memory) (loc n : Nat) (k : Monitor) :
    ((k.afterWrite now m loc n).id, (k.afterWrite now m loc n).loc) = (k.id, k.loc) := by
  unfold Monitor.afterWrite
  split <;> rfl

/-- The translations of a page under migration leave the buffers. -/
def State.forgets (s : State) (p : PageLock) : State :=
  { s with tlb := s.tlb.filter fun e => !(e.map.kind == 0 && p.meets e.map.frame e.map.size) }

/-- PGSWAP of the page of lock `p`: the entry written, the translations gone, the page's waiters at the new frame. -/
def State.swap (s : State) (p : PageLock) (loc page : Nat) (new : Word64) : State :=
  let u := (s.writeAt s.warp.agent 0 loc (natToBytes 8 new.toNat)).forgets p
  (((u.follow p page).handOver p page).endLock ((u.pageLocks.find? fun q => q.page == p.page && q.size == p.size).getD p)
    page).advance

theorem pgswap_go {s : State} {a b : Fin 64} (hc : s.warp.ctx = 0) (hr : s.Ready { srcs := [(.s a, false), (.s b, false)] })
    {loc : Nat} (hloc : (s.warp.readS a).toNat = loc) (hlt : loc < 2 ^ 52) (hal : loc % 8 = 0) {s' : State} {bs : List Byte}
    (hread : s.readAt s.warp.agent 0 loc 8 = (s', bs)) : exec (.pgswap b a) s = .next (
      match s'.pageLocks.find? fun p => p.started && p.page == bitsOf (bytesToNat bs) 12 40 * 4096 with
      | none => s'.trap .range
      | some p => s'.swap p loc (bitsOf (s.warp.readS b).toNat 12 40 * 4096) (s.warp.readS b)) := by
  show execPgswap b a s = _
  unfold execPgswap
  refine (pageIssue_go hc (rs := [a, b]) hr _).trans (congrArg Host.Outcome.next ?_)
  have hok : ¬ (localLimit ≤ loc ∨ loc % 8 ≠ 0) := by unfold localLimit; omega
  dsimp only
  rw [hloc, if_neg hok, hread]
  rfl

/-- What a swap leaves where one lock names the page, nothing is held and nothing waits. -/
structure State.Swapped (s t : State) (p : PageLock) (loc page : Nat) (new : Word64) : Prop where
  place : s.warp.frag.MovedTo t.warp.frag s.next
  keeps : s.warp.Keeps t.warp []
  bytes : ∀ x, t.mem.read x = laid loc (natToBytes 8 new.toNat) x (s.mem.read x)
  pageLocks : t.pageLocks = s.pageLocks.filter fun q => !(q.page == p.page && q.size == p.size)
  monitors : t.monitors.map (fun m => (m.id, m.loc)) = s.monitors.map fun m => (m.id, moved p page m.loc)
  locks : t.locks = s.locks.map fun l => { l with line := moved p page l.line }
  held : t.warp.locks = s.warp.locks.map fun l => { l with line := moved p page l.line }
  meters : ∀ n, (t.context? n).map Context.unmetered = (s.context? n).map Context.unmetered
  tlb : t.tlb = s.tlb.filter fun e => !(e.map.kind == 0 && p.meets e.map.frame e.map.size)

theorem State.endSwap {v : State} {p : PageLock} {page : Nat} (hp : p.held = []) (hl : v.lockWaits = []) (hu : v.Unheld) :
    (((v.handOver p page).endLock p page)).advance = State.advance { v with
      owners := (v.handOver p page).owners
      pageLocks := v.pageLocks.filter fun q => !(q.page == p.page && q.size == p.size) } := by
  have hend := State.endLock_quiet (s := { v with owners := (v.handOver p page).owners }) page hp hl hu
  have hover := State.handOver_only v p page
  generalize v.handOver p page = y at hover hend
  rw [← hover] at hend
  rw [hend, hover]

theorem State.swap_swapped {s : State} {p : PageLock} {loc : Nat} (page : Nat) (new : Word64) (hal : loc % 8 = 0)
    (hm : s.mem.wf) (hp : ∀ q ∈ s.partials, lineOf q.loc ≠ lineOf loc) (hlock : s.pageLockOf loc = none)
    (hfind : s.pageLocks.find? (fun q => q.page == p.page && q.size == p.size) = some p)
    (hheld : p.held = []) (hl : s.lockWaits = []) (hu : s.Unheld) : s.Swapped (s.swap p loc page new) p loc page new := by
  have hn : (natToBytes 8 new.toNat).length = 8 := length_natToBytes 8 _
  have hclear : ∀ q ∈ s.partials, lineOf q.loc ∉ linesOf loc (natToBytes 8 new.toNat).length := fun q hq => by
    rw [hn, linesOf_doubleword hal, List.mem_singleton]
    exact hp q hq
  obtain ⟨hrest, hmeters⟩ := s.noteWriteBy_noted s.warp.agent 0 loc (natToBytes 8 new.toNat).length
  have hwrite := State.writeAt_clear s.warp.agent 0 hlock hclear
  generalize s.noteWriteBy s.warp.agent 0 loc (natToBytes 8 new.toNat).length = r at hrest hmeters hwrite
  have hpages : r.pageLocks = s.pageLocks := by rw [hrest]
  set v := ((r.poke loc (natToBytes 8 new.toNat)).forgets p).follow p page with hv
  have hswap : s.swap p loc page new = ((v.handOver p page).endLock p page).advance := by
    have hfound : (r.pageLocks.find? fun q => q.page == p.page && q.size == p.size).getD p = p := by rw [hpages, hfind]; rfl
    unfold State.swap
    rw [hwrite]
    exact congrArg (fun q => ((v.handOver p page).endLock q page).advance) hfound
  have hwaits : v.lockWaits = [] := by rw [hv, hrest]; exact congrArg (List.map _) hl
  have hunheld : v.Unheld := by rw [hv, hrest]; exact ⟨congrArg (List.map _) hu.1, hu.2⟩
  rw [hswap, State.endSwap hheld hwaits hunheld, hv, hrest]
  refine ⟨rfl, ⟨fun _ _ => ⟨rfl, rfl, rfl⟩, fun _ _ => ⟨rfl, rfl, rfl⟩⟩, Memory.read_writeBytes _ hm loc, rfl, ?_, rfl, rfl,
    fun n => ?_, rfl⟩
  · show List.map _ (List.map _ (List.map _ s.monitors)) = _
    rw [List.map_map, List.map_map]
    refine List.map_congr_left fun m _ => ?_
    have h := Monitor.afterWrite_place s.clock.toNat (s.mem.writeBytes loc (natToBytes 8 new.toNat)) loc
      (natToBytes 8 new.toNat).length m
    exact congrArg (fun x : Nat × Nat => (x.1, moved p page x.2)) h
  · rw [← hmeters n]
    rfl

/-- Settles O42: PGLOCK and its abort, then PGSWAP. -/
theorem pageMigration : Obligations.PageMigration := by
  unfold Obligations.PageMigration
  intro s a b z hc hf w page size inside busy overlaps legal
  have hbad : badPage page size = true ↔ ¬ legal := badPage_iff page size
  refine ⟨fun hr => ⟨fun hl hh l => ?_, fun hl => ?_, fun hl => ?_⟩, fun hr => ?_⟩
  · show Traps s (execPglock a z l s) .range
    unfold execPglock
    exact pageIssue_traps hc (rs := [a]) hr hh (if_pos (hbad.2 hl))
  · intro out asks
    have hok : badPage page size = false := by rw [← Bool.not_eq_true, hbad, not_not]; exact hl
    have hout : out = .next (s.pgLock page size) := pglock_go hc hr rfl hok true
    have hmeet : ∀ p : PageLock, p.meets page size = true ↔ overlaps p := fun p => pagesMeet_iff _ _ _ _
    have hin : ∀ loc, inPage page size loc = true ↔ inside loc := inPage_iff hl.2
    have hbusy : s.locksIn page size = true ↔ busy := State.locksIn_iff hl.2
    refine ⟨fun hno hpart => ?_, fun p hp h1 h2 h3 => ?_, fun hsome hno => ?_⟩
    · have hapart : ∀ p ∈ s.pageLocks, p.meets page size = false := fun p hp => by
        rw [← Bool.not_eq_true, hmeet]
        exact hno p hp
      refine ⟨fun hb => ?_, fun hb => ?_⟩
      · have hidle : s.locksIn page size = false := by rw [← Bool.not_eq_true, hbusy]; exact hb
        have hfilter : (fun r : Registration => !inPage page size r.line) = fun r => !decide (inside r.line) := by
          funext r
          congr 1
          rw [Bool.eq_iff_iff, hin, decide_eq_true_iff]
        rw [hout, State.pgLock_starts hapart hidle fun r hr => by rw [← Bool.not_eq_true, hin]; exact hpart r hr]
        exact ⟨_, rfl, ⟨State.blockOnPage_leaves_answered hf rfl rfl, rfl⟩, congrArg (List.filter · s.regs) hfilter, rfl⟩
      · rw [hout, State.pgLock_queues hapart (hbusy.2 hb)]
        exact ⟨_, rfl, ⟨State.blockOnPage_leaves rfl rfl, rfl⟩, rfl⟩
    · rw [hout, State.pgLock_locked hp h1 h2 h3]
      exact State.advance_goes
    · obtain ⟨p, hp, ho⟩ := hsome
      rw [hout, State.pgLock_waits hno ⟨p, hp, (hmeet p).2 ho⟩]
      rfl
  · intro out mine
    have hok : badPage page size = false := by rw [← Bool.not_eq_true, hbad, not_not]; exact hl
    have hout : out = .next (s.pgAbort page size) := pglock_go hc hr rfl hok false
    refine ⟨fun hno => ?_, fun p hp hheld hw hu => ?_⟩
    · have hnone : s.pageLocks.find? (fun p => p.page == page && p.size == size) = none :=
        List.find?_eq_none.2 fun p hp => by
          simp only [Bool.and_eq_true, beq_iff_eq]
          exact hno p hp
      rw [hout]
      unfold State.pgAbort
      rw [hnone]
      exact State.advance_goes
    · rw [hout, State.pgAbort_found hp hheld hw hu]
      refine ⟨_, rfl, ?_⟩
      unfold State.unwait
      rw [State.answer_only]
      exact ⟨rfl, rfl, rfl, fun _ _ => ⟨rfl, rfl, rfl⟩, fun _ _ => ⟨rfl, rfl, rfl⟩⟩
  · intro out new frame old s'
    refine ⟨fun hno hh => ?_, fun hlt hal hpart hm => ?_⟩
    · show Traps s (execPgswap b a s) .range
      unfold execPgswap
      exact pageIssue_traps hc (rs := [a, b]) hr hh (if_pos hno)
    · have hclear : ∀ q ∈ s.partials, lineOf q.loc ∉ linesOf page 8 := fun q hq => by
        rw [linesOf_doubleword hal, List.mem_singleton]
        exact hpart q hq
      have hread := State.readAt_clear s.warp.agent 0 hclear
      have hs' : s' = s.noteReadBy s.warp.agent 0 page := congrArg Prod.fst hread
      have hN : s.Noted s' := by rw [hs']; exact s.noteReadBy_noted _ _ _
      rw [← hs'] at hread
      have hgo := pgswap_go hc hr rfl hlt hal hread
      clear_value s'
      refine ⟨fun hno hh => ?_, fun p hone hlock huniq hheld hw hu => ?_⟩
      · have hnone : s'.pageLocks.find? (fun p => p.started && p.page == old) = none :=
          List.find?_eq_none.2 fun p hp => by
            simp only [Bool.and_eq_true, beq_iff_eq, not_and]
            exact hno p (hN.pageLocks ▸ hp)
        refine ⟨s'.trap .range, hgo.trans ?_, State.trap_trapped (hN.handles hh) _ _⟩
        exact congrArg (fun q => Host.Outcome.next (match q with
          | none => s'.trap .range
          | some p => s'.swap p page (bitsOf new.toNat 12 40 * 4096) new)) hnone
      · have hp := List.mem_filter.1 (hone ▸ List.mem_singleton_self p)
        have hfound : s'.pageLocks.find? (fun p => p.started && p.page == old) = some p := by
          rw [hN.pageLocks, ← List.head?_filter, hone]
          rfl
        have hmine : s'.pageLocks.find? (fun q => q.page == p.page && q.size == p.size) = some p := by
          rw [hN.pageLocks]
          exact find?_unique hp.1 (by simp) fun q hq h => by
            simp only [Bool.and_eq_true, beq_iff_eq] at h
            exact huniq q hq h.1 h.2
        have hothers : s.pageLocks.filter (fun q => !(q.page == p.page && q.size == p.size)) = s.pageLocks.filter (· ≠ p) :=
          List.filter_congr fun q hq => by
            rw [Bool.eq_iff_iff, Bool.not_eq_true', decide_eq_true_iff, Bool.and_eq_false_iff, beq_eq_false_iff_ne,
              beq_eq_false_iff_ne, ← not_and_or]
            exact not_congr ⟨fun h => huniq q hq h.1 h.2, fun h => by rw [h]; exact ⟨rfl, rfl⟩⟩
        have hswapped := State.swap_swapped (s := s') (loc := page) (frame new.toNat) new hal (by rw [hN.mem]; exact hm)
          (by rw [hN.partials]; exact hpart) (by rw [State.pageLockOf, hN.pageLocks]; exact hlock) hmine hheld
          (by rw [hN.rest]; exact hw) (by rw [hN.rest]; exact hu)
        obtain ⟨hplace, hkeeps, hbytes, hlocks, hmons, hlines, hheldLines, hmeters, htlb⟩ := hswapped
        have hmoved : moved p (frame new.toNat) = fun loc : Nat =>
            if loc / 2 ^ p.size = p.page / 2 ^ p.size then frame new.toNat + loc % 2 ^ p.size else loc :=
          funext fun loc => if_congr beq_iff_eq rfl rfl
        rw [hmoved] at hmons hlines hheldLines
        refine ⟨s'.swap p page (frame new.toNat) new, hgo.trans ?_, ?_, ?_, ?_, ?_, ?_, ?_, ?_, ?_, ?_⟩
        · exact congrArg (fun q => Host.Outcome.next (match q with
            | none => s'.trap .range
            | some p => s'.swap p page (bitsOf new.toNat 12 40 * 4096) new)) hfound
        · rw [State.next, hN.warp] at hplace
          exact hplace
        · rw [hN.warp] at hkeeps
          exact hkeeps
        · rw [hN.mem] at hbytes
          exact hbytes
        · rw [hlocks, hN.pageLocks, hothers]
        · rw [hmons, hN.rest]
        · rw [hlines, hN.rest]
        · rw [hheldLines, hN.warp]
        · exact fun n => (hmeters n).trans (hN.meters n)
        · rw [htlb, hN.rest]
          refine congrArg (List.filter · s.tlb) (funext fun e => ?_)
          rw [Bool.and_assoc]
          rfl

end Sys2Proof.Machine
end

section
/-! Obligation O29: the checks of an access, and the walk of the page table (R158, R160, R347). -/

set_option Elab.async false

namespace Sys2Proof.Machine

/-! ## What a walk reads (R152, R234) -/

theorem State.Counted.sameMemory {s t : State} (h : s.Counted t) : s.SameMemory t := by
  rw [h.rest]
  exact ⟨rfl, rfl, rfl, rfl⟩

/-- Where no core holds a partial value, the read of an entry passes the LLC alone. -/
theorem State.readEntry_counted {s : State} (h : s.partials = []) (ctx loc : Nat) : s.Counted (s.readEntry ctx loc) := by
  unfold State.readEntry
  dsimp only
  rw [State.recall_clear (by simp [h])]
  split
  · exact s.llcRead_counted _ _
  · exact .refl s

theorem State.recallWalk_counted (ctx va level : Nat) : ∀ {s : State} (_ : s.partials = []) (table : Nat),
    s.Counted (s.recallWalk ctx va level table) := by
  induction level with
  | zero => exact fun h table => State.readEntry_counted h _ _
  | succ level ih =>
    intro s h table
    have hr := State.readEntry_counted h ctx (pteAddr table va (level + 1))
    unfold State.recallWalk
    dsimp only
    split
    · exact hr.trans (ih (by rw [hr.rest]; exact h) _)
    · exact hr

/-- There the walk finds what memory says. -/
theorem State.walk_unheld {s : State} (h : s.partials = []) (c : Context) (va : Nat) : s.walk c va = walkFrom s va 4 c.root :=
  walkFrom_sameMemory (State.recallWalk_counted c.num va 4 h c.root).sameMemory va 4 c.root

/-! ## Pages that pass to a new owner (R356) -/

/-- Where the owners of a page are looked at again, a byte that is others' has an owner that does not name the context. -/
theorem State.owned_of_ownersNow {s : State} {ctx page size a : Nat} (h : ownedByOthers (s.ownersNow ctx page size) ctx a = true) :
    ∃ o ∈ s.owners, a / 2 ^ o.size = o.page / 2 ^ o.size ∧ ctx ∉ o.ctxs := by
  unfold ownedByOthers at h
  rw [Bool.and_eq_true, Bool.not_eq_true', List.any_eq_true, List.any_eq_false] at h
  obtain ⟨⟨o', ho', hin⟩, hnone⟩ := h
  have hno := hnone o' ho'
  obtain ⟨o, ho, rfl⟩ := List.mem_map.1 ho'
  refine ⟨o, ho, ?_, fun hc => hno ?_⟩
  · split at hin <;> exact beq_iff_eq.1 hin
  · rw [Bool.and_eq_true]
    refine ⟨hin, ?_⟩
    rw [List.contains_iff_mem]
    split
    · exact List.mem_map.2 ⟨ctx, hc, by simp⟩
    · exact hc

/-- A byte is cleared before a context gets the page of a mapping. -/
def State.takes (s : State) (c : Context) (m : Mapping) (a : Nat) : Bool :=
  let page := if m.kind = 0 then m.frame else hostBase + m.frame
  m.kind == 0 && inPage page m.size a && ownedByOthers (s.ownersNow c.num page m.size) c.num a

/-- A page that is given either stays whose it was, or is cleared of what was others' and listed anew. -/
theorem State.ownPage_cases (s : State) (c : Context) (m : Mapping) : s.ownPage c m = s ∨
    ∃ os, s.ownPage c m = { s with
      mem := s.mem.filter fun x => !s.takes c m x.1
      poison := s.poison.filter fun g => !s.takes c m (8 * g)
      partials := s.partials.filter fun p => !s.takes c m p.loc
      owners := os } := by
  unfold State.ownPage
  exact Or.imp (fun h => if_pos h) (fun h => ⟨_, if_neg h⟩) (Decidable.em _)

theorem State.ownPage_only (s : State) (c : Context) (m : Mapping) : s.ownPage c m = { s with
    mem := (s.ownPage c m).mem, poison := (s.ownPage c m).poison, partials := (s.ownPage c m).partials
    owners := (s.ownPage c m).owners } := by
  rcases s.ownPage_cases c m with h | ⟨os, h⟩ <;> rw [h]

theorem State.ownPage_poison (s : State) (c : Context) (m : Mapping) : ∀ g ∈ (s.ownPage c m).poison, g ∈ s.poison := by
  rcases s.ownPage_cases c m with h | ⟨os, h⟩ <;> rw [h]
  · exact fun _ h => h
  · exact fun _ h => List.mem_of_mem_filter h

theorem State.ownPage_partials (s : State) (c : Context) (m : Mapping) : ∀ p ∈ (s.ownPage c m).partials, p ∈ s.partials := by
  rcases s.ownPage_cases c m with h | ⟨os, h⟩ <;> rw [h]
  · exact fun _ h => h
  · exact fun _ h => List.mem_of_mem_filter h

/-- A byte is as it was, or reads as zero in a page that was others'. -/
theorem State.ownPage_read (s : State) (c : Context) (m : Mapping) (a : Nat) : (s.ownPage c m).mem.read a = s.mem.read a
    ∨ (s.ownPage c m).mem.read a = 0 ∧ ∃ o ∈ s.owners, a / 2 ^ o.size = o.page / 2 ^ o.size ∧ c.num ∉ o.ctxs := by
  rcases s.ownPage_cases c m with h | ⟨os, h⟩ <;> rw [h]
  · exact .inl rfl
  · rw [Memory.read_filter s.mem fun a => !s.takes c m a]
    cases ht : s.takes c m a with
    | false => exact .inl rfl
    | true =>
      unfold State.takes at ht
      rw [Bool.and_eq_true] at ht
      exact .inr ⟨rfl, State.owned_of_ownersNow ht.2⟩

/-! ## What a translation changes -/

/-- What a translation for a context changes where no core holds a partial value. -/
structure State.Translates (s t : State) (ctx : Nat) : Prop where
  rest : t = { s with
    tlb := t.tlb, free := t.free, owners := t.owners, mem := t.mem, poison := t.poison, contexts := t.contexts, llc := t.llc }
  meters : ∀ n, (t.context? n).map Context.unmetered = (s.context? n).map Context.unmetered
  poison : ∀ g ∈ t.poison, g ∈ s.poison
  bytes : ∀ a, t.mem.read a = s.mem.read a
    ∨ t.mem.read a = 0 ∧ ∃ o ∈ s.owners, a / 2 ^ o.size = o.page / 2 ^ o.size ∧ ctx ∉ o.ctxs

section
variable {s t : State}

theorem State.Translates.refl (s : State) (ctx : Nat) : s.Translates s ctx := ⟨rfl, fun _ => rfl, fun _ h => h, fun _ => .inl rfl⟩

theorem State.Translates.fill {ctx : Nat} (h : s.Translates t ctx) (u : TlbUnit) (asid : BitVec 16) (m : Mapping) :
    s.Translates (t.tlbFill u asid m) ctx := by
  refine ⟨?_, h.meters, h.poison, h.bytes⟩
  unfold State.tlbFill
  rw [h.rest]

theorem State.walkFor_translates (hs : s.partials = []) (c : Context) (va : Nat) : s.Translates (s.walkFor c va).1 c.num := by
  have hc := State.recallWalk_counted c.num va 4 hs c.root
  unfold State.walkFor
  dsimp only
  generalize s.recallWalk c.num va 4 c.root = t at hc
  have hp : t.partials = [] := by rw [hc.rest]; exact hs
  split
  · next m _ =>
    have hpart : (t.ownPage c m).partials = [] :=
      List.eq_nil_iff_forall_not_mem.2 fun p hm => by
        have := t.ownPage_partials c m p hm
        rw [hp] at this
        cases this
    have hrest := t.ownPage_only c m
    have hpoison := t.ownPage_poison c m
    have hread := t.ownPage_read c m
    generalize t.ownPage c m = u at hpart hrest hpoison hread
    have hmeters : u.contexts = t.contexts := by rw [hrest]
    refine ⟨?_, fun n => ?_, fun g hg => ?_, fun a => ?_⟩
    · rw [hrest, hpart, hc.rest, ← hs]
    · have hn : u.context? n = t.context? n := congrArg (List.find? fun k : Context => k.num == n) hmeters
      exact (congrArg (Option.map Context.unmetered) hn).trans (hc.meters n)
    · have := hpoison g hg
      rw [hc.rest] at this
      exact this
    · have := hread a
      rw [hc.rest] at this
      exact this
  · exact ⟨by rw [hc.rest], hc.meters, by rw [hc.rest]; exact fun _ h => h, fun a => .inl (by rw [hc.rest])⟩

theorem State.translateVia_translates (hs : s.partials = []) (c : Context) (va : Nat) (asker : TlbUnit) (us : List TlbUnit) :
    s.Translates (s.translateVia c va asker us).1 c.num := by
  induction us with
  | nil => exact State.walkFor_translates hs c va
  | cons u us ih =>
    unfold State.translateVia
    split
    · exact .refl s _
    · split
      · next t m heq =>
        rw [heq] at ih
        exact ih.fill u c.asid m
      · next t heq =>
        rw [heq] at ih
        exact ih

theorem State.translate_fst (s : State) (us : List TlbUnit) (ctx va : Nat) (r w x : Bool) :
    (s.translate us ctx va r w x).1 = (s.translateVia (s.context ctx) va (us.headD (.die 8)) us).1 := by
  unfold State.translate
  split
  · next h => rw [h]
  · next h =>
    rw [h]
    split <;> rfl

theorem State.translate_translates (hs : s.partials = []) (us : List TlbUnit) (ctx va : Nat) (r w x : Bool) :
    s.Translates (s.translate us ctx va r w x).1 ctx := by
  have h := State.translateVia_translates hs (s.context ctx) va (us.headD (.die 8)) us
  rw [State.context_num, ← State.translate_fst s us ctx va r w x] at h
  exact h

/-! ## What a translation finds -/

/-- What a mapping gives an access. -/
def Translated.of (va : Nat) (r w x : Bool) : Option Mapping → Translated
  | none => .fails .pagefault
  | some m => if (r && !m.r) || (w && !m.w) || (x && !m.x) then .fails .prot else .at_ (m.place va) m.kind m.peer

theorem State.translate_snd (s : State) (us : List TlbUnit) (ctx va : Nat) (r w x : Bool) :
    (s.translate us ctx va r w x).2 =
      .of va r w x (s.translateVia (s.context ctx) va (us.headD (.die 8)) us).2 := by
  unfold State.translate
  split
  · next h => rw [h]; rfl
  · next h =>
    rw [h]
    show (if _ then _ else _ : State × Translated).2 = if _ then _ else _
    split <;> rfl

theorem State.walkFor_snd (s : State) (c : Context) (va : Nat) : (s.walkFor c va).2 = s.walk c va := by
  unfold State.walkFor
  dsimp only
  split <;> next h => rw [h]

/-- Where no buffer that is asked holds the VA, a translation is the walk. -/
theorem State.translateVia_walks {c : Context} {va : Nat} (asker : TlbUnit) {us : List TlbUnit}
    (h : ∀ u ∈ us, ∀ e ∈ s.tlb, e.unit = u → e.asid = c.asid → va / 2 ^ e.map.size ≠ e.map.vpage) :
    (s.translateVia c va asker us).2 = s.walk c va := by
  induction us with
  | nil => exact s.walkFor_snd c va
  | cons u us ih =>
    have hnone : s.tlbFind asker u c.asid va = none := by
      unfold State.tlbFind
      rw [Option.map_eq_none_iff, List.find?_eq_none]
      intro e he hf
      simp only [Bool.and_eq_true, beq_iff_eq] at hf
      exact h u List.mem_cons_self e he hf.1.1.1 hf.1.1.2 hf.1.2
    rw [← ih fun u hu => h u (List.mem_cons_of_mem _ hu)]
    rw [State.translateVia, hnone]
    dsimp only
    split <;> next heq => rw [heq]

/-! ## The walk, level by level (R347) -/

/-- An entry that is not valid ends the walk. -/
theorem walkFrom_invalid {va level table : Nat} (h : s.peek (pteAddr table va (level + 1)) 8 % 2 = 0) :
    walkFrom s va (level + 1) table = none := by
  have h0 : (bitsOf (s.peek (pteAddr table va (level + 1)) 8) 0 1 == 1) = false := by
    rw [bitsOf, Nat.pow_zero, Nat.div_one, Nat.pow_one, h]
    rfl
  unfold walkFrom
  simp only [leafValid, pointerValid, h0, Bool.false_and, Bool.false_eq_true, if_false, ite_self]

/-- A pointer leads to the next level. -/
theorem walkFrom_pointer {va level table t : Nat} (h : s.peek (pteAddr table va (level + 1)) 8 = t + 1) (hal : t % 4096 = 0)
    (ht : t < 2 ^ 52) : walkFrom s va (level + 1) table = walkFrom s va level t := by
  have hleaf : bitsOf (t + 1) 4 1 = 0 := by unfold bitsOf; omega
  have hnext : bitsOf (t + 1) 12 40 * 4096 = t := by unfold bitsOf; omega
  have hvalid : pointerValid (t + 1) (level + 1) = true := by
    have h0 : bitsOf (t + 1) 0 1 = 1 := by unfold bitsOf; omega
    have h1 : bitsOf (t + 1) 1 3 = 0 := by unfold bitsOf; omega
    have h5 : bitsOf (t + 1) 5 7 = 0 := by unfold bitsOf; omega
    have h52 : bitsOf (t + 1) 52 12 = 0 := by unfold bitsOf; omega
    simp [pointerValid, hleaf, h0, h1, h5, h52]
  rw [walkFrom]
  simp only [h, hleaf, hvalid, hnext, Nat.zero_ne_one, if_false, if_true]

/-- An empty entry of level 0 ends the walk. -/
theorem walkFrom_empty {va table : Nat} (h : s.peek (pteAddr table va 0) 8 = 0) : walkFrom s va 0 table = none := by
  rw [walkFrom]
  dsimp only
  rw [h]
  rfl

/-- The entry of a page of 4 KiB. -/
def leafEntry (frame kind : Nat) (r w x : Bool) : Nat := frame + 64 * kind + 17 + 2 * r.toNat + 4 * w.toNat + 8 * x.toNat

theorem walkFrom_leaf {va table frame kind : Nat} {r w x : Bool} (h : s.peek (pteAddr table va 0) 8 = leafEntry frame kind r w x)
    (hk : kind < 3) (hal : frame % 4096 = 0) (ht : frame < 2 ^ 52) : walkFrom s va 0 table = some
      { size := 12, vpage := va / 2 ^ 12, frame := frame, r := r, w := w, x := x, kind := kind, peer := 0 } := by
  have hr : r.toNat ≤ 1 := Bool.toNat_le r
  have hw : w.toNat ≤ 1 := Bool.toNat_le w
  have hx : x.toNat ≤ 1 := Bool.toNat_le x
  have h0 : bitsOf (leafEntry frame kind r w x) 0 1 = 1 := by unfold bitsOf leafEntry; omega
  have h1 : bitsOf (leafEntry frame kind r w x) 1 1 = r.toNat := by unfold bitsOf leafEntry; omega
  have h2 : bitsOf (leafEntry frame kind r w x) 2 1 = w.toNat := by unfold bitsOf leafEntry; omega
  have h3 : bitsOf (leafEntry frame kind r w x) 3 1 = x.toNat := by unfold bitsOf leafEntry; omega
  have h4 : bitsOf (leafEntry frame kind r w x) 4 1 = 1 := by unfold bitsOf leafEntry; omega
  have h5 : bitsOf (leafEntry frame kind r w x) 5 1 = 0 := by unfold bitsOf leafEntry; omega
  have h6 : bitsOf (leafEntry frame kind r w x) 6 2 = kind := by unfold bitsOf leafEntry; omega
  have h8 : bitsOf (leafEntry frame kind r w x) 8 4 = 0 := by unfold bitsOf leafEntry; omega
  have h12 : bitsOf (leafEntry frame kind r w x) 12 40 * 4096 = frame := by unfold bitsOf leafEntry; omega
  have h52 : bitsOf (leafEntry frame kind r w x) 52 12 = 0 := by unfold bitsOf leafEntry; omega
  have hbit : ∀ b : Bool, (b.toNat == 1) = b := by decide
  have hvalid : leafValid (leafEntry frame kind r w x) 0 12 = true := by
    simp [leafValid, leafSize, h0, h4, h6, h8, h12, h52, hal]
  rw [walkFrom]
  simp only [h, h5, hvalid, Nat.zero_ne_one, if_false, if_true, leafMapping, h1, h2, h3, h6, h12, h52, hbit]

end

/-- Where the agent's space has no place for the access, its cause. -/
theorem State.reach_error {s : State} {a : Agent} {space ea n : Nat} {c : Cause} (h : s.spaceCheck a space ea n = .error c)
    (align : Nat) (r w : Bool) : s.reach a space ea n align r w = (s, .fails c) := by
  unfold State.reach
  rw [h]

theorem State.reach_misaligned {s : State} {a : Agent} {space ea n : Nat} {p : Option Nat}
    (h : s.spaceCheck a space ea n = .ok p) {align : Nat} (hal : ea % align ≠ 0) (r w : Bool) :
    s.reach a space ea n align r w = (s, .fails .align) := by
  unfold State.reach
  rw [h]
  exact if_pos hal

theorem State.reach_local {s : State} {a : Agent} {space ea n loc : Nat} (h : s.spaceCheck a space ea n = .ok (some loc))
    {align : Nat} (hal : ea % align = 0) (r w : Bool) : s.reach a space ea n align r w = (s, .at_ loc 0 0) := by
  unfold State.reach
  rw [h]
  exact if_neg (not_not.2 hal)

theorem State.reach_global {s : State} {a : Agent} {space ea n : Nat} (h : s.spaceCheck a space ea n = .ok none)
    {align : Nat} (hal : ea % align = 0) (r w : Bool) :
    s.reach a space ea n align r w = s.translate a.units a.ctx ea r w false := by
  unfold State.reach
  rw [h]
  exact if_neg (not_not.2 hal)

/-- Settles O29: the space checks one by one, then what a translation changes and what it finds. -/
theorem accessChecks : Obligations.AccessChecks := by
  unfold Obligations.AccessChecks
  refine ⟨fun s a ea n align r w => ?_, fun s us ctx va r w x hs => ⟨?_, ?_⟩⟩
  · intro g out
    have herr := fun {space c} (h : s.spaceCheck a space ea n = .error c) => congrArg Prod.snd (State.reach_error h align r w)
    have hmis := fun {space p} (h : s.spaceCheck a space ea n = .ok p) (hal : ea % align ≠ 0) =>
      congrArg Prod.snd (State.reach_misaligned h hal r w)
    have hloc := fun {space loc} (h : s.spaceCheck a space ea n = .ok (some loc)) (hal : ea % align = 0) =>
      congrArg Prod.snd (State.reach_local h hal r w)
    have hglobal : ea + n ≤ 2 ^ 57 → s.spaceCheck a 0 ea n = .ok none := fun h => if_neg (by omega)
    have hown : ea + n ≤ g.scratch → s.spaceCheck a 1 ea n = .ok (some (scratchBase a.gang + a.wg * 2 ^ 19 + ea)) :=
      fun h => if_pos h
    have hpack : ea + n ≤ (s.context a.ctx).psBytes → s.spaceCheck a 3 ea n = .ok (some (psBase a.ctx + ea)) :=
      fun h => if_pos h
    refine ⟨fun h => herr (if_pos h), fun h => hmis (hglobal h), fun h => fun hal => State.reach_global (hglobal h) hal r w,
      fun h => herr (if_neg (Nat.not_le.2 h)), fun h => hmis (hown h), fun h hal => ?_, fun h => herr (if_pos h),
      fun h h2 => herr ?_, fun h h2 h3 => herr ?_, fun h h2 h3 => hloc ?_, fun h => herr (if_neg (Nat.not_le.2 h)),
      fun h => hloc (hpack h)⟩
    · rw [Nat.mul_comm (2 ^ 19) a.wg]
      exact hloc (hown h) hal
    · exact (if_neg (Nat.not_le.2 h)).trans (if_pos h2)
    · exact (if_neg (Nat.not_le.2 h)).trans ((if_neg (Nat.not_le.2 h2)).trans (if_pos h3))
    · exact (if_neg (Nat.not_le.2 h)).trans ((if_neg (Nat.not_le.2 h2)).trans (if_neg (Nat.not_lt.2 h3)))
  · obtain ⟨hrest, hmeters, hpoison, hbytes⟩ := State.translate_translates hs us ctx va r w x
    exact ⟨hrest, hmeters, hpoison, hbytes⟩
  · intro t3 t2 t1 t0 frame pr pw px kind hk htabs hmiss t4 slot out
    have htab : ∀ t ∈ [t3, t2, t1, t0, frame], t % 4096 = 0 ∧ t < 2 ^ 52 := htabs
    simp only [List.forall_mem_cons] at htab
    obtain ⟨h3, h2, h1, h0, hframe, -⟩ := htab
    have hout : out = .of va r w x (walkFrom s va 4 t4) := by
      refine (State.translate_snd s us ctx va r w x).trans ?_
      rw [State.translateVia_walks _ hmiss, State.walk_unheld hs]
      rfl
    refine ⟨fun hno => ?_, fun he4 he3 he2 he1 => ?_⟩
    · rw [hout, walkFrom_invalid (level := 3) hno]
      rfl
    · rw [hout, walkFrom_pointer (level := 3) he4 h3.1 h3.2, walkFrom_pointer (level := 2) he3 h2.1 h2.2,
        walkFrom_pointer (level := 1) he2 h1.1 h1.2, walkFrom_pointer (level := 0) he1 h0.1 h0.2]
      refine ⟨fun he => ?_, fun he => ?_⟩
      · rw [walkFrom_empty he]
        rfl
      · rw [walkFrom_leaf (kind := kind) (r := pr) (w := pw) (x := px) he hk hframe.1 hframe.2]
        have hplace : Mapping.place { size := 12, vpage := va / 2 ^ 12, frame := frame, r := pr, w := pw, x := px, kind := kind
                                      peer := 0 } va = (if kind = 0 then 0 else hostBase) + frame + va % 4096 := by
          have hpeer : kind ≠ 3 := by omega
          unfold Mapping.place
          by_cases hk0 : kind = 0 <;> simp [hk0, hpeer]
        refine if_congr ?_ rfl (by rw [hplace])
        simp only [Bool.or_eq_true, Bool.and_eq_true, Bool.not_eq_true', or_assoc]

end Sys2Proof.Machine
end

section
/-! Obligation O45: lanes performed again, by REPLAY and from the operand log (R161, R334). -/

set_option Elab.async false

namespace Sys2Proof.Machine

/-! ## A place that reaches into a second line (R234) -/

/-- A load of 8 bytes at address 0 in lane 0, into registers 0 and 1. -/
def crossingLoad : Job :=
  { kind := .load 3, space := 0, base := 0, ea := Vector.replicate 32 0, bits := Vector.replicate 32 0
    data := Vector.replicate 32 0, stack := false }

/-- The load lies in the operand log, and its page is mapped. -/
def crossingEntry : LogEntry :=
  { tag := 1, pc := 0, unit := { op := .move false false 0 0 0 3 0, hints := {} }, entry := 0, lanes := 1, eas := []
    job := crossingLoad, pend := 0, answer := some true }

/-- The buffered translation of page 0 is a frame at 124: the load's bytes lie at 124 to 131, the last four in line 128, of
which core 0 holds a partial value. -/
def crossingState : State :=
  { State.reset with
    warp := { Warp.blank with uid := 1, live := true, resident := true, log := [crossingEntry] }
    tlb := [{ unit := .core 0 0 0, asid := 0
              map := { size := 12, vpage := 0, frame := 124, r := true, w := true, x := false, kind := 0, peer := 0 } }]
    partials := [{ core := 0, loc := 128, op := .add, ty := 0, val := 1 }] }

/-- What the checks of the load's lane find. -/
def crossingChecks : State × List (Fin 32 × LaneCheck) :=
  ({ crossingState with warp := { crossingState.warp with log := [] } }).checkLanes
    (crossingState.warp.agent.pend 1 0) crossingLoad true (lanesOf 1)

theorem crossingChecks_places : crossingChecks.2 = [(0, .ok [{ loc := 124, n := 8, kind := 0, peer := 0 }])] := by
  decide +kernel

theorem crossingState_free : crossingState.Free crossingChecks.2 := by
  rw [crossingChecks_places]
  unfold State.Free
  decide +kernel

/-- The load's read of line 128 combines the partial value there into memory. -/
theorem crossingState_replay : ∀ t, exec (.operandLogReplay 1 1) crossingState = .next t → t.mem.read 128 = 1 := by
  intro t h
  have ht : (match execOperandLogReplay 1 1 crossingState with | .next u => u.mem.read 128 | _ => 0) = 1 := by
    decide +kernel
  have he : execOperandLogReplay 1 1 crossingState = .next t := h
  rw [he] at ht
  exact ht

/-- Refutes O45: the statement asks that no partial value lies in the line where a place begins, and a place may reach into the
line after it, where the read of a replayed load changes memory (R234). -/
theorem not_lanesReplayed : ¬ Obligations.LanesReplayed := by
  unfold Obligations.LanesReplayed
  rintro ⟨-, h⟩
  have hlog := (h crossingState crossingState crossingChecks.1 1 1 crossingEntry crossingChecks.2 ⟨rfl, rfl, rfl⟩ rfl rfl rfl).1
  obtain ⟨hdone, -⟩ := hlog rfl (by decide +kernel) rfl (by decide +kernel) rfl (by decide +kernel) (by decide +kernel)
    crossingState_free (by rw [crossingChecks_places]; decide) (fun _ => by decide +kernel) Memory.wf_nil
  obtain ⟨t, hexec, hperf, -⟩ := hdone (by rw [crossingChecks_places]; rfl)
  have hsame := (hperf.load 3 rfl).1 128 not_false
  rw [crossingState_replay t hexec] at hsame
  exact absurd hsame (by decide)

end Sys2Proof.Machine
end

section
/-! Obligation O46: events of the directory, the slices and the timers (R244, R249). -/

set_option Elab.async false

namespace Sys2Proof.Machine

/-! ## A waiter whose timer has run out is on no chain (R244, R249) -/

/-- Warps 1 and 2, each in the queue of the line whose lock the other one holds. Warp 1's timer ran out at cycle 0. -/
def timedOutLocks : List Lock :=
  [{ line := 0, va := 0, holder := some 2, queue := [{ warp := 1, pend := 0, deadline := some 0 }], mark := false },
   { line := 128, va := 128, holder := some 1, queue := [{ warp := 2, pend := 0, deadline := none }], mark := false }]

/-- They wait at a cycle in which context 0 is due for its scan. -/
def timedOutState : State :=
  { State.reset with
    warp := { Warp.blank with uid := 1, live := true }
    others := [{ Warp.blank with uid := 2, live := true }]
    contexts := [{ Context.start 0 with dlkperiod := 1 }]
    locks := timedOutLocks
    clock := 1 }

/-- The scan follows warp 2's request alone, which leads to no cycle. -/
theorem timedOutState_scan : ∀ t, exec (.deadlockScan 0) timedOutState = .next t → t.cycles = [] := by
  intro t h
  have ht : (match execDeadlockScan 0 timedOutState with | .next u => u.cycles | _ => []) = [] := by decide +kernel
  have he : execDeadlockScan 0 timedOutState = .next t := h
  rw [he] at ht
  exact ht

/-- Refutes O46: a waiter whose timer has run out is on no chain that a scan follows (R244), so two warps that wait for each
other are not reported where one of them has timed out; the statement asks nothing of their deadlines. -/
theorem not_memoryEvents : ¬ Obligations.MemoryEvents := by
  unfold Obligations.MemoryEvents
  rintro ⟨-, h⟩
  obtain ⟨-, -, -, hscan⟩ := h timedOutState
  obtain ⟨t, hexec, hkey, -⟩ := hscan 0 timedOutState.warp { Warp.blank with uid := 2, live := true }
    timedOutLocks[0] timedOutLocks[1] { warp := 1, pend := 0, deadline := some 0 } { warp := 2, pend := 0, deadline := none }
    { Context.start 0 with dlkperiod := 1 } rfl rfl (by decide) (by decide) (by decide) (by decide) rfl rfl (by decide)
    rfl rfl rfl rfl rfl (by decide) (by decide +kernel) (by decide +kernel)
  rw [timedOutState_scan t hexec] at hkey
  exact List.not_mem_nil hkey

end Sys2Proof.Machine
end

section
/-! What the checks of an access and its performance change (R158, R160, R234, R356): rules for the statements about units
of memory accesses. -/

set_option Elab.async false

namespace Sys2Proof.Machine

/-! ## States that an access may leave -/

/-- At most what a unit of accesses touches outside its warp has changed. -/
structure State.Reaches (s t : State) : Prop where
  touched : Touched s t
  warp : t.warp = s.warp
  delays : t.delays = s.delays

namespace State.Reaches

variable {s t u : State}

theorem refl (s : State) : s.Reaches s := ⟨⟨fun _ => rfl, fun _ h => h, rfl, rfl⟩, rfl, rfl⟩

theorem trans (h : s.Reaches t) (g : t.Reaches u) : s.Reaches u := by
  obtain ⟨⟨hctx, hpoison, hmon, hworld⟩, hwarp, hdelays⟩ := h
  obtain ⟨⟨gctx, gpoison, gmon, gworld⟩, gwarp, gdelays⟩ := g
  refine ⟨⟨fun n => (gctx n).trans (hctx n), fun g hg => hpoison g (gpoison g hg), gmon.trans hmon, ?_⟩, gwarp.trans hwarp,
    gdelays.trans hdelays⟩
  rw [gworld, hworld]

theorem pageLocks (h : s.Reaches t) : t.pageLocks = s.pageLocks := by rw [h.touched.world]

theorem foldl {α : Type} {f : State → α → State} (hf : ∀ (s : State) (a : α), s.Reaches (f s a)) (l : List α) :
    ∀ s : State, s.Reaches (l.foldl f s) := by
  induction l with
  | nil => exact refl
  | cons a l ih => exact fun s => (hf s a).trans (ih _)

end State.Reaches

theorem State.Noted.reaches {s t : State} (h : s.Noted t) : s.Reaches t := by
  obtain ⟨hrest, hmeters⟩ := h
  refine ⟨⟨hmeters, ?_, ?_, ?_⟩, ?_, ?_⟩ <;> rw [hrest]
  exact fun _ hg => hg

/-- Fewer partial values. -/
theorem State.reaches_partials (s : State) (ps : List Partial) : s.Reaches { s with partials := ps } :=
  ⟨⟨fun _ => rfl, fun _ h => h, rfl, rfl⟩, rfl, rfl⟩

theorem Monitor.afterWrite_unfired (now : Nat) (m : Memory) (loc n : Nat) (k : Monitor) :
    { k.afterWrite now m loc n with fired := false } = { k with fired := false } := by
  unfold Monitor.afterWrite
  split <;> rfl

theorem State.poke_reaches (s : State) (loc : Nat) (bs : List Byte) : s.Reaches (s.poke loc bs) := by
  refine ⟨⟨fun _ => rfl, fun g hg => List.mem_of_mem_filter hg, ?_, rfl⟩, rfl, rfl⟩
  show List.map _ (List.map _ s.monitors) = _
  rw [List.map_map]
  exact List.map_congr_left fun k _ => k.afterWrite_unfired _ _ _ _

theorem State.combine_reaches (s : State) (p : Partial) : s.Reaches (s.combine p) := by
  unfold State.combine State.reduceAt State.atom
  dsimp only
  split
  · exact .refl s
  · split
    · exact .refl s
    · exact s.poke_reaches _ _

theorem State.recall_reaches (s : State) (line : Nat) : s.Reaches (s.recall line) :=
  (s.reaches_partials _).trans (State.Reaches.foldl State.combine_reaches _ _)

theorem State.recall_partials (s : State) (line : Nat) : ∀ p ∈ (s.recall line).partials, p ∈ s.partials :=
  fun p hp => ((s.mem_partials_recall line p).1 hp).1

/-! ## What the checks leave (R158) -/

/-- A state that checks may leave: partial values have been combined, and none has come. -/
structure State.Checks (s t : State) : Prop where
  reaches : s.Reaches t
  partials : ∀ p ∈ t.partials, p ∈ s.partials

namespace State.Checks

variable {s t u : State}

theorem refl (s : State) : s.Checks s := ⟨.refl s, fun _ h => h⟩

theorem trans (h : s.Checks t) (g : t.Checks u) : s.Checks u :=
  ⟨h.reaches.trans g.reaches, fun p hp => h.partials p (g.partials p hp)⟩

end State.Checks

theorem State.Noted.checks {s t : State} (h : s.Noted t) : s.Checks t :=
  ⟨h.reaches, by rw [h.partials]; exact fun _ hp => hp⟩

theorem State.readEntry_checks (s : State) (ctx loc : Nat) : s.Checks (s.readEntry ctx loc) := by
  have hr : s.Checks (s.recall (lineOf loc)) := ⟨s.recall_reaches _, s.recall_partials _⟩
  unfold State.readEntry
  dsimp only
  split
  · exact hr.trans (State.llcRead_counted _ _ _).noted.checks
  · exact hr

theorem State.recallWalk_checks (ctx va level : Nat) : ∀ (s : State) (table : Nat),
    s.Checks (s.recallWalk ctx va level table) := by
  induction level with
  | zero => exact fun s table => s.readEntry_checks _ _
  | succ level ih =>
    intro s table
    have hr := s.readEntry_checks ctx (pteAddr table va (level + 1))
    unfold State.recallWalk
    dsimp only
    split
    · exact hr.trans (ih _ _)
    · exact hr

theorem State.ownPage_checks (s : State) (c : Context) (m : Mapping) : s.Checks (s.ownPage c m) := by
  refine ⟨⟨⟨fun n => ?_, s.ownPage_poison c m, ?_, ?_⟩, ?_, ?_⟩, s.ownPage_partials c m⟩ <;> rw [s.ownPage_only c m]
  rfl

/-- Neither the free value nor a translation buffer. -/
theorem State.checks_free (s : State) (n : Nat) : s.Checks { s with free := n } :=
  ⟨⟨⟨fun _ => rfl, fun _ h => h, rfl, rfl⟩, rfl, rfl⟩, fun _ h => h⟩

theorem State.tlbFill_checks (s : State) (u : TlbUnit) (asid : BitVec 16) (m : Mapping) : s.Checks (s.tlbFill u asid m) :=
  ⟨⟨⟨fun _ => rfl, fun _ h => h, rfl, rfl⟩, rfl, rfl⟩, fun _ h => h⟩

theorem State.walkFor_checks (s : State) (c : Context) (va : Nat) : s.Checks (s.walkFor c va).1 := by
  have hw := State.recallWalk_checks c.num va 4 s c.root
  unfold State.walkFor
  dsimp only
  split
  · exact (hw.trans (State.ownPage_checks _ c _)).trans (State.checks_free _ _)
  · exact hw.trans (State.checks_free _ _)

theorem State.translateVia_checks (s : State) (c : Context) (va : Nat) (asker : TlbUnit) (us : List TlbUnit) :
    s.Checks (s.translateVia c va asker us).1 := by
  induction us with
  | nil => exact s.walkFor_checks c va
  | cons u us ih =>
    unfold State.translateVia
    split
    · exact .refl s
    · split
      · next heq =>
        rw [heq] at ih
        exact ih.trans (State.tlbFill_checks _ _ _ _)
      · next heq =>
        rw [heq] at ih
        exact ih

theorem State.reach_checks (s : State) (a : Agent) (space ea n align : Nat) (r w : Bool) :
    s.Checks (s.reach a space ea n align r w).1 := by
  unfold State.reach
  split
  · exact .refl s
  · split
    · exact .refl s
    · split
      · exact .refl s
      · rw [State.translate_fst]
        exact s.translateVia_checks _ _ _ _

theorem State.checkAccesses_checks (a : Agent) (j : Job) (watch : Bool) (xs : List (Word64 × Nat)) : ∀ s : State,
    s.Checks (s.checkAccesses a j watch xs).1 := by
  induction xs with
  | nil => exact State.Checks.refl
  | cons x xs ih =>
    intro s
    obtain ⟨ea, n⟩ := x
    have hr := s.reach_checks a j.space ea.toNat n j.align j.kind.perms.1 j.kind.perms.2
    unfold State.checkAccesses
    dsimp only
    split
    · next heq => rw [heq] at hr; exact hr
    · next heq =>
      rw [heq] at hr
      split
      · exact hr
      · have hn := hr.trans (ih _)
        split <;> (next heq' => rw [heq'] at hn; exact hn)

theorem State.checkLanes_checks (a : Agent) (j : Job) (watch : Bool) (ls : List (Fin 32)) : ∀ s : State,
    s.Checks (s.checkLanes a j watch ls).1 := by
  induction ls with
  | nil => exact State.Checks.refl
  | cons l ls ih => exact fun s => (State.checkAccesses_checks a j watch (j.accesses l) s).trans (ih _)

/-! ## What the checks find -/

/-- A lane that passes has one place for each of its accesses, of its size. -/
theorem State.checkAccesses_sizes {a : Agent} {j : Job} {watch : Bool} (xs : List (Word64 × Nat)) : ∀ {s : State} {ts : List Target},
    (s.checkAccesses a j watch xs).2 = .ok ts → ts.map (·.n) = xs.map (·.2) := by
  induction xs with
  | nil =>
    intro s ts h
    cases h
    rfl
  | cons x xs ih =>
    intro s ts h
    obtain ⟨ea, n⟩ := x
    unfold State.checkAccesses at h
    dsimp only at h
    split at h
    · cases h
    · split at h
      · cases h
      · split at h
        · cases h
        · next heq =>
          cases h
          rw [List.map_cons, List.map_cons, ih (congrArg Prod.snd heq)]

theorem State.checkLanes_keys (a : Agent) (j : Job) (watch : Bool) (ls : List (Fin 32)) : ∀ s : State,
    (s.checkLanes a j watch ls).2.map (·.1) = ls := by
  induction ls with
  | nil => exact fun _ => rfl
  | cons l ls ih => exact fun s => congrArg (l :: ·) (ih _)

theorem State.checkLanes_sizes {a : Agent} {j : Job} {watch : Bool} (ls : List (Fin 32)) : ∀ {s : State} {l : Fin 32} {ts : List Target},
    (l, .ok ts) ∈ (s.checkLanes a j watch ls).2 → ts.map (·.n) = (j.accesses l).map (·.2) := by
  induction ls with
  | nil => intro s l ts h; cases h
  | cons k ls ih =>
    intro s l ts h
    rcases List.mem_cons.1 h with h | h
    · injection h with hk hc
      subst hk
      refine State.checkAccesses_sizes (a := a) (j := j) (watch := watch) (j.accesses l) (s := s) ?_
      cases hx : (s.checkAccesses a j watch (j.accesses l)).2 with
      | error e =>
        have : (Except.mapError (j.reported l) (s.checkAccesses a j watch (j.accesses l)).2) = .ok ts := hc.symm
        rw [hx] at this
        cases this
      | ok us =>
        have : (Except.mapError (j.reported l) (s.checkAccesses a j watch (j.accesses l)).2) = .ok ts := hc.symm
        rw [hx] at this
        cases this
        rfl
    · exact ih h

end Sys2Proof.Machine
end

section
/-! A unit of memory accesses up to the performance of its lanes (R147, R293, R302): rules for the statements about such
units. -/

set_option Elab.async false

namespace Sys2Proof.Machine

/-! ## Lines that count towards leases (R293) -/

theorem State.schedule_leases (s : State) (core : Nat) : s.SameButLeases (s.schedule core) :=
  (State.SameButLeases.foldl State.refreshLease_leases _ s).trans (State.activateAll_leases _ _ _)

/-- A change of the issuing warp's lease. -/
theorem State.onWarp_leases (s : State) (f : Warp → Lease) : s.SameButLeases (s.onWarp fun w => { w with lease := f w }) :=
  ⟨rfl, rfl⟩

theorem State.lostLocality_leases (s : State) : s.SameButLeases s.lostLocality := by
  have hm := s.onWarp_leases fun w => { w.lease with m := min 4095 (w.lease.m + 64) }
  unfold State.lostLocality
  dsimp only
  split
  · exact hm
  · split
    · exact (hm.trans (State.mapLease_leases _ _ _)).trans (State.schedule_leases _ _)
    · exact hm

/-- At most leases of warps and victim tags have changed. -/
structure State.Lined (s t : State) : Prop where
  rest : t = { s with warp := { s.warp with lease := t.warp.lease }, others := t.others, victims := t.victims }
  others : t.others.map Warp.unleased = s.others.map Warp.unleased

theorem State.SameButLeases.lined {s t : State} {vs : List Victim} (h : State.SameButLeases { s with victims := vs } t) :
    s.Lined t := by
  obtain ⟨hrest, hwarps⟩ := h
  obtain ⟨hwarp, hothers⟩ := List.cons.inj hwarps
  have hw : t.warp = { s.warp with lease := t.warp.lease } := by
    have : { t.warp.unleased with lease := t.warp.lease } = { s.warp.unleased with lease := t.warp.lease } := by rw [hwarp]
    exact this
  refine ⟨?_, hothers⟩
  rw [hrest]
  dsimp only
  rw [← hw]

theorem State.Lined.trans {s t u : State} (h : s.Lined t) (g : t.Lined u) : s.Lined u := by
  obtain ⟨hrest, hothers⟩ := h
  obtain ⟨grest, gothers⟩ := g
  exact ⟨by rw [grest, hrest], gothers.trans hothers⟩

theorem State.noteMisses_lined (s : State) (lines : List Nat) : s.Lined (s.noteMisses lines) :=
  (State.SameButLeases.foldl (fun s _ => s.lostLocality_leases) _ _).lined

theorem State.noteLines_lined (s : State) (j : Job) (ts : List Target) : s.Lined (s.noteLines j ts) := by
  unfold State.noteLines
  split
  · exact ⟨rfl, rfl⟩
  · have hlines := fun ls : List Nat => State.Lined.trans (s := s)
      (t := s.onWarp fun w => { w with lease := { w.lease with lines := ls.foldl insertRising w.lease.lines } }) ⟨rfl, rfl⟩
      (State.noteMisses_lined _ ls)
    exact hlines _

/-! ## States that a unit of accesses leaves -/

/-- Everything that a unit of accesses may change but the registers and the place of its warp. -/
structure State.Served (s t : State) : Prop where
  warp : t.warp = { s.warp with lease := t.warp.lease }
  others : t.others.map Warp.unleased = s.others.map Warp.unleased
  contexts : ∀ n, (t.context? n).map Context.unmetered = (s.context? n).map Context.unmetered
  poison : ∀ g ∈ t.poison, g ∈ s.poison
  monitors : t.monitors.map (fun m => { m with fired := false }) = s.monitors.map fun m => { m with fired := false }
  world : t = { s with
    warp := t.warp, others := t.others, contexts := t.contexts, mem := t.mem, poison := t.poison
    monitors := t.monitors, tlb := t.tlb, free := t.free, homes := t.homes, regs := t.regs, regions := t.regions
    partials := t.partials, owners := t.owners, llc := t.llc, victims := t.victims, sectors := t.sectors }

section
variable {s t u : State}

theorem State.Served.trans (h : s.Served t) (g : t.Served u) : s.Served u := by
  obtain ⟨hwarp, hothers, hctx, hpoison, hmon, hworld⟩ := h
  obtain ⟨gwarp, gothers, gctx, gpoison, gmon, gworld⟩ := g
  refine ⟨?_, gothers.trans hothers, fun n => (gctx n).trans (hctx n), fun g hg => hpoison g (gpoison g hg), gmon.trans hmon, ?_⟩
  · rw [gwarp, hwarp]
  · rw [gworld, hworld]

theorem State.Reaches.served (h : s.Reaches t) : s.Served t := by
  obtain ⟨⟨hctx, hpoison, hmon, hworld⟩, hwarp, hdelays⟩ := h
  refine ⟨by rw [hwarp], by rw [hworld], hctx, hpoison, hmon, ?_⟩
  rw [hworld]
  dsimp only
  rw [hdelays]

theorem State.Lined.served (h : s.Lined t) : s.Served t := by
  obtain ⟨hrest, hothers⟩ := h
  exact ⟨by rw [hrest], hothers, fun n => by rw [hrest]; rfl, by rw [hrest]; exact fun _ hg => hg, by rw [hrest],
    by rw [hrest]⟩

/-! ## Places that can be used at once -/

/-- A place in the package, outside pages under migration, whose lines hold no partial value. -/
structure State.Clear (s : State) (g : Target) : Prop where
  near : g.kind ≠ 3
  page : s.pageLockOf g.loc = none
  partials : ∀ p ∈ s.partials, lineOf p.loc ∉ linesOf g.loc g.n

theorem State.Clear.of_fewer {g : Target} (h : s.Clear g) (hl : t.pageLocks = s.pageLocks)
    (hp : ∀ p ∈ t.partials, p ∈ s.partials) : t.Clear g :=
  ⟨h.near, by rw [State.pageLockOf, hl]; exact h.page, fun p hm => h.partials p (hp p hm)⟩

theorem State.Checks.clear {g : Target} (h : s.Checks t) (hg : s.Clear g) : t.Clear g :=
  hg.of_fewer h.reaches.pageLocks h.partials

theorem State.Lined.clear {g : Target} (h : s.Lined t) (hg : s.Clear g) : t.Clear g :=
  hg.of_fewer (by rw [h.rest]) (by rw [h.rest]; exact fun _ hp => hp)

theorem State.Lets.clear {j : Job} {release : Bool} {s' : State} {cs : List (Fin 32 × LaneCheck)}
    (h : s.Lets j release s' cs) : ∀ g ∈ passed cs, s.Clear g :=
  fun g hg => ⟨h.near g hg, h.pages g hg, fun p hp hm => (h.partials g hg p hp _ hm).1 rfl⟩

end

/-! ## Lanes performed -/

/-- What a unit does outside its warp where nothing is in its way: memory becomes `m`. -/
structure State.Acts (s t : State) (m : Memory) : Prop where
  reaches : s.Reaches t
  partials : t.partials = s.partials
  mem : t.mem = m

section
variable {s t u : State}

theorem State.Acts.refl (s : State) : s.Acts s s.mem := ⟨.refl s, rfl, rfl⟩

theorem State.Acts.trans {m m' : Memory} (h : s.Acts t m) (g : t.Acts u m') : s.Acts u m' :=
  ⟨h.reaches.trans g.reaches, g.partials.trans h.partials, g.mem⟩

theorem State.Noted.acts (h : s.Noted t) : s.Acts t s.mem := ⟨h.reaches, h.partials, h.mem⟩

theorem State.Acts.clear {m : Memory} {g : Target} (h : s.Acts t m) (hg : s.Clear g) : t.Clear g :=
  hg.of_fewer h.reaches.pageLocks (by rw [h.partials]; exact fun _ hp => hp)

/-- The lanes that are done, with what they have read. -/
def doneOf (val : Fin 32 → List Target → List Word32) (cs : List (Fin 32 × LaneCheck)) : List (Fin 32 × LaneDone) :=
  cs.filterMap fun c => match c.2 with
    | .ok ts => some (c.1, .ok (val c.1 ts))
    | .error _ => none

/-- What the lanes that pass make of memory, in their order. -/
def actsOf (eff : Fin 32 → List Target → Memory → Memory) (m : Memory) (cs : List (Fin 32 × LaneCheck)) : Memory :=
  cs.foldl (fun m c => match c.2 with
    | .ok ts => eff c.1 ts m
    | .error _ => m) m

/-- Lanes that each act on memory and read values do so one after the other. -/
theorem State.runLanes_acts {a : Agent} {j : Job} {k : Nat} {eff : Fin 32 → List Target → Memory → Memory}
    {val : Fin 32 → List Target → List Word32} (inv : State → Prop) (cs : List (Fin 32 × LaneCheck)) : ∀ {s : State} (_ : inv s)
    (_ : ∀ s l ts, inv s → (l, Except.ok ts) ∈ cs →
      ∃ t, s.startLane a j k l ts = (t, .ok (val l ts)) ∧ s.Acts t (eff l ts s.mem) ∧ inv t),
    ∃ t, s.runLanes a j k cs = (t, doneOf val cs) ∧ s.Acts t (actsOf eff s.mem cs) := by
  induction cs with
  | nil => exact fun {s} _ _ => ⟨s, rfl, .refl s⟩
  | cons c cs ih =>
    intro s hs hstep
    have hrest : ∀ s l ts, inv s → (l, Except.ok ts) ∈ cs →
        ∃ t, s.startLane a j k l ts = (t, .ok (val l ts)) ∧ s.Acts t (eff l ts s.mem) ∧ inv t :=
      fun s l ts h hm => hstep s l ts h (List.mem_cons_of_mem _ hm)
    obtain ⟨l, c⟩ := c
    cases c with
    | error e =>
      obtain ⟨t, hrun, hacts⟩ := ih hs hrest
      exact ⟨t, hrun, hacts⟩
    | ok ts =>
      obtain ⟨t, hstart, hacts, ht⟩ := hstep s l ts hs List.mem_cons_self
      obtain ⟨u, hrun, hacts'⟩ := ih ht hrest
      refine ⟨u, ?_, ?_⟩
      · unfold State.runLanes
        rw [hstart]
        dsimp only
        rw [hrun]
        rfl
      · rw [hacts.mem] at hacts'
        exact hacts.trans hacts'

end

/-! ## A unit that is let through -/

/-- The state in which the lanes of a unit that is let through are performed. -/
def State.readyFor (s' : State) (w : Warp) (j : Job) (cs : List (Fin 32 × LaneCheck)) : State :=
  State.noteLines (if j.kind.metered then s'.chargeLanes w.ctx w.site ((passed cs).map Target.triple) else s') j (passed cs)

theorem State.memUnit_lets {s s' : State} {j : Job} {release : Bool} {cs : List (Fin 32 × LaneCheck)}
    (h : s.Lets j release s' cs) (dests : List Reg) (op : MemOp) {poison : Word32} (hp : poison &&& s.warp.active = 0)
    (acquire : Bool) : s.memUnit j dests op poison release acquire =
      let r := (s'.readyFor s.warp j cs).runLanes s.warp.agent j s.warp.nextPend cs
      r.1.endUnit j dests { op := op, hints := s.warp.frag.hints } 0 (failures cs) r.2 s.warp.nextPend acquire := by
  have hlocks : s'.pageLocks = s.pageLocks := by
    have := State.checkLanes_checks s.warp.agent j true (lanesOf s.warp.active) s
    rw [h.checks] at this
    exact this.reaches.pageLocks
  obtain ⟨hlog, hacq, hrel, hchecks, -, htokens, hpages, -, -⟩ := h
  have hlanes : s.warp.active &&& ~~~poison = s.warp.active := by
    ext i hi
    have hbit : (poison &&& s.warp.active)[i] = false := by simp [hp]
    rw [BitVec.getElem_and] at hbit
    rw [BitVec.getElem_and, BitVec.getElem_not]
    cases hq : poison[i] <;> simp_all
  have hrel' : (release && !s.releaseReady) = false := by
    cases release with
    | false => rfl
    | true => rw [hrel rfl]; rfl
  have hpass : (passed cs).any (fun t => s'.passesHeld s.warp.uid t.loc t.n) = false :=
    List.any_eq_false.2 fun g hg => by
      have hp : s'.pageLockOf g.loc = none := by rw [State.pageLockOf, hlocks]; exact hpages g hg
      simp [State.passesHeld, hp]
  have hdry : (if j.kind.metered then s'.heldByTokens s.warp.site ((passed cs).map Target.triple) else []) = [] := by
    split
    · next hm => exact htokens hm
    · rfl
  unfold State.memUnit
  dsimp only
  rw [hlanes, hp, hlog, hacq, hrel', hchecks]
  dsimp only
  rw [hdry, hpass, Bool.and_false]
  rfl

/-- A lane whose places lie in the package is performed here. -/
theorem State.startLane_near (s : State) (a : Agent) (j : Job) (k : Nat) (l : Fin 32) {ts : List Target}
    (h : ∀ t ∈ ts, t.kind ≠ 3) : s.startLane a j k l ts = s.performLane a j k l ts :=
  if_pos (List.all_eq_true.2 fun t ht => bne_iff_ne.2 (h t ht))

/-- The places of a lane that passes are among those of all. -/
theorem mem_passed {cs : List (Fin 32 × LaneCheck)} {l : Fin 32} {ts : List Target} (h : (l, .ok ts) ∈ cs) :
    ∀ g ∈ ts, g ∈ passed cs :=
  fun _ hg => List.mem_flatMap.2 ⟨_, h, hg⟩

end Sys2Proof.Machine
end

section
/-! Lanes of loads, stores and ZERO performed where nothing is in their way (R144, R147, R151, R154): rules for the
statements about such units. -/

set_option Elab.async false

namespace Sys2Proof.Machine

/-! ## One access performed -/

/-- A byte's line is among those of any access that starts there. -/
theorem lineOf_mem_linesOf_start (loc : Nat) {n : Nat} (h : 0 < n) : lineOf loc ∈ linesOf loc n := by
  unfold linesOf
  exact List.mem_map.2 ⟨0, List.mem_range.2 (by omega), by simp⟩

section
variable {s t : State}

theorem State.poke_acts (s : State) (loc : Nat) (bs : List Byte) : s.Acts (s.poke loc bs) (s.mem.writeBytes loc bs) :=
  ⟨s.poke_reaches loc bs, rfl, rfl⟩

theorem State.writeAt_acts (a : Agent) {g : Target} (h : s.Clear g) (bs : List Byte) (hn : bs.length = g.n) :
    s.Acts (s.writeAt a g.kind g.loc bs) (s.mem.writeBytes g.loc bs) := by
  have hnote := (s.noteWriteBy_noted a g.kind g.loc bs.length).acts
  rw [State.writeAt_clear a g.kind h.page (by rw [hn]; exact h.partials), ← hnote.mem]
  exact hnote.trans (State.poke_acts _ _ _)

/-- Memory with the field of `n` bits at bit `o` of a byte written. -/
def Memory.writeBits (m : Memory) (loc o n v : Nat) : Memory :=
  m.writeBytes loc [BitVec.ofNat 8 ((m.read loc).toNat - (m.read loc).toNat / 2 ^ o % 2 ^ n * 2 ^ o + v % 2 ^ n * 2 ^ o)]

theorem State.writeBitsAt_acts (a : Agent) {g : Target} (h : s.Clear g) (hn : 0 < g.n) (o n v : Nat) :
    s.Acts (s.writeBitsAt a g.kind g.loc o n v) (s.mem.writeBits g.loc o n v) := by
  have hnote := (s.noteWriteBy_noted a g.kind g.loc 1).acts
  have hclear : ∀ p ∈ s.partials, lineOf p.loc ≠ lineOf g.loc := fun p hp he =>
    h.partials p hp (he ▸ lineOf_mem_linesOf_start g.loc hn)
  rw [State.writeBitsAt_clear a g.kind o n v h.page hclear, ← hnote.mem]
  exact hnote.trans (State.poke_acts _ _ _)

/-! ## One lane performed -/

theorem State.readTargets_acts (a : Agent) (ts : List Target) : ∀ {s : State} (_ : ∀ g ∈ ts, s.Clear g),
    ∃ t, s.readTargets a ts = (t, ts.flatMap fun g => s.mem.readBytes g.loc g.n) ∧ s.Acts t s.mem := by
  induction ts with
  | nil => exact fun {s} _ => ⟨s, rfl, .refl s⟩
  | cons g ts ih =>
    intro s h
    have hnote := (s.noteReadBy_noted a g.kind g.loc).acts
    have hread := State.readAt_clear a g.kind (h g List.mem_cons_self).partials
    obtain ⟨t, hrun, hacts⟩ := ih fun x hx => hnote.clear (h x (List.mem_cons_of_mem _ hx))
    refine ⟨t, ?_, ?_⟩
    · unfold State.readTargets
      rw [hread]
      dsimp only
      rw [hrun, hnote.mem]
      rfl
    · rw [hnote.mem] at hacts
      exact hnote.trans hacts

/-- The writes of the places of a lane that stores, in order. -/
def Job.storesAt (j : Job) (l : Fin 32) (i : Nat) (ts : List Target) : List (Nat × List Byte) :=
  (ts.zipIdx i).map fun g => (g.1.loc, j.stored l g.2 g.1.n)

/-- Memory after several writes. -/
def Memory.writeAll (m : Memory) (ws : List (Nat × List Byte)) : Memory := ws.foldl (fun m w => m.writeBytes w.1 w.2) m

theorem State.storeTargets_acts (a : Agent) (j : Job) (l : Fin 32) (ts : List Target) : ∀ {s : State} (i : Nat)
    (_ : ∀ g ∈ ts, s.Clear g), s.Acts (s.storeTargets a j l i ts) (s.mem.writeAll (j.storesAt l i ts)) := by
  induction ts with
  | nil => exact fun {s} _ _ => .refl s
  | cons g ts ih =>
    intro s i h
    have hwrite := State.writeAt_acts a (h g List.mem_cons_self) (j.stored l i g.n) (length_natToBytes _ _)
    have hrest := ih (i + 1) fun x hx => hwrite.clear (h x (List.mem_cons_of_mem _ hx))
    rw [hwrite.mem] at hrest
    exact hwrite.trans hrest

theorem State.zeroTargets_acts (a : Agent) (ts : List Target) : ∀ {s : State} (_ : ∀ g ∈ ts, s.Clear g),
    s.Acts (ts.foldl (fun s t => s.writeAt a t.kind t.loc (List.replicate t.n 0)) s)
      (s.mem.writeAll (ts.map fun g => (g.loc, List.replicate g.n 0))) := by
  induction ts with
  | nil => exact fun {s} _ => .refl s
  | cons g ts ih =>
    intro s h
    have hwrite := State.writeAt_acts a (h g List.mem_cons_self) (List.replicate g.n 0) List.length_replicate
    have hrest := ih fun x hx => hwrite.clear (h x (List.mem_cons_of_mem _ hx))
    rw [hwrite.mem] at hrest
    exact hwrite.trans hrest

theorem State.touchTargets_noted (core : Nat) (ts : List Target) : ∀ s : State,
    s.Noted (ts.foldl (fun s t => if t.kind ≤ 1 then s.pushCore (lineOf t.loc) core else s) s) :=
  State.Noted.foldl (fun s t => by
    split
    · exact s.pushCore_noted _ _
    · exact .refl s) ts

/-! ## Units performed -/

section
variable {a : Agent} {j : Job} {cs : List (Fin 32 × LaneCheck)}

/-- The lanes of a load read memory as it stands and change none of it. -/
theorem State.runLanes_load {sz : Nat} (hk : j.kind = .load sz) (k : Nat) (hc : ∀ g ∈ passed cs, s.Clear g)
    (hp : ∀ g ∈ passed cs, s.poisoned g.loc g.n = false) : ∃ t,
      s.runLanes a j k cs = (t, doneOf (fun l ts => j.loaded l sz (ts.flatMap fun g => s.mem.readBytes g.loc g.n)) cs)
      ∧ s.Acts t s.mem := by
  have hrun := State.runLanes_acts (a := a) (j := j) (k := k) (eff := fun _ _ m => m)
    (val := fun l ts => j.loaded l sz (ts.flatMap fun g => s.mem.readBytes g.loc g.n)) (fun t => s.Acts t s.mem) cs (.refl s)
    fun u l ts hu hm => ?_
  · have hid : ∀ cs : List (Fin 32 × LaneCheck), actsOf (fun _ _ m => m) s.mem cs = s.mem := fun cs => by
      unfold actsOf
      induction cs with
      | nil => rfl
      | cons c cs ih => rw [List.foldl_cons]; split <;> exact ih
    rw [hid] at hrun
    exact hrun
  · have hclear : ∀ g ∈ ts, u.Clear g := fun g hg => hu.clear (hc g (mem_passed hm g hg))
    have hpoison : (ts.any fun t => u.poisoned t.loc t.n) = false := List.any_eq_false.2 fun g hg => by
      have hg' := hp g (mem_passed hm g hg)
      unfold State.poisoned at hg' ⊢
      rw [List.any_eq_false] at hg'
      rw [List.any_eq_true]
      rintro ⟨x, hx, hin⟩
      exact hg' x (hu.reaches.touched.poison x hx) hin
    obtain ⟨t, hread, hacts⟩ := State.readTargets_acts a ts hclear
    rw [hu.mem] at hread hacts
    refine ⟨t, ?_, by rw [hu.mem]; exact hacts, hu.trans hacts⟩
    rw [u.startLane_near a j k l fun g hg => (hclear g hg).near]
    unfold State.performLane
    rw [hk]
    dsimp only
    rw [hpoison, hread]
    rfl

/-- A unit whose lanes act on memory alone, each on its clear places. -/
theorem State.runLanes_writes {eff : Fin 32 → List Target → Memory → Memory} (k : Nat) (hc : ∀ g ∈ passed cs, s.Clear g)
    (hlane : ∀ (u : State) (l : Fin 32) (ts : List Target), (l, Except.ok ts) ∈ cs → (∀ g ∈ ts, u.Clear g) →
      ∃ t, u.performLane a j k l ts = (t, .ok []) ∧ u.Acts t (eff l ts u.mem)) : ∃ t,
      s.runLanes a j k cs = (t, doneOf (fun _ _ => []) cs) ∧ s.Acts t (actsOf eff s.mem cs) :=
  State.runLanes_acts (val := fun _ _ => []) (fun u => ∀ g ∈ passed cs, u.Clear g) cs hc fun u l ts hu hm => by
    have hclear : ∀ g ∈ ts, u.Clear g := fun g hg => hu g (mem_passed hm g hg)
    obtain ⟨t, hrun, hacts⟩ := hlane u l ts hm hclear
    exact ⟨t, (u.startLane_near a j k l fun g hg => (hclear g hg).near).trans hrun, hacts, fun g hg => hacts.clear (hu g hg)⟩

/-- The lanes of a store of whole bytes. -/
theorem State.runLanes_store {sz : Nat} (hk : j.kind = .store sz) (hsub : subBits sz = 0) (k : Nat)
    (hc : ∀ g ∈ passed cs, s.Clear g) : ∃ t, s.runLanes a j k cs = (t, doneOf (fun _ _ => []) cs)
      ∧ s.Acts t (actsOf (fun l ts m => m.writeAll (j.storesAt l 0 ts)) s.mem cs) :=
  State.runLanes_writes k hc fun u l ts _ hclear => by
    refine ⟨_, ?_, State.storeTargets_acts a j l ts 0 hclear⟩
    unfold State.performLane
    rw [hk]
    dsimp only
    split
    · rw [if_neg (not_not.2 hsub)]
    · rfl

/-- The lanes of a sub-byte store, of one place each. -/
theorem State.runLanes_storeBits {sz : Nat} (hk : j.kind = .store sz) (hsub : subBits sz ≠ 0) (k : Nat)
    (hc : ∀ g ∈ passed cs, s.Clear g) (hone : ∀ l ts, (l, Except.ok ts) ∈ cs → ∃ g, ts = [g] ∧ 0 < g.n) :
    ∃ t, s.runLanes a j k cs = (t, doneOf (fun _ _ => []) cs)
      ∧ s.Acts t (actsOf (fun l ts m => ts.foldl (fun m g =>
          m.writeBits g.loc (j.bits[l]).toNat (subBits sz) ((j.data[l]).toNat % 2 ^ subBits sz)) m) s.mem cs) :=
  State.runLanes_writes k hc fun u l ts hm hclear => by
    obtain ⟨g, rfl, hn⟩ := hone l ts hm
    refine ⟨_, ?_, State.writeBitsAt_acts a (hclear g List.mem_cons_self) hn _ _ _⟩
    unfold State.performLane
    rw [hk]
    dsimp only
    rw [if_pos hsub]

/-- The lanes of ZERO. -/
theorem State.runLanes_zero (hk : j.kind = .zero) (k : Nat) (hc : ∀ g ∈ passed cs, s.Clear g) : ∃ t,
    s.runLanes a j k cs = (t, doneOf (fun _ _ => []) cs)
      ∧ s.Acts t (actsOf (fun _ ts m => m.writeAll (ts.map fun g => (g.loc, List.replicate g.n 0))) s.mem cs) :=
  State.runLanes_writes k hc fun u l ts _ hclear => by
    refine ⟨_, ?_, State.zeroTargets_acts a ts hclear⟩
    unfold State.performLane
    rw [hk]

/-- The lanes of INVL and WBK. -/
theorem State.runLanes_touch (hk : j.kind = .touch) (k : Nat) (hc : ∀ g ∈ passed cs, s.Clear g) : ∃ t,
    s.runLanes a j k cs = (t, doneOf (fun _ _ => []) cs) ∧ s.Acts t (actsOf (fun _ _ m => m) s.mem cs) :=
  State.runLanes_writes k hc fun u l ts _ _ => by
    refine ⟨_, ?_, (State.touchTargets_noted (a.core.getD 0) ts u).acts⟩
    unfold State.performLane
    rw [hk]

end
end

end Sys2Proof.Machine
end

section
/-! What the lanes of a unit leave in memory and in registers (R144–R147, R161): rules for the statements about units of
memory accesses. -/

set_option Elab.async false

namespace Sys2Proof.Machine

/-! ## The places of the lanes -/

section
variable {cs : List (Fin 32 × LaneCheck)} {l : Fin 32} {ts : List Target}

/-- Each lane has been checked once. -/
theorem find?_of_mem (hn : (cs.map (·.1)).Nodup) {c : LaneCheck} (h : (l, c) ∈ cs) :
    cs.find? (·.1 == l) = some (l, c) :=
  find?_unique h (beq_self_eq_true l) fun _ hb he => List.inj_on_of_nodup_map hn hb h (beq_iff_eq.1 he)

theorem placesOf_ok (hn : (cs.map (·.1)).Nodup) (h : (l, .ok ts) ∈ cs) : placesOf cs l = ts := by
  unfold placesOf
  rw [find?_of_mem hn h]

theorem placesOf_error (hn : (cs.map (·.1)).Nodup) {e : Cause × Word64} (h : (l, .error e) ∈ cs) : placesOf cs l = [] := by
  unfold placesOf
  rw [find?_of_mem hn h]

theorem placesOf_absent (h : l ∉ cs.map (·.1)) : placesOf cs l = [] := by
  unfold placesOf
  have hnone : cs.find? (·.1 == l) = none :=
    List.find?_eq_none.2 fun c hc he => h (List.mem_map.2 ⟨c, hc, beq_iff_eq.1 he⟩)
  rw [hnone]

/-- What the lanes make of memory, lane by lane from their places. -/
theorem actsOf_eq (hn : (cs.map (·.1)).Nodup) {eff : Fin 32 → List Target → Memory → Memory} (heff : ∀ l m, eff l [] m = m)
    (m : Memory) : actsOf eff m cs = (cs.map (·.1)).foldl (fun m l => eff l (placesOf cs l) m) m := by
  unfold actsOf
  rw [List.foldl_map]
  refine List.foldl_ext _ _ m fun m c hc => ?_
  obtain ⟨l, c⟩ := c
  cases c with
  | ok ts => rw [placesOf_ok hn hc]
  | error e => rw [placesOf_error hn hc, heff]

/-- Where no lane fails, each has passed. -/
theorem exists_ok_of_failures (h : failures cs = []) (hl : l ∈ cs.map (·.1)) : ∃ ts, (l, .ok ts) ∈ cs := by
  obtain ⟨⟨l', c⟩, hc, rfl⟩ := List.mem_map.1 hl
  cases c with
  | ok ts => exact ⟨ts, hc⟩
  | error e =>
    have : (l'.val, e) ∈ failures cs := List.mem_filterMap.2 ⟨_, hc, rfl⟩
    rw [h] at this
    cases this

/-! ## Lanes that are done -/

section
variable {val : Fin 32 → List Target → List Word32}

theorem mem_doneOf {d : Fin 32 × LaneDone} : d ∈ doneOf val cs ↔ ∃ ts, (d.1, .ok ts) ∈ cs ∧ d.2 = .ok (val d.1 ts) := by
  unfold doneOf
  rw [List.mem_filterMap]
  constructor
  · rintro ⟨⟨l, c⟩, hc, hd⟩
    cases c with
    | ok ts =>
      cases hd
      exact ⟨ts, hc, rfl⟩
    | error e => cases hd
  · rintro ⟨ts, hc, hd⟩
    exact ⟨_, hc, by obtain ⟨l, d⟩ := d; dsimp only at hd ⊢; rw [hd]⟩

theorem isAway_doneOf : isAway (doneOf val cs) = false :=
  List.any_eq_false.2 fun d hd => by
    obtain ⟨ts, -, h⟩ := mem_doneOf.1 hd
    rw [h]
    exact Bool.false_ne_true

theorem awayWrites_doneOf : awayWrites (doneOf val cs) = [] :=
  List.flatMap_eq_nil_iff.2 fun d hd => by
    obtain ⟨ts, -, h⟩ := mem_doneOf.1 hd
    rw [h]
    rfl

theorem maskOf_false : maskOf (fun _ => false) = 0 := by decide

theorem killedLanes_doneOf : killedLanes (doneOf val cs) = 0 := by
  unfold killedLanes
  rw [← maskOf_false]
  refine maskOf_congr fun l => List.any_eq_false.2 fun d hd => ?_
  obtain ⟨ts, -, h⟩ := mem_doneOf.1 hd
  simp [h]

theorem inMask_doneLanes : inMask (doneLanes (doneOf val cs)) l = true ↔ ∃ ts, (l, .ok ts) ∈ cs := by
  unfold doneLanes inMask
  rw [getLsbD_maskOf, List.any_eq_true]
  constructor
  · rintro ⟨d, hd, hl⟩
    obtain ⟨ts, hc, -⟩ := mem_doneOf.1 hd
    rw [Bool.and_eq_true, beq_iff_eq] at hl
    exact ⟨ts, hl.1 ▸ hc⟩
  · rintro ⟨ts, hc⟩
    exact ⟨(l, .ok (val l ts)), mem_doneOf.2 ⟨ts, hc, rfl⟩, by simp⟩

theorem doneVal_doneOf (hn : (cs.map (·.1)).Nodup) (h : (l, .ok ts) ∈ cs) (i : Nat) :
    doneVal (doneOf val cs) i l = (val l ts).getD i 0 := by
  have hfind : (doneOf val cs).find? (·.1 == l) = some (l, .ok (val l ts)) :=
    find?_unique (mem_doneOf.2 ⟨ts, h, rfl⟩) (beq_self_eq_true l) fun d hd he => by
      obtain ⟨us, hc, hv⟩ := mem_doneOf.1 hd
      obtain ⟨l', d⟩ := d
      cases beq_iff_eq.1 he
      have hus : us = ts := (placesOf_ok hn hc).symm.trans (placesOf_ok hn h)
      dsimp only at hv
      rw [hv, hus]
  unfold doneVal
  rw [hfind]

end
end

/-! ## Bytes and bits written -/

/-- Several writes leave each byte to the last that reaches it. -/
theorem Memory.read_writeAll (ws : List (Nat × List Byte)) : ∀ {m : Memory} (_ : m.wf),
    (m.writeAll ws).wf ∧ ∀ x, (m.writeAll ws).read x = laidAll ws x (m.read x) := by
  induction ws with
  | nil => exact fun {m} h => ⟨h, fun _ => rfl⟩
  | cons w ws ih =>
    intro m h
    obtain ⟨hwf, hread⟩ := ih (Memory.wf_writeBytes w.2 h w.1)
    refine ⟨hwf, fun x => (hread x).trans ?_⟩
    rw [Memory.read_writeBytes w.2 h]
    rfl

/-- The writes of several lanes are one list of writes. -/
theorem Memory.foldl_writeAll (ws : Fin 32 → List (Nat × List Byte)) (ls : List (Fin 32)) (m : Memory) :
    ls.foldl (fun m l => m.writeAll (ws l)) m = m.writeAll (ls.flatMap ws) :=
  List.foldl_flatMap.symm

/-- A field of a byte replaced, as its bits stand. -/
theorem field_replaced {old o n : Nat} (v : Nat) (h : old < 256) (hon : o + n ≤ 8) :
    (BitVec.ofNat 8 (old - old / 2 ^ o % 2 ^ n * 2 ^ o + v % 2 ^ n * 2 ^ o)).toNat =
      old / 2 ^ (o + n) * 2 ^ (o + n) + v % 2 ^ n * 2 ^ o + old % 2 ^ o := by
  have hA : 0 < 2 ^ o := Nat.two_pow_pos o
  have hB : 0 < 2 ^ n := Nat.two_pow_pos n
  have hP : 2 ^ (o + n) = 2 ^ o * 2 ^ n := Nat.pow_add 2 o n
  have hdiv : old / 2 ^ (o + n) = old / 2 ^ o / 2 ^ n := by rw [hP, Nat.div_div_eq_div_mul]
  have hold : old = old / 2 ^ (o + n) * 2 ^ (o + n) + old / 2 ^ o % 2 ^ n * 2 ^ o + old % 2 ^ o := by
    have h1 := Nat.div_add_mod old (2 ^ o)
    have h2 := Nat.div_add_mod (old / 2 ^ o) (2 ^ n)
    rw [hdiv, hP]
    calc old = 2 ^ o * (old / 2 ^ o) + old % 2 ^ o := h1.symm
      _ = 2 ^ o * (2 ^ n * (old / 2 ^ o / 2 ^ n) + old / 2 ^ o % 2 ^ n) + old % 2 ^ o := by rw [h2]
      _ = _ := by ring
  have hK : 2 ^ (8 - (o + n)) * 2 ^ (o + n) = 256 := by
    rw [← Nat.pow_add, Nat.sub_add_cancel hon]
  have hhi : old / 2 ^ (o + n) < 2 ^ (8 - (o + n)) := by
    rw [Nat.div_lt_iff_lt_mul (Nat.two_pow_pos _), hK]
    exact h
  have hmid : v % 2 ^ n * 2 ^ o + 2 ^ o ≤ 2 ^ (o + n) := by
    have := Nat.mul_le_mul_right (2 ^ o) (Nat.succ_le_of_lt (Nat.mod_lt v hB))
    rw [hP, Nat.mul_comm (2 ^ o) (2 ^ n)]
    calc v % 2 ^ n * 2 ^ o + 2 ^ o = (v % 2 ^ n).succ * 2 ^ o := (Nat.succ_mul _ _).symm
      _ ≤ _ := this
  have hlo : old % 2 ^ o < 2 ^ o := Nat.mod_lt old hA
  have htop : old / 2 ^ (o + n) * 2 ^ (o + n) + 2 ^ (o + n) ≤ 256 := by
    have := Nat.mul_le_mul_right (2 ^ (o + n)) (Nat.succ_le_of_lt hhi)
    rw [hK] at this
    calc _ = (old / 2 ^ (o + n)).succ * 2 ^ (o + n) := (Nat.succ_mul _ _).symm
      _ ≤ _ := this
  rw [BitVec.toNat_ofNat, Nat.mod_eq_of_lt (by omega)]
  omega

theorem Memory.read_writeBits {m : Memory} (h : m.wf) (loc : Nat) {o n : Nat} (v : Nat) (hon : o + n ≤ 8) (x : Nat) :
    (m.writeBits loc o n v).wf ∧ ((m.writeBits loc o n v).read x).toNat =
      if loc = x then (m.read x).toNat / 2 ^ (o + n) * 2 ^ (o + n) + v % 2 ^ n * 2 ^ o + (m.read x).toNat % 2 ^ o
      else (m.read x).toNat := by
  refine ⟨Memory.wf_writeBytes _ h loc, ?_⟩
  unfold Memory.writeBits
  rw [Memory.read_writeBytes _ h]
  split
  · next he =>
    subst he
    rw [← field_replaced v (m.read loc).isLt hon]
    simp [laid]
  · next he => rw [laid, if_neg (by rw [List.length_singleton]; omega)]

/-- What lanes make of a byte one after the other, each in its way. -/
theorem Memory.foldl_read {α : Type} {f : Memory → α → Memory} {g : Nat → α → Nat} {x : Nat} (ls : List α) : ∀ {m : Memory} (_ : m.wf)
    (_ : ∀ m, m.wf → ∀ a ∈ ls, (f m a).wf ∧ ((f m a).read x).toNat = g (m.read x).toNat a),
    ((ls.foldl f m).read x).toNat = ls.foldl g (m.read x).toNat := by
  induction ls with
  | nil => exact fun _ _ => rfl
  | cons a ls ih =>
    intro m h hf
    obtain ⟨hwf, hread⟩ := hf m h a List.mem_cons_self
    rw [List.foldl_cons, List.foldl_cons, ← hread]
    exact ih hwf fun m hm b hb => hf m hm b (List.mem_cons_of_mem _ hb)

/-! ## A unit up to its end -/

/-- A unit that is let through comes to its end with its lanes performed. -/
theorem State.memUnit_served {s s' : State} {j : Job} {release : Bool} {cs : List (Fin 32 × LaneCheck)}
    {val : Fin 32 → List Target → List Word32} {m : Memory} (h : s.Lets j release s' cs) (dests : List Reg) (op : MemOp)
    {poison : Word32} (hp : poison &&& s.warp.active = 0) (acquire : Bool)
    (hrun : ∀ u : State, (∀ g ∈ passed cs, u.Clear g) → u.mem = s.mem → u.poison = s.poison →
      ∃ t, u.runLanes s.warp.agent j s.warp.nextPend cs = (t, doneOf val cs) ∧ u.Acts t m) :
    ∃ t, s.memUnit j dests op poison release acquire =
        t.endUnit j dests { op := op, hints := s.warp.frag.hints } 0 (failures cs) (doneOf val cs) s.warp.nextPend acquire
      ∧ s.Served t ∧ t.partials = s'.partials ∧ t.mem = m := by
  have hchecks : s.Checks s' := by
    have := State.checkLanes_checks s.warp.agent j true (lanesOf s.warp.active) s
    rw [h.checks] at this
    exact this
  have hcharge : s'.Noted (if j.kind.metered then s'.chargeLanes s.warp.ctx s.warp.site ((passed cs).map Target.triple) else s') := by
    split
    · exact s'.chargeLanes_noted _ _ _
    · exact .refl s'
  have hlines := State.noteLines_lined (if j.kind.metered then
    s'.chargeLanes s.warp.ctx s.warp.site ((passed cs).map Target.triple) else s') j (passed cs)
  obtain ⟨hmem, hpoison⟩ := h.owned
  obtain ⟨t, ht, hacts⟩ := hrun (s'.readyFor s.warp j cs)
    (fun g hg => hlines.clear (hcharge.acts.clear (hchecks.clear (h.clear g hg))))
    (by unfold State.readyFor; rw [hlines.rest]; exact hcharge.mem.trans hmem)
    (by unfold State.readyFor; rw [hlines.rest]; exact hcharge.poison.trans hpoison)
  refine ⟨t, ?_, ?_, ?_, hacts.mem⟩
  · rw [State.memUnit_lets h dests op hp acquire, ht]
  · exact ((hchecks.reaches.trans hcharge.reaches).served.trans hlines.served).trans hacts.reaches.served
  · rw [hacts.partials]
    unfold State.readyFor
    rw [hlines.rest]
    exact hcharge.partials

/-! ## The end of a unit none of whose lanes fails -/

section
variable {s t : State}

theorem State.Served.delays (h : s.Served t) : t.delays = s.delays := by rw [h.world]

theorem State.endUnit_done {val : Fin 32 → List Target → List Word32} {cs : List (Fin 32 × LaneCheck)}
    (j : Job) (dests : List Reg) (u : MemUnit) (k : Nat) (acq : Bool) :
    t.endUnit j dests u 0 [] (doneOf val cs) k acq = (t.finish (j.writes (doneOf val cs))).advance := by
  unfold State.endUnit
  dsimp only
  rw [isAway_doneOf, killedLanes_doneOf]
  rfl

/-- The writes of vector registers change those registers alone. -/
theorem Warp.applyAll_vectors (ws : List RegWrite) : ∀ (w : Warp) (_ : ∀ x ∈ ws, ∃ r m v, x = .v r m v),
    w.applyAll ws = { w with
      v := (w.applyAll ws).v, vFull := (w.applyAll ws).vFull, vPoison := (w.applyAll ws).vPoison } := by
  induction ws with
  | nil => exact fun _ _ => rfl
  | cons x ws ih =>
    intro w h
    obtain ⟨r, m, v, rfl⟩ := h _ List.mem_cons_self
    have hrest := ih (w.writeV r m v) fun x hx => h x (List.mem_cons_of_mem _ hx)
    exact hrest

theorem Job.writes_vectors (j : Job) (ds : List (Fin 32 × LaneDone)) : ∀ x ∈ j.writes ds, ∃ r m v, x = .v r m v := by
  intro x hx
  obtain ⟨i, -, rfl⟩ := List.mem_map.1 hx
  exact ⟨_, _, _, rfl⟩

theorem State.Served.accessed (h : s.Served t) (hp : s.Prompt) {ws : List RegWrite} (hv : ∀ x ∈ ws, ∃ r m v, x = .v r m v) :
    Accessed s (t.finish ws).advance (ws.map RegWrite.reg) ∧ (t.finish ws).advance.mem = t.mem
      ∧ (t.finish ws).advance.partials = t.partials ∧ (t.finish ws).advance.warp.v = (t.warp.applyAll ws).v
      ∧ (t.finish ws).advance.warp.vFull = (t.warp.applyAll ws).vFull := by
  have hpt : t.Prompt := by unfold State.Prompt; rw [h.delays]; exact hp
  have hvec := Warp.applyAll_vectors ws t.warp hv
  have hkeep := Warp.applyAll_keeps ws t.warp
  have hflags : ∀ x : BitVec 5, x ||| 0 = x := fun x => BitVec.or_zero
  rw [State.finish_prompt hpt, hflags]
  obtain ⟨hwarp, hothers, hctx, hpoison, hmon, hworld⟩ := h
  refine ⟨⟨?_, ?_, ?_, hothers, hctx, hpoison, hmon, ?_⟩, rfl, rfl, rfl, rfl⟩
  · show Warp.advance { t.warp.applyAll ws with fpflags := t.warp.fpflags } = _
    rw [hvec, hwarp]
    rfl
  · have hs : s.warp.Keeps t.warp [] := by
      rw [hwarp]
      exact ⟨fun _ _ => ⟨rfl, rfl, rfl⟩, fun _ _ => ⟨rfl, rfl, rfl⟩⟩
    have := hs.trans hkeep
    exact ⟨this.scalar, this.vector⟩
  · show s.warp.frag.MovedTo (Warp.advance { t.warp.applyAll ws with fpflags := t.warp.fpflags }).frag s.next
    rw [hvec, hwarp]
    rfl
  · rw [hworld]
    rfl

end

end Sys2Proof.Machine
end

section
/-! Obligation O24: the loads (R144, R145, R149). -/

set_option Elab.async false

namespace Sys2Proof.Machine

/-! ## The lanes of a unit that is let through -/

theorem State.Lets.keys {s s' : State} {j : Job} {release : Bool} {cs : List (Fin 32 × LaneCheck)}
    (h : s.Lets j release s' cs) : cs.map (·.1) = lanesOf s.warp.active := by
  have := State.checkLanes_keys s.warp.agent j true (lanesOf s.warp.active) s
  rw [h.checks] at this
  exact this

theorem nodup_lanesOf (m : Word32) : (lanesOf m).Nodup := (List.nodup_finRange 32).filter _

theorem State.Lets.nodup {s s' : State} {j : Job} {release : Bool} {cs : List (Fin 32 × LaneCheck)}
    (h : s.Lets j release s' cs) : (cs.map (·.1)).Nodup := by
  rw [h.keys]
  exact nodup_lanesOf _

theorem mem_lanesOf {m : Word32} {l : Fin 32} : l ∈ lanesOf m ↔ inMask m l = true :=
  ⟨inMask_of_mem_lanesOf, fun h => List.mem_filter.2 ⟨List.mem_finRange l, h⟩⟩

theorem State.Lets.sizes {s s' : State} {j : Job} {release : Bool} {cs : List (Fin 32 × LaneCheck)}
    (h : s.Lets j release s' cs) {l : Fin 32} {ts : List Target} (hl : (l, .ok ts) ∈ cs) :
    ts.map (·.n) = (j.accesses l).map (·.2) := by
  have hc := congrArg Prod.snd h.checks
  dsimp only at hc
  rw [← hc] at hl
  exact State.checkLanes_sizes _ hl

/-- A unit that is no release is let through where one that is would be. -/
theorem State.Lets.unreleased {s s' : State} {j : Job} {release : Bool} {cs : List (Fin 32 × LaneCheck)}
    (h : s.Lets j release s' cs) : s.Lets j false s' cs :=
  ⟨h.log, h.acquire, fun hf => absurd hf Bool.false_ne_true, h.checks, h.near, h.tokens, h.pages, h.partials, h.owned⟩

/-! ## Groups of registers -/

theorem group_nodup (t : Fin 64) {n : Nat} (h : n ≤ 64) : (group t n).Nodup := by
  refine List.Nodup.map_on (fun i hi k hk he => ?_) List.nodup_range
  have hval := congrArg Fin.val (Reg.v.inj he)
  simp only [regAt, Fin.ofNat, List.mem_range] at hval hi hk
  omega

theorem groupSize_le (sz : Nat) : groupSize sz ≤ 4 := by
  unfold groupSize sizeBytes
  split
  · decide
  · split
    · next h => interval_cases sz <;> decide
    · decide

/-- The registers that a load writes are its group. -/
theorem Job.writes_regs {j : Job} {sz : Nat} {t : Fin 64} (hk : j.kind = .load sz) (hb : j.base = t.val)
    (ds : List (Fin 32 × LaneDone)) : (j.writes ds).map RegWrite.reg = group t (groupSize sz) := by
  unfold Job.writes Job.width
  rw [hk, hb, List.map_map]
  rfl

/-- A unit that loads, none of whose lanes fails: the group holds what is read, and no byte has changed. -/
theorem State.memUnit_load {s s' : State} {j : Job} {release : Bool} {cs : List (Fin 32 × LaneCheck)} {sz : Nat} {t : Fin 64}
    (hk : j.kind = .load sz) (hb : j.base = t.val) (h : s.Lets j release s' cs) (hprompt : s.Prompt) (hf : failures cs = [])
    (hmem : ∀ g ∈ passed cs, s.poisoned g.loc g.n = false) (dests : List Reg) (op : MemOp) {poison : Word32}
    (hp : poison &&& s.warp.active = 0) (acquire : Bool) :
    ∃ r, s.memUnit j dests op poison release acquire = r ∧ Accessed s r (group t (groupSize sz)) ∧ r.mem = s.mem
      ∧ ∀ k < groupSize sz, s.warp.HoldsV r.warp (regAt t k) s.warp.active fun l =>
          (j.loaded l sz ((placesOf cs l).flatMap fun g => s.mem.readBytes g.loc g.n)).getD k 0 := by
  obtain ⟨u, hu, hserved, -, hm⟩ := State.memUnit_served h dests op hp acquire
    (val := fun l ts => j.loaded l sz (ts.flatMap fun g => s.mem.readBytes g.loc g.n)) (m := s.mem)
    fun u hc he hpo => by
      obtain ⟨t, ht, hacts⟩ := State.runLanes_load (a := s.warp.agent) hk s.warp.nextPend hc
        fun g hg => by unfold State.poisoned; rw [hpo]; exact hmem g hg
      rw [he] at ht hacts
      exact ⟨t, ht, hacts⟩
  rw [hf, State.endUnit_done] at hu
  set ds := doneOf (fun l ts => j.loaded l sz (ts.flatMap fun g => s.mem.readBytes g.loc g.n)) cs with hds
  obtain ⟨hacc, hrm, -, hv, hfull⟩ := hserved.accessed hprompt (j.writes_vectors ds)
  rw [Job.writes_regs hk hb] at hacc
  refine ⟨_, hu, hacc, hrm.trans hm, fun k hkn => ?_⟩
  have hw : RegWrite.v (regAt t k) (doneLanes ds) (lanes32 (doneVal ds k)) ∈ j.writes ds := by
    refine List.mem_map.2 ⟨k, List.mem_range.2 ?_, ?_⟩
    · unfold Job.width
      rw [hk]
      exact hkn
    · rw [hb]
      rfl
  have hnodup : ((j.writes ds).map RegWrite.reg).Nodup := by
    rw [Job.writes_regs hk hb]
    exact group_nodup t ((groupSize_le sz).trans (by decide))
  obtain ⟨hval, hfl⟩ := Warp.applyAll_holds (j.writes ds) u.warp hnodup _ _ _ hw
  refine ⟨fun l => ?_, ?_⟩
  · have hdone : inMask (doneLanes ds) l = inMask s.warp.active l := by
      rw [Bool.eq_iff_iff, inMask_doneLanes, ← mem_lanesOf, ← h.keys]
      exact ⟨fun ⟨ts, hts⟩ => List.mem_map.2 ⟨_, hts, rfl⟩, exists_ok_of_failures hf⟩
    rw [hv, hval l, hdone]
    split
    · next hl =>
      rw [← mem_lanesOf, ← h.keys] at hl
      obtain ⟨ts, hts⟩ := exists_ok_of_failures hf hl
      rw [placesOf_ok h.nodup hts, lanes32]
      simp only [Fin.getElem_fin, Vector.getElem_ofFn]
      exact doneVal_doneOf h.nodup hts k
    · rw [hserved.warp]
  · show (u.finish (j.writes ds)).advance.warp.vFull[regAt t k] = true
    rw [hfull]
    exact hfl

/-! ## Units that issue -/

theorem accessUnit_ready {s : State} {n : Need} (h : s.Ready n) (j : Warp → Hints → Job) (vs : List Reg) (op : MemOp)
    (rel acq : Bool) : accessUnit n j vs op rel acq s = .next (s.memUnit (j s.warp s.warp.frag.hints) n.dests op
      (s.warp.poisonIn vs) (rel || s.warp.frag.hints.releasesOrder) (acq || s.warp.frag.hints.acquiresOrder)) :=
  State.issue_ready h _

/-- The loads are units of accesses, with a job of format M. -/
theorem loadsOf_exec {t a b : Fin 64} {z : Fin 8} {p : Fin 4} {x : Bool} : ∀ u ∈ loadsOf t a b z p x,
    ∃ nt op acq, u.need.dests = group t (groupSize z.val) ∧ u.job = mJob false nt t a b z p
      ∧ ∀ s, exec u.i s = accessUnit u.need u.job u.vs op u.rel acq s := by
  simp only [loadsOf, List.forall_mem_cons]
  exact ⟨⟨false, .move false false t a b z p, false, rfl, rfl, fun _ => rfl⟩,
    ⟨true, .move false true t a b z p, false, rfl, rfl, fun _ => rfl⟩,
    ⟨false, .move false false t a b z p, true, rfl, rfl, fun _ => rfl⟩, fun _ h => absurd h List.not_mem_nil⟩

theorem getD_wordsOf {n v k : Nat} (h : k < max 1 (n / 4)) : (wordsOf n v).getD k 0 = BitVec.ofNat 32 (v / 2 ^ (32 * k)) := by
  unfold wordsOf
  rw [List.getD_eq_getElem _ _ (by simpa using h)]
  simp

theorem Job.getD_loaded (j : Job) (l : Fin 32) {sz k : Nat} (h : k < groupSize sz) (bs : List Byte) :
    (j.loaded l sz bs).getD k 0 =
      if subBits sz = 0 then BitVec.ofNat 32 (bytesToNat bs / 2 ^ (32 * k))
      else BitVec.ofNat 32 (bytesToNat bs / 2 ^ (j.bits[l]).toNat % 2 ^ subBits sz) := by
  unfold Job.loaded
  by_cases hs : subBits sz = 0
  · rw [if_neg (not_not.2 hs), if_pos hs]
    exact getD_wordsOf h
  · have hsz : sz = 5 ∨ sz = 6 := by
      by_contra hno
      rw [not_or] at hno
      exact hs (by unfold subBits; rw [if_neg hno.1, if_neg hno.2])
    have hone : groupSize sz = 1 := by rcases hsz with rfl | rfl <;> decide
    have hk : k = 0 := by omega
    rw [if_pos hs, if_neg hs, hk]
    rfl

/-! ## Bytes of several places -/

theorem Memory.length_readBytes (m : Memory) (n : Nat) : ∀ a, (m.readBytes a n).length = n := by
  induction n with
  | zero => exact fun _ => rfl
  | succ n ih => exact fun a => congrArg (· + 1) (ih _)

theorem bytesToNat_drop (bs : List Byte) : ∀ k, bytesToNat (bs.drop k) = bytesToNat bs / 256 ^ k := by
  induction bs with
  | nil => intro k; simp [bytesToNat]
  | cons b bs ih =>
    intro k
    have hb : b.toNat < 256 := b.isLt
    cases k with
    | zero => simp
    | succ k =>
      have hdiv : (b.toNat + 256 * bytesToNat bs) / 256 = bytesToNat bs := by omega
      rw [List.drop_succ_cons, ih, bytesToNat, Nat.pow_succ', ← Nat.div_div_eq_div_mul, hdiv]

theorem bytesToNat_take (bs : List Byte) : ∀ k, bytesToNat (bs.take k) = bytesToNat bs % 256 ^ k := by
  induction bs with
  | nil => intro k; simp [bytesToNat]
  | cons b bs ih =>
    intro k
    have hb : b.toNat < 256 := b.isLt
    cases k with
    | zero => simp [bytesToNat, Nat.mod_one]
    | succ k =>
      have hmod : (b.toNat + 256 * bytesToNat bs) % 256 = b.toNat := by omega
      have hdiv : (b.toNat + 256 * bytesToNat bs) / 256 = bytesToNat bs := by omega
      rw [List.take_succ_cons, bytesToNat, bytesToNat, ih, Nat.pow_succ', Nat.mod_mul, hmod, hdiv]

/-- One word of a list of bytes. -/
theorem word_of_bytes (bs : List Byte) (k : Nat) :
    BitVec.ofNat 32 (bytesToNat bs / 2 ^ (32 * k)) = BitVec.ofNat 32 (bytesToNat ((bs.drop (4 * k)).take 4)) := by
  have hpow : (256 : Nat) ^ (4 * k) = 2 ^ (32 * k) := by
    rw [show (256 : Nat) = 2 ^ 8 from rfl, ← Nat.pow_mul]
    congr 1
    omega
  have hword : (256 : Nat) ^ 4 = 2 ^ 32 := by norm_num
  rw [bytesToNat_take, bytesToNat_drop, hpow, hword]
  exact BitVec.eq_of_toNat_eq (by rw [BitVec.toNat_ofNat, BitVec.toNat_ofNat, Nat.mod_mod])

/-! ## Stack accesses that issue (R149) -/

theorem State.immediate_toInt (s : State) (i : BitVec 10) : (s.immediate i).toInt = (s.warp.frag.hints.imm i).toInt := by
  have himm : s.immediate i = word64 (s.warp.frag.hints.imm i).toInt := (Hints.imm_eq _ i).symm
  have h1 : (s.warp.frag.hints.imm i).toInt < 2 ^ 31 := BitVec.toInt_lt
  have h2 : -2 ^ 31 ≤ (s.warp.frag.hints.imm i).toInt := BitVec.le_toInt _
  rw [himm, word64, BitVec.toInt_ofInt, Int.bmod]
  split <;> omega

/-- What an access of the stack is: of 1, 2 or 4 words a lane, and by R149's rule. -/
structure StackAccess (s : State) (st : Bool) (t : Fin 64) (i : BitVec 10) (x : Bool) (e : Access × Nat) : Prop where
  words : e.2 = 1 ∨ e.2 = 2 ∨ e.2 = 4
  job : e.1.job = stackJob st t e.2 i
  rel : e.1.rel = false
  vs : e.1.vs = if st then group t e.2 else []
  need : e.1.need = { himm := true, legal := stackLegal s e.2 t i, dests := if st then [] else group t e.2
                      srcs := (.s 62, x) :: (if st then group t e.2 else []).map fun q => (q, x) }
  exec : ∃ op, exec e.1.i s = stackUnit st e.2 op t i x s

theorem stackLoads_access (s : State) (t : Fin 64) (i : BitVec 10) (x : Bool) :
    ∀ e ∈ stackLoads s t i x, StackAccess s false t i x e := by
  simp only [stackLoads, List.map_cons, List.map_nil, List.forall_mem_cons]
  exact ⟨⟨.inl rfl, rfl, rfl, rfl, rfl, _, rfl⟩, ⟨.inr (.inl rfl), rfl, rfl, rfl, rfl, _, rfl⟩,
    ⟨.inr (.inr rfl), rfl, rfl, rfl, rfl, _, rfl⟩, fun _ h => absurd h List.not_mem_nil⟩

theorem stackStores_access (s : State) (t : Fin 64) (i : BitVec 10) (x : Bool) :
    ∀ e ∈ stackStores s t i x, StackAccess s true t i x e := by
  simp only [stackStores, List.map_cons, List.map_nil, List.forall_mem_cons]
  exact ⟨⟨.inl rfl, rfl, rfl, rfl, rfl, _, rfl⟩, ⟨.inr (.inl rfl), rfl, rfl, rfl, rfl, _, rfl⟩,
    ⟨.inr (.inr rfl), rfl, rfl, rfl, rfl, _, rfl⟩, fun _ h => absurd h List.not_mem_nil⟩

section
variable {s : State} {st : Bool} {t : Fin 64} {i : BitVec 10} {x : Bool} {e : Access × Nat}

/-- A stack access at its issue: what R149 asks of the stack, then its lanes. -/
theorem StackAccess.issues (h : StackAccess s st t i x e) (hr : s.Ready e.1.need) : ∃ op, Machine.exec e.1.i s = .next (
    match s.warp.stackCheck (s.warp.readS 62) (s.warp.frag.hints.imm i).toInt e.2 with
    | some c => s.trap c
    | none => s.memUnit (stackJob st t e.2 i s.warp s.warp.frag.hints) (if st then [] else group t e.2) op
        (s.warp.poisonIn (if st then group t e.2 else [])) false false) := by
  obtain ⟨op, hop⟩ := h.exec
  rw [h.need] at hr
  refine ⟨op, hop.trans ?_⟩
  unfold stackUnit
  exact State.issue_ready hr _

/-- The words of an access lie in the stack where R149's check finds nothing. -/
theorem stackCheck_inStack {n : Nat} (h : InStack s n i) :
    s.warp.stackCheck (s.warp.readS 62) (s.warp.frag.hints.imm i).toInt n = none := by
  obtain ⟨hal, hlow, htop⟩ := h
  rw [State.immediate_toInt] at hlow htop
  unfold Warp.stackCheck
  rw [if_neg (not_not.2 hal), if_neg (by omega)]

/-- A lane of a stack access takes 4 bytes for each word. -/
theorem stackJob_sizes (st : Bool) (t : Fin 64) {n : Nat} (hn : n = 1 ∨ n = 2 ∨ n = 4) (i : BitVec 10) (w : Warp) (h : Hints)
    (l : Fin 32) : ((stackJob st t n i w h).accesses l).map (·.2) = List.replicate n 4 := by
  have hb : (stackJob st t n i w h).kind.bytes / 4 = n := by rw [stackJob_bytes st t hn]; omega
  rw [Job.accesses_stack rfl, hb, List.map_map]
  simp [Function.comp_def]

end

/-- The format M job takes one access of its size for a lane. -/
theorem mJob_sizes (st nt : Bool) (t a b : Fin 64) (z : Fin 8) (p : Fin 4) (w : Warp) (h : Hints) (l : Fin 32) :
    ((mJob st nt t a b z p w h).accesses l).map (·.2) = [sizeBytes z.val] := by
  cases st <;> rfl

theorem size_of_map {ts : List Target} {n k : Nat} (h : ts.map (·.n) = List.replicate k n) : ∀ g ∈ ts, g.n = n := by
  intro g hg
  have := List.mem_map_of_mem (f := Target.n) hg
  rw [h] at this
  exact List.eq_of_mem_replicate this

/-- What is read at places of one size. -/
theorem readBytes_places {ts : List Target} {n : Nat} (h : ∀ g ∈ ts, g.n = n) (m : Memory) :
    (ts.flatMap fun g => m.readBytes g.loc g.n) = ts.flatMap fun g => m.readBytes g.loc n :=
  List.flatMap_congr fun g hg => by rw [h g hg]

/-- The places of a lane of a unit that is let through, where no lane fails. -/
theorem State.Lets.places {s s' : State} {j : Job} {release : Bool} {cs : List (Fin 32 × LaneCheck)} (h : s.Lets j release s' cs)
    (hf : failures cs = []) {l : Fin 32} (hl : inMask s.warp.active l = true) :
    (placesOf cs l).map (·.n) = (j.accesses l).map (·.2) := by
  rw [← mem_lanesOf, ← h.keys] at hl
  obtain ⟨ts, hts⟩ := exists_ok_of_failures hf hl
  rw [placesOf_ok h.nodup hts]
  exact h.sizes hts

/-- A register's new value may be said otherwise in the lanes that are written. -/
theorem Warp.HoldsV.of_eq {w u : Warp} {r : Fin 64} {m : Word32} {f g : Fin 32 → Word32} (h : w.HoldsV u r m f)
    (hfg : ∀ l, inMask m l = true → f l = g l) : w.HoldsV u r m g := by
  refine ⟨fun l => (h.value l).trans ?_, h.full⟩
  split
  · next hl => exact hfg l hl
  · rfl

/-- The size code of a stack access of some words (R149). -/
def stackSize (n : Nat) : Nat := if n = 1 then 2 else if n = 2 then 3 else 4

theorem groupSize_stackSize {n : Nat} (h : n = 1 ∨ n = 2 ∨ n = 4) : groupSize (stackSize n) = n := by
  rcases h with rfl | rfl | rfl <;> rfl

/-- Settles O24: the loads of format M, then the ones of the stack. -/
theorem loads : Obligations.Loads := by
  unfold Obligations.Loads
  refine ⟨fun t a b z p x u hu s s' cs hruns hf hmem => ?_, fun s s' t i x e he cs hruns hf hin hmem => ?_⟩
  · intro bytes
    obtain ⟨nt, op, acq, hdests, hjob, hexec⟩ := loadsOf_exec u hu
    obtain ⟨hprompt, hready, hpoison, hlets⟩ := hruns
    have hj : u.job s.warp s.warp.frag.hints = mJob false nt t a b z p s.warp s.warp.frag.hints := by rw [hjob]
    obtain ⟨r, hr, hacc, hrm, hv⟩ := State.memUnit_load (sz := z.val) (t := t) (by rw [hj]; rfl) (by rw [hj]; rfl) hlets hprompt hf
      hmem u.need.dests op hpoison (acq || s.warp.frag.hints.acquiresOrder)
    refine ⟨r, (hexec s).trans ((accessUnit_ready hready _ _ _ _ _).trans (congrArg Host.Outcome.next hr)), ?_, fun x => by rw [hrm],
      fun k hk => (hv k hk).of_eq fun l hl => ?_⟩
    · rw [hdests]
      exact hacc
    · have hsize : ∀ g ∈ placesOf cs l, g.n = sizeBytes z.val := by
        have := hlets.places hf hl
        rw [hj, mJob_sizes] at this
        exact size_of_map (k := 1) this
      rw [readBytes_places hsize, Job.getD_loaded _ _ hk]
  · obtain ⟨hwords, hjob, hrel, hvs, hneed, -⟩ := stackLoads_access s t i x e he
    obtain ⟨op, hexec⟩ := (stackLoads_access s t i x e he).issues hruns.2.1
    obtain ⟨hprompt, -, hpoison, hlets⟩ := hruns
    rw [hvs] at hpoison
    rw [hjob, hrel] at hlets
    obtain ⟨r, hr, hacc, hrm, hv⟩ := State.memUnit_load (sz := stackSize e.2) (t := t) rfl rfl hlets.unreleased hprompt hf hmem
      (group t e.2) op hpoison false
    have hgroup := groupSize_stackSize hwords
    rw [hgroup] at hacc hv
    refine ⟨r, ?_, ?_, fun x => by rw [hrm], fun k hk => (hv k hk).of_eq fun l hl => ?_⟩
    · rw [hexec, stackCheck_inStack hin]
      exact congrArg Host.Outcome.next hr
    · rw [hneed]
      exact hacc
    · have hn : (placesOf cs l).map (·.n) = List.replicate e.2 4 := by
        rw [hlets.places hf hl, stackJob_sizes _ _ hwords]
      have hsub : subBits (stackSize e.2) = 0 := by rcases hwords with h | h | h <;> rw [h] <;> rfl
      have hlen : k < (placesOf cs l).length := by
        have := congrArg List.length hn
        rw [List.length_map, List.length_replicate] at this
        omega
      have hplace : (placesOf cs l)[k]? = some (placesOf cs l)[k] := List.getElem?_eq_getElem hlen
      rw [readBytes_places (size_of_map hn), Job.getD_loaded _ _ (by rw [hgroup]; exact hk), if_pos hsub, word_of_bytes,
        take_drop_flatMap (fun _ => Memory.length_readBytes _ _ _) _ hplace, hplace]
      exact BitVec.eq_of_toNat_eq rfl

end Sys2Proof.Machine
end

section
/-! Obligation O25: the stores, ZERO and the cache instructions (R144, R147, R149, R151). -/

set_option Elab.async false

namespace Sys2Proof.Machine

/-! ## Bytes of a number -/

theorem natToBytes_add (a b : Nat) : ∀ v, natToBytes (a + b) v = natToBytes a v ++ natToBytes b (v / 256 ^ a) := by
  induction a with
  | zero => intro v; simp [natToBytes]
  | succ a ih =>
    intro v
    rw [Nat.succ_add, natToBytes, natToBytes, ih, List.cons_append, Nat.pow_succ', Nat.div_div_eq_div_mul]

theorem take_natToBytes {n m : Nat} (h : n ≤ m) (v : Nat) : (natToBytes m v).take n = natToBytes n v := by
  obtain ⟨k, rfl⟩ := Nat.exists_eq_add_of_le h
  rw [natToBytes_add]
  exact List.take_left' (length_natToBytes n v)

/-- A number as bytes, word by word. -/
theorem natToBytes_words (n v : Nat) :
    (List.range n).flatMap (fun k => natToBytes 4 (v / 2 ^ (32 * k))) = natToBytes (4 * n) v := by
  induction n with
  | zero => rfl
  | succ n ih =>
    have hpow : (256 : Nat) ^ (4 * n) = 2 ^ (32 * n) := by
      rw [show (256 : Nat) = 2 ^ 8 from rfl, ← Nat.pow_mul]
      congr 1
      omega
    rw [List.range_succ, List.flatMap_append, ih, Nat.mul_succ, natToBytes_add, hpow]
    simp

/-- A number made of digits below a base has these digits. -/
theorem sum_digits (B n : Nat) : ∀ f : Nat → Nat, (∀ k, f k < B) →
    ((List.range n).map fun k => f k * B ^ k).sum < B ^ n
      ∧ ∀ k < n, ((List.range n).map fun k => f k * B ^ k).sum / B ^ k % B = f k := by
  induction n with
  | zero => exact fun f _ => ⟨by simp, fun k hk => absurd hk (Nat.not_lt_zero k)⟩
  | succ n ih =>
    intro f hf
    obtain ⟨hlt, hdigit⟩ := ih (fun k => f (k + 1)) fun k => hf (k + 1)
    have hB : 0 < B := Nat.zero_lt_of_lt (hf 0)
    have hsum : ((List.range (n + 1)).map fun k => f k * B ^ k).sum =
        f 0 + B * ((List.range n).map fun k => f (k + 1) * B ^ k).sum := by
      rw [List.range_succ_eq_map, List.map_cons, List.sum_cons, List.map_map, ← List.sum_map_mul_left]
      simp only [Nat.pow_zero, Nat.mul_one, Function.comp_def, Nat.pow_succ]
      congr 3
      funext k
      ring
    rw [hsum]
    set S := ((List.range n).map fun k => f (k + 1) * B ^ k).sum
    refine ⟨?_, fun k hk => ?_⟩
    · calc f 0 + B * S < B + B * S := Nat.add_lt_add_right (hf 0) _
        _ = B * (S + 1) := by ring
        _ ≤ B * B ^ n := Nat.mul_le_mul_left B hlt
        _ = B ^ (n + 1) := (Nat.pow_succ').symm
    · have hdiv : (f 0 + B * S) / B = S := by
        rw [Nat.add_mul_div_left _ _ hB, Nat.div_eq_of_lt (hf 0), Nat.zero_add]
      cases k with
      | zero => rw [Nat.pow_zero, Nat.div_one, Nat.add_mul_mod_self_left, Nat.mod_eq_of_lt (hf 0)]
      | succ k =>
        rw [Nat.pow_succ', ← Nat.div_div_eq_div_mul, hdiv]
        exact hdigit k (Nat.lt_of_succ_lt_succ hk)

/-- The words of a lane's data. -/
theorem Warp.groupData_word (w : Warp) (t : Fin 64) {n k : Nat} (hn : n ≤ 4) (hk : k < n) (l : Fin 32) :
    (w.groupData t n l).toNat / 2 ^ (32 * k) % 2 ^ 32 = (w.v[regAt t k][l]).toNat := by
  obtain ⟨hlt, hdigit⟩ := sum_digits (2 ^ 32) n (fun k => (w.v[regAt t k][l]).toNat) fun k => (w.v[regAt t k][l]).isLt
  have hle : (2 ^ 32) ^ n ≤ 2 ^ 128 := by
    rw [← Nat.pow_mul]
    exact Nat.pow_le_pow_right (by decide) (by omega)
  unfold Warp.groupData
  simp only [Nat.pow_mul 2 32]
  rw [BitVec.toNat_ofNat, Nat.mod_eq_of_lt (lt_of_lt_of_le hlt hle)]
  exact hdigit k hk

theorem natToBytes_word {v x : Nat} (h : v % 2 ^ 32 = x) : natToBytes 4 v = natToBytes 4 x := by
  rw [← h]
  exact (natToBytes_mod 4 v).symm

/-! ## Units that write -/

theorem State.memUnit_writes {s s' : State} {j : Job} {release : Bool} {cs : List (Fin 32 × LaneCheck)}
    {eff : Fin 32 → List Target → Memory → Memory} (h : s.Lets j release s' cs) (hprompt : s.Prompt) (hf : failures cs = [])
    (hwidth : j.width = 0) (heff : ∀ l m, eff l [] m = m) (dests : List Reg) (op : MemOp) {poison : Word32}
    (hp : poison &&& s.warp.active = 0) (acquire : Bool)
    (hrun : ∀ u : State, (∀ g ∈ passed cs, u.Clear g) → ∃ t,
      u.runLanes s.warp.agent j s.warp.nextPend cs = (t, doneOf (fun _ _ => []) cs) ∧ u.Acts t (actsOf eff u.mem cs)) :
    ∃ r, s.memUnit j dests op poison release acquire = r ∧ Accessed s r [] ∧ r.partials = s'.partials
      ∧ r.mem = (lanesOf s.warp.active).foldl (fun m l => eff l (placesOf cs l) m) s.mem := by
  obtain ⟨u, hu, hserved, hpart, hm⟩ := State.memUnit_served h dests op hp acquire (val := fun _ _ => [])
    (m := actsOf eff s.mem cs) fun u hc he _ => by
      have := hrun u hc
      rw [he] at this
      exact this
  have hwrites : ∀ ds, j.writes ds = [] := fun ds => by
    unfold Job.writes
    rw [hwidth]
    rfl
  rw [hf, State.endUnit_done, hwrites] at hu
  obtain ⟨hacc, hrm, hrp, -, -⟩ := hserved.accessed hprompt (ws := []) fun x hx => absurd hx List.not_mem_nil
  refine ⟨_, hu, hacc, hrp.trans hpart, hrm.trans (hm.trans ?_)⟩
  rw [actsOf_eq h.nodup heff, h.keys]

theorem storesOf_exec {t a b : Fin 64} {z : Fin 8} {p : Fin 4} {x : Bool} : ∀ u ∈ storesOf t a b z p x,
    ∃ nt op, u.need.dests = [] ∧ u.job = mJob true nt t a b z p
      ∧ ∀ s, exec u.i s = accessUnit u.need u.job u.vs op u.rel false s := by
  simp only [storesOf, List.forall_mem_cons]
  exact ⟨⟨false, .move true false t a b z p, rfl, rfl, fun _ => rfl⟩, ⟨true, .move true true t a b z p, rfl, rfl, fun _ => rfl⟩,
    ⟨false, .move true false t a b z p, rfl, rfl, fun _ => rfl⟩, fun _ h => absurd h List.not_mem_nil⟩

/-! ## What stores write -/

/-- The lanes' bytes, each lane's in turn. -/
theorem read_lanes {m m' : Memory} (hm : m.wf) {ls : List (Fin 32)} {ws ws' : Fin 32 → List (Nat × List Byte)}
    (h : m' = ls.foldl (fun m l => m.writeAll (ws l)) m) (hws : ∀ l ∈ ls, ws l = ws' l) (x : Nat) :
    m'.read x = laidAll (ls.flatMap ws') x (m.read x) := by
  rw [h, Memory.foldl_writeAll, (Memory.read_writeAll _ hm).2, List.flatMap_congr hws]

/-- A place of one access. -/
theorem eq_singleton_of_sizes {ts : List Target} {n : Nat} (h : ts.map (·.n) = [n]) : ∃ g, ts = [g] ∧ g.n = n := by
  obtain ⟨g, rfl, hg⟩ := List.map_eq_singleton_iff.1 h
  exact ⟨g, rfl, hg⟩

theorem sizeBytes_pos (sz : Nat) : 0 < sizeBytes sz := by
  unfold sizeBytes
  split
  · decide
  · split
    · exact Nat.two_pow_pos sz
    · decide

/-- The bits of a sub-byte element lie in its byte. -/
theorem mJob_bits_le (st nt : Bool) (t a b : Fin 64) (z : Fin 8) (p : Fin 4) (w : Warp) (h : Hints) (l : Fin 32)
    (hsub : subBits z.val ≠ 0) : ((mJob st nt t a b z p w h).bits[l]).toNat + subBits z.val ≤ 8 := by
  have hz : z.val = 5 ∨ z.val = 6 := by
    by_contra hno
    rw [not_or] at hno
    exact hsub (by unfold subBits; rw [if_neg hno.1, if_neg hno.2])
  have hpos := ((effectiveAddresses.1 st nt t a b z p w h l).2 hz).2
  rcases hz with hz | hz
  · have h4 : subBits z.val = 4 := by rw [hz]; rfl
    rw [if_pos hz] at hpos
    omega
  · have h2 : subBits z.val = 2 := by rw [hz]; rfl
    rw [if_neg (by omega)] at hpos
    omega

/-- The data that a lane of a format M store writes at its place. -/
theorem mJob_stores (s : State) (nt : Bool) (t a b : Fin 64) (z : Fin 8) (p : Fin 4) (l : Fin 32) {ts : List Target}
    (h : ts.map (·.n) = [sizeBytes z.val]) :
    (mJob true nt t a b z p s.warp s.warp.frag.hints).storesAt l 0 ts =
      ts.map fun g => (g.loc, (groupBytes s t (groupSize z.val) l).take (sizeBytes z.val)) := by
  obtain ⟨g, rfl, hg⟩ := eq_singleton_of_sizes h
  have hsize : ∀ z : Fin 8, sizeBytes z.val ≤ 4 * groupSize z.val := by decide
  have hdata : (mJob true nt t a b z p s.warp s.warp.frag.hints).data[l] = s.warp.groupData t (groupSize z.val) l := by
    simp [mJob]
  have hbytes : groupBytes s t (groupSize z.val) l =
      natToBytes (4 * groupSize z.val) (s.warp.groupData t (groupSize z.val) l).toNat := by
    rw [← natToBytes_words]
    refine List.flatMap_congr fun k hk => (natToBytes_word ?_).symm
    exact s.warp.groupData_word t (groupSize_le _) (List.mem_range.1 hk) l
  rw [hbytes, take_natToBytes (hsize z)]
  simp only [Job.storesAt, List.zipIdx_cons, List.zipIdx_nil, List.map_cons, List.map_nil, Job.stored, hg, hdata, Nat.mul_zero,
    Nat.pow_zero, Nat.div_one]

/-- The data that a lane of a stack store writes at its places. -/
theorem stackJob_stores (s : State) (t : Fin 64) {n : Nat} (hn : n = 1 ∨ n = 2 ∨ n = 4) (i : BitVec 10) (l : Fin 32)
    {ts : List Target} (h : ts.map (·.n) = List.replicate n 4) :
    (stackJob true t n i s.warp s.warp.frag.hints).storesAt l 0 ts =
      ts.zipIdx.map fun g => (g.1.loc, natToBytes 4 (s.elem t g.2 l).toNat) := by
  have hlen : ts.length = n := by
    have := congrArg List.length h
    rwa [List.length_map, List.length_replicate] at this
  have hdata : (stackJob true t n i s.warp s.warp.frag.hints).data[l] = s.warp.groupData t n l := by simp [stackJob]
  refine List.map_congr_left fun g hg => ?_
  have hmem : g.1 ∈ ts := List.fst_mem_of_mem_zipIdx hg
  have hlt : g.2 < n := by
    have := List.snd_lt_of_mem_zipIdx hg
    omega
  rw [Job.stored, hdata, size_of_map h g.1 hmem,
    natToBytes_word (s.warp.groupData_word t (by omega) hlt l)]
  rfl

/-! ## What the cache operations take -/

theorem lineJob_sizes {k : JobKind} (hk : k = .zero ∨ k = .touch) (a b : Fin 64) (p : Nat) (w : Warp) (h : Hints) (l : Fin 32) :
    ((lineJob k a b p w h).accesses l).map (·.2) = [128] := by
  rcases hk with rfl | rfl <;> rfl

/-- A unit that touches lines alone. -/
theorem State.memUnit_touch {s s' : State} {j : Job} {release : Bool} {cs : List (Fin 32 × LaneCheck)} (hk : j.kind = .touch)
    (h : s.Lets j release s' cs) (hprompt : s.Prompt) (hf : failures cs = []) (dests : List Reg) (op : MemOp) {poison : Word32}
    (hp : poison &&& s.warp.active = 0) (acquire : Bool) :
    ∃ r, s.memUnit j dests op poison release acquire = r ∧ Accessed s r [] ∧ r.partials = s'.partials ∧ r.mem = s.mem := by
  obtain ⟨r, hr, hacc, hpart, hm⟩ := State.memUnit_writes (eff := fun _ _ m => m) h hprompt hf (by unfold Job.width; rw [hk])
    (fun _ _ => rfl) dests op hp acquire fun u hc => State.runLanes_touch hk _ hc
  refine ⟨r, hr, hacc, hpart, hm.trans ?_⟩
  exact List.foldl_fixed' (fun _ => rfl) _

/-- The bits that a lane of a sub-byte store writes. -/
theorem mJob_data_bits (s : State) (nt : Bool) (t a b : Fin 64) (z : Fin 8) (p : Fin 4) (hsub : subBits z.val ≠ 0) (l : Fin 32) :
    ((mJob true nt t a b z p s.warp s.warp.frag.hints).data[l]).toNat % 2 ^ subBits z.val =
      (s.elem t 0 l).toNat % 2 ^ subBits z.val := by
  have hsize : ∀ z : Fin 8, subBits z.val ≠ 0 → groupSize z.val = 1 ∧ subBits z.val ≤ 32 := by decide
  obtain ⟨hone, hle⟩ := hsize z hsub
  have hdata : (mJob true nt t a b z p s.warp s.warp.frag.hints).data[l] = s.warp.groupData t (groupSize z.val) l := by
    simp [mJob]
  have hword := s.warp.groupData_word t (groupSize_le z.val) (k := 0) (by omega) l
  rw [Nat.mul_zero, Nat.pow_zero, Nat.div_one] at hword
  rw [hdata, State.elem, ← hword, Nat.mod_mod_of_dvd _ (Nat.pow_dvd_pow 2 hle)]

/-- PREF issues. -/
theorem pref_ready {s s' : State} {a b : Fin 64} {x : Bool} {cs : List (Fin 32 × LaneCheck)} (h : s.Ready (lineNeed a b x))
    (hp : s.warp.poisonIn [.v a] &&& s.warp.active = 0)
    (hlog : s.warp.logHolds ((lineJob .touch a b 0 s.warp s.warp.frag.hints).pages s.warp.active) = false)
    (hc : s.checkLanes s.warp.agent (lineJob .touch a b 0 s.warp s.warp.frag.hints) false (lanesOf s.warp.active) = (s', cs)) :
    exec (.pref a b x) s =
      .next ((passed cs).foldl (fun s' t => s'.noteReadBy s.warp.agent t.kind t.loc) s').advance := by
  have hlanes : s.warp.active &&& ~~~(0 : Word32) = s.warp.active := BitVec.and_allOnes
  show execPref a b x s = _
  unfold execPref
  refine (State.issue_ready h _).trans (congrArg Host.Outcome.next ?_)
  dsimp only
  rw [hp, hlanes, hlog, hc]
  rfl

/-- Settles O25: the stores of format M, the ones of the stack and ZERO, then INVL, WBK and PREF. -/
theorem stores : Obligations.Stores := by
  unfold Obligations.Stores
  refine ⟨⟨?_, ?_, ?_⟩, ?_⟩
  · intro t a b z p x u hu s s' cs hruns hf hm
    obtain ⟨nt, op, hdests, hjob, hexec⟩ := storesOf_exec u hu
    obtain ⟨hprompt, hready, hpoison, hlets⟩ := hruns
    have hj : u.job s.warp s.warp.frag.hints = mJob true nt t a b z p s.warp s.warp.frag.hints := by rw [hjob]
    rw [hj] at hlets
    have hsizes : ∀ l ∈ lanesOf s.warp.active, (placesOf cs l).map (·.n) = [sizeBytes z.val] := fun l hl => by
      rw [hlets.places hf (mem_lanesOf.1 hl), mJob_sizes]
    have hgo := fun {r} (hr : s.memUnit (mJob true nt t a b z p s.warp s.warp.frag.hints) u.need.dests op (s.warp.poisonIn u.vs)
        (u.rel || s.warp.frag.hints.releasesOrder) (false || s.warp.frag.hints.acquiresOrder) = r) =>
      (hexec s).trans ((accessUnit_ready hready _ _ _ _ _).trans (congrArg Host.Outcome.next (hj ▸ hr)))
    by_cases hsub : subBits z.val = 0
    · obtain ⟨r, hr, hacc, hpart, hrm⟩ := State.memUnit_writes (eff := fun l ts m => m.writeAll
        ((mJob true nt t a b z p s.warp s.warp.frag.hints).storesAt l 0 ts)) hlets hprompt hf rfl (fun _ _ => rfl) u.need.dests op
        hpoison (false || s.warp.frag.hints.acquiresOrder) fun u hc => State.runLanes_store rfl hsub _ hc
      exact ⟨r, hgo hr, hacc, hpart, fun _ => read_lanes hm hrm fun l hl => mJob_stores s nt t a b z p l (hsizes l hl),
        fun h => absurd hsub h⟩
    · have hone : ∀ l ts, (l, Except.ok ts) ∈ cs → ∃ g, ts = [g] ∧ 0 < g.n := fun l ts hl => by
        obtain ⟨g, hts, hg⟩ := eq_singleton_of_sizes ((hlets.sizes hl).trans (mJob_sizes _ _ _ _ _ _ _ _ _ _))
        exact ⟨g, hts, by rw [hg]; exact sizeBytes_pos _⟩
      obtain ⟨r, hr, hacc, hpart, hrm⟩ := State.memUnit_writes (eff := fun l ts m => ts.foldl (fun m g => m.writeBits g.loc
        ((mJob true nt t a b z p s.warp s.warp.frag.hints).bits[l]).toNat (subBits z.val)
        (((mJob true nt t a b z p s.warp s.warp.frag.hints).data[l]).toNat % 2 ^ subBits z.val)) m) hlets hprompt hf rfl
        (fun _ _ => rfl) u.need.dests op hpoison (false || s.warp.frag.hints.acquiresOrder)
        fun u hc => State.runLanes_storeBits rfl hsub _ hc hone
      refine ⟨r, hgo hr, hacc, hpart, fun h => absurd h hsub, fun _ x => ?_⟩
      rw [hrm]
      refine Memory.foldl_read _ hm fun m hm l hl => ?_
      obtain ⟨g, hts, -⟩ := eq_singleton_of_sizes (hsizes l hl)
      obtain ⟨hwf, hread⟩ := Memory.read_writeBits hm g.loc
        (((mJob true nt t a b z p s.warp s.warp.frag.hints).data[l]).toNat % 2 ^ subBits z.val)
        (mJob_bits_le true nt t a b z p s.warp s.warp.frag.hints l hsub) x
      rw [Nat.mod_mod] at hread
      rw [hts]
      refine ⟨hwf, hread.trans ?_⟩
      rw [mJob_data_bits s nt t a b z p hsub]
      simp only [List.any_cons, List.any_nil, Bool.or_false, beq_iff_eq, hj]
  · intro s s' t i x e he cs hruns hf hin hm
    obtain ⟨hwords, hjob, hrel, hvs, hneed, -⟩ := stackStores_access s t i x e he
    obtain ⟨op, hexec⟩ := (stackStores_access s t i x e he).issues hruns.2.1
    obtain ⟨hprompt, -, hpoison, hlets⟩ := hruns
    rw [hvs] at hpoison
    rw [hjob, hrel] at hlets
    have hsub : subBits (stackSize e.2) = 0 := by rcases hwords with h | h | h <;> rw [h] <;> rfl
    obtain ⟨r, hr, hacc, hpart, hrm⟩ := State.memUnit_writes (eff := fun l ts m => m.writeAll
      ((stackJob true t e.2 i s.warp s.warp.frag.hints).storesAt l 0 ts)) hlets.unreleased hprompt hf rfl (fun _ _ => rfl) [] op
      hpoison false fun u hc => State.runLanes_store (sz := stackSize e.2) rfl hsub _ hc
    refine ⟨r, ?_, hacc, hpart, fun _ => read_lanes hm hrm (fun l hl => stackJob_stores s t hwords i l ?_) _⟩
    · rw [hexec, stackCheck_inStack hin]
      exact congrArg Host.Outcome.next hr
    · rw [hlets.places hf (mem_lanesOf.1 hl), stackJob_sizes _ _ hwords]
  · intro s s' a b p x cs u hruns hf hm
    obtain ⟨hprompt, hready, hpoison, hlets⟩ := hruns
    obtain ⟨r, hr, hacc, hpart, hrm⟩ := State.memUnit_writes
      (eff := fun _ ts m => m.writeAll (ts.map fun g => (g.loc, List.replicate g.n 0))) hlets hprompt hf rfl (fun _ _ => rfl) []
      (.line true a b p) hpoison (false || s.warp.frag.hints.acquiresOrder) fun u hc => State.runLanes_zero rfl _ hc
    refine ⟨r, (accessUnit_ready hready _ _ _ _ _).trans (congrArg Host.Outcome.next hr), hacc, hpart,
      fun _ => read_lanes hm hrm (fun l hl => ?_) _⟩
    have hsize := (hlets.places hf (mem_lanesOf.1 hl)).trans (lineJob_sizes (.inl rfl) _ _ _ _ _ _)
    exact List.map_congr_left fun g hg => by rw [size_of_map (k := 1) hsize g hg]
  · intro s s' a b x cs j u
    refine ⟨fun hruns hf i hi => ?_, fun hready hpoison hlog hchecks => ?_⟩
    · obtain ⟨hprompt, hready, hpoison, hlets⟩ := hruns
      obtain ⟨r, hr, hacc, hpart, hrm⟩ := State.memUnit_touch rfl hlets hprompt hf [] (.line false a b 0) hpoison
        (false || s.warp.frag.hints.acquiresOrder)
      have hunit : accessUnit (lineNeed a b x) (lineJob .touch a b 0) [.v a] (.line false a b 0) false false s = .next r :=
        (accessUnit_ready hready _ _ _ _ _).trans (congrArg Host.Outcome.next hr)
      refine ⟨r, ?_, hacc, hrm, hpart⟩
      simp only [List.mem_cons, List.not_mem_nil, or_false] at hi
      rcases hi with rfl | rfl <;> exact hunit
    · have hchk : s.Checks s' := by
        have := State.checkLanes_checks s.warp.agent (j s.warp s.warp.frag.hints) false (lanesOf s.warp.active) s
        rw [hchecks] at this
        exact this
      have hnote := State.Noted.foldl (fun (s' : State) (g : Target) => s'.noteReadBy_noted s.warp.agent g.kind g.loc)
        (passed cs) s'
      have hall := hchk.reaches.trans hnote.reaches
      refine ⟨_, pref_ready hready hpoison hlog hchecks, hnote.mem, hnote.poison, hnote.partials, ?_⟩
      generalize (passed cs).foldl _ s' = r at hall
      obtain ⟨⟨hctx, hpo, hmon, hworld⟩, hwarp, -⟩ := hall
      have hothers : r.others = s.others := by rw [hworld]
      refine ⟨?_, ?_, hothers, hctx, hpo, hmon, ?_⟩
      · rw [State.advance_warp, hwarp]
        rfl
      · rw [State.advance_warp, hwarp]
        rfl
      · rw [hworld]
        rfl

end Sys2Proof.Machine
end

section
/-! Obligation O28: lanes that fail, reported in one trap or in the operand log (R158, R161, R163). -/

set_option Elab.async false

namespace Sys2Proof.Machine

/-! ## A pending instruction for the lanes that failed (R161) -/

section
variable {w : Warp} {r : Fin 64}

/-- A warp of which only full bits have changed. -/
def Warp.OnlyFull (w u : Warp) : Prop := u = { w with sFull := u.sFull, vFull := u.vFull }

theorem Warp.OnlyFull.trans {a b c : Warp} (h : a.OnlyFull b) (g : b.OnlyFull c) : a.OnlyFull c := by
  unfold Warp.OnlyFull at *
  rw [g, h]

theorem Warp.setEmpty_full (w : Warp) (q : Reg) : w.OnlyFull (w.setEmpty q) := by
  cases q with
  | s r =>
    unfold Warp.setEmpty
    dsimp only
    split <;> rfl
  | v r => rfl
  | m r => rfl
  | t r => rfl

theorem Warp.emptyAll_only (rs : List Reg) : ∀ w : Warp, w.OnlyFull (w.emptyAll rs) := by
  induction rs with
  | nil => exact fun _ => rfl
  | cons q rs ih => exact fun w => (w.setEmpty_full q).trans (ih _)

/-- A vector register that goes empty stays empty while others do. -/
theorem Warp.emptyAll_empty (rs : List Reg) : ∀ w : Warp, (.v r ∈ rs ∨ w.vFull[r] = false) → (w.emptyAll rs).vFull[r] = false := by
  induction rs with
  | nil =>
    intro w h
    rcases h with h | h
    · cases h
    · exact h
  | cons q rs ih =>
    intro w h
    refine ih (w.setEmpty q) ?_
    rcases h with h | h
    · rcases List.mem_cons.1 h with rfl | h
      · right
        simp [Warp.setEmpty]
      · exact .inl h
    · right
      cases q with
      | s q =>
        unfold Warp.setEmpty
        dsimp only
        split <;> exact h
      | v q =>
        simp only [Warp.setEmpty, Fin.getElem_fin, Vector.getElem_set] at h ⊢
        split
        · rfl
        · exact h
      | m q => exact h
      | t q => exact h

theorem Warp.pokeAll_only (ws : List RegWrite) : ∀ w : Warp,
    w.pokeAll ws = { w with v := (w.pokeAll ws).v, vPoison := (w.pokeAll ws).vPoison } := by
  induction ws with
  | nil => exact fun _ => rfl
  | cons x ws ih =>
    intro w
    cases x with
    | s q y => exact ih w
    | v q m y => exact ih (w.pokeV q m y)

/-- A register that no element is written into keeps its elements. -/
theorem Warp.pokeAll_other (ws : List RegWrite) : ∀ (w : Warp) (_ : .v r ∉ ws.map RegWrite.reg), (w.pokeAll ws).v[r] = w.v[r] := by
  induction ws with
  | nil => exact fun _ _ => rfl
  | cons x ws ih =>
    intro w h
    rw [List.map_cons, List.mem_cons, not_or] at h
    cases x with
    | s q y => exact ih w h.2
    | v q m y =>
      refine (ih (w.pokeV q m y) h.2).trans ?_
      have hne : q ≠ r := fun he => h.1 (he ▸ rfl)
      simp only [Warp.pokeV, Fin.getElem_fin]
      rw [Vector.getElem_set_ne _ _ fun he => hne (Fin.ext he)]

/-- Elements written into a register that is named once. -/
theorem Warp.pokeAll_value (ws : List RegWrite) : ∀ (w : Warp) (_ : (ws.map RegWrite.reg).Nodup) {m : Word32} {x : VReg}
    (_ : RegWrite.v r m x ∈ ws) (l : Fin 32), (w.pokeAll ws).v[r][l] = if inMask m l then x[l] else w.v[r][l] := by
  induction ws with
  | nil => exact fun _ _ _ _ h => absurd h List.not_mem_nil
  | cons y ws ih =>
    intro w hn m x h l
    rw [List.map_cons, List.nodup_cons] at hn
    rcases List.mem_cons.1 h with rfl | hmem
    · have hother := Warp.pokeAll_other (r := r) ws (w.pokeV r m x) hn.1
      show ((w.pokeV r m x).pokeAll ws).v[r][l] = _
      rw [hother]
      simp [Warp.pokeV]
    · have hne : y.reg ≠ .v r := fun he => hn.1 (he ▸ List.mem_map.2 ⟨_, hmem, rfl⟩)
      cases y with
      | s q z => exact ih w hn.2 hmem l
      | v q k z =>
        refine (ih (w.pokeV q k z) hn.2 hmem l).trans ?_
        have hqr : q ≠ r := fun he => hne (he ▸ rfl)
        have hsame : (w.pokeV q k z).v[r] = w.v[r] := by
          simp only [Warp.pokeV, Fin.getElem_fin]
          rw [Vector.getElem_set_ne _ _ fun he => hqr (Fin.ext he)]
        rw [hsame]

/-- The warp with the pending instruction of a unit some of whose lanes have failed: what the others read is in its group. -/
def Warp.awaits (w : Warp) (dests : List Reg) (ws : List RegWrite) (u : MemUnit) (acq : Bool) : Warp :=
  (((w.addPend .lanes dests [] 0 false).pokeAll ws).setUnit w.nextPend u).setAcq w.nextPend acq

variable {dests : List Reg} {ws : List RegWrite} {u : MemUnit} {acq : Bool}

theorem Warp.awaits_only : w.awaits dests ws u acq = { w with
    sFull := (w.awaits dests ws u acq).sFull, vFull := (w.awaits dests ws u acq).vFull, v := (w.awaits dests ws u acq).v
    vPoison := (w.awaits dests ws u acq).vPoison, pend := (w.awaits dests ws u acq).pend, nextPend := w.nextPend + 1 } := by
  have hpend : ∀ (z : Warp) (ws : List RegWrite), (z.pokeAll ws).pend = z.pend := fun z ws => by rw [Warp.pokeAll_only]
  unfold Warp.awaits Warp.setAcq Warp.setUnit
  rw [Warp.pokeAll_only]
  unfold Warp.addPend
  dsimp only
  rw [Warp.emptyAll_only]
  rfl

theorem Warp.awaits_v : (w.awaits dests ws u acq).v = ((w.addPend .lanes dests [] 0 false).pokeAll ws).v := rfl

theorem Warp.addPend_v : (w.addPend .lanes dests [] 0 false).v = w.v := by
  unfold Warp.addPend
  dsimp only
  rw [Warp.emptyAll_only]

/-- The destinations stay empty. -/
theorem Warp.awaits_empty (h : .v r ∈ dests) : (w.awaits dests ws u acq).full (.v r) = false := by
  show ((w.addPend .lanes dests [] 0 false).pokeAll ws).vFull[r] = false
  rw [Warp.pokeAll_only]
  exact Warp.emptyAll_empty dests w (.inl h)

/-- The pending instruction of a unit some of whose lanes have failed. -/
def Warp.lanesPending (w : Warp) (dests : List Reg) : Pending :=
  { id := w.nextPend, pc := w.frag.pc, gen := w.traps, mask := w.frag.mask, kind := .lanes, dests := dests, writes := []
    flags := 0, floats := false, killed := 0, killedAt := 0, ready := false, fault := none, faults := [], unit := none
    acq := false, stepped := w.stepping }

/-- A pending instruction of a number notes a unit and whether it is an acquire. -/
def Pending.noted (k : Nat) (u : MemUnit) (acq : Bool) (p : Pending) : Pending :=
  if p.id == k then { p with unit := some u, acq := acq } else p

theorem Pending.noted_same (k : Nat) (u : MemUnit) (acq : Bool) (p : Pending) :
    (p.noted k u acq).id = p.id ∧ (p.noted k u acq).kind = p.kind ∧ (p.noted k u acq).writes = p.writes := by
  unfold Pending.noted
  split <;> exact ⟨rfl, rfl, rfl⟩

theorem Warp.awaits_pend : (w.awaits dests ws u acq).pend =
    (w.pend ++ [w.lanesPending dests]).map (Pending.noted w.nextPend u acq) := by
  have hadd : (w.addPend .lanes dests [] 0 false).pend = w.pend ++ [w.lanesPending dests] := by
    have hfull : w.emptyAll dests = _ := w.emptyAll_only dests
    unfold Warp.addPend
    dsimp only
    rw [hfull]
    rfl
  unfold Warp.awaits Warp.setAcq Warp.setUnit
  rw [Warp.pokeAll_only]
  dsimp only
  rw [hadd, List.map_map]
  refine List.map_congr_left fun p _ => ?_
  unfold Pending.noted Function.comp
  by_cases hp : (p.id == w.nextPend) = true
  · simp only [hp, if_true]
  · simp only [hp, if_false, Bool.false_eq_true]

end

/-! ## Traps (R163, R329) -/

/-- A handler that can be entered can be entered behind a pending instruction none of whose lanes is away. -/
theorem State.Handles.awaits {s t : State} (h : s.Handles) (hw : t.warp = { s.warp with lease := t.warp.lease })
    (haway : t.laneAway = s.laneAway) (hk : s.laneAway s.warp.uid s.warp.nextPend = false) (dests : List Reg) (ws : List RegWrite)
    (u : MemUnit) (acq : Bool) : State.Handles { t with warp := t.warp.awaits dests ws u acq } := by
  obtain ⟨hvec, hnone, hquiet⟩ := h
  have honly := Warp.awaits_only (w := t.warp) (dests := dests) (ws := ws) (u := u) (acq := acq)
  have hpend := Warp.awaits_pend (w := t.warp) (dests := dests) (ws := ws) (u := u) (acq := acq)
  set x := t.warp.awaits dests ws u acq with hx
  have huid : x.uid = s.warp.uid := by rw [honly, hw]
  have hold : t.warp.pend = s.warp.pend := by rw [hw]
  have hnext : t.warp.nextPend = s.warp.nextPend := by rw [hw]
  refine ⟨by rw [honly, hw]; exact hvec, by rw [honly, hw]; exact hnone, List.all_eq_true.2 fun q hq => ?_⟩
  have hends : ∀ p : Pending, q.id = p.id → q.kind = p.kind →
      State.mustEnd { t with warp := x } x.settle q = s.mustEnd s.warp.settle p := fun p hid hkind => by
    unfold State.mustEnd
    rw [hid, hkind, Warp.settle_uid, Warp.settle_uid, huid, ← haway]
    rfl
  rw [Warp.settle_pend, List.mem_filter, List.all_eq_true] at hq
  obtain ⟨hmem, hleft⟩ := hq
  rw [hpend, hold] at hmem
  obtain ⟨p, hp, rfl⟩ := List.mem_map.1 hmem
  obtain ⟨hid, hkind, -⟩ := p.noted_same t.warp.nextPend u acq
  rw [hends p hid hkind]
  rcases List.mem_append.1 hp with hp | hp
  · refine List.all_eq_true.1 hquiet p ?_
    rw [Warp.settle_pend, List.mem_filter, List.all_eq_true]
    refine ⟨hp, fun r hr => ?_⟩
    obtain ⟨hr, hres⟩ := List.mem_filter.1 hr
    obtain ⟨rid, rkind, -⟩ := r.noted_same t.warp.nextPend u acq
    have hr' : r.noted t.warp.nextPend u acq ∈ x.pend := by
      rw [hpend, hold]
      exact List.mem_map_of_mem (List.mem_append_left _ hr)
    have := hleft _ (List.mem_filter.2 ⟨hr', by rw [rkind]; exact hres⟩)
    rw [hid, rid] at this
    exact this
  · rw [List.mem_singleton.1 hp]
    show (!s.laneAway s.warp.settle.uid t.warp.nextPend) = true
    rw [Warp.settle_uid, hnext, hk]
    rfl

/-- What a trap's record keeps of the lanes, and what it leaves as it was. -/
theorem State.raise_saves {s : State} (h : s.Handles) (r : Raised) : ∃ m, (s.raise r).warp.trap = some m
    ∧ m.lanes = (r.causes.foldl (fun (m : Word32) x => m ||| ((1 : Word32) <<< x.1)) 0) &&& ~~~s.warp.dead
    ∧ m.record.ea = r.ea ∧ m.record.causes = r.causes ∧ (s.raise r).warp.v = s.warp.settle.v ∧ (s.raise r).mem = s.mem := by
  obtain ⟨h1, h2, -, -⟩ := s.warp.settle_other
  have hdead : s.warp.settle.dead = s.warp.dead := by rw [s.warp.settle_only]
  obtain ⟨h0, ht, hq⟩ := h
  rw [ht] at h2
  have hq' : (State.quiet { s with warp := s.warp.settle } s.warp.settle) = true := hq
  unfold State.raise
  dsimp only [State.onWarp]
  rw [if_pos hq']
  unfold State.takeTrap
  dsimp only [State.onWarp]
  rw [if_neg (by simpa [h1, h2] using h0)]
  exact ⟨_, rfl, by rw [← hdead], rfl, rfl, rfl, rfl⟩

/-- A vector register that no result in flight writes keeps its elements when the results are written. -/
theorem Warp.settle_v {r : Fin 64} (w : Warp) (h : ∀ p ∈ w.pend, p.kind = .result → ∀ x ∈ p.writes, x.reg ≠ .v r) :
    w.settle.v[r] = w.v[r] := by
  have hone : ∀ (w : Warp) (p : Pending), (∀ x ∈ p.writes, x.reg ≠ .v r) → (w.complete p).v[r] = w.v[r] := fun w p hp => by
    have hkeep := (Warp.applyAll_keeps p.writes (w.fillAll p.dests)).vector r fun hm => by
      obtain ⟨x, hx, he⟩ := List.mem_map.1 hm
      exact hp x hx he
    have hfill : ∀ (rs : List Reg) (w : Warp), (w.fillAll rs).v = w.v := fun rs => by
      induction rs with
      | nil => exact fun _ => rfl
      | cons q rs ih => exact fun w => (ih (w.setFull q)).trans (by cases q <;> rfl)
    refine hkeep.1.trans ?_
    rw [hfill]
  have hall : ∀ (ps : List Pending) (w : Warp), (∀ p ∈ ps, ∀ x ∈ p.writes, x.reg ≠ .v r) → (ps.foldl Warp.complete w).v[r] = w.v[r] := by
    intro ps
    induction ps with
    | nil => exact fun _ _ => rfl
    | cons p ps ih =>
      exact fun w h => (ih (w.complete p) fun q hq => h q (List.mem_cons_of_mem _ hq)).trans (hone w p (h p List.mem_cons_self))
  refine hall _ w fun p hp => ?_
  obtain ⟨hp, hk⟩ := List.mem_filter.1 hp
  exact h p hp (beq_iff_eq.1 hk)

/-! ## The lanes that failed -/

theorem getLsbD_foldl_lanes {α : Type} (cs : List (Nat × α)) (i : Nat) (hi : i < 32) : ∀ m : Word32,
    (cs.foldl (fun (m : Word32) x => m ||| ((1 : Word32) <<< x.1)) m).getLsbD i = (m.getLsbD i || cs.any (·.1 == i)) := by
  induction cs with
  | nil => intro m; simp
  | cons c cs ih =>
    intro m
    rw [List.foldl_cons, ih, List.any_cons, BitVec.getLsbD_or, Bool.or_assoc]
    congr 2
    have hbit : ((1 : Word32) <<< c.1).getLsbD i = (decide (i < 32) && !decide (i < c.1) && (1#32).getLsbD (i - c.1)) :=
      BitVec.getLsbD_shiftLeft _ _
    rw [hbit, BitVec.getLsbD_one, Bool.eq_iff_iff]
    simp only [Bool.and_eq_true, decide_eq_true_eq, Bool.not_eq_true', decide_eq_false_iff_not, beq_iff_eq]
    omega

theorem failures_keys (cs : List (Fin 32 × LaneCheck)) : ((failures cs).map (·.1)).Sublist (cs.map (·.1.val)) := by
  induction cs with
  | nil => exact .slnil
  | cons c cs ih =>
    obtain ⟨l, c⟩ := c
    cases c with
    | ok ts => exact ih.cons _
    | error e => exact ih.cons_cons _

/-- The lanes that a trap reports are those that failed: none of them is dead. -/
theorem lanes_of_failures {bad : List (Nat × Cause × Word64)} {dead : Word32} (h : ∀ b ∈ bad, b.1 < 32 ∧ dead.getLsbD b.1 = false) :
    ((bad.map fun b => (b.1, b.2.1)).foldl (fun (m : Word32) x => m ||| ((1 : Word32) <<< x.1)) 0) &&& ~~~dead =
      lanesMask (bad.map (·.1)) := by
  refine BitVec.eq_of_getLsbD_eq fun i hi => ?_
  have hmask : (lanesMask (bad.map (·.1))).getLsbD i = (bad.map (·.1)).contains i := getLsbD_maskOf _ ⟨i, hi⟩
  have h0 : (0 : Word32).getLsbD i = false := BitVec.getLsbD_zero
  have hany : (bad.map fun b => (b.1, b.2.1)).any (·.1 == i) = (bad.map (·.1)).contains i := by
    rw [Bool.eq_iff_iff, List.any_eq_true, List.contains_iff_mem, List.mem_map]
    simp
  rw [BitVec.getLsbD_and, BitVec.getLsbD_not, getLsbD_foldl_lanes _ i hi, hmask, h0, hany, Bool.false_or]
  cases hc : (bad.map (·.1)).contains i with
  | false => exact Bool.false_and _
  | true =>
    obtain ⟨b, hb, he⟩ := List.mem_map.1 (List.contains_iff_mem.1 hc)
    rw [← he, (h b hb).2, decide_eq_true (h b hb).1]
    rfl

/-- Of numbered things in rising order, the first that is found has the least number. -/
theorem find?_least {α : Type} {l : List (Nat × α)} (hl : (l.map (·.1)).Pairwise (· < ·)) {f : Nat × α → Bool} {a : Nat × α}
    (h : l.find? f = some a) : ∀ b ∈ l, f b = true → a.1 ≤ b.1 := by
  obtain ⟨hfa, xs, ys, rfl, hxs⟩ := List.find?_eq_some_iff_append.1 h
  intro b hb hfb
  rcases List.mem_append.1 hb with hb | hb
  · have := hxs b hb
    rw [hfb] at this
    cases this
  · rcases List.mem_cons.1 hb with rfl | hb
    · exact le_refl _
    · rw [List.map_append, List.map_cons, List.pairwise_append, List.pairwise_cons] at hl
      exact le_of_lt (hl.2.1.1 b.1 (List.mem_map_of_mem hb))

section
variable {s s' : State} {j : Job} {release : Bool} {cs : List (Fin 32 × LaneCheck)}

theorem State.Lets.failures_rising (h : s.Lets j release s' cs) : ((failures cs).map (·.1)).Pairwise (· < ·) := by
  refine List.Pairwise.sublist (failures_keys cs) ?_
  have hmap : cs.map (·.1.val) = (lanesOf s.warp.active).map Fin.val := by
    rw [← h.keys, List.map_map]
    rfl
  rw [hmap, lanesOf_val]
  exact List.pairwise_lt_range.filter _

/-- A lane that fails is live. -/
theorem State.Lets.failures_live (h : s.Lets j release s' cs) : ∀ b ∈ failures cs, b.1 < 32 ∧ s.warp.dead.getLsbD b.1 = false := by
  intro b hb
  have hkey : b.1 ∈ (lanesOf s.warp.active).map Fin.val := by
    rw [← h.keys, List.map_map]
    exact (failures_keys cs).subset (List.mem_map_of_mem hb)
  obtain ⟨l, hl, he⟩ := List.mem_map.1 hkey
  rw [← he]
  refine ⟨l.isLt, ?_⟩
  have hbit := inMask_of_mem_lanesOf hl
  unfold inMask Warp.active at hbit
  rw [BitVec.getLsbD_and, BitVec.getLsbD_not] at hbit
  simp at hbit
  exact hbit.2

end

/-! ## Units that end with failing lanes -/

section
variable {s t : State} {val : Fin 32 → List Target → List Word32} {cs : List (Fin 32 × LaneCheck)}

/-- A unit that some of whose lanes await a fault's end. -/
def State.afterLanes (t : State) (dests : List Reg) (ws : List RegWrite) (u : MemUnit) (acq : Bool) : State :=
  { t with warp := t.warp.awaits dests ws u acq }

/-- Before its fault is reported, a unit leaves a pending instruction, with the elements of its other lanes. -/
theorem State.endUnit_failing {bad : List (Nat × Cause × Word64)} (hbad : bad ≠ []) (j : Job) (dests : List Reg) (u : MemUnit)
    (acq : Bool) : t.endUnit j dests u 0 bad (doneOf val cs) t.warp.nextPend acq =
      let x := t.afterLanes dests (j.writes (doneOf val cs)) u acq
      if bad.all fun b => b.2.1 == .pagefault then (x.logLanes j bad u t.warp.nextPend).advance
      else x.raise (x.laneRaised bad u t.warp.nextPend) := by
  have hempty : bad.isEmpty = false := List.isEmpty_eq_false_iff.2 hbad
  unfold State.endUnit
  dsimp only
  rw [isAway_doneOf, awayWrites_doneOf, killedLanes_doneOf, hempty]
  rfl

/-- The elements that the lanes of a unit have read stand in its registers. -/
theorem Warp.awaits_value {j : Job} {ds : List (Fin 32 × LaneDone)} (hn : ((j.writes ds).map RegWrite.reg).Nodup) (w : Warp)
    (dests : List Reg) (u : MemUnit) (acq : Bool) {q : Nat} (hq : q < j.width) (l : Fin 32) :
    (w.awaits dests (j.writes ds) u acq).v[Fin.ofNat 64 (j.base + q)][l] =
      if inMask (doneLanes ds) l then doneVal ds q l else w.v[Fin.ofNat 64 (j.base + q)][l] := by
  have hw : RegWrite.v (Fin.ofNat 64 (j.base + q)) (doneLanes ds) (lanes32 (doneVal ds q)) ∈ j.writes ds :=
    List.mem_map.2 ⟨q, List.mem_range.2 hq, rfl⟩
  rw [Warp.awaits_v, Warp.pokeAll_value _ _ hn hw, Warp.addPend_v]
  simp [lanes32]

end

end Sys2Proof.Machine
end

section
/-! Obligation O28, its units: what the lanes of a load or store have done when others fail (R161, R163). -/

set_option Elab.async false

namespace Sys2Proof.Machine

/-! ## Lanes performed beside failing ones -/

section
variable {s s' r : State} {nt : Bool} {t a b : Fin 64} {z : Fin 8} {p : Fin 4} {release : Bool} {cs : List (Fin 32 × LaneCheck)}
  {ring : Nat → Prop}

/-- A lane has passed where it has places. -/
theorem State.Lets.passed_iff {st : Bool} (h : s.Lets (mJob st nt t a b z p s.warp s.warp.frag.hints) release s' cs) (l : Fin 32) :
    (∃ ts, (l, .ok ts) ∈ cs) ↔ placesOf cs l ≠ [] := by
  constructor
  · rintro ⟨ts, hts⟩ he
    have hsize := (h.sizes hts).trans (mJob_sizes st nt t a b z p _ _ l)
    rw [placesOf_ok h.nodup hts] at he
    rw [he] at hsize
    cases hsize
  · intro hne
    by_cases hl : l ∈ cs.map (·.1)
    · obtain ⟨⟨l', c⟩, hc, rfl⟩ := List.mem_map.1 hl
      cases c with
      | ok ts => exact ⟨ts, hc⟩
      | error e => exact absurd (placesOf_error h.nodup hc) hne
    · exact absurd (placesOf_absent hl) hne

/-- The registers of a unit's destination, after the lanes that passed. -/
def LoadedTo (s r : State) (j : Job) (ds : List (Fin 32 × LaneDone)) : Prop :=
  ∀ q < j.width, ∀ l : Fin 32, r.warp.v[Fin.ofNat 64 (j.base + q)][l] =
    if inMask (doneLanes ds) l then doneVal ds q l else s.warp.v[Fin.ofNat 64 (j.base + q)][l]

/-- What the lanes of a load read. -/
def Job.reads (j : Job) (sz : Nat) (m : Memory) (l : Fin 32) (ts : List Target) : List Word32 :=
  j.loaded l sz (ts.flatMap fun g => m.readBytes g.loc g.n)

theorem performed_load (h : s.Lets (mJob false nt t a b z p s.warp s.warp.frag.hints) release s' cs)
    (hm : ∀ x, ¬ ring x → r.mem.read x = s.mem.read x)
    (hv : LoadedTo s r (mJob false nt t a b z p s.warp s.warp.frag.hints)
      (doneOf ((mJob false nt t a b z p s.warp s.warp.frag.hints).reads z.val s.mem) cs)) :
    Performed s r (mJob false nt t a b z p s.warp s.warp.frag.hints) s.warp.active cs ring := by
  have hkind : ∀ sz, (mJob false nt t a b z p s.warp s.warp.frag.hints).kind ≠ .store sz :=
    fun sz hk => by
      have hk' : JobKind.load z.val = .store sz := hk
      cases hk'
  refine ⟨?_, fun sz hk => absurd hk (hkind sz), fun sz hk => absurd hk (hkind sz)⟩
  intro sz hk
  have hsz : JobKind.load z.val = .load sz := hk
  cases hsz
  refine ⟨hm, fun q hq l => (hv q hq l).trans ?_⟩
  by_cases hl : placesOf cs l = []
  · have hout : ¬ inMask (doneLanes (doneOf ((mJob false nt t a b z p s.warp s.warp.frag.hints).reads z.val s.mem) cs)) l = true :=
      fun hin => (h.passed_iff l).1 (inMask_doneLanes.1 hin) hl
    rw [if_neg hout, if_pos hl]
  · obtain ⟨ts, hts⟩ := (h.passed_iff l).2 hl
    rw [if_pos (inMask_doneLanes.2 ⟨ts, hts⟩), if_neg hl, doneVal_doneOf h.nodup hts, placesOf_ok h.nodup hts]
    exact Job.getD_loaded _ l hq _

/-- What a lane of a store makes of memory. -/
def Job.effect (j : Job) (sz : Nat) (l : Fin 32) (ts : List Target) (m : Memory) : Memory :=
  if subBits sz = 0 then m.writeAll (j.storesAt l 0 ts)
  else ts.foldl (fun m g => m.writeBits g.loc (j.bits[l]).toNat (subBits sz) ((j.data[l]).toNat % 2 ^ subBits sz)) m

theorem Job.effect_bytes (j : Job) {sz : Nat} (h : subBits sz = 0) :
    j.effect sz = fun l ts m => m.writeAll (j.storesAt l 0 ts) := by
  unfold Job.effect
  simp only [h, if_true]

theorem Job.effect_bits (j : Job) {sz : Nat} (h : subBits sz ≠ 0) : j.effect sz = fun l ts m => ts.foldl (fun m g =>
    m.writeBits g.loc (j.bits[l]).toNat (subBits sz) ((j.data[l]).toNat % 2 ^ subBits sz)) m := by
  unfold Job.effect
  simp only [h, if_false]

theorem Job.effect_wf (j : Job) (sz : Nat) (l : Fin 32) (ts : List Target) {m : Memory} (h : m.wf) : (j.effect sz l ts m).wf := by
  unfold Job.effect
  split
  · exact (Memory.read_writeAll _ h).1
  · exact List.foldlRecOn (motive := Memory.wf) ts _ h fun m hm g _ => Memory.wf_writeBytes _ hm _

/-- A lane of a sub-byte store replaces its bits of its byte. -/
theorem State.Lets.effect_read (h : s.Lets (mJob true nt t a b z p s.warp s.warp.frag.hints) release s' cs)
    (hsub : subBits z.val ≠ 0) {m : Memory} (hm : m.wf) (l : Fin 32) (x : Nat) :
    let j := mJob true nt t a b z p s.warp s.warp.frag.hints
    let o := (j.bits[l]).toNat
    let n := subBits z.val
    ((j.effect z.val l (placesOf cs l) m).read x).toNat = if (placesOf cs l).any (·.loc == x) then
      (m.read x).toNat / 2 ^ (o + n) * 2 ^ (o + n) + (j.data[l]).toNat % 2 ^ n * 2 ^ o + (m.read x).toNat % 2 ^ o
      else (m.read x).toNat := by
  intro j o n
  rw [Job.effect_bits _ hsub]
  by_cases hl : placesOf cs l = []
  · rw [hl]
    rfl
  · obtain ⟨ts, hts⟩ := (h.passed_iff l).2 hl
    obtain ⟨g, rfl, -⟩ := eq_singleton_of_sizes ((h.sizes hts).trans (mJob_sizes true nt t a b z p _ _ l))
    rw [placesOf_ok h.nodup hts]
    have hread := (Memory.read_writeBits hm g.loc ((j.data[l]).toNat % 2 ^ n)
      (mJob_bits_le true nt t a b z p s.warp s.warp.frag.hints l hsub) x).2
    rw [Nat.mod_mod] at hread
    refine hread.trans ?_
    simp only [List.any_cons, List.any_nil, Bool.or_false, beq_iff_eq]
    rfl

theorem performed_store (h : s.Lets (mJob true nt t a b z p s.warp s.warp.frag.hints) release s' cs) (hwf : s.mem.wf)
    (hm : ∀ x, ¬ ring x → r.mem.read x =
      (actsOf ((mJob true nt t a b z p s.warp s.warp.frag.hints).effect z.val) s.mem cs).read x) :
    Performed s r (mJob true nt t a b z p s.warp s.warp.frag.hints) s.warp.active cs ring := by
  set j := mJob true nt t a b z p s.warp s.warp.frag.hints with hj
  have hnone : ∀ l m, j.effect z.val l [] m = m := fun l m => by
    unfold Job.effect
    split <;> rfl
  have hkind : ∀ {sz}, j.kind = .store sz → z.val = sz := fun hk => by
    have hk' : JobKind.store z.val = .store _ := hk
    cases hk'
    rfl
  rw [actsOf_eq h.nodup hnone, h.keys] at hm
  refine ⟨fun sz hk => ?_, fun sz hk hsub x hx => ?_, fun sz hk hsub x hx => ?_⟩
  · have hk' : JobKind.store z.val = .load sz := hk
    cases hk'
  · cases hkind hk
    rw [hm x hx, Job.effect_bytes _ hsub]
    exact read_lanes hwf rfl (fun _ _ => rfl) x
  · cases hkind hk
    rw [hm x hx]
    refine Memory.foldl_read _ hwf fun m hm l _ => ⟨Job.effect_wf _ _ _ _ hm, ?_⟩
    exact h.effect_read hsub hm l x

/-- The lanes of a unit of format M that pass do what is said of lanes performed. -/
theorem State.Lets.performs {st : Bool} (h : s.Lets (mJob st nt t a b z p s.warp s.warp.frag.hints) release s' cs)
    (hwf : s.mem.wf) (hpoison : ∀ g ∈ passed cs, s.poisoned g.loc g.n = false) :
    let j := mJob st nt t a b z p s.warp s.warp.frag.hints
    ∃ (val : Fin 32 → List Target → List Word32) (m : Memory), m.wf
      ∧ (∀ u : State, (∀ g ∈ passed cs, u.Clear g) → u.mem = s.mem → u.poison = s.poison →
          ∃ t, u.runLanes s.warp.agent j s.warp.nextPend cs = (t, doneOf val cs) ∧ u.Acts t m)
      ∧ ∀ (r : State) (ring : Nat → Prop), (∀ x, ¬ ring x → r.mem.read x = m.read x) → LoadedTo s r j (doneOf val cs) →
          Performed s r j s.warp.active cs ring := by
  intro j
  cases st with
  | false =>
    refine ⟨j.reads z.val s.mem, s.mem, hwf, fun u hc hmem hpo => ?_, fun r ring hm hv => performed_load h hm hv⟩
    obtain ⟨t, ht, hacts⟩ := State.runLanes_load (a := s.warp.agent) (j := j) rfl s.warp.nextPend hc
      fun g hg => by unfold State.poisoned; rw [hpo]; exact hpoison g hg
    rw [hmem] at ht hacts
    exact ⟨t, ht, hacts⟩
  | true =>
    refine ⟨fun _ _ => [], actsOf (j.effect z.val) s.mem cs, ?_, fun u hc hmem _ => ?_, fun r ring hm _ => performed_store h hwf hm⟩
    · refine List.foldlRecOn (motive := Memory.wf) cs _ hwf fun m hm c _ => ?_
      split
      · exact Job.effect_wf _ _ _ _ hm
      · exact hm
    · rw [← hmem]
      by_cases hsub : subBits z.val = 0
      · rw [Job.effect_bytes _ hsub]
        exact State.runLanes_store rfl hsub _ hc
      · rw [Job.effect_bits _ hsub]
        refine State.runLanes_storeBits rfl hsub _ hc fun l ts hl => ?_
        obtain ⟨g, hts, hg⟩ := eq_singleton_of_sizes ((h.sizes hl).trans (mJob_sizes true nt _ _ _ _ _ _ _ l))
        exact ⟨g, hts, by rw [hg]; exact sizeBytes_pos _⟩

end

end Sys2Proof.Machine
end

section
/-! Obligation O28: the trap and the log entry of the lanes that fail, and the stack's checks (R149, R161, R163). -/

set_option Elab.async false

namespace Sys2Proof.Machine

/-! ## The unit's end -/

section
variable {s t : State} {bad : List (Nat × Cause × Word64)} {dests : List Reg} {ws : List RegWrite} {u : MemUnit} {acq : Bool}
  {k : Nat} {j : Job}

theorem State.Served.afterLanes_keeps (h : s.Served t) : (t.afterLanes dests ws u acq).warp.frag = s.warp.frag
    ∧ (t.afterLanes dests ws u acq).warp.dead = s.warp.dead ∧ (t.afterLanes dests ws u acq).warp.log = s.warp.log
    ∧ (t.afterLanes dests ws u acq).warp.trap = s.warp.trap := by
  have honly : (t.afterLanes dests ws u acq).warp = _ := Warp.awaits_only
  rw [honly, h.warp]
  exact ⟨rfl, rfl, rfl, rfl⟩

/-- What no result in flight writes, none writes beside the lanes that await. -/
theorem State.Served.unclaimed {ds : List Reg} (h : s.Served t) (hu : s.warp.Unclaimed ds) :
    (t.afterLanes dests ws u acq).warp.Unclaimed ds := by
  have hpend : t.warp.pend = s.warp.pend := by rw [h.warp]
  intro p hp x hx
  have hp' : p ∈ (t.warp.awaits dests ws u acq).pend := hp
  rw [Warp.awaits_pend, hpend] at hp'
  obtain ⟨q, hq, rfl⟩ := List.mem_map.1 hp'
  rw [(q.noted_same t.warp.nextPend u acq).2.2] at hx
  rcases List.mem_append.1 hq with hq | hq
  · exact hu q hq x hx
  · rw [List.mem_singleton.1 hq] at hx
    cases hx

/-- The fault of the lanes that failed names the lowest whose page is not missing (R163). -/
theorem ofLanes_cause (r : Raised) (hrise : (bad.map (·.1)).Pairwise (· < ·)) (hc : ∃ f ∈ bad, f.2.1 ≠ .pagefault) :
    ∃ l c ea, (l, c, ea) ∈ bad ∧ c ≠ .pagefault ∧ (∀ b ∈ bad, b.2.1 ≠ .pagefault → l ≤ b.1) ∧ (r.ofLanes bad).cause = c := by
  obtain ⟨f, hf, hne⟩ := hc
  cases hfind : bad.find? fun b => b.2.1 != .pagefault with
  | none => exact absurd (List.find?_eq_none.1 hfind f hf) (by simpa using hne)
  | some b =>
    obtain ⟨l, c, ea⟩ := b
    refine ⟨l, c, ea, List.mem_of_find?_eq_some hfind, by simpa using List.find?_some hfind,
      fun b hb hne => find?_least hrise hfind b hb (by simpa using hne), ?_⟩
    unfold Raised.ofLanes
    dsimp only
    rw [hfind]
    rfl

/-- Lanes that fail, not all at missing pages, trap together. -/
theorem State.Served.lanesTrapped (h : s.Served t) (hx : (t.afterLanes dests ws u acq).Handles)
    (hrise : (bad.map (·.1)).Pairwise (· < ·)) (hlive : ∀ b ∈ bad, b.1 < 32 ∧ s.warp.dead.getLsbD b.1 = false)
    (hc : ∃ f ∈ bad, f.2.1 ≠ .pagefault) :
    LanesTrapped s ((t.afterLanes dests ws u acq).raise ((t.afterLanes dests ws u acq).laneRaised bad u k)) bad := by
  obtain ⟨hfrag, hdead, -, -⟩ := h.afterLanes_keeps (dests := dests) (ws := ws) (u := u) (acq := acq)
  set x := t.afterLanes dests ws u acq
  have hin := (State.raise_inTrap hx (r := x.laneRaised bad u k) rfl).1
  obtain ⟨m, hm, hlanes, hea, hcauses, -, -⟩ := State.raise_saves hx (x.laneRaised bad u k)
  obtain ⟨l, c, ea, hmem, hne, hleast, hcause⟩ := ofLanes_cause
    { cause := .pagefault, pc := x.warp.frag.pc, entry := x.warp.frag.entry, lanes := 0
      rpc := x.warp.frag.fetch + 4, unit := some u, pend := some k } hrise hc
  refine ⟨⟨l, c, ea, hmem, hne, hleast, ?_⟩, m, hm, ?_, hea, hcauses⟩
  · have hc' : (x.laneRaised bad u k).cause = c := hcause
    rw [hc'] at hin
    unfold State.next
    rw [← hfrag]
    exact hin
  · rw [hlanes, hdead]
    exact lanes_of_failures hlive

/-! ## The operand log -/

/-- A record changes at most the bytes that the ring has for it. -/
theorem State.post_read {s : State} (h : s.mem.wf) (r : FaultRecord) {x : Nat} (hx : ¬ s.nextRecord x) :
    (s.post r).mem.read x = s.mem.read x := by
  unfold State.post
  dsimp only
  split
  · rfl
  · next hsize =>
    split
    · rfl
    · dsimp only
      rw [State.poke_mem, Memory.read_writeBytes_other _ _ h _ _ ?_]
      rw [r.length_bytes]
      by_contra hin
      rw [not_or, not_lt, not_le] at hin
      exact hx ⟨hsize, hin⟩

theorem State.logLanes_read {s : State} (h : s.mem.wf) {x : Nat} (hx : ¬ s.nextRecord x) :
    (s.logLanes j bad u k).mem.read x = s.mem.read x := State.post_read h _ hx

theorem State.logLanes_warp (s : State) : ∃ e : LogEntry, (s.logLanes j bad u k).warp = { s.warp with log := s.warp.log ++ [e] }
    ∧ e.tag = s.nextTag ∧ e.pc = s.warp.frag.pc ∧ e.job = j ∧ e.lanes = lanesMask (bad.map (·.1)) ∧ e.pend = k
    ∧ e.answer = none := by
  refine ⟨{ tag := s.nextTag, pc := s.warp.frag.pc, unit := u, entry := s.warp.frag.entry,
            lanes := lanesMask (bad.map (·.1)), eas := bad.map fun b => (b.1, b.2.2), job := j, pend := k, answer := none },
    ?_, rfl, rfl, rfl, rfl, rfl, rfl⟩
  unfold State.logLanes
  dsimp only [State.onWarp]
  rw [State.postTagged_warp]

/-- Lanes that all fail at missing pages enter the operand log, and the unit goes on. -/
theorem State.Served.lanesLogged (h : s.Served t) (hd : ∀ d ∈ dests, ∃ r, d = .v r) (hk : k = s.warp.nextPend) :
    LanesLogged s ((t.afterLanes dests ws u acq).logLanes j bad u k).advance bad j dests := by
  obtain ⟨hfrag, -, hlog, htrap⟩ := h.afterLanes_keeps (dests := dests) (ws := ws) (u := u) (acq := acq)
  have htag : (t.afterLanes dests ws u acq).nextTag = s.nextTag := by
    show t.nextTag = _
    rw [h.world]
  have hempty : ∀ d ∈ dests, (t.afterLanes dests ws u acq).warp.full d = false := fun d hm => by
    obtain ⟨r, rfl⟩ := hd d hm
    exact Warp.awaits_empty hm
  set x := t.afterLanes dests ws u acq
  obtain ⟨e, hwarp, etag, epc, ejob, elanes, epend, eanswer⟩ := x.logLanes_warp (j := j) (bad := bad) (u := u) (k := k)
  refine ⟨⟨e, ?_, etag.trans htag, epc.trans (congrArg Fragment.pc hfrag), ejob, elanes, epend.trans hk, eanswer⟩, ?_,
    fun d hm => ?_, ?_, ?_⟩
  · rw [State.advance_warp, hwarp, ← hlog]
    rfl
  · exact congrArg (· + 1) htag
  · rw [State.advance_warp, hwarp]
    exact hempty d hm
  · rw [State.advance_warp, hwarp, State.next, ← hfrag]
    rfl
  · rw [State.advance_warp, hwarp]
    exact htrap

end

/-! ## Units of format M some of whose lanes fail -/

section
variable {s s' : State} {st nt : Bool} {t a b : Fin 64} {z : Fin 8} {p : Fin 4} {release acq : Bool}
  {cs : List (Fin 32 × LaneCheck)} {dests : List Reg} {op : MemOp} {poison : Word32}

theorem mJob_writes_nodup (w : Warp) (h : Hints) (ds : List (Fin 32 × LaneDone)) :
    (((mJob st nt t a b z p w h).writes ds).map RegWrite.reg).Nodup := by
  cases st with
  | false =>
    rw [Job.writes_regs (sz := z.val) (t := t) rfl rfl]
    exact group_nodup t ((groupSize_le _).trans (by decide))
  | true => exact List.nodup_nil

/-- The destinations of a unit of format M are vector registers, those that it writes among them. -/
theorem mJob_dests_vectors (h : dests = if st then [] else group t (groupSize z.val)) : ∀ d ∈ dests, ∃ r, d = .v r := by
  rw [h]
  intro d hd
  split at hd
  · cases hd
  · obtain ⟨i, -, rfl⟩ := List.mem_map.1 hd
    exact ⟨_, rfl⟩

theorem mJob_width_mem (h : dests = if st then [] else group t (groupSize z.val)) (w : Warp) (hs : Hints) :
    ∀ q < (mJob st nt t a b z p w hs).width, Reg.v (Fin.ofNat 64 ((mJob st nt t a b z p w hs).base + q)) ∈ dests := by
  rw [h]
  cases st with
  | false => exact fun q hq => List.mem_map.2 ⟨q, List.mem_range.2 hq, rfl⟩
  | true => exact fun q hq => absurd hq (Nat.not_lt_zero q)

/-- A unit of format M some of whose lanes fail: what has failed is reported, the other lanes have been performed. -/
theorem State.memUnit_fails (h : s.Lets (mJob st nt t a b z p s.warp s.warp.frag.hints) release s' cs) (hwf : s.mem.wf)
    (hpoison : ∀ g ∈ passed cs, s.poisoned g.loc g.n = false) (hbad : failures cs ≠ []) (hp : poison &&& s.warp.active = 0)
    (hdests : dests = if st then [] else group t (groupSize z.val)) :
    let j := mJob st nt t a b z p s.warp s.warp.frag.hints
    let r := s.memUnit j dests op poison release acq
    ((∃ f ∈ failures cs, f.2.1 ≠ .pagefault) → s.Handles → s.laneAway s.warp.uid s.warp.nextPend = false →
        LanesTrapped s r (failures cs) ∧ (s.warp.Unclaimed dests → Performed s r j s.warp.active cs))
      ∧ ((∀ f ∈ failures cs, f.2.1 = .pagefault) →
          LanesLogged s r (failures cs) j dests ∧ Performed s r j s.warp.active cs s.nextRecord) := by
  intro j r
  obtain ⟨val, m, hm, hrun, hperf⟩ := h.performs hwf hpoison
  obtain ⟨e, hr, hserved, -, hmem⟩ := State.memUnit_served h dests op hp acq hrun
  have hnext : e.warp.nextPend = s.warp.nextPend := by rw [hserved.warp]
  have hv0 : e.warp.v = s.warp.v := by rw [hserved.warp]
  rw [← hnext, State.endUnit_failing hbad] at hr
  set u : MemUnit := { op := op, hints := s.warp.frag.hints }
  set x := e.afterLanes dests (j.writes (doneOf val cs)) u acq
  have hr' : r = if (failures cs).all (fun b => b.2.1 == .pagefault) then
      (x.logLanes j (failures cs) u e.warp.nextPend).advance
    else x.raise (x.laneRaised (failures cs) u e.warp.nextPend) := hr
  have hcover := mJob_width_mem (nt := nt) (a := a) (b := b) (p := p) hdests s.warp s.warp.frag.hints
  have hloaded : LoadedTo s x j (doneOf val cs) := fun q hq l => by
    rw [← hv0]
    exact Warp.awaits_value (mJob_writes_nodup _ _ _) e.warp dests u acq hq l
  refine ⟨fun hc hh haway => ?_, fun hall => ?_⟩
  · have hnot : ¬ ((failures cs).all fun b => b.2.1 == .pagefault) = true := fun hall => by
      obtain ⟨f, hf, hne⟩ := hc
      exact hne (beq_iff_eq.1 (List.all_eq_true.1 hall f hf))
    rw [if_neg hnot] at hr'
    have hhx : x.Handles := hh.awaits hserved.warp (by rw [hserved.world]; rfl) haway _ _ _ _
    obtain ⟨-, -, -, -, -, hv, hrm⟩ := State.raise_saves hhx (x.laneRaised (failures cs) u e.warp.nextPend)
    refine ⟨hr' ▸ hserved.lanesTrapped hhx h.failures_rising h.failures_live hc, fun hun => hperf r _ (fun y _ => ?_)
      fun q hq l => ?_⟩
    · exact congrArg (Memory.read · y) ((congrArg State.mem hr').trans (hrm.trans hmem))
    · have hclaim : x.warp.Unclaimed dests := hserved.unclaimed hun
      have hsettle := Warp.settle_v _ fun p hp _ y hy he => hclaim p hp y hy (he ▸ hcover q hq)
      rw [hr', hv, hsettle]
      exact hloaded q hq l
  · rw [if_pos (List.all_eq_true.2 fun f hf => beq_iff_eq.2 (hall f hf))] at hr'
    refine ⟨hr' ▸ hserved.lanesLogged (mJob_dests_vectors hdests) hnext, hperf r _ (fun y hy => ?_) fun q hq l => ?_⟩
    · have hy' : ¬ x.nextRecord y := by
        have hbox : e.mailbox = s.mailbox := by rw [hserved.world]
        unfold State.nextRecord at hy ⊢
        rw [← hbox] at hy
        exact hy
      rw [hr', State.advance_mem, State.logLanes_read (hmem ▸ hm) hy', ← hmem]
      rfl
    · obtain ⟨_, hwarp, -⟩ := x.logLanes_warp (j := j) (bad := failures cs) (u := u) (k := e.warp.nextPend)
      rw [hr', State.advance_warp, hwarp]
      exact hloaded q hq l

end

/-! ## The obligation -/

/-- The checks of the stack at the issue of a stack access (R149). -/
theorem stackCheck_align {w : Warp} {base : Word64} (h : base.toNat % 128 ≠ 0) (imm : Int) (n : Nat) :
    w.stackCheck base imm n = some .align := if_pos h

theorem stackCheck_stkovf {s : State} {n : Nat} {i : BitVec 10} (hal : (s.warp.readS 62).toNat % 128 = 0) (h : ¬ InStack s n i) :
    s.warp.stackCheck (s.warp.readS 62) (s.warp.frag.hints.imm i).toInt n = some .stkovf := by
  unfold Warp.stackCheck
  rw [if_neg (not_not.2 hal), if_pos]
  by_contra hno
  rw [not_or, not_lt, not_lt] at hno
  refine h ⟨hal, ?_⟩
  rw [State.immediate_toInt]
  exact hno

/-- A stack access that the stack's checks turn away. -/
theorem StackAccess.traps {s : State} {st x : Bool} {t : Fin 64} {i : BitVec 10} {e : Access × Nat} {c : Cause}
    (h : StackAccess s st t i x e) (hh : s.Handles) (hr : s.Ready e.1.need)
    (hc : s.warp.stackCheck (s.warp.readS 62) (s.warp.frag.hints.imm i).toInt e.2 = some c) : Traps s (Machine.exec e.1.i s) c := by
  obtain ⟨op, hexec⟩ := h.issues hr
  rw [hc] at hexec
  exact ⟨_, hexec, State.trap_trapped hh c 0⟩

theorem moves_exec {t a b : Fin 64} {z : Fin 8} {p : Fin 4} {x : Bool} : ∀ u ∈ loadsOf t a b z p x ++ storesOf t a b z p x,
    ∃ st nt op acq, (u.need.dests = if st then [] else group t (groupSize z.val)) ∧ u.job = mJob st nt t a b z p
      ∧ ∀ s, exec u.i s = accessUnit u.need u.job u.vs op u.rel acq s := by
  intro u hu
  rcases List.mem_append.1 hu with hu | hu
  · obtain ⟨nt, op, acq, h⟩ := loadsOf_exec u hu
    exact ⟨false, nt, op, acq, h⟩
  · obtain ⟨nt, op, h⟩ := storesOf_exec u hu
    exact ⟨true, nt, op, false, h⟩

/-- Settles O28: the lanes of loads and stores that fail, then the stack's checks. -/
theorem laneFaults : Obligations.LaneFaults := by
  unfold Obligations.LaneFaults
  refine ⟨fun t a b z p x u hu s s' cs hruns hm hbad hpoison => ?_, fun s t i x hh e he hr => ?_⟩
  · obtain ⟨st, nt, op, acq, hdests, hjob, hexec⟩ := moves_exec u hu
    obtain ⟨-, hready, hregs, hlets⟩ := hruns
    have hj : u.job s.warp s.warp.frag.hints = mJob st nt t a b z p s.warp s.warp.frag.hints := by rw [hjob]
    rw [hj] at hlets ⊢
    refine ⟨_, (hexec s).trans ((accessUnit_ready hready _ _ _ _ _).trans (congrArg Host.Outcome.next (by rw [hj]))), ?_⟩
    exact State.memUnit_fails hlets hm hpoison hbad hregs hdests
  · have hstack : ∃ st, StackAccess s st t i x e := by
      rcases List.mem_append.1 he with he | he
      · exact ⟨_, stackLoads_access s t i x e he⟩
      · exact ⟨_, stackStores_access s t i x e he⟩
    obtain ⟨st, hstack⟩ := hstack
    exact ⟨fun hal => hstack.traps hh hr (stackCheck_align hal _ _), fun hal hout => hstack.traps hh hr (stackCheck_stkovf hal hout)⟩

end Sys2Proof.Machine
end
